-- ==== Sys2Proof/Word.lean ====
section
/-! DEFINITION. The word types of the DX6 model and the sparse table type that its state is built of. -/

namespace Sys2Proof

/-- One byte. -/
abbrev Byte := BitVec 8

/-- A 32-bit register. -/
abbrev W32 := BitVec 32

/-- A 64-bit register. -/
abbrev W64 := BitVec 64

/-- Bytes by address: strictly rising addresses, no entry equal to zero (see `Machine.Mem.wf`). -/
abbrev Mem := List (Nat × Byte)

/-- A sparse table of records by number; a number that is not listed stands for a default its reader names. -/
abbrev Table (α : Type) := List (Nat × α)

end Sys2Proof
end

