-- ==== Sys2Proof/Syntax.lean ====
section
/-! DEFINITION. The commands of the DX6 block: one constructor of `Instr` per row of spec/opcode_table.json, and the
records their operands are made of. A command is either something an outside party does (a register write, a KCI or NVMe
command, a pin or rail event, a received flit) or a step the drive takes on its own (a pass pick, a NAND operation ending);
what the spec leaves to the outside world in that step (a measured slack, a decode outcome) is an operand. -/

namespace Sys2Proof

/-- The common part of a KCI submission entry (Table 15-1), the context and queue that carry it, and whether a host
access made for it failed (`dmaFault`, the host address of Table 14-7, class HOST_DMA). -/
structure Entry where
  ctx : Nat
  queue : Nat
  cid : Nat
  fence : Bool
  wait : Bool
  signal : Bool
  waitEvent : Nat
  signalEvent : Nat
  threshold : Nat
  incr : Nat
  dmaFault : Option Nat
  deriving DecidableEq, Repr

/-- One entry of a RUN's argument block (Table 15-6). -/
structure ArgEntry where
  slot : Nat
  handle : Nat
  gathered : Bool
  rows : Nat
  offset : Nat
  length : Nat
  deriving DecidableEq, Repr

/-- One filter term of a SEARCH (R218): operation 0-5, group 0 AND or 1 OR, low bit, width, constant. -/
structure FilterTerm where
  op : Nat
  group : Nat
  low : Nat
  width : Nat
  const : W64
  deriving DecidableEq, Repr

/-- An interface slot descriptor (Table 15-10). -/
structure SlotDesc where
  slot : Nat
  role : Nat
  fmt : Nat
  group : Nat
  sr : Bool
  calibrated : Bool
  mayGather : Bool
  kvfmt : Nat
  rowLen : Nat
  cols : Nat
  calibOff : Nat
  deriving DecidableEq, Repr

/-- Stage E4 of the epilogue (Table 5-5). -/
inductive ActFn where
  | relu | gelu | silu | tanh
  deriving DecidableEq, Repr

/-- One pass of a tile as the program's code orders it: its weight-change mode (R83) and the first reduction index of its
weight block. The drive expands it into BF16 slice passes (R108) and split halves (R112). -/
structure PassPlan where
  shadow : Bool
  k0 : Nat
  deriving DecidableEq, Repr

/-- One output tile of a RUN, as the program's code section lays out the work. The code is outside the contract (R3), so
its plan arrives with the command; `none` as a source or destination slot is the chain buffer (R122), whose tensor
`chain` describes. `arr` counts the arrays of the partition set, An first and then A(n+8). -/
structure TilePlan where
  actSlot : Option Nat
  wSlot : Nat
  outSlot : Option Nat
  chain : SlotDesc
  arr : Nat
  row0 : Nat
  rows : Nat
  col0 : Nat
  cols : Nat
  reduction : Nat
  passes : List PassPlan
  actScale : W32
  wScale : W32
  outScale : W32
  bias : Option Nat
  act : Option ActFn
  residual : Option Nat
  resScale : W32
  deriving DecidableEq, Repr

/-- One error of a pass: the applied update less the defined update at a row and a column (R133). -/
structure PassError where
  row : Nat
  col : Nat
  delta : Int
  deriving DecidableEq, Repr

/-- What a NAND operation does (R242). -/
inductive NandKind where
  | read | program | erase | plan
  deriving DecidableEq, Repr

/-- An operation due at a NAND die: its place in the order of R247 (`pri` 1 foreground read, 2 foreground program,
3 speculative read, 4 background), what it does and where, the cache or T2 items that a program carries, the device time
it has waited since, the KCI command that it serves, and the namespace and logical block that it reads for the host. -/
structure NandReq where
  pri : Nat
  kind : NandKind
  block : Nat
  page : Nat
  items : List Nat
  since : Nat
  uid : Option Nat
  lba : Option (Nat × Nat)
  deriving DecidableEq, Repr

/-- What the raw stream shows of one codeword (R237-R239): bit offsets from the predicted start at which the mark matches
within 3 bits, offsets at which a decode reaches a zero syndrome with a good CRC, corrected bits of the decode, and whether
kind, logical address and index are the expected ones. -/
structure CwRead where
  marks : List Int
  decodes : List Int
  corrected : Nat
  expected : Bool
  deriving DecidableEq, Repr

/-- The kinds of program-store operations (R262). -/
inductive StoreKind where
  | powerFail
  | journal
  | loaderRead
  | timeRecord
  | lacunaCopy
  | ledgerRecord
  | errorRecords
  | bootWrite
  | install (uid : Nat)
  | erase (sector : Nat)
  deriving DecidableEq, Repr

/-- A program-store operation that is due. -/
structure StoreOp where
  kind : StoreKind
  deriving DecidableEq, Repr

/-- The common part of an NVMe command: function, submission queue (0 is the admin queue), command identifier, NSID. -/
structure NvmeHdr where
  fn : Nat
  sqid : Nat
  cid : Nat
  nsid : Nat
  deriving DecidableEq, Repr

/-- The protection-information operands of a read or write (R314): the guards, the expected application tag and mask and
the initial reference tag that the host gives. -/
structure PiArgs where
  guards : List Nat
  appTags : List Nat
  refTags : List Nat
  lbat : Nat
  lbatm : Nat
  ilbrt : Nat
  deriving DecidableEq, Repr

/-- What a firmware image's header says (R278): its version, its security version and whether its signature verifies. -/
structure FwImage where
  version : Nat
  svn : Nat
  sigOk : Bool
  deriving DecidableEq, Repr

/-- The effects that R327 names of a TCG Opal command: a locking range (0 is the Global Range), its key, the shadow MBR. -/
inductive OpalCmd where
  | setRange (range nsid slba nlb : Nat)
  | setLocks (range : Nat) (readLocked writeLocked : Bool)
  | genKey (range : Nat)
  | setMbr (enabled : Bool)
  | writeMbr (off : Nat) (data : List Byte)
  deriving DecidableEq, Repr

/-- The KCI commands with their fields (Tables 15-4 and 15-5); `data`, `image`, `args`, `terms` are what the drive reads
from host memory for them. -/
inductive Body where
  | queueCreate (queue cls entries vector sq cq colo : Nat)
  | queueDestroy (queue : Nat)
  | objCreate (oid pages word kind h l p d : Nat)
  | objOpen (oid rights : Nat)
  | objShare (handle grantee rights : Nat)
  | objUnshare (handle grantee : Nat)
  | objRetain (handle : Nat)
  | objRelease (handle : Nat) (destroy : Bool)
  | objPlace (handle word : Nat)
  | objQuery (handle buf : Nat)
  | eventCreate (event value : Nat)
  | eventDestroy (event : Nat)
  | eventClear (event : Nat)
  | programInstall (oid addr length : Nat) (image : List Byte)
  | priority (queue cls cid : Nat)
  | jobEnd
  | copyIn (handle off host length layout : Nat) (data : List Byte)
  | copyOut (handle off host length layout : Nat)
  | copy (src dst soff doff length layout : Nat)
  | nop
  | run (prog nargs mode seq block : Nat) (args : List ArgEntry) (plan : List TilePlan)
  | search (index query output nq k nprobe f rerank nterms qoff ooff filters : Nat) (terms : List FilterTerm)
  | indexSeal (handle : Nat)
  deriving DecidableEq, Repr

/-- The commands, one constructor per row of the table, in the table's order. -/
inductive Instr where
  /-- POWER_ON_RESET (R414). -/
  | powerOnReset (rail12 rail33 : Bool)
  /-- AUX_RAIL_VALID (R45). -/
  | auxRailValid
  /-- POWER_FAIL (R425). -/
  | powerFail
  /-- POWER_FAIL_RECORD_DONE (R430). -/
  | powerFailRecordDone
  /-- PWRDIS_ASSERT (R469). -/
  | pwrdisAssert
  /-- PWRDIS_DEASSERT (R469). -/
  | pwrdisDeassert
  /-- PERST_ASSERT (R416). -/
  | perstAssert
  /-- PERST_DEASSERT (R422). -/
  | perstDeassert (refclk : Bool)
  /-- CONTROLLER_ENABLE (R422). -/
  | controllerEnable (fn : Nat)
  /-- COMPUTE_READY (R422). -/
  | computeReady
  /-- CONTROLLER_RESET (R414). -/
  | controllerReset (fn : Nat)
  /-- FLR (R367). -/
  | flr (fn : Nat)
  /-- HOST_LINK_LOSS (R47). -/
  | hostLinkLoss
  /-- SMBRST (R470). -/
  | smbrst
  /-- DIE_RECOVERY_START (R419). -/
  | dieRecoveryStart (die cause : Nat)
  /-- HOUSEKEEPING_REPORT_TIMEOUT (R419). -/
  | housekeepingReportTimeout (die : Nat)
  /-- KERIL_WATCHDOG_EXPIRY (R419). -/
  | kerilWatchdogExpiry
  /-- DIE_RECOVERY_DONE (R419). -/
  | dieRecoveryDone (die : Nat)
  /-- THERMAL_SAMPLE (R411). -/
  | thermalSample (tj tn : List Int)
  /-- THERMAL_LEVEL_EXIT (R411). -/
  | thermalLevelExit
  /-- VOLTAGE_RAMP_STEP (R409). -/
  | voltageRampStep
  /-- HOLDUP_CHECK (R429). -/
  | holdupCheck
  /-- HOLDUP_CHECK_DONE (R34). -/
  | holdupCheckDone (dtUs : Nat)
  /-- PWR_HOLDUP_CHECK_START (R429). -/
  | pwrHoldupCheckStart (value : BitVec 32)
  /-- DEVICE_TIME_RECORD (R58). -/
  | deviceTimeRecord
  /-- CRYSTAL_PERIOD (R57). -/
  | crystalPeriod
  /-- BEACON_SEND (R59). -/
  | beaconSend
  /-- BEACON_RECEIVE (R60). -/
  | beaconReceive (region b : Nat)
  /-- BEACON_PATH_MEASURE (R59). -/
  | beaconPathMeasure (region delay16 : Nat)
  /-- BEACON_MISS_LIMIT (R62). -/
  | beaconMissLimit (region : Nat)
  /-- HOLDOVER_TIMEOUT (R63). -/
  | holdoverTimeout (region : Nat)
  /-- LOCAL_TICK (R60). -/
  | localTick (region : Nat)
  /-- OSCILLATOR_WATCH (R67). -/
  | oscillatorWatch (region duty jitter ticks : Nat)
  /-- MARGIN_SAMPLE (R69). -/
  | marginSample (region slack : Nat)
  /-- STRETCH_RELEASE (R70). -/
  | stretchRelease (region : Nat)
  /-- LASTING_MARGIN_FAULT (R73). -/
  | lastingMarginFault (region : Nat)
  /-- MONITOR_REFRESH (R439). -/
  | monitorRefresh (rates : List Nat)
  /-- POWER_MONITOR_REFRESH (R440). -/
  | powerMonitorRefresh (draws : List Nat)
  /-- KCI_SQ_TAIL (R347). -/
  | kciSqTail (ctx queue tail : Nat) (entries : List (List Byte))
  /-- KCI_CQ_HEAD (R353). -/
  | kciCqHead (ctx queue head : Nat)
  /-- CLASS0_SLOT_WRITE (R349). -/
  | class0SlotWrite (ctx slot off : Nat) (data : List Byte)
  /-- CTX_ENABLE_SET (R344). -/
  | ctxEnableSet (ctx : Nat)
  /-- CTX_ENABLE_CLEAR (R345). -/
  | ctxEnableClear (ctx : Nat)
  /-- CTX_CONTROL_RESET (R367). -/
  | ctxControlReset (ctx : Nat)
  /-- CONTEXT_RESET_COMPLETE (R368). -/
  | contextResetComplete (ctx : Nat)
  /-- CTX_POLICY_WRITE (R348). -/
  | ctxPolicyWrite (ctx : Nat) (value : BitVec 32)
  /-- REGISTER_WRITE (R9). -/
  | registerWrite (fn off size : Nat) (value : BitVec 64)
  /-- LO_REGISTER_READ (R451). -/
  | loRegisterRead (fn off size : Nat)
  /-- QUEUE_CREATE (R382). -/
  | queueCreate (e : Entry) (queue cls entries vector sq cq colo : Nat)
  /-- QUEUE_DESTROY (R355). -/
  | queueDestroy (e : Entry) (queue : Nat)
  /-- OBJ_CREATE (R383). -/
  | objCreate (e : Entry) (oid pages word kind h l p d : Nat)
  /-- OBJ_OPEN (R384). -/
  | objOpen (e : Entry) (oid rights : Nat)
  /-- OBJ_SHARE (R359). -/
  | objShare (e : Entry) (handle grantee rights : Nat)
  /-- OBJ_UNSHARE (R359). -/
  | objUnshare (e : Entry) (handle grantee : Nat)
  /-- OBJ_RETAIN (R362). -/
  | objRetain (e : Entry) (handle : Nat)
  /-- OBJ_RELEASE (R364). -/
  | objRelease (e : Entry) (handle : Nat) (destroy : Bool)
  /-- OBJ_PLACE (R385). -/
  | objPlace (e : Entry) (handle word : Nat)
  /-- OBJ_QUERY (R385). -/
  | objQuery (e : Entry) (handle buf : Nat)
  /-- EVENT_CREATE (R386). -/
  | eventCreate (e : Entry) (event value : Nat)
  /-- EVENT_DESTROY (R386). -/
  | eventDestroy (e : Entry) (event : Nat)
  /-- EVENT_CLEAR (R386). -/
  | eventClear (e : Entry) (event : Nat)
  /-- PROGRAM_INSTALL (R396). -/
  | programInstall (e : Entry) (oid addr length : Nat) (image : List Byte)
  /-- PRIORITY (R387). -/
  | priority (e : Entry) (queue cls cid : Nat)
  /-- JOB_END (R389). -/
  | jobEnd (e : Entry)
  /-- COPY_IN (R390). -/
  | copyIn (e : Entry) (handle off host length layout : Nat) (data : List Byte)
  /-- COPY_OUT (R390). -/
  | copyOut (e : Entry) (handle off host length layout : Nat)
  /-- COPY (R390). -/
  | copy (e : Entry) (src dst soff doff length layout : Nat)
  /-- NOP (R380). -/
  | nop (e : Entry)
  /-- RUN (R393). -/
  | run (e : Entry) (prog nargs mode seq block : Nat) (args : List ArgEntry) (plan : List TilePlan)
  /-- SEARCH (R212). -/
  | search (e : Entry) (index query output nq k nprobe f rerank nterms qoff ooff filters : Nat) (terms : List FilterTerm)
  /-- INDEX_SEAL (R209). -/
  | indexSeal (e : Entry) (handle : Nat)
  /-- PASS_PICK (R187). -/
  | passPick (array : Nat)
  /-- COMMAND_AGED (R190). -/
  | commandAged (uid : Nat)
  /-- RESERVATION_WINDOW_BOUNDARY (R193). -/
  | reservationWindowBoundary
  /-- PASS_ENTRY (R86). -/
  | passEntry (array rate : Nat)
  /-- PASS_END (R81). -/
  | passEnd (array : Nat) (errs : List PassError) (idle : Nat)
  /-- ROW_VERDICT (R145). -/
  | rowVerdict (array pass row : Nat)
  /-- COLUMN_VERDICT (R146). -/
  | columnVerdict (array pass : Nat)
  /-- ROW_DRAIN (R89). -/
  | rowDrain (array uid tile row mismatch ecc : Nat)
  /-- COMPLETION_POST (R352). -/
  | completionPost (ctx queue : Nat) (dmaFault : Option Nat)
  /-- PART_EXCL_CLAIM (R458). -/
  | partExclClaim (part : Nat) (value : BitVec 32)
  /-- CLAIM_COMPLETE (R180). -/
  | claimComplete (part : Nat)
  /-- PART_EXCL_ABORT (R181). -/
  | partExclAbort (part : Nat) (value : BitVec 32)
  /-- RELEASE_COMPLETE (R180). -/
  | releaseComplete (part : Nat)
  /-- PART_RESET (R417). -/
  | partReset (part : Nat) (value : BitVec 32)
  /-- PART_DRAM_QUOTA_WRITE (R456). -/
  | partDramQuotaWrite (part : Nat) (value : BitVec 32)
  /-- SCHED_RESV_WRITE (R457). -/
  | schedResvWrite (part : Nat) (value : BitVec 32)
  /-- CTX_ASSIGN_WRITE (R460). -/
  | ctxAssignWrite (ctx : Nat) (value : BitVec 32)
  /-- CTX_ADMIN_RESET (R367). -/
  | ctxAdminReset (ctx : Nat) (value : BitVec 32)
  /-- MEM_T2_QUOTA_WRITE (R461). -/
  | memT2QuotaWrite (part : Nat) (value : BitVec 32)
  /-- MXA_TEST_START (R462). -/
  | mxaTestStart (array : Nat) (value : BitVec 32)
  /-- SEC_KEY_ENROLL (R463). -/
  | secKeyEnroll (value : BitVec 32)
  /-- SEC_KEY_REVOKE (R463). -/
  | secKeyRevoke (value : BitVec 32)
  /-- PEER_GROUP_CFG_SET (R464). -/
  | peerGroupCfgSet (value : BitVec 32)
  /-- PEER_GROUP_CFG_CLEAR (R464). -/
  | peerGroupCfgClear (value : BitVec 32)
  /-- PEER_BIND_WRITE (R464). -/
  | peerBindWrite (value : BitVec 32)
  /-- PEER_PROGRESS_TO_WRITE (R464). -/
  | peerProgressToWrite (value : BitVec 32)
  /-- ERR_SEL_HI_WRITE (R465). -/
  | errSelHiWrite (value : BitVec 32)
  /-- ERR_IRQ_VEC_WRITE (R465). -/
  | errIrqVecWrite (value : BitVec 32)
  /-- LEDG_SEL_HI_WRITE (R466). -/
  | ledgSelHiWrite (value : BitVec 32)
  /-- LEDG_CTX_SEL_WRITE (R466). -/
  | ledgCtxSelWrite (value : BitVec 32)
  /-- LEDG_ACK_WRITE (R466). -/
  | ledgAckWrite (value : BitVec 32)
  /-- LEDG_PERIOD_WRITE (R443). -/
  | ledgPeriodWrite (value : BitVec 32)
  /-- LEDGER_PERIOD_CLOSE (R444). -/
  | ledgerPeriodClose
  /-- ERROR_LOG_FLUSH (R434). -/
  | errorLogFlush
  /-- TARGETED_SELF_TEST (R148). -/
  | targetedSelfTest (kind index : Nat)
  /-- SELF_TEST_VERDICT (R149). -/
  | selfTestVerdict (kind index reproduced axis : Nat)
  /-- MIGRATION_START (R165). -/
  | migrationStart (obj page tier : Nat)
  /-- MIGRATION_SWITCH (R165). -/
  | migrationSwitch (obj page : Nat)
  /-- SPECULATIVE_READ_ISSUE (R170). -/
  | speculativeReadIssue (uid obj page : Nat)
  /-- SPECULATIVE_SCAN_LAUNCH (R223). -/
  | speculativeScanLaunch (uid query list : Nat)
  /-- DISTANCE_TABLE_SEND (R215). -/
  | distanceTableSend (uid query : Nat)
  /-- SELECTION_FINAL (R224). -/
  | selectionFinal (uid query : Nat)
  /-- CODEWORD_EVALUATE (R216). -/
  | codewordEvaluate (uid query launch block mismatch : Nat)
  /-- MERGER_CANDIDATE (R219). -/
  | mergerCandidate (uid query which : Nat)
  /-- SCAN_END (R220). -/
  | scanEnd (uid query launch : Nat)
  /-- RERANK (R221). -/
  | rerank (uid query : Nat)
  /-- NAND_OP_START (R247). -/
  | nandOpStart (die : Nat) (due : List NandReq)
  /-- NAND_READ_DONE (R239). -/
  | nandReadDone (die : Nat) (cws : List CwRead)
  /-- RECOVERY_LADDER_STEP (R240). -/
  | recoveryLadderStep (die cw : Nat) (ok : Bool)
  /-- READ_AROUND_ERASE (R245). -/
  | readAroundErase (die block page cw : Nat) (bad : List Nat)
  /-- NAND_PROGRAM_DONE (R232). -/
  | nandProgramDone (die : Nat) (ok : Bool)
  /-- NAND_ERASE_DONE (R244). -/
  | nandEraseDone (die : Nat) (ok : Bool)
  /-- NAND_RESET (R250). -/
  | nandReset
  /-- PATROL_READ (R252). -/
  | patrolRead (die block page : Nat) (cws : List CwRead) (last : Bool)
  /-- BLOCK_REFRESH (R253). -/
  | blockRefresh (die block : Nat)
  /-- READ_OFFSET_CALIBRATION (R254). -/
  | readOffsetCalibration (die block : Nat) (temp : Int)
  /-- GARBAGE_COLLECTION (R255). -/
  | garbageCollection (group free : Nat) (reclaimable : Bool) (victim : Option Nat)
  /-- WEAR_LEVELING (R257). -/
  | wearLeveling (group block : Nat)
  /-- WRITE_ADMIT (R322). -/
  | writeAdmit
  /-- STORE_OP_START (R262). -/
  | storeOpStart (due : List StoreOp)
  /-- STORE_ERASE_DONE (R264). -/
  | storeEraseDone (blank : Bool)
  /-- CONTROL_SECTOR_SWITCH (R263). -/
  | controlSectorSwitch
  /-- GAP_ADVANCE (R268). -/
  | gapAdvance
  /-- PROGRAM_LOAD (R276). -/
  | programLoad (obj : Nat) (reads : List Bool)
  /-- PORT_TRAINED (R285). -/
  | portTrained (port lanes : Nat)
  /-- PEER_PRES_CHANGE (R475). -/
  | peerPresChange (port : Nat) (low : Bool)
  /-- PEER_ALERT_PULSE (R476). -/
  | peerAlertPulse (port : Nat)
  /-- PEER_ALERT_STUCK (R476). -/
  | peerAlertStuck (port : Nat)
  /-- HELLO (R285). -/
  | hello (port gid size member pport incarnation fw : Nat)
  /-- HEARTBEAT_SEND (R296). -/
  | heartbeatSend
  /-- HEARTBEAT (R287). -/
  | heartbeat (src incarnation gstate lost epoch time : Nat)
  /-- HEARTBEAT_WINDOW_END (R296). -/
  | heartbeatWindowEnd
  /-- MEMBER_LOST (R297). -/
  | memberLost (member : Nat)
  /-- GROUP_REFORM (R286). -/
  | groupReform
  /-- FORMING_TIMEOUT (R286). -/
  | formingTimeout
  /-- IDLE (R293). -/
  | idle (port : Nat)
  /-- FLIT_RECEIVE (R293). -/
  | flitReceive (port : Nat) (bytes : List Byte)
  /-- NAK (R293). -/
  | nak (port expected : Nat)
  /-- PORT_RETRAIN (R294). -/
  | portRetrain (port : Nat)
  /-- POST (R299). -/
  | post (src opId : Nat)
  /-- GATHER (R300). -/
  | gather (src opId offset : Nat) (payload : List Byte) (digest : Nat)
  /-- REDUCE (R303). -/
  | reduce (src opId offset : Nat) (payload : List Byte) (digest : Nat)
  /-- ENVELOPE (R302). -/
  | envelope (src opId offset : Nat) (payload : List Byte) (digest : Nat)
  /-- ABORT (R298). -/
  | abort (src opId status : Nat)
  /-- MSG_NAK (R292). -/
  | msgNak (src opId offset kind len16 : Nat)
  /-- MESSAGE_COPY_EXPIRY (R292). -/
  | messageCopyExpiry
  /-- PEER_PROGRESS_TIMEOUT (R298). -/
  | peerProgressTimeout (uid : Nat)
  /-- NVME_SQ_DOORBELL (R309). -/
  | nvmeSqDoorbell (fn sqid tail : Nat) (cmds : List (Nat × Nat))
  /-- LOW_POWER_WAKE (R337). -/
  | lowPowerWake
  /-- CREATE_IO_SUBMISSION_QUEUE (R306). -/
  | createIoSubmissionQueue (h : NvmeHdr) (qid qsize cqid : Nat)
  /-- CREATE_IO_COMPLETION_QUEUE (R306). -/
  | createIoCompletionQueue (h : NvmeHdr) (qid qsize iv : Nat) (ien : Bool)
  /-- DELETE_IO_SUBMISSION_QUEUE (R306). -/
  | deleteIoSubmissionQueue (h : NvmeHdr) (qid : Nat)
  /-- DELETE_IO_COMPLETION_QUEUE (R306). -/
  | deleteIoCompletionQueue (h : NvmeHdr) (qid : Nat)
  /-- IDENTIFY (R309). -/
  | identify (h : NvmeHdr) (cns dst : Nat)
  /-- NVME_ABORT (R331). -/
  | nvmeAbort (h : NvmeHdr) (sqid cid : Nat)
  /-- GET_FEATURES (R309). -/
  | getFeatures (h : NvmeHdr) (fid cdw11 dst : Nat)
  /-- SET_ARBITRATION (R309). -/
  | setArbitration (h : NvmeHdr) (value : BitVec 32)
  /-- SET_POWER_MANAGEMENT (R336). -/
  | setPowerManagement (h : NvmeHdr) (value : BitVec 32)
  /-- LOW_POWER_ENTRY (R336). -/
  | lowPowerEntry
  /-- SET_TEMPERATURE_THRESHOLD (R412). -/
  | setTemperatureThreshold (h : NvmeHdr) (value : BitVec 32)
  /-- SET_VOLATILE_WRITE_CACHE (R321). -/
  | setVolatileWriteCache (h : NvmeHdr) (value : BitVec 32)
  /-- SET_NUMBER_OF_QUEUES (R309). -/
  | setNumberOfQueues (h : NvmeHdr) (value : BitVec 32)
  /-- SET_INTERRUPT_COALESCING (R309). -/
  | setInterruptCoalescing (h : NvmeHdr) (value : BitVec 32)
  /-- SET_INTERRUPT_VECTOR_CONFIGURATION (R309). -/
  | setInterruptVectorConfiguration (h : NvmeHdr) (value : BitVec 32)
  /-- SET_WRITE_ATOMICITY_NORMAL (R326). -/
  | setWriteAtomicityNormal (h : NvmeHdr) (value : BitVec 32)
  /-- SET_ASYNC_EVENT_CONFIGURATION (R309). -/
  | setAsyncEventConfiguration (h : NvmeHdr) (value : BitVec 32)
  /-- SET_APST (R338). -/
  | setApst (h : NvmeHdr) (enable : Bool) (table : List (Nat × Nat))
  /-- APST_IDLE_EXPIRY (R338). -/
  | apstIdleExpiry
  /-- SET_TIMESTAMP (R447). -/
  | setTimestamp (h : NvmeHdr) (ms : Nat)
  /-- LACUNA_RELEASE (R342). -/
  | lacunaRelease (h : NvmeHdr) (seq : Nat)
  /-- ASYNC_EVENT_REQUEST (R341). -/
  | asyncEventRequest (h : NvmeHdr)
  /-- GET_LOG_ERROR_INFORMATION (R331). -/
  | getLogErrorInformation (h : NvmeHdr) (dst len : Nat)
  /-- GET_LOG_SMART_HEALTH (R437). -/
  | getLogSmartHealth (h : NvmeHdr) (dst len : Nat)
  /-- GET_LOG_FIRMWARE_SLOT (R309). -/
  | getLogFirmwareSlot (h : NvmeHdr) (dst len : Nat)
  /-- GET_LOG_CHANGED_NAMESPACE (R309). -/
  | getLogChangedNamespace (h : NvmeHdr) (dst len : Nat)
  /-- GET_LOG_COMMANDS_SUPPORTED (R309). -/
  | getLogCommandsSupported (h : NvmeHdr) (dst len : Nat)
  /-- GET_LOG_SANITIZE_STATUS (R309). -/
  | getLogSanitizeStatus (h : NvmeHdr) (dst len : Nat)
  /-- GET_LOG_LACUNA (R340). -/
  | getLogLacuna (h : NvmeHdr) (lsf dst off len : Nat)
  /-- GET_LOG_COLOPHON_STATISTICS (R438). -/
  | getLogColophonStatistics (h : NvmeHdr) (dst off len : Nat)
  /-- GET_LOG_ABORT_LIST (R370). -/
  | getLogAbortList (h : NvmeHdr) (lsf dst len : Nat)
  /-- NAMESPACE_MANAGEMENT_CREATE (R308). -/
  | namespaceManagementCreate (h : NvmeHdr) (nsze flbas pi : Nat)
  /-- NAMESPACE_MANAGEMENT_DELETE (R307). -/
  | namespaceManagementDelete (h : NvmeHdr)
  /-- NAMESPACE_ATTACHMENT (R307). -/
  | namespaceAttachment (h : NvmeHdr) (attach : Bool) (ctrls : List Nat)
  /-- FIRMWARE_IMAGE_DOWNLOAD (R312). -/
  | firmwareImageDownload (h : NvmeHdr) (off : Nat) (data : List Byte)
  /-- FIRMWARE_COMMIT (R279). -/
  | firmwareCommit (h : NvmeHdr) (action slot : Nat) (img : FwImage)
  /-- FORMAT_NVM (R313). -/
  | formatNvm (h : NvmeHdr) (lbaf pi ses : Nat) (ext : Bool)
  /-- SECURITY_SEND (R327). -/
  | securitySend (h : NvmeHdr) (cmd : OpalCmd)
  /-- SECURITY_RECEIVE (R327). -/
  | securityReceive (h : NvmeHdr) (dst : Nat)
  /-- SANITIZE_BLOCK_ERASE (R329). -/
  | sanitizeBlockErase (h : NvmeHdr)
  /-- SANITIZE_CRYPTO_ERASE (R329). -/
  | sanitizeCryptoErase (h : NvmeHdr)
  /-- SANITIZE_DONE (R330). -/
  | sanitizeDone
  /-- FLUSH (R319). -/
  | flush (h : NvmeHdr)
  /-- WRITE (R317). -/
  | write (h : NvmeHdr) (slba nlb : Nat) (fua pract : Bool) (prchk : Nat) (pi : PiArgs) (data : List Byte)
  /-- READ (R332). -/
  | read (h : NvmeHdr) (slba nlb : Nat) (pract : Bool) (prchk : Nat) (pi : PiArgs) (dst mdst : Nat)
  /-- COMPARE (R331). -/
  | compare (h : NvmeHdr) (slba nlb : Nat) (data : List Byte)
  /-- WRITE_ZEROES (R317). -/
  | writeZeroes (h : NvmeHdr) (slba nlb : Nat) (fua : Bool)
  /-- DATASET_MANAGEMENT_DEALLOCATE (R316). -/
  | datasetManagementDeallocate (h : NvmeHdr) (ranges : List (Nat × Nat))
  /-- VERIFY (R309). -/
  | verify (h : NvmeHdr) (slba nlb prchk : Nat) (pi : PiArgs)
  /-- CACHE_COMMIT_START (R318). -/
  | cacheCommitStart (die block wl : Nat) (items : List Nat)
  /-- SHUTDOWN_NOTIFICATION (R323). -/
  | shutdownNotification (fn : Nat) (abrupt : Bool)
  /-- MI_READ_DATA_STRUCTURE (R436). -/
  | miReadDataStructure (kind : Nat)
  /-- MI_SUBSYSTEM_HEALTH_POLL (R436). -/
  | miSubsystemHealthPoll
  /-- MI_CONTROLLER_HEALTH_POLL (R436). -/
  | miControllerHealthPoll (ctrl : Nat)
  /-- MI_CONFIGURATION_GET (R436). -/
  | miConfigurationGet (cfg : Nat)
  /-- MI_CONFIGURATION_SET (R436). -/
  | miConfigurationSet (cfg value : Nat)
  /-- MI_VPD_READ (R436). -/
  | miVpdRead (off len : Nat)
  /-- MI_TUNNELED_IDENTIFY (R436). -/
  | miTunneledIdentify (cns : Nat)
  /-- MI_TUNNELED_GET_LOG_PAGE (R436). -/
  | miTunneledGetLogPage (lid : Nat)
  /-- MI_ERROR_LOG_READ (R436). -/
  | miErrorLogRead (seq count : Nat)
  /-- HOST_LINK_RETURN (R47). -/
  | hostLinkReturn
  /-- DIE_RECOVERY_OVERRUN (R421). -/
  | dieRecoveryOverrun (die : Nat)
  /-- AUXILIARY_RAIL_LOSS (R45). -/
  | auxiliaryRailLoss
  /-- HOLD_UP_ENERGY_EXHAUSTED (R34). -/
  | holdUpEnergyExhausted (written : Nat)
  /-- PEER_ALERT_RETURNS_HIGH (R476). -/
  | peerAlertReturnsHigh (port : Nat)
  /-- PEER_LANES_LEAVE_ELECTRICAL_IDLE (R475). -/
  | peerLanesLeaveElectricalIdle (port : Nat)
  /-- STORE_PAGE_PROGRAM_DONE (R262). -/
  | storePageProgramDone
  /-- PATROL_SCRUB (R202). -/
  | patrolScrub (stack : Nat) (bank : Nat)
  /-- LED_TOGGLE (R471). -/
  | ledToggle
  deriving DecidableEq, Repr

end Sys2Proof
end

