-- ==== Sys2Proof/Config.lean ====
section
/-! DEFINITION. The values that the spec leaves open: constants without a body, so that nothing can be proved of them
(assumption log 1). Each is applied to the state's counter of drawn values and to the place it fills. -/

namespace Sys2Proof.Config

/-- A byte of a range whose contents are undefined (R37, R34), or of an NVMe or NVMe-MI data structure that the spec leaves
to those specifications: the draw's tag and the byte's offset. -/
opaque freeByte : Nat → Nat → Byte

/-- A number that the drive draws or estimates and the spec does not fix: checker weights (R130), SAMPLED positions
(R140), energy (R441), the rounding of a period estimate (R60), a first incarnation number (R285). -/
opaque freeNat : Nat → Nat → Nat

/-- The silicon stepping that HIF_ID reports, fixed per part (Table 18-3). -/
opaque stepping : Nat

end Sys2Proof.Config
end

