-- ==== Sys2Proof/Machine/Bytes.lean ====
section
/-! DEFINITION. Sparse tables, byte memories, bit fields, byte orders, CRCs and the digest of R141. -/

namespace Sys2Proof.Machine

/-! ### Sparse tables -/

/-- The record listed under a number, if one is. -/
def tfind {α : Type} : Table α → Nat → Option α
  | [], _ => none
  | (k', v) :: t, k => if k = k' then some v else tfind t k

/-- The record of a number, `d` standing for one that is not listed. -/
def tget {α : Type} (d : α) (t : Table α) (k : Nat) : α := (tfind t k).getD d

/-- List a record under a number, in rising order of numbers. -/
def tset {α : Type} : Table α → Nat → α → Table α
  | [], k, v => [(k, v)]
  | (k', v') :: t, k, v =>
    if k = k' then (k, v) :: t else if k < k' then (k, v) :: (k', v') :: t else (k', v') :: tset t k v

/-- Remove a number from a table. -/
def tdel {α : Type} (t : Table α) (k : Nat) : Table α := t.filter (fun p => p.1 != k)

/-- Change the record of a number. -/
def tmod {α : Type} (d : α) (t : Table α) (k : Nat) (f : α → α) : Table α := tset t k (f (tget d t k))

/-- Change every listed record. -/
def tmap {α β : Type} (t : Table α) (f : Nat → α → β) : Table β := t.map (fun p => (p.1, f p.1 p.2))

/-! ### Byte memories -/

/-- A byte of a memory; an address that is not listed reads zero. -/
def mget : Mem → Nat → Byte
  | [], _ => 0
  | (k, b) :: m, a => if a = k then b else mget m a

/-- Write one byte, keeping the canonical form: writing zero removes the entry. -/
def mset : Mem → Nat → Byte → Mem
  | [], a, b => if b = 0 then [] else [(a, b)]
  | (k, c) :: m, a, b =>
    if a = k then (if b = 0 then m else (a, b) :: m)
    else if a < k then (if b = 0 then (k, c) :: m else (a, b) :: (k, c) :: m)
    else (k, c) :: mset m a b

/-- Write bytes from an address upward. -/
def mwrite : Mem → Nat → List Byte → Mem
  | m, _, [] => m
  | m, a, b :: bs => mwrite (mset m a b) (a + 1) bs

/-- Read `n` bytes from an address upward. -/
def mread (m : Mem) (a n : Nat) : List Byte := (List.range n).map (fun i => mget m (a + i))

/-- Every address of the memory is at least `lo`, addresses rise strictly, and no byte is zero. -/
def wfFrom : Nat → Mem → Bool
  | _, [] => true
  | lo, (a, b) :: m => decide (lo ≤ a) && (b != 0) && wfFrom (a + 1) m

/-- The canonical form of a memory. -/
def Mem.wf (m : Mem) : Bool := wfFrom 0 m

/-! ### Bit fields and byte orders (R7, R8) -/

/-- Bits `[hi:lo]` of a number. -/
def bits (n hi lo : Nat) : Nat := n / 2 ^ lo % 2 ^ (hi + 1 - lo)

/-- Bit `i` of a number. -/
def bit (n i : Nat) : Bool := n / 2 ^ i % 2 == 1

/-- A Bool as a bit. -/
def b2n (b : Bool) : Nat := if b then 1 else 0

/-- `k` bytes of a number, least significant first (R8). -/
def le : Nat → Nat → List Byte
  | 0, _ => []
  | k + 1, n => BitVec.ofNat 8 n :: le k (n / 256)

/-- The number that bytes spell, least significant first. -/
def leNat : List Byte → Nat
  | [] => 0
  | b :: bs => b.toNat + 256 * leNat bs

/-- The number that bytes spell, most significant first. -/
def beNat (bs : List Byte) : Nat := bs.foldl (fun n b => n * 256 + b.toNat) 0

/-- `k` bytes of a number, most significant first. -/
def be (k n : Nat) : List Byte := (le k n).reverse

/-- `n` zero bytes. -/
def zeros (n : Nat) : List Byte := List.replicate n 0

/-- A counter of `w` bits that stops at its maximum (R454). -/
def satAdd (w x n : Nat) : Nat := min (x + n) (2 ^ w - 1)

/-- A number read as a signed field of `w` bits. -/
def toSigned (w n : Nat) : Int := if n % 2 ^ w < 2 ^ (w - 1) then (n % 2 ^ w : Int) else (n % 2 ^ w : Int) - 2 ^ w

/-- A signed number as a field of `w` bits. -/
def ofSigned (w : Nat) (v : Int) : Nat := (v % (2 ^ w : Int)).toNat

/-- Bytes `off` to `off + n - 1` of a list. -/
def slice (bs : List Byte) (off n : Nat) : List Byte := (bs.drop off).take n

/-! ### CRCs -/

/-- One byte of a CRC of `w` bits, most significant bit first. -/
def crcStep (w poly : Nat) (crc : Nat) (b : Byte) : Nat :=
  (List.range 8).foldl
    (fun c i =>
      let top := (c / 2 ^ (w - 1) + b.toNat / 2 ^ (7 - i)) % 2
      let c' := c * 2 % 2 ^ w
      if top = 1 then c' ^^^ poly else c') crc

/-- A CRC without reflection, initial value zero, no final XOR. -/
def crcMsb (w poly : Nat) (bs : List Byte) : Nat := bs.foldl (crcStep w poly) 0

/-- One byte of a reflected CRC. -/
def crcStepR (poly : Nat) (crc : Nat) (b : Byte) : Nat :=
  (List.range 8).foldl (fun c _ => if c % 2 = 1 then (c / 2) ^^^ poly else c / 2) (crc ^^^ b.toNat)

/-- A reflected CRC with all-ones initial value and final XOR. -/
def crcLsb (w poly : Nat) (bs : List Byte) : Nat := (bs.foldl (crcStepR poly) (2 ^ w - 1)) ^^^ (2 ^ w - 1)

/-- CRC-32C (Castagnoli), R234, R431, R445. -/
def crc32c (bs : List Byte) : Nat := crcLsb 32 0x82F63B78 bs

/-- The flit CRC of R291: CRC-64, polynomial 0x42F0_E1EB_A9EA_3693. -/
def crcFlit (bs : List Byte) : Nat := crcMsb 64 0x42F0E1EBA9EA3693 bs

/-- The 16-bit guard of formats 1 and 3 (R313); PRESUMED T10 DIF (assumption log 7). -/
def crc16 (bs : List Byte) : Nat := crcMsb 16 0x8BB7 bs

/-- The 64-bit guard of format 4 (R313); PRESUMED NVMe CRC-64 (assumption log 7). -/
def crc64Nvme (bs : List Byte) : Nat := crcLsb 64 0x9A6C9329AC4BC9B5 bs

/-! ### Digests (R141, R142) -/

/-- p = 2^61 - 1 (chapter 6). -/
def prime61 : Nat := 2 ^ 61 - 1

/-- g of R141. -/
def digestG : Nat := 0x0000000100000001

/-- The bytes as 8-byte little-endian words, the last padded with zero bytes; `fuel` is at least the word count. -/
def words8 : Nat → List Byte → List Nat
  | 0, _ => []
  | fuel + 1, bs => if bs.isEmpty then [] else leNat (bs.take 8) :: words8 fuel (bs.drop 8)

/-- One word of the digest. -/
def digestStep (h w : Nat) : Nat := (h * digestG + w % prime61) % prime61

/-- The digest of a covered range (R141). -/
def digest (bs : List Byte) : Nat := digestStep ((words8 (bs.length / 8 + 1) bs).foldl digestStep 0) bs.length

/-- The combination of the digests of several objects (R142). -/
def digestAll (ds : List Nat) : Nat := (((ds.foldl digestStep 0) * digestG + ds.length) % prime61)

end Sys2Proof.Machine
end

