-- ==== Sys2Proof/Machine/State.lean ====
section
/-! DEFINITION. The state of the drive: every register, queue, buffer, counter, mode and pin that the spec gives the block,
as plain data, and the machine right after reset. Each field's comment names the rule that gives it; INVENTORY.md lists
them with their reset values. -/

namespace Sys2Proof.Machine

/-- No command of this model stops with a fault: every row of the table has an effect, and a row whose precondition does not
hold changes nothing (assumption log 2). The one constructor is raised by nothing. -/
inductive Fault where
  /-- Raised by no meaning. Safe: it never occurs. -/
  | none
  deriving DecidableEq, Repr

/-- Why a command has no meaning. -/
inductive Refusal where
  /-- A row of the table without a meaning yet; raised only by an arm of exec. Safe: the machine stops. -/
  | notModelled (mnemonic : String)
  deriving DecidableEq, Repr

/-- The two variants of Table 1-1. -/
inductive Variant where
  | dx30 | dx61
  deriving DecidableEq, Repr

/-- The drive states of Tables 2-3 and 19-7 that the drive itself can be in. `failing` is the writing of a power-fail
record, `pwrdis` PWRDIS asserted after it. -/
inductive Mode where
  | noRails | auxOnly | powerOnReset | perst | running | failing | pwrdis
  deriving DecidableEq, Repr

/-- A core rail in mV: where it stands and where it moves to (R409). -/
structure Rail where
  cur : Nat
  target : Nat
  deriving DecidableEq, Repr

/-- Power, pins, thermal level, hold-up bank and recoveries (chapters 16 and 19). -/
structure PowerSt where
  /-- R45 Table 2-3. -/
  mode : Mode
  /-- R405 12 V rail valid. -/
  rail12 : Bool
  /-- R405 3.3 V rail valid. -/
  rail33 : Bool
  /-- R469 PWRDIS asserted. -/
  pwrdisPin : Bool
  /-- R468 PERST# asserted. -/
  perstPin : Bool
  /-- R45 host link up. -/
  linkUp : Bool
  /-- R472 common-clock mode; false is SRIS. -/
  commonClock : Bool
  /-- R45 NVMe-MI firmware answers. -/
  miReady : Bool
  /-- R334 power state in force, 0-5. -/
  pstate : Nat
  /-- R337 operational state to return to. -/
  lastOp : Nat
  /-- R336 low-power state requested, waiting for a clean cache. -/
  lowPending : Option Nat
  /-- R407-R409 core rails of M0, M1, C, F. -/
  rails : Table Rail
  /-- R411 level: 0 none, 1 throttle, 2 emergency, 3 critical. -/
  thermal : Nat
  /-- R411 the levels entered and not left, and since when the leave conditions of throttle and emergency hold. -/
  throttled : Bool
  emergency : Bool
  critical : Bool
  calmSince : Option Nat
  coolSince : Option Nat
  /-- R411 since when Tj has been at 115 °C or more. -/
  hotSince : Option Nat
  /-- R411 case temperature of each NAND package [1/16 °C]. -/
  tn : Table Int
  /-- R411 SMART Thermal Management Temperature 1 transition count. -/
  tm1 : Nat
  /-- R440 PWR_DRAW 0-7 [mW]. -/
  draws : Table Nat
  /-- R467 MON_NAND_TEMP as last refreshed. -/
  monTn : Table Int
  /-- R467 MON_COMPOSITE [K] as last refreshed. -/
  monComposite : Nat
  /-- R422 step 7: NVMe ready. -/
  nvmeReady : Bool
  /-- R422 step 11. -/
  computeReady : Bool
  /-- R421 failed state. -/
  failed : Bool
  /-- R424 PWR_RESET_CAUSE. -/
  resetCause : Nat
  /-- R429 C_b [µF] of the last check. -/
  holdCap : Nat
  /-- R429 usable energy [mJ] of the last check. -/
  holdEnergy : Nat
  /-- R429 a hold-up check runs. -/
  checkRunning : Bool
  /-- R423 the check of this start has completed. -/
  checkDone : Bool
  /-- R34 the bank failed its last check. -/
  bankFailed : Bool
  /-- R425 device time t0 of a power failure being recorded. -/
  t0 : Option Nat
  /-- R469 the power failure being recorded is a PWRDIS assertion. -/
  byPwrdis : Bool
  /-- R419 dies in recovery (0 M0, 1 M1, 2 C, 3 F). -/
  recovering : List Nat
  /-- R421 die and power-on time of each recovery. -/
  recoveries : List (Nat × Nat)
  /-- R471 level of the LED while it toggles. -/
  ledToggle : Bool
  /-- R34, R149 power-on time [ns]. -/
  onTime : Nat
  deriving DecidableEq, Repr

/-- One timing region (chapter 3). Times are in 2^-26 ns, in which R60's corrections are exact. -/
structure Region where
  /-- R62 lock state: 0 UNLOCKED, 1 ACQUIRING, 2 LOCKED, 3 HOLDOVER. -/
  lock : Nat
  /-- R60 region time. -/
  time : Nat
  /-- R60 period estimate. -/
  period : Int
  /-- R60 slew share. -/
  slew : Int
  /-- R60 ticks since the last beacon. -/
  ticks : Nat
  /-- R62 consecutive missed beacons. -/
  missed : Nat
  /-- R62 consecutive beacons within 16 ns while ACQUIRING. -/
  good : Nat
  /-- R63 beacon periods spent in HOLDOVER. -/
  heldFor : Nat
  /-- R59 beacon path delay [1/16 ns]. -/
  delay16 : Nat
  /-- R68 source: 0 main oscillator, 1 spare, 2 housekeeping region. -/
  osc : Nat
  /-- R70 stretch [1/16]. -/
  stretch : Nat
  /-- R69 slack of the last sample [1/64]. -/
  slack : Nat
  /-- R73 consecutive samples below 4/64 at +8/16. -/
  low : Nat
  /-- R70 consecutive samples at 16/64 or more. -/
  calm : Nat
  /-- R411 junction temperature [1/16 °C]. -/
  tj : Int
  /-- R439 counters MON_COUNT 0-5. -/
  warns : Nat
  stretches : Nat
  refused : Nat
  breaches : Nat
  switches : Nat
  holdovers : Nat
  /-- R439 readings as last refreshed. -/
  monTj : Int
  monV : Nat
  monLock : Nat
  monStretch : Nat
  monSlack : Nat
  monRate : Nat
  deriving DecidableEq, Repr

/-- Device time and the 42 regions. -/
structure TimeSt where
  /-- R57 device time [ns]. -/
  now : Nat
  /-- R58 device time runs. -/
  running : Bool
  /-- R58 highest device time in the program store. -/
  recorded : Option Nat
  /-- R59 device time of the last beacon sent. -/
  beacon : Nat
  /-- R193 start of the current reservation window. -/
  window : Nat
  /-- R52 regions 0-41. -/
  regions : Table Region
  deriving DecidableEq, Repr

/-- One KCI queue (R351); it exists when it is listed. -/
structure QueueSt where
  /-- R182 class. -/
  cls : Nat
  /-- R351 ring entries. -/
  entries : Nat
  /-- R351 submission, completion and colophon ring bases. -/
  sq : Nat
  cq : Nat
  colo : Nat
  /-- R353 MSI-X vector. -/
  vector : Nat
  /-- R352 ring index of the next entry to fetch. -/
  head : Nat
  /-- R347 submission tail. -/
  tail : Nat
  /-- R371 the 64-byte entries made available and not fetched. -/
  avail : List (List Byte)
  /-- R373 ring index of the next completion. -/
  cqTail : Nat
  /-- R347 completion head. -/
  cqHead : Nat
  /-- R373 phase of the current pass. -/
  phase : Bool
  /-- R353 interrupt-pending flag. -/
  irq : Bool
  /-- R355 a QUEUE_DESTROY of this queue is fetched. -/
  closing : Bool
  deriving DecidableEq, Repr

/-- A mapped handle (R362); EMPTY when not listed. -/
structure HandleSt where
  obj : Nat
  /-- R362 DRAINING. -/
  draining : Bool
  /-- R358 rights: bit 0 R, bit 1 W, bit 2 X. -/
  rights : Nat
  dref : Nat
  href : Nat
  /-- R157 device address of the object in the context. -/
  base : Nat
  deriving DecidableEq, Repr

/-- An event (R360). -/
structure EventSt where
  err : Bool
  value : Nat
  deriving DecidableEq, Repr

/-- A class-0 slot (R349): bytes written so far, and busy from the latch to the posting. -/
structure SlotSt where
  buf : Table Byte
  busy : Bool
  cid : Nat
  deriving DecidableEq, Repr

/-- One of the 256 contexts (chapter 14). -/
structure Context where
  /-- R460 CTX_ASSIGN. -/
  partition : Nat
  maxClass : Nat
  floorMode : Nat
  floorN : Nat
  adminOff : Bool
  /-- R344 state: 0 CLOSED, 1 OPEN, 2 FAULTED, 3 RESETTING. -/
  state : Nat
  /-- R346 status code of the last fault. -/
  faultStatus : Nat
  enable : Bool
  /-- R346 CTX_POLICY, CTX_SEED, CTX_POLICY_ERR, CTX_OPEN_ERR. -/
  policy : W32
  seedLo : W32
  seedHi : W32
  /-- R451 the seed in effect since the last write of CTX_SEED_HI. -/
  seed : W64
  policyErr : W32
  openErr : Nat
  /-- R346 control-queue registers. -/
  ctlSqLo : W32
  ctlSqHi : W32
  ctlCqLo : W32
  ctlCqHi : W32
  /-- R451 the bases in effect since the last writes of their _HI registers. -/
  ctlSq : W64
  ctlCq : W64
  ctlSize : W32
  /-- R349 KCI_C0_DISCARD. -/
  c0Discard : Nat
  /-- R460 CTX_VIOL. -/
  viol : Nat
  /-- R367 why the context is RESETTING (abort list reason). -/
  resetReason : Nat
  queues : Table QueueSt
  handles : Table HandleSt
  events : Table EventSt
  slots : Table SlotSt
  deriving DecidableEq, Repr

/-- Command states of Table 8-2; a DONE command that is posted leaves the list. -/
inductive CmdState where
  | blocked | queued | staged | holding | draining | done | aborting
  deriving DecidableEq, Repr

/-- The counts and telemetry of a colophon in the making (Table 6-3). -/
structure Tele where
  checked : Nat
  failed : Nat
  retried : Nat
  split : Nat
  unchecked : Nat
  sat : Nat
  flushed : Nat
  lockstep : Nat
  start : Option Nat
  stop : Nat
  startRegion : Nat
  stopRegion : Nat
  unlocked : Bool
  widened : Bool
  minV : Nat
  maxT : Int
  maxStretch : Nat
  breaches : Nat
  minRate : Nat
  deriving DecidableEq, Repr

/-- One pass still to run: mode, first reduction index, BF16 slices (0 whole, 1 high, 2 low), split half (0 none, 1 low
offsets, 2 high), and the rows it covers when it re-executes failed rows (R145). -/
structure PassTodo where
  shadow : Bool
  k0 : Nat
  sliceA : Nat
  sliceW : Nat
  half : Nat
  rows : Option (List Nat)
  retry : Bool
  deriving DecidableEq, Repr

/-- One output tile of a RUN in progress: its slots, its exact accumulators by row × 128 + column (R90, R110), the passes
left and the rows drained, and its excursion counts (R124). -/
structure TileSt where
  plan : TilePlan
  array : Nat
  began : Bool
  /-- R99 the tile is re-executed: its passes count as retried. -/
  redo : Bool
  slots : List Nat
  split : Bool
  todo : List PassTodo
  acc : Table Int
  drained : List Nat
  sat : Nat
  flushed : Nat
  satGroups : Nat
  underGroups : Nat
  groupBits : List Nat
  /-- R110 lowest envelope bounds of the rows and the columns, fixed at the first pass. -/
  loA : List (Option Int)
  loW : List (Option Int)
  finished : Bool
  deriving DecidableEq, Repr

/-- A candidate at the merger (R219). -/
structure Cand where
  id : Nat
  score : Int
  list : Nat
  launch : Nat
  deriving DecidableEq, Repr

/-- A list scan (R223): its launch index, its tag state (0 PENDING, 1 CONFIRMED, 2 STALE), short mark and progress. -/
structure ScanSt where
  launch : Nat
  list : Nat
  tag : Nat
  short : Bool
  ended : Bool
  nextBlock : Nat
  codes : Nat
  survivors : Nat
  digest : Nat
  deriving DecidableEq, Repr

/-- One query of a SEARCH (chapter 9). -/
structure QuerySt where
  slot : Nat
  gen : Nat
  tableSent : Bool
  tableExp : Nat
  table : List Int
  final : Bool
  selected : List Nat
  scans : List ScanSt
  arriving : List Cand
  kept : List Cand
  pool : List Cand
  rescanned : Bool
  reranked : Option (List (Nat × Nat × Nat))
  deriving DecidableEq, Repr

/-- A SEARCH in progress. -/
structure SearchSt where
  sealGen : Nat
  queries : List QuerySt
  deriving DecidableEq, Repr

/-- A fetched, incomplete KCI command (R186, R354). -/
structure Cmd where
  uid : Nat
  e : Entry
  body : Body
  /-- R182 class. -/
  cls : Nat
  /-- R185 age. -/
  fetched : Nat
  st : CmdState
  /-- R363 handles named, each held by one DREF. -/
  handles : List Nat
  /-- Status once decided, with the order in which commands became done (R378). -/
  status : Option Nat
  doneSeq : Nat
  dw0 : Nat
  dw1 : Nat
  /-- Status that applies once the tiles in flight have ended (R126). -/
  ending : Option Nat
  /-- R190 QUEUED since, and aged. -/
  queuedAt : Nat
  aged : Bool
  /-- R139 check mode fixed at the first tile: mode and n; whether the floor raised it. -/
  mode : Option (Nat × Nat)
  floored : Bool
  strict : Bool
  overFail : Bool
  seed : W64
  /-- R140 passes issued in the current SAMPLED group, and the position drawn for it. -/
  sampleAt : Nat
  samplePos : Nat
  tiles : List TileSt
  tele : Tele
  /-- R128 excursion records written and bytes reserved. -/
  excRecs : Nat
  excUsed : Nat
  excPtr : Nat
  /-- R38 doorbell and start of the last tile. -/
  doorbell : Nat
  /-- R464 PEER_PROGRESS_TO at the fetch [ms]. -/
  progress : Nat
  lastTile : Option Nat
  resident : Bool
  retried : Bool
  /-- R142 input digest once the inputs are read. -/
  inDig : Option Nat
  /-- R162 NAND items that must be committed first. -/
  waitItems : List Nat
  search : Option SearchSt
  deriving DecidableEq, Repr

/-- A copy of a page (R169): its tier, the generation it carries, and whether it is an unused speculative fill. -/
structure Copy where
  tier : Nat
  die : Nat
  gen : Nat
  spec : Bool
  deriving DecidableEq, Repr

/-- A backed page (R161, R165, R169, R177). -/
structure PageSt where
  tier : Nat
  die : Nat
  gen : Nat
  lastUse : Nat
  moving : Option Nat
  lost : Bool
  copies : List Copy
  deriving DecidableEq, Repr

/-- The layout items recorded with a written range (R392). -/
structure TagSt where
  start : Nat
  len : Nat
  fmt : Nat
  group : Nat
  rowLen : Nat
  deriving DecidableEq, Repr

/-- What a program object adds (R274, R276, R184). -/
structure ProgSt where
  latency : Bool
  slots : List SlotDesc
  calib : List Byte
  hash16 : List Byte
  codeOff : Nat
  sectors : List Nat
  loaded : Bool
  damaged : Bool
  deriving DecidableEq, Repr

/-- A memory, index or program object (Table 14-4). -/
structure ObjectSt where
  oid : Nat
  part : Nat
  owner : Nat
  /-- 1 memory, 2 index, 3 program. -/
  kind : Nat
  pages : Nat
  /-- R160 placement word. -/
  word : Nat
  /-- R173 KV layout. -/
  kvH : Nat
  kvL : Nat
  kvP : Nat
  kvD : Nat
  /-- R42 bytes written; the rest reads zero. -/
  data : Mem
  /-- R37 ranges with undefined contents: start, length, tag. -/
  undef : List (Nat × Nat × Nat)
  pageTab : Table PageSt
  tags : List TagSt
  /-- R209 sealed. -/
  isSealed : Bool
  /-- R404 power-fail mark. -/
  mark : Bool
  /-- R359 grants: context and rights. -/
  grants : List (Nat × Nat)
  /-- R364 destroy at the last DREF. -/
  doomed : Bool
  prog : Option ProgSt
  deriving DecidableEq, Repr

/-- A pass that entered an array: applied updates (journal of R145), errors, row verdicts. -/
structure PassRec where
  pid : Nat
  uid : Nat
  tile : Nat
  todo : PassTodo
  /-- R130 the draw of the checker's weights. -/
  draw : Nat
  checked : Bool
  entered : Nat
  applied : List (Nat × Nat × Int)
  errs : List PassError
  okRows : List Nat
  badRows : List Nat
  deriving DecidableEq, Repr

/-- One matrix array (chapter 4). -/
structure ArraySt where
  /-- R462 0 in service, 1 under test, 2 retired. -/
  state : Nat
  spareRows : Nat
  spareCols : Nat
  ecc : Nat
  active : Nat
  idle : Nat
  /-- R86 staged pass: command and tile. -/
  staged : Option (Nat × Nat)
  /-- Passes between entry and last update, then passes awaiting verdicts. -/
  inflight : List PassRec
  checking : List PassRec
  /-- R90 slot owners: command and tile. -/
  slots : Table (Nat × Nat)
  /-- R188 class-0 command holding the class-0 output tile. -/
  class0 : Option Nat
  /-- R189 deficit counters of classes 1-3. -/
  deficit : Table Int
  /-- R189 last pass start of each context. -/
  lastStart : Table Nat
  /-- R194 class-0 charge of the window [ns]. -/
  charge : Nat
  /-- R411 time of passes of classes 1-3 in the window [ns]. -/
  used13 : Nat
  /-- R77 chain buffer: rows of the last requantized tile. -/
  chain : Table (List Byte)
  deriving DecidableEq, Repr

/-- One partition (chapters 8 and 18). -/
structure PartSt where
  /-- R180 0 SHARED, 1 CLAIMING, 2 EXCLUSIVE, 3 RELEASING. -/
  state : Nat
  set : Nat
  lead : Nat
  ctx : Nat
  quota : Nat
  resv : Nat
  resvNext : Nat
  demoted : Nat
  late : Table Nat
  t2quota : Nat
  deriving DecidableEq, Repr

/-- A targeted self-test: unit, the error that started it (0 none), running or due (R148, R203). -/
structure TestSt where
  kind : Nat
  index : Nat
  errSeq : Nat
  /-- Class of the error. -/
  cls : Nat
  running : Bool
  deriving DecidableEq, Repr

/-- What NAND programs carry: a cache extent, or a T2 page written by a command, with the channels of its partition (0-3)
whose share of it is not committed (R236). -/
inductive Item where
  | extent (id : Nat)
  | t2 (obj page uid : Nat) (left : List Nat)
  deriving DecidableEq, Repr

/-- One NAND die (chapter 10). -/
structure DieSt where
  busy : Option NandReq
  waiting : List NandReq
  /-- R240 codewords on the ladder: codeword and level. -/
  ladder : List (Nat × Nat)
  retired : Bool
  badBlocks : Nat
  patrolled : Nat
  deriving DecidableEq, Repr

/-- One NAND block. -/
structure BlockSt where
  erases : Nat
  reads : Nat
  torn : Bool
  retired : Bool
  committed : Nat
  laddered : Nat
  refresh : Bool
  calibrated : Nat
  calTemp : Int
  deriving DecidableEq, Repr

/-- One stripe group (R231, R244, R248, R255, R259). -/
structure GroupSt where
  free : Nat
  /-- 0 idle, 1 normal, 2 urgent. -/
  gc : Nat
  degraded : Bool
  /-- R248 the newest plan page: die index and block of each erase, and its sequence number. -/
  plan : List (Nat × Nat)
  planSeq : Nat
  /-- R248 journal dies (0 and 8) that hold the newest plan page. -/
  planOn : List Nat
  /-- R248 erases of the plan that have not ended. -/
  left : List (Nat × Nat)
  /-- R244 die index that erases. -/
  erasing : Option Nat
  deriving DecidableEq, Repr

/-- One open stripe row (R232): die indices programmed, and the items not yet committed with the die index of each. -/
structure RowSt where
  programmed : List Nat
  items : List (Nat × Nat)
  deriving DecidableEq, Repr

/-- The NAND subsystem. -/
structure NandSt where
  dies : Table DieSt
  blocks : Table BlockSt
  groups : Table GroupSt
  rows : Table RowSt
  items : Table Item
  syncMiss : Nat
  syncSlip : Nat
  syncFalse : Nat
  tornErase : Nat
  ladder : Table Nat
  retiredDies : Nat
  retiredBlocks : Nat
  scanRetired : List Nat
  scanMismatch : Nat
  /-- R202 passes of the DRAM patrol scrub and of the SRAM scrub. -/
  scrubs : Table Nat
  deriving DecidableEq, Repr

/-- A store journal entry (Table 11-3). -/
structure JEntry where
  kind : Nat
  slotBits : Nat
  sector : Nat
  seq : Nat
  time : Nat
  h : Nat
  k : Nat
  erases : Nat
  deriving DecidableEq, Repr

/-- The six ledger counters (Table 17-8), energy in µJ. -/
structure Counts where
  steps : Nat
  vops : Nat
  codes : Nat
  nread : Nat
  nwrite : Nat
  energy : Nat
  deriving DecidableEq, Repr

/-- A closed-period record (Table 17-9). -/
structure Closed where
  seq : Nat
  openAt : Nat
  closeAt : Nat
  len : Nat
  flags : Nat
  regressions : Nat
  hostOpen : Nat
  hostClose : Nat
  ctrs : Table Counts
  deriving DecidableEq, Repr

/-- A lacuna extent entry (Table 13-10, kind 0x01). -/
structure LacExt where
  flags : Nat
  fn : Nat
  nsid : Nat
  slba : Nat
  nlb : Nat
  sqid : Nat
  cid : Nat
  deriving DecidableEq, Repr

/-- A lacuna KCI entry (kind 0x02). -/
structure LacKci where
  ctx : Nat
  queue : Nat
  cid : Nat
  oid : Nat
  /-- R34 the object it was writing: its partition and the ranges. -/
  part : Nat
  deriving DecidableEq, Repr

/-- A power-fail record (R272, R339). -/
structure LacunaRec where
  seq : Nat
  time : Nat
  copied : Nat
  complete : Bool
  exts : List LacExt
  kcis : List LacKci
  counts : List (Nat × Nat)
  nExts : Nat
  nKcis : Nat
  unlisted : Nat
  snapshot : Option Closed
  /-- R323 the power was lost after a completed shutdown: the record reports nothing. -/
  quiet : Bool
  /-- Where it stands: two slots of the rotating area while it is in the hole, then its lacuna slot. -/
  place : List Nat
  deriving DecidableEq, Repr

/-- The program store (chapter 11). -/
structure StoreSt where
  journal : List JEntry
  activeCs : Nat
  used : Nat
  jseq : Nat
  h : Nat
  k : Nat
  erases : Nat
  tornErase : Nat
  slotA : Nat
  slotB : Nat
  imgA : Option FwImage
  imgB : Option FwImage
  runningB : Bool
  minSvn : Nat
  queue : List StoreOp
  cur : Option StoreOp
  lacuna : List LacunaRec
  hole : List LacunaRec
  lacSeq : Nat
  /-- R150 spare and retirement map: unit kind and index. -/
  retired : List (Nat × Nat)
  /-- R270 freed library sectors to erase (logical). -/
  freed : List Nat
  /-- Slots of the hole that do not read erased (R266, R268, R273). -/
  dirty : List Nat
  /-- R268 gap advances made. -/
  gaps : Nat
  /-- R279 a firmware commit being written: the command, whether slot B is the target, and the image. -/
  commit : Option (NvmeHdr × Bool × FwImage)
  deriving DecidableEq, Repr

/-- A logical block with its protection information (R313-R316), and the NAND block that holds it once it is committed
(die × 2048 + block). -/
structure Blk where
  data : List Byte
  guard : Nat
  app : Nat
  ref : Nat
  place : Nat
  deriving DecidableEq, Repr

/-- A piece of a write-type command in the cache or waiting for it (R317, R322): kind 0 write, 1 write zeroes,
2 deallocation; at most 256 KiB of data or an 8 MiB range. `dead` are the ranges that a later write, committed earlier,
already replaced. -/
structure Extent where
  id : Nat
  h : NvmeHdr
  slba : Nat
  nlb : Nat
  kind : Nat
  blocks : List Blk
  fua : Bool
  completed : Bool
  since : Nat
  dead : List (Nat × Nat)
  deriving DecidableEq, Repr

/-- A Flush waiting for writes (R319). -/
structure FlushSt where
  h : NvmeHdr
  waits : List Nat
  since : Nat
  deriving DecidableEq, Repr

/-- An Error Information log entry (R331). -/
structure ErrInfo where
  count : Nat
  sqid : Nat
  cid : Nat
  status : Nat
  lba : Nat
  nsid : Nat
  deriving DecidableEq, Repr

/-- An abort list entry (Table 14-9). -/
structure AbortEnt where
  kind : Nat
  reason : Nat
  queue : Nat
  cid : Nat
  ctx : Nat
  fetched : Nat
  entered : Nat
  oid : Nat
  deriving DecidableEq, Repr

/-- An NVMe completion handed to the host. -/
structure NvmeCpl where
  fn : Nat
  sqid : Nat
  cid : Nat
  sct : Nat
  sc : Nat
  dnr : Bool
  dw0 : Nat
  deriving DecidableEq, Repr

/-- An NVMe I/O queue: size, and the completion queue or vector it names. -/
structure IoQueue where
  size : Nat
  tail : Nat
  link : Nat
  irq : Bool
  deriving DecidableEq, Repr

/-- One function's NVMe controller (R306, R309). -/
structure Ctl where
  enabled : Bool
  ready : Bool
  sqs : Table IoQueue
  cqs : Table IoQueue
  feats : Table W32
  /-- R311 Timestamp: value [ms] set and device time of the set; origin 0 when never set. -/
  tsValue : Nat
  tsAt : Nat
  tsSet : Bool
  /-- R341 outstanding Asynchronous Event Requests, and events held without one. -/
  aers : List Nat
  held : List Nat
  /-- R341 the lacuna event of this start has been posted to the controller. -/
  told : Bool
  errLog : List ErrInfo
  aborts : List AbortEnt
  changed : List Nat
  /-- R323 0 none, 1 under way, 2 complete. -/
  shutdown : Nat
  deriving DecidableEq, Repr

/-- A namespace (R307, R308, R313): its committed blocks by LBA, and the blocks that cannot be read. -/
structure NsSt where
  gib : Nat
  lbaf : Nat
  /-- R313 FLBAS bit 4: metadata as an extended LBA. -/
  ext : Bool
  /-- R313 type of protection information, 0 none. -/
  pi : Nat
  attached : List Nat
  media : Table Blk
  /-- R241 blocks whose codeword is uncorrectable, with the NAND address. -/
  bad : Table Nat
  deriving DecidableEq, Repr

/-- An Opal locking range (R327). -/
structure LockSt where
  nsid : Nat
  slba : Nat
  nlb : Nat
  readLocked : Bool
  writeLocked : Bool
  keyGen : Nat
  deriving DecidableEq, Repr

/-- Block storage (chapter 13). -/
structure NvmeSt where
  ctls : Table Ctl
  ns : Table NsSt
  cache : List Extent
  waiting : List Extent
  flushes : List FlushSt
  /-- R331 fetched and not completed: header, opcode, device time of the fetch. -/
  outstanding : List (NvmeHdr × Nat × Nat)
  wce : Bool
  apst : Bool
  apstTable : List (Nat × Nat)
  idleSince : Nat
  /-- R330 0 none, 1 block erase, 2 crypto erase. -/
  sanitize : Nat
  sanitizeDone : Nat
  locks : Table LockSt
  mbrOn : Bool
  mbr : Mem
  readOnly : Bool
  fwBuf : Mem
  out : List NvmeCpl
  deriving DecidableEq, Repr

/-- A flit kept for retransmission (R293): sequence number, channel and bytes, and how often it was replayed. -/
structure TxFlit where
  seq : Nat
  channel : Nat
  bytes : List Byte
  replays : Nat
  firstReplay : Nat
  deriving DecidableEq, Repr

/-- One peer port (chapter 12). -/
structure Port where
  /-- R464 0 down, 1 training, 2 UP, 3 MISWIRED. -/
  state : Nat
  /-- R475 PEER_PRES_N low. -/
  present : Bool
  /-- R475 the partner's lanes have left electrical idle. -/
  partnerLive : Bool
  /-- R476 PEER_ALERT_N ignored. -/
  alertIgnored : Bool
  retraining : Bool
  lanes : Nat
  txSeq : Nat
  txBuf : List TxFlit
  rxNext : Nat
  acked : Nat
  nakSent : Bool
  /-- R295 credits held by channel, credits owed to the partner, and flits waiting for one. -/
  credits : Table Nat
  owed : Table Nat
  queue : List TxFlit
  /-- R476 low pulses that this drive gave on PEER_ALERT_N. -/
  pulses : Nat
  deriving DecidableEq, Repr

/-- What the last heartbeats of a member showed (R286, R287, R296). -/
structure Hb where
  seen : Bool
  missed : Nat
  goodRun : Nat
  incarnation : Nat
  gstate : Nat
  lost : Nat
  epoch : Nat
  deriving DecidableEq, Repr

/-- A message the drive hands to its ports, and keeps a copy of (R292). -/
structure PeerMsg where
  dst : Nat
  kind : Nat
  opId : Nat
  offset : Nat
  payload : List Byte
  sentAt : Nat
  deriving DecidableEq, Repr

/-- A group operation of this member (R299-R303). -/
structure GroupOp where
  uid : Nat
  seq : Nat
  mode : Nat
  posted : List Nat
  tiles : Table Nat
  envelopes : Table (Int × Int × Nat)
  rows : Table (List Int)
  rowSrcs : List (Nat × Nat)
  envSrcs : Table Nat
  mismatched : List (Nat × Nat)
  lastMsg : Nat
  timeout : Nat
  deriving DecidableEq, Repr

/-- Peer links and the shard group. -/
structure PeerSt where
  gid : W32
  valid : Bool
  member : Nat
  size : Nat
  bindValid : Bool
  bindCtx : Nat
  progressTo : Nat
  /-- R286 0 IDLE, 1 FORMING, 2 READY, 3 DEGRADED. -/
  group : Nat
  epoch : Nat
  lost : List Nat
  incarnation : Nat
  stale : Nat
  replays : Nat
  retiredLanes : List Nat
  ports : Table Port
  hb : Table Hb
  goodWindows : Nat
  formingSince : Nat
  ops : List GroupOp
  /-- R299 POSTs that came before this member's part: source and operation ID. -/
  earlyPosts : List (Nat × Nat)
  copies : List PeerMsg
  sent : List PeerMsg
  /-- The flits that left, with their port. -/
  wire : List (Nat × List Byte)
  deriving DecidableEq, Repr

/-- An error log record (Table 17-1). -/
structure ErrRec where
  seq : Nat
  time : Nat
  region : Nat
  tflags : Nat
  cls : Nat
  kind : Nat
  ctx : Nat
  unit : Nat
  addr : Nat
  status : Nat
  repeats : Nat
  detail : Nat
  queue : Nat
  cid : Nat
  fn : Nat
  deriving DecidableEq, Repr

/-- The error log (R431-R435, R465). -/
structure ErrSt where
  next : Nat
  staging : List ErrRec
  ring : List ErrRec
  isNew : Bool
  selLo : W32
  selHi : W32
  vec : W32
  dropped : Nat
  window : Option ErrRec
  /-- R433 device time of the newest record or of its last repeat. -/
  lastAt : Nat
  deriving DecidableEq, Repr

/-- The ledger and the colophon statistics (R438, R441-R448, R466). -/
structure LedgerSt where
  period : Nat
  openSeq : Nat
  openAt : Nat
  openLen : Nat
  isOpen : Bool
  flags : Nat
  regressions : Nat
  hostOpen : Nat
  ctrs : Table Counts
  ring : List Closed
  ack : Nat
  ackLo : W32
  selLo : W32
  selHi : W32
  overwritten : Nat
  ctxSel : Nat
  ctxWin : Option Counts
  recWin : Option Closed
  stats : Table (List Nat)
  statsSince : Nat
  deriving DecidableEq, Repr

/-- The register block's own state, keys, interrupts and the management interface. -/
structure MgmtSt where
  /-- R455 HIF_CFG_ERR and HIF_CFG_ERR_ADDR. -/
  cfgErr : W32
  cfgAddr : Nat
  /-- R451 latched _HI values by the offset of their _LO register. -/
  latch : Table W32
  /-- R463 keys. -/
  keySel : Nat
  keyData : Table Byte
  keys : Table (List Byte)
  /-- What the last register read or NVMe-MI request returned to its sender. -/
  readPort : W64
  miOut : List Byte
  /-- R353, R435 interrupts signalled: function and vector. -/
  msix : List (Nat × Nat)
  /-- R436 SMBus configuration, and the MCTP state. -/
  smbCfg : Table Nat
  mctp : Nat
  deriving DecidableEq, Repr

/-- The drive, the bytes it has written to host memory, and the queue of waiting commands. -/
structure State where
  variant : Variant
  power : PowerSt
  time : TimeSt
  ctxs : Table Context
  cmds : List Cmd
  objs : Table ObjectSt
  arrays : Table ArraySt
  parts : Table PartSt
  tests : List TestSt
  /-- R149 verdict history: kind, index, power-on time of each transient verdict. -/
  verdicts : List (Nat × Nat × Nat)
  /-- R151 lasting and transient verdicts of each unit, by unit word. -/
  verdictCtrs : Table (Nat × Nat)
  nand : NandSt
  store : StoreSt
  nvme : NvmeSt
  peer : PeerSt
  errs : ErrSt
  ledger : LedgerSt
  mgmt : MgmtSt
  host : Mem
  /-- Numbers handed out to commands, objects, passes and items. -/
  nextId : Nat
  /-- The model's own counter of free values drawn (assumption log 1). -/
  freeCtr : Nat
  pending : List Instr
  deriving DecidableEq, Repr

/-! ### Reset values -/

/-- R405-R424 after power-on reset, PERST# held; both rails valid. -/
def PowerSt.reset : PowerSt :=
  { mode := .powerOnReset, rail12 := true, rail33 := true, pwrdisPin := false, perstPin := true, linkUp := false,
    commonClock := false, miReady := false, pstate := 0, lastOp := 0, lowPending := none, rails := [], thermal := 0, throttled := false,
    emergency := false, critical := false, calmSince := none, coolSince := none, hotSince := none, tn := [], tm1 := 0, draws := [], monTn := [], monComposite := 0,
    nvmeReady := false, computeReady := false, failed := false, resetCause := 1, holdCap := 0, holdEnergy := 0,
    checkRunning := false, checkDone := false, bankFailed := false, t0 := none, byPwrdis := false, recovering := [], recoveries := [],
    ledToggle := false, onTime := 0 }

/-- R60: a period estimate of 1 ns, R62 UNLOCKED, no stretch. -/
def Region.reset : Region :=
  { lock := 0, time := 0, period := 67108864, slew := 0, ticks := 0, missed := 0, good := 0, heldFor := 0, delay16 := 0,
    osc := 0, stretch := 0, slack := 0, low := 0, calm := 0, tj := 0, warns := 0, stretches := 0, refused := 0,
    breaches := 0, switches := 0, holdovers := 0, monTj := 0, monV := 0, monLock := 0, monStretch := 0, monSlack := 0,
    monRate := 0 }

def TimeSt.reset : TimeSt :=
  { now := 0, running := false, recorded := none, beacon := 0, window := 0, regions := [] }

/-- Table 14-1 and Table 18-13: context n belongs to partition n mod 8. -/
def Context.reset (n : Nat) : Context :=
  { partition := n % 8, maxClass := if n = 0 then 0 else 1, floorMode := 1, floorN := 8, adminOff := false, state := 0,
    faultStatus := 0, enable := false, policy := 0x100, seedLo := 0, seedHi := 0, seed := 0, policyErr := 0, openErr := 0,
    ctlSqLo := 0, ctlSqHi := 0, ctlCqLo := 0, ctlCqHi := 0, ctlSq := 0, ctlCq := 0, ctlSize := 0, c0Discard := 0, viol := 0, resetReason := 0,
    queues := [], handles := [], events := [], slots := [] }

def Tele.reset : Tele :=
  { checked := 0, failed := 0, retried := 0, split := 0, unchecked := 0, sat := 0, flushed := 0, lockstep := 0,
    start := none, stop := 0, startRegion := 37, stopRegion := 37, unlocked := false, widened := false, minV := 65535,
    maxT := -32768, maxStretch := 0, breaches := 0, minRate := 65535 }

def ArraySt.reset : ArraySt :=
  { state := 0, spareRows := 0, spareCols := 0, ecc := 0, active := 0, idle := 0,
    staged := none, inflight := [], checking := [], slots := [], class0 := none, deficit := [], lastStart := [],
    charge := 0, used13 := 0, chain := [] }

/-- Table 18-12: quota 0x60 (6 GiB), reservation 0x19 (25 %). -/
def PartSt.reset : PartSt :=
  { state := 0, set := 0, lead := 0, ctx := 0, quota := 0x60, resv := 25, resvNext := 25, demoted := 0, late := [],
    t2quota := 0 }

def DieSt.reset : DieSt :=
  { busy := none, waiting := [], ladder := [], retired := false, badBlocks := 0, patrolled := 0 }

def BlockSt.reset : BlockSt :=
  { erases := 0, reads := 0, torn := false, retired := false, committed := 0, laddered := 0, refresh := false,
    calibrated := 0, calTemp := 0 }

/-- All 2,048 stripes of a group free. -/
def GroupSt.reset : GroupSt :=
  { free := 2048, gc := 0, degraded := false, plan := [], planSeq := 0, planOn := [], left := [], erasing := none }

def NandSt.reset : NandSt :=
  { dies := [], blocks := [], groups := [], rows := [], items := [], syncMiss := 0, syncSlip := 0, syncFalse := 0,
    tornErase := 0, ladder := [], retiredDies := 0, retiredBlocks := 0, scanRetired := [], scanMismatch := 0, scrubs := [] }

def Counts.zero : Counts := { steps := 0, vops := 0, codes := 0, nread := 0, nwrite := 0, energy := 0 }

/-- R267: H = 3,968 and K = 0. Slot A holds the confirmed image (assumption log 4). -/
def StoreSt.reset : StoreSt :=
  { journal := [], activeCs := 0, used := 0, jseq := 0, h := 3968, k := 0, erases := 0, tornErase := 0, slotA := 4,
    slotB := 0, imgA := some { version := 0x06000000, svn := 0, sigOk := true }, imgB := none, runningB := false,
    minSvn := 0, queue := [], cur := none, lacuna := [], hole := [], lacSeq := 0, retired := [],
    freed := [], dirty := [], gaps := 0, commit := none }

def Ctl.reset : Ctl :=
  { enabled := false, ready := false, sqs := [], cqs := [], feats := [], tsValue := 0, tsAt := 0, tsSet := false,
    aers := [], held := [], told := false, errLog := [], aborts := [], changed := [], shutdown := 0 }

def LockSt.reset : LockSt :=
  { nsid := 0, slba := 0, nlb := 0, readLocked := false, writeLocked := false, keyGen := 0 }

def NvmeSt.reset : NvmeSt :=
  { ctls := [], ns := [], cache := [], waiting := [], flushes := [], outstanding := [], wce := true, apst := false,
    apstTable := [], idleSince := 0, sanitize := 0, sanitizeDone := 0, locks := [], mbrOn := false, mbr := [],
    readOnly := false, fwBuf := [], out := [] }

/-- R295 credits of the four channels. -/
def Port.reset : Port :=
  { state := 0, present := false, partnerLive := false, alertIgnored := false, retraining := false, lanes := 0, txSeq := 0,
    txBuf := [], rxNext := 0, acked := 0, nakSent := false, credits := [(0, 16), (1, 192), (2, 64), (3, 32)], owed := [],
    queue := [], pulses := 0 }

def Hb.reset : Hb :=
  { seen := false, missed := 0, goodRun := 0, incarnation := 0, gstate := 0, lost := 0, epoch := 0 }

def PeerSt.reset : PeerSt :=
  { gid := 0, valid := false, member := 0, size := 0, bindValid := false, bindCtx := 0, progressTo := 1000, group := 0,
    epoch := 0, lost := [], incarnation := 0, stale := 0, replays := 0, retiredLanes := [], ports := [], hb := [],
    goodWindows := 0, formingSince := 0, ops := [], earlyPosts := [], copies := [], sent := [], wire := [] }

/-- R465: records are numbered from 1. -/
def ErrSt.reset : ErrSt :=
  { next := 1, staging := [], ring := [], isNew := false, selLo := 0, selHi := 0, vec := 0, dropped := 0, window := none,
    lastAt := 0 }

/-- R443: a period of 3,600 s. -/
def LedgerSt.reset : LedgerSt :=
  { period := 3600, openSeq := 0, openAt := 0, openLen := 3600, isOpen := false, flags := 0, regressions := 0,
    hostOpen := 0, ctrs := [], ring := [], ack := 0, ackLo := 0, selLo := 0, selHi := 0, overwritten := 0,
    ctxSel := 0, ctxWin := none, recWin := none, stats := [], statsSince := 0 }

def MgmtSt.reset : MgmtSt :=
  { cfgErr := 0, cfgAddr := 0, latch := [], keySel := 0, keyData := [], keys := [], readPort := 0, miOut := [], msix := [],
    smbCfg := [], mctp := 0 }

/-- The drive right after a first power-on reset, both rails valid and PERST# asserted; nothing in the queue. -/
def State.reset : State :=
  { variant := .dx30, power := PowerSt.reset, time := TimeSt.reset, ctxs := [], cmds := [], objs := [], arrays := [],
    parts := [], tests := [], verdicts := [], verdictCtrs := [], nand := NandSt.reset, store := StoreSt.reset, nvme := NvmeSt.reset,
    peer := PeerSt.reset, errs := ErrSt.reset, ledger := LedgerSt.reset, mgmt := MgmtSt.reset, host := [], nextId := 1,
    freeCtr := 0, pending := [] }

end Sys2Proof.Machine
end

