-- ==== Sys2Proof/Machine/Ops.lean ====
section
/-! DEFINITION. The shared operations on the state: reading and changing one component or one record of it, free values,
interrupts, asynchronous events, the error log (R431-R434), the abort lists (R369), the ledger (R441) and self-tests (R148). -/

namespace Sys2Proof.Machine

/-! ### Components -/

def State.modPower (s : State) (f : PowerSt → PowerSt) : State := { s with power := f s.power }
def State.modTime (s : State) (f : TimeSt → TimeSt) : State := { s with time := f s.time }
def State.modNand (s : State) (f : NandSt → NandSt) : State := { s with nand := f s.nand }
def State.modStore (s : State) (f : StoreSt → StoreSt) : State := { s with store := f s.store }
def State.modNvme (s : State) (f : NvmeSt → NvmeSt) : State := { s with nvme := f s.nvme }
def State.modPeer (s : State) (f : PeerSt → PeerSt) : State := { s with peer := f s.peer }
def State.modErrs (s : State) (f : ErrSt → ErrSt) : State := { s with errs := f s.errs }
def State.modLedger (s : State) (f : LedgerSt → LedgerSt) : State := { s with ledger := f s.ledger }
def State.modMgmt (s : State) (f : MgmtSt → MgmtSt) : State := { s with mgmt := f s.mgmt }

def State.modCtxs (s : State) (f : Table Context → Table Context) : State := { s with ctxs := f s.ctxs }
def State.modCmds (s : State) (f : List Cmd → List Cmd) : State := { s with cmds := f s.cmds }
def State.modObjs (s : State) (f : Table ObjectSt → Table ObjectSt) : State := { s with objs := f s.objs }
def State.modArrays (s : State) (f : Table ArraySt → Table ArraySt) : State := { s with arrays := f s.arrays }
def State.modParts (s : State) (f : Table PartSt → Table PartSt) : State := { s with parts := f s.parts }
def State.modTests (s : State) (f : List TestSt → List TestSt) : State := { s with tests := f s.tests }

/-- Operations that may find no room, one after another; `none` when one of them does. -/
def tryAll {α : Type} (f : State → α → Option State) : List α → State → Option State
  | [], s => some s
  | x :: xs, s =>
    match f s x with
    | none => none
    | some s' => tryAll f xs s'

/-! ### Records -/

def State.ctx (s : State) (n : Nat) : Context := tget (Context.reset n) s.ctxs n
def State.setCtx (s : State) (n : Nat) (c : Context) : State := { s with ctxs := tset s.ctxs n c }
def State.modCtx (s : State) (n : Nat) (f : Context → Context) : State := s.setCtx n (f (s.ctx n))

def State.cmd? (s : State) (uid : Nat) : Option Cmd := s.cmds.find? (fun c => c.uid == uid)
def State.modCmd (s : State) (uid : Nat) (f : Cmd → Cmd) : State :=
  s.modCmds (fun l => l.map (fun c => if c.uid = uid then f c else c))

def State.obj? (s : State) (o : Nat) : Option ObjectSt := tfind s.objs o
def State.setObj (s : State) (o : Nat) (x : ObjectSt) : State := { s with objs := tset s.objs o x }
def State.modObj (s : State) (o : Nat) (f : ObjectSt → ObjectSt) : State :=
  match s.obj? o with
  | none => s
  | some x => s.setObj o (f x)

def State.arr (s : State) (a : Nat) : ArraySt := tget ArraySt.reset s.arrays a
def State.setArr (s : State) (a : Nat) (x : ArraySt) : State := { s with arrays := tset s.arrays a x }
def State.modArr (s : State) (a : Nat) (f : ArraySt → ArraySt) : State := s.setArr a (f (s.arr a))

def State.part (s : State) (p : Nat) : PartSt := tget PartSt.reset s.parts p
def State.setPart (s : State) (p : Nat) (x : PartSt) : State := { s with parts := tset s.parts p x }
def State.modPart (s : State) (p : Nat) (f : PartSt → PartSt) : State := s.setPart p (f (s.part p))

def State.region (s : State) (r : Nat) : Region := tget Region.reset s.time.regions r
def State.modRegion (s : State) (r : Nat) (f : Region → Region) : State :=
  s.modTime (fun t => { t with regions := tset t.regions r (f (tget Region.reset t.regions r)) })

def State.ctl (s : State) (fn : Nat) : Ctl := tget Ctl.reset s.nvme.ctls fn
def State.modCtl (s : State) (fn : Nat) (f : Ctl → Ctl) : State :=
  s.modNvme (fun n => { n with ctls := tset n.ctls fn (f (tget Ctl.reset n.ctls fn)) })

def State.die (s : State) (d : Nat) : DieSt := tget DieSt.reset s.nand.dies d
def State.modDie (s : State) (d : Nat) (f : DieSt → DieSt) : State :=
  s.modNand (fun n => { n with dies := tset n.dies d (f (tget DieSt.reset n.dies d)) })

/-- NAND blocks are numbered die × 2048 + block. -/
def blockKey (die block : Nat) : Nat := die * 2048 + block

def State.block (s : State) (die block : Nat) : BlockSt := tget BlockSt.reset s.nand.blocks (blockKey die block)
def State.modBlock (s : State) (die block : Nat) (f : BlockSt → BlockSt) : State :=
  s.modNand (fun n => { n with blocks := tset n.blocks (blockKey die block) (f (tget BlockSt.reset n.blocks (blockKey die block))) })

def State.group (s : State) (g : Nat) : GroupSt := tget GroupSt.reset s.nand.groups g
def State.modGroup (s : State) (g : Nat) (f : GroupSt → GroupSt) : State :=
  s.modNand (fun n => { n with groups := tset n.groups g (f (tget GroupSt.reset n.groups g)) })

def State.port (s : State) (p : Nat) : Port := tget Port.reset s.peer.ports p
def State.modPort (s : State) (p : Nat) (f : Port → Port) : State :=
  s.modPeer (fun x => { x with ports := tset x.ports p (f (tget Port.reset x.ports p)) })

/-- A new number for a command, an object, a pass or an item. -/
def State.bumpBy (s : State) (n : Nat) : State := { s with nextId := s.nextId + n }
def State.bump (s : State) : State := s.bumpBy 1

/-- The state after one free value is drawn; the draw's tag is the counter before it (assumption log 1). -/
def State.drawn (s : State) : State := { s with freeCtr := s.freeCtr + 1 }

/-- Write bytes to host memory. -/
def State.hostWrite (s : State) (addr : Nat) (bs : List Byte) : State := { s with host := mwrite s.host addr bs }

/-! ### Variant figures (Table 1-1) -/

def Variant.dies (v : Variant) : Nat := match v with | .dx30 => 256 | .dx61 => 512
def Variant.targets (v : Variant) : Nat := match v with | .dx30 => 8 | .dx61 => 16
def Variant.groups (v : Variant) : Nat := match v with | .dx30 => 16 | .dx61 => 32
/-- User capacity [bytes]. -/
def Variant.user (v : Variant) : Nat := match v with | .dx30 => 30720000000000 | .dx61 => 61440000000000
/-- Pages of the partition pool in one stack: 21 GiB or 19 GiB (R24). -/
def Variant.pool (v : Variant) : Nat := match v with | .dx30 => 344064 | .dx61 => 311296
/-- Stripe groups in a partition (R231). -/
def Variant.perPart (v : Variant) : Nat := match v with | .dx30 => 2 | .dx61 => 4
/-- The stripe group of a die, which is numbered 16 × channel + target (R231). -/
def Variant.groupOf (v : Variant) (die : Nat) : Nat := die / 64 * v.perPart + die % 16 / 4
/-- The index of a die in its stripe group (R231). -/
def idxOf (die : Nat) : Nat := 4 * (die / 16 % 4) + die % 4
/-- The die with an index in a stripe group. -/
def Variant.dieAt (v : Variant) (g i : Nat) : Nat := 16 * (4 * (g / v.perPart) + i / 4) + 4 * (g % v.perPart) + i % 4
/-- Highest T1 quota in units of 64 MiB (R456). -/
def Variant.maxQuota (v : Variant) : Nat := match v with | .dx30 => 672 | .dx61 => 608
/-- Highest T2 quota of a partition [GiB] (R155). -/
def Variant.maxT2 (v : Variant) : Nat := match v with | .dx30 => 3576 | .dx61 => 7152

/-! ### Interrupts and asynchronous events -/

/-- Signal an MSI-X vector of a function. -/
def State.signal (s : State) (fn vec : Nat) : State := s.modMgmt (fun m => { m with msix := m.msix ++ [(fn, vec)] })

/-- The interrupt of an NVMe completion: vector 0 of the admin queue, or the vector of the completion queue that the
submission queue names, when its interrupts are enabled (assumption log 12). -/
def State.nvmeIrq (s : State) (fn sqid : Nat) : State :=
  if sqid = 0 then s.signal fn 0
  else match tfind (s.ctl fn).sqs sqid with
    | none => s
    | some q => match tfind (s.ctl fn).cqs q.link with
      | none => s
      | some c => if c.irq then s.signal fn c.link else s

/-- Hand an NVMe completion to the host. -/
def State.cpl (s : State) (c : NvmeCpl) : State := (s.modNvme (fun n => { n with out := n.out ++ [c] })).nvmeIrq c.fn c.sqid

/-- R341, R369: an asynchronous event ends the oldest outstanding request of the controller; without one it is held. -/
def State.asyncEvent (s : State) (fn dw0 : Nat) : State :=
  match (s.ctl fn).aers with
  | [] => s.modCtl fn (fun c => { c with held := c.held ++ [dw0] })
  | cid :: rest =>
    (s.modCtl fn (fun c => { c with aers := rest })).cpl
      { fn := fn, sqid := 0, cid := cid, sct := 0, sc := 0, dnr := false, dw0 := dw0 }

/-- Completion dword 0 of an event: type in bits 2:0, information in 15:8, log page in 23:16. -/
def eventDw (type info page : Nat) : Nat := type + info * 2 ^ 8 + page * 2 ^ 16

/-! ### Timestamps (R64) -/

/-- Flags of a timestamp that a region takes: bit 0 unlocked, bit 1 widened. -/
def State.stampFlags (s : State) (r : Nat) : Nat :=
  b2n ((s.region r).lock != 2) + 2 * b2n ((s.region r).osc == 2)

/-! ### The error log (R431-R435) -/

/-- Unit field of Table 17-1: kind of Table 17-3 and index. -/
def unitOf (kind index : Nat) : Nat := kind * 4096 + index % 4096

/-- What an error log record says beside its number, time and repeat count. -/
structure ErrArg where
  cls : Nat
  kind : Nat
  ctx : Nat := 0xFFFF
  unit : Nat := 0
  addr : Nat := 0
  status : Nat := 0
  detail : Nat := 0
  queue : Nat := 0
  cid : Nat := 0
  fn : Nat := 0xFFFF
  region : Nat := 37
  deriving DecidableEq, Repr

/-- R433: may an error join a record? Verdicts, retirements and another status are never merged. -/
def ErrArg.joins (a : ErrArg) (r : ErrRec) : Bool :=
  decide (a.kind ≤ 2) && a.cls == r.cls && a.kind == r.kind && a.ctx == r.ctx && a.unit == r.unit && a.status == r.status

/-- The record of an error. -/
def ErrArg.toRec (a : ErrArg) (seq time tflags : Nat) : ErrRec :=
  { seq := seq, time := time, region := a.region, tflags := tflags, cls := a.cls, kind := a.kind, ctx := a.ctx,
    unit := a.unit, addr := a.addr, status := a.status, repeats := 0, detail := a.detail, queue := a.queue, cid := a.cid,
    fn := a.fn }

/-- Raise the repeat count of the last record of a list. -/
def bumpLast : List ErrRec → List ErrRec
  | [] => []
  | [r] => [{ r with repeats := satAdd 16 r.repeats 1 }]
  | r :: rest => r :: bumpLast rest

/-- Raise the repeat count of every staged record that an error joins. -/
def bumpJoined (a : ErrArg) (l : List ErrRec) : List ErrRec :=
  l.map (fun r => if a.joins r then { r with repeats := satAdd 16 r.repeats 1 } else r)

/-- The newest record. -/
def ErrSt.newest (e : ErrSt) : Option ErrRec := match e.staging.getLast? with | some r => some r | none => e.ring.getLast?

/-- R465: raise NEW, and signal the vector of ERR_IRQ_VEC when NEW rises while it is enabled. -/
def State.raiseNew (s : State) : State :=
  let s' := s.modErrs (fun e => { e with isNew := true })
  if s.errs.isNew = false ∧ bit s.errs.vec.toNat 31 = true then s'.signal 0 (s.errs.vec.toNat % 512) else s'

/-- R431, R433, R434: write one record, or merge it into the newest one. A full staging buffer merges it into a record that
it joins whatever the time, and counts it (assumption log 9). -/
def State.logErr (s : State) (a : ErrArg) : State :=
  let now := s.time.now
  let run := match s.errs.newest with
    | some r => a.joins r && decide (now ≤ s.errs.lastAt + 1000000)
    | none => false
  if run then
    s.modErrs (fun e => if e.staging.isEmpty then { e with ring := bumpLast e.ring, lastAt := now }
      else { e with staging := bumpLast e.staging, lastAt := now })
  else if 256 ≤ s.errs.staging.length then
    s.modErrs (fun e => { e with staging := bumpJoined a e.staging, dropped := satAdd 32 e.dropped 1 })
  else
    (s.modErrs (fun e => { e with
      staging := e.staging ++ [a.toRec e.next now (s.stampFlags a.region)], next := e.next + 1, lastAt := now })).raiseNew

/-- The sequence number of the record that the last logged error stands in. -/
def State.lastSeq (s : State) : Nat := match s.errs.newest with | some r => r.seq | none => 0

/-- The 64 bytes of a record (Table 17-1). -/
def ErrRec.bytes (r : ErrRec) : List Byte :=
  let b := le 8 r.seq ++ le 8 r.time ++ le 1 r.region ++ le 1 r.tflags ++ le 1 r.cls ++ le 1 r.kind ++ le 2 r.ctx ++
    le 2 r.unit ++ le 8 r.addr ++ le 2 r.status ++ le 2 r.repeats ++ le 4 r.detail ++ le 2 r.queue ++ le 2 r.cid ++
    le 2 r.fn ++ zeros 14
  b ++ le 4 (crc32c b)

/-- R41: a violation is logged and counted for its context (Table 18-14). -/
def State.logViol (s : State) (a : ErrArg) : State :=
  (s.logErr { a with kind := 0 }).modCtx a.ctx (fun c => { c with viol := satAdd 32 c.viol 1 })

/-! ### Targeted self-tests (R148) -/

/-- Unit kinds of Table 17-3 that have a test in Table 6-4. -/
def testable (kind : Nat) : Bool := decide (1 ≤ kind ∧ kind ≤ 10)

/-- A test of a unit becomes due; an error in a unit whose test is due or running joins it. -/
def State.startTest (s : State) (kind index cls seq : Nat) : State :=
  if s.tests.any (fun t => t.kind == kind && t.index == index) then s
  else s.modTests (fun l => l ++ [{ kind := kind, index := index, errSeq := seq, cls := cls, running := false }])

/-- Log an error and make the test of a unit due. -/
def State.logTest (s : State) (a : ErrArg) (kind index : Nat) : State :=
  let s1 := s.logErr { a with unit := unitOf kind index }
  s1.startTest kind index a.cls s1.lastSeq

/-! ### Abort lists (R369) -/

/-- Add entries to a function's abort list, with its asynchronous event. -/
def State.abortAdd (s : State) (fn : Nat) (es : List AbortEnt) : State :=
  if es.isEmpty then s
  else (s.modCtl fn (fun c => { c with aborts := c.aborts ++ es })).asyncEvent fn (eventDw 7 0x01 0xC2)

/-- The 32 bytes of an entry (Table 14-9). -/
def AbortEnt.bytes (a : AbortEnt) : List Byte :=
  le 1 a.kind ++ le 1 a.reason ++ le 2 a.queue ++ le 2 a.cid ++ le 1 a.ctx ++ zeros 1 ++ le 8 a.fetched ++ le 8 a.entered ++
    le 8 a.oid

/-! ### The ledger (R441) -/

/-- A 64-bit counter that stops at its maximum. -/
def add64 (x n : Nat) : Nat := satAdd 64 x n

/-- Sum of two counter sets. -/
def Counts.add (x y : Counts) : Counts :=
  { steps := add64 x.steps y.steps, vops := add64 x.vops y.vops, codes := add64 x.codes y.codes,
    nread := add64 x.nread y.nread, nwrite := add64 x.nwrite y.nwrite, energy := x.energy + y.energy }

/-- Charge a context; the energy of the work is the drive's estimate, a free value (R442). -/
def State.charge (s : State) (ctx : Nat) (c : Counts) : State :=
  let c' : Counts := { c with energy := Config.freeNat s.freeCtr ctx }
  (s.modLedger (fun l => { l with ctrs := tmod Counts.zero l.ctrs ctx (fun x => x.add c') })).drawn

/-! ### SMART critical warning (R437) -/

/-- R437: a die with fewer than 48 spare blocks; a die holds 96 of them less those retired (R259, assumption log 10). -/
def State.sparesLow (s : State) : Bool := s.nand.dies.any (fun d => decide (48 < d.2.badBlocks))

/-- The bits of Table 17-6. -/
def State.critical (s : State) : Nat :=
  b2n s.sparesLow + 2 * b2n (decide (2 ≤ s.power.thermal))
  + 4 * b2n (decide (0 < s.nand.retiredDies) || s.power.failed)
  + 8 * b2n (s.nvme.readOnly || s.power.failed)
  + 16 * b2n s.power.bankFailed

end Sys2Proof.Machine
end

