-- ==== Sys2Proof/Machine/Flags.lean ====
section
/-! DEFINITION. The status words and conditions that the registers, windows and checks are made of: who may fetch, the
write-through condition (R34, R273, R423, R429), handle and event words (Table 14-6), CTX_STATE, PWR_STATUS, the KCI status
codes (Table 15-12) and the NVMe statuses (Table 13-6). -/

namespace Sys2Proof.Machine

/-! ### KCI status codes (Table 15-12) -/

def stSuccess : Nat := 0x0000
def stShort : Nat := 0x0001
def stRetriedOk : Nat := 0x0002
def stInvalidField : Nat := 0x0101
def stCtxFaulted : Nat := 0x0102
def stEventErrored : Nat := 0x0103
def stObjectExists : Nat := 0x0104
def stShareDenied : Nat := 0x0105
def stHandlesFull : Nat := 0x0106
def stProgramRejected : Nat := 0x0107
def stMemProtection : Nat := 0x0201
def stMemUnmapped : Nat := 0x0202
def stClosedStacks : Nat := 0x0203
def stTierFull : Nat := 0x0204
def stScaleExcursion : Nat := 0x0301
def stCheckFailed : Nat := 0x0302
def stWindowExceeded : Nat := 0x0303
def stNonfinite : Nat := 0x0304
def stPreempt : Nat := 0x0401
def stReservation : Nat := 0x0402
def stExclusive : Nat := 0x0403
def stClassDenied : Nat := 0x0404
def stIndexStale : Nat := 0x0501
def stWrongPartition : Nat := 0x0502
def stIndexInvalid : Nat := 0x0503
def stStorageMedia : Nat := 0x0601
def stLostAtPowerFail : Nat := 0x0602
def stPeerLost : Nat := 0x0701
def stPeerNotBound : Nat := 0x0702
def stPeerAborted : Nat := 0x0703
def stInternal : Nat := 0x0F01

/-- Not a status code: the mark of a command that a lost host link stops; it is never posted (R47). -/
def stLinkLost : Nat := 0xFFFF

/-- An error status is any but SUCCESS, SUCCESS_SHORT and CHECK_FAILED_RETRIED_OK. -/
def isError (st : Nat) : Bool := decide (2 < st)

/-- Violations of Table 14-7, class MEMORY. -/
def isViolation (st : Nat) : Bool := st == stMemProtection || st == stMemUnmapped || st == stClosedStacks

/-! ### Conditions of the drive -/

/-- The drive runs: rails up, PERST# deasserted, no power failure, and die C not in recovery (Table 2-3). -/
def State.live (s : State) : Bool := decide (s.power.mode = .running) && !s.power.recovering.contains 2

/-- The host can reach the drive over the link. -/
def State.linked (s : State) : Bool := s.live && s.power.linkUp

/-- R424: mailbox pages and counter windows act from compute ready on. -/
def State.kciOpen (s : State) : Bool := s.linked && s.power.computeReady

/-- R453: the global block acts from NVMe ready on. -/
def State.globalOpen (s : State) : Bool := s.linked && s.power.nvmeReady

/-- A sanitize runs (R330). -/
def State.sanitizing (s : State) : Bool := decide (s.nvme.sanitize ≠ 0)

/-- Hole sectors that stand erased and hold no record: 96 less two for each record in the hole, less those that wait for an
erase (R272, R273). -/
def State.holeFree (s : State) : Nat := 96 - 2 * s.store.hole.length - s.store.dirty.length

/-- Writes complete as though FUA were set (Table 18-6). -/
def State.writeThrough (s : State) : Bool :=
  s.power.bankFailed || s.power.checkRunning || !s.power.checkDone || decide (s.holeFree < 2)

/-- PWR_STATUS (Table 18-6). -/
def State.pwrStatus (s : State) : Nat :=
  b2n s.power.computeReady * 2 ^ 31 + b2n s.power.failed * 2 ^ 30 + b2n s.writeThrough * 2 ^ 29 +
    b2n s.nvme.readOnly * 2 ^ 28 + b2n s.sanitizing * 2 ^ 27 + s.power.thermal * 2 ^ 24 + s.power.pstate

/-- R411, R405: array passes may start: PS0 to PS3 (Table 16-2) and below the critical level (Table 16-3). -/
def State.passesAllowed (s : State) : Bool :=
  s.live && decide (s.power.pstate ≤ 3) && decide (s.power.thermal < 3)

/-- Feature values that the host has not set: the temperature threshold is WCTEMP (R412), every event is reported
(assumption log 27). -/
def featDefault (fid : Nat) : Nat := if fid = 0x04 then 348 else if fid = 0x0B then 0x11F else 0

/-- A feature of a controller. -/
def Ctl.feat (c : Ctl) (fid : Nat) : Nat := match tfind c.feats fid with | some v => v.toNat | none => featDefault fid

/-- R435, R437: post the SMART event (type 1) to every enabled controller for the warning bits that an operation raised
and that the host has not masked; the information codes are PRESUMED from NVMe (assumption log 11). -/
def State.noteCritical (old new : State) : State :=
  let rose := (List.range 5).filter (fun i => bit new.critical i && !bit old.critical i)
  rose.foldl (fun s i =>
    let info := if i = 0 then 2 else if i = 1 then 1 else 0
    s.nvme.ctls.foldl (fun s c => if c.2.enabled && bit (c.2.feat 0x0B) i then s.asyncEvent c.1 (eventDw 1 info 0x02) else s) s) new

/-! ### Contexts -/

/-- CTX_STATE (Table 14-3). -/
def Context.stateWord (c : Context) : Nat := c.state * 2 ^ 28 + c.partition * 2 ^ 16 + c.faultStatus

/-- CTX_ASSIGN (Table 18-13). -/
def Context.assignWord (c : Context) : Nat :=
  c.floorN * 2 ^ 20 + c.floorMode * 2 ^ 18 + b2n c.adminOff * 2 ^ 16 + c.maxClass * 2 ^ 8 + c.partition

/-- Pending KCI commands of a context: fetched and not DONE. -/
def State.pendingOf (s : State) (ctx : Nat) : List Cmd := s.cmds.filter (fun c => c.e.ctx == ctx)

/-- The counter window's header word (Table 14-5). -/
def State.headerWord (s : State) (ctx : Nat) : Nat :=
  let c := s.ctx ctx
  c.state * 2 ^ 60 + c.partition * 2 ^ 48 + c.faultStatus * 2 ^ 32 + (s.pendingOf ctx).length

/-- Contexts that map an object (SHARE of Table 14-6). -/
def State.mappers (s : State) (o : Nat) : Nat :=
  (List.range 256).countP (fun n => (s.ctx n).handles.any (fun h => h.2.obj == o))

/-- The handle word (Table 14-6). -/
def State.handleWord (s : State) (ctx h : Nat) : Nat :=
  match tfind (s.ctx ctx).handles h with
  | none => 0
  | some x =>
    let damaged := match s.obj? x.obj with
      | some o => (match o.prog with | some p => p.damaged | none => false)
      | none => false
    let st := if x.draining then 2 else if damaged then 3 else 1
    let kind := match s.obj? x.obj with | some o => o.kind | none => 0
    st * 2 ^ 61 + kind * 2 ^ 59 + x.rights * 2 ^ 56 + x.dref * 2 ^ 32 + x.href * 2 ^ 16 + s.mappers x.obj * 2 ^ 8

/-- The event word (Table 14-5). -/
def State.eventWord (s : State) (ctx e : Nat) : Nat :=
  match tfind (s.ctx ctx).events e with
  | none => 0
  | some v => b2n v.err * 2 ^ 63 + v.value

/-- KCI_C0_FREE (Table 14-3). -/
def Context.c0Free (c : Context) : Nat :=
  if c.state = 1 ∧ (tfind c.queues 9).isSome = true then
    (List.range 16).foldl (fun n i => n + (match tfind c.slots i with
      | some x => if x.busy then 0 else 2 ^ i
      | none => 2 ^ i)) 0
  else 0

/-- An event record of zero. -/
def SlotSt.empty : SlotSt := { buf := [], busy := false, cid := 0 }

/-! ### NVMe statuses (Table 13-6 and R309-R312): status code type, status code, DNR -/

structure NvmeSts where
  sct : Nat
  sc : Nat
  dnr : Bool
  deriving DecidableEq, Repr

def nvOk : NvmeSts := { sct := 0, sc := 0, dnr := false }
def nvReadErr : NvmeSts := { sct := 2, sc := 0x81, dnr := true }
def nvGuard : NvmeSts := { sct := 2, sc := 0x82, dnr := true }
def nvAppTag : NvmeSts := { sct := 2, sc := 0x83, dnr := true }
def nvRefTag : NvmeSts := { sct := 2, sc := 0x84, dnr := true }
def nvCompare : NvmeSts := { sct := 2, sc := 0x85, dnr := true }
def nvAccess : NvmeSts := { sct := 2, sc := 0x86, dnr := true }
def nvWriteFault : NvmeSts := { sct := 2, sc := 0x80, dnr := true }
def nvInvalidNs : NvmeSts := { sct := 0, sc := 0x0B, dnr := true }
def nvSanitize : NvmeSts := { sct := 0, sc := 0x1D, dnr := false }
def nvSqDeleted : NvmeSts := { sct := 0, sc := 0x08, dnr := false }
def nvAborted : NvmeSts := { sct := 0, sc := 0x07, dnr := false }
def nvInternal : NvmeSts := { sct := 0, sc := 0x06, dnr := false }
def nvInvalidField : NvmeSts := { sct := 0, sc := 0x02, dnr := true }
def nvInvalidOpcode : NvmeSts := { sct := 0, sc := 0x01, dnr := true }
def nvSequence : NvmeSts := { sct := 0, sc := 0x0C, dnr := true }
def nvLbaRange : NvmeSts := { sct := 0, sc := 0x80, dnr := true }
def nvNotChangeable : NvmeSts := { sct := 1, sc := 0x0E, dnr := true }
def nvCapacity : NvmeSts := { sct := 1, sc := 0x15, dnr := true }
def nvFwSlot : NvmeSts := { sct := 1, sc := 0x06, dnr := true }
def nvFwImage : NvmeSts := { sct := 1, sc := 0x07, dnr := true }
def nvFwProhibited : NvmeSts := { sct := 1, sc := 0x13, dnr := true }
def nvFwReset : NvmeSts := { sct := 1, sc := 0x0B, dnr := false }
def nvInvalidLog : NvmeSts := { sct := 1, sc := 0x09, dnr := true }
def nvQid : NvmeSts := { sct := 1, sc := 0x01, dnr := true }
def nvQsize : NvmeSts := { sct := 1, sc := 0x02, dnr := true }
def nvCqInvalid : NvmeSts := { sct := 1, sc := 0x00, dnr := true }
def nvVector : NvmeSts := { sct := 1, sc := 0x08, dnr := true }
def nvQDeletion : NvmeSts := { sct := 1, sc := 0x0C, dnr := true }
def nvAttached : NvmeSts := { sct := 1, sc := 0x18, dnr := true }
def nvNotAttached : NvmeSts := { sct := 1, sc := 0x1A, dnr := true }
def nvNsIdUnavail : NvmeSts := { sct := 1, sc := 0x16, dnr := true }
def nvInvalidFormat : NvmeSts := { sct := 1, sc := 0x0A, dnr := true }

end Sys2Proof.Machine
end

