-- ==== Sys2Proof/Machine/Objects.lean ====
section
/-! DEFINITION. Memory objects and their pages: the placement word (R160), placement and room in the tiers (R154-R163),
reading and writing an object's bytes (R37, R42, R161, R166, R169), the KV layout (R173), the mapping and destruction of
objects (R357-R364, R176). -/

namespace Sys2Proof.Machine

/-- Bytes of a page (R157). -/
def pageSize : Nat := 65536

/-! ### The placement word (Table 7-2) -/

def homeTier (w : Nat) : Nat := bits w 31 30
def maxTier (w : Nat) : Nat := bits w 29 28
def dieSel (w : Nat) : Nat := bits w 27 26
def accessOf (w : Nat) : Nat := bits w 25 24
def runAhead (w : Nat) : Nat := bits w 23 16
def evictRank (w : Nat) : Nat := bits w 15 12
def kvFmtOf (w : Nat) : Nat := bits w 11 8

/-- R160, R206: a placement word that is rejected for an object of a kind. -/
def wordBad (kind w : Nat) : Bool :=
  homeTier w == 3 || maxTier w == 3 || dieSel w == 3 || decide (4 < kvFmtOf w) || decide (w % 256 ≠ 0)
    || decide (maxTier w < homeTier w) || (kind == 2 && (homeTier w != 2 || maxTier w != 2))

/-- Element bits and group size of a KV format (Table 5-6). -/
def kvShape (f : Nat) : Nat × Nat := if f = 1 ∨ f = 2 then (4, 32) else (8, 64)

/-- R173: pages of a KV-cache object: S × P code pages and S × ceil(P / X) exponent pages, X = b × G / 8. -/
def kvPages (f h l p : Nat) : Nat :=
  let s := 2 * l * h
  let x := (kvShape f).1 * (kvShape f).2 / 8
  s * p + s * ((p + x - 1) / x)

/-- R173: page and byte of a token's codes, and of its exponents, in layer l, K or V v, head hd. -/
def kvLocate (f h l' p d : Nat) (l v hd token : Nat) : (Nat × Nat) × (Nat × Nat) :=
  let b := (kvShape f).1
  let g := (kvShape f).2
  let t := 524288 / (d * b)
  let x := b * g / 8
  let s := (l * 2 + v) * h + hd
  let q := token / t
  let k := token % t
  ((s * p + q, k * d * b / 8),
   (2 * l' * h * p + s * ((p + x - 1) / x) + q / x, q % x * (524288 / (b * g)) + k * (d / g)))

/-! ### Objects -/

/-- R162, R364: HOME T2 or a program. -/
def ObjectSt.persistent (x : ObjectSt) : Bool := x.kind == 3 || homeTier x.word == 2

/-- Bytes of an object. -/
def ObjectSt.size (x : ObjectSt) : Nat := x.pages * pageSize

/-- The object of a partition that carries an ID (R356). -/
def State.findOid (s : State) (parts : List Nat) (oid : Nat) : Option (Nat × ObjectSt) :=
  s.objs.find? (fun p => parts.contains p.2.part && p.2.oid == oid)

/-- The partitions of the set that a partition belongs to (R23, R178); the partition alone in shared mode. -/
def State.setOf (s : State) (p : Nat) : List Nat :=
  let q := s.part p
  if q.state = 0 then [p] else (List.range (2 ^ q.set)).map (fun i => q.lead + i)

/-- Partitions whose resources an object's pages use: its own, or its set while an exclusive job holds it (R167). -/
def State.homeParts (s : State) (p : Nat) : List Nat := if (s.part p).state = 2 then s.setOf p else [p]

/-- Pages of partitions that a predicate on the page selects. -/
def State.pagesWhere (s : State) (parts : List Nat) (f : PageSt → Bool) : Nat :=
  (s.objs.map (fun o => if parts.contains o.2.part then o.2.pageTab.countP (fun p => f p.2) else 0)).sum

/-- Copies in T1 of a stack held for partitions (R154). -/
def State.copiesIn (s : State) (parts : List Nat) (tier : Nat) (die : Option Nat) : Nat :=
  (s.objs.map (fun o => if parts.contains o.2.part then
    (o.2.pageTab.map (fun p => p.2.copies.countP (fun c => c.tier == tier && (die == none || die == some c.die)))).sum
    else 0)).sum

/-- A page stands in a tier and die, or is moving to that tier. -/
def PageSt.inTier (p : PageSt) (tier : Nat) (die : Option Nat) : Bool :=
  (p.tier == tier || p.moving == some tier) && (die == none || die == some p.die)

/-- T1 pages that partitions hold, copies among them (Table 18-15). -/
def State.t1Held (s : State) (parts : List Nat) : Nat :=
  s.pagesWhere parts (fun p => p.inTier 1 none) + s.copiesIn parts 1 none

/-- T2 pages that partitions hold. -/
def State.t2Held (s : State) (parts : List Nat) : Nat := s.pagesWhere parts (fun p => p.inTier 2 none)

/-- Pages taken from the pool of one stack. -/
def State.poolUsed (s : State) (die : Nat) : Nat :=
  s.pagesWhere (List.range 8) (fun p => p.inTier 1 (some die)) + s.copiesIn (List.range 8) 1 (some die)

/-- Room for one more page of partitions in a tier and die (R153, R154, R155). -/
def State.room (s : State) (parts : List Nat) (tier die : Nat) : Bool :=
  if tier = 0 then decide (s.pagesWhere parts (fun p => p.inTier 0 (some die)) < 640 * parts.length)
  else if tier = 1 then
    decide (s.t1Held parts < (parts.map (fun p => (s.part p).quota * 1024)).sum) && decide (s.poolUsed die < s.variant.pool)
  else decide (s.t2Held parts < (parts.map (fun p => (s.part p).t2quota * 16384)).sum)

/-- R163, Table 7-3 rows 1 and 2: drop every copy in T1 of the given partitions, unused speculative fills first when they
alone are asked for. -/
def State.dropCopies (s : State) (parts : List Nat) (specOnly : Bool) : State :=
  s.modObjs (fun l => tmap l (fun _ x => if parts.contains x.part then
      { x with pageTab := tmap x.pageTab (fun _ p => { p with copies := p.copies.filter (fun c => c.tier != 1 || (specOnly && !c.spec)) }) }
      else x))

/-- Dies that a page may stand on, in order of preference (DIE of Table 7-2). -/
def diesFor (w page : Nat) : List Nat :=
  if dieSel w = 1 then [0] else if dieSel w = 2 then [1] else [page % 2, 1 - page % 2]

/-- R161: tier and die for a new page: HOME first, then each slower tier up to MAX_TIER. -/
def State.choose (s : State) (parts : List Nat) (w page : Nat) : Option (Nat × Nat) :=
  ([0, 1, 2].filter (fun t => homeTier w ≤ t && t ≤ maxTier w)).findSome? (fun t =>
    ((diesFor w page).find? (fun d => s.room parts t d)).map (fun d => (t, d)))

/-- A page just backed. -/
def PageSt.fresh (td : Nat × Nat) (now : Nat) : PageSt :=
  { tier := td.1, die := td.2, gen := 0, lastUse := now, moving := none, lost := false, copies := [] }

/-- The pages of a byte range. -/
def pagesOf (off len : Nat) : List Nat :=
  if len = 0 then [] else (List.range ((off + len - 1) / pageSize - off / pageSize + 1)).map (fun i => off / pageSize + i)

/-- R164: does a class-0 command in flight name a page? -/
def State.class0Names (s : State) (o page : Nat) : Bool :=
  s.cmds.any (fun c => c.cls == 0 && (match c.body with
    | .run _ _ _ _ _ args _ => args.any (fun a =>
        (match tfind (s.ctx c.e.ctx).handles a.handle with | some m => m.obj == o | none => false) &&
        decide (a.offset < (page + 1) * pageSize ∧ page * pageSize < a.offset + a.length))
    | _ => false))

/-- R175: an exponent page of a KV cache stays where any of its code pages is. -/
def ObjectSt.pinned (x : ObjectSt) (page tier : Nat) : Bool :=
  kvFmtOf x.word != 0 && decide (2 * x.kvL * x.kvH * x.kvP ≤ page) &&
    x.pageTab.any (fun p => decide (p.1 < 2 * x.kvL * x.kvH * x.kvP) && decide (p.2.tier ≤ tier))

/-- A held page that may leave its tier: rank, last use (R175: token order in a KV window), object and page. -/
abbrev Victim := Nat × Nat × Nat × Nat

/-- Order of Table 7-3 row 3. -/
def Victim.before (a b : Victim) : Bool :=
  decide (a.1 < b.1) || (a.1 == b.1 && (decide (a.2.1 < b.2.1) || (a.2.1 == b.2.1 &&
    (decide (a.2.2.1 < b.2.2.1) || (a.2.2.1 == b.2.2.1 && decide (a.2.2.2 ≤ b.2.2.2))))))

/-- Pages of partitions in a tier and die that row 3 may migrate one tier slower. -/
def State.victims (s : State) (parts : List Nat) (tier die : Nat) : List Victim :=
  s.objs.flatMap (fun o =>
    if parts.contains o.2.part ∧ o.2.kind ≠ 3 ∧ tier < maxTier o.2.word then
      (o.2.pageTab.filter (fun p => p.2.tier == tier && p.2.die == die && p.2.moving.isNone && !o.2.pinned p.1 tier && !s.class0Names o.1 p.1
          && (diesFor o.2.word p.1).any (fun d => s.room parts (tier + 1) d))).map
        (fun p => (evictRank o.2.word, (if accessOf o.2.word = 2 then 0 else p.2.lastUse), o.1, p.1))
    else [])

/-- R163 row 3: migrate the first held page of a tier and die one tier slower. -/
def State.evict (s : State) (parts : List Nat) (tier die : Nat) : Option State :=
  let vs := s.victims parts tier die
  let best : Option Victim := vs.foldl (fun b v => match b with | none => some v | some w => if w.before v then some w else some v) none
  best.map (fun v => s.modObj v.2.2.1 (fun x =>
    match tfind x.pageTab v.2.2.2 with
    | none => x
    | some p =>
      let d := ((diesFor x.word v.2.2.2).find? (fun d => s.room parts (tier + 1) d)).getD p.die
      { x with pageTab := tset x.pageTab v.2.2.2 { p with tier := tier + 1, die := d } }))

/-- Row 3 for the first permitted tier and die of a new page from which a page can leave. -/
def State.evictFor (s : State) (parts : List Nat) (w page : Nat) : Option (State × (Nat × Nat)) :=
  ([0, 1].filter (fun t => homeTier w ≤ t && t ≤ maxTier w)).findSome? (fun t =>
    (diesFor w page).findSome? (fun d => match s.evict parts t d with
      | some s' => if s'.room parts t d then some (s', (t, d)) else none
      | none => none))

/-- Back one page of an object (R161), making room in the order of Table 7-3 when no permitted tier has any (R154, R163). -/
def State.backPage (s : State) (o page : Nat) : Option State :=
  match s.obj? o with
  | none => none
  | some x =>
    if (tfind x.pageTab page).isSome then some s
    else
      let parts := s.homeParts x.part
      let put (s : State) (td : Nat × Nat) : State :=
        s.modObj o (fun x => { x with pageTab := tset x.pageTab page (PageSt.fresh td s.time.now) })
      match s.choose parts x.word page with
      | some td => some (put s td)
      | none =>
        let s1 := s.dropCopies parts true
        match s1.choose parts x.word page with
        | some td => some (put s1 td)
        | none =>
          let s2 := s.dropCopies (List.range 8) false
          match s2.choose parts x.word page with
          | some td => some (put s2 td)
          | none => (s2.evictFor parts x.word page).map (fun r => put r.1 r.2)

/-- Back pages one after another; `none` when one finds no room (R161). -/
def State.backAll : State → Nat → List Nat → Option State
  | s, _, [] => some s
  | s, o, p :: ps =>
    match s.backPage o p with
    | none => none
    | some s' => s'.backAll o ps

/-! ### Undefined ranges (R37, R34) -/

/-- Cut a written range out of the undefined ranges. -/
def cutUndef (off len : Nat) (us : List (Nat × Nat × Nat)) : List (Nat × Nat × Nat) :=
  us.flatMap (fun u =>
    let a := u.1
    let b := u.1 + u.2.1
    let left := if a < off ∧ a < b then [(a, min b off - a, u.2.2)] else []
    let right := if off + len < b ∧ a < b then [(max a (off + len), b - max a (off + len), u.2.2)] else []
    left ++ right)

/-- Mark a range as undefined under a new draw (assumption log 1). -/
def State.markUndef (s : State) (o off len : Nat) : State :=
  if len = 0 then s
  else (s.modObj o (fun x => { x with undef := (off, len, s.freeCtr) :: cutUndef off len x.undef })).drawn

/-- Mark several ranges. -/
def State.markAll (s : State) (rs : List (Nat × Nat × Nat)) : State :=
  rs.foldl (fun s r => s.markUndef r.1 r.2.1 r.2.2) s

/-! ### Bytes of an object -/

/-- One byte of an object: a free value in an undefined range, else what was written, else zero (R42). -/
def ObjectSt.byte (x : ObjectSt) (a : Nat) : Byte :=
  match x.undef.find? (fun u => u.1 ≤ a && a < u.1 + u.2.1) with
  | some u => Config.freeByte u.2.2 a
  | none => mget x.data a

/-- A range of an object. -/
def ObjectSt.read (x : ObjectSt) (off len : Nat) : List Byte := (List.range len).map (fun i => x.byte (off + i))

/-- R177: does a range touch a page whose only data is lost? -/
def ObjectSt.lostIn (x : ObjectSt) (off len : Nat) : Bool :=
  (pagesOf off len).any (fun p => match tfind x.pageTab p with | some q => q.lost | none => false)

/-- The layout items of a layout word (R391). -/
def tagOf (off len layout : Nat) : TagSt :=
  { start := off, len := len, fmt := bits layout 31 28, group := bits layout 27 26, rowLen := layout % 2 ^ 26 }

/-- R392: record the layout of a written range in place of what was recorded there. -/
def putTag (t : TagSt) (ts : List TagSt) : List TagSt :=
  t :: ts.flatMap (fun u =>
    let left := if u.start < t.start ∧ 0 < u.len then [{ u with len := min (u.start + u.len) t.start - u.start }] else []
    let right := if t.start + t.len < u.start + u.len ∧ 0 < u.len then
      [{ u with start := max u.start (t.start + t.len), len := u.start + u.len - max u.start (t.start + t.len) }] else []
    left ++ right)

/-- A write touches a page: its generation rises, a migration of it is cancelled, it is readable again (R166, R169, R177). -/
def PageSt.touch (p : PageSt) (now : Nat) : PageSt :=
  { p with gen := p.gen + 1, lastUse := now, moving := none, lost := false }

/-- Touch the backed pages of a list. -/
def touchPages (now : Nat) (t : Table PageSt) (ps : List Nat) : Table PageSt :=
  ps.foldl (fun t p => match tfind t p with | some q => tset t p (q.touch now) | none => t) t

/-- Write bytes into an object whose pages are backed; any write unseals an index (R210). -/
def State.objWrite (s : State) (o off : Nat) (bs : List Byte) : State :=
  s.modObj o (fun x => { x with
    data := mwrite x.data off bs, undef := cutUndef off bs.length x.undef, isSealed := false,
    pageTab := touchPages s.time.now x.pageTab (pagesOf off bs.length) })

/-- Record the layout items of a written range. -/
def State.tagRange (s : State) (o off len layout : Nat) : State :=
  s.modObj o (fun x => { x with tags := putTag (tagOf off len layout) x.tags })

/-- The pages of a list are used. -/
def usePages (now : Nat) (t : Table PageSt) (ps : List Nat) : Table PageSt :=
  ps.foldl (fun t p => match tfind t p with | some q => tset t p { q with lastUse := now } | none => t) t

/-- Note a use of the pages of a range (R163). -/
def State.useRange (s : State) (o off len : Nat) : State :=
  s.modObj o (fun x => { x with pageTab := usePages s.time.now x.pageTab (pagesOf off len) })

/-! ### Closed stacks (R274) -/

/-- The first closed byte of a program object's device range. -/
def ObjectSt.closedFrom (x : ObjectSt) : Nat := match x.prog with | some p => p.codeOff | none => x.size

/-- R275: a range touches a closed-stacks region. -/
def ObjectSt.closed (x : ObjectSt) (off len : Nat) : Bool := x.kind == 3 && decide (x.closedFrom < off + len)

/-! ### Mapping and destruction -/

/-- R157: the lowest free device address for a size in pages. -/
def freeBase : List (Nat × Nat) → Nat → Nat → Nat
  | [], b, _ => b
  | (lo, n) :: rest, b, size => if b + size ≤ lo then b else freeBase rest (max b (lo + n)) size

/-- Address ranges mapped in a context, in rising order. -/
def State.ranges (s : State) (c : Context) : List (Nat × Nat) :=
  (c.handles.map (fun h => (h.2.base, match s.obj? h.2.obj with | some x => x.size | none => 0))).mergeSort
    (fun a b => decide (a.1 ≤ b.1))

/-- The lowest EMPTY handle. -/
def Context.freeHandle (c : Context) : Option Nat :=
  ((List.range 63).map (· + 1)).find? (fun h => (tfind c.handles h).isNone)

/-- Map an object into a context under a handle, with HREF 1. -/
def State.mapObj (s : State) (ctx h o rights : Nat) : State :=
  let size := match s.obj? o with | some x => x.size | none => 0
  let base := freeBase (s.ranges (s.ctx ctx)) pageSize size
  let m : HandleSt := { obj := o, draining := false, rights := rights, dref := 0, href := 1, base := base }
  s.modCtx ctx (fun c => { c with handles := tset c.handles h m })

/-- R176, R364: destroy an object: pages, copies, migrations and speculative reads of it go. Library sectors of a program
are freed (R270). -/
def State.destroyObj (s : State) (o : Nat) : State :=
  match s.obj? o with
  | none => s
  | some x =>
    let secs := match x.prog with | some p => p.sectors | none => []
    (s.modObjs (fun l => tdel l o)).modStore (fun st => { st with freed := st.freed ++ secs })

/-- R364: destroy an object that no context maps when it is volatile or its destruction was accepted. -/
def State.collect (s : State) (o : Nat) : State :=
  match s.obj? o with
  | none => s
  | some x => if s.mappers o = 0 ∧ (x.persistent = false ∨ x.doomed = true) then s.destroyObj o else s

/-- R362: remove the DRAINING mappings of a context whose DREF is zero. -/
def State.reap (s : State) (ctx : Nat) : State :=
  let gone := (s.ctx ctx).handles.filter (fun h => h.2.draining && h.2.dref == 0)
  let s1 := s.modCtx ctx (fun c => { c with handles := c.handles.filter (fun h => !(h.2.draining && h.2.dref == 0)) })
  gone.foldl (fun s h => s.collect h.2.obj) s1

/-- R366, R368: every mapping of a context becomes DRAINING. -/
def State.drainAll (s : State) (ctx : Nat) : State :=
  s.modCtx ctx (fun c => { c with handles := tmap c.handles (fun _ h => { h with draining := true }) })

/-- The object behind a LIVE handle of a context. -/
def State.handleObj (s : State) (ctx h : Nat) : Option (HandleSt × ObjectSt) :=
  match tfind (s.ctx ctx).handles h with
  | none => none
  | some x => (s.obj? x.obj).map (fun o => (x, o))

/-- R42, R162 at a start: volatile objects go; of a persistent object's pages the copies go. -/
def State.discardVolatile (s : State) : State :=
  s.modObjs (fun l => (l.filter (fun o => o.2.persistent)).map (fun o =>
      (o.1, { o.2 with pageTab := tmap o.2.pageTab (fun _ p => { p with copies := [], moving := none }) })))

end Sys2Proof.Machine
end

