-- ==== Sys2Proof/Machine/Operands.lean ====
section
/-! DEFINITION. The numbers of chapter 5: element formats, significands, scales, envelopes, the exact accumulator and the
window rule, RNA and SR rounding, and the epilogue's functions, each on exact integers and fractions. -/

namespace Sys2Proof.Machine

/-! ### Formats (R101-R103, Table 15-7) -/

/-- Bits of one element of a format code. -/
def elemBits (fmt : Nat) : Nat :=
  if fmt = 2 ∨ fmt = 5 then 4 else if fmt = 6 ∨ fmt = 8 then 16 else if fmt = 7 then 32 else 8

/-- Reduction elements of one pass (Table 4-2). -/
def passElems (fmt : Nat) : Nat := if fmt = 2 ∨ fmt = 5 then 256 else 128

/-- Significand and LSB exponent of a floating-point code with `man` mantissa bits (Table 5-2). -/
def decodeFloat (width man : Nat) (lsb : Int) (code : Nat) : Int × Int :=
  let sgn : Int := if bit code (width - 1) then -1 else 1
  let m := code % 2 ^ man
  let e := code / 2 ^ man % 2 ^ (width - 1 - man)
  if e = 0 then (sgn * m, lsb) else (sgn * (2 ^ man + m : Nat), lsb + e - 1)

/-- R102: the significand s and LSB exponent x of an element; `none` for a non-finite encoding (R104). -/
def decodeElem (fmt code : Nat) : Option (Int × Int) :=
  match fmt with
  | 1 => some (toSigned 8 code, 0)
  | 2 => some (toSigned 4 code, 0)
  | 3 => if code % 128 = 127 then none else some (decodeFloat 8 3 (-9) code)
  | 4 => if code / 4 % 32 = 31 then none else some (decodeFloat 8 2 (-16) code)
  | 5 => some (decodeFloat 4 1 (-1) code)
  | 6 => if code / 128 % 256 = 255 then none else some (decodeFloat 16 7 (-133) code)
  | 7 => if code / 2 ^ 23 % 256 = 255 then none else some (decodeFloat 32 23 (-149) code)
  | 8 => some (toSigned 16 code, 0)
  | _ => none

/-- The group size of a code: 0 none, 1 for 32, 2 for 64, 3 for 128. -/
def groupSize (g : Nat) : Nat := if g = 1 then 32 else if g = 2 then 64 else if g = 3 then 128 else 0

/-- Round a quotient up. -/
def ceilDiv (a b : Nat) : Nat := (a + b - 1) / b

/-- Element `i` of a packed array that starts at byte `off` (R103). -/
def rawElem (rd : Nat → Byte) (fmt off i : Nat) : Nat :=
  if elemBits fmt = 4 then
    let b := (rd (off + i / 2)).toNat
    if i % 2 = 0 then b % 16 else b / 16
  else leNat ((List.range (elemBits fmt / 8)).map (fun j => rd (off + i * (elemBits fmt / 8) + j)))

/-- A tensor in memory: `lines` rows of `len` elements, whose groups run along the rows, or along the columns of a
weight (`byCol`). -/
structure Tensor where
  fmt : Nat
  group : Nat
  off : Nat
  lines : Nat
  len : Nat
  byCol : Bool
  deriving DecidableEq, Repr

/-- Bytes of a tensor's elements; its group exponents follow them (assumption log 8). -/
def Tensor.elemBytes (t : Tensor) : Nat := ceilDiv (t.lines * t.len * elemBits t.fmt) 8

/-- Groups along one row, or one column of a weight (R106). -/
def Tensor.groupsPerLine (t : Tensor) : Nat :=
  if groupSize t.group = 0 then 0 else ceilDiv (if t.byCol then t.lines else t.len) (groupSize t.group)

/-- Bytes of the whole tensor. -/
def Tensor.bytes (t : Tensor) : Nat := t.elemBytes + t.groupsPerLine * (if t.byCol then t.len else t.lines)

/-- The group exponent field of the element at row i, column j; 0x7F without group exponents (R106). -/
def Tensor.expAt (t : Tensor) (rd : Nat → Byte) (i j : Nat) : Nat :=
  let g := groupSize t.group
  if g = 0 then 0x7F
  else if t.byCol then (rd (t.off + t.elemBytes + j * t.groupsPerLine + i / g)).toNat
  else (rd (t.off + t.elemBytes + i * t.groupsPerLine + j / g)).toNat

/-- s and t = x + (E - 127) of the element at row i, column j (R102, R109); `none` when it is non-finite (R104). -/
def Tensor.at (t : Tensor) (rd : Nat → Byte) (i j : Nat) : Option (Int × Int) :=
  let e := t.expAt rd i j
  if e = 255 then none
  else (decodeElem t.fmt (rawElem rd t.fmt t.off (i * t.len + j))).map (fun p => (p.1, p.2 + (e : Int) - 127))

/-- R108: slice 0 is the whole element, 1 its high slice, 2 its low slice. -/
def sliceOf (sl : Nat) (p : Int × Int) : Int × Int :=
  if sl = 1 then (p.1.fdiv 16, p.2 + 4) else if sl = 2 then (p.1 - 16 * p.1.fdiv 16, p.2) else p

/-! ### Envelopes, anchor and window (R109-R111) -/

/-- R109: lowest and highest t over the non-zero elements; the highest of BF16 is x + 4. `none` for a line of zeros. -/
def envelope (fmt : Nat) (es : List (Int × Int)) : Option (Int × Int) :=
  es.foldl (fun (a : Option (Int × Int)) (p : Int × Int) =>
    if p.1 = 0 then a
    else
      let hi := if fmt = 6 then p.2 + 4 else p.2
      match a with
      | none => some (p.2, hi)
      | some (l, h) => some (min l p.2, max h hi)) none

/-- The union of two envelopes (R123, R302). -/
def envUnion (a b : Option (Int × Int)) : Option (Int × Int) :=
  match a, b with
  | none, b => b
  | a, none => a
  | some (l, h), some (l', h') => some (min l l', max h h')

/-- R110: the span of an output element. -/
def span (a w : Option (Int × Int)) : Nat :=
  match a, w with
  | some (la, ha), some (lw, hw) => ((ha - la) + (hw - lw)).toNat
  | _, _ => 0

/-- ceil(log2 n) for n ≥ 1. -/
def clog2 (n : Nat) : Nat := if n ≤ 1 then 0 else Nat.log2 (n - 1) + 1

/-- Table 5-3: how a tile with a largest span runs. -/
inductive Window where
  | ordinary | split | exceeded
  deriving DecidableEq, Repr

/-- R111: the window rule for a span and a number of product terms. -/
def windowRule (largest n : Nat) : Window :=
  if largest ≤ 63 then .ordinary else if largest + clog2 n ≤ 112 then .split else .exceeded

/-- One product term of an accumulator: `s_a s_w` shifted by its offset from the anchor, and only the half's offsets in a
split pass (R110, R112). `half` is 0 for both, 1 for offsets 0-63, 2 for 64-127. -/
def productTerm (half : Nat) (anchor : Int) (a w : Int × Int) : Int :=
  let off := (a.2 + w.2 - anchor).toNat
  if half = 1 ∧ 63 < off then 0 else if half = 2 ∧ off ≤ 63 then 0 else a.1 * w.1 * 2 ^ off

/-! ### Rounding (R113, R114) -/

/-- floor(log2 (a / b)) for positive a and b. -/
def floorLog2 (a b : Nat) : Int :=
  let d : Int := (Nat.log2 a : Int) - (Nat.log2 b : Int)
  if 0 ≤ d then (if b * 2 ^ d.toNat ≤ a then d else d - 1) else if b ≤ a * 2 ^ (-d).toNat then d else d - 1

/-- Round a magnitude a / b to `prec` bits of precision above the smallest step 2^lsb: the result is k × 2^q. With no draw
the tie goes away from zero (RNA); with a 32-bit draw the choice is R114's. -/
def roundMag (prec : Nat) (lsb : Int) (draw : Option Nat) (a b : Nat) : Nat × Int :=
  if a = 0 ∨ b = 0 then (0, lsb)
  else
    let q := max (floorLog2 a b - ((prec : Int) - 1)) lsb
    let n := if 0 ≤ q then a else a * 2 ^ (-q).toNat
    let d := if 0 ≤ q then b * 2 ^ q.toNat else b
    let k := n / d
    let r := n % d
    let up := match draw with
      | none => decide (d ≤ 2 * r)
      | some x => decide (x < r * 2 ^ 32 / d)
    (if up then k + 1 else k, q)

/-- Precision, smallest step and largest finite magnitude (as m × 2^e) of an output format (Table 5-1, R214). -/
def outParams (fmt : Nat) : Nat × Int × Nat × Nat :=
  match fmt with
  | 1 => (400, 0, 127, 0)
  | 2 => (400, 0, 7, 0)
  | 3 => (4, -9, 448, 0)
  | 4 => (3, -16, 57344, 0)
  | 5 => (2, -1, 6, 0)
  | 6 => (8, -133, 255, 120)
  | 7 => (24, -149, 2 ^ 24 - 1, 104)
  | _ => (400, 0, 32767, 0)

/-- Mantissa bits of a floating-point format. -/
def manBits (fmt : Nat) : Nat := if fmt = 3 then 3 else if fmt = 4 then 2 else if fmt = 5 then 1 else if fmt = 6 then 7 else 23

/-- The code of ± k × 2^q in a format whose grid holds it. -/
def encodeElem (fmt : Nat) (neg : Bool) (k : Nat) (q : Int) : Nat :=
  if fmt = 1 ∨ fmt = 2 ∨ fmt = 8 then ofSigned (elemBits fmt) (if neg then -(k * 2 ^ q.toNat : Nat) else (k * 2 ^ q.toNat : Nat))
  else
    let man := manBits fmt
    let lsb := (outParams fmt).2.1
    let k' := if k = 2 ^ (man + 1) then 2 ^ man else k
    let q' := if k = 2 ^ (man + 1) then q + 1 else q
    let mag := if k' < 2 ^ man then k' else (q' - lsb + 1).toNat * 2 ^ man + (k' - 2 ^ man)
    mag + (if neg then 2 ^ (elemBits fmt - 1) else 0)

/-- The outcome of rounding into a format: the code, whether it saturated, whether a non-zero value became zero. -/
structure Rounded where
  code : Nat
  sat : Bool
  flushed : Bool
  deriving DecidableEq, Repr

/-- Is k × 2^q above m × 2^e? -/
def above (k : Nat) (q : Int) (m e : Nat) : Bool :=
  if 0 ≤ q then decide (m * 2 ^ e < k * 2 ^ q.toNat) else decide (m * 2 ^ e * 2 ^ (-q).toNat < k)

/-- R105, R119, R121, R124: round ± a / b into a format, saturating at its largest magnitude. -/
def roundTo (fmt : Nat) (draw : Option Nat) (neg : Bool) (a b : Nat) : Rounded :=
  let (prec, lsb, m, e) := outParams fmt
  if a = 0 then { code := 0, sat := false, flushed := false }
  else
    let (k, q) := roundMag prec lsb draw a b
    if above k q m e then
      let top : Nat × Int := if fmt = 3 then (14, 5) else if fmt = 4 then (7, 13) else if fmt = 5 then (3, 1) else (m, e)
      { code := encodeElem fmt neg top.1 top.2, sat := true, flushed := false }
    else { code := encodeElem fmt neg k q, sat := false, flushed := k == 0 }

/-! ### Exact fractions -/

/-- An exact value: numerator over a positive denominator. -/
structure Frac where
  num : Int
  den : Nat
  deriving DecidableEq, Repr

/-- m × 2^e as a fraction. -/
def Frac.ofDyadic (m e : Int) : Frac :=
  if 0 ≤ e then { num := m * 2 ^ e.toNat, den := 1 } else { num := m, den := 2 ^ (-e).toNat }

def Frac.add (x y : Frac) : Frac := { num := x.num * y.den + y.num * x.den, den := x.den * y.den }
def Frac.mul (x y : Frac) : Frac := { num := x.num * y.num, den := x.den * y.den }

/-- Division by a fraction; a zero divisor gives zero (R107 scales are not zero). -/
def Frac.div (x y : Frac) : Frac :=
  if y.num = 0 then { num := 0, den := 1 }
  else { num := x.num * y.den * y.num.sign, den := x.den * y.num.natAbs }

/-- x ≤ y. -/
def Frac.le (x y : Frac) : Bool := decide (x.num * y.den ≤ y.num * x.den)

/-- The value of a finite code. -/
def fracOf (fmt code : Nat) : Frac :=
  match decodeElem fmt code with
  | some (s, x) => Frac.ofDyadic s x
  | none => { num := 0, den := 1 }

/-- Is an FP32 pattern finite? -/
def finite32 (code : Nat) : Bool := (decodeElem 7 code).isSome

/-- Round a fraction into a format. -/
def Frac.round (fmt : Nat) (draw : Option Nat) (x : Frac) : Rounded :=
  roundTo fmt draw (decide (x.num < 0)) x.num.natAbs x.den

/-! ### The functions of stage E4, evaluated exactly and rounded once (Table 5-5)

Each value is enclosed between two fractions of `2 ^ p` whose roundings agree; `p` doubles until they do. -/

/-- A Taylor sum of exp(-t / 2^w) × 2^w, from term n on. -/
def expSeries : Nat → Nat → Nat → Nat → Int → Int
  | 0, _, _, _, _ => 0
  | fuel + 1, w, t, n, term =>
    if term = 0 then 0 else term + expSeries fuel w t (n + 1) (-(term * t) / (2 ^ w * (n + 1) : Nat))

/-- Square a fixed-point number k times. -/
def squareTimes : Nat → Nat → Nat → Nat
  | 0, _, x => x
  | k + 1, w, x => squareTimes k w (x * x / 2 ^ w)

/-- exp(-a/b) × 2^p to within four units, for a/b ≥ 0. -/
def expNeg (p a b : Nat) : Nat :=
  let k := if a = 0 then 0 else (floorLog2 a b + 2).toNat
  let w := p + k + 40
  let t := a * 2 ^ w / (b * 2 ^ k)
  squareTimes k w (expSeries w w t 0 (2 ^ w)).toNat / 2 ^ (w - p)

/-- Newton's integer square root from above. -/
def sqrtIter : Nat → Nat → Nat → Nat
  | 0, _, x => x
  | fuel + 1, n, x =>
    let y := (x + n / x) / 2
    if x ≤ y then x else sqrtIter fuel n y

/-- floor of the square root. -/
def isqrt (n : Nat) : Nat := if n = 0 then 0 else sqrtIter (n + 2).log2.succ.succ n (2 ^ (n.log2 / 2 + 1))

/-- arctan(1/m) × 2^w by its series. -/
def atanInv : Nat → Nat → Nat → Nat → Int
  | 0, _, _, _ => 0
  | fuel + 1, m, n, term =>
    if term = 0 then 0 else ((term / (2 * n + 1) : Nat) : Int) - atanInv fuel m (n + 1) (term / (m * m))

/-- π × 2^w (Machin). -/
def piFix (w : Nat) : Nat := (16 * atanInv w 5 0 (2 ^ w / 5) - 4 * atanInv w 239 0 (2 ^ w / 239)).toNat

/-- The sum over n of (-y)^n / (n! (2n + 1)) × 2^w, y = t / 2^w. -/
def erfSeries : Nat → Nat → Nat → Nat → Int → Int
  | 0, _, _, _, _ => 0
  | fuel + 1, w, t, n, term =>
    if term = 0 then 0 else term / (2 * n + 1 : Nat) + erfSeries fuel w t (n + 1) (-(term * t) / (2 ^ w * (n + 1) : Nat))

/-- 1 + erf(x / √2) for x = ± a/b with a/b < 40, × 2^p, to within four units. -/
def phi2 (p : Nat) (neg : Bool) (a b : Nat) : Nat :=
  let w := p + 1400
  let s := erfSeries 6000 w (a * a * 2 ^ w / (2 * b * b)) 0 (2 ^ w)
  let c := isqrt (2 ^ (3 * w + 1) / piFix w)
  let e := (s * c / 2 ^ w * a / b).toNat
  (if neg then 2 ^ w - e else 2 ^ w + e) / 2 ^ (w - p)

/-- Lower and upper bound of an activation's magnitude, for x = ± a/b, a > 0. -/
def actBounds (f : ActFn) (p : Nat) (neg : Bool) (a b : Nat) : Frac × Frac :=
  let one := 2 ^ p
  match f with
  | .relu => if neg then ({ num := 0, den := 1 }, { num := 0, den := 1 }) else ({ num := a, den := b }, { num := a, den := b })
  | .tanh =>
    let u := expNeg p (2 * a) b
    ({ num := (one - (u + 4) : Nat), den := one + u + 4 }, { num := (one - (u - 4) : Nat), den := one + (u - 4) })
  | .silu =>
    let u := expNeg p a b
    if neg then ({ num := (a * (u - 4) : Nat), den := b * (one + u + 4) }, { num := (a * (u + 4) : Nat), den := b * (one + (u - 4)) })
    else ({ num := (a * one : Nat), den := b * (one + u + 4) }, { num := (a * one : Nat), den := b * (one + (u - 4)) })
  | .gelu =>
    if a < 40 * b then
      let v := phi2 p neg a b
      ({ num := (a * (v - 4) : Nat), den := 2 * b * one }, { num := (a * (v + 4) : Nat), den := 2 * b * one })
    else if neg then ({ num := 0, den := 1 }, { num := a, den := b * one })
    else ({ num := (a * (one - 1) : Nat), den := b * one }, { num := a, den := b })

/-- Round the bounds until they agree. -/
def actRound : Nat → Nat → ActFn → Bool → Nat → Nat → Rounded
  | 0, p, f, neg, a, b => let x := (actBounds f p neg a b).1; roundTo 7 none neg x.num.toNat x.den
  | fuel + 1, p, f, neg, a, b =>
    let (l, h) := actBounds f p neg a b
    let rl := roundTo 7 none neg l.num.toNat l.den
    let rh := roundTo 7 none neg h.num.toNat h.den
    if rl.code % 2 ^ 31 = rh.code % 2 ^ 31 then rh else actRound fuel (2 * p) f neg a b

/-- Stage E4: an activation of an FP32 value, rounded to FP32 with RNA; an exact zero gives +0 (R105). -/
def activate (f : ActFn) (code : Nat) : Rounded :=
  let x := fracOf 7 code
  if x.num = 0 then { code := 0, sat := false, flushed := false }
  else if f = .relu then { code := if x.num < 0 then 0 else code, sat := false, flushed := false }
  else actRound 8 512 f (decide (x.num < 0)) x.num.natAbs x.den

/-! ### The epilogue (Table 5-5) -/

/-- R114: the draw for an element of an output object at a stage. -/
def srDraw (seed oid index stage : Nat) : Nat :=
  philox seed (index % 2 ^ 32) (index / 2 ^ 32 % 2 ^ 16 + stage * 2 ^ 16) (oid % 2 ^ 32) (oid / 2 ^ 32 % 2 ^ 32)

/-- What one row's epilogue needs of its tile: scales, stages, rounding and draw keys. -/
structure EpiCtx where
  actScale : Nat
  wScale : Nat
  outScale : Nat
  fmt : Nat
  group : Nat
  sr : Bool
  seed : Nat
  oid : Nat
  act : Option ActFn
  staged : Bool
  deriving DecidableEq, Repr

/-- The value that enters E6 for one element, with the count of E2-E5 saturations: an exact value when no stage from E3 to
E5 is enabled (R118), else the FP32 result of E2, E3, E4 and E5. -/
def epiValue (c : EpiCtx) (acc : Int) (anchor : Int) (index : Nat) (bias : Option Frac) (resid : Option Frac) : Frac × Nat :=
  let e1 := ((Frac.ofDyadic acc anchor).mul (fracOf 7 c.actScale)).mul (fracOf 7 c.wScale)
  if ¬ c.staged then (e1, 0)
  else
    let r2 := e1.round 7 (if c.sr then some (srDraw c.seed c.oid index 0) else none)
    let r3 := match bias with
      | none => { r2 with sat := false }
      | some b => ((fracOf 7 r2.code).add b).round 7 none
    let r4 := match c.act with
      | none => { r3 with sat := false }
      | some f => activate f r3.code
    let r5 := match resid with
      | none => { r4 with sat := false }
      | some v => ((fracOf 7 r4.code).add v).round 7 none
    (fracOf 7 r5.code, b2n r2.sat + b2n r3.sat + b2n r4.sat + b2n r5.sat)

/-- 2^(E - 127). -/
def pow2E (e : Nat) : Frac := Frac.ofDyadic 1 ((e : Int) - 127)

/-- The largest finite magnitude of a format as a fraction. -/
def maxOf (fmt : Nat) : Frac := { num := ((outParams fmt).2.2.1 * 2 ^ (outParams fmt).2.2.2 : Nat), den := 1 }

/-- The magnitude of a fraction. -/
def Frac.abs (x : Frac) : Frac := { num := x.num.natAbs, den := x.den }

/-- R120 DYNAMIC: the smallest E from `e` on for which every magnitude is at most M × 2^(E - 127); 0xFE when none is. -/
def dynFrom : Nat → Nat → Nat → List Frac → Nat
  | 0, _, e, _ => min e 0xFE
  | fuel + 1, fmt, e, vs => if vs.all (fun v => v.abs.le ((maxOf fmt).mul (pow2E e))) then e else dynFrom fuel fmt (e + 1) vs

/-- R120: the group exponent that DYNAMIC mode chooses for a group of scaled values. -/
def dynExp (fmt : Nat) (vs : List Frac) : Nat := if vs.all (fun v => v.num == 0) then 0x7F else dynFrom 0xFE fmt 0 vs

/-- E6 for one group: its exponent, the codes, and the counts of R124. -/
structure GroupOut where
  exp : Nat
  codes : List Nat
  sat : Nat
  flushed : Nat
  nonzero : Nat
  deriving DecidableEq, Repr

/-- E6: requantize the values of one group, the first having the element index `index` (R118, R120). -/
def requantGroup (c : EpiCtx) (calib : Option Nat) (index : Nat) (vs : List Frac) : GroupOut :=
  let scaled := vs.map (fun v => v.div (fracOf 7 c.outScale))
  let e := if groupSize c.group = 0 then 0x7F else match calib with
    | some e => e
    | none => dynExp c.fmt scaled
  let rs := (scaled.zip (List.range vs.length)).map (fun p =>
    (p.1.div (pow2E e)).round c.fmt (if c.sr then some (srDraw c.seed c.oid (index + p.2) 1) else none))
  { exp := e, codes := rs.map (·.code), sat := rs.countP (·.sat), flushed := rs.countP (·.flushed),
    nonzero := vs.countP (fun v => v.num != 0) }

/-- R118: an FP32 output takes E6 as the identity; without E3-E5 it is the single rounding of E1, at stage number 1. -/
def fp32Out (c : EpiCtx) (index : Nat) (v : Frac) : Rounded :=
  if c.staged then v.round 7 none
  else v.round 7 (if c.sr then some (srDraw c.seed c.oid index 1) else none)

/-- Split a list into runs of `n`; `fuel` is at least the number of runs. -/
def chunks {α : Type} : Nat → Nat → List α → List (List α)
  | 0, _, _ => []
  | fuel + 1, n, l => if l.isEmpty then [] else l.take n :: chunks fuel n (l.drop n)

end Sys2Proof.Machine
end

