-- ==== Sys2Proof/Machine/Flits.lean ====
section
/-! DEFINITION. The flits of a peer link (R289-R295): routes, flit layout and CRC, the cutting of a message into flits, and
the queue, credits and retransmission buffer of a port. -/

namespace Sys2Proof.Machine

/-! ### Routes (R284, R289) -/

/-- Table 12-2: the port masks. -/
def portMasks (size : Nat) : List Nat := if size = 2 then [1, 1, 1, 1] else if size = 4 then [1, 2, 3, 1] else [1, 2, 4, 7]

/-- Hops between two members whose numbers differ by d, every port up. -/
def hopsOf (size d : Nat) : Nat :=
  let ms := portMasks size
  if d = 0 then 0 else if ms.contains d then 1 else if ms.any (fun a => ms.any (fun b => a ^^^ b == d)) then 2 else 3

/-- Length of the shortest path to a member that begins at a port. -/
def PeerSt.pathVia (x : PeerSt) (p j : Nat) : Nat := 1 + hopsOf x.size (x.member ^^^ (portMasks x.size).getD p 0 ^^^ j)

/-- The ports on a shortest path to a member, over UP ports, of at most 3 hops. -/
def PeerSt.best (x : PeerSt) (j : Nat) : List Nat :=
  let up := (List.range 4).filter (fun p => (tget Port.reset x.ports p).state == 2 && decide (x.pathVia p j ≤ 3))
  let m := up.foldl (fun m p => min m (x.pathVia p j)) 3
  up.filter (fun p => x.pathVia p j == m)

/-- The port of a message to a member: the lowest-numbered, or in groups of 2 and 4 each in turn. -/
def PeerSt.route (x : PeerSt) (j : Nat) : Option Nat :=
  let ps := x.best j
  if x.size ≤ 4 then ps[(x.sent.countP (fun m => m.dst == j)) % ps.length]? else ps.head?

/-! ### Flits (R291, R292, Table 12-4) -/

/-- Bytes 0x00 to 0xF7 of a flit, the link fields zero. -/
def flitBody (kind ch hop : Nat) (last : Bool) (gid src dst op off : Nat) (pl : List Byte) : List Byte :=
  le 1 kind ++ le 1 (ch + 4 * hop + 16 * b2n last) ++ zeros 6 ++ le 4 gid ++ le 1 src ++ le 1 dst ++ le 2 pl.length ++ le 4 op ++
    le 4 off ++ pl ++ zeros (224 - pl.length)

/-- The flit as it leaves: sequence number, acknowledge, returned credits and CRC put in. -/
def sealFlit (seq ack ch credits : Nat) (b : List Byte) : List Byte :=
  let x := b.take 2 ++ le 2 seq ++ le 2 ack ++ le 1 ch ++ le 1 credits ++ b.drop 8
  x ++ le 8 (crcFlit x)

/-- Does a message type carry data and a digest? POST, ABORT and MSG_NAK are one flit each. -/
def isData (kind : Nat) : Bool := kind == 0x11 || kind == 0x12 || kind == 0x13

/-- The payloads of a message's flits: 224 bytes each, the digest at the end of the last (R292). -/
def msgChunks (kind : Nat) (pl : List Byte) : List (List Byte) :=
  if isData kind then chunks (pl.length + 1) 224 (pl ++ le 8 (digest pl)) else [pl]

/-- Flits of a message of some payload length. -/
def flitCount (kind len : Nat) : Nat := if isData kind then (len + 8 + 223) / 224 else 1

/-! ### A port's sender (R293, R295) -/

/-- Credits that the next flit returns: a channel with some owed, and how many. -/
def Port.returns (p : Port) : Nat × Nat :=
  match p.owed.find? (fun c => c.2 != 0) with
  | some c => (c.1, min c.2 255)
  | none => (0, 0)

/-- The flit that leaves at the next flit slot: channel 0 first, then 3, 2 and 1, each against a credit, flits of channels 1
to 3 while the retransmission buffer has room. -/
def Port.nextFlit (p : Port) : Option TxFlit :=
  [0, 3, 2, 1].findSome? (fun ch =>
    if 0 < tget 0 p.credits ch ∧ (ch = 0 ∨ p.txBuf.length < 512) then p.queue.find? (fun f => f.channel == ch) else none)

/-- Send one flit: its bytes, and the port after it. -/
def Port.sendOne (p : Port) (f : TxFlit) : List Byte × Port :=
  let r := p.returns
  let bs := sealFlit p.txSeq ((p.rxNext + 65535) % 65536) r.1 r.2 f.bytes
  let q := p.queue.takeWhile (fun g => g.channel != f.channel) ++ (p.queue.dropWhile (fun g => g.channel != f.channel)).drop 1
  let p1 : Port := { p with
    queue := q
    credits := tmod 0 p.credits f.channel (fun k => k - 1)
    owed := tmod 0 p.owed r.1 (fun k => k - r.2) }
  if f.channel = 0 then (bs, p1)
  else (bs, { p1 with txSeq := (p.txSeq + 1) % 65536, txBuf := p.txBuf ++ [{ f with seq := p.txSeq }] })

/-- Send what may leave now. -/
def Port.drain : Nat → Port → List (List Byte) × Port
  | 0, p => ([], p)
  | n + 1, p => match p.nextFlit with
    | none => ([], p)
    | some f =>
      let r := p.sendOne f
      let rest := Port.drain n r.2
      (r.1 :: rest.1, rest.2)

/-- Let a port send. -/
def PeerSt.flush (x : PeerSt) (p : Nat) : PeerSt :=
  let q := tget Port.reset x.ports p
  let r := Port.drain q.queue.length q
  { x with ports := tset x.ports p r.2, wire := x.wire ++ r.1.map (fun b => (p, b)) }

/-- Give a port flit bodies of one channel to send. -/
def PeerSt.enqueue (x : PeerSt) (p ch : Nat) (bodies : List (List Byte)) : PeerSt :=
  let fs := bodies.map (fun b => ({ seq := 0, channel := ch, bytes := b, replays := 0, firstReplay := 0 } : TxFlit))
  ({ x with ports := tmod Port.reset x.ports p (fun q => { q with queue := q.queue ++ fs }) } : PeerSt).flush p

/-- The bodies of a message that this member sends, on its first hop. -/
def PeerSt.bodies (x : PeerSt) (m : PeerMsg) : List (List Byte) :=
  let cs := msgChunks m.kind m.payload
  let ch := if m.kind < 0x10 then 0 else 1
  ((List.range cs.length).zip cs).map (fun c =>
    flitBody m.kind ch 1 (c.1 + 1 == cs.length) x.gid.toNat x.member m.dst m.opId (m.offset / 16 % 2 ^ 32) c.2)

/-- Route a message and hand its flits to a port; an unreachable member gets nothing. -/
def PeerSt.transmit (x : PeerSt) (m : PeerMsg) : PeerSt :=
  let y := { x with sent := x.sent ++ [m] }
  match x.route m.dst with
  | none => y
  | some p => y.enqueue p (if m.kind < 0x10 then 0 else 1) (x.bodies m)

end Sys2Proof.Machine
end

