-- ==== Sys2Proof/Machine/Kci.lean ====
section
/-! DEFINITION. The life of a KCI command: its 64-byte entry (Tables 15-1, 15-4, 15-5) and the check of its reserved bits
(R372), its conclusion with the event signal (R377), context faults (R366), context resets (R368), the completion entry
(Table 15-2) and the colophon (Table 6-3). -/

namespace Sys2Proof.Machine

/-! ### Entries (R371) -/

/-- One field of an entry: offset, size in bytes, value, and the bits of it that are not reserved. -/
structure Field where
  off : Nat
  size : Nat
  val : Nat
  deriving DecidableEq, Repr

/-- Opcodes of Table 15-3. -/
def bodyOpcode : Body → Nat
  | .queueCreate .. => 0x01
  | .queueDestroy .. => 0x02
  | .objCreate .. => 0x03
  | .objOpen .. => 0x04
  | .objShare .. => 0x05
  | .objUnshare .. => 0x06
  | .objRetain .. => 0x07
  | .objRelease .. => 0x08
  | .objPlace .. => 0x09
  | .objQuery .. => 0x0A
  | .eventCreate .. => 0x0B
  | .eventDestroy .. => 0x0C
  | .eventClear .. => 0x0D
  | .programInstall .. => 0x0E
  | .priority .. => 0x0F
  | .jobEnd => 0x10
  | .copyIn .. => 0x20
  | .copyOut .. => 0x21
  | .copy .. => 0x22
  | .nop => 0x2F
  | .run .. => 0x30
  | .search .. => 0x31
  | .indexSeal .. => 0x32

/-- The fields of a command (Tables 15-4 and 15-5). -/
def bodyFields : Body → List Field
  | .queueCreate q c n v sq cq co => [⟨0x18, 1, q⟩, ⟨0x19, 1, c⟩, ⟨0x1A, 2, n⟩, ⟨0x1C, 2, v⟩, ⟨0x20, 8, sq⟩, ⟨0x28, 8, cq⟩, ⟨0x30, 8, co⟩]
  | .queueDestroy q => [⟨0x18, 1, q⟩]
  | .objCreate o n w k h l p d => [⟨0x18, 8, o⟩, ⟨0x20, 8, n⟩, ⟨0x28, 4, w⟩, ⟨0x2C, 1, k⟩, ⟨0x2D, 1, h⟩, ⟨0x2E, 2, l⟩, ⟨0x30, 4, p⟩, ⟨0x34, 2, d⟩]
  | .objOpen o r => [⟨0x18, 8, o⟩, ⟨0x20, 1, r⟩]
  | .objShare h g r => [⟨0x18, 1, h⟩, ⟨0x19, 1, g⟩, ⟨0x1A, 1, r⟩]
  | .objUnshare h g => [⟨0x18, 1, h⟩, ⟨0x19, 1, g⟩]
  | .objRetain h => [⟨0x18, 1, h⟩]
  | .objRelease h d => [⟨0x18, 1, h⟩, ⟨0x19, 1, b2n d⟩]
  | .objPlace h w => [⟨0x18, 1, h⟩, ⟨0x1C, 4, w⟩]
  | .objQuery h b => [⟨0x18, 1, h⟩, ⟨0x20, 8, b⟩]
  | .eventCreate e v => [⟨0x18, 1, e⟩, ⟨0x20, 8, v⟩]
  | .eventDestroy e => [⟨0x18, 1, e⟩]
  | .eventClear e => [⟨0x18, 1, e⟩]
  | .programInstall o a n _ => [⟨0x18, 8, o⟩, ⟨0x20, 8, a⟩, ⟨0x28, 4, n⟩]
  | .priority q c i => [⟨0x18, 1, q⟩, ⟨0x19, 1, c⟩, ⟨0x1A, 2, i⟩]
  | .jobEnd => []
  | .copyIn h o a n l _ => [⟨0x18, 1, h⟩, ⟨0x20, 8, o⟩, ⟨0x28, 8, a⟩, ⟨0x30, 4, n⟩, ⟨0x38, 4, l⟩]
  | .copyOut h o a n l => [⟨0x18, 1, h⟩, ⟨0x20, 8, o⟩, ⟨0x28, 8, a⟩, ⟨0x30, 4, n⟩, ⟨0x38, 4, l⟩]
  | .copy s d so od n l => [⟨0x18, 1, s⟩, ⟨0x19, 1, d⟩, ⟨0x20, 8, so⟩, ⟨0x28, 8, od⟩, ⟨0x30, 4, n⟩, ⟨0x38, 4, l⟩]
  | .nop => []
  | .run p n m q b _ _ => [⟨0x18, 1, p⟩, ⟨0x19, 1, n⟩, ⟨0x1A, 1, m⟩, ⟨0x1C, 4, q⟩, ⟨0x20, 8, b⟩]
  | .search i q o n k np f r t qo oo fi _ => [⟨0x18, 1, i⟩, ⟨0x19, 1, q⟩, ⟨0x1A, 1, o⟩, ⟨0x1B, 1, n⟩, ⟨0x1C, 2, k⟩, ⟨0x1E, 2, np⟩, ⟨0x20, 1, f⟩, ⟨0x21, 1, r⟩, ⟨0x22, 1, t⟩, ⟨0x28, 8, qo⟩, ⟨0x30, 8, oo⟩, ⟨0x38, 8, fi⟩]
  | .indexSeal h => [⟨0x18, 1, h⟩]

/-- The fields of the common part (Table 15-1). -/
def entryFields (e : Entry) (op : Nat) : List Field :=
  [⟨0x00, 1, op⟩, ⟨0x01, 1, b2n e.fence + 2 * b2n e.wait + 4 * b2n e.signal⟩, ⟨0x02, 2, e.cid⟩, ⟨0x04, 1, e.waitEvent⟩,
    ⟨0x05, 1, e.signalEvent⟩, ⟨0x08, 8, e.threshold⟩, ⟨0x10, 4, e.incr - 1⟩]

/-- Place fields in zero bytes. -/
def layFields (n : Nat) (fs : List Field) : List Byte :=
  (List.range n).map (fun i => match fs.find? (fun f => f.off ≤ i && i < f.off + f.size) with
    | some f => BitVec.ofNat 8 (f.val / 256 ^ (i - f.off))
    | none => 0)

/-- The 64 bytes that spell a command. -/
def encodeEntry (e : Entry) (b : Body) : List Byte := layFields 64 (entryFields e (bodyOpcode b) ++ bodyFields b)

/-- Every field fits its bytes, so that the entry spells exactly this command. -/
def entryFits (e : Entry) (b : Body) : Bool :=
  (entryFields e (bodyOpcode b) ++ bodyFields b).all (fun f => decide (f.val < 256 ^ f.size)) && decide (1 ≤ e.incr)

/-- The bits of a command's own bytes that are not reserved, by opcode: offset, size and mask. -/
def opMask (op : Nat) : Option (List Field) :=
  match op with
  | 0x01 => some [⟨0x18, 6, 2 ^ 48 - 1⟩, ⟨0x20, 24, 2 ^ 192 - 1⟩]
  | 0x02 => some [⟨0x18, 1, 255⟩]
  | 0x03 => some [⟨0x18, 30, 2 ^ 240 - 1⟩]
  | 0x04 => some [⟨0x18, 8, 2 ^ 64 - 1⟩, ⟨0x20, 1, 7⟩]
  | 0x05 => some [⟨0x18, 3, 0x07FFFF⟩]
  | 0x06 => some [⟨0x18, 2, 0xFFFF⟩]
  | 0x07 => some [⟨0x18, 1, 255⟩]
  | 0x08 => some [⟨0x18, 2, 0x01FF⟩]
  | 0x09 => some [⟨0x18, 1, 255⟩, ⟨0x1C, 4, 2 ^ 32 - 1⟩]
  | 0x0A => some [⟨0x18, 1, 255⟩, ⟨0x20, 8, 2 ^ 64 - 1⟩]
  | 0x0B => some [⟨0x18, 1, 255⟩, ⟨0x20, 8, 2 ^ 63 - 1⟩]
  | 0x0C => some [⟨0x18, 1, 255⟩]
  | 0x0D => some [⟨0x18, 1, 255⟩]
  | 0x0E => some [⟨0x18, 20, 2 ^ 160 - 1⟩]
  | 0x0F => some [⟨0x18, 4, 2 ^ 32 - 1⟩]
  | 0x10 => some []
  | 0x20 => some [⟨0x18, 1, 255⟩, ⟨0x20, 20, 2 ^ 160 - 1⟩, ⟨0x38, 4, 2 ^ 32 - 1⟩]
  | 0x21 => some [⟨0x18, 1, 255⟩, ⟨0x20, 20, 2 ^ 160 - 1⟩, ⟨0x38, 4, 2 ^ 32 - 1⟩]
  | 0x22 => some [⟨0x18, 2, 0xFFFF⟩, ⟨0x20, 20, 2 ^ 160 - 1⟩, ⟨0x38, 4, 2 ^ 32 - 1⟩]
  | 0x2F => some []
  | 0x30 => some [⟨0x18, 3, 2 ^ 24 - 1⟩, ⟨0x1C, 4, 2 ^ 24 - 1⟩, ⟨0x20, 8, 2 ^ 64 - 1⟩]
  | 0x31 => some [⟨0x18, 11, 0xFF01 * 2 ^ 72 + (2 ^ 72 - 1)⟩, ⟨0x28, 24, 2 ^ 192 - 1⟩]
  | 0x32 => some [⟨0x18, 1, 255⟩]
  | _ => none

/-- The mask of the common part. -/
def commonMask : List Field :=
  [⟨0x00, 1, 255⟩, ⟨0x01, 1, 7⟩, ⟨0x02, 2, 0xFFFF⟩, ⟨0x04, 1, 0x3F⟩, ⟨0x05, 1, 0x3F⟩, ⟨0x08, 8, 2 ^ 63 - 1⟩, ⟨0x10, 4, 2 ^ 32 - 1⟩]

/-- R372: an unknown opcode or a non-zero reserved bit. -/
def malformed (raw : List Byte) : Bool :=
  match opMask (raw.getD 0 0).toNat with
  | none => true
  | some m => (raw.zip (layFields 64 (commonMask ++ m))).any (fun p => p.1 &&& ~~~p.2 != 0)

/-- R380: is the opcode permitted in the queue? -/
def opInQueue (op q : Nat) : Bool :=
  if op ≤ 0x10 then q == 0 else if op = 0x2F ∨ op = 0x30 then decide (1 ≤ q ∧ q ≤ 9) else decide (1 ≤ q ∧ q ≤ 8)

/-! ### What a command names -/

/-- Handles that a command names, in the order it names them. -/
def bodyHandles : Body → List Nat
  | .objShare h _ _ => [h]
  | .objUnshare h _ => [h]
  | .objRetain h => [h]
  | .objRelease h _ => [h]
  | .objPlace h _ => [h]
  | .objQuery h _ => [h]
  | .copyIn h .. => [h]
  | .copyOut h .. => [h]
  | .copy s d .. => if s = d then [s] else [s, d]
  | .run p _ _ _ _ args _ => (p :: args.map (·.handle)).eraseDups
  | .search i q o .. => [i, q, o].eraseDups
  | .indexSeal h => [h]
  | _ => []

/-- Bytes of a search's record per query (Table 9-5). -/
def searchStride (k nprobe : Nat) : Nat := (32 + 16 * k + 8 * nprobe + 63) / 64 * 64

/-- The slot descriptor that a program gives a slot. -/
def ObjectSt.slotOf (x : ObjectSt) (n : Nat) : Option SlotDesc :=
  match x.prog with
  | some p => p.slots.find? (fun d => d.slot == n)
  | none => none

/-- The argument entries of a RUN whose slot has one of the given roles, with their objects. -/
def State.argsWith (s : State) (c : Cmd) (roles : List Nat) : List (Nat × ArgEntry × SlotDesc) :=
  match c.body with
  | .run p _ _ _ _ args _ =>
    match s.handleObj c.e.ctx p with
    | none => []
    | some (_, x) => args.filterMap (fun a =>
        match x.slotOf a.slot, s.handleObj c.e.ctx a.handle with
        | some d, some (h, _) => if roles.contains d.role then some (h.obj, a, d) else none
        | _, _ => none)
  | _ => []

/-- The ranges of output objects that a command is to write, through mappings with right W. -/
def State.outRanges (s : State) (c : Cmd) : List (Nat × Nat × Nat) :=
  let rng (h off len : Nat) : List (Nat × Nat × Nat) :=
    match s.handleObj c.e.ctx h with
    | some (m, x) => if bit m.rights 1 ∧ off < x.size then [(m.obj, off, min len (x.size - off))] else []
    | none => []
  match c.body with
  | .copyIn h off _ len _ _ => rng h off len
  | .copy _ d _ doff len _ => rng d doff len
  | .run .. => (s.argsWith c [2, 5]).flatMap (fun a => rng a.2.1.handle a.2.1.offset a.2.1.length)
  | .search _ _ o nq k np _ _ _ _ oo _ _ => rng o oo (nq * searchStride k np)
  | _ => []

/-- The ID of the persistent object that a command was writing, or 0 (Table 14-9). -/
def State.t2Writing (s : State) (c : Cmd) : Nat :=
  match (s.outRanges c).find? (fun r => match s.obj? r.1 with | some x => x.persistent | none => false) with
  | some r => match s.obj? r.1 with | some x => x.oid | none => 0
  | none => 0

/-- Is this a RUN? -/
def isRun : Body → Bool
  | .run .. => true
  | _ => false

/-- Is this a compute command (R380)? -/
def isCompute : Body → Bool
  | .run .. => true
  | .search .. => true
  | _ => false

/-! ### Peer messages -/

/-- Type codes of Table 12-5. -/
def msgPost : Nat := 0x10
def msgGather : Nat := 0x11
def msgReduce : Nat := 0x12
def msgEnvelope : Nat := 0x13
def msgAbort : Nat := 0x14
def msgNakType : Nat := 0x15

/-- The members other than this one. -/
def PeerSt.others (p : PeerSt) : List Nat := (List.range p.size).filter (fun j => j != p.member)

/-- Hand messages to the ports; data messages leave a copy (R292). -/
def State.sendMsg (s : State) (m : PeerMsg) : State :=
  s.modPeer (fun p => { p.transmit m with copies := if isData m.kind then p.copies ++ [m] else p.copies })

/-- Send one message to every other member. -/
def State.sendAll (s : State) (kind opId off : Nat) (payload : List Byte) : State :=
  s.peer.others.foldl (fun s j => s.sendMsg { dst := j, kind := kind, opId := opId, offset := off, payload := payload, sentAt := s.time.now }) s

/-- The operation ID of a sequence in the current epoch (Table 12-4). -/
def PeerSt.opId (p : PeerSt) (seq : Nat) : Nat := p.epoch * 2 ^ 24 + seq % 2 ^ 24

/-- End the group operations of commands: ABORT with a status goes to every member (R298). -/
def State.endOps (s : State) (uids : List Nat) (status : Nat) : State :=
  let mine := s.peer.ops.filter (fun o => uids.contains o.uid)
  let s1 := s.modPeer (fun p => { p with ops := p.ops.filter (fun o => !uids.contains o.uid) })
  mine.foldl (fun s o => s.sendAll msgAbort (s.peer.opId o.seq) 0 (le 2 status)) s1

/-! ### Work in the engines -/

/-- R86, R95, R172: staged weights of commands are discarded, their slots are released unless a pass of them is still in
the array, their waiting speculative reads are cancelled. -/
def State.dropWork (s : State) (uids : List Nat) : State :=
  let s1 := s.modArrays (fun l => tmap l (fun _ a =>
    { a with
      staged := (match a.staged with | some u => if uids.contains u.1 then none else some u | none => none),
      class0 := (match a.class0 with | some u => if uids.contains u then none else some u | none => none),
      checking := a.checking.filter (fun r => !uids.contains r.uid),
      slots := a.slots.filter (fun q => !uids.contains q.2.1 || a.inflight.any (fun r => r.uid == q.2.1 && r.tile == q.2.2)) }))
  s1.modNand (fun n => { n with dies := tmap n.dies (fun _ d =>
    { d with waiting := d.waiting.filter (fun q => !(q.pri == 3 && (match q.uid with | some u => uids.contains u | none => false))) }) })

/-! ### Conclusion -/

/-- R377, R360: the signal of a command's event. -/
def State.signalEvent (s : State) (e : Entry) (bad : Bool) : State :=
  if e.signal then
    match tfind (s.ctx e.ctx).events e.signalEvent with
    | none => s
    | some v =>
      let v' : EventSt := if bad then { v with err := true } else { v with value := min (v.value + e.incr) (2 ^ 63 - 1) }
      s.modCtx e.ctx (fun c => { c with events := tset c.events e.signalEvent v' })
  else s

/-- R147: SUCCESS after a retry, a redrain or a re-evaluation. -/
def finalStatus (st : Nat) (retried : Bool) : Nat := if st = stSuccess ∧ retried then stRetriedOk else st

/-- The abort list entry of a KCI command (Table 14-9). -/
def State.kciAbort (s : State) (reason : Nat) (c : Cmd) : AbortEnt :=
  { kind := 2, reason := reason, queue := c.e.queue, cid := c.e.cid, ctx := c.e.ctx, fetched := c.fetched,
    entered := s.time.now, oid := s.t2Writing c }

/-- Remove commands without a completion: their ranges become undefined (R403). -/
def State.loseCmds (s : State) (cs : List Cmd) : State :=
  let s1 := cs.foldl (fun s c => if c.status.isNone then s.markAll (s.outRanges c) else s) s
  let uids := cs.map (·.uid)
  let s2 := s1.dropWork uids
  (s2.modCmds (fun l => l.filter (fun c => !uids.contains c.uid))).modPeer (fun p => { p with
    ops := p.ops.filter (fun o => !uids.contains o.uid) })

/-- The status of a command is decided: its ranges become undefined on an error (R37), its event is signalled, and it
waits in DRAINING for its completion entry (Table 8-2). A part of a group operation that fails sends ABORT (R298). A command
that a lost host link stopped enters the abort list instead (R47). -/
def State.conclude (s : State) (uid st dw0 dw1 : Nat) : State :=
  match s.cmd? uid with
  | none => s
  | some c =>
    if c.status.isSome then s
    else if st = stLinkLost then
      let s0 := s.endOps [uid] stPeerAborted
      (s0.abortAdd c.e.ctx [s0.kciAbort 4 c]).loseCmds [c]
    else
      let st' := finalStatus st c.retried
      let s0 := if isError st' ∧ st' ≠ stPeerLost ∧ st' ≠ stPeerNotBound then s.endOps [uid] st' else s
      let s1 := if isError st' then s0.markAll (s0.outRanges c) else s0
      let s2 := (s1.signalEvent c.e (isError st')).dropWork [uid]
      let s3 := s2.modCmd uid (fun c => { c with
        status := some st', st := .draining, dw0 := dw0, dw1 := dw1, doneSeq := s.nextId, ending := none,
        waitItems := [], tiles := [], search := none, tele := { c.tele with stop := s.time.now } })
      s3.bump.modPeer (fun p => { p with ops := p.ops.filter (fun o => o.uid != uid) })

/-- End every pending command that a predicate selects, oldest first. -/
def State.concludeAll (s : State) (f : Cmd → Bool) (st : Nat) : State :=
  (s.cmds.filter (fun c => f c && c.status.isNone)).foldl (fun s c => s.conclude c.uid st c.excRecs c.dw1) s

/-- The exclusive set of a context's job moves to RELEASING (Table 8-1). -/
def State.releaseJob (s : State) (ctx : Nat) : State :=
  s.modParts (fun t => tmap t (fun _ p => if (p.state = 1 ∨ p.state = 2) ∧ p.ctx = ctx then { p with state := 3 } else p))

/-! ### Context faults (R365, R366) -/

/-- Error classes of Table 14-7. -/
def clsMemory : Nat := 0x01
def clsDoorbell : Nat := 0x02
def clsPrivilege : Nat := 0x03
def clsHostDma : Nat := 0x04
def clsEntry : Nat := 0x05

/-- A cause of Table 14-7: the record of R41 is logged; an OPEN context faults, every pending command of it completes with
CTX_FAULTED, and its mappings go as their DREF reaches zero. -/
def State.faultCtx (s : State) (ctx cls addr status queue cid : Nat) : State :=
  let a : ErrArg := {
    cls := cls, kind := 0, ctx := ctx, unit := if cls = clsMemory then 0 else unitOf 0xC ctx, addr := addr,
    status := status, queue := queue, cid := cid, fn := ctx }
  let s1 := s.logViol a
  if (s1.ctx ctx).state = 1 then
    let fs := if status = 0 then stCtxFaulted else status
    let s2 := s1.modCtx ctx (fun c => { c with state := 2, faultStatus := fs })
    let uids := (s2.pendingOf ctx).map (·.uid)
    let s3 := (s2.endOps uids stCtxFaulted).concludeAll (fun c => c.e.ctx == ctx) stCtxFaulted
    ((s3.releaseJob ctx).drainAll ctx).reap ctx
  else s1

/-! ### Context resets (R367, R368) -/

/-- Steps 1 to 3 of Table 14-8: the reset is latched and the context's work stops. -/
def State.resetCtx (s : State) (ctx reason : Nat) : State :=
  if (s.ctx ctx).state = 3 then s
  else
    let uids := (s.pendingOf ctx).map (·.uid)
    let s1 := s.modCtx ctx (fun c => { c with state := 3, resetReason := reason })
    ((s1.dropWork uids).endOps uids stPeerAborted).releaseJob ctx

/-- Steps 4 to 6 of Table 14-8: pending commands enter the abort list, mappings go, the context is CLOSED. -/
def State.closeCtx (s : State) (ctx : Nat) : State :=
  let c := s.ctx ctx
  let cs := s.pendingOf ctx
  let ents := cs.map (s.kciAbort c.resetReason)
  let s1 := s.loseCmds cs
  let s2 := s1.modCtx ctx (fun c => { c with handles := tmap c.handles (fun _ h => { h with draining := true, dref := 0 }) })
  let s3 := (s2.reap ctx).modCtx ctx (fun c => { c with
    state := 0, enable := false, policy := 0x100, policyErr := 0, seedLo := 0, seedHi := 0, seed := 0, queues := [], handles := [],
    events := [], slots := [] })
  s3.abortAdd ctx ents

/-- R345 orderly close: nothing is pending; the queue and the events go. -/
def State.closeOrderly (s : State) (ctx : Nat) : State :=
  s.modCtx ctx (fun c => { c with state := 0, enable := false, queues := [], events := [], slots := [] })

/-! ### Digests of a command's objects (R141, R142) -/

/-- Ranges by object, in the order the objects are first named; the ranges of an object in ascending order. -/
def groupRanges (rs : List (Nat × Nat × Nat)) : List (Nat × List (Nat × Nat)) :=
  (rs.map (·.1)).eraseDups.map (fun o =>
    (o, ((rs.filter (fun r => r.1 == o)).map (fun r => (r.2.1, r.2.2))).mergeSort (fun a b => decide (a.1 ≤ b.1))))

/-- Ranges in ascending order with each byte covered once, from an address on (assumption log 30). -/
def coverFrom : Nat → List (Nat × Nat) → List (Nat × Nat)
  | _, [] => []
  | lo, (a, n) :: rs => (max a lo, a + n - max a lo) :: coverFrom (max lo (a + n)) rs

/-- The digests of grouped ranges. -/
def State.digests (s : State) (rs : List (Nat × Nat × Nat)) : List Nat :=
  (groupRanges rs).map (fun g => match s.obj? g.1 with
    | some x => digest ((coverFrom 0 g.2).flatMap (fun r => x.read r.1 r.2))
    | none => digest [])

/-- The ranges of input objects that a RUN names. -/
def State.inRanges (s : State) (c : Cmd) : List (Nat × Nat × Nat) :=
  (s.argsWith c [0, 1, 3, 4]).map (fun a => (a.1, a.2.1.offset, a.2.1.length))

/-- Input digest and count: for a search, the query range and the index digest of the header (R229). -/
def State.inputDigest (s : State) (c : Cmd) : Nat × Nat :=
  match c.body with
  | .search i q _ nq _ _ _ _ _ qo _ _ _ =>
    match s.handleObj c.e.ctx i, s.handleObj c.e.ctx q with
    | some (_, x), some (hq, _) =>
      let esz := if leNat (x.read 7 1) = 2 then 2 else 1
      let qd := s.digests [(hq.obj, qo, nq * leNat (x.read 8 2) * esz)]
      (digestAll (qd ++ [leNat (x.read 0x40 8)]), 2)
    | _, _ => (digestAll [], 0)
  | _ => let ds := s.digests (s.inRanges c); (digestAll ds, ds.length)

/-- Output digest and count; the excursion object is not among the outputs (assumption log 14). -/
def State.outputDigest (s : State) (c : Cmd) : Nat × Nat :=
  let rs := match c.body with
    | .run .. => (s.argsWith c [2]).map (fun a => (a.1, a.2.1.offset, a.2.1.length))
    | _ => s.outRanges c
  let ds := s.digests rs
  (digestAll ds, ds.length)

/-! ### Check modes (R137-R139) -/

/-- Strength of a mode: 0 FULL, n SAMPLED with n, 9 OFF; higher is weaker. -/
def modeRank (m n : Nat) : Nat := if m = 0 then 0 else if m = 1 then n else 9

/-- The mode in force for a context's next command, and whether the floor raised it: mode 0 FULL, 1 SAMPLED, 2 OFF. -/
def Context.effMode (c : Context) : Nat × Nat × Bool :=
  let own : Nat × Nat := if c.adminOff then (2, 0) else (bits c.policy.toNat 31 30, bits c.policy.toNat 27 24)
  let flo : Nat × Nat := (c.floorMode, c.floorN)
  if modeRank flo.1 flo.2 < modeRank own.1 own.2 then (flo.1, flo.2, true) else (own.1, own.2, false)

/-! ### The colophon (R143) -/

/-- A saturating field of a record. -/
def satLe (k n : Nat) : List Byte := le k (min n (256 ^ k - 1))

/-- The running firmware version. -/
def State.fwVersion (s : State) : Nat :=
  match (if s.store.runningB then s.store.imgB else s.store.imgA) with
  | some i => i.version
  | none => 0

/-- Does a RUN's program round any output with SR? -/
def State.usesSr (s : State) (c : Cmd) : Bool := (s.argsWith c [2]).any (fun a => a.2.2.sr)

/-- Bytes 0x00 to 0x77 of the colophon of a concluded command. -/
def State.colophonBody (s : State) (c : Cmd) (part : Nat) : List Byte :=
  let ctx := s.ctx c.e.ctx
  let m := match c.mode with | some (m, n) => (m, n, c.floored) | none => ctx.effMode
  let prog := match c.body with
    | .run p .. => (match s.handleObj c.e.ctx p with | some (_, x) => some x | none => none)
    | _ => none
  let inp := match c.inDig with | some d => (d, (s.inputDigest c).2) | none => s.inputDigest c
  let out := s.outputDigest c
  let t := c.tele
  le 2 0x0006 ++ le 2 (c.status.getD 0) ++ le 1 part ++ le 1 c.e.ctx ++
    le 1 (m.1 * 64 + (if m.1 = 1 then m.2.1 else 0)) ++
    le 1 (b2n (if c.mode.isSome then c.strict else bit ctx.policy.toNat 8) + 2 * b2n (s.usesSr c) + 4 * b2n t.unlocked + 8 * b2n m.2.2 + 16 * b2n t.widened) ++
    le 8 (match prog with | some x => x.oid | none => 0) ++
    ((match prog with | some x => (match x.prog with | some p => p.hash16 | none => []) | none => []) ++ zeros 16).take 16 ++
    le 8 inp.1 ++ le 8 out.1 ++ satLe 2 inp.2 ++ satLe 2 out.2 ++ le 4 s.fwVersion ++
    satLe 4 t.checked ++ satLe 4 t.failed ++ satLe 4 t.retried ++ satLe 4 t.split ++ satLe 4 t.unchecked ++
    satLe 4 t.sat ++ satLe 4 t.flushed ++ satLe 4 t.lockstep ++ le 8 (t.start.getD c.fetched) ++ le 8 t.stop ++
    le 2 t.minV ++ le 2 (ofSigned 16 t.maxT) ++ le 1 t.maxStretch ++ satLe 1 t.breaches ++ le 2 t.minRate ++
    le 1 t.startRegion ++ le 1 t.stopRegion ++ zeros 6

/-- The 128-byte colophon: the body and its seal. -/
def State.colophon (s : State) (c : Cmd) (part : Nat) : List Byte :=
  let b := s.colophonBody c part
  b ++ le 8 (digest b)

/-- R179, Table 6-3: the partition of the colophon, the set's lowest for an exclusive job. -/
def State.colophonPart (s : State) (c : Cmd) : Nat :=
  let p := (s.ctx c.e.ctx).partition
  if (s.part p).state = 2 then (s.part p).lead else p

/-! ### Colophon statistics (R438) -/

/-- What one colophon adds to the sixteen counters of Table 17-7. -/
def Cmd.statVector (c : Cmd) (off : Bool) : List Nat :=
  let st := c.status.getD 0
  let t := c.tele
  let is (b : Bool) := b2n b
  [1, is (st == stSuccess || st == stShort), is (st == stRetriedOk), is (st == stCheckFailed), is (st == stScaleExcursion),
    is (isError st && st != stCheckFailed && st != stScaleExcursion), t.checked, t.failed, t.retried, t.unchecked, t.split,
    t.sat, t.flushed, t.lockstep, is off, is c.floored]

/-- Add a colophon to a context's statistics. -/
def State.addStats (s : State) (c : Cmd) : State :=
  let off := match c.mode with | some (m, _) => m == 2 | none => false
  let add (v : List Nat) : List Nat := (v.zip (c.statVector off)).map (fun p => add64 p.1 p.2)
  s.modLedger (fun l => { l with stats := tmod (List.replicate 16 0) l.stats c.e.ctx add })

/-! ### Posting (R352, R353, R373, R374) -/

/-- The result words of a completion (Table 15-3). For an error status the table states those of RUN, and the reason of
PROGRAM_REJECTED; the others are free values (assumption log 1). -/
def resultWords (c : Cmd) (draw : Nat) : Nat × Nat :=
  if isError (c.status.getD 0) ∧ isRun c.body = false then
    (Config.freeNat draw 0, if c.status = some stProgramRejected then c.dw1 else Config.freeNat draw 1)
  else (c.dw0, c.dw1)

/-- The 32-byte completion entry (Table 15-2). -/
def completionBytes (c : Cmd) (draw head : Nat) (phase colo : Bool) (now : Nat) : List Byte :=
  le 4 (resultWords c draw).1 ++ le 4 (resultWords c draw).2 ++ le 2 head ++ le 2 c.e.queue ++ le 2 c.e.cid ++ le 2 (c.status.getD 0) ++
    le 1 (b2n phase + 2 * b2n colo) ++ zeros 3 ++ zeros 4 ++ le 8 now

/-- DREF of the handles of a command falls (R362). -/
def State.dropRefs (s : State) (c : Cmd) : State :=
  (s.modCtx c.e.ctx (fun x => { x with handles := tmap x.handles (fun h m =>
    if c.handles.contains h then { m with dref := m.dref - 1 } else m) })).reap c.e.ctx

/-- R349: the slot of a class-0 command is free again. -/
def State.freeSlot (s : State) (c : Cmd) : State :=
  if c.e.queue = 9 then
    s.modCtx c.e.ctx (fun x => { x with slots := x.slots.filter (fun p => !(p.2.busy && p.2.cid == c.uid)) })
  else s

/-- Is the ring full? One entry stays free, so that head = tail means empty (assumption log 15). -/
def QueueSt.full (q : QueueSt) : Bool := (q.cqTail + 1) % q.entries == q.cqHead

/-- The next command of a queue to post: the first that was concluded. -/
def State.nextPost (s : State) (ctx queue : Nat) : Option Cmd :=
  (s.cmds.filter (fun c => c.e.ctx == ctx && c.e.queue == queue && c.status.isSome)).foldl
    (fun a c => match a with | none => some c | some b => if c.doneSeq < b.doneSeq then some c else some b) none

/-- Write a concluded command's colophon and completion entry; the command is DONE and leaves the list. -/
def State.post (s : State) (c : Cmd) (q : QueueSt) : State :=
  let colo := isCompute c.body
  let s1 := if colo then (s.hostWrite (q.colo + 128 * q.cqTail) (s.colophon c (s.colophonPart c))).addStats c else s
  let s2 := s1.hostWrite (q.cq + 32 * q.cqTail) (completionBytes c s.freeCtr q.head q.phase colo s.time.now)
  let tail' := (q.cqTail + 1) % q.entries
  let q' : QueueSt := { q with cqTail := tail', phase := if tail' = 0 then !q.phase else q.phase, irq := true }
  let s3 := s2.modCtx c.e.ctx (fun x => { x with queues := tset x.queues c.e.queue q' })
  let s4 := if q.irq then s3 else s3.signal c.e.ctx q.vector
  let s5 := (s4.drawn.modNvme (fun n => { n with idleSince := s.time.now })).modCmds (fun l => l.filter (fun d => d.uid != c.uid))
  (s5.freeSlot c).dropRefs c

end Sys2Proof.Machine
end

