-- ==== Sys2Proof/Machine/Ipo.lean ====
section
/-! DEFINITION. The IPO container (R397-R400): its header, its section table, its interface, and the checks of Table 15-11
in their order. -/

namespace Sys2Proof.Machine

/-- A field of an image, least significant byte first; bytes beyond the image read zero. -/
def fld (img : List Byte) (off n : Nat) : Nat := leNat (slice img off n)

/-- One section table entry (Table 15-9). -/
structure Section where
  kind : Nat
  off : Nat
  len : Nat
  hash : List Byte
  reserved : Nat
  deriving DecidableEq, Repr

/-- The section table. -/
def sections (img : List Byte) : List Section :=
  (List.range (fld img 0x0C 2)).map (fun i =>
    let o := 0x100 + 64 * i
    { kind := fld img o 2, off := fld img (o + 4) 4, len := fld img (o + 8) 4, hash := slice img (o + 0x10) 48,
      reserved := fld img (o + 2) 2 + fld img (o + 12) 4 })

/-- Check 1: magic, format version, header size, reserved fields, section count and kinds. -/
def ipoHeaderOk (img : List Byte) : Bool :=
  decide (0x100 ≤ img.length) && fld img 0 4 == 0x4F504936 && fld img 4 2 == 1 && fld img 6 2 == 0x100 &&
    decide (fld img 8 4 < 2) && fld img 0x0F 1 == 0 && fld img 0x80 128 == 0 && decide (1 ≤ fld img 0x0C 2 ∧ fld img 0x0C 2 ≤ 32) &&
    (sections img).all (fun x => x.reserved == 0 && decide (1 ≤ x.kind ∧ x.kind ≤ 4))

/-- Check 2: the length. -/
def ipoLengthOk (img : List Byte) (install : Nat) : Bool :=
  fld img 0x14 4 == install && install % 64 == 0 && decide (install ≤ 32 * 2 ^ 20)

/-- Check 3: ascending sections from `lo` on, without overlap, within the image. -/
def ipoLayoutOk : List Section → Nat → Nat → Bool
  | [], lo, size => decide (lo ≤ size)
  | x :: xs, lo, size => x.off % 64 == 0 && decide (lo ≤ x.off) && decide (x.off + x.len ≤ size) && ipoLayoutOk xs (x.off + x.len) size

/-- Check 4: the hashes. -/
def ipoHashesOk (img : List Byte) : Bool := (sections img).all (fun x => sha384 (slice img x.off x.len) == x.hash)

/-- The image with its signature bytes taken as zero (R398). -/
def unsigned (img : List Byte) : List Byte := img.take 0x20 ++ zeros 96 ++ img.drop 0x80

/-- Check 5: an enrolled key, and the signature. -/
def ipoSignedOk (img : List Byte) (keys : Table (List Byte)) : Bool :=
  match tfind keys (fld img 0x0E 1) with
  | none => false
  | some k => ecdsaVerify k (slice img 0x20 96) (sha384 (unsigned img))

/-- The bytes of the one section of a kind. -/
def sectionOf (img : List Byte) (kind : Nat) : List Byte :=
  match (sections img).find? (fun x => x.kind == kind) with
  | some x => slice img x.off x.len
  | none => []

/-- One interface slot descriptor (Table 15-10). -/
def slotDesc (sec : List Byte) (i : Nat) : SlotDesc :=
  let o := 16 + 32 * i
  { slot := fld sec o 1, role := fld sec (o + 1) 1, fmt := fld sec (o + 2) 1, group := fld sec (o + 3) 1,
    sr := fld sec (o + 4) 1 == 1, calibrated := fld sec (o + 5) 1 == 1, mayGather := bit (fld sec (o + 6) 1) 0,
    kvfmt := bits (fld sec (o + 6) 1) 3 1, rowLen := fld sec (o + 8) 4, cols := fld sec (o + 12) 4, calibOff := fld sec (o + 16) 4 }

/-- The formats that a role takes: operands without FP32, outputs with it, bias FP32 or BF16, any for an excursion object
(R101, R117). -/
def roleFormatOk (role fmt : Nat) : Bool :=
  if role = 5 then fmt == 0
  else if role = 3 then fmt == 6 || fmt == 7
  else if role = 2 ∨ role = 4 then decide (1 ≤ fmt ∧ fmt ≤ 7)
  else decide (1 ≤ fmt ∧ fmt ≤ 6)

/-- One descriptor uses no reserved encoding. -/
def slotOk (sec : List Byte) (calib : Nat) (i : Nat) : Bool :=
  let o := 16 + 32 * i
  let d := slotDesc sec i
  let isOut := d.role == 2
  decide (d.slot ≤ 31) && decide (d.role ≤ 5) && roleFormatOk d.role d.fmt && decide (d.group ≤ 3) &&
    decide (fld sec (o + 4) 1 ≤ 1) && decide (fld sec (o + 5) 1 ≤ 1) && (isOut || (!d.sr && !d.calibrated)) &&
    decide (d.kvfmt ≤ 4) && fld sec (o + 6) 1 / 16 == 0 && fld sec (o + 7) 1 == 0 && fld sec (o + 20) 12 == 0 &&
    (if d.calibrated then decide (d.calibOff < calib) else d.calibOff == 0)

/-- Check 8: the interface. -/
def ipoInterfaceOk (sec : List Byte) (calib : Nat) : Bool :=
  let n := fld sec 0 1
  let ds := (List.range n).map (slotDesc sec)
  decide (1 ≤ n ∧ n ≤ 32) && decide (16 + 32 * n ≤ sec.length) && fld sec 1 15 == 0 &&
    (List.range n).all (slotOk sec calib) && decide (ds.map (·.slot)).Nodup &&
    (!ds.any (fun d => d.role == 2 && d.fmt != 7) || ds.any (fun d => d.role == 5))

/-- R400: the reason of the first check that fails, 0 when none does. -/
def ipoReason (img : List Byte) (install fw : Nat) (keys : Table (List Byte)) : Nat :=
  let ss := sections img
  let kinds := ss.map (·.kind)
  if !ipoHeaderOk img then 1
  else if !ipoLengthOk img install then 2
  else if !ipoLayoutOk ss (0x100 + 64 * ss.length) install then 3
  else if !ipoHashesOk img then 4
  else if !ipoSignedOk img keys then 5
  else if fw < fld img 0x10 4 then 6
  else if !(kinds.count 1 == 1 && decide (1 ≤ kinds.count 2) && decide (kinds.count 3 ≤ 1)) then 7
  else if !ipoInterfaceOk (sectionOf img 1) (sectionOf img 3).length then 8
  else 0

/-- R274: the sections of a program object other than code, in image order. -/
def ipoData (img : List Byte) : List Byte :=
  ((sections img).filter (fun x => x.kind != 2)).flatMap (fun x => slice img x.off x.len)

/-- Bytes of the code sections. -/
def ipoCode (img : List Byte) : List Nat := ((sections img).filter (fun x => x.kind == 2)).map (·.len)

/-- Library sectors that an image takes: one run for its other sections, one for each code section (assumption log 16). -/
def ipoSectors (img : List Byte) : Nat := ((ipoData img).length :: ipoCode img).foldl (fun n b => n + (b + 65535) / 65536) 0

/-- The program object of a valid image. -/
def ipoProg (img : List Byte) (secs : List Nat) : ProgSt :=
  let sec := sectionOf img 1
  { latency := bit (fld img 8 4) 0, slots := (List.range (fld sec 0 1)).map (slotDesc sec), calib := sectionOf img 3,
    hash16 := (sha384 img).take 16, codeOff := ((ipoData img).length + 65535) / 65536 * 65536, sectors := secs, loaded := false,
    damaged := false }

/-- Pages of the program object: its data, then whole pages for each code section. -/
def ipoPages (img : List Byte) : Nat :=
  ((ipoData img).length + 65535) / 65536 + (ipoCode img).foldl (fun n b => n + (b + 65535) / 65536) 0

end Sys2Proof.Machine
end

