-- ==== Sys2Proof/Machine/KciBodies.lean ====
section
/-! DEFINITION. What the control and copy commands of KCI do when they run (R382-R390): each body answers the new state and
the command's result, or no result while the command goes on. -/

namespace Sys2Proof.Machine

/-- What a body answers: the state, and status, DW0 and DW1 when the command ends. -/
abbrev BodyOut := State × Option (Nat × Nat × Nat)

/-- A command ends with a status and zero result words. -/
def ends (s : State) (st : Nat) : BodyOut := (s, some (st, 0, 0))

/-- MSI-X vectors of a function (Table 13-1). -/
def vectorsOf (fn : Nat) : Nat := if fn = 0 then 257 else 17

/-- A ring size: a power of two from 16 to 4,096 (R351). -/
def ringSizeOk (n : Nat) : Bool := [16, 32, 64, 128, 256, 512, 1024, 2048, 4096].contains n

/-- A queue just created. -/
def QueueSt.fresh (cls entries vector sq cq colo : Nat) : QueueSt :=
  { cls := cls, entries := entries, sq := sq, cq := cq, colo := colo, vector := vector, head := 0, tail := 0, avail := [],
    cqTail := 0, cqHead := 0, phase := true, irq := false, closing := false }

/-- R179: another context holds the set that the context's partition belongs to. -/
def State.setHeld (s : State) (ctx : Nat) : Bool :=
  let p := s.part (s.ctx ctx).partition
  decide ((p.state = 1 ∨ p.state = 2) ∧ p.ctx ≠ ctx)

/-- QUEUE_CREATE (R382): the queue's fields, then its class against the context's highest class, then the rest. -/
def doQueueCreate (s : State) (ctx q cls n vec sq cq colo : Nat) : BodyOut :=
  let c := s.ctx ctx
  if q < 1 ∨ 9 < q ∨ (q = 9 ∧ cls ≠ 0) ∨ (q ≠ 9 ∧ (cls < 1 ∨ 3 < cls)) then ends s stInvalidField
  else if cls < c.maxClass then ends s stClassDenied
  else if s.setHeld ctx then ends s stExclusive
  else if (tfind c.queues q).isSome ∨ sq % 4096 ≠ 0 ∨ cq % 4096 ≠ 0 ∨ colo % 4096 ≠ 0 ∨ (q = 9 ∧ sq ≠ 0) ∨ ringSizeOk n = false
      ∨ vectorsOf ctx ≤ vec ∨ s.sanitizing ∨ s.power.failed then ends s stInvalidField
  else ends (s.modCtx ctx (fun c => { c with queues := tset c.queues q (QueueSt.fresh cls n vec sq cq colo) })) stSuccess

/-- QUEUE_DESTROY (R355): the entries not fetched are discarded; it ends when the queue's commands are DONE. -/
def doQueueDestroy (s : State) (ctx q : Nat) : BodyOut :=
  match tfind (s.ctx ctx).queues q with
  | none => ends s stInvalidField
  | some x =>
    if q < 1 ∨ 9 < q ∨ x.closing then ends s stInvalidField
    else
      let s1 := s.modCtx ctx (fun c => { c with queues := tset c.queues q { x with closing := true, avail := [] } })
      (s1, none)

/-- Drop a destroyed queue. -/
def State.dropQueue (s : State) (ctx q : Nat) : State :=
  s.modCtx ctx (fun c => { c with queues := tdel c.queues q, slots := if q = 9 then [] else c.slots })

/-- The partitions among whose objects an ID must be unique. -/
def State.idParts (s : State) (ctx : Nat) : List Nat := s.homeParts (s.ctx ctx).partition

/-- OBJ_CREATE (R383, R356, R357). -/
def doObjCreate (s : State) (ctx oid pages word kind h l p d : Nat) : BodyOut :=
  let kv := kvFmtOf word
  if (kind ≠ 1 ∧ kind ≠ 2) ∨ pages = 0 ∨ 2 ^ 28 < pages ∨ wordBad kind word ∨ oid = 0
      ∨ (kv = 0 ∧ (h ≠ 0 ∨ l ≠ 0 ∨ p ≠ 0 ∨ d ≠ 0))
      ∨ (kv ≠ 0 ∧ ((d ≠ 64 ∧ d ≠ 128 ∧ d ≠ 256) ∨ pages ≠ kvPages kv h l p)) then ends s stInvalidField
  else if (s.findOid (s.idParts ctx) oid).isSome then ends s stObjectExists
  else match (s.ctx ctx).freeHandle with
  | none => ends s stHandlesFull
  | some hd =>
    let x : ObjectSt := {
      oid := oid, part := (s.ctx ctx).partition, owner := ctx, kind := kind, pages := pages, word := word,
      kvH := h, kvL := l, kvP := p, kvD := d, data := [], undef := [], pageTab := [], tags := [], isSealed := false, mark := false,
      grants := [], doomed := false, prog := none }
    let s1 := (s.setObj s.nextId x).bump
    ((s1.mapObj ctx hd s.nextId 3), some (stSuccess, hd, 0))

/-- Rights that a context may open an object with: the owner's own for a stored object, else its grant (R384, R359). -/
def ObjectSt.allowed (x : ObjectSt) (ctx : Nat) : Nat :=
  if x.owner = ctx ∧ x.persistent then (if x.kind = 3 then 4 else 3)
  else match x.grants.find? (fun g => g.1 == ctx) with
  | some g => g.2
  | none => 0

/-- OBJ_OPEN (R384, R359); a grant serves only while its creator's context is OPEN. -/
def doObjOpen (s : State) (ctx oid rights : Nat) : BodyOut :=
  match s.findOid (s.idParts ctx) oid with
  | none => ends s stShareDenied
  | some (o, x) =>
    let ok := rights &&& x.allowed ctx == rights && rights != 0 && !x.doomed && (x.owner == ctx || (s.ctx x.owner).state == 1)
    if ¬ ok then ends s stShareDenied
    else if (s.ctx ctx).handles.any (fun h => h.2.obj == o) then ends s stInvalidField
    else match (s.ctx ctx).freeHandle with
    | none => ends s stHandlesFull
    | some hd => ((s.mapObj ctx hd o rights), some (stSuccess, hd, 0))

/-- OBJ_SHARE (R359). -/
def doObjShare (s : State) (ctx h grantee rights : Nat) : BodyOut :=
  match s.handleObj ctx h with
  | none => ends s stMemUnmapped
  | some (m, x) =>
    if x.owner ≠ ctx ∨ grantee = ctx ∨ (s.ctx grantee).partition ≠ (s.ctx ctx).partition ∨ rights &&& m.rights ≠ rights
        ∨ (x.kind = 3 ∧ rights ≠ 4) then ends s stShareDenied
    else if (x.grants.any (fun g => g.1 == grantee)) = false ∧ 16 ≤ x.grants.length then ends s stShareDenied
    else ends (s.modObj m.obj (fun x => { x with grants := (grantee, rights) :: x.grants.filter (fun g => g.1 != grantee) })) stSuccess

/-- OBJ_UNSHARE (R359): later opens only. -/
def doObjUnshare (s : State) (ctx h grantee : Nat) : BodyOut :=
  match s.handleObj ctx h with
  | none => ends s stMemUnmapped
  | some (m, x) =>
    if x.owner ≠ ctx ∨ (x.grants.any (fun g => g.1 == grantee)) = false then ends s stInvalidField
    else ends (s.modObj m.obj (fun x => { x with grants := x.grants.filter (fun g => g.1 != grantee) })) stSuccess

/-- OBJ_RETAIN (R362): HREF up to 65,535. -/
def doObjRetain (s : State) (ctx h : Nat) : BodyOut :=
  match tfind (s.ctx ctx).handles h with
  | none => ends s stMemUnmapped
  | some m =>
    if m.draining then ends s stMemUnmapped
    else if 65535 ≤ m.href then ends s stInvalidField
    else
      (s.modCtx ctx (fun c => { c with handles := tset c.handles h { m with href := m.href + 1 } }),
        some (stSuccess, m.href + 1, 0))

/-- OBJ_RELEASE (R362, R364): DESTROY only with HREF 1 and SHARE 1, on a stored object. -/
def doObjRelease (s : State) (ctx h : Nat) (destroy : Bool) : BodyOut :=
  match tfind (s.ctx ctx).handles h with
  | none => ends s stMemUnmapped
  | some m =>
    if m.draining then ends s stMemUnmapped
    else if destroy ∧ (m.href ≠ 1 ∨ s.mappers m.obj ≠ 1) then ends s stShareDenied
    else
      let m' : HandleSt := { m with href := m.href - 1, draining := m.href == 1 }
      let s1 := s.modCtx ctx (fun c => { c with handles := tset c.handles h m' })
      let s2 := if destroy then s1.modObj m.obj (fun x => { x with doomed := true }) else s1
      (s2, some (stSuccess, m.href - 1, 0))

/-- OBJ_PLACE (R160, R385). -/
def doObjPlace (s : State) (ctx h word : Nat) : BodyOut :=
  match s.handleObj ctx h with
  | none => ends s stMemUnmapped
  | some (m, x) =>
    if x.kind = 3 ∨ wordBad x.kind word ∨ kvFmtOf word ≠ kvFmtOf x.word then ends s stInvalidField
    else ends (s.modObj m.obj (fun x => { x with word := word })) stSuccess

/-- OBJ_QUERY (R385): pages in T0, T1 and T2, and unbacked pages. -/
def doObjQuery (s : State) (ctx h buf : Nat) : BodyOut :=
  match s.handleObj ctx h with
  | none => ends s stMemUnmapped
  | some (_, x) =>
    if buf % 32 ≠ 0 then ends s stInvalidField
    else
      let n (t : Nat) := x.pageTab.countP (fun p => p.2.tier == t)
      let backed := x.pageTab.length
      ends (s.hostWrite buf (le 8 (n 0) ++ le 8 (n 1) ++ le 8 (n 2) ++ le 8 (if x.kind = 3 then 0 else x.pages - backed))) stSuccess

/-- EVENT_CREATE (R386). -/
def doEventCreate (s : State) (ctx ev value : Nat) : BodyOut :=
  if 64 ≤ ev ∨ (tfind (s.ctx ctx).events ev).isSome then ends s stInvalidField
  else ends (s.modCtx ctx (fun c => { c with events := tset c.events ev { err := false, value := value } })) stSuccess

/-- An unfinished command names the event in WAIT or SIGNAL (R386). -/
def State.eventUsed (s : State) (ctx ev : Nat) : Bool :=
  (s.pendingOf ctx).any (fun c => ((c.e.wait && c.e.waitEvent == ev) || (c.e.signal && c.e.signalEvent == ev)))

/-- EVENT_DESTROY (R386). -/
def doEventDestroy (s : State) (ctx ev : Nat) : BodyOut :=
  if (tfind (s.ctx ctx).events ev).isNone ∨ s.eventUsed ctx ev then ends s stInvalidField
  else ends (s.modCtx ctx (fun c => { c with events := tdel c.events ev })) stSuccess

/-- EVENT_CLEAR (R386, R360). -/
def doEventClear (s : State) (ctx ev : Nat) : BodyOut :=
  match tfind (s.ctx ctx).events ev with
  | none => ends s stInvalidField
  | some v =>
    if s.eventUsed ctx ev then ends s stInvalidField
    else (s.modCtx ctx (fun c => { c with events := tset c.events ev { v with err := false } }), some (stSuccess, v.value % 2 ^ 32, 0))

/-- Library sectors in use or still to be erased (Table 11-4: 364 to 3,967). -/
def State.libUsed (s : State) : List Nat :=
  s.objs.flatMap (fun o => match o.2.prog with | some p => p.sectors | none => []) ++ s.store.freed

/-- Free library sectors. -/
def State.libFree (s : State) : List Nat :=
  ((List.range 3604).map (· + 364)).filter (fun n => !s.libUsed.contains n)

/-- PROGRAM_INSTALL (R396, R400): checks, then the install waits for the store. -/
def doInstall (s : State) (uid ctx oid addr length : Nat) (image : List Byte) : BodyOut :=
  if addr % 4096 ≠ 0 ∨ oid = 0 then ends s stInvalidField
  else if (s.findOid (s.idParts ctx) oid).isSome then ends s stObjectExists
  else
    let r := ipoReason image length s.fwVersion s.mgmt.keys
    if r ≠ 0 then (s, some (stProgramRejected, 0, r))
    else if (s.ctx ctx).freeHandle.isNone then ends s stHandlesFull
    else if s.libFree.length < ipoSectors image then ends s stTierFull
    else (s.modStore (fun st => { st with queue := st.queue ++ [{ kind := .install uid }] }), none)

/-- The end of an install: the stored image is read back, and the program object is mapped (R396, R274). -/
def finishInstall (s : State) (c : Cmd) : BodyOut :=
  match c.body with
  | .programInstall oid _ _ image =>
    let ctx := c.e.ctx
    if (s.findOid (s.idParts ctx) oid).isSome then ends s stObjectExists
    else if s.libFree.length < ipoSectors image then ends s stTierFull
    else match (s.ctx ctx).freeHandle with
    | none => ends s stHandlesFull
    | some hd =>
      let x : ObjectSt := {
        oid := oid, part := (s.ctx ctx).partition, owner := ctx, kind := 3, pages := ipoPages image, word := 0, kvH := 0,
        kvL := 0, kvP := 0, kvD := 0, data := mwrite [] 0 (ipoData image), undef := [], pageTab := [], tags := [],
        isSealed := false, mark := false, grants := [], doomed := false,
        prog := some (ipoProg image (s.libFree.take (ipoSectors image))) }
      let s1 := (s.setObj s.nextId x).bump
      ((s1.mapObj ctx hd s.nextId 4), some (stSuccess, hd, 0))
  | _ => (s, none)

/-- Code of a command state for PRIORITY (R387). -/
def stateCode : CmdState → Nat
  | .blocked => 0
  | .queued => 1
  | .staged => 2
  | .holding => 3
  | .draining => 4
  | .done => 5
  | .aborting => 6

/-- Pending class-0 commands of a partition (R354). -/
def State.class0Pending (s : State) (part : Nat) : Nat :=
  s.cmds.countP (fun c => c.cls == 0 && (s.ctx c.e.ctx).partition == part)

/-- Does a command's program carry the latency mark (R184)? -/
def State.hasLatency (s : State) (c : Cmd) : Bool :=
  match c.body with
  | .run p .. => match s.handleObj c.e.ctx p with
    | some (_, x) => (match x.prog with | some g => g.latency | none => false)
    | none => false
  | _ => true

/-- Is this a SEARCH? -/
def isSearch : Body → Bool
  | .search .. => true
  | _ => false

/-- PRIORITY (R387, R388, R199-R201). -/
def doPriority (s : State) (uid ctx q cls cid : Nat) : BodyOut :=
  if 9 < q ∨ 3 < cls then ends s stInvalidField
  else match (s.pendingOf ctx).find? (fun c => c.e.queue == q && c.e.cid == cid && c.uid != uid) with
  | none => (s, some (stSuccess, 5, 0))
  | some t =>
    let code := stateCode t.st
    if 4 ≤ code then (s, some (stSuccess, code, 0))
    else if cls < (s.ctx ctx).maxClass then ends s stClassDenied
    else if cls = 0 ∧ t.cls ≠ 0 ∧ (isRun t.body = false ∨ s.hasLatency t = false) then ends s stClassDenied
    else if cls = 0 ∧ t.cls ≠ 0 ∧ 16 ≤ s.class0Pending (s.ctx ctx).partition then ends s stReservation
    else
      let now := s.time.now
      let s1 := s.modCmd t.uid (fun c => { c with
        cls := cls, doorbell := if cls = 0 ∧ c.cls ≠ 0 then now else c.doorbell,
        lastTile := if cls = 0 ∧ c.cls ≠ 0 then none else c.lastTile })
      let s2 : State := if cls ≠ 0 ∧ t.cls = 0 then
          s1.modArrays (fun l => tmap l (fun _ a => if a.class0 = some t.uid then { a with class0 := none } else a))
        else s1
      (s2, some (stSuccess, code, 0))

/-- JOB_END (R389): the job's set enters RELEASING; the command ends when every other command of the job is DONE. -/
def doJobEnd (s : State) (ctx : Nat) : BodyOut :=
  if s.parts.any (fun p => p.2.state == 2 && p.2.ctx == ctx) then (s.releaseJob ctx, none) else ends s stInvalidField

/-! ### Copies (R390-R392, R404) -/

/-- Data of a range as a host or copy reads it: lost pages and marks end the command first. -/
def ObjectSt.readStatus (x : ObjectSt) (off len : Nat) : Option Nat :=
  if x.mark then some stLostAtPowerFail else if x.lostIn off len then some stStorageMedia else none

/-- Write bytes into an object for a command: pages are backed, the range is tagged; a persistent object's pages become
NAND items that the command waits for (R161, R162, R232). -/
def State.cmdWrite (s : State) (uid o off layout : Nat) (bs : List Byte) : Option State :=
  match s.backAll o (pagesOf off bs.length) with
  | none => none
  | some s1 =>
    let s2 := (s1.objWrite o off bs).tagRange o off bs.length layout
    match s2.obj? o with
    | none => some s2
    | some x =>
      if x.persistent then
        let ps := pagesOf off bs.length
        let ids := (List.range ps.length).map (fun i => s2.nextId + i)
        let items := (ids.zip ps).map (fun p => (p.1, Item.t2 o p.2 uid [0, 1, 2, 3]))
        let s3 := (s2.modNand (fun n => { n with items := n.items ++ items })).modCmd uid (fun c => { c with waitItems := c.waitItems ++ ids })
        some (s3.bumpBy ps.length)
      else some s2

/-- A copy that wrote: it ends at once, or when its T2 pages are committed (R162). -/
def copyEnd (s : State) (uid : Nat) : BodyOut :=
  match s.cmd? uid with
  | some c => if c.waitItems.isEmpty then ends s stSuccess else (s.modCmd uid (fun c => { c with st := .draining }), none)
  | none => ends s stSuccess

/-- COPY_IN. -/
def doCopyIn (s : State) (uid ctx h off layout : Nat) (data : List Byte) : BodyOut :=
  match s.handleObj ctx h with
  | none => ends s stMemUnmapped
  | some (m, _) =>
    match s.cmdWrite uid m.obj off layout data with
    | none => ends s stTierFull
    | some s1 => copyEnd s1 uid

/-- COPY_OUT. -/
def doCopyOut (s : State) (ctx h off host len : Nat) : BodyOut :=
  match s.handleObj ctx h with
  | none => ends s stMemUnmapped
  | some (m, x) =>
    match x.readStatus off len with
    | some st => ends s st
    | none => ends ((s.useRange m.obj off len).hostWrite host (x.read off len)) stSuccess

/-- COPY. -/
def doCopy (s : State) (uid ctx src dst soff doff len layout : Nat) : BodyOut :=
  match s.handleObj ctx src, s.handleObj ctx dst with
  | some (ms, xs), some (md, _) =>
    match xs.readStatus soff len with
    | some st => ends s st
    | none =>
      match (s.useRange ms.obj soff len).cmdWrite uid md.obj doff layout (xs.read soff len) with
      | none => ends s stTierFull
      | some s1 => copyEnd s1 uid
  | _, _ => ends s stMemUnmapped

end Sys2Proof.Machine
end

