-- ==== Sys2Proof/Machine/Tiles.lean ====
section
/-! DEFINITION. Output tiles: the operands a tile reads (R103, R106, R122, R123), the checks before its first pass (R104,
R111, R127, R392), its passes (R82, R108, R112), and the exact update that a pass defines (R110, R129). -/

namespace Sys2Proof.Machine

/-! ### Operands -/

/-- An operand of a tile: a tensor in an object, or the rows of the chain buffer. -/
structure Operand where
  t : Tensor
  x : Option ObjectSt
  chain : Table (List Byte)
  kv : Bool

/-- R173: the byte of a KV object's exponent for its element number `e` counted over the code pages. -/
def kvExpByte (x : ObjectSt) (e : Nat) : Nat :=
  let b := (kvShape (kvFmtOf x.word)).1
  let g := (kvShape (kvFmtOf x.word)).2
  let per := 524288 / b
  let xx := b * g / 8
  let page := e / per
  let s := page / x.kvP
  let q := page % x.kvP
  pageSize * (2 * x.kvL * x.kvH * x.kvP + s * ((x.kvP + xx - 1) / xx) + q / xx) + q % xx * (524288 / (b * g)) + e % per / g

/-- s and t of the element at row i, column j of an operand; `none` when it is non-finite (R104). -/
def Operand.at (o : Operand) (i j : Nat) : Option (Int × Int) :=
  match o.x with
  | none => match tfind o.chain i with
    | some row => o.t.at (fun a => row.getD a 0) 0 j
    | none => some (0, 0)
  | some x =>
    if o.kv then
      let e := o.t.off * 8 / elemBits o.t.fmt + i * o.t.len + j
      let ex := (x.byte (kvExpByte x e)).toNat
      if ex = 255 then none
      else (decodeElem o.t.fmt (rawElem x.byte o.t.fmt o.t.off (i * o.t.len + j))).map (fun p => (p.1, p.2 + (ex : Int) - 127))
    else o.t.at x.byte i j

/-- The argument of a RUN's slot: its mapping, object, argument entry and descriptor. -/
def State.slotArg (s : State) (c : Cmd) (slot : Nat) : Option (HandleSt × ObjectSt × ArgEntry × SlotDesc) :=
  match c.body with
  | .run p _ _ _ _ args _ =>
    match s.handleObj c.e.ctx p, args.find? (fun a => a.slot == slot) with
    | some (_, prog), some a =>
      match prog.slotOf slot, s.handleObj c.e.ctx a.handle with
      | some d, some (h, x) => some (h, x, a, d)
      | _, _ => none
    | _, _ => none
  | _ => none

/-- The tensor of an argument; weights have their groups along the columns (R106). -/
def argTensor (a : ArgEntry) (d : SlotDesc) : Tensor :=
  { fmt := d.fmt, group := d.group, off := a.offset, lines := a.rows, len := d.rowLen, byCol := d.role == 1 }

/-- Is a slot read in the KV layout (R123, R173)? -/
def kvArg (x : ObjectSt) (d : SlotDesc) : Bool := d.kvfmt != 0 && kvFmtOf x.word == d.kvfmt

/-- The operand of a slot. -/
def State.slotOperand (s : State) (c : Cmd) (slot : Nat) : Option Operand :=
  (s.slotArg c slot).map (fun a => { t := argTensor a.2.2.1 a.2.2.2, x := some a.2.1, chain := [], kv := kvArg a.2.1 a.2.2.2 })

/-- The activation operand of a tile: a slot, or the chain buffer of its array (R122). -/
def State.actOperand (s : State) (c : Cmd) (t : TileSt) : Option Operand :=
  match t.plan.actSlot with
  | some n => s.slotOperand c n
  | none =>
    let d := t.plan.chain
    some { t := { fmt := d.fmt, group := d.group, off := 0, lines := 1, len := d.rowLen, byCol := false }, x := none,
           chain := (s.arr t.array).chain, kv := false }

/-! ### Envelopes (R109) -/

/-- The envelope of a list of elements, `none` outside when one is non-finite. -/
def envOf (fmt : Nat) (es : List (Option (Int × Int))) : Option (Option (Int × Int)) :=
  if es.all (·.isSome) then some (envelope fmt (es.filterMap id)) else none

/-- R109 along a whole row. -/
def Operand.rowEnv (o : Operand) (i : Nat) : Option (Option (Int × Int)) :=
  envOf o.t.fmt ((List.range o.t.len).map (fun j => o.at i j))

/-- R109 along a whole column. -/
def Operand.colEnv (o : Operand) (j : Nat) : Option (Option (Int × Int)) :=
  envOf o.t.fmt ((List.range o.t.lines).map (fun i => o.at i j))

/-! ### Passes of a tile -/

/-- Reduction elements of one pass: 256 when both operands have 4 bits (Table 4-2). -/
def passSpan (fa fw : Nat) : Nat := min (passElems fa) (passElems fw)

/-- R108: slices of an operand. -/
def slicesOf (fmt : Nat) : List Nat := if fmt = 6 then [1, 2] else [0]

/-- R108: the slice pairs of a product, in order. -/
def slicePairs (fa fw : Nat) : List (Nat × Nat) := (slicesOf fa).flatMap (fun a => (slicesOf fw).map (fun w => (a, w)))

/-- R82, R108, R112: the passes that a plan's passes expand to. -/
def expandPasses (fa fw : Nat) (split retry : Bool) (ps : List PassPlan) : List PassTodo :=
  ps.flatMap (fun p => (slicePairs fa fw).flatMap (fun q => (if split then [1, 2] else [0]).map (fun h =>
    { shadow := p.shadow, k0 := p.k0, sliceA := q.1, sliceW := q.2, half := h, rows := none, retry := retry })))

/-- The passes cover the reduction, each weight block once. -/
def coversReduction (span k : Nat) (ps : List PassPlan) : Bool :=
  (ps.map (·.k0)).mergeSort (fun a b => decide (a ≤ b)) == (List.range ((k + span - 1) / span)).map (· * span)

/-- Format of a tile's activations. -/
def State.actFmt (s : State) (c : Cmd) (t : TilePlan) : Nat :=
  match t.actSlot with
  | some n => (match s.slotArg c n with | some a => a.2.2.2.fmt | none => 0)
  | none => t.chain.fmt

/-- A tile of a program's plan fits the interface and the arguments (R80, R90, R117, Table 15-10). -/
def State.tileOk (s : State) (c : Cmd) (t : TilePlan) : Bool :=
  match s.slotArg c t.wSlot with
  | none => false
  | some (_, _, aw, dw) =>
    let fa := s.actFmt c t
    let actOk := match t.actSlot with
      | none => t.chain.rowLen == t.reduction && decide (1 ≤ fa ∧ fa ≤ 6) && decide (t.chain.group ≤ 3)
      | some n => match s.slotArg c n with
        | none => false
        | some (_, _, a, d) => (d.role == 0 || d.role == 2) && d.rowLen == t.reduction && decide (t.row0 + t.rows ≤ a.rows)
    let outOk := match t.outSlot with
      | none => decide (t.cols ≤ 128) && decide (1 ≤ t.chain.fmt ∧ t.chain.fmt ≤ 6)
      | some n => match s.slotArg c n with
        | none => false
        | some (_, _, a, d) => d.role == 2 && decide (t.row0 + t.rows ≤ a.rows) && decide (t.col0 + t.cols ≤ d.rowLen)
    let biasOk := match t.bias with
      | none => true
      | some n => match s.slotArg c n with
        | none => false
        | some (_, _, _, d) => d.role == 3 && decide (t.col0 + t.cols ≤ d.rowLen)
    let resOk := match t.residual with
      | none => true
      | some n => match s.slotArg c n with
        | none => false
        | some (_, _, a, d) => d.role == 4 && decide (t.row0 + t.rows ≤ a.rows) && decide (t.col0 + t.cols ≤ d.rowLen)
    dw.role == 1 && aw.rows == t.reduction && decide (t.col0 + t.cols ≤ dw.rowLen) && decide (1 ≤ t.rows ∧ t.rows ≤ 2048) &&
      decide (1 ≤ t.cols ∧ t.cols ≤ 128) && t.col0 % 128 == 0 && coversReduction (passSpan fa dw.fmt) t.reduction t.passes &&
      decide (1 ≤ t.reduction) && actOk && outOk && biasOk && resOk

/-- A tile not begun. -/
def TileSt.fresh (p : TilePlan) (array : Nat) : TileSt :=
  { plan := p, array := array, began := false, redo := false, slots := [], split := false, todo := [], acc := [], drained := [], sat := 0,
    flushed := 0, satGroups := 0, underGroups := 0, groupBits := [], loA := [], loW := [], finished := false }

/-! ### Group operations of a RUN (R299-R303) -/

/-- The group operation of a command. -/
def State.opOf (s : State) (uid : Nat) : Option GroupOp := s.peer.ops.find? (fun o => o.uid == uid)

/-- Key of an envelope line in a group operation: rows from 0, columns from 2^31. -/
def colKey (j : Nat) : Nat := 2 ^ 31 + j

/-- R303: the member whose shard holds row i of R. -/
def shardOf (r g i : Nat) : Nat := ((List.range g).find? (fun j => decide (j * r / g ≤ i ∧ i < (j + 1) * r / g))).getD 0

/-- The bounds of a line without terms: the identity of `joinEnv`. -/
def envNone : Int × Int := (32767, -32768)

/-- R302: this member's envelope lines for its tiles: key, lowest, highest, and its term count. -/
def State.ownEnvelopes (s : State) (c : Cmd) : List (Nat × Int × Int × Nat) :=
  (c.tiles.flatMap (fun t =>
    match s.actOperand c t, s.slotOperand c t.plan.wSlot with
    | some a, some w =>
      let n := t.plan.reduction * (slicePairs a.t.fmt w.t.fmt).length
      let line (key : Nat) (e : Option (Option (Int × Int))) : Nat × Int × Int × Nat :=
        let b := (e.getD none).getD envNone
        (key, b.1, b.2, n)
      (List.range t.plan.rows).map (fun i => line (t.plan.row0 + i) (a.rowEnv (t.plan.row0 + i))) ++
        (List.range t.plan.cols).map (fun j => line (colKey (t.plan.col0 + j)) (w.colEnv (t.plan.col0 + j)))
    | _, _ => [])).eraseDups

/-- R302: combine one line into a group envelope; each member's term count is added once, with its first line. -/
def joinEnv (t : Table (Int × Int × Nat)) (key : Nat) (l h : Int) (n : Nat) : Table (Int × Int × Nat) :=
  match tfind t key with
  | none => tset t key (l, h, n)
  | some (l', h', n') => tset t key (min l l', max h h', n' + n)

/-! ### The checks before a tile's first pass -/

/-- The byte range of rows of an operand. -/
def Tensor.rowBytes (t : Tensor) (row rows : Nat) : Nat × Nat :=
  let a := row * t.len * elemBits t.fmt / 8
  let b := ceilDiv ((row + rows) * t.len * elemBits t.fmt) 8
  (t.off + a, b - a)

/-- R392: do the layout items recorded for a range disagree with a slot's descriptor? -/
def ObjectSt.tagClash (x : ObjectSt) (off len : Nat) (d : SlotDesc) : Bool :=
  x.tags.any (fun t => decide (t.start < off + len ∧ off < t.start + t.len) && t.fmt != 0 &&
    (t.fmt != d.fmt || t.group != d.group || t.rowLen != d.rowLen))

/-- The slots that a tile reads, with the rows it reads of each. -/
def tileReads (t : TilePlan) : List (Nat × Nat × Option Nat) :=
  (match t.actSlot with | some n => [(n, t.row0, some t.rows)] | none => []) ++ [(t.wSlot, 0, none)] ++
    (match t.bias with | some n => [(n, 0, none)] | none => []) ++
    (match t.residual with | some n => [(n, t.row0, some t.rows)] | none => [])

/-- Object, argument, descriptor and byte range of each input that a tile reads. -/
def State.readRanges (s : State) (c : Cmd) (t : TilePlan) : List (Nat × ObjectSt × SlotDesc × Nat × Nat) :=
  (tileReads t).filterMap (fun r => (s.slotArg c r.1).map (fun a =>
    let ten := argTensor a.2.2.1 a.2.2.2
    let rg := match r.2.2 with
      | some n => ten.rowBytes r.2.1 n
      | none => (ten.off, if kvArg a.2.1 a.2.2.2 then (ten.rowBytes 0 ten.lines).2 else ten.bytes)
    (a.1.obj, a.2.1, a.2.2.2, rg.1, rg.2)))

/-- The CALIBRATED exponent of a program for output column group g of a row (R120). -/
def State.calibExp (s : State) (c : Cmd) (d : SlotDesc) (g : Nat) : Option Nat :=
  if d.calibrated then
    match c.body with
    | .run p .. => match s.handleObj c.e.ctx p with
      | some (_, x) => (match x.prog with | some q => some (q.calib.getD (d.calibOff + g) 0).toNat | none => none)
      | none => none
    | _ => none
  else none

/-- The descriptor of a tile's output. -/
def State.outDesc (s : State) (c : Cmd) (t : TilePlan) : SlotDesc :=
  match t.outSlot with
  | some n => (match s.slotArg c n with | some a => a.2.2.2 | none => t.chain)
  | none => t.chain

/-- R104 for everything but the two matrix operands: scales, bias, residual and calibrated exponents. -/
def State.sideFinite (s : State) (c : Cmd) (t : TilePlan) : Bool :=
  let d := s.outDesc c t
  finite32 t.actScale.toNat && finite32 t.wScale.toNat && finite32 t.outScale.toNat && finite32 t.resScale.toNat &&
    (match t.bias with
      | none => true
      | some n => match s.slotOperand c n with
        | some o => (List.range t.cols).all (fun j => (o.at 0 (t.col0 + j)).isSome)
        | none => true) &&
    (match t.residual with
      | none => true
      | some n => match s.slotOperand c n with
        | some o => (List.range t.rows).all (fun i => (List.range t.cols).all (fun j => (o.at (t.row0 + i) (t.col0 + j)).isSome))
        | none => true) &&
    (if d.calibrated ∧ groupSize d.group ≠ 0 then
      (List.range (ceilDiv d.rowLen (groupSize d.group))).all (fun g => s.calibExp c d g != some 255)
     else true)

/-- The excursion argument of a RUN (R127). -/
def State.excArg (s : State) (c : Cmd) : Option (HandleSt × ObjectSt × ArgEntry × SlotDesc) :=
  match s.argsWith c [5] with
  | [] => none
  | a :: _ => s.slotArg c a.2.1.slot

/-- R127: bytes reserved for a tile of r rows. -/
def excSize (r : Nat) : Nat := 8192 + r * 2048

/-- Does a tile reserve excursion space: its output is not FP32 and the program names an excursion object. -/
def State.reserves (s : State) (c : Cmd) (t : TilePlan) : Bool := (s.outDesc c t).fmt != 7 && (s.excArg c).isSome

/-- R104, R111, R127, R392: check a tile before its first pass; the tile begun with its passes, or the status that stops it. -/
def State.precheck (s : State) (c : Cmd) (t : TileSt) : Except Nat TileSt :=
  let p := t.plan
  let rr := s.readRanges c p
  if rr.any (fun r => r.2.1.tagClash r.2.2.2.1 r.2.2.2.2 r.2.2.1) then .error stInvalidField
  else if rr.any (fun r => r.2.1.lostIn r.2.2.2.1 r.2.2.2.2) then .error stStorageMedia
  else match s.actOperand c t, s.slotOperand c p.wSlot with
  | some a, some w =>
    let ea := (List.range p.rows).map (fun i => a.rowEnv (p.row0 + i))
    let ew := (List.range p.cols).map (fun j => w.colEnv (p.col0 + j))
    if ea.any (·.isNone) || ew.any (·.isNone) || !s.sideFinite c p then .error stNonfinite
    else
      let grp : Option GroupOp := match s.opOf c.uid with | some o => (if o.mode = 2 then some o else none) | none => none
      let ea' : List (Option (Int × Int)) := match grp with
        | some o => (List.range p.rows).map (fun i => (tfind o.envelopes (p.row0 + i)).bind (fun e => if e.1 ≤ e.2.1 then some (e.1, e.2.1) else none))
        | none => ea.map (fun e => e.getD none)
      let ew' : List (Option (Int × Int)) := match grp with
        | some o => (List.range p.cols).map (fun j => (tfind o.envelopes (colKey (p.col0 + j))).bind (fun e => if e.1 ≤ e.2.1 then some (e.1, e.2.1) else none))
        | none => ew.map (fun e => e.getD none)
      let n := match grp with
        | some o => (((List.range p.rows).filterMap (fun i => (tfind o.envelopes (p.row0 + i)).map (·.2.2))).foldl max 1)
        | none => p.reduction * (slicePairs a.t.fmt w.t.fmt).length
      let largest := (ea'.flatMap (fun x => ew'.map (fun y => span x y))).foldl max 0
      match windowRule largest n with
      | .exceeded => .error stWindowExceeded
      | r =>
        let split := decide (r = .split)
        if s.reserves c p ∧ (match s.excArg c with | some x => x.2.2.1.length | none => 0) < c.excUsed + excSize p.rows then
          .error stScaleExcursion
        else .ok { t with
          began := true, split := split, todo := expandPasses a.t.fmt w.t.fmt split t.redo p.passes,
          loA := ea'.map (fun e => e.map (·.1)), loW := ew'.map (fun e => e.map (·.1)) }
  | _, _ => .error stInvalidField

/-! ### The update that a pass defines (R129) -/

/-- The rows of a tile that a pass covers (R145). -/
def PassTodo.rowsOf (td : PassTodo) (rows : Nat) : List Nat := td.rows.getD (List.range rows)

/-- One product term of a pass at row i, column j, index k: an error status when an operand became non-finite or the term
lies outside the tile's window since its first pass. -/
def passTerm (td : PassTodo) (split : Bool) (lo : Option Int × Option Int) (a w : Option (Int × Int)) : Except Nat Int :=
  match a, w with
  | some a, some w =>
    if a.1 = 0 ∨ w.1 = 0 then .ok 0
    else match lo with
    | (some la, some lw) =>
      let a' := sliceOf td.sliceA a
      let w' := sliceOf td.sliceW w
      let off := a'.2 + w'.2 - (la + lw)
      if off < 0 ∨ (if split then 127 else 63) < off then .error stWindowExceeded
      else .ok (productTerm td.half (la + lw) a' w')
    | _ => .error stWindowExceeded
  | _, _ => .error stNonfinite

/-- Sum of terms, or the first status. -/
def sumTerms : List (Except Nat Int) → Except Nat Int
  | [] => .ok 0
  | .error e :: _ => .error e
  | .ok v :: rest => match sumTerms rest with
    | .ok r => .ok (v + r)
    | .error e => .error e

/-- All values, or the first status. -/
def collectOk {α : Type} : List (Except Nat α) → Except Nat (List α)
  | [] => .ok []
  | .error e :: _ => .error e
  | .ok v :: rest => match collectOk rest with
    | .ok r => .ok (v :: r)
    | .error e => .error e

/-- ΔA of R129 for one element of a tile. -/
def elemUpdate (a w : Operand) (t : TileSt) (td : PassTodo) (i j : Nat) : Except Nat Int :=
  let hi := min (td.k0 + passSpan a.t.fmt w.t.fmt) t.plan.reduction
  sumTerms ((List.range (hi - td.k0)).map (fun q =>
    passTerm td t.split (t.loA.getD i none, t.loW.getD j none) (a.at (t.plan.row0 + i) (td.k0 + q)) (w.at (td.k0 + q) (t.plan.col0 + j))))

/-- The updates that a pass defines: row, column, value. -/
def State.definedUpdates (s : State) (c : Cmd) (t : TileSt) (td : PassTodo) : Except Nat (List (Nat × Nat × Int)) :=
  match s.actOperand c t, s.slotOperand c t.plan.wSlot with
  | some a, some w =>
    collectOk ((td.rowsOf t.plan.rows).flatMap (fun i => (List.range t.plan.cols).map (fun j =>
      match elemUpdate a w t td i j with
      | .ok v => .ok (i, j, v)
      | .error e => .error e)))
  | _, _ => .error stInvalidField

/-- The key of an accumulator of a tile. -/
def accKey (i j : Nat) : Nat := i * 128 + j

/-- An accumulator of a tile. -/
def TileSt.accAt (t : TileSt) (i j : Nat) : Int := tget 0 t.acc (accKey i j)

/-- Add updates into accumulators. -/
def addUpdates (acc : Table Int) (us : List (Nat × Nat × Int)) : Table Int :=
  us.foldl (fun a u => tmod 0 a (accKey u.1 u.2.1) (· + u.2.2)) acc

/-- What the array applies: the defined updates with the errors of the pass. -/
def applyErrors (us : List (Nat × Nat × Int)) (errs : List PassError) : List (Nat × Nat × Int) :=
  us.map (fun u => (u.1, u.2.1, u.2.2 + (errs.filter (fun e => e.row == u.1 && e.col == u.2.1)).foldl (fun a e => a + e.delta) 0))

/-! ### The residue check (R129-R133) -/

/-- Column weights: residue weights in 1 to p - 1, odd word weights below 2^128, and row weights. -/
def weightC (draw j : Nat) : Nat := Config.freeNat draw j % (prime61 - 1) + 1
def weightW (draw j : Nat) : Nat := 2 * (Config.freeNat draw (128 + j) % 2 ^ 127) + 1
def weightD (draw i : Nat) : Nat := Config.freeNat draw (256 + i) % (prime61 - 1) + 1

/-- The error of a pass at one element: applied less defined (R133). -/
def errAt (errs : List PassError) (i j : Nat) : Int :=
  (errs.filter (fun e => e.row == i && e.col == j)).foldl (fun a e => a + e.delta) 0

/-- The weighted sum of errors along row i; the predictions of Table 6-1 are the same sums over the defined updates, so a
comparison agrees exactly when this difference vanishes. -/
def rowDiff (wt : Nat → Nat) (errs : List PassError) (cols i : Nat) : Int :=
  ((List.range cols).map (fun j => (wt j : Int) * errAt errs i j)).sum

/-- R131: both row comparisons of row i agree. -/
def rowPasses (draw : Nat) (errs : List PassError) (cols i : Nat) : Bool :=
  rowDiff (weightC draw) errs cols i % (prime61 : Int) == 0 && rowDiff (weightW draw) errs cols i % (2 ^ 128 : Int) == 0

/-- R131: the column comparison of column j agrees. -/
def colPasses (draw : Nat) (errs : List PassError) (rows : List Nat) (j : Nat) : Bool :=
  (rows.map (fun i => (weightD draw i : Int) * errAt errs i j)).sum % (prime61 : Int) == 0

end Sys2Proof.Machine
end

