-- ==== Sys2Proof/Machine/Passes.lean ====
section
/-! DEFINITION. The partition schedulers and the life of a pass on an array: the pick (R187-R197), the entry (R81, R86, R139,
R140, R194, R40), the last update (R81), and the verdicts of the residue checker (R145, R146). -/

namespace Sys2Proof.Machine

/-! ### Arrays and partitions -/

/-- Table 3-1: the timing region of an array. -/
def arrRegion (a : Nat) : Nat := if a < 8 then a else a + 8

/-- The matrix die of an array: 0 M0, 1 M1. -/
def arrDie (a : Nat) : Nat := if a < 8 then 0 else 1

/-- Arrays of a partition set, An of its partitions first. -/
def arraysOf (ps : List Nat) : List Nat := ps ++ ps.map (· + 8)

/-- An array that runs no pass before the next power-on: retired, or on a die whose recovery failed (R421). -/
def State.arrayGone (s : State) (a : Nat) : Bool := (s.arr a).state == 2 || (s.power.failed && s.power.recovering.contains (arrDie a))

/-- R98, R100: the array that takes a tile planned for array `i` of a set: that one, the partition's other array when it is
retired, else the first array of the set that is not retired. -/
def State.arrayFor (s : State) (ps : List Nat) (i : Nat) : Nat :=
  let as := arraysOf ps
  let a := as.getD (i % as.length) 0
  if s.arrayGone a = false then a
  else if s.arrayGone ((a + 8) % 16) = false then (a + 8) % 16
  else (as.find? (fun b => !s.arrayGone b)).getD a

/-- R100: no array of the partition set will return to service. -/
def State.noArrays (s : State) (part : Nat) : Bool := (arraysOf (s.homeParts part)).all (fun a => s.arrayGone a)

/-- R185: the older of two commands. -/
def older (x y : Cmd) : Bool :=
  decide (x.fetched < y.fetched) || (x.fetched == y.fetched && (decide (x.e.ctx < y.e.ctx) || (x.e.ctx == y.e.ctx && decide (x.uid ≤ y.uid))))

/-- The oldest command of a list (R185). -/
def oldest : List Cmd → Option Cmd
  | [] => none
  | c :: cs => match oldest cs with
    | none => some c
    | some d => if older c d then some c else some d

/-! ### Ending a RUN -/

/-- A tile that stops: it has no pass left and holds nothing. -/
def TileSt.stop (t : TileSt) : TileSt := { t with todo := [], finished := true, slots := [] }

/-- Passes of a command in an array or awaiting verdicts. -/
def State.passesOut (s : State) (uid : Nat) : Bool :=
  s.arrays.any (fun a => a.2.inflight.any (fun r => r.uid == uid) || a.2.checking.any (fun r => r.uid == uid))

/-- A RUN whose tiles have all ended and whose passes are out of the arrays: it ends once its T2 pages are on NAND
(R126, R162). -/
def State.maybeFinish (s : State) (uid : Nat) : State :=
  match s.cmd? uid with
  | none => s
  | some c =>
    if c.status.isNone ∧ c.st ≠ .blocked ∧ c.tiles ≠ [] ∧ (c.tiles.all (·.finished)) = true ∧ s.passesOut uid = false then
      if c.waitItems.isEmpty then s.conclude uid (c.ending.getD stSuccess) c.excRecs c.dw1
      else s.modCmd uid (fun c => { c with st := .draining })
    else s

/-- Note the status that ends a command, and its first failed tile (Table 15-3). -/
def Cmd.noteEnd (c : Cmd) (st ti : Nat) : Cmd :=
  { c with ending := (match c.ending with | none => some st | some x => some x), dw1 := if c.dw1 = 0xFFFFFFFF then ti else c.dw1 }

/-- R126, R127, R392: no further tile of the command starts; the tiles in flight end. -/
def State.endSoft (s : State) (uid st ti : Nat) : State :=
  (s.modCmd uid (fun c => { c.noteEnd st ti with
    tiles := c.tiles.map (fun t => if t.began then t else { t with finished := true }) })).maybeFinish uid

/-- R195 FAIL: no further pass of the command starts; the passes in the arrays end. -/
def State.endHard (s : State) (uid st ti : Nat) : State :=
  let s1 := s.modCmd uid (fun c => { c.noteEnd st ti with tiles := c.tiles.map TileSt.stop })
  (s1.dropWork [uid]).maybeFinish uid

/-- R32, R136, R146: the command ends with CHECK_FAILED. -/
def State.failCheck (s : State) (uid ti : Nat) : State :=
  match s.cmd? uid with
  | none => s
  | some c => s.conclude uid stCheckFailed c.excRecs (if c.dw1 = 0xFFFFFFFF then ti else c.dw1)

/-! ### Command states (Table 8-2) -/

/-- The state that the arrays show for a compute command. -/
def State.runState (s : State) (c : Cmd) : CmdState :=
  if s.arrays.any (fun a => match a.2.inflight.getLast? with | some r => r.uid == c.uid | none => false) then .holding
  else if s.arrays.any (fun a => match a.2.staged with | some u => u.1 == c.uid | none => false) then .staged
  else if c.tiles.all (fun t => t.finished || (t.began && t.todo.isEmpty)) then .draining
  else .queued

/-- Bring a RUN's state up to date; it is QUEUED since now when it held an array or waited before. -/
def State.refresh (s : State) (uid : Nat) : State :=
  match s.cmd? uid with
  | none => s
  | some c =>
    if c.status.isSome ∨ c.st = .blocked ∨ isSearch c.body = true then s
    else
      let st := s.runState c
      let again := decide (st = .queued) && decide (c.st ≠ .queued ∧ c.st ≠ .staged)
      s.modCmd uid (fun c => { c with st := st, queuedAt := if again then s.time.now else c.queuedAt })

/-! ### Readiness of a tile's next pass -/

/-- Bytes of one member's shard of a gathered range (assumption log 18). -/
def shardUnit (len g : Nat) : Nat := (len / g + 16) / 16 * 16

/-- Message offset of a gathered byte: its slot and its offset in the argument (assumption log 18). -/
def gatherKey (slot b : Nat) : Nat := slot * 2 ^ 40 + b

/-- R300: every peer tile of other members that a byte range of a gathered argument touches is ready. -/
def State.gatherReady (s : State) (c : Cmd) (t : TilePlan) : Bool :=
  match s.opOf c.uid with
  | none => true
  | some o => o.mode != 1 || (tileReads t).all (fun r => match s.slotArg c r.1 with
    | none => true
    | some (_, x, a, d) =>
      if a.gathered then
        let ten := argTensor a d
        let rg := match r.2.2 with
          | some n => ten.rowBytes r.2.1 n
          | none => (ten.off, if kvArg x d then (ten.rowBytes 0 ten.lines).2 else ten.bytes)
        let u := shardUnit a.length s.peer.size
        s.peer.others.all (fun j =>
          let lo := j * u
          let hi := min ((j + 1) * u) a.length
          (List.range (ceilDiv (hi - lo) 16384)).all (fun k =>
            let b := lo + k * 16384
            let e := min (b + 16384) hi
            decide (rg.1 + rg.2 ≤ a.offset + b ∨ a.offset + e ≤ rg.1) || (tfind o.tiles (gatherKey r.1 b)).isSome))
      else true)

/-- R302: the envelopes of every member have arrived. -/
def State.envReady (s : State) (c : Cmd) : Bool :=
  match s.opOf c.uid with
  | none => true
  | some o => o.mode != 2 || s.peer.others.all (fun j => decide ((s.ownEnvelopes c).length ≤ tget 0 o.envSrcs j))

/-- R88, R89, R122, R204: what a tile reads of earlier tiles of its command is written. -/
def State.inputsReady (s : State) (c : Cmd) (i : Nat) (t : TileSt) : Bool :=
  match t.plan.actSlot with
  | none => (List.range t.plan.rows).all (fun r => (tfind (s.arr t.array).chain (t.plan.row0 + r)).isSome)
  | some n => (c.tiles.take i).all (fun u => u.finished || u.plan.outSlot != some n ||
      decide (u.plan.row0 + u.plan.rows ≤ t.plan.row0 ∨ t.plan.row0 + t.plan.rows ≤ u.plan.row0))

/-- Slots of an array that a context's commands of classes 1-3 hold. -/
def State.ctxSlots (s : State) (a ctx : Nat) : Nat :=
  (s.arr a).slots.countP (fun q => match s.cmd? q.2.1 with | some c => c.e.ctx == ctx && c.cls != 0 | none => false)

/-- R92, R93: the slots that a new tile of a command would take on an array, if it may have them. -/
def State.slotsFor (s : State) (c : Cmd) (a rows : Nat) : Option (List Nat) :=
  let need := ceilDiv rows 512
  let free := (List.range 24).filter (fun k => (tfind (s.arr a).slots k).isNone)
  let excl := (s.part (a % 8)).state == 2
  let mine := if excl || c.cls == 0 then free else free.filter (fun k => decide (12 ≤ k))
  if need ≤ mine.length ∧ (excl = true ∨ c.cls = 0 ∨ s.ctxSlots a c.e.ctx + need ≤ 8) then some (mine.take need) else none

/-- R276, R277: the program of a RUN is in its DRAM image. -/
def State.progLoaded (s : State) (c : Cmd) : Bool :=
  match c.body with
  | .run p .. => (match s.handleObj c.e.ctx p with
    | some (_, x) => (match x.prog with | some q => q.loaded | none => false)
    | none => false)
  | _ => true

/-- A byte range of an object needs a die in recovery: pages in T0 or in the stack of M0 or M1, pages in T2 behind F
(R419, Table 16-5). -/
def ObjectSt.needs (x : ObjectSt) (off len d : Nat) : Bool :=
  (pagesOf off len).any (fun p => match tfind x.pageTab p with
    | some q => if q.tier = 2 then decide (d = 3) && !q.copies.any (fun c => c.gen == q.gen) else q.die == d
    | none => false)

/-- Every page that a tile reads can be reached: no die that holds one is in recovery. -/
def State.reachable (s : State) (c : Cmd) (t : TilePlan) : Bool :=
  s.power.recovering.all (fun d => (s.readRanges c t).all (fun r => match s.obj? r.1 with
    | some x => !x.needs r.2.2.2.1 r.2.2.2.2 d
    | none => true))

/-- May the next pass of a tile be picked on its array now? A new tile needs its program in DRAM, slots, its inputs, and a set that
starts tiles (Table 8-1). -/
def State.tileReady (s : State) (c : Cmd) (i : Nat) (t : TileSt) : Bool :=
  !t.finished && s.inputsReady c i t &&
    (if t.began then !t.todo.isEmpty
     else c.ending.isNone && s.progLoaded c && (s.part (t.array % 8)).state != 1 && s.gatherReady c t.plan && s.envReady c && s.reachable c t.plan &&
       (s.slotsFor c t.array t.plan.rows).isSome)

/-- The first ready tile of a command on an array; a re-execution of failed rows comes first (R145). -/
def State.nextTile (s : State) (c : Cmd) (a : Nat) : Option Nat :=
  let ts := (List.range c.tiles.length).zip c.tiles
  match ts.find? (fun p => p.2.array == a && s.tileReady c p.1 p.2 && (match p.2.todo with | td :: _ => td.rows.isSome | [] => false)) with
  | some p => some p.1
  | none => (ts.find? (fun p => p.2.array == a && s.tileReady c p.1 p.2)).map (·.1)

/-- Commands with a pass for an array: those of the array's partition, or of its set (R178), that are not blocked or ended. -/
def State.candidates (s : State) (a : Nat) : List Cmd :=
  let ps := s.setOf (a % 8)
  if (s.part (a % 8)).state = 3 then []
  else s.cmds.filter (fun c => c.status.isNone && decide (c.st ≠ .blocked) && ps.contains (s.ctx c.e.ctx).partition &&
    decide ((s.ctx c.e.ctx).state = 1) && (s.nextTile c a).isSome)

/-- Rows and mode of the next pass of a tile. -/
def TileSt.nextShape (t : TileSt) : Nat × Bool :=
  match t.todo with
  | td :: _ => ((td.rowsOf t.plan.rows).length, td.shadow)
  | [] => (t.plan.rows, match t.plan.passes with | p :: _ => p.shadow | [] => false)

/-- R194, R441: array steps of a pass of r rows. -/
def passSteps (r : Nat) (shadow : Bool) : Nat := max r (if shadow then 256 else 128)

/-- Steps in ns at a rate in M steps/s. -/
def stepsNs (steps rate : Nat) : Nat := if rate = 0 then 0 else steps * 1000 / rate

/-- R193: the reservation of an array in a window [ns]. -/
def State.resvNs (s : State) (a : Nat) : Nat := (s.part (a % 8)).resv * 10000

/-- R195, R196: is a class-0 pass of some steps within the reservation at a rate? -/
def State.within (s : State) (a steps rate : Nat) : Bool :=
  (s.part (a % 8)).state == 2 || decide ((s.arr a).charge + stepsNs steps rate ≤ s.resvNs a)

/-- The rate at which an array is expected to run: its last reading (assumption log 19). -/
def State.expectRate (s : State) (a : Nat) : Nat :=
  let r := (s.region (arrRegion a)).monRate
  if r = 0 then 1500 else r

/-- A retry is not charged, so it is always within the reservation (R194). -/
def State.nextWithin (s : State) (c : Cmd) (a : Nat) : Bool :=
  match s.nextTile c a with
  | none => true
  | some i => match c.tiles[i]? with
    | none => true
    | some t =>
      let sh := t.nextShape
      (match t.todo with | td :: _ => td.retry | [] => false) || s.within a (passSteps sh.1 sh.2) (s.expectRate a)

/-! ### The pick (Table 8-3) -/

/-- R148, R203: a self-test is due on an array, and the other array of its partition is not under test. -/
def State.testBlocks (s : State) (a : Nat) : Bool :=
  (s.arr ((a + 8) % 16)).state != 1 &&
    s.tests.any (fun t => decide (1 ≤ t.kind ∧ t.kind ≤ 3) && t.index == a && !t.running)

/-- Maximum board power of a power state [mW] (Table 16-2). -/
def stateMaxMw (ps : Nat) : Nat := [70000, 55000, 40000, 25000, 8000, 3000].getD ps 3000

/-- R408: board power, the two rails together, exceeds the state's maximum. -/
def State.overPower (s : State) : Bool := decide (stateMaxMw s.power.pstate < tget 0 s.power.draws 0 + tget 0 s.power.draws 1)

/-- R408, R411: rows 4 and 5 are deferred: too much power, or the emergency share of an array is used. -/
def State.defers (s : State) (a : Nat) : Bool := s.overPower || (decide (2 ≤ s.power.thermal) && decide (500000 ≤ (s.arr a).used13))

/-- R189: array time of a class on an array in its share, 8:4:1. -/
def State.share (s : State) (a cls : Nat) : Int :=
  tget 0 (s.arr a).deficit cls * (if cls = 1 then 1 else if cls = 2 then 2 else 8)

/-- The command holding an array's class-0 output tile, while it has a pass left there (R188). -/
def State.holder (s : State) (a : Nat) : Option Cmd :=
  match (s.arr a).class0 with
  | none => none
  | some u => match s.cmd? u with
    | none => none
    | some c => if c.cls = 0 ∧ c.status.isNone ∧ c.tiles.any (fun t => t.array == a && !t.finished && (!t.began || !t.todo.isEmpty)) then some c else none

/-- Rows 2 and 3 of Table 8-3: the class-0 command whose turn it is on an array. -/
def State.turn0 (s : State) (a : Nat) (cs : List Cmd) : Option Cmd :=
  match s.holder a with
  | some c => cs.find? (fun d => d.uid == c.uid)
  | none => oldest (cs.filter (fun c => c.cls == 0))

/-- Row 5: the class with the least use of its share, the context whose last pass started longest ago, its oldest command. -/
def State.row5 (s : State) (a : Nat) (cs : List Cmd) : Option Cmd :=
  let ec (c : Cmd) : Nat := max c.cls 1
  let k := (([1, 2, 3].filter (fun k => cs.any (fun c => ec c == k))).foldl
    (fun b k => match b with | none => some k | some j => if s.share a k < s.share a j then some k else some j) none).getD 1
  let ks := cs.filter (fun c => ec c == k)
  let last (c : Cmd) : Nat := tget 0 (s.arr a).lastStart c.e.ctx
  let m := (ks.map last).foldl min (ks.map last).sum
  oldest (ks.filter (fun c => last c == m))

/-- The command that Table 8-3 picks on an array: none while a self-test is due. -/
def State.choice (s : State) (a : Nat) : Option Cmd :=
  if s.testBlocks a ∨ (s.arr a).state ≠ 0 ∨ s.passesAllowed = false ∨ s.power.recovering.contains (arrDie a) = true then none
  else
    let cs := s.candidates a
    match oldest (cs.filter (fun c => match s.nextTile c a with
        | some i => (match c.tiles[i]? with | some t => (match t.todo with | td :: _ => td.rows.isSome | [] => false) | none => false)
        | none => false)) with
    | some c => some c
    | none =>
      let zero := match s.turn0 a cs with
        | some c => if s.nextWithin c a then some c else none
        | none => none
      match zero with
      | some c => some c
      | none =>
        if s.defers a then none
        else
          -- a class-0 command beyond the reservation competes as class 1, the others of class 0 wait for their turn
          let low := cs.filter (fun c => c.cls != 0 || (match s.turn0 a cs with | some d => d.uid == c.uid | none => false))
          match oldest (low.filter (fun c => c.aged && c.cls != 0)) with
          | some c => some c
          | none => s.row5 a low

/-- The over-reservation policy of a command is FAIL: fixed at its first tile, else the context's (R195). -/
def State.failPolicy (s : State) (c : Cmd) : Bool := if c.mode.isSome then c.overFail else bit (s.ctx c.e.ctx).policy.toNat 9

/-- R195: the class-0 command whose turn it is lies beyond the reservation under the FAIL policy. -/
def State.overFails (s : State) (a : Nat) : Option Cmd :=
  match s.turn0 a (s.candidates a) with
  | some c => if s.failPolicy c && !s.nextWithin c a then some c else none
  | none => none

/-- R169: copies of the T2 pages that a tile reads are brought up to date, in T1 for an object whose HOME is T1, else in
staging. -/
def renewCopy (home now : Nat) (p : PageSt) : PageSt :=
  if p.tier = 2 then
    let ok := p.copies.filter (fun c => c.gen == p.gen)
    let used := ok.map (fun c => { c with spec := false })
    { p with lastUse := now, copies := if used.isEmpty then [{ tier := if home = 1 then 1 else 0, die := p.die, gen := p.gen, spec := false }] else used }
  else { p with lastUse := now }

/-- Renew the copies of some pages of an object. -/
def ObjectSt.renew (x : ObjectSt) (now : Nat) (ps : List Nat) : ObjectSt :=
  let one (tb : Table PageSt) (p : Nat) : Table PageSt := match tfind tb p with
    | some q => tset tb p (renewCopy (homeTier x.word) now q)
    | none => tb
  { x with pageTab := ps.foldl one x.pageTab }

/-- Renew the copies behind every range that a tile reads. -/
def State.renewCopies (s : State) (c : Cmd) (t : TilePlan) : State :=
  (s.readRanges c t).foldl (fun s r => s.modObj r.1 (fun x => x.renew s.time.now (pagesOf r.2.2.2.1 r.2.2.2.2))) s

/-- Change one tile of a command. -/
def State.modTile (s : State) (uid i : Nat) (f : TileSt → TileSt) : State :=
  s.modCmd uid (fun c => { c with tiles := c.tiles.modify i f })

/-- Stage a pass of a tile on an array (R86): a new tile is checked and takes its slots. The status that stops the tile
otherwise. -/
def State.stage (s : State) (a : Nat) (c : Cmd) (i : Nat) (t : TileSt) : Except Nat State :=
  let put (s : State) : State := s.modArr a (fun x => { x with staged := some (c.uid, i) })
  if t.began then .ok (put s)
  else match s.precheck c t with
  | .error st => .error st
  | .ok t' =>
    let sl := (s.slotsFor c a t.plan.rows).getD []
    let s1 := (s.renewCopies c t.plan).modTile c.uid i (fun _ => { t' with slots := sl })
    let s2 := if s.reserves c t.plan then s1.modCmd c.uid (fun c => { c with excUsed := c.excUsed + excSize t.plan.rows }) else s1
    .ok (put (s2.modArr a (fun x => { x with slots := sl.foldl (fun tb k => tset tb k (c.uid, i)) x.slots })))

/-- The pick: tiles that fail their check end their command, and the choice is made again. -/
def State.pickLoop : Nat → State → Nat → State
  | 0, s, _ => s
  | fuel + 1, s, a =>
    match s.choice a with
    | none => s
    | some c => match s.nextTile c a with
      | none => s
      | some i => match c.tiles[i]? with
        | none => s
        | some t => match s.stage a c i t with
          | .ok s' => s'
          | .error st => State.pickLoop fuel (s.endSoft c.uid st i) a

/-- R86, R187: choose the next pass of an array anew; a staged pass that loses its place is discarded. -/
def State.pick (s : State) (a : Nat) : State :=
  let old := (s.arr a).staged
  let s1 := s.modArr a (fun x => { x with staged := none, class0 := (s.holder a).map (·.uid) })
  let s2 := match s1.overFails a with
    | some c => s1.endHard c.uid stReservation ((s1.nextTile c a).getD 0)
    | none => s1
  let s3 := State.pickLoop (s.cmds.length + 1) s2 a
  let s4 := match old with | some u => s3.refresh u.1 | none => s3
  match (s4.arr a).staged with
  | some u => s4.refresh u.1
  | none => s4

/-! ### Entry (R86, R139, R140, R194, R40) -/

/-- R139: what the first tile fixes of a command. -/
def State.fixMode (s : State) (c : Cmd) (a : Nat) : Cmd :=
  if c.mode.isSome then c
  else
    let x := s.ctx c.e.ctx
    let m := x.effMode
    { c with
      mode := some (m.1, m.2.1), floored := m.2.2, strict := bit x.policy.toNat 8, overFail := bit x.policy.toNat 9,
      seed := x.seed, inDig := some (s.inputDigest c).1,
      tele := { c.tele with start := some s.time.now, startRegion := arrRegion a } }

/-- Passes of a command still to enter. -/
def Cmd.passesLeft (c : Cmd) : Bool := c.tiles.any (fun t => !t.finished && (!t.began || !t.todo.isEmpty))

/-- R140: is the next pass checked, and the sampling position after it. A retry is always checked and stands outside the
groups; the last pass closes a partial group. -/
def Cmd.sample (c : Cmd) (retry isLast : Bool) (draw : Nat) : Bool × Nat × Nat :=
  match c.mode with
  | some (1, n) =>
    if retry then (true, c.sampleAt, c.samplePos)
    else
      let pos := if c.sampleAt = 0 then Config.freeNat draw 255 % 2 ^ n else c.samplePos
      let hit := decide (c.sampleAt = pos) || (isLast && decide (c.sampleAt < pos))
      (hit, (c.sampleAt + 1) % 2 ^ n, if hit && isLast then 0 else pos)
  | some (2, _) => (retry, c.sampleAt, c.samplePos)
  | _ => (true, c.sampleAt, c.samplePos)

/-- R40, Table 18-12: the failed condition of a late class-0 start. -/
def State.lateCond (s : State) (c : Cmd) (a : Nat) (inside : Bool) : Nat :=
  if !inside then 0
  else if 3 < s.power.pstate ∨ 2 ≤ s.power.thermal then 1
  else if (s.arr a).state = 1 ∨ (s.arr ((a + 8) % 16)).state = 1 then 2
  else if !c.resident then 3
  else if (s.opOf c.uid).isSome then 4
  else 5

/-- R38, R40: is a tile start of a class-0 command late? -/
def Cmd.isLate (c : Cmd) (now : Nat) : Bool :=
  match c.lastTile with
  | none => decide (c.doorbell + 25000 < now)
  | some x => decide (x + 3000 < now)

/-- Record a late start. -/
def State.noteLate (s : State) (c : Cmd) (a cond : Nat) : State :=
  let p := a % 8
  let s1 := s.modPart p (fun x => { x with late := tmod 0 x.late cond (fun n => satAdd 32 n 1) })
  if cond = 5 then
    s1.logErr { cls := 0x5F, kind := 2, ctx := c.e.ctx, addr := p, detail := 5, queue := c.e.queue, cid := c.e.cid, fn := c.e.ctx }
  else s1

/-- R143: the readings of a pass in a command's telemetry. -/
def State.teleOf (s : State) (t : Tele) (a rate : Nat) (checked : Bool) (td : PassTodo) : Tele :=
  let r := s.region (arrRegion a)
  let v := (tget { cur := 0, target := 0 } s.power.rails (arrDie a)).cur
  { t with
    checked := t.checked + b2n checked, unchecked := t.unchecked + b2n (!checked), retried := t.retried + b2n td.retry,
    split := t.split + b2n (td.half == 1 && td.rows.isNone), unlocked := t.unlocked || r.lock != 2,
    widened := t.widened || r.osc == 2, minV := min t.minV v, maxT := max t.maxT r.tj, maxStretch := max t.maxStretch r.stretch,
    minRate := min t.minRate rate }

/-- The first row of a staged pass enters its array. -/
def State.enter (s : State) (a rate : Nat) : State :=
  match (s.arr a).staged with
  | none => s
  | some (uid, i) => match s.cmd? uid with
    | none => s
    | some c0 => match c0.tiles[i]? with
      | none => s
      | some t => match t.todo with
        | [] => s
        | td :: rest =>
          let c := s.fixMode c0 a
          let rows := (td.rowsOf t.plan.rows).length
          let steps := passSteps rows td.shadow
          let first := !td.retry && t.todo.length == (expandPasses (s.actFmt c t.plan) (match s.slotOperand c t.plan.wSlot with | some w => w.t.fmt | none => 0) t.split false t.plan.passes).length
          let inside := c.cls != 0 || td.retry || s.within a steps rate
          let isLast := !(({ c with tiles := c.tiles.modify i (fun t => { t with todo := rest }) } : Cmd).passesLeft)
          let sm := c.sample td.retry isLast s.freeCtr
          let rec' : PassRec := {
            pid := s.nextId, uid := uid, tile := i, todo := td, draw := s.freeCtr, checked := sm.1, entered := s.time.now,
            applied := [], errs := [], okRows := [], badRows := [] }
          let now := s.time.now
          let excl := (s.part (a % 8)).state == 2
          let ns := stepsNs steps rate
          let s1 := s.modArr a (fun x => { x with
            staged := none, inflight := x.inflight ++ [rec'],
            class0 := if c.cls = 0 ∧ inside = true ∧ x.class0 = none then some uid else x.class0,
            charge := if c.cls = 0 ∧ inside = true ∧ td.retry = false ∧ excl = false then x.charge + ns else x.charge,
            used13 := if c.cls = 0 ∧ inside = true then x.used13 else x.used13 + ns,
            deficit := if c.cls = 0 ∧ inside = true then x.deficit else tmod 0 x.deficit (max c.cls 1) (· + ns),
            lastStart := tset x.lastStart c.e.ctx s.nextId })
          let s2 := s1.modCmd uid (fun _ => { c with
            aged := false, queuedAt := now, sampleAt := sm.2.1, samplePos := sm.2.2,
            lastTile := if first then some now else c.lastTile, retried := c.retried || td.retry,
            tele := s.teleOf c.tele a rate sm.1 td, tiles := c.tiles.modify i (fun t => { t with todo := rest }) })
          let s3 := (s2.bump.drawn).charge c.e.ctx { Counts.zero with steps := steps }
          let s4 := if c.cls = 0 ∧ inside = false then s3.modPart (a % 8) (fun x => { x with demoted := satAdd 32 x.demoted 1 }) else s3
          let s5 := if c.cls = 0 ∧ first = true ∧ c.isLate now = true then s4.noteLate c a (s.lateCond c a inside) else s4
          -- the pass that entered before has its last row in
          let s6 := match (s.arr a).inflight.getLast? with | some r => s5.refresh r.uid | none => s5
          s6.refresh uid

/-! ### The last accumulator update (R81) -/

/-- Release the slots of a tile on an array (R90, R95). -/
def State.freeTile (s : State) (a uid i : Nat) : State :=
  s.modArr a (fun x => { x with slots := x.slots.filter (fun q => !(q.2.1 == uid && q.2.2 == i)) })

/-- The oldest pass in an array applies its updates with its errors; a checked pass then awaits its verdicts. -/
def State.endPass (s : State) (a : Nat) (errs : List PassError) (idle : Nat) : State :=
  match (s.arr a).inflight with
  | [] => s
  | r :: rest =>
    let count (s : State) (r' : List PassRec) (steps : Nat) : State := s.modArr a (fun x => { x with
      inflight := rest, checking := x.checking ++ r', active := add64 x.active steps, idle := add64 x.idle idle })
    match s.cmd? r.uid with
    | none => (count s [] 0).freeTile a r.uid r.tile
    | some c => match c.tiles[r.tile]? with
      | none => (count s [] 0).freeTile a r.uid r.tile
      | some t =>
        let steps := passSteps (r.todo.rowsOf t.plan.rows).length r.todo.shadow
        if t.finished then ((count s [] steps).freeTile a r.uid r.tile).maybeFinish r.uid
        else match s.definedUpdates c t r.todo with
        | .error st => ((count s [] steps).modTile r.uid r.tile (fun t => t.stop)).freeTile a r.uid r.tile |>.endSoft r.uid st r.tile
        | .ok us =>
          let errs' := errs.filter (fun e => (r.todo.rowsOf t.plan.rows).contains e.row && decide (e.col < t.plan.cols))
          let ap := applyErrors us errs'
          let s1 := s.modTile r.uid r.tile (fun t => { t with acc := addUpdates t.acc ap })
          let s2 := count s1 (if r.checked then [{ r with applied := ap, errs := errs' }] else []) steps
          s2.refresh r.uid

/-! ### Verdicts (R131, R132, R145, R146) -/

/-- A failed check: the record of class CHECK and the array's or the checker's self-test. -/
def State.logCheck (s : State) (c : Cmd) (a kind row : Nat) (t : TileSt) : State :=
  let addr := match t.plan.outSlot with
    | some n => (match s.slotArg c n with
      | some (h, _, x, d) => h.base + ((argTensor x d).rowBytes (t.plan.row0 + row) 1).1
      | none => 0)
    | none => 0
  s.logTest { cls := 0x10, kind := 1, ctx := c.e.ctx, addr := addr, status := 0, queue := c.e.queue, cid := c.e.cid, fn := c.e.ctx,
              region := arrRegion a } kind a

/-- The verdict of one row of a pass that awaits verdicts. -/
def State.rowVerdict (s : State) (a pass row : Nat) : State :=
  match (s.arr a).checking.find? (fun r => r.pid == pass) with
  | none => s
  | some r => match s.cmd? r.uid with
    | none => s
    | some c => match c.tiles[r.tile]? with
      | none => s
      | some t =>
        let rows := r.todo.rowsOf t.plan.rows
        if !rows.contains row || r.okRows.contains row || r.badRows.contains row then s
        else
          let setRec (s : State) (r' : PassRec) : State := s.modArr a (fun x => { x with checking := x.checking.map (fun q => if q.pid = pass then r' else q) })
          if rowPasses r.draw r.errs t.plan.cols row then
            let r' := { r with okRows := r.okRows ++ [row] }
            if r.badRows ≠ [] ∧ r'.okRows.length + r'.badRows.length = rows.length then
              ((s.modArr a (fun x => { x with checking := x.checking.filter (fun q => q.pid != pass) })).modTile r.uid r.tile
                (fun t => { t with todo := { r.todo with rows := some r.badRows, retry := true } :: t.todo })).refresh r.uid
            else setRec s r'
          else
            let s1 := (s.modCmd r.uid (fun c => { c with tele := { c.tele with failed := c.tele.failed + b2n (r.badRows.isEmpty) } })).logCheck c a 1 row t
            if r.todo.rows.isSome then s1.failCheck r.uid r.tile
            else
              let back := (r.applied.filter (fun u => u.1 == row)).map (fun u => (u.1, u.2.1, -u.2.2))
              let r' := { r with badRows := r.badRows ++ [row] }
              let s2 := s1.modTile r.uid r.tile (fun t => { t with acc := addUpdates t.acc back })
              if r'.okRows.length + r'.badRows.length = rows.length then
                ((s2.modArr a (fun x => { x with checking := x.checking.filter (fun q => q.pid != pass) })).modTile r.uid r.tile
                  (fun t => { t with todo := { r.todo with rows := some r'.badRows, retry := true } :: t.todo })).refresh r.uid
              else setRec s2 r'

/-- The column verdict of a pass whose rows all passed. -/
def State.columnVerdict (s : State) (a pass : Nat) : State :=
  match (s.arr a).checking.find? (fun r => r.pid == pass) with
  | none => s
  | some r => match s.cmd? r.uid with
    | none => s
    | some c => match c.tiles[r.tile]? with
      | none => s
      | some t =>
        let rows := r.todo.rowsOf t.plan.rows
        if r.badRows ≠ [] ∨ r.okRows.length ≠ rows.length then s
        else
          let s1 := s.modArr a (fun x => { x with checking := x.checking.filter (fun q => q.pid != pass) })
          if (List.range t.plan.cols).all (colPasses r.draw r.errs rows) then s1.maybeFinish r.uid
          else
            ((s1.modCmd r.uid (fun c => { c with tele := { c.tele with failed := c.tele.failed + 1 } })).logCheck c a 3 0 t).failCheck r.uid r.tile

end Sys2Proof.Machine
end

