-- ==== Sys2Proof/Machine/Drain.lean ====
section
/-! DEFINITION. Draining an output tile (R89-R91, R116-R128, R132-R136): one row through the epilogue to its object, to the
chain buffer, or to the member of a reduce-scatter that owns it (R303); excursions and their records (R124-R128). -/

namespace Sys2Proof.Machine

/-- One row out of the epilogue: its codes, its group exponents, and the counts of R119 and R124. -/
structure RowOut where
  codes : List Nat
  exps : List Nat
  sat : Nat
  flushed : Nat
  satGroups : Nat
  underGroups : Nat
  flags : List Nat
  deriving DecidableEq, Repr

/-- The epilogue's setting for a tile. -/
def State.epiCtx (s : State) (c : Cmd) (t : TileSt) : EpiCtx :=
  let d := s.outDesc c t.plan
  { actScale := t.plan.actScale.toNat, wScale := t.plan.wScale.toNat, outScale := t.plan.outScale.toNat, fmt := d.fmt,
    group := if d.fmt = 7 then 0 else d.group, sr := d.sr, seed := c.seed.toNat,
    oid := (match t.plan.outSlot with
      | some n => (match s.slotArg c n with | some (_, x, _, _) => x.oid | none => 0)
      | none => 0),
    act := t.plan.act, staged := t.plan.bias.isSome || t.plan.act.isSome || t.plan.residual.isSome }

/-- R114: the element index of row i, column j of a tile in its output object; a chained tile counts from its own tensor. -/
def State.elemIndex (s : State) (c : Cmd) (t : TileSt) (i j : Nat) : Nat :=
  match t.plan.outSlot with
  | some n => match s.slotArg c n with
    | some (_, _, a, d) => a.offset * 8 / elemBits d.fmt + (t.plan.row0 + i) * d.rowLen + (t.plan.col0 + j)
    | none => 0
  | none => (t.plan.row0 + i) * t.plan.chain.rowLen + (t.plan.col0 + j)

/-- The anchor of an element; an element without terms is zero at any anchor (R110). -/
def TileSt.anchor (t : TileSt) (i j : Nat) : Int :=
  match t.loA.getD i none, t.loW.getD j none with
  | some a, some w => a + w
  | _, _ => 0

/-- An exact element of a side operand (R117 E3, E5). -/
def Operand.frac (o : Operand) (i j : Nat) : Frac :=
  match o.at i j with
  | some (m, e) => Frac.ofDyadic m e
  | none => { num := 0, den := 1 }

/-- Stages E1 to E6 of row i of a tile, from its accumulators (R117-R124). -/
def State.epilogueRow (s : State) (c : Cmd) (t : TileSt) (i : Nat) (acc : List Int) : RowOut :=
  let ec := s.epiCtx c t
  let d := s.outDesc c t.plan
  let ob := t.plan.bias.bind (s.slotOperand c)
  let res := t.plan.residual.bind (s.slotOperand c)
  let vals := (List.range t.plan.cols).map (fun j =>
    epiValue ec (acc.getD j 0) (t.anchor i j) (s.elemIndex c t i j)
      (ob.map (fun o => o.frac 0 (t.plan.col0 + j)))
      (res.map (fun o => (o.frac (t.plan.row0 + i) (t.plan.col0 + j)).mul (fracOf 7 t.plan.resScale.toNat))))
  let early := (vals.map (·.2)).sum
  if ec.fmt = 7 then
    let rs := (vals.zip (List.range t.plan.cols)).map (fun p => fp32Out ec (s.elemIndex c t i p.2) p.1.1)
    { codes := rs.map (·.code), exps := [], sat := early + rs.countP (·.sat), flushed := rs.countP (·.flushed), satGroups := 0,
      underGroups := 0, flags := [] }
  else
    let g := if groupSize ec.group = 0 then t.plan.cols else groupSize ec.group
    let gs := (chunks (t.plan.cols + 1) g (vals.map (·.1)))
    let outs := (gs.zip (List.range gs.length)).map (fun p =>
      requantGroup ec (s.calibExp c d (t.plan.col0 / g + p.2)) (s.elemIndex c t i (p.2 * g)) p.1)
    let ovr (o : GroupOut) : Bool := decide (0 < o.sat)
    let under (o : GroupOut) : Bool := decide (0 < o.nonzero) && o.flushed == o.nonzero
    { codes := outs.flatMap (·.codes), exps := if groupSize ec.group = 0 then [] else outs.map (·.exp),
      sat := early + (outs.map (·.sat)).sum, flushed := (outs.map (·.flushed)).sum, satGroups := outs.countP ovr,
      underGroups := outs.countP under, flags := outs.map (fun o => b2n (ovr o) + 2 * b2n (under o)) }

/-- Bytes of codes placed from element number `e` on; a 4-bit element keeps its neighbour in a shared byte (R103). -/
def packFrom (rd : Nat → Byte) (fmt off e : Nat) (codes : List Nat) : Nat × List Byte :=
  if elemBits fmt = 4 then
    let b0 := e / 2
    let n := (e + codes.length + 1) / 2 - b0
    let nib (k : Nat) (old : Nat) : Nat := if e ≤ k ∧ k < e + codes.length then codes.getD (k - e) 0 else old
    (off + b0, (List.range n).map (fun q =>
      let old := (rd (off + b0 + q)).toNat
      BitVec.ofNat 8 (nib (2 * (b0 + q)) (old % 16) + 16 * nib (2 * (b0 + q) + 1) (old / 16))))
  else (off + e * (elemBits fmt / 8), codes.flatMap (fun k => le (elemBits fmt / 8) k))

/-- The layout word of an output slot (R391, R392). -/
def slotLayout (d : SlotDesc) : Nat := d.fmt * 2 ^ 28 + d.group * 2 ^ 26 + d.rowLen % 2 ^ 26

/-- Write a drained row to its output object; `none` when a page finds no room (R161). -/
def State.writeRow (s : State) (c : Cmd) (t : TileSt) (i : Nat) (r : RowOut) : Option State :=
  match t.plan.outSlot with
  | none =>
    let d := t.plan.chain
    let row := (packFrom (fun _ => 0) d.fmt 0 0 r.codes).2 ++ zeros (ceilDiv (d.rowLen * elemBits d.fmt) 8 - (packFrom (fun _ => 0) d.fmt 0 0 r.codes).2.length) ++
      r.exps.map (BitVec.ofNat 8)
    some (s.modArr t.array (fun x => { x with chain := tset x.chain (t.plan.row0 + i) row }))
  | some n => match s.slotArg c n with
    | none => some s
    | some (h, x, a, d) =>
      let ten := argTensor a d
      let e := (t.plan.row0 + i) * d.rowLen + t.plan.col0
      let (at0, bs) := packFrom x.byte d.fmt a.offset e r.codes
      match s.cmdWrite c.uid h.obj at0 (slotLayout d) bs with
      | none => none
      | some s1 =>
        if r.exps.isEmpty then some s1
        else
          let g := groupSize d.group
          if kvArg x d then
            tryAll (fun s p => s.cmdWrite c.uid h.obj (kvExpByte x (a.offset * 8 / elemBits d.fmt + e + p.2 * g)) (slotLayout d) [BitVec.ofNat 8 p.1])
              (r.exps.zip (List.range r.exps.length)) s1
          else s1.cmdWrite c.uid h.obj (a.offset + ten.elemBytes + (t.plan.row0 + i) * ten.groupsPerLine + t.plan.col0 / g) (slotLayout d)
            (r.exps.map (BitVec.ofNat 8))

/-! ### Excursion records (R128, Table 5-7) -/

/-- lo of a line in a record; a line without terms has none, and its field is a free value (assumption log 1). -/
def recLo (draw place : Nat) (e : Option Int) : Nat := ofSigned 16 (e.getD (toSigned 16 (Config.freeNat draw place)))

/-- Two bits per output group, four groups a byte, row-major. -/
def packFlags : Nat → List Nat → List Byte
  | 0, _ => []
  | fuel + 1, fs => BitVec.ofNat 8 (fs.getD 0 0 + 4 * fs.getD 1 0 + 16 * fs.getD 2 0 + 64 * fs.getD 3 0) :: packFlags fuel (fs.drop 4)

/-- The excursion record of a tile. -/
def State.excRecord (s : State) (c : Cmd) (t : TileSt) : List Byte :=
  let p := t.plan
  le 8 (s.epiCtx c t).oid ++ le 4 p.row0 ++ le 4 p.col0 ++ le 2 p.rows ++ le 1 (s.outDesc c p).group ++
    le 1 (b2n c.strict + 2 * b2n t.split) ++ le 4 t.sat ++ le 4 t.flushed ++ le 4 t.satGroups ++ le 4 t.underGroups ++
    le 8 s.time.now ++ zeros 20 ++
    (List.range 2048).flatMap (fun i => le 2 (if i < p.rows then recLo s.freeCtr i (t.loA.getD i none) else 0)) ++
    (List.range 128).flatMap (fun j => le 2 (if j < p.cols then recLo s.freeCtr (2048 + j) (t.loW.getD j none) else 0)) ++
    packFlags 2048 t.groupBits ++ zeros 1728 ++
    (List.range p.rows).flatMap (fun i => (List.range 128).flatMap (fun j => le 16 (ofSigned 128 (t.accAt i j))))

/-! ### Which rows may drain -/

/-- The member of a reduce-scatter that owns row i of a tile, if the command is one (R303). -/
def State.rowOwner (s : State) (c : Cmd) (t : TileSt) (i : Nat) : Option Nat :=
  match s.opOf c.uid with
  | some o =>
    if o.mode = 2 then
      let r := match t.plan.outSlot with
        | some n => (match s.slotArg c n with | some (_, _, a, _) => a.rows | none => 0)
        | none => 0
      some (shardOf r s.peer.size (t.plan.row0 + i))
    else none
  | none => none

/-- Key of a row of 128 accumulators in a reduce-scatter: its output row and its block of columns (assumption log 18). -/
def reduceKey (t : TileSt) (i : Nat) : Nat := (t.plan.row0 + i) * 2 ^ 20 + t.plan.col0 / 128

/-- R303: accumulators of this member's row with those of all members; `none` until they have arrived. -/
def State.reducedRow (s : State) (c : Cmd) (t : TileSt) (i : Nat) : Option (List Int) :=
  let own := (List.range 128).map (fun j => t.accAt i j)
  match s.rowOwner c t i, s.opOf c.uid with
  | some m, some o =>
    if m ≠ s.peer.member then some own
    else if s.peer.others.all (fun j => o.rowSrcs.contains (reduceKey t i, j)) then
      some ((own.zip (tget (List.replicate 128 0) o.rows (reduceKey t i))).map (fun p => p.1 + p.2))
    else none
  | _, _ => some own

/-- R132, R89: a row may drain when the tile has no pass left and every pass over the row has its verdict; rows drain in
order outside a reduce-scatter; the chain buffer accepts a tile when no earlier tile still reads it. -/
def State.drainable (s : State) (c : Cmd) (ti : Nat) (t : TileSt) (i : Nat) : Bool :=
  t.began && !t.finished && t.todo.isEmpty && decide (i < t.plan.rows) && !t.drained.contains i &&
    !(s.arr t.array).inflight.any (fun r => r.uid == c.uid && r.tile == ti) &&
    (s.arr t.array).checking.all (fun r => !(r.uid == c.uid && r.tile == ti) || r.okRows.contains i || !(r.todo.rowsOf t.plan.rows).contains i) &&
    ((s.rowOwner c t i).isSome || i == t.drained.length) &&
    (t.plan.outSlot.isSome || (c.tiles.take ti).all (fun u => u.finished || u.array != t.array || u.plan.actSlot.isSome || (u.began && u.todo.isEmpty)))

/-! ### Draining -/

/-- R90: release the slots whose rows have all been read. -/
def State.freeRows (s : State) (uid ti : Nat) (t : TileSt) : State :=
  let done := (List.range t.slots.length).filter (fun k =>
    (List.range 512).all (fun q => decide (t.plan.rows ≤ k * 512 + q) || t.drained.contains (k * 512 + q)))
  let ks := done.map (fun k => t.slots.getD k 0)
  s.modArr t.array (fun x => { x with slots := x.slots.filter (fun p => !(ks.contains p.1 && p.2.1 == uid && p.2.2 == ti)) })

/-- R124, R126, R128: the end of a tile's drain: an excursion is recorded; under STRICT it stops the command, and its rows
are not written. -/
def State.endTile (s : State) (uid ti : Nat) : State :=
  match s.cmd? uid with
  | none => s
  | some c => match c.tiles[ti]? with
    | none => s
    | some t =>
      let exc := decide (0 < t.sat ∨ 0 < t.underGroups)
      let size := excSize t.plan.rows
      let s1 := if exc ∧ s.reserves c t.plan then
          match s.excArg c with
          | none => s
          | some (h, _, a, _) =>
            match s.cmdWrite uid h.obj (a.offset + c.excPtr) 0 (s.excRecord c t) with
            | none => s.endSoft uid stTierFull ti
            | some s' => (s'.modCmd uid (fun c => { c with excRecs := c.excRecs + 1, excPtr := c.excPtr + size })).drawn
        else if s.reserves c t.plan then s.modCmd uid (fun c => { c with excUsed := c.excUsed - size })
        else s
      let rows := (List.range t.plan.rows).filter (fun i => match s.rowOwner c t i with | some m => m == s.peer.member | none => true)
      let s2 := if c.strict ∧ exc = false then
          match tryAll (fun s i => match s.reducedRow c t i with
              | some acc => s.writeRow c t i (s.epilogueRow c t i acc)
              | none => some s) rows s1 with
          | none => s1.endSoft uid stTierFull ti
          | some s' => s'
        else s1
      let s3 := s2.modCmd uid (fun c => { c with tele := { c.tele with
        sat := c.tele.sat + t.sat, flushed := c.tele.flushed + t.flushed, stop := s.time.now, stopRegion := arrRegion t.array } })
      let s4 := (s3.modTile uid ti (fun t => { t with finished := true, acc := [], slots := [] })).freeTile t.array uid ti
      let s5 := if exc ∧ c.strict then s4.endSoft uid stScaleExcursion ti else s4
      (s5.refresh uid).maybeFinish uid

/-- R134: a double-bit error of an accumulator: the tile starts again in cleared slots, its passes counted as retried. -/
def State.redoTile (s : State) (c : Cmd) (ti : Nat) (t : TileSt) : State :=
  let fw := match s.slotOperand c t.plan.wSlot with | some w => w.t.fmt | none => 0
  let s1 := s.modTile c.uid ti (fun t => { t with
    todo := expandPasses (s.actFmt c t.plan) fw t.split true t.plan.passes, acc := [], drained := [], sat := 0, flushed := 0,
    satGroups := 0, underGroups := 0, groupBits := [] })
  let s2 := s1.modArr t.array (fun x => { x with
    checking := x.checking.filter (fun r => !(r.uid == c.uid && r.tile == ti)),
    slots := t.slots.foldl (fun tb k => tset tb k (c.uid, ti)) x.slots })
  s2.refresh c.uid

/-- A record of class LOCKSTEP or ACCUM_ECC for a row of a tile. -/
def drainErr (c : Cmd) (a cls kind addr : Nat) : ErrArg :=
  { cls := cls, kind := kind, ctx := c.e.ctx, addr := addr, queue := c.e.queue, cid := c.e.cid, fn := c.e.ctx, region := arrRegion a }

/-- One row of a tile through the epilogue. `mismatch` counts the lockstep mismatches of the row in FULL (R136), `ecc` is 1
for a corrected and 2 for a double-bit error of its accumulators (R134). -/
def State.drainRow (s : State) (a uid ti row mismatch ecc : Nat) : State :=
  match s.cmd? uid with
  | none => s
  | some c => match c.tiles[ti]? with
    | none => s
    | some t =>
      if c.status.isSome ∨ t.array ≠ a ∨ s.drainable c ti t row = false then s
      else match s.reducedRow c t row with
      | none => s
      | some acc =>
        let eccAddr := t.slots.getD (row / 512) 0 * 2 ^ 20 + row % 512 * 2048
        if 2 ≤ ecc then ((s.logTest (drainErr c a 0x12 2 eccAddr) 1 a).redoTile c ti t)
        else
          let s0 := if ecc = 1 then (s.logErr { drainErr c a 0x12 1 eccAddr with unit := unitOf 1 a }).modArr a (fun x => { x with ecc := add64 x.ecc 1 }) else s
          let full := match c.mode with | some (0, _) => true | _ => false
          let mis := if full then min mismatch 2 else 0
          let s1 := if 0 < mis then
              (s0.modCmd uid (fun c => { c with retried := true, tele := { c.tele with lockstep := c.tele.lockstep + mis } })).logTest
                (drainErr c a 0x11 mis (match t.plan.outSlot with
                  | some n => (match s.slotArg c n with | some (h, _, x, d) => h.base + ((argTensor x d).rowBytes (t.plan.row0 + row) 1).1 | none => 0)
                  | none => 0)) 2 a
            else s0
          if mis = 2 then s1.failCheck uid ti
          else match s.rowOwner c t row with
          | some m =>
            if m ≠ s.peer.member then
              match s.opOf uid with
              | none => s
              | some o =>
                if o.posted.contains m then
                  let msg : PeerMsg := {
                    dst := m, kind := msgReduce, opId := s.peer.opId o.seq, offset := reduceKey t row,
                    payload := acc.flatMap (fun v => le 16 (ofSigned 128 v)), sentAt := s.time.now }
                  let t' := { t with drained := t.drained ++ [row] }
                  let s2 := (s1.sendMsg msg).modTile uid ti (fun _ => t')
                  let s3 := s2.freeRows uid ti t'
                  if t'.drained.length = t.plan.rows then s3.endTile uid ti else s3
                else s
            else drainOwn s1 c t acc
          | none => drainOwn s1 c t acc
where
  /-- The row goes through this drive's epilogue. -/
  drainOwn (s1 : State) (c : Cmd) (t : TileSt) (acc : List Int) : State :=
    let r := s1.epilogueRow c t row acc
    let g := r.flags.length
    let old := t.groupBits ++ List.replicate (t.plan.rows * g - t.groupBits.length) 0
    let bits' := old.take (row * g) ++ r.flags ++ old.drop ((row + 1) * g)
    let t' := { t with
      drained := t.drained ++ [row], sat := t.sat + r.sat, flushed := t.flushed + r.flushed,
      satGroups := t.satGroups + r.satGroups, underGroups := t.underGroups + r.underGroups, groupBits := bits' }
    let s2 := s1.charge c.e.ctx { Counts.zero with vops := t.plan.cols * (if decide (0 < mismatch) && (match c.mode with | some (0, _) => true | _ => false) then 2 else 1) }
    let s2 := if t.plan.outSlot.isNone ∧ t.drained.isEmpty then s2.modArr a (fun x => { x with chain := [] }) else s2
    match (if c.strict then some s2 else s2.writeRow c t row r) with
    | none => s2.endHard uid stTierFull ti
    | some s3 =>
      let s4 := (s3.modTile uid ti (fun _ => t')).freeRows uid ti t'
      if t'.drained.length = t.plan.rows then s4.endTile uid ti else s4

end Sys2Proof.Machine
end

