-- ==== Sys2Proof/Machine/Search.lean ====
section
/-! DEFINITION. Vector search near flash (chapter 9): the index object and its seal, list selection, distance tables, scans
and their tags, the merger, re-rank and the result records. -/

namespace Sys2Proof.Machine

/-! ### The index (Tables 9-1 to 9-4) -/

/-- The index header (Table 9-3). -/
structure IdxHead where
  magic : Nat
  version : Nat
  metric : Nat
  fmt : Nat
  d : Nat
  m : Nat
  nlist : Nat
  count : Nat
  dirOff : Nat
  cenOff : Nat
  cbOff : Nat
  listOff : Nat
  vecOff : Nat
  digest : Nat
  gen : Nat
  reserved : Nat
  deriving DecidableEq, Repr

/-- A field of an object, least significant byte first. -/
def ObjectSt.num (x : ObjectSt) (off n : Nat) : Nat := leNat (x.read off n)

/-- Read the header. -/
def ObjectSt.head (x : ObjectSt) : IdxHead :=
  { magic := x.num 0 4, version := x.num 4 2, metric := x.num 6 1, fmt := x.num 7 1, d := x.num 8 2, m := x.num 0x0A 1,
    nlist := x.num 0x0C 4, count := x.num 0x10 8, dirOff := x.num 0x18 8, cenOff := x.num 0x20 8, cbOff := x.num 0x28 8,
    listOff := x.num 0x30 8, vecOff := x.num 0x38 8, digest := x.num 0x40 8, gen := x.num 0x48 8,
    reserved := x.num 0x0B 1 + x.num 0x50 176 }

/-- The format code of Table 15-7 for an index element format. -/
def IdxHead.code (h : IdxHead) : Nat := if h.fmt = 0 then 1 else if h.fmt = 1 then 3 else 6

/-- Bytes of an element. -/
def IdxHead.esz (h : IdxHead) : Nat := if h.fmt = 2 then 2 else 1

/-- Records per block (Table 9-4). -/
def IdxHead.cap (h : IdxHead) : Nat := 4080 / (16 + h.m)

/-- Bytes of a vector slot: a norm and d elements, padded to 16. -/
def IdxHead.vecSize (h : IdxHead) : Nat := (4 + h.d * h.esz + 15) / 16 * 16

/-- The sections but the lists: offset and length. -/
def IdxHead.fixed (h : IdxHead) : List (Nat × Nat) :=
  [(0, 256), (h.dirOff, 24 * h.nlist), (h.cenOff, h.nlist * h.d * h.esz + 4 * h.nlist), (h.cbOff, 256 * h.d * h.esz + 1024 * h.m)]

/-- A directory entry (R207). -/
structure DirEnt where
  page : Nat
  blocks : Nat
  records : Nat
  digest : Nat
  deriving DecidableEq, Repr

/-- The directory entry of a list. -/
def ObjectSt.dirEnt (x : ObjectSt) (l : Nat) : DirEnt :=
  let o := x.head.dirOff + 24 * l
  { page := x.num o 8, blocks := x.num (o + 8) 4, records := x.num (o + 12) 4, digest := x.num (o + 16) 8 }

/-- The object offset of a list's block (R207). -/
def ObjectSt.blockOff (x : ObjectSt) (l b : Nat) : Nat := x.head.listOff + ((x.dirEnt l).page + b / 16) * pageSize + b % 16 * 4096

/-- One record of a block: vector ID, attribute word, codes (R208). -/
structure IdxRec where
  id : Nat
  attr : Nat
  codes : List Nat
  deriving DecidableEq, Repr

/-- The records of a block. -/
def blockRecs (blk : List Byte) (m : Nat) : List IdxRec :=
  (List.range (leNat (slice blk 8 2))).map (fun i =>
    let o := 16 + i * (16 + m)
    { id := leNat (slice blk o 8), attr := leNat (slice blk (o + 8) 8), codes := (slice blk (o + 16) m).map (·.toNat) })

/-- R208, R217: a block carries the list number, index, M and zero bytes it should. -/
def blockOk (blk : List Byte) (l b m : Nat) : Bool :=
  leNat (slice blk 0 4) == l && leNat (slice blk 4 4) == b && leNat (slice blk 10 1) == m && leNat (slice blk 11 5) == 0

/-- Tables 9-2 and 9-3: the header's fields and sections. -/
def headOk (h : IdxHead) (size : Nat) : Bool :=
  let secs := h.fixed ++ (if h.vecOff = 0 then [] else [(h.vecOff, h.count * h.vecSize)])
  h.magic == 0x58444931 && h.version == 1 && decide (h.metric ≤ 1) && decide (h.fmt ≤ 2) && h.reserved == 0 &&
    [8, 16, 32, 48, 64, 96, 128].contains h.m && decide (32 ≤ h.d ∧ h.d ≤ 4096) && h.d % h.m == 0 &&
    decide (1 ≤ h.nlist ∧ h.nlist ≤ 2 ^ 18) && decide (1 ≤ h.count ∧ h.count ≤ 2 ^ 36) && h.listOff % pageSize == 0 &&
    decide (h.listOff ≤ size) && secs.all (fun s => s.1 % pageSize == 0 && decide (s.1 + s.2 ≤ size)) &&
    (secs.map (·.1) ++ [h.listOff]).Nodup

/-- R209: one list's blocks are as R207 and R208 say, and its IDs are below the vector count. -/
def ObjectSt.listOk (x : ObjectSt) (l : Nat) : Bool :=
  let h := x.head
  let e := x.dirEnt l
  e.blocks == (e.records + h.cap - 1) / h.cap && decide (h.listOff + e.page * pageSize + ceilDiv e.blocks 16 * pageSize ≤ x.size) &&
    (List.range e.blocks).all (fun b =>
      let blk := x.read (x.blockOff l b) 4096
      let want := if b + 1 < e.blocks then h.cap else e.records - b * h.cap
      blockOk blk l b h.m && leNat (slice blk 8 2) == want &&
        (blockRecs blk h.m).all (fun r => decide (r.id < h.count)))

/-- R209: the validation of a seal. -/
def ObjectSt.indexOk (x : ObjectSt) : Bool :=
  let h := x.head
  headOk h x.size && (List.range h.nlist).all x.listOk &&
    ((List.range h.nlist).map (fun l => (x.dirEnt l).records)).sum == h.count

/-- R209: a list's digest over its blocks in order. -/
def ObjectSt.listDigest (x : ObjectSt) (l : Nat) : Nat :=
  digest ((List.range (x.dirEnt l).blocks).flatMap (fun b => x.read (x.blockOff l b) 4096))

/-- R209: head, directory, centroids and codebooks as one range, the fields that the seal writes counting as zero. -/
def ObjectSt.sealedBytes (x : ObjectSt) : List Byte :=
  let h := x.head
  x.read 0 0x40 ++ zeros 16 ++ x.read 0x50 176 ++
    (List.range h.nlist).flatMap (fun l => x.read (h.dirOff + 24 * l) 16 ++ zeros 8) ++
    (h.fixed.drop 2).flatMap (fun s => x.read s.1 s.2)

/-- R209: the index digest. -/
def ObjectSt.indexDigest (x : ObjectSt) : Nat :=
  digestAll (digest x.sealedBytes :: (List.range x.head.nlist).map x.listDigest)

/-- INDEX_SEAL: validate, write the digests and the generation, copy the searched sections into T1. -/
def doIndexSeal (s : State) (uid ctx h : Nat) : BodyOut :=
  match s.handleObj ctx h with
  | none => ends s stMemUnmapped
  | some (m, x) =>
    if x.kind ≠ 2 then ends s stInvalidField
    else if x.mark then ends s stLostAtPowerFail
    else if x.lostIn 0 x.size then ends s stStorageMedia
    else if x.indexOk = false then ends s stIndexInvalid
    else
      let hd := x.head
      let ps := (hd.fixed.flatMap (fun q => pagesOf q.1 q.2)).eraseDups
      let parts := s.homeParts x.part
      let need := ps.countP (fun p => match tfind x.pageTab p with
        | some q => !q.copies.any (fun c => c.tier == 1)
        | none => true)
      if (parts.map (fun p => (s.part p).quota * 1024)).sum < s.t1Held parts + need then ends s stTierFull
      else
        let gen := hd.gen + 1
        let w1 := (List.range hd.nlist).map (fun l => (hd.dirOff + 24 * l + 16, le 8 (x.listDigest l)))
        let ws := w1 ++ [(0x40, le 8 x.indexDigest ++ le 8 gen)]
        match tryAll (fun s w => s.cmdWrite uid m.obj w.1 0 w.2) ws s with
        | none => ends s stTierFull
        | some s1 =>
          let copy (p : Nat) (q : PageSt) : PageSt :=
            if ps.contains p then { q with copies := [{ tier := 1, die := p % 2, gen := q.gen, spec := false }] } else q
          let s2 := s1.modObj m.obj (fun x => { x with isSealed := true, pageTab := tmap x.pageTab copy })
          (s2.modCmd uid (fun c => { c with st := .draining, ending := some stSuccess, dw0 := gen % 2 ^ 32, dw1 := 0 }), none)

/-! ### The products of a search (R213, R214, R221) -/

/-- Elements of a vector at an offset. -/
def ObjectSt.vec (x : ObjectSt) (fmt off n : Nat) : List (Option (Int × Int)) :=
  (List.range n).map (fun i => decodeElem fmt (rawElem x.byte fmt off i))

/-- The exact dot product of two vectors. -/
def dot (a b : List (Int × Int)) : Frac :=
  let ps := (a.zip b).map (fun p => (p.1.1 * p.2.1, p.1.2 + p.2.2))
  let lo := (ps.map (·.2)).foldl min ((ps.head?.map (·.2)).getD 0)
  Frac.ofDyadic ((ps.map (fun p => p.1 * 2 ^ (p.2 - lo).toNat)).sum) lo

/-- The FP32 code of a score: RNA of -2(q·c), then plus the norm with RNA, for L2SQ; RNA of -(q·c) for IP (R213). -/
def scoreOf (metric : Nat) (dp : Frac) (norm : Nat) : Nat :=
  if metric = 0 then
    let r := ({ num := -2 * dp.num, den := dp.den } : Frac).round 7 none
    (((fracOf 7 r.code).add (fracOf 7 norm)).round 7 none).code
  else (({ num := -dp.num, den := dp.den } : Frac).round 7 none).code

/-- The product of a query with a vector of the index: NONFINITE_OPERAND or WINDOW_EXCEEDED as for any tile, else the score. -/
def productScore (metric fmt : Nat) (q v : List (Option (Int × Int))) (norm : Nat) : Except Nat Nat :=
  match envOf fmt q, envOf fmt v with
  | some eq, some ev =>
    if finite32 norm = false then .error stNonfinite
    else match windowRule (span eq ev) (q.length * (if fmt = 6 then 4 else 1)) with
    | .exceeded => .error stWindowExceeded
    | _ => .ok (scoreOf metric (dot (q.filterMap id) (v.filterMap id)) norm)
  | _, _ => .error stNonfinite

/-- Order of scores: lower value first, then the lower number. -/
def scoreLe (a b : Nat × Nat) : Bool :=
  let x := fracOf 7 a.2
  let y := fracOf 7 b.2
  if x.num * y.den < y.num * x.den then true else if x.num * y.den = y.num * x.den then decide (a.1 ≤ b.1) else false

/-- What a SEARCH names. -/
structure SearchArgs where
  nq : Nat
  k : Nat
  nprobe : Nat
  f : Nat
  rerank : Bool
  qoff : Nat
  ooff : Nat
  terms : List FilterTerm
  idx : Nat
  ix : ObjectSt
  qx : ObjectSt
  out : Nat
  deriving DecidableEq, Repr

/-- The parameters and objects of a SEARCH. -/
def State.searchArgs (s : State) (c : Cmd) : Option SearchArgs :=
  match c.body with
  | .search i q o nq k np f r _ qo oo _ terms =>
    match s.handleObj c.e.ctx i, s.handleObj c.e.ctx q, s.handleObj c.e.ctx o with
    | some (hi, x), some (_, y), some (ho, _) =>
      some { nq := nq, k := k, nprobe := np, f := f, rerank := bit r 0, qoff := qo, ooff := oo, terms := terms, idx := hi.obj,
             ix := x, qx := y, out := ho.obj }
    | _, _, _ => none
  | _ => none

/-- The elements of query `q`. -/
def SearchArgs.query (a : SearchArgs) (q : Nat) : List (Option (Int × Int)) :=
  let h := a.ix.head
  a.qx.vec h.code (a.qoff + q * h.d * h.esz) h.d

/-- R213: the selected lists of a query in order. -/
def SearchArgs.selection (a : SearchArgs) (q : Nat) : Except Nat (List Nat) :=
  let h := a.ix.head
  let qv := a.query q
  match collectOk ((List.range h.nlist).map (fun l =>
    match productScore h.metric h.code qv (a.ix.vec h.code (h.cenOff + l * h.d * h.esz) h.d)
        (a.ix.num (h.cenOff + h.nlist * h.d * h.esz + 4 * l) 4) with
    | .ok v => .ok (l, v)
    | .error e => .error e)) with
  | .ok ls => .ok (((ls.mergeSort scoreLe).take a.nprobe).map (·.1))
  | .error e => .error e

/-- R214: the table of a query: its exponent, its entries, and the entries flushed to zero. -/
def SearchArgs.tables (a : SearchArgs) (q : Nat) : Except Nat (Nat × List Int × Nat) :=
  let h := a.ix.head
  let qv := a.query q
  let ds := h.d / h.m
  match collectOk ((List.range h.m).flatMap (fun m => (List.range 256).map (fun w =>
    productScore h.metric h.code ((qv.drop (m * ds)).take ds)
      (a.ix.vec h.code (h.cbOff + (m * 256 + w) * ds * h.esz) ds)
      (a.ix.num (h.cbOff + 256 * h.d * h.esz + 4 * (m * 256 + w)) 4)))) with
  | .error e => .error e
  | .ok vs =>
    let fs := vs.map (fracOf 7)
    let e := dynExp 8 fs
    let rs := fs.map (fun v => (v.div (pow2E e)).round 8 none)
    .ok (e, rs.map (fun r => toSigned 16 r.code), rs.countP (·.flushed))

/-! ### Filters and the merger (R218, R219) -/

/-- R218: one term on an attribute word. -/
def termHolds (t : FilterTerm) (attr : Nat) : Bool :=
  let v := attr / 2 ^ t.low % 2 ^ t.width
  let k := t.const.toNat
  match t.op with
  | 0 => v == k
  | 1 => v != k
  | 2 => decide (v ≤ k)
  | 3 => decide (k ≤ v)
  | 4 => v &&& k != 0
  | _ => v &&& k == k

/-- R218: does a record survive? -/
def survives (ts : List FilterTerm) (attr : Nat) : Bool :=
  (ts.filter (fun t => t.group == 0)).all (fun t => termHolds t attr) &&
    ((ts.filter (fun t => t.group == 1)).isEmpty || (ts.filter (fun t => t.group == 1)).any (fun t => termHolds t attr))

/-- R216: the code score of a record. -/
def codeScore (table : List Int) (codes : List Nat) : Int :=
  (((List.range codes.length).zip codes).map (fun p => table.getD (p.1 * 256 + p.2) 0)).sum

/-- Rank of candidates: score, then vector ID. -/
def candLe (a b : Cand) : Bool := decide (a.score < b.score) || (a.score == b.score && decide (a.id ≤ b.id))

/-- R219: the better of two candidates of one vector ID. -/
def betterCand (a b : Cand) : Cand :=
  if b.score < a.score ∨ (b.score = a.score ∧ b.list < a.list) then b else a

/-- R219: add a candidate to the kept set of size K'. -/
def keepCand (kk : Nat) (kept : List Cand) (c : Cand) : List Cand :=
  let one := match kept.find? (fun d => d.id == c.id) with
    | some d => betterCand d c :: kept.filter (fun d => d.id != c.id)
    | none => c :: kept
  (one.mergeSort candLe).take kk

/-- The merger's slots in use: queries from their first table transfer until every scan has ended (R220). -/
def State.slotsUsed (s : State) : List Nat :=
  s.cmds.flatMap (fun c => match c.search with
    | some x => (x.queries.filter (fun q => q.tableSent && !(q.final && q.scans.all (·.ended)))).map (·.slot)
    | none => [])

/-- R220: the free slots of a command's partition or set. -/
def State.freeSlots (s : State) (c : Cmd) : List Nat :=
  ((s.homeParts (s.ctx c.e.ctx).partition).flatMap (fun p => (List.range 8).map (· + 8 * p))).filter (fun n => !s.slotsUsed.contains n)

/-- A query before its table is sent. -/
def QuerySt.fresh : QuerySt :=
  { slot := 0, gen := 0, tableSent := false, tableExp := 0, table := [], final := false, selected := [], scans := [],
    arriving := [], kept := [], pool := [], rescanned := false, reranked := none }

/-- R140, R144, R229: count the passes of a search's product, and charge them. -/
def State.searchPasses (s : State) (c : Cmd) (n : Nat) : State :=
  let m := c.mode.getD (0, 0)
  let hit := if m.1 = 0 then n else if m.1 = 1 then ceilDiv (c.sampleAt + n) (2 ^ m.2) - ceilDiv c.sampleAt (2 ^ m.2) else 0
  (s.modCmd c.uid (fun c => { c with
    sampleAt := c.sampleAt + n,
    tele := { c.tele with checked := c.tele.checked + hit, unchecked := c.tele.unchecked + (n - hit) } })).charge c.e.ctx
      { Counts.zero with steps := 128 * n }

/-- BF16 products take four passes (R108). -/
def IdxHead.mult (h : IdxHead) : Nat := if h.fmt = 2 then 4 else 1

/-- Passes of the centroid, table and re-rank products. -/
def IdxHead.cenPasses (h : IdxHead) : Nat := ceilDiv h.nlist 128 * ceilDiv h.d 128 * h.mult
def IdxHead.tblPasses (h : IdxHead) : Nat := 2 * h.m * ceilDiv (h.d / h.m) 128 * h.mult
def IdxHead.vecPasses (h : IdxHead) (n : Nat) : Nat := ceilDiv n 128 * ceilDiv h.d 128 * h.mult

/-- Change one query of a search. -/
def State.modQuery (s : State) (uid q : Nat) (f : QuerySt → QuerySt) : State :=
  s.modCmd uid (fun c => { c with search := c.search.map (fun x => { x with queries := x.queries.modify q f }) })

/-- A running search, its query, and its parameters. -/
def State.runningQuery (s : State) (uid q : Nat) : Option (Cmd × SearchSt × QuerySt × SearchArgs) :=
  match s.cmd? uid with
  | none => none
  | some c => match c.search, s.searchArgs c with
    | some x, some a =>
      if c.status.isSome ∨ c.st = .blocked ∨ c.ending.isSome then none
      else (x.queries[q]?).map (fun y => (c, x, y, a))
    | _, _ => none

/-- The array whose readings a search's first product takes (its partition's first array). -/
def State.searchArray (s : State) (c : Cmd) : Nat := (s.ctx c.e.ctx).partition

/-- R215, R220: a query's table is built and sent to the lanes; the first sends the command into its slots. -/
def State.sendTable (s : State) (uid q : Nat) : State :=
  match s.runningQuery uid q with
  | none => s
  | some (c, x, y, a) =>
    if y.tableSent then s
    else
      let fresh := x.queries.all (fun z => !z.tableSent)
      let free := s.freeSlots c
      if fresh ∧ free.length < a.nq then s
      else
        let h := a.ix.head
        let s0 := if fresh then
            let s1 := s.modCmd uid (fun c => s.fixMode c (s.searchArray c))
            let s2 := match s1.cmd? uid with | some c => s1.searchPasses c h.tblPasses | none => s1
            (s2.modCmd uid (fun c => { c with
              st := .holding,
              search := c.search.map (fun x => { x with queries := (x.queries.zip (free.take a.nq)).map (fun p => { p.1 with slot := p.2, gen := s.nextId % 8192 }) }) })).bump
          else s
        match a.tables q with
        | .error e => s0.conclude uid e 0 0
        | .ok (e, t, fl) =>
          ((s0.modQuery uid q (fun y => { y with tableSent := true, tableExp := e, table := t })).modCmd uid (fun c =>
            { c with tele := { c.tele with flushed := c.tele.flushed + fl } })).charge c.e.ctx { Counts.zero with vops := 256 * h.m }

/-! ### Scans (R216-R228) -/

/-- A scan just launched. -/
def ScanSt.fresh (launch list tag : Nat) : ScanSt :=
  { launch := launch, list := list, tag := tag, short := false, ended := false, nextBlock := 0, codes := 0, survivors := 0, digest := 0 }

/-- R223: launch a speculative scan. -/
def State.launchSpec (s : State) (uid q list : Nat) : State :=
  match s.runningQuery uid q with
  | none => s
  | some (_, _, y, a) =>
    if y.tableSent ∧ y.final = false ∧ list < a.ix.head.nlist ∧ (y.scans.any (fun c => c.list == list)) = false
        ∧ y.scans.countP (fun c => c.tag == 0 && !c.ended) < 16 ∧ y.scans.length < 1024 then
      s.modQuery uid q (fun y => { y with scans := y.scans ++ [ScanSt.fresh y.scans.length list 0] })
    else s

/-- R228: what a scan under a confirmed tag found against the directory: a status when it fails. -/
def SearchArgs.verify (a : SearchArgs) (c : ScanSt) : Option Nat :=
  let e := a.ix.dirEnt c.list
  if digestStep c.digest (4096 * e.blocks) ≠ e.digest then some stStorageMedia
  else if c.codes ≠ e.records then some stInternal
  else none

/-- A scan lane of a command's partition; which of its four is a free value (assumption log 1). -/
def State.someLane (s : State) (c : Cmd) : Nat := 4 * (s.ctx c.e.ctx).partition + Config.freeNat s.freeCtr 0 % 4

/-- End a search whose scan failed its verification (R228). -/
def State.failScan (s : State) (c : Cmd) (st : Nat) : State :=
  let s1 := if st = stInternal then
      (s.logTest { cls := 0x5F, kind := 2, ctx := c.e.ctx, status := stInternal, queue := c.e.queue, cid := c.e.cid, fn := c.e.ctx } 7 (s.someLane c)).drawn
    else s
  s1.conclude c.uid st 0 0

/-- R224: the selection of a query is final: tags are confirmed or go stale, pools merge, and the other selected lists are
launched in the foreground. -/
def State.finalize (s : State) (uid q : Nat) : State :=
  match s.runningQuery uid q with
  | none => s
  | some (c, x, y, a) =>
    if y.final ∨ y.tableSent = false then s
    else
      let h := a.ix.head
      let s0 := if x.queries.all (fun z => !z.final) then s.searchPasses c h.cenPasses else s
      let s0 := s0.charge c.e.ctx { Counts.zero with vops := h.nlist }
      match a.selection q with
      | .error e => s0.conclude uid e 0 0
      | .ok sel =>
        let retag (z : ScanSt) : ScanSt := if sel.contains z.list && !z.short then { z with tag := 1 } else { z with tag := 2 }
        let scans := y.scans.map retag
        let redo := y.scans.any (fun z => z.short && sel.contains z.list)
        let need := sel.filter (fun l => !scans.any (fun z => z.list == l && z.tag == 1))
        let fg := (need.zip (List.range need.length)).map (fun p => ScanSt.fresh (scans.length + p.2) p.1 1)
        let good (d : Cand) : Bool := scans.any (fun z => z.launch == d.launch && z.tag == 1)
        let kept := (y.pool.filter good).foldl (keepCand (a.k * a.f)) y.kept
        let codes := ((scans.filter (fun z => z.tag == 1)).map (·.codes)).sum
        let s1 := s0.modQuery uid q (fun y => { y with
          final := true, selected := sel, scans := scans ++ fg, kept := kept, pool := [],
          arriving := y.arriving.filter good, rescanned := redo })
        let s2 := if codes = 0 then s1 else s1.charge c.e.ctx { Counts.zero with codes := codes }
        match (scans.filter (fun z => z.tag == 1 && z.ended)).findSome? a.verify with
        | some st => s2.failScan c st
        | none => s2

/-- R216-R218, R226: a lane evaluates one decoded block for a query. -/
def State.evalBlock (s : State) (uid q launch block mismatch : Nat) : State :=
  match s.runningQuery uid q with
  | none => s
  | some (c, _, y, a) => match y.scans.find? (fun z => z.launch == launch) with
    | none => s
    | some z =>
      if z.ended ∨ z.tag = 2 ∨ z.nextBlock ≠ block ∨ (a.ix.dirEnt z.list).blocks ≤ block ∨ y.tableSent = false then s
      else
        let h := a.ix.head
        let full := match c.mode with | some (0, _) => true | _ => false
        let mis := if full then min mismatch 2 else 0
        let s1 := if 0 < mis then
            ((s.modCmd uid (fun c => { c with retried := true, tele := { c.tele with lockstep := c.tele.lockstep + mis } })).logTest
              { cls := 0x11, kind := mis, ctx := c.e.ctx, queue := c.e.queue, cid := c.e.cid, fn := c.e.ctx } 7 (s.someLane c)).drawn.modNand
                (fun n => { n with scanMismatch := satAdd 32 n.scanMismatch mis })
          else s
        if mis = 2 then s1.conclude uid stCheckFailed 0 0
        else
          let off := a.ix.blockOff z.list block
          let blk := a.ix.read off 4096
          if a.ix.lostIn off 4096 ∨ blockOk blk z.list block h.m = false then s1.conclude uid stStorageMedia 0 0
          else
            let recs := blockRecs blk h.m
            let ok := recs.filter (fun r => survives a.terms r.attr)
            let worst := if y.kept.length < a.k * a.f then none else (y.kept.getLast?).map (·.score)
            let cands := (ok.map (fun r => ({ id := r.id, score := codeScore y.table r.codes, list := z.list, launch := launch } : Cand))).filter
              (fun d => match worst with | some w => decide (d.score ≤ w) | none => true)
            let z' := { z with
              nextBlock := block + 1, codes := z.codes + recs.length, survivors := z.survivors + ok.length,
              digest := (words8 513 blk).foldl digestStep z.digest }
            let s2 := s1.modQuery uid q (fun y => { y with
              scans := y.scans.map (fun w => if w.launch = launch then z' else w), arriving := y.arriving ++ cands })
            if z.tag = 1 then s2.charge c.e.ctx { Counts.zero with codes := recs.length } else s2

/-- R219, R225: a candidate reaches the merger. -/
def State.mergeCand (s : State) (uid q which : Nat) : State :=
  match s.runningQuery uid q with
  | none => s
  | some (_, _, y, a) => match y.arriving[which]? with
    | none => s
    | some d =>
      let rest := y.arriving.eraseIdx which
      match y.scans.find? (fun z => z.launch == d.launch) with
      | none => s.modQuery uid q (fun y => { y with arriving := rest })
      | some z =>
        if z.tag = 2 then s.modQuery uid q (fun y => { y with arriving := rest })
        else if z.tag = 1 then s.modQuery uid q (fun y => { y with arriving := rest, kept := keepCand (a.k * a.f) y.kept d })
        else if y.pool.length < 16384 then s.modQuery uid q (fun y => { y with arriving := rest, pool := y.pool ++ [d] })
        else s.modQuery uid q (fun y => { y with
          arriving := rest, scans := y.scans.map (fun w => if w.launch = z.launch then { w with short := true } else w) })

/-! ### Results (R221, R222) -/

/-- A query whose scans have all ended and whose candidates have all been merged. -/
def QuerySt.scanned (y : QuerySt) : Bool := y.final && y.scans.all (·.ended) && y.arriving.isEmpty

/-- The results of a query: vector ID, score field, list. -/
def QuerySt.results (y : QuerySt) (k : Nat) : List (Nat × Nat × Nat) :=
  match y.reranked with
  | some r => r.take k
  | none => (y.kept.take k).map (fun d => (d.id, ofSigned 32 d.score, d.list))

/-- The result record of a query (Table 9-6). -/
def SearchArgs.record (a : SearchArgs) (y : QuerySt) : List Byte :=
  let res := y.results a.k
  let conf := y.scans.filter (fun z => z.tag == 1)
  let stride := searchStride a.k a.nprobe
  let b := le 4 res.length ++ le 1 (b2n (decide (res.length < a.k)) + 2 * b2n y.reranked.isSome + 4 * b2n y.rescanned) ++
    le 1 y.tableExp ++ le 2 a.nprobe ++ le 8 (conf.map (·.codes)).sum ++ le 8 (conf.map (·.survivors)).sum ++ zeros 8 ++
    res.flatMap (fun r => le 8 r.1 ++ le 4 r.2.1 ++ le 4 r.2.2) ++ zeros (16 * (a.k - res.length)) ++
    y.selected.flatMap (fun l => le 4 l ++ le 4 (((conf.filter (fun z => z.list == l)).map (·.codes)).sum))
  b ++ zeros (stride - b.length)

/-- R210, R222: when every query is done, write the records and end the search. -/
def State.searchDone (s : State) (uid : Nat) : State :=
  match s.runningQuery uid 0 with
  | none => s
  | some (_, x, _, a) =>
    if x.queries.all (fun y => y.scanned && (!a.rerank || y.reranked.isSome)) then
      if a.ix.isSealed = false ∨ a.ix.head.gen ≠ x.sealGen then s.conclude uid stIndexStale 0 0
      else
        let stride := searchStride a.k a.nprobe
        match tryAll (fun s p => s.cmdWrite uid a.out (a.ooff + p.2 * stride) 0 (a.record p.1))
            (x.queries.zip (List.range x.queries.length)) s with
        | none => s.conclude uid stTierFull 0 0
        | some s1 =>
          let short := (x.queries.zip (List.range x.queries.length)).foldl (fun n p =>
            n + (if (p.1.results a.k).length < a.k then 2 ^ p.2 else 0)) 0
          let st := if short = 0 then stSuccess else stShort
          match s1.cmd? uid with
          | none => s1
          | some c1 =>
            if c1.waitItems.isEmpty then s1.conclude uid st short 0
            else s1.modCmd uid (fun c => { c with st := .draining, ending := some st, dw0 := short, dw1 := 0 })
    else s

/-- R228, R220: a lane reports the end of a scan. -/
def State.endScan (s : State) (uid q launch : Nat) : State :=
  match s.runningQuery uid q with
  | none => s
  | some (c, _, y, a) => match y.scans.find? (fun z => z.launch == launch) with
    | none => s
    | some z =>
      if z.ended ∨ (z.tag ≠ 2 ∧ z.nextBlock < (a.ix.dirEnt z.list).blocks) ∨ (z.tag ≠ 2 ∧ y.arriving.any (fun d => d.launch == launch)) then s
      else
        let s1 := s.modQuery uid q (fun y => { y with scans := y.scans.map (fun w => if w.launch = launch then { w with ended := true } else w) })
        match (if z.tag = 1 then a.verify z else none) with
        | some st => s1.failScan c st
        | none => s1.searchDone uid

/-- R221: re-rank the kept candidates of a query. -/
def State.rerankQuery (s : State) (uid q : Nat) : State :=
  match s.runningQuery uid q with
  | none => s
  | some (c, _, y, a) =>
    if a.rerank = false ∨ y.scanned = false ∨ y.reranked.isSome then s
    else
      let h := a.ix.head
      let off (id : Nat) : Nat := h.vecOff + id * h.vecSize
      if y.kept.any (fun d => a.ix.lostIn (off d.id) h.vecSize) then s.conclude uid stStorageMedia 0 0
      else
        match collectOk (y.kept.map (fun d =>
          match productScore h.metric h.code (a.query q) (a.ix.vec h.code (off d.id + 4) h.d) (a.ix.num (off d.id) 4) with
          | .ok v => .ok (d.id, v, d.list)
          | .error e => .error e)) with
        | .error e => s.conclude uid e 0 0
        | .ok rs =>
          let sorted := rs.mergeSort (fun p r => scoreLe (p.1, p.2.1) (r.1, r.2.1))
          let s1 := s.searchPasses c (h.vecPasses y.kept.length)
          let s2 := s1.charge c.e.ctx { Counts.zero with vops := y.kept.length }
          (s2.modQuery uid q (fun y => { y with reranked := some (sorted.take a.k) })).searchDone uid

end Sys2Proof.Machine
end

