-- ==== Sys2Proof/Machine/Group.lean ====
section
/-! DEFINITION. This member's part of a group operation (R299-R303): its start with POST to every member, and the messages
that it owes a member that has posted. -/

namespace Sys2Proof.Machine

/-- Cut bytes into messages of at most `n` bytes; a last message is padded with zero bytes to a multiple of 16 (R292). -/
def cutMsgs (n : Nat) (bs : List Byte) : List (Nat × List Byte) :=
  let cs := chunks (bs.length + 1) n bs
  ((List.range cs.length).zip cs).map (fun p => (p.1 * n, p.2 ++ zeros ((16 - p.2.length % 16) % 16)))

/-- One envelope line in a message: line, lowest, highest, terms (assumption log 18). -/
def envLine (l : Nat × Int × Int × Nat) : List Byte := le 4 l.1 ++ le 2 (ofSigned 16 l.2.1) ++ le 2 (ofSigned 16 l.2.2.1) ++ le 8 l.2.2.2

/-- Send messages of one kind to a member. -/
def State.sendMsgs (s : State) (dst kind opId : Nat) (ms : List (Nat × List Byte)) : State :=
  ms.foldl (fun s m => s.sendMsg { dst := dst, kind := kind, opId := opId, offset := m.1, payload := m.2, sentAt := s.time.now }) s

/-- R300, R302: what this member sends to a member that has posted: its shard of each gathered input, or its envelopes. -/
def State.sendShare (s : State) (c : Cmd) (o : GroupOp) (j : Nat) : State :=
  let id := s.peer.opId o.seq
  if o.mode = 2 then s.sendMsgs j msgEnvelope id (cutMsgs 16384 ((s.ownEnvelopes c).flatMap envLine))
  else
    (s.argsWith c [0, 1]).foldl (fun s a =>
      if a.2.1.gathered then
        match s.obj? a.1 with
        | none => s
        | some x =>
          let u := shardUnit a.2.1.length s.peer.size
          let lo := min (s.peer.member * u) a.2.1.length
          let hi := min ((s.peer.member + 1) * u) a.2.1.length
          s.sendMsgs j msgGather id ((cutMsgs 16384 (x.read (a.2.1.offset + lo) (hi - lo))).map (fun m => (gatherKey a.2.1.slot (lo + m.1), m.2)))
      else s) s

/-- Pages of the ranges that members write or this command writes are backed (R299). -/
def State.backRanges (s : State) (rs : List (Nat × Nat × Nat)) : Option State :=
  tryAll (fun s r => s.backAll r.1 (pagesOf r.2.1 r.2.2)) rs s

/-- R299: this member's part begins: pages backed, POST to every member, and the shares owed to members that posted before. -/
def State.startOp (s : State) (c : Cmd) (mode seq : Nat) : Option State :=
  let gathered := ((s.argsWith c [0, 1]).filter (fun a => a.2.1.gathered)).map (fun a => (a.1, a.2.1.offset, a.2.1.length))
  match s.backRanges (gathered ++ s.outRanges c) with
  | none => none
  | some s1 =>
    let id := s.peer.opId seq
    let posted := (s.peer.earlyPosts.filter (fun p => p.2 == id)).map (·.1)
    let env := if mode = 2 then (s1.ownEnvelopes c).foldl (fun t l => joinEnv t l.1 l.2.1 l.2.2.1 l.2.2.2) [] else []
    let o : GroupOp := {
      uid := c.uid, seq := seq, mode := mode, posted := posted, tiles := [], envelopes := env, rows := [], rowSrcs := [],
      envSrcs := [], mismatched := [], lastMsg := s.time.now, timeout := c.progress * 1000000 }
    let s2 := s1.modPeer (fun p => { p with ops := p.ops ++ [o], earlyPosts := p.earlyPosts.filter (fun q => q.2 != id) })
    let s3 := s2.sendAll msgPost id 0 []
    some (posted.foldl (fun s j => s.sendShare c o j) s3)

end Sys2Proof.Machine
end

