-- ==== Sys2Proof/Machine/Fetch.lean ====
section
/-! DEFINITION. Fetching a KCI command (R352, R354, R372, R402): its checks in their order, the start of its work once its
fence and its event allow (R376, R377), and the drive's settling after anything that may unblock a command. -/

namespace Sys2Proof.Machine

/-! ### The checks at fetch (R402) -/

/-- A data access of a command: handle, offset, length, and whether it writes. -/
structure Access where
  handle : Nat
  off : Nat
  len : Nat
  write : Bool
  deriving DecidableEq, Repr

/-- The data accesses that a command names (R358, R390). -/
def State.accesses (s : State) (c : Cmd) : List Access :=
  match c.body with
  | .copyIn h o _ n _ _ => [⟨h, o, n, true⟩]
  | .copyOut h o _ n _ => [⟨h, o, n, false⟩]
  | .copy a b ao bo n _ => [⟨a, ao, n, false⟩, ⟨b, bo, n, true⟩]
  | .indexSeal h => [⟨h, 0, 0, false⟩, ⟨h, 0, 0, true⟩]
  | .search i q o nq k np _ _ _ qo oo _ _ =>
    let head := match s.handleObj c.e.ctx i with
      | some (_, x) => leNat (x.read 8 2) * (if leNat (x.read 7 1) = 2 then 2 else 1)
      | none => 0
    [⟨i, 0, 0, false⟩, ⟨q, qo, nq * head, false⟩, ⟨o, oo, nq * searchStride k np, true⟩]
  | .run p _ _ _ _ args _ =>
    match s.handleObj c.e.ctx p with
    | none => []
    | some (_, x) => args.flatMap (fun a => match x.slotOf a.slot with
      | none => [⟨a.handle, a.offset, a.length, false⟩]
      | some d => if d.role = 2 ∨ d.role = 5 then [⟨a.handle, a.offset, a.length, true⟩]
        else if a.gathered then [⟨a.handle, a.offset, a.length, false⟩, ⟨a.handle, a.offset, a.length, true⟩]
        else [⟨a.handle, a.offset, a.length, false⟩])
  | _ => []

/-- A handle is LIVE (R363). -/
def State.isLive (s : State) (ctx h : Nat) : Bool :=
  match tfind (s.ctx ctx).handles h with
  | some m => !m.draining && (s.obj? m.obj).isSome
  | none => false

/-- R372, in its order: queue, identifier, events; 0 when none fails. -/
def State.entryCheck (s : State) (c : Cmd) : Option Nat :=
  let op := bodyOpcode c.body
  let x := s.ctx c.e.ctx
  if isSearch c.body ∧ c.e.queue = 9 then some stClassDenied
  else if opInQueue op c.e.queue = false then some stInvalidField
  else if (s.pendingOf c.e.ctx).any (fun d => d.e.queue == c.e.queue && d.e.cid == c.e.cid) then some stInvalidField
  else if (c.e.wait = true ∧ (tfind x.events c.e.waitEvent).isNone) ∨ (c.e.signal = true ∧ (tfind x.events c.e.signalEvent).isNone) then
    some stInvalidField
  else none

/-- Handle state, range, closed stacks and rights, in that order, with the device address of the access (R402). -/
def State.accessCheck (s : State) (c : Cmd) : Option (Nat × Nat) :=
  let ctx := c.e.ctx
  let acc := s.accesses c
  let addr (a : Access) : Nat := match s.handleObj ctx a.handle with | some (m, _) => m.base + a.off | none => a.off
  let bad (f : Access → HandleSt → ObjectSt → Bool) : Option Access :=
    acc.find? (fun a => match s.handleObj ctx a.handle with | some (m, x) => f a m x | none => false)
  match (bodyHandles c.body).find? (fun h => !s.isLive ctx h) with
  | some h => some (stMemUnmapped, (match tfind (s.ctx ctx).handles h with | some m => m.base | none => 0))
  | none => match bad (fun a _ x => decide (x.size < a.off + a.len)) with
    | some a => some (stMemUnmapped, addr a)
    | none => match bad (fun a _ x => decide (0 < a.len) && x.closed a.off a.len) with
      | some a => some (stClosedStacks, addr a)
      | none =>
        let prog := match c.body with
          | .run p .. => (match s.handleObj ctx p with | some (m, x) => if bit m.rights 2 && x.kind == 3 then none else some m.base | none => none)
          | _ => none
        match prog with
        | some b => some (stMemProtection, b)
        | none => (bad (fun a m _ => !(if a.write then bit m.rights 1 else bit m.rights 0))).map (fun a => (stMemProtection, addr a))

/-- R390, R391: the fields of a copy. -/
def copyFields (len layout : Nat) (typed : Bool) : Bool := decide (1 ≤ len) && (!typed || decide (bits layout 31 28 ≤ 7))

/-- R218: a filter term uses no reserved operation and lies within the word. -/
def termOk (t : FilterTerm) : Bool := decide (t.op ≤ 5 ∧ t.group ≤ 1 ∧ 1 ≤ t.width ∧ t.low + t.width ≤ 64)

/-- R394: the fields of a RUN, and that the program's plan fits its arguments (R401). -/
def State.runFields (s : State) (c : Cmd) : Bool :=
  match c.body with
  | .run p nargs mode seq block args plan =>
    match s.handleObj c.e.ctx p with
    | none => false
    | some (_, x) =>
      let slots : List Nat := match x.prog with | some q => q.slots.map (fun d => d.slot) | none => []
      let arrays := 2 * (s.homeParts (s.ctx c.e.ctx).partition).length
      decide (1 ≤ nargs ∧ nargs ≤ 32) && decide (mode ≤ 2) && block % 32 == 0 && decide ((args.map (·.slot)).Nodup) &&
        slots.all (fun n => args.any (fun a => a.slot == n)) && args.all (fun a => slots.contains a.slot) &&
        args.all (fun a => match x.slotOf a.slot, s.handleObj c.e.ctx a.handle with
          | some d, some (_, y) =>
            let ten := argTensor a d
            decide (1 ≤ a.rows) && (!a.gathered || (mode == 1 && d.mayGather)) &&
              (if d.role = 5 then decide (24768 * 1024 * arrays ≤ a.length)
               else if d.kvfmt ≠ 0 then kvFmtOf y.word == d.kvfmt && a.length == (ten.rowBytes 0 a.rows).2 && d.rowLen == y.kvD
               else a.length == ten.bytes)
          | _, _ => false) &&
        (mode != 1 || args.any (·.gathered)) &&
        (mode != 2 || args.any (fun a => match x.slotOf a.slot with | some d => d.role == 2 | none => false)) &&
        (mode == 0 || !s.peer.ops.any (fun o => o.seq == seq)) && !plan.isEmpty && plan.all (fun t => s.tileOk c t)
  | _ => true

/-- R395, Table 9-5: the parameters of a SEARCH. -/
def State.searchFields (s : State) (c : Cmd) : Bool :=
  match s.searchArgs c, c.body with
  | some a, .search _ _ _ nq k np f r nt _ _ filters terms =>
    let h := a.ix.head
    a.ix.kind == 2 && decide (1 ≤ nq ∧ nq ≤ 8) && decide (1 ≤ k ∧ k ≤ 1024) && decide (1 ≤ np ∧ np ≤ min 4096 h.nlist) &&
      decide (1 ≤ f ∧ f ≤ 16) && (bit r 0 || f == 1) && (!bit r 0 || h.vecOff != 0) && decide (nt ≤ 8) && filters % 16 == 0 &&
      terms.all termOk
  | _, _ => false

/-- The remaining field checks and the preconditions that have codes of their own (R184, R212, R288, R394, R404). -/
def State.fieldCheck (s : State) (c : Cmd) : Option Nat :=
  let ctx := c.e.ctx
  match c.body with
  | .copyIn _ _ _ n l _ => if copyFields n l true then none else some stInvalidField
  | .copyOut _ _ _ n _ => if copyFields n 0 false then none else some stInvalidField
  | .copy _ _ _ _ n l => if copyFields n l true then none else some stInvalidField
  | .run p _ mode _ _ _ _ =>
    if c.cls = 0 ∧ s.hasLatency c = false then some stClassDenied
    else if s.runFields c = false then some stInvalidField
    else if mode ≠ 0 ∧ (s.peer.group = 0 ∨ s.peer.bindValid = false ∨ s.peer.bindCtx ≠ ctx) then some stPeerNotBound
    else if mode ≠ 0 ∧ s.peer.group = 3 then some stPeerLost
    else if (s.argsWith c [0, 1, 3, 4]).any (fun a => match s.obj? a.1 with | some x => x.mark | none => false) then some stLostAtPowerFail
    else if (match s.handleObj ctx p with | some (_, x) => (match x.prog with | some q => q.damaged | none => false) | none => false) then some stStorageMedia
    else none
  | .search .. =>
    match s.searchArgs c with
    | none => some stInvalidField
    | some a =>
      if ((s.homeParts (s.ctx ctx).partition).contains a.ix.part) = false then some stWrongPartition
      else if a.ix.kind = 2 ∧ a.ix.isSealed = false then some stIndexStale
      else if s.searchFields c = false then some stInvalidField
      else if a.ix.mark ∨ a.qx.mark then some stLostAtPowerFail
      else none
  | _ => none

/-- R421: a command that needs the die whose recovery failed. -/
def State.needsFailed (s : State) (c : Cmd) : Bool :=
  s.power.failed && s.power.recovering.any (fun d => (decide (d = 3) && isSearch c.body) ||
    (s.accesses c).any (fun a => match s.handleObj c.e.ctx a.handle with
      | some (_, x) => x.needs a.off a.len d || (decide (d = 3) && a.write && homeTier x.word == 2)
      | none => false))

/-- R402: the first cause that ends a command at fetch: its status, and the address when it is a violation. -/
def State.kciCheck (s : State) (c : Cmd) : Option (Nat × Nat) :=
  match s.entryCheck c with
  | some st => some (st, 0)
  | none =>
    if (isCompute c.body ∧ s.noArrays (s.ctx c.e.ctx).partition) ∨ s.needsFailed c then some (stInternal, 0)
    else match s.accessCheck c with
    | some r => some r
    | none => (s.fieldCheck c).map (fun st => (st, 0))

/-! ### The start of a command's work -/

/-- Passes of class-0 commands of a partition still to start on an array (R197). -/
def State.class0Load (s : State) (part a : Nat) : Nat :=
  ((s.cmds.filter (fun c => c.cls == 0 && c.status.isNone && (s.ctx c.e.ctx).partition == part)).map (fun c =>
    (c.tiles.map (fun t => if t.finished || t.array != a then 0 else if t.began then t.todo.length else t.plan.passes.length)).sum)).sum

/-- R197: the array of a new class-0 command: not gone, with fewer class-0 passes to start, An when equal. -/
def State.class0Array (s : State) (part : Nat) : Nat :=
  let b := part + 8
  if s.arrayGone part then b
  else if s.arrayGone b then part
  else if s.class0Load part b < s.class0Load part part then b else part

/-- R38, R164, R277: is every page that a command names in T0 or T1, and its program loaded? -/
def State.isResident (s : State) (c : Cmd) : Bool :=
  (s.accesses c).all (fun a => match s.handleObj c.e.ctx a.handle with
    | some (_, x) => (pagesOf a.off a.len).all (fun p => match tfind x.pageTab p with | some q => q.tier != 2 | none => !a.write)
    | none => true) &&
  (match c.body with
   | .run p .. => (match s.handleObj c.e.ctx p with
     | some (_, x) => (match x.prog with | some q => q.loaded | none => false)
     | none => false)
   | _ => true)

/-- R393: the tiles of a RUN on the arrays of its partition or set; a class-0 command takes one array (R197). -/
def State.startRun (s : State) (c : Cmd) (mode seq : Nat) (plan : List TilePlan) : BodyOut :=
  let part := (s.ctx c.e.ctx).partition
  let ps := s.homeParts part
  let excl := (s.part part).state == 2
  let where' (t : TilePlan) : Nat := if c.cls = 0 ∧ excl = false then s.class0Array part else s.arrayFor ps t.arr
  let tiles := plan.map (fun t => TileSt.fresh t (where' t))
  let s0 := if c.cls = 0 then (s.backRanges (s.outRanges c)).getD s else s
  let s1 := s0.modCmd c.uid (fun c => { c with tiles := tiles, st := .queued, queuedAt := s.time.now })
  match s1.cmd? c.uid with
  | none => (s1, none)
  | some c1 =>
    let s2 := s1.modCmd c.uid (fun c => { c with resident := s1.isResident c1 })
    if mode = 0 then (s2, none)
    else match s2.startOp c1 mode seq with
    | some s3 => (s3, none)
    | none => (s2, some (stTierFull, 0, 0xFFFFFFFF))

/-- R210, R220: a search starts and waits in QUEUED for its merger slots. -/
def State.startSearch (s : State) (c : Cmd) : BodyOut :=
  match s.searchArgs c with
  | none => ends s stMemUnmapped
  | some a =>
    if a.ix.isSealed = false then ends s stIndexStale
    else
      let x : SearchSt := { sealGen := a.ix.head.gen, queries := List.replicate a.nq QuerySt.fresh }
      (s.modCmd c.uid (fun c => { c with st := .queued, queuedAt := s.time.now, search := some x }), none)

/-- The work of a command whose fence and event allow it. -/
def State.startBody (s0 : State) (c : Cmd) : BodyOut :=
  let s := s0.modCmd c.uid (fun c => { c with st := .holding })
  let ctx := c.e.ctx
  match c.body with
  | .queueCreate q cls n v sq cq co => doQueueCreate s ctx q cls n v sq cq co
  | .queueDestroy q => doQueueDestroy s ctx q
  | .objCreate o n w k h l p d => doObjCreate s ctx o n w k h l p d
  | .objOpen o r => doObjOpen s ctx o r
  | .objShare h g r => doObjShare s ctx h g r
  | .objUnshare h g => doObjUnshare s ctx h g
  | .objRetain h => doObjRetain s ctx h
  | .objRelease h d => doObjRelease s ctx h d
  | .objPlace h w => doObjPlace s ctx h w
  | .objQuery h b => doObjQuery s ctx h b
  | .eventCreate e v => doEventCreate s ctx e v
  | .eventDestroy e => doEventDestroy s ctx e
  | .eventClear e => doEventClear s ctx e
  | .programInstall o a n img => doInstall s c.uid ctx o a n img
  | .priority q cls i => doPriority s c.uid ctx q cls i
  | .jobEnd => doJobEnd s ctx
  | .copyIn h o _ _ l data => doCopyIn s c.uid ctx h o l data
  | .copyOut h o host n _ => doCopyOut s ctx h o host n
  | .copy a b ao bo n l => doCopy s c.uid ctx a b ao bo n l
  | .nop => ends s stSuccess
  | .run _ _ mode seq _ _ plan => s.startRun c mode seq plan
  | .search .. => s.startSearch c
  | .indexSeal h => doIndexSeal s c.uid ctx h

/-- Put a body's answer into effect: a status concludes the command, and a violation faults its context (R365). -/
def State.finishBody (c : Cmd) (r : BodyOut) : State :=
  match r with
  | (s, none) => s
  | (s, some (st, d0, d1)) =>
    let s1 := s.conclude c.uid st d0 d1
    if isViolation st then s1.faultCtx c.e.ctx clsMemory 0 st c.e.queue c.e.cid else s1

/-! ### Fences, events, and settling (R376, R377) -/

/-- Commands of the same queue fetched before a command. -/
def earlier (c : Cmd) (cs : List Cmd) : List Cmd :=
  (cs.takeWhile (fun d => d.uid != c.uid)).filter (fun d => d.e.ctx == c.e.ctx && d.e.queue == c.e.queue)

/-- R376: every earlier fetched command of the queue is DONE. -/
def State.fenceClear (s : State) (c : Cmd) : Bool := !c.e.fence || (earlier c s.cmds).isEmpty

/-- The event that a command waits on: whether its threshold is reached, and its error flag. -/
def State.waitState (s : State) (c : Cmd) : Bool × Bool :=
  if c.e.wait then
    match tfind (s.ctx c.e.ctx).events c.e.waitEvent with
    | some v => (decide (c.e.threshold ≤ v.value), v.err)
    | none => (false, false)
  else (true, false)

/-- Table 12-3: a group operation waits in BLOCKED while the group forms. -/
def State.groupReady (s : State) (c : Cmd) : Bool :=
  match c.body with
  | .run _ _ mode _ _ _ _ => mode == 0 || s.peer.group != 1
  | _ => true

/-- A command other than a RUN waits while a die that it needs is in recovery (Table 16-5); a RUN waits tile by tile. -/
def State.diesUp (s : State) (c : Cmd) : Bool :=
  s.power.failed || isRun c.body || s.power.recovering.all (fun d => !(decide (d = 3) && isSearch c.body) && (s.accesses c).all (fun a =>
    match s.handleObj c.e.ctx a.handle with | some (_, x) => !x.needs a.off a.len d | none => true))

/-- May a blocked command leave BLOCKED now, to run or to end with EVENT_ERRORED? -/
def State.unblocked (s : State) (c : Cmd) : Bool :=
  decide (c.st = .blocked) && c.status.isNone && s.fenceClear c && ((s.waitState c).1 || (s.waitState c).2) && s.groupReady c && s.diesUp c

/-- A QUEUE_DESTROY or JOB_END whose wait is over (R355, R389). -/
def State.waitOver (s : State) (c : Cmd) : Bool :=
  c.status.isNone && decide (c.st = .holding) && (match c.body with
    | .queueDestroy q => !(s.pendingOf c.e.ctx).any (fun d => d.e.queue == q && d.uid != c.uid)
    | .jobEnd => (s.pendingOf c.e.ctx).all (fun d => d.uid == c.uid)
    | _ => false)

/-- Let the oldest command that can move do so. -/
def State.settleOne (s : State) : Option State :=
  match s.cmds.find? (fun c => s.unblocked c) with
  | some c =>
    if (s.waitState c).1 then some (State.finishBody c (s.startBody c))
    else some (s.conclude c.uid stEventErrored 0 c.dw1)
  | none => match s.cmds.find? (fun c => s.waitOver c) with
    | some c =>
      let s1 := match c.body with
        | .queueDestroy q => s.dropQueue c.e.ctx q
        | _ => s
      some (s1.conclude c.uid stSuccess 0 0)
    | none => none

/-- Let every command that can move do so; each round concludes or unblocks one. -/
def State.settleN : Nat → State → State
  | 0, s => s
  | n + 1, s => match s.settleOne with
    | none => s
    | some s' => State.settleN n s'

/-- The drive settles after anything that may unblock or end commands. -/
def State.settle (s : State) : State := State.settleN (2 * s.cmds.length + 2) s

/-- What a command waited for on NAND is committed: it ends, or goes on (R162). -/
def State.commitDone (s : State) (uid : Nat) : State :=
  match s.cmd? uid with
  | none => s
  | some c =>
    if c.status.isSome ∨ c.waitItems ≠ [] then s
    else match c.body with
      | .run .. => s.maybeFinish uid
      | _ => if c.st = .draining then s.conclude uid (c.ending.getD stSuccess) c.dw0 c.dw1 else s

/-! ### Fetching -/

/-- May the drive fetch from a queue now (R344, R354, R271, R352)? -/
def State.fetchable (s : State) (ctx q : Nat) : Bool :=
  s.kciOpen && (s.ctx ctx).state == 1 && decide (s.cmds.length < (if q = 9 then 2048 else 1920)) &&
    (q != 0 || !(s.pendingOf ctx).any (fun c => c.e.queue == 0)) &&
    (match tfind (s.ctx ctx).queues q with | some x => !x.closing | none => false)

/-- R372: a fetched entry that is malformed faults its context. -/
def State.checkHead (s : State) (ctx q : Nat) : State :=
  match tfind (s.ctx ctx).queues q with
  | none => s
  | some x => match x.avail with
    | [] => s
    | raw :: _ =>
      if s.fetchable ctx q ∧ malformed raw then s.faultCtx ctx clsEntry (x.sq + 64 * x.head) 0 q (leNat (slice raw 2 2)) else s

/-- The heads of every queue of a context. -/
def State.checkHeads (s : State) (ctx : Nat) : State := (List.range 9).foldl (fun s q => s.checkHead ctx q) s

/-- A command just fetched. -/
def Cmd.fresh (uid : Nat) (e : Entry) (b : Body) (cls now progress : Nat) : Cmd :=
  { uid := uid, e := e, body := b, cls := cls, fetched := now, st := .blocked, handles := [], status := none, doneSeq := 0,
    dw0 := 0, dw1 := if isRun b then 0xFFFFFFFF else 0, ending := none, queuedAt := now, aged := false, mode := none, floored := false, strict := false,
    overFail := false, seed := 0, sampleAt := 0, samplePos := 0, tiles := [], tele := Tele.reset, excRecs := 0, excUsed := 0,
    excPtr := 0, doorbell := now, progress := progress, lastTile := none, resident := false, retried := false, inDig := none, waitItems := [],
    search := none }

/-- The unfetched busy slot that was latched first, by its tag. -/
def State.slotDue (s : State) (ctx : Nat) : Option SlotSt :=
  ((s.ctx ctx).slots.filter (fun p => p.2.busy && (s.cmd? p.2.cid).isNone)).foldl
    (fun a p => match a with | none => some p.2 | some b => if p.2.cid < b.cid then some p.2 else some b) none

/-- The 64 bytes due for fetch in a queue, with the number that the command takes (a slot's tag, or a new one). -/
def State.entryDue (s : State) (ctx q : Nat) : Option (List Byte × Nat) :=
  if q = 9 then (s.slotDue ctx).map (fun x => ((List.range 64).map (fun i => tget 0 x.buf i), x.cid))
  else match tfind (s.ctx ctx).queues q with
  | some x => match x.avail with
    | raw :: _ => some (raw, s.nextId)
    | [] => none
  | none => none

/-- Take the entry out of the queue. -/
def State.takeEntry (s : State) (ctx q : Nat) : State :=
  if q = 9 then s
  else match tfind (s.ctx ctx).queues q with
  | none => s
  | some x => (s.modCtx ctx (fun c => { c with queues := tset c.queues q { x with head := (x.head + 1) % x.entries, avail := x.avail.tail } })).bump

/-- Operands of a body that must agree with each other: the lists with their counts. -/
def bodyFits : Body → Bool
  | .programInstall _ _ n img => img.length == n
  | .copyIn _ _ _ n _ data => data.length == n
  | .run _ nargs _ _ _ args _ => args.length == nargs
  | .search _ _ _ _ _ _ _ _ nt _ _ _ terms => terms.length == nt
  | _ => true

/-- R354: the class-0 command of a partition beyond the limit of 16. -/
def State.over0 (s : State) (c : Cmd) : Bool := c.cls == 0 && decide (16 ≤ s.class0Pending (s.ctx c.e.ctx).partition)

/-- Fetch the entry at the head of a queue, which spells the command (R352, R402). -/
def State.kciFetch (s : State) (e : Entry) (b : Body) : State :=
  match s.entryDue e.ctx e.queue, tfind (s.ctx e.ctx).queues e.queue with
  | some (raw, uid), some q =>
    if s.fetchable e.ctx e.queue = false ∨ raw ≠ encodeEntry e b ∨ entryFits e b = false ∨ bodyFits b = false
        ∨ (s.cmds.any (fun c => c.uid == uid)) = true then s
    else
      let c0 := Cmd.fresh uid e b (if e.queue = 0 then 1 else q.cls) s.time.now s.peer.progressTo
      let held := (bodyHandles b).filter (fun h => s.isLive e.ctx h)
      let c := { c0 with handles := held }
      let s1 := s.takeEntry e.ctx e.queue
      let s2 := s1.modCtx e.ctx (fun x => { x with handles := tmap x.handles (fun h m => if held.contains h then { m with dref := m.dref + 1 } else m) })
      let s3 := s2.modCmds (fun l => l ++ [c])
      let s4 := match e.dmaFault with
        | some a => s3.faultCtx e.ctx clsHostDma a 0 e.queue e.cid
        | none =>
          if s.over0 c then s3.conclude uid stReservation 0 c.dw1
          else match s.kciCheck c with
          | some (st, a) =>
            let s' := s3.conclude uid st 0 c.dw1
            if isViolation st then s'.faultCtx e.ctx clsMemory a st e.queue e.cid else s'
          | none => s3
      s4.settle.checkHeads e.ctx
  | _, _ => s

end Sys2Proof.Machine
end

