-- ==== Sys2Proof/Machine/Power.lean ====
section
/-! DEFINITION. Power states, core rails, thermal levels, the hold-up check and the low-power wake (chapters 2, 3, 13 and 16),
and the commands of the power and thermal family that are not resets. -/

namespace Sys2Proof.Machine

/-! ### Core rails (R55, R407-R410, R72) -/

/-- Table 3-1: the die of a timing region. -/
def regionDie (r : Nat) : Nat := if r < 16 then 0 else if r < 32 then 1 else if r < 38 then 2 else 3

/-- Table 16-2: the core-voltage cap of an operational state [mV]. -/
def capOf (ps : Nat) : Nat := [850, 800, 720, 620].getD ps 620

/-- R53, R54: does an unstretched array at `v` mV and `t16` sixteenths of a °C reach 1.00 G steps/s? -/
def reachesFloor (v : Nat) (t16 : Int) : Bool :=
  let d := (t16 - 1120).toNat
  let rate := if v ≤ 750 then 130000 + (v - 620) * 500 else 195000 + (v - 750) * 455
  decide (130000 * 160000 ≤ rate * (160000 - 15 * d))

/-- R55: the lowest voltage on the 5 mV grid that keeps the floor. -/
def floorVolt (t16 : Int) : Nat := (((List.range 47).map (fun k => 620 + 5 * k)).find? (fun v => reachesFloor v t16)).getD 850

/-- R55: the temperature allowance, half a mV per °C above 70 °C rounded up to 5 mV. -/
def allowance (t16 : Int) : Nat := ((t16 - 1120).toNat + 159) / 160 * 5

/-- The hottest of a list of temperatures. -/
def hottest (ts : List Int) : Int := ts.foldl max (ts.headD 0)

/-- The hottest array region of a die. -/
def State.dieTemp (s : State) (d : Nat) : Int :=
  if d = 0 then hottest ((List.range 8).map (fun r => (s.region r).tj))
  else if d = 1 then hottest ((List.range 8).map (fun r => (s.region (r + 16)).tj))
  else 0

/-- The hottest junction of the drive. -/
def State.maxTj (s : State) : Int := hottest ((List.range 42).map (fun r => (s.region r).tj))

/-- The hottest NAND package. -/
def State.maxTn (s : State) : Int := hottest ((List.range 32).map (fun k => tget 0 s.power.tn k))

/-- The voltage below which a rail never falls in an operational state, within the allowance (R55, R408). -/
def State.railFloor (s : State) (d : Nat) : Nat :=
  let t := s.dieTemp d
  min (floorVolt t) (capOf s.power.pstate + allowance t)

/-- The highest voltage of a rail in the state in force: the cap, lowered by the throttle (Table 16-3), raised where the
rate floor needs it. -/
def State.railCap (s : State) (d : Nat) : Nat :=
  let cut := if 1 ≤ s.power.thermal then ((s.maxTj - 1520).toNat * 10 + 15) / 16 else 0
  max ((capOf s.power.pstate - cut) / 5 * 5) (s.railFloor d)

/-- Set the target of every rail. -/
def State.modRails (s : State) (f : Nat → Rail → Rail) : State :=
  s.modPower (fun p => { p with rails := (List.range 4).map (fun d => (d, f d (tget { cur := 0, target := 0 } p.rails d))) })

/-- R407, R410: the targets of a power state. Retention names only M0 and M1. -/
def State.retarget (s : State) : State :=
  s.modRails (fun d r =>
    if 4 ≤ s.power.pstate then (if d < 2 then { r with target := 550 } else r) else { r with target := s.railCap d })

/-- Bring the targets within the cap and above the floor after a change of temperature. -/
def State.reclamp (s : State) : State :=
  if 4 ≤ s.power.pstate then s
  else s.modRails (fun d r => { r with target := max (min r.target (s.railCap d)) (s.railFloor d) })

/-- R408: above the state's maximum every rail falls by one step, else it rises by one up to its cap (assumption log 21). -/
def State.regulate (s : State) : State :=
  if 4 ≤ s.power.pstate then s
  else s.modRails (fun d r => { r with target := if s.overPower then max (r.target - 5) (s.railFloor d) else min (r.target + 5) (s.railCap d) })

/-- R72: a region asks its die for 5 mV more; a request at the cap is refused and counted. -/
def State.askVolt (s : State) (r : Nat) : State :=
  let d := regionDie r
  let t := tget { cur := 0, target := 0 } s.power.rails d
  if t.target + 5 ≤ s.railCap d ∧ s.power.pstate ≤ 3 then
    s.modPower (fun p => { p with rails := tset p.rails d { t with target := t.target + 5 } })
  else s.modRegion r (fun x => { x with refused := satAdd 32 x.refused 1 })

/-- VOLTAGE_RAMP_STEP (R409): every rail moves one 5 mV step toward its target. -/
def stepRail (r : Rail) : Rail :=
  if r.cur < r.target then { r with cur := min (r.cur + 5) r.target }
  else if r.target < r.cur then { r with cur := max (r.cur - 5) r.target }
  else r

def execVoltageRampStep (s : State) : Host.Outcome State Fault Refusal :=
  .next (if s.live then s.modPower (fun p => { p with rails := tmap p.rails (fun _ r => stepRail r) }) else s)

/-! ### Power states (R334-R338) -/

/-- Put a power state in force. -/
def State.setPstate (s : State) (ps : Nat) : State :=
  (s.modPower (fun p => { p with pstate := ps, lastOp := if ps ≤ 3 then ps else p.lastOp, lowPending := none })).retarget

/-- R337: a doorbell or an admin command ends a low-power state or an entry into one, and restarts the idle timer (R338). -/
def State.wake (s : State) : State :=
  let s1 := s.modNvme (fun n => { n with idleSince := s.time.now })
  if 4 ≤ s.power.pstate then s1.setPstate s.power.lastOp
  else s1.modPower (fun p => { p with lowPending := none })

def execLowPowerWake (s : State) : Host.Outcome State Fault Refusal :=
  .next (if s.live ∧ 4 ≤ s.power.pstate then s.setPstate s.power.lastOp else s)

/-! ### Thermal levels (R411, R412) -/

/-- A THERMAL record (Table 17-2). -/
def State.logThermal (s : State) (addr : Nat) : State :=
  s.logErr { cls := 0x50, kind := 2, addr := addr, detail := s.power.thermal }

/-- The level that the entered levels make. -/
def PowerSt.level (p : PowerSt) : Nat := if p.critical then 3 else if p.emergency then 2 else if p.throttled then 1 else 0

/-- Bring the level up to date: a rise from none counts a transition, each rise is logged for a place, and the SMART warning
is posted. -/
def State.relevel (s : State) (addr : Nat) : State :=
  let l := s.power.level
  let old := s.power.thermal
  let s1 := s.modPower (fun p => { p with thermal := l, tm1 := if old = 0 ∧ 0 < l then satAdd 32 p.tm1 1 else p.tm1 })
  let s2 := if old < l then s1.logThermal addr else s1
  (State.noteCritical s s2).reclamp

/-- Start or stop a timer of a condition. -/
def timer (cond : Bool) (now : Nat) (t : Option Nat) : Option Nat := if cond then some (t.getD now) else none

/-- A timer has run for a time. -/
def ran (t : Option Nat) (now ns : Nat) : Bool := match t with | some x => decide (x + ns ≤ now) | none => false

/-- An array region that holds a tile below the rate floor at its last refresh (R56). -/
def State.breaching (s : State) : Bool :=
  (List.range 16).any (fun a => !(s.arr a).slots.isEmpty && decide (0 < (s.region (arrRegion a)).monRate ∧ (s.region (arrRegion a)).monRate < 1000))

/-- THERMAL_SAMPLE (R411): temperatures in 1/16 °C; a hotter level is entered at once. -/
def execThermalSample (tj tn : List Int) (s : State) : Host.Outcome State Fault Refusal :=
  if s.live = false then .next s
  else
    let s1 := s.modTime (fun t => { t with regions := (List.range 42).foldl (fun rs r => tmod Region.reset rs r (fun x => { x with tj := tj.getD r x.tj })) t.regions })
    let s2 := s1.modPower (fun p => { p with tn := (List.range 32).map (fun k => (k, tn.getD k (tget 0 p.tn k))) })
    let j := s2.maxTj
    let n := s2.maxTn
    let now := s.time.now
    let s3 := s2.modPower (fun p =>
      let hot := timer (decide (1840 ≤ j)) now p.hotSince
      let p1 := { p with
        hotSince := hot, throttled := p.throttled || decide (1520 ≤ j),
        emergency := p.emergency || decide (1680 ≤ j ∨ 1360 ≤ n) || s2.breaching,
        critical := (p.critical && !decide (j ≤ 1600 ∧ n ≤ 1280)) || ran hot now 1000000 || decide (1440 ≤ n) }
      { p1 with
        calmSince := timer (decide (j ≤ 1440)) now p.calmSince,
        coolSince := timer (decide (j ≤ 1600 ∧ n ≤ 1280) && !s2.breaching) now p.coolSince })
    let place := (((List.range 42).find? (fun r => (s2.region r).tj == j)).getD 0)
    let pack := (((List.range 32).find? (fun k => tget 0 s2.power.tn k == n)).getD 0)
    .next (s3.relevel (if 1520 ≤ j then place else pack))

/-- THERMAL_LEVEL_EXIT (R411): the levels whose leave condition has held for 100 ms are left. -/
def execThermalLevelExit (s : State) : Host.Outcome State Fault Refusal :=
  let now := s.time.now
  if s.live then
    .next ((s.modPower (fun p =>
      let e := p.emergency && !(!p.critical && ran p.coolSince now 100000000)
      { p with emergency := e, throttled := p.throttled && (e || p.critical || !ran p.calmSince now 100000000) })).relevel 0)
  else .next s

/-! ### The hold-up bank (R34, R429) -/

/-- R429: C_b = 4 W × Δt / 136 V² in µF for Δt in µs. -/
def bankCap (dtUs : Nat) : Nat := 4 * dtUs / 136

/-- R429: 0.9 × ½ × C_b × 1,081 V² in mJ, of C_b = 4 Δt / 136. -/
def bankEnergy (dtUs : Nat) : Nat := 9 * 1081 * 4 * dtUs / (20 * 136 * 1000)

/-- Start a check unless one runs. -/
def State.startCheck (s : State) : State := if s.power.checkRunning then s else s.modPower (fun p => { p with checkRunning := true })

def execHoldupCheck (s : State) : Host.Outcome State Fault Refusal := .next (if s.live then s.startCheck else s)

/-- HOLDUP_CHECK_DONE (R34): below 320 mJ the bank has failed: bit 4 of the SMART warning, its event, and a POWER record. -/
def execHoldupCheckDone (dtUs : Nat) (s : State) : Host.Outcome State Fault Refusal :=
  if s.live = true ∧ s.power.checkRunning = true then
    let bad := decide (9 * 1081 * 4 * dtUs < 320 * 20 * 136 * 1000)
    let s1 := s.modPower (fun p => { p with
      checkRunning := false, checkDone := true, bankFailed := bad, holdCap := min (bankCap dtUs) 65535,
      holdEnergy := min (bankEnergy dtUs) 65535 })
    let s2 := if bad then s1.logErr { cls := 0x51, kind := 2, detail := min (bankEnergy dtUs) 65535 } else s1
    .next (State.noteCritical s s2)
  else .next s

/-- PWR_HOLDUP_CHECK.START (Table 18-4). -/
def execPwrHoldupCheckStart (value : BitVec 32) (s : State) : Host.Outcome State Fault Refusal :=
  .next (if s.globalOpen = true ∧ bit value.toNat 0 = true then s.startCheck else s)

end Sys2Proof.Machine
end

