-- ==== Sys2Proof/Machine/Compute.lean ====
section
/-! DEFINITION. The commands of KCI (chapter 15), of the pass pick and the passes (chapters 4 to 6 and 8), and the posting
of completions. Each KCI command is the fetch of the entry that spells it. -/

namespace Sys2Proof.Machine

/-! ### The KCI commands -/

def execQueueCreate (e : Entry) (queue cls entries vector sq cq colo : Nat) (s : State) : Host.Outcome State Fault Refusal :=
  .next (s.kciFetch e (.queueCreate queue cls entries vector sq cq colo))

def execQueueDestroy (e : Entry) (queue : Nat) (s : State) : Host.Outcome State Fault Refusal :=
  .next (s.kciFetch e (.queueDestroy queue))

def execObjCreate (e : Entry) (oid pages word kind h l p d : Nat) (s : State) : Host.Outcome State Fault Refusal :=
  .next (s.kciFetch e (.objCreate oid pages word kind h l p d))

def execObjOpen (e : Entry) (oid rights : Nat) (s : State) : Host.Outcome State Fault Refusal :=
  .next (s.kciFetch e (.objOpen oid rights))

def execObjShare (e : Entry) (handle grantee rights : Nat) (s : State) : Host.Outcome State Fault Refusal :=
  .next (s.kciFetch e (.objShare handle grantee rights))

def execObjUnshare (e : Entry) (handle grantee : Nat) (s : State) : Host.Outcome State Fault Refusal :=
  .next (s.kciFetch e (.objUnshare handle grantee))

def execObjRetain (e : Entry) (handle : Nat) (s : State) : Host.Outcome State Fault Refusal :=
  .next (s.kciFetch e (.objRetain handle))

def execObjRelease (e : Entry) (handle : Nat) (destroy : Bool) (s : State) : Host.Outcome State Fault Refusal :=
  .next (s.kciFetch e (.objRelease handle destroy))

def execObjPlace (e : Entry) (handle word : Nat) (s : State) : Host.Outcome State Fault Refusal :=
  .next (s.kciFetch e (.objPlace handle word))

def execObjQuery (e : Entry) (handle buf : Nat) (s : State) : Host.Outcome State Fault Refusal :=
  .next (s.kciFetch e (.objQuery handle buf))

def execEventCreate (e : Entry) (event value : Nat) (s : State) : Host.Outcome State Fault Refusal :=
  .next (s.kciFetch e (.eventCreate event value))

def execEventDestroy (e : Entry) (event : Nat) (s : State) : Host.Outcome State Fault Refusal :=
  .next (s.kciFetch e (.eventDestroy event))

def execEventClear (e : Entry) (event : Nat) (s : State) : Host.Outcome State Fault Refusal :=
  .next (s.kciFetch e (.eventClear event))

def execProgramInstall (e : Entry) (oid addr length : Nat) (image : List Byte) (s : State) : Host.Outcome State Fault Refusal :=
  .next (s.kciFetch e (.programInstall oid addr length image))

def execPriority (e : Entry) (queue cls cid : Nat) (s : State) : Host.Outcome State Fault Refusal :=
  .next (s.kciFetch e (.priority queue cls cid))

def execJobEnd (e : Entry) (s : State) : Host.Outcome State Fault Refusal := .next (s.kciFetch e .jobEnd)

def execCopyIn (e : Entry) (handle off host length layout : Nat) (data : List Byte) (s : State) : Host.Outcome State Fault Refusal :=
  .next (s.kciFetch e (.copyIn handle off host length layout data))

def execCopyOut (e : Entry) (handle off host length layout : Nat) (s : State) : Host.Outcome State Fault Refusal :=
  .next (s.kciFetch e (.copyOut handle off host length layout))

def execCopy (e : Entry) (src dst soff doff length layout : Nat) (s : State) : Host.Outcome State Fault Refusal :=
  .next (s.kciFetch e (.copy src dst soff doff length layout))

def execNop (e : Entry) (s : State) : Host.Outcome State Fault Refusal := .next (s.kciFetch e .nop)

def execRun (e : Entry) (prog nargs mode seq block : Nat) (args : List ArgEntry) (plan : List TilePlan) (s : State) :
    Host.Outcome State Fault Refusal :=
  .next (s.kciFetch e (.run prog nargs mode seq block args plan))

def execSearch (e : Entry) (index query output nq k nprobe f rerank nterms qoff ooff filters : Nat) (terms : List FilterTerm)
    (s : State) : Host.Outcome State Fault Refusal :=
  .next (s.kciFetch e (.search index query output nq k nprobe f rerank nterms qoff ooff filters terms))

def execIndexSeal (e : Entry) (handle : Nat) (s : State) : Host.Outcome State Fault Refusal :=
  .next (s.kciFetch e (.indexSeal handle))

/-! ### Picks and passes -/

/-- The queues of every context are looked at again after something ended a command (R354, R372). -/
def State.recheck (s : State) : State := s.ctxs.foldl (fun s c => s.checkHeads c.1) s

def execPassPick (array : Nat) (s : State) : Host.Outcome State Fault Refusal :=
  .next (if s.live ∧ array < 16 then (s.pick array).settle.recheck else s)

/-- COMMAND_AGED (R190). -/
def execCommandAged (uid : Nat) (s : State) : Host.Outcome State Fault Refusal :=
  match s.cmd? uid with
  | none => .next s
  | some c =>
    .next (if s.live = true ∧ c.st = .queued ∧ c.cls ≠ 0 ∧ c.queuedAt + 50000000 ≤ s.time.now then
      s.modCmd uid (fun c => { c with aged := true }) else s)

/-- RESERVATION_WINDOW_BOUNDARY (R193, R457): a new aligned window; the charges start again and the new reservation holds. -/
def execReservationWindowBoundary (s : State) : Host.Outcome State Fault Refusal :=
  let w := s.time.now / 1000000 * 1000000
  if s.time.window < w then
    .next { s with
            time := { s.time with window := w }
            arrays := tmap s.arrays (fun _ a => { a with charge := 0, used13 := 0 })
            parts := tmap s.parts (fun _ p => { p with resv := p.resvNext }) }
  else .next s

/-- PASS_ENTRY (R86): the staged pass of an array in service enters it. -/
def execPassEntry (array rate : Nat) (s : State) : Host.Outcome State Fault Refusal :=
  .next (if s.passesAllowed ∧ (s.arr array).state = 0 ∧ 0 < rate ∧ s.power.recovering.contains (arrDie array) = false then
    s.enter array rate else s)

def execPassEnd (array : Nat) (errs : List PassError) (idle : Nat) (s : State) : Host.Outcome State Fault Refusal :=
  .next (if s.live then (s.endPass array errs idle).settle.recheck else s)

def execRowVerdict (array pass row : Nat) (s : State) : Host.Outcome State Fault Refusal :=
  .next (if s.live then (s.rowVerdict array pass row).settle.recheck else s)

def execColumnVerdict (array pass : Nat) (s : State) : Host.Outcome State Fault Refusal :=
  .next (if s.live then (s.columnVerdict array pass).settle.recheck else s)

def execRowDrain (array uid tile row mismatch ecc : Nat) (s : State) : Host.Outcome State Fault Refusal :=
  .next (if s.live then (s.drainRow array uid tile row mismatch ecc).settle.recheck else s)

/-! ### Completions -/

/-- A completion that cannot be written enters the abort list with reason 5, and the context faults (R366). -/
def State.unwritable (s : State) (c : Cmd) (addr : Nat) : State :=
  let s1 := s.abortAdd c.e.ctx [s.kciAbort 5 c]
  let s2 := ((s1.loseCmds [c]).freeSlot c).dropRefs c
  s2.faultCtx c.e.ctx clsHostDma addr 0 c.e.queue c.e.cid

/-- COMPLETION_POST (R352, R373): the next concluded command of a queue is posted while its ring has a free entry. -/
def execCompletionPost (ctx queue : Nat) (dmaFault : Option Nat) (s : State) : Host.Outcome State Fault Refusal :=
  match s.nextPost ctx queue, tfind (s.ctx ctx).queues queue with
  | some c, some q =>
    if s.kciOpen = false ∨ q.full = true ∨ ((s.ctx ctx).state ≠ 1 ∧ (s.ctx ctx).state ≠ 2) then .next s
    else match dmaFault with
    | some a => .next ((s.unwritable c a).settle.recheck)
    | none => .next ((s.post c q).settle.recheck)
  | _, _ => .next s

end Sys2Proof.Machine
end

