-- ==== Sys2Proof/Machine/Contexts.lean ====
section
/-! DEFINITION. The mailbox page of a context (R344-R350, R353, R367, R368): doorbells, class-0 slots, ENABLE, RESET, the
policy; and refused register writes (R455). -/

namespace Sys2Proof.Machine

/-! ### Refused writes (R455) -/

/-- Record a refused register write: the first with its cause and offset, a further one as OVERRUN. -/
def State.refuse (s : State) (off status : Nat) : State :=
  s.modMgmt (fun m =>
    if bit m.cfgErr.toNat 31 then { m with cfgErr := m.cfgErr ||| 0x40000000 }
    else { m with cfgErr := BitVec.ofNat 32 (2 ^ 31 + status), cfgAddr := off % 2 ^ 21 })

/-! ### Doorbells (R347, R353) -/

/-- The BAR2 offset of a mailbox field in the PF's space. -/
def mailbox (ctx off : Nat) : Nat := ctx * 0x1000 + off

/-- A DOORBELL fault (Table 14-7). -/
def State.doorbellFault (s : State) (ctx queue off : Nat) : State :=
  (s.faultCtx ctx clsDoorbell (mailbox ctx off) 0 queue 0).settle

/-- A write of a submission tail: `entries` are the entries that it makes available. -/
def State.sqTail (s : State) (ctx queue tail : Nat) (entries : List (List Byte)) : State :=
  match tfind (s.ctx ctx).queues queue with
  | none => s
  | some q =>
    if (s.ctx ctx).state ≠ 1 ∨ q.closing then s
    else if q.entries ≤ tail then s.doorbellFault ctx queue (0x100 + 8 * queue)
    else if entries.length ≠ (tail + q.entries - q.tail) % q.entries ∨ (entries.any (fun e => e.length != 64)) = true then s
    else
      (s.modCtx ctx (fun c => { c with queues := tset c.queues queue { q with tail := tail, avail := q.avail ++ entries } })).checkHeads ctx

def execKciSqTail (ctx queue tail : Nat) (entries : List (List Byte)) (s : State) : Host.Outcome State Fault Refusal :=
  .next (if s.kciOpen = true ∧ ctx < 256 ∧ queue < 9 then s.wake.sqTail ctx queue tail entries else s)

/-- A write of a completion head. -/
def State.cqHeadWrite (s : State) (ctx queue head : Nat) : State :=
  match tfind (s.ctx ctx).queues queue with
  | none => s
  | some q =>
    if (s.ctx ctx).state ≠ 1 ∨ q.closing then s
    else if q.entries ≤ head then s.doorbellFault ctx queue (0x104 + 8 * queue)
    else
      let more := decide (head ≠ q.cqTail)
      let s1 := s.modCtx ctx (fun c => { c with queues := tset c.queues queue { q with cqHead := head, irq := more } })
      if more then s1.signal ctx q.vector else s1

def execKciCqHead (ctx queue head : Nat) (s : State) : Host.Outcome State Fault Refusal :=
  .next (if s.kciOpen = true ∧ ctx < 256 ∧ queue < 10 then s.wake.cqHeadWrite ctx queue head else s)

/-! ### Class-0 slots (R349) -/

/-- A write into a slot. The write that covers byte 63 latches the entry; an entry that is malformed faults the context. -/
def State.slotWrite (s : State) (ctx slot off : Nat) (data : List Byte) : State :=
  let c := s.ctx ctx
  let x := tget SlotSt.empty c.slots slot
  let ring := match tfind c.queues 9 with | some q => !q.closing | none => false
  if c.state = 3 then s
  else if x.busy ∨ ring = false then s.modCtx ctx (fun c => { c with c0Discard := satAdd 32 c.c0Discard 1 })
  else if c.state ≠ 1 then s
  else
    let buf := ((List.range data.length).zip data).foldl (fun b p => tset b (off + p.1) p.2) x.buf
    if off + data.length = 64 then
      let s1 := (s.modCtx ctx (fun c => { c with slots := tset c.slots slot { buf := buf, busy := true, cid := s.nextId } })).bump
      let raw := (List.range 64).map (fun i => tget 0 buf i)
      if malformed raw then (s1.faultCtx ctx clsEntry (mailbox ctx (0x800 + 0x40 * slot)) 0 9 (leNat (slice raw 2 2))).settle else s1
    else s.modCtx ctx (fun c => { c with slots := tset c.slots slot { x with buf := buf } })

def execClass0SlotWrite (ctx slot off : Nat) (data : List Byte) (s : State) : Host.Outcome State Fault Refusal :=
  .next (if s.kciOpen = true ∧ ctx < 256 ∧ slot < 16 ∧ data ≠ [] ∧ off + data.length ≤ 64 then s.wake.slotWrite ctx slot off data else s)

/-! ### ENABLE and RESET (R344, R345, R367, R368) -/

/-- The cause of CTX_OPEN_ERR for the control-queue registers; 0 when they are valid. -/
def Context.openCause (c : Context) (ctx : Nat) : Nat :=
  if c.ctlSq.toNat % 4096 ≠ 0 ∨ c.ctlCq.toNat % 4096 ≠ 0 then 1
  else if ringSizeOk (c.ctlSize.toNat % 65536) = false then 2
  else if vectorsOf ctx ≤ c.ctlSize.toNat / 65536 then 3
  else 0

/-- A 64-bit value of two registers. -/
def join32 (lo hi : W32) : Nat := hi.toNat * 2 ^ 32 + lo.toNat

/-- The host sets ENABLE: a CLOSED context with valid control-queue registers opens (R345). No KCI queue opens during a
sanitize, in the failed state, or beside an exclusive job. -/
def State.enableCtx (s : State) (ctx : Nat) : State :=
  let c := s.ctx ctx
  let e := c.openCause ctx
  if c.state ≠ 0 then s
  else if e ≠ 0 ∨ s.sanitizing ∨ s.power.failed ∨ s.setHeld ctx then s.modCtx ctx (fun c => { c with enable := true, openErr := e })
  else
    s.modCtx ctx (fun c => { c with
      enable := true, openErr := 0, state := 1,
      queues := [(0, QueueSt.fresh 1 (c.ctlSize.toNat % 65536) (c.ctlSize.toNat / 65536) c.ctlSq.toNat c.ctlCq.toNat 0)] })

/-- The host clears ENABLE: an orderly close, else a context reset (R345). -/
def State.disableCtx (s : State) (ctx : Nat) : State :=
  let c := s.ctx ctx
  if c.state = 0 ∨ c.state = 3 then s.modCtx ctx (fun c => { c with enable := false })
  else if c.state = 1 ∧ (c.queues.all (fun q => q.1 == 0)) = true ∧ c.handles = [] ∧ s.pendingOf ctx = [] then s.closeOrderly ctx
  else (s.modCtx ctx (fun c => { c with enable := false })).resetCtx ctx 3

def execCtxEnableSet (ctx : Nat) (s : State) : Host.Outcome State Fault Refusal :=
  .next (if s.kciOpen = true ∧ ctx < 256 then s.enableCtx ctx else s)

def execCtxEnableClear (ctx : Nat) (s : State) : Host.Outcome State Fault Refusal :=
  .next (if s.kciOpen = true ∧ ctx < 256 then s.disableCtx ctx else s)

def execCtxControlReset (ctx : Nat) (s : State) : Host.Outcome State Fault Refusal :=
  .next (if s.kciOpen = true ∧ ctx < 256 then s.resetCtx ctx 3 else s)

/-- CONTEXT_RESET_COMPLETE (R368 steps 4 to 6), once its passes have reached their last update. -/
def execContextResetComplete (ctx : Nat) (s : State) : Host.Outcome State Fault Refusal :=
  let uids := (s.pendingOf ctx).map (·.uid)
  .next (if (s.ctx ctx).state = 3 ∧ (uids.all (fun u => !s.arrays.any (fun a => a.2.inflight.any (fun r => r.uid == u)))) = true then
    ((s.closeCtx ctx).settle).recheck else s)

/-! ### CTX_POLICY (R348) -/

/-- The cause of a refused policy; 0 when it is accepted. -/
def policyCause (v : Nat) : Nat :=
  let m := bits v 31 30
  let n := bits v 27 24
  if m = 2 then 1 else if m = 3 then 2 else if (m = 1 ∧ (n < 1 ∨ 8 < n)) ∨ (m = 0 ∧ n ≠ 0) then 3 else 0

/-- A write of CTX_POLICY: whole, or refused whole. -/
def State.writePolicy (s : State) (ctx : Nat) (value : W32) : State :=
  let e := policyCause value.toNat
  if e = 0 then s.modCtx ctx (fun c => { c with policy := value &&& 0xCF000300, policyErr := 0 })
  else s.modCtx ctx (fun c => { c with policyErr := BitVec.ofNat 32 (2 ^ 31 + e) })

def execCtxPolicyWrite (ctx : Nat) (value : BitVec 32) (s : State) : Host.Outcome State Fault Refusal :=
  .next (if s.kciOpen = true ∧ ctx < 256 then s.writePolicy ctx value else s)

end Sys2Proof.Machine
end

