-- ==== Sys2Proof/Machine/SearchRows.lean ====
section
/-! DEFINITION. The commands of vector search near flash (chapter 9): each is one step of a running search. -/

namespace Sys2Proof.Machine

/-- A step of a search, with the settling that follows the end of a command. -/
def State.searchStep (s : State) (ok : Bool) (f : State → State) : State := if ok then (f s).settle.recheck else s

/-- The lanes and the merger work while the drive runs and F is not in recovery. -/
def State.lanesUp (s : State) : Bool := s.live && !s.power.recovering.contains 3

def execSpeculativeScanLaunch (uid query list : Nat) (s : State) : Host.Outcome State Fault Refusal :=
  .next (s.searchStep s.lanesUp (fun s => s.launchSpec uid query list))

def execDistanceTableSend (uid query : Nat) (s : State) : Host.Outcome State Fault Refusal :=
  .next (s.searchStep (s.lanesUp && s.passesAllowed) (fun s => s.sendTable uid query))

def execSelectionFinal (uid query : Nat) (s : State) : Host.Outcome State Fault Refusal :=
  .next (s.searchStep (s.lanesUp && s.passesAllowed) (fun s => s.finalize uid query))

def execCodewordEvaluate (uid query launch block mismatch : Nat) (s : State) : Host.Outcome State Fault Refusal :=
  .next (s.searchStep s.lanesUp (fun s => s.evalBlock uid query launch block mismatch))

def execMergerCandidate (uid query which : Nat) (s : State) : Host.Outcome State Fault Refusal :=
  .next (s.searchStep s.lanesUp (fun s => s.mergeCand uid query which))

def execScanEnd (uid query launch : Nat) (s : State) : Host.Outcome State Fault Refusal :=
  .next (s.searchStep s.lanesUp (fun s => s.endScan uid query launch))

def execRerank (uid query : Nat) (s : State) : Host.Outcome State Fault Refusal :=
  .next (s.searchStep s.passesAllowed (fun s => s.rerankQuery uid query))

end Sys2Proof.Machine
end

