-- ==== Sys2Proof/Machine/Upkeep.lean ====
section
/-! DEFINITION. Billing periods and the error log's flush (chapter 17), targeted self-tests, spares and retirement
(R98-R100, R148-R151), migration, speculative reads and the patrol scrub (chapter 7, R202). -/

namespace Sys2Proof.Machine

/-! ### Billing periods (R443-R446) -/

/-- R311, R447: the Timestamp value of a controller at a device time [ms]; 0 when its origin is zero. -/
def Ctl.hostTime (c : Ctl) (now : Nat) : Nat := if c.tsSet then c.tsValue + (now - c.tsAt) / 1000000 else 0

/-- The highest closed period. -/
def LedgerSt.newest (l : LedgerSt) : Nat := (l.ring.map (·.seq)).foldl max 0

/-- LEDG_UNACKED: closed periods not acknowledged. -/
def LedgerSt.unacked (l : LedgerSt) : Nat := l.ring.countP (fun r => decide (l.ack < r.seq))

/-- R442: what remains below 1 mJ carries into the next period. -/
def remainders (t : Table Counts) : Table Counts :=
  (t.filter (fun p => p.2.energy % 1000 != 0)).map (fun p => (p.1, { Counts.zero with energy := p.2.energy % 1000 }))

/-- Open a period (R443, R444). -/
def State.openPeriod (s : State) (at' : Nat) : State :=
  s.modLedger (fun l => { l with
    openSeq := l.openSeq + 1, openAt := at', openLen := l.period, isOpen := true, flags := 0, regressions := 0,
    hostOpen := (s.ctl 0).hostTime at', ctrs := remainders l.ctrs })

/-- The record of the open period, closed at a device time (Table 17-9); bit 1 of the flags marks a power failure. -/
def State.closedRec (s : State) (at' : Nat) (fail : Bool) : Closed :=
  let l := s.ledger
  { seq := l.openSeq, openAt := l.openAt, closeAt := at', len := l.openLen, flags := l.flags % 2 + 2 * b2n fail,
    regressions := l.regressions, hostOpen := l.hostOpen, hostClose := (s.ctl 0).hostTime at', ctrs := l.ctrs }

/-- R445, R446: put a closed record into the ring; the oldest of more than 1,024 is overwritten, and counted when it was not
acknowledged; at 896 unacknowledged periods the vector of ERR_IRQ_VEC is signalled. -/
def State.addClosed (s : State) (r : Closed) : State :=
  let full := decide (1024 ≤ s.ledger.ring.length)
  let lost := full && (match s.ledger.ring.head? with | some o => decide (s.ledger.ack < o.seq) | none => false)
  let s1 := s.modLedger (fun l => { l with
    ring := (if full then l.ring.tail else l.ring) ++ [r], overwritten := if lost then satAdd 32 l.overwritten 1 else l.overwritten })
  if s.ledger.unacked < 896 ∧ 896 ≤ s1.ledger.unacked ∧ bit s.errs.vec.toNat 31 = true then s1.signal 0 (s.errs.vec.toNat % 512) else s1

/-- LEDGER_PERIOD_CLOSE (R444): at its boundary the open period closes and the next one opens. -/
def execLedgerPeriodClose (s : State) : Host.Outcome State Fault Refusal :=
  let e := s.ledger.openAt + s.ledger.openLen * 1000000000
  if s.ledger.isOpen = true ∧ s.time.running = true ∧ e ≤ s.time.now then
    .next (((s.addClosed (s.closedRec e false)).modStore (fun st => { st with queue := st.queue ++ [{ kind := .ledgerRecord }] })).openPeriod e)
  else .next s

/-- ERROR_LOG_FLUSH (R434): staged records go to the ring, which holds 65,536. -/
def execErrorLogFlush (s : State) : Host.Outcome State Fault Refusal :=
  if s.live = true ∧ s.errs.staging ≠ [] then
    .next ((s.modErrs (fun e =>
      let r := e.ring ++ e.staging
      { e with staging := [], ring := r.drop (r.length - 65536) })).modStore (fun st => { st with queue := st.queue ++ [{ kind := .errorRecords }] }))
  else .next s

/-! ### Retirement of an array (R98-R100) -/

/-- The tile of a retired array starts again on another one; what had begun counts as retried (R99). -/
def TileSt.moveTo (t : TileSt) (b : Nat) : TileSt := { TileSt.fresh t.plan b with redo := t.began || t.redo }

/-- The tiles of a command on a retired array: those not finished, and finished ones whose chain buffer rows an unfinished
tile still reads, run again on another array. -/
def State.moveTiles (s : State) (c : Cmd) (a : Nat) : Cmd :=
  let ps := s.homeParts (s.ctx c.e.ctx).partition
  let chain := c.tiles.any (fun t => t.array == a && !t.finished && t.plan.actSlot.isNone)
  let moves (t : TileSt) : Bool := t.array == a && (!t.finished || (chain && t.plan.outSlot.isNone))
  let used := ((c.tiles.filter (fun t => moves t && t.began && !t.finished && s.reserves c t.plan)).map (fun t => excSize t.plan.rows)).sum
  { c with
    excUsed := c.excUsed - used
    tiles := c.tiles.map (fun t => if moves t then t.moveTo (s.arrayFor ps a) else t) }

/-- R100: a partition whose arrays are all retired leaves compute service. -/
def State.endService (s : State) (part : Nat) : State :=
  if s.noArrays part then
    let s1 := s.logErr { cls := 0x5F, kind := 2, unit := unitOf 1 part, addr := part }
    let mine (c : Cmd) : Bool := isCompute c.body && (s1.ctx c.e.ctx).partition == part
    let uids := (s1.cmds.filter mine).map (·.uid)
    (s1.endOps uids stInternal).concludeAll mine stInternal
  else s

/-- Retire an array: its slots and passes are gone, and its tiles run again elsewhere. -/
def State.retireArray (s : State) (a : Nat) : State :=
  let s1 := s.modArr a (fun x => { x with
    state := 2, staged := none, inflight := [], checking := [], slots := [], class0 := none, chain := [] })
  let s2 := s1.modCmds (fun l => l.map (fun c => if c.status.isNone && c.tiles.any (fun t => t.array == a) then s1.moveTiles c a else c))
  let s3 : State := s2.cmds.foldl (fun s c => s.refresh c.uid) s2
  (s3.endService (a % 8)).settle.recheck

/-! ### Targeted self-tests (R148-R151, R203) -/

/-- Does a test take an array? -/
def takesArray (kind : Nat) : Bool := decide (1 ≤ kind ∧ kind ≤ 3)

/-- Change the tests of one unit. -/
def State.modTest (s : State) (kind index : Nat) (f : TestSt → TestSt) : State :=
  s.modTests (fun l => l.map (fun t => if t.kind = kind ∧ t.index = index then f t else t))

/-- TARGETED_SELF_TEST: a due test starts; on an array it waits for the pass in flight and for the other array's test. -/
def execTargetedSelfTest (kind index : Nat) (s : State) : Host.Outcome State Fault Refusal :=
  match s.tests.find? (fun t => t.kind == kind && t.index == index && !t.running) with
  | none => .next s
  | some _ =>
    if s.live = false then .next s
    else if takesArray kind then
      if index < 16 ∧ (s.arr index).state ≠ 2 ∧ (s.arr index).inflight = [] ∧ (s.arr ((index + 8) % 16)).state ≠ 1 then
        let old := (s.arr index).staged
        let s1 := (s.modArr index (fun x => { x with state := 1, staged := none })).modTest kind index (fun t => { t with running := true })
        .next (match old with | some u => s1.refresh u.1 | none => s1)
      else .next s
    else .next (s.modTest kind index (fun t => { t with running := true }))

/-- R149: transient verdicts of a unit in the last 24 h of power-on time. -/
def State.earlier (s : State) (kind index : Nat) : Nat :=
  s.verdicts.countP (fun v => v.1 == kind && v.2.1 == index && decide (s.power.onTime ≤ v.2.2 + 86400000000000))

/-- Log a verdict, a missing verdict, a retirement or a spare mapping of a test. -/
def State.logVerdict (s : State) (t : TestSt) (kind : Nat) : State :=
  s.logErr { cls := t.cls, kind := kind, unit := unitOf t.kind t.index, detail := t.errSeq % 2 ^ 32 }

/-- R259: a die is retired; its group is degraded. -/
def State.retireDie (s : State) (d : Nat) : State :=
  if (s.die d).retired then s
  else
    ((s.modDie d (fun x => { x with retired := true, waiting := [], busy := none, ladder := [] })).modGroup (s.variant.groupOf d)
      (fun g => { g with degraded := true, erasing := if g.erasing = some (idxOf d) then none else g.erasing })).modNand
      (fun n => { n with retiredDies := n.retiredDies + 1 })

/-- R259: a block is retired, and the die once 96 of its blocks are. -/
def State.retireBlock (s : State) (d b : Nat) : State :=
  if (s.block d b).retired then s
  else
    let s1 := (s.modBlock d b (fun x => { x with retired := true })).modDie d (fun x => { x with badBlocks := x.badBlocks + 1 })
    let s2 := s1.modNand (fun n => { n with retiredBlocks := n.retiredBlocks + 1 })
    if 96 ≤ (s2.die d).badBlocks then s2.retireDie d else s2

/-- R150: what a lasting verdict does to the unit. `axis` is 0 for a row and 1 for a column of an array; in a NAND
die it is 0 for the die and n + 1 for block n. -/
def State.retireUnit (s : State) (t : TestSt) (axis : Nat) : State :=
  let s0 := (s.modStore (fun st => { st with retired := st.retired ++ [(t.kind, t.index)] })).logVerdict t 6
  if t.kind = 1 then
    let x := s.arr t.index
    if axis = 0 then (if x.spareRows < 3 then s0.modArr t.index (fun x => { x with spareRows := x.spareRows + 1 }) else s0.retireArray t.index)
    else if x.spareCols < 3 then s0.modArr t.index (fun x => { x with spareCols := x.spareCols + 1 }) else s0.retireArray t.index
  else if t.kind = 2 ∨ t.kind = 3 then s0.retireArray t.index
  else if t.kind = 6 then (if axis = 0 then s0.retireDie t.index else s0.retireBlock t.index (axis - 1))
  else if t.kind = 7 then s0.modNand (fun n => { n with scanRetired := n.scanRetired ++ [t.index] })
  else if t.kind = 9 then s0.modPeer (fun p => { p with retiredLanes := p.retiredLanes ++ [t.index] })
  else s0

/-- An array returns to service when no test of it runs. -/
def State.returnArray (s : State) (a : Nat) : State :=
  if (s.arr a).state = 1 ∧ (s.tests.any (fun t => takesArray t.kind && t.index == a && t.running)) = false then
    s.modArr a (fun x => { x with state := 0 })
  else s

/-- SELF_TEST_VERDICT (R149, R150): `reproduced` counts the runs in which the fault appeared again. -/
def execSelfTestVerdict (kind index reproduced axis : Nat) (s : State) : Host.Outcome State Fault Refusal :=
  match s.tests.find? (fun t => t.kind == kind && t.index == index && t.running) with
  | none => .next s
  | some t =>
    if s.live = false then .next s
    else
      let lasting := decide (0 < reproduced ∨ 3 ≤ s.earlier kind index)
      let s1 : State := { s with
        tests := s.tests.filter (fun t => !(t.kind == kind && t.index == index))
        verdicts := if lasting then s.verdicts else s.verdicts ++ [(kind, index, s.power.onTime)]
        verdictCtrs := tmod (0, 0) s.verdictCtrs (unitOf kind index) (fun v =>
          if lasting then (satAdd 16 v.1 1, v.2) else (v.1, satAdd 16 v.2 1)) }
      let s2 := (s1.modNvme (fun n => { n with idleSince := s.time.now })).logVerdict t (if lasting then 4 else 3)
      let s3 := if lasting then s2.retireUnit t axis else s2
      .next (State.noteCritical s (if takesArray kind then s3.returnArray index else s3))

/-- R417, Table 6-5: running tests of some units are abandoned without a verdict and run again. -/
def State.abandonTests (s : State) (f : TestSt → Bool) : State :=
  let gone := s.tests.filter (fun t => t.running && f t)
  let s1 := s.modTests (fun l => l.map (fun t => if t.running && f t then { t with running := false } else t))
  gone.foldl (fun s t => s.logVerdict t 5) s1

/-! ### Migration (R164-R168) -/

/-- MIGRATION_START: background copying of a page to another tier begins. -/
def execMigrationStart (obj page tier : Nat) (s : State) : Host.Outcome State Fault Refusal :=
  match s.obj? obj with
  | none => .next s
  | some x => match tfind x.pageTab page with
    | none => .next s
    | some p =>
      let d := if (diesFor x.word page).contains p.die then p.die else (diesFor x.word page).headD 0
      if s.live = true ∧ x.kind ≠ 3 ∧ x.persistent = false ∧ tier ≤ maxTier x.word ∧ p.tier ≠ tier ∧ p.moving = none ∧ p.lost = false
          ∧ s.class0Names obj page = false ∧ s.room (s.homeParts x.part) tier d = true then
        .next (s.setObj obj { x with pageTab := tset x.pageTab page { p with moving := some tier } })
      else .next s

/-- MIGRATION_SWITCH: the translation switches to the copy; the bytes are the same (R165). -/
def execMigrationSwitch (obj page : Nat) (s : State) : Host.Outcome State Fault Refusal :=
  match s.obj? obj with
  | none => .next s
  | some x => match tfind x.pageTab page with
    | none => .next s
    | some p => match p.moving with
      | none => .next s
      | some t =>
        let d := if (diesFor x.word page).contains p.die then p.die else (diesFor x.word page).headD 0
        .next (if s.live ∧ s.class0Names obj page = false then
          s.setObj obj { x with pageTab := tset x.pageTab page { p with tier := t, die := d, moving := none } } else s)

/-! ### Speculative reads (R170-R172) -/

/-- SPECULATIVE_READ_ISSUE: a T2 page of an object that a command names lands as an unused fill; a read that would fault or
finds no room is dropped. -/
def execSpeculativeReadIssue (uid obj page : Nat) (s : State) : Host.Outcome State Fault Refusal :=
  match s.cmd? uid, s.obj? obj with
  | some c, some x => match tfind x.pageTab page with
    | none => .next s
    | some p =>
      let named := c.handles.any (fun h => match tfind (s.ctx c.e.ctx).handles h with | some m => m.obj == obj | none => false)
      let tier := if homeTier x.word = 1 then 1 else 0
      let parts := s.homeParts x.part
      let ahead := (x.pageTab.map (fun q => q.2.copies.countP (·.spec))).sum
      let fits := if tier = 1 then s.room parts 1 p.die else decide (s.copiesIn parts 0 (some p.die) < 128 * parts.length)
      if s.live = true ∧ c.status = none ∧ c.st ≠ .blocked ∧ named = true ∧ p.tier = 2 ∧ p.lost = false ∧ x.mark = false
          ∧ (p.copies.any (fun q => q.gen == p.gen)) = false ∧ ahead < runAhead x.word ∧ fits = true ∧ x.kind ≠ 3 then
        let p' : PageSt := { p with copies := p.copies ++ [{ tier := tier, die := p.die, gen := p.gen, spec := true }] }
        .next (s.setObj obj { x with pageTab := tset x.pageTab page p' })
      else .next s
  | _, _ => .next s

/-! ### Scrub (R202) -/

/-- PATROL_SCRUB: one background scrub step of a DRAM stack and of an SRAM bank; it corrects nothing that a command sees. -/
def execPatrolScrub (stack bank : Nat) (s : State) : Host.Outcome State Fault Refusal :=
  .next (if s.live = true ∧ stack < 2 ∧ bank < 48 then
    s.modNand (fun n => { n with scrubs := tmod 0 (tmod 0 n.scrubs stack (fun k => satAdd 64 k 1)) (2 + bank) (fun k => satAdd 64 k 1) }) else s)

end Sys2Proof.Machine
end

