-- ==== Sys2Proof/Machine/Admin.lean ====
section
/-! DEFINITION. The administrator's commands to the global management block that have a row of their own (chapters 8, 12
and 18): partitions, exclusive jobs, context administration, quotas, keys, the shard group, the error log and the ledger. -/

namespace Sys2Proof.Machine

/-! ### Exclusive jobs (R178-R181, R458, R459) -/

/-- R38, R458 offsets of a partition block. -/
def partOff (part off : Nat) : Nat := 0x102000 + 0x40 * part + off

/-- The job's contexts other than the named one have no open KCI queue, and the named one belongs to the set (R179). -/
def State.claimable (s : State) (ps : List Nat) (ctx : Nat) : Bool :=
  ps.all (fun p => (s.part p).state == 0) && ps.contains (s.ctx ctx).partition &&
    s.ctxs.all (fun c => c.1 == ctx || !ps.contains c.2.partition || c.2.queues.isEmpty)

/-- R181: the job's commands end with PREEMPT_ABORTED and its set is released. -/
def State.abortJob (s : State) (ctx : Nat) : State :=
  let uids := (s.pendingOf ctx).map (·.uid)
  (((s.endOps uids stPreempt).concludeAll (fun c => c.e.ctx == ctx) stPreempt).releaseJob ctx).settle.recheck

/-- A write of PART_EXCL (R458). -/
def State.writeExcl (s : State) (part : Nat) (value : W32) : State :=
  let v := value.toNat
  let claim := bit v 31
  let abort := bit v 30
  let n := 2 ^ bits v 9 8
  let x := s.part part
  let off := partOff part 0x0C
  let ps := (List.range n).map (· + part)
  if claim = false ∧ abort = false then s
  else if (claim = true ∧ abort = true) ∨ part % n ≠ 0 ∨ (abort = true ∧ (x.state = 0 ∨ x.lead ≠ part)) then s.refuse off stInvalidField
  else if abort then (if x.state = 1 ∨ x.state = 2 then s.abortJob x.ctx else s)
  else if s.claimable ps (v % 256) = false then s.refuse off stExclusive
  else ps.foldl (fun s p => s.modPart p (fun x => { x with state := 1, set := bits v 9 8, lead := part, ctx := v % 256 })) s

def execPartExclClaim (part : Nat) (value : BitVec 32) (s : State) : Host.Outcome State Fault Refusal :=
  .next (if s.globalOpen = true ∧ part < 8 then s.writeExcl part value else s)

def execPartExclAbort (part : Nat) (value : BitVec 32) (s : State) : Host.Outcome State Fault Refusal :=
  .next (if s.globalOpen = true ∧ part < 8 then s.writeExcl part value else s)

/-- Every slot of every array of some partitions is free. -/
def State.slotsFree (s : State) (ps : List Nat) : Bool := (arraysOf ps).all (fun a => (s.arr a).slots.isEmpty)

/-- CLAIM_COMPLETE (Table 8-1). -/
def execClaimComplete (part : Nat) (s : State) : Host.Outcome State Fault Refusal :=
  let ps := s.setOf part
  .next (if s.live = true ∧ (s.part part).state = 1 ∧ s.slotsFree ps = true then
    ps.foldl (fun s p => s.modPart p (fun x => { x with state := 2 })) s else s)

/-- A partition in shared mode. -/
def PartSt.share (x : PartSt) : PartSt := { x with state := 0, set := 0, lead := 0, ctx := 0 }

/-- The tiles of a command that the release of some arrays clears run again on its own partition's arrays. -/
def State.requeue (s : State) (as : List Nat) (c : Cmd) : Cmd :=
  let moves (t : TileSt) : Bool := as.contains t.array && !t.finished
  let used := ((c.tiles.filter (fun t => moves t && t.began && s.reserves c t.plan)).map (fun t => excSize t.plan.rows)).sum
  { c with
    excUsed := c.excUsed - used
    tiles := c.tiles.map (fun t => if moves t then t.moveTo (s.arrayFor [(s.ctx c.e.ctx).partition] t.plan.arr) else t) }

/-- RELEASE_COMPLETE (Table 8-1): the passes in the arrays have finished; the slots are cleared and the set returns to
SHARED. Unfinished commands of the former job go on there (assumption log 23). -/
def execReleaseComplete (part : Nat) (s : State) : Host.Outcome State Fault Refusal :=
  let ps := s.setOf part
  let as := arraysOf ps
  if s.live = true ∧ (s.part part).state = 3 ∧ (as.all (fun a => (s.arr a).inflight.isEmpty)) = true then
    let s1 := as.foldl (fun s a => s.modArr a (fun x => { x with staged := none, checking := [], slots := [], class0 := none, chain := [] })) s
    let s2 := ps.foldl (fun s p => s.modPart p PartSt.share) s1
    let s3 := s2.modCmds (fun l => l.map (fun c => if c.status.isNone && c.tiles.any (fun t => as.contains t.array && !t.finished) then s2.requeue as c else c))
    .next (s3.cmds.foldl (fun s c => s.refresh c.uid) s3)
  else .next s

/-! ### PART_RESET (R417, R459) -/

/-- Drop the copies in staging and the speculative fills of some partitions. -/
def State.dropStaging (s : State) (ps : List Nat) : State :=
  s.modObjs (fun l => tmap l (fun _ x => if ps.contains x.part then
      { x with pageTab := tmap x.pageTab (fun _ p => { p with copies := p.copies.filter (fun c => c.tier != 0 && !c.spec) }) }
      else x))

/-- A partition reset; it reaches the whole set in CLAIMING or EXCLUSIVE. -/
def State.resetPart (s : State) (part : Nat) : State :=
  let x := s.part part
  let ps := if x.state = 1 ∨ x.state = 2 then s.setOf part else [part]
  let as := arraysOf ps
  let mine (c : Cmd) : Bool := ps.contains (s.ctx c.e.ctx).partition
  let uids := (s.cmds.filter mine).map (·.uid)
  let s1 := (s.endOps uids stPreempt).concludeAll mine stPreempt
  let s2 := as.foldl (fun s a => s.modArr a (fun x => { x with
    staged := none, class0 := none, charge := 0, chain := []
    slots := x.slots.filter (fun q => x.inflight.any (fun r => r.uid == q.2.1 && r.tile == q.2.2)) })) s1
  let s3 := (s2.dropStaging ps).abandonTests (fun t => takesArray t.kind && as.contains t.index)
  (ps.foldl (fun s p => s.modPart p PartSt.share) s3).settle.recheck

def execPartReset (part : Nat) (value : BitVec 32) (s : State) : Host.Outcome State Fault Refusal :=
  .next (if s.globalOpen = true ∧ part < 8 ∧ bit value.toNat 0 = true then s.resetPart part else s)

/-! ### Quotas and reservations (R154, R155, R456, R457, R461) -/

def State.writeQuota (s : State) (part : Nat) (value : W32) : State :=
  let v := value.toNat % 65536
  if s.variant.maxQuota < v then s.refuse (partOff part 0x04) stInvalidField else s.modPart part (fun x => { x with quota := v })

def execPartDramQuotaWrite (part : Nat) (value : BitVec 32) (s : State) : Host.Outcome State Fault Refusal :=
  .next (if s.globalOpen = true ∧ part < 8 then s.writeQuota part value else s)

def State.writeResv (s : State) (part : Nat) (value : W32) : State :=
  let v := value.toNat % 256
  if 50 < v then s.refuse (partOff part 0x08) stInvalidField else s.modPart part (fun x => { x with resvNext := v })

def execSchedResvWrite (part : Nat) (value : BitVec 32) (s : State) : Host.Outcome State Fault Refusal :=
  .next (if s.globalOpen = true ∧ part < 8 then s.writeResv part value else s)

/-- T2 quotas and namespaces [GiB]. -/
def State.nvmGib (s : State) : Nat := ((List.range 8).map (fun p => (s.part p).t2quota)).sum + (s.nvme.ns.map (fun n => n.2.gib)).sum

def State.writeT2Quota (s : State) (part : Nat) (value : W32) : State :=
  let v := value.toNat % 65536
  let total := s.nvmGib - (s.part part).t2quota + v
  if s.variant.maxT2 < v ∨ s.variant.user < total * 2 ^ 30 ∨ v * 16384 < s.t2Held [part] then s.refuse (0x104000 + 4 * part) stInvalidField
  else s.modPart part (fun x => { x with t2quota := v })

def execMemT2QuotaWrite (part : Nat) (value : BitVec 32) (s : State) : Host.Outcome State Fault Refusal :=
  .next (if s.globalOpen = true ∧ part < 8 then s.writeT2Quota part value else s)

/-! ### Context administration (R367, R460) -/

/-- R460: a stored object that a context created and that still exists. -/
def State.ownsStored (s : State) (ctx : Nat) : Bool := s.objs.any (fun o => o.2.owner == ctx && o.2.persistent)

def State.writeAssign (s : State) (ctx : Nat) (value : W32) : State :=
  let v := value.toNat
  let c := s.ctx ctx
  let n := bits v 23 20
  let m := bits v 19 18
  if (v % 8 ≠ c.partition ∧ (c.queues ≠ [] ∨ c.handles ≠ [] ∨ s.ownsStored ctx = true)) ∨ m = 3
      ∨ (m = 1 ∧ (n < 1 ∨ 8 < n)) ∨ (m ≠ 1 ∧ n ≠ 0) then s.refuse (0x103000 + 0x10 * ctx) stInvalidField
  else s.modCtx ctx (fun c => { c with partition := v % 8, maxClass := bits v 9 8, adminOff := bit v 16, floorMode := m, floorN := n })

def execCtxAssignWrite (ctx : Nat) (value : BitVec 32) (s : State) : Host.Outcome State Fault Refusal :=
  .next (if s.globalOpen = true ∧ ctx < 256 then s.writeAssign ctx value else s)

def execCtxAdminReset (ctx : Nat) (value : BitVec 32) (s : State) : Host.Outcome State Fault Refusal :=
  .next (if s.globalOpen = true ∧ ctx < 256 ∧ bit value.toNat 0 = true then s.resetCtx ctx 3 else s)

/-! ### MXA_TEST (R462) -/

def State.writeTest (s : State) (array : Nat) (value : W32) : State :=
  if bit value.toNat 0 = false ∨ (s.arr array).state = 2 ∨ (s.tests.any (fun t => takesArray t.kind && t.index == array && t.running)) = true then s
  else s.startTest 1 array 0x10 0

def execMxaTestStart (array : Nat) (value : BitVec 32) (s : State) : Host.Outcome State Fault Refusal :=
  .next (if s.globalOpen = true ∧ array < 16 then s.writeTest array value else s)

/-! ### Keys (R463) -/

/-- A write of SEC_KEY_CTL; it clears SEC_KEY_DATA whatever comes of it. -/
def State.writeKeyCtl (s : State) (value : W32) : State :=
  let enroll := bit value.toNat 0
  let revoke := bit value.toNat 1
  let i := s.mgmt.keySel % 8
  let key := (List.range 96).map (fun k => tget 0 s.mgmt.keyData k)
  let has := (tfind s.mgmt.keys i).isSome
  let s1 :=
    if (enroll = true ∧ revoke = true) ∨ (enroll = true ∧ (has = true ∨ keyOnCurve key = false)) ∨ (revoke = true ∧ has = false) then
      s.refuse 0x107048 stInvalidField
    else if enroll then s.modMgmt (fun m => { m with keys := tset m.keys i key })
    else if revoke then s.modMgmt (fun m => { m with keys := tdel m.keys i })
    else s
  s1.modMgmt (fun m => { m with keyData := [] })

def execSecKeyEnroll (value : BitVec 32) (s : State) : Host.Outcome State Fault Refusal :=
  .next (if s.globalOpen then s.writeKeyCtl value else s)

def execSecKeyRevoke (value : BitVec 32) (s : State) : Host.Outcome State Fault Refusal :=
  .next (if s.globalOpen then s.writeKeyCtl value else s)

/-! ### The shard group (R283, R464) -/

/-- Every port at electrical idle (R46): what the partner's lanes and pins show stays. -/
def Port.idle (p : Port) : Port :=
  { Port.reset with present := p.present, partnerLive := p.partnerLive, alertIgnored := p.alertIgnored }

/-- The commands with a part in a group operation. -/
def State.groupCmds (s : State) : List Nat :=
  (s.cmds.filter (fun c => match c.body with | .run _ _ mode _ _ _ _ => mode != 0 | _ => false)).map (·.uid)

/-- End every group operation with a status, without a message. -/
def State.endAllOps (s : State) (status : Nat) : State :=
  let uids := s.groupCmds
  let s1 := s.modPeer (fun p => { p with ops := [] })
  (s1.concludeAll (fun c => uids.contains c.uid) status).settle.recheck

/-- A write of PEER_GROUP_CFG. -/
def State.writeGroupCfg (s : State) (value : W32) : State :=
  let v := value.toNat
  let valid := bit v 31
  let mem := bits v 10 8
  let size := v % 16
  if s.peer.valid then
    if mem ≠ s.peer.member ∨ size ≠ s.peer.size then s.refuse 0x108004 stInvalidField
    else if valid then s
    else
      let s1 := s.endAllOps stPeerNotBound
      s1.modPeer (fun p => { p with
        valid := false, group := 0, ports := tmap p.ports (fun _ x => x.idle), hb := [], lost := [], goodWindows := 0,
        earlyPosts := [], copies := [] })
  else if valid then
    if (size = 2 ∨ size = 4 ∨ size = 8) ∧ mem < size ∧ s.peer.gid ≠ 0 then
      s.modPeer (fun p => { p with
        valid := true, member := mem, size := size, group := 1, lost := [], hb := [], goodWindows := 0, formingSince := s.time.now,
        ports := tmap p.ports (fun _ x => if x.present && x.partnerLive then { x with state := 1 } else x) })
    else s.refuse 0x108004 stInvalidField
  else s.modPeer (fun p => { p with member := mem, size := size })

def execPeerGroupCfgSet (value : BitVec 32) (s : State) : Host.Outcome State Fault Refusal :=
  .next (if s.globalOpen then s.writeGroupCfg value else s)

def execPeerGroupCfgClear (value : BitVec 32) (s : State) : Host.Outcome State Fault Refusal :=
  .next (if s.globalOpen then s.writeGroupCfg value else s)

def State.writeBind (s : State) (value : W32) : State :=
  let v := value.toNat
  let same := decide (bit v 31 = s.peer.bindValid ∧ v % 256 = s.peer.bindCtx)
  if same = false ∧ s.groupCmds ≠ [] then s.refuse 0x108008 stInvalidField
  else s.modPeer (fun p => { p with bindValid := bit v 31, bindCtx := v % 256 })

def execPeerBindWrite (value : BitVec 32) (s : State) : Host.Outcome State Fault Refusal :=
  .next (if s.globalOpen then s.writeBind value else s)

def State.writeProgress (s : State) (value : W32) : State :=
  let v := value.toNat % 65536
  if v < 1 ∨ 60000 < v then s.refuse 0x10800C stInvalidField else s.modPeer (fun p => { p with progressTo := v })

def execPeerProgressToWrite (value : BitVec 32) (s : State) : Host.Outcome State Fault Refusal :=
  .next (if s.globalOpen then s.writeProgress value else s)

/-! ### The error log's registers (R465) -/

def State.writeErrSelHi (s : State) (value : W32) : State :=
  let seq := join32 s.errs.selLo value
  s.modErrs (fun e => { e with selHi := value, window := e.ring.find? (fun r => r.seq == seq) })

def execErrSelHiWrite (value : BitVec 32) (s : State) : Host.Outcome State Fault Refusal :=
  .next (if s.globalOpen then s.writeErrSelHi value else s)

def State.writeErrVec (s : State) (value : W32) : State :=
  if 256 < value.toNat % 512 then s.refuse 0x109018 stInvalidField else s.modErrs (fun e => { e with vec := value &&& 0x800001FF })

def execErrIrqVecWrite (value : BitVec 32) (s : State) : Host.Outcome State Fault Refusal :=
  .next (if s.globalOpen then s.writeErrVec value else s)

/-! ### The ledger's registers (R443, R446, R466) -/

def State.writeLedgSelHi (s : State) (value : W32) : State :=
  let seq := join32 s.ledger.selLo value
  s.modLedger (fun l => { l with selHi := value, recWin := l.ring.find? (fun r => r.seq == seq) })

def execLedgSelHiWrite (value : BitVec 32) (s : State) : Host.Outcome State Fault Refusal :=
  .next (if s.globalOpen then s.writeLedgSelHi value else s)

def State.writeLedgCtxSel (s : State) (value : W32) : State :=
  let c := value.toNat % 256
  s.modLedger (fun l => { l with ctxSel := c, ctxWin := some (tget Counts.zero l.ctrs c) })

def execLedgCtxSelWrite (value : BitVec 32) (s : State) : Host.Outcome State Fault Refusal :=
  .next (if s.globalOpen then s.writeLedgCtxSel value else s)

/-- The write of LEDG_ACK_HI, with the low half written last (R451). -/
def State.writeLedgAck (s : State) (value : W32) : State :=
  let v := join32 s.ledger.ackLo value
  if s.ledger.newest < v then s.refuse 0x10A01C stInvalidField
  else s.modLedger (fun l => { l with ack := max l.ack v })

def execLedgAckWrite (value : BitVec 32) (s : State) : Host.Outcome State Fault Refusal :=
  .next (if s.globalOpen then s.writeLedgAck value else s)

def State.writeLedgPeriod (s : State) (value : W32) : State :=
  let v := value.toNat
  if v < 60 ∨ 2678400 < v then s.refuse 0x10A000 stInvalidField else s.modLedger (fun l => { l with period := v })

def execLedgPeriodWrite (value : BitVec 32) (s : State) : Host.Outcome State Fault Refusal :=
  .next (if s.globalOpen then s.writeLedgPeriod value else s)

end Sys2Proof.Machine
end

