-- ==== Sys2Proof/Machine/NvmeCore.lean ====
section
/-! DEFINITION. Block storage: formats and protection information (R313-R316), locking ranges (R327), fetching and
completing an NVMe command (R309, R331), the write cache (R317-R325) and the reset of a controller (R324, R369). -/

namespace Sys2Proof

/-- Two headers spell one command. -/
def NvmeHdr.same (a b : NvmeHdr) : Bool := a.fn == b.fn && a.sqid == b.sqid && a.cid == b.cid

end Sys2Proof

namespace Sys2Proof.Machine

/-! ### Formats and protection information (Table 13-4) -/

/-- Data bytes of a logical block. -/
def lbaData (f : Nat) : Nat := if f ≤ 1 then 512 else 4096

/-- Metadata bytes of a logical block. -/
def lbaMd (f : Nat) : Nat := [0, 8, 0, 8, 16].getD f 0

/-- The guard of a block's data. -/
def guardOf (f : Nat) (bs : List Byte) : Nat := if f = 4 then crc64Nvme bs else crc16 bs

/-- Bits of the reference tag. -/
def refBits (f : Nat) : Nat := if f = 4 then 48 else 32

/-- The metadata of a block: guard, application tag, reference tag. -/
def Blk.md (b : Blk) (f : Nat) : List Byte :=
  if f = 4 then be 8 b.guard ++ be 2 b.app ++ be 6 b.ref
  else if lbaMd f = 8 then be 2 b.guard ++ be 2 b.app ++ be 4 b.ref
  else []

/-- Logical blocks of a namespace. -/
def NsSt.nlba (n : NsSt) : Nat := n.gib * 2 ^ 30 / lbaData n.lbaf

/-- R316: what a deallocated block reads as. -/
def deallocBlk (f : Nat) : Blk :=
  { data := zeros (lbaData f), guard := guardOf f (zeros (lbaData f)), app := 0xFFFF, ref := 0xFFFFFFFF, place := 0 }

/-- Table 13-6: the mismatch of a block's protection fields that PRCHK selects (bit 2 guard, bit 1 application tag, bit 0
reference tag), against the tags of a command and the block's place in it. -/
def piMismatch (n : NsSt) (prchk : Nat) (p : PiArgs) (i : Nat) (b : Blk) : Option NvmeSts :=
  if n.pi = 0 then none
  else if b.app = 0xFFFF ∧ (n.pi ≠ 3 ∨ b.ref = 2 ^ refBits n.lbaf - 1) then none
  else if bit prchk 2 ∧ b.guard ≠ guardOf n.lbaf b.data then some nvGuard
  else if bit prchk 1 ∧ b.app &&& p.lbatm ≠ p.lbat &&& p.lbatm then some nvAppTag
  else if bit prchk 0 ∧ n.pi ≠ 3 ∧ b.ref ≠ (p.ilbrt + i) % 2 ^ refBits n.lbaf then some nvRefTag
  else none

/-- The first mismatch of a run of blocks. -/
def firstMismatch (n : NsSt) (prchk : Nat) (p : PiArgs) (bs : List Blk) : Option NvmeSts :=
  ((List.range bs.length).zip bs).findSome? (fun x => piMismatch n prchk p x.1 x.2)

/-- R315: a stored guard that does not match its data. -/
def guardBad (n : NsSt) (b : Blk) : Bool := n.pi != 0 && b.guard != guardOf n.lbaf b.data

/-! ### Locking ranges (R327) -/

/-- The part of a block range that a locking range covers. -/
def overlapLen (a n b m : Nat) : Nat := min (a + n) (b + m) - max a b

/-- The locking range of a block: 0 is the Global Range. -/
def State.lockOf (s : State) (nsid lba : Nat) : Nat :=
  match s.nvme.locks.find? (fun l => l.1 != 0 && l.2.nsid == nsid && decide (l.2.slba ≤ lba ∧ lba < l.2.slba + l.2.nlb)) with
  | some l => l.1
  | none => 0

/-- Does a block range touch a locking range that a predicate selects? -/
def State.lockHit (s : State) (f : LockSt → Bool) (nsid slba nlb : Nat) : Bool :=
  let rs := s.nvme.locks.filter (fun l => l.1 != 0 && l.2.nsid == nsid && decide (0 < overlapLen slba nlb l.2.slba l.2.nlb))
  rs.any (fun l => f l.2) ||
    (f (tget LockSt.reset s.nvme.locks 0) && decide ((rs.map (fun l => overlapLen slba nlb l.2.slba l.2.nlb)).sum < nlb))

/-! ### Completing a command (R331) -/

/-- Statuses of Table 13-6 except the two abort statuses: they are logged. -/
def NvmeSts.logged (st : NvmeSts) : Bool :=
  [nvReadErr, nvGuard, nvAppTag, nvRefTag, nvCompare, nvAccess, nvWriteFault, nvInvalidNs, nvSanitize, nvInternal].contains st

/-- Status word of an error record or an Error Information entry. -/
def NvmeSts.word (st : NvmeSts) : Nat := st.sct * 2 ^ 8 + st.sc

/-- The error record of a command's status: NAMESPACE for what the host caused, a violation when the namespace is not
attached (R307), INTERNAL for the drive's own, NAND_MEDIA with the NAND address (assumption log 24). -/
def State.logNvme (s : State) (h : NvmeHdr) (st : NvmeSts) (lba addr : Nat) : State :=
  let a : ErrArg := {
    cls := 0x06, kind := 2, ctx := h.fn, unit := unitOf 0xC h.fn, addr := lba, status := 0x8000 + st.word, queue := h.sqid,
    cid := h.cid, fn := h.fn }
  if st = nvInvalidNs then s.logViol { a with kind := 0 }
  else if st = nvReadErr then s.logErr { a with cls := 0x20, unit := unitOf 6 (addr / 2 ^ 25 % 512), addr := addr }
  else if st = nvWriteFault ∨ st = nvInternal then s.logErr { a with cls := 0x5F }
  else s.logErr a

/-- The number of the next Error Information entry. -/
def Ctl.nextErr (c : Ctl) : Nat := match c.errLog with | e :: _ => e.count + 1 | [] => 1

/-- Put an entry into a controller's Error Information log, newest first, 256 at most (Table 13-2). -/
def State.errInfo (s : State) (h : NvmeHdr) (st : NvmeSts) (lba : Nat) : State :=
  let e : ErrInfo := {
    count := (s.ctl h.fn).nextErr, sqid := h.sqid, cid := h.cid, status := st.word + b2n st.dnr * 2 ^ 14, lba := lba, nsid := h.nsid }
  s.modCtl h.fn (fun c => { c with errLog := (e :: c.errLog).take 256 })

/-- Complete a command: it is outstanding no longer, and its completion goes to the host. -/
def State.nvEnd (s : State) (h : NvmeHdr) (st : NvmeSts) (dw0 : Nat) : State :=
  (s.modNvme (fun n => { n with outstanding := n.outstanding.filter (fun o => !o.1.same h), idleSince := s.time.now })).cpl
    { fn := h.fn, sqid := h.sqid, cid := h.cid, sct := st.sct, sc := st.sc, dnr := st.dnr, dw0 := dw0 }

/-- Complete a command, and log its status. `addr` is the NAND address of an unrecovered read. -/
def State.nvDoneAt (s : State) (h : NvmeHdr) (st : NvmeSts) (dw0 lba addr : Nat) : State :=
  if st.logged then ((s.nvEnd h st dw0).errInfo h st lba).logNvme h st lba addr else s.nvEnd h st dw0

def State.nvDone (s : State) (h : NvmeHdr) (st : NvmeSts) (dw0 lba : Nat) : State := s.nvDoneAt h st dw0 lba 0

/-! ### Fetching a command (R309, R310, R337) -/

/-- A command waits inside the drive: for cache room or commitment, as a Flush, or as an event request. -/
def State.inProgress (s : State) (h : NvmeHdr) : Bool :=
  s.nvme.waiting.any (fun e => e.h.same h) || s.nvme.cache.any (fun e => !e.completed && e.h.same h) ||
    s.nvme.flushes.any (fun f => f.h.same h) || (h.sqid == 0 && (s.ctl h.fn).aers.contains h.cid)

/-- May a function's controller take a command from a queue? -/
def State.takes (s : State) (h : NvmeHdr) : Bool :=
  s.linked && s.power.nvmeReady && (s.ctl h.fn).ready && decide (h.fn < 256) &&
    (h.sqid == 0 || (tfind (s.ctl h.fn).sqs h.sqid).isSome) && !s.inProgress h

/-- Note a command as fetched, unless its doorbell did; fetching leaves PS4 and PS5 (R337). -/
def State.begin (s : State) (h : NvmeHdr) (op : Nat) : State :=
  let s1 := s.wake
  if s1.nvme.outstanding.any (fun o => o.1.same h) then
    s1.modNvme (fun n => { n with outstanding := n.outstanding.map (fun o => if o.1.same h then (h, o.2) else o) })
  else s1.modNvme (fun n => { n with outstanding := n.outstanding ++ [(h, op, s.time.now)] })

/-- Run an admin command of a controller; `vf` says whether a VF controller accepts it (R310). -/
def State.admin (s : State) (h : NvmeHdr) (op : Nat) (vf : Bool) (f : State → State) : State :=
  if h.sqid ≠ 0 ∨ s.takes h = false then s
  else if h.fn ≠ 0 ∧ vf = false then (s.begin h op).nvDone h nvInvalidOpcode 0 0
  else f (s.begin h op)

/-- Run an NVM command: no NVM command runs during a sanitize (R330), and its namespace is attached (R307). -/
def State.nvm (s : State) (h : NvmeHdr) (op lba : Nat) (f : State → NsSt → State) : State :=
  if h.sqid = 0 ∨ s.takes h = false then s
  else
    let s1 := s.begin h op
    if s.sanitizing then s1.nvDone h nvSanitize 0 lba
    else match tfind s.nvme.ns h.nsid with
      | none => s1.nvDone h nvInvalidNs 0 lba
      | some n => if n.attached.contains h.fn then f s1 n else s1.nvDone h nvInvalidNs 0 lba

/-! ### The write cache (R317-R322, R325) -/

/-- Does a piece hold a block that no later committed write replaced? -/
def Extent.covers (e : Extent) (nsid lba : Nat) : Bool :=
  e.h.nsid == nsid && decide (e.slba ≤ lba ∧ lba < e.slba + e.nlb) && !e.dead.any (fun d => decide (d.1 ≤ lba ∧ lba < d.1 + d.2))

/-- The newest cached piece that holds a block. -/
def State.cached (s : State) (nsid lba : Nat) : Option Extent := s.nvme.cache.reverse.find? (fun e => e.covers nsid lba)

/-- The block that a piece holds. -/
def Extent.blk (e : Extent) (f lba : Nat) : Blk := if e.kind = 0 then e.blocks.getD (lba - e.slba) (deallocBlk f) else deallocBlk f

/-- The block that a read returns: from the cache, else what is committed (R317). -/
def State.blkAt (s : State) (nsid : Nat) (n : NsSt) (lba : Nat) : Blk :=
  match s.cached nsid lba with
  | some e => e.blk n.lbaf lba
  | none => tget (deallocBlk n.lbaf) n.media lba

/-- Data bytes of a piece. -/
def Extent.bytes (e : Extent) : Nat := (e.blocks.map (fun b => b.data.length)).sum

/-- Bytes in the cache, at most 1 GiB (R24). -/
def NvmeSt.cacheBytes (n : NvmeSt) : Nat := (n.cache.map Extent.bytes).sum

/-- Two pieces make one extent: one namespace and function, both completed, of one sort, contiguous, at most 8 MiB (R317). -/
def LacExt.joins (a b : LacExt) (size : Nat) : Bool :=
  a.fn == b.fn && a.nsid == b.nsid && a.flags == b.flags && !bit a.flags 1 && decide (b.slba ≤ a.slba + a.nlb ∧ a.slba ≤ b.slba + b.nlb)
    && decide ((max (a.slba + a.nlb) (b.slba + b.nlb) - min a.slba b.slba) * size ≤ 8388608)

/-- Join an extent with the first of a list that it joins. -/
def joinExt (size : Nat) (x : LacExt) : List LacExt → List LacExt
  | [] => [x]
  | y :: ys =>
    if y.joins x size then
      { y with slba := min x.slba y.slba, nlb := max (x.slba + x.nlb) (y.slba + y.nlb) - min x.slba y.slba } :: ys
    else y :: joinExt size x ys

/-- The extent that a piece is (Table 13-10): bit 0 completed, bit 1 fetched and not completed, bit 2 a zeroed range. -/
def Extent.entry (e : Extent) : LacExt :=
  { flags := (if e.completed then 1 else 2) + (if e.kind = 0 then 0 else 4), fn := e.h.fn, nsid := e.h.nsid, slba := e.slba,
    nlb := e.nlb, sqid := if e.completed then 0 else e.h.sqid, cid := if e.completed then 0 else e.h.cid }

/-- The dirty extents of the cache (R317, R271). -/
def State.extents (s : State) : List LacExt :=
  s.nvme.cache.foldl (fun l e => joinExt (match tfind s.nvme.ns e.h.nsid with | some n => lbaData n.lbaf | none => 512) e.entry l) []

/-- Is there room for pieces (R322)? -/
def State.cacheRoom (s : State) (es : List Extent) : Bool :=
  decide (s.extents.length + es.length ≤ 2048 ∧ s.nvme.cacheBytes + (es.map Extent.bytes).sum ≤ 1073741824)

/-- The last piece of a command is in the cache: without FUA the command completes (R317, R320). -/
def State.admitted (s : State) (h : NvmeHdr) : State :=
  if s.nvme.waiting.any (fun e => e.h.same h) ∨ s.nvme.cache.any (fun e => e.h.same h && !e.completed && e.fua) then s
  else
    (s.modNvme (fun n => { n with cache := n.cache.map (fun e => if e.h.same h then { e with completed := true } else e) })).nvDone
      h nvOk 0 0

/-- Take pieces of one command into the cache. The write-through rule in force makes every write one with FUA (R321). -/
def State.admitPieces (s : State) (es : List Extent) : State :=
  match es with
  | [] => s
  | e :: _ =>
    let thru := !s.nvme.wce || s.writeThrough
    (s.modNvme (fun n => { n with cache := n.cache ++ es.map (fun e => { e with fua := e.fua || thru, since := s.time.now }) })).admitted e.h

/-- A write-type command enters the cache at its fetch, or waits in fetch order (R317, R322). -/
def State.submit (s : State) (es : List Extent) : State :=
  let s1 := s.bumpBy es.length
  if s.nvme.waiting = [] ∧ s.cacheRoom es = true then s1.admitPieces es
  else s1.modNvme (fun n => { n with waiting := n.waiting ++ es })

/-- Cut a block range into pieces of at most `per` blocks. -/
def cutRange (per : Nat) : Nat → Nat → Nat → List (Nat × Nat)
  | 0, _, _ => []
  | fuel + 1, a, n => if n = 0 then [] else (a, min n per) :: cutRange per fuel (a + min n per) (n - min n per)

/-- The pieces of a zeroed range: 8 MiB at most (R317). -/
def zeroPieces (h : NvmeHdr) (n : NsSt) (kind : Nat) (fua : Bool) (id slba nlb : Nat) : List Extent :=
  let per := 8388608 / lbaData n.lbaf
  let rs := cutRange per (nlb / per + 1) slba nlb
  ((List.range rs.length).zip rs).map (fun p =>
    { id := id + p.1, h := h, slba := p.2.1, nlb := p.2.2, kind := kind, blocks := [], fua := fua, completed := false, since := 0,
      dead := [] })

/-- The pieces of a write: 256 KiB at most, so that each fits one word line. -/
def dataPieces (h : NvmeHdr) (n : NsSt) (fua : Bool) (id slba : Nat) (bs : List Blk) : List Extent :=
  let per := 262144 / lbaData n.lbaf
  let rs := cutRange per (bs.length / per + 1) 0 bs.length
  ((List.range rs.length).zip rs).map (fun p =>
    { id := id + p.1, h := h, slba := slba + p.2.1, nlb := p.2.2, kind := 0, blocks := (bs.drop p.2.1).take p.2.2, fua := fua,
      completed := false, since := 0, dead := [] })

/-! ### Commit (R232, R318-R320) -/

/-- A committed piece replaces the older cached data of its range. -/
def Extent.supersede (e x : Extent) : Extent :=
  if x.h.nsid = e.h.nsid ∧ 0 < overlapLen x.slba x.nlb e.slba e.nlb then { x with dead := x.dead ++ [(e.slba, e.nlb)] } else x

/-- Committed blocks after a piece is committed in a NAND block. -/
def NsSt.take (n : NsSt) (e : Extent) (place : Nat) : NsSt :=
  let live := (List.range e.blocks.length).filter (fun i => e.covers e.h.nsid (e.slba + i))
  if e.kind = 0 then
    { n with
      media := live.foldl (fun t i => tset t (e.slba + i) { (e.blocks.getD i (deallocBlk n.lbaf)) with place := place }) n.media
      bad := n.bad.filter (fun b => !e.covers e.h.nsid b.1) }
  else
    { n with
      media := n.media.filter (fun b => !e.covers e.h.nsid b.1)
      bad := n.bad.filter (fun b => !e.covers e.h.nsid b.1) }

/-- R323: a shutdown is complete once the cache is committed and the device time record is due. -/
def State.finishShutdown (s : State) : State :=
  if s.nvme.cache = [] ∧ s.nvme.waiting = [] then
    let due := s.nvme.ctls.any (fun c => c.2.shutdown == 1)
    let s1 := s.modNvme (fun n => { n with ctls := tmap n.ctls (fun _ c => if c.shutdown = 1 then { c with shutdown := 2 } else c) })
    if due then s1.modStore (fun st => { st with queue := st.queue ++ [{ kind := .timeRecord }] }) else s1
  else s

/-- Flushes that wait for nothing complete (R319). -/
def State.endFlushes (s : State) : State :=
  let done := s.nvme.flushes.filter (fun f => f.waits.isEmpty)
  let s1 := s.modNvme (fun n => { n with flushes := n.flushes.filter (fun f => !f.waits.isEmpty) })
  done.foldl (fun s f => s.nvDone f.h nvOk 0 0) s1

/-- A piece is committed: its blocks are on NAND, the function is charged for the bytes that no later write in the cache
replaced (Table 17-8), Flushes that waited for it may end, and so may its own command with FUA. -/
def State.commitExtent (s : State) (id place : Nat) : State :=
  match s.nvme.cache.find? (fun e => e.id == id) with
  | none => s
  | some e =>
    let before := s.nvme.cache.takeWhile (fun x => x.id != id)
    let after := s.nvme.cache.filter (fun x => decide (x.id ≠ id) && !before.any (fun y => y.id == x.id))
    let kept := (List.range e.blocks.length).countP (fun i =>
      e.covers e.h.nsid (e.slba + i) && !after.any (fun x => x.covers e.h.nsid (e.slba + i)))
    let size := match e.blocks.head? with | some b => b.data.length | none => 0
    let s1 := s.modNvme (fun n => { n with
      ns := (match tfind n.ns e.h.nsid with | some x => tset n.ns e.h.nsid (x.take e place) | none => n.ns)
      cache := before.map e.supersede ++ after
      flushes := n.flushes.map (fun f => { f with waits := f.waits.filter (fun i => i != id) }) })
    let s2 := if kept = 0 then s1 else s1.charge e.h.fn { Counts.zero with nwrite := kept * size }
    let s3 := if e.completed = false ∧ (s2.nvme.cache ++ s2.nvme.waiting).any (fun x => x.h.same e.h && !x.completed) = false then
        s2.nvDone e.h nvOk 0 0 else s2
    s3.endFlushes.finishShutdown

/-! ### Ending commands early (R324, R331, R369) -/

/-- Commands that leave their queue: waiting pieces and Flushes of them go, and what they have in the cache stays there to
be committed (R324, R325). -/
def State.dropNvme (s : State) (f : NvmeHdr → Bool) : State :=
  s.modNvme (fun n => { n with
    waiting := n.waiting.filter (fun e => !f e.h)
    flushes := n.flushes.filter (fun x => !f x.h)
    outstanding := n.outstanding.filter (fun o => !f o.1)
    cache := n.cache.map (fun e => if f e.h then { e with completed := true } else e)
    ctls := tmap n.ctls (fun fn c => { c with aers := c.aers.filter (fun i => !f { fn := fn, sqid := 0, cid := i, nsid := 0 }) }) })

/-- End commands with a status. -/
def State.endNvme (s : State) (f : NvmeHdr → Bool) (st : NvmeSts) : State :=
  let gone := (s.nvme.outstanding.filter (fun o => f o.1)).map (·.1)
  gone.foldl (fun s h => s.nvDone h st 0 0) (s.dropNvme f)

/-- The abort list entry of an NVMe command (Table 14-9). -/
def State.nvmeAbortEnt (s : State) (reason : Nat) (o : NvmeHdr × Nat × Nat) : AbortEnt :=
  { kind := 1, reason := reason, queue := o.1.sqid, cid := o.1.cid, ctx := 0, fetched := o.2.2, entered := s.time.now, oid := 0 }

/-- R324, R35: every fetched command of a function that is not completed goes into its abort list. -/
def State.abortFn (s : State) (fn reason : Nat) : State :=
  let es := (s.nvme.outstanding.filter (fun o => o.1.fn == fn)).map (s.nvmeAbortEnt reason)
  (s.dropNvme (fun h => h.fn == fn)).abortAdd fn es

/-- CC.EN cleared (Table 16-4): queues, the Timestamp origin and, on the PF, APST are cleared. -/
def State.controllerReset (s : State) (fn reason : Nat) : State :=
  let s1 := (s.abortFn fn reason).modCtl fn (fun c => { c with
    enabled := false, ready := false, sqs := [], cqs := [], tsValue := 0, tsAt := 0, tsSet := false, shutdown := 0 })
  if fn = 0 then s1.modNvme (fun n => { n with apst := false }) else s1

/-- FLR, hot reset and PERST# clear the whole controller but its abort list, its Error Information log and its held events. -/
def State.clearController (s : State) (fn reason : Nat) : State :=
  let s1 := (s.abortFn fn reason).modCtl fn (fun c => { Ctl.reset with aborts := c.aborts, errLog := c.errLog, held := c.held, told := c.told })
  if fn = 0 then s1.modNvme (fun n => { n with apst := false }) else s1

end Sys2Proof.Machine
end

