-- ==== Sys2Proof/Machine/Nand.lean ====
section
/-! DEFINITION. The NAND subsystem (chapter 10): codeword resolution and the recovery ladder, die arbitration, programs and
commit, erase plans and torn blocks, read-around-erase, patrol, refresh, garbage collection and wear; and the start of a cache
commit (R318). -/

namespace Sys2Proof.Machine

/-! ### Codewords (R237-R239) -/

/-- Table 10-2: how a codeword start is resolved. -/
inductive CwOut where
  | clean | miss | slip | falseMark | fail
  deriving DecidableEq, Repr

/-- R237: the accepted mark: at the predicted offset, else the nearest, the earlier of two. -/
def nearestMark (marks : List Int) : Option Int :=
  (marks.filter (fun m => decide (-32 ≤ m ∧ m ≤ 32))).foldl (fun b m => match b with
    | none => some m
    | some x => if m.natAbs < x.natAbs ∨ (m.natAbs = x.natAbs ∧ m < x) then some m else some x) none

/-- R238, R239: the outcome of a codeword; one that is not the expected one is a failed decode. -/
def cwOut (c : CwRead) : CwOut :=
  let ok (o : Int) : Bool := c.expected && c.decodes.contains o
  match nearestMark c.marks with
  | none => if ok 0 then .miss else .fail
  | some m =>
    if m = 0 then (if ok 0 then .clean else .fail)
    else if ok m then .slip
    else if ok 0 then .falseMark
    else .fail

/-- The counters of Table 10-2. -/
def NandSt.count (n : NandSt) (o : CwOut) : NandSt :=
  match o with
  | .clean => n
  | .miss => { n with syncMiss := satAdd 32 n.syncMiss 1 }
  | .slip => { n with syncSlip := satAdd 32 n.syncSlip 1 }
  | .falseMark => { n with syncFalse := satAdd 32 n.syncFalse 1 }
  | .fail => n

/-- Table 17-4. -/
def nandAddr (die block page cw : Nat) : Nat := die / 16 * 2 ^ 29 + die % 16 * 2 ^ 25 + block * 2 ^ 14 + page * 4 + cw

/-- Count a success or an end of the ladder: levels 2 to 5 are counters 0 to 3. -/
def State.countLadder (s : State) (level : Nat) : State :=
  s.modNand (fun n => { n with ladder := tmod 0 n.ladder (level - 2) (fun k => satAdd 32 k 1) })

/-- A codeword is delivered: a KCI command's context is charged (Table 17-8). -/
def State.deliver (s : State) (r : NandReq) (n : Nat) : State :=
  match r.uid with
  | some u => match s.cmd? u with
    | some c => if n = 0 then s else s.charge c.e.ctx { Counts.zero with nread := 4096 * n }
    | none => s
  | none => s

/-- An error of a NAND die: its record and the test of the die or block (R241, R258). -/
def State.logNand (s : State) (die addr status : Nat) (c : Option Cmd) : State :=
  let a : ErrArg := { cls := 0x20, kind := 2, addr := addr, status := status }
  let a' : ErrArg := match c with
    | some c => { a with ctx := c.e.ctx, queue := c.e.queue, cid := c.e.cid, fn := c.e.ctx }
    | none => a
  s.logTest a' 6 die

/-- R241: a codeword is uncorrectable: its command ends with STORAGE_MEDIA, a namespace block cannot be read any more. -/
def State.uncorrectable (s : State) (die cw : Nat) (r : NandReq) : State :=
  let addr := nandAddr die r.block r.page cw
  let c := match r.uid with | some u => s.cmd? u | none => none
  let s1 := (s.countLadder 5).logNand die addr (if c.isSome then stStorageMedia else 0) c
  let s2 := match r.lba with
    | some (nsid, lba) => s1.modNvme (fun n => match tfind n.ns nsid with
        | some x => { n with ns := tset n.ns nsid { x with bad := tset x.bad lba addr } }
        | none => n)
    | none => s1
  match c with
  | some c => ((s2.endOps [c.uid] stStorageMedia).conclude c.uid stStorageMedia c.excRecs c.dw1).settle.recheck
  | none => s2

/-- Evaluate the codewords of a page that was read (R237-R240): counters, refresh of a block with more than 96 corrected
bits, delivery, and the ladder for those that fail. -/
def State.readPage (s : State) (die : Nat) (r : NandReq) (cws : List CwRead) : State :=
  let outs := cws.map cwOut
  let good := outs.countP (fun o => decide (o ≠ .fail))
  let worn := cws.any (fun c => decide (cwOut c ≠ .fail ∧ 96 < c.corrected))
  let bad := ((List.range outs.length).zip outs).filter (fun p => decide (p.2 = .fail))
  let ladder := if r.pri = 3 then [] else bad.map (fun p => (p.1, 2))
  let s1 := s.modNand (fun n => outs.foldl NandSt.count n)
  let s2 := if worn then s1.modBlock die r.block (fun b => { b with refresh := true }) else s1
  let s3 := s2.deliver r good
  s3.modDie die (fun d => { d with busy := if ladder.isEmpty then none else some r, ladder := ladder })

/-- NAND_READ_DONE. -/
def execNandReadDone (die : Nat) (cws : List CwRead) (s : State) : Host.Outcome State Fault Refusal :=
  match (s.die die).busy with
  | none => .next s
  | some r => .next (if s.live = true ∧ r.kind = .read ∧ (s.die die).ladder = [] ∧ cws.length ≤ 4 then s.readPage die r cws else s)

/-- A codeword leaves the ladder; the die is idle when none is left on it. -/
def State.offLadder (s : State) (die cw : Nat) : State :=
  s.modDie die (fun d =>
    let l := d.ladder.filter (fun p => p.1 != cw)
    { d with ladder := l, busy := if l.isEmpty then none else d.busy })

/-- RECOVERY_LADDER_STEP (R240, R253): level 2, 3 or 4 of Table 10-3 ends. -/
def execRecoveryLadderStep (die cw : Nat) (ok : Bool) (s : State) : Host.Outcome State Fault Refusal :=
  match (s.die die).busy, (s.die die).ladder.find? (fun p => p.1 == cw) with
  | some r, some (_, level) =>
    if s.live = false then .next s
    else if ok then
      .next ((((s.countLadder level).modBlock die r.block (fun b => { b with laddered := satAdd 32 b.laddered 1, refresh := true })).deliver r 1).offLadder die cw)
    else if level < 4 then
      .next (s.modDie die (fun d => { d with ladder := d.ladder.map (fun p => if p.1 = cw then (cw, level + 1) else p) }))
    else .next ((s.uncorrectable die cw r).offLadder die cw)
  | _, _ => .next s

/-! ### Die arbitration (R242-R248) -/

/-- Key of a stripe row: group, block and word line. -/
def rowKey (g block wl : Nat) : Nat := (g * 2048 + block) * 256 + wl

/-- A row without any program. -/
def RowSt.empty : RowSt := { programmed := [], items := [] }

def State.row (s : State) (g block wl : Nat) : RowSt := tget RowSt.empty s.nand.rows (rowKey g block wl)

/-- User bytes that an item puts on one word line: a quarter of a T2 page, or the extent's data. -/
def State.itemBytes (s : State) (id : Nat) : Nat :=
  match tfind s.nand.items id with
  | some (.t2 ..) => 16384
  | some (.extent e) => (match s.nvme.cache.find? (fun x => x.id == e) with | some x => x.bytes | none => 0)
  | none => 0

/-- Is an item's share on a channel already with a die or in an open row? An extent has one share. -/
def State.carried (s : State) (id off : Nat) : Bool :=
  let whole := match tfind s.nand.items id with | some (.extent _) => true | _ => false
  let on (d : Nat) : Bool := whole || d / 16 % 4 == off
  s.nand.dies.any (fun d => on d.1 && ((d.2.busy.toList ++ d.2.waiting).any (fun r => r.items.contains id))) ||
    s.nand.rows.any (fun r => r.2.items.any (fun p => p.2 == id && (whole || p.1 / 4 == off)))

/-- May a die's program carry an item: the share is not committed and not carried, and a T2 page stays in its partition. -/
def State.itemOk (s : State) (die id : Nat) : Bool :=
  let off := die / 16 % 4
  (match tfind s.nand.items id with
    | some (.extent _) => true
    | some (.t2 o _ _ left) => left.contains off &&
        (match s.obj? o with | some x => (s.homeParts x.part).contains (die / 64) | none => decide (die / 64 < 8))
    | none => false) && !s.carried id off

/-- A word line that may be programmed: its block is neither torn nor retired, and it is not programmed yet. -/
def State.wlOk (s : State) (die block wl : Nat) : Bool :=
  let b := s.block die block
  let g := s.variant.groupOf die
  !b.torn && !b.retired && decide (block < 2048 ∧ wl < 256) && !(s.row g block wl).programmed.contains (idxOf die)

/-- A request that a die can hold. -/
def State.reqOk (s : State) (die : Nat) (r : NandReq) : Bool :=
  decide (r.block < 2048 ∧ r.page < 4096) && (match r.kind with
    | .read => decide ((r.pri = 1 ∨ r.pri = 3 ∨ r.pri = 4) ∧ r.items = [])
    | .program => decide ((r.pri = 2 ∨ r.pri = 4) ∧ r.page % 16 = 0 ∧ (r.items.map s.itemBytes).sum ≤ 262144) && r.items.all (fun i => s.itemOk die i)
        && decide (r.items.eraseDups = r.items) && s.wlOk die r.block (r.page / 16) && (r.items.isEmpty || decide (idxOf die ≠ r.block % 16))
    | .erase => decide (r.pri = 4 ∧ r.items = [])
    | .plan => decide (r.pri = 4 ∧ r.items = [] ∧ idxOf die % 8 = 0))

/-- Erases that wait on the dies of a group. -/
def State.dueErases (s : State) (g : Nat) : List (Nat × Nat) :=
  ((List.range 16).flatMap (fun i => ((s.die (s.variant.dieAt g i)).waiting.filter (fun r => decide (r.kind = .erase))).map (fun r => (i, r.block)))).eraseDups

/-- R248: the plan page stands in both journal blocks; a retired journal die is left out. -/
def State.planned (s : State) (g : Nat) : Bool :=
  [0, 8].all (fun i => (s.group g).planOn.contains i || (s.die (s.variant.dieAt g i)).retired)

/-- A program that Table 16-3 lets start in the critical level: a cache commit, or the parity of a row. -/
def State.isCommit (s : State) (die : Nat) (r : NandReq) : Bool :=
  r.items.all (fun i => match tfind s.nand.items i with | some (.extent _) => true | _ => false) &&
    (!r.items.isEmpty || idxOf die == r.block % 16)

/-- May a waiting operation start now? -/
def State.startable (s : State) (die : Nat) (r : NandReq) : Bool :=
  let g := s.variant.groupOf die
  let x := s.group g
  s.live && !s.power.recovering.contains 3 && !(s.die die).retired &&
    (decide (s.power.pstate ≤ 3) || (decide (s.power.pstate = 4) && r.pri == 4)) && (match r.kind with
    | .read => true
    | .program => s.wlOk die r.block (r.page / 16) && (decide (s.power.thermal < 3) || s.isCommit die r)
    | .erase => x.erasing.isNone && x.left.contains (idxOf die, r.block) && s.planned g
    | .plan => decide (s.power.thermal < 3) && (if s.planned g then x.left.isEmpty && !(s.dueErases g).isEmpty else !x.planOn.contains (idxOf die)))

/-- R247: the place of an operation in the order; a foreground program that has waited 4,000 µs comes first. -/
def rankOf (now : Nat) (r : NandReq) : Nat := if r.pri = 2 ∧ r.since + 4000000 ≤ now then 0 else r.pri

/-- The operation that starts next, with its position. -/
def State.nextOp (s : State) (die : Nat) : Option (Nat × NandReq) :=
  let w := (s.die die).waiting
  (((List.range w.length).zip w).filter (fun p => s.startable die p.2)).foldl (fun b p => match b with
    | none => some p
    | some q =>
      let a := rankOf s.time.now p.2
      let c := rankOf s.time.now q.2
      if a < c ∨ (a = c ∧ p.2.since < q.2.since) then some p else some q) none

/-- An operation starts at an idle die: an erase takes its group's place, a plan page takes the erases that are due. -/
def State.startOn (s : State) (die pos : Nat) (r : NandReq) : State :=
  let g := s.variant.groupOf die
  let s1 := s.modDie die (fun d => { d with busy := some r, waiting := d.waiting.eraseIdx pos })
  match r.kind with
  | .read => s1.modBlock die r.block (fun b => { b with reads := satAdd 32 b.reads 1 })
  | .program => s1
  | .erase => s1.modGroup g (fun x => { x with erasing := some (idxOf die) })
  | .plan =>
    if s.planned g then
      let due := (s.dueErases g).take 64
      s1.modGroup g (fun x => { x with plan := due, left := due, planSeq := x.planSeq + 1, planOn := [] })
    else s1

/-- NAND_OP_START: what has become due joins the die's waiting operations, and an idle die starts the next one. -/
def execNandOpStart (die : Nat) (due : List NandReq) (s : State) : Host.Outcome State Fault Refusal :=
  if s.live = true ∧ die / 16 < 32 ∧ die % 16 < s.variant.targets ∧ (s.die die).retired = false then
    let s1 := due.foldl (fun s r => if s.reqOk die r then s.modDie die (fun d => { d with waiting := d.waiting ++ [r] }) else s) s
    match (s1.die die).busy with
    | some _ => .next s1
    | none => match s1.nextOp die with
      | none => .next s1
      | some p => .next (s1.startOn die p.1 p.2)
  else .next s

/-- An erase becomes due at a die. -/
def State.dueErase (s : State) (die block : Nat) : State :=
  if (s.die die).waiting.any (fun r => decide (r.kind = .erase) && r.block == block) then s
  else s.modDie die (fun d => { d with waiting := d.waiting ++
    [{ pri := 4, kind := .erase, block := block, page := 0, items := [], since := s.time.now, uid := none, lba := none }] })

/-! ### Read-around-erase (R245, R246) -/

/-- READ_AROUND_ERASE: a read that waits on an erasing die is served from the other 15 dies of its row, unless one of them
programs; `bad` are source dies whose codeword is uncorrectable, and then the read waits for the erase. -/
def execReadAroundErase (die block page cw : Nat) (bad : List Nat) (s : State) : Host.Outcome State Fault Refusal :=
  let g := s.variant.groupOf die
  let dies := (List.range 16).map (s.variant.dieAt g)
  let hit (r : NandReq) : Bool := decide (r.kind = .read) && r.block == block && r.page == page && decide (r.pri ≤ 3)
  match (s.die die).waiting.find? hit with
  | none => .next s
  | some r =>
    if s.live = true ∧ cw < 4 ∧ (s.group g).erasing = some (idxOf die) ∧ bad = [] ∧ (dies.any (fun d => (s.die d).retired)) = false
        ∧ (dies.any (fun d => match (s.die d).busy with | some q => decide (q.kind = .program ∨ q.kind = .plan) | none => false)) = false then
      .next ((s.modDie die (fun d => { d with waiting := d.waiting.eraseP hit })).deliver r 1)
    else .next s

/-! ### Programs and commit (R232, R162) -/

/-- A share of an item is committed on a die: an extent leaves the cache; a T2 page is committed with its fourth share, and
its command may end (Table 17-8: 65,536 bytes). -/
def State.commitItem (s : State) (die block id : Nat) : State :=
  match tfind s.nand.items id with
  | none => s
  | some (.extent e) => (s.modNand (fun n => { n with items := tdel n.items id })).commitExtent e (blockKey die block)
  | some (.t2 o p u left) =>
    let left' := left.filter (fun c => c != die / 16 % 4)
    if left' ≠ [] then s.modNand (fun n => { n with items := tset n.items id (.t2 o p u left') })
    else
      let s1 := s.modNand (fun n => { n with items := tdel n.items id })
      match s1.cmd? u with
      | none => s1
      | some c =>
        let s2 := s1.charge c.e.ctx { Counts.zero with nwrite := 65536 }
        ((s2.modCmd u (fun c => { c with waitItems := c.waitItems.filter (fun i => i != id) })).commitDone u).settle.recheck

/-- Word lines that a program makes committed count for their blocks: its own, and with the parity those programmed before. -/
def State.countCommitted (s : State) (g block : Nat) (r : RowSt) (i : Nat) : State :=
  let dies := if i = block % 16 then r.programmed else if r.programmed.contains (block % 16) then [i] else []
  dies.foldl (fun s j => s.modBlock (s.variant.dieAt g j) block (fun b => { b with committed := b.committed + 1 })) s

/-- R232: after a program, what stands on the row with its own word line and the parity word line is committed. -/
def State.commitRow (s : State) (g block wl : Nat) : State :=
  let r := s.row g block wl
  if r.programmed.contains (block % 16) then
    let s1 := s.modNand (fun n => { n with rows := tset n.rows (rowKey g block wl) { r with items := [] } })
    r.items.foldl (fun s p => s.commitItem (s.variant.dieAt g p.1) block p.2) s1
  else s

/-- A program or a plan page ends. A failed one is an error of the die; its data is programmed again elsewhere (R250, R258). -/
def execNandProgramDone (die : Nat) (ok : Bool) (s : State) : Host.Outcome State Fault Refusal :=
  let g := s.variant.groupOf die
  let i := idxOf die
  match (s.die die).busy with
  | none => .next s
  | some r =>
    let s1 := s.modDie die (fun d => { d with busy := none })
    match r.kind with
    | .read => .next s
    | .erase => .next s
    | .plan => .next (if ok then s1.modGroup g (fun x => { x with planOn := x.planOn ++ [i] }) else s1.logNand die (nandAddr die r.block r.page 0) 0 none)
    | .program =>
      let wl := r.page / 16
      if ok then
        let x := s.row g r.block wl
        let y : RowSt := { programmed := x.programmed ++ [i], items := x.items ++ r.items.map (fun k => (i, k)) }
        .next (((s1.modNand (fun n => { n with rows := tset n.rows (rowKey g r.block wl) y })).countCommitted g r.block y i).commitRow g r.block wl)
      else .next ((s1.modBlock die r.block (fun b => { b with refresh := true })).logNand die (nandAddr die r.block r.page 0) 0 none)

/-! ### Erases, torn blocks and resets of F (R244, R248-R250) -/

/-- The word lines of a block are gone from the rows of its group. -/
def State.dropRows (s : State) (g block idx : Nat) : State :=
  s.modNand (fun n => { n with rows := (tmap n.rows (fun k r =>
    if k / 256 = g * 2048 + block then { r with programmed := r.programmed.filter (fun i => i != idx) } else r)).filter (fun r => !r.2.programmed.isEmpty) })

/-- NAND_ERASE_DONE: the block is erased, or the erase failed and the block is torn and tested. -/
def execNandEraseDone (die : Nat) (ok : Bool) (s : State) : Host.Outcome State Fault Refusal :=
  let g := s.variant.groupOf die
  let i := idxOf die
  match (s.die die).busy with
  | none => .next s
  | some r =>
    if r.kind ≠ .erase then .next s
    else
      let s1 := (s.modDie die (fun d => { d with busy := none })).modGroup g (fun x => { x with erasing := none, left := x.left.filter (fun p => p != (i, r.block)) })
      if ok then
        .next ((s1.modBlock die r.block (fun b => { b with
          erases := b.erases + 1, reads := 0, torn := false, committed := 0, laddered := 0, refresh := false })).dropRows g r.block i)
      else
        .next (((s1.modBlock die r.block (fun b => { b with torn := true })).dueErase die r.block).logNand die (nandAddr die r.block 0 0) 0 none)

/-- R249: read the last plan page of each group; each listed block that holds no committed word line is torn, is counted and
is due for another erase. -/
def State.readPlans (s : State) : State :=
  let gs := s.nand.groups.map (·.1)
  gs.foldl (fun s g =>
    let x := s.group g
    let torn := if x.planOn.isEmpty then [] else x.plan.filter (fun p => (s.block (s.variant.dieAt g p.1) p.2).committed == 0)
    let s1 := s.modGroup g (fun x => { x with left := [], erasing := none })
    torn.foldl (fun s p =>
      let d := s.variant.dieAt g p.1
      ((s.modBlock d p.2 (fun b => { b with torn := true })).modNand (fun n => { n with tornErase := satAdd 32 n.tornErase 1 })).dueErase d p.2) s1) s

/-- R250: every program and erase in progress ends; the word line of a program is torn and its block takes no more data. -/
def State.nandReset (s : State) : State :=
  let busy := s.nand.dies.filterMap (fun d => d.2.busy.map (fun r => (d.1, r)))
  let s1 := busy.foldl (fun s p => match p.2.kind with
    | .program => (s.modBlock p.1 p.2.block (fun b => { b with torn := true, refresh := true }))
    | .erase => s.modBlock p.1 p.2.block (fun b => { b with torn := true })
    | _ => s) s
  let s2 := s1.modNand (fun n => { n with dies := tmap n.dies (fun _ d => { d with busy := none, ladder := [] }) })
  s2.readPlans

def execNandReset (s : State) : Host.Outcome State Fault Refusal := .next (if s.power.mode = .noRails then s else s.nandReset)

/-! ### Patrol, refresh, calibration (R252-R254) -/

/-- PATROL_READ: one page of the patrol of an idle die; codewords that fail climb the ladder. -/
def execPatrolRead (die block page : Nat) (cws : List CwRead) (last : Bool) (s : State) : Host.Outcome State Fault Refusal :=
  let r : NandReq := { pri := 4, kind := .read, block := block, page := page, items := [], since := s.time.now, uid := none, lba := none }
  if s.live = true ∧ (s.die die).busy = none ∧ (s.die die).retired = false ∧ block < 2048 ∧ page < 4096 ∧ cws.length ≤ 4
      ∧ s.power.recovering.contains 3 = false then
    let s1 := (s.modBlock die block (fun b => { b with reads := satAdd 32 b.reads 1 })).readPage die r cws
    .next (if last then s1.modDie die (fun d => { d with patrolled := s.power.onTime }) else s1)
  else .next s

/-- R253: the committed data of a block is relocated and the block is released for an erase. -/
def State.release (s : State) (die block : Nat) : State :=
  (s.modBlock die block (fun b => { b with committed := 0, refresh := false })).dueErase die block

/-- BLOCK_REFRESH: a block that meets a condition of R253, or whose program was torn. -/
def execBlockRefresh (die block : Nat) (s : State) : Host.Outcome State Fault Refusal :=
  let b := s.block die block
  .next (if s.live = true ∧ s.power.pstate ≤ 4 ∧ block < 2048 ∧ (b.refresh = true ∨ 200000 ≤ b.reads ∨ b.torn = true) then s.release die block else s)

/-- READ_OFFSET_CALIBRATION. -/
def execReadOffsetCalibration (die block : Nat) (temp : Int) (s : State) : Host.Outcome State Fault Refusal :=
  .next (if s.live = true ∧ block < 2048 then s.modBlock die block (fun b => { b with calibrated := s.power.onTime, calTemp := temp }) else s)

/-! ### Garbage collection and wear (R255, R257, R333) -/

/-- Table 10-6, with the way out of the urgent state. -/
def gcState (old free : Nat) : Nat :=
  if free < 24 ∨ (old = 2 ∧ free < 32) then 2 else if free < 64 then 1 else 0

/-- The data of a stripe is relocated and its 16 blocks are released. -/
def State.releaseStripe (s : State) (g block : Nat) : State :=
  (List.range 16).foldl (fun s i => if (s.die (s.variant.dieAt g i)).retired then s else s.release (s.variant.dieAt g i) block) s

/-- GARBAGE_COLLECTION: the free stripes of a group and the victim of the collection; fewer than 8 free stripes with nothing
to reclaim put the drive into read-only mode (R333). -/
def execGarbageCollection (group free : Nat) (reclaimable : Bool) (victim : Option Nat) (s : State) : Host.Outcome State Fault Refusal :=
  if s.live = true ∧ group < s.variant.groups ∧ free ≤ 2048 ∧ s.power.pstate ≤ 4 then
    let st := gcState (s.group group).gc free
    let s1 := s.modGroup group (fun x => { x with free := free, gc := st })
    let s2 := match victim with
      | some b => if st ≠ 0 ∧ b < 2048 then s1.releaseStripe group b else s1
      | none => s1
    let s3 := if free < 8 ∧ reclaimable = false then s2.modNvme (fun n => { n with readOnly := true }) else s2
    .next (State.noteCritical s s3)
  else .next s

/-- WEAR_LEVELING: the static data of a stripe moves, and its blocks are released. -/
def execWearLeveling (group block : Nat) (s : State) : Host.Outcome State Fault Refusal :=
  .next (if s.live = true ∧ group < s.variant.groups ∧ block < 2048 ∧ s.power.pstate ≤ 4 then s.releaseStripe group block else s)

/-! ### The write cache's way to NAND (R318, R322) -/

/-- CACHE_COMMIT_START: a program of cached extents becomes due at a die, as a foreground program. -/
def execCacheCommitStart (die block wl : Nat) (items : List Nat) (s : State) : Host.Outcome State Fault Refusal :=
  let fresh := items.filter (fun i => s.nvme.cache.any (fun e => e.id == i) && (tfind s.nand.items i).isNone)
  let s1 := s.modNand (fun n => { n with items := fresh.foldl (fun t i => tset t i (.extent i)) n.items })
  let r : NandReq := { pri := 2, kind := .program, block := block, page := wl * 16, items := items, since := s.time.now, uid := none, lba := none }
  .next (if s.live = true ∧ die / 16 < 32 ∧ die % 16 < s.variant.targets ∧ (s.die die).retired = false ∧ items ≠ [] ∧ s1.reqOk die r = true then
    s1.modDie die (fun d => { d with waiting := d.waiting ++ [r] }) else s)

/-- WRITE_ADMIT: the write that waits longest enters the cache when there is room for it. One too large for the whole cache
enters piece by piece (assumption log 25). -/
def execWriteAdmit (s : State) : Host.Outcome State Fault Refusal :=
  match s.nvme.waiting with
  | [] => .next s
  | e :: _ =>
    let all := s.nvme.waiting.takeWhile (fun x => x.h.same e.h)
    let es := if 2048 < all.length then all.take 1 else all
    if s.live = true ∧ s.cacheRoom es = true then
      .next ((s.modNvme (fun n => { n with waiting := n.waiting.drop es.length })).admitPieces es)
    else .next s

end Sys2Proof.Machine
end

