-- ==== Sys2Proof/Machine/NvmeIo.lean ====
section
/-! DEFINITION. The submission doorbell and the NVM commands (R309, R313-R322, R331, R332). -/

namespace Sys2Proof.Machine

/-! ### The doorbell -/

/-- Opcodes of Table 13-3: admin commands, those that a VF accepts (R310), NVM commands. -/
def adminOps : List Nat := [0x00, 0x01, 0x02, 0x04, 0x05, 0x06, 0x08, 0x09, 0x0A, 0x0C, 0x0D, 0x10, 0x11, 0x15, 0x80, 0x81, 0x82, 0x84]
def vfOps : List Nat := [0x00, 0x01, 0x02, 0x04, 0x05, 0x06, 0x08, 0x09, 0x0A, 0x0C]
def nvmOps : List Nat := [0x00, 0x01, 0x02, 0x05, 0x08, 0x09, 0x0C]

/-- Does a controller support an opcode on a queue? -/
def supported (fn sqid op : Nat) : Bool :=
  if sqid ≠ 0 then nvmOps.contains op else if fn = 0 then adminOps.contains op else vfOps.contains op

/-- A controller fetches one command: an unsupported opcode ends it. -/
def State.fetchNvme (s : State) (fn sqid : Nat) (c : Nat × Nat) : State :=
  let h : NvmeHdr := { fn := fn, sqid := sqid, cid := c.1, nsid := 0 }
  let s1 := s.modNvme (fun n => { n with outstanding := n.outstanding ++ [(h, c.2, s.time.now)] })
  if supported fn sqid c.2 then s1 else s1.nvDone h nvInvalidOpcode 0 0

/-- NVME_SQ_DOORBELL: `cmds` are the identifiers and opcodes of the entries that the tail makes available. -/
def execNvmeSqDoorbell (fn sqid tail : Nat) (cmds : List (Nat × Nat)) (s : State) : Host.Outcome State Fault Refusal :=
  let free := cmds.all (fun c => !s.nvme.outstanding.any (fun o => o.1.same { fn := fn, sqid := sqid, cid := c.1, nsid := 0 }))
  let count := s.nvme.outstanding.countP (fun o => o.1.fn == fn) + cmds.length
  if s.linked = true ∧ s.power.nvmeReady = true ∧ fn < 256 ∧ (s.ctl fn).ready = true ∧ free = true ∧ count ≤ 4096 then
    if sqid = 0 then .next (cmds.foldl (fun s c => s.fetchNvme fn 0 c) s.wake)
    else match tfind (s.ctl fn).sqs sqid with
      | none => .next s
      | some q =>
        if q.size ≤ tail ∨ cmds.length ≠ (tail + q.size - q.tail) % q.size then .next s
        else .next (cmds.foldl (fun s c => s.fetchNvme fn sqid c) (s.wake.modCtl fn (fun c => { c with sqs := tset c.sqs sqid { q with tail := tail } })))
  else .next s

/-! ### Checks shared by the NVM commands -/

/-- The status of a bad range, `xfer` when the command transfers its data (Table 13-2: 2,048 KiB). -/
def NsSt.rangeErr (n : NsSt) (slba nlb : Nat) (xfer : Bool) : Option NvmeSts :=
  if nlb = 0 then some nvInvalidField
  else if n.nlba < slba + nlb then some nvLbaRange
  else if xfer = true ∧ 2097152 < nlb * lbaData n.lbaf then some nvInvalidField
  else none

/-- Why a write of a range is turned away: read-only mode or the failed state (R333, R421), or a lock (R327). -/
def State.writeErr (s : State) (nsid slba nlb : Nat) : Option NvmeSts :=
  if s.nvme.readOnly ∨ s.power.failed then some nvWriteFault
  else if s.lockHit (fun l => l.writeLocked) nsid slba nlb then some nvAccess
  else none

/-- A cached or deallocated block needs no NAND. -/
def State.onNand (s : State) (nsid : Nat) (n : NsSt) (lba : Nat) : Bool := (s.cached nsid lba).isNone && (tfind n.media lba).isSome

/-- Codewords that a read delivers from NAND: 4 KiB each. -/
def State.codewords (s : State) (nsid : Nat) (n : NsSt) (slba nlb : Nat) : Nat :=
  ((((List.range nlb).map (· + slba)).filter (fun l => s.onNand nsid n l)).map (fun l => l * lbaData n.lbaf / 4096)).eraseDups.length

/-- The shadow MBR stands in front of the first 128 MiB of namespace 1 while it is enabled (assumption log 26). -/
def State.shadowed (s : State) (nsid : Nat) (n : NsSt) (lba : Nat) : Bool :=
  s.nvme.mbrOn && nsid == 1 && decide ((lba + 1) * lbaData n.lbaf ≤ 134217728)

/-- The block that a command sees. -/
def State.hostBlk (s : State) (nsid : Nat) (n : NsSt) (lba : Nat) : Blk :=
  if s.shadowed nsid n lba then
    let d := mread s.nvme.mbr (lba * lbaData n.lbaf) (lbaData n.lbaf)
    { deallocBlk n.lbaf with data := d, guard := guardOf n.lbaf d }
  else s.blkAt nsid n lba

/-- R315: a stored guard fails: an internal error of the NAND block that held the data, and its test. -/
def State.guardFault (s : State) (h : NvmeHdr) (place lba : Nat) : State :=
  let a : ErrArg := {
    cls := 0x5F, kind := 2, ctx := h.fn, addr := nandAddr (place / 2048) (place % 2048) 0 0, status := 0x8000 + nvGuard.word,
    detail := lba % 2 ^ 32, queue := h.sqid, cid := h.cid, fn := h.fn }
  ((s.nvEnd h nvGuard 0).errInfo h nvGuard lba).logTest a 6 (place / 2048)

/-- Read and check a range for Read, Compare and Verify (R315, R327, R331): on success go on with the blocks. The function
is charged for the codewords (Table 17-8). While F is in recovery a command that needs NAND waits (R419): it is fetched, and
this row runs again; in the failed state of F it ends with Internal Error (R421). -/
def State.readRange (s : State) (h : NvmeHdr) (n : NsSt) (slba nlb prchk : Nat) (pi : PiArgs) (xfer : Bool) (f : State → List Blk → State) : State :=
  match n.rangeErr slba nlb xfer with
  | some st => s.nvDone h st 0 slba
  | none =>
    if s.lockHit (fun l => l.readLocked) h.nsid slba nlb then s.nvDone h nvAccess 0 slba
    else if s.power.recovering.contains 3 ∧ (((List.range nlb).map (· + slba)).any (fun l => s.onNand h.nsid n l)) = true then
      (if s.power.failed then s.nvDone h nvInternal 0 slba else s)
    else match ((List.range nlb).map (· + slba)).find? (fun l => s.onNand h.nsid n l && (tfind n.bad l).isSome) with
    | some l => s.nvDoneAt h nvReadErr 0 l (tget 0 n.bad l)
    | none =>
      let bs := (List.range nlb).map (fun i => s.hostBlk h.nsid n (slba + i))
      let k := s.codewords h.nsid n slba nlb
      let s1 := if k = 0 then s else s.charge h.fn { Counts.zero with nread := 4096 * k }
      match ((List.range nlb).zip bs).find? (fun p => guardBad n p.2) with
      | some p => s1.guardFault h p.2.place (slba + p.1)
      | none => match firstMismatch n prchk pi bs with
        | some st => s1.nvDone h st 0 slba
        | none => f s1 bs

/-! ### The commands -/

/-- FLUSH (R319). -/
def execFlush (h : NvmeHdr) (s : State) : Host.Outcome State Fault Refusal :=
  if h.sqid = 0 ∨ s.takes h = false then .next s
  else
    let s1 := s.begin h 0x00
    let mine (nsid : Nat) : Bool := match tfind s.nvme.ns nsid with | some n => n.attached.contains h.fn | none => false
    if s.sanitizing then .next (s1.nvDone h nvSanitize 0 0)
    else if h.nsid ≠ 0xFFFFFFFF ∧ mine h.nsid = false then .next (s1.nvDone h nvInvalidNs 0 0)
    else
      let covers (e : Extent) : Bool := e.completed && (if h.nsid = 0xFFFFFFFF then mine e.h.nsid else e.h.nsid == h.nsid)
      let waits := (s1.nvme.cache.filter covers).map (·.id)
      .next (if waits.isEmpty then s1.nvDone h nvOk 0 0
        else s1.modNvme (fun n => { n with flushes := n.flushes ++ [{ h := h, waits := waits, since := s.time.now }] }))

/-- The protection fields of a block of a write (R314). -/
def writeBlk (n : NsSt) (pract : Bool) (pi : PiArgs) (i : Nat) (d : List Byte) : Blk :=
  if lbaMd n.lbaf = 0 then { data := d, guard := guardOf n.lbaf d, app := 0xFFFF, ref := 0xFFFFFFFF, place := 0 }
  else if pract = true ∧ n.pi ≠ 0 then
    { data := d, guard := guardOf n.lbaf d, app := pi.lbat % 65536,
      ref := (if n.pi = 3 then pi.ilbrt else pi.ilbrt + i) % 2 ^ refBits n.lbaf, place := 0 }
  else { data := d, guard := pi.guards.getD i 0, app := pi.appTags.getD i 0, ref := pi.refTags.getD i 0, place := 0 }

/-- WRITE. -/
def execWrite (h : NvmeHdr) (slba nlb : Nat) (fua pract : Bool) (prchk : Nat) (pi : PiArgs) (data : List Byte) (s : State) :
    Host.Outcome State Fault Refusal :=
  .next (s.nvm h 0x01 slba (fun s n =>
    match n.rangeErr slba nlb true with
    | some st => s.nvDone h st 0 slba
    | none => match s.writeErr h.nsid slba nlb with
      | some st => s.nvDone h st 0 slba
      | none =>
        let l := lbaData n.lbaf
        let bs := (List.range nlb).map (fun i => writeBlk n pract pi i (slice data (i * l) l))
        if data.length ≠ nlb * l then s.nvDone h nvInvalidField 0 slba
        else match (if pract then none else firstMismatch n prchk pi bs) with
          | some st => s.nvDone h st 0 slba
          | none => s.submit (dataPieces h n fua s.nextId slba bs)))

/-- READ: data and metadata go to the host, interleaved when FLBAS says so; with PRACT the protection information stays. -/
def execRead (h : NvmeHdr) (slba nlb : Nat) (pract : Bool) (prchk : Nat) (pi : PiArgs) (dst mdst : Nat) (s : State) :
    Host.Outcome State Fault Refusal :=
  .next (s.nvm h 0x02 slba (fun s n =>
    s.readRange h n slba nlb prchk pi true (fun s bs =>
      let md (b : Blk) : List Byte := if pract = true ∧ n.pi ≠ 0 then [] else b.md n.lbaf
      let s1 :=
        if n.ext then s.hostWrite dst (bs.flatMap (fun b => b.data ++ md b))
        else (s.hostWrite dst (bs.flatMap (·.data))).hostWrite mdst (bs.flatMap md)
      s1.nvDone h nvOk 0 slba)))

/-- No tags to check. -/
def PiArgs.none : PiArgs := { guards := [], appTags := [], refTags := [], lbat := 0, lbatm := 0, ilbrt := 0 }

/-- COMPARE (R331). -/
def execCompare (h : NvmeHdr) (slba nlb : Nat) (data : List Byte) (s : State) : Host.Outcome State Fault Refusal :=
  .next (s.nvm h 0x05 slba (fun s n =>
    s.readRange h n slba nlb 0 PiArgs.none true (fun s bs =>
      s.nvDone h (if bs.flatMap (·.data) = data then nvOk else nvCompare) 0 slba)))

/-- WRITE_ZEROES. -/
def execWriteZeroes (h : NvmeHdr) (slba nlb : Nat) (fua : Bool) (s : State) : Host.Outcome State Fault Refusal :=
  .next (s.nvm h 0x08 slba (fun s n =>
    match n.rangeErr slba nlb false with
    | some st => s.nvDone h st 0 slba
    | none => match s.writeErr h.nsid slba nlb with
      | some st => s.nvDone h st 0 slba
      | none => s.submit (zeroPieces h n 1 fua s.nextId slba nlb)))

/-- The pieces of several ranges. -/
def rangePieces (h : NvmeHdr) (n : NsSt) : Nat → List (Nat × Nat) → List Extent
  | _, [] => []
  | id, r :: rs => let ps := zeroPieces h n 2 false id r.1 r.2; ps ++ rangePieces h n (id + ps.length) rs

/-- DATASET_MANAGEMENT_DEALLOCATE (R316): at most 256 ranges. -/
def execDatasetManagementDeallocate (h : NvmeHdr) (ranges : List (Nat × Nat)) (s : State) : Host.Outcome State Fault Refusal :=
  .next (s.nvm h 0x09 0 (fun s n =>
    let rs := ranges.filter (fun r => r.2 != 0)
    if ranges.isEmpty ∨ 256 < ranges.length then s.nvDone h nvInvalidField 0 0
    else if rs.any (fun r => decide (n.nlba < r.1 + r.2)) then s.nvDone h nvLbaRange 0 0
    else match rs.findSome? (fun r => s.writeErr h.nsid r.1 r.2) with
      | some st => s.nvDone h st 0 0
      | none => if rs.isEmpty then s.nvDone h nvOk 0 0 else s.submit (rangePieces h n s.nextId rs)))

/-- VERIFY. -/
def execVerify (h : NvmeHdr) (slba nlb prchk : Nat) (pi : PiArgs) (s : State) : Host.Outcome State Fault Refusal :=
  .next (s.nvm h 0x0C slba (fun s n => s.readRange h n slba nlb prchk pi false (fun s _ => s.nvDone h nvOk 0 slba)))

end Sys2Proof.Machine
end

