-- ==== Sys2Proof/Machine/StoreOps.lean ====
section
/-! DEFINITION. The program store (chapter 11): its journal, sector erases, the rotating window, the one operation at a time,
lacuna slots, installs, firmware commits and the program loader. -/

namespace Sys2Proof.Machine

/-! ### The journal (R263) -/

/-- Kinds of Table 11-3. -/
def jIntent : Nat := 1
def jDone : Nat := 2
def jGap : Nat := 3
def jSlot : Nat := 4
def jCheck : Nat := 5

/-- Append an entry to the active control sector. -/
def State.journal (s : State) (kind slotBits sector : Nat) : State :=
  let t := s.store
  let moves := kind = jGap ∨ kind = jCheck
  let e : JEntry := {
    kind := kind, slotBits := slotBits, sector := sector, seq := t.jseq + 1, time := s.time.now,
    h := if moves then t.h else 0, k := if moves then t.k else 0, erases := t.erases }
  s.modStore (fun t => { t with journal := t.journal ++ [e], used := t.used + 1, jseq := t.jseq + 1 })

/-- Set the state of a boot slot, and journal it. -/
def State.setSlot (s : State) (b : Bool) (st : Nat) : State :=
  (s.modStore (fun t => if b then { t with slotB := st } else { t with slotA := st })).journal jSlot (b2n b * 128 + st) 0

/-- CONTROL_SECTOR_SWITCH. -/
def execControlSectorSwitch (s : State) : Host.Outcome State Fault Refusal :=
  if s.live = true ∧ 2040 ≤ s.store.used ∧ s.store.cur = none then
    let other := 1 - s.store.activeCs
    let s1 := (s.journal jIntent 0 other).journal jDone 0 other
    .next ((s1.modStore (fun t => { t with journal := [], used := 0, activeCs := other })).journal jCheck (s.store.slotA + 8 * s.store.slotB) 0)
  else .next s

/-! ### The rotating window (R267, R268) -/

/-- R267: the slot of a logical sector. -/
def slotOf (h k l : Nat) : Nat := (h + 96 + (l + 3968 - k) % 3968) % 4064

/-- The physical sector of a logical one. -/
def StoreSt.sector (t : StoreSt) (l : Nat) : Nat := 32 + slotOf t.h t.k l

/-- Is a slot in the hole? -/
def StoreSt.inHole (t : StoreSt) (slot : Nat) : Bool := decide ((slot + 4064 - t.h) % 4064 < 96)

/-- Make the erase of a physical sector due. -/
def State.queueErase (s : State) (sector : Nat) : State := s.modStore (fun t => { t with queue := t.queue ++ [{ kind := .erase sector }] })

/-- GAP_ADVANCE: after every 64 erases the sector at slot H + 96 is copied into slot H, and the hole moves on by one. -/
def execGapAdvance (s : State) : Host.Outcome State Fault Refusal :=
  let t := s.store
  let src := (t.h + 96) % 4064
  if s.live = true ∧ t.cur = none ∧ 64 * (t.gaps + 1) ≤ t.erases ∧ t.hole = [] ∧ t.dirty.contains t.h = false ∧ t.used < 2040
      ∧ t.queue.contains { kind := .erase (32 + src) } = false then
    let s1 := s.modStore (fun t => { t with h := (t.h + 1) % 4064, k := (t.k + 1) % 3968, gaps := t.gaps + 1, dirty := t.dirty ++ [src] })
    .next ((s1.journal jGap 0 0).queueErase (32 + src))
  else .next s

/-! ### Operations (R262) -/

/-- R262: the place of an operation in the order; erases of a boot slot belong to its write. -/
def StoreSt.rank (o : StoreOp) : Nat :=
  match o.kind with
  | .powerFail => 1
  | .journal => 2
  | .loaderRead => 3
  | .timeRecord => 4
  | .lacunaCopy => 4
  | .ledgerRecord => 4
  | .errorRecords => 4
  | .bootWrite => 5
  | .install _ => 5
  | .erase x => if x < 32 then 5 else 6

/-- Is the operation an erase of a boot sector? -/
def StoreSt.bootErase (o : StoreOp) : Bool := match o.kind with | .erase x => decide (2 ≤ x ∧ x < 32) | _ => false

/-- May an operation start? An erase needs room in the journal; an image is written once its slot is erased. -/
def State.storeReady (s : State) (o : StoreOp) : Bool :=
  match o.kind with
  | .powerFail => false
  | .erase _ => decide (s.store.used < 2040)
  | .bootWrite => !s.store.queue.any StoreSt.bootErase && decide (s.store.used < 2040)
  | _ => true

/-- The operation that starts next, with its position. -/
def State.nextStore (s : State) : Option (Nat × StoreOp) :=
  let q := s.store.queue
  (((List.range q.length).zip q).filter (fun p => s.storeReady p.2)).foldl (fun b p => match b with
    | none => some p
    | some x => if StoreSt.rank p.2 < StoreSt.rank x.2 then some p else some x) none

/-- Operations that may become due without a cause of their own: reads, journal and record writes, and the erase of a freed
library sector or of a slot of the hole that does not read erased. -/
def State.storeDue (s : State) (o : StoreOp) : Bool :=
  match o.kind with
  | .journal => true
  | .loaderRead => true
  | .ledgerRecord => true
  | .errorRecords => true
  | .erase x => s.store.freed.any (fun l => s.store.sector l == x) || (decide (32 ≤ x) && s.store.dirty.contains (x - 32))
  | _ => false

/-- STORE_OP_START. -/
def execStoreOpStart (due : List StoreOp) (s : State) : Host.Outcome State Fault Refusal :=
  if s.live = false then .next s
  else
    let s1 := s.modStore (fun t => { t with queue := t.queue ++ due.filter (fun o => s.storeDue o && !t.queue.contains o) })
    if s1.store.cur.isSome then .next s1
    else match s1.nextStore with
      | none => .next s1
      | some (pos, o) =>
        let s2 := s1.modStore (fun t => { t with cur := some o, queue := t.queue.eraseIdx pos })
        .next (match o.kind with
          | .erase x => s2.journal jIntent 0 x
          | _ => s2)

/-- STORE_ERASE_DONE: the sector passes its blank check, or is erased again. Every erase of the rotating area counts. -/
def execStoreEraseDone (blank : Bool) (s : State) : Host.Outcome State Fault Refusal :=
  match s.store.cur with
  | none => .next s
  | some o => match o.kind with
    | .erase x =>
      let s1 := if 32 ≤ x then s.modStore (fun t => { t with erases := t.erases + 1 }) else s
      if blank then
        .next ((s1.modStore (fun t => { t with
          cur := none, dirty := t.dirty.filter (fun d => 32 + d != x), freed := t.freed.filter (fun l => t.sector l != x) })).journal jDone 0 x)
      else .next (s1.journal jIntent 0 x)
    | _ => .next s

/-! ### Lacuna slots (R273, R341) -/

/-- A lacuna slot is free: it holds no record and its erase is not due. -/
def State.lacunaFree (s : State) (k : Nat) : Bool :=
  !s.store.lacuna.any (fun r => r.place == [k]) &&
    !((s.store.cur.toList ++ s.store.queue).any (fun o => match o.kind with
      | .erase x => x == s.store.sector (4 + 2 * k) || x == s.store.sector (5 + 2 * k)
      | _ => false))

/-- Post an asynchronous event of R341 to each controller. -/
def State.lacunaEvent (s : State) : State :=
  s.nvme.ctls.foldl (fun s c => if c.2.enabled then s.asyncEvent c.1 (eventDw 7 0x00 0xC0) else s) s

/-- Copy the oldest record of the hole into a free lacuna slot; its hole sectors are to be erased. -/
def State.copyRecord (s : State) : State :=
  match s.store.hole, (List.range 16).find? s.lacunaFree with
  | r :: rest, some k =>
    let r' : LacunaRec := { r with copied := s.time.now, place := [k] }
    let s1 := s.modStore (fun t => { t with hole := rest, lacuna := t.lacuna ++ [r'], dirty := t.dirty ++ r.place })
    r.place.foldl (fun s p => s.queueErase (32 + p)) s1
  | _, _ => s

/-! ### The end of a program (R262, R266) -/

/-- The running slot is B. -/
def StoreSt.image (t : StoreSt) (b : Bool) : Option FwImage := if b then t.imgB else t.imgA

/-- R278: an image that the boot ROM starts. -/
def StoreSt.valid (t : StoreSt) (b : Bool) : Bool :=
  match t.image b with
  | some i => i.sigOk && decide (t.minSvn ≤ i.svn)
  | none => false

/-- R279, R312: the image is in its slot; it is verified, journaled PENDING or FAILED, and the command completes. -/
def State.finishCommit (s : State) (h : NvmeHdr) (b : Bool) (i : FwImage) : State :=
  let s1 := s.modStore (fun t => if b then { t with imgB := some i, commit := none } else { t with imgA := some i, commit := none })
  if i.sigOk = false then (s1.setSlot b 5).nvDone h nvFwImage 0 0
  else if i.svn < s.store.minSvn then (s1.setSlot b 5).nvDone h nvFwProhibited 0 0
  else (s1.setSlot b 2).nvDone h nvFwReset 0 0

/-- STORE_PAGE_PROGRAM_DONE: the operation that is not an erase ends, with what depends on it. -/
def execStorePageProgramDone (s : State) : Host.Outcome State Fault Refusal :=
  match s.store.cur with
  | none => .next s
  | some o =>
    let s1 := s.modStore (fun t => { t with cur := none })
    if s.live = false then .next s
    else match o.kind with
    | .erase _ => .next s
    | .powerFail => .next s
    | .journal => .next s1
    | .loaderRead => .next s1
    | .ledgerRecord => .next s1
    | .errorRecords => .next s1
    | .timeRecord => .next (s1.modTime (fun t => { t with recorded := some (max (t.recorded.getD 0) t.now) }))
    | .lacunaCopy => .next (if s1.store.hole = [] then s1 else s1.copyRecord.lacunaEvent)
    | .bootWrite => match s1.store.commit with
      | none => .next s1
      | some (h, b, i) => .next (s1.finishCommit h b i)
    | .install uid => match s1.cmd? uid with
      | none => .next s1
      | some c => .next ((if c.status.isSome then s1 else State.finishBody c (finishInstall s1 c)).settle.recheck)

/-! ### The program loader (R276, R277) -/

/-- PROGRAM_LOAD: `reads` are the outcomes of the SHA-384 checks, the second after a mismatch of the first. A second mismatch
damages the program: the sector is logged, and every command that needs it ends with STORAGE_MEDIA. -/
def execProgramLoad (obj : Nat) (reads : List Bool) (s : State) : Host.Outcome State Fault Refusal :=
  match s.obj? obj with
  | none => .next s
  | some x => match x.prog with
    | none => .next s
    | some p =>
      let idle := match s.store.cur with
        | none => true
        | some o => decide (o.kind = .loaderRead)
      if s.live = false ∨ idle = false ∨ reads = [] ∨ p.damaged = true then .next s
      else
        let s1 := s.modStore (fun t => { t with cur := none })
        let good := reads.take 2 ≠ [false, false] ∧ reads ≠ [false]
        if good then .next (s1.setObj obj { x with prog := some { p with loaded := true } })
        else if reads.length < 2 then .next s
        else
          let s2 := (s1.setObj obj { x with prog := some { p with damaged := true, loaded := false } }).logErr
            { cls := 0x23, kind := 2, unit := unitOf 0xB 0, addr := s.store.sector (p.sectors.headD 364) }
          let needs (c : Cmd) : Bool := match c.body with
            | .run q .. => (match s.handleObj c.e.ctx q with | some (m, _) => m.obj == obj | none => false)
            | _ => false
          let uids := (s2.cmds.filter needs).map (·.uid)
          .next (((s2.endOps uids stStorageMedia).concludeAll needs stStorageMedia).settle.recheck)

end Sys2Proof.Machine
end

