-- ==== Sys2Proof/Machine/NvmeAdmin.lean ====
section
/-! DEFINITION. The NVMe admin commands (R306-R312, R329-R338): queues, Identify, features, namespaces, firmware, format,
security and sanitize; and the low-power entry and the idle timer. -/

namespace Sys2Proof.Machine

/-! ### Queues (Table 13-2) -/

/-- I/O queues that a function may create. -/
def State.maxQueues (s : State) (fn : Nat) (sub : Bool) : Nat :=
  let top := if fn = 0 then 256 else 16
  match tfind (s.ctl fn).feats 0x07 with
  | some v => min top (bits v.toNat (if sub then 15 else 31) (if sub then 0 else 16) + 1)
  | none => top

def execCreateIoSubmissionQueue (h : NvmeHdr) (qid qsize cqid : Nat) (s : State) : Host.Outcome State Fault Refusal :=
  .next (s.admin h 0x01 true (fun s =>
    let c := s.ctl h.fn
    if qid = 0 ∨ s.maxQueues h.fn true < qid ∨ (tfind c.sqs qid).isSome then s.nvDone h nvQid 0 0
    else if (tfind c.cqs cqid).isNone then s.nvDone h nvCqInvalid 0 0
    else if qsize < 2 ∨ 16384 < qsize then s.nvDone h nvQsize 0 0
    else
      let q : IoQueue := { size := qsize, tail := 0, link := cqid, irq := false }
      (s.modCtl h.fn (fun c => { c with sqs := tset c.sqs qid q })).nvDone h nvOk 0 0))

def execCreateIoCompletionQueue (h : NvmeHdr) (qid qsize iv : Nat) (ien : Bool) (s : State) : Host.Outcome State Fault Refusal :=
  .next (s.admin h 0x05 true (fun s =>
    let c := s.ctl h.fn
    if qid = 0 ∨ s.maxQueues h.fn false < qid ∨ (tfind c.cqs qid).isSome then s.nvDone h nvQid 0 0
    else if qsize < 2 ∨ 16384 < qsize then s.nvDone h nvQsize 0 0
    else if ien = true ∧ vectorsOf h.fn ≤ iv then s.nvDone h nvVector 0 0
    else
      let q : IoQueue := { size := qsize, tail := 0, link := iv, irq := ien }
      (s.modCtl h.fn (fun c => { c with cqs := tset c.cqs qid q })).nvDone h nvOk 0 0))

/-- DELETE_IO_SUBMISSION_QUEUE: its commands end (Table 13-6). -/
def execDeleteIoSubmissionQueue (h : NvmeHdr) (qid : Nat) (s : State) : Host.Outcome State Fault Refusal :=
  .next (s.admin h 0x00 true (fun s =>
    if (tfind (s.ctl h.fn).sqs qid).isNone then s.nvDone h nvQid 0 0
    else
      let s1 := s.endNvme (fun x => x.fn == h.fn && x.sqid == qid) nvSqDeleted
      (s1.modCtl h.fn (fun c => { c with sqs := tdel c.sqs qid })).nvDone h nvOk 0 0))

def execDeleteIoCompletionQueue (h : NvmeHdr) (qid : Nat) (s : State) : Host.Outcome State Fault Refusal :=
  .next (s.admin h 0x04 true (fun s =>
    let c := s.ctl h.fn
    if (tfind c.cqs qid).isNone then s.nvDone h nvQid 0 0
    else if c.sqs.any (fun q => q.2.link == qid) then s.nvDone h nvQDeletion 0 0
    else (s.modCtl h.fn (fun c => { c with cqs := tdel c.cqs qid })).nvDone h nvOk 0 0))

/-- NVME_ABORT: a command that waits ends with Command Abort Requested; one with data in the cache is not aborted (R325), and
bit 0 of dword 0 says so. -/
def execNvmeAbort (h : NvmeHdr) (sqid cid : Nat) (s : State) : Host.Outcome State Fault Refusal :=
  .next (s.admin h 0x08 true (fun s =>
    let f (x : NvmeHdr) : Bool := x.fn == h.fn && x.sqid == sqid && x.cid == cid
    if s.nvme.outstanding.any (fun o => f o.1 && !o.1.same h) ∧ s.nvme.cache.any (fun e => !e.completed && f e.h) = false then
      (s.endNvme f nvAborted).nvDone h nvOk 0 0
    else s.nvDone h nvOk 1 0))

/-- ASYNC_EVENT_REQUEST: an event that is held ends it at once. Up to four stay outstanding (assumption log 12). -/
def execAsyncEventRequest (h : NvmeHdr) (s : State) : Host.Outcome State Fault Refusal :=
  .next (s.admin h 0x0C true (fun s =>
    let c := s.ctl h.fn
    if 4 ≤ c.aers.length then s.nvDone h { sct := 1, sc := 0x05, dnr := true } 0 0
    else match c.held with
      | dw0 :: rest => (s.modCtl h.fn (fun c => { c with held := rest })).nvDone h nvOk dw0 0
      | [] => s.modCtl h.fn (fun c => { c with aers := c.aers ++ [h.cid] })))

/-! ### Data pages -/

/-- A page of fields: the bytes that the spec does not give are free values (assumption log 1). -/
def pageOver (draw n : Nat) (fs : List (Nat × List Byte)) : List Byte :=
  (List.range n).map (fun i => match fs.find? (fun f => f.1 ≤ i && i < f.1 + f.2.length) with
    | some f => f.2.getD (i - f.1) 0
    | none => Config.freeByte draw i)

/-- Give a page to the host and complete the command. -/
def State.sendPage (s : State) (h : NvmeHdr) (dst : Nat) (bs : List Byte) : State := ((s.hostWrite dst bs).drawn).nvDone h nvOk 0 0

/-- The firmware revision: eight uppercase hexadecimal characters (R2). -/
def hexChars (v : Nat) : List Byte :=
  (List.range 8).map (fun i => let d := v / 16 ^ (7 - i) % 16; BitVec.ofNat 8 (if d < 10 then 48 + d else 55 + d))

/-- UNVMCAP: the user capacity less T2 quotas and namespaces (R308). -/
def State.unvmcap (s : State) : Nat := s.variant.user - s.nvmGib * 2 ^ 30

/-- A power state descriptor (Table 13-8), in 0.01 W. -/
def psDesc (p : Nat) : List Byte :=
  le 2 ([7000, 5500, 4000, 2500, 800, 300].getD p 0) ++ zeros 1 ++ le 1 (if 4 ≤ p then 2 else 0) ++
    le 4 ([0, 0, 0, 0, 1000, 10000].getD p 0) ++ le 4 ([0, 0, 0, 0, 4000, 30000].getD p 0)

/-- Identify Controller: the fields that the spec gives, at their NVMe offsets (assumption log 12). -/
def State.identCtrl (s : State) (fn : Nat) : List (Nat × List Byte) :=
  [(64, hexChars s.fwVersion), (77, le 1 9), (78, le 2 (fn + 1)), (84, le 4 30000000), (88, le 4 2000000), (262, le 1 255), (263, le 1 5),
    (265, le 1 1), (266, le 2 348), (268, le 2 358), (280, le 16 s.variant.user), (296, le 16 s.unvmcap), (516, le 4 64), (522, le 2 0),
    (526, le 2 31), (528, le 2 31), (532, le 2 0)] ++ (List.range 6).map (fun p => (2048 + 32 * p, psDesc p))

/-- Identify Namespace (R308, R313, R316, R326). -/
def NsSt.ident (n : NsSt) : List (Nat × List Byte) :=
  let na := if n.lbaf ≤ 1 then 255 else 31
  [(0, le 8 n.nlba), (8, le 8 n.nlba), (16, le 8 n.nlba), (24, le 1 2), (25, le 1 4), (26, le 1 (n.lbaf + 16 * b2n n.ext)), (27, le 1 3),
    (29, le 1 n.pi), (33, le 1 0x19), (34, le 2 na), (36, le 2 na), (40, le 2 0), (42, le 2 0), (44, le 2 0), (48, le 16 (n.gib * 2 ^ 30))] ++
    (List.range 5).map (fun f => (128 + 4 * f, le 2 (lbaMd f) ++ le 1 (if f ≤ 1 then 9 else 12)))

/-- The Identify data structure of a CNS value; `none` for one that is not supported. -/
def State.identPage (s : State) (fn nsid cns : Nat) : Option (List Byte) :=
  if cns = 1 then some (pageOver s.freeCtr 4096 (s.identCtrl fn))
  else if cns = 0 then
    (match tfind s.nvme.ns nsid with
      | some n => if n.attached.contains fn then some (pageOver s.freeCtr 4096 n.ident) else some (zeros 4096)
      | none => some (zeros 4096))
  else if cns = 2 then
    let ids := ((List.range 65).filter (fun i => decide (nsid < i) && (match tfind s.nvme.ns i with | some n => n.attached.contains fn | none => false)))
    some (ids.flatMap (le 4) ++ zeros (4096 - 4 * ids.length))
  else none

/-- IDENTIFY. -/
def execIdentify (h : NvmeHdr) (cns dst : Nat) (s : State) : Host.Outcome State Fault Refusal :=
  .next (s.admin h 0x06 true (fun s =>
    if cns = 0 ∧ (h.nsid = 0 ∨ 64 < h.nsid) then s.nvDone h nvInvalidNs 0 0
    else match s.identPage h.fn h.nsid cns with
      | some p => s.sendPage h dst p
      | none => s.nvDone h nvInvalidField 0 0))

/-! ### Features (R309-R311, R321, R326, R334-R338, R412) -/

/-- R310: features of the whole drive. -/
def driveFeat (fid : Nat) : Bool := [0x02, 0x06, 0x0C, 0xC0].contains fid

/-- Set a feature: a VF changes none of the whole drive. -/
def State.setFeat (s : State) (h : NvmeHdr) (fid : Nat) (f : State → State) : State :=
  s.admin h 0x09 true (fun s => if h.fn ≠ 0 ∧ driveFeat fid = true then s.nvDone h nvNotChangeable 0 0 else f s)

/-- Store a feature value of a controller and complete. -/
def State.keepFeat (s : State) (h : NvmeHdr) (key : Nat) (v : W32) : State :=
  (s.modCtl h.fn (fun c => { c with feats := tset c.feats key v })).nvDone h nvOk 0 0

/-- The APST table as data: target in bits 7:3, idle time in bits 31:8 of each of 32 entries. -/
def apstBytes (t : List (Nat × Nat)) : List Byte :=
  (List.range 32).flatMap (fun i => let e := t.getD i (0, 0); le 8 (e.1 * 8 + e.2 * 256))

/-- GET_FEATURES. -/
def execGetFeatures (h : NvmeHdr) (fid cdw11 dst : Nat) (s : State) : Host.Outcome State Fault Refusal :=
  .next (s.admin h 0x0A true (fun s =>
    let c := s.ctl h.fn
    let top := if h.fn = 0 then 255 else 15
    if fid = 0x02 then s.nvDone h nvOk (s.power.lowPending.getD s.power.pstate) 0
    else if fid = 0x06 then s.nvDone h nvOk (b2n s.nvme.wce) 0
    else if fid = 0x07 then s.nvDone h nvOk (match tfind c.feats 0x07 with | some v => v.toNat | none => top * 2 ^ 16 + top) 0
    else if fid = 0x0C then (s.hostWrite dst (apstBytes s.nvme.apstTable)).nvDone h nvOk (b2n s.nvme.apst) 0
    else if fid = 0x0E then (s.hostWrite dst (le 6 (c.hostTime s.time.now) ++ le 1 (2 * b2n c.tsSet) ++ zeros 1)).nvDone h nvOk 0 0
    else if fid = 0xC0 then s.nvDone h nvOk 0 0
    else if fid = 0x04 then s.nvDone h nvOk (c.feat (0x04 + 256 * bits cdw11 21 16)) 0
    else if fid = 0x09 then s.nvDone h nvOk (c.feat (0x09 + 256 * (cdw11 % 65536))) 0
    else if [0x01, 0x08, 0x0A, 0x0B].contains fid then s.nvDone h nvOk (c.feat fid) 0
    else s.nvDone h nvInvalidField 0 0))

def execSetArbitration (h : NvmeHdr) (value : BitVec 32) (s : State) : Host.Outcome State Fault Refusal :=
  .next (s.setFeat h 0x01 (fun s => s.keepFeat h 0x01 value))

/-- SET_POWER_MANAGEMENT: PS0 to PS3 at once; PS4 and PS5 once the cache is clean (R335, R336). -/
def execSetPowerManagement (h : NvmeHdr) (value : BitVec 32) (s : State) : Host.Outcome State Fault Refusal :=
  .next (s.setFeat h 0x02 (fun s =>
    let ps := value.toNat % 32
    if 5 < ps then s.nvDone h nvInvalidField 0 0
    else if ps ≤ 3 then (s.setPstate ps).nvDone h nvOk 0 0
    else (s.modPower (fun p => { p with lowPending := some ps })).nvDone h nvOk 0 0))

/-- LOW_POWER_ENTRY. -/
def execLowPowerEntry (s : State) : Host.Outcome State Fault Refusal :=
  match s.power.lowPending with
  | none => .next s
  | some ps => .next (if s.live = true ∧ s.nvme.cache = [] ∧ s.nvme.waiting = [] then s.setPstate ps else s)

/-- The composite temperature in K: the higher of Tn and Tj - 20 °C (R412). -/
def State.composite (s : State) : Nat := ((max s.maxTn (s.maxTj - 320) + 273 * 16) / 16).toNat

/-- A crossing of a threshold posts the SMART temperature event (assumption log 11). -/
def State.checkTemp (s : State) (fn : Nat) : State :=
  let c := s.ctl fn
  if c.feat 0x04 < s.composite ∨ s.composite < c.feat (0x04 + 256 * 0x10) then s.asyncEvent fn (eventDw 1 1 0x02) else s

/-- SET_TEMPERATURE_THRESHOLD. -/
def execSetTemperatureThreshold (h : NvmeHdr) (value : BitVec 32) (s : State) : Host.Outcome State Fault Refusal :=
  .next (s.setFeat h 0x04 (fun s =>
    (s.keepFeat h (0x04 + 256 * bits value.toNat 21 16) (value &&& 0xFFFF)).checkTemp h.fn))

/-- SET_VOLATILE_WRITE_CACHE (R321). -/
def execSetVolatileWriteCache (h : NvmeHdr) (value : BitVec 32) (s : State) : Host.Outcome State Fault Refusal :=
  .next (s.setFeat h 0x06 (fun s => (s.modNvme (fun n => { n with wce := bit value.toNat 0 })).nvDone h nvOk 0 0))

/-- SET_NUMBER_OF_QUEUES: what is granted is in dword 0. -/
def execSetNumberOfQueues (h : NvmeHdr) (value : BitVec 32) (s : State) : Host.Outcome State Fault Refusal :=
  .next (s.setFeat h 0x07 (fun s =>
    let v := value.toNat
    let top := if h.fn = 0 then 255 else 15
    let c := s.ctl h.fn
    if v % 65536 = 65535 ∨ v / 65536 = 65535 then s.nvDone h nvInvalidField 0 0
    else if c.sqs ≠ [] ∨ c.cqs ≠ [] then s.nvDone h nvSequence 0 0
    else
      let g := min (v / 65536) top * 65536 + min (v % 65536) top
      (s.modCtl h.fn (fun c => { c with feats := tset c.feats 0x07 (BitVec.ofNat 32 g) })).nvDone h nvOk g 0))

def execSetInterruptCoalescing (h : NvmeHdr) (value : BitVec 32) (s : State) : Host.Outcome State Fault Refusal :=
  .next (s.setFeat h 0x08 (fun s => s.keepFeat h 0x08 value))

def execSetInterruptVectorConfiguration (h : NvmeHdr) (value : BitVec 32) (s : State) : Host.Outcome State Fault Refusal :=
  .next (s.setFeat h 0x09 (fun s => s.keepFeat h (0x09 + 256 * (value.toNat % 65536)) value))

/-- SET_WRITE_ATOMICITY_NORMAL: accepted; it changes nothing but the value that the feature reads as. -/
def execSetWriteAtomicityNormal (h : NvmeHdr) (value : BitVec 32) (s : State) : Host.Outcome State Fault Refusal :=
  .next (s.setFeat h 0x0A (fun s => s.keepFeat h 0x0A value))

def execSetAsyncEventConfiguration (h : NvmeHdr) (value : BitVec 32) (s : State) : Host.Outcome State Fault Refusal :=
  .next (s.setFeat h 0x0B (fun s => s.keepFeat h 0x0B value))

/-- SET_APST: an entry with an idle time names PS4 or PS5 (R338). -/
def execSetApst (h : NvmeHdr) (enable : Bool) (table : List (Nat × Nat)) (s : State) : Host.Outcome State Fault Refusal :=
  .next (s.setFeat h 0x0C (fun s =>
    if table.any (fun e => e.2 != 0 && e.1 != 4 && e.1 != 5) then s.nvDone h nvInvalidField 0 0
    else (s.modNvme (fun n => { n with apst := enable, apstTable := table.take 32 })).nvDone h nvOk 0 0))

/-- R338: nothing keeps the idle timer from running. -/
def State.isIdle (s : State) : Bool :=
  s.nvme.outstanding.all (fun o => o.2.1 == 0x0C && o.1.sqid == 0) && s.cmds.isEmpty && s.peer.ops.isEmpty && !s.sanitizing &&
    !s.tests.any (·.running) && s.store.hole.isEmpty &&
    s.ctxs.all (fun c => c.2.queues.all (fun q => q.2.avail.isEmpty) && c.2.slots.all (fun x => !x.2.busy))

/-- APST_IDLE_EXPIRY: the drive enters the state of the table once the cache is clean. -/
def execApstIdleExpiry (s : State) : Host.Outcome State Fault Refusal :=
  let e := s.nvme.apstTable.getD s.power.pstate (0, 0)
  .next (if s.live = true ∧ s.nvme.apst = true ∧ s.power.pstate ≤ 3 ∧ e.2 ≠ 0 ∧ s.isIdle = true ∧ s.nvme.idleSince + e.2 * 1000000 ≤ s.time.now then
    s.modPower (fun p => { p with lowPending := some e.1 }) else s)

/-- SET_TIMESTAMP (R311, R447). -/
def execSetTimestamp (h : NvmeHdr) (ms : Nat) (s : State) : Host.Outcome State Fault Refusal :=
  .next (s.setFeat h 0x0E (fun s =>
    let v := ms % 2 ^ 48
    let back := decide (v < (s.ctl h.fn).hostTime s.time.now)
    let s1 := s.modCtl h.fn (fun c => { c with tsValue := v, tsAt := s.time.now, tsSet := true })
    let s2 := if back = true ∧ s.ledger.isOpen = true then s1.modLedger (fun l => { l with flags := 1, regressions := satAdd 32 l.regressions 1 }) else s1
    s2.nvDone h nvOk 0 0))

/-- LACUNA_RELEASE (R342, R404): the record's slot is to be erased and its marks go. -/
def execLacunaRelease (h : NvmeHdr) (seq : Nat) (s : State) : Host.Outcome State Fault Refusal :=
  .next (s.setFeat h 0xC0 (fun s =>
    match s.store.lacuna.find? (fun r => r.seq % 2 ^ 32 == seq % 2 ^ 32) with
    | none => s.nvDone h nvInvalidField 0 0
    | some r =>
      let rest := s.store.lacuna.filter (fun x => x.seq != r.seq)
      let names (l : List LacunaRec) (o : ObjectSt) : Bool := l.any (fun x => x.kcis.any (fun k => k.oid != 0 && k.oid == o.oid && k.part == o.part))
      let s1 := s.modStore (fun t => { t with lacuna := rest })
      let s2 := r.place.foldl (fun s k => (s.queueErase (s.store.sector (4 + 2 * k))).queueErase (s.store.sector (5 + 2 * k))) s1
      let s3 := s2.modObjs (fun l => tmap l (fun _ o => if names [r] o ∧ names (rest ++ s.store.hole) o = false then { o with mark := false } else o))
      let s4 := if s.store.hole = [] then s3 else s3.modStore (fun t => { t with queue := t.queue ++ [{ kind := .lacunaCopy }] })
      s4.nvDone h nvOk 0 0))

/-! ### Namespaces (R307, R308, R313) -/

/-- Tell controllers that a namespace changed. -/
def State.nsChanged (s : State) (nsid : Nat) (fns : List Nat) : State :=
  fns.foldl (fun s fn =>
    let s1 := s.modCtl fn (fun c => { c with changed := if c.changed.contains nsid then c.changed else c.changed ++ [nsid] })
    if bit ((s.ctl fn).feat 0x0B) 8 then s1.asyncEvent fn (eventDw 2 0 0x04) else s1) s

/-- The cached data of a namespace is dropped; its commands that are not complete end (assumption log 28). -/
def State.dropNsCache (s : State) (nsid : Nat) : State :=
  let gone := (((s.nvme.cache ++ s.nvme.waiting).filter (fun e => e.h.nsid == nsid && !e.completed)).map (·.h)).eraseDups
  let ids := (s.nvme.cache.filter (fun e => e.h.nsid == nsid)).map (·.id)
  let s1 := s.modNvme (fun n => { n with
    cache := n.cache.filter (fun e => e.h.nsid != nsid)
    waiting := n.waiting.filter (fun e => e.h.nsid != nsid)
    flushes := n.flushes.map (fun f => { f with waits := f.waits.filter (fun i => !ids.contains i) }) })
  let s2 := s1.modNand (fun n => { n with items := n.items.filter (fun i => !ids.contains i.1) })
  ((gone.foldl (fun s h => s.nvDone h nvAborted 0 0) s2).endFlushes).finishShutdown

/-- NAMESPACE_MANAGEMENT_CREATE: the NSID is in dword 0. -/
def execNamespaceManagementCreate (h : NvmeHdr) (nsze flbas pi : Nat) (s : State) : Host.Outcome State Fault Refusal :=
  .next (s.admin h 0x0D false (fun s =>
    let f := flbas % 16
    let size := nsze * lbaData f
    if 4 < f ∨ 3 < pi ∨ (pi ≠ 0 ∧ lbaMd f = 0) then s.nvDone h nvInvalidFormat 0 0
    else if nsze = 0 ∨ size % 2 ^ 30 ≠ 0 then s.nvDone h nvInvalidField 0 0
    else if s.unvmcap < size then s.nvDone h nvCapacity 0 0
    else match ((List.range 64).map (· + 1)).find? (fun i => (tfind s.nvme.ns i).isNone) with
      | none => s.nvDone h nvNsIdUnavail 0 0
      | some i =>
        let n : NsSt := { gib := size / 2 ^ 30, lbaf := f, ext := bit flbas 4, pi := pi, attached := [], media := [], bad := [] }
        (s.modNvme (fun x => { x with ns := tset x.ns i n })).nvDone h nvOk i 0))

/-- Remove one namespace with its data and its locking ranges. -/
def State.deleteNs (s : State) (nsid : Nat) : State :=
  let fns := match tfind s.nvme.ns nsid with | some n => n.attached | none => []
  ((s.dropNsCache nsid).modNvme (fun n => { n with ns := tdel n.ns nsid, locks := n.locks.filter (fun l => l.1 == 0 || l.2.nsid != nsid) })).nsChanged nsid fns

def execNamespaceManagementDelete (h : NvmeHdr) (s : State) : Host.Outcome State Fault Refusal :=
  .next (s.admin h 0x0D false (fun s =>
    if h.nsid = 0xFFFFFFFF then ((s.nvme.ns.map (·.1)).foldl State.deleteNs s).nvDone h nvOk 0 0
    else if (tfind s.nvme.ns h.nsid).isNone then s.nvDone h nvInvalidNs 0 0
    else (s.deleteNs h.nsid).nvDone h nvOk 0 0))

/-- NAMESPACE_ATTACHMENT: `ctrls` are controller IDs (Table 13-2: function + 1). -/
def execNamespaceAttachment (h : NvmeHdr) (attach : Bool) (ctrls : List Nat) (s : State) : Host.Outcome State Fault Refusal :=
  .next (s.admin h 0x15 false (fun s =>
    match tfind s.nvme.ns h.nsid with
    | none => s.nvDone h nvInvalidNs 0 0
    | some n =>
      let fns := (ctrls.map (· - 1)).eraseDups
      if ctrls = [] ∨ (ctrls.any (fun i => decide (i = 0 ∨ 256 < i))) = true then s.nvDone h { sct := 1, sc := 0x1C, dnr := true } 0 0
      else if attach = true ∧ (fns.any (fun f => n.attached.contains f)) = true then s.nvDone h nvAttached 0 0
      else if attach = false ∧ (fns.any (fun f => !n.attached.contains f)) = true then s.nvDone h nvNotAttached 0 0
      else
        let a := if attach then n.attached ++ fns else n.attached.filter (fun f => !fns.contains f)
        ((s.modNvme (fun x => { x with ns := tset x.ns h.nsid { n with attached := a } })).nsChanged h.nsid fns).nvDone h nvOk 0 0))

/-- FORMAT_NVM: the namespace, or all of them, takes a format of Table 13-4 and loses its data. -/
def execFormatNvm (h : NvmeHdr) (lbaf pi ses : Nat) (ext : Bool) (s : State) : Host.Outcome State Fault Refusal :=
  .next (s.admin h 0x80 false (fun s =>
    if 4 < lbaf ∨ 3 < pi ∨ (pi ≠ 0 ∧ lbaMd lbaf = 0) then s.nvDone h nvInvalidFormat 0 0
    else if 2 < ses then s.nvDone h nvInvalidField 0 0
    else if h.nsid ≠ 0xFFFFFFFF ∧ (tfind s.nvme.ns h.nsid).isNone then s.nvDone h nvInvalidNs 0 0
    else
      let ids := if h.nsid = 0xFFFFFFFF then s.nvme.ns.map (·.1) else [h.nsid]
      let s1 := ids.foldl (fun s i => s.dropNsCache i) s
      (s1.modNvme (fun x => { x with ns := tmap x.ns (fun i n => if ids.contains i then { n with lbaf := lbaf, pi := pi, ext := ext, media := [], bad := [] } else n) })).nvDone h nvOk 0 0))

/-! ### Firmware (R279, R281, R312) -/

/-- FIRMWARE_IMAGE_DOWNLOAD: into the buffer of the slot that does not run; an image has at most 960 KiB. -/
def execFirmwareImageDownload (h : NvmeHdr) (off : Nat) (data : List Byte) (s : State) : Host.Outcome State Fault Refusal :=
  .next (s.admin h 0x11 false (fun s =>
    if 983040 < off + data.length then s.nvDone h nvInvalidField 0 0
    else (s.modNvme (fun n => { n with fwBuf := mwrite n.fwBuf off data })).nvDone h nvOk 0 0))

/-- FIRMWARE_COMMIT: action 3 is refused, the running slot is refused; action 2 makes the image in the other slot PENDING
(R281); otherwise the slot is journaled EMPTY, erased and written (R279). Slot 0 leaves the choice to the drive. -/
def execFirmwareCommit (h : NvmeHdr) (action slot : Nat) (img : FwImage) (s : State) : Host.Outcome State Fault Refusal :=
  .next (s.admin h 0x10 false (fun s =>
    let b := !s.store.runningB
    let st := if b then s.store.slotB else s.store.slotA
    if 3 ≤ action then s.nvDone h nvInvalidField 0 0
    else if 2 < slot ∨ (slot ≠ 0 ∧ (slot == 2) ≠ b) then s.nvDone h nvFwSlot 0 0
    else if s.store.commit.isSome ∨ 2040 ≤ s.store.used then s.nvDone h nvInternal 0 0
    else if action = 2 then
      (match s.store.image b with
        | none => s.nvDone h nvFwImage 0 0
        | some i =>
          if i.sigOk = false ∨ (st ≠ 1 ∧ st ≠ 4) then s.nvDone h nvFwImage 0 0
          else if i.svn < s.store.minSvn then s.nvDone h nvFwProhibited 0 0
          else (s.setSlot b 2).nvDone h nvFwReset 0 0)
    else
      let first := if b then 17 else 2
      let erases := (List.range 15).map (fun i => ({ kind := .erase (first + i) } : StoreOp))
      (s.setSlot b 0).modStore (fun t => { t with
        commit := some (h, b, img)
        queue := t.queue ++ erases ++ [{ kind := .bootWrite }]
        imgA := if b then t.imgA else none
        imgB := if b then none else t.imgB })))

/-! ### Security and sanitize (R327-R330) -/

/-- SECURITY_SEND: the effects of a TCG Opal command (assumption log 26 on who may send it). -/
def execSecuritySend (h : NvmeHdr) (cmd : OpalCmd) (s : State) : Host.Outcome State Fault Refusal :=
  .next (s.admin h 0x81 false (fun s =>
    match cmd with
    | .setRange r nsid slba nlb =>
      let fits := match tfind s.nvme.ns nsid with | some n => decide (slba + nlb ≤ n.nlba) | none => false
      let clash := s.nvme.locks.any (fun l => l.1 != 0 && l.1 != r && l.2.nsid == nsid && decide (0 < overlapLen slba nlb l.2.slba l.2.nlb))
      if r = 0 ∨ 63 < r ∨ fits = false ∨ clash = true then s.nvDone h nvInvalidField 0 0
      else (s.modNvme (fun n => { n with locks := tmod LockSt.reset n.locks r (fun l => { l with nsid := nsid, slba := slba, nlb := nlb }) })).nvDone h nvOk 0 0
    | .setLocks r rl wl =>
      if 63 < r then s.nvDone h nvInvalidField 0 0
      else (s.modNvme (fun n => { n with locks := tmod LockSt.reset n.locks r (fun l => { l with readLocked := rl, writeLocked := wl }) })).nvDone h nvOk 0 0
    | .genKey r =>
      if 63 < r then s.nvDone h nvInvalidField 0 0
      else
        let draw := s.freeCtr
        let blur (nsid lba : Nat) (b : Blk) : Blk := if s.lockOf nsid lba = r then
          { b with data := (List.range b.data.length).map (fun i => Config.freeByte draw ((nsid * 2 ^ 48 + lba) * 4096 + i)) } else b
        ((s.modNvme (fun n => { n with
          locks := tmod LockSt.reset n.locks r (fun l => { l with keyGen := l.keyGen + 1 })
          ns := tmap n.ns (fun i x => { x with media := tmap x.media (fun lba b => blur i lba b) }) })).drawn).nvDone h nvOk 0 0
    | .setMbr en => (s.modNvme (fun n => { n with mbrOn := en })).nvDone h nvOk 0 0
    | .writeMbr off data =>
      if 134217728 < off + data.length then s.nvDone h nvInvalidField 0 0
      else (s.modNvme (fun n => { n with mbr := mwrite n.mbr off data })).nvDone h nvOk 0 0))

/-- SECURITY_RECEIVE: the response's bytes are the TCG protocol's, which the spec does not give: 512 free bytes. -/
def execSecurityReceive (h : NvmeHdr) (dst : Nat) (s : State) : Host.Outcome State Fault Refusal :=
  .next (s.admin h 0x82 false (fun s => s.sendPage h dst (pageOver s.freeCtr 512 [])))

/-- What a sanitize removes: the data of every namespace, the write cache, and every T2 page, whose objects are destroyed
(R329, R176). -/
def State.wipe (s : State) : State :=
  let s1 := (s.nvme.ns.map (·.1)).foldl (fun s i => s.dropNsCache i) s
  let s2 := s1.modNvme (fun n => { n with ns := tmap n.ns (fun _ x => { x with media := [], bad := [] }) })
  let gone := (s2.objs.filter (fun o => o.2.pageTab.any (fun p => p.2.tier == 2) || (o.2.persistent && o.2.kind != 3))).map (·.1)
  let s3 := s2.modCtxs (fun l => tmap l (fun _ c => { c with handles := c.handles.filter (fun x => !gone.contains x.2.obj) }))
  gone.foldl State.destroyObj s3

/-- Begin a sanitize (R329): refused while any KCI queue is open. -/
def State.sanitizeStart (s : State) (h : NvmeHdr) (kind : Nat) : State :=
  if s.ctxs.any (fun c => !c.2.queues.isEmpty) then s.nvDone h nvSequence 0 0
  else if s.sanitizing then s.nvDone h nvSanitize 0 0
  else
    let s1 := s.wipe.modNvme (fun n => { n with
      sanitize := kind
      locks := if kind = 2 then (tmod LockSt.reset n.locks 0 id).map (fun l => (l.1, { l.2 with keyGen := l.2.keyGen + 1 })) else n.locks })
    s1.nvDone h nvOk 0 0

def execSanitizeBlockErase (h : NvmeHdr) (s : State) : Host.Outcome State Fault Refusal :=
  .next (s.admin h 0x84 false (fun s => s.sanitizeStart h 1))

def execSanitizeCryptoErase (h : NvmeHdr) (s : State) : Host.Outcome State Fault Refusal :=
  .next (s.admin h 0x84 false (fun s => s.sanitizeStart h 2))

/-- SANITIZE_DONE (R330). A block erase has erased every block of every die in service. -/
def execSanitizeDone (s : State) : Host.Outcome State Fault Refusal :=
  if s.live = true ∧ s.sanitizing = true then
    let s1 := s.modNvme (fun n => { n with sanitize := 0, sanitizeDone := satAdd 32 n.sanitizeDone 1, idleSince := s.time.now })
    .next (if s.nvme.sanitize = 1 then
      s1.modNand (fun n => { n with
        rows := []
        blocks := tmap n.blocks (fun _ b => if b.retired then b else { b with erases := b.erases + 1, reads := 0, torn := false, committed := 0, laddered := 0, refresh := false }) })
      else s1)
  else .next s

end Sys2Proof.Machine
end

