-- ==== Sys2Proof/Machine/Registers.lean ====
section
/-! DEFINITION. The register map of BAR2 (chapter 18): what each register reads as, what a write of it does, the access rules
of R449-R453, the latch of R451, and the commands REGISTER_WRITE and LO_REGISTER_READ. -/

namespace Sys2Proof.Machine

/-! ### Reads -/

/-- The low or high half of a 64-bit value. -/
def half (v : Nat) (hi : Bool) : Nat := if hi then v / 2 ^ 32 % 2 ^ 32 else v % 2 ^ 32

/-- A mailbox register (Table 14-3). -/
def State.readMailbox (s : State) (ctx off : Nat) : Nat :=
  let c := s.ctx ctx
  match off with
  | 0x000 => c.stateWord
  | 0x004 => b2n c.enable
  | 0x008 => c.policy.toNat
  | 0x00C => c.openErr
  | 0x010 => c.seedLo.toNat
  | 0x014 => c.seedHi.toNat
  | 0x018 => c.policyErr.toNat
  | 0x020 => c.ctlSqLo.toNat
  | 0x024 => c.ctlSqHi.toNat
  | 0x028 => c.ctlCqLo.toNat
  | 0x02C => c.ctlCqHi.toNat
  | 0x030 => c.ctlSize.toNat
  | 0x040 => c.c0Free
  | 0x044 => c.c0Discard
  | _ => 0

/-- A word of a counter window (Table 14-5), by its number. -/
def State.windowWord (s : State) (ctx k : Nat) : Nat :=
  if k = 0 then s.headerWord ctx else if k < 64 then s.handleWord ctx k else s.eventWord ctx (k - 64)

/-- A register of a partition block (Tables 18-10 to 18-12). -/
def State.readPart (s : State) (n off : Nat) : Nat :=
  let p := s.part n
  match off with
  | 0x00 => if p.state = 0 then 0 else p.state * 2 ^ 28 + p.set * 2 ^ 24 + p.lead * 2 ^ 16 + p.ctx
  | 0x04 => p.quota
  | 0x08 => p.resvNext
  | 0x14 => (s.arr n).charge
  | 0x18 => (s.arr (n + 8)).charge
  | 0x1C => p.demoted
  | _ => if 0x20 ≤ off ∧ off < 0x38 then tget 0 p.late ((off - 0x20) / 4) else 0

/-- A register of an array block (Tables 18-16 and 18-17). -/
def State.readArray (s : State) (a off : Nat) : Nat :=
  let x := s.arr a
  let v (k : Nat) : Nat × Nat := tget (0, 0) s.verdictCtrs (unitOf k a)
  match off with
  | 0x00 => x.state * 2 ^ 28 + x.spareRows * 2 ^ 8 + x.spareCols
  | 0x04 => min x.ecc (2 ^ 32 - 1)
  | 0x08 => half x.active false
  | 0x0C => half x.active true
  | 0x10 => half x.idle false
  | 0x14 => half x.idle true
  | 0x18 => min ((v 1).1 + (v 2).1 + (v 3).1) 65535 * 2 ^ 16 + min ((v 1).2 + (v 2).2 + (v 3).2) 65535
  | _ => 0

/-- A set of numbers below 32 as bits. -/
def bitSet (l : List Nat) : Nat := (List.range 32).foldl (fun n i => n + (if l.contains i then 2 ^ i else 0)) 0

/-- Table 18-18. -/
def State.readNand (s : State) (off : Nat) : Nat :=
  let n := s.nand
  let gs (f : GroupSt → Bool) : Nat := bitSet ((n.groups.filter (fun g => f g.2)).map (·.1))
  match off with
  | 0x00 => n.syncMiss
  | 0x04 => n.syncSlip
  | 0x08 => n.syncFalse
  | 0x0C => n.tornErase
  | 0x20 => n.retiredDies * 2 ^ 16 + n.retiredBlocks
  | 0x24 => gs (fun g => g.gc == 2)
  | 0x28 => gs (·.degraded)
  | 0x30 => bitSet n.scanRetired
  | 0x34 => n.scanMismatch
  | _ => if 0x10 ≤ off ∧ off < 0x20 then tget 0 n.ladder ((off - 0x10) / 4) else 0

/-- Table 18-19. -/
def State.readStore (s : State) (off : Nat) : Nat :=
  let t := s.store
  match off with
  | 0x00 => t.tornErase
  | 0x04 => min t.erases (2 ^ 32 - 1)
  | 0x08 => t.h * 2 ^ 16 + t.k
  | 0x0C => t.lacuna.length * 2 ^ 16 + t.hole.length * 2 ^ 8
  | 0x40 => t.minSvn
  | 0x44 => s.mgmt.keySel
  | 0x4C => bitSet (s.mgmt.keys.map (·.1))
  | _ => 0

/-- PEER_STATE and PEER_LANES. -/
def State.peerState (s : State) : Nat :=
  s.peer.group * 2 ^ 28 + s.peer.epoch * 2 ^ 16 + bitSet s.peer.lost * 2 ^ 8 +
    (List.range 4).foldl (fun n p => n + (s.port p).state * 2 ^ (2 * p)) 0

def State.peerLanes (s : State) : Nat :=
  bitSet s.peer.retiredLanes * 2 ^ 16 + (List.range 4).foldl (fun n p => n + (s.port p).lanes % 16 * 2 ^ (4 * p)) 0

/-- Tables 18-20 to 18-22. -/
def State.readPeer (s : State) (off : Nat) : Nat :=
  let p := s.peer
  match off with
  | 0x00 => p.gid.toNat
  | 0x04 => b2n p.valid * 2 ^ 31 + p.member * 2 ^ 8 + p.size
  | 0x08 => b2n p.bindValid * 2 ^ 31 + p.bindCtx
  | 0x0C => p.progressTo
  | 0x10 => s.peerState
  | 0x14 => s.peerLanes
  | 0x18 => p.incarnation
  | 0x1C => p.stale
  | 0x20 => p.replays
  | _ => 0

/-- Four bytes of a list as a register. -/
def word4 (bs : List Byte) (off : Nat) : Nat := leNat (slice bs off 4)

/-- Table 18-23. -/
def State.readErr (s : State) (off : Nat) : Nat :=
  let e := s.errs
  match off with
  | 0x00 => b2n (decide (256 ≤ e.staging.length)) * 2 + b2n e.isNew
  | 0x08 => half (e.next - 1) false
  | 0x0C => half (e.next - 1) true
  | 0x10 => e.selLo.toNat
  | 0x14 => e.selHi.toNat
  | 0x18 => e.vec.toNat
  | 0x1C => e.dropped
  | _ => if 0x40 ≤ off ∧ off < 0x80 then (match e.window with | some r => word4 r.bytes (off - 0x40) | none => 0) else 0

/-- The six counters of Table 17-8, energy in mJ. -/
def Counts.bytes (c : Counts) : List Byte :=
  le 8 c.steps ++ le 8 c.vops ++ le 8 c.codes ++ le 8 c.nread ++ le 8 c.nwrite ++ satLe 8 (c.energy / 1000)

/-- The 16,384 bytes of a closed-period record (Table 17-9). -/
def Closed.bytes (r : Closed) : List Byte :=
  let b := le 2 1 ++ le 2 r.flags ++ le 4 r.regressions ++ le 8 r.seq ++ le 8 r.openAt ++ le 8 r.closeAt ++ le 8 r.hostOpen ++
    le 8 r.hostClose ++ le 4 r.len ++ zeros 12 ++ (List.range 256).flatMap (fun c => (tget Counts.zero r.ctrs c).bytes) ++ zeros 4028
  b ++ le 4 (crc32c b)

/-- Table 18-24. -/
def State.readLedg (s : State) (off : Nat) : Nat :=
  let l := s.ledger
  match off with
  | 0x00 => l.period
  | 0x04 => l.flags % 2 * 2 + b2n (decide (896 ≤ l.unacked))
  | 0x08 => half l.openSeq false
  | 0x0C => half l.openSeq true
  | 0x10 => half l.openAt false
  | 0x14 => half l.openAt true
  | 0x18 => half l.ack false
  | 0x1C => half l.ack true
  | 0x20 => l.selLo.toNat
  | 0x24 => l.selHi.toNat
  | 0x28 => l.unacked
  | 0x2C => l.overwritten
  | 0x30 => l.ctxSel
  | _ => if 0x40 ≤ off ∧ off < 0x70 then (match l.ctxWin with | some c => word4 c.bytes (off - 0x40) | none => 0) else 0

/-- Tables 18-25 and 18-26, MON_COUNT, MON_NAND_TEMP and MON_COMPOSITE (R467). -/
def State.readMon (s : State) (off : Nat) : Nat :=
  if off < 0xA80 then
    let r := s.region (off / 0x40)
    match off % 0x40 with
    | 0x00 => ofSigned 16 r.monTj * 2 ^ 16 + r.monV
    | 0x04 => r.monLock * 2 ^ 28 + r.monStretch * 2 ^ 24 + r.monSlack * 2 ^ 16 + r.monRate
    | 0x08 => r.warns
    | 0x0C => r.stretches
    | 0x10 => r.refused
    | 0x14 => r.breaches
    | 0x18 => r.switches
    | 0x1C => r.holdovers
    | _ => 0
  else if 0xC00 ≤ off ∧ off < 0xC80 then ofSigned 16 (tget 0 s.power.monTn ((off - 0xC00) / 4))
  else if off = 0xC80 then s.power.monComposite
  else 0

/-- TIME_STATUS (Table 18-9). -/
def State.timeStatus (s : State) : Nat :=
  (List.range 42).countP (fun r => (s.region r).lock == 3) * 2 ^ 16 + (List.range 42).countP (fun r => decide ((s.region r).lock ≤ 1)) * 2 ^ 8

/-- The identity and power block (Tables 18-3 to 18-8). -/
def State.readHif (s : State) (off : Nat) : Nat :=
  match off with
  | 0x00 => 0x00060000 + (match s.variant with | .dx30 => 0x30 | .dx61 => 0x61) * 2 ^ 8 + Config.stepping % 2 ^ 8
  | 0x04 => s.fwVersion
  | 0x08 => s.mgmt.cfgErr.toNat
  | 0x0C => s.mgmt.cfgAddr
  | 0x10 => s.pwrStatus
  | 0x14 => s.power.resetCause
  | 0x18 => s.power.holdCap * 2 ^ 16 + s.power.holdEnergy
  | _ => if 0x40 ≤ off ∧ off < 0x60 then tget 0 s.power.draws ((off - 0x40) / 4) % 2 ^ 24 else 0

/-- R453: the registers that read before NVMe ready. -/
def earlyReg (off : Nat) : Bool :=
  off == 0x100000 || off == 0x100004 || off == 0x100010 || off == 0x100014 || decide (0x101000 ≤ off ∧ off < 0x102000)

/-- A register of the global management block. -/
def State.readGlobal (s : State) (off : Nat) : Nat :=
  let b := off / 0x1000
  let o := off % 0x1000
  if s.globalOpen = false ∧ earlyReg off = false then 0
  else if b = 0x100 then s.readHif o
  else if b = 0x101 then (match o with
    | 0x000 => half s.time.now false
    | 0x004 => half s.time.now true
    | 0x008 => s.timeStatus
    | _ => 0)
  else if b = 0x102 then (if o < 0x200 then s.readPart (o / 0x40) (o % 0x40) else 0)
  else if b = 0x103 then (match o % 0x10 with
    | 0x0 => (s.ctx (o / 0x10)).assignWord
    | 0x8 => (s.ctx (o / 0x10)).viol
    | _ => 0)
  else if b = 0x104 then
    (if o < 0x20 then (s.part (o / 4)).t2quota
     else if o = 0x20 then (s.variant.user - ((List.range 8).map (fun p => (s.part p).t2quota)).sum * 2 ^ 30) / 2 ^ 30
     else if o = 0x24 then s.variant.pool - s.poolUsed 0
     else if o = 0x28 then s.variant.pool - s.poolUsed 1
     else if 0x40 ≤ o ∧ o < 0x60 then s.t1Held [(o - 0x40) / 4]
     else if 0x60 ≤ o ∧ o < 0x80 then s.t2Held [(o - 0x60) / 4]
     else 0)
  else if b = 0x105 then (if o < 0x200 then s.readArray (o / 0x20) (o % 0x20) else 0)
  else if b = 0x106 then s.readNand o
  else if b = 0x107 then s.readStore o
  else if b = 0x108 then s.readPeer o
  else if b = 0x109 then s.readErr o
  else if b = 0x10A then s.readLedg o
  else if b = 0x10B then s.readMon o
  else if 0x110000 ≤ off ∧ off < 0x114000 then (match s.ledger.recWin with | some r => word4 r.bytes (off - 0x110000) | none => 0)
  else 0

/-- The 32 bits at an offset of a function's BAR2 as they stand, before the latch of R451. -/
def State.rawReg (s : State) (fn off : Nat) : Nat :=
  let win (ctx o : Nat) : Nat := if s.kciOpen then half (s.windowWord ctx (o / 8)) (o % 8 == 4) else 0
  let box (ctx o : Nat) : Nat := if s.kciOpen then s.readMailbox ctx o else 0
  if s.linked = false then 0
  else if fn ≠ 0 then (if off < 0x1000 then box fn off else if off < 0x1400 then win fn (off - 0x1000) else 0)
  else if off < 0x100000 then box (off / 0x1000) (off % 0x1000)
  else if 0x140000 ≤ off ∧ off < 0x180000 then win ((off - 0x140000) / 0x400) ((off - 0x140000) % 0x400)
  else s.readGlobal off

/-- The _LO registers of the PF's global block (R451). -/
def isLo (off : Nat) : Bool :=
  [0x101000, 0x109008, 0x109010, 0x10A008, 0x10A010, 0x10A018, 0x10A020].contains off ||
    (decide (0x105000 ≤ off ∧ off < 0x105200) && (off % 0x20 == 0x08 || off % 0x20 == 0x10))

/-- LO_REGISTER_READ (R450, R451): the read of a _LO register latches its _HI register, which a 4-byte read then returns from
the latch. An aligned read of 8 bytes returns both halves of this moment; one of another size or alignment returns zero. -/
def execLoRegisterRead (fn off size : Nat) (s : State) : Host.Outcome State Fault Refusal :=
  if 256 ≤ fn then .next s
  else if (size = 4 ∧ off % 4 = 0) ∨ (size = 8 ∧ off % 8 = 0) then
    let v := s.rawReg fn off
    let h := s.rawReg fn (off + 4)
    let out : BitVec 64 :=
      if size = 8 then BitVec.ofNat 64 (v + h * 2 ^ 32)
      else if fn = 0 ∧ 4 ≤ off ∧ isLo (off - 4) = true then (tget (BitVec.ofNat 32 v) s.mgmt.latch (off - 4)).setWidth 64
      else BitVec.ofNat 64 v
    .next (s.modMgmt (fun m => { m with
      latch := if fn = 0 ∧ isLo off = true then tset m.latch off (BitVec.ofNat 32 h) else m.latch
      readPort := out }))
  else .next (s.modMgmt (fun m => { m with readPort := 0 }))

/-! ### Writes -/

/-- R350: the read-only fields of a mailbox page. -/
def mailboxRo (off : Nat) : Bool := [0x000, 0x00C, 0x018, 0x040, 0x044].contains off

/-- A 4-byte write of a mailbox register. -/
def State.writeMailbox (s : State) (fn ctx off : Nat) (v : W32) : State :=
  let closed := decide ((s.ctx ctx).state = 0)
  if mailboxRo off then (if fn = 0 then s else (s.faultCtx ctx clsPrivilege off 0 0 0).settle)
  else if 0x100 ≤ off ∧ off < 0x150 then
    let q := (off - 0x100) / 8
    if off % 8 = 0 then (if q < 9 then s.wake.sqTail ctx q (v.toNat % 65536) [] else s)
    else s.wake.cqHeadWrite ctx q (v.toNat % 65536)
  else match off with
  | 0x004 => if bit v.toNat 1 then s.resetCtx ctx 3 else if bit v.toNat 0 then s.enableCtx ctx else s.disableCtx ctx
  | 0x008 => s.writePolicy ctx v
  | 0x010 => s.modCtx ctx (fun c => { c with seedLo := v })
  | 0x014 => s.modCtx ctx (fun c => { c with seedHi := v, seed := v ++ c.seedLo })
  | 0x020 => if closed then s.modCtx ctx (fun c => { c with ctlSqLo := v }) else s
  | 0x024 => if closed then s.modCtx ctx (fun c => { c with ctlSqHi := v, ctlSq := v ++ c.ctlSqLo }) else s
  | 0x028 => if closed then s.modCtx ctx (fun c => { c with ctlCqLo := v }) else s
  | 0x02C => if closed then s.modCtx ctx (fun c => { c with ctlCqHi := v, ctlCq := v ++ c.ctlCqLo }) else s
  | 0x030 => s.modCtx ctx (fun c => { c with ctlSize := v })
  | _ => s

/-- A 4-byte write of a register of the global management block. -/
def State.writeGlobal (s : State) (off : Nat) (v : W32) : State :=
  let b := off / 0x1000
  let o := off % 0x1000
  if b = 0x100 then
    (if o = 0x08 then s.modMgmt (fun m => { m with cfgErr := m.cfgErr &&& ~~~(v &&& 0xC0000000) })
     else if o = 0x1C ∧ bit v.toNat 0 = true then s.startCheck
     else s)
  else if b = 0x102 ∧ o < 0x200 then
    (match o % 0x40 with
     | 0x04 => s.writeQuota (o / 0x40) v
     | 0x08 => s.writeResv (o / 0x40) v
     | 0x0C => s.writeExcl (o / 0x40) v
     | 0x10 => if bit v.toNat 0 then s.resetPart (o / 0x40) else s
     | _ => s)
  else if b = 0x103 then
    (match o % 0x10 with
     | 0x0 => s.writeAssign (o / 0x10) v
     | 0x4 => if bit v.toNat 0 then s.resetCtx (o / 0x10) 3 else s
     | _ => s)
  else if b = 0x104 then (if o < 0x20 then s.writeT2Quota (o / 4) v else s)
  else if b = 0x105 then (if o < 0x200 ∧ o % 0x20 = 0x1C then s.writeTest (o / 0x20) v else s)
  else if b = 0x107 then
    (if o = 0x44 then s.modMgmt (fun m => { m with keySel := v.toNat % 8 })
     else if o = 0x48 then s.writeKeyCtl v
     else if 0x100 ≤ o ∧ o < 0x160 then
       s.modMgmt (fun m => { m with keyData := (List.range 4).foldl (fun t i => tset t (o - 0x100 + i) (BitVec.ofNat 8 (v.toNat / 256 ^ i))) m.keyData })
     else s)
  else if b = 0x108 then
    (match o with
     | 0x00 => if s.peer.valid then s.refuse off stInvalidField else s.modPeer (fun p => { p with gid := v })
     | 0x04 => s.writeGroupCfg v
     | 0x08 => s.writeBind v
     | 0x0C => s.writeProgress v
     | _ => s)
  else if b = 0x109 then
    (match o with
     | 0x00 => if bit v.toNat 0 then s.modErrs (fun e => { e with isNew := false }) else s
     | 0x10 => s.modErrs (fun e => { e with selLo := v })
     | 0x14 => s.writeErrSelHi v
     | 0x18 => s.writeErrVec v
     | _ => s)
  else if b = 0x10A then
    (match o with
     | 0x00 => s.writeLedgPeriod v
     | 0x18 => s.modLedger (fun l => { l with ackLo := v })
     | 0x1C => s.writeLedgAck v
     | 0x20 => s.modLedger (fun l => { l with selLo := v })
     | 0x24 => s.writeLedgSelHi v
     | 0x30 => s.writeLedgCtxSel v
     | _ => s)
  else s

/-- A write to the counter window of a context: it faults a VF's context, and logs a record for the PF (R350, R452). -/
def State.writeWindow (s : State) (fn off : Nat) : State :=
  if fn = 0 then s.logViol { cls := clsPrivilege, kind := 0, ctx := 0, unit := unitOf 0xC 0, addr := off, fn := 0 }
  else (s.faultCtx fn clsPrivilege off 0 0 0).settle

/-- One 4-byte write at an offset of a function's BAR2. -/
def State.writeReg (s : State) (fn off : Nat) (v : W32) : State :=
  if fn ≠ 0 then
    (if s.kciOpen = false then s else if off < 0x1000 then s.writeMailbox fn fn off v
     else if off < 0x1400 then s.writeWindow fn off else s)
  else if off < 0x100000 then (if s.kciOpen then s.writeMailbox 0 (off / 0x1000) (off % 0x1000) v else s)
  else if 0x140000 ≤ off ∧ off < 0x180000 then (if s.kciOpen then s.writeWindow 0 off else s)
  else if s.globalOpen then s.writeGlobal off v
  else s

/-- The class-0 slot that a write of a function reaches: its context, slot and byte. -/
def slotAt (fn off : Nat) : Option (Nat × Nat × Nat) :=
  let o := off % 0x1000
  if (if fn = 0 then off < 0x100000 else off < 0x1000) ∧ 0x800 ≤ o ∧ o < 0xC00 then
    some (if fn = 0 then off / 0x1000 else fn, (o - 0x800) / 0x40, o % 0x40)
  else none

/-- REGISTER_WRITE: a write of a register under its access code (R9, R10, R449-R453); an 8-byte write is its two halves, the
low one first, except that a doorbell takes a 4-byte write only (R347). -/
def execRegisterWrite (fn off size : Nat) (value : BitVec 64) (s : State) : Host.Outcome State Fault Refusal :=
  if 256 ≤ fn then .next s
  else match slotAt fn off with
  | some (ctx, slot, b) =>
    .next (if s.kciOpen = true ∧ 1 ≤ size ∧ size ≤ 8 ∧ b + size ≤ 64 then s.wake.slotWrite ctx slot b (le size value.toNat) else s)
  | none =>
    let o := off % 0x1000
    let bell := decide ((if fn = 0 then off < 0x100000 else off < 0x1000) ∧ 0x100 ≤ o ∧ o < 0x150)
    if size = 4 ∧ off % 4 = 0 then .next (s.writeReg fn off (value.setWidth 32))
    else if size = 8 ∧ off % 8 = 0 ∧ bell = false then
      .next ((s.writeReg fn off (value.setWidth 32)).writeReg fn (off + 4) ((value >>> 32).setWidth 32))
    else .next s

end Sys2Proof.Machine
end

