-- ==== Sys2Proof/Machine/Logs.lean ====
section
/-! DEFINITION. The log pages (R309, R331, R340, R370, R437, R438) and the NVMe-MI requests (R436). -/

namespace Sys2Proof.Machine

/-! ### Log pages -/

/-- A part of a page: `len` bytes from `off`, zero past its end. -/
def cutPage (bs : List Byte) (off len : Nat) : List Byte := let p := slice bs off len; p ++ zeros (len - p.length)

/-- Return part of a page. -/
def State.sendLog (s : State) (h : NvmeHdr) (dst off len : Nat) (bs : List Byte) : State :=
  ((s.hostWrite dst (cutPage bs off len)).drawn).nvDone h nvOk 0 0

/-- An Error Information entry at its NVMe offsets (assumption log 12). -/
def ErrInfo.bytes (e : ErrInfo) (draw : Nat) : List Byte :=
  pageOver (draw + e.count) 64 [(0, le 8 e.count), (8, le 2 e.sqid), (10, le 2 e.cid), (12, le 2 (2 * e.status)), (16, le 8 e.lba), (24, le 4 e.nsid)]

def execGetLogErrorInformation (h : NvmeHdr) (dst len : Nat) (s : State) : Host.Outcome State Fault Refusal :=
  .next (s.admin h 0x02 true (fun s => s.sendLog h dst 0 len ((s.ctl h.fn).errLog.flatMap (fun e => e.bytes s.freeCtr))))

/-- The SMART / Health log: the critical warning, the composite temperature and the transition count (R411, R412, R437). -/
def State.smartPage (s : State) : List Byte :=
  pageOver s.freeCtr 512 [(0, le 1 s.critical), (1, le 2 s.composite), (216, le 4 s.power.tm1)]

def execGetLogSmartHealth (h : NvmeHdr) (dst len : Nat) (s : State) : Host.Outcome State Fault Refusal :=
  .next (s.admin h 0x02 true (fun s => s.sendLog h dst 0 len s.smartPage))

/-- Firmware Slot Information: the running slot, the slot that the next start tries, the revisions. -/
def State.fwSlotPage (s : State) : List Byte :=
  let t := s.store
  let next := if t.slotA = 2 then 1 else if t.slotB = 2 then 2 else 0
  let rev (i : Option FwImage) : List Byte := match i with | some x => hexChars x.version | none => zeros 8
  pageOver s.freeCtr 512 [(0, le 1 ((if t.runningB then 2 else 1) + 16 * next)), (8, rev t.imgA), (16, rev t.imgB)]

def execGetLogFirmwareSlot (h : NvmeHdr) (dst len : Nat) (s : State) : Host.Outcome State Fault Refusal :=
  .next (s.admin h 0x02 true (fun s => s.sendLog h dst 0 len s.fwSlotPage))

/-- The Changed Namespace List; reading it empties it. -/
def execGetLogChangedNamespace (h : NvmeHdr) (dst len : Nat) (s : State) : Host.Outcome State Fault Refusal :=
  .next (s.admin h 0x02 true (fun s =>
    let c := s.ctl h.fn
    (s.modCtl h.fn (fun c => { c with changed := [] })).sendLog h dst 0 len (c.changed.flatMap (le 4) ++ zeros (4096 - 4 * c.changed.length))))

/-- Commands Supported and Effects: bit 0 of each supported command; its other bits are free values. -/
def State.effectsPage (s : State) (fn : Nat) : List Byte :=
  let word (base : Nat) (ok : Bool) (op : Nat) : List Byte := le 4 (if ok then 1 + 2 * Config.freeNat s.freeCtr (base + op) else 0)
  (List.range 256).flatMap (fun op => word 0 (supported fn 0 op) op) ++ (List.range 256).flatMap (fun op => word 256 (supported fn 1 op) op) ++ zeros 2048

def execGetLogCommandsSupported (h : NvmeHdr) (dst len : Nat) (s : State) : Host.Outcome State Fault Refusal :=
  .next (s.admin h 0x02 true (fun s => s.sendLog h dst 0 len (s.effectsPage h.fn)))

/-- Sanitize Status: state, and the block erase estimate of R329. -/
def State.sanitizePage (s : State) : List Byte :=
  let st := if s.sanitizing then 2 else if s.nvme.sanitizeDone = 0 then 0 else 1
  let prog := if s.sanitizing then [] else [(0, le 2 0xFFFF)]
  pageOver s.freeCtr 512 (prog ++ [(2, le 2 st), (12, le 4 135)])

def execGetLogSanitizeStatus (h : NvmeHdr) (dst len : Nat) (s : State) : Host.Outcome State Fault Refusal :=
  .next (s.admin h 0x02 true (fun s => s.sendLog h dst 0 len s.sanitizePage))

/-- The entries of a record (Table 13-10) that a function sees (R340). -/
def State.lacunaEntries (s : State) (fn : Nat) (r : LacunaRec) : List (List Byte) :=
  let sees (nsid : Nat) : Bool := fn == 0 || (match tfind s.nvme.ns nsid with | some n => n.attached.contains fn | none => false)
  ((r.exts.filter (fun e => sees e.nsid)).map (fun e =>
    le 1 1 ++ le 1 e.flags ++ le 2 e.fn ++ le 4 e.nsid ++ le 8 e.slba ++ le 4 e.nlb ++ le 2 e.sqid ++ le 2 e.cid ++ zeros 8)) ++
  ((r.kcis.filter (fun k => fn == 0 || k.ctx == fn)).map (fun k =>
    le 1 2 ++ le 1 k.ctx ++ le 2 k.queue ++ le 4 k.cid ++ le 8 k.oid ++ zeros 16)) ++
  ((r.counts.filter (fun c => fn == 0 || c.1 == fn)).map (fun c => le 1 3 ++ le 1 0 ++ le 2 c.1 ++ le 4 c.2 ++ zeros 24))

/-- The lacuna log page (Tables 13-9 and 13-10). -/
def State.lacunaPage (s : State) (fn k : Nat) : List Byte :=
  let held := s.store.lacuna.length
  match s.store.lacuna[k]? with
  | none => le 2 1 ++ le 2 held ++ zeros 60
  | some r =>
    let es := s.lacunaEntries fn r
    le 2 1 ++ le 2 held ++ le 4 r.seq ++ le 8 r.time ++ le 8 r.copied ++ le 1 (b2n r.complete + 2 * b2n (fn != 0)) ++ zeros 3 ++
      le 4 es.length ++ le 4 r.nExts ++ le 4 r.nKcis ++ le 8 r.unlisted ++ zeros 16 ++ es.flatten

def execGetLogLacuna (h : NvmeHdr) (lsf dst off len : Nat) (s : State) : Host.Outcome State Fault Refusal :=
  .next (s.admin h 0x02 true (fun s => s.sendLog h dst off len (s.lacunaPage h.fn (lsf % 16))))

/-- Colophon statistics (R438). -/
def State.statsPage (s : State) (fn : Nat) : List Byte :=
  let cs := if fn = 0 then List.range 256 else [fn]
  le 2 1 ++ zeros 2 ++ le 4 cs.length ++ le 4 fn ++ le 8 s.ledger.statsSince ++ zeros 44 ++
    cs.flatMap (fun c => (tget (List.replicate 16 0) s.ledger.stats c).flatMap (le 8))

def execGetLogColophonStatistics (h : NvmeHdr) (dst off len : Nat) (s : State) : Host.Outcome State Fault Refusal :=
  .next (s.admin h 0x02 true (fun s => s.sendLog h dst off len (s.statsPage h.fn)))

/-- The abort list (R370); with bit 0 of the Log Specific Field the entries that fit are removed. -/
def execGetLogAbortList (h : NvmeHdr) (lsf dst len : Nat) (s : State) : Host.Outcome State Fault Refusal :=
  .next (s.admin h 0x02 true (fun s =>
    let l := (s.ctl h.fn).aborts
    let page := le 2 1 ++ zeros 2 ++ le 4 l.length ++ zeros 24 ++ l.flatMap AbortEnt.bytes
    let s1 := if bit lsf 0 then s.modCtl h.fn (fun c => { c with aborts := c.aborts.drop ((len - 32) / 32) }) else s
    s1.sendLog h dst 0 len page))

/-! ### NVMe-MI (R436, Table 2-3) -/

/-- The endpoint acknowledges: its firmware runs and C is not in recovery. -/
def State.miAnswers (s : State) : Bool := s.power.rail33 && s.power.miReady && !s.power.recovering.contains 2

/-- Answer a request. -/
def State.miReply (s : State) (bs : List Byte) : State := (s.modMgmt (fun m => { m with miOut := bs })).drawn

/-- The drive is ready: it reports otherwise in every state before NVMe ready. -/
def State.miDriveReady (s : State) : Bool := s.live && s.power.nvmeReady

/-- Run a request. -/
def State.mi (s : State) (f : State → List Byte) : State := if s.miAnswers then s.miReply (f s) else s

/-- MI_READ_DATA_STRUCTURE: subsystem information (0: version 1.2), the controller list (2), and others. -/
def execMiReadDataStructure (kind : Nat) (s : State) : Host.Outcome State Fault Refusal :=
  .next (s.mi (fun s =>
    if kind = 0 then pageOver s.freeCtr 32 [(1, le 1 1), (2, le 1 2)]
    else if kind = 2 then le 2 256 ++ (List.range 256).flatMap (fun i => le 2 (i + 1))
    else pageOver s.freeCtr 32 []))

/-- MI_SUBSYSTEM_HEALTH_POLL: bit 5 of the status says that the drive is ready, bit 3 that the link is up; the critical
warning stands complemented; the composite temperature in °C (assumption log 12). -/
def execMiSubsystemHealthPoll (s : State) : Host.Outcome State Fault Refusal :=
  .next (s.mi (fun s =>
    pageOver s.freeCtr 8 [(0, le 1 (32 * b2n s.miDriveReady + 8 * b2n s.power.linkUp)), (1, le 1 (255 - s.critical)), (2, le 1 (min (s.composite - 273) 126))]))

/-- MI_CONTROLLER_HEALTH_POLL of one controller. -/
def execMiControllerHealthPoll (ctrl : Nat) (s : State) : Host.Outcome State Fault Refusal :=
  .next (s.mi (fun s =>
    if ctrl = 0 ∨ 256 < ctrl then []
    else
      let c := s.ctl (ctrl - 1)
      pageOver s.freeCtr 16 [(0, le 2 ctrl), (2, le 2 (b2n c.ready + 4 * c.shutdown)), (4, le 2 s.composite), (8, le 1 s.critical)]))

/-- Reset values of the SMBus configuration: frequency 1 (100 kHz) and a transmission unit of 64 bytes (assumption log 12). -/
def smbDefault (cfg : Nat) : Nat := if cfg = 1 then 1 else if cfg = 3 then 64 else 0

/-- MI_CONFIGURATION_GET. -/
def execMiConfigurationGet (cfg : Nat) (s : State) : Host.Outcome State Fault Refusal :=
  .next (s.mi (fun s => le 4 (tget (smbDefault cfg) s.mgmt.smbCfg cfg)))

/-- MI_CONFIGURATION_SET: the SMBus configuration is the only state that a request writes. -/
def execMiConfigurationSet (cfg value : Nat) (s : State) : Host.Outcome State Fault Refusal :=
  .next (if s.miAnswers then (s.modMgmt (fun m => { m with smbCfg := tset m.smbCfg cfg value })).miReply [] else s)

/-- MI_VPD_READ: the FRU data are not given: free bytes. -/
def execMiVpdRead (_off len : Nat) (s : State) : Host.Outcome State Fault Refusal := .next (s.mi (fun s => pageOver s.freeCtr len []))

/-- MI_TUNNELED_IDENTIFY: on the PF's controller, once the drive is ready. -/
def execMiTunneledIdentify (cns : Nat) (s : State) : Host.Outcome State Fault Refusal :=
  .next (s.mi (fun s => if s.miDriveReady then (s.identPage 0 0 cns).getD [] else []))

/-- MI_TUNNELED_GET_LOG_PAGE: pages 0x02 and 0xC1. -/
def execMiTunneledGetLogPage (lid : Nat) (s : State) : Host.Outcome State Fault Refusal :=
  .next (s.mi (fun s => if s.miDriveReady then (if lid = 0x02 then s.smartPage else if lid = 0xC1 then s.statsPage 0 else []) else []))

/-- MI_ERROR_LOG_READ: up to 16 records from a sequence number. -/
def execMiErrorLogRead (seq count : Nat) (s : State) : Host.Outcome State Fault Refusal :=
  .next (s.mi (fun s => ((s.errs.ring.filter (fun r => decide (seq ≤ r.seq))).take (min count 16)).flatMap ErrRec.bytes))

end Sys2Proof.Machine
end

