-- ==== Sys2Proof/Machine/Starts.lean ====
section
/-! DEFINITION. What resets and starts do (chapters 2, 11, 13 and 16): the halt that PERST# and the recovery of C share, the
power-fail record (R272, R339), the power-on reset, and a start (R58, R265, R273, R280, R416, R448). -/

namespace Sys2Proof.Machine

/-! ### What a reset of C stops (Table 16-4, R262, R415, R416) -/

/-- The functions whose controllers hold anything. -/
def State.fns (s : State) : List Nat := (s.nvme.ctls.map (·.1) ++ s.nvme.outstanding.map (·.1.fn)).eraseDups

/-- Clear every controller, its fetched commands going into its abort list. -/
def State.clearControllers (s : State) (reason : Nat) : State := s.fns.foldl (fun s f => s.clearController f reason) s

/-- Fetched KCI commands go into the abort lists of their functions (R35, R369). -/
def State.abortKci (s : State) (f : Cmd → Bool) (reason : Nat) : State :=
  let cs := s.cmds.filter f
  let s1 := (cs.map (·.e.ctx)).eraseDups.foldl (fun s n => s.abortAdd n ((cs.filter (fun c => c.e.ctx == n)).map (s.kciAbort reason))) s
  s1.loseCmds cs

/-- Every context takes its reset values but for its Run counters, and objects that nothing maps go (R364, R415). -/
def State.clearContexts (s : State) : State :=
  let s1 := s.modCtxs (fun l => tmap l (fun n c => { Context.reset n with viol := c.viol, c0Discard := c.c0Discard }))
  (s1.objs.map (·.1)).foldl (fun s o => s.collect o) s1

/-- The peer logic stops: the lanes idle (R46), the configuration takes its reset value (R415), the Run counters stay. -/
def PeerSt.halt (p : PeerSt) : PeerSt :=
  { PeerSt.reset with
    incarnation := p.incarnation
    stale := p.stale
    replays := p.replays
    retiredLanes := p.retiredLanes
    ports := tmap p.ports (fun _ x => x.idle)
    sent := p.sent
    wire := p.wire }

/-- The Select registers (Table 18-2). -/
def State.clearSelects (s : State) : State :=
  (s.modErrs (fun e => { e with selLo := 0, selHi := 0, window := none })).modLedger (fun l => { l with
    ackLo := 0, selLo := 0, selHi := 0, ctxSel := 0, ctxWin := none, recWin := none })

/-- The Config and Select registers and the group (Table 18-2, R415), and a recorded refusal. -/
def State.clearConfig (s : State) : State :=
  let s1 := (s.clearSelects.modParts (fun l => tmap l (fun _ p =>
    { PartSt.reset with demoted := p.demoted, late := p.late, t2quota := p.t2quota }))).modPeer PeerSt.halt
  (s1.modErrs (fun e => { e with vec := 0 })).modMgmt (fun m => { m with cfgErr := 0, cfgAddr := 0, latch := [], keySel := 0, keyData := [] })

/-- An array that holds no work: its service state, spares and counters stay. -/
def ArraySt.stop (a : ArraySt) : ArraySt :=
  { ArraySt.reset with state := a.state, spareRows := a.spareRows, spareCols := a.spareCols, ecc := a.ecc, active := a.active, idle := a.idle }

/-- A region in reset: its temperature and its counters stay (R439). -/
def Region.stop (r : Region) : Region :=
  { Region.reset with
    tj := r.tj
    warns := r.warns
    stretches := r.stretches
    refused := r.refused
    breaches := r.breaches
    switches := r.switches
    holdovers := r.holdovers }

/-- Reset some regions. -/
def State.stopRegions (s : State) (rs : List Nat) : State := rs.foldl (fun s r => s.modRegion r Region.stop) s

/-- Is a NAND operation a program of cached extents, or one that needs no data? -/
def State.keepsReq (s : State) (r : NandReq) : Bool :=
  r.uid.isNone && r.pri != 3 && r.items.all (fun i => match tfind s.nand.items i with | some (.extent _) => true | _ => false)

/-- What F has begun runs to its end; of what waits only cached writes and background work stay. -/
def State.trimNand (s : State) : State :=
  s.modNand (fun n => { n with dies := tmap n.dies (fun _ d => { d with
    waiting := d.waiting.filter s.keepsReq
    busy := if d.ladder.isEmpty then d.busy else none
    ladder := [] }) })

/-- R262: the store's reset command: the operation in progress ends; erases stay due but those of a boot slot. -/
def State.resetStore (s : State) : State :=
  s.modStore (fun t => { t with
    cur := none
    commit := none
    queue := t.queue.filter (fun o => match o.kind with | .erase _ => !StoreSt.bootErase o | _ => false) })

/-- PERST# and the recovery of C: the cores stop; every fetched command goes into an abort list with reason 4; the
configuration takes its reset values; the write cache, region 37 and what the store keeps stay. -/
def State.haltCores (s : State) : State :=
  let s1 := (((s.clearControllers 4).abortKci (fun _ => true) 4).clearContexts.clearConfig).abandonTests (fun _ => true)
  let s2 := s1.modArrays (fun l => tmap l (fun _ a => a.stop))
  ((s2.trimNand.resetStore.stopRegions [32, 33, 34, 35, 36]).modNvme (fun n => { n with fwBuf := [], wce := true })).modPower (fun p => { p with
    linkUp := false, nvmeReady := false, computeReady := false, pstate := 0, lastOp := 0, lowPending := none,
    checkRunning := false, checkDone := false })

/-! ### The power-fail record (R271, R272, R339) -/

/-- R272: the two hole slots that a record goes to, searched backward from H + 95. -/
def StoreSt.recordSlots (t : StoreSt) : Option (List Nat) :=
  let free := ((List.range 96).map (fun i => (t.h + 95 - i) % 4064)).filter (fun p =>
    !t.dirty.contains p && !t.hole.any (fun r => r.place.contains p))
  match free with
  | a :: b :: _ => some [a, b]
  | _ => none

/-- The KCI entry of a command (Table 13-10). -/
def State.kciEntry (s : State) (c : Cmd) : LacKci :=
  { ctx := c.e.ctx, queue := c.e.queue, cid := c.e.cid, oid := s.t2Writing c, part := (s.ctx c.e.ctx).partition }

/-- R339: for each function the fetched NVMe commands that no extent lists. -/
def State.otherCounts (s : State) : List (Nat × Nat) :=
  let rest := s.nvme.outstanding.filter (fun o => !s.nvme.cache.any (fun e => !e.completed && e.h.same o.1))
  (rest.map (·.1.fn)).eraseDups.map (fun f => (f, rest.countP (fun o => o.1.fn == f)))

/-- R323: a completed shutdown of the PF with nothing cached and nothing fetched but event requests. -/
def State.shutDown (s : State) : Bool :=
  decide ((s.ctl 0).shutdown = 2) && s.nvme.cache.isEmpty && s.nvme.waiting.isEmpty && s.cmds.isEmpty &&
    s.nvme.outstanding.all (fun o => o.1.sqid == 0 && (s.ctl o.1.fn).aers.contains o.1.cid)

/-- The record of what the power-fail buffer of region 37 holds (R426). -/
def State.failRecord (s : State) (place : List Nat) : LacunaRec :=
  { seq := s.store.lacSeq + 1, time := s.time.now, copied := 0, complete := true, exts := s.extents, kcis := s.cmds.map s.kciEntry,
    counts := s.otherCounts, nExts := s.extents.length, nKcis := s.cmds.length, unlisted := 0,
    snapshot := if s.ledger.isOpen then some (s.closedRec s.time.now true) else none, quiet := s.shutDown, place := place }

/-- Put a record into the hole; it carries device time (R58). -/
def State.putRecord (s : State) (f : List Nat → LacunaRec) : State :=
  match s.store.recordSlots with
  | none => s
  | some place =>
    (s.modStore (fun t => { t with hole := t.hole ++ [f place], lacSeq := t.lacSeq + 1 })).modTime (fun t => { t with recorded := some t.now })

/-- R425 to R427 at t0: the record is written, the NAND dies are reset, the peer lanes idle, the store's operation ends. -/
def State.failPower (s : State) : State :=
  let s1 := (s.putRecord s.failRecord).nandReset.resetStore
  let s2 := (s1.modStore (fun t => { t with cur := some { kind := .powerFail } })).modPeer PeerSt.halt
  s2.modPower (fun p => { p with mode := .failing, t0 := some s.time.now, linkUp := false, nvmeReady := false, computeReady := false })

/-- Hold-up energy ran out after some 16-byte entries of the newest record: KCI entries come first, then extents. -/
def LacunaRec.cut (r : LacunaRec) (written : Nat) : LacunaRec :=
  let lost := r.exts.drop (written - r.kcis.length)
  if r.kcis.length + r.exts.length < written then r
  else { r with
    complete := false
    kcis := r.kcis.take written
    exts := r.exts.take (written - r.kcis.length)
    unlisted := (lost.map (·.nsid)).eraseDups.foldl (fun n k => n + 2 ^ (k - 1)) 0
    snapshot := if lost.isEmpty && decide (r.kcis.length ≤ written) then r.snapshot else none }

/-! ### Power-on reset (R369, R414, R428, Tables 16-7 and 18-2) -/

/-- Where the drive stands without a reset of its own: by its rails and PWRDIS. -/
def PowerSt.rest (p : PowerSt) : Mode :=
  if p.pwrdisPin ∧ p.rail33 then .pwrdis else if p.rail12 ∧ p.rail33 then .powerOnReset else if p.rail33 then .auxOnly else .noRails

/-- A stored object after a loss of power: no page of it stands in T0 or T1 any more (R428). -/
def ObjectSt.stored (x : ObjectSt) : ObjectSt :=
  { x with
    pageTab := tmap (x.pageTab.filter (fun p => p.2.tier == 2)) (fun _ p => { p with copies := [], moving := none })
    prog := x.prog.map (fun p => { p with loaded := false }) }

/-- What NAND keeps without power. -/
def NandSt.keep (n : NandSt) : NandSt :=
  { NandSt.reset with
    dies := tmap n.dies (fun _ d => { DieSt.reset with retired := d.retired, badBlocks := d.badBlocks, patrolled := d.patrolled })
    blocks := n.blocks
    groups := n.groups
    rows := tmap n.rows (fun _ r => { r with items := [] })
    tornErase := n.tornErase
    retiredDies := n.retiredDies
    retiredBlocks := n.retiredBlocks
    scanRetired := n.scanRetired }

/-- The whole drive takes its reset values, but for what is stored and what counts for life (R415, Table 18-2). Fetched
commands are gone; their output ranges are undefined (R403). -/
def State.powerOn (s0 : State) (cause : Nat) : State :=
  let s := (s0.loseCmds s0.cmds).clearContexts
  { State.reset with
    variant := s.variant
    power := { PowerSt.reset with
      mode := s.power.rest
      rail12 := s.power.rail12
      rail33 := s.power.rail33
      pwrdisPin := s.power.pwrdisPin
      miReady := s.power.miReady && s.power.rail33
      resetCause := cause
      t0 := s.power.t0
      recoveries := s.power.recoveries
      onTime := s.power.onTime }
    time := { TimeSt.reset with recorded := s.time.recorded }
    objs := tmap (s.objs.filter (fun o => o.2.persistent)) (fun _ x => x.stored)
    arrays := tmap s.arrays (fun _ a => { ArraySt.reset with state := a.state, spareRows := a.spareRows, spareCols := a.spareCols })
    parts := tmap s.parts (fun _ p => { PartSt.reset with t2quota := p.t2quota })
    tests := s.tests.map (fun t => { t with running := false })
    verdicts := s.verdicts
    verdictCtrs := s.verdictCtrs
    nand := s.nand.keep
    store := s.resetStore.store
    nvme := { NvmeSt.reset with
      ns := s.nvme.ns
      locks := s.nvme.locks
      mbrOn := s.nvme.mbrOn
      mbr := s.nvme.mbr
      sanitize := s.nvme.sanitize
      sanitizeDone := s.nvme.sanitizeDone
      readOnly := s.nvme.readOnly
      out := s.nvme.out }
    peer := { PeerSt.reset with
      incarnation := s.peer.incarnation
      retiredLanes := s.peer.retiredLanes
      ports := tmap s.peer.ports (fun _ x => { Port.reset with present := x.present, partnerLive := x.partnerLive })
      sent := s.peer.sent
      wire := s.peer.wire }
    errs := { ErrSt.reset with next := s.errs.next, ring := s.errs.ring }
    ledger := { LedgerSt.reset with
      period := s.ledger.period
      openSeq := s.ledger.openSeq
      ring := s.ledger.ring
      ack := s.ledger.ack
      overwritten := s.ledger.overwritten }
    mgmt := { MgmtSt.reset with keys := s.mgmt.keys, miOut := s.mgmt.miOut, msix := s.mgmt.msix }
    host := s.host
    nextId := s.nextId
    freeCtr := s.freeCtr
    pending := s.pending }

/-! ### A start (Table 16-6) -/

/-- State of a boot slot. -/
def StoreSt.slot (t : StoreSt) (b : Bool) : Nat := if b then t.slotB else t.slotA

/-- R280: the boot ROM's choice of a slot. -/
def State.boot (s : State) : State :=
  let run (s : State) (b : Bool) : State := s.modStore (fun t => { t with runningB := b })
  match [false, true].find? (fun b => s.store.slot b == 3) with
  | some b => run (s.setSlot b 5) (!b)
  | none => match [false, true].find? (fun b => s.store.slot b == 2) with
    | some b => run (s.setSlot b 3) b
    | none =>
      let b := decide (s.store.slotB = 4)
      run s (if s.store.valid b then b else !b)

/-- R265: sectors with an ERASE_INTENT and no later ERASE_DONE. -/
def tornSectors (j : List JEntry) : List Nat :=
  j.foldl (fun l e =>
    if e.kind = jIntent then l.filter (· != e.sector) ++ [e.sector]
    else if e.kind = jDone then l.filter (· != e.sector)
    else l) []

/-- R265: torn sectors are counted, and erased again before any use. -/
def State.readJournal (s : State) : State :=
  (tornSectors s.store.journal).foldl (fun s x =>
    (s.modStore (fun t => { t with tornErase := satAdd 32 t.tornErase 1 })).queueErase x) s

/-- R58: at power-on device time starts an hour beyond the highest value recorded; other starts leave it running. -/
def State.startTime (s : State) : State :=
  if s.time.running then s
  else s.modTime (fun t =>
    let n := match t.recorded with | some r => r + 3600000000000 | none => 0
    { t with now := n, running := true, beacon := n, window := n / 1000000 * 1000000 })

/-- Table 16-6 step 4: every region reaches LOCKED. -/
def State.lockRegions (s : State) : State :=
  (List.range 42).foldl (fun s r => s.modRegion r (fun x =>
    if x.lock = 2 then x else { x with lock := 2, time := s.time.now * 2 ^ 26, missed := 0, good := 0, heldFor := 0 })) s

/-- The records of the hole that no start has met yet: their ledger snapshots close (R448), the objects that they name take
the power-fail mark (R404), and a POWER record gives t0 (R434). -/
def State.meetRecords (s : State) : State :=
  let fresh := s.store.hole.filter (fun r => r.copied == 0)
  let s1 := fresh.foldl (fun s r => match r.snapshot with | some c => s.addClosed c | none => s) s
  let named (x : ObjectSt) : Bool := fresh.any (fun r => r.kcis.any (fun k => k.oid != 0 && k.oid == x.oid && k.part == x.part))
  let s2 := s1.modObjs (fun l => tmap l (fun _ x => if x.persistent && named x then { x with mark := true } else x))
  let s3 := s2.modStore (fun t => { t with hole := t.hole.map (fun r => if r.copied = 0 then { r with copied := s.time.now } else r) })
  match s.power.t0 with
  | none => s3
  | some t => (s3.logErr { cls := 0x51, kind := 2, addr := t }).modPower (fun p => { p with t0 := none })

/-- R323: a record of a power loss after a completed shutdown reports nothing. -/
def State.dropQuiet (s : State) : State :=
  let ps := (s.store.hole.filter (fun r => r.quiet)).flatMap (fun r => r.place)
  ps.foldl (fun s p => s.queueErase (32 + p)) (s.modStore (fun t => { t with hole := t.hole.filter (fun r => !r.quiet), dirty := t.dirty ++ ps }))

/-- R273: copy records into lacuna slots, oldest first, while one is free. -/
def State.copyRecords : Nat → State → State
  | 0, s => s
  | n + 1, s => State.copyRecords n s.copyRecord

/-- R416: what the cache holds is committed. -/
def State.commitCache (s : State) : State :=
  let s1 := (s.nvme.cache.map (·.id)).foldl (fun s i => s.commitExtent i 0) s
  s1.modNand (fun n => { n with
    items := []
    rows := tmap n.rows (fun _ r => { r with items := [] })
    dies := tmap n.dies (fun _ d => { d with waiting := d.waiting.filter (fun r => r.items.isEmpty) }) })

/-- A start, up to the point where the host may enable a controller. `cause` is that of PWR_RESET_CAUSE. -/
def State.start (s : State) (cause : Nat) (refclk : Bool) : State :=
  let s1 := s.modPower (fun p => { p with
    mode := .running, perstPin := false, commonClock := refclk, linkUp := true, miReady := p.rail33, resetCause := cause,
    nvmeReady := false, computeReady := false, checkRunning := true, checkDone := false })
  let s2 := (s1.readJournal.boot.startTime.lockRegions.meetRecords)
  let s3 := (if s2.ledger.isOpen then s2 else s2.openPeriod s2.time.now).readPlans.dropQuiet
  let s4 := ((State.copyRecords s3.store.hole.length s3).commitCache.discardVolatile).retarget
  let s5 := s4.modObjs (fun l => tmap l (fun _ x => { x with prog := x.prog.map (fun p => { p with loaded := false }) }))
  ((s5.modPower (fun p => { p with rails := tmap p.rails (fun _ r => { r with cur := r.target }) })).modPeer (fun p => { p with
    incarnation := (p.incarnation + 1) % 2 ^ 32 })).modNvme (fun n => { n with ctls := tmap n.ctls (fun _ c => { c with told := false }) })

end Sys2Proof.Machine
end

