-- ==== Sys2Proof/Machine/Resets.lean ====
section
/-! DEFINITION. The commands of power, reset, start-up and die recovery (chapters 2, 13, 16 and 19). -/

namespace Sys2Proof.Machine

/-! ### Rails and PWRDIS (R45, R414, R430, R469) -/

/-- POWER_ON_RESET (R414): a rail rises. A record in progress is completed first (R430); work that loses DRAM without one
is recorded before the reset (R369). -/
def execPowerOnReset (rail12 rail33 : Bool) (s : State) : Host.Outcome State Fault Refusal :=
  let rails (s : State) : State := s.modPower (fun p => { p with rail12 := rail12, rail33 := rail33 })
  match s.power.mode with
  | .failing => .next (rails s)
  | .pwrdis => .next (rails s)
  | .running => .next ((rails (s.putRecord s.failRecord).nandReset).powerOn 1)
  | .perst => .next ((rails (s.putRecord s.failRecord).nandReset).powerOn 1)
  | .noRails => .next ((rails s).powerOn 1)
  | .auxOnly => .next ((rails s).powerOn 1)
  | .powerOnReset => .next ((rails s).powerOn 1)

/-- AUX_RAIL_VALID (R45, Table 16-6 step 1). -/
def execAuxRailValid (s : State) : Host.Outcome State Fault Refusal :=
  .next (s.modPower (fun p => { p with
    rail33 := true, miReady := true, mode := if p.mode = .noRails then .auxOnly else p.mode }))

/-- AUXILIARY_RAIL_LOSS (R45): the auxiliary island stops. -/
def execAuxiliaryRailLoss (s : State) : Host.Outcome State Fault Refusal :=
  .next (s.modPower (fun p => { p with
    rail33 := false, miReady := false, mode := if p.mode = .auxOnly ∨ p.mode = .powerOnReset then .noRails else p.mode }))

/-- POWER_FAIL (R425): t0. Before a start nothing is fetched, and the drive only loses its rail. -/
def execPowerFail (s : State) : Host.Outcome State Fault Refusal :=
  let s1 := s.modPower (fun p => { p with rail12 := false })
  match s.power.mode with
  | .running => .next s1.failPower
  | .perst => .next s1.failPower
  | .powerOnReset => .next (s1.modPower (fun p => { p with mode := p.rest }))
  | .noRails => .next s1
  | .auxOnly => .next s1
  | .failing => .next s1
  | .pwrdis => .next s1

/-- POWER_FAIL_RECORD_DONE (R430): the completed record causes a power-on reset. The cause is power-on when PWRDIS caused the
record (chapter 19, When things fall together). -/
def execPowerFailRecordDone (s : State) : Host.Outcome State Fault Refusal :=
  .next (if s.power.mode = .failing then s.powerOn (if s.power.byPwrdis then 1 else 4) else s)

/-- PWRDIS_ASSERT (R469). -/
def execPwrdisAssert (s : State) : Host.Outcome State Fault Refusal :=
  let s1 := s.modPower (fun p => { p with pwrdisPin := true })
  match s.power.mode with
  | .running => .next (s1.modPower (fun p => { p with byPwrdis := true })).failPower
  | .perst => .next (s1.modPower (fun p => { p with byPwrdis := true })).failPower
  | .powerOnReset => .next (s1.modPower (fun p => { p with mode := p.rest }))
  | .noRails => .next s1
  | .auxOnly => .next s1
  | .failing => .next s1
  | .pwrdis => .next s1

/-- PWRDIS_DEASSERT (R469): a power-on reset; a record in progress is completed first (R430). -/
def execPwrdisDeassert (s : State) : Host.Outcome State Fault Refusal :=
  let s1 := s.modPower (fun p => { p with pwrdisPin := false })
  .next (if s.power.mode = .pwrdis then s1.powerOn 1 else s1)

/-- HOLD_UP_ENERGY_EXHAUSTED (R34, R272): regions 36 and 37 lose power after `written` entries of the record; the next start
reports it as incomplete. -/
def execHoldUpEnergyExhausted (written : Nat) (s : State) : Host.Outcome State Fault Refusal :=
  if s.power.mode = .failing then
    let cutLast (l : List LacunaRec) : List LacunaRec := match l.reverse with
      | r :: rest => (r.cut written :: rest).reverse
      | [] => []
    .next (((s.modStore (fun t => { t with hole := cutLast t.hole })).modPower (fun p => { p with
      rail12 := p.rail12 && p.byPwrdis })).powerOn 1)
  else .next s

/-! ### PERST# and the start (R416, R422, R472) -/

/-- PERST_ASSERT. During a recovery of C the cores are already stopped. -/
def execPerstAssert (s : State) : Host.Outcome State Fault Refusal :=
  let s1 := s.modPower (fun p => { p with perstPin := true })
  .next (if s.power.mode = .running then
    (if s.power.recovering.contains 2 then s1 else s1.haltCores).modPower (fun p => { p with mode := .perst })
  else s1)

/-- PERST_DEASSERT: a start, once both rails are valid. One that comes while C recovers lets the end of the recovery make the
only start. -/
def execPerstDeassert (refclk : Bool) (s : State) : Host.Outcome State Fault Refusal :=
  let s1 := s.modPower (fun p => { p with perstPin := false, commonClock := refclk })
  match s.power.mode with
  | .perst => .next (if s.power.recovering.contains 2 then s1 else s.start 2 refclk)
  | .powerOnReset => .next (s.start s.power.resetCause refclk)
  | .running => .next s
  | .noRails => .next s1
  | .auxOnly => .next s1
  | .failing => .next s1
  | .pwrdis => .next s1

/-- CONTROLLER_ENABLE (R422 step 8): CSTS.RDY becomes 1. While a lacuna record is unreleased the controller hears of it at its
first enable after a start (R341). -/
def execControllerEnable (fn : Nat) (s : State) : Host.Outcome State Fault Refusal :=
  if s.linked = true ∧ fn < 256 ∧ (fn = 0 ∨ s.power.nvmeReady = true) then
    let tell := !s.store.lacuna.isEmpty && !(s.ctl fn).told
    let s1 := (s.modCtl fn (fun c => { c with enabled := true, ready := true, told := true })).modPower (fun p => { p with nvmeReady := true })
    .next (if tell then s1.asyncEvent fn (eventDw 7 0x00 0xC0) else s1)
  else .next s

/-- COMPUTE_READY (R280, R422 step 11): after the hold-up check the running slot that was tried is confirmed, and the fused
minimum rises to its security version. -/
def execComputeReady (s : State) : Host.Outcome State Fault Refusal :=
  if s.linked = true ∧ s.power.nvmeReady = true ∧ s.power.checkDone = true ∧ s.power.computeReady = false then
    let s1 := s.modPower (fun p => { p with computeReady := true })
    let b := s.store.runningB
    if s.store.slot b = 3 then
      let svn := match s.store.image b with | some i => i.svn | none => 0
      .next (((s1.setSlot b 4).setSlot (!b) 1).modStore (fun t => { t with minSvn := max t.minSvn svn }))
    else .next s1
  else .next s

/-! ### Controller reset, FLR, host link, SMBus (R47, R367, R414, R470) -/

/-- CONTROLLER_RESET. -/
def execControllerReset (fn : Nat) (s : State) : Host.Outcome State Fault Refusal :=
  .next (if s.linked = true ∧ fn < 256 then s.controllerReset fn 2 else s)

/-- FLR: one function, or every function on the PF, which also sees its Select registers cleared. -/
def execFlr (fn : Nat) (s : State) : Host.Outcome State Fault Refusal :=
  if s.linked = true ∧ fn < 256 then
    if fn = 0 then
      let s1 := (s.clearControllers 1).clearSelects
      .next ((s1.ctxs.map (·.1)).foldl (fun s c => s.resetCtx c 1) s1)
    else .next ((s.clearController fn 1).resetCtx fn 1)
  else .next s

/-- Has a RUN a tile in progress? -/
def Cmd.inTile (c : Cmd) : Bool := c.tiles.any (fun t => t.began && !t.finished)

/-- HOST_LINK_LOSS (R47): a RUN ends with the tiles in progress, every other command at once; each enters the abort list. -/
def execHostLinkLoss (s : State) : Host.Outcome State Fault Refusal :=
  if s.linked then
    let s1 := ((s.modPower (fun p => { p with linkUp := false })).clearControllers 4).clearSelects
    let s2 := s1.abortKci (fun c => c.status.isSome || !c.inTile) 4
    .next (s2.cmds.foldl (fun s c => s.endSoft c.uid stLinkLost 0) s2)
  else .next s

/-- HOST_LINK_RETURN (R47): every function starts from reset, and every context is reset. -/
def execHostLinkReturn (s : State) : Host.Outcome State Fault Refusal :=
  if s.live = true ∧ s.power.linkUp = false then
    let s1 := s.modPower (fun p => { p with linkUp := true })
    .next ((s1.ctxs.map (·.1)).foldl (fun s c => s.resetCtx c 4) s1)
  else .next s

/-- SMBRST (R470): the SMBus interface and the MCTP state, and nothing else. -/
def execSmbrst (s : State) : Host.Outcome State Fault Refusal := .next (s.modMgmt (fun m => { m with smbCfg := [], mctp := 0 }))

/-- SHUTDOWN_NOTIFICATION (R323), normal or abrupt. -/
def execShutdownNotification (fn : Nat) (abrupt : Bool) (s : State) : Host.Outcome State Fault Refusal :=
  let _ := abrupt
  .next (if s.linked = true ∧ fn < 256 ∧ (s.ctl fn).enabled = true then
    (s.modCtl fn (fun c => { c with shutdown := 1 })).finishShutdown else s)

/-- LED_TOGGLE (R471). -/
def execLedToggle (s : State) : Host.Outcome State Fault Refusal :=
  .next (if s.power.failed then s.modPower (fun p => { p with ledToggle := !p.ledToggle }) else s)

/-! ### Die recovery (R419-R421) -/

/-- The matrix die of a command's work: a tile in progress on its arrays, or finished rows in a chain buffer that a tile
still reads. -/
def Cmd.onDie (c : Cmd) (d : Nat) : Bool :=
  c.tiles.any (fun t => decide (arrDie t.array = d) && t.began &&
    (!t.finished || (t.plan.outSlot.isNone && c.tiles.any (fun u => u.array == t.array && !u.finished && u.plan.actSlot.isNone))))

/-- Has a command a page in T0 on a die? -/
def State.t0On (s : State) (c : Cmd) (d : Nat) : Bool :=
  (s.accesses c).any (fun a => match s.handleObj c.e.ctx a.handle with
    | some (_, x) => (pagesOf a.off a.len).any (fun p => match tfind x.pageTab p with | some q => q.tier == 0 && q.die == d | none => false)
    | none => false)

/-- End the commands that a predicate selects with INTERNAL. -/
def State.endInternal (s : State) (f : Cmd → Bool) : State :=
  let uids := (s.cmds.filter (fun c => f c && c.status.isNone)).map (·.uid)
  ((s.endOps uids stInternal).concludeAll (fun c => uids.contains c.uid) stInternal).settle.recheck

/-- R420: pages in T0 of a die are lost; copies there go. -/
def State.loseT0 (s : State) (d : Nat) : State :=
  s.modObjs (fun l => tmap l (fun _ x => { x with pageTab := tmap x.pageTab (fun _ p => { p with
      lost := p.lost || (p.tier == 0 && p.die == d)
      copies := p.copies.filter (fun c => c.tier != 0 || c.die != d) }) }))

/-- The reset of M0 or M1 (Table 16-5). -/
def State.resetMatrix (s : State) (d : Nat) : State :=
  let mine (c : Cmd) : Bool := c.onDie d || s.passesOut c.uid && s.arrays.any (fun a => arrDie a.1 == d &&
    (a.2.inflight ++ a.2.checking).any (fun r => r.uid == c.uid)) || s.t0On c d
  let s1 := (s.endInternal mine).abandonTests (fun t => takesArray t.kind && arrDie t.index == d)
  let s2 := s1.modArrays (fun l => tmap l (fun a x => if arrDie a = d then x.stop else x))
  (s2.loseT0 d).stopRegions ((List.range 16).map (· + 16 * d))

/-- Commands with a NAND operation in progress. -/
def State.onNandNow (s : State) (c : Cmd) : Bool :=
  s.nand.dies.any (fun d => match d.2.busy with
    | some r => r.uid == some c.uid || r.items.any (fun i => c.waitItems.contains i)
    | none => false) ||
  (match c.search with | some x => x.queries.any (fun q => q.scans.any (fun v => !v.ended)) | none => false)

/-- The reset of F (Table 16-5). -/
def State.resetFlash (s : State) : State :=
  let busy := s.nand.dies.filterMap (fun d => d.2.busy)
  let exts := busy.flatMap (fun r => r.items.filterMap (fun i => match tfind s.nand.items i with | some (.extent e) => some e | _ => none))
  let hit (h : NvmeHdr) : Bool := s.nvme.cache.any (fun e => exts.contains e.id && !e.completed && e.h.same h)
  (((s.endInternal s.onNandNow).endNvme hit nvInternal).nandReset).stopRegions [38, 39, 40, 41]

/-- R421: what the cache holds and the drive cannot reach: all of it without F or C; with a stack lost, what a free value
says, because the spec does not say which data each half holds (assumption log 29). -/
def State.unreachable (s : State) (d : Nat) (e : Extent) : Bool := decide (2 ≤ d) || Config.freeNat s.freeCtr e.id % 2 == 1

/-- R421: the failed state. Reachable cached writes are committed, the loss of the others is recorded with the rails present,
waiting writes end with Write Fault, and commands that need the failed die end with INTERNAL. -/
def State.enterFailed (s : State) (d : Nat) : State :=
  if s.power.failed then s
  else
    let gone := s.nvme.cache.filter (fun e => s.unreachable d e)
    let left := s.nvme.cache.filter (fun e => !s.unreachable d e)
    let lostIds := gone.map (·.id)
    let only : State := s.modNvme (fun n => { n with cache := gone })
    let rec' (place : List Nat) : LacunaRec := { only.failRecord place with kcis := [], nKcis := 0, counts := [], snapshot := none, quiet := false }
    let s1 := (if gone.isEmpty then s else s.putRecord rec').drawn
    let fl := s.nvme.flushes.filter (fun f => f.waits.any (fun i => lostIds.contains i))
    let s2 := s1.endNvme (fun h => gone.any (fun e => !e.completed && e.h.same h) || s.nvme.waiting.any (fun e => e.h.same h)) nvWriteFault
    let s3 := s2.endNvme (fun h => fl.any (fun f => f.h.same h)) nvInternal
    let s4 := s3.modNvme (fun n => { n with cache := n.cache.filter (fun e => !lostIds.contains e.id) })
    let s5 := ((left.map (·.id)).foldl (fun s i => s.commitExtent i 0) s4).modPower (fun p => { p with failed := true })
    let s6 := s5.endInternal (fun c => s5.needsFailed c || c.tiles.any (fun t => !t.finished && arrDie t.array == d))
    State.noteCritical s s6

/-- Recoveries of a die in the last 24 h of power-on time. -/
def PowerSt.recent (p : PowerSt) (d : Nat) : Nat := p.recoveries.countP (fun r => r.1 == d && decide (p.onTime ≤ r.2 + 86400000000000))

/-- A recovery of a die begins (Table 16-5): its record, the reset of the die, and at the third within 24 h the failed
state. -/
def State.recover (s : State) (d cause : Nat) : State :=
  if s.power.mode ≠ .running ∨ 3 < d ∨ s.power.recovering.contains d = true ∨ s.power.recovering.contains 2 = true then s
  else
    let s1 := (s.modPower (fun p => { p with recoveries := p.recoveries ++ [(d, p.onTime)] })).logErr
      { cls := 0x52, kind := 2, addr := d, detail := cause }
    let s2 := if d = 2 then s1.haltCores else if d = 3 then s1.resetFlash else s1.resetMatrix d
    let s3 := s2.modPower (fun p => { p with recovering := p.recovering ++ [d] })
    if 3 ≤ s3.power.recent d then s3.enterFailed d else s3

def execDieRecoveryStart (die cause : Nat) (s : State) : Host.Outcome State Fault Refusal := .next (s.recover die cause)

def execHousekeepingReportTimeout (die : Nat) (s : State) : Host.Outcome State Fault Refusal := .next (s.recover die 3)

def execKerilWatchdogExpiry (s : State) : Host.Outcome State Fault Refusal := .next (s.recover 2 4)

/-- DIE_RECOVERY_DONE: the die works again and what waited for it goes on; for C this is a start, unless PERST# holds it or
has been deasserted meanwhile and then makes it. Only a power-on reset ends the failed state. -/
def execDieRecoveryDone (die : Nat) (s : State) : Host.Outcome State Fault Refusal :=
  if s.power.recovering.contains die = true ∧ s.power.failed = false then
    let s1 := s.modPower (fun p => { p with recovering := p.recovering.filter (fun d => d != die) })
    if die ≠ 2 then .next (s1.settle.recheck)
    else if s.power.mode = .running then .next (s1.start 3 s.power.commonClock)
    else if s.power.mode = .perst ∧ s.power.perstPin = false then .next (s1.start 2 s.power.commonClock)
    else .next s1
  else .next s

/-- DIE_RECOVERY_OVERRUN (R421). -/
def execDieRecoveryOverrun (die : Nat) (s : State) : Host.Outcome State Fault Refusal :=
  .next (if s.power.recovering.contains die then s.enterFailed die else s)

end Sys2Proof.Machine
end

