-- ==== Sys2Proof/Machine/Time.lean ====
section
/-! DEFINITION. Device time, the beacons and the region times (R57-R68), the oscillator and margin watches (R67-R73) and the
refresh of the monitors (R439, R440): the commands of chapter 3. -/

namespace Sys2Proof.Machine

/-! ### Device time (R57, R58) -/

/-- Does device time run: rails up and no power failure? -/
def State.ticking (s : State) : Bool := s.time.running && decide (s.power.mode = .running ∨ s.power.mode = .perst)

/-- CRYSTAL_PERIOD: 20 ns of device time and of power-on time. -/
def execCrystalPeriod (s : State) : Host.Outcome State Fault Refusal :=
  .next (if s.ticking then
    (s.modTime (fun t => { t with now := t.now + 20 })).modPower (fun p => { p with onTime := p.onTime + 20 })
  else s)

/-- DEVICE_TIME_RECORD (R58): the record becomes due in the program store. -/
def execDeviceTimeRecord (s : State) : Host.Outcome State Fault Refusal :=
  .next (if s.live = true ∧ s.store.queue.contains { kind := .timeRecord } = false then
    s.modStore (fun t => { t with queue := t.queue ++ [{ kind := .timeRecord }] }) else s)

/-! ### Beacons (R59-R63) -/

/-- 1 ns in the unit of region time. -/
def oneNs : Nat := 2 ^ 26

/-- Change every region. -/
def State.modRegions (s : State) (f : Region → Region) : State :=
  s.modTime (fun t => { t with regions := (List.range 42).map (fun r => (r, f (tget Region.reset t.regions r))) })

/-- BEACON_SEND: every 1,024 ns of device time. A region that does not receive it has missed it. -/
def execBeaconSend (s : State) : Host.Outcome State Fault Refusal :=
  .next (if s.ticking = true ∧ s.time.beacon + 1024 ≤ s.time.now then
    (s.modTime (fun t => { t with beacon := t.beacon + 1024 })).modRegions (fun r => { r with
      missed := satAdd 32 r.missed 1, heldFor := if r.lock = 3 then r.heldFor + 1 else r.heldFor })
  else s)

/-- R60: the period estimate after an error of e. It has 16 fractional bits of a ns; which way the quotient is rounded to
them is a free value. -/
def trimPeriod (period e : Int) (ticks draw : Nat) : Int :=
  let d : Int := 4096 * ticks
  let q := e / d
  period + 1024 * (if d * q = e ∨ ticks = 0 then q else q + (Config.freeNat draw 0 % 2 : Nat))

/-- Limit a slew share to 1/16 ns either way (R60). -/
def clampSlew (x : Int) : Int := max (-4194304) (min 4194304 x)

/-- R60: region time, period estimate and slew share after a beacon. -/
def Region.steer (r : Region) (e : Int) (target draw : Nat) : Region :=
  if r.lock = 0 ∨ 1024 * oneNs < e.natAbs then
    (if 0 < e then { r with time := target } else { r with slew := -4194304 })
  else { r with period := trimPeriod r.period e r.ticks draw, slew := clampSlew (e / 1024) }

/-- Table 3-3: the lock state after a beacon with an error of e, and the run of small errors. -/
def Region.relock (r : Region) (e : Int) : Region :=
  let near := decide (e.natAbs ≤ 16 * oneNs)
  if r.lock = 0 then { r with lock := 1, good := 0 }
  else if r.lock = 1 then
    (if near then (if 8 ≤ r.good + 1 then { r with lock := 2, good := 0 } else { r with good := r.good + 1 }) else { r with good := 0 })
  else if r.lock = 2 then (if 64 * oneNs < e.natAbs then { r with lock := 1, good := 0 } else r)
  else if near then { r with lock := 2, good := 0 }
  else { r with lock := 1, good := 0 }

/-- A beacon that carries device time b reaches a region. -/
def Region.beacon (r : Region) (b draw : Nat) : Region :=
  let target : Nat := b * oneNs + r.delay16 * 2 ^ 22
  let e : Int := (target : Int) - r.time
  { (r.steer e target draw).relock e with ticks := 0, missed := 0, heldFor := 0 }

/-- BEACON_RECEIVE. A region that takes its time from its housekeeping region no longer follows beacons (R68). -/
def execBeaconReceive (region b : Nat) (s : State) : Host.Outcome State Fault Refusal :=
  .next (if s.ticking = true ∧ region < 42 ∧ b ≤ s.time.now ∧ (s.region region).osc ≠ 2 then
    (s.modRegion region (fun r => r.beacon b s.freeCtr)).drawn else s)

/-- BEACON_PATH_MEASURE (R59). -/
def execBeaconPathMeasure (region delay16 : Nat) (s : State) : Host.Outcome State Fault Refusal :=
  .next (if s.ticking = true ∧ region < 42 then s.modRegion region (fun r => { r with delay16 := delay16 }) else s)

/-- BEACON_MISS_LIMIT (R62). -/
def execBeaconMissLimit (region : Nat) (s : State) : Host.Outcome State Fault Refusal :=
  .next (if s.ticking = true ∧ region < 42 ∧ (s.region region).lock = 2 ∧ 4 ≤ (s.region region).missed ∧ (s.region region).osc ≠ 2 then
    s.modRegion region (fun r => { r with lock := 3, heldFor := 0, holdovers := satAdd 32 r.holdovers 1 }) else s)

/-- HOLDOVER_TIMEOUT (R63): a TIME record. -/
def execHoldoverTimeout (region : Nat) (s : State) : Host.Outcome State Fault Refusal :=
  .next (if s.ticking = true ∧ (s.region region).lock = 3 ∧ 64 < (s.region region).heldFor then
    s.logErr { cls := 0x42, kind := 2, unit := unitOf 0xA region, addr := region, detail := (s.region region).heldFor % 2 ^ 32 } else s)

/-- The housekeeping region of a region's die (R68). -/
def housekeeping (r : Nat) : Nat := [15, 31, 37, 41].getD (regionDie r) 37

/-- LOCAL_TICK (R60, R68). -/
def execLocalTick (region : Nat) (s : State) : Host.Outcome State Fault Refusal :=
  let h := s.region (housekeeping region)
  .next (if s.ticking = true ∧ region < 42 then
    s.modRegion region (fun r =>
      if r.osc = 2 ∧ region ≠ housekeeping region then { r with time := max (r.time + 1) h.time, ticks := r.ticks + 1 }
      else { r with time := max (r.time + 1) ((r.time : Int) + r.period + r.slew).toNat, ticks := r.ticks + 1 })
  else s)

/-! ### The oscillator watch (R67, R68) -/

/-- Table 3-4: duty cycle [%], jitter [ps], ticks of a beacon interval. -/
def oscBad (duty jitter ticks : Nat) : Bool := decide (duty < 45 ∨ 55 < duty ∨ 20 < jitter ∨ ticks < 993 ∨ 1055 < ticks)

/-- OSCILLATOR_WATCH: the main oscillator gives way to the spare, and the spare to the housekeeping region. -/
def execOscillatorWatch (region duty jitter ticks : Nat) (s : State) : Host.Outcome State Fault Refusal :=
  if s.ticking = true ∧ region < 42 ∧ oscBad duty jitter ticks = true ∧ (s.region region).osc < 2 then
    let first := decide ((s.region region).osc = 0)
    let s1 := s.modRegion region (fun r =>
      if first then { r with osc := 1, lock := 0, good := 0, missed := 0, switches := satAdd 32 r.switches 1 }
      else { r with osc := 2, lock := 2, missed := 0 })
    .next (s1.logTest { cls := 0x41, kind := 2, addr := region } 0xA region)
  else .next s

/-! ### The margin watch (R69-R73) -/

/-- The slack of a sample, and the runs of samples that R70 and R73 count. -/
def Region.sample (r : Region) (slack : Nat) : Region :=
  { r with
    slack := slack
    calm := if 16 ≤ slack then r.calm + 1 else 0
    low := if slack < 4 ∧ r.stretch = 8 then r.low + 1 else 0 }

/-- More stretch, up to 8/16; each addition is counted. -/
def Region.stretchTo (r : Region) (n : Nat) : Region :=
  if r.stretch < n then { r with stretch := n, stretches := satAdd 32 r.stretches 1 } else r

/-- MARGIN_SAMPLE (Table 3-5). -/
def execMarginSample (region slack : Nat) (s : State) : Host.Outcome State Fault Refusal :=
  if s.ticking = true ∧ region < 42 ∧ slack ≤ 64 then
    let s1 := s.modRegion region (fun r => r.sample slack)
    .next (if 12 ≤ slack then s1
      else if 8 ≤ slack then (s1.modRegion region (fun r => { r with warns := satAdd 32 r.warns 1 })).askVolt region
      else if 4 ≤ slack then (s1.modRegion region (fun r => r.stretchTo (min (r.stretch + 1) 8))).askVolt region
      else (s1.modRegion region (fun r => r.stretchTo 8)).logTest { cls := 0x40, kind := 2, addr := region, detail := slack } 0xA region)
  else .next s

/-- Are the voltage raises that a die has requested complete? -/
def State.railSettled (s : State) (d : Nat) : Bool :=
  let r := tget { cur := 0, target := 0 } s.power.rails d
  r.cur == r.target

/-- STRETCH_RELEASE (R70). -/
def execStretchRelease (region : Nat) (s : State) : Host.Outcome State Fault Refusal :=
  .next (if s.ticking = true ∧ region < 42 ∧ 1024 ≤ (s.region region).calm ∧ 0 < (s.region region).stretch ∧ s.railSettled (regionDie region) = true then
    s.modRegion region (fun r => { r with stretch := r.stretch - 1, calm := 0 }) else s)

/-- The array of a timing region (Table 3-1). -/
def regionArray (r : Nat) : Option Nat := if r < 8 then some r else if 16 ≤ r ∧ r < 24 then some (r - 8) else none

/-- LASTING_MARGIN_FAULT (R73). -/
def execLastingMarginFault (region : Nat) (s : State) : Host.Outcome State Fault Refusal :=
  if s.ticking = true ∧ region < 42 ∧ 16 ≤ (s.region region).low then
    let s1 := (s.modRegion region (fun r => { r with low := 0 })).logErr
      { cls := 0x40, kind := 2, unit := unitOf 0xA region, addr := region, detail := (s.region region).slack }
    .next (match regionArray region with
      | some a => if (s1.arr a).state = 2 then s1 else s1.retireArray a
      | none => s1.recover (regionDie region) 0)
  else .next s

/-! ### Monitors (R439, R440, R467) -/

/-- A refreshed region: its readings are what they are now. -/
def Region.refreshed (r : Region) (volts rate : Nat) : Region :=
  { r with monTj := r.tj, monV := volts, monLock := r.lock, monStretch := r.stretch, monSlack := r.slack, monRate := rate }

/-- R56: an array that holds a tile and runs below the rate floor. -/
def State.slow (s : State) (a : Nat) : Bool :=
  let v := (s.region (arrRegion a)).monRate
  !(s.arr a).slots.isEmpty && decide (0 < v ∧ v < 1000)

/-- A rate-floor breach of an array: counted for the region and for the commands with a tile there (R56, R76). -/
def State.breach (s : State) (a : Nat) : State :=
  let s1 := s.modRegion (arrRegion a) (fun r => { r with breaches := satAdd 32 r.breaches 1 })
  s1.modCmds (fun l => l.map (fun c =>
      if c.tiles.any (fun t => t.array == a && t.began && !t.finished) then { c with tele := { c.tele with breaches := c.tele.breaches + 1 } } else c))

/-- MONITOR_REFRESH: `rates` are the rates of the 16 arrays in M steps/s. A breach of the rate floor is an emergency. -/
def execMonitorRefresh (rates : List Nat) (s : State) : Host.Outcome State Fault Refusal :=
  if s.ticking = false then .next s
  else
    let volt (r : Nat) : Nat := (tget { cur := 0, target := 0 } s.power.rails (regionDie r)).cur
    let rate (r : Nat) : Nat := match regionArray r with | some a => rates.getD a 0 | none => 0
    let s1 := s.modTime (fun t => { t with regions := (List.range 42).map (fun r => (r, (tget Region.reset t.regions r).refreshed (volt r) (rate r))) })
    let slow := (List.range 16).filter (fun a => s1.slow a)
    let s2 := slow.foldl (fun s a => s.breach a) s1
    .next (match slow with
      | [] => s2
      | a :: _ => (s2.modPower (fun p => { p with emergency := true })).relevel (arrRegion a))

/-- Outside the temperature thresholds of a controller. -/
def Ctl.outOfTemp (c : Ctl) (k : Nat) : Bool := decide (c.feat 0x04 < k ∨ k < c.feat (0x04 + 256 * 0x10))

/-- POWER_MONITOR_REFRESH: `draws` are those of R440 in mW. The composite temperature posts the SMART temperature event as it
crosses a threshold (assumption log 11), and the operating point follows the draw (R408). -/
def execPowerMonitorRefresh (draws : List Nat) (s : State) : Host.Outcome State Fault Refusal :=
  if s.live then
    let old := s.power.monComposite
    let new := s.composite
    let s1 := s.modPower (fun p => { p with
      draws := (List.range 8).map (fun k => (k, draws.getD k 0 % 2 ^ 24)), monTn := p.tn, monComposite := new })
    let s2 := s1.nvme.ctls.foldl (fun s c =>
      if c.2.enabled && bit (c.2.feat 0x0B) 1 && c.2.outOfTemp new && !c.2.outOfTemp old then s.asyncEvent c.1 (eventDw 1 1 0x02) else s) s1
    .next s2.regulate
  else .next s

end Sys2Proof.Machine
end

