-- ==== Sys2Proof/Machine/Peer.lean ====
section
/-! DEFINITION. The commands of the peer links and of the shard group (chapter 12, R475, R476). -/

namespace Sys2Proof.Machine

/-! ### Ports (R283-R285, R294, R475, R476) -/

/-- The peer logic runs: the drive runs and a valid configuration is in force (R283, Table 2-3). -/
def State.peerLive (s : State) : Bool := s.live && s.peer.valid

/-- A PEER_GROUP record of a port: its detail holds the partner's member and the group state that it last showed. -/
def State.logPort (s : State) (port partner : Nat) : State :=
  s.logErr { cls := 0x32, kind := 2, addr := port, detail := partner + (tget Hb.reset s.peer.hb partner).gstate * 2 ^ 8 }

/-- A cabled port whose partner's lanes are live begins to train. -/
def State.train (s : State) (port : Nat) : State :=
  if s.peerLive ∧ (s.port port).present ∧ (s.port port).partnerLive ∧ (s.port port).state = 0 then s.modPort port (fun p => { p with state := 1 }) else s

/-- PEER_PRES_CHANGE (R475): a port without a partner is at electrical idle. -/
def execPeerPresChange (port : Nat) (low : Bool) (s : State) : Host.Outcome State Fault Refusal :=
  if port < 4 then
    .next (if low then (s.modPort port (fun p => { p with present := true })).train port
      else s.modPort port (fun p => { p.idle with present := false, partnerLive := false }))
  else .next s

/-- PEER_LANES_LEAVE_ELECTRICAL_IDLE (R475). -/
def execPeerLanesLeaveElectricalIdle (port : Nat) (s : State) : Host.Outcome State Fault Refusal :=
  .next (if port < 4 ∧ (s.port port).present then (s.modPort port (fun p => { p with partnerLive := true })).train port else s)

/-- The body of this drive's HELLO on a port (R285). -/
def State.helloBody (s : State) (port : Nat) : List Byte :=
  flitBody 0x01 0 1 true s.peer.gid.toNat s.peer.member (s.peer.member ^^^ (portMasks s.peer.size).getD port 0) 0 0
    (le 4 s.peer.gid.toNat ++ le 1 s.peer.size ++ le 1 s.peer.member ++ le 1 port ++ zeros 1 ++ le 4 s.peer.incarnation ++ le 4 s.fwVersion)

/-- PORT_TRAINED: `lanes` is the set of lanes that trained. Each other lane that is not retired is tested (R294); a port
without a lane is down. After a retraining the retransmission buffer is still there. -/
def execPortTrained (port lanes : Nat) (s : State) : Host.Outcome State Fault Refusal :=
  if port < 4 ∧ s.peerLive = true ∧ (s.port port).present = true ∧ (s.port port).state = 1 then
    let alive := (List.range 4).filter (fun j => !s.peer.retiredLanes.contains (4 * port + j))
    let good := alive.filter (fun j => bit lanes j)
    let failed := alive.filter (fun j => !bit lanes j)
    let s1 := failed.foldl (fun s j => s.logTest { cls := 0x31, kind := 2, addr := 4 * port + j } 9 (4 * port + j)) s
    let mask := good.foldl (fun n j => n + 2 ^ j) 0
    if good.isEmpty then .next (s1.modPort port (fun p => p.idle))
    else
      let s2 := s1.modPort port (fun p =>
        if p.retraining then { p with retraining := false, lanes := mask }
        else { p.idle with state := 1, lanes := mask })
      .next (s2.modPeer (fun x => x.enqueue port 0 [s.helloBody port]))
  else .next s

/-- HELLO (R285): the port is UP, or MISWIRED and carries no traffic. -/
def execHello (port gid size member pport incarnation fw : Nat) (s : State) : Host.Outcome State Fault Refusal :=
  let _ := incarnation
  let _ := fw
  if port < 4 ∧ s.peerLive = true ∧ (s.port port).state ≠ 0 ∧ (s.port port).retraining = false then
    if gid = s.peer.gid.toNat ∧ size = s.peer.size ∧ member = s.peer.member ^^^ (portMasks s.peer.size).getD port 0 ∧ pport = port then
      .next ((s.modPort port (fun p => { p with state := 2 })).modPeer (fun x => x.flush port))
    else .next ((s.modPort port (fun p => { p with state := 3, queue := [], txBuf := [] })).logPort port member)
  else .next s

/-- A port begins to retrain; its partner sees a low pulse when this drive started it (R294, R476). -/
def Port.retrain (p : Port) (pulse : Bool) : Port :=
  { p with
    state := 1
    retraining := true
    pulses := p.pulses + b2n pulse
    txBuf := p.txBuf.map (fun f => { f with replays := 0 }) }

/-- PEER_ALERT_PULSE (R476). -/
def execPeerAlertPulse (port : Nat) (s : State) : Host.Outcome State Fault Refusal :=
  .next (if port < 4 ∧ s.peerLive = true ∧ (s.port port).state = 2 ∧ (s.port port).alertIgnored = false then
    s.modPort port (fun p => p.retrain false) else s)

/-- PEER_ALERT_STUCK (R476). -/
def execPeerAlertStuck (port : Nat) (s : State) : Host.Outcome State Fault Refusal :=
  .next (if port < 4 ∧ s.live = true ∧ (s.port port).alertIgnored = false then
    (s.modPort port (fun p => { p with alertIgnored := true })).logPort port (s.peer.member ^^^ (portMasks s.peer.size).getD port 0) else s)

/-- PEER_ALERT_RETURNS_HIGH (R476). -/
def execPeerAlertReturnsHigh (port : Nat) (s : State) : Host.Outcome State Fault Refusal :=
  .next (if port < 4 then s.modPort port (fun p => { p with alertIgnored := false }) else s)

/-- PORT_RETRAIN (R294): one flit was replayed 16 times within 100 µs. -/
def execPortRetrain (port : Nat) (s : State) : Host.Outcome State Fault Refusal :=
  .next (if port < 4 ∧ s.peerLive = true ∧ (s.port port).state = 2 ∧ ((s.port port).txBuf.any (fun f => decide (16 ≤ f.replays))) = true then
    s.modPort port (fun p => p.retrain true) else s)

/-! ### Flits (R287, R290-R295) -/

/-- IDLE (R293): a flit that carries the acknowledge and the credits. -/
def execIdle (port : Nat) (s : State) : Host.Outcome State Fault Refusal :=
  .next (if port < 4 ∧ s.peerLive = true ∧ (s.port port).state = 2 then
    s.modPeer (fun x => x.enqueue port 0 [flitBody 0x00 0 1 true x.gid.toNat x.member (x.member ^^^ (portMasks x.size).getD port 0) 0 0 []])
  else s)

/-- Is sequence number a at or before b, in the window of 512 flits? -/
def seqLe (a b : Nat) : Bool := decide ((b + 65536 - a) % 65536 < 32768)

/-- What the link fields of an intact flit do: the acknowledged flits leave the buffer, the returned credits are taken. -/
def Port.take (p : Port) (bs : List Byte) : Port :=
  let ack := leNat (slice bs 4 2)
  let ch := leNat (slice bs 6 1) % 4
  { p with
    acked := ack
    txBuf := p.txBuf.filter (fun f => !seqLe f.seq ack)
    credits := tmod 0 p.credits ch (fun k => k + leNat (slice bs 7 1)) }

/-- The receiver asks for the expected flit again, once. -/
def State.sendNak (s : State) (port : Nat) : State :=
  if (s.port port).nakSent then s
  else (s.modPort port (fun p => { p with nakSent := true })).modPeer (fun x => x.enqueue port 0
    [flitBody 0x03 0 1 true x.gid.toNat x.member (x.member ^^^ (portMasks x.size).getD port 0) 0 0 (le 2 (tget Port.reset x.ports port).rxNext)])

/-- R290: a flit for another member goes on, one hop and one channel further. -/
def State.relay (s : State) (bs : List Byte) : State :=
  let hop := leNat (slice bs 1 1) / 4 % 4 + 1
  let rest := leNat (slice bs 1 1) / 16 % 2
  match s.peer.route (leNat (slice bs 0x0D 1)) with
  | some q =>
    if hop ≤ 3 then s.modPeer (fun x => x.enqueue q hop [bs.take 1 ++ le 1 (hop + 4 * hop + 16 * rest) ++ (bs.take 0xF8).drop 2]) else s
  | none => s

/-- R287: a data flit of another epoch is discarded and counted. -/
def State.isStale (s : State) (opId : Nat) : Bool := opId / 2 ^ 24 != s.peer.epoch

/-- Count stale flits. -/
def State.countStale (s : State) (n : Nat) : State := s.modPeer (fun x => { x with stale := satAdd 32 x.stale n })

/-- FLIT_RECEIVE (R293): a flit with a bad CRC or out of sequence is discarded with a NAK. One for this member is a part of
the message that its own row delivers. -/
def execFlitReceive (port : Nat) (bytes : List Byte) (s : State) : Host.Outcome State Fault Refusal :=
  if port < 4 ∧ s.peerLive = true ∧ (s.port port).state = 2 ∧ bytes.length = 256 then
    if leNat (slice bytes 0xF8 8) ≠ crcFlit (bytes.take 0xF8) then .next (s.sendNak port)
    else
      let ch := leNat (slice bytes 1 1) % 4
      let s1 := (s.modPort port (fun p => p.take bytes)).modPeer (fun x => x.flush port)
      if ch = 0 then .next (s1.modPort port (fun p => { p with owed := tmod 0 p.owed 0 (fun k => k + 1) }))
      else if leNat (slice bytes 2 2) ≠ (s.port port).rxNext then .next (s1.sendNak port)
      else
        let s2 := s1.modPort port (fun p => { p with
          rxNext := (p.rxNext + 1) % 65536, nakSent := false, owed := tmod 0 p.owed ch (fun k => k + 1) })
        if s.isStale (leNat (slice bytes 0x10 4)) then .next (s2.countStale 1)
        else if leNat (slice bytes 0x0D 1) = s.peer.member then .next s2
        else .next (s2.relay bytes)
  else .next s

/-- A flit replayed at a time: its replays within 100 µs are counted. -/
def TxFlit.again (f : TxFlit) (now : Nat) : TxFlit :=
  if f.replays = 0 ∨ f.firstReplay + 100000 < now then { f with replays := 1, firstReplay := now } else { f with replays := f.replays + 1 }

/-- NAK (R293): what came before the expected flit is acknowledged, and the rest is replayed without credits. -/
def execNak (port expected : Nat) (s : State) : Host.Outcome State Fault Refusal :=
  if port < 4 ∧ s.peerLive = true ∧ (s.port port).state = 2 then
    let p := s.port port
    let fs := (p.txBuf.filter (fun f => seqLe expected f.seq)).map (fun f => f.again s.time.now)
    let ack := (p.rxNext + 65535) % 65536
    .next ((s.modPort port (fun p => { p with txBuf := fs })).modPeer (fun x => { x with
      replays := satAdd 32 x.replays fs.length
      wire := x.wire ++ fs.map (fun f => (port, sealFlit f.seq ack 0 0 f.bytes)) }))
  else .next s

/-! ### Heartbeats and the group (R286, R287, R296, R297) -/

/-- HEARTBEAT_SEND (R296, Table 12-5). -/
def execHeartbeatSend (s : State) : Host.Outcome State Fault Refusal :=
  if s.peerLive then
    let pl := le 4 s.peer.incarnation ++ le 1 s.peer.group ++ le 1 (s.peer.lost.foldl (fun n j => n + 2 ^ j) 0) ++ le 1 s.peer.epoch ++ le 8 s.time.now
    .next (s.peer.others.foldl (fun s j => s.sendMsg { dst := j, kind := 0x02, opId := 0, offset := 0, payload := pl, sentAt := s.time.now }) s)
  else .next s

/-- The group enters DEGRADED: every group operation completes with PEER_LOST (R297). -/
def State.degrade (s : State) : State := (s.modPeer (fun x => { x with group := 3, goodWindows := 0 })).endAllOps stPeerLost

/-- What is known of a member. -/
def PeerSt.known (x : PeerSt) (j : Nat) : Hb := tget Hb.reset x.hb j

/-- R287: a member in FORMING adopts the epoch of the lowest-numbered member in FORMING or READY. -/
def PeerSt.adopt (x : PeerSt) : PeerSt :=
  let js := (List.range x.size).filter (fun j => j == x.member || ((x.known j).gstate == 1 || (x.known j).gstate == 2))
  match js with
  | j :: _ => if j = x.member then x else { x with epoch := (x.known j).epoch }
  | [] => x

/-- Table 12-3: heartbeats of every member are current and carry this member's epoch. -/
def PeerSt.agreed (x : PeerSt) : Bool :=
  x.others.all (fun j => ((x.known j).seen || decide (0 < (x.known j).goodRun)) && (x.known j).epoch == x.epoch)

/-- A FORMING group takes its epoch and becomes READY; the group operations that waited go on. -/
def State.form (s : State) : State :=
  if s.peer.group = 1 then
    let s1 := s.modPeer PeerSt.adopt
    if s1.peer.agreed then ((s1.modPeer (fun x => { x with group := 2 })).settle).recheck else s1
  else s

/-- HEARTBEAT: an intact heartbeat of a member arrives. -/
def execHeartbeat (src incarnation gstate lost epoch time : Nat) (s : State) : Host.Outcome State Fault Refusal :=
  let _ := time
  if s.peerLive = true ∧ src < s.peer.size ∧ src ≠ s.peer.member then
    let s1 := s.modPeer (fun x => { x with hb := tset x.hb src { x.known src with
      seen := true, incarnation := incarnation, gstate := gstate, lost := lost, epoch := epoch } })
    .next (if lost ≠ 0 ∧ s.peer.group ≠ 3 then s1.degrade else s1.form)
  else .next s

/-- R286, R296: what the end of a window changes of a member. -/
def Hb.window (h : Hb) : Hb :=
  if h.seen then { h with seen := false, missed := 0, goodRun := h.goodRun + 1 } else { h with missed := h.missed + 1, goodRun := 0 }

/-- HEARTBEAT_WINDOW_END. -/
def execHeartbeatWindowEnd (s : State) : Host.Outcome State Fault Refusal :=
  if s.peerLive then
    let good := s.peer.others.all (fun j => (s.peer.known j).seen && (s.peer.known j).lost == 0)
    .next (s.modPeer (fun x =>
      let hb := x.others.foldl (fun t j => tset t j (x.known j).window) x.hb
      { x with
        hb := hb
        lost := x.lost.filter (fun j => decide ((tget Hb.reset hb j).goodRun < 4))
        goodWindows := if good then x.goodWindows + 1 else 0 }))
  else .next s

/-- MEMBER_LOST (R296, R297): 12 consecutive missed beats. -/
def execMemberLost (member : Nat) (s : State) : Host.Outcome State Fault Refusal :=
  if s.peerLive = true ∧ member < s.peer.size ∧ member ≠ s.peer.member ∧ 12 ≤ (s.peer.known member).missed ∧ s.peer.lost.contains member = false then
    .next (s.modPeer (fun x => { x with lost := x.lost ++ [member] })).degrade
  else .next s

/-- GROUP_REFORM (R286, R287). -/
def execGroupReform (s : State) : Host.Outcome State Fault Refusal :=
  .next (if s.peerLive = true ∧ s.peer.group = 3 ∧ 4 ≤ s.peer.goodWindows then
    (s.modPeer (fun x => { x with group := 1, epoch := (x.epoch + 1) % 256, formingSince := s.time.now, earlyPosts := [] })).form else s)

/-- FORMING_TIMEOUT (R286): an error is logged; the group does not leave FORMING. -/
def execFormingTimeout (s : State) : Host.Outcome State Fault Refusal :=
  .next (if s.peerLive = true ∧ s.peer.group = 1 ∧ s.peer.formingSince + 1000000000 ≤ s.time.now then s.logPort 0 s.peer.member else s)

/-! ### Messages of group operations (R292, R298-R303) -/

/-- This member's part of the operation of an ID. -/
def State.opFor (s : State) (opId : Nat) : Option GroupOp := s.peer.ops.find? (fun o => s.peer.opId o.seq == opId)

/-- Change one part. -/
def State.modOp (s : State) (uid : Nat) (f : GroupOp → GroupOp) : State :=
  s.modPeer (fun x => { x with ops := x.ops.map (fun o => if o.uid = uid then f o else o) })

/-- A part ends for its own cause: ABORT with its status goes to every member (R298). -/
def State.failOp (s : State) (uid st : Nat) : State :=
  match s.cmd? uid with
  | none => s
  | some c => (s.conclude uid st c.excRecs c.dw1).settle.recheck

/-- R292: a message whose digest does not match is refused once, and ends the operation the second time. -/
def State.mismatch (s : State) (o : GroupOp) (src opId offset kind len : Nat) : State :=
  if o.mismatched.contains (src, offset) then s.failOp o.uid stCheckFailed
  else
    (s.modOp o.uid (fun o => { o with mismatched := o.mismatched ++ [(src, offset)] })).sendMsg
      { dst := src, kind := msgNakType, opId := opId, offset := offset, payload := le 1 kind ++ le 2 (len / 16), sentAt := s.time.now }

/-- A message of an operation: stale ones are counted, ones of no part here are dropped, broken ones refused; others notify
the part and go on. -/
def State.onMsg (s : State) (src opId offset kind : Nat) (payload : List Byte) (dig mode : Nat) (f : State → GroupOp → State) : State :=
  if s.peerLive = false ∨ s.peer.others.contains src = false then s
  else if s.isStale opId then s.countStale (flitCount kind payload.length)
  else match s.opFor opId with
  | none => s
  | some o =>
    if o.mode ≠ mode then s
    else if digest payload ≠ dig then s.mismatch o src opId offset kind payload.length
    else f (s.modOp o.uid (fun o => { o with lastMsg := s.time.now })) o

/-- POST (R299). One that comes before this member's part is remembered. -/
def execPost (src opId : Nat) (s : State) : Host.Outcome State Fault Refusal :=
  if s.peerLive = false ∨ s.peer.others.contains src = false then .next s
  else if s.isStale opId then .next (s.countStale 1)
  else match s.opFor opId with
  | none => .next (s.modPeer (fun x => { x with earlyPosts := if x.earlyPosts.contains (src, opId) then x.earlyPosts else x.earlyPosts ++ [(src, opId)] }))
  | some o =>
    if o.posted.contains src then .next s
    else
      let s1 := s.modOp o.uid (fun o => { o with posted := o.posted ++ [src], lastMsg := s.time.now })
      match s1.cmd? o.uid with
      | none => .next s1
      | some c => .next (s1.sendShare c o src)

/-- The gathered argument of a command in a slot, with its object. -/
def State.gatheredArg (s : State) (c : Cmd) (slot : Nat) : Option (Nat × ArgEntry) :=
  match (s.argsWith c [0, 1]).find? (fun a => a.2.1.slot == slot && a.2.1.gathered) with
  | some a => some (a.1, a.2.1)
  | none => none

/-- GATHER (R300, R301): a peer tile is written where the argument has it and marked ready, once. -/
def execGather (src opId offset : Nat) (payload : List Byte) (digest : Nat) (s : State) : Host.Outcome State Fault Refusal :=
  .next (s.onMsg src opId offset msgGather payload digest 1 (fun s o =>
    match tfind o.tiles offset with
    | some d => if d = digest then s else s.failOp o.uid stCheckFailed
    | none => match s.cmd? o.uid with
      | none => s
      | some c => match s.gatheredArg c (offset / 2 ^ 40) with
        | none => s
        | some (obj, a) =>
          let b := offset % 2 ^ 40
          let u := shardUnit a.length s.peer.size
          let hi := min ((src + 1) * u) a.length
          if src * u ≤ b ∧ b < hi then
            let s1 := s.objWrite obj (a.offset + b) (payload.take (hi - b))
            ((s1.modOp o.uid (fun o => { o with tiles := tset o.tiles offset digest })).settle).recheck
          else s))

/-- REDUCE (R303): 128 accumulators of a row are added by 128-bit integer addition. -/
def execReduce (src opId offset : Nat) (payload : List Byte) (digest : Nat) (s : State) : Host.Outcome State Fault Refusal :=
  .next (s.onMsg src opId offset msgReduce payload digest 2 (fun s o =>
    if payload.length ≠ 2048 ∨ o.rowSrcs.contains (offset, src) = true then s
    else
      let vs := (List.range 128).map (fun j => toSigned 128 (leNat (slice payload (16 * j) 16)))
      s.modOp o.uid (fun o => { o with
        rows := tmod (List.replicate 128 0) o.rows offset (fun r => (r.zip vs).map (fun p => toSigned 128 (ofSigned 128 (p.1 + p.2))))
        rowSrcs := o.rowSrcs ++ [(offset, src)] })))

/-- The lines of an ENVELOPE message (assumption log 18). -/
def envLines (pl : List Byte) : List (Nat × Int × Int × Nat) :=
  (List.range (pl.length / 16)).map (fun i =>
    let l := slice pl (16 * i) 16
    (leNat (slice l 0 4), toSigned 16 (leNat (slice l 4 2)), toSigned 16 (leNat (slice l 6 2)), leNat (slice l 8 8)))

/-- ENVELOPE (R302): lowest lo, highest hi, sum of n. A second copy of a message changes nothing. -/
def execEnvelope (src opId offset : Nat) (payload : List Byte) (digest : Nat) (s : State) : Host.Outcome State Fault Refusal :=
  .next (s.onMsg src opId offset msgEnvelope payload digest 2 (fun s o =>
    let key := src * 2 ^ 40 + offset
    if (tfind o.tiles key).isSome then s
    else
      let ls := envLines payload
      s.modOp o.uid (fun o => { o with
        tiles := tset o.tiles key digest
        envelopes := ls.foldl (fun t l => joinEnv t l.1 l.2.1 l.2.2.1 l.2.2.2) o.envelopes
        envSrcs := tmod 0 o.envSrcs src (fun k => k + ls.length) })))

/-- ABORT (R298): this member's part completes with PEER_ABORTED, and sends nothing in turn. -/
def execAbort (src opId status : Nat) (s : State) : Host.Outcome State Fault Refusal :=
  let _ := status
  if s.peerLive = false ∨ s.peer.others.contains src = false then .next s
  else if s.isStale opId then .next (s.countStale 1)
  else match s.opFor opId with
  | none => .next s
  | some o => .next ((s.modPeer (fun x => { x with ops := x.ops.filter (fun p => p.uid != o.uid) })).failOp o.uid stPeerAborted)

/-- MSG_NAK (R292): the message is sent again from its copy; without one the operation ends with CHECK_FAILED. -/
def execMsgNak (src opId offset kind len16 : Nat) (s : State) : Host.Outcome State Fault Refusal :=
  if s.peerLive = false ∨ s.peer.others.contains src = false then .next s
  else if s.isStale opId then .next (s.countStale 1)
  else match s.peer.copies.find? (fun m => m.dst == src && m.opId == opId && m.offset == offset && m.kind == kind && m.payload.length == 16 * len16) with
  | some m => .next (s.modPeer (fun x => x.transmit { m with sentAt := s.time.now }))
  | none => match s.opFor opId with
    | none => .next s
    | some o => .next (s.failOp o.uid stCheckFailed)

/-- MESSAGE_COPY_EXPIRY (R292): copies are kept for 1 ms. -/
def execMessageCopyExpiry (s : State) : Host.Outcome State Fault Refusal :=
  .next (if s.live then s.modPeer (fun x => { x with copies := x.copies.filter (fun m => decide (s.time.now < m.sentAt + 1000000)) }) else s)

/-- PEER_PROGRESS_TIMEOUT (R298). -/
def execPeerProgressTimeout (uid : Nat) (s : State) : Host.Outcome State Fault Refusal :=
  match s.opOf uid with
  | none => .next s
  | some o => .next (if s.peerLive = true ∧ o.lastMsg + o.timeout ≤ s.time.now then s.failOp uid stPeerAborted else s)

end Sys2Proof.Machine
end

