-- ==== Sys2Proof/Machine/Dispatch.lean ====
section
/-! DEFINITION. One arm per command: exec gives a command's effect on everything but the queue. -/

namespace Sys2Proof.Machine

def exec (i : Instr) (s : State) : Host.Outcome State Fault Refusal :=
  match i with
  | .powerOnReset rail12 rail33 => Sys2Proof.Machine.execPowerOnReset rail12 rail33 s
  | .auxRailValid => Sys2Proof.Machine.execAuxRailValid s
  | .powerFail => Sys2Proof.Machine.execPowerFail s
  | .powerFailRecordDone => Sys2Proof.Machine.execPowerFailRecordDone s
  | .pwrdisAssert => Sys2Proof.Machine.execPwrdisAssert s
  | .pwrdisDeassert => Sys2Proof.Machine.execPwrdisDeassert s
  | .perstAssert => Sys2Proof.Machine.execPerstAssert s
  | .perstDeassert refclk => Sys2Proof.Machine.execPerstDeassert refclk s
  | .controllerEnable fn => Sys2Proof.Machine.execControllerEnable fn s
  | .computeReady => Sys2Proof.Machine.execComputeReady s
  | .controllerReset fn => Sys2Proof.Machine.execControllerReset fn s
  | .flr fn => Sys2Proof.Machine.execFlr fn s
  | .hostLinkLoss => Sys2Proof.Machine.execHostLinkLoss s
  | .smbrst => Sys2Proof.Machine.execSmbrst s
  | .dieRecoveryStart die cause => Sys2Proof.Machine.execDieRecoveryStart die cause s
  | .housekeepingReportTimeout die => Sys2Proof.Machine.execHousekeepingReportTimeout die s
  | .kerilWatchdogExpiry => Sys2Proof.Machine.execKerilWatchdogExpiry s
  | .dieRecoveryDone die => Sys2Proof.Machine.execDieRecoveryDone die s
  | .thermalSample tj tn => Sys2Proof.Machine.execThermalSample tj tn s
  | .thermalLevelExit => Sys2Proof.Machine.execThermalLevelExit s
  | .voltageRampStep => Sys2Proof.Machine.execVoltageRampStep s
  | .holdupCheck => Sys2Proof.Machine.execHoldupCheck s
  | .holdupCheckDone dtUs => Sys2Proof.Machine.execHoldupCheckDone dtUs s
  | .pwrHoldupCheckStart value => Sys2Proof.Machine.execPwrHoldupCheckStart value s
  | .deviceTimeRecord => Sys2Proof.Machine.execDeviceTimeRecord s
  | .crystalPeriod => Sys2Proof.Machine.execCrystalPeriod s
  | .beaconSend => Sys2Proof.Machine.execBeaconSend s
  | .beaconReceive region b => Sys2Proof.Machine.execBeaconReceive region b s
  | .beaconPathMeasure region delay16 => Sys2Proof.Machine.execBeaconPathMeasure region delay16 s
  | .beaconMissLimit region => Sys2Proof.Machine.execBeaconMissLimit region s
  | .holdoverTimeout region => Sys2Proof.Machine.execHoldoverTimeout region s
  | .localTick region => Sys2Proof.Machine.execLocalTick region s
  | .oscillatorWatch region duty jitter ticks => Sys2Proof.Machine.execOscillatorWatch region duty jitter ticks s
  | .marginSample region slack => Sys2Proof.Machine.execMarginSample region slack s
  | .stretchRelease region => Sys2Proof.Machine.execStretchRelease region s
  | .lastingMarginFault region => Sys2Proof.Machine.execLastingMarginFault region s
  | .monitorRefresh rates => Sys2Proof.Machine.execMonitorRefresh rates s
  | .powerMonitorRefresh draws => Sys2Proof.Machine.execPowerMonitorRefresh draws s
  | .kciSqTail ctx queue tail entries => Sys2Proof.Machine.execKciSqTail ctx queue tail entries s
  | .kciCqHead ctx queue head => Sys2Proof.Machine.execKciCqHead ctx queue head s
  | .class0SlotWrite ctx slot off data => Sys2Proof.Machine.execClass0SlotWrite ctx slot off data s
  | .ctxEnableSet ctx => Sys2Proof.Machine.execCtxEnableSet ctx s
  | .ctxEnableClear ctx => Sys2Proof.Machine.execCtxEnableClear ctx s
  | .ctxControlReset ctx => Sys2Proof.Machine.execCtxControlReset ctx s
  | .contextResetComplete ctx => Sys2Proof.Machine.execContextResetComplete ctx s
  | .ctxPolicyWrite ctx value => Sys2Proof.Machine.execCtxPolicyWrite ctx value s
  | .registerWrite fn off size value => Sys2Proof.Machine.execRegisterWrite fn off size value s
  | .loRegisterRead fn off size => Sys2Proof.Machine.execLoRegisterRead fn off size s
  | .queueCreate e queue cls entries vector sq cq colo => Sys2Proof.Machine.execQueueCreate e queue cls entries vector sq cq colo s
  | .queueDestroy e queue => Sys2Proof.Machine.execQueueDestroy e queue s
  | .objCreate e oid pages word kind h l p d => Sys2Proof.Machine.execObjCreate e oid pages word kind h l p d s
  | .objOpen e oid rights => Sys2Proof.Machine.execObjOpen e oid rights s
  | .objShare e handle grantee rights => Sys2Proof.Machine.execObjShare e handle grantee rights s
  | .objUnshare e handle grantee => Sys2Proof.Machine.execObjUnshare e handle grantee s
  | .objRetain e handle => Sys2Proof.Machine.execObjRetain e handle s
  | .objRelease e handle destroy => Sys2Proof.Machine.execObjRelease e handle destroy s
  | .objPlace e handle word => Sys2Proof.Machine.execObjPlace e handle word s
  | .objQuery e handle buf => Sys2Proof.Machine.execObjQuery e handle buf s
  | .eventCreate e event value => Sys2Proof.Machine.execEventCreate e event value s
  | .eventDestroy e event => Sys2Proof.Machine.execEventDestroy e event s
  | .eventClear e event => Sys2Proof.Machine.execEventClear e event s
  | .programInstall e oid addr length image => Sys2Proof.Machine.execProgramInstall e oid addr length image s
  | .priority e queue cls cid => Sys2Proof.Machine.execPriority e queue cls cid s
  | .jobEnd e => Sys2Proof.Machine.execJobEnd e s
  | .copyIn e handle off host length layout data => Sys2Proof.Machine.execCopyIn e handle off host length layout data s
  | .copyOut e handle off host length layout => Sys2Proof.Machine.execCopyOut e handle off host length layout s
  | .copy e src dst soff doff length layout => Sys2Proof.Machine.execCopy e src dst soff doff length layout s
  | .nop e => Sys2Proof.Machine.execNop e s
  | .run e prog nargs mode seq block args plan => Sys2Proof.Machine.execRun e prog nargs mode seq block args plan s
  | .search e index query output nq k nprobe f rerank nterms qoff ooff filters terms => Sys2Proof.Machine.execSearch e index query output nq k nprobe f rerank nterms qoff ooff filters terms s
  | .indexSeal e handle => Sys2Proof.Machine.execIndexSeal e handle s
  | .passPick array => Sys2Proof.Machine.execPassPick array s
  | .commandAged uid => Sys2Proof.Machine.execCommandAged uid s
  | .reservationWindowBoundary => Sys2Proof.Machine.execReservationWindowBoundary s
  | .passEntry array rate => Sys2Proof.Machine.execPassEntry array rate s
  | .passEnd array errs idle => Sys2Proof.Machine.execPassEnd array errs idle s
  | .rowVerdict array pass row => Sys2Proof.Machine.execRowVerdict array pass row s
  | .columnVerdict array pass => Sys2Proof.Machine.execColumnVerdict array pass s
  | .rowDrain array uid tile row mismatch ecc => Sys2Proof.Machine.execRowDrain array uid tile row mismatch ecc s
  | .completionPost ctx queue dmaFault => Sys2Proof.Machine.execCompletionPost ctx queue dmaFault s
  | .partExclClaim part value => Sys2Proof.Machine.execPartExclClaim part value s
  | .claimComplete part => Sys2Proof.Machine.execClaimComplete part s
  | .partExclAbort part value => Sys2Proof.Machine.execPartExclAbort part value s
  | .releaseComplete part => Sys2Proof.Machine.execReleaseComplete part s
  | .partReset part value => Sys2Proof.Machine.execPartReset part value s
  | .partDramQuotaWrite part value => Sys2Proof.Machine.execPartDramQuotaWrite part value s
  | .schedResvWrite part value => Sys2Proof.Machine.execSchedResvWrite part value s
  | .ctxAssignWrite ctx value => Sys2Proof.Machine.execCtxAssignWrite ctx value s
  | .ctxAdminReset ctx value => Sys2Proof.Machine.execCtxAdminReset ctx value s
  | .memT2QuotaWrite part value => Sys2Proof.Machine.execMemT2QuotaWrite part value s
  | .mxaTestStart array value => Sys2Proof.Machine.execMxaTestStart array value s
  | .secKeyEnroll value => Sys2Proof.Machine.execSecKeyEnroll value s
  | .secKeyRevoke value => Sys2Proof.Machine.execSecKeyRevoke value s
  | .peerGroupCfgSet value => Sys2Proof.Machine.execPeerGroupCfgSet value s
  | .peerGroupCfgClear value => Sys2Proof.Machine.execPeerGroupCfgClear value s
  | .peerBindWrite value => Sys2Proof.Machine.execPeerBindWrite value s
  | .peerProgressToWrite value => Sys2Proof.Machine.execPeerProgressToWrite value s
  | .errSelHiWrite value => Sys2Proof.Machine.execErrSelHiWrite value s
  | .errIrqVecWrite value => Sys2Proof.Machine.execErrIrqVecWrite value s
  | .ledgSelHiWrite value => Sys2Proof.Machine.execLedgSelHiWrite value s
  | .ledgCtxSelWrite value => Sys2Proof.Machine.execLedgCtxSelWrite value s
  | .ledgAckWrite value => Sys2Proof.Machine.execLedgAckWrite value s
  | .ledgPeriodWrite value => Sys2Proof.Machine.execLedgPeriodWrite value s
  | .ledgerPeriodClose => Sys2Proof.Machine.execLedgerPeriodClose s
  | .errorLogFlush => Sys2Proof.Machine.execErrorLogFlush s
  | .targetedSelfTest kind index => Sys2Proof.Machine.execTargetedSelfTest kind index s
  | .selfTestVerdict kind index reproduced axis => Sys2Proof.Machine.execSelfTestVerdict kind index reproduced axis s
  | .migrationStart obj page tier => Sys2Proof.Machine.execMigrationStart obj page tier s
  | .migrationSwitch obj page => Sys2Proof.Machine.execMigrationSwitch obj page s
  | .speculativeReadIssue uid obj page => Sys2Proof.Machine.execSpeculativeReadIssue uid obj page s
  | .speculativeScanLaunch uid query list => Sys2Proof.Machine.execSpeculativeScanLaunch uid query list s
  | .distanceTableSend uid query => Sys2Proof.Machine.execDistanceTableSend uid query s
  | .selectionFinal uid query => Sys2Proof.Machine.execSelectionFinal uid query s
  | .codewordEvaluate uid query launch block mismatch => Sys2Proof.Machine.execCodewordEvaluate uid query launch block mismatch s
  | .mergerCandidate uid query which => Sys2Proof.Machine.execMergerCandidate uid query which s
  | .scanEnd uid query launch => Sys2Proof.Machine.execScanEnd uid query launch s
  | .rerank uid query => Sys2Proof.Machine.execRerank uid query s
  | .nandOpStart die due => Sys2Proof.Machine.execNandOpStart die due s
  | .nandReadDone die cws => Sys2Proof.Machine.execNandReadDone die cws s
  | .recoveryLadderStep die cw ok => Sys2Proof.Machine.execRecoveryLadderStep die cw ok s
  | .readAroundErase die block page cw bad => Sys2Proof.Machine.execReadAroundErase die block page cw bad s
  | .nandProgramDone die ok => Sys2Proof.Machine.execNandProgramDone die ok s
  | .nandEraseDone die ok => Sys2Proof.Machine.execNandEraseDone die ok s
  | .nandReset => Sys2Proof.Machine.execNandReset s
  | .patrolRead die block page cws last => Sys2Proof.Machine.execPatrolRead die block page cws last s
  | .blockRefresh die block => Sys2Proof.Machine.execBlockRefresh die block s
  | .readOffsetCalibration die block temp => Sys2Proof.Machine.execReadOffsetCalibration die block temp s
  | .garbageCollection group free reclaimable victim => Sys2Proof.Machine.execGarbageCollection group free reclaimable victim s
  | .wearLeveling group block => Sys2Proof.Machine.execWearLeveling group block s
  | .writeAdmit => Sys2Proof.Machine.execWriteAdmit s
  | .storeOpStart due => Sys2Proof.Machine.execStoreOpStart due s
  | .storeEraseDone blank => Sys2Proof.Machine.execStoreEraseDone blank s
  | .controlSectorSwitch => Sys2Proof.Machine.execControlSectorSwitch s
  | .gapAdvance => Sys2Proof.Machine.execGapAdvance s
  | .programLoad obj reads => Sys2Proof.Machine.execProgramLoad obj reads s
  | .portTrained port lanes => Sys2Proof.Machine.execPortTrained port lanes s
  | .peerPresChange port low => Sys2Proof.Machine.execPeerPresChange port low s
  | .peerAlertPulse port => Sys2Proof.Machine.execPeerAlertPulse port s
  | .peerAlertStuck port => Sys2Proof.Machine.execPeerAlertStuck port s
  | .hello port gid size member pport incarnation fw => Sys2Proof.Machine.execHello port gid size member pport incarnation fw s
  | .heartbeatSend => Sys2Proof.Machine.execHeartbeatSend s
  | .heartbeat src incarnation gstate lost epoch time => Sys2Proof.Machine.execHeartbeat src incarnation gstate lost epoch time s
  | .heartbeatWindowEnd => Sys2Proof.Machine.execHeartbeatWindowEnd s
  | .memberLost member => Sys2Proof.Machine.execMemberLost member s
  | .groupReform => Sys2Proof.Machine.execGroupReform s
  | .formingTimeout => Sys2Proof.Machine.execFormingTimeout s
  | .idle port => Sys2Proof.Machine.execIdle port s
  | .flitReceive port bytes => Sys2Proof.Machine.execFlitReceive port bytes s
  | .nak port expected => Sys2Proof.Machine.execNak port expected s
  | .portRetrain port => Sys2Proof.Machine.execPortRetrain port s
  | .post src opId => Sys2Proof.Machine.execPost src opId s
  | .gather src opId offset payload digest => Sys2Proof.Machine.execGather src opId offset payload digest s
  | .reduce src opId offset payload digest => Sys2Proof.Machine.execReduce src opId offset payload digest s
  | .envelope src opId offset payload digest => Sys2Proof.Machine.execEnvelope src opId offset payload digest s
  | .abort src opId status => Sys2Proof.Machine.execAbort src opId status s
  | .msgNak src opId offset kind len16 => Sys2Proof.Machine.execMsgNak src opId offset kind len16 s
  | .messageCopyExpiry => Sys2Proof.Machine.execMessageCopyExpiry s
  | .peerProgressTimeout uid => Sys2Proof.Machine.execPeerProgressTimeout uid s
  | .nvmeSqDoorbell fn sqid tail cmds => Sys2Proof.Machine.execNvmeSqDoorbell fn sqid tail cmds s
  | .lowPowerWake => Sys2Proof.Machine.execLowPowerWake s
  | .createIoSubmissionQueue h qid qsize cqid => Sys2Proof.Machine.execCreateIoSubmissionQueue h qid qsize cqid s
  | .createIoCompletionQueue h qid qsize iv ien => Sys2Proof.Machine.execCreateIoCompletionQueue h qid qsize iv ien s
  | .deleteIoSubmissionQueue h qid => Sys2Proof.Machine.execDeleteIoSubmissionQueue h qid s
  | .deleteIoCompletionQueue h qid => Sys2Proof.Machine.execDeleteIoCompletionQueue h qid s
  | .identify h cns dst => Sys2Proof.Machine.execIdentify h cns dst s
  | .nvmeAbort h sqid cid => Sys2Proof.Machine.execNvmeAbort h sqid cid s
  | .getFeatures h fid cdw11 dst => Sys2Proof.Machine.execGetFeatures h fid cdw11 dst s
  | .setArbitration h value => Sys2Proof.Machine.execSetArbitration h value s
  | .setPowerManagement h value => Sys2Proof.Machine.execSetPowerManagement h value s
  | .lowPowerEntry => Sys2Proof.Machine.execLowPowerEntry s
  | .setTemperatureThreshold h value => Sys2Proof.Machine.execSetTemperatureThreshold h value s
  | .setVolatileWriteCache h value => Sys2Proof.Machine.execSetVolatileWriteCache h value s
  | .setNumberOfQueues h value => Sys2Proof.Machine.execSetNumberOfQueues h value s
  | .setInterruptCoalescing h value => Sys2Proof.Machine.execSetInterruptCoalescing h value s
  | .setInterruptVectorConfiguration h value => Sys2Proof.Machine.execSetInterruptVectorConfiguration h value s
  | .setWriteAtomicityNormal h value => Sys2Proof.Machine.execSetWriteAtomicityNormal h value s
  | .setAsyncEventConfiguration h value => Sys2Proof.Machine.execSetAsyncEventConfiguration h value s
  | .setApst h enable table => Sys2Proof.Machine.execSetApst h enable table s
  | .apstIdleExpiry => Sys2Proof.Machine.execApstIdleExpiry s
  | .setTimestamp h ms => Sys2Proof.Machine.execSetTimestamp h ms s
  | .lacunaRelease h seq => Sys2Proof.Machine.execLacunaRelease h seq s
  | .asyncEventRequest h => Sys2Proof.Machine.execAsyncEventRequest h s
  | .getLogErrorInformation h dst len => Sys2Proof.Machine.execGetLogErrorInformation h dst len s
  | .getLogSmartHealth h dst len => Sys2Proof.Machine.execGetLogSmartHealth h dst len s
  | .getLogFirmwareSlot h dst len => Sys2Proof.Machine.execGetLogFirmwareSlot h dst len s
  | .getLogChangedNamespace h dst len => Sys2Proof.Machine.execGetLogChangedNamespace h dst len s
  | .getLogCommandsSupported h dst len => Sys2Proof.Machine.execGetLogCommandsSupported h dst len s
  | .getLogSanitizeStatus h dst len => Sys2Proof.Machine.execGetLogSanitizeStatus h dst len s
  | .getLogLacuna h lsf dst off len => Sys2Proof.Machine.execGetLogLacuna h lsf dst off len s
  | .getLogColophonStatistics h dst off len => Sys2Proof.Machine.execGetLogColophonStatistics h dst off len s
  | .getLogAbortList h lsf dst len => Sys2Proof.Machine.execGetLogAbortList h lsf dst len s
  | .namespaceManagementCreate h nsze flbas pi => Sys2Proof.Machine.execNamespaceManagementCreate h nsze flbas pi s
  | .namespaceManagementDelete h => Sys2Proof.Machine.execNamespaceManagementDelete h s
  | .namespaceAttachment h attach ctrls => Sys2Proof.Machine.execNamespaceAttachment h attach ctrls s
  | .firmwareImageDownload h off data => Sys2Proof.Machine.execFirmwareImageDownload h off data s
  | .firmwareCommit h action slot img => Sys2Proof.Machine.execFirmwareCommit h action slot img s
  | .formatNvm h lbaf pi ses ext => Sys2Proof.Machine.execFormatNvm h lbaf pi ses ext s
  | .securitySend h cmd => Sys2Proof.Machine.execSecuritySend h cmd s
  | .securityReceive h dst => Sys2Proof.Machine.execSecurityReceive h dst s
  | .sanitizeBlockErase h => Sys2Proof.Machine.execSanitizeBlockErase h s
  | .sanitizeCryptoErase h => Sys2Proof.Machine.execSanitizeCryptoErase h s
  | .sanitizeDone => Sys2Proof.Machine.execSanitizeDone s
  | .flush h => Sys2Proof.Machine.execFlush h s
  | .write h slba nlb fua pract prchk pi data => Sys2Proof.Machine.execWrite h slba nlb fua pract prchk pi data s
  | .read h slba nlb pract prchk pi dst mdst => Sys2Proof.Machine.execRead h slba nlb pract prchk pi dst mdst s
  | .compare h slba nlb data => Sys2Proof.Machine.execCompare h slba nlb data s
  | .writeZeroes h slba nlb fua => Sys2Proof.Machine.execWriteZeroes h slba nlb fua s
  | .datasetManagementDeallocate h ranges => Sys2Proof.Machine.execDatasetManagementDeallocate h ranges s
  | .verify h slba nlb prchk pi => Sys2Proof.Machine.execVerify h slba nlb prchk pi s
  | .cacheCommitStart die block wl items => Sys2Proof.Machine.execCacheCommitStart die block wl items s
  | .shutdownNotification fn abrupt => Sys2Proof.Machine.execShutdownNotification fn abrupt s
  | .miReadDataStructure kind => Sys2Proof.Machine.execMiReadDataStructure kind s
  | .miSubsystemHealthPoll => Sys2Proof.Machine.execMiSubsystemHealthPoll s
  | .miControllerHealthPoll ctrl => Sys2Proof.Machine.execMiControllerHealthPoll ctrl s
  | .miConfigurationGet cfg => Sys2Proof.Machine.execMiConfigurationGet cfg s
  | .miConfigurationSet cfg value => Sys2Proof.Machine.execMiConfigurationSet cfg value s
  | .miVpdRead off len => Sys2Proof.Machine.execMiVpdRead off len s
  | .miTunneledIdentify cns => Sys2Proof.Machine.execMiTunneledIdentify cns s
  | .miTunneledGetLogPage lid => Sys2Proof.Machine.execMiTunneledGetLogPage lid s
  | .miErrorLogRead seq count => Sys2Proof.Machine.execMiErrorLogRead seq count s
  | .hostLinkReturn => Sys2Proof.Machine.execHostLinkReturn s
  | .dieRecoveryOverrun die => Sys2Proof.Machine.execDieRecoveryOverrun die s
  | .auxiliaryRailLoss => Sys2Proof.Machine.execAuxiliaryRailLoss s
  | .holdUpEnergyExhausted written => Sys2Proof.Machine.execHoldUpEnergyExhausted written s
  | .peerAlertReturnsHigh port => Sys2Proof.Machine.execPeerAlertReturnsHigh port s
  | .peerLanesLeaveElectricalIdle port => Sys2Proof.Machine.execPeerLanesLeaveElectricalIdle port s
  | .storePageProgramDone => Sys2Proof.Machine.execStorePageProgramDone s
  | .patrolScrub stack bank => Sys2Proof.Machine.execPatrolScrub stack bank s
  | .ledToggle => Sys2Proof.Machine.execLedToggle s

end Sys2Proof.Machine
end

