-- ==== Sys2Proof/Machine/Pins.lean ====
section
/-! DEFINITION. What the drive presents on its pins and to its three partners, read off its state: Tables 2-3, 19-1 and 19-7
(R45, R46, R471, R475, R476, R485). No command writes a pin level; each level follows from the state after the command. -/

namespace Sys2Proof.Machine

/-- Levels of the PCIe lanes and of the peer lanes. -/
inductive Lanes where
  | highZ | idle | live
  deriving DecidableEq, Repr

/-- An open-drain output. -/
inductive Drain where
  | low | released
  deriving DecidableEq, Repr

/-- How the SMBus endpoint answers at 0x1D (R45, R470). -/
inductive Smbus where
  | highZ | noAck | notReady | inReset | acks
  deriving DecidableEq, Repr

/-- The rows of Table 19-7 that the drive itself can present. -/
inductive PinRow where
  | noRails | auxOnly | powerOnReset | pwrdisRecord | pwrdis | perst | recoveryC | operating
  deriving DecidableEq, Repr

/-- R485: the row in force; a state not listed is an operating drive. From the assertion of PWRDIS to the end of its record
the row of power-on reset holds, except for the SMBus. -/
def State.pinRow (s : State) : PinRow :=
  match s.power.mode with
  | .noRails => .noRails
  | .auxOnly => .auxOnly
  | .powerOnReset => .powerOnReset
  | .perst => .perst
  | .failing => if s.power.byPwrdis then .pwrdisRecord else .operating
  | .pwrdis => .pwrdis
  | .running => if s.power.recovering.contains 2 then .recoveryC else .operating

/-- The host link of an operating drive is at its lanes' own level; R47 leaves a lost link's lanes idle. -/
def State.pcieLanes (s : State) : Lanes :=
  match s.pinRow with
  | .noRails => .highZ
  | .auxOnly => .highZ
  | .pwrdis => .highZ
  | .powerOnReset => .idle
  | .pwrdisRecord => .idle
  | .perst => .idle
  | .recoveryC => .idle
  | .operating => if s.power.linkUp then .live else .idle

/-- PRSNT# and PEER_PRES_GND are straps: low in every state of a fitted drive (R468, R475). -/
def State.prsnt (_ : State) : Drain := .low
def State.peerPresGnd (_ : State) : Drain := .low

/-- R468 CLKREQ#: held low while the 12 V rail is valid; Table 19-7 keeps it low until the record of R469 is complete. -/
def State.clkreq (s : State) : Drain :=
  match s.pinRow with
  | .noRails => .released
  | .auxOnly => .released
  | .pwrdis => .released
  | .powerOnReset => .low
  | .pwrdisRecord => .low
  | .perst => .low
  | .recoveryC => .low
  | .operating => if s.power.rail12 then .low else .released

/-- The SMBus column of Table 19-7 with the reports of Table 2-3. -/
def State.smbus (s : State) : Smbus :=
  match s.pinRow with
  | .noRails => .highZ
  | .auxOnly => .notReady
  | .pwrdis => .notReady
  | .pwrdisRecord => .notReady
  | .powerOnReset => if s.power.miReady then .notReady else .noAck
  | .perst => .inReset
  | .recoveryC => .noAck
  | .operating => .acks

/-- R475: a port's lanes leave electrical idle only while it is cabled to a present partner and trains or is trained. -/
def State.portLanes (s : State) (p : Nat) : Lanes :=
  let q := tget Port.reset s.peer.ports p
  match s.pinRow with
  | .noRails => .highZ
  | .pwrdis => .highZ
  | .auxOnly => .idle
  | .powerOnReset => .idle
  | .pwrdisRecord => .idle
  | .perst => .idle
  | .recoveryC => .idle
  | .operating => if q.present ∧ q.state ≠ 0 then .live else .idle

/-- R471: low while a command is outstanding; in the failed state of R421 it shows the level of the 4 Hz toggle. -/
def State.led (s : State) : Drain :=
  if s.pinRow ≠ .operating then .released
  else if s.power.failed then (if s.power.ledToggle then .low else .released)
  else if !s.cmds.isEmpty || !s.nvme.outstanding.isEmpty then .low
  else .released

end Sys2Proof.Machine
end

