-- ==== Sys2Proof/Safety.lean ====
section
/-! DEFINITION. The terms in which claims are stated: which components of the state a command may change, the invariant that
every step keeps, and a safe run. -/

namespace Sys2Proof.Machine

/-! ### Frames -/

/-- The components of the state, by the name of their field. -/
inductive Comp where
  | variant | power | time | ctxs | cmds | objs | arrays | parts | tests | verdicts | verdictCtrs | nand | store | nvme | peer
  | errs | ledger | mgmt | host | nextId | freeCtr | pending
  deriving DecidableEq, Repr

/-- Two states agree on a component. -/
def Comp.same (c : Comp) (s t : State) : Prop :=
  match c with
  | .variant => t.variant = s.variant
  | .power => t.power = s.power
  | .time => t.time = s.time
  | .ctxs => t.ctxs = s.ctxs
  | .cmds => t.cmds = s.cmds
  | .objs => t.objs = s.objs
  | .arrays => t.arrays = s.arrays
  | .parts => t.parts = s.parts
  | .tests => t.tests = s.tests
  | .verdicts => t.verdicts = s.verdicts
  | .verdictCtrs => t.verdictCtrs = s.verdictCtrs
  | .nand => t.nand = s.nand
  | .store => t.store = s.store
  | .nvme => t.nvme = s.nvme
  | .peer => t.peer = s.peer
  | .errs => t.errs = s.errs
  | .ledger => t.ledger = s.ledger
  | .mgmt => t.mgmt = s.mgmt
  | .host => t.host = s.host
  | .nextId => t.nextId = s.nextId
  | .freeCtr => t.freeCtr = s.freeCtr
  | .pending => t.pending = s.pending

/-- From `s` to `t` nothing changes but the listed components. -/
structure Frame (cs : List Comp) (s t : State) : Prop where
  /-- The two states agree on every component that is not listed. -/
  same : ∀ c : Comp, c ∉ cs → c.same s t

/-! ### A command that starts at its fetch -/

/-- The commands that go on only when others are DONE: QUEUE_DESTROY and JOB_END (R355, R389). -/
def isWaiter : Body → Bool
  | .queueDestroy _ => true
  | .jobEnd => true
  | _ => false

/-- A pending command that does not move by itself: it has ended, or the engines work on it. -/
def Cmd.still (c : Cmd) : Prop := c.status = none → c.st ≠ .blocked ∧ (c.st = .holding → isWaiter c.body = false)

/-- No pending command moves by itself. -/
def State.still (s : State) : Prop := ∀ c ∈ s.cmds, c.still

/-- Nothing in the drive moves by itself: no pending command does, and no queue shows a malformed entry next. -/
def State.calm (s : State) : Prop := s.still ∧ ∀ (n k : Nat) (x : QueueSt), tfind (s.ctx n).queues k = some x →
  ∀ raw : List Byte, x.avail.head? = some raw → malformed raw = false

/-- The entries that the queues of a context show next are not malformed (R372); the first of the queue `n` is left out. -/
def State.headsFine (s : State) (ctx n : Nat) : Prop :=
  ∀ (k : Nat) (x : QueueSt), tfind (s.ctx ctx).queues k = some x →
    ∀ raw : List Byte, (if k = n then x.avail.tail else x.avail).head? = some raw → malformed raw = false

/-- The command that the fetch of an entry from a queue makes. -/
def State.newCmd (s : State) (e : Entry) (b : Body) (uid : Nat) (q : QueueSt) : Cmd :=
  { Cmd.fresh uid e b (if e.queue = 0 then 1 else q.cls) s.time.now s.peer.progressTo with
    handles := (bodyHandles b).filter (fun h => s.isLive e.ctx h) }

/-- The state with the entry taken from its queue, the handles that it names held (R363), and the command pending. -/
def State.fetched (s : State) (e : Entry) (b : Body) (uid : Nat) (q : QueueSt) : State :=
  let held := (bodyHandles b).filter (fun h => s.isLive e.ctx h)
  ((s.takeEntry e.ctx e.queue).modCtx e.ctx (fun x => { x with
    handles := tmap x.handles (fun h m => if held.contains h then { m with dref := m.dref + 1 } else m) })).modCmds
      (fun l => l ++ [s.newCmd e b uid q])

/-- The entry that is due in a queue spells a command that passes the checks at its fetch and starts at once: nothing that
is pending moves first, its fence and its event let it go, and no die is in recovery. -/
structure Starts (s : State) (e : Entry) (b : Body) (uid : Nat) (q : QueueSt) : Prop where
  /-- The drive fetches from the queue (R344, R352, R354). -/
  fetchable : s.fetchable e.ctx e.queue = true
  /-- The queue of the entry. -/
  ring : tfind (s.ctx e.ctx).queues e.queue = some q
  /-- The entry that is due spells the command (R371). -/
  due : s.entryDue e.ctx e.queue = some (encodeEntry e b, uid)
  /-- Every field fits its bytes. -/
  spells : entryFits e b = true
  /-- What the drive reads from host memory for the command is as long as the command says. -/
  data : bodyFits b = true
  /-- The command's number is not in use. -/
  unused : ∀ c ∈ s.cmds, c.uid ≠ uid
  /-- The host memory that it names can be accessed. -/
  reached : e.dmaFault = none
  /-- At most 16 class-0 commands of a partition are pending (R354). -/
  limit : s.over0 (s.newCmd e b uid q) = false
  /-- The checks at fetch (R402). -/
  passes : s.kciCheck (s.newCmd e b uid q) = none
  /-- Nothing that is pending moves first. -/
  still : s.still
  /-- A fence has nothing to wait for (R376). -/
  fence : e.fence = true → ∀ c ∈ s.cmds, c.e.ctx = e.ctx → c.e.queue ≠ e.queue
  /-- The event that it waits on has reached the threshold (R377). -/
  wait : e.wait = true → ∃ v : EventSt, tfind (s.ctx e.ctx).events e.waitEvent = some v ∧ e.threshold ≤ v.value
  /-- A group operation finds its group formed (R286). -/
  group : s.groupReady (s.newCmd e b uid q) = true
  /-- No die is in recovery (R419). -/
  dies : s.power.recovering = []
  /-- What the queues of the context show next is not malformed. -/
  heads : s.headsFine e.ctx e.queue

/-- A pending command has ended with a status and its result words, and waits for its completion to be posted. -/
def State.ended (t : State) (uid st d0 d1 : Nat) : Prop :=
  ∃ c : Cmd, t.cmd? uid = some c ∧ c.status = some st ∧ c.st = .draining ∧ c.dw0 = d0 ∧ c.dw1 = d1

/-! ### The invariant -/

/-- The byte memories of the drive stand in their canonical form: host memory, the data of every object, the shadow MBR and
the buffer of a firmware download. -/
def State.Canonical (s : State) : Prop :=
  Mem.wf s.host = true ∧ (∀ o ∈ s.objs, Mem.wf o.2.data = true) ∧ Mem.wf s.nvme.mbr = true ∧ Mem.wf s.nvme.fwBuf = true

/-- The logs stay within their sizes: the error log's staging buffer holds at most 256 records and its ring at most 65,536
(R434); the ledger ring holds at most 1,024 closed periods (R445). -/
def State.Bounded (s : State) : Prop :=
  s.errs.staging.length ≤ 256 ∧ s.errs.ring.length ≤ 65536 ∧ s.ledger.ring.length ≤ 1024

/-- What every step keeps. -/
def State.Inv (s : State) : Prop := s.Canonical ∧ s.Bounded

/-- A step of a safe run answers a next state. -/
def State.steps (s t : State) : Prop := step s = .next t

/-- The states that a run passes through from a state on. -/
inductive Reaches : State → State → Prop where
  | here (s : State) : Reaches s s
  | more {s t u : State} : Reaches s t → t.steps u → Reaches s u

/-- A safe run: no command stops the drive, whatever is queued, and the invariant holds after it. -/
def State.Safe (s : State) : Prop := ∀ t : State, Reaches s t → t.Inv ∧ ∃ u : State, t.steps u

end Sys2Proof.Machine

/-! ### The terms of the claims about KCI commands -/

namespace Sys2Proof.Claims
open Sys2Proof.Machine

/-- Every number of a pending command is its own. -/
def distinct (s : State) : Prop := (s.cmds.map (·.uid)).Nodup

/-- The command that fetches an entry of a body. -/
def fetchOf (e : Entry) : Body → Instr
  | .queueCreate q c n v sq cq co => .queueCreate e q c n v sq cq co
  | .queueDestroy q => .queueDestroy e q
  | .objCreate o n w k h l p d => .objCreate e o n w k h l p d
  | .objOpen o r => .objOpen e o r
  | .objShare h g r => .objShare e h g r
  | .objUnshare h g => .objUnshare e h g
  | .objRetain h => .objRetain e h
  | .objRelease h d => .objRelease e h d
  | .objPlace h w => .objPlace e h w
  | .objQuery h b => .objQuery e h b
  | .eventCreate v n => .eventCreate e v n
  | .eventDestroy v => .eventDestroy e v
  | .eventClear v => .eventClear e v
  | .programInstall o a n i => .programInstall e o a n i
  | .priority q c i => .priority e q c i
  | .jobEnd => .jobEnd e
  | .copyIn h o a n l d => .copyIn e h o a n l d
  | .copyOut h o a n l => .copyOut e h o a n l
  | .copy s d so od n l => .copy e s d so od n l
  | .nop => .nop e
  | .run p n m q b a t => .run e p n m q b a t
  | .search i q o n k np f r nt qo oo fi ts => .search e i q o n k np f r nt qo oo fi ts
  | .indexSeal h => .indexSeal e h

/-- The newest command goes on: it has no status yet. -/
def continues (c : Instr) (s : State) (uid : Nat) (P : State → Cmd → Prop) : Prop :=
  ∃ (t : State) (x : Cmd), exec c s = .next t ∧ t.cmds = s.cmds ++ [x] ∧ x.uid = uid ∧ x.status = none ∧ P t x

/-- Of the objects, one has become `y`. -/
def oneObject (s t : State) (o : Nat) (y : ObjectSt) : Prop := t.obj? o = some y ∧ ∀ p : Nat, p ≠ o → t.obj? p = s.obj? p

/-- The command is fetched and ends at once: it is the newest command, with a status and a result word, and it waits for its
completion to be posted; every other command and every other context is as before. -/
def completes (c : Instr) (s : State) (e : Entry) (uid st d0 : Nat) (P : State → Prop) : Prop :=
  ∃ (t : State) (x : Cmd), exec c s = .next t ∧ t.cmds = s.cmds ++ [x] ∧ x.uid = uid ∧ x.e = e ∧ x.status = some st ∧
    x.st = .draining ∧ x.dw0 = d0 ∧ (∀ m : Nat, m ≠ e.ctx → t.ctx m = s.ctx m) ∧ P t

/-- The objects, host memory and the queues of the command's context are as before; its own queue has moved by the one entry. -/
def quiet (s t : State) (e : Entry) : Prop :=
  t.objs = s.objs ∧ t.host = s.host ∧ ∀ j : Nat, j ≠ e.queue → tfind (t.ctx e.ctx).queues j = tfind (s.ctx e.ctx).queues j

/-- An entry is due in a queue that the drive fetches from, and spells the command. -/
structure Due (s : State) (e : Entry) (b : Body) (uid : Nat) (q : QueueSt) : Prop where
  fetchable : s.fetchable e.ctx e.queue = true
  ring : tfind (s.ctx e.ctx).queues e.queue = some q
  due : s.entryDue e.ctx e.queue = some (encodeEntry e b, uid)
  spells : entryFits e b = true
  data : bodyFits b = true
  unused : ∀ c ∈ s.cmds, c.uid ≠ uid
  still : s.still
  heads : s.headsFine e.ctx e.queue
  numbers : distinct s

end Sys2Proof.Claims
end

