-- ==== Sys2Proof/WellFormed.lean ====
section
/-! DEFINITION. When the operands of a command are ones that its sender can give: numbers within their fields, units that
the drive has, lists as long as their counts. The meanings do not rely on it: each
checks what it needs. -/

namespace Sys2Proof

/-- The common part of an entry: Table 15-1's widths, an increment of at least 1. -/
def Entry.wf (e : Entry) : Bool :=
  decide (e.ctx < 256 ∧ e.queue < 10 ∧ e.cid < 65536 ∧ e.waitEvent < 64 ∧ e.signalEvent < 64 ∧ e.threshold < 2 ^ 63 ∧ 1 ≤ e.incr ∧ e.incr ≤ 2 ^ 32)

/-- An argument entry within the widths of Table 15-6. -/
def ArgEntry.wf (a : ArgEntry) : Bool := decide (a.slot < 32 ∧ a.handle < 256 ∧ a.rows < 2 ^ 32 ∧ a.offset < 2 ^ 64 ∧ a.length < 2 ^ 64)

/-- A filter term within the widths of R218. -/
def FilterTerm.wf (t : FilterTerm) : Bool := decide (t.op < 256 ∧ t.group < 256 ∧ t.low < 256 ∧ t.width < 256)

/-- A tile of at most 2,048 rows and 128 columns (R80). -/
def TilePlan.wf (t : TilePlan) : Bool := decide (1 ≤ t.rows ∧ t.rows ≤ 2048 ∧ 1 ≤ t.cols ∧ t.cols ≤ 128)

/-- An error of a pass lies in a row and a column of an array. -/
def PassError.wf (e : PassError) : Bool := decide (e.row < 2048 ∧ e.col < 128)

/-- A NAND operation on a block and page of a die (R230), in one of the four places of R247. -/
def NandReq.wf (r : NandReq) : Bool := decide (1 ≤ r.pri ∧ r.pri ≤ 4 ∧ r.block < 2048 ∧ r.page < 4096)

/-- An erase names one of the 4,096 sectors of the store. -/
def StoreOp.wf (o : StoreOp) : Bool := match o.kind with | .erase x => decide (x < 4096) | _ => true

/-- An NVMe header: a function, a queue and a command identifier. -/
def NvmeHdr.wf (h : NvmeHdr) : Bool := decide (h.fn < 256 ∧ h.sqid < 65536 ∧ h.cid < 65536 ∧ h.nsid < 2 ^ 32)

/-- Tags within their fields. -/
def PiArgs.wf (p : PiArgs) : Bool := decide (p.lbat < 65536 ∧ p.lbatm < 65536 ∧ p.ilbrt < 2 ^ 48)

/-- A command whose operands its sender can give. -/
def Instr.wf : Instr → Bool
  | .powerOnReset _ _ => true
  | .auxRailValid => true
  | .powerFail => true
  | .powerFailRecordDone => true
  | .pwrdisAssert => true
  | .pwrdisDeassert => true
  | .perstAssert => true
  | .perstDeassert _ => true
  | .controllerEnable fn => decide (fn < 256)
  | .computeReady => true
  | .controllerReset fn => decide (fn < 256)
  | .flr fn => decide (fn < 256)
  | .hostLinkLoss => true
  | .smbrst => true
  | .dieRecoveryStart die _ => decide (die < 4)
  | .housekeepingReportTimeout die => decide (die < 4)
  | .kerilWatchdogExpiry => true
  | .dieRecoveryDone die => decide (die < 4)
  | .thermalSample tj tn => decide (tj.length = 42 ∧ tn.length = 32)
  | .thermalLevelExit => true
  | .voltageRampStep => true
  | .holdupCheck => true
  | .holdupCheckDone _ => true
  | .pwrHoldupCheckStart _ => true
  | .deviceTimeRecord => true
  | .crystalPeriod => true
  | .beaconSend => true
  | .beaconReceive region _ => decide (region < 42)
  | .beaconPathMeasure region _ => decide (region < 42)
  | .beaconMissLimit region => decide (region < 42)
  | .holdoverTimeout region => decide (region < 42)
  | .localTick region => decide (region < 42)
  | .oscillatorWatch region _ _ _ => decide (region < 42)
  | .marginSample region slack => decide (region < 42 ∧ slack ≤ 64)
  | .stretchRelease region => decide (region < 42)
  | .lastingMarginFault region => decide (region < 42)
  | .monitorRefresh rates => decide (rates.length = 42)
  | .powerMonitorRefresh draws => decide (draws.length = 8)
  | .kciSqTail ctx queue tail entries => decide (ctx < 256 ∧ queue < 9 ∧ tail < 65536) && entries.all (fun b => b.length == 64)
  | .kciCqHead ctx queue head => decide (ctx < 256 ∧ queue < 10 ∧ head < 65536)
  | .class0SlotWrite ctx slot off data => decide (ctx < 256 ∧ slot < 16 ∧ 1 ≤ data.length ∧ off + data.length ≤ 64)
  | .ctxEnableSet ctx => decide (ctx < 256)
  | .ctxEnableClear ctx => decide (ctx < 256)
  | .ctxControlReset ctx => decide (ctx < 256)
  | .contextResetComplete ctx => decide (ctx < 256)
  | .ctxPolicyWrite ctx _ => decide (ctx < 256)
  | .registerWrite fn off size _ => decide (fn < 256 ∧ off + size ≤ 2 ^ 21 ∧ 1 ≤ size ∧ size ≤ 8)
  | .loRegisterRead fn off size => decide (fn < 256 ∧ off < 2 ^ 21 ∧ 1 ≤ size ∧ size ≤ 8)
  | .queueCreate e queue cls entries vector sq cq colo => e.wf && decide (queue < 256 ∧ cls < 256 ∧ entries < 65536 ∧ vector < 65536 ∧ sq < 2 ^ 64 ∧ cq < 2 ^ 64 ∧ colo < 2 ^ 64)
  | .queueDestroy e queue => e.wf && decide (queue < 256)
  | .objCreate e oid pages word kind h l p d => e.wf && decide (oid < 2 ^ 64 ∧ pages < 2 ^ 64 ∧ word < 2 ^ 32 ∧ kind < 256 ∧ h < 256 ∧ l < 65536 ∧ p < 2 ^ 32 ∧ d < 65536)
  | .objOpen e oid rights => e.wf && decide (oid < 2 ^ 64 ∧ rights < 8)
  | .objShare e handle grantee rights => e.wf && decide (handle < 256 ∧ grantee < 256 ∧ rights < 8)
  | .objUnshare e handle grantee => e.wf && decide (handle < 256 ∧ grantee < 256)
  | .objRetain e handle => e.wf && decide (handle < 256)
  | .objRelease e handle _ => e.wf && decide (handle < 256)
  | .objPlace e handle word => e.wf && decide (handle < 256 ∧ word < 2 ^ 32)
  | .objQuery e handle buf => e.wf && decide (handle < 256 ∧ buf < 2 ^ 64)
  | .eventCreate e event value => e.wf && decide (event < 256 ∧ value < 2 ^ 63)
  | .eventDestroy e event => e.wf && decide (event < 256)
  | .eventClear e event => e.wf && decide (event < 256)
  | .programInstall e oid addr length image => e.wf && decide (oid < 2 ^ 64 ∧ addr < 2 ^ 64 ∧ length < 2 ^ 32 ∧ image.length = length)
  | .priority e queue cls cid => e.wf && decide (queue < 256 ∧ cls < 256 ∧ cid < 65536)
  | .jobEnd e => e.wf
  | .copyIn e handle off host length layout data => e.wf && decide (handle < 256 ∧ off < 2 ^ 64 ∧ host < 2 ^ 64 ∧ length < 2 ^ 32 ∧ layout < 2 ^ 32 ∧ data.length = length)
  | .copyOut e handle off host length layout => e.wf && decide (handle < 256 ∧ off < 2 ^ 64 ∧ host < 2 ^ 64 ∧ length < 2 ^ 32 ∧ layout < 2 ^ 32)
  | .copy e src dst soff doff length layout => e.wf && decide (src < 256 ∧ dst < 256 ∧ soff < 2 ^ 64 ∧ doff < 2 ^ 64 ∧ length < 2 ^ 32 ∧ layout < 2 ^ 32)
  | .nop e => e.wf
  | .run e prog nargs mode seq block args plan => e.wf && decide (prog < 256 ∧ nargs < 256 ∧ mode < 256 ∧ seq < 2 ^ 24 ∧ block < 2 ^ 64 ∧ args.length = nargs) && args.all ArgEntry.wf && plan.all TilePlan.wf
  | .search e index query output nq k nprobe f rr nterms qoff ooff filters terms => e.wf && decide (index < 256 ∧ query < 256 ∧ output < 256 ∧ nq < 256 ∧ k < 65536 ∧ nprobe < 65536 ∧ f < 256 ∧ rr < 2 ∧ nterms < 256 ∧ qoff < 2 ^ 64 ∧ ooff < 2 ^ 64 ∧ filters < 2 ^ 64 ∧ terms.length = nterms) && terms.all FilterTerm.wf
  | .indexSeal e handle => e.wf && decide (handle < 256)
  | .passPick array => decide (array < 16)
  | .commandAged _ => true
  | .reservationWindowBoundary => true
  | .passEntry array rate => decide (array < 16 ∧ 0 < rate)
  | .passEnd array errs _ => decide (array < 16) && errs.all PassError.wf
  | .rowVerdict array _ row => decide (array < 16 ∧ row < 2048)
  | .columnVerdict array _ => decide (array < 16)
  | .rowDrain array _ _ row mismatch ecc => decide (array < 16 ∧ row < 2048 ∧ mismatch ≤ 2 ∧ ecc ≤ 2)
  | .completionPost ctx queue _ => decide (ctx < 256 ∧ queue < 10)
  | .partExclClaim part _ => decide (part < 8)
  | .claimComplete part => decide (part < 8)
  | .partExclAbort part _ => decide (part < 8)
  | .releaseComplete part => decide (part < 8)
  | .partReset part _ => decide (part < 8)
  | .partDramQuotaWrite part _ => decide (part < 8)
  | .schedResvWrite part _ => decide (part < 8)
  | .ctxAssignWrite ctx _ => decide (ctx < 256)
  | .ctxAdminReset ctx _ => decide (ctx < 256)
  | .memT2QuotaWrite part _ => decide (part < 8)
  | .mxaTestStart array _ => decide (array < 16)
  | .secKeyEnroll _ => true
  | .secKeyRevoke _ => true
  | .peerGroupCfgSet _ => true
  | .peerGroupCfgClear _ => true
  | .peerBindWrite _ => true
  | .peerProgressToWrite _ => true
  | .errSelHiWrite _ => true
  | .errIrqVecWrite _ => true
  | .ledgSelHiWrite _ => true
  | .ledgCtxSelWrite _ => true
  | .ledgAckWrite _ => true
  | .ledgPeriodWrite _ => true
  | .ledgerPeriodClose => true
  | .errorLogFlush => true
  | .targetedSelfTest kind index => decide (kind < 13 ∧ index < 4096)
  | .selfTestVerdict kind index reproduced axis => decide (kind < 13 ∧ index < 4096 ∧ reproduced ≤ 2 ∧ axis ≤ 2)
  | .migrationStart _ page tier => decide (page < 2 ^ 28 ∧ tier ≤ 2)
  | .migrationSwitch _ page => decide (page < 2 ^ 28)
  | .speculativeReadIssue _ _ page => decide (page < 2 ^ 28)
  | .speculativeScanLaunch _ query _ => decide (query < 8)
  | .distanceTableSend _ query => decide (query < 8)
  | .selectionFinal _ query => decide (query < 8)
  | .codewordEvaluate _ query launch _ mismatch => decide (mismatch ≤ 2 ∧ query < 8 ∧ launch < 8192)
  | .mergerCandidate _ query _ => decide (query < 8)
  | .scanEnd _ query launch => decide (query < 8 ∧ launch < 8192)
  | .rerank _ query => decide (query < 8)
  | .nandOpStart die due => decide (die < 512) && due.all NandReq.wf
  | .nandReadDone die cws => decide (die < 512 ∧ cws.length ≤ 4)
  | .recoveryLadderStep die cw _ => decide (die < 512 ∧ cw < 4)
  | .readAroundErase die block page cw bad => decide (die < 512 ∧ block < 2048 ∧ page < 4096 ∧ cw < 4) && bad.all (fun d => decide (d < 512))
  | .nandProgramDone die _ => decide (die < 512)
  | .nandEraseDone die _ => decide (die < 512)
  | .nandReset => true
  | .patrolRead die block page cws _ => decide (die < 512 ∧ block < 2048 ∧ page < 4096 ∧ cws.length ≤ 4)
  | .blockRefresh die block => decide (die < 512 ∧ block < 2048)
  | .readOffsetCalibration die block _ => decide (die < 512 ∧ block < 2048)
  | .garbageCollection group free _ victim => decide (group < 32 ∧ free ≤ 2048) && victim.all (fun b => decide (b < 2048))
  | .wearLeveling group block => decide (group < 32 ∧ block < 2048)
  | .writeAdmit => true
  | .storeOpStart due => due.all StoreOp.wf
  | .storeEraseDone _ => true
  | .controlSectorSwitch => true
  | .gapAdvance => true
  | .programLoad _ _ => true
  | .portTrained port lanes => decide (port < 4 ∧ lanes < 16)
  | .peerPresChange port _ => decide (port < 4)
  | .peerAlertPulse port => decide (port < 4)
  | .peerAlertStuck port => decide (port < 4)
  | .hello port gid _ _ pport incarnation fw => decide (port < 4 ∧ gid < 2 ^ 32 ∧ pport < 4 ∧ incarnation < 2 ^ 32 ∧ fw < 2 ^ 32)
  | .heartbeatSend => true
  | .heartbeat src incarnation gstate lost epoch _ => decide (src < 8 ∧ incarnation < 2 ^ 32 ∧ gstate < 4 ∧ lost < 256 ∧ epoch < 256)
  | .heartbeatWindowEnd => true
  | .memberLost member => decide (member < 8)
  | .groupReform => true
  | .formingTimeout => true
  | .idle port => decide (port < 4)
  | .flitReceive port bytes => decide (port < 4 ∧ bytes.length = 256)
  | .nak port expected => decide (port < 4 ∧ expected < 65536)
  | .portRetrain port => decide (port < 4)
  | .post src opId => decide (src < 8 ∧ opId < 2 ^ 32)
  | .gather src opId _ _ digest => decide (src < 8 ∧ opId < 2 ^ 32 ∧ digest < 2 ^ 61)
  | .reduce src opId _ payload digest => decide (src < 8 ∧ opId < 2 ^ 32 ∧ digest < 2 ^ 61 ∧ payload.length = 2048)
  | .envelope src opId _ payload digest => decide (src < 8 ∧ opId < 2 ^ 32 ∧ digest < 2 ^ 61 ∧ payload.length % 16 = 0)
  | .abort src opId status => decide (src < 8 ∧ opId < 2 ^ 32 ∧ status < 65536)
  | .msgNak src opId _ kind len16 => decide (src < 8 ∧ opId < 2 ^ 32 ∧ kind < 256 ∧ len16 < 65536)
  | .messageCopyExpiry => true
  | .peerProgressTimeout _ => true
  | .nvmeSqDoorbell fn sqid tail cmds => decide (fn < 256 ∧ sqid < 256 ∧ tail < 65536) && cmds.all (fun c => decide (c.1 < 65536 ∧ c.2 < 256))
  | .lowPowerWake => true
  | .createIoSubmissionQueue h qid qsize cqid => h.wf && decide (qid < 65536 ∧ qsize ≤ 65536 ∧ cqid < 65536)
  | .createIoCompletionQueue h qid qsize iv _ => h.wf && decide (qid < 65536 ∧ qsize ≤ 65536 ∧ iv < 65536)
  | .deleteIoSubmissionQueue h qid => h.wf && decide (qid < 65536)
  | .deleteIoCompletionQueue h qid => h.wf && decide (qid < 65536)
  | .identify h cns dst => h.wf && decide (cns < 256 ∧ dst < 2 ^ 64)
  | .nvmeAbort h sqid cid => h.wf && decide (sqid < 65536 ∧ cid < 65536)
  | .getFeatures h fid cdw11 dst => h.wf && decide (fid < 256 ∧ cdw11 < 2 ^ 32 ∧ dst < 2 ^ 64)
  | .setArbitration h _ => h.wf
  | .setPowerManagement h _ => h.wf
  | .lowPowerEntry => true
  | .setTemperatureThreshold h _ => h.wf
  | .setVolatileWriteCache h _ => h.wf
  | .setNumberOfQueues h _ => h.wf
  | .setInterruptCoalescing h _ => h.wf
  | .setInterruptVectorConfiguration h _ => h.wf
  | .setWriteAtomicityNormal h _ => h.wf
  | .setAsyncEventConfiguration h _ => h.wf
  | .setApst h _ table => h.wf && decide (table.length ≤ 32)
  | .apstIdleExpiry => true
  | .setTimestamp h ms => h.wf && decide (ms < 2 ^ 48)
  | .lacunaRelease h seq => h.wf && decide (seq < 2 ^ 64)
  | .asyncEventRequest h => h.wf
  | .getLogErrorInformation h _ _ => h.wf
  | .getLogSmartHealth h _ _ => h.wf
  | .getLogFirmwareSlot h _ _ => h.wf
  | .getLogChangedNamespace h _ _ => h.wf
  | .getLogCommandsSupported h _ _ => h.wf
  | .getLogSanitizeStatus h _ _ => h.wf
  | .getLogLacuna h _ _ _ _ => h.wf
  | .getLogColophonStatistics h _ _ _ => h.wf
  | .getLogAbortList h _ _ _ => h.wf
  | .namespaceManagementCreate h _ flbas pi => h.wf && decide (flbas < 256 ∧ pi < 8)
  | .namespaceManagementDelete h => h.wf
  | .namespaceAttachment h _ ctrls => h.wf && ctrls.all (fun c => decide (c < 65536))
  | .firmwareImageDownload h _ _ => h.wf
  | .firmwareCommit h action slot _ => h.wf && decide (action < 8 ∧ slot < 8)
  | .formatNvm h lbaf pi ses _ => h.wf && decide (lbaf < 16 ∧ pi < 8 ∧ ses < 8)
  | .securitySend h _ => h.wf
  | .securityReceive h _ => h.wf
  | .sanitizeBlockErase h => h.wf
  | .sanitizeCryptoErase h => h.wf
  | .sanitizeDone => true
  | .flush h => h.wf
  | .write h slba nlb _ _ prchk pi _ => h.wf && decide (slba < 2 ^ 64 ∧ 1 ≤ nlb ∧ nlb ≤ 65536 ∧ prchk < 8) && pi.wf
  | .read h slba nlb _ prchk pi dst mdst => h.wf && decide (slba < 2 ^ 64 ∧ 1 ≤ nlb ∧ nlb ≤ 65536 ∧ prchk < 8) && pi.wf && decide (dst < 2 ^ 64 ∧ mdst < 2 ^ 64)
  | .compare h slba nlb _ => h.wf && decide (slba < 2 ^ 64 ∧ 1 ≤ nlb ∧ nlb ≤ 65536)
  | .writeZeroes h slba nlb _ => h.wf && decide (slba < 2 ^ 64 ∧ 1 ≤ nlb ∧ nlb ≤ 65536)
  | .datasetManagementDeallocate h ranges => h.wf && decide (1 ≤ ranges.length ∧ ranges.length ≤ 256)
  | .verify h slba nlb prchk pi => h.wf && decide (slba < 2 ^ 64 ∧ 1 ≤ nlb ∧ nlb ≤ 65536 ∧ prchk < 8) && pi.wf
  | .cacheCommitStart die block wl _ => decide (die < 512 ∧ block < 2048 ∧ wl < 256)
  | .shutdownNotification fn _ => decide (fn < 256)
  | .miReadDataStructure _ => true
  | .miSubsystemHealthPoll => true
  | .miControllerHealthPoll _ => true
  | .miConfigurationGet _ => true
  | .miConfigurationSet _ _ => true
  | .miVpdRead off len => decide (off + len ≤ 65536)
  | .miTunneledIdentify _ => true
  | .miTunneledGetLogPage _ => true
  | .miErrorLogRead _ _ => true
  | .hostLinkReturn => true
  | .dieRecoveryOverrun die => decide (die < 4)
  | .auxiliaryRailLoss => true
  | .holdUpEnergyExhausted _ => true
  | .peerAlertReturnsHigh port => decide (port < 4)
  | .peerLanesLeaveElectricalIdle port => decide (port < 4)
  | .storePageProgramDone => true
  | .patrolScrub stack _ => decide (stack < 2)
  | .ledToggle => true

end Sys2Proof
end

