-- ==== Sys2Proof/Certificates/Slice0/Obligations.lean ====
section
/-! DEFINITION. The obligations: what is claimed of the model, by the rules of spec/. The clauses of an obligation stand in
the namespace `Sys2Proof.Claims`, one for each command that it covers; a docstring names the rule that a clause follows. -/

open Sys2Proof Sys2Proof.Machine

/-! ### The machine -/

namespace Sys2Proof.Claims

/-- The components of the state that a command may change: every other component is the same after it. -/
def touches : Instr → List Comp
  | .auxRailValid | .auxiliaryRailLoss | .voltageRampStep | .holdupCheck | .pwrHoldupCheckStart _ | .lowPowerWake | .lowPowerEntry
  | .apstIdleExpiry | .ledToggle => [.power]
  | .smbrst | .loRegisterRead .. | .secKeyEnroll _ | .secKeyRevoke _ => [.mgmt]
  | .miReadDataStructure _ | .miSubsystemHealthPoll | .miControllerHealthPoll _ | .miConfigurationGet _ | .miConfigurationSet ..
  | .miVpdRead .. | .miTunneledIdentify _ | .miTunneledGetLogPage _ | .miErrorLogRead .. => [.mgmt, .freeCtr]
  | .beaconSend | .beaconPathMeasure .. | .beaconMissLimit _ | .localTick _ | .stretchRelease _ => [.time]
  | .beaconReceive .. => [.time, .freeCtr]
  | .crystalPeriod => [.power, .time]
  | .deviceTimeRecord | .storeOpStart _ | .storeEraseDone _ | .controlSectorSwitch | .gapAdvance => [.store]
  | .holdoverTimeout _ | .errIrqVecWrite _ | .formingTimeout => [.errs, .mgmt]
  | .oscillatorWatch .. => [.time, .tests, .errs, .mgmt]
  | .marginSample .. => [.power, .time, .tests, .errs, .mgmt]
  | .monitorRefresh _ => [.power, .time, .cmds, .nvme, .errs, .mgmt]
  | .powerMonitorRefresh _ | .controllerEnable _ => [.power, .nvme, .mgmt]
  | .thermalSample .. => [.power, .time, .nvme, .errs, .mgmt]
  | .thermalLevelExit | .holdupCheckDone _ => [.power, .nvme, .errs, .mgmt]
  | .computeReady => [.power, .store]
  | .controllerReset _ => [.nvme, .mgmt]
  | .powerFail | .pwrdisAssert => [.power, .time, .nand, .store, .peer]
  | .flr _ => [.ctxs, .arrays, .parts, .nand, .nvme, .peer, .errs, .ledger, .mgmt]
  | .hostLinkReturn => [.power, .ctxs, .arrays, .parts, .nand, .peer]
  | .hostLinkLoss => [.power, .ctxs, .cmds, .objs, .arrays, .nand, .nvme, .peer, .errs, .ledger, .mgmt, .nextId, .freeCtr]
  | .ctxEnableSet _ | .ctxPolicyWrite .. => [.ctxs]
  | .ctxEnableClear _ | .ctxControlReset _ | .ctxAdminReset .. => [.ctxs, .arrays, .parts, .nand, .peer]
  | .ctxAssignWrite .. => [.ctxs, .mgmt]
  | .claimComplete _ => [.parts]
  | .releaseComplete _ => [.cmds, .arrays, .parts]
  | .partDramQuotaWrite .. | .schedResvWrite .. | .memT2QuotaWrite .. => [.parts, .mgmt]
  | .mxaTestStart .. => [.tests]
  | .peerBindWrite _ | .peerProgressToWrite _ => [.peer, .mgmt]
  | .errSelHiWrite _ => [.errs]
  | .ledgSelHiWrite _ | .ledgCtxSelWrite _ => [.ledger]
  | .ledgAckWrite _ | .ledgPeriodWrite _ => [.ledger, .mgmt]
  | .ledgerPeriodClose => [.store, .ledger, .mgmt]
  | .errorLogFlush => [.store, .errs]
  | .commandAged _ => [.cmds]
  | .reservationWindowBoundary => [.time, .arrays, .parts]
  | .passEntry .. => [.cmds, .arrays, .parts, .errs, .ledger, .mgmt, .nextId, .freeCtr]
  | .targetedSelfTest .. => [.cmds, .arrays, .tests]
  | .migrationStart .. | .migrationSwitch .. | .speculativeReadIssue .. => [.objs]
  | .nandOpStart .. | .nandReset | .blockRefresh .. | .readOffsetCalibration .. | .wearLeveling .. | .cacheCommitStart ..
  | .patrolScrub .. => [.nand]
  | .nandReadDone .. | .readAroundErase .. | .patrolRead .. => [.nand, .ledger, .freeCtr]
  | .nandEraseDone .. => [.tests, .nand, .errs, .mgmt]
  | .garbageCollection .. => [.nand, .nvme, .mgmt]
  | .writeAdmit => [.ctxs, .nvme, .errs, .mgmt]
  | .portTrained .. => [.tests, .peer, .errs, .mgmt]
  | .peerAlertStuck _ | .hello .. => [.peer, .errs, .mgmt]
  | .peerPresChange .. | .peerAlertPulse _ | .heartbeatSend | .heartbeatWindowEnd | .idle _ | .flitReceive .. | .nak .. | .portRetrain _
  | .post .. | .messageCopyExpiry | .peerAlertReturnsHigh _ | .peerLanesLeaveElectricalIdle _ => [.peer]
  | .nvmeSqDoorbell .. | .createIoSubmissionQueue .. | .createIoCompletionQueue .. | .deleteIoSubmissionQueue ..
  | .deleteIoCompletionQueue .. | .nvmeAbort .. | .setArbitration .. | .setPowerManagement .. | .setTemperatureThreshold ..
  | .setVolatileWriteCache .. | .setNumberOfQueues .. | .setInterruptCoalescing .. | .setInterruptVectorConfiguration ..
  | .setWriteAtomicityNormal .. | .setAsyncEventConfiguration .. | .setApst .. | .asyncEventRequest _ | .namespaceManagementCreate ..
  | .namespaceAttachment .. | .firmwareImageDownload .. | .flush _ => [.power, .ctxs, .nvme, .errs, .mgmt]
  | .identify .. | .getLogErrorInformation .. | .getLogSmartHealth .. | .getLogFirmwareSlot .. | .getLogChangedNamespace ..
  | .getLogCommandsSupported .. | .getLogSanitizeStatus .. | .getLogLacuna .. | .getLogColophonStatistics .. | .getLogAbortList ..
  | .securityReceive .. => [.power, .ctxs, .nvme, .errs, .mgmt, .host, .freeCtr]
  | .getFeatures .. => [.power, .ctxs, .nvme, .errs, .mgmt, .host]
  | .setTimestamp .. => [.power, .ctxs, .nvme, .errs, .ledger, .mgmt]
  | .lacunaRelease .. => [.power, .ctxs, .objs, .store, .nvme, .errs, .mgmt]
  | .namespaceManagementDelete _ | .formatNvm .. => [.power, .ctxs, .nand, .store, .nvme, .errs, .mgmt]
  | .firmwareCommit .. => [.power, .ctxs, .store, .nvme, .errs, .mgmt]
  | .securitySend .. => [.power, .ctxs, .nvme, .errs, .mgmt, .freeCtr]
  | .sanitizeBlockErase _ | .sanitizeCryptoErase _ => [.power, .ctxs, .objs, .nand, .store, .nvme, .errs, .mgmt]
  | .sanitizeDone => [.nand, .nvme]
  | .write .. | .writeZeroes .. | .datasetManagementDeallocate .. => [.power, .ctxs, .nvme, .errs, .mgmt, .nextId]
  | .read .. => [.power, .ctxs, .tests, .nvme, .errs, .ledger, .mgmt, .host, .freeCtr]
  | .compare .. | .verify .. => [.power, .ctxs, .tests, .nvme, .errs, .ledger, .mgmt, .freeCtr]
  | .shutdownNotification .. => [.store, .nvme]
  | .powerOnReset .. | .powerFailRecordDone | .pwrdisDeassert | .perstAssert | .holdUpEnergyExhausted _ =>
    [.power, .time, .ctxs, .cmds, .objs, .arrays, .parts, .tests, .nand, .store, .nvme, .peer, .errs, .ledger, .mgmt, .freeCtr]
  | .perstDeassert _ => [.power, .time, .ctxs, .objs, .nand, .store, .nvme, .peer, .errs, .ledger, .mgmt, .freeCtr]
  | .dieRecoveryStart .. | .housekeepingReportTimeout _ | .kerilWatchdogExpiry | .lastingMarginFault _ =>
    [.power, .time, .ctxs, .cmds, .objs, .arrays, .parts, .tests, .nand, .store, .nvme, .peer, .errs, .ledger, .mgmt, .host, .nextId, .freeCtr]
  | .dieRecoveryDone _ | .dieRecoveryOverrun _ =>
    [.power, .time, .ctxs, .cmds, .objs, .arrays, .parts, .nand, .store, .nvme, .peer, .errs, .ledger, .mgmt, .host, .nextId, .freeCtr]
  | .kciSqTail .. | .kciCqHead .. | .class0SlotWrite .. =>
    [.power, .ctxs, .cmds, .objs, .arrays, .parts, .nand, .store, .nvme, .peer, .errs, .mgmt, .host, .nextId, .freeCtr]
  | .registerWrite .. =>
    [.power, .ctxs, .cmds, .objs, .arrays, .parts, .tests, .nand, .store, .nvme, .peer, .errs, .ledger, .mgmt, .host, .nextId, .freeCtr]
  | .rowVerdict .. | .columnVerdict .. | .partReset .. | .scanEnd .. =>
    [.ctxs, .cmds, .objs, .arrays, .parts, .tests, .nand, .store, .nvme, .peer, .errs, .mgmt, .host, .nextId, .freeCtr]
  | .selfTestVerdict .. =>
    [.ctxs, .cmds, .objs, .arrays, .parts, .tests, .verdicts, .verdictCtrs, .nand, .store, .nvme, .peer, .errs, .mgmt, .host, .nextId, .freeCtr]
  | .rowDrain .. | .selectionFinal .. | .codewordEvaluate .. | .recoveryLadderStep .. | .nandProgramDone .. =>
    [.ctxs, .cmds, .objs, .arrays, .parts, .tests, .nand, .store, .nvme, .peer, .errs, .ledger, .mgmt, .host, .nextId, .freeCtr]
  | .completionPost .. | .distanceTableSend .. | .rerank .. =>
    [.ctxs, .cmds, .objs, .arrays, .parts, .nand, .store, .nvme, .peer, .errs, .ledger, .mgmt, .host, .nextId, .freeCtr]
  | .storePageProgramDone => [.time, .ctxs, .cmds, .objs, .arrays, .parts, .nand, .store, .nvme, .peer, .errs, .mgmt, .host, .nextId, .freeCtr]
  | .queueCreate .. | .queueDestroy .. | .objCreate .. | .objOpen .. | .objShare .. | .objUnshare .. | .objRetain .. | .objRelease ..
  | .objPlace .. | .objQuery .. | .eventCreate .. | .eventDestroy .. | .eventClear .. | .programInstall .. | .priority .. | .jobEnd _
  | .copyIn .. | .copyOut .. | .copy .. | .nop _ | .run .. | .search .. | .indexSeal .. | .contextResetComplete _ | .passPick _
  | .passEnd .. | .partExclClaim .. | .partExclAbort .. | .peerGroupCfgSet _ | .peerGroupCfgClear _ | .speculativeScanLaunch ..
  | .mergerCandidate .. | .programLoad .. | .heartbeat .. | .memberLost _ | .groupReform | .gather .. | .reduce .. | .envelope ..
  | .abort .. | .msgNak .. | .peerProgressTimeout _ =>
    [.ctxs, .cmds, .objs, .arrays, .parts, .nand, .store, .nvme, .peer, .errs, .mgmt, .host, .nextId, .freeCtr]

end Sys2Proof.Claims

/-- For every command and every state, a step of the state with the command at the front of its queue is the command's
effect on the state with the queue's rest. -/
def Obligations.StepTakesFront : Prop := ∀ (c : Instr) (s : State), step { s with pending := c :: s.pending } = exec c s

/-- Whatever the state and whatever is queued, a step answers a next state, and takes exactly the front of the queue; on an empty
queue it changes nothing. Both are the model's choices: a command whose precondition fails changes nothing instead of stopping the
drive (assumption log 2), and a block with nothing to do idles (assumption log 3). -/
def Obligations.StepAlwaysAnswers : Prop := ∀ s : State, (∃ t : State, step s = .next t ∧ t.pending = s.pending.tail) ∧
  (s.pending = [] → step s = .next s)

/-- The frame of every command: it changes no component of the state but those that `Claims.touches` lists for it. -/
def Obligations.FramesOfCommands : Prop :=
  ∀ (c : Instr) (s t : State), exec c s = .next t → Frame (Claims.touches c) s t

/-- Every step keeps the invariant: the byte memories stay in canonical form, and the error log's staging buffer and ring
and the ledger ring within their sizes (R434, R445). -/
def Obligations.InvariantKept : Prop := ∀ s t : State, s.Inv → step s = .next t → t.Inv

/-- The machine right after reset meets the invariant. -/
def Obligations.ResetMeetsInvariant : Prop := State.reset.Inv

/-- From every state that meets the invariant the drive runs safely: every state that a run reaches meets it, and the next
step answers. -/
def Obligations.SafeRuns : Prop := ∀ s : State, s.Inv → s.Safe

/-! ### Rails, power-on reset and power failure (chapters 2, 16 and 19) -/

namespace Sys2Proof.Claims

/-- R45: with the auxiliary rail alone the island answers; nothing else of the drive changes. -/
def auxRailValid : Prop := ∀ s : State, exec .auxRailValid s = .next { s with
  power := { s.power with rail33 := true, miReady := true, mode := if s.power.mode = .noRails then .auxOnly else s.power.mode } }

/-- Tables 2-3 and 19-7: from no rails the drive then answers "not ready" on the SMBus, with its lanes in high impedance and
CLKREQ# released. -/
def auxRailPins : Prop := ∀ s : State, s.power.mode = .noRails → ∃ t : State, exec .auxRailValid s = .next t ∧
  t.smbus = .notReady ∧ t.pcieLanes = .highZ ∧ t.clkreq = .released ∧ t.led = .released

/-- R45: without the auxiliary rail the island stops. -/
def auxiliaryRailLoss : Prop := ∀ s : State, exec .auxiliaryRailLoss s = .next { s with
  power := { s.power with
    rail33 := false, miReady := false
    mode := if s.power.mode = .auxOnly ∨ s.power.mode = .powerOnReset then .noRails else s.power.mode } }

/-- R470: the SMBus interface and the MCTP state are reset, and no other state of the drive. -/
def smbrst : Prop := ∀ s : State, exec .smbrst s = .next { s with mgmt := { s.mgmt with smbCfg := [], mctp := 0 } }

/-- R471: in the failed state LED toggles, and the pin shows it on an operating drive. -/
def ledToggle : Prop := ∀ s : State, s.power.failed = true → s.pinRow = .operating → ∃ t : State, exec .ledToggle s = .next t ∧
  t = { s with power := { s.power with ledToggle := !s.power.ledToggle } } ∧ t.led ≠ s.led

/-- Tables 16-7 and 18-2: what a power-on reset leaves of a state: nothing of the contexts, commands, controllers and the
write cache; device time stopped and its recorded value kept (R58); only stored objects; the namespaces and what is on
NAND; the rings of the error log and the ledger; the keys; the cause in PWR_RESET_CAUSE. -/
def restarted (s t : State) (cause : Nat) : Prop :=
  t.ctxs = [] ∧ t.cmds = [] ∧ t.nvme.ctls = [] ∧ t.nvme.cache = [] ∧ t.nvme.outstanding = [] ∧ t.peer.valid = false ∧
  t.time.running = false ∧ t.time.now = 0 ∧ t.time.regions = [] ∧
  (∀ o ∈ t.objs, o.2.persistent = true ∧ ∀ p ∈ o.2.pageTab, p.2.tier = 2) ∧
  t.power.resetCause = cause ∧ t.power.linkUp = false ∧ t.power.nvmeReady = false ∧ t.power.computeReady = false ∧
  t.nvme.ns = s.nvme.ns ∧ t.nvme.locks = s.nvme.locks ∧ t.errs.ring = s.errs.ring ∧ t.errs.next = s.errs.next ∧
  t.ledger.ring = s.ledger.ring ∧ t.ledger.period = s.ledger.period ∧ t.mgmt.keys = s.mgmt.keys ∧ t.host = s.host ∧
  t.store.journal = s.store.journal ∧ t.store.lacuna = s.store.lacuna

/-- R414: a rail that rises resets the drive; it then stands where its rails and PWRDIS put it. -/
def powerOnReset : Prop := ∀ (rail12 rail33 : Bool) (s : State), s.power.mode ≠ .failing → s.power.mode ≠ .pwrdis →
  ∃ t : State, exec (.powerOnReset rail12 rail33) s = .next t ∧ restarted s t 1 ∧ t.power.rail12 = rail12 ∧ t.power.rail33 = rail33 ∧
    t.power.mode = if s.power.pwrdisPin ∧ rail33 then .pwrdis else if rail12 ∧ rail33 then .powerOnReset
      else if rail33 then .auxOnly else .noRails

/-- R430: a rail that returns while the record of a power failure is written changes nothing but the rails. -/
def railsWhileFailing : Prop := ∀ (rail12 rail33 : Bool) (s : State), s.power.mode = .failing →
  exec (.powerOnReset rail12 rail33) s = .next { s with power := { s.power with rail12 := rail12, rail33 := rail33 } }

/-- R430: the completed record is followed by a power-on reset; R424: its cause is the power failure, except that one that
PWRDIS asked for counts as power-on. -/
def powerFailRecordDone : Prop := ∀ s : State, s.power.mode = .failing →
  ∃ t : State, exec .powerFailRecordDone s = .next t ∧ restarted s t (if s.power.byPwrdis then 1 else 4) ∧
    t.store.hole = s.store.hole ∧ t.time.recorded = s.time.recorded ∧ t.power.mode = s.power.rest

/-- R469: the deassertion of PWRDIS performs a power-on reset. -/
def pwrdisDeassert : Prop := ∀ s : State, s.power.mode = .pwrdis →
  ∃ t : State, exec .pwrdisDeassert s = .next t ∧ restarted s t 1 ∧ t.power.pwrdisPin = false ∧
    t.power.mode = if s.power.rail12 ∧ s.power.rail33 then .powerOnReset else if s.power.rail33 then .auxOnly else .noRails

/-- R34, R272: when the hold-up energy ends, the newest record keeps only its first entries, KCI entries before extents; it
is incomplete unless every entry was written. -/
def holdUpEnergyExhausted : Prop := ∀ (written : Nat) (s : State), s.power.mode = .failing →
  ∃ t : State, exec (.holdUpEnergyExhausted written) s = .next t ∧ restarted s t 1 ∧
    ∀ (rs : List LacunaRec) (r : LacunaRec), s.store.hole = rs ++ [r] → ∃ r' : LacunaRec, t.store.hole = rs ++ [r'] ∧
      r'.kcis = r.kcis.take written ∧ (written ≤ r.kcis.length + r.exts.length → r'.complete = false ∧
        r'.exts = r.exts.take (written - r.kcis.length))

/-- R425 to R427, R339, R58: at t0 the record of what was fetched and cached is written where the store has two slots for
it, with device time; the link is down and no command is fetched any more. -/
def failing (s t : State) : Prop :=
  t.power.mode = .failing ∧ t.power.t0 = some s.time.now ∧ t.power.linkUp = false ∧ t.power.nvmeReady = false ∧
  t.power.computeReady = false ∧ t.store.cur = some { kind := .powerFail } ∧ t.nvme = s.nvme ∧ t.cmds = s.cmds ∧
  (∀ place : List Nat, s.store.recordSlots = some place → t.time.recorded = some s.time.now ∧
    ∃ r : LacunaRec, t.store.hole = s.store.hole ++ [r] ∧ r.seq = s.store.lacSeq + 1 ∧ r.time = s.time.now ∧ r.complete = true ∧
      r.exts = s.extents ∧ r.kcis = s.cmds.map s.kciEntry ∧ r.place = place)

/-- R425. -/
def powerFail : Prop := ∀ s : State, s.power.mode = .running ∨ s.power.mode = .perst →
  ∃ t : State, exec .powerFail s = .next t ∧ failing s t ∧ t.power.rail12 = false ∧ t.power.byPwrdis = s.power.byPwrdis

/-- R469: PWRDIS acts as a loss of the 12 V rail. -/
def pwrdisAssert : Prop := ∀ s : State, s.power.mode = .running ∨ s.power.mode = .perst →
  ∃ t : State, exec .pwrdisAssert s = .next t ∧ failing s t ∧ t.power.pwrdisPin = true ∧ t.power.byPwrdis = true

/-! ### PERST#, the start and the resets of functions -/

/-- R416, R415: PERST# stops the cores: no command is left, every context is CLOSED with nothing mapped, the configuration is
at its reset value; the write cache stays. -/
def perstAssert : Prop := ∀ s : State, s.power.mode = .running → s.power.recovering.contains 2 = false →
  ∃ t : State, exec .perstAssert s = .next t ∧ t.power.mode = .perst ∧ t.power.perstPin = true ∧ t.power.linkUp = false ∧
    t.power.computeReady = false ∧ t.cmds = [] ∧ (∀ n : Nat, (t.ctx n).state = 0 ∧ (t.ctx n).handles = [] ∧ (t.ctx n).queues = []) ∧
    t.nvme.cache.map (·.id) = s.nvme.cache.map (·.id) ∧ t.nvme.ns = s.nvme.ns ∧ t.peer.valid = false ∧ t.ledger.period = s.ledger.period

/-- R422, R58, R62, R424: after the deassertion of PERST# the drive runs, with the cause of the reset; the link is up and no
controller is ready yet; device time runs, every region is LOCKED, the hold-up check runs. -/
def started (t : State) (cause : Nat) (refclk : Bool) : Prop :=
  t.power.mode = .running ∧ t.power.perstPin = false ∧ t.power.commonClock = refclk ∧ t.power.linkUp = true ∧
  t.power.resetCause = cause ∧ t.power.nvmeReady = false ∧ t.power.computeReady = false ∧ t.power.checkRunning = true ∧
  t.power.checkDone = false ∧ t.time.running = true ∧ (∀ r : Nat, r < 42 → (t.region r).lock = 2)

/-- R422, R472. -/
def perstDeassert : Prop := ∀ (refclk : Bool) (s : State),
  (s.power.mode = .powerOnReset → ∃ t : State, exec (.perstDeassert refclk) s = .next t ∧ started t s.power.resetCause refclk ∧
    t.peer.incarnation = (s.peer.incarnation + 1) % 2 ^ 32) ∧
  (s.power.mode = .perst → s.power.recovering.contains 2 = false → ∃ t : State, exec (.perstDeassert refclk) s = .next t ∧
    started t 2 refclk ∧ t.peer.incarnation = (s.peer.incarnation + 1) % 2 ^ 32)

/-- R422 step 8. -/
def controllerEnable : Prop := ∀ (fn : Nat) (s : State), s.linked = true → fn < 256 → (fn = 0 ∨ s.power.nvmeReady = true) →
  ∃ t : State, exec (.controllerEnable fn) s = .next t ∧ (t.ctl fn).enabled = true ∧ (t.ctl fn).ready = true ∧
    t.power = { s.power with nvmeReady := true } ∧ (∀ m : Nat, m ≠ fn → t.ctl m = s.ctl m)

/-- R280, R422 step 11: after the hold-up check the drive is ready for compute; the boot slot that was tried is confirmed,
and the fused minimum never falls. -/
def computeReady : Prop := ∀ s : State, s.linked = true → s.power.nvmeReady = true → s.power.checkDone = true →
  s.power.computeReady = false → ∃ t : State, exec .computeReady s = .next t ∧ t.power = { s.power with computeReady := true } ∧
    s.store.minSvn ≤ t.store.minSvn ∧ (s.store.slot s.store.runningB = 3 → t.store.slot s.store.runningB = 4 ∧ t.store.slot (!s.store.runningB) = 1) ∧
    (s.store.slot s.store.runningB ≠ 3 → t.store = s.store)

/-- What every reset of a controller leaves of it (Table 16-4): nothing is fetched, and it is disabled without queues. -/
def ctlCleared (t : State) (fn : Nat) : Prop :=
  (t.ctl fn).enabled = false ∧ (t.ctl fn).ready = false ∧ (t.ctl fn).sqs = [] ∧ (t.ctl fn).cqs = [] ∧
  ∀ o ∈ t.nvme.outstanding, o.1.fn ≠ fn

/-- R414, R324, R369: CC.EN cleared: the function's fetched commands go into its abort list; its features stay, and so does
every context. -/
def controllerReset : Prop := ∀ (fn : Nat) (s : State), s.linked = true → fn < 256 →
  ∃ t : State, exec (.controllerReset fn) s = .next t ∧ ctlCleared t fn ∧ (t.ctl fn).feats = (s.ctl fn).feats ∧
    (t.ctl fn).aborts = (s.ctl fn).aborts ++ (s.nvme.outstanding.filter (fun o => o.1.fn == fn)).map (s.nvmeAbortEnt 2) ∧
    t.nvme.cache.map (·.id) = s.nvme.cache.map (·.id) ∧ t.ctxs = s.ctxs

/-- R367: an FLR of a virtual function clears its controller whole and latches the reset of its own context alone. -/
def flrVf : Prop := ∀ (fn : Nat) (s : State), s.linked = true → fn < 256 → fn ≠ 0 →
  ∃ t : State, exec (.flr fn) s = .next t ∧ ctlCleared t fn ∧ (t.ctl fn).feats = [] ∧ (t.ctx fn).state = 3 ∧
    (∀ n : Nat, n ≠ fn → t.ctx n = s.ctx n) ∧ t.errs = s.errs

/-- R367: an FLR of the PF latches the reset of every context, and clears the Select registers. -/
def flrPf : Prop := ∀ s : State, s.linked = true →
  ∃ t : State, exec (.flr 0) s = .next t ∧ ctlCleared t 0 ∧ (∀ c ∈ s.ctxs, (t.ctx c.1).state = 3) ∧ t.errs.selLo = 0 ∧
    t.errs.window = none ∧ t.ledger.ackLo = 0 ∧ t.ledger.recWin = none ∧ t.ledger.ring = s.ledger.ring

/-- R323: an announced shutdown is complete at once when nothing is cached, and a device time record is then due; otherwise it
is under way. -/
def shutdownNotification : Prop := ∀ (fn : Nat) (abrupt : Bool) (s : State), s.linked = true → fn < 256 → (s.ctl fn).enabled = true →
  ∃ t : State, exec (.shutdownNotification fn abrupt) s = .next t ∧
    (s.nvme.cache = [] → s.nvme.waiting = [] → (t.ctl fn).shutdown = 2 ∧ { kind := .timeRecord } ∈ t.store.queue) ∧
    (s.nvme.cache ≠ [] → (t.ctl fn).shutdown = 1 ∧ t.store = s.store)

/-- R47: a lost link stops the fetching: the link is down, no controller is enabled, the write cache stays. -/
def hostLinkLoss : Prop := ∀ s : State, s.linked = true →
  ∃ t : State, exec .hostLinkLoss s = .next t ∧ t.power = { s.power with linkUp := false } ∧
    (∀ fn : Nat, ctlCleared t fn) ∧ t.nvme.cache.map (·.id) = s.nvme.cache.map (·.id) ∧
    (∀ c ∈ t.cmds, c.inTile = true ∧ c.status = none)

/-- R47: when the link returns every context is reset. -/
def hostLinkReturn : Prop := ∀ s : State, s.live = true → s.power.linkUp = false →
  ∃ t : State, exec .hostLinkReturn s = .next t ∧ t.power = { s.power with linkUp := true } ∧
    ∀ c ∈ s.ctxs, (t.ctx c.1).state = 3

/-! ### Recoveries of a die (R419 to R421) -/

/-- R419, R434: a recovery begins with its record, and is counted; it is refused while the die or C recovers. The third within
24 h of power-on time brings the failed state (R421). -/
def recoveryBegins (c : Instr) (s : State) (d : Nat) : Prop := s.power.mode = .running → d ≤ 3 →
  s.power.recovering.contains d = false → s.power.recovering.contains 2 = false →
  ∃ t : State, exec c s = .next t ∧ t.power.recovering = s.power.recovering ++ [d] ∧
    t.power.recoveries = s.power.recoveries ++ [(d, s.power.onTime)] ∧ t.power.mode = .running ∧
    (3 ≤ t.power.recent d → t.power.failed = true) ∧ (t.power.recent d < 3 → t.power.failed = s.power.failed) ∧
    (d = 2 → t.power.linkUp = false ∧ t.power.computeReady = false ∧ (t.power.recent d < 3 → t.cmds = []))

def dieRecoveryStart : Prop := ∀ (d cause : Nat) (s : State), recoveryBegins (.dieRecoveryStart d cause) s d
def housekeepingReportTimeout : Prop := ∀ (d : Nat) (s : State), recoveryBegins (.housekeepingReportTimeout d) s d
def kerilWatchdogExpiry : Prop := ∀ s : State, recoveryBegins .kerilWatchdogExpiry s 2

/-- Table 16-5: a matrix die or F works again; the end of a recovery of C is a start with cause 3. -/
def dieRecoveryDone : Prop := ∀ (d : Nat) (s : State), s.power.recovering.contains d = true → s.power.failed = false →
  (d ≠ 2 → ∃ t : State, exec (.dieRecoveryDone d) s = .next t ∧
    t.power = { s.power with recovering := s.power.recovering.filter (fun x => x != d) }) ∧
  (d = 2 → s.power.mode = .running → ∃ t : State, exec (.dieRecoveryDone d) s = .next t ∧ started t 3 s.power.commonClock ∧
    t.power.recovering.contains 2 = false)

/-- R421: a recovery that overruns leaves the drive in the failed state. -/
def dieRecoveryOverrun : Prop := ∀ (d : Nat) (s : State), s.power.recovering.contains d = true →
  ∃ t : State, exec (.dieRecoveryOverrun d) s = .next t ∧ t.power.failed = true ∧ t.power.recovering = s.power.recovering

end Sys2Proof.Claims

/-- R45, R470, R471: the rows of the auxiliary rail, of SMBRST# and of LED. -/
def Obligations.AuxiliaryIsland : Prop :=
  Claims.auxRailValid ∧ Claims.auxRailPins ∧ Claims.auxiliaryRailLoss ∧ Claims.smbrst ∧ Claims.ledToggle

/-- R414, R430, R469, R34: every power-on reset leaves what Tables 16-7 and 18-2 keep, and nothing else. -/
def Obligations.PowerOnResets : Prop :=
  Claims.powerOnReset ∧ Claims.railsWhileFailing ∧ Claims.powerFailRecordDone ∧ Claims.pwrdisDeassert ∧ Claims.holdUpEnergyExhausted

/-- R425, R469: what a power failure does at t0. -/
def Obligations.PowerFailures : Prop := Claims.powerFail ∧ Claims.pwrdisAssert

/-- R416, R422: what PERST# stops, the start that its deassertion makes, and its two steps: NVMe ready and compute ready. -/
def Obligations.PerstAndStart : Prop := Claims.perstAssert ∧ Claims.perstDeassert ∧ Claims.controllerEnable ∧ Claims.computeReady

/-- R414, R367, R323, R47: the resets of functions, the shutdown, the host link. -/
def Obligations.FunctionResets : Prop :=
  Claims.controllerReset ∧ Claims.flrVf ∧ Claims.flrPf ∧ Claims.shutdownNotification ∧ Claims.hostLinkLoss ∧ Claims.hostLinkReturn

/-- R419 to R421: the recoveries of a die. -/
def Obligations.DieRecoveries : Prop :=
  Claims.dieRecoveryStart ∧ Claims.housekeepingReportTimeout ∧ Claims.kerilWatchdogExpiry ∧ Claims.dieRecoveryDone ∧ Claims.dieRecoveryOverrun

/-! ### Temperatures, voltages and the hold-up bank (chapters 3, 16) -/

namespace Sys2Proof.Claims

/-- The error log has room for a record: no full staging buffer stands in the way (R434). -/
def logRoom (s : State) : Prop := s.errs.staging.length < 256

/-- An error stands in the log after a command: in a record of its own, or in the newest record, which it joined (R431, R433). -/
def logged (t : State) (a : ErrArg) : Prop := ∃ r ∈ t.errs.staging ++ t.errs.ring,
  r.cls = a.cls ∧ r.kind = a.kind ∧ r.ctx = a.ctx ∧ r.unit = a.unit ∧ r.status = a.status

/-- R411: the sample becomes the temperatures of the regions and packages it gives; each level is entered at its bound, in
sixteenths of a °C: 95, 105 and, after 1 ms, 115 °C of a junction, 85 and 90 °C of a NAND package. A rise from none is counted. -/
def thermalSample : Prop := ∀ (tj tn : List Int) (s : State), s.live = true →
  ∃ t : State, exec (.thermalSample tj tn) s = .next t ∧
    (∀ r : Nat, r < 42 → (t.region r).tj = tj.getD r (s.region r).tj) ∧
    (∀ k : Nat, k < 32 → tget 0 t.power.tn k = tn.getD k (tget 0 s.power.tn k)) ∧
    (1520 ≤ t.maxTj → 1 ≤ t.power.thermal) ∧ (1680 ≤ t.maxTj ∨ 1360 ≤ t.maxTn → 2 ≤ t.power.thermal) ∧
    (1440 ≤ t.maxTn → t.power.thermal = 3) ∧
    (∀ x : Nat, s.power.hotSince = some x → x + 1000000 ≤ s.time.now → 1840 ≤ t.maxTj → t.power.thermal = 3) ∧
    (s.power.thermal = 0 → 0 < t.power.thermal → t.power.tm1 = satAdd 32 s.power.tm1 1) ∧
    (0 < s.power.thermal ∨ t.power.thermal = 0 → t.power.tm1 = s.power.tm1)

/-- A condition that a timer follows has held for 100 ms. -/
def held100 (since : Option Nat) (now : Nat) : Prop := ∃ x : Nat, since = some x ∧ x + 100000000 ≤ now

/-- R411: emergency and throttle are left once their leave conditions have held for 100 ms and no higher level is entered, and
not before. -/
def thermalLevelExit : Prop := ∀ s : State, s.live = true →
  ∃ t : State, exec .thermalLevelExit s = .next t ∧ t.power.critical = s.power.critical ∧ t.power.thermal = t.power.level ∧
    (s.power.critical = false → held100 s.power.coolSince s.time.now → t.power.emergency = false) ∧
    (s.power.critical = true ∨ ¬ held100 s.power.coolSince s.time.now → t.power.emergency = s.power.emergency) ∧
    (t.power.critical = false → t.power.emergency = false → held100 s.power.calmSince s.time.now → t.power.throttled = false) ∧
    (t.power.critical = true ∨ t.power.emergency = true ∨ ¬ held100 s.power.calmSince s.time.now → t.power.throttled = s.power.throttled)

/-- R409: each rail moves by at most one 5 mV step, and never away from its target or past it. -/
def voltageRampStep : Prop := ∀ s : State, s.live = true →
  ∃ t : State, exec .voltageRampStep s = .next t ∧ ∀ (d : Nat) (r : Rail), tfind s.power.rails d = some r →
    ∃ r' : Rail, tfind t.power.rails d = some r' ∧ r'.target = r.target ∧ (r.cur = r.target → r'.cur = r.cur) ∧
      (r.cur < r.target → r.cur < r'.cur ∧ r'.cur ≤ r.cur + 5 ∧ r'.cur ≤ r.target) ∧
      (r.target < r.cur → r'.cur < r.cur ∧ r.cur ≤ r'.cur + 5 ∧ r.target ≤ r'.cur)

/-- R429: a check of the bank runs; a second one is not started. -/
def holdupCheck : Prop := ∀ s : State, s.live = true →
  exec .holdupCheck s = .next { s with power := { s.power with checkRunning := true } }

/-- R429, Table 18-4. -/
def pwrHoldupCheckStart : Prop := ∀ (v : BitVec 32) (s : State), s.globalOpen = true → bit v.toNat 0 = true →
  exec (.pwrHoldupCheckStart v) s = .next { s with power := { s.power with checkRunning := true } }

/-- R34, R429: of a discharge by 4 W through 136 V² in Δt µs, C_b = 4 Δt / 136 µF; the bank has failed when 0.9 × ½ C_b × 1,081 V²
is below 320 mJ. The failure is bit 4 of the SMART critical warning, and a POWER record. -/
def holdupCheckDone : Prop := ∀ (dt : Nat) (s : State), s.live = true → s.power.checkRunning = true → logRoom s →
  ∃ t : State, exec (.holdupCheckDone dt) s = .next t ∧ t.power.checkRunning = false ∧ t.power.checkDone = true ∧
    t.power.holdCap = min (4 * dt / 136) 65535 ∧
    (t.power.bankFailed = true ↔ 9 * 1081 * (4 * dt) < 20 * 136 * 320000) ∧
    (bit t.critical 4 = t.power.bankFailed) ∧ (t.power.bankFailed = true → logged t { cls := 0x51, kind := 2 }) ∧
    (t.power.bankFailed = false → t.errs = s.errs)

/-- R337: a wake returns to the last operational state. -/
def lowPowerWake : Prop := ∀ s : State, s.live = true → 4 ≤ s.power.pstate →
  ∃ t : State, exec .lowPowerWake s = .next t ∧ t.power.pstate = s.power.lastOp ∧ t.power.lowPending = none

/-- R336: a requested low-power state is entered once the write cache is clean, and not before. -/
def lowPowerEntry : Prop := ∀ (ps : Nat) (s : State), s.live = true → s.power.lowPending = some ps →
  (s.nvme.cache = [] → s.nvme.waiting = [] → ∃ t : State, exec .lowPowerEntry s = .next t ∧ t.power.pstate = ps ∧
    t.power.lowPending = none ∧ (4 ≤ ps → t.power.lastOp = s.power.lastOp)) ∧
  (s.nvme.cache ≠ [] → exec .lowPowerEntry s = .next s)

/-- R338: the idle time of the table's entry has passed in an operational state: the state it names is requested. -/
def apstIdleExpiry : Prop := ∀ s : State, s.live = true → s.nvme.apst = true → s.power.pstate ≤ 3 → s.isIdle = true →
  (s.nvme.apstTable.getD s.power.pstate (0, 0)).2 ≠ 0 →
  s.nvme.idleSince + (s.nvme.apstTable.getD s.power.pstate (0, 0)).2 * 1000000 ≤ s.time.now →
  exec .apstIdleExpiry s = .next { s with power := { s.power with
    lowPending := some (s.nvme.apstTable.getD s.power.pstate (0, 0)).1 } }

/-! ### Device time and beacons (chapter 3) -/

/-- R57, R34: device time and power-on time grow by 20 ns. -/
def crystalPeriod : Prop := ∀ s : State, s.ticking = true →
  exec .crystalPeriod s = .next { s with
    time := { s.time with now := s.time.now + 20 }, power := { s.power with onTime := s.power.onTime + 20 } }

/-- R58: a device time record becomes due. -/
def deviceTimeRecord : Prop := ∀ s : State, s.live = true → s.store.queue.contains { kind := .timeRecord } = false →
  exec .deviceTimeRecord s = .next { s with store := { s.store with queue := s.store.queue ++ [{ kind := .timeRecord }] } }

/-- R59, R62, R63: a beacon leaves every 1,024 ns; until a region receives it the region has missed it. -/
def beaconSend : Prop := ∀ s : State, s.ticking = true → s.time.beacon + 1024 ≤ s.time.now →
  ∃ t : State, exec .beaconSend s = .next t ∧ t.time.beacon = s.time.beacon + 1024 ∧ t.time.now = s.time.now ∧
    ∀ r : Nat, r < 42 → t.region r = { s.region r with
      missed := satAdd 32 (s.region r).missed 1
      heldFor := (s.region r).heldFor + (if (s.region r).lock = 3 then 1 else 0) }

/-- R59. -/
def beaconPathMeasure : Prop := ∀ (r d : Nat) (s : State), s.ticking = true → r < 42 →
  ∃ t : State, exec (.beaconPathMeasure r d) s = .next t ∧ t.region r = { s.region r with delay16 := d } ∧
    ∀ m : Nat, m ≠ r → t.region m = s.region m

/-- How late a region's time is when device time b reaches it: b and the path delay less the region time, in 2^-26 ns (R60). -/
def beaconError (s : State) (r b : Nat) : Int := (b * 2 ^ 26 + (s.region r).delay16 * 2 ^ 22 : Nat) - ((s.region r).time : Int)

/-- R60, Table 3-3: no beacon sets a region time back. An UNLOCKED region begins to acquire, eight beacons within 16 ns lock it,
an error above 64 ns unlocks it, and a region in HOLDOVER locks again within 16 ns. -/
def beaconReceive : Prop := ∀ (r b : Nat) (s : State), s.ticking = true → r < 42 → b ≤ s.time.now → (s.region r).osc ≠ 2 →
  ∃ t : State, exec (.beaconReceive r b) s = .next t ∧ (∀ m : Nat, m ≠ r → t.region m = s.region m) ∧
    (s.region r).time ≤ (t.region r).time ∧ (t.region r).ticks = 0 ∧ (t.region r).missed = 0 ∧ (t.region r).heldFor = 0 ∧
    ((s.region r).lock = 0 → (t.region r).lock = 1 ∧
      (0 < beaconError s r b → (t.region r).time = b * 2 ^ 26 + (s.region r).delay16 * 2 ^ 22)) ∧
    ((s.region r).lock = 1 → (beaconError s r b).natAbs ≤ 16 * 2 ^ 26 →
      (7 ≤ (s.region r).good → (t.region r).lock = 2) ∧ ((s.region r).good < 7 → (t.region r).lock = 1 ∧ (t.region r).good = (s.region r).good + 1)) ∧
    ((s.region r).lock = 1 → 16 * 2 ^ 26 < (beaconError s r b).natAbs → (t.region r).lock = 1 ∧ (t.region r).good = 0) ∧
    ((s.region r).lock = 2 → ((t.region r).lock = 1 ↔ 64 * 2 ^ 26 < (beaconError s r b).natAbs)) ∧
    ((s.region r).lock = 3 → (beaconError s r b).natAbs ≤ 16 * 2 ^ 26 → (t.region r).lock = 2) ∧
    ((s.region r).lock ≠ 0 → (beaconError s r b).natAbs ≤ 1024 * 2 ^ 26 →
      (t.region r).time = (s.region r).time ∧ (t.region r).slew = max (-4194304) (min 4194304 (beaconError s r b / 1024)))

/-- R62, R439: at the fourth missed beacon a LOCKED region holds over, and counts it. -/
def beaconMissLimit : Prop := ∀ (r : Nat) (s : State), s.ticking = true → r < 42 → (s.region r).lock = 2 → (s.region r).osc ≠ 2 →
  (4 ≤ (s.region r).missed → ∃ t : State, exec (.beaconMissLimit r) s = .next t ∧ (t.region r).lock = 3 ∧
    (t.region r).holdovers = satAdd 32 (s.region r).holdovers 1 ∧ ∀ m : Nat, m ≠ r → t.region m = s.region m) ∧
  ((s.region r).missed < 4 → exec (.beaconMissLimit r) s = .next s)

/-- R63: more than 64 beacon periods of HOLDOVER are a TIME error of the region. -/
def holdoverTimeout : Prop := ∀ (r : Nat) (s : State), s.ticking = true → (s.region r).lock = 3 → 64 < (s.region r).heldFor →
  logRoom s → ∃ t : State, exec (.holdoverTimeout r) s = .next t ∧ logged t { cls := 0x42, kind := 2, unit := unitOf 0xA r }

/-- R433, by a HOLDOVER error: within 1 ms of the newest record an error that joins it raises its repeat count, and makes no
record. -/
def errorMerged : Prop := ∀ (r : Nat) (rs : List ErrRec) (x : ErrRec) (s : State), s.ticking = true → (s.region r).lock = 3 →
  64 < (s.region r).heldFor → s.errs.staging = rs ++ [x] → x.cls = 0x42 → x.kind = 2 → x.ctx = 0xFFFF → x.unit = unitOf 0xA r →
  x.status = 0 → s.time.now ≤ s.errs.lastAt + 1000000 →
  ∃ t : State, exec (.holdoverTimeout r) s = .next t ∧ t.errs = { s.errs with
    staging := rs ++ [{ x with repeats := satAdd 16 x.repeats 1 }], lastAt := s.time.now }

/-- R431, R465, by a HOLDOVER error: any other error makes a record of its own, with the next number and the device time, and
raises NEW; its interrupt is signalled when NEW rises and ERR_IRQ_VEC enables it. -/
def errorRecorded : Prop := ∀ (r : Nat) (s : State), s.ticking = true → (s.region r).lock = 3 → 64 < (s.region r).heldFor →
  logRoom s → s.errs.lastAt + 1000000 < s.time.now →
  ∃ t : State, exec (.holdoverTimeout r) s = .next t ∧ t.errs.next = s.errs.next + 1 ∧ t.errs.isNew = true ∧
    (∃ x : ErrRec, t.errs.staging = s.errs.staging ++ [x] ∧ x.seq = s.errs.next ∧ x.time = s.time.now ∧ x.cls = 0x42 ∧ x.repeats = 0) ∧
    t.mgmt.msix = s.mgmt.msix ++
      (if s.errs.isNew = false ∧ bit s.errs.vec.toNat 31 = true then [(0, s.errs.vec.toNat % 512)] else [])

/-- R434: an error that finds the staging buffer full, and joins no record, is counted; that nothing else of it is
kept is the model's (assumption log 9). -/
def errorDropped : Prop := ∀ (r : Nat) (s : State), s.ticking = true → (s.region r).lock = 3 → 64 < (s.region r).heldFor →
  256 ≤ s.errs.staging.length → s.errs.lastAt + 1000000 < s.time.now →
  (∀ x ∈ s.errs.staging, x.unit ≠ unitOf 0xA r) →
  ∃ t : State, exec (.holdoverTimeout r) s = .next t ∧ t.errs = { s.errs with dropped := satAdd 32 s.errs.dropped 1 }

/-- R60, R61: every local tick moves a region's time forward; a region that follows its beacons adds its period estimate and its
slew share. -/
def localTick : Prop := ∀ (r : Nat) (s : State), s.ticking = true → r < 42 →
  ∃ t : State, exec (.localTick r) s = .next t ∧ (s.region r).time < (t.region r).time ∧
    (t.region r).ticks = (s.region r).ticks + 1 ∧ (∀ m : Nat, m ≠ r → t.region m = s.region m) ∧ t.time.now = s.time.now ∧
    ((s.region r).osc ≠ 2 → 0 < (s.region r).period + (s.region r).slew →
      ((t.region r).time : Int) = (s.region r).time + (s.region r).period + (s.region r).slew) ∧
    ((s.region r).osc = 2 → r ≠ housekeeping r → (s.region (housekeeping r)).time ≤ (t.region r).time)

/-! ### The oscillator and margin watches (R67 to R73) -/

/-- R67, R68, Table 3-4: a breach switches to the spare, and a second one to the housekeeping region of the die; it is logged,
and a test of the region is due. Within the limits nothing happens. That the second switch leaves the region LOCKED, and is not
counted, is the model's (assumption log 31). -/
def oscillatorWatch : Prop := ∀ (r duty jitter ticks : Nat) (s : State), s.ticking = true → r < 42 → (s.region r).osc < 2 →
  (duty < 45 ∨ 55 < duty ∨ 20 < jitter ∨ ticks < 993 ∨ 1055 < ticks → logRoom s →
    ∃ t : State, exec (.oscillatorWatch r duty jitter ticks) s = .next t ∧ (t.region r).osc = (s.region r).osc + 1 ∧
      ((s.region r).osc = 0 → (t.region r).lock = 0 ∧ (t.region r).switches = satAdd 32 (s.region r).switches 1) ∧
      (∃ x ∈ t.tests, x.kind = 0xA ∧ x.index = r) ∧ logged t { cls := 0x41, kind := 2, unit := unitOf 0xA r }) ∧
  (45 ≤ duty → duty ≤ 55 → jitter ≤ 20 → 993 ≤ ticks → ticks ≤ 1055 → exec (.oscillatorWatch r duty jitter ticks) s = .next s)

/-- Table 3-5: what a sample of the slack in sixty-fourths does: 12/64 or more nothing; 8/64 a warning and a request for 5 mV;
4/64 one sixteenth of stretch, up to eight, and the request; below that the full stretch, a record and a test. -/
def marginSample : Prop := ∀ (r slack : Nat) (s : State), s.ticking = true → r < 42 → slack ≤ 64 →
  ∃ t : State, exec (.marginSample r slack) s = .next t ∧ (t.region r).slack = slack ∧ (∀ m : Nat, m ≠ r → t.region m = s.region m) ∧
    (12 ≤ slack → (t.region r).stretch = (s.region r).stretch ∧ t.power = s.power ∧ t.errs = s.errs ∧ t.tests = s.tests) ∧
    (8 ≤ slack → slack < 12 → (t.region r).warns = satAdd 32 (s.region r).warns 1 ∧ (t.region r).stretch = (s.region r).stretch ∧
      t.errs = s.errs) ∧
    (4 ≤ slack → slack < 8 → (s.region r).stretch ≤ 8 → (t.region r).stretch = min ((s.region r).stretch + 1) 8 ∧ t.errs = s.errs) ∧
    (slack < 4 → (s.region r).stretch ≤ 8 → (t.region r).stretch = 8 ∧ (∃ x ∈ t.tests, x.kind = 0xA ∧ x.index = r) ∧
      (logRoom s → logged t { cls := 0x40, kind := 2, unit := unitOf 0xA r }))

/-- R70: after 1,024 samples at 16/64 or more, and with the raises of the die complete, one sixteenth of stretch goes. -/
def stretchRelease : Prop := ∀ (r : Nat) (s : State), s.ticking = true → r < 42 → 1024 ≤ (s.region r).calm →
  0 < (s.region r).stretch → s.railSettled (regionDie r) = true →
  ∃ t : State, exec (.stretchRelease r) s = .next t ∧ t.region r = { s.region r with stretch := (s.region r).stretch - 1, calm := 0 } ∧
    ∀ m : Nat, m ≠ r → t.region m = s.region m

/-- R73: sixteen samples below 4/64 at the full stretch retire the array of the region; a region without an array brings its
die into recovery. -/
def lastingMarginFault : Prop := ∀ (r : Nat) (s : State), s.ticking = true → r < 42 → 16 ≤ (s.region r).low →
  (∀ a : Nat, regionArray r = some a → ∃ t : State, exec (.lastingMarginFault r) s = .next t ∧ (t.arr a).state = 2 ∧
    (logRoom s → (s.arr a).state = 2 → logged t { cls := 0x40, kind := 2, unit := unitOf 0xA r })) ∧
  (regionArray r = none → s.power.mode = .running → s.power.recovering.contains (regionDie r) = false →
    s.power.recovering.contains 2 = false →
    ∃ t : State, exec (.lastingMarginFault r) s = .next t ∧ t.power.recovering = s.power.recovering ++ [regionDie r])

/-! ### The monitors (R439, R440, R467) -/

/-- R439, R56: the readings of every region are those of this moment; an array that holds a tile below 1.000 G steps/s is a
breach, which is counted and is an emergency. -/
def monitorRefresh : Prop := ∀ (rates : List Nat) (s : State), s.ticking = true →
  ∃ t : State, exec (.monitorRefresh rates) s = .next t ∧
    (∀ r : Nat, r < 42 → (t.region r).monTj = (s.region r).tj ∧ (t.region r).monLock = (s.region r).lock ∧
      (t.region r).monStretch = (s.region r).stretch ∧ (t.region r).monSlack = (s.region r).slack ∧
      (t.region r).monRate = (match regionArray r with | some a => rates.getD a 0 | none => 0)) ∧
    (∀ a : Nat, a < 16 → (s.arr a).slots ≠ [] → 0 < rates.getD a 0 → rates.getD a 0 < 1000 →
      t.power.emergency = true ∧ 2 ≤ t.power.thermal ∧
      (t.region (arrRegion a)).breaches = satAdd 32 (s.region (arrRegion a)).breaches 1)

/-- R440, R467, R412: the draws are stored, and the composite temperature is the higher of Tn and of Tj less 20 °C. -/
def powerMonitorRefresh : Prop := ∀ (draws : List Nat) (s : State), s.live = true →
  ∃ t : State, exec (.powerMonitorRefresh draws) s = .next t ∧
    (∀ k : Nat, k < 8 → tget 0 t.power.draws k = draws.getD k 0 % 2 ^ 24) ∧ t.power.monTn = s.power.tn ∧
    t.power.monComposite = ((max s.maxTn (s.maxTj - 20 * 16) + 273 * 16) / 16).toNat

end Sys2Proof.Claims

/-- R336 to R338, R409, R411, R412: the thermal levels, the rails and the power states. -/
def Obligations.HeatAndPowerStates : Prop :=
  Claims.thermalSample ∧ Claims.thermalLevelExit ∧ Claims.voltageRampStep ∧ Claims.lowPowerWake ∧ Claims.lowPowerEntry ∧ Claims.apstIdleExpiry

/-- R34, R429: the hold-up bank. -/
def Obligations.HoldUpBank : Prop := Claims.holdupCheck ∧ Claims.pwrHoldupCheckStart ∧ Claims.holdupCheckDone

/-- R57 to R63: device time, the beacons and the region times. -/
def Obligations.TimeAndBeacons : Prop :=
  Claims.crystalPeriod ∧ Claims.deviceTimeRecord ∧ Claims.beaconSend ∧ Claims.beaconPathMeasure ∧ Claims.beaconReceive ∧
  Claims.beaconMissLimit ∧ Claims.holdoverTimeout ∧ Claims.localTick

/-- R431, R433, R434, R439, R440, R467: the error log, and the monitors. -/
def Obligations.ErrorRecordsAndMonitors : Prop := Claims.errorRecorded ∧ Claims.errorMerged ∧ Claims.errorDropped ∧
  Claims.monitorRefresh ∧ Claims.powerMonitorRefresh

/-- R67 to R73: the oscillator and margin watches. -/
def Obligations.Watches : Prop := Claims.oscillatorWatch ∧ Claims.marginSample ∧ Claims.stretchRelease ∧ Claims.lastingMarginFault


/-! ### The mailbox page of a context (chapter 14) -/

namespace Sys2Proof.Claims

/-- R365, R366: the context faults: its state, the status and the count; every pending command of it has ended with CTX_FAULTED;
no other context and no command of one changes. -/
def contextFaults (c : Instr) (s : State) (n st : Nat) : Prop := ∃ t : State, exec c s = .next t ∧
  (t.ctx n).state = 2 ∧ (t.ctx n).faultStatus = st ∧ (t.ctx n).viol = satAdd 32 (s.ctx n).viol 1 ∧
  (∀ x ∈ s.cmds, x.e.ctx = n → x.status = none → ∃ y ∈ t.cmds, y.uid = x.uid ∧ y.status = some stCtxFaulted) ∧
  (∀ x ∈ s.cmds, x.e.ctx ≠ n → x ∈ t.cmds) ∧ ∀ m : Nat, m ≠ n → t.ctx m = s.ctx m

/-- R347, R352, R371: a submission tail within the ring makes the entries between the old tail and the new one available, in
order. -/
def kciSqTail : Prop := ∀ (n k tail : Nat) (es : List (List Byte)) (q : QueueSt) (s : State), s.kciOpen = true → n < 256 → k < 9 →
  (s.ctx n).state = 1 → tfind (s.ctx n).queues k = some q → q.closing = false → tail < q.entries →
  es.length = (tail + q.entries - q.tail) % q.entries → (∀ e ∈ es, e.length = 64) →
  (∀ (j : Nat) (x : QueueSt), tfind (s.ctx n).queues j = some x → ∀ raw : List Byte,
    (if j = k then q.avail ++ es else x.avail).head? = some raw → malformed raw = false) →
  ∃ t : State, exec (.kciSqTail n k tail es) s = .next t ∧
    tfind (t.ctx n).queues k = some { q with tail := tail, avail := q.avail ++ es } ∧
    (∀ j : Nat, j ≠ k → tfind (t.ctx n).queues j = tfind (s.ctx n).queues j) ∧ (∀ m : Nat, m ≠ n → t.ctx m = s.ctx m) ∧
    t.power.lowPending = none ∧ (4 ≤ s.power.pstate → t.power.pstate = s.power.lastOp)

/-- Table 14-7: a tail or a head at or above the size of the ring faults the context. -/
def doorbellOutside : Prop := ∀ (n k v : Nat) (es : List (List Byte)) (q : QueueSt) (s : State), s.kciOpen = true → n < 256 →
  (s.ctx n).state = 1 → tfind (s.ctx n).queues k = some q → q.closing = false → q.entries ≤ v → s.still → distinct s →
  (k < 9 → contextFaults (.kciSqTail n k v es) s n stCtxFaulted) ∧ (k < 10 → contextFaults (.kciCqHead n k v) s n stCtxFaulted)

/-- R347, R353: a completion head is stored; the interrupt-pending flag stays set, and the vector is signalled, while more
completions wait. -/
def kciCqHead : Prop := ∀ (n k head : Nat) (q : QueueSt) (s : State), s.kciOpen = true → n < 256 → k < 10 →
  (s.ctx n).state = 1 → tfind (s.ctx n).queues k = some q → q.closing = false → head < q.entries →
  ∃ t : State, exec (.kciCqHead n k head) s = .next t ∧
    tfind (t.ctx n).queues k = some { q with cqHead := head, irq := decide (head ≠ q.cqTail) } ∧
    (∀ j : Nat, j ≠ k → tfind (t.ctx n).queues j = tfind (s.ctx n).queues j) ∧ (∀ m : Nat, m ≠ n → t.ctx m = s.ctx m) ∧
    t.mgmt.msix = s.mgmt.msix ++ (if head = q.cqTail then [] else [(n, q.vector)])

/-- R349: bytes written into a free slot of an OPEN context stand there; the write that reaches byte 63 makes the slot busy, with
the next number. A write into a busy slot, or without a class-0 queue, is counted and discarded. -/
def class0SlotWrite : Prop := ∀ (n k off : Nat) (data : List Byte) (q : QueueSt) (s : State), s.kciOpen = true → n < 256 → k < 16 →
  data ≠ [] → off + data.length ≤ 64 → (s.ctx n).state = 1 → tfind (s.ctx n).queues 9 = some q → q.closing = false →
  let x := tget SlotSt.empty (s.ctx n).slots k
  (x.busy = false → off + data.length < 64 → ∃ (t : State) (y : SlotSt), exec (.class0SlotWrite n k off data) s = .next t ∧
    tfind (t.ctx n).slots k = some y ∧ y.busy = false ∧
    (∀ i : Nat, i < data.length → tget 0 y.buf (off + i) = data.getD i 0) ∧
    (∀ i : Nat, (i < off ∨ off + data.length ≤ i) → tget 0 y.buf i = tget 0 x.buf i) ∧
    (t.ctx n).queues = (s.ctx n).queues ∧ ∀ m : Nat, m ≠ n → t.ctx m = s.ctx m) ∧
  (x.busy = true → ∃ t : State, exec (.class0SlotWrite n k off data) s = .next t ∧
    t.ctx n = { s.ctx n with c0Discard := satAdd 32 (s.ctx n).c0Discard 1 })

/-- R349, R371: the write that covers byte 63 latches the entry. -/
def class0Latch : Prop := ∀ (n k : Nat) (data : List Byte) (q : QueueSt) (s : State), s.kciOpen = true → n < 256 → k < 16 →
  data.length = 64 → malformed data = false → (s.ctx n).state = 1 → tfind (s.ctx n).queues 9 = some q → q.closing = false →
  (tget SlotSt.empty (s.ctx n).slots k).busy = false →
  ∃ (t : State) (y : SlotSt), exec (.class0SlotWrite n k 0 data) s = .next t ∧ tfind (t.ctx n).slots k = some y ∧ y.busy = true ∧
    y.cid = s.nextId ∧ t.nextId = s.nextId + 1 ∧ (List.range 64).map (fun i => tget 0 y.buf i) = data

/-- R345, Table 14-4: ENABLE opens a CLOSED context whose control-queue registers are valid, with its control queue; otherwise
CTX_OPEN_ERR tells the cause and the context stays CLOSED. -/
def ctxEnableSet : Prop := ∀ (n : Nat) (s : State), s.kciOpen = true → n < 256 → (s.ctx n).state = 0 → s.sanitizing = false →
  s.power.failed = false → s.setHeld n = false →
  let c := s.ctx n
  ((c.ctlSq.toNat % 4096 = 0 ∧ c.ctlCq.toNat % 4096 = 0) → ringSizeOk (c.ctlSize.toNat % 65536) = true →
    c.ctlSize.toNat / 65536 < vectorsOf n → ∃ (t : State) (q : QueueSt), exec (.ctxEnableSet n) s = .next t ∧ (t.ctx n).state = 1 ∧
      (t.ctx n).enable = true ∧ (t.ctx n).openErr = 0 ∧ (t.ctx n).queues = [(0, q)] ∧ q.sq = c.ctlSq.toNat ∧ q.cq = c.ctlCq.toNat ∧
      q.entries = c.ctlSize.toNat % 65536 ∧ q.vector = c.ctlSize.toNat / 65536 ∧ q.phase = true ∧ q.head = 0 ∧ q.cqTail = 0 ∧
      ∀ m : Nat, m ≠ n → t.ctx m = s.ctx m) ∧
  (c.ctlSq.toNat % 4096 ≠ 0 ∨ c.ctlCq.toNat % 4096 ≠ 0 →
    ∃ t : State, exec (.ctxEnableSet n) s = .next t ∧ t.ctx n = { c with enable := true, openErr := 1 })

/-- R345, R367: ENABLE cleared closes an OPEN context that holds nothing, and resets it otherwise. -/
def ctxEnableClear : Prop := ∀ (n : Nat) (s : State), s.kciOpen = true → n < 256 → (s.ctx n).state = 1 →
  ((s.ctx n).queues.all (fun q => q.1 == 0) = true → (s.ctx n).handles = [] → s.pendingOf n = [] →
    ∃ t : State, exec (.ctxEnableClear n) s = .next t ∧ (t.ctx n).state = 0 ∧ (t.ctx n).enable = false ∧ (t.ctx n).queues = [] ∧
      (t.ctx n).events = [] ∧ ∀ m : Nat, m ≠ n → t.ctx m = s.ctx m) ∧
  ((s.ctx n).handles ≠ [] ∨ s.pendingOf n ≠ [] → ∃ t : State, exec (.ctxEnableClear n) s = .next t ∧ (t.ctx n).state = 3 ∧
    (t.ctx n).enable = false ∧ t.cmds = s.cmds ∧ ∀ m : Nat, m ≠ n → t.ctx m = s.ctx m)

/-- R367, Table 14-8 steps 1 to 3: a reset is latched; nothing of the context's commands stays staged. Its reset reason is 3. -/
def contextReset (c : Instr) (n : Nat) (s : State) : Prop := (s.ctx n).state ≠ 3 →
  ∃ t : State, exec c s = .next t ∧ t.ctx n = { s.ctx n with state := 3, resetReason := 3 } ∧ (∀ m : Nat, m ≠ n → t.ctx m = s.ctx m) ∧
    t.cmds = s.cmds ∧ (∀ (a : Nat) (u : Nat × Nat), (t.arr a).staged = some u → ∀ x ∈ s.pendingOf n, x.uid ≠ u.1)

def ctxControlReset : Prop := ∀ (n : Nat) (s : State), s.kciOpen = true → n < 256 → contextReset (.ctxControlReset n) n s

def ctxAdminReset : Prop := ∀ (n : Nat) (v : BitVec 32) (s : State), s.globalOpen = true → n < 256 → bit v.toNat 0 = true →
  contextReset (.ctxAdminReset n v) n s

/-- R368, Table 14-8 steps 4 to 6: once no pass of its commands is in an array the context is CLOSED, without queues, mappings,
events or pending commands, each of which has entered its function's abort list. -/
def contextResetComplete : Prop := ∀ (n : Nat) (s : State), (s.ctx n).state = 3 → s.calm →
  (∀ (a : Nat × ArraySt) (r : PassRec) (x : Cmd), a ∈ s.arrays → r ∈ a.2.inflight → x ∈ s.pendingOf n → r.uid ≠ x.uid) →
  ∃ t : State, exec (.contextResetComplete n) s = .next t ∧ (t.ctx n).state = 0 ∧ (t.ctx n).enable = false ∧
    (t.ctx n).policy = 0x100 ∧ (t.ctx n).queues = [] ∧ (t.ctx n).handles = [] ∧ (t.ctx n).events = [] ∧ (t.ctx n).slots = [] ∧
    (t.ctx n).partition = (s.ctx n).partition ∧ (∀ x ∈ t.cmds, x ∈ s.cmds ∧ x.e.ctx ≠ n) ∧
    (t.ctl n).aborts.length = (s.ctl n).aborts.length + (s.pendingOf n).length

/-- R348: CTX_POLICY takes the modes FULL, SAMPLED of 1 to 8 and OFF, and its STRICT and OVERFAIL bits. -/
def ctxPolicyWrite : Prop := ∀ (n : Nat) (v : BitVec 32) (s : State), s.kciOpen = true → n < 256 →
  (policyCause v.toNat = 0 → ∃ t : State, exec (.ctxPolicyWrite n v) s = .next t ∧
    t.ctx n = { s.ctx n with policy := v &&& 0xCF000300, policyErr := 0 } ∧ ∀ m : Nat, m ≠ n → t.ctx m = s.ctx m) ∧
  (policyCause v.toNat ≠ 0 → ∃ t : State, exec (.ctxPolicyWrite n v) s = .next t ∧
    t.ctx n = { s.ctx n with policyErr := BitVec.ofNat 32 (2 ^ 31 + policyCause v.toNat) })

/-! ### Registers (chapter 18) -/

/-- R9, R10: what REGISTER_WRITE does at the offset of a register that has a command of its own. -/
def registerRows : Prop := ∀ (v : BitVec 64) (s : State), s.kciOpen = true → s.globalOpen = true →
  (∀ (n k : Nat), n < 256 → k < 9 → exec (.registerWrite 0 (n * 0x1000 + 0x100 + 8 * k) 4 v) s = exec (.kciSqTail n k (v.toNat % 65536) []) s) ∧
  (∀ (n k : Nat), n < 256 → k < 10 → exec (.registerWrite 0 (n * 0x1000 + 0x104 + 8 * k) 4 v) s = exec (.kciCqHead n k (v.toNat % 65536)) s) ∧
  (∀ n : Nat, n < 256 → bit v.toNat 1 = true → exec (.registerWrite 0 (n * 0x1000 + 4) 4 v) s = exec (.ctxControlReset n) s) ∧
  (∀ n : Nat, n < 256 → bit v.toNat 1 = false → bit v.toNat 0 = true → exec (.registerWrite 0 (n * 0x1000 + 4) 4 v) s = exec (.ctxEnableSet n) s) ∧
  (∀ n : Nat, n < 256 → bit v.toNat 1 = false → bit v.toNat 0 = false → exec (.registerWrite 0 (n * 0x1000 + 4) 4 v) s = exec (.ctxEnableClear n) s) ∧
  (∀ n : Nat, n < 256 → exec (.registerWrite 0 (n * 0x1000 + 8) 4 v) s = exec (.ctxPolicyWrite n (v.setWidth 32)) s) ∧
  (∀ p : Nat, p < 8 → exec (.registerWrite 0 (partOff p 4) 4 v) s = exec (.partDramQuotaWrite p (v.setWidth 32)) s ∧
    exec (.registerWrite 0 (partOff p 8) 4 v) s = exec (.schedResvWrite p (v.setWidth 32)) s ∧
    exec (.registerWrite 0 (partOff p 0xC) 4 v) s = exec (.partExclClaim p (v.setWidth 32)) s ∧
    exec (.registerWrite 0 (0x104000 + 4 * p) 4 v) s = exec (.memT2QuotaWrite p (v.setWidth 32)) s) ∧
  (∀ n : Nat, n < 256 → exec (.registerWrite 0 (0x103000 + 0x10 * n) 4 v) s = exec (.ctxAssignWrite n (v.setWidth 32)) s) ∧
  (exec (.registerWrite 0 0x107048 4 v) s = exec (.secKeyEnroll (v.setWidth 32)) s ∧
    exec (.registerWrite 0 0x108004 4 v) s = exec (.peerGroupCfgSet (v.setWidth 32)) s ∧
    exec (.registerWrite 0 0x108008 4 v) s = exec (.peerBindWrite (v.setWidth 32)) s ∧
    exec (.registerWrite 0 0x10800C 4 v) s = exec (.peerProgressToWrite (v.setWidth 32)) s ∧
    exec (.registerWrite 0 0x109014 4 v) s = exec (.errSelHiWrite (v.setWidth 32)) s ∧
    exec (.registerWrite 0 0x109018 4 v) s = exec (.errIrqVecWrite (v.setWidth 32)) s ∧
    exec (.registerWrite 0 0x10A024 4 v) s = exec (.ledgSelHiWrite (v.setWidth 32)) s ∧
    exec (.registerWrite 0 0x10A030 4 v) s = exec (.ledgCtxSelWrite (v.setWidth 32)) s ∧
    exec (.registerWrite 0 0x10A01C 4 v) s = exec (.ledgAckWrite (v.setWidth 32)) s ∧
    exec (.registerWrite 0 0x10A000 4 v) s = exec (.ledgPeriodWrite (v.setWidth 32)) s)

/-- R346, R451, R455, R463, R465: registers that no other command writes, and the 8-byte write of a pair, which joins its two
halves as its high half is written. -/
def registerWrite : Prop := ∀ (v : BitVec 64) (s : State), s.kciOpen = true → s.globalOpen = true →
  (∃ t : State, exec (.registerWrite 0 0x100008 4 v) s = .next t ∧ t.mgmt.cfgErr = s.mgmt.cfgErr &&& ~~~(v.setWidth 32 &&& 0xC0000000)) ∧
  (∃ t : State, exec (.registerWrite 0 0x109010 4 v) s = .next t ∧ t.errs = { s.errs with selLo := v.setWidth 32 }) ∧
  (∃ t : State, exec (.registerWrite 0 0x107044 4 v) s = .next t ∧ t.mgmt = { s.mgmt with keySel := v.toNat % 8 }) ∧
  (s.peer.valid = false → ∃ t : State, exec (.registerWrite 0 0x108000 4 v) s = .next t ∧ t.peer = { s.peer with gid := v.setWidth 32 }) ∧
  (s.peer.valid = true → ∃ t : State, exec (.registerWrite 0 0x108000 4 v) s = .next t ∧ t.peer = s.peer ∧
    (bit s.mgmt.cfgErr.toNat 31 = false → t.mgmt.cfgErr = BitVec.ofNat 32 (2 ^ 31 + stInvalidField) ∧ t.mgmt.cfgAddr = 0x108000)) ∧
  (∀ n : Nat, n < 256 → (s.ctx n).state = 0 → ∃ t : State, exec (.registerWrite 0 (n * 0x1000 + 0x20) 8 v) s = .next t ∧
    (t.ctx n).ctlSq = v ∧ ∀ m : Nat, m ≠ n → t.ctx m = s.ctx m) ∧
  (∀ n : Nat, n < 256 → ∃ t : State, exec (.registerWrite 0 (n * 0x1000 + 0x10) 8 v) s = .next t ∧ (t.ctx n).seed = v)

/-- R449: a write that is not of 4 or 8 bytes, or not aligned to its size, has no effect on a register. -/
def registerSizes : Prop := ∀ (off size : Nat) (v : BitVec 64) (s : State), slotAt 0 off = none →
  (size ≠ 4 ∧ size ≠ 8) ∨ off % size ≠ 0 → exec (.registerWrite 0 off size v) s = .next s

/-- R452, Table 14-7: a virtual function that writes a read-only field of its own page faults its context; the PF's write of one
does nothing. -/
def readOnlyFields : Prop := ∀ (n off : Nat) (v : BitVec 64) (s : State), s.kciOpen = true → n < 256 → mailboxRo off = true →
  exec (.registerWrite 0 (n * 0x1000 + off) 4 v) s = .next s ∧
  (n ≠ 0 → (s.ctx n).state = 1 → s.still → distinct s → contextFaults (.registerWrite n off 4 v) s n stCtxFaulted)

/-- R451: the 4-byte read of a _LO register latches its _HI register, which then reads as latched whatever the counter does;
an 8-byte read returns both halves of one moment. R450: a read that is not of 4 or 8 bytes, or not aligned to its size,
returns zero. Nothing but the read port and the latches changes. -/
def loRegisterRead : Prop := ∀ s : State, s.linked = true →
  (∃ t : State, exec (.loRegisterRead 0 0x101000 4) s = .next t ∧ t.mgmt.readPort = BitVec.ofNat 64 (s.time.now % 2 ^ 32) ∧
    t.time = s.time ∧ ∀ u : State, u.mgmt.latch = t.mgmt.latch → ∃ w : State, exec (.loRegisterRead 0 0x101004 4) u = .next w ∧
      w.mgmt.readPort = BitVec.ofNat 64 (s.time.now / 2 ^ 32 % 2 ^ 32)) ∧
  (∃ t : State, exec (.loRegisterRead 0 0x101000 8) s = .next t ∧ t.mgmt.readPort = BitVec.ofNat 64 s.time.now) ∧
  (∀ off size : Nat, ¬ (size = 4 ∧ off % 4 = 0) → ¬ (size = 8 ∧ off % 8 = 0) →
    exec (.loRegisterRead 0 off size) s = .next { s with mgmt := { s.mgmt with readPort := 0 } }) ∧
  (s.globalOpen = true → ∃ t : State, exec (.loRegisterRead 0 0x10901C 4) s = .next t ∧ t.mgmt.readPort = BitVec.ofNat 64 s.errs.dropped) ∧
  (s.kciOpen = true → ∀ n : Nat, n < 256 → ∃ t : State, exec (.loRegisterRead n 0x008 4) s = .next t ∧
    t.mgmt.readPort = BitVec.ofNat 64 (s.ctx n).policy.toNat)

end Sys2Proof.Claims

/-- R347 to R353: the doorbells and the class-0 slots. -/
def Obligations.Doorbells : Prop :=
  Claims.kciSqTail ∧ Claims.kciCqHead ∧ Claims.class0SlotWrite ∧ Claims.class0Latch

/-- Table 14-7, R366: the faults of a doorbell and of a read-only field. -/
def Obligations.ContextFaults : Prop := Claims.doorbellOutside ∧ Claims.readOnlyFields

/-- R344, R345, R348, R367, R368: the life of a context. -/
def Obligations.ContextLife : Prop :=
  Claims.ctxEnableSet ∧ Claims.ctxEnableClear ∧ Claims.ctxControlReset ∧ Claims.ctxAdminReset ∧ Claims.contextResetComplete ∧
  Claims.ctxPolicyWrite

/-- R9, R10, R449 to R452, R455: the register accesses. -/
def Obligations.RegisterAccesses : Prop :=
  Claims.registerRows ∧ Claims.registerWrite ∧ Claims.registerSizes ∧ Claims.loRegisterRead


/-! ### Control commands (chapters 14 and 15) -/

namespace Sys2Proof.Claims

/-- R382, R351: QUEUE_CREATE makes the queue, when its fields allow it and its class is not above the context's highest. -/
def queueCreate : Prop := ∀ (e : Entry) (q cls n v sq cq co uid : Nat) (r : QueueSt) (s : State),
  Starts s e (.queueCreate q cls n v sq cq co) uid r → 1 ≤ q → q ≤ 9 → (q = 9 → cls = 0 ∧ sq = 0) → (q ≠ 9 → 1 ≤ cls ∧ cls ≤ 3) →
  (cls < (s.ctx e.ctx).maxClass → completes (.queueCreate e q cls n v sq cq co) s e uid stClassDenied 0 (quiet s · e)) ∧
  ((s.ctx e.ctx).maxClass ≤ cls → s.setHeld e.ctx = false → tfind (s.ctx e.ctx).queues q = none → sq % 4096 = 0 → cq % 4096 = 0 →
    co % 4096 = 0 → ringSizeOk n = true → v < vectorsOf e.ctx → s.sanitizing = false → s.power.failed = false →
    completes (.queueCreate e q cls n v sq cq co) s e uid stSuccess 0 (fun t =>
      t.objs = s.objs ∧ tfind (t.ctx e.ctx).queues q = some (QueueSt.fresh cls n v sq cq co) ∧
      ∀ j : Nat, j ≠ q → j ≠ e.queue → tfind (t.ctx e.ctx).queues j = tfind (s.ctx e.ctx).queues j)) ∧
  ((s.ctx e.ctx).maxClass ≤ cls → s.setHeld e.ctx = false → (tfind (s.ctx e.ctx).queues q).isSome = true →
    completes (.queueCreate e q cls n v sq cq co) s e uid stInvalidField 0 (quiet s · e))

/-- R355: QUEUE_DESTROY discards the entries that are not fetched; it completes, and the queue is gone, when every fetched command
of the queue is DONE. -/
def queueDestroy : Prop := ∀ (e : Entry) (q uid : Nat) (r x : QueueSt) (s : State), Starts s e (.queueDestroy q) uid r → 1 ≤ q → q ≤ 9 →
  q ≠ e.queue → tfind (s.ctx e.ctx).queues q = some x → x.closing = false →
  ((∀ c ∈ s.pendingOf e.ctx, c.e.queue ≠ q) → completes (.queueDestroy e q) s e uid stSuccess 0 (fun t =>
    t.objs = s.objs ∧ tfind (t.ctx e.ctx).queues q = none ∧
    ∀ j : Nat, j ≠ q → j ≠ e.queue → tfind (t.ctx e.ctx).queues j = tfind (s.ctx e.ctx).queues j)) ∧
  ((∃ c ∈ s.pendingOf e.ctx, c.e.queue = q) → ∃ (t : State) (c : Cmd), exec (.queueDestroy e q) s = .next t ∧ t.cmds = s.cmds ++ [c] ∧
    c.uid = uid ∧ c.status = none ∧ c.st = .holding ∧ tfind (t.ctx e.ctx).queues q = some { x with closing := true, avail := [] })

/-- R387: PRIORITY gives the oldest pending command with the target's queue and identifier its new class, and answers the state
it was in; without a target it answers 5 and changes nothing. -/
def priority : Prop := ∀ (e : Entry) (q cls cid uid : Nat) (r : QueueSt) (s : State), Starts s e (.priority q cls cid) uid r → q ≤ 9 →
  cls ≤ 3 →
  ((∀ c ∈ s.pendingOf e.ctx, ¬ (c.e.queue = q ∧ c.e.cid = cid)) → completes (.priority e q cls cid) s e uid stSuccess 5 (quiet s · e)) ∧
  (∀ x : Cmd, (s.pendingOf e.ctx).find? (fun c => c.e.queue == q && c.e.cid == cid) = some x → stateCode x.st < 4 →
    (s.ctx e.ctx).maxClass ≤ cls → (cls ≠ 0 ∨ x.cls = 0) → ∃ (t : State) (y : Cmd), exec (.priority e q cls cid) s = .next t ∧
      y.uid = uid ∧ y.status = some stSuccess ∧ y.dw0 = stateCode x.st ∧
      t.cmds = s.cmds.map (fun c => if c.uid = x.uid then { c with
        cls := cls,
        doorbell := (if cls = 0 ∧ c.cls ≠ 0 then s.time.now else c.doorbell),
        lastTile := (if cls = 0 ∧ c.cls ≠ 0 then none else c.lastTile) } else c) ++ [y]) ∧
  (∀ x : Cmd, (s.pendingOf e.ctx).find? (fun c => c.e.queue == q && c.e.cid == cid) = some x → stateCode x.st < 4 →
    cls < (s.ctx e.ctx).maxClass → completes (.priority e q cls cid) s e uid stClassDenied 0 (quiet s · e))

/-- R389: JOB_END moves the set of the context's exclusive job to RELEASING, and completes when every other command of the job is
DONE; a context without a job receives INVALID_FIELD. -/
def jobEnd : Prop := ∀ (e : Entry) (uid : Nat) (r : QueueSt) (s : State), Starts s e .jobEnd uid r →
  ((∀ p ∈ s.parts, ¬ (p.2.state = 2 ∧ p.2.ctx = e.ctx)) → completes (.jobEnd e) s e uid stInvalidField 0 (quiet s · e)) ∧
  ((∃ p ∈ s.parts, p.2.state = 2 ∧ p.2.ctx = e.ctx) → s.pendingOf e.ctx = [] → completes (.jobEnd e) s e uid stSuccess 0 (fun t =>
    t.objs = s.objs ∧ ∀ p : Nat, t.part p = if ((s.part p).state = 1 ∨ (s.part p).state = 2) ∧ (s.part p).ctx = e.ctx then
      { s.part p with state := 3 } else s.part p))

/-- R383, R356, R357, R42: OBJ_CREATE makes an object of zeros with no page backed, owned by its context, under the lowest EMPTY
handle, with the rights of a creator; an ID in use is refused. -/
def objCreate : Prop := ∀ (e : Entry) (oid pages word kind h l p d uid : Nat) (r : QueueSt) (s : State),
  Starts s e (.objCreate oid pages word kind h l p d) uid r → kind = 1 ∨ kind = 2 → 1 ≤ pages → pages ≤ 2 ^ 28 →
  wordBad kind word = false → oid ≠ 0 → (kvFmtOf word = 0 → h = 0 ∧ l = 0 ∧ p = 0 ∧ d = 0) →
  (kvFmtOf word ≠ 0 → (d = 64 ∨ d = 128 ∨ d = 256) ∧ pages = kvPages (kvFmtOf word) h l p) →
  ((s.findOid (s.idParts e.ctx) oid).isSome = true → completes (.objCreate e oid pages word kind h l p d) s e uid stObjectExists 0 (quiet s · e)) ∧
  (s.findOid (s.idParts e.ctx) oid = none → (s.ctx e.ctx).freeHandle = none →
    completes (.objCreate e oid pages word kind h l p d) s e uid stHandlesFull 0 (quiet s · e)) ∧
  (∀ hd : Nat, s.findOid (s.idParts e.ctx) oid = none → (s.ctx e.ctx).freeHandle = some hd →
    completes (.objCreate e oid pages word kind h l p d) s e uid stSuccess hd (fun t => t.host = s.host ∧
      ∃ (m : HandleSt) (x : ObjectSt), tfind (t.ctx e.ctx).handles hd = some m ∧ t.obj? m.obj = some x ∧ m.rights = 3 ∧ m.href = 1 ∧
        m.dref = 0 ∧ m.draining = false ∧ x.oid = oid ∧ x.pages = pages ∧ x.word = word ∧ x.kind = kind ∧ x.owner = e.ctx ∧
        x.part = (s.ctx e.ctx).partition ∧ x.pageTab = [] ∧ x.grants = [] ∧ (∀ a : Nat, x.byte a = 0) ∧
        ∀ o : Nat, o ≠ m.obj → t.obj? o = s.obj? o))

/-- R384, R359: OBJ_OPEN maps an object under the lowest EMPTY handle with the rights asked for, when they are within those
allowed and the owner's context is OPEN; otherwise SHARE_DENIED. -/
def objOpen : Prop := ∀ (e : Entry) (oid rights uid : Nat) (r : QueueSt) (s : State), Starts s e (.objOpen oid rights) uid r →
  (s.findOid (s.idParts e.ctx) oid = none → completes (.objOpen e oid rights) s e uid stShareDenied 0 (quiet s · e)) ∧
  ∀ (o : Nat) (x : ObjectSt), s.findOid (s.idParts e.ctx) oid = some (o, x) →
    (rights &&& x.allowed e.ctx ≠ rights → completes (.objOpen e oid rights) s e uid stShareDenied 0 (quiet s · e)) ∧
    (∀ hd : Nat, rights &&& x.allowed e.ctx = rights → rights ≠ 0 → x.doomed = false → (x.owner = e.ctx ∨ (s.ctx x.owner).state = 1) →
      (∀ m ∈ (s.ctx e.ctx).handles, m.2.obj ≠ o) → (s.ctx e.ctx).freeHandle = some hd →
      completes (.objOpen e oid rights) s e uid stSuccess hd (fun t => quiet s t e ∧ ∃ m : HandleSt,
        tfind (t.ctx e.ctx).handles hd = some m ∧ m.obj = o ∧ m.rights = rights ∧ m.href = 1 ∧ m.dref = 0 ∧ m.draining = false))

/-- R359: OBJ_SHARE gives another context of the partition a subset of the creator's rights; OBJ_UNSHARE takes a grant away. -/
def objShare : Prop := ∀ (e : Entry) (h g rights uid : Nat) (r : QueueSt) (m : HandleSt) (x : ObjectSt) (s : State),
  Starts s e (.objShare h g rights) uid r → tfind (s.ctx e.ctx).handles h = some m → s.obj? m.obj = some x →
  ((x.owner ≠ e.ctx ∨ (s.ctx g).partition ≠ (s.ctx e.ctx).partition ∨ rights &&& m.rights ≠ rights) →
    completes (.objShare e h g rights) s e uid stShareDenied 0 (quiet s · e)) ∧
  (x.owner = e.ctx → g ≠ e.ctx → (s.ctx g).partition = (s.ctx e.ctx).partition → rights &&& m.rights = rights →
    (x.kind = 3 → rights = 4) → x.grants.length < 16 →
    completes (.objShare e h g rights) s e uid stSuccess 0 (fun t => t.host = s.host ∧
      t.obj? m.obj = some { x with grants := (g, rights) :: x.grants.filter (fun y => y.1 != g) } ∧
      ∀ o : Nat, o ≠ m.obj → t.obj? o = s.obj? o))

def objUnshare : Prop := ∀ (e : Entry) (h g uid : Nat) (r : QueueSt) (m : HandleSt) (x : ObjectSt) (s : State),
  Starts s e (.objUnshare h g) uid r → tfind (s.ctx e.ctx).handles h = some m → s.obj? m.obj = some x → x.owner = e.ctx →
  (∃ y ∈ x.grants, y.1 = g) →
  completes (.objUnshare e h g) s e uid stSuccess 0 (fun t => t.host = s.host ∧
    t.obj? m.obj = some { x with grants := x.grants.filter (fun y => y.1 != g) } ∧ ∀ o : Nat, o ≠ m.obj → t.obj? o = s.obj? o)

/-- R362: OBJ_RETAIN raises HREF and answers it; the running command holds the mapping itself. -/
def objRetain : Prop := ∀ (e : Entry) (h uid : Nat) (r : QueueSt) (m : HandleSt) (s : State), Starts s e (.objRetain h) uid r →
  tfind (s.ctx e.ctx).handles h = some m → m.href < 65535 →
  completes (.objRetain e h) s e uid stSuccess (m.href + 1) (fun t => quiet s t e ∧
    tfind (t.ctx e.ctx).handles h = some { m with href := m.href + 1, dref := m.dref + 1 } ∧
    ∀ k : Nat, k ≠ h → tfind (t.ctx e.ctx).handles k = tfind (s.ctx e.ctx).handles k)

/-- R362, R364: OBJ_RELEASE lowers HREF; at zero the mapping is DRAINING. With DESTROY it is accepted only at HREF 1 and SHARE 1. -/
def objRelease : Prop := ∀ (e : Entry) (h uid : Nat) (destroy : Bool) (r : QueueSt) (m : HandleSt) (x : ObjectSt) (s : State),
  Starts s e (.objRelease h destroy) uid r → tfind (s.ctx e.ctx).handles h = some m → s.obj? m.obj = some x →
  (destroy = true → (m.href ≠ 1 ∨ s.mappers m.obj ≠ 1) → completes (.objRelease e h destroy) s e uid stShareDenied 0 (quiet s · e)) ∧
  ((destroy = true → m.href = 1 ∧ s.mappers m.obj = 1) →
    completes (.objRelease e h destroy) s e uid stSuccess (m.href - 1) (fun t => t.host = s.host ∧
      tfind (t.ctx e.ctx).handles h = some { m with href := m.href - 1, draining := m.href == 1, dref := m.dref + 1 } ∧
      (∀ k : Nat, k ≠ h → tfind (t.ctx e.ctx).handles k = tfind (s.ctx e.ctx).handles k) ∧
      t.obj? m.obj = some { x with doomed := x.doomed || destroy } ∧ ∀ o : Nat, o ≠ m.obj → t.obj? o = s.obj? o))

/-- R160, R385: OBJ_PLACE stores a placement word of the object's KV format. -/
def objPlace : Prop := ∀ (e : Entry) (h word uid : Nat) (r : QueueSt) (m : HandleSt) (x : ObjectSt) (s : State),
  Starts s e (.objPlace h word) uid r → tfind (s.ctx e.ctx).handles h = some m → s.obj? m.obj = some x →
  (x.kind = 3 ∨ wordBad x.kind word = true ∨ kvFmtOf word ≠ kvFmtOf x.word →
    completes (.objPlace e h word) s e uid stInvalidField 0 (quiet s · e)) ∧
  (x.kind ≠ 3 → wordBad x.kind word = false → kvFmtOf word = kvFmtOf x.word →
    completes (.objPlace e h word) s e uid stSuccess 0 (fun t => t.host = s.host ∧ t.obj? m.obj = some { x with word := word } ∧
      ∀ o : Nat, o ≠ m.obj → t.obj? o = s.obj? o))

/-- R385: OBJ_QUERY writes four counts of pages to host memory, and nothing beside them. -/
def objQuery : Prop := ∀ (e : Entry) (h buf uid : Nat) (r : QueueSt) (m : HandleSt) (x : ObjectSt) (s : State), s.Canonical →
  Starts s e (.objQuery h buf) uid r → tfind (s.ctx e.ctx).handles h = some m → s.obj? m.obj = some x → x.kind ≠ 3 → buf % 32 = 0 →
  let n (t : Nat) : Nat := x.pageTab.countP (fun p => p.2.tier == t)
  let bs := le 8 (n 0) ++ le 8 (n 1) ++ le 8 (n 2) ++ le 8 (x.pages - x.pageTab.length)
  completes (.objQuery e h buf) s e uid stSuccess 0 (fun t => t.objs = s.objs ∧
    ∀ a : Nat, mget t.host a = if buf ≤ a ∧ a < buf + 32 then bs.getD (a - buf) 0 else mget s.host a)

/-- R386: EVENT_CREATE makes an event that does not exist; the other events are as before, but for the one the command signals. -/
def eventCreate : Prop := ∀ (e : Entry) (ev value uid : Nat) (r : QueueSt) (s : State), Starts s e (.eventCreate ev value) uid r → ev < 64 →
  (tfind (s.ctx e.ctx).events ev = none → (e.signal = true → e.signalEvent ≠ ev) →
    completes (.eventCreate e ev value) s e uid stSuccess 0 (fun t => quiet s t e ∧
      tfind (t.ctx e.ctx).events ev = some { err := false, value := value } ∧
      ∀ j : Nat, j ≠ ev → (e.signal = true → j ≠ e.signalEvent) → tfind (t.ctx e.ctx).events j = tfind (s.ctx e.ctx).events j)) ∧
  ((tfind (s.ctx e.ctx).events ev).isSome = true → completes (.eventCreate e ev value) s e uid stInvalidField 0 (quiet s · e))

/-- R386: EVENT_DESTROY of an event that no unfinished command names removes it; EVENT_CLEAR clears its error flag and answers its
value; of one that a command names, both are refused. -/
def eventDestroy : Prop := ∀ (e : Entry) (ev uid : Nat) (r : QueueSt) (v : EventSt) (s : State), Starts s e (.eventDestroy ev) uid r →
  tfind (s.ctx e.ctx).events ev = some v → (e.wait = true → e.waitEvent ≠ ev) → (e.signal = true → e.signalEvent ≠ ev) →
  (s.eventUsed e.ctx ev = false → completes (.eventDestroy e ev) s e uid stSuccess 0 (fun t => quiet s t e ∧
    tfind (t.ctx e.ctx).events ev = none)) ∧
  (s.eventUsed e.ctx ev = true → completes (.eventDestroy e ev) s e uid stInvalidField 0 (fun t => quiet s t e ∧
    tfind (t.ctx e.ctx).events ev = some v))

def eventClear : Prop := ∀ (e : Entry) (ev uid : Nat) (r : QueueSt) (v : EventSt) (s : State), Starts s e (.eventClear ev) uid r →
  tfind (s.ctx e.ctx).events ev = some v → (e.wait = true → e.waitEvent ≠ ev) → (e.signal = true → e.signalEvent ≠ ev) →
  (s.eventUsed e.ctx ev = false → completes (.eventClear e ev) s e uid stSuccess (v.value % 2 ^ 32) (fun t => quiet s t e ∧
    tfind (t.ctx e.ctx).events ev = some { v with err := false })) ∧
  (s.eventUsed e.ctx ev = true → completes (.eventClear e ev) s e uid stInvalidField 0 (fun t => quiet s t e ∧
    tfind (t.ctx e.ctx).events ev = some v))

/-- R377, R360, Table 15-4: NOP ends with SUCCESS, and its signal adds the increment to the event, up to the largest value. -/
def nop : Prop := ∀ (e : Entry) (uid : Nat) (r : QueueSt) (s : State), Starts s e .nop uid r →
  completes (.nop e) s e uid stSuccess 0 (fun t => quiet s t e ∧ (t.ctx e.ctx).handles = (s.ctx e.ctx).handles ∧
    (∀ v : EventSt, e.signal = true → tfind (s.ctx e.ctx).events e.signalEvent = some v →
      tfind (t.ctx e.ctx).events e.signalEvent = some { v with value := min (v.value + e.incr) (2 ^ 63 - 1) }) ∧
    ∀ j : Nat, (e.signal = true → j ≠ e.signalEvent) → tfind (t.ctx e.ctx).events j = tfind (s.ctx e.ctx).events j)

/-- R396, R400: an image that fails a check is rejected with its reason; one that passes starts its install and the command goes
on until the store has it. -/
def programInstall : Prop := ∀ (e : Entry) (oid addr n uid : Nat) (img : List Byte) (r : QueueSt) (s : State),
  Starts s e (.programInstall oid addr n img) uid r → addr % 4096 = 0 → oid ≠ 0 →
  ((s.findOid (s.idParts e.ctx) oid).isSome = true → completes (.programInstall e oid addr n img) s e uid stObjectExists 0 (quiet s · e)) ∧
  (s.findOid (s.idParts e.ctx) oid = none → ipoReason img n s.fwVersion s.mgmt.keys ≠ 0 →
    completes (.programInstall e oid addr n img) s e uid stProgramRejected 0 (fun t => quiet s t e ∧
      ∃ x ∈ t.cmds, x.uid = uid ∧ x.dw1 = ipoReason img n s.fwVersion s.mgmt.keys)) ∧
  (s.findOid (s.idParts e.ctx) oid = none → ipoReason img n s.fwVersion s.mgmt.keys = 0 → (s.ctx e.ctx).freeHandle.isSome = true →
    ipoSectors img ≤ s.libFree.length → ∃ (t : State) (x : Cmd), exec (.programInstall e oid addr n img) s = .next t ∧
      t.cmds = s.cmds ++ [x] ∧ x.uid = uid ∧ x.status = none ∧ x.st = .holding ∧ t.objs = s.objs ∧
      t.store = { s.store with queue := s.store.queue ++ [{ kind := .install uid }] })

end Sys2Proof.Claims

/-- R351, R355, R360, R377, R382, R386, R387, R389: the commands of queues, jobs and events, and the signal of a command. -/
def Obligations.QueueAndEventCommands : Prop := Claims.queueCreate ∧ Claims.queueDestroy ∧ Claims.priority ∧ Claims.jobEnd ∧
  Claims.eventCreate ∧ Claims.eventDestroy ∧ Claims.eventClear ∧ Claims.nop

/-- R356 to R364, R383 to R385, R396, R400: objects are created, opened, shared, retained, released, placed and counted, and programs
are installed. -/
def Obligations.ObjectCommands : Prop :=
  Claims.objCreate ∧ Claims.objOpen ∧ Claims.objShare ∧ Claims.objUnshare ∧ Claims.objRetain ∧ Claims.objRelease ∧ Claims.objPlace ∧
  Claims.objQuery ∧ Claims.programInstall


/-! ### Data and compute commands, the checks at fetch, completions (chapters 8, 9 and 15) -/

namespace Sys2Proof.Claims

/-- R390, R391, R392, R210: COPY_IN stores the bytes read from host memory, and no other byte of any object changes; the range
carries the items of the layout word; the object is no longer sealed. A range of a volatile object ends the command at once; that
of a persistent object leaves it waiting for its pages on NAND (R162). -/
def copyIn : Prop := ∀ (e : Entry) (h off host n layout uid : Nat) (data : List Byte) (r : QueueSt) (m : HandleSt) (x : ObjectSt) (s : State),
  Starts s e (.copyIn h off host n layout data) uid r → s.Canonical → tfind (s.ctx e.ctx).handles h = some m → s.obj? m.obj = some x →
  (∀ p ∈ pagesOf off n, (tfind x.pageTab p).isSome = true) →
  let stored (t : State) : Prop := t.host = s.host ∧ ∃ y : ObjectSt, oneObject s t m.obj y ∧ y.isSealed = false ∧
    y.tags = putTag (tagOf off n layout) x.tags ∧
    ∀ a : Nat, y.byte a = if off ≤ a ∧ a < off + n then data.getD (a - off) 0 else x.byte a
  (x.persistent = false → completes (.copyIn e h off host n layout data) s e uid stSuccess 0 stored) ∧
  (x.persistent = true → 1 ≤ n → continues (.copyIn e h off host n layout data) s uid (fun t c => c.st = .draining ∧
    c.waitItems.length = (pagesOf off n).length ∧ stored t))

/-- R161: a page written for the first time is backed in the fastest tier that the placement word permits and that has room. -/
def firstWrite : Prop := ∀ (e : Entry) (h off host n layout uid p : Nat) (data : List Byte) (r : QueueSt) (m : HandleSt) (x : ObjectSt)
    (td : Nat × Nat) (s : State), Starts s e (.copyIn h off host n layout data) uid r → tfind (s.ctx e.ctx).handles h = some m →
  s.obj? m.obj = some x → x.persistent = false → pagesOf off n = [p] → tfind x.pageTab p = none →
  s.choose (s.homeParts x.part) x.word p = some td →
  completes (.copyIn e h off host n layout data) s e uid stSuccess 0 (fun t => ∃ (y : ObjectSt) (g : PageSt),
    t.obj? m.obj = some y ∧ tfind y.pageTab p = some g ∧ g.tier = td.1 ∧ g.die = td.2 ∧ g.lost = false)

/-- R390, R177: COPY_OUT writes the object's bytes to host memory, and nothing beside them; a lost page or a mark ends it first. -/
def copyOut : Prop := ∀ (e : Entry) (h off host n layout uid : Nat) (r : QueueSt) (m : HandleSt) (x : ObjectSt) (s : State),
  Starts s e (.copyOut h off host n layout) uid r → s.Canonical → tfind (s.ctx e.ctx).handles h = some m → s.obj? m.obj = some x →
  (x.mark = true → completes (.copyOut e h off host n layout) s e uid stLostAtPowerFail 0 (quiet s · e)) ∧
  (x.mark = false → x.lostIn off n = true → completes (.copyOut e h off host n layout) s e uid stStorageMedia 0 (quiet s · e)) ∧
  (x.mark = false → x.lostIn off n = false → completes (.copyOut e h off host n layout) s e uid stSuccess 0 (fun t =>
    (∀ a : Nat, mget t.host a = if host ≤ a ∧ a < host + n then x.byte (off + (a - host)) else mget s.host a) ∧
    ∃ y : ObjectSt, oneObject s t m.obj y ∧ ∀ a : Nat, y.byte a = x.byte a))

/-- R390: COPY stores the bytes that the source held before it, and no other byte of any object changes. -/
def copy : Prop := ∀ (e : Entry) (src dst soff doff n layout uid : Nat) (r : QueueSt) (ms md : HandleSt) (xs xd : ObjectSt) (s : State),
  Starts s e (.copy src dst soff doff n layout) uid r → s.Canonical → tfind (s.ctx e.ctx).handles src = some ms →
  tfind (s.ctx e.ctx).handles dst = some md → s.obj? ms.obj = some xs → s.obj? md.obj = some xd → xs.mark = false →
  xs.lostIn soff n = false → (∀ p ∈ pagesOf doff n, (tfind xd.pageTab p).isSome = true) → xd.persistent = false →
  completes (.copy e src dst soff doff n layout) s e uid stSuccess 0 (fun t => t.host = s.host ∧
    (∃ y : ObjectSt, t.obj? md.obj = some y ∧
      ∀ a : Nat, y.byte a = if doff ≤ a ∧ a < doff + n then xs.byte (soff + (a - doff)) else xd.byte a) ∧
    ∀ (o : Nat) (x : ObjectSt), o ≠ md.obj → s.obj? o = some x → ∃ y : ObjectSt, t.obj? o = some y ∧ ∀ a : Nat, y.byte a = x.byte a)

/-- R209: the T1 quota of the object's partition, or of its set, has room for a copy of each page of the searched sections that has
none. -/
def sealRoom (s : State) (x : ObjectSt) : Bool :=
  let ps := (x.head.fixed.flatMap (fun q => pagesOf q.1 q.2)).eraseDups
  let need := ps.countP (fun p => match tfind x.pageTab p with
    | some q => !q.copies.any (fun c => c.tier == 1)
    | none => true)
  decide (s.t1Held (s.homeParts x.part) + need ≤ ((s.homeParts x.part).map (fun p => (s.part p).quota * 1024)).sum)

/-- R209, R210: INDEX_SEAL of an index that passes its validation seals it with its digest and the next generation, and the
command waits for the written pages; one that fails the validation ends with INDEX_INVALID. -/
def indexSeal : Prop := ∀ (e : Entry) (h uid : Nat) (r : QueueSt) (m : HandleSt) (x : ObjectSt) (s : State),
  Starts s e (.indexSeal h) uid r → s.Canonical → tfind (s.ctx e.ctx).handles h = some m → s.obj? m.obj = some x → x.mark = false →
  x.lostIn 0 x.size = false →
  (x.kind ≠ 2 → completes (.indexSeal e h) s e uid stInvalidField 0 (quiet s · e)) ∧
  (x.kind = 2 → x.indexOk = false → completes (.indexSeal e h) s e uid stIndexInvalid 0 (quiet s · e)) ∧
  (x.kind = 2 → x.indexOk = true → sealRoom s x = false → completes (.indexSeal e h) s e uid stTierFull 0 (quiet s · e)) ∧
  (x.kind = 2 → x.indexOk = true → sealRoom s x = true → x.persistent = true → (∀ p ∈ pagesOf 0x40 16, (tfind x.pageTab p).isSome = true) →
    (∀ l : Nat, l < x.head.nlist → ∀ p ∈ pagesOf (x.head.dirOff + 24 * l + 16) 8, (tfind x.pageTab p).isSome = true) →
    continues (.indexSeal e h) s uid (fun t c => c.st = .draining ∧ c.ending = some stSuccess ∧ c.dw0 = (x.head.gen + 1) % 2 ^ 32 ∧
      c.waitItems ≠ [] ∧ t.host = s.host ∧ ∃ y : ObjectSt, oneObject s t m.obj y ∧ y.isSealed = true ∧
        ∀ i : Nat, i < 16 → y.byte (0x40 + i) = (le 8 x.indexDigest ++ le 8 (x.head.gen + 1)).getD i 0))

/-- R393, R210: a RUN waits in QUEUED with the tiles of its plan, each on an array of its partition; a SEARCH of a sealed index
waits in QUEUED with its queries, under the generation of the seal. -/
def computeStarts : Prop := ∀ (e : Entry) (uid : Nat) (r : QueueSt) (s : State),
  (∀ (p n q b : Nat) (args : List ArgEntry) (plan : List TilePlan), Starts s e (.run p n 0 q b args plan) uid r → e.queue ≠ 0 → r.cls ≠ 0 →
    continues (.run e p n 0 q b args plan) s uid (fun t x => x.st = .queued ∧ x.queuedAt = s.time.now ∧ t.objs = s.objs ∧
      x.tiles = plan.map (fun y => TileSt.fresh y (s.arrayFor (s.homeParts (s.ctx e.ctx).partition) y.arr)))) ∧
  (∀ (i q o n k np f rr nt qo oo fi : Nat) (ts : List FilterTerm) (mi mq mo : HandleSt) (xi xq xo : ObjectSt),
    Starts s e (.search i q o n k np f rr nt qo oo fi ts) uid r → tfind (s.ctx e.ctx).handles i = some mi →
    tfind (s.ctx e.ctx).handles q = some mq → tfind (s.ctx e.ctx).handles o = some mo → s.obj? mi.obj = some xi →
    s.obj? mq.obj = some xq → s.obj? mo.obj = some xo → xi.isSealed = true →
    continues (.search e i q o n k np f rr nt qo oo fi ts) s uid (fun t x => x.st = .queued ∧ x.queuedAt = s.time.now ∧ t.objs = s.objs ∧
      ∃ y : SearchSt, x.search = some y ∧ y.sealGen = xi.head.gen ∧ y.queries = List.replicate n QuerySt.fresh))

/-! #### The checks at fetch -/

/-- The fetch faults the context with a status; the command ends with a status of its own. -/
def fetchFaults (s : State) (e : Entry) (b : Body) (uid st own : Nat) : Prop :=
  ∃ (t : State) (y : Cmd), exec (fetchOf e b) s = .next t ∧ (t.ctx e.ctx).state = 2 ∧ (t.ctx e.ctx).faultStatus = st ∧
    (t.ctx e.ctx).viol = satAdd 32 (s.ctx e.ctx).viol 1 ∧ y ∈ t.cmds ∧ y.uid = uid ∧ y.status = some own ∧
    (∀ x ∈ s.cmds, x.e.ctx = e.ctx → x.status = none → ∃ z ∈ t.cmds, z.uid = x.uid ∧ z.status = some stCtxFaulted) ∧
    ∀ x ∈ s.cmds, x.e.ctx ≠ e.ctx → x ∈ t.cmds

/-- R354, R402: a class-0 command beyond the sixteen of its partition ends with RESERVATION; a command that fails a check ends with
its status; a violation faults the context (R365). -/
def fetchChecks : Prop := ∀ (e : Entry) (b : Body) (uid : Nat) (q : QueueSt) (s : State), Due s e b uid q →
  (e.dmaFault = none → s.over0 (s.newCmd e b uid q) = true → completes (fetchOf e b) s e uid stReservation 0 (fun t => t.host = s.host)) ∧
  (∀ st a : Nat, e.dmaFault = none → s.over0 (s.newCmd e b uid q) = false → s.kciCheck (s.newCmd e b uid q) = some (st, a) →
    (isViolation st = false → completes (fetchOf e b) s e uid st 0 (fun t => t.host = s.host)) ∧
    (isViolation st = true → fetchFaults s e b uid st st))

/-- Table 14-7: host memory that cannot be accessed faults the context with class HOST_DMA. -/
def fetchDmaFault : Prop := ∀ (e : Entry) (b : Body) (uid a : Nat) (q : QueueSt) (s : State), Due s e b uid q → e.dmaFault = some a →
  fetchFaults s e b uid stCtxFaulted stCtxFaulted

/-- R363, R41: a command that names a handle which is DRAINING or EMPTY ends with MEM_UNMAPPED, and the context faults. -/
def drainingHandle : Prop := ∀ (e : Entry) (b : Body) (uid : Nat) (q : QueueSt) (s : State), Due s e b uid q → e.dmaFault = none →
  s.over0 (s.newCmd e b uid q) = false → s.entryCheck (s.newCmd e b uid q) = none →
  (isCompute b = true → s.noArrays (s.ctx e.ctx).partition = false) → s.power.failed = false →
  (∃ h ∈ bodyHandles b, tfind (s.ctx e.ctx).handles h = none ∨ ∃ m : HandleSt, tfind (s.ctx e.ctx).handles h = some m ∧ m.draining = true) →
  fetchFaults s e b uid stMemUnmapped stMemUnmapped

/-- R376: a command with FENCE waits in BLOCKED while an earlier command of its queue is pending; R377: one with WAIT waits until
its event reaches the threshold, and ends with EVENT_ERRORED when the event carries an error. -/
def fenceAndWait : Prop := ∀ (e : Entry) (b : Body) (uid : Nat) (q : QueueSt) (s : State), Due s e b uid q → e.dmaFault = none →
  s.over0 (s.newCmd e b uid q) = false → s.kciCheck (s.newCmd e b uid q) = none →
  ((∃ c ∈ s.cmds, c.e.ctx = e.ctx ∧ c.e.queue = e.queue) → e.fence = true →
    continues (fetchOf e b) s uid (fun t x => x.st = .blocked ∧ t.objs = s.objs ∧ t.host = s.host)) ∧
  (∀ v : EventSt, e.wait = true → tfind (s.ctx e.ctx).events e.waitEvent = some v → v.value < e.threshold →
    (v.err = false → continues (fetchOf e b) s uid (fun t x => x.st = .blocked ∧ t.objs = s.objs ∧ t.host = s.host)) ∧
    (v.err = true → e.fence = false → s.groupReady (s.newCmd e b uid q) = true → s.power.recovering = [] →
      completes (fetchOf e b) s e uid stEventErrored 0 (fun t => t.host = s.host)))

/-! #### Completions -/

/-- Table 15-2, R352, R353, R373: the completion entry is written at the tail of the ring, a compute command's colophon before it;
the command is DONE; the vector is signalled unless an interrupt of the queue is pending. Nothing is written while the ring is full. -/
def completionPost : Prop := ∀ (n k : Nat) (c : Cmd) (q : QueueSt) (s : State), s.kciOpen = true → s.Canonical → s.calm →
  s.nextPost n k = some c → tfind (s.ctx n).queues k = some q → (s.ctx n).state = 1 ∨ (s.ctx n).state = 2 →
  (q.full = true → exec (.completionPost n k none) s = .next s) ∧
  (q.full = false → ∃ t : State, exec (.completionPost n k none) s = .next t ∧ t.cmds = s.cmds.filter (fun d => d.uid != c.uid) ∧
    tfind (t.ctx n).queues k = some { q with
      cqTail := (q.cqTail + 1) % q.entries
      phase := (if (q.cqTail + 1) % q.entries = 0 then !q.phase else q.phase)
      irq := true } ∧
    t.mgmt.msix = s.mgmt.msix ++ (if q.irq then [] else [(n, q.vector)]) ∧
    let at0 := q.cq + 32 * q.cqTail
    let colo := q.colo + 128 * q.cqTail
    let bs := completionBytes c s.freeCtr q.head q.phase (isCompute c.body) s.time.now
    (∀ st : Nat, c.status = some st → isError st = false → bs = le 4 c.dw0 ++ le 4 c.dw1 ++ le 2 q.head ++ le 2 k ++ le 2 c.e.cid ++
      le 2 st ++ le 1 (b2n q.phase + 2 * b2n (isCompute c.body)) ++ zeros 7 ++ le 8 s.time.now) ∧
    ∀ a : Nat, mget t.host a = if at0 ≤ a ∧ a < at0 + 32 then bs.getD (a - at0) 0
      else if isCompute c.body = true ∧ colo ≤ a ∧ a < colo + 128 then (s.colophon c (s.colophonPart c)).getD (a - colo) 0
      else mget s.host a)

/-- Table 14-7, R366: a completion that cannot be written faults the context, and the command leaves with reason 5. -/
def completionFault : Prop := ∀ (n k a : Nat) (c : Cmd) (q : QueueSt) (s : State), s.kciOpen = true → s.calm → distinct s →
  s.nextPost n k = some c → tfind (s.ctx n).queues k = some q → q.full = false → (s.ctx n).state = 1 →
  ∃ t : State, exec (.completionPost n k (some a)) s = .next t ∧ (t.ctx n).state = 2 ∧ (∀ y ∈ t.cmds, y.uid ≠ c.uid) ∧
    ∃ x : AbortEnt, x ∈ (t.ctl n).aborts ∧ x.reason = 5 ∧ x.queue = k ∧ x.cid = c.e.cid

end Sys2Proof.Claims

/-- R390 to R392: the copies. -/
def Obligations.CopyCommands : Prop := Claims.copyIn ∧ Claims.firstWrite ∧ Claims.copyOut ∧ Claims.copy

/-- R209, R210, R393: INDEX_SEAL, and the start of RUN and SEARCH. -/
def Obligations.ComputeStarts : Prop := Claims.indexSeal ∧ Claims.computeStarts

/-- R354, R365, R402: the checks at fetch, for every command. -/
def Obligations.FetchChecks : Prop := Claims.fetchChecks ∧ Claims.fetchDmaFault

/-- R363: a handle that is DRAINING or EMPTY. -/
def Obligations.DrainingHandles : Prop := Claims.drainingHandle

/-- R376, R377: fences and events, for every command. -/
def Obligations.FencesAndEvents : Prop := Claims.fenceAndWait

/-- R352, R353, R366, R373: completions. -/
def Obligations.Completions : Prop := Claims.completionPost ∧ Claims.completionFault

/-! ### The administrator's registers (chapters 8, 12, 17 and 18) -/

namespace Sys2Proof.Claims

/-- R455: a refused write: the state is otherwise `u`; HIF_CFG_ERR holds the cause and the offset of the first refusal, and OVERRUN
after a further one. -/
def refuses (c : Instr) (s u : State) (off st : Nat) : Prop := ∃ t : State, exec c s = .next t ∧
  t = { u with mgmt := { u.mgmt with
    cfgErr := (if bit s.mgmt.cfgErr.toNat 31 then s.mgmt.cfgErr ||| 0x40000000 else BitVec.ofNat 32 (2 ^ 31 + st))
    cfgAddr := (if bit s.mgmt.cfgErr.toNat 31 then s.mgmt.cfgAddr else off) } }

/-! #### Quotas, reservations and contexts -/

/-- R456, Table 18-11: PART_DRAM_QUOTA takes up to the pool, 672 or 608 units of 64 MiB, and is refused above it. -/
def partDramQuotaWrite : Prop := ∀ (p : Nat) (v : BitVec 32) (s : State), s.globalOpen = true → p < 8 →
  let q := v.toNat % 65536
  let most := match s.variant with | .dx30 => 672 | .dx61 => 608
  (q ≤ most → exec (.partDramQuotaWrite p v) s = .next (s.setPart p { s.part p with quota := q })) ∧
  (most < q → refuses (.partDramQuotaWrite p v) s s (0x102004 + 0x40 * p) stInvalidField)

/-- R457: SCHED_RESV takes up to 50, which holds from the next window on, and is refused above it. -/
def schedResvWrite : Prop := ∀ (p : Nat) (v : BitVec 32) (s : State), s.globalOpen = true → p < 8 →
  let r := v.toNat % 256
  (r ≤ 50 → exec (.schedResvWrite p v) s = .next (s.setPart p { s.part p with resvNext := r })) ∧
  (50 < r → refuses (.schedResvWrite p v) s s (0x102008 + 0x40 * p) stInvalidField)

/-- R457, R193: at the boundary of an aligned 1 ms window every partition takes its new reservation, and the charges of the arrays
start again; within the window nothing changes. -/
def reservationWindowBoundary : Prop := ∀ s : State,
  (s.time.window < s.time.now / 1000000 * 1000000 → ∃ t : State, exec .reservationWindowBoundary s = .next t ∧
    t.time.window = s.time.now / 1000000 * 1000000 ∧ t.time.now = s.time.now ∧
    (∀ p : Nat, (t.part p).resv = (s.part p).resvNext ∧ (t.part p).resvNext = (s.part p).resvNext ∧ (t.part p).quota = (s.part p).quota) ∧
    (∀ a : Nat, (t.arr a).charge = 0 ∧ (t.arr a).slots = (s.arr a).slots ∧ (t.arr a).inflight = (s.arr a).inflight) ∧ t.cmds = s.cmds) ∧
  (s.time.now / 1000000 * 1000000 ≤ s.time.window → exec .reservationWindowBoundary s = .next s)

/-- R461, R155: MEM_T2_QUOTA is refused beyond the most of a partition, beyond the user capacity beside the other quotas and the
namespaces, and below what the partition's objects hold [GiB]. -/
def memT2QuotaWrite : Prop := ∀ (p : Nat) (v : BitVec 32) (s : State), s.globalOpen = true → p < 8 →
  let q := v.toNat % 65536
  let others := (((List.range 8).filter (fun j => j != p)).map (fun j => (s.part j).t2quota)).sum + (s.nvme.ns.map (fun n => n.2.gib)).sum
  let fits := q ≤ s.variant.maxT2 ∧ (others + q) * 2 ^ 30 ≤ s.variant.user ∧ s.t2Held [p] ≤ q * 16384
  (fits → exec (.memT2QuotaWrite p v) s = .next (s.setPart p { s.part p with t2quota := q })) ∧
  (¬ fits → refuses (.memT2QuotaWrite p v) s s (0x104000 + 4 * p) stInvalidField)

/-- R460, Table 18-13: CTX_ASSIGN sets partition, highest class, the administrator's colophon switch and its floor; it is refused
whole when it moves a context that has a queue, a handle or a stored object, or names no floor of the table. -/
def ctxAssignWrite : Prop := ∀ (n : Nat) (v : BitVec 32) (s : State), s.globalOpen = true → n < 256 →
  let x := v.toNat
  let c := s.ctx n
  let moves := x % 8 ≠ c.partition ∧ (c.queues ≠ [] ∨ c.handles ≠ [] ∨ ∃ o ∈ s.objs, o.2.owner = n ∧ o.2.persistent = true)
  let floor := (bits x 19 18 = 1 ∧ 1 ≤ bits x 23 20 ∧ bits x 23 20 ≤ 8) ∨ (bits x 19 18 ≠ 1 ∧ bits x 19 18 ≠ 3 ∧ bits x 23 20 = 0)
  (¬ moves → floor → exec (.ctxAssignWrite n v) s = .next (s.setCtx n { c with
    partition := x % 8, maxClass := bits x 9 8, adminOff := bit x 16, floorMode := bits x 19 18, floorN := bits x 23 20 })) ∧
  (moves ∨ ¬ floor → refuses (.ctxAssignWrite n v) s s (0x103000 + 0x10 * n) stInvalidField)

/-! #### Exclusive jobs and partition resets -/

/-- The partitions that a write of PART_EXCL names: 1, 2, 4 or 8 from the written one on. -/
def exclSet (p : Nat) (v : BitVec 32) : List Nat := (List.range (2 ^ bits v.toNat 9 8)).map (fun i => p + i)

/-- From s to t exactly the pending commands that a predicate selects have ended with a status; the others are as before. -/
def allEnd (s t : State) (f : Cmd → Bool) (st : Nat) : Prop :=
  t.cmds.map (·.uid) = s.cmds.map (·.uid) ∧ (∀ x ∈ s.cmds, f x = false ∨ x.status ≠ none → x ∈ t.cmds) ∧
  ∀ x ∈ s.cmds, f x = true → x.status = none → ∃ y ∈ t.cmds, y.uid = x.uid ∧ y.status = some st

/-- R179, R458: CLAIM of a set that is shared, by a context of it beside which no context of the set has a KCI queue, makes the set
CLAIMING; another claim is refused with EXCLUSIVE, and a misplaced one with INVALID_FIELD. -/
def partExclClaim : Prop := ∀ (p : Nat) (v : BitVec 32) (s : State), s.globalOpen = true → p < 8 →
  bit v.toNat 31 = true → bit v.toNat 30 = false →
  let ok := (∀ q ∈ exclSet p v, (s.part q).state = 0) ∧ (s.ctx (v.toNat % 256)).partition ∈ exclSet p v ∧
    ∀ c ∈ s.ctxs, c.1 ≠ v.toNat % 256 → c.2.partition ∈ exclSet p v → c.2.queues = []
  (p % 2 ^ bits v.toNat 9 8 = 0 → ok → ∃ t : State, exec (.partExclClaim p v) s = .next t ∧ t = { s with parts := t.parts } ∧
    (∀ q ∈ exclSet p v, t.part q = { s.part q with state := 1, set := bits v.toNat 9 8, lead := p, ctx := v.toNat % 256 }) ∧
    ∀ q : Nat, q ∉ exclSet p v → t.part q = s.part q) ∧
  (p % 2 ^ bits v.toNat 9 8 = 0 → ¬ ok → refuses (.partExclClaim p v) s s (0x10200C + 0x40 * p) stExclusive) ∧
  (p % 2 ^ bits v.toNat 9 8 ≠ 0 → refuses (.partExclClaim p v) s s (0x10200C + 0x40 * p) stInvalidField)

/-- R180, Table 8-1: a CLAIMING set is EXCLUSIVE once every tile slot of its arrays is free. -/
def claimComplete : Prop := ∀ (p : Nat) (s : State), s.live = true → (s.part p).state = 1 →
  let free := ∀ q ∈ s.setOf p, (s.arr q).slots = [] ∧ (s.arr (q + 8)).slots = []
  (free → ∃ t : State, exec (.claimComplete p) s = .next t ∧ t = { s with parts := t.parts } ∧
    (∀ q ∈ s.setOf p, t.part q = { s.part q with state := 2 }) ∧ ∀ q : Nat, q ∉ s.setOf p → t.part q = s.part q) ∧
  (¬ free → exec (.claimComplete p) s = .next s)

/-- R181, R458: ABORT ends the job's commands with PREEMPT_ABORTED, and its set is RELEASING. -/
def partExclAbort : Prop := ∀ (p : Nat) (v : BitVec 32) (s : State), s.globalOpen = true → p < 8 →
  bit v.toNat 31 = false → bit v.toNat 30 = true →
  (p % 2 ^ bits v.toNat 9 8 = 0 → (s.part p).lead = p → (s.part p).state = 1 ∨ (s.part p).state = 2 → s.calm → distinct s →
    ∃ t : State, exec (.partExclAbort p v) s = .next t ∧ allEnd s t (fun c => c.e.ctx == (s.part p).ctx) stPreempt ∧
      ∀ q : Nat, t.part q = if ((s.part q).state = 1 ∨ (s.part q).state = 2) ∧ (s.part q).ctx = (s.part p).ctx
        then { s.part q with state := 3 } else s.part q) ∧
  (p % 2 ^ bits v.toNat 9 8 ≠ 0 ∨ (s.part p).state = 0 ∨ (s.part p).lead ≠ p →
    refuses (.partExclAbort p v) s s (0x10200C + 0x40 * p) stInvalidField)

/-- Table 8-1: a RELEASING set is SHARED once no pass is in its arrays; the tile slots are cleared. -/
def releaseComplete : Prop := ∀ (p : Nat) (s : State), s.live = true → (s.part p).state = 3 →
  let done := ∀ q ∈ s.setOf p, (s.arr q).inflight = [] ∧ (s.arr (q + 8)).inflight = []
  (done → ∃ t : State, exec (.releaseComplete p) s = .next t ∧
    (∀ q ∈ s.setOf p, t.part q = (s.part q).share ∧ (t.arr q).slots = [] ∧ (t.arr (q + 8)).slots = [] ∧ (t.arr q).staged = none) ∧
    (∀ q : Nat, q ∉ s.setOf p → t.part q = s.part q) ∧ t.objs = s.objs ∧ t.cmds.map (·.uid) = s.cmds.map (·.uid) ∧
    t.cmds.map (·.status) = s.cmds.map (·.status)) ∧
  (¬ done → exec (.releaseComplete p) s = .next s)

/-- R417, R459: PART_RESET ends the commands of its partition, or of the whole set in CLAIMING or EXCLUSIVE, with
PREEMPT_ABORTED; the partitions are SHARED, with no tile staged, no charge and no tile slot beyond those of passes in the arrays. -/
def partReset : Prop := ∀ (p : Nat) (v : BitVec 32) (s : State), s.globalOpen = true → p < 8 → s.calm → distinct s →
  bit v.toNat 0 = true →
  let ps := if (s.part p).state = 1 ∨ (s.part p).state = 2 then s.setOf p else [p]
  ∃ t : State, exec (.partReset p v) s = .next t ∧ allEnd s t (fun c => ps.contains (s.ctx c.e.ctx).partition) stPreempt ∧
    (∀ q ∈ ps, t.part q = (s.part q).share ∧ ∀ a ∈ [q, q + 8], (t.arr a).staged = none ∧ (t.arr a).charge = 0 ∧
      (t.arr a).inflight = (s.arr a).inflight ∧ ((s.arr a).inflight = [] → (t.arr a).slots = [])) ∧
    (∀ q : Nat, q ∉ ps → t.part q = s.part q)

/-! #### Keys -/

/-- R463: ENROLL stores the 96 bytes of SEC_KEY_DATA, when they are a point of P-384, at an empty index; SEC_KEY_DATA is cleared
whatever comes of the write. -/
def secKeyEnroll : Prop := ∀ (v : BitVec 32) (s : State), s.globalOpen = true → bit v.toNat 0 = true → s.mgmt.keySel < 8 →
  let key := (List.range 96).map (fun k => tget 0 s.mgmt.keyData k)
  let ok := bit v.toNat 1 = false ∧ tfind s.mgmt.keys s.mgmt.keySel = none ∧ keyOnCurve key = true
  (ok → exec (.secKeyEnroll v) s = .next { s with mgmt := { s.mgmt with keys := tset s.mgmt.keys s.mgmt.keySel key, keyData := [] } }) ∧
  (¬ ok → refuses (.secKeyEnroll v) s { s with mgmt := { s.mgmt with keyData := [] } } 0x107048 stInvalidField)

/-- R463: REVOKE removes the key at its index; an empty index is refused. -/
def secKeyRevoke : Prop := ∀ (v : BitVec 32) (s : State), s.globalOpen = true → bit v.toNat 1 = true → bit v.toNat 0 = false →
  s.mgmt.keySel < 8 →
  (tfind s.mgmt.keys s.mgmt.keySel ≠ none → ∃ t : State, exec (.secKeyRevoke v) s = .next t ∧
    t = { s with mgmt := { s.mgmt with keys := t.mgmt.keys, keyData := [] } } ∧ tfind t.mgmt.keys s.mgmt.keySel = none ∧
    ∀ i : Nat, i ≠ s.mgmt.keySel → tfind t.mgmt.keys i = tfind s.mgmt.keys i) ∧
  (tfind s.mgmt.keys s.mgmt.keySel = none →
    refuses (.secKeyRevoke v) s { s with mgmt := { s.mgmt with keyData := [] } } 0x107048 stInvalidField)

/-! #### The shard group -/

/-- R283, R284, R464: VALID forms a group of 2, 4 or 8 members whose number is not 0, with every port that shows a partner training;
another configuration is refused, and so is a change of MEMBER or SIZE while VALID is 1. -/
def peerGroupCfgSet : Prop := ∀ (v : BitVec 32) (s : State), s.globalOpen = true → bit v.toNat 31 = true →
  let size := v.toNat % 16
  let mem := bits v.toNat 10 8
  let ok := (size = 2 ∨ size = 4 ∨ size = 8) ∧ mem < size ∧ s.peer.gid ≠ 0
  (s.peer.valid = false → ok → ∃ t : State, exec (.peerGroupCfgSet v) s = .next t ∧ t = { s with peer := t.peer } ∧
    t.peer.valid = true ∧ t.peer.member = mem ∧ t.peer.size = size ∧ t.peer.group = 1 ∧ t.peer.lost = [] ∧ t.peer.ops = s.peer.ops ∧
    t.peer.epoch = s.peer.epoch ∧ t.peer.formingSince = s.time.now ∧
    ∀ (k : Nat) (x : Port), tfind s.peer.ports k = some x → tfind t.peer.ports k =
      some (if x.present = true ∧ x.partnerLive = true then { x with state := 1 } else x)) ∧
  (s.peer.valid = false → ¬ ok → refuses (.peerGroupCfgSet v) s s 0x108004 stInvalidField) ∧
  (s.peer.valid = true → mem = s.peer.member → size = s.peer.size → exec (.peerGroupCfgSet v) s = .next s) ∧
  (s.peer.valid = true → mem ≠ s.peer.member ∨ size ≠ s.peer.size → refuses (.peerGroupCfgSet v) s s 0x108004 stInvalidField)

/-- R464: a write that clears VALID ends the group: its operations end with PEER_NOT_BOUND, without a message to the members, and
its ports are off. Without a group a write sets MEMBER and SIZE. -/
def peerGroupCfgClear : Prop := ∀ (v : BitVec 32) (s : State), s.globalOpen = true → bit v.toNat 31 = false →
  (s.peer.valid = true → bits v.toNat 10 8 = s.peer.member → v.toNat % 16 = s.peer.size → s.calm → distinct s →
    ∃ t : State, exec (.peerGroupCfgClear v) s = .next t ∧
      allEnd s t (fun c => match c.body with | .run _ _ mode _ _ _ _ => mode != 0 | _ => false) stPeerNotBound ∧
      t.peer.valid = false ∧ t.peer.group = 0 ∧ t.peer.ops = [] ∧ t.peer.copies = [] ∧ t.peer.gid = s.peer.gid ∧
      t.peer.epoch = s.peer.epoch ∧ ∀ (k : Nat) (x : Port), tfind t.peer.ports k = some x → x.state = 0) ∧
  (s.peer.valid = false → exec (.peerGroupCfgClear v) s = .next { s with peer := { s.peer with
    member := bits v.toNat 10 8, size := v.toNat % 16 } })

/-- R285, R464: PEER_BIND names the bound context; it stays while a group operation is pending. -/
def peerBindWrite : Prop := ∀ (v : BitVec 32) (s : State), s.globalOpen = true →
  let busy := ∃ c ∈ s.cmds, ∃ (p n mode q b : Nat) (args : List ArgEntry) (plan : List TilePlan), c.body = .run p n mode q b args plan ∧ mode ≠ 0
  let same := bit v.toNat 31 = s.peer.bindValid ∧ v.toNat % 256 = s.peer.bindCtx
  (¬ busy ∨ same → exec (.peerBindWrite v) s = .next { s with peer := { s.peer with bindValid := bit v.toNat 31, bindCtx := v.toNat % 256 } }) ∧
  (busy → ¬ same → refuses (.peerBindWrite v) s s 0x108008 stInvalidField)

/-- R305, Table 18-20: PEER_PROGRESS_TO takes 1 to 60,000 ms. -/
def peerProgressToWrite : Prop := ∀ (v : BitVec 32) (s : State), s.globalOpen = true →
  let n := v.toNat % 65536
  (1 ≤ n → n ≤ 60000 → exec (.peerProgressToWrite v) s = .next { s with peer := { s.peer with progressTo := n } }) ∧
  (n < 1 ∨ 60000 < n → refuses (.peerProgressToWrite v) s s 0x10800C stInvalidField)

/-! #### The selects of the error log and of the ledger -/

/-- R465: ERR_SEL_HI loads ERR_RECORD with the record of that number, or with zeros; R451: the low half counts as last written. -/
def errSelHiWrite : Prop := ∀ (v : BitVec 32) (s : State), s.globalOpen = true →
  ∃ t : State, exec (.errSelHiWrite v) s = .next t ∧ t = { s with errs := { s.errs with selHi := v, window := t.errs.window } } ∧
    (∀ r : ErrRec, t.errs.window = some r → r ∈ s.errs.ring ∧ r.seq = v.toNat * 2 ^ 32 + s.errs.selLo.toNat) ∧
    (t.errs.window = none → (∀ r ∈ s.errs.ring, r.seq ≠ v.toNat * 2 ^ 32 + s.errs.selLo.toNat) ∧
      ∀ k : Nat, 4 * k < 64 → t.readErr (0x40 + 4 * k) = 0)

/-- R465: ERR_IRQ_VEC takes a vector up to 256, and its ENABLE bit. -/
def errIrqVecWrite : Prop := ∀ (v : BitVec 32) (s : State), s.globalOpen = true →
  (v.toNat % 512 ≤ 256 → exec (.errIrqVecWrite v) s = .next { s with errs := { s.errs with vec := v &&& 0x800001FF } }) ∧
  (256 < v.toNat % 512 → refuses (.errIrqVecWrite v) s s 0x109018 stInvalidField)

/-- R446, R466: LEDG_SEL_HI loads LEDG_RECORD with the record of the selected period, or with zeros. -/
def ledgSelHiWrite : Prop := ∀ (v : BitVec 32) (s : State), s.globalOpen = true →
  ∃ t : State, exec (.ledgSelHiWrite v) s = .next t ∧ t = { s with ledger := { s.ledger with selHi := v, recWin := t.ledger.recWin } } ∧
    (∀ r : Closed, t.ledger.recWin = some r → r ∈ s.ledger.ring ∧ r.seq = v.toNat * 2 ^ 32 + s.ledger.selLo.toNat) ∧
    (t.ledger.recWin = none → ∀ r ∈ s.ledger.ring, r.seq ≠ v.toNat * 2 ^ 32 + s.ledger.selLo.toNat)

/-- R466: LEDG_CTX_SEL loads LEDG_CTX with the counters of that instant. -/
def ledgCtxSelWrite : Prop := ∀ (v : BitVec 32) (s : State), s.globalOpen = true →
  exec (.ledgCtxSelWrite v) s = .next { s with ledger := { s.ledger with
    ctxSel := v.toNat % 256, ctxWin := some (tget Counts.zero s.ledger.ctrs (v.toNat % 256)) } }

/-- R446, R466: LEDG_ACK acknowledges every period up to a number; a lower value is ignored, one above the newest closed period is
refused. -/
def ledgAckWrite : Prop := ∀ (v : BitVec 32) (s : State), s.globalOpen = true →
  let n := v.toNat * 2 ^ 32 + s.ledger.ackLo.toNat
  let closed := n = 0 ∨ ∃ r ∈ s.ledger.ring, n ≤ r.seq
  (closed → exec (.ledgAckWrite v) s = .next { s with ledger := { s.ledger with ack := max s.ledger.ack n } }) ∧
  (¬ closed → refuses (.ledgAckWrite v) s s 0x10A01C stInvalidField)

/-- R443, R466: LEDG_PERIOD takes 60 to 2,678,400 s; the open period keeps the length it opened with. -/
def ledgPeriodWrite : Prop := ∀ (v : BitVec 32) (s : State), s.globalOpen = true →
  (60 ≤ v.toNat → v.toNat ≤ 2678400 → exec (.ledgPeriodWrite v) s = .next { s with ledger := { s.ledger with period := v.toNat } }) ∧
  (v.toNat < 60 ∨ 2678400 < v.toNat → refuses (.ledgPeriodWrite v) s s 0x10A000 stInvalidField)

/-! #### Billing periods and the flush of the error log -/

/-- R443 to R446: at its boundary the open period closes with its record, and the next one opens there at the length of LEDG_PERIOD,
with its counters at zero but for energy below 1 mJ; before the boundary nothing changes. -/
def ledgerPeriodClose : Prop := ∀ s : State, s.ledger.isOpen = true → s.time.running = true →
  let e := s.ledger.openAt + s.ledger.openLen * 1000000000
  (e ≤ s.time.now → s.ledger.ring.length ≤ 1024 → ∃ t : State, exec .ledgerPeriodClose s = .next t ∧
    t.ledger.openSeq = s.ledger.openSeq + 1 ∧ t.ledger.openAt = e ∧ t.ledger.openLen = s.ledger.period ∧ t.ledger.isOpen = true ∧
    (∀ p ∈ t.ledger.ctrs, p.2.steps = 0 ∧ p.2.vops = 0 ∧ p.2.codes = 0 ∧ p.2.nread = 0 ∧ p.2.nwrite = 0 ∧ p.2.energy < 1000) ∧
    t.ledger.ring.length = min (s.ledger.ring.length + 1) 1024 ∧
    (s.ledger.ring.length < 1024 → t.ledger.overwritten = s.ledger.overwritten ∧ ∀ r ∈ s.ledger.ring, r ∈ t.ledger.ring) ∧
    (∀ (o : Closed) (rs : List Closed), s.ledger.ring = o :: rs → s.ledger.ring.length = 1024 →
      t.ledger.overwritten = if s.ledger.ack < o.seq then satAdd 32 s.ledger.overwritten 1 else s.ledger.overwritten) ∧
    ∃ r : Closed, t.ledger.ring.getLast? = some r ∧ r.seq = s.ledger.openSeq ∧ r.openAt = s.ledger.openAt ∧ r.closeAt = e ∧
      r.len = s.ledger.openLen ∧ r.ctrs = s.ledger.ctrs ∧ bit r.flags 1 = false) ∧
  (s.time.now < e → exec .ledgerPeriodClose s = .next s)

/-- R434: the staged records enter the ring in order, which keeps the last 65,536; a store operation for them is queued. -/
def errorLogFlush : Prop := ∀ s : State, s.live = true →
  (s.errs.staging = [] → exec .errorLogFlush s = .next s) ∧
  (s.errs.staging ≠ [] → ∃ t : State, exec .errorLogFlush s = .next t ∧ t.errs.staging = [] ∧
    t.errs.next = s.errs.next ∧ { kind := .errorRecords } ∈ t.store.queue ∧ t.errs.ring.length = min (s.errs.ring.length + s.errs.staging.length) 65536 ∧
    (s.errs.ring.length + s.errs.staging.length ≤ 65536 → t.errs.ring = s.errs.ring ++ s.errs.staging) ∧
    (s.errs.staging.length ≤ 65536 → s.errs.staging <:+ t.errs.ring))

/-! #### Self-tests -/

/-- R462: START makes a test of an array due, unless the array is retired or a test of it runs. -/
def mxaTestStart : Prop := ∀ (a : Nat) (v : BitVec 32) (s : State), s.globalOpen = true → a < 16 → bit v.toNat 0 = true →
  let busy := (s.arr a).state = 2 ∨ ∃ x ∈ s.tests, (1 ≤ x.kind ∧ x.kind ≤ 3) ∧ x.index = a ∧ x.running = true
  (¬ busy → ∃ t : State, exec (.mxaTestStart a v) s = .next t ∧ t = { s with tests := t.tests } ∧ (∀ x ∈ s.tests, x ∈ t.tests) ∧
    ∃ x ∈ t.tests, x.kind = 1 ∧ x.index = a ∧ x.running = false) ∧
  (busy → exec (.mxaTestStart a v) s = .next s)

/-- R148, R203: the due test of an array starts when no pass is in the array and its partner is not under test; the array leaves
service, and a staged pass is picked again. -/
def targetedSelfTest : Prop := ∀ (k a : Nat) (s : State), s.live = true → 1 ≤ k → k ≤ 3 → a < 16 →
  (∃ x ∈ s.tests, x.kind = k ∧ x.index = a ∧ x.running = false) →
  let free := (s.arr a).state ≠ 2 ∧ (s.arr a).inflight = [] ∧ (s.arr ((a + 8) % 16)).state ≠ 1
  (free → ∃ t : State, exec (.targetedSelfTest k a) s = .next t ∧ t.arr a = { s.arr a with state := 1, staged := none } ∧
    (∀ b : Nat, b ≠ a → t.arr b = s.arr b) ∧
    t.tests = s.tests.map (fun x => if x.kind = k ∧ x.index = a then { x with running := true } else x)) ∧
  (¬ free → exec (.targetedSelfTest k a) s = .next s)

/-- R149, R150: the verdict of a test. No reproduction, and fewer than three transient verdicts in 24 h of power-on time, is
transient (kind 3): counted, and the array serves again. A reproduction is lasting (kind 4): a row of an array takes a spare row
while one of three is left (kind 6), and an array without one is retired. -/
def selfTestVerdict : Prop := ∀ (a repro axis : Nat) (x : TestSt) (s : State), s.live = true → a < 16 → s.tests = [x] → x.kind = 1 →
  x.index = a → x.running = true → (s.arr a).state = 1 → s.errs.staging.length < 254 →
  let told (t : State) (k : Nat) : Prop := ∃ r ∈ t.errs.staging, r.cls = x.cls ∧ r.kind = k ∧ r.unit = unitOf 1 a
  (repro = 0 → s.earlier 1 a < 3 → ∃ t : State, exec (.selfTestVerdict 1 a repro axis) s = .next t ∧ t.tests = [] ∧ told t 3 ∧
    (t.arr a).state = 0 ∧ t.verdicts = s.verdicts ++ [(1, a, s.power.onTime)] ∧
    (tget (0, 0) t.verdictCtrs (unitOf 1 a)).2 = satAdd 16 (tget (0, 0) s.verdictCtrs (unitOf 1 a)).2 1) ∧
  (0 < repro ∨ 3 ≤ s.earlier 1 a → axis = 0 → (s.arr a).spareRows < 3 → ∃ t : State,
    exec (.selfTestVerdict 1 a repro axis) s = .next t ∧ t.tests = [] ∧ told t 4 ∧ told t 6 ∧
    t.arr a = { s.arr a with state := 0, spareRows := (s.arr a).spareRows + 1 } ∧ t.verdicts = s.verdicts ∧
    (tget (0, 0) t.verdictCtrs (unitOf 1 a)).1 = satAdd 16 (tget (0, 0) s.verdictCtrs (unitOf 1 a)).1 1) ∧
  (0 < repro ∨ 3 ≤ s.earlier 1 a → axis = 0 → 3 ≤ (s.arr a).spareRows → ∃ t : State,
    exec (.selfTestVerdict 1 a repro axis) s = .next t ∧ t.tests = [] ∧ (t.arr a).state = 2)

/-! #### Placement that the drive moves by itself -/

/-- R164, R165: the copying of a page begins to a tier that its placement word permits and that has room; its bytes and its tier stay. -/
def migrationStart : Prop := ∀ (o p tier : Nat) (x : ObjectSt) (g : PageSt) (s : State), s.live = true → s.obj? o = some x →
  tfind x.pageTab p = some g → x.kind ≠ 3 → x.persistent = false → tier ≤ maxTier x.word → g.tier ≠ tier → g.moving = none →
  g.lost = false → s.class0Names o p = false →
  s.room (s.homeParts x.part) tier (if (diesFor x.word p).contains g.die then g.die else (diesFor x.word p).headD 0) = true →
  ∃ (t : State) (y : ObjectSt), exec (.migrationStart o p tier) s = .next t ∧ oneObject s t o y ∧
    tfind y.pageTab p = some { g with moving := some tier } ∧ (∀ a : Nat, y.byte a = x.byte a) ∧
    ∀ q : Nat, q ≠ p → tfind y.pageTab q = tfind x.pageTab q

/-- R165: the translation switches to the copy; the bytes are the same. -/
def migrationSwitch : Prop := ∀ (o p tier : Nat) (x : ObjectSt) (g : PageSt) (s : State), s.live = true → s.obj? o = some x →
  tfind x.pageTab p = some g → g.moving = some tier → s.class0Names o p = false →
  ∃ (t : State) (y : ObjectSt) (g' : PageSt), exec (.migrationSwitch o p) s = .next t ∧ oneObject s t o y ∧
    tfind y.pageTab p = some g' ∧ g'.tier = tier ∧ g'.moving = none ∧ (∀ a : Nat, y.byte a = x.byte a) ∧
    ∀ q : Nat, q ≠ p → tfind y.pageTab q = tfind x.pageTab q

/-- R170, R171: a speculative read of a T2 page that a pending command names adds a copy, within the run-ahead of the placement word;
the object's bytes, and every other page, are as before. -/
def speculativeReadIssue : Prop := ∀ (uid o p h : Nat) (c : Cmd) (m : HandleSt) (x : ObjectSt) (g : PageSt) (s : State), s.live = true →
  s.cmd? uid = some c → c.status = none → c.st ≠ .blocked → h ∈ c.handles → tfind (s.ctx c.e.ctx).handles h = some m → m.obj = o →
  s.obj? o = some x → x.kind ≠ 3 → x.mark = false → tfind x.pageTab p = some g → g.tier = 2 → g.lost = false → g.copies = [] →
  homeTier x.word = 1 → (x.pageTab.map (fun q => q.2.copies.countP (·.spec))).sum < runAhead x.word →
  s.room (s.homeParts x.part) 1 g.die = true →
  ∃ (t : State) (y : ObjectSt), exec (.speculativeReadIssue uid o p) s = .next t ∧ oneObject s t o y ∧
    tfind y.pageTab p = some { g with copies := [{ tier := 1, die := g.die, gen := g.gen, spec := true }] } ∧
    (∀ a : Nat, y.byte a = x.byte a) ∧ (∀ q : Nat, q ≠ p → tfind y.pageTab q = tfind x.pageTab q) ∧ t.cmds = s.cmds

/-- R202: the patrol scrub changes nothing that a command or a register shows; the model counts its steps. -/
def patrolScrub : Prop := ∀ (stack bank : Nat) (s : State), s.live = true → stack < 2 → bank < 48 →
  ∃ t : State, exec (.patrolScrub stack bank) s = .next t ∧ t = { s with nand := { s.nand with scrubs := t.nand.scrubs } } ∧
    tget 0 t.nand.scrubs stack = satAdd 64 (tget 0 s.nand.scrubs stack) 1

end Sys2Proof.Claims

/-- R155, R193, R456, R457, R460, R461: quotas, reservations and the assignment of contexts. -/
def Obligations.QuotasAndAssignments : Prop :=
  Claims.partDramQuotaWrite ∧ Claims.schedResvWrite ∧ Claims.reservationWindowBoundary ∧ Claims.memT2QuotaWrite ∧ Claims.ctxAssignWrite

/-- R179 to R181, R417, R458, R459: exclusive jobs and partition resets. -/
def Obligations.ExclusiveJobs : Prop :=
  Claims.partExclClaim ∧ Claims.claimComplete ∧ Claims.partExclAbort ∧ Claims.releaseComplete ∧ Claims.partReset

/-- R283, R285, R463, R464: the enrolled keys and the shard group's registers. -/
def Obligations.KeysAndGroupRegisters : Prop :=
  Claims.secKeyEnroll ∧ Claims.secKeyRevoke ∧ Claims.peerGroupCfgSet ∧ Claims.peerGroupCfgClear ∧ Claims.peerBindWrite ∧
  Claims.peerProgressToWrite

/-- R434, R443 to R446, R465, R466: the registers of the error log and of the ledger, billing periods, and the flush of the error log.
That a closed record and flushed records enter their rings at once, before the store writes them, is the model's (assumption log 45). -/
def Obligations.ErrorLogAndLedger : Prop :=
  Claims.ledgerPeriodClose ∧ Claims.errorLogFlush ∧ Claims.errSelHiWrite ∧ Claims.errIrqVecWrite ∧ Claims.ledgSelHiWrite ∧ Claims.ledgCtxSelWrite ∧ Claims.ledgAckWrite ∧ Claims.ledgPeriodWrite

/-- R148 to R150, R203, R462: the self-tests of the arrays. -/
def Obligations.SelfTests : Prop := Claims.mxaTestStart ∧ Claims.targetedSelfTest ∧ Claims.selfTestVerdict

/-- R164, R165, R170, R171, R202: what the drive moves by itself. That a speculative read lands as it is issued is the model's
(assumption log 46). -/
def Obligations.Migrations : Prop :=
  Claims.migrationStart ∧ Claims.migrationSwitch ∧ Claims.speculativeReadIssue ∧ Claims.patrolScrub

/-! ### Passes (chapters 4 to 6 and 8) -/

namespace Sys2Proof.Claims

/-- No QUEUE_DESTROY and no JOB_END is pending, which would go on by itself when a command ends. -/
def noWaiter (s : State) : Prop := ∀ c ∈ s.cmds, isWaiter c.body = false

/-- The next pass of a command on an array runs failed rows again (R145). -/
def rerunsRows (s : State) (a : Nat) (c : Cmd) : Prop :=
  ∃ (i : Nat) (t : TileSt) (td : PassTodo) (rest : List PassTodo), s.nextTile c a = some i ∧ c.tiles[i]? = some t ∧
    t.todo = td :: rest ∧ td.rows.isSome = true

/-- Table 8-3, R187 to R190, R193, R408: the order of the pick on an array: passes that run failed rows again come first, then the
class-0 command whose turn it is while it is within the reservation; of the rest, none while the drive defers them, and aged commands
before others, the oldest first. -/
def pickOrder : Prop := ∀ (a : Nat) (c : Cmd) (s : State), s.choice a = some c →
  c ∈ s.candidates a ∧
  (∀ d ∈ s.candidates a, rerunsRows s a d → rerunsRows s a c ∧ older c d = true) ∧
  ((∀ d ∈ s.candidates a, ¬ rerunsRows s a d) →
    (∀ d : Cmd, s.turn0 a (s.candidates a) = some d → s.nextWithin d a = true → c = d) ∧
    ((∀ d : Cmd, s.turn0 a (s.candidates a) = some d → s.nextWithin d a = false) → s.defers a = false ∧
      ∀ d ∈ s.candidates a, d.aged = true → d.cls ≠ 0 → c.aged = true ∧ c.cls ≠ 0 ∧ older c d = true))

/-- The array with its choice to be made anew (R187). -/
def repick (s : State) (a : Nat) : State := s.modArr a (fun x => { x with staged := none, class0 := (s.holder a).map (·.uid) })

/-- R86, R93, R187: the pick stages the next pass of the chosen command, and a new tile that passes its check takes its tile slots;
nothing is staged when no command is chosen. -/
def passPick : Prop := ∀ (a : Nat) (s : State), s.live = true → a < 16 → s.calm → noWaiter s → (repick s a).overFails a = none →
  ((repick s a).choice a = none → ∃ t : State, exec (.passPick a) s = .next t ∧ (t.arr a).staged = none ∧ t.objs = s.objs ∧
    (t.arr a).inflight = (s.arr a).inflight ∧ (t.arr a).slots = (s.arr a).slots ∧ ∀ b : Nat, b ≠ a → t.arr b = s.arr b) ∧
  (∀ (c : Cmd) (i : Nat) (x : TileSt), (repick s a).choice a = some c → (repick s a).nextTile c a = some i → c.tiles[i]? = some x →
    (x.began = true → ∃ t : State, exec (.passPick a) s = .next t ∧ (t.arr a).staged = some (c.uid, i) ∧ t.objs = s.objs ∧
      (t.arr a).slots = (s.arr a).slots ∧ ∀ b : Nat, b ≠ a → t.arr b = s.arr b) ∧
    (∀ (y : TileSt) (sl : List Nat), x.began = false → (repick s a).precheck c x = .ok y →
      (repick s a).slotsFor c a x.plan.rows = some sl → ∃ t : State, exec (.passPick a) s = .next t ∧
      (t.arr a).staged = some (c.uid, i) ∧ (∀ k ∈ sl, tfind (t.arr a).slots k = some (c.uid, i)) ∧
      (∀ k : Nat, k ∉ sl → tfind (t.arr a).slots k = tfind (s.arr a).slots k) ∧ ∀ b : Nat, b ≠ a → t.arr b = s.arr b))

/-- R190: a QUEUED command of classes 1 to 3 has aged after 50 ms; another one stays as it is. -/
def commandAged : Prop := ∀ (uid : Nat) (c : Cmd) (s : State), s.live = true → s.cmd? uid = some c →
  (c.st = .queued → c.cls ≠ 0 → c.queuedAt + 50000000 ≤ s.time.now → ∃ t : State, exec (.commandAged uid) s = .next t ∧
    t = { s with cmds := t.cmds } ∧ t.cmd? uid = some { c with aged := true }) ∧
  (c.st ≠ .queued ∨ c.cls = 0 ∨ s.time.now < c.queuedAt + 50000000 → exec (.commandAged uid) s = .next s)

/-- R86, R139, R140, R194, R441: the staged pass enters: it is the newest in the array, its tile has that pass behind it, the first
pass of a command fixes its check mode, and a pass in FULL is checked; its array steps are counted for the context; the time of a
class-0 pass within the reservation is charged to the array unless it is a retry or the partition is exclusive, and one beyond it is
counted as demoted. -/
def passEntry : Prop := ∀ (a rate uid i : Nat) (c : Cmd) (t : TileSt) (td : PassTodo) (rest : List PassTodo) (s : State),
  s.passesAllowed = true → (s.arr a).state = 0 → 0 < rate → s.power.recovering.contains (arrDie a) = false →
  (s.arr a).staged = some (uid, i) → s.cmd? uid = some c → c.tiles[i]? = some t → t.todo = td :: rest →
  let steps := max (td.rowsOf t.plan.rows).length (if td.shadow then 256 else 128)
  let inside := c.cls ≠ 0 ∨ td.retry = true ∨ s.within a steps rate = true
  ∃ (u : State) (y : Cmd) (r : PassRec), exec (.passEntry a rate) s = .next u ∧ (u.arr a).staged = none ∧
    (u.arr a).inflight = (s.arr a).inflight ++ [r] ∧ r.uid = uid ∧ r.tile = i ∧ r.todo = td ∧ r.entered = s.time.now ∧
    u.cmd? uid = some y ∧ y.tiles = c.tiles.modify i (fun t => { t with todo := rest }) ∧ y.status = c.status ∧
    y.mode = some (match c.mode with | some m => m | none => ((s.ctx c.e.ctx).effMode.1, (s.ctx c.e.ctx).effMode.2.1)) ∧
    (c.mode = none → y.strict = bit (s.ctx c.e.ctx).policy.toNat 8 ∧ y.overFail = bit (s.ctx c.e.ctx).policy.toNat 9 ∧
      y.seed = (s.ctx c.e.ctx).seed) ∧
    (∀ n : Nat, y.mode = some (0, n) → r.checked = true) ∧ (∀ n : Nat, y.mode = some (2, n) → r.checked = td.retry) ∧
    (tget Counts.zero u.ledger.ctrs c.e.ctx).steps = satAdd 64 (tget Counts.zero s.ledger.ctrs c.e.ctx).steps steps ∧
    (c.cls = 0 → inside → td.retry = false → (s.part (a % 8)).state ≠ 2 → (u.arr a).charge = (s.arr a).charge + steps * 1000 / rate) ∧
    (c.cls ≠ 0 ∨ td.retry = true ∨ (s.part (a % 8)).state = 2 → (u.arr a).charge = (s.arr a).charge) ∧
    (¬ inside → (u.part (a % 8)).demoted = satAdd 32 (s.part (a % 8)).demoted 1 ∧ (u.arr a).charge = (s.arr a).charge) ∧
    u.objs = s.objs

/-- The accumulators of a tile have grown by exactly the updates of a pass (R81, R110, R129). -/
def updated (s : State) (c : Cmd) (t y : TileSt) (td : PassTodo) : Prop := ∀ (act w : Operand) (i j : Nat) (v : Int),
  s.actOperand c t = some act → s.slotOperand c t.plan.wSlot = some w → i < t.plan.rows → j < t.plan.cols →
  elemUpdate act w t td i j = .ok v → y.accAt i j = t.accAt i j + v

/-- R81, R129: at its end the oldest pass in the array has added its products, exactly, to the accumulators of its tile; a checked
pass then awaits its verdicts. An error of the array (R133) is added to the accumulator that it hits. -/
def passEnd : Prop := ∀ (a idle : Nat) (r : PassRec) (rest : List PassRec) (c : Cmd) (t : TileSt) (us : List (Nat × Nat × Int)) (s : State),
  s.live = true → s.calm → noWaiter s → (s.arr a).inflight = r :: rest → s.cmd? r.uid = some c → c.tiles[r.tile]? = some t →
  t.finished = false → t.plan.cols ≤ 128 → r.todo.rows = none → s.definedUpdates c t r.todo = .ok us →
  (∃ (u : State) (y : Cmd) (z : TileSt), exec (.passEnd a [] idle) s = .next u ∧ (u.arr a).inflight = rest ∧
    u.cmd? r.uid = some y ∧ y.tiles[r.tile]? = some z ∧ z = { t with acc := z.acc } ∧ updated s c t z r.todo ∧
    (u.arr a).checking = (s.arr a).checking ++ (if r.checked then [{ r with applied := us, errs := [] }] else []) ∧ u.objs = s.objs) ∧
  (∀ (e : PassError) (v : Int), e.row < t.plan.rows → e.col < t.plan.cols → (e.row, e.col, v) ∈ us →
    ∃ (u : State) (y : Cmd) (z : TileSt), exec (.passEnd a [e] idle) s = .next u ∧ u.cmd? r.uid = some y ∧
      y.tiles[r.tile]? = some z ∧ z.accAt e.row e.col = t.accAt e.row e.col + v + e.delta)

/-- R131: a pass without an error agrees in every comparison: its rows pass, and once all have, its column verdict takes it out of
the array's check. -/
def cleanVerdicts : Prop := ∀ (a row : Nat) (r : PassRec) (rs : List PassRec) (c : Cmd) (t : TileSt) (s : State), s.live = true → s.calm →
  noWaiter s → (s.arr a).checking = r :: rs → s.cmd? r.uid = some c → c.tiles[r.tile]? = some t → r.errs = [] → r.badRows = [] →
  (row ∈ r.todo.rowsOf t.plan.rows → row ∉ r.okRows → ∃ u : State, exec (.rowVerdict a r.pid row) s = .next u ∧
    (u.arr a).checking.head? = some { r with okRows := r.okRows ++ [row] } ∧ u.cmds = s.cmds ∧ u.errs = s.errs) ∧
  (r.okRows.length = (r.todo.rowsOf t.plan.rows).length → (t.finished = false ∨ c.status ≠ none) →
    ∃ u : State, exec (.columnVerdict a r.pid) s = .next u ∧
      (u.arr a).checking = rs.filter (fun q => q.pid != r.pid) ∧ u.cmds = s.cmds ∧ u.errs = s.errs)

/-- R132, R145, R146: a row whose comparison fails is taken back out of the accumulators, and logged; once every row has its verdict
the failed rows run again as a retry. A failure of the rows that ran again ends the command with CHECK_FAILED, and so does a column
comparison that fails. -/
def failedVerdicts : Prop := ∀ (a row : Nat) (r : PassRec) (rs : List PassRec) (c : Cmd) (t : TileSt) (s : State), s.live = true → s.calm →
  noWaiter s → distinct s → (s.arr a).checking = r :: rs → s.cmd? r.uid = some c → c.status = none → c.tiles[r.tile]? = some t →
  r.badRows = [] →
  (row ∈ r.todo.rowsOf t.plan.rows → row ∉ r.okRows → rowPasses r.draw r.errs t.plan.cols row = false →
    (r.todo.rows = none → r.okRows.length + 1 = t.plan.rows → t.plan.cols ≤ 128 → ∃ (u : State) (y : Cmd) (z : TileSt),
      exec (.rowVerdict a r.pid row) s = .next u ∧ u.cmd? r.uid = some y ∧ y.tiles[r.tile]? = some z ∧
      z.todo = { r.todo with rows := some [row], retry := true } :: t.todo ∧ (∃ x ∈ u.tests, x.kind = 1 ∧ x.index = a) ∧
      (u.arr a).checking = rs.filter (fun q => q.pid != r.pid) ∧
      ∀ j : Nat, j < t.plan.cols → (∀ e ∈ r.applied, e.2.1 < 128) →
        z.accAt row j = t.accAt row j - ((r.applied.filter (fun e => e.1 == row && e.2.1 == j)).map (·.2.2)).sum) ∧
    (r.todo.rows.isSome = true → ∃ (u : State) (y : Cmd), exec (.rowVerdict a r.pid row) s = .next u ∧ u.cmd? r.uid = some y ∧
      y.status = some stCheckFailed)) ∧
  (r.okRows.length = (r.todo.rowsOf t.plan.rows).length →
    (∃ j : Nat, j < t.plan.cols ∧ colPasses r.draw r.errs (r.todo.rowsOf t.plan.rows) j = false) →
    ∃ (u : State) (y : Cmd), exec (.columnVerdict a r.pid) s = .next u ∧ u.cmd? r.uid = some y ∧ y.status = some stCheckFailed)

/-- R89, R91, R116, R441: a row that may drain, of a tile that is not its last, goes through the epilogue to its output range, and to
no other byte of any object; its vector operations are counted for the context. The clause takes an output without group exponents. -/
def rowDrain : Prop := ∀ (a uid ti row n : Nat) (c : Cmd) (t : TileSt) (h : HandleSt) (x : ObjectSt) (arg : ArgEntry) (d : SlotDesc)
    (s : State), s.live = true → s.calm → noWaiter s → s.Canonical → s.cmd? uid = some c → c.status = none → c.tiles[ti]? = some t →
  t.array = a → s.drainable c ti t row = true → s.rowOwner c t row = none → c.strict = false → t.plan.outSlot = some n →
  s.slotArg c n = some (h, x, arg, d) → groupSize d.group = 0 → t.drained.length + 1 < t.plan.rows → x.persistent = false →
  let codes := (s.epilogueRow c t row ((List.range 128).map (fun j => t.accAt row j))).codes
  let w := packFrom x.byte d.fmt arg.offset ((t.plan.row0 + row) * d.rowLen + t.plan.col0) codes
  (∀ p ∈ pagesOf w.1 w.2.length, (tfind x.pageTab p).isSome = true) →
  ∃ (u : State) (y : Cmd) (z : TileSt) (o : ObjectSt), exec (.rowDrain a uid ti row 0 0) s = .next u ∧ oneObject s u h.obj o ∧
    (∀ b : Nat, o.byte b = if w.1 ≤ b ∧ b < w.1 + w.2.length then w.2.getD (b - w.1) 0 else x.byte b) ∧
    u.cmd? uid = some y ∧ y.status = none ∧ y.tiles[ti]? = some z ∧ z.drained = t.drained ++ [row] ∧
    (tget Counts.zero u.ledger.ctrs c.e.ctx).vops = satAdd 64 (tget Counts.zero s.ledger.ctrs c.e.ctx).vops t.plan.cols

/-- R134, R136: a double-bit error of the accumulators starts the tile again, with all its passes as retries, and makes a test of the
array due; two lockstep mismatches of a row in FULL end the command with CHECK_FAILED. -/
def drainErrors : Prop := ∀ (a uid ti row : Nat) (c : Cmd) (t : TileSt) (s : State), s.live = true → s.calm → noWaiter s → distinct s →
  s.cmd? uid = some c → c.status = none → c.tiles[ti]? = some t → t.array = a → s.drainable c ti t row = true →
  s.rowOwner c t row = none →
  (∃ (u : State) (y : Cmd) (z : TileSt), exec (.rowDrain a uid ti row 0 2) s = .next u ∧ u.cmd? uid = some y ∧ y.tiles[ti]? = some z ∧
    z.acc = [] ∧ z.drained = [] ∧ (∀ td ∈ z.todo, td.retry = true) ∧ (∃ x ∈ u.tests, x.kind = 1 ∧ x.index = a) ∧ u.objs = s.objs) ∧
  (∀ m : Nat, c.mode = some (0, m) → ∃ (u : State) (y : Cmd), exec (.rowDrain a uid ti row 2 0) s = .next u ∧ u.cmd? uid = some y ∧
    y.status = some stCheckFailed)

end Sys2Proof.Claims

/-- R86, R93, R187 to R190, R193: the pick. -/
def Obligations.Picks : Prop := Claims.pickOrder ∧ Claims.passPick ∧ Claims.commandAged

/-- R81, R86, R129, R139, R140, R194: the entry and the end of a pass. -/
def Obligations.Passes : Prop := Claims.passEntry ∧ Claims.passEnd

/-- R131, R132, R145, R146: the verdicts of the residue check. -/
def Obligations.Verdicts : Prop := Claims.cleanVerdicts ∧ Claims.failedVerdicts

/-- R89, R91, R116, R134, R136: the drain of a row. -/
def Obligations.RowDrains : Prop := Claims.rowDrain ∧ Claims.drainErrors

/-! ### Searches (chapter 9) -/

namespace Sys2Proof.Claims

/-- A query of a pending search. -/
def queryOf (s : State) (uid q : Nat) : Option QuerySt :=
  match s.cmd? uid with
  | none => none
  | some c => match c.search with
    | none => none
    | some x => x.queries[q]?

/-- A search runs, with its query and its parameters, and nothing else moves by itself. -/
structure Searching (s : State) (uid q : Nat) (c : Cmd) (x : SearchSt) (y : QuerySt) (a : SearchArgs) : Prop where
  running : s.runningQuery uid q = some (c, x, y, a)
  lanes : s.lanesUp = true
  calm : s.calm
  waiters : noWaiter s

/-- The step answers a state in which the query has become `z`; objects, contexts and the store are as before. -/
def queryStep (k : Instr) (s : State) (uid q : Nat) (z : QuerySt) (P : State → Prop) : Prop :=
  ∃ u : State, exec k s = .next u ∧ queryOf u uid q = some z ∧ u.objs = s.objs ∧ u.ctxs = s.ctxs ∧ u.store = s.store ∧
    u.cmds.map (·.uid) = s.cmds.map (·.uid) ∧ (∀ d ∈ s.cmds, d.uid ≠ uid → d ∈ u.cmds) ∧ P u

/-- The step ends the search with a status. -/
def searchStops (k : Instr) (s : State) (uid st : Nat) : Prop :=
  ∃ (u : State) (d : Cmd), exec k s = .next u ∧ u.cmd? uid = some d ∧ d.status = some st ∧ d.search = none

/-- R223: a speculative scan of a list that the query does not scan yet is launched under a PENDING tag, while the selection is open,
at most 16 in flight and 1,024 in all; otherwise nothing changes. -/
def speculativeScanLaunch : Prop := ∀ (uid q list : Nat) (c : Cmd) (x : SearchSt) (y : QuerySt) (a : SearchArgs) (s : State),
  Searching s uid q c x y a →
  let ok := y.tableSent = true ∧ y.final = false ∧ list < a.ix.head.nlist ∧ (∀ z ∈ y.scans, z.list ≠ list) ∧
    (y.scans.filter (fun z => z.tag == 0 && !z.ended)).length < 16 ∧ y.scans.length < 1024
  (ok → queryStep (.speculativeScanLaunch uid q list) s uid q
    { y with scans := y.scans ++ [ScanSt.fresh y.scans.length list 0] } (fun u => u.ledger = s.ledger)) ∧
  (¬ ok → exec (.speculativeScanLaunch uid q list) s = .next s)

/-- R214, R215, R220: the first table of a search takes a free merger slot for each query, and waits without one; the table goes to
the lanes, its entries are counted as vector operations, and the first one's passes as array steps. A product that no tile could
take ends the search with its status. -/
def distanceTableSend : Prop := ∀ (uid q : Nat) (c : Cmd) (x : SearchSt) (y : QuerySt) (a : SearchArgs) (s : State),
  Searching s uid q c x y a → s.passesAllowed = true → y.tableSent = false →
  let first := ∀ z ∈ x.queries, z.tableSent = false
  (first → (s.freeSlots c).length < a.nq → exec (.distanceTableSend uid q) s = .next s) ∧
  (∀ (e fl : Nat) (t : List Int), a.tables q = .ok (e, t, fl) →
    (¬ first → queryStep (.distanceTableSend uid q) s uid q { y with tableSent := true, tableExp := e, table := t } (fun u =>
      (tget Counts.zero u.ledger.ctrs c.e.ctx).vops = satAdd 64 (tget Counts.zero s.ledger.ctrs c.e.ctx).vops (256 * a.ix.head.m))) ∧
    (first → a.nq ≤ (s.freeSlots c).length → x.queries.length = a.nq →
      queryStep (.distanceTableSend uid q) s uid q
        { y with tableSent := true, tableExp := e, table := t, slot := (s.freeSlots c).getD q 0, gen := s.nextId % 8192 }
        (fun u => (tget Counts.zero u.ledger.ctrs c.e.ctx).steps =
          satAdd 64 (tget Counts.zero s.ledger.ctrs c.e.ctx).steps (128 * a.ix.head.tblPasses)))) ∧
  (∀ e : Nat, a.tables q = .error e → (first → a.nq ≤ (s.freeSlots c).length) → searchStops (.distanceTableSend uid q) s uid e)

/-- R213, R224, R226: with the selection final, the scans of selected lists that are not short are CONFIRMED and the others STALE; every
selected list has a CONFIRMED scan, launched in the foreground where none was; candidates of CONFIRMED tags leave the provisional
pool for the kept set, those of STALE ones are discarded. A scan that has ended already is verified now (R228). -/
def selectionFinal : Prop := ∀ (uid q : Nat) (c : Cmd) (x : SearchSt) (y : QuerySt) (a : SearchArgs) (sel : List Nat) (s : State),
  Searching s uid q c x y a → s.passesAllowed = true → y.tableSent = true → y.final = false → a.selection q = .ok sel →
  let retag (z : ScanSt) : ScanSt := { z with tag := if z.list ∈ sel ∧ z.short = false then 1 else 2 }
  ((∀ z ∈ y.scans, z.ended = true → z.list ∈ sel → z.short = false → a.verify (retag z) = none) →
    ∃ z : QuerySt, queryStep (.selectionFinal uid q) s uid q z (fun u =>
        (tget Counts.zero u.ledger.ctrs c.e.ctx).codes =
          satAdd 64 (tget Counts.zero s.ledger.ctrs c.e.ctx).codes
            (((y.scans.map retag).filter (fun w => w.tag == 1)).map (·.codes)).sum) ∧
      z.final = true ∧ z.selected = sel ∧ z.pool = [] ∧ z.scans.take y.scans.length = y.scans.map retag ∧
      (∀ l ∈ sel, ∃ w ∈ z.scans, w.list = l ∧ w.tag = 1) ∧
      (∀ w ∈ z.scans.drop y.scans.length, w.tag = 1 ∧ w.ended = false ∧ w.nextBlock = 0 ∧ w.list ∈ sel) ∧
      (∀ d ∈ z.arriving, d ∈ y.arriving ∧ ∃ w ∈ y.scans.map retag, w.launch = d.launch ∧ w.tag = 1)) ∧
  (∀ (z : ScanSt) (st : Nat), y.scans = [z] → z.ended = true → z.list ∈ sel → z.short = false → a.verify (retag z) = some st →
    searchStops (.selectionFinal uid q) s uid st)

/-- R216 to R219, R226: a lane evaluates the next block of a scan: the records that survive the filter and do not exceed the broadcast
score become candidates with their code scores, and the codes are counted, for the ledger under a CONFIRMED tag only. A block that
carries another list, index or length, or that is lost, ends the search with STORAGE_MEDIA; a second lockstep mismatch in FULL ends
it with CHECK_FAILED. -/
def codewordEvaluate : Prop := ∀ (uid q launch block mismatch : Nat) (c : Cmd) (x : SearchSt) (y : QuerySt) (a : SearchArgs) (z : ScanSt)
    (s : State), Searching s uid q c x y a → y.scans.find? (fun w => w.launch == launch) = some z → z.ended = false → z.tag ≠ 2 →
  z.nextBlock = block → block < (a.ix.dirEnt z.list).blocks → y.tableSent = true →
  let off := a.ix.blockOff z.list block
  let blk := a.ix.read off 4096
  let sound := a.ix.lostIn off 4096 = false ∧ blockOk blk z.list block a.ix.head.m = true
  let recs := blockRecs blk a.ix.head.m
  let kept := recs.filter (fun r => survives a.terms r.attr)
  let z1 := { z with nextBlock := block + 1, codes := z.codes + recs.length, survivors := z.survivors + kept.length,
                     digest := (words8 513 blk).foldl digestStep z.digest }
  (sound → mismatch = 0 ∨ (∀ n : Nat, c.mode ≠ some (0, n)) → ∃ y1 : QuerySt,
    queryStep (.codewordEvaluate uid q launch block mismatch) s uid q y1 (fun u =>
      (z.tag = 1 → (tget Counts.zero u.ledger.ctrs c.e.ctx).codes = satAdd 64 (tget Counts.zero s.ledger.ctrs c.e.ctx).codes recs.length) ∧
      (z.tag ≠ 1 → u.ledger = s.ledger)) ∧
    y1.scans = y.scans.map (fun w => if w.launch = launch then z1 else w) ∧ y1.kept = y.kept ∧ y1.pool = y.pool ∧
    (∀ d : Cand, d ∈ y1.arriving ↔ d ∈ y.arriving ∨ ∃ r ∈ kept,
      d = { id := r.id, score := codeScore y.table r.codes, list := z.list, launch := launch } ∧
      ∀ b : Cand, a.k * a.f ≤ y.kept.length → y.kept.getLast? = some b → d.score ≤ b.score)) ∧
  (¬ sound → mismatch = 0 → searchStops (.codewordEvaluate uid q launch block mismatch) s uid stStorageMedia) ∧
  (∀ n : Nat, c.mode = some (0, n) → 2 ≤ mismatch → searchStops (.codewordEvaluate uid q launch block mismatch) s uid stCheckFailed)

/-- R219, R225: a candidate of a CONFIRMED tag is merged into the kept set; one of a PENDING tag waits in the provisional pool, which
holds 16,384, and marks its tag short when the pool is full; one of a STALE tag is discarded. -/
def mergerCandidate : Prop := ∀ (uid q which : Nat) (c : Cmd) (x : SearchSt) (y : QuerySt) (a : SearchArgs) (d : Cand) (z : ScanSt)
    (s : State), Searching s uid q c x y a → y.arriving[which]? = some d → y.scans.find? (fun w => w.launch == d.launch) = some z →
  let rest := y.arriving.eraseIdx which
  (z.tag = 1 → queryStep (.mergerCandidate uid q which) s uid q { y with arriving := rest, kept := keepCand (a.k * a.f) y.kept d }
    (fun u => u.ledger = s.ledger)) ∧
  (z.tag = 2 → queryStep (.mergerCandidate uid q which) s uid q { y with arriving := rest } (fun u => u.ledger = s.ledger)) ∧
  (z.tag = 0 → y.pool.length < 16384 → queryStep (.mergerCandidate uid q which) s uid q { y with arriving := rest, pool := y.pool ++ [d] }
    (fun u => u.ledger = s.ledger)) ∧
  (z.tag = 0 → 16384 ≤ y.pool.length → queryStep (.mergerCandidate uid q which) s uid q
    { y with arriving := rest, scans := y.scans.map (fun w => if w.launch = z.launch then { w with short := true } else w) }
    (fun u => u.ledger = s.ledger))

/-- R219: the kept set holds the best K' candidates in order, one for a vector ID: a candidate joins with its score, the better one of
two for an ID is kept, between equal scores the one of the lower list. -/
def keptSet : Prop := ∀ (kk : Nat) (l : List Cand) (d : Cand), (l.map (·.id)).Nodup →
  let k := keepCand kk l d
  (k.map (·.id)).Nodup ∧ k.length = min kk (if ∃ b ∈ l, b.id = d.id then l.length else l.length + 1) ∧
  k.Pairwise (fun a b => a.score < b.score ∨ (a.score = b.score ∧ a.id ≤ b.id)) ∧
  (∀ b ∈ k, b = d ∨ b ∈ l) ∧
  (∀ b ∈ l, b.id = d.id → (d.score < b.score ∨ (d.score = b.score ∧ d.list < b.list)) → b ∉ k ∨ b = d) ∧
  (l.length < kk → ∀ b ∈ l, b.id ≠ d.id → b ∈ k)

/-- A query that has been scanned, and re-ranked when the search asks for it. -/
def queryDone (a : SearchArgs) (y : QuerySt) : Prop :=
  y.final = true ∧ (∀ z ∈ y.scans, z.ended = true) ∧ y.arriving = [] ∧ (a.rerank = true → y.reranked.isSome = true)

/-- R222, R210, R228: a scan under a CONFIRMED tag ends when its last block is evaluated and its candidates are merged, and a STALE one
at any time. A CONFIRMED one whose digest or record count differs from the directory ends the search with STORAGE_MEDIA or
INTERNAL. After the last one of a search of one query its result record is written, and it ends with SUCCESS, or with
SUCCESS_SHORT and its shortfall flag; when the index was written meanwhile, it ends with SEARCH_INDEX_STALE. -/
def scanEnd : Prop := ∀ (uid q launch : Nat) (c : Cmd) (x : SearchSt) (y : QuerySt) (a : SearchArgs) (z : ScanSt) (s : State),
  Searching s uid q c x y a → y.scans.find? (fun w => w.launch == launch) = some z → z.ended = false →
  z.tag = 2 ∨ ((a.ix.dirEnt z.list).blocks ≤ z.nextBlock ∧ ∀ d ∈ y.arriving, d.launch ≠ launch) →
  let y1 := { y with scans := y.scans.map (fun w => if w.launch = launch then { w with ended := true } else w) }
  (z.tag ≠ 1 ∨ a.verify z = none → ¬ queryDone a y1 → queryStep (.scanEnd uid q launch) s uid q y1 (fun u => u.ledger = s.ledger)) ∧
  (∀ st : Nat, z.tag = 1 → a.verify z = some st → searchStops (.scanEnd uid q launch) s uid st) ∧
  (z.tag ≠ 1 ∨ a.verify z = none → queryDone a y1 → x.queries = [y] → q = 0 →
    (a.ix.isSealed = false ∨ a.ix.head.gen ≠ x.sealGen → searchStops (.scanEnd uid q launch) s uid stIndexStale) ∧
    (∀ o : ObjectSt, a.ix.isSealed = true → a.ix.head.gen = x.sealGen → s.obj? a.out = some o → o.persistent = false →
      o.kind = 1 → c.waitItems = [] → s.Canonical →
      let b := a.record y1
      (∀ p ∈ pagesOf a.ooff b.length, (tfind o.pageTab p).isSome = true) →
      ∃ (u : State) (d : Cmd) (r : ObjectSt), exec (.scanEnd uid q launch) s = .next u ∧ u.cmd? uid = some d ∧ oneObject s u a.out r ∧
        (∀ i : Nat, r.byte i = if a.ooff ≤ i ∧ i < a.ooff + b.length then b.getD (i - a.ooff) 0 else o.byte i) ∧
        ((y1.results a.k).length = a.k → d.status = some (finalStatus stSuccess c.retried) ∧ d.dw0 = 0) ∧
        ((y1.results a.k).length < a.k → d.status = some (finalStatus stShort c.retried) ∧ d.dw0 = 1)))

/-- R221: the re-rank computes the exact score of every kept candidate from its vector slot and keeps the k best, by score and then by
vector ID; a lost vector ends the search with STORAGE_MEDIA. -/
def rerank : Prop := ∀ (uid q : Nat) (c : Cmd) (x : SearchSt) (y : QuerySt) (a : SearchArgs) (s : State),
  Searching s uid q c x y a → s.passesAllowed = true → a.rerank = true → y.scanned = true → y.reranked = none →
  let h := a.ix.head
  let off (id : Nat) : Nat := h.vecOff + id * h.vecSize
  ((∃ d ∈ y.kept, a.ix.lostIn (off d.id) h.vecSize = true) → searchStops (.rerank uid q) s uid stStorageMedia) ∧
  (∀ score : Nat → Nat, (∀ d ∈ y.kept, a.ix.lostIn (off d.id) h.vecSize = false ∧
      productScore h.metric h.code (a.query q) (a.ix.vec h.code (off d.id + 4) h.d) (a.ix.num (off d.id) 4) = .ok (score d.id)) →
    (∃ (j : Nat) (w : QuerySt), j ≠ q ∧ x.queries[j]? = some w ∧ ¬ queryDone a w) →
    ∃ r : List (Nat × Nat × Nat), queryStep (.rerank uid q) s uid q { y with reranked := some r } (fun u =>
        (tget Counts.zero u.ledger.ctrs c.e.ctx).vops = satAdd 64 (tget Counts.zero s.ledger.ctrs c.e.ctx).vops y.kept.length) ∧
      r.length = min a.k y.kept.length ∧ (∀ p ∈ r, ∃ d ∈ y.kept, p = (d.id, score d.id, d.list)) ∧
      r.Pairwise (fun p t => scoreLe (p.1, p.2.1) (t.1, t.2.1) = true))

end Sys2Proof.Claims

/-- R213 to R215, R220, R223, R224: the tables, the selection and the launch of scans. -/
def Obligations.Selections : Prop := Claims.speculativeScanLaunch ∧ Claims.distanceTableSend ∧ Claims.selectionFinal

/-- R216 to R219, R225 to R228, R210, R221, R222: scans, the merger, re-rank and the results. -/
def Obligations.Scans : Prop := Claims.codewordEvaluate ∧ Claims.mergerCandidate ∧ Claims.keptSet ∧ Claims.scanEnd ∧ Claims.rerank

/-! ### The NAND subsystem (chapter 10) -/

namespace Sys2Proof.Claims

/-- A sync mark that the search window holds and that no other one there is nearer than; of two equally near, the earlier (R237). -/
def marksAt (c : CwRead) (m : Int) : Prop :=
  m ∈ c.marks ∧ -32 ≤ m ∧ m ≤ 32 ∧ ∀ k ∈ c.marks, -32 ≤ k → k ≤ 32 → m.natAbs < k.natAbs ∨ (m.natAbs = k.natAbs ∧ m ≤ k)

/-- The decode at an offset succeeds, and gives the codeword that the request expected (R239). -/
def decodesAt (c : CwRead) (o : Int) : Prop := c.expected = true ∧ o ∈ c.decodes

/-- R237, R238, R239, Table 10-2: how a codeword is resolved by its mark and its decodes. -/
def resolution : Prop := ∀ c : CwRead,
  ((∀ m ∈ c.marks, m < -32 ∨ 32 < m) → (decodesAt c 0 → cwOut c = .miss) ∧ (¬ decodesAt c 0 → cwOut c = .fail)) ∧
  (marksAt c 0 → (decodesAt c 0 → cwOut c = .clean) ∧ (¬ decodesAt c 0 → cwOut c = .fail)) ∧
  (∀ m : Int, marksAt c m → m ≠ 0 →
    (decodesAt c m → cwOut c = .slip) ∧
    (¬ decodesAt c m → decodesAt c 0 → cwOut c = .falseMark) ∧
    (¬ decodesAt c m → ¬ decodesAt c 0 → cwOut c = .fail))

/-- The codewords of a page that failed to decode: their positions. -/
def failedCws (cws : List CwRead) : List Nat := (List.range cws.length).filter (fun i => decide (cws[i]?.map cwOut = some .fail))

/-- From s to t only NAND state, the counters of contexts and the count of free values have changed. -/
def nandOnly (s t : State) : Prop := Frame [.nand, .ledger, .freeCtr] s t

/-- R238, R239, R240, R253: a page that was read: each codeword counts its outcome; those that decode are delivered, and charged to
the context; those that fail start the ladder at level 2, but of a speculative read they are dropped; the die is free when none is
left; more than 96 corrected bits make the block due for a refresh. -/
def nandReadDone : Prop := ∀ (die : Nat) (cws : List CwRead) (r : NandReq) (s : State), s.live = true → (s.die die).busy = some r →
  r.kind = .read → (s.die die).ladder = [] → cws.length ≤ 4 →
  let n (o : CwOut) : Nat := (cws.filter (fun c => decide (cwOut c = o))).length
  let bad := if r.pri = 3 then [] else failedCws cws
  s.nand.syncMiss + n .miss < 2 ^ 32 → s.nand.syncSlip + n .slip < 2 ^ 32 → s.nand.syncFalse + n .falseMark < 2 ^ 32 →
  ∃ t : State, exec (.nandReadDone die cws) s = .next t ∧ nandOnly s t ∧ t.nand.syncMiss = s.nand.syncMiss + n .miss ∧
    t.nand.syncSlip = s.nand.syncSlip + n .slip ∧ t.nand.syncFalse = s.nand.syncFalse + n .falseMark ∧
    t.die die = { s.die die with ladder := bad.map (fun i => (i, 2)), busy := if bad = [] then none else some r } ∧
    (∀ d : Nat, d ≠ die → t.die d = s.die d) ∧
    ((∃ c ∈ cws, cwOut c ≠ .fail ∧ 96 < c.corrected) → (t.block die r.block).refresh = true) ∧
    (∀ (u : Nat) (c : Cmd), r.uid = some u → s.cmd? u = some c → cws ≠ [] → (∀ i ∈ cws, cwOut i ≠ .fail) →
      (tget Counts.zero t.ledger.ctrs c.e.ctx).nread = satAdd 64 (tget Counts.zero s.ledger.ctrs c.e.ctx).nread (4096 * cws.length))

/-- R240, R241, R253, Table 10-3: a codeword on the ladder: a success counts at its level for the drive and for the block, which is due
for a refresh; a failure goes on to the next level; after level 4 the codeword is uncorrectable: the error is logged with its NAND
address, the die is tested, and the KCI command that needs it ends with STORAGE_MEDIA. -/
def recoveryLadderStep : Prop := ∀ (die cw level : Nat) (r : NandReq) (s : State), s.live = true → s.calm → noWaiter s →
  (s.die die).busy = some r → (s.die die).ladder.find? (fun p => p.1 == cw) = some (cw, level) → 2 ≤ level → level ≤ 4 →
  let rest := (s.die die).ladder.filter (fun p => p.1 != cw)
  let freed := { s.die die with ladder := rest, busy := if rest = [] then none else some r }
  (∃ t : State, exec (.recoveryLadderStep die cw true) s = .next t ∧ nandOnly s t ∧ t.die die = freed ∧
    tget 0 t.nand.ladder (level - 2) = satAdd 32 (tget 0 s.nand.ladder (level - 2)) 1 ∧
    (t.block die r.block).refresh = true ∧ (t.block die r.block).laddered = satAdd 32 (s.block die r.block).laddered 1) ∧
  (level < 4 → ∃ t : State, exec (.recoveryLadderStep die cw false) s = .next t ∧ Frame [.nand] s t ∧
    t.die die = { s.die die with ladder := (s.die die).ladder.map (fun p => if p.1 = cw then (cw, level + 1) else p) }) ∧
  (level = 4 → s.errs.staging = [] → s.errs.ring = [] → ∃ t : State, exec (.recoveryLadderStep die cw false) s = .next t ∧
    (t.die die).ladder = freed.ladder ∧ (t.die die).busy = freed.busy ∧ tget 0 t.nand.ladder 3 = satAdd 32 (tget 0 s.nand.ladder 3) 1 ∧
    (∃ e ∈ t.errs.staging, e.cls = 0x20 ∧ e.unit = unitOf 6 die ∧ e.addr = nandAddr die r.block r.page cw) ∧
    (∃ x ∈ t.tests, x.kind = 6 ∧ x.index = die) ∧
    (∀ (u : Nat) (c : Cmd), r.uid = some u → s.cmd? u = some c → c.status = none → ∃ d : Cmd, t.cmd? u = some d ∧
      d.status = some stStorageMedia))

/-- R243, R244, R247, R248: what is due waits; a busy die starts nothing. An idle one starts an operation that may start, and of
those the first in the order of R247: a foreground program that has waited 4,000 us, then foreground reads, foreground programs,
speculative reads and background work, the oldest first. An erase starts only when no die of its group erases and it is in the plan
that stands in both journal blocks, and then it holds the group. -/
def nandOpStart : Prop := ∀ (die : Nat) (r : NandReq) (s : State), s.live = true → die / 16 < 32 → die % 16 < s.variant.targets →
  (s.die die).retired = false →
  (∀ b : NandReq, (s.die die).busy = some b → s.reqOk die r = true → exec (.nandOpStart die [r]) s =
    .next (s.modDie die (fun d => { d with waiting := d.waiting ++ [r] }))) ∧
  ((s.die die).busy = none → (∀ x ∈ (s.die die).waiting, s.startable die x = false) → exec (.nandOpStart die []) s = .next s) ∧
  ((s.die die).busy = none → (∃ x ∈ (s.die die).waiting, s.startable die x = true) → ∃ (t : State) (i : Nat) (x : NandReq),
    exec (.nandOpStart die []) s = .next t ∧ Frame [.nand] s t ∧ (s.die die).waiting[i]? = some x ∧ s.startable die x = true ∧
    t.die die = { s.die die with busy := some x, waiting := (s.die die).waiting.eraseIdx i } ∧
    (∀ y ∈ (s.die die).waiting, s.startable die y = true →
      rankOf s.time.now x < rankOf s.time.now y ∨ (rankOf s.time.now x = rankOf s.time.now y ∧ x.since ≤ y.since)) ∧
    (x.kind = .erase → (s.group (s.variant.groupOf die)).erasing = none ∧
      (t.group (s.variant.groupOf die)).erasing = some (idxOf die) ∧
      (idxOf die, x.block) ∈ (s.group (s.variant.groupOf die)).left ∧ s.planned (s.variant.groupOf die) = true))

/-- R245, R246: a read that waits on an erasing die is served from the other dies of its row when each of them can be read and none is
programming; it leaves the die's queue. With a source codeword that is lost the read waits for the erase. -/
def readAroundErase : Prop := ∀ (die block page cw : Nat) (r : NandReq) (s : State), s.live = true → cw < 4 →
  r.kind = .read → r.pri ≤ 3 → r.block = block → r.page = page → (s.die die).waiting = [r] →
  let g := s.variant.groupOf die
  let row := (List.range 16).map (s.variant.dieAt g)
  let served := (s.group g).erasing = some (idxOf die) ∧ (∀ d ∈ row, (s.die d).retired = false) ∧
    ∀ d ∈ row, ∀ q : NandReq, (s.die d).busy = some q → q.kind ≠ .program ∧ q.kind ≠ .plan
  (served → ∃ t : State, exec (.readAroundErase die block page cw []) s = .next t ∧ nandOnly s t ∧
    t.die die = { s.die die with waiting := [] } ∧
    (∀ (u : Nat) (c : Cmd), r.uid = some u → s.cmd? u = some c →
      (tget Counts.zero t.ledger.ctrs c.e.ctx).nread = satAdd 64 (tget Counts.zero s.ledger.ctrs c.e.ctx).nread 4096)) ∧
  (¬ served → exec (.readAroundErase die block page cw []) s = .next s) ∧
  (∀ b : List Nat, b ≠ [] → exec (.readAroundErase die block page cw b) s = .next s)

/-- R232, R162: a program that ends puts its word line on its row; nothing of the row is committed before the parity's word line is
programmed too. With both, a cached extent of the row is committed: it leaves the cache and its blocks read from NAND. A failed
program is an error of the die, and its block takes no more data. -/
def nandProgramDone : Prop := ∀ (die : Nat) (r : NandReq) (s : State), (s.die die).busy = some r → r.kind = .program →
  let g := s.variant.groupOf die
  let wl := r.page / 16
  let x := s.row g r.block wl
  (idxOf die ≠ r.block % 16 → r.block % 16 ∉ x.programmed → ∃ t : State, exec (.nandProgramDone die true) s = .next t ∧ Frame [.nand] s t ∧
    t.row g r.block wl = { programmed := x.programmed ++ [idxOf die], items := x.items ++ r.items.map (fun k => (idxOf die, k)) } ∧
    t.die die = { s.die die with busy := none } ∧ t.nand.items = s.nand.items) ∧
  (∀ (i j : Nat) (e : Extent), idxOf die = r.block % 16 → r.items = [] → x.items = [(j, i)] →
    tfind s.nand.items i = some (.extent e.id) → s.nvme.cache = [e] → e.kind = 0 → e.dead = [] → e.blocks.length = e.nlb →
    ∀ n : NsSt, tfind s.nvme.ns e.h.nsid = some n → ∃ (t : State) (m : NsSt), exec (.nandProgramDone die true) s = .next t ∧
      t.nvme.cache = [] ∧ tfind t.nvme.ns e.h.nsid = some m ∧ (t.row g r.block wl).items = [] ∧ tfind t.nand.items i = none ∧
      (∀ k : Nat, k < e.nlb → (tget (deallocBlk n.lbaf) m.media (e.slba + k)).data = (e.blocks.getD k (deallocBlk n.lbaf)).data) ∧
      (∀ lba : Nat, lba < e.slba ∨ e.slba + e.nlb ≤ lba → tfind m.media lba = tfind n.media lba)) ∧
  (s.errs.staging = [] → s.errs.ring = [] → ∃ t : State, exec (.nandProgramDone die false) s = .next t ∧
    t.die die = { s.die die with busy := none } ∧ (t.block die r.block).refresh = true ∧ t.row g r.block wl = x ∧
    t.nvme = s.nvme ∧ (∃ e ∈ t.errs.staging, e.cls = 0x20 ∧ e.unit = unitOf 6 die) ∧ ∃ y ∈ t.tests, y.kind = 6 ∧ y.index = die)

/-- R244, R248, R249, R253: an erase that ends frees its group and leaves the plan; its block counts an erase and takes data again. A
failed one leaves the block torn and due for another erase, and makes a test of the die due. -/
def nandEraseDone : Prop := ∀ (die : Nat) (r : NandReq) (s : State), (s.die die).busy = some r → r.kind = .erase →
  let g := s.variant.groupOf die
  let b := s.block die r.block
  (∃ t : State, exec (.nandEraseDone die true) s = .next t ∧ Frame [.nand] s t ∧ t.die die = { s.die die with busy := none } ∧
    t.block die r.block = { b with erases := b.erases + 1, reads := 0, torn := false, committed := 0, laddered := 0, refresh := false } ∧
    t.group g = { s.group g with erasing := none, left := (s.group g).left.filter (fun p => p != (idxOf die, r.block)) }) ∧
  (∃ t : State, exec (.nandEraseDone die false) s = .next t ∧ (t.die die).busy = none ∧ t.block die r.block = { b with torn := true } ∧
    (t.group g).erasing = none ∧ (∃ q ∈ (t.die die).waiting, q.kind = .erase ∧ q.block = r.block) ∧
    ∃ y ∈ t.tests, y.kind = 6 ∧ y.index = die)

/-- R250, R249: a reset of F ends every program and erase in progress: the block of a torn program is torn and due for relocation, and
the block of a torn erase is torn. Every block of the last plan page of a group that holds no committed word line is torn and due
for another erase. -/
def nandReset : Prop := ∀ s : State, s.power.mode ≠ .noRails → ∃ t : State,
  exec .nandReset s = .next t ∧ Frame [.nand] s t ∧ (∀ d : Nat, (t.die d).busy = none ∧ (t.die d).ladder = []) ∧
  (∀ (d : Nat) (r : NandReq), (s.die d).busy = some r → r.kind = .program →
    (t.block d r.block).torn = true ∧ (t.block d r.block).refresh = true) ∧
  (∀ (d : Nat) (r : NandReq), (s.die d).busy = some r → r.kind = .erase → (t.block d r.block).torn = true) ∧
  (∀ (g : Nat) (p : Nat × Nat), p ∈ (s.group g).plan → (s.group g).planOn ≠ [] →
    (s.block (s.variant.dieAt g p.1) p.2).committed = 0 → (t.block (s.variant.dieAt g p.1) p.2).torn = true ∧
      ∃ q ∈ (t.die (s.variant.dieAt g p.1)).waiting, q.kind = .erase ∧ q.block = p.2) ∧
  ∀ g : Nat, (t.group g).erasing = none

/-! #### Patrol, refresh, garbage collection and wear -/

/-- R252: a patrol reads a page of an idle die; the last one of a pass starts the 7 days again. -/
def patrolRead : Prop := ∀ (die block page : Nat) (last : Bool) (cws : List CwRead) (s : State), s.live = true → (s.die die).busy = none →
  (s.die die).retired = false → block < 2048 → page < 4096 → cws.length ≤ 4 → s.power.recovering.contains 3 = false →
  (∀ c ∈ cws, cwOut c ≠ .fail) → ∃ t : State, exec (.patrolRead die block page cws last) s = .next t ∧ Frame [.nand] s t ∧
    (t.die die).busy = none ∧ (t.die die).ladder = [] ∧ (t.die die).patrolled = (if last then s.power.onTime else (s.die die).patrolled) ∧
    (t.block die block).reads = satAdd 32 (s.block die block).reads 1

/-- R253, R249: a block with a codeword that needed the ladder or more than 96 corrected bits, with 200,000 reads, or with a torn
program is relocated and becomes due for an erase; another block is left alone. -/
def blockRefresh : Prop := ∀ (die block : Nat) (s : State), s.live = true → s.power.pstate ≤ 4 → block < 2048 →
  let b := s.block die block
  let due := b.refresh = true ∨ 200000 ≤ b.reads ∨ b.torn = true
  (due → ∃ t : State, exec (.blockRefresh die block) s = .next t ∧ Frame [.nand] s t ∧
    t.block die block = { b with committed := 0, refresh := false } ∧ ∃ q ∈ (t.die die).waiting, q.kind = .erase ∧ q.block = block) ∧
  (¬ due → exec (.blockRefresh die block) s = .next s)

/-- R254: the calibration of a block is remembered with its time and temperature. -/
def readOffsetCalibration : Prop := ∀ (die block : Nat) (temp : Int) (s : State), s.live = true → block < 2048 →
  ∃ t : State, exec (.readOffsetCalibration die block temp) s = .next t ∧ Frame [.nand] s t ∧
    t.block die block = { s.block die block with calibrated := s.power.onTime, calTemp := temp } ∧
    (∀ d : Nat, t.die d = s.die d) ∧ ∀ (d b : Nat), blockKey d b ≠ blockKey die block → t.block d b = s.block d b

/-- R255, Table 10-6, R333: the state of a group by its free stripes, with the urgent state left at 32; a victim's 16 blocks are
relocated and due for an erase. Fewer than 8 free stripes with nothing left to collect put the drive into read-only mode. -/
def garbageCollection : Prop := ∀ (g free : Nat) (s : State), s.live = true → g < s.variant.groups → free ≤ 2048 → s.power.pstate ≤ 4 →
  let gc := if free < 24 ∨ ((s.group g).gc = 2 ∧ free < 32) then 2 else if free < 64 then 1 else 0
  (∃ t : State, exec (.garbageCollection g free true none) s = .next t ∧ t.group g = { s.group g with free := free, gc := gc } ∧
    (∀ h : Nat, h ≠ g → t.group h = s.group h) ∧ t.nvme.readOnly = s.nvme.readOnly) ∧
  (∀ b : Nat, gc ≠ 0 → b < 2048 → ∃ t : State, exec (.garbageCollection g free true (some b)) s = .next t ∧
    ∀ i : Nat, i < 16 → (s.die (s.variant.dieAt g i)).retired = false →
      (t.block (s.variant.dieAt g i) b).committed = 0 ∧
      ∃ q ∈ (t.die (s.variant.dieAt g i)).waiting, q.kind = .erase ∧ q.block = b) ∧
  (free < 8 → ∃ t : State, exec (.garbageCollection g free false none) s = .next t ∧ t.nvme.readOnly = true)

/-- R257: wear levelling moves the data of a stripe, whose blocks become due for an erase. -/
def wearLeveling : Prop := ∀ (g b : Nat) (s : State), s.live = true → g < s.variant.groups → b < 2048 → s.power.pstate ≤ 4 →
  ∃ t : State, exec (.wearLeveling g b) s = .next t ∧ Frame [.nand] s t ∧
    ∀ i : Nat, i < 16 → (s.die (s.variant.dieAt g i)).retired = false →
      (t.block (s.variant.dieAt g i) b).committed = 0 ∧
      ∃ q ∈ (t.die (s.variant.dieAt g i)).waiting, q.kind = .erase ∧ q.block = b

/-! #### The write cache's way to NAND -/

/-- R318: a program of cached extents becomes due at a die, as a foreground program; the cache is as it was. -/
def cacheCommitStart : Prop := ∀ (die block wl id : Nat) (e : Extent) (s : State), s.live = true → die / 16 < 32 →
  die % 16 < s.variant.targets → (s.die die).retired = false → e ∈ s.nvme.cache → e.id = id → tfind s.nand.items id = none →
  block < 2048 → wl < 256 → s.wlOk die block wl = true → idxOf die ≠ block % 16 →
  ((s.nvme.cache.find? (fun x => x.id == id)).map Extent.bytes).getD 0 ≤ 262144 →
  (∀ d ∈ s.nand.dies, ∀ r ∈ d.2.busy.toList ++ d.2.waiting, id ∉ r.items) → (∀ r ∈ s.nand.rows, ∀ p ∈ r.2.items, p.2 ≠ id) →
  ∃ t : State, exec (.cacheCommitStart die block wl [id]) s = .next t ∧ Frame [.nand] s t ∧ tfind t.nand.items id = some (.extent id) ∧
    (t.die die).busy = (s.die die).busy ∧ (t.die die).waiting = (s.die die).waiting ++
      [{ pri := 2, kind := .program, block := block, page := wl * 16, items := [id], since := s.time.now, uid := none, lba := none }]

/-- R322: a write that waits enters the cache once there is room for it; its command completes unless it must reach NAND first. -/
def writeAdmit : Prop := ∀ (e : Extent) (s : State), s.nvme.waiting = [e] →
  (s.live = true → s.cacheRoom [e] = true → s.nvme.cache = [] →
    (e.fua = true ∨ s.nvme.wce = false ∨ s.writeThrough = true → e.completed = false → exec .writeAdmit s = .next { s with
      nvme := { s.nvme with
        waiting := [], cache := [{ e with fua := true, since := s.time.now }] } }) ∧
    (e.fua = false → s.nvme.wce = true → s.writeThrough = false → ∃ t : State, exec .writeAdmit s = .next t ∧ t.nvme.waiting = [] ∧
      t.nvme.cache = [{ e with completed := true, since := s.time.now }] ∧
      ∃ c ∈ t.nvme.out, c.fn = e.h.fn ∧ c.sqid = e.h.sqid ∧ c.cid = e.h.cid ∧ c.sct = 0 ∧ c.sc = 0)) ∧
  (s.cacheRoom [e] = false → exec .writeAdmit s = .next s)

end Sys2Proof.Claims

/-- R237 to R241, R253: codewords and the recovery ladder. -/
def Obligations.Codewords : Prop := Claims.resolution ∧ Claims.nandReadDone ∧ Claims.recoveryLadderStep

/-- R232, R243 to R250: the operations of the NAND dies, and what a reset of F leaves. -/
def Obligations.NandOperations : Prop := Claims.nandOpStart ∧ Claims.readAroundErase ∧ Claims.nandProgramDone ∧ Claims.nandEraseDone ∧
  Claims.nandReset

/-- R252 to R257, R318, R322, R333: patrol, refresh, collection, wear and the way of the write cache to NAND. -/
def Obligations.NandUpkeep : Prop := Claims.patrolRead ∧ Claims.blockRefresh ∧ Claims.readOffsetCalibration ∧ Claims.garbageCollection ∧
  Claims.wearLeveling ∧ Claims.cacheCommitStart ∧ Claims.writeAdmit

/-! ### The program store (chapter 11) -/

namespace Sys2Proof.Claims

/-- From s to t only the program store has changed. -/
def storeOnly (s t : State) : Prop := Frame [.store] s t

/-- The journal has grown by one entry, with the next sequence number and the device time (R263). -/
def journals (s t : State) (kind slotBits sector : Nat) : Prop := ∃ e : JEntry, t.store.journal = s.store.journal ++ [e] ∧
  e.kind = kind ∧ e.slotBits = slotBits ∧ e.sector = sector ∧ e.seq = s.store.jseq + 1 ∧ e.time = s.time.now ∧
  t.store.jseq = s.store.jseq + 1 ∧ t.store.used = s.store.used + 1

/-- R262, R266: one operation runs at a time: with one running, what is due only waits. Otherwise the first operation in the order of
R262 that may start runs, and an erase is journaled with an INTENT entry first. -/
def storeOpStart : Prop := ∀ s : State, s.live = true →
  (s.store.cur ≠ none → exec (.storeOpStart []) s = .next s) ∧
  (s.store.cur = none → (∀ o ∈ s.store.queue, s.storeReady o = false) → exec (.storeOpStart []) s = .next s) ∧
  (s.store.cur = none → (∃ o ∈ s.store.queue, s.storeReady o = true) → ∃ (t : State) (i : Nat) (o : StoreOp),
    exec (.storeOpStart []) s = .next t ∧ storeOnly s t ∧ s.store.queue[i]? = some o ∧ s.storeReady o = true ∧ t.store.cur = some o ∧
    t.store.queue = s.store.queue.eraseIdx i ∧
    (∀ p ∈ s.store.queue, s.storeReady p = true → StoreSt.rank o ≤ StoreSt.rank p) ∧
    (∀ x : Nat, o.kind = .erase x → journals s t jIntent 0 x) ∧
    ((∀ x : Nat, o.kind ≠ .erase x) → t.store.journal = s.store.journal))

/-- R266, R268, R270: the sector that was erased is journaled DONE once it passes its blank check, and takes data again; one that does
not is erased once more, under a new INTENT entry. Erases of the rotating area count. -/
def storeEraseDone : Prop := ∀ (x : Nat) (o : StoreOp) (s : State), s.store.cur = some o → o.kind = .erase x →
  let n := s.store.erases + (if 32 ≤ x then 1 else 0)
  (∃ t : State, exec (.storeEraseDone true) s = .next t ∧ storeOnly s t ∧ t.store.cur = none ∧ journals s t jDone 0 x ∧
    t.store.erases = n ∧ (∀ d : Nat, d ∈ t.store.dirty ↔ d ∈ s.store.dirty ∧ 32 + d ≠ x) ∧
    (∀ l : Nat, l ∈ t.store.freed ↔ l ∈ s.store.freed ∧ s.store.sector l ≠ x)) ∧
  (∃ t : State, exec (.storeEraseDone false) s = .next t ∧ storeOnly s t ∧ t.store.cur = some o ∧ journals s t jIntent 0 x ∧
    t.store.erases = n ∧ t.store.dirty = s.store.dirty ∧ t.store.freed = s.store.freed)

/-- R263: when 2,040 entries of the active control sector are used, the other sector takes over with a CHECKPOINT entry that holds the
slot states, H, K and the erase count. -/
def controlSectorSwitch : Prop := ∀ s : State, s.live = true →
  (2040 ≤ s.store.used → s.store.cur = none → ∃ (t : State) (e : JEntry), exec .controlSectorSwitch s = .next t ∧ storeOnly s t ∧
    t.store.journal = [e] ∧ t.store.used = 1 ∧ t.store.activeCs = 1 - s.store.activeCs ∧ e.kind = jCheck ∧
    e.slotBits = s.store.slotA + 8 * s.store.slotB ∧ e.h = s.store.h ∧ e.k = s.store.k ∧ e.erases = s.store.erases ∧
    e.seq = s.store.jseq + 3) ∧
  (s.store.used < 2040 ∨ s.store.cur ≠ none → exec .controlSectorSwitch s = .next s)

/-- R267, R268: after every 64 erases the hole moves on by one slot: the sector at H + 96 has been copied into slot H, and its old
place is to be erased. Every logical sector keeps its data: it stands where it stood, but for the one that was copied. -/
def gapAdvance : Prop := ∀ s : State, s.live = true →
  let src := (s.store.h + 96) % 4064
  let ok := s.store.cur = none ∧ 64 * (s.store.gaps + 1) ≤ s.store.erases ∧ s.store.hole = [] ∧ s.store.h ∉ s.store.dirty ∧
    s.store.used < 2040 ∧ ({ kind := .erase (32 + src) } : StoreOp) ∉ s.store.queue
  (ok → ∃ t : State, exec .gapAdvance s = .next t ∧ storeOnly s t ∧ t.store.h = (s.store.h + 1) % 4064 ∧
    t.store.k = (s.store.k + 1) % 3968 ∧ t.store.gaps = s.store.gaps + 1 ∧ journals s t jGap 0 0 ∧ src ∈ t.store.dirty ∧
    ({ kind := .erase (32 + src) } : StoreOp) ∈ t.store.queue ∧
    (s.store.h < 4064 → s.store.k < 3968 → ∀ l : Nat, l < 3968 →
      t.store.sector l = if s.store.sector l = 32 + src then 32 + s.store.h else s.store.sector l)) ∧
  (¬ ok → exec .gapAdvance s = .next s)

/-- R276, R277: a program is loaded when its digest matches at the first or the second read; after a second mismatch it is damaged,
and every RUN of it ends with STORAGE_MEDIA. -/
def programLoad : Prop := ∀ (o : Nat) (x : ObjectSt) (p : ProgSt) (s : State), s.live = true → s.obj? o = some x → x.prog = some p →
  p.damaged = false → s.store.cur = none →
  (∀ l : List Bool, l = [true] ∨ l = [false, true] → exec (.programLoad o l) s = .next
    (s.setObj o { x with prog := some { p with loaded := true } })) ∧
  (exec (.programLoad o [false]) s = .next s) ∧
  (s.calm → noWaiter s → distinct s → ∃ t : State, exec (.programLoad o [false, false]) s = .next t ∧
    (∀ y : ObjectSt, t.obj? o = some y → ∃ q : ProgSt, y.prog = some q ∧ q.damaged = true) ∧
    ∀ c ∈ s.cmds, c.status = none → (∃ (pr n m q b : Nat) (as : List ArgEntry) (pl : List TilePlan) (h : HandleSt),
      c.body = .run pr n m q b as pl ∧ tfind (s.ctx c.e.ctx).handles pr = some h ∧ h.obj = o) →
      ∃ d ∈ t.cmds, d.uid = c.uid ∧ d.status = some stStorageMedia)

/-- R58, R262, R273, R278, R279, R312: what depends on a program of the store when it ends: the device time that was recorded; an image of
a firmware commit, PENDING when its signature and its security version hold and FAILED otherwise, with the command's completion; a
lacuna record in its slot. Of the other kinds the store only becomes idle. -/
def storePageProgramDone : Prop := ∀ (o : StoreOp) (s : State), s.live = true → s.store.cur = some o →
  let idle := { s with store := { s.store with cur := none } }
  (o.kind = .journal ∨ o.kind = .loaderRead ∨ o.kind = .ledgerRecord ∨ o.kind = .errorRecords →
    exec .storePageProgramDone s = .next idle) ∧
  (o.kind = .timeRecord → exec .storePageProgramDone s = .next { idle with
    time := { s.time with recorded := some (max (s.time.recorded.getD 0) s.time.now) } }) ∧
  (∀ (h : NvmeHdr) (b : Bool) (i : FwImage), o.kind = .bootWrite → s.store.commit = some (h, b, i) →
    ∃ t : State, exec .storePageProgramDone s = .next t ∧ t.store.cur = none ∧ t.store.commit = none ∧ t.store.image b = some i ∧
      t.store.image (!b) = s.store.image (!b) ∧
      (let good := i.sigOk = true ∧ s.store.minSvn ≤ i.svn
       (if b then t.store.slotB else t.store.slotA) = (if i.sigOk = true ∧ s.store.minSvn ≤ i.svn then 2 else 5) ∧
       ∃ c ∈ t.nvme.out, c.fn = h.fn ∧ c.sqid = h.sqid ∧ c.cid = h.cid ∧
        (good → (⟨c.sct, c.sc, c.dnr⟩ : NvmeSts) = nvFwReset) ∧
        (i.sigOk = false → (⟨c.sct, c.sc, c.dnr⟩ : NvmeSts) = nvFwImage) ∧
        (i.sigOk = true → i.svn < s.store.minSvn → (⟨c.sct, c.sc, c.dnr⟩ : NvmeSts) = nvFwProhibited))) ∧
  (∀ (r : LacunaRec) (k : Nat), o.kind = .lacunaCopy → s.store.hole = [r] →
    (List.range 16).find? ({ s with store := { s.store with cur := none } } : State).lacunaFree = some k →
    ∃ t : State, exec .storePageProgramDone s = .next t ∧ t.store.hole = [] ∧
      t.store.lacuna = s.store.lacuna ++ [{ r with copied := s.time.now, place := [k] }] ∧
      ∀ p ∈ r.place, p ∈ t.store.dirty ∧ ({ kind := .erase (32 + p) } : StoreOp) ∈ t.store.queue)

end Sys2Proof.Claims

/-- R58, R262, R263, R266 to R270, R273, R276 to R279: the program store. -/
def Obligations.ProgramStore : Prop := Claims.storeOpStart ∧ Claims.storeEraseDone ∧ Claims.controlSectorSwitch ∧ Claims.gapAdvance ∧
  Claims.programLoad ∧ Claims.storePageProgramDone

/-! ### Peer links and the shard group (chapter 12) -/

namespace Sys2Proof.Claims

/-- From s to t only the peer logic has changed. -/
def peerOnly (s t : State) : Prop := Frame [.peer] s t

/-- From s to t of the peer logic one port has changed, and no flit has left. -/
def onePort (s t : State) (port : Nat) (q : Port) : Prop := t.port port = q ∧ (∀ p : Nat, p ≠ port → t.port p = s.port p) ∧
  t.peer = { s.peer with ports := t.peer.ports } ∧ peerOnly s t

/-- A control flit of a type and a payload has left on a port, to its partner: sealed with the port's sequence number, and its CRC. -/
def sentFlit (s t : State) (port kind : Nat) (pl : List Byte) : Prop := ∃ b : List Byte, t.peer.wire = s.peer.wire ++ [(port, b)] ∧
  b.length = 256 ∧ b.take 1 = le 1 kind ∧ slice b 2 2 = le 2 (s.port port).txSeq ∧ slice b 4 2 = le 2 (((s.port port).rxNext + 65535) % 65536) ∧
  slice b 8 4 = le 4 s.peer.gid.toNat ∧ slice b 0xC 1 = le 1 s.peer.member ∧
  slice b 0xD 1 = le 1 (s.peer.member ^^^ (portMasks s.peer.size).getD port 0) ∧ slice b 0xE 2 = le 2 pl.length ∧
  slice b 0x18 pl.length = pl ∧ slice b 0xF8 8 = le 8 (crcFlit (b.take 0xF8))

/-- A port that has nothing to send and holds a credit of channel 0. -/
def clearToSend (s : State) (port : Nat) : Prop := (s.port port).queue = [] ∧ 0 < tget 0 (s.port port).credits 0

/-! #### Ports -/

/-- R475: a cable is plugged in: the port trains once its partner's lanes are live too; it is taken out: the port is at electrical idle,
with nothing of its link left. -/
def cabling : Prop := ∀ (port : Nat) (s : State), port < 4 → s.peerLive = true →
  (∃ t : State, exec (.peerPresChange port true) s = .next t ∧ onePort s t port { s.port port with
    present := true, state := (if (s.port port).partnerLive = true ∧ (s.port port).state = 0 then 1 else (s.port port).state) }) ∧
  (∃ t : State, exec (.peerPresChange port false) s = .next t ∧ onePort s t port { Port.reset with
    alertIgnored := (s.port port).alertIgnored }) ∧
  ((s.port port).present = true → ∃ t : State, exec (.peerLanesLeaveElectricalIdle port) s = .next t ∧ onePort s t port { s.port port with
    partnerLive := true, state := (if (s.port port).state = 0 then 1 else (s.port port).state) }) ∧
  ((s.port port).present = false → exec (.peerLanesLeaveElectricalIdle port) s = .next s)

/-- R285, R294, R282: a port that trained on every lane sends HELLO with this drive's configuration, with a clear link, or after a
retraining with its retransmission buffer; a lane that failed makes its test due, and the port runs on the others; without a lane
the port is down. -/
def training : Prop := ∀ (port : Nat) (s : State), port < 4 → s.peerLive = true → (s.port port).present = true →
  (s.port port).state = 1 → s.peer.retiredLanes = [] →
  ((s.port port).retraining = false → ∃ t : State, exec (.portTrained port 15) s = .next t ∧ peerOnly s t ∧ (t.port port).state = 1 ∧
    (t.port port).lanes = 15 ∧ (t.port port).txBuf = [] ∧ (t.port port).rxNext = 0 ∧ (t.port port).present = true ∧
    ∃ b : List Byte, t.peer.wire = s.peer.wire ++ [(port, b)] ∧ b.take 1 = le 1 0x01 ∧
      slice b 0x18 4 = le 4 s.peer.gid.toNat ∧ slice b 0x1C 1 = le 1 s.peer.size ∧ slice b 0x1D 1 = le 1 s.peer.member ∧
      slice b 0x1E 1 = le 1 port ∧ slice b 0x20 4 = le 4 s.peer.incarnation ∧ slice b 0x24 4 = le 4 s.fwVersion) ∧
  ((s.port port).retraining = true → clearToSend s port → ∃ t : State, exec (.portTrained port 15) s = .next t ∧ peerOnly s t ∧
    (t.port port).retraining = false ∧ (t.port port).lanes = 15 ∧ (t.port port).txBuf = (s.port port).txBuf ∧
    (t.port port).rxNext = (s.port port).rxNext) ∧
  (∀ j : Nat, j < 4 → ∃ t : State, exec (.portTrained port (15 - 2 ^ j)) s = .next t ∧ (t.port port).lanes = 15 - 2 ^ j ∧
    ∃ x ∈ t.tests, x.kind = 9 ∧ x.index = 4 * port + j) ∧
  (∃ t : State, exec (.portTrained port 0) s = .next t ∧ t.port port = (s.port port).idle)

/-- R284, R285: a HELLO that shows the same group, size and port and the member that the cabling asks for brings the port UP; another
one makes it MISWIRED, without traffic, and is logged. -/
def helloSeen : Prop := ∀ (port gid size member pport inc fw : Nat) (s : State), port < 4 → s.peerLive = true →
  (s.port port).state ≠ 0 → (s.port port).retraining = false →
  let match' := gid = s.peer.gid.toNat ∧ size = s.peer.size ∧ member = s.peer.member ^^^ (portMasks s.peer.size).getD port 0 ∧ pport = port
  (match' → (s.port port).queue = [] → ∃ t : State, exec (.hello port gid size member pport inc fw) s = .next t ∧
    onePort s t port { s.port port with state := 2 }) ∧
  (¬ match' → ∃ t : State, exec (.hello port gid size member pport inc fw) s = .next t ∧
    t.port port = { s.port port with state := 3, queue := [], txBuf := [] } ∧ t.peer.wire = s.peer.wire ∧
    (s.errs.staging = [] → s.errs.ring = [] → ∃ e ∈ t.errs.staging, e.cls = 0x32 ∧ e.addr = port))

/-- R294, R476: a low pulse on PEER_ALERT_N, or a flit that was replayed 16 times, sends an UP port into training; one that this drive
starts gives a pulse itself. A pin that stays low is logged and ignored until it returns high. -/
def alerts : Prop := ∀ (port : Nat) (s : State), port < 4 → s.peerLive = true →
  let p := s.port port
  let again (k : Nat) : Port :=
    { p with
      state := 1, retraining := true, pulses := p.pulses + k, txBuf := p.txBuf.map (fun f => { f with replays := 0 }) }
  (p.state = 2 → p.alertIgnored = false → ∃ t : State, exec (.peerAlertPulse port) s = .next t ∧ onePort s t port (again 0)) ∧
  (p.state ≠ 2 ∨ p.alertIgnored = true → exec (.peerAlertPulse port) s = .next s) ∧
  (p.state = 2 → (∃ f ∈ p.txBuf, 16 ≤ f.replays) → ∃ t : State, exec (.portRetrain port) s = .next t ∧ onePort s t port (again 1)) ∧
  ((∀ f ∈ p.txBuf, f.replays < 16) → exec (.portRetrain port) s = .next s) ∧
  (p.alertIgnored = false → ∃ t : State, exec (.peerAlertStuck port) s = .next t ∧ t.port port = { p with alertIgnored := true } ∧
    (s.errs.staging = [] → s.errs.ring = [] → ∃ e ∈ t.errs.staging, e.cls = 0x32 ∧ e.addr = port)) ∧
  (∃ t : State, exec (.peerAlertReturnsHigh port) s = .next t ∧ onePort s t port { p with alertIgnored := false })

/-- R291, R293: IDLE carries the acknowledge and the returned credits. -/
def idleFlit : Prop := ∀ (port : Nat) (s : State), port < 4 → s.peerLive = true → (s.port port).state = 2 → clearToSend s port →
  ∃ t : State, exec (.idle port) s = .next t ∧ peerOnly s t ∧ sentFlit s t port 0x00 [] ∧
    (t.port port).txSeq = (s.port port).txSeq ∧ (t.port port).txBuf = (s.port port).txBuf

/-- R291, R293, R287, R290: a flit with a wrong CRC, or out of its sequence, is discarded and a NAK goes to the partner, once. One in its
sequence is taken: the next one is expected, its credit is owed, the flits that it acknowledges leave the buffer, and the credits
that it returns are held. One of another epoch is counted as stale; one for another member goes on. -/
def flits : Prop := ∀ (port : Nat) (b : List Byte) (s : State), port < 4 → s.peerLive = true → (s.port port).state = 2 → b.length = 256 →
  let p := s.port port
  let intact := leNat (slice b 0xF8 8) = crcFlit (b.take 0xF8)
  let ch := leNat (slice b 1 1) % 4
  let q := p.take b
  let stale := leNat (slice b 0x10 4) / 2 ^ 24 ≠ s.peer.epoch
  (¬ intact → p.nakSent = false → clearToSend s port → ∃ t : State, exec (.flitReceive port b) s = .next t ∧
    sentFlit s t port 0x03 (le 2 p.rxNext) ∧ (t.port port).rxNext = p.rxNext ∧ (t.port port).nakSent = true) ∧
  (¬ intact → p.nakSent = true → exec (.flitReceive port b) s = .next s) ∧
  (intact → p.queue = [] → ch = 0 → ∃ t : State, exec (.flitReceive port b) s = .next t ∧
    onePort s t port { q with owed := tmod 0 p.owed 0 (fun k => k + 1) }) ∧
  (intact → p.queue = [] → ch ≠ 0 → leNat (slice b 2 2) = p.rxNext →
    let after : Port := { q with
      rxNext := (p.rxNext + 1) % 65536, nakSent := false, owed := tmod 0 p.owed ch (fun k => k + 1) }
    (¬ stale → leNat (slice b 0xD 1) = s.peer.member → ∃ t : State, exec (.flitReceive port b) s = .next t ∧ onePort s t port after) ∧
    (stale → ∃ t : State, exec (.flitReceive port b) s = .next t ∧ t.port port = after ∧ t.peer.stale = satAdd 32 s.peer.stale 1 ∧
      t.peer.wire = s.peer.wire)) ∧
  (intact → p.queue = [] → ch ≠ 0 → leNat (slice b 2 2) ≠ p.rxNext → p.nakSent = true → ∃ t : State,
    exec (.flitReceive port b) s = .next t ∧ onePort s t port q) ∧
  q.acked = leNat (slice b 4 2) ∧ (∀ f ∈ q.txBuf, f ∈ p.txBuf) ∧
  (∀ f ∈ p.txBuf, (f ∈ q.txBuf ↔ 32768 ≤ (leNat (slice b 4 2) + 65536 - f.seq) % 65536))

/-- R293: on a NAK the flits from the expected one on are replayed, in order, and counted; those before it have arrived. -/
def naks : Prop := ∀ (port expected : Nat) (s : State), port < 4 → s.peerLive = true → (s.port port).state = 2 →
  let kept := (s.port port).txBuf.filter (fun f => seqLe expected f.seq)
  ∃ t : State, exec (.nak port expected) s = .next t ∧ peerOnly s t ∧
    (t.port port).txBuf.map (fun f => (f.seq, f.channel, f.bytes)) = kept.map (fun f => (f.seq, f.channel, f.bytes)) ∧
    t.peer.replays = satAdd 32 s.peer.replays kept.length ∧
    t.peer.wire = s.peer.wire ++ kept.map (fun f => (port, sealFlit f.seq (((s.port port).rxNext + 65535) % 65536) 0 0 f.bytes)) ∧
    (t.port port).credits = (s.port port).credits

/-! #### Heartbeats and the group -/

/-- R296, R287, Table 12-5: every other member is sent a HEARTBEAT with the incarnation, the group state, the members seen lost, the
epoch and the device time. -/
def heartbeatOut : Prop := ∀ s : State, s.peerLive = true → ∃ t : State, exec .heartbeatSend s = .next t ∧ peerOnly s t ∧
  t.peer.sent = s.peer.sent ++ s.peer.others.map (fun j => (⟨j, 0x02, 0, 0, le 4 s.peer.incarnation ++ le 1 s.peer.group ++
    le 1 (s.peer.lost.foldl (fun n k => n + 2 ^ k) 0) ++ le 1 s.peer.epoch ++ le 8 s.time.now, s.time.now⟩ : PeerMsg)) ∧
  t.peer.group = s.peer.group ∧ t.peer.hb = s.peer.hb

/-- Every member's heartbeats are current, and carry an epoch (Table 12-3). -/
def allAgree (x : PeerSt) (e : Nat) : Prop := ∀ j ∈ x.others, ((x.known j).seen = true ∨ 0 < (x.known j).goodRun) ∧ (x.known j).epoch = e

/-- R286, R287, R297: what a heartbeat says is remembered. One that reports a member lost puts the group into DEGRADED, and every group
operation ends with PEER_LOST. A FORMING group takes the epoch of the lowest member in FORMING or READY, and is READY once the
heartbeats of every member carry its epoch. -/
def heartbeatIn : Prop := ∀ (src inc gs lost ep time : Nat) (s : State), s.peerLive = true → src < s.peer.size → src ≠ s.peer.member →
  s.calm → noWaiter s →
  let h : Hb := { s.peer.known src with
    seen := true, incarnation := inc, gstate := gs, lost := lost, epoch := ep }
  let x := { s.peer with hb := tset s.peer.hb src h }
  let first := ((List.range x.size).filter (fun j => j == x.member || (x.known j).gstate == 1 || (x.known j).gstate == 2)).head?
  let epoch := match first with | some j => if j = x.member then x.epoch else (x.known j).epoch | none => x.epoch
  (lost = 0 ∨ s.peer.group = 3 → s.peer.group ≠ 1 → exec (.heartbeat src inc gs lost ep time) s = .next { s with peer := x }) ∧
  (lost = 0 → s.peer.group = 1 → ¬ allAgree x epoch → exec (.heartbeat src inc gs lost ep time) s = .next { s with peer := { x with epoch := epoch } }) ∧
  (lost = 0 → s.peer.group = 1 → allAgree x epoch → exec (.heartbeat src inc gs lost ep time) s =
    .next { s with peer := { x with epoch := epoch, group := 2 } }) ∧
  (lost ≠ 0 → s.peer.group ≠ 3 → distinct s → ∃ t : State, exec (.heartbeat src inc gs lost ep time) s = .next t ∧ t.peer.group = 3 ∧
    t.peer.ops = [] ∧ t.peer.goodWindows = 0 ∧ (t.peer.known src) = h ∧
    allEnd s t (fun c => s.groupCmds.contains c.uid) stPeerLost)

/-- R286, R296: at the end of a window a member without a heartbeat has missed a beat; after four windows with one its bit in the lost
bitmap is cleared; a window in which every member was heard and none reported a loss counts towards the way back to FORMING. -/
def windows : Prop := ∀ s : State, s.peerLive = true → ∃ t : State, exec .heartbeatWindowEnd s = .next t ∧ peerOnly s t ∧
  (∀ j ∈ s.peer.others, t.peer.known j = if (s.peer.known j).seen then { s.peer.known j with
      seen := false, missed := 0, goodRun := (s.peer.known j).goodRun + 1 } else { s.peer.known j with
      missed := (s.peer.known j).missed + 1, goodRun := 0 }) ∧
  (∀ j ∈ s.peer.others, (j ∈ t.peer.lost ↔ j ∈ s.peer.lost ∧ ((s.peer.known j).seen = false ∨ (s.peer.known j).goodRun < 3))) ∧
  ((∀ j ∈ s.peer.others, (s.peer.known j).seen = true ∧ (s.peer.known j).lost = 0) → t.peer.goodWindows = s.peer.goodWindows + 1) ∧
  ((∃ j ∈ s.peer.others, (s.peer.known j).seen = false ∨ (s.peer.known j).lost ≠ 0) → t.peer.goodWindows = 0) ∧
  t.peer.group = s.peer.group ∧ t.peer.epoch = s.peer.epoch

/-- R296, R297: a member that missed 12 beats is lost: the group is DEGRADED, and every group operation ends with PEER_LOST. -/
def losses : Prop := ∀ (j : Nat) (s : State), s.peerLive = true → j < s.peer.size → j ≠ s.peer.member → j ∉ s.peer.lost → s.calm → distinct s →
  (12 ≤ (s.peer.known j).missed → ∃ t : State, exec (.memberLost j) s = .next t ∧ t.peer.lost = s.peer.lost ++ [j] ∧ t.peer.group = 3 ∧
    t.peer.ops = [] ∧ allEnd s t (fun c => s.groupCmds.contains c.uid) stPeerLost) ∧
  ((s.peer.known j).missed < 12 → exec (.memberLost j) s = .next s)

/-- R286, R287: a DEGRADED group that heard every member well for four windows is FORMING again, one epoch later; when it stays FORMING
for 1 s an error is logged, and it stays. -/
def reforms : Prop := ∀ s : State, s.peerLive = true →
  (s.peer.group = 3 → 4 ≤ s.peer.goodWindows → s.calm → noWaiter s → ∃ t : State, exec .groupReform s = .next t ∧ peerOnly s t ∧
    (t.peer.group = 1 ∨ t.peer.group = 2) ∧ t.peer.formingSince = s.time.now ∧
    (s.peer.others.any (fun j => decide (j < s.peer.member) && ((s.peer.known j).gstate == 1 || (s.peer.known j).gstate == 2)) = false →
      t.peer.epoch = (s.peer.epoch + 1) % 256)) ∧
  (s.peer.group ≠ 3 ∨ s.peer.goodWindows < 4 → exec .groupReform s = .next s) ∧
  (s.peer.group = 1 → s.peer.formingSince + 1000000000 ≤ s.time.now → s.errs.staging = [] → s.errs.ring = [] →
    ∃ t : State, exec .formingTimeout s = .next t ∧ t.peer = s.peer ∧ ∃ e ∈ t.errs.staging, e.cls = 0x32) ∧
  (s.peer.group ≠ 1 ∨ s.time.now < s.peer.formingSince + 1000000000 → exec .formingTimeout s = .next s)

/-! #### Messages -/

/-- A message of the current epoch from another member, for a part of this drive. -/
structure Arrives (s : State) (src opId : Nat) (o : GroupOp) : Prop where
  live : s.peerLive = true
  member : src ∈ s.peer.others
  epoch : opId / 2 ^ 24 = s.peer.epoch
  part : s.opFor opId = some o
  ops : s.peer.ops = [o]

/-- A message of another epoch changes nothing but the count of stale flits (R287). -/
def staleOnly (c : Instr) (s : State) (n : Nat) : Prop := exec c s = .next { s with
  peer := { s.peer with stale := satAdd 32 s.peer.stale n } }

/-- R299: a POST is noted with the operation's part, or remembered when the part has not begun; once. -/
def posts : Prop := ∀ (src opId : Nat) (o : GroupOp) (s : State),
  (Arrives s src opId o → src ∉ o.posted → s.cmd? o.uid = none → exec (.post src opId) s = .next { s with
    peer := { s.peer with ops := [{ o with posted := o.posted ++ [src], lastMsg := s.time.now }] } }) ∧
  (Arrives s src opId o → src ∈ o.posted → exec (.post src opId) s = .next s) ∧
  (Arrives s src opId o → src ∉ o.posted → ∀ c : Cmd, s.cmd? o.uid = some c → ∃ t : State, exec (.post src opId) s = .next t ∧ peerOnly s t ∧
    t.peer.ops = [{ o with posted := o.posted ++ [src], lastMsg := s.time.now }] ∧ (∀ m ∈ s.peer.sent, m ∈ t.peer.sent) ∧
    ∀ m ∈ t.peer.sent, m ∉ s.peer.sent → m.dst = src) ∧
  (s.peerLive = true → src ∈ s.peer.others → opId / 2 ^ 24 = s.peer.epoch → s.opFor opId = none → (src, opId) ∉ s.peer.earlyPosts →
    exec (.post src opId) s = .next { s with peer := { s.peer with earlyPosts := s.peer.earlyPosts ++ [(src, opId)] } }) ∧
  (s.peerLive = true → src ∈ s.peer.others → opId / 2 ^ 24 ≠ s.peer.epoch → staleOnly (.post src opId) s 1)

/-- R292, R298: a second message with a wrong digest ends the part of the operation with CHECK_FAILED; the first one is answered with
MSG_NAK. -/
def mismatches (c : Instr) (s : State) (o : GroupOp) (src opId offset kind len : Nat) : Prop :=
  ((src, offset) ∉ o.mismatched → ∃ t : State, exec c s = .next t ∧ peerOnly s t ∧
    t.peer.ops = [{ o with mismatched := o.mismatched ++ [(src, offset)] }] ∧
    t.peer.sent = s.peer.sent ++ [⟨src, 0x15, opId, offset, le 1 kind ++ le 2 (len / 16), s.time.now⟩]) ∧
  ((src, offset) ∈ o.mismatched → ∀ x : Cmd, s.cmd? o.uid = some x → x.status = none → s.calm → noWaiter s → ∃ (t : State) (y : Cmd),
    exec c s = .next t ∧ t.cmd? o.uid = some y ∧ y.status = some stCheckFailed ∧ ∀ p ∈ t.peer.ops, p.uid ≠ o.uid)

/-- R300, R301: a peer tile whose digest checks is written where the gathered argument has it and is ready; a second copy with the same
digest changes nothing, and with another one ends the operation with CHECK_FAILED. -/
def gathers : Prop := ∀ (src opId offset : Nat) (pl : List Byte) (dg : Nat) (o : GroupOp) (s : State), Arrives s src opId o → o.mode = 1 →
  (digest pl = dg → ∀ (c : Cmd) (obj : Nat) (a : ArgEntry) (x : ObjectSt), s.cmd? o.uid = some c → s.calm → noWaiter s → s.Canonical →
    tfind o.tiles offset = none → s.gatheredArg c (offset / 2 ^ 40) = some (obj, a) → s.obj? obj = some x →
    let b := offset % 2 ^ 40
    let u := shardUnit a.length s.peer.size
    let hi := min ((src + 1) * u) a.length
    (src * u ≤ b → b < hi → ∃ (t : State) (y : ObjectSt) (p : GroupOp), exec (.gather src opId offset pl dg) s = .next t ∧
      oneObject s t obj y ∧ (∀ i : Nat, y.byte i = if a.offset + b ≤ i ∧ i < a.offset + b + min pl.length (hi - b) then
        pl.getD (i - (a.offset + b)) 0 else x.byte i) ∧
      t.peer.ops = [p] ∧ p = { o with lastMsg := s.time.now, tiles := p.tiles } ∧ tfind p.tiles offset = some dg ∧ t.cmds = s.cmds)) ∧
  (digest pl = dg → tfind o.tiles offset = some dg → exec (.gather src opId offset pl dg) s = .next { s with
    peer := { s.peer with ops := [{ o with lastMsg := s.time.now }] } }) ∧
  (digest pl = dg → ∀ (d : Nat) (c : Cmd), tfind o.tiles offset = some d → d ≠ dg → s.cmd? o.uid = some c → c.status = none → s.calm →
    noWaiter s → ∃ (t : State) (y : Cmd), exec (.gather src opId offset pl dg) s = .next t ∧ t.cmd? o.uid = some y ∧
      y.status = some stCheckFailed) ∧
  (digest pl ≠ dg → mismatches (.gather src opId offset pl dg) s o src opId offset 0x11 pl.length)

/-- A number read as a signed one of 128 bits. -/
def int128 (b : List Byte) (j : Nat) : Int := toSigned 128 (leNat (slice b (16 * j) 16))

/-- R303: the 128 accumulators of a row from a member are added to the row's, each modulo 2 ^ 128, once for each member. -/
def reduces : Prop := ∀ (src opId row : Nat) (pl : List Byte) (dg : Nat) (o : GroupOp) (s : State), Arrives s src opId o → o.mode = 2 →
  (digest pl = dg → pl.length = 2048 → (row, src) ∉ o.rowSrcs → (∀ l : List Int, tfind o.rows row = some l → l.length = 128) →
    ∃ (t : State) (p : GroupOp), exec (.reduce src opId row pl dg) s = .next t ∧ peerOnly s t ∧ t.peer.ops = [p] ∧
      p = { o with lastMsg := s.time.now, rows := p.rows, rowSrcs := o.rowSrcs ++ [(row, src)] } ∧
      (∀ j : Nat, j < 128 → ∃ l : List Int, tfind p.rows row = some l ∧
        (2 ^ 128 : Int) ∣ (l.getD j 0 - ((tget (List.replicate 128 0) o.rows row).getD j 0 + int128 pl j))) ∧
      ∀ r : Nat, r ≠ row → tfind p.rows r = tfind o.rows r) ∧
  (digest pl = dg → (row, src) ∈ o.rowSrcs → exec (.reduce src opId row pl dg) s = .next { s with
    peer := { s.peer with ops := [{ o with lastMsg := s.time.now }] } }) ∧
  (digest pl ≠ dg → mismatches (.reduce src opId row pl dg) s o src opId row 0x12 pl.length)

/-- R302: envelope lines are combined: the lowest lo, the highest hi, the sum of n. The layout of a line, one of 16 bytes, is the
model's choice (assumption log 18). -/
def envelopes : Prop := ∀ (src opId offset line n dg : Nat) (lo hi : Int) (o : GroupOp) (s : State), Arrives s src opId o → o.mode = 2 →
  line < 2 ^ 32 → n < 2 ^ 64 → -32768 ≤ lo → lo < 32768 → -32768 ≤ hi → hi < 32768 → tfind o.tiles (src * 2 ^ 40 + offset) = none →
  digest (envLine (line, lo, hi, n)) = dg → ∃ (t : State) (p : GroupOp),
    exec (.envelope src opId offset (envLine (line, lo, hi, n)) dg) s = .next t ∧ peerOnly s t ∧ t.peer.ops = [p] ∧ p.rows = o.rows ∧
    (∀ (a b : Int) (k : Nat), tfind o.envelopes line = some (a, b, k) → tfind p.envelopes line = some (min a lo, max b hi, k + n)) ∧
    (∀ l : Nat, l ≠ line → tfind p.envelopes l = tfind o.envelopes l) ∧
    tget 0 p.envSrcs src = tget 0 o.envSrcs src + 1

/-- R298: ABORT from a member ends this member's part with PEER_ABORTED, and sends nothing in turn; a part that hears nothing for the
time of PEER_PROGRESS_TO ends with PEER_ABORTED too, and sends ABORT to every member. -/
def aborts : Prop := ∀ (src opId st : Nat) (o : GroupOp) (c : Cmd) (s : State), Arrives s src opId o → s.cmd? o.uid = some c → c.status = none →
  s.calm → noWaiter s →
  (∃ (t : State) (y : Cmd), exec (.abort src opId st) s = .next t ∧ t.cmd? o.uid = some y ∧ y.status = some stPeerAborted ∧
    t.peer.ops = [] ∧ t.peer.sent = s.peer.sent) ∧
  (o.lastMsg + o.timeout ≤ s.time.now → ∃ (t : State) (y : Cmd), exec (.peerProgressTimeout o.uid) s = .next t ∧ t.cmd? o.uid = some y ∧
    y.status = some stPeerAborted ∧ t.peer.ops = [] ∧ t.peer.sent = s.peer.sent ++ s.peer.others.map (fun j =>
      (⟨j, 0x14, s.peer.opId o.seq, 0, le 2 stPeerAborted, s.time.now⟩ : PeerMsg))) ∧
  (s.time.now < o.lastMsg + o.timeout → exec (.peerProgressTimeout o.uid) s = .next s)

/-- R292: a message that its receiver refused is sent again from its copy, to the same member; without a copy the operation ends with
CHECK_FAILED. A copy is kept for 1 ms. -/
def copies : Prop := ∀ (src opId offset kind len16 : Nat) (o : GroupOp) (s : State), Arrives s src opId o →
  (∀ m : PeerMsg, s.peer.copies = [m] → m.dst = src → m.opId = opId → m.offset = offset → m.kind = kind → m.payload.length = 16 * len16 →
    ∃ t : State, exec (.msgNak src opId offset kind len16) s = .next t ∧ peerOnly s t ∧
      t.peer.sent = s.peer.sent ++ [{ m with sentAt := s.time.now }] ∧ t.peer.ops = [o] ∧ t.peer.copies = [m]) ∧
  (s.peer.copies = [] → ∀ c : Cmd, s.cmd? o.uid = some c → c.status = none → s.calm → noWaiter s → ∃ (t : State) (y : Cmd),
    exec (.msgNak src opId offset kind len16) s = .next t ∧ t.cmd? o.uid = some y ∧ y.status = some stCheckFailed) ∧
  exec .messageCopyExpiry s = .next { s with
    peer := { s.peer with copies := s.peer.copies.filter (fun m => decide (s.time.now < m.sentAt + 1000000)) } }

end Sys2Proof.Claims

/-- R282 to R285, R290 to R294, R475, R476: the ports and their links. -/
def Obligations.PeerPorts : Prop := Claims.cabling ∧ Claims.training ∧ Claims.helloSeen ∧ Claims.alerts ∧ Claims.idleFlit ∧ Claims.flits ∧
  Claims.naks

/-- R286, R287, R296, R297: heartbeats and the state of the shard group. -/
def Obligations.GroupStates : Prop := Claims.heartbeatOut ∧ Claims.heartbeatIn ∧ Claims.windows ∧ Claims.losses ∧ Claims.reforms

/-- R287, R292, R298 to R303: the messages of group operations. -/
def Obligations.GroupMessages : Prop := Claims.posts ∧ Claims.gathers ∧ Claims.reduces ∧ Claims.envelopes ∧ Claims.aborts ∧ Claims.copies

/-! ### Block storage: admin commands (chapter 13) -/

namespace Sys2Proof.Claims

/-- A controller takes an admin command. -/
def admits (s : State) (h : NvmeHdr) : Prop := h.sqid = 0 ∧ s.takes h = true

/-- The completion of a command. -/
def cplOf (h : NvmeHdr) (st : NvmeSts) (dw0 : Nat) : NvmeCpl :=
  { fn := h.fn, sqid := h.sqid, cid := h.cid, sct := st.sct, sc := st.sc, dnr := st.dnr, dw0 := dw0 }

/-- The command completes at once with a status and a dword 0: the one completion that the host gets, and the command is
outstanding no longer. -/
def answered (c : Instr) (s : State) (h : NvmeHdr) (st : NvmeSts) (dw0 : Nat) (P : State → Prop) : Prop :=
  ∃ t : State, exec c s = .next t ∧ t.nvme.out = s.nvme.out ++ [cplOf h st dw0] ∧
    t.nvme.outstanding = s.nvme.outstanding.filter (fun o => !o.1.same h) ∧ P t

/-- Nothing of a controller, of the namespaces and of the write cache has changed. -/
def quietNvme (s : State) (h : NvmeHdr) (t : State) : Prop :=
  t.ctl h.fn = s.ctl h.fn ∧ t.nvme.ns = s.nvme.ns ∧ t.nvme.cache = s.nvme.cache ∧ t.nvme.waiting = s.nvme.waiting

/-! #### The doorbell and the queues -/

/-- R309, R310, Table 13-3: a command that a doorbell makes available is fetched, and outstanding from then on; one with an opcode that
its controller does not support completes with Invalid Command Opcode. -/
def doorbell : Prop := ∀ (fn sqid tail cid op : Nat) (q : IoQueue) (s : State), s.linked = true → s.power.nvmeReady = true → fn < 256 →
  (s.ctl fn).ready = true → (∀ o ∈ s.nvme.outstanding, ¬ (o.1.fn = fn ∧ o.1.sqid = sqid ∧ o.1.cid = cid)) →
  (s.nvme.outstanding.filter (fun o => o.1.fn == fn)).length < 4096 →
  let h : NvmeHdr := { fn := fn, sqid := sqid, cid := cid, nsid := 0 }
  let known := if sqid = 0 then (if fn = 0 then adminOps else vfOps) else nvmOps
  let fetched (t : State) : Prop := t.nvme.outstanding = s.nvme.outstanding ++ [(h, op, s.time.now)] ∧ t.nvme.out = s.nvme.out
  let refused (t : State) : Prop := t.nvme.outstanding = s.nvme.outstanding ∧ t.nvme.out = s.nvme.out ++ [cplOf h nvInvalidOpcode 0]
  (sqid = 0 → ∃ t : State, exec (.nvmeSqDoorbell fn 0 tail [(cid, op)]) s = .next t ∧ t.ctl fn = s.ctl fn ∧
    (op ∈ known → fetched t) ∧ (op ∉ known → refused t)) ∧
  (sqid ≠ 0 → tfind (s.ctl fn).sqs sqid = some q → tail < q.size → q.tail < q.size → tail = (q.tail + 1) % q.size → 1 < q.size →
    ∃ t : State, exec (.nvmeSqDoorbell fn sqid tail [(cid, op)]) s = .next t ∧
      tfind (t.ctl fn).sqs sqid = some { q with tail := tail } ∧ (op ∈ known → fetched t) ∧ (op ∉ known → refused t))

/-- R310: the admin commands that a controller of a VF does not accept complete with Invalid Command Opcode, and a feature of the whole
drive with Feature Not Changeable. -/
def vfRefused : Prop := ∀ (h : NvmeHdr) (s : State), admits s h → h.fn ≠ 0 →
  (∀ c : Instr, ((∃ a b d : Nat, c = .namespaceManagementCreate h a b d) ∨ c = .namespaceManagementDelete h ∨
      (∃ (a : Bool) (l : List Nat), c = .namespaceAttachment h a l) ∨ (∃ (a : Nat) (l : List Byte), c = .firmwareImageDownload h a l) ∨
      (∃ (a b : Nat) (i : FwImage), c = .firmwareCommit h a b i) ∨ (∃ (a b d : Nat) (e : Bool), c = .formatNvm h a b d e) ∨
      (∃ o : OpalCmd, c = .securitySend h o) ∨ (∃ a : Nat, c = .securityReceive h a) ∨ c = .sanitizeBlockErase h ∨
      c = .sanitizeCryptoErase h) → answered c s h nvInvalidOpcode 0 (quietNvme s h)) ∧
  (∀ c : Instr, ((∃ v : BitVec 32, c = .setPowerManagement h v ∨ c = .setVolatileWriteCache h v) ∨
      (∃ (e : Bool) (l : List (Nat × Nat)), c = .setApst h e l) ∨ ∃ n : Nat, c = .lacunaRelease h n) →
    answered c s h nvNotChangeable 0 (fun t => quietNvme s h t ∧ t.nvme.wce = s.nvme.wce ∧ t.nvme.apst = s.nvme.apst ∧
      t.store = s.store))

/-- R306, Table 13-2: the I/O queues: 256 pairs on the PF and 16 on a VF, of 2 to 16,384 entries; a submission queue names a completion
queue that exists, and one that is still named is not deleted. -/
def ioQueues : Prop := ∀ (h : NvmeHdr) (qid size x : Nat) (ien : Bool) (s : State), admits s h →
  let c := s.ctl h.fn
  let top := if h.fn = 0 then 256 else 16
  (tfind c.feats 0x07 = none → 1 ≤ qid → qid ≤ top → tfind c.sqs qid = none → (tfind c.cqs x).isSome = true → 2 ≤ size → size ≤ 16384 →
    answered (.createIoSubmissionQueue h qid size x) s h nvOk 0 (fun t => t.ctl h.fn = { c with
      sqs := tset c.sqs qid { size := size, tail := 0, link := x, irq := false } })) ∧
  (tfind c.feats 0x07 = none → 1 ≤ qid → qid ≤ top → tfind c.cqs qid = none → 2 ≤ size → size ≤ 16384 →
    x < vectorsOf h.fn → answered (.createIoCompletionQueue h qid size x ien) s h nvOk 0 (fun t => t.ctl h.fn = { c with
      cqs := tset c.cqs qid { size := size, tail := 0, link := x, irq := ien } })) ∧
  (qid = 0 ∨ top < qid ∨ (tfind c.sqs qid).isSome = true → answered (.createIoSubmissionQueue h qid size x) s h nvQid 0 (quietNvme s h)) ∧
  (∀ q : IoQueue, qid ≠ 0 → tfind c.sqs qid = some q → (∀ o ∈ s.nvme.outstanding, ¬ (o.1.fn = h.fn ∧ o.1.sqid = qid)) →
    answered (.deleteIoSubmissionQueue h qid) s h nvOk 0 (fun t => (t.ctl h.fn).sqs = tdel c.sqs qid ∧ (t.ctl h.fn).cqs = c.cqs)) ∧
  (∀ q : IoQueue, tfind c.cqs qid = some q → (∀ y ∈ c.sqs, y.2.link ≠ qid) →
    answered (.deleteIoCompletionQueue h qid) s h nvOk 0 (fun t => t.ctl h.fn = { c with cqs := tdel c.cqs qid })) ∧
  (∀ q y : IoQueue, tfind c.cqs qid = some q → (size, y) ∈ c.sqs → y.link = qid →
    answered (.deleteIoCompletionQueue h qid) s h nvQDeletion 0 (quietNvme s h))

/-- R331, R325: Abort ends a command that waits for room in the cache, and one with data in the cache is not aborted. -/
def abortCommand : Prop := ∀ (h : NvmeHdr) (e : Extent) (op at' : Nat) (s : State), admits s h → e.h.fn = h.fn → e.h.sqid ≠ 0 →
  s.nvme.outstanding = [(e.h, op, at')] →
  (s.nvme.waiting = [e] → s.nvme.cache = [] → ∃ t : State, exec (.nvmeAbort h e.h.sqid e.h.cid) s = .next t ∧
    t.nvme.out = s.nvme.out ++ [cplOf e.h nvAborted 0, cplOf h nvOk 0] ∧ t.nvme.waiting = [] ∧ t.nvme.outstanding = []) ∧
  (s.nvme.cache = [e] → e.completed = false → answered (.nvmeAbort h e.h.sqid e.h.cid) s h nvOk 1 (fun t => t.nvme.cache = [e]))

/-- R341: an Asynchronous Event Request ends at once with the oldest event that is held, and otherwise waits for one. -/
def eventRequest : Prop := ∀ (h : NvmeHdr) (s : State), admits s h → (s.ctl h.fn).aers.length < 4 →
  (∀ (dw : Nat) (l : List Nat), (s.ctl h.fn).held = dw :: l →
    answered (.asyncEventRequest h) s h nvOk dw (fun t => t.ctl h.fn = { s.ctl h.fn with held := l })) ∧
  ((s.ctl h.fn).held = [] → ∃ t : State, exec (.asyncEventRequest h) s = .next t ∧ t.nvme.out = s.nvme.out ∧
    t.ctl h.fn = { s.ctl h.fn with aers := (s.ctl h.fn).aers ++ [h.cid] })

/-! #### Features -/

/-- Set Features with a value that the controller keeps. -/
def keeps (c : Instr) (h : NvmeHdr) (key : Nat) (v : BitVec 32) : Prop := ∀ s : State, admits s h →
  answered c s h nvOk 0 (fun t => t.ctl h.fn = { s.ctl h.fn with feats := tset (s.ctl h.fn).feats key v })

/-- R309, R326: the features that a controller keeps and that change nothing else, by identifier: arbitration, interrupt coalescing and
vectors (each vector its own), write atomicity and the configuration of events; and the thresholds of the composite temperature,
each its own. -/
def keptFeatures : Prop := ∀ (h : NvmeHdr) (v : BitVec 32),
  keeps (.setArbitration h v) h 0x01 v ∧ keeps (.setInterruptCoalescing h v) h 0x08 v ∧
  keeps (.setInterruptVectorConfiguration h v) h (0x09 + 256 * (v.toNat % 65536)) v ∧
  keeps (.setWriteAtomicityNormal h v) h 0x0A v ∧ keeps (.setAsyncEventConfiguration h v) h 0x0B v ∧
  ∀ s : State, admits s h → ∃ t : State, exec (.setTemperatureThreshold h v) s = .next t ∧ cplOf h nvOk 0 ∈ t.nvme.out ∧
    (t.ctl h.fn).feats = tset (s.ctl h.fn).feats (0x04 + 256 * bits v.toNat 21 16) (v &&& 0xFFFF)

/-- R335, R336: PS0 to PS3 take effect at once; PS4 and PS5 once the write cache is clean; other states are refused. -/
def powerManagement : Prop := ∀ (h : NvmeHdr) (v : BitVec 32) (s : State), admits s h → h.fn = 0 → s.power.pstate ≤ 3 →
  let ps := v.toNat % 32
  (ps ≤ 3 → answered (.setPowerManagement h v) s h nvOk 0 (fun t => t.power.pstate = ps ∧ t.power.lowPending = none)) ∧
  (ps = 4 ∨ ps = 5 → answered (.setPowerManagement h v) s h nvOk 0 (fun t => t.power.pstate = s.power.pstate ∧
    t.power.lowPending = some ps)) ∧
  (5 < ps → answered (.setPowerManagement h v) s h nvInvalidField 0 (fun t => t.power.pstate = s.power.pstate ∧
    t.power.lowPending = none))

/-- R321, R306, R338, R311, R447: the write cache's switch; the queues that are granted; the APST table, whose targets are PS4 and PS5;
the Timestamp, whose step backward the open billing period notes. -/
def driveFeatures : Prop := ∀ (h : NvmeHdr) (v : BitVec 32) (e : Bool) (l : List (Nat × Nat)) (ms : Nat) (s : State), admits s h →
  (h.fn = 0 → answered (.setVolatileWriteCache h v) s h nvOk 0 (fun t => t.nvme.wce = bit v.toNat 0 ∧ quietNvme s h t)) ∧
  ((s.ctl h.fn).sqs = [] → (s.ctl h.fn).cqs = [] → v.toNat % 65536 ≠ 65535 → v.toNat / 65536 ≠ 65535 →
    let top := if h.fn = 0 then 255 else 15
    let g := min (v.toNat / 65536) top * 65536 + min (v.toNat % 65536) top
    answered (.setNumberOfQueues h v) s h nvOk g (fun t => t.ctl h.fn = { s.ctl h.fn with
      feats := tset (s.ctl h.fn).feats 0x07 (BitVec.ofNat 32 g) })) ∧
  (h.fn = 0 → l.length ≤ 32 → (∀ x ∈ l, x.2 = 0 ∨ x.1 = 4 ∨ x.1 = 5) →
    answered (.setApst h e l) s h nvOk 0 (fun t => t.nvme.apst = e ∧ t.nvme.apstTable = l)) ∧
  (h.fn = 0 → (∃ x ∈ l, x.2 ≠ 0 ∧ x.1 ≠ 4 ∧ x.1 ≠ 5) → answered (.setApst h e l) s h nvInvalidField 0 (fun t =>
    t.nvme.apst = s.nvme.apst ∧ t.nvme.apstTable = s.nvme.apstTable)) ∧
  (let was := if (s.ctl h.fn).tsSet then (s.ctl h.fn).tsValue + (s.time.now - (s.ctl h.fn).tsAt) / 1000000 else 0
   let w := ms % 2 ^ 48
   answered (.setTimestamp h ms) s h nvOk 0 (fun t =>
    t.ctl h.fn = { s.ctl h.fn with
      tsValue := w, tsAt := s.time.now, tsSet := true } ∧
    (w < was → s.ledger.isOpen = true → t.ledger = { s.ledger with
      flags := 1, regressions := satAdd 32 s.ledger.regressions 1 }) ∧
    (was ≤ w ∨ s.ledger.isOpen = false → t.ledger = s.ledger) ∧ t.time = s.time))

/-- R309, R311, R321, R326: Get Features answers what was set, the power state, the switch of the write cache and the host time; another
identifier completes with Invalid Field in Command. -/
def featuresRead : Prop := ∀ (h : NvmeHdr) (dst : Nat) (s : State), admits s h → Mem.wf s.host = true → s.power.pstate ≤ 3 → s.power.lowPending = none →
  let c := s.ctl h.fn
  let get (fid dw0 : Nat) : Prop := answered (.getFeatures h fid 0 dst) s h nvOk dw0 (quietNvme s h)
  get 0x02 s.power.pstate ∧ get 0x06 (if s.nvme.wce then 1 else 0) ∧ get 0xC0 0 ∧
  (∀ (fid : Nat) (v : BitVec 32), fid ∈ [0x01, 0x04, 0x08, 0x09, 0x0A, 0x0B] → tfind c.feats fid = some v → get fid v.toNat) ∧
  (tfind c.feats 0x07 = none → get 0x07 (if h.fn = 0 then 255 * 65536 + 255 else 15 * 65536 + 15)) ∧
  answered (.getFeatures h 0x0E 0 dst) s h nvOk 0 (fun t =>
    mread t.host dst 6 = le 6 (if c.tsSet then c.tsValue + (s.time.now - c.tsAt) / 1000000 else 0) ∧
    mread t.host (dst + 6) 1 = le 1 (if c.tsSet then 2 else 0)) ∧
  answered (.getFeatures h 0x0C 0 dst) s h nvOk (if s.nvme.apst then 1 else 0) (fun t => mread t.host dst 8 =
    le 8 ((s.nvme.apstTable.getD 0 (0, 0)).1 * 8 + (s.nvme.apstTable.getD 0 (0, 0)).2 * 256)) ∧
  (∀ fid : Nat, fid ∉ [0x01, 0x02, 0x04, 0x06, 0x07, 0x08, 0x09, 0x0A, 0x0B, 0x0C, 0x0E, 0xC0] →
    answered (.getFeatures h fid 0 dst) s h nvInvalidField 0 (quietNvme s h))

/-- R342, R404: a released lacuna record is held no longer; its two sectors become due for an erase, and the marks that it alone set go.
An unknown number is refused. -/
def release : Prop := ∀ (h : NvmeHdr) (n : Nat) (s : State), admits s h → h.fn = 0 →
  (∀ (r : LacunaRec) (k : Nat), s.store.lacuna = [r] → s.store.hole = [] → r.seq % 2 ^ 32 = n → r.place = [k] →
    answered (.lacunaRelease h n) s h nvOk 0 (fun t => t.store.lacuna = [] ∧
      t.store.queue = s.store.queue ++ [{ kind := .erase (s.store.sector (4 + 2 * k)) }, { kind := .erase (s.store.sector (5 + 2 * k)) }] ∧
      (∀ (o : Nat) (x : ObjectSt), s.obj? o = some x → ∃ y : ObjectSt, t.obj? o = some y ∧ y = { x with mark := y.mark } ∧
        ((∃ q ∈ r.kcis, q.oid ≠ 0 ∧ q.oid = x.oid ∧ q.part = x.part) → y.mark = false) ∧
        ((∀ q ∈ r.kcis, q.oid = 0 ∨ q.oid ≠ x.oid ∨ q.part ≠ x.part) → y.mark = x.mark)))) ∧
  ((∀ r ∈ s.store.lacuna, r.seq % 2 ^ 32 ≠ n % 2 ^ 32) →
    answered (.lacunaRelease h n) s h nvInvalidField 0 (fun t => t.store = s.store ∧ t.objs = s.objs))

/-! #### Identify and the log pages -/

/-- Host memory holds bytes at an address. -/
def shows (t : State) (a : Nat) (bs : List Byte) : Prop := mread t.host a bs.length = bs

/-- R306, R308, R316, R323, R326: what Identify reports of a controller, of a namespace and of the namespaces attached; the places of the
fields are those of NVMe (assumption log 12). -/
def identified : Prop := ∀ (h : NvmeHdr) (dst : Nat) (s : State), admits s h → Mem.wf s.host = true →
  answered (.identify h 1 dst) s h nvOk 0 (fun t => shows t (dst + 78) (le 2 (h.fn + 1)) ∧ shows t (dst + 84) (le 4 30000000) ∧
    shows t (dst + 88) (le 4 2000000) ∧ shows t (dst + 280) (le 16 s.variant.user) ∧ shows t (dst + 296) (le 16 s.unvmcap) ∧
    shows t (dst + 526) (le 2 31) ∧ shows t (dst + 528) (le 2 31)) ∧
  (∀ n : NsSt, 1 ≤ h.nsid → h.nsid ≤ 64 → tfind s.nvme.ns h.nsid = some n → h.fn ∈ n.attached →
    answered (.identify h 0 dst) s h nvOk 0 (fun t => shows t dst (le 8 (n.gib * 2 ^ 30 / lbaData n.lbaf)) ∧
      shows t (dst + 33) (le 1 0x19) ∧ shows t (dst + 34) (le 2 (if n.lbaf ≤ 1 then 255 else 31)))) ∧
  (h.nsid = 0 ∨ 64 < h.nsid → ∃ t : State, exec (.identify h 0 dst) s = .next t ∧ cplOf h nvInvalidNs 0 ∈ t.nvme.out ∧ t.host = s.host) ∧
  (∀ cns : Nat, 2 < cns → answered (.identify h cns dst) s h nvInvalidField 0 (fun t => t.host = s.host))

/-- R331, R437, R329, R309: the pages Error Information (the newest entry first), SMART / Health, Firmware Slot, Changed Namespaces
(which a read empties), Commands Supported and Effects, and Sanitize Status; the places of the fields are those of NVMe (assumption
log 12). -/
def nvmePages : Prop := ∀ (h : NvmeHdr) (dst : Nat) (s : State), admits s h → Mem.wf s.host = true →
  (∀ (e : ErrInfo) (l : List ErrInfo), (s.ctl h.fn).errLog = e :: l → answered (.getLogErrorInformation h dst 64) s h nvOk 0 (fun t =>
    shows t dst (le 8 e.count ++ le 2 e.sqid ++ le 2 e.cid ++ le 2 (2 * e.status)) ∧ shows t (dst + 16) (le 8 e.lba ++ le 4 e.nsid) ∧
    t.ctl h.fn = s.ctl h.fn)) ∧
  answered (.getLogSmartHealth h dst 512) s h nvOk 0 (fun t => shows t dst (le 1 s.critical ++ le 2 s.composite) ∧
    shows t (dst + 216) (le 4 s.power.tm1)) ∧
  answered (.getLogFirmwareSlot h dst 512) s h nvOk 0 (fun t =>
    mread t.host dst 1 = le 1 ((if s.store.runningB then 2 else 1) + 16 * (if s.store.slotA = 2 then 1 else if s.store.slotB = 2 then 2 else 0))) ∧
  (∀ l : List Nat, (s.ctl h.fn).changed = l → l.length ≤ 64 → answered (.getLogChangedNamespace h dst 4096) s h nvOk 0 (fun t =>
    shows t dst (l.flatMap (le 4) ++ zeros (4096 - 4 * l.length)) ∧ (t.ctl h.fn).changed = [])) ∧
  answered (.getLogCommandsSupported h dst 4096) s h nvOk 0 (fun t => ∀ op : Nat, op < 256 →
    ((mget t.host (dst + 4 * op)).toNat % 2 = 1 ↔ op ∈ (if h.fn = 0 then adminOps else vfOps)) ∧
    ((mget t.host (dst + 1024 + 4 * op)).toNat % 2 = 1 ↔ op ∈ nvmOps)) ∧
  answered (.getLogSanitizeStatus h dst 512) s h nvOk 0 (fun t =>
    shows t (dst + 2) (le 2 (if s.nvme.sanitize ≠ 0 then 2 else if s.nvme.sanitizeDone = 0 then 0 else 1)) ∧
    shows t (dst + 12) (le 4 135))

/-- Table 13-9, Table 13-10, Table 14-9, R340, R370, R438: the pages of the drive's own: the lacuna log, the colophon statistics and the
abort list, from which a read with bit 0 of its Log Specific Field removes the entries that it returned. -/
def drivePages : Prop := ∀ (h : NvmeHdr) (dst : Nat) (s : State), admits s h → Mem.wf s.host = true →
  (s.store.lacuna = [] → ∀ lsf : Nat, answered (.getLogLacuna h lsf dst 0 64) s h nvOk 0 (fun t => shows t dst (le 2 1 ++ zeros 62))) ∧
  (∀ (r : LacunaRec) (x : LacExt), s.store.lacuna = [r] → r.exts = [x] → r.kcis = [] → r.counts = [] → h.fn = 0 →
    answered (.getLogLacuna h 0 dst 0 96) s h nvOk 0 (fun t => shows t dst (le 2 1 ++ le 2 1 ++ le 4 r.seq ++ le 8 r.time ++ le 8 r.copied ++
      le 1 (if r.complete then 1 else 0) ++ zeros 3 ++ le 4 1 ++ le 4 r.nExts ++ le 4 r.nKcis ++ le 8 r.unlisted ++ zeros 16 ++
      le 1 1 ++ le 1 x.flags ++ le 2 x.fn ++ le 4 x.nsid ++ le 8 x.slba ++ le 4 x.nlb ++ le 2 x.sqid ++ le 2 x.cid ++ zeros 8))) ∧
  (h.fn ≠ 0 → ∀ l : List Nat, tfind s.ledger.stats h.fn = some l → l.length = 16 →
    answered (.getLogColophonStatistics h dst 0 192) s h nvOk 0 (fun t => shows t dst
      (le 2 1 ++ zeros 2 ++ le 4 1 ++ le 4 h.fn ++ le 8 s.ledger.statsSince ++ zeros 44 ++ l.flatMap (le 8)))) ∧
  (∀ e : AbortEnt, (s.ctl h.fn).aborts = [e] → ∀ lsf : Nat, answered (.getLogAbortList h lsf dst 64) s h nvOk 0 (fun t =>
    shows t dst (le 2 1 ++ zeros 2 ++ le 4 1 ++ zeros 24 ++ le 1 e.kind ++ le 1 e.reason ++ le 2 e.queue ++ le 2 e.cid ++ le 1 e.ctx ++
      zeros 1 ++ le 8 e.fetched ++ le 8 e.entered ++ le 8 e.oid) ∧
    (t.ctl h.fn).aborts = if lsf % 2 = 1 then [] else [e]))

/-! #### NVMe-MI -/

/-- A request of the management interface is answered; nothing else changes. -/
def miAnswered (c : Instr) (s : State) (P : List Byte → Prop) : Prop := ∃ t : State, exec c s = .next t ∧ Frame [.mgmt, .freeCtr] s t ∧
  t.mgmt = { s.mgmt with miOut := t.mgmt.miOut } ∧ P t.mgmt.miOut

/-- R436, Table 2-3: on the auxiliary rail the management interface answers its requests, and says whether the drive is ready; it does
not answer without its firmware. A request writes only the SMBus configuration. -/
def managementInterface : Prop := ∀ s : State,
  (s.miAnswers = true →
    (∀ k : Nat, miAnswered (.miReadDataStructure k) s (fun b => (k = 0 → slice b 1 2 = le 1 1 ++ le 1 2) ∧
      (k = 2 → slice b 0 2 = le 2 256 ∧ ∀ i : Nat, i < 256 → slice b (2 + 2 * i) 2 = le 2 (i + 1)))) ∧
    miAnswered .miSubsystemHealthPoll s (fun b => b.length = 8 ∧
      slice b 0 2 = le 1 (32 * (if s.live = true ∧ s.power.nvmeReady = true then 1 else 0) + 8 * (if s.power.linkUp then 1 else 0)) ++
        le 1 (255 - s.critical)) ∧
    (∀ n : Nat, 1 ≤ n → n ≤ 256 → miAnswered (.miControllerHealthPoll n) s (fun b =>
      slice b 0 4 = le 2 n ++ le 2 ((if (s.ctl (n - 1)).ready then 1 else 0) + 4 * (s.ctl (n - 1)).shutdown) ∧
      slice b 8 1 = le 1 s.critical)) ∧
    (∀ k v : Nat, tfind s.mgmt.smbCfg k = some v → miAnswered (.miConfigurationGet k) s (fun b => b = le 4 v)) ∧
    (∀ k v : Nat, ∃ t : State, exec (.miConfigurationSet k v) s = .next t ∧ Frame [.mgmt, .freeCtr] s t ∧
      tfind t.mgmt.smbCfg k = some v ∧ ∀ j : Nat, j ≠ k → tfind t.mgmt.smbCfg j = tfind s.mgmt.smbCfg j) ∧
    (∀ off n : Nat, miAnswered (.miVpdRead off n) s (fun b => b.length = n)) ∧
    (s.live = true → s.power.nvmeReady = true → miAnswered (.miTunneledIdentify 1) s (fun b => slice b 78 2 = le 2 1 ∧ slice b 84 4 = le 4 30000000)) ∧
    (s.live = true → s.power.nvmeReady = true → miAnswered (.miTunneledGetLogPage 0x02) s (fun b => slice b 0 1 = le 1 s.critical)) ∧
    (s.live = false → ∀ k : Nat, miAnswered (.miTunneledIdentify k) s (fun b => b = []) ∧
      miAnswered (.miTunneledGetLogPage k) s (fun b => b = [])) ∧
    (∀ n : Nat, 1 ≤ n → ∀ (r : ErrRec), s.errs.ring = [r] → miAnswered (.miErrorLogRead r.seq n) s (fun b => b = ErrRec.bytes r))) ∧
  (s.power.rail33 = false ∨ s.power.miReady = false → exec .miSubsystemHealthPoll s = .next s ∧
    (∀ k v : Nat, exec (.miConfigurationSet k v) s = .next s) ∧ ∀ q n : Nat, exec (.miErrorLogRead q n) s = .next s)

end Sys2Proof.Claims

/-- R306, R309, R310, R325, R331, R341: the doorbell, the queues, Abort and the event requests of the controllers. -/
def Obligations.NvmeQueues : Prop := Claims.doorbell ∧ Claims.vfRefused ∧ Claims.ioQueues ∧ Claims.abortCommand ∧ Claims.eventRequest

/-- R309, R311, R321, R326, R335, R336, R338, R342, R404, R447: the features. -/
def Obligations.NvmeFeatures : Prop := Claims.keptFeatures ∧ Claims.powerManagement ∧ Claims.driveFeatures ∧ Claims.featuresRead ∧
  Claims.release

/-- R306, R308, R316, R331, R340, R370, R437, R438: Identify and the log pages. -/
def Obligations.LogPages : Prop := Claims.identified ∧ Claims.nvmePages ∧ Claims.drivePages

/-- R436: NVMe-MI; the layouts of its answers are PRESUMED from NVMe-MI (assumption log 12). -/
def Obligations.ManagementInterface : Prop := Claims.managementInterface

/-! ### Block storage: namespaces, firmware, security (chapter 13) -/

namespace Sys2Proof.Claims

/-- R307, R308, R313: a namespace of a whole number of GiB that fits the unallocated capacity takes the lowest free NSID, with no
controller attached and every block deallocated; one that exceeds it completes with Namespace Insufficient Capacity. -/
def namespaceCreated : Prop := ∀ (h : NvmeHdr) (nsze flbas pi i : Nat) (s : State), admits s h → h.fn = 0 →
  let f := flbas % 16
  let size := nsze * lbaData f
  f ≤ 4 → pi ≤ 3 → (pi = 0 ∨ lbaMd f ≠ 0) → nsze ≠ 0 → size % 2 ^ 30 = 0 →
  (size ≤ s.unvmcap → 1 ≤ i → i ≤ 64 → tfind s.nvme.ns i = none → (∀ j : Nat, 1 ≤ j → j < i → (tfind s.nvme.ns j).isSome = true) →
    answered (.namespaceManagementCreate h nsze flbas pi) s h nvOk i (fun t => ∃ n : NsSt, tfind t.nvme.ns i = some n ∧
      n.gib * 2 ^ 30 = size ∧ n.lbaf = f ∧ n.pi = pi ∧ n.ext = bit flbas 4 ∧ n.attached = [] ∧ n.media = [] ∧ n.nlba = nsze ∧
      ∀ j : Nat, j ≠ i → tfind t.nvme.ns j = tfind s.nvme.ns j)) ∧
  (s.unvmcap < size → answered (.namespaceManagementCreate h nsze flbas pi) s h nvCapacity 0 (quietNvme s h))

/-- R307: a namespace that is deleted is gone, with its cached data and its locking ranges; its capacity is free again. A namespace that
does not exist completes with Invalid Namespace or Format. -/
def namespaceDeleted : Prop := ∀ (h : NvmeHdr) (s : State), admits s h → h.fn = 0 → h.nsid ≠ 0xFFFFFFFF →
  (∀ n : NsSt, tfind s.nvme.ns h.nsid = some n → n.attached = [] → s.nvme.cache = [] → s.nvme.waiting = [] → s.nvme.flushes = [] →
    (∀ c ∈ s.nvme.ctls, c.2.shutdown = 0) →
    answered (.namespaceManagementDelete h) s h nvOk 0 (fun t => tfind t.nvme.ns h.nsid = none ∧
      (∀ j : Nat, j ≠ h.nsid → tfind t.nvme.ns j = tfind s.nvme.ns j) ∧ ∀ l ∈ t.nvme.locks, l.1 = 0 ∨ l.2.nsid ≠ h.nsid)) ∧
  (tfind s.nvme.ns h.nsid = none → ∃ t : State, exec (.namespaceManagementDelete h) s = .next t ∧ cplOf h nvInvalidNs 0 ∈ t.nvme.out ∧
    t.nvme.ns = s.nvme.ns)

/-- R307: a namespace is attached to a controller, and detached again; its data stays. -/
def namespaceAttached : Prop := ∀ (h : NvmeHdr) (fn : Nat) (n : NsSt) (s : State), admits s h → h.fn = 0 → fn < 256 →
  tfind s.nvme.ns h.nsid = some n → fn ≠ 0 →
  (fn ∉ n.attached → ∃ t : State, exec (.namespaceAttachment h true [fn + 1]) s = .next t ∧ cplOf h nvOk 0 ∈ t.nvme.out ∧
    tfind t.nvme.ns h.nsid = some { n with attached := n.attached ++ [fn] } ∧ h.nsid ∈ (t.ctl fn).changed) ∧
  (fn ∈ n.attached → ∃ t : State, exec (.namespaceAttachment h false [fn + 1]) s = .next t ∧ cplOf h nvOk 0 ∈ t.nvme.out ∧
    ∃ m : NsSt, tfind t.nvme.ns h.nsid = some m ∧ m = { n with attached := m.attached } ∧ fn ∉ m.attached ∧
      ∀ g : Nat, g ≠ fn → (g ∈ m.attached ↔ g ∈ n.attached)) ∧
  (fn ∈ n.attached → answered (.namespaceAttachment h true [fn + 1]) s h nvAttached 0 (quietNvme s h)) ∧
  (fn ∉ n.attached → answered (.namespaceAttachment h false [fn + 1]) s h nvNotAttached 0 (quietNvme s h))

/-- R313, R316: a format takes a namespace to another format of Table 13-4, and every block of it is deallocated; other namespaces keep
theirs. -/
def formatted : Prop := ∀ (h : NvmeHdr) (f pi ses : Nat) (ext : Bool) (n : NsSt) (s : State), admits s h → h.fn = 0 → f ≤ 4 → pi ≤ 3 →
  (pi = 0 ∨ lbaMd f ≠ 0) → ses ≤ 2 → h.nsid ≠ 0xFFFFFFFF → tfind s.nvme.ns h.nsid = some n →
  s.nvme.cache = [] → s.nvme.waiting = [] → s.nvme.flushes = [] → (∀ c ∈ s.nvme.ctls, c.2.shutdown = 0) →
  answered (.formatNvm h f pi ses ext) s h nvOk 0 (fun t =>
    (∃ m : NsSt, tfind t.nvme.ns h.nsid = some m ∧ m.lbaf = f ∧ m.pi = pi ∧ m.ext = ext ∧ m.gib = n.gib ∧ m.attached = n.attached ∧
      ∀ lba : Nat, t.blkAt h.nsid m lba = deallocBlk f) ∧
    ∀ j : Nat, j ≠ h.nsid → tfind t.nvme.ns j = tfind s.nvme.ns j)

/-- R278, R279, R281, R312: a download fills the buffer of the slot that does not run; a commit of it journals the slot EMPTY, erases its 15
sectors and writes the image, and completes when that is done. The running slot, an action of immediate activation and an image in
the slot that does not verify are refused; an image below the fused minimum is prohibited. -/
def firmware : Prop := ∀ (h : NvmeHdr) (off : Nat) (data : List Byte) (img : FwImage) (s : State), admits s h → h.fn = 0 →
  let b := !s.store.runningB
  let mine := if b then 2 else 1
  let st := if b then s.store.slotB else s.store.slotA
  (off + data.length ≤ 983040 → Mem.wf s.nvme.fwBuf = true → answered (.firmwareImageDownload h off data) s h nvOk 0 (fun t =>
    mread t.nvme.fwBuf off data.length = data ∧ (∀ a : Nat, a < off ∨ off + data.length ≤ a → mget t.nvme.fwBuf a = mget s.nvme.fwBuf a) ∧
    t.store = s.store)) ∧
  answered (.firmwareCommit h 3 0 img) s h nvInvalidField 0 (fun t => t.store = s.store) ∧
  answered (.firmwareCommit h 0 (3 - mine) img) s h nvFwSlot 0 (fun t => t.store = s.store) ∧
  (s.store.commit = none → s.store.used < 2040 → ∃ t : State, exec (.firmwareCommit h 0 mine img) s = .next t ∧
    t.nvme.out = s.nvme.out ∧ t.store.commit = some (h, b, img) ∧ (if b then t.store.slotB else t.store.slotA) = 0 ∧
    t.store.image b = none ∧ t.store.image (!b) = s.store.image (!b) ∧ journals s t jSlot (if b then 128 else 0) 0 ∧
    ∀ i : Nat, i < 15 → ({ kind := .erase ((if b then 17 else 2) + i) } : StoreOp) ∈ t.store.queue) ∧
  (s.store.commit = none → s.store.used < 2040 → ∀ i : FwImage, s.store.image b = some i → i.sigOk = true → (st = 1 ∨ st = 4) →
    (s.store.minSvn ≤ i.svn → answered (.firmwareCommit h 2 mine img) s h nvFwReset 0 (fun t =>
      (if b then t.store.slotB else t.store.slotA) = 2 ∧ t.store.image b = some i)) ∧
    (i.svn < s.store.minSvn → answered (.firmwareCommit h 2 mine img) s h nvFwProhibited 0 (fun t => t.store = s.store)))

/-- R327: what the Opal commands change: a locking range, which lies in one namespace beside the others; its locks; its key, after which
the data under the old key cannot be read as it was; the shadow MBR of 128 MiB. -/
def opal : Prop := ∀ (h : NvmeHdr) (r nsid slba nlb off dst : Nat) (rl wl en : Bool) (data : List Byte) (s : State), admits s h → h.fn = 0 →
  let lock := tget LockSt.reset s.nvme.locks r
  (1 ≤ r → r ≤ 63 → ∀ n : NsSt, tfind s.nvme.ns nsid = some n → slba + nlb ≤ n.nlba → s.nvme.locks = [] →
    answered (.securitySend h (.setRange r nsid slba nlb)) s h nvOk 0 (fun t => tfind t.nvme.locks r = some { lock with
      nsid := nsid, slba := slba, nlb := nlb } ∧ t.nvme.ns = s.nvme.ns)) ∧
  (r ≤ 63 → answered (.securitySend h (.setLocks r rl wl)) s h nvOk 0 (fun t => tfind t.nvme.locks r = some { lock with
      readLocked := rl, writeLocked := wl } ∧ t.nvme.ns = s.nvme.ns ∧
      ∀ k : Nat, k ≠ r → tfind t.nvme.locks k = tfind s.nvme.locks k)) ∧
  (r ≤ 63 → answered (.securitySend h (.genKey r)) s h nvOk 0 (fun t =>
      tfind t.nvme.locks r = some { lock with keyGen := lock.keyGen + 1 } ∧
      ∀ (i lba : Nat) (n : NsSt) (x : Blk), tfind s.nvme.ns i = some n → tfind n.media lba = some x → s.lockOf i lba ≠ r →
        ∃ m : NsSt, tfind t.nvme.ns i = some m ∧ tfind m.media lba = some x)) ∧
  (63 < r → answered (.securitySend h (.setLocks r rl wl)) s h nvInvalidField 0 (fun t => t.nvme.locks = s.nvme.locks)) ∧
  answered (.securitySend h (.setMbr en)) s h nvOk 0 (fun t => t.nvme.mbrOn = en ∧ t.nvme.mbr = s.nvme.mbr) ∧
  (off + data.length ≤ 134217728 → Mem.wf s.nvme.mbr = true → answered (.securitySend h (.writeMbr off data)) s h nvOk 0 (fun t =>
    mread t.nvme.mbr off data.length = data ∧ t.nvme.mbrOn = s.nvme.mbrOn)) ∧
  answered (.securityReceive h dst) s h nvOk 0 (fun t => ∀ a : Nat, a < dst ∨ dst + 512 ≤ a → mget t.host a = mget s.host a)

/-- The blocks of a namespace are all deallocated. -/
def blank (t : State) (i : Nat) : Prop := ∀ m : NsSt, tfind t.nvme.ns i = some m → ∀ lba : Nat, t.blkAt i m lba = deallocBlk m.lbaf

/-- R329, R330: a sanitize, of either kind, removes the data of every namespace and what is cached; it is refused while a KCI queue is
open or another one runs. When a block erase is done every block in service has been erased. -/
def sanitized : Prop := ∀ (h : NvmeHdr) (s : State), admits s h → h.fn = 0 → s.nvme.cache = [] → s.nvme.waiting = [] →
  s.nvme.flushes = [] → (∀ c ∈ s.nvme.ctls, c.2.shutdown = 0) →
  ((∀ c ∈ s.ctxs, c.2.queues = []) → s.nvme.sanitize = 0 → ∀ (c : Instr) (k : Nat), (c = .sanitizeBlockErase h ∧ k = 1) ∨
    (c = .sanitizeCryptoErase h ∧ k = 2) → answered c s h nvOk 0 (fun t => t.nvme.sanitize = k ∧ (∀ i : Nat, blank t i) ∧
      (∀ (o : Nat) (x : ObjectSt), s.obj? o = some x → (∃ p ∈ x.pageTab, p.2.tier = 2) → (s.objs.map (·.1)).Nodup → t.obj? o = none) ∧
      (k = 2 → ∀ (r : Nat) (l : LockSt), tfind s.nvme.locks r = some l → ∃ m : LockSt, tfind t.nvme.locks r = some m ∧ m.keyGen = l.keyGen + 1))) ∧
  ((∃ c ∈ s.ctxs, c.2.queues ≠ []) → answered (.sanitizeBlockErase h) s h nvSequence 0 (quietNvme s h) ∧
    answered (.sanitizeCryptoErase h) s h nvSequence 0 (quietNvme s h))

/-- R330: a sanitize that ends is counted; NVM commands run again. -/
def sanitizeEnds : Prop := ∀ s : State, s.live = true →
  (s.nvme.sanitize = 0 → exec .sanitizeDone s = .next s) ∧
  (s.nvme.sanitize ≠ 0 → ∃ t : State, exec .sanitizeDone s = .next t ∧ t.nvme.sanitize = 0 ∧
    t.nvme.sanitizeDone = satAdd 32 s.nvme.sanitizeDone 1 ∧ t.nvme.ns = s.nvme.ns ∧
    (s.nvme.sanitize = 1 → t.nand.rows = [] ∧ ∀ d b : Nat, (s.block d b).retired = false →
      (tfind s.nand.blocks (blockKey d b)).isSome = true → (t.block d b).erases = (s.block d b).erases + 1 ∧
      (t.block d b).committed = 0 ∧ (t.block d b).torn = false))

/-! #### Reads and writes -/

/-- An I/O queue's command on a namespace that is attached to its controller, with no sanitize, lock, read-only mode, failed state or
shadow MBR in the way. -/
structure Reaches (s : State) (h : NvmeHdr) (n : NsSt) : Prop where
  io : h.sqid ≠ 0
  taken : s.takes h = true
  ns : tfind s.nvme.ns h.nsid = some n
  attached : h.fn ∈ n.attached
  noSanitize : s.nvme.sanitize = 0
  unlocked : s.nvme.locks = []
  writable : s.nvme.readOnly = false ∧ s.power.failed = false
  noShadow : s.nvme.mbrOn = false

/-- Every block but those of a range reads as before. -/
def elsewhere (s t : State) (nsid : Nat) (n : NsSt) (slba nlb : Nat) : Prop := ∀ (m lba : Nat) (x : NsSt),
  (m ≠ nsid ∨ lba < slba ∨ slba + nlb ≤ lba) → tfind s.nvme.ns m = some x ∨ (m = nsid ∧ x = n) → t.blkAt m x lba = s.blkAt m x lba

/-- The range lies in the namespace, and the command transfers at most 2,048 KiB. -/
def inRange (n : NsSt) (slba nlb : Nat) : Prop := 0 < nlb ∧ slba + nlb ≤ n.nlba ∧ nlb * lbaData n.lbaf ≤ 2097152

/-- R309, R307, R327, R330, R331, R333: what turns a command away: a sanitize, a namespace that is not attached, a range outside of it, a
lock, read-only mode. The status is completed, and Table 13-6's ones stand in the Error Information log. -/
def turnedAway : Prop := ∀ (h : NvmeHdr) (slba nlb prchk dst mdst : Nat) (fua pract : Bool) (pi : PiArgs) (data : List Byte) (s : State),
  h.sqid ≠ 0 → s.takes h = true →
  let row (c : Instr) (st : NvmeSts) : Prop := ∃ t : State, exec c s = .next t ∧ cplOf h st 0 ∈ t.nvme.out ∧ t.nvme.ns = s.nvme.ns ∧
    t.nvme.cache = s.nvme.cache ∧ t.nvme.waiting = s.nvme.waiting ∧ t.host = s.host ∧
    (∀ o ∈ t.nvme.outstanding, o.1.same h = false) ∧
    (st.logged = true → ∃ e ∈ (t.ctl h.fn).errLog, e.sqid = h.sqid ∧ e.cid = h.cid ∧ e.nsid = h.nsid)
  let w := Instr.write h slba nlb fua pract prchk pi data
  let r := Instr.read h slba nlb pract prchk pi dst mdst
  (s.nvme.sanitize ≠ 0 → row w nvSanitize ∧ row r nvSanitize ∧ row (.flush h) nvSanitize) ∧
  (s.nvme.sanitize = 0 → tfind s.nvme.ns h.nsid = none → row w nvInvalidNs ∧ row r nvInvalidNs ∧
    (h.nsid ≠ 0xFFFFFFFF → row (.flush h) nvInvalidNs)) ∧
  (∀ n : NsSt, s.nvme.sanitize = 0 → tfind s.nvme.ns h.nsid = some n → h.fn ∈ n.attached →
    (0 < nlb → n.nlba < slba + nlb → row w nvLbaRange ∧ row r nvLbaRange) ∧
    (inRange n slba nlb → s.nvme.readOnly = true → row w nvWriteFault) ∧
    (inRange n slba nlb → s.nvme.readOnly = false → s.power.failed = false → ∀ l : LockSt, s.nvme.locks = [(0, l)] →
      (l.writeLocked = true → row w nvAccess) ∧ (l.readLocked = true → row r nvAccess)))

/-- R314, R317, R320, R321, R322, R325: a write whose protection information checks, or is generated, enters the cache as a whole when there is
room: every block of it reads as written from then on, and every other block as before; it completes, unless it must reach NAND
first. Without room it waits, and no block changes. -/
def writes : Prop := ∀ (h : NvmeHdr) (slba nlb prchk : Nat) (fua : Bool) (pi : PiArgs) (data : List Byte) (n : NsSt) (s : State),
  Reaches s h n → inRange n slba nlb → data.length = nlb * lbaData n.lbaf →
  let l := lbaData n.lbaf
  let bs := (List.range nlb).map (fun i => writeBlk n true pi i (slice data (i * l) l))
  let room := s.nvme.waiting = [] ∧ s.cacheRoom (dataPieces h n fua s.nextId slba bs) = true
  let w := Instr.write h slba nlb fua true prchk pi data
  let holds (t : State) : Prop := (∀ i : Nat, i < nlb → (t.blkAt h.nsid n (slba + i)).data = slice data (i * l) l) ∧
    elsewhere s t h.nsid n slba nlb ∧ t.nvme.ns = s.nvme.ns
  (room → fua = false → s.nvme.wce = true → s.writeThrough = false →
    (∀ e ∈ s.nvme.cache, e.h.same h = false) → answered w s h nvOk 0 holds) ∧
  (room → fua = true ∨ s.nvme.wce = false ∨ s.writeThrough = true → ∃ t : State, exec w s = .next t ∧ t.nvme.out = s.nvme.out ∧ holds t ∧
    ∃ o ∈ t.nvme.outstanding, o.1.same h = true) ∧
  (¬ room → ∃ t : State, exec w s = .next t ∧ t.nvme.out = s.nvme.out ∧ t.nvme.ns = s.nvme.ns ∧ t.nvme.cache = s.nvme.cache ∧
    t.nvme.waiting = s.nvme.waiting ++ dataPieces h n fua s.nextId slba bs ∧ ∃ o ∈ t.nvme.outstanding, o.1.same h = true)

/-- R314, Table 13-6: a write with PRACT = 0 whose guard does not match its data is refused whole when PRCHK selects the guard. -/
def guardedWrites : Prop := ∀ (h : NvmeHdr) (slba : Nat) (fua : Bool) (pi : PiArgs) (data : List Byte) (n : NsSt) (s : State),
  Reaches s h n → inRange n slba 1 → data.length = lbaData n.lbaf → n.pi ≠ 0 → lbaMd n.lbaf ≠ 0 → pi.appTags.getD 0 0 ≠ 0xFFFF →
  pi.guards.getD 0 0 ≠ guardOf n.lbaf data → ∃ t : State, exec (.write h slba 1 fua false 4 pi data) s = .next t ∧
    cplOf h nvGuard 0 ∈ t.nvme.out ∧ t.nvme.cache = s.nvme.cache ∧ t.nvme.waiting = s.nvme.waiting ∧ t.nvme.ns = s.nvme.ns

/-- R315, R317, R332: a read gives the host the data that is cached, else what is committed; a stored guard that does not match its data ends it
with End-to-end Guard Check Error and tests the NAND block; an uncorrectable codeword ends it with Unrecovered Read Error. The clause
reads formats without metadata for the data, and a block with protection information for the guard. -/
def reads : Prop := ∀ (h : NvmeHdr) (slba nlb dst mdst : Nat) (pi : PiArgs) (n : NsSt) (s : State),
  Reaches s h n → inRange n slba nlb → s.power.recovering = [] →
  let blk (i : Nat) : Blk := s.blkAt h.nsid n (slba + i)
  let data := (List.range nlb).flatMap (fun i => (blk i).data)
  (lbaMd n.lbaf = 0 → n.pi = 0 → n.bad = [] → Mem.wf s.host = true →
    answered (.read h slba nlb false 0 pi dst mdst) s h nvOk 0 (fun t => mread t.host dst data.length = data ∧
      (∀ a : Nat, a < dst ∨ dst + data.length ≤ a → mget t.host a = mget s.host a) ∧ quietNvme s h t)) ∧
  (n.pi ≠ 0 → n.bad = [] → nlb = 1 → (blk 0).guard ≠ guardOf n.lbaf (blk 0).data →
    ∃ t : State, exec (.read h slba nlb false 0 pi dst mdst) s = .next t ∧ cplOf h nvGuard 0 ∈ t.nvme.out ∧ t.host = s.host ∧
      ∃ x ∈ t.tests, x.kind = 6 ∧ x.index = (blk 0).place / 2048) ∧
  (∀ addr : Nat, nlb = 1 → s.cached h.nsid slba = none → (tfind n.media slba).isSome = true → tfind n.bad slba = some addr →
    ∃ t : State, exec (.read h slba nlb false 0 pi dst mdst) s = .next t ∧ cplOf h nvReadErr 0 ∈ t.nvme.out ∧ t.host = s.host)

/-- R331: Compare completes when the data is the same, and with Compare Failure when it is not; Verify checks without a transfer. -/
def compares : Prop := ∀ (h : NvmeHdr) (slba nlb : Nat) (pi : PiArgs) (d : List Byte) (n : NsSt) (s : State),
  Reaches s h n → inRange n slba nlb → s.power.recovering = [] → n.pi = 0 → n.bad = [] →
  let data := (List.range nlb).flatMap (fun i => (s.blkAt h.nsid n (slba + i)).data)
  (d = data → answered (.compare h slba nlb d) s h nvOk 0 (quietNvme s h)) ∧
  (d ≠ data → ∃ t : State, exec (.compare h slba nlb d) s = .next t ∧ cplOf h nvCompare 0 ∈ t.nvme.out ∧ t.nvme.ns = s.nvme.ns ∧
    ∃ e ∈ (t.ctl h.fn).errLog, e.cid = h.cid ∧ e.sqid = h.sqid ∧ e.nsid = h.nsid) ∧
  answered (.verify h slba nlb 7 pi) s h nvOk 0 (fun t => quietNvme s h t ∧ t.host = s.host)

/-- R316, R317: Write Zeroes and a deallocation make the blocks of their range read as deallocated blocks do, at once, and no other. -/
def zeroes : Prop := ∀ (h : NvmeHdr) (slba nlb : Nat) (n : NsSt) (s : State), Reaches s h n → 0 < nlb → slba + nlb ≤ n.nlba →
  nlb * lbaData n.lbaf ≤ 8388608 → s.nvme.waiting = [] → s.nvme.wce = true → s.writeThrough = false → s.extents.length < 2048 →
  s.nvme.cacheBytes ≤ 1073741824 → (∀ e ∈ s.nvme.cache, e.h.same h = false) →
  let blankNow (t : State) : Prop := (∀ i : Nat, i < nlb → t.blkAt h.nsid n (slba + i) = deallocBlk n.lbaf) ∧
    elsewhere s t h.nsid n slba nlb
  answered (.writeZeroes h slba nlb false) s h nvOk 0 blankNow ∧
  answered (.datasetManagementDeallocate h [(slba, nlb)]) s h nvOk 0 blankNow

/-- R319: a Flush completes at once when nothing that was completed is uncommitted, and otherwise waits for exactly those pieces. -/
def flushes : Prop := ∀ (h : NvmeHdr) (n : NsSt) (s : State), Reaches s h n → h.nsid ≠ 0xFFFFFFFF →
  let waits := (s.nvme.cache.filter (fun e => e.completed && e.h.nsid == h.nsid)).map (·.id)
  (waits = [] → answered (.flush h) s h nvOk 0 (quietNvme s h)) ∧
  (waits ≠ [] → ∃ t : State, exec (.flush h) s = .next t ∧ t.nvme.out = s.nvme.out ∧ t.nvme.cache = s.nvme.cache ∧
    t.nvme.flushes = s.nvme.flushes ++ [{ h := h, waits := waits, since := s.time.now }])

/-! #### Reset, and the entries of the KCI queues -/

/-- The values that the spec gives for reset (Tables 16-6 and 18-2 to 18-15, R57, R60, R62, R344, R434, R443, R464): no context is
open, device time stands at 0, every region is UNLOCKED with a period of 1 ns and on the main oscillator, the shares of the
partitions are free, the group is IDLE with an epoch of 0 and a time-out of 1 s, the first error record is number 1, the write cache
is on, and nothing is cached or pending. -/
def resetValues : Prop := ∀ n : Nat,
  (State.reset.ctx n).state = 0 ∧ (State.reset.ctx n).enable = false ∧ (State.reset.ctx n).queues = [] ∧ (State.reset.ctx n).handles = [] ∧
  State.reset.time.now = 0 ∧ (State.reset.region n).lock = 0 ∧ (State.reset.region n).osc = 0 ∧ (State.reset.region n).stretch = 0 ∧
  (State.reset.part n).state = 0 ∧ (State.reset.part n).quota = 0 ∧ (State.reset.part n).resv = 0 ∧ (State.reset.part n).t2quota = 0 ∧
  (State.reset.arr n).state = 0 ∧ (State.reset.arr n).inflight = [] ∧
  State.reset.peer.group = 0 ∧ State.reset.peer.epoch = 0 ∧ State.reset.peer.progressTo = 1000 ∧ State.reset.peer.valid = false ∧
  (State.reset.port n).state = 0 ∧ State.reset.errs.next = 1 ∧ State.reset.errs.staging = [] ∧ State.reset.nvme.wce = true ∧
  State.reset.nvme.apst = false ∧ State.reset.nvme.cache = [] ∧ (State.reset.ctl n).enabled = false ∧ State.reset.power.resetCause = 1 ∧
  State.reset.power.computeReady = false ∧ State.reset.objs = [] ∧ State.reset.cmds = [] ∧ State.reset.pending = []

/-- A command without what the drive reads from host memory for it. -/
def bodyCore : Body → Body
  | .programInstall o a n _ => .programInstall o a n []
  | .copyIn h o a n l _ => .copyIn h o a n l []
  | .run p n m q b _ _ => .run p n m q b [] []
  | .search i q o n k np f r t qo oo fi _ => .search i q o n k np f r t qo oo fi []
  | b => b

end Sys2Proof.Claims

/-- R278, R279, R281, R307, R308, R312, R313, R316, R327, R329, R330: namespaces, firmware, security and sanitize. -/
def Obligations.NvmeManagement : Prop := Claims.namespaceCreated ∧ Claims.namespaceDeleted ∧ Claims.namespaceAttached ∧ Claims.formatted ∧
  Claims.firmware ∧ Claims.opal ∧ Claims.sanitized ∧ Claims.sanitizeEnds

/-- R307, R309, R314 to R322, R325, R327, R330 to R333: the NVM commands. -/
def Obligations.NvmeReadsAndWrites : Prop := Claims.turnedAway ∧ Claims.writes ∧ Claims.guardedWrites ∧ Claims.reads ∧ Claims.compares ∧
  Claims.zeroes ∧ Claims.flushes

/-- The values that the spec gives the drive after a power-on reset. -/
def Obligations.ResetValues : Prop := Claims.resetValues

/-- Tables 15-3 to 15-5: no field of an entry is dropped: two entries whose fields fit their bytes, with the same 64 bytes, have the same
common fields and the same command, but for what the drive knows from elsewhere: the context and the queue that the entry stands in,
and what it reads from host memory for the command. -/
def Obligations.EntriesSayAll : Prop := ∀ (e f : Entry) (b c : Body), entryFits e b = true → entryFits f c = true →
  encodeEntry e b = encodeEntry f c → Claims.bodyCore b = Claims.bodyCore c ∧ f = { e with
    ctx := f.ctx, queue := f.queue, dmaFault := f.dmaFault }

/-! ### Numbers (chapter 5) -/

namespace Sys2Proof.Claims

/-- How far a multiple of the smallest step lies from a fraction u / v of it, in units of 1 / v. -/
def distance (n u v : Nat) : Nat := ((n * v : Nat) - (u : Nat) : Int).natAbs

/-- R113: in units of the smallest step 2^lsb, the grid of a format of `prec` bits is m × 2^x with m at most 2^prec. The result stands on
that grid; no value of the grid is nearer to the exact value, and of two that are equally near it is the larger. -/
def nearest : Prop := ∀ (prec : Nat) (lsb : Int) (a b : Nat), 1 ≤ prec → 0 < a → 0 < b →
  let r := roundMag prec lsb none a b
  let u := a * 2 ^ (-lsb).toNat
  let v := b * 2 ^ lsb.toNat
  let near := r.1 * 2 ^ (r.2 - lsb).toNat
  lsb ≤ r.2 ∧ r.1 ≤ 2 ^ prec ∧ ∀ m x : Nat, m ≤ 2 ^ prec →
    distance near u v ≤ distance (m * 2 ^ x) u v ∧ (distance near u v = distance (m * 2 ^ x) u v → m * 2 ^ x ≤ near)

/-- R105: no code that is written is an infinity or a NaN; an exact zero is written as +0; a value that is not zero and rounds to zero
keeps its sign in the formats that have a signed zero. -/
def finiteOutputs : Prop := ∀ (fmt : Nat) (draw : Option Nat) (neg : Bool) (a b : Nat), 1 ≤ fmt → fmt ≤ 8 → 0 < b →
  let r := roundTo fmt draw neg a b
  let p := outParams fmt
  (decodeElem fmt r.code).isSome = true ∧ r.code < 2 ^ elemBits fmt ∧ (a = 0 → r.code = 0 ∧ r.flushed = false) ∧
  (0 < a → (roundMag p.1 p.2.1 draw a b).1 = 0 → r.flushed = true ∧ r.sat = false ∧
    r.code = if neg = true ∧ 3 ≤ fmt ∧ fmt ≤ 7 then 2 ^ (elemBits fmt - 1) else 0)

/-- R121: INT8 outputs lie in -127 to 127, and INT4 outputs in -7 to 7. -/
def symmetricOutputs : Prop := ∀ (draw : Option Nat) (neg : Bool) (a b : Nat),
  (-127 ≤ toSigned 8 (roundTo 1 draw neg a b).code ∧ toSigned 8 (roundTo 1 draw neg a b).code ≤ 127) ∧
  -7 ≤ toSigned 4 (roundTo 2 draw neg a b).code ∧ toSigned 4 (roundTo 2 draw neg a b).code ≤ 7

/-- R103: two 4-bit elements share a byte, the even one in its low half; elements that are written read back, and every other element of
the array, the neighbour in a shared byte too, reads as before. -/
def packedElements : Prop := ∀ (rd : Nat → Byte) (fmt off : Nat), 1 ≤ fmt → fmt ≤ 8 →
  (elemBits fmt = 4 → ∀ k : Nat, rawElem rd fmt off (2 * k) = (rd (off + k)).toNat % 16 ∧
    rawElem rd fmt off (2 * k + 1) = (rd (off + k)).toNat / 16) ∧
  ∀ (e : Nat) (codes : List Nat), (∀ c ∈ codes, c < 2 ^ elemBits fmt) →
    let p := packFrom rd fmt off e codes
    let after (a : Nat) : Byte := if p.1 ≤ a ∧ a < p.1 + p.2.length then p.2.getD (a - p.1) 0 else rd a
    ∀ i : Nat, rawElem after fmt off i = if e ≤ i ∧ i < e + codes.length then codes.getD (i - e) 0 else rawElem rd fmt off i

/-- Tables 5-1 and 5-2, R113, R114: a value that stands on a format's grid is unchanged by rounding, of either kind: every finite code of a
format that is not a zero comes back. The most negative integer code, which R121 never writes, is left out. -/
def gridValues : Prop := ∀ (fmt code : Nat) (m x : Int) (draw : Option Nat), 1 ≤ fmt → fmt ≤ 8 → code < 2 ^ elemBits fmt →
  decodeElem fmt code = some (m, x) → m ≠ 0 → (fmt = 1 ∨ fmt = 2 ∨ fmt = 8 → code ≠ 2 ^ (elemBits fmt - 1)) →
  Frac.round fmt draw (Frac.ofDyadic m x) = { code := code, sat := false, flushed := false }

end Sys2Proof.Claims

/-- R113: rounding to nearest. -/
def Obligations.RoundingToNearest : Prop := Claims.nearest

/-- R105, R121: what is written for a rounded value. -/
def Obligations.OutputEncodings : Prop := Claims.finiteOutputs ∧ Claims.symmetricOutputs

/-- R103: packed elements. -/
def Obligations.PackedElements : Prop := Claims.packedElements

/-- Tables 5-1 and 5-2: values on the grid of a format. -/
def Obligations.GridValues : Prop := Claims.gridValues
end

