-- ==== Sys2Proof/Laws/Tables.lean ====
section
/-! SUPPORT. The laws of sparse tables and byte memories: read after write, and the canonical form. -/

namespace Sys2Proof.Machine

/-! ### Tables -/

theorem tfind_tset_same {α : Type} (t : Table α) (k : Nat) (v : α) : tfind (tset t k v) k = some v := by
  induction t with
  | nil => simp [tset, tfind]
  | cons p t ih =>
    obtain ⟨k', v'⟩ := p
    simp only [tset]
    split
    · simp [tfind]
    · split
      · simp [tfind]
      · simp_all [tfind]

theorem tfind_tset_other {α : Type} (t : Table α) {k j : Nat} (v : α) (h : j ≠ k) : tfind (tset t k v) j = tfind t j := by
  induction t with
  | nil => simp [tset, tfind, h]
  | cons p t ih =>
    obtain ⟨k', v'⟩ := p
    simp only [tset]
    split
    · rename_i e
      subst e
      simp [tfind, h]
    · split
      · simp [tfind, h]
      · simp [tfind, ih]

@[simp] theorem tget_tset_same {α : Type} (d : α) (t : Table α) (k : Nat) (v : α) : tget d (tset t k v) k = v := by
  simp [tget, tfind_tset_same]

theorem tget_tset_other {α : Type} (d : α) (t : Table α) {k j : Nat} (v : α) (h : j ≠ k) :
    tget d (tset t k v) j = tget d t j := by
  simp [tget, tfind_tset_other t v h]

theorem tfind_tdel_same {α : Type} (t : Table α) (k : Nat) : tfind (tdel t k) k = none := by
  induction t with
  | nil => rfl
  | cons p t ih =>
    obtain ⟨k', v'⟩ := p
    unfold tdel at *
    by_cases h : k' = k
    · subst h
      simpa [List.filter] using ih
    · have h' : k ≠ k' := fun e => h e.symm
      have hb : (k' != k) = true := by simpa using h
      simp [List.filter, hb, tfind, h', ih]

theorem tfind_tdel_other {α : Type} (t : Table α) {k j : Nat} (h : j ≠ k) : tfind (tdel t k) j = tfind t j := by
  induction t with
  | nil => rfl
  | cons p t ih =>
    obtain ⟨k', v'⟩ := p
    unfold tdel at *
    by_cases e : k' = k
    · subst e
      simp [List.filter, tfind, h, ih]
    · have hb : (k' != k) = true := by simpa using e
      simp [List.filter, hb, tfind, ih]

theorem tfind_tmap {α β : Type} (t : Table α) (f : Nat → α → β) (k : Nat) : tfind (tmap t f) k = (tfind t k).map (f k) := by
  induction t with
  | nil => rfl
  | cons p t ih =>
    obtain ⟨k', v'⟩ := p
    unfold tmap at *
    by_cases e : k = k'
    · subst e
      simp [tfind]
    · simp [tfind, e, ih]

/-! ### Memories -/

theorem wfFrom_mono {m : Mem} {lo lo' : Nat} (h : wfFrom lo m = true) (hl : lo' ≤ lo) : wfFrom lo' m = true := by
  cases m with
  | nil => rfl
  | cons p m =>
    obtain ⟨a, b⟩ := p
    simp only [wfFrom, Bool.and_eq_true, decide_eq_true_eq] at *
    exact ⟨⟨by omega, h.1.2⟩, h.2⟩

theorem mget_below {m : Mem} {lo a : Nat} (h : wfFrom lo m = true) (ha : a < lo) : mget m a = 0 := by
  induction m generalizing lo with
  | nil => rfl
  | cons p m ih =>
    obtain ⟨k, b⟩ := p
    simp only [wfFrom, Bool.and_eq_true, decide_eq_true_eq] at h
    have hk : a ≠ k := by omega
    simp only [mget, hk, if_false]
    exact ih h.2 (by omega)

theorem mset_wfFrom {m : Mem} {lo a : Nat} (b : Byte) (h : wfFrom lo m = true) (ha : lo ≤ a) : wfFrom lo (mset m a b) = true := by
  induction m generalizing lo with
  | nil =>
    simp only [mset]
    split
    · rfl
    · simp_all [wfFrom]
  | cons p m ih =>
    obtain ⟨k, c⟩ := p
    simp only [wfFrom, Bool.and_eq_true, decide_eq_true_eq] at h
    obtain ⟨⟨h1, h2⟩, h3⟩ := h
    simp only [mset]
    split
    · rename_i e
      subst e
      split
      · exact wfFrom_mono h3 (by omega)
      · simp_all [wfFrom]
    · split
      · split
        · simp_all [wfFrom]
        · simp only [wfFrom, Bool.and_eq_true, decide_eq_true_eq]
          exact ⟨⟨ha, by simpa using ‹¬b = 0›⟩, ⟨by omega, h2⟩, h3⟩
      · simp only [wfFrom, Bool.and_eq_true, decide_eq_true_eq]
        exact ⟨⟨h1, h2⟩, ih h3 (by omega)⟩

/-- Writing one byte keeps the canonical form. -/
theorem mset_wf {m : Mem} (a : Nat) (b : Byte) (h : Mem.wf m = true) : Mem.wf (mset m a b) = true :=
  mset_wfFrom b h (Nat.zero_le a)

/-- Writing bytes keeps the canonical form. -/
theorem mwrite_wf {m : Mem} (a : Nat) (bs : List Byte) (h : Mem.wf m = true) : Mem.wf (mwrite m a bs) = true := by
  induction bs generalizing m a with
  | nil => exact h
  | cons b bs ih => exact ih (a + 1) (mset_wf a b h)

theorem mget_mset_other (m : Mem) {a x : Nat} (b : Byte) (h : x ≠ a) : mget (mset m a b) x = mget m x := by
  induction m with
  | nil =>
    simp only [mset]
    split <;> simp [mget, h]
  | cons p m ih =>
    obtain ⟨k, c⟩ := p
    simp only [mset]
    split
    · rename_i e
      subst e
      split <;> simp [mget, h]
    · split
      · split <;> simp [mget, h]
      · simp [mget, ih]

theorem mget_mset_same_from {m : Mem} {lo a : Nat} (b : Byte) (hm : wfFrom lo m = true) (ha : lo ≤ a) :
    mget (mset m a b) a = b := by
  induction m generalizing lo with
  | nil =>
    simp only [mset]
    split <;> simp_all [mget]
  | cons p m ih =>
    obtain ⟨k, c⟩ := p
    simp only [wfFrom, Bool.and_eq_true, decide_eq_true_eq] at hm
    obtain ⟨⟨h1, h2⟩, h3⟩ := hm
    simp only [mset]
    split
    · rename_i e
      subst e
      split
      · rename_i e0
        rw [e0]
        exact mget_below h3 (by omega)
      · simp [mget]
    · split
      · split
        · rename_i e0
          rw [e0]
          have hk : a ≠ k := by omega
          simp only [mget, hk, if_false]
          exact mget_below h3 (by omega)
        · simp [mget]
      · rename_i n1 n2
        simp only [mget, n1, if_false]
        exact ih h3 (by omega)

/-- A byte reads back as written. -/
theorem mget_mset_same {m : Mem} (a : Nat) (b : Byte) (hm : Mem.wf m = true) : mget (mset m a b) a = b :=
  mget_mset_same_from b hm (Nat.zero_le a)

/-- Writing bytes leaves every other address alone. -/
theorem mget_mwrite_other (m : Mem) (a : Nat) (bs : List Byte) {x : Nat} (h : x < a ∨ a + bs.length ≤ x) :
    mget (mwrite m a bs) x = mget m x := by
  induction bs generalizing m a with
  | nil => rfl
  | cons b bs ih =>
    simp only [mwrite, List.length_cons] at *
    rw [ih (mset m a b) (a + 1) (by omega)]
    exact mget_mset_other m b (by omega)

/-- Bytes read back as written. -/
theorem mget_mwrite_at {m : Mem} (a : Nat) (bs : List Byte) (hm : Mem.wf m = true) {i : Nat} (h : i < bs.length) :
    mget (mwrite m a bs) (a + i) = bs.getD i 0 := by
  induction bs generalizing m a i with
  | nil => exact absurd h (Nat.not_lt_zero i)
  | cons b bs ih =>
    simp only [mwrite]
    cases i with
    | zero =>
      rw [mget_mwrite_other _ _ _ (Or.inl (by omega))]
      exact mget_mset_same a b hm
    | succ i =>
      have e : a + (i + 1) = a + 1 + i := by omega
      rw [e, ih (a + 1) (mset_wf a b hm) (by simpa using h)]
      rfl

theorem mread_mwrite {m : Mem} (a : Nat) (bs : List Byte) (hm : Mem.wf m = true) : mread (mwrite m a bs) a bs.length = bs := by
  unfold mread
  apply List.ext_getElem
  · simp
  · intro i h1 h2
    simp [mget_mwrite_at a bs hm h2, List.getElem?_eq_getElem h2]

end Sys2Proof.Machine
end

