-- ==== Sys2Proof/Laws/State.lean ====
section
/-! SUPPORT. What each of the shared updates of the state leaves and what it writes: one law per field and update, so that no
later proof unfolds a record update. -/

namespace Sys2Proof.Machine

/-! ### modPower -/

@[simp] theorem State.modPower_variant (s : State) (f : PowerSt → PowerSt) : (s.modPower f).variant = s.variant := rfl
@[simp] theorem State.modPower_power (s : State) (f : PowerSt → PowerSt) : (s.modPower f).power = f s.power := rfl
@[simp] theorem State.modPower_time (s : State) (f : PowerSt → PowerSt) : (s.modPower f).time = s.time := rfl
@[simp] theorem State.modPower_ctxs (s : State) (f : PowerSt → PowerSt) : (s.modPower f).ctxs = s.ctxs := rfl
@[simp] theorem State.modPower_cmds (s : State) (f : PowerSt → PowerSt) : (s.modPower f).cmds = s.cmds := rfl
@[simp] theorem State.modPower_objs (s : State) (f : PowerSt → PowerSt) : (s.modPower f).objs = s.objs := rfl
@[simp] theorem State.modPower_arrays (s : State) (f : PowerSt → PowerSt) : (s.modPower f).arrays = s.arrays := rfl
@[simp] theorem State.modPower_parts (s : State) (f : PowerSt → PowerSt) : (s.modPower f).parts = s.parts := rfl
@[simp] theorem State.modPower_tests (s : State) (f : PowerSt → PowerSt) : (s.modPower f).tests = s.tests := rfl
@[simp] theorem State.modPower_verdicts (s : State) (f : PowerSt → PowerSt) : (s.modPower f).verdicts = s.verdicts := rfl
@[simp] theorem State.modPower_verdictCtrs (s : State) (f : PowerSt → PowerSt) : (s.modPower f).verdictCtrs = s.verdictCtrs := rfl
@[simp] theorem State.modPower_nand (s : State) (f : PowerSt → PowerSt) : (s.modPower f).nand = s.nand := rfl
@[simp] theorem State.modPower_store (s : State) (f : PowerSt → PowerSt) : (s.modPower f).store = s.store := rfl
@[simp] theorem State.modPower_nvme (s : State) (f : PowerSt → PowerSt) : (s.modPower f).nvme = s.nvme := rfl
@[simp] theorem State.modPower_peer (s : State) (f : PowerSt → PowerSt) : (s.modPower f).peer = s.peer := rfl
@[simp] theorem State.modPower_errs (s : State) (f : PowerSt → PowerSt) : (s.modPower f).errs = s.errs := rfl
@[simp] theorem State.modPower_ledger (s : State) (f : PowerSt → PowerSt) : (s.modPower f).ledger = s.ledger := rfl
@[simp] theorem State.modPower_mgmt (s : State) (f : PowerSt → PowerSt) : (s.modPower f).mgmt = s.mgmt := rfl
@[simp] theorem State.modPower_host (s : State) (f : PowerSt → PowerSt) : (s.modPower f).host = s.host := rfl
@[simp] theorem State.modPower_nextId (s : State) (f : PowerSt → PowerSt) : (s.modPower f).nextId = s.nextId := rfl
@[simp] theorem State.modPower_freeCtr (s : State) (f : PowerSt → PowerSt) : (s.modPower f).freeCtr = s.freeCtr := rfl
@[simp] theorem State.modPower_pending (s : State) (f : PowerSt → PowerSt) : (s.modPower f).pending = s.pending := rfl

/-! ### modTime -/

@[simp] theorem State.modTime_variant (s : State) (f : TimeSt → TimeSt) : (s.modTime f).variant = s.variant := rfl
@[simp] theorem State.modTime_power (s : State) (f : TimeSt → TimeSt) : (s.modTime f).power = s.power := rfl
@[simp] theorem State.modTime_time (s : State) (f : TimeSt → TimeSt) : (s.modTime f).time = f s.time := rfl
@[simp] theorem State.modTime_ctxs (s : State) (f : TimeSt → TimeSt) : (s.modTime f).ctxs = s.ctxs := rfl
@[simp] theorem State.modTime_cmds (s : State) (f : TimeSt → TimeSt) : (s.modTime f).cmds = s.cmds := rfl
@[simp] theorem State.modTime_objs (s : State) (f : TimeSt → TimeSt) : (s.modTime f).objs = s.objs := rfl
@[simp] theorem State.modTime_arrays (s : State) (f : TimeSt → TimeSt) : (s.modTime f).arrays = s.arrays := rfl
@[simp] theorem State.modTime_parts (s : State) (f : TimeSt → TimeSt) : (s.modTime f).parts = s.parts := rfl
@[simp] theorem State.modTime_tests (s : State) (f : TimeSt → TimeSt) : (s.modTime f).tests = s.tests := rfl
@[simp] theorem State.modTime_verdicts (s : State) (f : TimeSt → TimeSt) : (s.modTime f).verdicts = s.verdicts := rfl
@[simp] theorem State.modTime_verdictCtrs (s : State) (f : TimeSt → TimeSt) : (s.modTime f).verdictCtrs = s.verdictCtrs := rfl
@[simp] theorem State.modTime_nand (s : State) (f : TimeSt → TimeSt) : (s.modTime f).nand = s.nand := rfl
@[simp] theorem State.modTime_store (s : State) (f : TimeSt → TimeSt) : (s.modTime f).store = s.store := rfl
@[simp] theorem State.modTime_nvme (s : State) (f : TimeSt → TimeSt) : (s.modTime f).nvme = s.nvme := rfl
@[simp] theorem State.modTime_peer (s : State) (f : TimeSt → TimeSt) : (s.modTime f).peer = s.peer := rfl
@[simp] theorem State.modTime_errs (s : State) (f : TimeSt → TimeSt) : (s.modTime f).errs = s.errs := rfl
@[simp] theorem State.modTime_ledger (s : State) (f : TimeSt → TimeSt) : (s.modTime f).ledger = s.ledger := rfl
@[simp] theorem State.modTime_mgmt (s : State) (f : TimeSt → TimeSt) : (s.modTime f).mgmt = s.mgmt := rfl
@[simp] theorem State.modTime_host (s : State) (f : TimeSt → TimeSt) : (s.modTime f).host = s.host := rfl
@[simp] theorem State.modTime_nextId (s : State) (f : TimeSt → TimeSt) : (s.modTime f).nextId = s.nextId := rfl
@[simp] theorem State.modTime_freeCtr (s : State) (f : TimeSt → TimeSt) : (s.modTime f).freeCtr = s.freeCtr := rfl
@[simp] theorem State.modTime_pending (s : State) (f : TimeSt → TimeSt) : (s.modTime f).pending = s.pending := rfl

/-! ### modNand -/

@[simp] theorem State.modNand_variant (s : State) (f : NandSt → NandSt) : (s.modNand f).variant = s.variant := rfl
@[simp] theorem State.modNand_power (s : State) (f : NandSt → NandSt) : (s.modNand f).power = s.power := rfl
@[simp] theorem State.modNand_time (s : State) (f : NandSt → NandSt) : (s.modNand f).time = s.time := rfl
@[simp] theorem State.modNand_ctxs (s : State) (f : NandSt → NandSt) : (s.modNand f).ctxs = s.ctxs := rfl
@[simp] theorem State.modNand_cmds (s : State) (f : NandSt → NandSt) : (s.modNand f).cmds = s.cmds := rfl
@[simp] theorem State.modNand_objs (s : State) (f : NandSt → NandSt) : (s.modNand f).objs = s.objs := rfl
@[simp] theorem State.modNand_arrays (s : State) (f : NandSt → NandSt) : (s.modNand f).arrays = s.arrays := rfl
@[simp] theorem State.modNand_parts (s : State) (f : NandSt → NandSt) : (s.modNand f).parts = s.parts := rfl
@[simp] theorem State.modNand_tests (s : State) (f : NandSt → NandSt) : (s.modNand f).tests = s.tests := rfl
@[simp] theorem State.modNand_verdicts (s : State) (f : NandSt → NandSt) : (s.modNand f).verdicts = s.verdicts := rfl
@[simp] theorem State.modNand_verdictCtrs (s : State) (f : NandSt → NandSt) : (s.modNand f).verdictCtrs = s.verdictCtrs := rfl
@[simp] theorem State.modNand_nand (s : State) (f : NandSt → NandSt) : (s.modNand f).nand = f s.nand := rfl
@[simp] theorem State.modNand_store (s : State) (f : NandSt → NandSt) : (s.modNand f).store = s.store := rfl
@[simp] theorem State.modNand_nvme (s : State) (f : NandSt → NandSt) : (s.modNand f).nvme = s.nvme := rfl
@[simp] theorem State.modNand_peer (s : State) (f : NandSt → NandSt) : (s.modNand f).peer = s.peer := rfl
@[simp] theorem State.modNand_errs (s : State) (f : NandSt → NandSt) : (s.modNand f).errs = s.errs := rfl
@[simp] theorem State.modNand_ledger (s : State) (f : NandSt → NandSt) : (s.modNand f).ledger = s.ledger := rfl
@[simp] theorem State.modNand_mgmt (s : State) (f : NandSt → NandSt) : (s.modNand f).mgmt = s.mgmt := rfl
@[simp] theorem State.modNand_host (s : State) (f : NandSt → NandSt) : (s.modNand f).host = s.host := rfl
@[simp] theorem State.modNand_nextId (s : State) (f : NandSt → NandSt) : (s.modNand f).nextId = s.nextId := rfl
@[simp] theorem State.modNand_freeCtr (s : State) (f : NandSt → NandSt) : (s.modNand f).freeCtr = s.freeCtr := rfl
@[simp] theorem State.modNand_pending (s : State) (f : NandSt → NandSt) : (s.modNand f).pending = s.pending := rfl

/-! ### modStore -/

@[simp] theorem State.modStore_variant (s : State) (f : StoreSt → StoreSt) : (s.modStore f).variant = s.variant := rfl
@[simp] theorem State.modStore_power (s : State) (f : StoreSt → StoreSt) : (s.modStore f).power = s.power := rfl
@[simp] theorem State.modStore_time (s : State) (f : StoreSt → StoreSt) : (s.modStore f).time = s.time := rfl
@[simp] theorem State.modStore_ctxs (s : State) (f : StoreSt → StoreSt) : (s.modStore f).ctxs = s.ctxs := rfl
@[simp] theorem State.modStore_cmds (s : State) (f : StoreSt → StoreSt) : (s.modStore f).cmds = s.cmds := rfl
@[simp] theorem State.modStore_objs (s : State) (f : StoreSt → StoreSt) : (s.modStore f).objs = s.objs := rfl
@[simp] theorem State.modStore_arrays (s : State) (f : StoreSt → StoreSt) : (s.modStore f).arrays = s.arrays := rfl
@[simp] theorem State.modStore_parts (s : State) (f : StoreSt → StoreSt) : (s.modStore f).parts = s.parts := rfl
@[simp] theorem State.modStore_tests (s : State) (f : StoreSt → StoreSt) : (s.modStore f).tests = s.tests := rfl
@[simp] theorem State.modStore_verdicts (s : State) (f : StoreSt → StoreSt) : (s.modStore f).verdicts = s.verdicts := rfl
@[simp] theorem State.modStore_verdictCtrs (s : State) (f : StoreSt → StoreSt) : (s.modStore f).verdictCtrs = s.verdictCtrs := rfl
@[simp] theorem State.modStore_nand (s : State) (f : StoreSt → StoreSt) : (s.modStore f).nand = s.nand := rfl
@[simp] theorem State.modStore_store (s : State) (f : StoreSt → StoreSt) : (s.modStore f).store = f s.store := rfl
@[simp] theorem State.modStore_nvme (s : State) (f : StoreSt → StoreSt) : (s.modStore f).nvme = s.nvme := rfl
@[simp] theorem State.modStore_peer (s : State) (f : StoreSt → StoreSt) : (s.modStore f).peer = s.peer := rfl
@[simp] theorem State.modStore_errs (s : State) (f : StoreSt → StoreSt) : (s.modStore f).errs = s.errs := rfl
@[simp] theorem State.modStore_ledger (s : State) (f : StoreSt → StoreSt) : (s.modStore f).ledger = s.ledger := rfl
@[simp] theorem State.modStore_mgmt (s : State) (f : StoreSt → StoreSt) : (s.modStore f).mgmt = s.mgmt := rfl
@[simp] theorem State.modStore_host (s : State) (f : StoreSt → StoreSt) : (s.modStore f).host = s.host := rfl
@[simp] theorem State.modStore_nextId (s : State) (f : StoreSt → StoreSt) : (s.modStore f).nextId = s.nextId := rfl
@[simp] theorem State.modStore_freeCtr (s : State) (f : StoreSt → StoreSt) : (s.modStore f).freeCtr = s.freeCtr := rfl
@[simp] theorem State.modStore_pending (s : State) (f : StoreSt → StoreSt) : (s.modStore f).pending = s.pending := rfl

/-! ### modNvme -/

@[simp] theorem State.modNvme_variant (s : State) (f : NvmeSt → NvmeSt) : (s.modNvme f).variant = s.variant := rfl
@[simp] theorem State.modNvme_power (s : State) (f : NvmeSt → NvmeSt) : (s.modNvme f).power = s.power := rfl
@[simp] theorem State.modNvme_time (s : State) (f : NvmeSt → NvmeSt) : (s.modNvme f).time = s.time := rfl
@[simp] theorem State.modNvme_ctxs (s : State) (f : NvmeSt → NvmeSt) : (s.modNvme f).ctxs = s.ctxs := rfl
@[simp] theorem State.modNvme_cmds (s : State) (f : NvmeSt → NvmeSt) : (s.modNvme f).cmds = s.cmds := rfl
@[simp] theorem State.modNvme_objs (s : State) (f : NvmeSt → NvmeSt) : (s.modNvme f).objs = s.objs := rfl
@[simp] theorem State.modNvme_arrays (s : State) (f : NvmeSt → NvmeSt) : (s.modNvme f).arrays = s.arrays := rfl
@[simp] theorem State.modNvme_parts (s : State) (f : NvmeSt → NvmeSt) : (s.modNvme f).parts = s.parts := rfl
@[simp] theorem State.modNvme_tests (s : State) (f : NvmeSt → NvmeSt) : (s.modNvme f).tests = s.tests := rfl
@[simp] theorem State.modNvme_verdicts (s : State) (f : NvmeSt → NvmeSt) : (s.modNvme f).verdicts = s.verdicts := rfl
@[simp] theorem State.modNvme_verdictCtrs (s : State) (f : NvmeSt → NvmeSt) : (s.modNvme f).verdictCtrs = s.verdictCtrs := rfl
@[simp] theorem State.modNvme_nand (s : State) (f : NvmeSt → NvmeSt) : (s.modNvme f).nand = s.nand := rfl
@[simp] theorem State.modNvme_store (s : State) (f : NvmeSt → NvmeSt) : (s.modNvme f).store = s.store := rfl
@[simp] theorem State.modNvme_nvme (s : State) (f : NvmeSt → NvmeSt) : (s.modNvme f).nvme = f s.nvme := rfl
@[simp] theorem State.modNvme_peer (s : State) (f : NvmeSt → NvmeSt) : (s.modNvme f).peer = s.peer := rfl
@[simp] theorem State.modNvme_errs (s : State) (f : NvmeSt → NvmeSt) : (s.modNvme f).errs = s.errs := rfl
@[simp] theorem State.modNvme_ledger (s : State) (f : NvmeSt → NvmeSt) : (s.modNvme f).ledger = s.ledger := rfl
@[simp] theorem State.modNvme_mgmt (s : State) (f : NvmeSt → NvmeSt) : (s.modNvme f).mgmt = s.mgmt := rfl
@[simp] theorem State.modNvme_host (s : State) (f : NvmeSt → NvmeSt) : (s.modNvme f).host = s.host := rfl
@[simp] theorem State.modNvme_nextId (s : State) (f : NvmeSt → NvmeSt) : (s.modNvme f).nextId = s.nextId := rfl
@[simp] theorem State.modNvme_freeCtr (s : State) (f : NvmeSt → NvmeSt) : (s.modNvme f).freeCtr = s.freeCtr := rfl
@[simp] theorem State.modNvme_pending (s : State) (f : NvmeSt → NvmeSt) : (s.modNvme f).pending = s.pending := rfl

/-! ### modPeer -/

@[simp] theorem State.modPeer_variant (s : State) (f : PeerSt → PeerSt) : (s.modPeer f).variant = s.variant := rfl
@[simp] theorem State.modPeer_power (s : State) (f : PeerSt → PeerSt) : (s.modPeer f).power = s.power := rfl
@[simp] theorem State.modPeer_time (s : State) (f : PeerSt → PeerSt) : (s.modPeer f).time = s.time := rfl
@[simp] theorem State.modPeer_ctxs (s : State) (f : PeerSt → PeerSt) : (s.modPeer f).ctxs = s.ctxs := rfl
@[simp] theorem State.modPeer_cmds (s : State) (f : PeerSt → PeerSt) : (s.modPeer f).cmds = s.cmds := rfl
@[simp] theorem State.modPeer_objs (s : State) (f : PeerSt → PeerSt) : (s.modPeer f).objs = s.objs := rfl
@[simp] theorem State.modPeer_arrays (s : State) (f : PeerSt → PeerSt) : (s.modPeer f).arrays = s.arrays := rfl
@[simp] theorem State.modPeer_parts (s : State) (f : PeerSt → PeerSt) : (s.modPeer f).parts = s.parts := rfl
@[simp] theorem State.modPeer_tests (s : State) (f : PeerSt → PeerSt) : (s.modPeer f).tests = s.tests := rfl
@[simp] theorem State.modPeer_verdicts (s : State) (f : PeerSt → PeerSt) : (s.modPeer f).verdicts = s.verdicts := rfl
@[simp] theorem State.modPeer_verdictCtrs (s : State) (f : PeerSt → PeerSt) : (s.modPeer f).verdictCtrs = s.verdictCtrs := rfl
@[simp] theorem State.modPeer_nand (s : State) (f : PeerSt → PeerSt) : (s.modPeer f).nand = s.nand := rfl
@[simp] theorem State.modPeer_store (s : State) (f : PeerSt → PeerSt) : (s.modPeer f).store = s.store := rfl
@[simp] theorem State.modPeer_nvme (s : State) (f : PeerSt → PeerSt) : (s.modPeer f).nvme = s.nvme := rfl
@[simp] theorem State.modPeer_peer (s : State) (f : PeerSt → PeerSt) : (s.modPeer f).peer = f s.peer := rfl
@[simp] theorem State.modPeer_errs (s : State) (f : PeerSt → PeerSt) : (s.modPeer f).errs = s.errs := rfl
@[simp] theorem State.modPeer_ledger (s : State) (f : PeerSt → PeerSt) : (s.modPeer f).ledger = s.ledger := rfl
@[simp] theorem State.modPeer_mgmt (s : State) (f : PeerSt → PeerSt) : (s.modPeer f).mgmt = s.mgmt := rfl
@[simp] theorem State.modPeer_host (s : State) (f : PeerSt → PeerSt) : (s.modPeer f).host = s.host := rfl
@[simp] theorem State.modPeer_nextId (s : State) (f : PeerSt → PeerSt) : (s.modPeer f).nextId = s.nextId := rfl
@[simp] theorem State.modPeer_freeCtr (s : State) (f : PeerSt → PeerSt) : (s.modPeer f).freeCtr = s.freeCtr := rfl
@[simp] theorem State.modPeer_pending (s : State) (f : PeerSt → PeerSt) : (s.modPeer f).pending = s.pending := rfl

/-! ### modErrs -/

@[simp] theorem State.modErrs_variant (s : State) (f : ErrSt → ErrSt) : (s.modErrs f).variant = s.variant := rfl
@[simp] theorem State.modErrs_power (s : State) (f : ErrSt → ErrSt) : (s.modErrs f).power = s.power := rfl
@[simp] theorem State.modErrs_time (s : State) (f : ErrSt → ErrSt) : (s.modErrs f).time = s.time := rfl
@[simp] theorem State.modErrs_ctxs (s : State) (f : ErrSt → ErrSt) : (s.modErrs f).ctxs = s.ctxs := rfl
@[simp] theorem State.modErrs_cmds (s : State) (f : ErrSt → ErrSt) : (s.modErrs f).cmds = s.cmds := rfl
@[simp] theorem State.modErrs_objs (s : State) (f : ErrSt → ErrSt) : (s.modErrs f).objs = s.objs := rfl
@[simp] theorem State.modErrs_arrays (s : State) (f : ErrSt → ErrSt) : (s.modErrs f).arrays = s.arrays := rfl
@[simp] theorem State.modErrs_parts (s : State) (f : ErrSt → ErrSt) : (s.modErrs f).parts = s.parts := rfl
@[simp] theorem State.modErrs_tests (s : State) (f : ErrSt → ErrSt) : (s.modErrs f).tests = s.tests := rfl
@[simp] theorem State.modErrs_verdicts (s : State) (f : ErrSt → ErrSt) : (s.modErrs f).verdicts = s.verdicts := rfl
@[simp] theorem State.modErrs_verdictCtrs (s : State) (f : ErrSt → ErrSt) : (s.modErrs f).verdictCtrs = s.verdictCtrs := rfl
@[simp] theorem State.modErrs_nand (s : State) (f : ErrSt → ErrSt) : (s.modErrs f).nand = s.nand := rfl
@[simp] theorem State.modErrs_store (s : State) (f : ErrSt → ErrSt) : (s.modErrs f).store = s.store := rfl
@[simp] theorem State.modErrs_nvme (s : State) (f : ErrSt → ErrSt) : (s.modErrs f).nvme = s.nvme := rfl
@[simp] theorem State.modErrs_peer (s : State) (f : ErrSt → ErrSt) : (s.modErrs f).peer = s.peer := rfl
@[simp] theorem State.modErrs_errs (s : State) (f : ErrSt → ErrSt) : (s.modErrs f).errs = f s.errs := rfl
@[simp] theorem State.modErrs_ledger (s : State) (f : ErrSt → ErrSt) : (s.modErrs f).ledger = s.ledger := rfl
@[simp] theorem State.modErrs_mgmt (s : State) (f : ErrSt → ErrSt) : (s.modErrs f).mgmt = s.mgmt := rfl
@[simp] theorem State.modErrs_host (s : State) (f : ErrSt → ErrSt) : (s.modErrs f).host = s.host := rfl
@[simp] theorem State.modErrs_nextId (s : State) (f : ErrSt → ErrSt) : (s.modErrs f).nextId = s.nextId := rfl
@[simp] theorem State.modErrs_freeCtr (s : State) (f : ErrSt → ErrSt) : (s.modErrs f).freeCtr = s.freeCtr := rfl
@[simp] theorem State.modErrs_pending (s : State) (f : ErrSt → ErrSt) : (s.modErrs f).pending = s.pending := rfl

/-! ### modLedger -/

@[simp] theorem State.modLedger_variant (s : State) (f : LedgerSt → LedgerSt) : (s.modLedger f).variant = s.variant := rfl
@[simp] theorem State.modLedger_power (s : State) (f : LedgerSt → LedgerSt) : (s.modLedger f).power = s.power := rfl
@[simp] theorem State.modLedger_time (s : State) (f : LedgerSt → LedgerSt) : (s.modLedger f).time = s.time := rfl
@[simp] theorem State.modLedger_ctxs (s : State) (f : LedgerSt → LedgerSt) : (s.modLedger f).ctxs = s.ctxs := rfl
@[simp] theorem State.modLedger_cmds (s : State) (f : LedgerSt → LedgerSt) : (s.modLedger f).cmds = s.cmds := rfl
@[simp] theorem State.modLedger_objs (s : State) (f : LedgerSt → LedgerSt) : (s.modLedger f).objs = s.objs := rfl
@[simp] theorem State.modLedger_arrays (s : State) (f : LedgerSt → LedgerSt) : (s.modLedger f).arrays = s.arrays := rfl
@[simp] theorem State.modLedger_parts (s : State) (f : LedgerSt → LedgerSt) : (s.modLedger f).parts = s.parts := rfl
@[simp] theorem State.modLedger_tests (s : State) (f : LedgerSt → LedgerSt) : (s.modLedger f).tests = s.tests := rfl
@[simp] theorem State.modLedger_verdicts (s : State) (f : LedgerSt → LedgerSt) : (s.modLedger f).verdicts = s.verdicts := rfl
@[simp] theorem State.modLedger_verdictCtrs (s : State) (f : LedgerSt → LedgerSt) : (s.modLedger f).verdictCtrs = s.verdictCtrs := rfl
@[simp] theorem State.modLedger_nand (s : State) (f : LedgerSt → LedgerSt) : (s.modLedger f).nand = s.nand := rfl
@[simp] theorem State.modLedger_store (s : State) (f : LedgerSt → LedgerSt) : (s.modLedger f).store = s.store := rfl
@[simp] theorem State.modLedger_nvme (s : State) (f : LedgerSt → LedgerSt) : (s.modLedger f).nvme = s.nvme := rfl
@[simp] theorem State.modLedger_peer (s : State) (f : LedgerSt → LedgerSt) : (s.modLedger f).peer = s.peer := rfl
@[simp] theorem State.modLedger_errs (s : State) (f : LedgerSt → LedgerSt) : (s.modLedger f).errs = s.errs := rfl
@[simp] theorem State.modLedger_ledger (s : State) (f : LedgerSt → LedgerSt) : (s.modLedger f).ledger = f s.ledger := rfl
@[simp] theorem State.modLedger_mgmt (s : State) (f : LedgerSt → LedgerSt) : (s.modLedger f).mgmt = s.mgmt := rfl
@[simp] theorem State.modLedger_host (s : State) (f : LedgerSt → LedgerSt) : (s.modLedger f).host = s.host := rfl
@[simp] theorem State.modLedger_nextId (s : State) (f : LedgerSt → LedgerSt) : (s.modLedger f).nextId = s.nextId := rfl
@[simp] theorem State.modLedger_freeCtr (s : State) (f : LedgerSt → LedgerSt) : (s.modLedger f).freeCtr = s.freeCtr := rfl
@[simp] theorem State.modLedger_pending (s : State) (f : LedgerSt → LedgerSt) : (s.modLedger f).pending = s.pending := rfl

/-! ### modMgmt -/

@[simp] theorem State.modMgmt_variant (s : State) (f : MgmtSt → MgmtSt) : (s.modMgmt f).variant = s.variant := rfl
@[simp] theorem State.modMgmt_power (s : State) (f : MgmtSt → MgmtSt) : (s.modMgmt f).power = s.power := rfl
@[simp] theorem State.modMgmt_time (s : State) (f : MgmtSt → MgmtSt) : (s.modMgmt f).time = s.time := rfl
@[simp] theorem State.modMgmt_ctxs (s : State) (f : MgmtSt → MgmtSt) : (s.modMgmt f).ctxs = s.ctxs := rfl
@[simp] theorem State.modMgmt_cmds (s : State) (f : MgmtSt → MgmtSt) : (s.modMgmt f).cmds = s.cmds := rfl
@[simp] theorem State.modMgmt_objs (s : State) (f : MgmtSt → MgmtSt) : (s.modMgmt f).objs = s.objs := rfl
@[simp] theorem State.modMgmt_arrays (s : State) (f : MgmtSt → MgmtSt) : (s.modMgmt f).arrays = s.arrays := rfl
@[simp] theorem State.modMgmt_parts (s : State) (f : MgmtSt → MgmtSt) : (s.modMgmt f).parts = s.parts := rfl
@[simp] theorem State.modMgmt_tests (s : State) (f : MgmtSt → MgmtSt) : (s.modMgmt f).tests = s.tests := rfl
@[simp] theorem State.modMgmt_verdicts (s : State) (f : MgmtSt → MgmtSt) : (s.modMgmt f).verdicts = s.verdicts := rfl
@[simp] theorem State.modMgmt_verdictCtrs (s : State) (f : MgmtSt → MgmtSt) : (s.modMgmt f).verdictCtrs = s.verdictCtrs := rfl
@[simp] theorem State.modMgmt_nand (s : State) (f : MgmtSt → MgmtSt) : (s.modMgmt f).nand = s.nand := rfl
@[simp] theorem State.modMgmt_store (s : State) (f : MgmtSt → MgmtSt) : (s.modMgmt f).store = s.store := rfl
@[simp] theorem State.modMgmt_nvme (s : State) (f : MgmtSt → MgmtSt) : (s.modMgmt f).nvme = s.nvme := rfl
@[simp] theorem State.modMgmt_peer (s : State) (f : MgmtSt → MgmtSt) : (s.modMgmt f).peer = s.peer := rfl
@[simp] theorem State.modMgmt_errs (s : State) (f : MgmtSt → MgmtSt) : (s.modMgmt f).errs = s.errs := rfl
@[simp] theorem State.modMgmt_ledger (s : State) (f : MgmtSt → MgmtSt) : (s.modMgmt f).ledger = s.ledger := rfl
@[simp] theorem State.modMgmt_mgmt (s : State) (f : MgmtSt → MgmtSt) : (s.modMgmt f).mgmt = f s.mgmt := rfl
@[simp] theorem State.modMgmt_host (s : State) (f : MgmtSt → MgmtSt) : (s.modMgmt f).host = s.host := rfl
@[simp] theorem State.modMgmt_nextId (s : State) (f : MgmtSt → MgmtSt) : (s.modMgmt f).nextId = s.nextId := rfl
@[simp] theorem State.modMgmt_freeCtr (s : State) (f : MgmtSt → MgmtSt) : (s.modMgmt f).freeCtr = s.freeCtr := rfl
@[simp] theorem State.modMgmt_pending (s : State) (f : MgmtSt → MgmtSt) : (s.modMgmt f).pending = s.pending := rfl

/-! ### modCtxs -/

@[simp] theorem State.modCtxs_variant (s : State) (f : Table Context → Table Context) : (s.modCtxs f).variant = s.variant := rfl
@[simp] theorem State.modCtxs_power (s : State) (f : Table Context → Table Context) : (s.modCtxs f).power = s.power := rfl
@[simp] theorem State.modCtxs_time (s : State) (f : Table Context → Table Context) : (s.modCtxs f).time = s.time := rfl
@[simp] theorem State.modCtxs_ctxs (s : State) (f : Table Context → Table Context) : (s.modCtxs f).ctxs = f s.ctxs := rfl
@[simp] theorem State.modCtxs_cmds (s : State) (f : Table Context → Table Context) : (s.modCtxs f).cmds = s.cmds := rfl
@[simp] theorem State.modCtxs_objs (s : State) (f : Table Context → Table Context) : (s.modCtxs f).objs = s.objs := rfl
@[simp] theorem State.modCtxs_arrays (s : State) (f : Table Context → Table Context) : (s.modCtxs f).arrays = s.arrays := rfl
@[simp] theorem State.modCtxs_parts (s : State) (f : Table Context → Table Context) : (s.modCtxs f).parts = s.parts := rfl
@[simp] theorem State.modCtxs_tests (s : State) (f : Table Context → Table Context) : (s.modCtxs f).tests = s.tests := rfl
@[simp] theorem State.modCtxs_verdicts (s : State) (f : Table Context → Table Context) : (s.modCtxs f).verdicts = s.verdicts := rfl
@[simp] theorem State.modCtxs_verdictCtrs (s : State) (f : Table Context → Table Context) : (s.modCtxs f).verdictCtrs = s.verdictCtrs := rfl
@[simp] theorem State.modCtxs_nand (s : State) (f : Table Context → Table Context) : (s.modCtxs f).nand = s.nand := rfl
@[simp] theorem State.modCtxs_store (s : State) (f : Table Context → Table Context) : (s.modCtxs f).store = s.store := rfl
@[simp] theorem State.modCtxs_nvme (s : State) (f : Table Context → Table Context) : (s.modCtxs f).nvme = s.nvme := rfl
@[simp] theorem State.modCtxs_peer (s : State) (f : Table Context → Table Context) : (s.modCtxs f).peer = s.peer := rfl
@[simp] theorem State.modCtxs_errs (s : State) (f : Table Context → Table Context) : (s.modCtxs f).errs = s.errs := rfl
@[simp] theorem State.modCtxs_ledger (s : State) (f : Table Context → Table Context) : (s.modCtxs f).ledger = s.ledger := rfl
@[simp] theorem State.modCtxs_mgmt (s : State) (f : Table Context → Table Context) : (s.modCtxs f).mgmt = s.mgmt := rfl
@[simp] theorem State.modCtxs_host (s : State) (f : Table Context → Table Context) : (s.modCtxs f).host = s.host := rfl
@[simp] theorem State.modCtxs_nextId (s : State) (f : Table Context → Table Context) : (s.modCtxs f).nextId = s.nextId := rfl
@[simp] theorem State.modCtxs_freeCtr (s : State) (f : Table Context → Table Context) : (s.modCtxs f).freeCtr = s.freeCtr := rfl
@[simp] theorem State.modCtxs_pending (s : State) (f : Table Context → Table Context) : (s.modCtxs f).pending = s.pending := rfl

/-! ### modCmds -/

@[simp] theorem State.modCmds_variant (s : State) (f : List Cmd → List Cmd) : (s.modCmds f).variant = s.variant := rfl
@[simp] theorem State.modCmds_power (s : State) (f : List Cmd → List Cmd) : (s.modCmds f).power = s.power := rfl
@[simp] theorem State.modCmds_time (s : State) (f : List Cmd → List Cmd) : (s.modCmds f).time = s.time := rfl
@[simp] theorem State.modCmds_ctxs (s : State) (f : List Cmd → List Cmd) : (s.modCmds f).ctxs = s.ctxs := rfl
@[simp] theorem State.modCmds_cmds (s : State) (f : List Cmd → List Cmd) : (s.modCmds f).cmds = f s.cmds := rfl
@[simp] theorem State.modCmds_objs (s : State) (f : List Cmd → List Cmd) : (s.modCmds f).objs = s.objs := rfl
@[simp] theorem State.modCmds_arrays (s : State) (f : List Cmd → List Cmd) : (s.modCmds f).arrays = s.arrays := rfl
@[simp] theorem State.modCmds_parts (s : State) (f : List Cmd → List Cmd) : (s.modCmds f).parts = s.parts := rfl
@[simp] theorem State.modCmds_tests (s : State) (f : List Cmd → List Cmd) : (s.modCmds f).tests = s.tests := rfl
@[simp] theorem State.modCmds_verdicts (s : State) (f : List Cmd → List Cmd) : (s.modCmds f).verdicts = s.verdicts := rfl
@[simp] theorem State.modCmds_verdictCtrs (s : State) (f : List Cmd → List Cmd) : (s.modCmds f).verdictCtrs = s.verdictCtrs := rfl
@[simp] theorem State.modCmds_nand (s : State) (f : List Cmd → List Cmd) : (s.modCmds f).nand = s.nand := rfl
@[simp] theorem State.modCmds_store (s : State) (f : List Cmd → List Cmd) : (s.modCmds f).store = s.store := rfl
@[simp] theorem State.modCmds_nvme (s : State) (f : List Cmd → List Cmd) : (s.modCmds f).nvme = s.nvme := rfl
@[simp] theorem State.modCmds_peer (s : State) (f : List Cmd → List Cmd) : (s.modCmds f).peer = s.peer := rfl
@[simp] theorem State.modCmds_errs (s : State) (f : List Cmd → List Cmd) : (s.modCmds f).errs = s.errs := rfl
@[simp] theorem State.modCmds_ledger (s : State) (f : List Cmd → List Cmd) : (s.modCmds f).ledger = s.ledger := rfl
@[simp] theorem State.modCmds_mgmt (s : State) (f : List Cmd → List Cmd) : (s.modCmds f).mgmt = s.mgmt := rfl
@[simp] theorem State.modCmds_host (s : State) (f : List Cmd → List Cmd) : (s.modCmds f).host = s.host := rfl
@[simp] theorem State.modCmds_nextId (s : State) (f : List Cmd → List Cmd) : (s.modCmds f).nextId = s.nextId := rfl
@[simp] theorem State.modCmds_freeCtr (s : State) (f : List Cmd → List Cmd) : (s.modCmds f).freeCtr = s.freeCtr := rfl
@[simp] theorem State.modCmds_pending (s : State) (f : List Cmd → List Cmd) : (s.modCmds f).pending = s.pending := rfl

/-! ### modObjs -/

@[simp] theorem State.modObjs_variant (s : State) (f : Table ObjectSt → Table ObjectSt) : (s.modObjs f).variant = s.variant := rfl
@[simp] theorem State.modObjs_power (s : State) (f : Table ObjectSt → Table ObjectSt) : (s.modObjs f).power = s.power := rfl
@[simp] theorem State.modObjs_time (s : State) (f : Table ObjectSt → Table ObjectSt) : (s.modObjs f).time = s.time := rfl
@[simp] theorem State.modObjs_ctxs (s : State) (f : Table ObjectSt → Table ObjectSt) : (s.modObjs f).ctxs = s.ctxs := rfl
@[simp] theorem State.modObjs_cmds (s : State) (f : Table ObjectSt → Table ObjectSt) : (s.modObjs f).cmds = s.cmds := rfl
@[simp] theorem State.modObjs_objs (s : State) (f : Table ObjectSt → Table ObjectSt) : (s.modObjs f).objs = f s.objs := rfl
@[simp] theorem State.modObjs_arrays (s : State) (f : Table ObjectSt → Table ObjectSt) : (s.modObjs f).arrays = s.arrays := rfl
@[simp] theorem State.modObjs_parts (s : State) (f : Table ObjectSt → Table ObjectSt) : (s.modObjs f).parts = s.parts := rfl
@[simp] theorem State.modObjs_tests (s : State) (f : Table ObjectSt → Table ObjectSt) : (s.modObjs f).tests = s.tests := rfl
@[simp] theorem State.modObjs_verdicts (s : State) (f : Table ObjectSt → Table ObjectSt) : (s.modObjs f).verdicts = s.verdicts := rfl
@[simp] theorem State.modObjs_verdictCtrs (s : State) (f : Table ObjectSt → Table ObjectSt) : (s.modObjs f).verdictCtrs = s.verdictCtrs := rfl
@[simp] theorem State.modObjs_nand (s : State) (f : Table ObjectSt → Table ObjectSt) : (s.modObjs f).nand = s.nand := rfl
@[simp] theorem State.modObjs_store (s : State) (f : Table ObjectSt → Table ObjectSt) : (s.modObjs f).store = s.store := rfl
@[simp] theorem State.modObjs_nvme (s : State) (f : Table ObjectSt → Table ObjectSt) : (s.modObjs f).nvme = s.nvme := rfl
@[simp] theorem State.modObjs_peer (s : State) (f : Table ObjectSt → Table ObjectSt) : (s.modObjs f).peer = s.peer := rfl
@[simp] theorem State.modObjs_errs (s : State) (f : Table ObjectSt → Table ObjectSt) : (s.modObjs f).errs = s.errs := rfl
@[simp] theorem State.modObjs_ledger (s : State) (f : Table ObjectSt → Table ObjectSt) : (s.modObjs f).ledger = s.ledger := rfl
@[simp] theorem State.modObjs_mgmt (s : State) (f : Table ObjectSt → Table ObjectSt) : (s.modObjs f).mgmt = s.mgmt := rfl
@[simp] theorem State.modObjs_host (s : State) (f : Table ObjectSt → Table ObjectSt) : (s.modObjs f).host = s.host := rfl
@[simp] theorem State.modObjs_nextId (s : State) (f : Table ObjectSt → Table ObjectSt) : (s.modObjs f).nextId = s.nextId := rfl
@[simp] theorem State.modObjs_freeCtr (s : State) (f : Table ObjectSt → Table ObjectSt) : (s.modObjs f).freeCtr = s.freeCtr := rfl
@[simp] theorem State.modObjs_pending (s : State) (f : Table ObjectSt → Table ObjectSt) : (s.modObjs f).pending = s.pending := rfl

/-! ### modArrays -/

@[simp] theorem State.modArrays_variant (s : State) (f : Table ArraySt → Table ArraySt) : (s.modArrays f).variant = s.variant := rfl
@[simp] theorem State.modArrays_power (s : State) (f : Table ArraySt → Table ArraySt) : (s.modArrays f).power = s.power := rfl
@[simp] theorem State.modArrays_time (s : State) (f : Table ArraySt → Table ArraySt) : (s.modArrays f).time = s.time := rfl
@[simp] theorem State.modArrays_ctxs (s : State) (f : Table ArraySt → Table ArraySt) : (s.modArrays f).ctxs = s.ctxs := rfl
@[simp] theorem State.modArrays_cmds (s : State) (f : Table ArraySt → Table ArraySt) : (s.modArrays f).cmds = s.cmds := rfl
@[simp] theorem State.modArrays_objs (s : State) (f : Table ArraySt → Table ArraySt) : (s.modArrays f).objs = s.objs := rfl
@[simp] theorem State.modArrays_arrays (s : State) (f : Table ArraySt → Table ArraySt) : (s.modArrays f).arrays = f s.arrays := rfl
@[simp] theorem State.modArrays_parts (s : State) (f : Table ArraySt → Table ArraySt) : (s.modArrays f).parts = s.parts := rfl
@[simp] theorem State.modArrays_tests (s : State) (f : Table ArraySt → Table ArraySt) : (s.modArrays f).tests = s.tests := rfl
@[simp] theorem State.modArrays_verdicts (s : State) (f : Table ArraySt → Table ArraySt) : (s.modArrays f).verdicts = s.verdicts := rfl
@[simp] theorem State.modArrays_verdictCtrs (s : State) (f : Table ArraySt → Table ArraySt) : (s.modArrays f).verdictCtrs = s.verdictCtrs := rfl
@[simp] theorem State.modArrays_nand (s : State) (f : Table ArraySt → Table ArraySt) : (s.modArrays f).nand = s.nand := rfl
@[simp] theorem State.modArrays_store (s : State) (f : Table ArraySt → Table ArraySt) : (s.modArrays f).store = s.store := rfl
@[simp] theorem State.modArrays_nvme (s : State) (f : Table ArraySt → Table ArraySt) : (s.modArrays f).nvme = s.nvme := rfl
@[simp] theorem State.modArrays_peer (s : State) (f : Table ArraySt → Table ArraySt) : (s.modArrays f).peer = s.peer := rfl
@[simp] theorem State.modArrays_errs (s : State) (f : Table ArraySt → Table ArraySt) : (s.modArrays f).errs = s.errs := rfl
@[simp] theorem State.modArrays_ledger (s : State) (f : Table ArraySt → Table ArraySt) : (s.modArrays f).ledger = s.ledger := rfl
@[simp] theorem State.modArrays_mgmt (s : State) (f : Table ArraySt → Table ArraySt) : (s.modArrays f).mgmt = s.mgmt := rfl
@[simp] theorem State.modArrays_host (s : State) (f : Table ArraySt → Table ArraySt) : (s.modArrays f).host = s.host := rfl
@[simp] theorem State.modArrays_nextId (s : State) (f : Table ArraySt → Table ArraySt) : (s.modArrays f).nextId = s.nextId := rfl
@[simp] theorem State.modArrays_freeCtr (s : State) (f : Table ArraySt → Table ArraySt) : (s.modArrays f).freeCtr = s.freeCtr := rfl
@[simp] theorem State.modArrays_pending (s : State) (f : Table ArraySt → Table ArraySt) : (s.modArrays f).pending = s.pending := rfl

/-! ### modParts -/

@[simp] theorem State.modParts_variant (s : State) (f : Table PartSt → Table PartSt) : (s.modParts f).variant = s.variant := rfl
@[simp] theorem State.modParts_power (s : State) (f : Table PartSt → Table PartSt) : (s.modParts f).power = s.power := rfl
@[simp] theorem State.modParts_time (s : State) (f : Table PartSt → Table PartSt) : (s.modParts f).time = s.time := rfl
@[simp] theorem State.modParts_ctxs (s : State) (f : Table PartSt → Table PartSt) : (s.modParts f).ctxs = s.ctxs := rfl
@[simp] theorem State.modParts_cmds (s : State) (f : Table PartSt → Table PartSt) : (s.modParts f).cmds = s.cmds := rfl
@[simp] theorem State.modParts_objs (s : State) (f : Table PartSt → Table PartSt) : (s.modParts f).objs = s.objs := rfl
@[simp] theorem State.modParts_arrays (s : State) (f : Table PartSt → Table PartSt) : (s.modParts f).arrays = s.arrays := rfl
@[simp] theorem State.modParts_parts (s : State) (f : Table PartSt → Table PartSt) : (s.modParts f).parts = f s.parts := rfl
@[simp] theorem State.modParts_tests (s : State) (f : Table PartSt → Table PartSt) : (s.modParts f).tests = s.tests := rfl
@[simp] theorem State.modParts_verdicts (s : State) (f : Table PartSt → Table PartSt) : (s.modParts f).verdicts = s.verdicts := rfl
@[simp] theorem State.modParts_verdictCtrs (s : State) (f : Table PartSt → Table PartSt) : (s.modParts f).verdictCtrs = s.verdictCtrs := rfl
@[simp] theorem State.modParts_nand (s : State) (f : Table PartSt → Table PartSt) : (s.modParts f).nand = s.nand := rfl
@[simp] theorem State.modParts_store (s : State) (f : Table PartSt → Table PartSt) : (s.modParts f).store = s.store := rfl
@[simp] theorem State.modParts_nvme (s : State) (f : Table PartSt → Table PartSt) : (s.modParts f).nvme = s.nvme := rfl
@[simp] theorem State.modParts_peer (s : State) (f : Table PartSt → Table PartSt) : (s.modParts f).peer = s.peer := rfl
@[simp] theorem State.modParts_errs (s : State) (f : Table PartSt → Table PartSt) : (s.modParts f).errs = s.errs := rfl
@[simp] theorem State.modParts_ledger (s : State) (f : Table PartSt → Table PartSt) : (s.modParts f).ledger = s.ledger := rfl
@[simp] theorem State.modParts_mgmt (s : State) (f : Table PartSt → Table PartSt) : (s.modParts f).mgmt = s.mgmt := rfl
@[simp] theorem State.modParts_host (s : State) (f : Table PartSt → Table PartSt) : (s.modParts f).host = s.host := rfl
@[simp] theorem State.modParts_nextId (s : State) (f : Table PartSt → Table PartSt) : (s.modParts f).nextId = s.nextId := rfl
@[simp] theorem State.modParts_freeCtr (s : State) (f : Table PartSt → Table PartSt) : (s.modParts f).freeCtr = s.freeCtr := rfl
@[simp] theorem State.modParts_pending (s : State) (f : Table PartSt → Table PartSt) : (s.modParts f).pending = s.pending := rfl

/-! ### modTests -/

@[simp] theorem State.modTests_variant (s : State) (f : List TestSt → List TestSt) : (s.modTests f).variant = s.variant := rfl
@[simp] theorem State.modTests_power (s : State) (f : List TestSt → List TestSt) : (s.modTests f).power = s.power := rfl
@[simp] theorem State.modTests_time (s : State) (f : List TestSt → List TestSt) : (s.modTests f).time = s.time := rfl
@[simp] theorem State.modTests_ctxs (s : State) (f : List TestSt → List TestSt) : (s.modTests f).ctxs = s.ctxs := rfl
@[simp] theorem State.modTests_cmds (s : State) (f : List TestSt → List TestSt) : (s.modTests f).cmds = s.cmds := rfl
@[simp] theorem State.modTests_objs (s : State) (f : List TestSt → List TestSt) : (s.modTests f).objs = s.objs := rfl
@[simp] theorem State.modTests_arrays (s : State) (f : List TestSt → List TestSt) : (s.modTests f).arrays = s.arrays := rfl
@[simp] theorem State.modTests_parts (s : State) (f : List TestSt → List TestSt) : (s.modTests f).parts = s.parts := rfl
@[simp] theorem State.modTests_tests (s : State) (f : List TestSt → List TestSt) : (s.modTests f).tests = f s.tests := rfl
@[simp] theorem State.modTests_verdicts (s : State) (f : List TestSt → List TestSt) : (s.modTests f).verdicts = s.verdicts := rfl
@[simp] theorem State.modTests_verdictCtrs (s : State) (f : List TestSt → List TestSt) : (s.modTests f).verdictCtrs = s.verdictCtrs := rfl
@[simp] theorem State.modTests_nand (s : State) (f : List TestSt → List TestSt) : (s.modTests f).nand = s.nand := rfl
@[simp] theorem State.modTests_store (s : State) (f : List TestSt → List TestSt) : (s.modTests f).store = s.store := rfl
@[simp] theorem State.modTests_nvme (s : State) (f : List TestSt → List TestSt) : (s.modTests f).nvme = s.nvme := rfl
@[simp] theorem State.modTests_peer (s : State) (f : List TestSt → List TestSt) : (s.modTests f).peer = s.peer := rfl
@[simp] theorem State.modTests_errs (s : State) (f : List TestSt → List TestSt) : (s.modTests f).errs = s.errs := rfl
@[simp] theorem State.modTests_ledger (s : State) (f : List TestSt → List TestSt) : (s.modTests f).ledger = s.ledger := rfl
@[simp] theorem State.modTests_mgmt (s : State) (f : List TestSt → List TestSt) : (s.modTests f).mgmt = s.mgmt := rfl
@[simp] theorem State.modTests_host (s : State) (f : List TestSt → List TestSt) : (s.modTests f).host = s.host := rfl
@[simp] theorem State.modTests_nextId (s : State) (f : List TestSt → List TestSt) : (s.modTests f).nextId = s.nextId := rfl
@[simp] theorem State.modTests_freeCtr (s : State) (f : List TestSt → List TestSt) : (s.modTests f).freeCtr = s.freeCtr := rfl
@[simp] theorem State.modTests_pending (s : State) (f : List TestSt → List TestSt) : (s.modTests f).pending = s.pending := rfl

/-! ### setCtx -/

@[simp] theorem State.setCtx_variant (s : State) (n : Nat) (c : Context) : (s.setCtx n c).variant = s.variant := rfl
@[simp] theorem State.setCtx_power (s : State) (n : Nat) (c : Context) : (s.setCtx n c).power = s.power := rfl
@[simp] theorem State.setCtx_time (s : State) (n : Nat) (c : Context) : (s.setCtx n c).time = s.time := rfl
@[simp] theorem State.setCtx_ctxs (s : State) (n : Nat) (c : Context) : (s.setCtx n c).ctxs = tset s.ctxs n c := rfl
@[simp] theorem State.setCtx_cmds (s : State) (n : Nat) (c : Context) : (s.setCtx n c).cmds = s.cmds := rfl
@[simp] theorem State.setCtx_objs (s : State) (n : Nat) (c : Context) : (s.setCtx n c).objs = s.objs := rfl
@[simp] theorem State.setCtx_arrays (s : State) (n : Nat) (c : Context) : (s.setCtx n c).arrays = s.arrays := rfl
@[simp] theorem State.setCtx_parts (s : State) (n : Nat) (c : Context) : (s.setCtx n c).parts = s.parts := rfl
@[simp] theorem State.setCtx_tests (s : State) (n : Nat) (c : Context) : (s.setCtx n c).tests = s.tests := rfl
@[simp] theorem State.setCtx_verdicts (s : State) (n : Nat) (c : Context) : (s.setCtx n c).verdicts = s.verdicts := rfl
@[simp] theorem State.setCtx_verdictCtrs (s : State) (n : Nat) (c : Context) : (s.setCtx n c).verdictCtrs = s.verdictCtrs := rfl
@[simp] theorem State.setCtx_nand (s : State) (n : Nat) (c : Context) : (s.setCtx n c).nand = s.nand := rfl
@[simp] theorem State.setCtx_store (s : State) (n : Nat) (c : Context) : (s.setCtx n c).store = s.store := rfl
@[simp] theorem State.setCtx_nvme (s : State) (n : Nat) (c : Context) : (s.setCtx n c).nvme = s.nvme := rfl
@[simp] theorem State.setCtx_peer (s : State) (n : Nat) (c : Context) : (s.setCtx n c).peer = s.peer := rfl
@[simp] theorem State.setCtx_errs (s : State) (n : Nat) (c : Context) : (s.setCtx n c).errs = s.errs := rfl
@[simp] theorem State.setCtx_ledger (s : State) (n : Nat) (c : Context) : (s.setCtx n c).ledger = s.ledger := rfl
@[simp] theorem State.setCtx_mgmt (s : State) (n : Nat) (c : Context) : (s.setCtx n c).mgmt = s.mgmt := rfl
@[simp] theorem State.setCtx_host (s : State) (n : Nat) (c : Context) : (s.setCtx n c).host = s.host := rfl
@[simp] theorem State.setCtx_nextId (s : State) (n : Nat) (c : Context) : (s.setCtx n c).nextId = s.nextId := rfl
@[simp] theorem State.setCtx_freeCtr (s : State) (n : Nat) (c : Context) : (s.setCtx n c).freeCtr = s.freeCtr := rfl
@[simp] theorem State.setCtx_pending (s : State) (n : Nat) (c : Context) : (s.setCtx n c).pending = s.pending := rfl

/-! ### modCtx -/

@[simp] theorem State.modCtx_variant (s : State) (n : Nat) (f : Context → Context) : (s.modCtx n f).variant = s.variant := rfl
@[simp] theorem State.modCtx_power (s : State) (n : Nat) (f : Context → Context) : (s.modCtx n f).power = s.power := rfl
@[simp] theorem State.modCtx_time (s : State) (n : Nat) (f : Context → Context) : (s.modCtx n f).time = s.time := rfl
@[simp] theorem State.modCtx_ctxs (s : State) (n : Nat) (f : Context → Context) : (s.modCtx n f).ctxs = tset s.ctxs n (f (s.ctx n)) := rfl
@[simp] theorem State.modCtx_cmds (s : State) (n : Nat) (f : Context → Context) : (s.modCtx n f).cmds = s.cmds := rfl
@[simp] theorem State.modCtx_objs (s : State) (n : Nat) (f : Context → Context) : (s.modCtx n f).objs = s.objs := rfl
@[simp] theorem State.modCtx_arrays (s : State) (n : Nat) (f : Context → Context) : (s.modCtx n f).arrays = s.arrays := rfl
@[simp] theorem State.modCtx_parts (s : State) (n : Nat) (f : Context → Context) : (s.modCtx n f).parts = s.parts := rfl
@[simp] theorem State.modCtx_tests (s : State) (n : Nat) (f : Context → Context) : (s.modCtx n f).tests = s.tests := rfl
@[simp] theorem State.modCtx_verdicts (s : State) (n : Nat) (f : Context → Context) : (s.modCtx n f).verdicts = s.verdicts := rfl
@[simp] theorem State.modCtx_verdictCtrs (s : State) (n : Nat) (f : Context → Context) : (s.modCtx n f).verdictCtrs = s.verdictCtrs := rfl
@[simp] theorem State.modCtx_nand (s : State) (n : Nat) (f : Context → Context) : (s.modCtx n f).nand = s.nand := rfl
@[simp] theorem State.modCtx_store (s : State) (n : Nat) (f : Context → Context) : (s.modCtx n f).store = s.store := rfl
@[simp] theorem State.modCtx_nvme (s : State) (n : Nat) (f : Context → Context) : (s.modCtx n f).nvme = s.nvme := rfl
@[simp] theorem State.modCtx_peer (s : State) (n : Nat) (f : Context → Context) : (s.modCtx n f).peer = s.peer := rfl
@[simp] theorem State.modCtx_errs (s : State) (n : Nat) (f : Context → Context) : (s.modCtx n f).errs = s.errs := rfl
@[simp] theorem State.modCtx_ledger (s : State) (n : Nat) (f : Context → Context) : (s.modCtx n f).ledger = s.ledger := rfl
@[simp] theorem State.modCtx_mgmt (s : State) (n : Nat) (f : Context → Context) : (s.modCtx n f).mgmt = s.mgmt := rfl
@[simp] theorem State.modCtx_host (s : State) (n : Nat) (f : Context → Context) : (s.modCtx n f).host = s.host := rfl
@[simp] theorem State.modCtx_nextId (s : State) (n : Nat) (f : Context → Context) : (s.modCtx n f).nextId = s.nextId := rfl
@[simp] theorem State.modCtx_freeCtr (s : State) (n : Nat) (f : Context → Context) : (s.modCtx n f).freeCtr = s.freeCtr := rfl
@[simp] theorem State.modCtx_pending (s : State) (n : Nat) (f : Context → Context) : (s.modCtx n f).pending = s.pending := rfl

/-! ### modCmd -/

@[simp] theorem State.modCmd_variant (s : State) (n : Nat) (f : Cmd → Cmd) : (s.modCmd n f).variant = s.variant := rfl
@[simp] theorem State.modCmd_power (s : State) (n : Nat) (f : Cmd → Cmd) : (s.modCmd n f).power = s.power := rfl
@[simp] theorem State.modCmd_time (s : State) (n : Nat) (f : Cmd → Cmd) : (s.modCmd n f).time = s.time := rfl
@[simp] theorem State.modCmd_ctxs (s : State) (n : Nat) (f : Cmd → Cmd) : (s.modCmd n f).ctxs = s.ctxs := rfl
@[simp] theorem State.modCmd_cmds (s : State) (n : Nat) (f : Cmd → Cmd) : (s.modCmd n f).cmds = s.cmds.map (fun c => if c.uid = n then f c else c) := rfl
@[simp] theorem State.modCmd_objs (s : State) (n : Nat) (f : Cmd → Cmd) : (s.modCmd n f).objs = s.objs := rfl
@[simp] theorem State.modCmd_arrays (s : State) (n : Nat) (f : Cmd → Cmd) : (s.modCmd n f).arrays = s.arrays := rfl
@[simp] theorem State.modCmd_parts (s : State) (n : Nat) (f : Cmd → Cmd) : (s.modCmd n f).parts = s.parts := rfl
@[simp] theorem State.modCmd_tests (s : State) (n : Nat) (f : Cmd → Cmd) : (s.modCmd n f).tests = s.tests := rfl
@[simp] theorem State.modCmd_verdicts (s : State) (n : Nat) (f : Cmd → Cmd) : (s.modCmd n f).verdicts = s.verdicts := rfl
@[simp] theorem State.modCmd_verdictCtrs (s : State) (n : Nat) (f : Cmd → Cmd) : (s.modCmd n f).verdictCtrs = s.verdictCtrs := rfl
@[simp] theorem State.modCmd_nand (s : State) (n : Nat) (f : Cmd → Cmd) : (s.modCmd n f).nand = s.nand := rfl
@[simp] theorem State.modCmd_store (s : State) (n : Nat) (f : Cmd → Cmd) : (s.modCmd n f).store = s.store := rfl
@[simp] theorem State.modCmd_nvme (s : State) (n : Nat) (f : Cmd → Cmd) : (s.modCmd n f).nvme = s.nvme := rfl
@[simp] theorem State.modCmd_peer (s : State) (n : Nat) (f : Cmd → Cmd) : (s.modCmd n f).peer = s.peer := rfl
@[simp] theorem State.modCmd_errs (s : State) (n : Nat) (f : Cmd → Cmd) : (s.modCmd n f).errs = s.errs := rfl
@[simp] theorem State.modCmd_ledger (s : State) (n : Nat) (f : Cmd → Cmd) : (s.modCmd n f).ledger = s.ledger := rfl
@[simp] theorem State.modCmd_mgmt (s : State) (n : Nat) (f : Cmd → Cmd) : (s.modCmd n f).mgmt = s.mgmt := rfl
@[simp] theorem State.modCmd_host (s : State) (n : Nat) (f : Cmd → Cmd) : (s.modCmd n f).host = s.host := rfl
@[simp] theorem State.modCmd_nextId (s : State) (n : Nat) (f : Cmd → Cmd) : (s.modCmd n f).nextId = s.nextId := rfl
@[simp] theorem State.modCmd_freeCtr (s : State) (n : Nat) (f : Cmd → Cmd) : (s.modCmd n f).freeCtr = s.freeCtr := rfl
@[simp] theorem State.modCmd_pending (s : State) (n : Nat) (f : Cmd → Cmd) : (s.modCmd n f).pending = s.pending := rfl

/-! ### setObj -/

@[simp] theorem State.setObj_variant (s : State) (n : Nat) (x : ObjectSt) : (s.setObj n x).variant = s.variant := rfl
@[simp] theorem State.setObj_power (s : State) (n : Nat) (x : ObjectSt) : (s.setObj n x).power = s.power := rfl
@[simp] theorem State.setObj_time (s : State) (n : Nat) (x : ObjectSt) : (s.setObj n x).time = s.time := rfl
@[simp] theorem State.setObj_ctxs (s : State) (n : Nat) (x : ObjectSt) : (s.setObj n x).ctxs = s.ctxs := rfl
@[simp] theorem State.setObj_cmds (s : State) (n : Nat) (x : ObjectSt) : (s.setObj n x).cmds = s.cmds := rfl
@[simp] theorem State.setObj_objs (s : State) (n : Nat) (x : ObjectSt) : (s.setObj n x).objs = tset s.objs n x := rfl
@[simp] theorem State.setObj_arrays (s : State) (n : Nat) (x : ObjectSt) : (s.setObj n x).arrays = s.arrays := rfl
@[simp] theorem State.setObj_parts (s : State) (n : Nat) (x : ObjectSt) : (s.setObj n x).parts = s.parts := rfl
@[simp] theorem State.setObj_tests (s : State) (n : Nat) (x : ObjectSt) : (s.setObj n x).tests = s.tests := rfl
@[simp] theorem State.setObj_verdicts (s : State) (n : Nat) (x : ObjectSt) : (s.setObj n x).verdicts = s.verdicts := rfl
@[simp] theorem State.setObj_verdictCtrs (s : State) (n : Nat) (x : ObjectSt) : (s.setObj n x).verdictCtrs = s.verdictCtrs := rfl
@[simp] theorem State.setObj_nand (s : State) (n : Nat) (x : ObjectSt) : (s.setObj n x).nand = s.nand := rfl
@[simp] theorem State.setObj_store (s : State) (n : Nat) (x : ObjectSt) : (s.setObj n x).store = s.store := rfl
@[simp] theorem State.setObj_nvme (s : State) (n : Nat) (x : ObjectSt) : (s.setObj n x).nvme = s.nvme := rfl
@[simp] theorem State.setObj_peer (s : State) (n : Nat) (x : ObjectSt) : (s.setObj n x).peer = s.peer := rfl
@[simp] theorem State.setObj_errs (s : State) (n : Nat) (x : ObjectSt) : (s.setObj n x).errs = s.errs := rfl
@[simp] theorem State.setObj_ledger (s : State) (n : Nat) (x : ObjectSt) : (s.setObj n x).ledger = s.ledger := rfl
@[simp] theorem State.setObj_mgmt (s : State) (n : Nat) (x : ObjectSt) : (s.setObj n x).mgmt = s.mgmt := rfl
@[simp] theorem State.setObj_host (s : State) (n : Nat) (x : ObjectSt) : (s.setObj n x).host = s.host := rfl
@[simp] theorem State.setObj_nextId (s : State) (n : Nat) (x : ObjectSt) : (s.setObj n x).nextId = s.nextId := rfl
@[simp] theorem State.setObj_freeCtr (s : State) (n : Nat) (x : ObjectSt) : (s.setObj n x).freeCtr = s.freeCtr := rfl
@[simp] theorem State.setObj_pending (s : State) (n : Nat) (x : ObjectSt) : (s.setObj n x).pending = s.pending := rfl

/-! ### modObj -/

@[simp] theorem State.modObj_variant (s : State) (n : Nat) (f : ObjectSt → ObjectSt) : (s.modObj n f).variant = s.variant := by
  unfold State.modObj; split <;> rfl
@[simp] theorem State.modObj_power (s : State) (n : Nat) (f : ObjectSt → ObjectSt) : (s.modObj n f).power = s.power := by
  unfold State.modObj; split <;> rfl
@[simp] theorem State.modObj_time (s : State) (n : Nat) (f : ObjectSt → ObjectSt) : (s.modObj n f).time = s.time := by
  unfold State.modObj; split <;> rfl
@[simp] theorem State.modObj_ctxs (s : State) (n : Nat) (f : ObjectSt → ObjectSt) : (s.modObj n f).ctxs = s.ctxs := by
  unfold State.modObj; split <;> rfl
@[simp] theorem State.modObj_cmds (s : State) (n : Nat) (f : ObjectSt → ObjectSt) : (s.modObj n f).cmds = s.cmds := by
  unfold State.modObj; split <;> rfl
@[simp] theorem State.modObj_arrays (s : State) (n : Nat) (f : ObjectSt → ObjectSt) : (s.modObj n f).arrays = s.arrays := by
  unfold State.modObj; split <;> rfl
@[simp] theorem State.modObj_parts (s : State) (n : Nat) (f : ObjectSt → ObjectSt) : (s.modObj n f).parts = s.parts := by
  unfold State.modObj; split <;> rfl
@[simp] theorem State.modObj_tests (s : State) (n : Nat) (f : ObjectSt → ObjectSt) : (s.modObj n f).tests = s.tests := by
  unfold State.modObj; split <;> rfl
@[simp] theorem State.modObj_verdicts (s : State) (n : Nat) (f : ObjectSt → ObjectSt) : (s.modObj n f).verdicts = s.verdicts := by
  unfold State.modObj; split <;> rfl
@[simp] theorem State.modObj_verdictCtrs (s : State) (n : Nat) (f : ObjectSt → ObjectSt) : (s.modObj n f).verdictCtrs = s.verdictCtrs := by
  unfold State.modObj; split <;> rfl
@[simp] theorem State.modObj_nand (s : State) (n : Nat) (f : ObjectSt → ObjectSt) : (s.modObj n f).nand = s.nand := by
  unfold State.modObj; split <;> rfl
@[simp] theorem State.modObj_store (s : State) (n : Nat) (f : ObjectSt → ObjectSt) : (s.modObj n f).store = s.store := by
  unfold State.modObj; split <;> rfl
@[simp] theorem State.modObj_nvme (s : State) (n : Nat) (f : ObjectSt → ObjectSt) : (s.modObj n f).nvme = s.nvme := by
  unfold State.modObj; split <;> rfl
@[simp] theorem State.modObj_peer (s : State) (n : Nat) (f : ObjectSt → ObjectSt) : (s.modObj n f).peer = s.peer := by
  unfold State.modObj; split <;> rfl
@[simp] theorem State.modObj_errs (s : State) (n : Nat) (f : ObjectSt → ObjectSt) : (s.modObj n f).errs = s.errs := by
  unfold State.modObj; split <;> rfl
@[simp] theorem State.modObj_ledger (s : State) (n : Nat) (f : ObjectSt → ObjectSt) : (s.modObj n f).ledger = s.ledger := by
  unfold State.modObj; split <;> rfl
@[simp] theorem State.modObj_mgmt (s : State) (n : Nat) (f : ObjectSt → ObjectSt) : (s.modObj n f).mgmt = s.mgmt := by
  unfold State.modObj; split <;> rfl
@[simp] theorem State.modObj_host (s : State) (n : Nat) (f : ObjectSt → ObjectSt) : (s.modObj n f).host = s.host := by
  unfold State.modObj; split <;> rfl
@[simp] theorem State.modObj_nextId (s : State) (n : Nat) (f : ObjectSt → ObjectSt) : (s.modObj n f).nextId = s.nextId := by
  unfold State.modObj; split <;> rfl
@[simp] theorem State.modObj_freeCtr (s : State) (n : Nat) (f : ObjectSt → ObjectSt) : (s.modObj n f).freeCtr = s.freeCtr := by
  unfold State.modObj; split <;> rfl
@[simp] theorem State.modObj_pending (s : State) (n : Nat) (f : ObjectSt → ObjectSt) : (s.modObj n f).pending = s.pending := by
  unfold State.modObj; split <;> rfl

/-! ### setArr -/

@[simp] theorem State.setArr_variant (s : State) (n : Nat) (x : ArraySt) : (s.setArr n x).variant = s.variant := rfl
@[simp] theorem State.setArr_power (s : State) (n : Nat) (x : ArraySt) : (s.setArr n x).power = s.power := rfl
@[simp] theorem State.setArr_time (s : State) (n : Nat) (x : ArraySt) : (s.setArr n x).time = s.time := rfl
@[simp] theorem State.setArr_ctxs (s : State) (n : Nat) (x : ArraySt) : (s.setArr n x).ctxs = s.ctxs := rfl
@[simp] theorem State.setArr_cmds (s : State) (n : Nat) (x : ArraySt) : (s.setArr n x).cmds = s.cmds := rfl
@[simp] theorem State.setArr_objs (s : State) (n : Nat) (x : ArraySt) : (s.setArr n x).objs = s.objs := rfl
@[simp] theorem State.setArr_arrays (s : State) (n : Nat) (x : ArraySt) : (s.setArr n x).arrays = tset s.arrays n x := rfl
@[simp] theorem State.setArr_parts (s : State) (n : Nat) (x : ArraySt) : (s.setArr n x).parts = s.parts := rfl
@[simp] theorem State.setArr_tests (s : State) (n : Nat) (x : ArraySt) : (s.setArr n x).tests = s.tests := rfl
@[simp] theorem State.setArr_verdicts (s : State) (n : Nat) (x : ArraySt) : (s.setArr n x).verdicts = s.verdicts := rfl
@[simp] theorem State.setArr_verdictCtrs (s : State) (n : Nat) (x : ArraySt) : (s.setArr n x).verdictCtrs = s.verdictCtrs := rfl
@[simp] theorem State.setArr_nand (s : State) (n : Nat) (x : ArraySt) : (s.setArr n x).nand = s.nand := rfl
@[simp] theorem State.setArr_store (s : State) (n : Nat) (x : ArraySt) : (s.setArr n x).store = s.store := rfl
@[simp] theorem State.setArr_nvme (s : State) (n : Nat) (x : ArraySt) : (s.setArr n x).nvme = s.nvme := rfl
@[simp] theorem State.setArr_peer (s : State) (n : Nat) (x : ArraySt) : (s.setArr n x).peer = s.peer := rfl
@[simp] theorem State.setArr_errs (s : State) (n : Nat) (x : ArraySt) : (s.setArr n x).errs = s.errs := rfl
@[simp] theorem State.setArr_ledger (s : State) (n : Nat) (x : ArraySt) : (s.setArr n x).ledger = s.ledger := rfl
@[simp] theorem State.setArr_mgmt (s : State) (n : Nat) (x : ArraySt) : (s.setArr n x).mgmt = s.mgmt := rfl
@[simp] theorem State.setArr_host (s : State) (n : Nat) (x : ArraySt) : (s.setArr n x).host = s.host := rfl
@[simp] theorem State.setArr_nextId (s : State) (n : Nat) (x : ArraySt) : (s.setArr n x).nextId = s.nextId := rfl
@[simp] theorem State.setArr_freeCtr (s : State) (n : Nat) (x : ArraySt) : (s.setArr n x).freeCtr = s.freeCtr := rfl
@[simp] theorem State.setArr_pending (s : State) (n : Nat) (x : ArraySt) : (s.setArr n x).pending = s.pending := rfl

/-! ### modArr -/

@[simp] theorem State.modArr_variant (s : State) (n : Nat) (f : ArraySt → ArraySt) : (s.modArr n f).variant = s.variant := rfl
@[simp] theorem State.modArr_power (s : State) (n : Nat) (f : ArraySt → ArraySt) : (s.modArr n f).power = s.power := rfl
@[simp] theorem State.modArr_time (s : State) (n : Nat) (f : ArraySt → ArraySt) : (s.modArr n f).time = s.time := rfl
@[simp] theorem State.modArr_ctxs (s : State) (n : Nat) (f : ArraySt → ArraySt) : (s.modArr n f).ctxs = s.ctxs := rfl
@[simp] theorem State.modArr_cmds (s : State) (n : Nat) (f : ArraySt → ArraySt) : (s.modArr n f).cmds = s.cmds := rfl
@[simp] theorem State.modArr_objs (s : State) (n : Nat) (f : ArraySt → ArraySt) : (s.modArr n f).objs = s.objs := rfl
@[simp] theorem State.modArr_arrays (s : State) (n : Nat) (f : ArraySt → ArraySt) : (s.modArr n f).arrays = tset s.arrays n (f (s.arr n)) := rfl
@[simp] theorem State.modArr_parts (s : State) (n : Nat) (f : ArraySt → ArraySt) : (s.modArr n f).parts = s.parts := rfl
@[simp] theorem State.modArr_tests (s : State) (n : Nat) (f : ArraySt → ArraySt) : (s.modArr n f).tests = s.tests := rfl
@[simp] theorem State.modArr_verdicts (s : State) (n : Nat) (f : ArraySt → ArraySt) : (s.modArr n f).verdicts = s.verdicts := rfl
@[simp] theorem State.modArr_verdictCtrs (s : State) (n : Nat) (f : ArraySt → ArraySt) : (s.modArr n f).verdictCtrs = s.verdictCtrs := rfl
@[simp] theorem State.modArr_nand (s : State) (n : Nat) (f : ArraySt → ArraySt) : (s.modArr n f).nand = s.nand := rfl
@[simp] theorem State.modArr_store (s : State) (n : Nat) (f : ArraySt → ArraySt) : (s.modArr n f).store = s.store := rfl
@[simp] theorem State.modArr_nvme (s : State) (n : Nat) (f : ArraySt → ArraySt) : (s.modArr n f).nvme = s.nvme := rfl
@[simp] theorem State.modArr_peer (s : State) (n : Nat) (f : ArraySt → ArraySt) : (s.modArr n f).peer = s.peer := rfl
@[simp] theorem State.modArr_errs (s : State) (n : Nat) (f : ArraySt → ArraySt) : (s.modArr n f).errs = s.errs := rfl
@[simp] theorem State.modArr_ledger (s : State) (n : Nat) (f : ArraySt → ArraySt) : (s.modArr n f).ledger = s.ledger := rfl
@[simp] theorem State.modArr_mgmt (s : State) (n : Nat) (f : ArraySt → ArraySt) : (s.modArr n f).mgmt = s.mgmt := rfl
@[simp] theorem State.modArr_host (s : State) (n : Nat) (f : ArraySt → ArraySt) : (s.modArr n f).host = s.host := rfl
@[simp] theorem State.modArr_nextId (s : State) (n : Nat) (f : ArraySt → ArraySt) : (s.modArr n f).nextId = s.nextId := rfl
@[simp] theorem State.modArr_freeCtr (s : State) (n : Nat) (f : ArraySt → ArraySt) : (s.modArr n f).freeCtr = s.freeCtr := rfl
@[simp] theorem State.modArr_pending (s : State) (n : Nat) (f : ArraySt → ArraySt) : (s.modArr n f).pending = s.pending := rfl

/-! ### setPart -/

@[simp] theorem State.setPart_variant (s : State) (n : Nat) (x : PartSt) : (s.setPart n x).variant = s.variant := rfl
@[simp] theorem State.setPart_power (s : State) (n : Nat) (x : PartSt) : (s.setPart n x).power = s.power := rfl
@[simp] theorem State.setPart_time (s : State) (n : Nat) (x : PartSt) : (s.setPart n x).time = s.time := rfl
@[simp] theorem State.setPart_ctxs (s : State) (n : Nat) (x : PartSt) : (s.setPart n x).ctxs = s.ctxs := rfl
@[simp] theorem State.setPart_cmds (s : State) (n : Nat) (x : PartSt) : (s.setPart n x).cmds = s.cmds := rfl
@[simp] theorem State.setPart_objs (s : State) (n : Nat) (x : PartSt) : (s.setPart n x).objs = s.objs := rfl
@[simp] theorem State.setPart_arrays (s : State) (n : Nat) (x : PartSt) : (s.setPart n x).arrays = s.arrays := rfl
@[simp] theorem State.setPart_parts (s : State) (n : Nat) (x : PartSt) : (s.setPart n x).parts = tset s.parts n x := rfl
@[simp] theorem State.setPart_tests (s : State) (n : Nat) (x : PartSt) : (s.setPart n x).tests = s.tests := rfl
@[simp] theorem State.setPart_verdicts (s : State) (n : Nat) (x : PartSt) : (s.setPart n x).verdicts = s.verdicts := rfl
@[simp] theorem State.setPart_verdictCtrs (s : State) (n : Nat) (x : PartSt) : (s.setPart n x).verdictCtrs = s.verdictCtrs := rfl
@[simp] theorem State.setPart_nand (s : State) (n : Nat) (x : PartSt) : (s.setPart n x).nand = s.nand := rfl
@[simp] theorem State.setPart_store (s : State) (n : Nat) (x : PartSt) : (s.setPart n x).store = s.store := rfl
@[simp] theorem State.setPart_nvme (s : State) (n : Nat) (x : PartSt) : (s.setPart n x).nvme = s.nvme := rfl
@[simp] theorem State.setPart_peer (s : State) (n : Nat) (x : PartSt) : (s.setPart n x).peer = s.peer := rfl
@[simp] theorem State.setPart_errs (s : State) (n : Nat) (x : PartSt) : (s.setPart n x).errs = s.errs := rfl
@[simp] theorem State.setPart_ledger (s : State) (n : Nat) (x : PartSt) : (s.setPart n x).ledger = s.ledger := rfl
@[simp] theorem State.setPart_mgmt (s : State) (n : Nat) (x : PartSt) : (s.setPart n x).mgmt = s.mgmt := rfl
@[simp] theorem State.setPart_host (s : State) (n : Nat) (x : PartSt) : (s.setPart n x).host = s.host := rfl
@[simp] theorem State.setPart_nextId (s : State) (n : Nat) (x : PartSt) : (s.setPart n x).nextId = s.nextId := rfl
@[simp] theorem State.setPart_freeCtr (s : State) (n : Nat) (x : PartSt) : (s.setPart n x).freeCtr = s.freeCtr := rfl
@[simp] theorem State.setPart_pending (s : State) (n : Nat) (x : PartSt) : (s.setPart n x).pending = s.pending := rfl

/-! ### modPart -/

@[simp] theorem State.modPart_variant (s : State) (n : Nat) (f : PartSt → PartSt) : (s.modPart n f).variant = s.variant := rfl
@[simp] theorem State.modPart_power (s : State) (n : Nat) (f : PartSt → PartSt) : (s.modPart n f).power = s.power := rfl
@[simp] theorem State.modPart_time (s : State) (n : Nat) (f : PartSt → PartSt) : (s.modPart n f).time = s.time := rfl
@[simp] theorem State.modPart_ctxs (s : State) (n : Nat) (f : PartSt → PartSt) : (s.modPart n f).ctxs = s.ctxs := rfl
@[simp] theorem State.modPart_cmds (s : State) (n : Nat) (f : PartSt → PartSt) : (s.modPart n f).cmds = s.cmds := rfl
@[simp] theorem State.modPart_objs (s : State) (n : Nat) (f : PartSt → PartSt) : (s.modPart n f).objs = s.objs := rfl
@[simp] theorem State.modPart_arrays (s : State) (n : Nat) (f : PartSt → PartSt) : (s.modPart n f).arrays = s.arrays := rfl
@[simp] theorem State.modPart_parts (s : State) (n : Nat) (f : PartSt → PartSt) : (s.modPart n f).parts = tset s.parts n (f (s.part n)) := rfl
@[simp] theorem State.modPart_tests (s : State) (n : Nat) (f : PartSt → PartSt) : (s.modPart n f).tests = s.tests := rfl
@[simp] theorem State.modPart_verdicts (s : State) (n : Nat) (f : PartSt → PartSt) : (s.modPart n f).verdicts = s.verdicts := rfl
@[simp] theorem State.modPart_verdictCtrs (s : State) (n : Nat) (f : PartSt → PartSt) : (s.modPart n f).verdictCtrs = s.verdictCtrs := rfl
@[simp] theorem State.modPart_nand (s : State) (n : Nat) (f : PartSt → PartSt) : (s.modPart n f).nand = s.nand := rfl
@[simp] theorem State.modPart_store (s : State) (n : Nat) (f : PartSt → PartSt) : (s.modPart n f).store = s.store := rfl
@[simp] theorem State.modPart_nvme (s : State) (n : Nat) (f : PartSt → PartSt) : (s.modPart n f).nvme = s.nvme := rfl
@[simp] theorem State.modPart_peer (s : State) (n : Nat) (f : PartSt → PartSt) : (s.modPart n f).peer = s.peer := rfl
@[simp] theorem State.modPart_errs (s : State) (n : Nat) (f : PartSt → PartSt) : (s.modPart n f).errs = s.errs := rfl
@[simp] theorem State.modPart_ledger (s : State) (n : Nat) (f : PartSt → PartSt) : (s.modPart n f).ledger = s.ledger := rfl
@[simp] theorem State.modPart_mgmt (s : State) (n : Nat) (f : PartSt → PartSt) : (s.modPart n f).mgmt = s.mgmt := rfl
@[simp] theorem State.modPart_host (s : State) (n : Nat) (f : PartSt → PartSt) : (s.modPart n f).host = s.host := rfl
@[simp] theorem State.modPart_nextId (s : State) (n : Nat) (f : PartSt → PartSt) : (s.modPart n f).nextId = s.nextId := rfl
@[simp] theorem State.modPart_freeCtr (s : State) (n : Nat) (f : PartSt → PartSt) : (s.modPart n f).freeCtr = s.freeCtr := rfl
@[simp] theorem State.modPart_pending (s : State) (n : Nat) (f : PartSt → PartSt) : (s.modPart n f).pending = s.pending := rfl

/-! ### modRegion -/

@[simp] theorem State.modRegion_variant (s : State) (n : Nat) (f : Region → Region) : (s.modRegion n f).variant = s.variant := rfl
@[simp] theorem State.modRegion_power (s : State) (n : Nat) (f : Region → Region) : (s.modRegion n f).power = s.power := rfl
@[simp] theorem State.modRegion_ctxs (s : State) (n : Nat) (f : Region → Region) : (s.modRegion n f).ctxs = s.ctxs := rfl
@[simp] theorem State.modRegion_cmds (s : State) (n : Nat) (f : Region → Region) : (s.modRegion n f).cmds = s.cmds := rfl
@[simp] theorem State.modRegion_objs (s : State) (n : Nat) (f : Region → Region) : (s.modRegion n f).objs = s.objs := rfl
@[simp] theorem State.modRegion_arrays (s : State) (n : Nat) (f : Region → Region) : (s.modRegion n f).arrays = s.arrays := rfl
@[simp] theorem State.modRegion_parts (s : State) (n : Nat) (f : Region → Region) : (s.modRegion n f).parts = s.parts := rfl
@[simp] theorem State.modRegion_tests (s : State) (n : Nat) (f : Region → Region) : (s.modRegion n f).tests = s.tests := rfl
@[simp] theorem State.modRegion_verdicts (s : State) (n : Nat) (f : Region → Region) : (s.modRegion n f).verdicts = s.verdicts := rfl
@[simp] theorem State.modRegion_verdictCtrs (s : State) (n : Nat) (f : Region → Region) : (s.modRegion n f).verdictCtrs = s.verdictCtrs := rfl
@[simp] theorem State.modRegion_nand (s : State) (n : Nat) (f : Region → Region) : (s.modRegion n f).nand = s.nand := rfl
@[simp] theorem State.modRegion_store (s : State) (n : Nat) (f : Region → Region) : (s.modRegion n f).store = s.store := rfl
@[simp] theorem State.modRegion_nvme (s : State) (n : Nat) (f : Region → Region) : (s.modRegion n f).nvme = s.nvme := rfl
@[simp] theorem State.modRegion_peer (s : State) (n : Nat) (f : Region → Region) : (s.modRegion n f).peer = s.peer := rfl
@[simp] theorem State.modRegion_errs (s : State) (n : Nat) (f : Region → Region) : (s.modRegion n f).errs = s.errs := rfl
@[simp] theorem State.modRegion_ledger (s : State) (n : Nat) (f : Region → Region) : (s.modRegion n f).ledger = s.ledger := rfl
@[simp] theorem State.modRegion_mgmt (s : State) (n : Nat) (f : Region → Region) : (s.modRegion n f).mgmt = s.mgmt := rfl
@[simp] theorem State.modRegion_host (s : State) (n : Nat) (f : Region → Region) : (s.modRegion n f).host = s.host := rfl
@[simp] theorem State.modRegion_nextId (s : State) (n : Nat) (f : Region → Region) : (s.modRegion n f).nextId = s.nextId := rfl
@[simp] theorem State.modRegion_freeCtr (s : State) (n : Nat) (f : Region → Region) : (s.modRegion n f).freeCtr = s.freeCtr := rfl
@[simp] theorem State.modRegion_pending (s : State) (n : Nat) (f : Region → Region) : (s.modRegion n f).pending = s.pending := rfl

/-! ### modCtl -/

@[simp] theorem State.modCtl_variant (s : State) (n : Nat) (f : Ctl → Ctl) : (s.modCtl n f).variant = s.variant := rfl
@[simp] theorem State.modCtl_power (s : State) (n : Nat) (f : Ctl → Ctl) : (s.modCtl n f).power = s.power := rfl
@[simp] theorem State.modCtl_time (s : State) (n : Nat) (f : Ctl → Ctl) : (s.modCtl n f).time = s.time := rfl
@[simp] theorem State.modCtl_ctxs (s : State) (n : Nat) (f : Ctl → Ctl) : (s.modCtl n f).ctxs = s.ctxs := rfl
@[simp] theorem State.modCtl_cmds (s : State) (n : Nat) (f : Ctl → Ctl) : (s.modCtl n f).cmds = s.cmds := rfl
@[simp] theorem State.modCtl_objs (s : State) (n : Nat) (f : Ctl → Ctl) : (s.modCtl n f).objs = s.objs := rfl
@[simp] theorem State.modCtl_arrays (s : State) (n : Nat) (f : Ctl → Ctl) : (s.modCtl n f).arrays = s.arrays := rfl
@[simp] theorem State.modCtl_parts (s : State) (n : Nat) (f : Ctl → Ctl) : (s.modCtl n f).parts = s.parts := rfl
@[simp] theorem State.modCtl_tests (s : State) (n : Nat) (f : Ctl → Ctl) : (s.modCtl n f).tests = s.tests := rfl
@[simp] theorem State.modCtl_verdicts (s : State) (n : Nat) (f : Ctl → Ctl) : (s.modCtl n f).verdicts = s.verdicts := rfl
@[simp] theorem State.modCtl_verdictCtrs (s : State) (n : Nat) (f : Ctl → Ctl) : (s.modCtl n f).verdictCtrs = s.verdictCtrs := rfl
@[simp] theorem State.modCtl_nand (s : State) (n : Nat) (f : Ctl → Ctl) : (s.modCtl n f).nand = s.nand := rfl
@[simp] theorem State.modCtl_store (s : State) (n : Nat) (f : Ctl → Ctl) : (s.modCtl n f).store = s.store := rfl
@[simp] theorem State.modCtl_peer (s : State) (n : Nat) (f : Ctl → Ctl) : (s.modCtl n f).peer = s.peer := rfl
@[simp] theorem State.modCtl_errs (s : State) (n : Nat) (f : Ctl → Ctl) : (s.modCtl n f).errs = s.errs := rfl
@[simp] theorem State.modCtl_ledger (s : State) (n : Nat) (f : Ctl → Ctl) : (s.modCtl n f).ledger = s.ledger := rfl
@[simp] theorem State.modCtl_mgmt (s : State) (n : Nat) (f : Ctl → Ctl) : (s.modCtl n f).mgmt = s.mgmt := rfl
@[simp] theorem State.modCtl_host (s : State) (n : Nat) (f : Ctl → Ctl) : (s.modCtl n f).host = s.host := rfl
@[simp] theorem State.modCtl_nextId (s : State) (n : Nat) (f : Ctl → Ctl) : (s.modCtl n f).nextId = s.nextId := rfl
@[simp] theorem State.modCtl_freeCtr (s : State) (n : Nat) (f : Ctl → Ctl) : (s.modCtl n f).freeCtr = s.freeCtr := rfl
@[simp] theorem State.modCtl_pending (s : State) (n : Nat) (f : Ctl → Ctl) : (s.modCtl n f).pending = s.pending := rfl

/-! ### modDie -/

@[simp] theorem State.modDie_variant (s : State) (n : Nat) (f : DieSt → DieSt) : (s.modDie n f).variant = s.variant := rfl
@[simp] theorem State.modDie_power (s : State) (n : Nat) (f : DieSt → DieSt) : (s.modDie n f).power = s.power := rfl
@[simp] theorem State.modDie_time (s : State) (n : Nat) (f : DieSt → DieSt) : (s.modDie n f).time = s.time := rfl
@[simp] theorem State.modDie_ctxs (s : State) (n : Nat) (f : DieSt → DieSt) : (s.modDie n f).ctxs = s.ctxs := rfl
@[simp] theorem State.modDie_cmds (s : State) (n : Nat) (f : DieSt → DieSt) : (s.modDie n f).cmds = s.cmds := rfl
@[simp] theorem State.modDie_objs (s : State) (n : Nat) (f : DieSt → DieSt) : (s.modDie n f).objs = s.objs := rfl
@[simp] theorem State.modDie_arrays (s : State) (n : Nat) (f : DieSt → DieSt) : (s.modDie n f).arrays = s.arrays := rfl
@[simp] theorem State.modDie_parts (s : State) (n : Nat) (f : DieSt → DieSt) : (s.modDie n f).parts = s.parts := rfl
@[simp] theorem State.modDie_tests (s : State) (n : Nat) (f : DieSt → DieSt) : (s.modDie n f).tests = s.tests := rfl
@[simp] theorem State.modDie_verdicts (s : State) (n : Nat) (f : DieSt → DieSt) : (s.modDie n f).verdicts = s.verdicts := rfl
@[simp] theorem State.modDie_verdictCtrs (s : State) (n : Nat) (f : DieSt → DieSt) : (s.modDie n f).verdictCtrs = s.verdictCtrs := rfl
@[simp] theorem State.modDie_store (s : State) (n : Nat) (f : DieSt → DieSt) : (s.modDie n f).store = s.store := rfl
@[simp] theorem State.modDie_nvme (s : State) (n : Nat) (f : DieSt → DieSt) : (s.modDie n f).nvme = s.nvme := rfl
@[simp] theorem State.modDie_peer (s : State) (n : Nat) (f : DieSt → DieSt) : (s.modDie n f).peer = s.peer := rfl
@[simp] theorem State.modDie_errs (s : State) (n : Nat) (f : DieSt → DieSt) : (s.modDie n f).errs = s.errs := rfl
@[simp] theorem State.modDie_ledger (s : State) (n : Nat) (f : DieSt → DieSt) : (s.modDie n f).ledger = s.ledger := rfl
@[simp] theorem State.modDie_mgmt (s : State) (n : Nat) (f : DieSt → DieSt) : (s.modDie n f).mgmt = s.mgmt := rfl
@[simp] theorem State.modDie_host (s : State) (n : Nat) (f : DieSt → DieSt) : (s.modDie n f).host = s.host := rfl
@[simp] theorem State.modDie_nextId (s : State) (n : Nat) (f : DieSt → DieSt) : (s.modDie n f).nextId = s.nextId := rfl
@[simp] theorem State.modDie_freeCtr (s : State) (n : Nat) (f : DieSt → DieSt) : (s.modDie n f).freeCtr = s.freeCtr := rfl
@[simp] theorem State.modDie_pending (s : State) (n : Nat) (f : DieSt → DieSt) : (s.modDie n f).pending = s.pending := rfl

/-! ### modBlock -/

@[simp] theorem State.modBlock_variant (s : State) (d n : Nat) (f : BlockSt → BlockSt) : (s.modBlock d n f).variant = s.variant := rfl
@[simp] theorem State.modBlock_power (s : State) (d n : Nat) (f : BlockSt → BlockSt) : (s.modBlock d n f).power = s.power := rfl
@[simp] theorem State.modBlock_time (s : State) (d n : Nat) (f : BlockSt → BlockSt) : (s.modBlock d n f).time = s.time := rfl
@[simp] theorem State.modBlock_ctxs (s : State) (d n : Nat) (f : BlockSt → BlockSt) : (s.modBlock d n f).ctxs = s.ctxs := rfl
@[simp] theorem State.modBlock_cmds (s : State) (d n : Nat) (f : BlockSt → BlockSt) : (s.modBlock d n f).cmds = s.cmds := rfl
@[simp] theorem State.modBlock_objs (s : State) (d n : Nat) (f : BlockSt → BlockSt) : (s.modBlock d n f).objs = s.objs := rfl
@[simp] theorem State.modBlock_arrays (s : State) (d n : Nat) (f : BlockSt → BlockSt) : (s.modBlock d n f).arrays = s.arrays := rfl
@[simp] theorem State.modBlock_parts (s : State) (d n : Nat) (f : BlockSt → BlockSt) : (s.modBlock d n f).parts = s.parts := rfl
@[simp] theorem State.modBlock_tests (s : State) (d n : Nat) (f : BlockSt → BlockSt) : (s.modBlock d n f).tests = s.tests := rfl
@[simp] theorem State.modBlock_verdicts (s : State) (d n : Nat) (f : BlockSt → BlockSt) : (s.modBlock d n f).verdicts = s.verdicts := rfl
@[simp] theorem State.modBlock_verdictCtrs (s : State) (d n : Nat) (f : BlockSt → BlockSt) : (s.modBlock d n f).verdictCtrs = s.verdictCtrs := rfl
@[simp] theorem State.modBlock_store (s : State) (d n : Nat) (f : BlockSt → BlockSt) : (s.modBlock d n f).store = s.store := rfl
@[simp] theorem State.modBlock_nvme (s : State) (d n : Nat) (f : BlockSt → BlockSt) : (s.modBlock d n f).nvme = s.nvme := rfl
@[simp] theorem State.modBlock_peer (s : State) (d n : Nat) (f : BlockSt → BlockSt) : (s.modBlock d n f).peer = s.peer := rfl
@[simp] theorem State.modBlock_errs (s : State) (d n : Nat) (f : BlockSt → BlockSt) : (s.modBlock d n f).errs = s.errs := rfl
@[simp] theorem State.modBlock_ledger (s : State) (d n : Nat) (f : BlockSt → BlockSt) : (s.modBlock d n f).ledger = s.ledger := rfl
@[simp] theorem State.modBlock_mgmt (s : State) (d n : Nat) (f : BlockSt → BlockSt) : (s.modBlock d n f).mgmt = s.mgmt := rfl
@[simp] theorem State.modBlock_host (s : State) (d n : Nat) (f : BlockSt → BlockSt) : (s.modBlock d n f).host = s.host := rfl
@[simp] theorem State.modBlock_nextId (s : State) (d n : Nat) (f : BlockSt → BlockSt) : (s.modBlock d n f).nextId = s.nextId := rfl
@[simp] theorem State.modBlock_freeCtr (s : State) (d n : Nat) (f : BlockSt → BlockSt) : (s.modBlock d n f).freeCtr = s.freeCtr := rfl
@[simp] theorem State.modBlock_pending (s : State) (d n : Nat) (f : BlockSt → BlockSt) : (s.modBlock d n f).pending = s.pending := rfl

/-! ### modGroup -/

@[simp] theorem State.modGroup_variant (s : State) (n : Nat) (f : GroupSt → GroupSt) : (s.modGroup n f).variant = s.variant := rfl
@[simp] theorem State.modGroup_power (s : State) (n : Nat) (f : GroupSt → GroupSt) : (s.modGroup n f).power = s.power := rfl
@[simp] theorem State.modGroup_time (s : State) (n : Nat) (f : GroupSt → GroupSt) : (s.modGroup n f).time = s.time := rfl
@[simp] theorem State.modGroup_ctxs (s : State) (n : Nat) (f : GroupSt → GroupSt) : (s.modGroup n f).ctxs = s.ctxs := rfl
@[simp] theorem State.modGroup_cmds (s : State) (n : Nat) (f : GroupSt → GroupSt) : (s.modGroup n f).cmds = s.cmds := rfl
@[simp] theorem State.modGroup_objs (s : State) (n : Nat) (f : GroupSt → GroupSt) : (s.modGroup n f).objs = s.objs := rfl
@[simp] theorem State.modGroup_arrays (s : State) (n : Nat) (f : GroupSt → GroupSt) : (s.modGroup n f).arrays = s.arrays := rfl
@[simp] theorem State.modGroup_parts (s : State) (n : Nat) (f : GroupSt → GroupSt) : (s.modGroup n f).parts = s.parts := rfl
@[simp] theorem State.modGroup_tests (s : State) (n : Nat) (f : GroupSt → GroupSt) : (s.modGroup n f).tests = s.tests := rfl
@[simp] theorem State.modGroup_verdicts (s : State) (n : Nat) (f : GroupSt → GroupSt) : (s.modGroup n f).verdicts = s.verdicts := rfl
@[simp] theorem State.modGroup_verdictCtrs (s : State) (n : Nat) (f : GroupSt → GroupSt) : (s.modGroup n f).verdictCtrs = s.verdictCtrs := rfl
@[simp] theorem State.modGroup_store (s : State) (n : Nat) (f : GroupSt → GroupSt) : (s.modGroup n f).store = s.store := rfl
@[simp] theorem State.modGroup_nvme (s : State) (n : Nat) (f : GroupSt → GroupSt) : (s.modGroup n f).nvme = s.nvme := rfl
@[simp] theorem State.modGroup_peer (s : State) (n : Nat) (f : GroupSt → GroupSt) : (s.modGroup n f).peer = s.peer := rfl
@[simp] theorem State.modGroup_errs (s : State) (n : Nat) (f : GroupSt → GroupSt) : (s.modGroup n f).errs = s.errs := rfl
@[simp] theorem State.modGroup_ledger (s : State) (n : Nat) (f : GroupSt → GroupSt) : (s.modGroup n f).ledger = s.ledger := rfl
@[simp] theorem State.modGroup_mgmt (s : State) (n : Nat) (f : GroupSt → GroupSt) : (s.modGroup n f).mgmt = s.mgmt := rfl
@[simp] theorem State.modGroup_host (s : State) (n : Nat) (f : GroupSt → GroupSt) : (s.modGroup n f).host = s.host := rfl
@[simp] theorem State.modGroup_nextId (s : State) (n : Nat) (f : GroupSt → GroupSt) : (s.modGroup n f).nextId = s.nextId := rfl
@[simp] theorem State.modGroup_freeCtr (s : State) (n : Nat) (f : GroupSt → GroupSt) : (s.modGroup n f).freeCtr = s.freeCtr := rfl
@[simp] theorem State.modGroup_pending (s : State) (n : Nat) (f : GroupSt → GroupSt) : (s.modGroup n f).pending = s.pending := rfl

/-! ### modPort -/

@[simp] theorem State.modPort_variant (s : State) (n : Nat) (f : Port → Port) : (s.modPort n f).variant = s.variant := rfl
@[simp] theorem State.modPort_power (s : State) (n : Nat) (f : Port → Port) : (s.modPort n f).power = s.power := rfl
@[simp] theorem State.modPort_time (s : State) (n : Nat) (f : Port → Port) : (s.modPort n f).time = s.time := rfl
@[simp] theorem State.modPort_ctxs (s : State) (n : Nat) (f : Port → Port) : (s.modPort n f).ctxs = s.ctxs := rfl
@[simp] theorem State.modPort_cmds (s : State) (n : Nat) (f : Port → Port) : (s.modPort n f).cmds = s.cmds := rfl
@[simp] theorem State.modPort_objs (s : State) (n : Nat) (f : Port → Port) : (s.modPort n f).objs = s.objs := rfl
@[simp] theorem State.modPort_arrays (s : State) (n : Nat) (f : Port → Port) : (s.modPort n f).arrays = s.arrays := rfl
@[simp] theorem State.modPort_parts (s : State) (n : Nat) (f : Port → Port) : (s.modPort n f).parts = s.parts := rfl
@[simp] theorem State.modPort_tests (s : State) (n : Nat) (f : Port → Port) : (s.modPort n f).tests = s.tests := rfl
@[simp] theorem State.modPort_verdicts (s : State) (n : Nat) (f : Port → Port) : (s.modPort n f).verdicts = s.verdicts := rfl
@[simp] theorem State.modPort_verdictCtrs (s : State) (n : Nat) (f : Port → Port) : (s.modPort n f).verdictCtrs = s.verdictCtrs := rfl
@[simp] theorem State.modPort_nand (s : State) (n : Nat) (f : Port → Port) : (s.modPort n f).nand = s.nand := rfl
@[simp] theorem State.modPort_store (s : State) (n : Nat) (f : Port → Port) : (s.modPort n f).store = s.store := rfl
@[simp] theorem State.modPort_nvme (s : State) (n : Nat) (f : Port → Port) : (s.modPort n f).nvme = s.nvme := rfl
@[simp] theorem State.modPort_errs (s : State) (n : Nat) (f : Port → Port) : (s.modPort n f).errs = s.errs := rfl
@[simp] theorem State.modPort_ledger (s : State) (n : Nat) (f : Port → Port) : (s.modPort n f).ledger = s.ledger := rfl
@[simp] theorem State.modPort_mgmt (s : State) (n : Nat) (f : Port → Port) : (s.modPort n f).mgmt = s.mgmt := rfl
@[simp] theorem State.modPort_host (s : State) (n : Nat) (f : Port → Port) : (s.modPort n f).host = s.host := rfl
@[simp] theorem State.modPort_nextId (s : State) (n : Nat) (f : Port → Port) : (s.modPort n f).nextId = s.nextId := rfl
@[simp] theorem State.modPort_freeCtr (s : State) (n : Nat) (f : Port → Port) : (s.modPort n f).freeCtr = s.freeCtr := rfl
@[simp] theorem State.modPort_pending (s : State) (n : Nat) (f : Port → Port) : (s.modPort n f).pending = s.pending := rfl

/-! ### bumpBy -/

@[simp] theorem State.bumpBy_variant (s : State) (n : Nat) : (s.bumpBy n).variant = s.variant := rfl
@[simp] theorem State.bumpBy_power (s : State) (n : Nat) : (s.bumpBy n).power = s.power := rfl
@[simp] theorem State.bumpBy_time (s : State) (n : Nat) : (s.bumpBy n).time = s.time := rfl
@[simp] theorem State.bumpBy_ctxs (s : State) (n : Nat) : (s.bumpBy n).ctxs = s.ctxs := rfl
@[simp] theorem State.bumpBy_cmds (s : State) (n : Nat) : (s.bumpBy n).cmds = s.cmds := rfl
@[simp] theorem State.bumpBy_objs (s : State) (n : Nat) : (s.bumpBy n).objs = s.objs := rfl
@[simp] theorem State.bumpBy_arrays (s : State) (n : Nat) : (s.bumpBy n).arrays = s.arrays := rfl
@[simp] theorem State.bumpBy_parts (s : State) (n : Nat) : (s.bumpBy n).parts = s.parts := rfl
@[simp] theorem State.bumpBy_tests (s : State) (n : Nat) : (s.bumpBy n).tests = s.tests := rfl
@[simp] theorem State.bumpBy_verdicts (s : State) (n : Nat) : (s.bumpBy n).verdicts = s.verdicts := rfl
@[simp] theorem State.bumpBy_verdictCtrs (s : State) (n : Nat) : (s.bumpBy n).verdictCtrs = s.verdictCtrs := rfl
@[simp] theorem State.bumpBy_nand (s : State) (n : Nat) : (s.bumpBy n).nand = s.nand := rfl
@[simp] theorem State.bumpBy_store (s : State) (n : Nat) : (s.bumpBy n).store = s.store := rfl
@[simp] theorem State.bumpBy_nvme (s : State) (n : Nat) : (s.bumpBy n).nvme = s.nvme := rfl
@[simp] theorem State.bumpBy_peer (s : State) (n : Nat) : (s.bumpBy n).peer = s.peer := rfl
@[simp] theorem State.bumpBy_errs (s : State) (n : Nat) : (s.bumpBy n).errs = s.errs := rfl
@[simp] theorem State.bumpBy_ledger (s : State) (n : Nat) : (s.bumpBy n).ledger = s.ledger := rfl
@[simp] theorem State.bumpBy_mgmt (s : State) (n : Nat) : (s.bumpBy n).mgmt = s.mgmt := rfl
@[simp] theorem State.bumpBy_host (s : State) (n : Nat) : (s.bumpBy n).host = s.host := rfl
@[simp] theorem State.bumpBy_nextId (s : State) (n : Nat) : (s.bumpBy n).nextId = s.nextId + n := rfl
@[simp] theorem State.bumpBy_freeCtr (s : State) (n : Nat) : (s.bumpBy n).freeCtr = s.freeCtr := rfl
@[simp] theorem State.bumpBy_pending (s : State) (n : Nat) : (s.bumpBy n).pending = s.pending := rfl

/-! ### bump -/

@[simp] theorem State.bump_variant (s : State) : (s.bump).variant = s.variant := rfl
@[simp] theorem State.bump_power (s : State) : (s.bump).power = s.power := rfl
@[simp] theorem State.bump_time (s : State) : (s.bump).time = s.time := rfl
@[simp] theorem State.bump_ctxs (s : State) : (s.bump).ctxs = s.ctxs := rfl
@[simp] theorem State.bump_cmds (s : State) : (s.bump).cmds = s.cmds := rfl
@[simp] theorem State.bump_objs (s : State) : (s.bump).objs = s.objs := rfl
@[simp] theorem State.bump_arrays (s : State) : (s.bump).arrays = s.arrays := rfl
@[simp] theorem State.bump_parts (s : State) : (s.bump).parts = s.parts := rfl
@[simp] theorem State.bump_tests (s : State) : (s.bump).tests = s.tests := rfl
@[simp] theorem State.bump_verdicts (s : State) : (s.bump).verdicts = s.verdicts := rfl
@[simp] theorem State.bump_verdictCtrs (s : State) : (s.bump).verdictCtrs = s.verdictCtrs := rfl
@[simp] theorem State.bump_nand (s : State) : (s.bump).nand = s.nand := rfl
@[simp] theorem State.bump_store (s : State) : (s.bump).store = s.store := rfl
@[simp] theorem State.bump_nvme (s : State) : (s.bump).nvme = s.nvme := rfl
@[simp] theorem State.bump_peer (s : State) : (s.bump).peer = s.peer := rfl
@[simp] theorem State.bump_errs (s : State) : (s.bump).errs = s.errs := rfl
@[simp] theorem State.bump_ledger (s : State) : (s.bump).ledger = s.ledger := rfl
@[simp] theorem State.bump_mgmt (s : State) : (s.bump).mgmt = s.mgmt := rfl
@[simp] theorem State.bump_host (s : State) : (s.bump).host = s.host := rfl
@[simp] theorem State.bump_nextId (s : State) : (s.bump).nextId = s.nextId + 1 := rfl
@[simp] theorem State.bump_freeCtr (s : State) : (s.bump).freeCtr = s.freeCtr := rfl
@[simp] theorem State.bump_pending (s : State) : (s.bump).pending = s.pending := rfl

/-! ### drawn -/

@[simp] theorem State.drawn_variant (s : State) : (s.drawn).variant = s.variant := rfl
@[simp] theorem State.drawn_power (s : State) : (s.drawn).power = s.power := rfl
@[simp] theorem State.drawn_time (s : State) : (s.drawn).time = s.time := rfl
@[simp] theorem State.drawn_ctxs (s : State) : (s.drawn).ctxs = s.ctxs := rfl
@[simp] theorem State.drawn_cmds (s : State) : (s.drawn).cmds = s.cmds := rfl
@[simp] theorem State.drawn_objs (s : State) : (s.drawn).objs = s.objs := rfl
@[simp] theorem State.drawn_arrays (s : State) : (s.drawn).arrays = s.arrays := rfl
@[simp] theorem State.drawn_parts (s : State) : (s.drawn).parts = s.parts := rfl
@[simp] theorem State.drawn_tests (s : State) : (s.drawn).tests = s.tests := rfl
@[simp] theorem State.drawn_verdicts (s : State) : (s.drawn).verdicts = s.verdicts := rfl
@[simp] theorem State.drawn_verdictCtrs (s : State) : (s.drawn).verdictCtrs = s.verdictCtrs := rfl
@[simp] theorem State.drawn_nand (s : State) : (s.drawn).nand = s.nand := rfl
@[simp] theorem State.drawn_store (s : State) : (s.drawn).store = s.store := rfl
@[simp] theorem State.drawn_nvme (s : State) : (s.drawn).nvme = s.nvme := rfl
@[simp] theorem State.drawn_peer (s : State) : (s.drawn).peer = s.peer := rfl
@[simp] theorem State.drawn_errs (s : State) : (s.drawn).errs = s.errs := rfl
@[simp] theorem State.drawn_ledger (s : State) : (s.drawn).ledger = s.ledger := rfl
@[simp] theorem State.drawn_mgmt (s : State) : (s.drawn).mgmt = s.mgmt := rfl
@[simp] theorem State.drawn_host (s : State) : (s.drawn).host = s.host := rfl
@[simp] theorem State.drawn_nextId (s : State) : (s.drawn).nextId = s.nextId := rfl
@[simp] theorem State.drawn_freeCtr (s : State) : (s.drawn).freeCtr = s.freeCtr + 1 := rfl
@[simp] theorem State.drawn_pending (s : State) : (s.drawn).pending = s.pending := rfl

/-! ### hostWrite -/

@[simp] theorem State.hostWrite_variant (s : State) (a : Nat) (bs : List Byte) : (s.hostWrite a bs).variant = s.variant := rfl
@[simp] theorem State.hostWrite_power (s : State) (a : Nat) (bs : List Byte) : (s.hostWrite a bs).power = s.power := rfl
@[simp] theorem State.hostWrite_time (s : State) (a : Nat) (bs : List Byte) : (s.hostWrite a bs).time = s.time := rfl
@[simp] theorem State.hostWrite_ctxs (s : State) (a : Nat) (bs : List Byte) : (s.hostWrite a bs).ctxs = s.ctxs := rfl
@[simp] theorem State.hostWrite_cmds (s : State) (a : Nat) (bs : List Byte) : (s.hostWrite a bs).cmds = s.cmds := rfl
@[simp] theorem State.hostWrite_objs (s : State) (a : Nat) (bs : List Byte) : (s.hostWrite a bs).objs = s.objs := rfl
@[simp] theorem State.hostWrite_arrays (s : State) (a : Nat) (bs : List Byte) : (s.hostWrite a bs).arrays = s.arrays := rfl
@[simp] theorem State.hostWrite_parts (s : State) (a : Nat) (bs : List Byte) : (s.hostWrite a bs).parts = s.parts := rfl
@[simp] theorem State.hostWrite_tests (s : State) (a : Nat) (bs : List Byte) : (s.hostWrite a bs).tests = s.tests := rfl
@[simp] theorem State.hostWrite_verdicts (s : State) (a : Nat) (bs : List Byte) : (s.hostWrite a bs).verdicts = s.verdicts := rfl
@[simp] theorem State.hostWrite_verdictCtrs (s : State) (a : Nat) (bs : List Byte) : (s.hostWrite a bs).verdictCtrs = s.verdictCtrs := rfl
@[simp] theorem State.hostWrite_nand (s : State) (a : Nat) (bs : List Byte) : (s.hostWrite a bs).nand = s.nand := rfl
@[simp] theorem State.hostWrite_store (s : State) (a : Nat) (bs : List Byte) : (s.hostWrite a bs).store = s.store := rfl
@[simp] theorem State.hostWrite_nvme (s : State) (a : Nat) (bs : List Byte) : (s.hostWrite a bs).nvme = s.nvme := rfl
@[simp] theorem State.hostWrite_peer (s : State) (a : Nat) (bs : List Byte) : (s.hostWrite a bs).peer = s.peer := rfl
@[simp] theorem State.hostWrite_errs (s : State) (a : Nat) (bs : List Byte) : (s.hostWrite a bs).errs = s.errs := rfl
@[simp] theorem State.hostWrite_ledger (s : State) (a : Nat) (bs : List Byte) : (s.hostWrite a bs).ledger = s.ledger := rfl
@[simp] theorem State.hostWrite_mgmt (s : State) (a : Nat) (bs : List Byte) : (s.hostWrite a bs).mgmt = s.mgmt := rfl
@[simp] theorem State.hostWrite_host (s : State) (a : Nat) (bs : List Byte) : (s.hostWrite a bs).host = mwrite s.host a bs := rfl
@[simp] theorem State.hostWrite_nextId (s : State) (a : Nat) (bs : List Byte) : (s.hostWrite a bs).nextId = s.nextId := rfl
@[simp] theorem State.hostWrite_freeCtr (s : State) (a : Nat) (bs : List Byte) : (s.hostWrite a bs).freeCtr = s.freeCtr := rfl
@[simp] theorem State.hostWrite_pending (s : State) (a : Nat) (bs : List Byte) : (s.hostWrite a bs).pending = s.pending := rfl

/-! ### signal -/

@[simp] theorem State.signal_variant (s : State) (fn vec : Nat) : (s.signal fn vec).variant = s.variant := rfl
@[simp] theorem State.signal_power (s : State) (fn vec : Nat) : (s.signal fn vec).power = s.power := rfl
@[simp] theorem State.signal_time (s : State) (fn vec : Nat) : (s.signal fn vec).time = s.time := rfl
@[simp] theorem State.signal_ctxs (s : State) (fn vec : Nat) : (s.signal fn vec).ctxs = s.ctxs := rfl
@[simp] theorem State.signal_cmds (s : State) (fn vec : Nat) : (s.signal fn vec).cmds = s.cmds := rfl
@[simp] theorem State.signal_objs (s : State) (fn vec : Nat) : (s.signal fn vec).objs = s.objs := rfl
@[simp] theorem State.signal_arrays (s : State) (fn vec : Nat) : (s.signal fn vec).arrays = s.arrays := rfl
@[simp] theorem State.signal_parts (s : State) (fn vec : Nat) : (s.signal fn vec).parts = s.parts := rfl
@[simp] theorem State.signal_tests (s : State) (fn vec : Nat) : (s.signal fn vec).tests = s.tests := rfl
@[simp] theorem State.signal_verdicts (s : State) (fn vec : Nat) : (s.signal fn vec).verdicts = s.verdicts := rfl
@[simp] theorem State.signal_verdictCtrs (s : State) (fn vec : Nat) : (s.signal fn vec).verdictCtrs = s.verdictCtrs := rfl
@[simp] theorem State.signal_nand (s : State) (fn vec : Nat) : (s.signal fn vec).nand = s.nand := rfl
@[simp] theorem State.signal_store (s : State) (fn vec : Nat) : (s.signal fn vec).store = s.store := rfl
@[simp] theorem State.signal_nvme (s : State) (fn vec : Nat) : (s.signal fn vec).nvme = s.nvme := rfl
@[simp] theorem State.signal_peer (s : State) (fn vec : Nat) : (s.signal fn vec).peer = s.peer := rfl
@[simp] theorem State.signal_errs (s : State) (fn vec : Nat) : (s.signal fn vec).errs = s.errs := rfl
@[simp] theorem State.signal_ledger (s : State) (fn vec : Nat) : (s.signal fn vec).ledger = s.ledger := rfl
@[simp] theorem State.signal_host (s : State) (fn vec : Nat) : (s.signal fn vec).host = s.host := rfl
@[simp] theorem State.signal_nextId (s : State) (fn vec : Nat) : (s.signal fn vec).nextId = s.nextId := rfl
@[simp] theorem State.signal_freeCtr (s : State) (fn vec : Nat) : (s.signal fn vec).freeCtr = s.freeCtr := rfl
@[simp] theorem State.signal_pending (s : State) (fn vec : Nat) : (s.signal fn vec).pending = s.pending := rfl

/-! ### A record after its own update, and another one after it -/

@[simp] theorem State.ctx_modCtx (s : State) (n : Nat) (f : Context → Context) : (s.modCtx n f).ctx n = f (s.ctx n) :=
  tget_tset_same _ _ _ _
theorem State.ctx_modCtx_other (s : State) {n m : Nat} (f : Context → Context) (h : m ≠ n) : (s.modCtx n f).ctx m = s.ctx m :=
  tget_tset_other _ _ _ h
@[simp] theorem State.arr_modArr (s : State) (n : Nat) (f : ArraySt → ArraySt) : (s.modArr n f).arr n = f (s.arr n) :=
  tget_tset_same _ _ _ _
theorem State.arr_modArr_other (s : State) {n m : Nat} (f : ArraySt → ArraySt) (h : m ≠ n) : (s.modArr n f).arr m = s.arr m :=
  tget_tset_other _ _ _ h
@[simp] theorem State.part_modPart (s : State) (n : Nat) (f : PartSt → PartSt) : (s.modPart n f).part n = f (s.part n) :=
  tget_tset_same _ _ _ _
theorem State.part_modPart_other (s : State) {n m : Nat} (f : PartSt → PartSt) (h : m ≠ n) : (s.modPart n f).part m = s.part m :=
  tget_tset_other _ _ _ h
@[simp] theorem State.region_modRegion (s : State) (n : Nat) (f : Region → Region) : (s.modRegion n f).region n = f (s.region n) :=
  tget_tset_same _ _ _ _
theorem State.region_modRegion_other (s : State) {n m : Nat} (f : Region → Region) (h : m ≠ n) :
    (s.modRegion n f).region m = s.region m := tget_tset_other _ _ _ h
@[simp] theorem State.ctl_modCtl (s : State) (n : Nat) (f : Ctl → Ctl) : (s.modCtl n f).ctl n = f (s.ctl n) :=
  tget_tset_same _ _ _ _
theorem State.ctl_modCtl_other (s : State) {n m : Nat} (f : Ctl → Ctl) (h : m ≠ n) : (s.modCtl n f).ctl m = s.ctl m :=
  tget_tset_other _ _ _ h
@[simp] theorem State.die_modDie (s : State) (n : Nat) (f : DieSt → DieSt) : (s.modDie n f).die n = f (s.die n) :=
  tget_tset_same _ _ _ _
theorem State.die_modDie_other (s : State) {n m : Nat} (f : DieSt → DieSt) (h : m ≠ n) : (s.modDie n f).die m = s.die m :=
  tget_tset_other _ _ _ h
@[simp] theorem State.group_modGroup (s : State) (n : Nat) (f : GroupSt → GroupSt) : (s.modGroup n f).group n = f (s.group n) :=
  tget_tset_same _ _ _ _
theorem State.group_modGroup_other (s : State) {n m : Nat} (f : GroupSt → GroupSt) (h : m ≠ n) :
    (s.modGroup n f).group m = s.group m := tget_tset_other _ _ _ h
@[simp] theorem State.port_modPort (s : State) (n : Nat) (f : Port → Port) : (s.modPort n f).port n = f (s.port n) :=
  tget_tset_same _ _ _ _
theorem State.port_modPort_other (s : State) {n m : Nat} (f : Port → Port) (h : m ≠ n) : (s.modPort n f).port m = s.port m :=
  tget_tset_other _ _ _ h
@[simp] theorem State.obj_setObj (s : State) (o : Nat) (x : ObjectSt) : (s.setObj o x).obj? o = some x := tfind_tset_same _ _ _
theorem State.obj_modObj (s : State) {o : Nat} {x : ObjectSt} (f : ObjectSt → ObjectSt) (h : s.obj? o = some x) :
    (s.modObj o f).obj? o = some (f x) := by
  unfold State.modObj
  rw [h]
  exact tfind_tset_same _ _ _

/-! ### Bytes of host memory -/

/-- A write of host memory keeps its canonical form. -/
theorem State.hostWrite_wf (s : State) (a : Nat) (bs : List Byte) (h : Mem.wf s.host = true) :
    Mem.wf (s.hostWrite a bs).host = true := mwrite_wf a bs h

/-- What was written reads back. -/
theorem State.hostWrite_read (s : State) (a : Nat) (bs : List Byte) (h : Mem.wf s.host = true) :
    mread (s.hostWrite a bs).host a bs.length = bs := mread_mwrite a bs h

/-- Every byte outside the written ones stays. -/
theorem State.hostWrite_other (s : State) (a : Nat) (bs : List Byte) {x : Nat} (h : x < a ∨ a + bs.length ≤ x) :
    mget (s.hostWrite a bs).host x = mget s.host x := mget_mwrite_other _ _ _ h

end Sys2Proof.Machine
end

