-- ==== Sys2Proof/Laws/FrameBase.lean ====
section
/-! SUPPORT. How frames compose: nothing changed, one more update, a fold of updates, a choice of updates. -/

namespace Sys2Proof.Machine

theorem Frame.refl (cs : List Comp) (s : State) : Frame cs s s := by
  refine ⟨fun c _ => ?_⟩
  cases c <;> rfl

theorem Comp.same_trans {c : Comp} {s t u : State} (h : c.same s t) (h' : c.same t u) : c.same s u := by
  cases c <;> exact Eq.trans h' h

/-- Every component of the first list is one of the second. -/
def Comp.within (m cs : List Comp) : Bool := m.all (fun c => cs.contains c)

theorem Comp.within_mem {m cs : List Comp} (h : Comp.within m cs = true) {c : Comp} (hc : c ∈ m) : c ∈ cs := by
  simp only [Comp.within, List.all_eq_true, List.contains_iff_mem] at h
  exact h c hc

theorem Comp.within_trans {a b c : List Comp} (h : Comp.within a b = true) (h' : Comp.within b c = true) :
    Comp.within a c = true := by
  simp only [Comp.within, List.all_eq_true, List.contains_iff_mem] at *
  exact fun x hx => h' x (h x hx)

/-- A further update whose components are among the listed ones. -/
theorem Frame.after {cs m : List Comp} {s t u : State} (h : Frame cs s t) (h' : Frame m t u) (hm : Comp.within m cs = true) : Frame cs s u :=
  ⟨fun c hc => Comp.same_trans (h.same c hc) (h'.same c (fun hx => hc (Comp.within_mem hm hx)))⟩

theorem Frame.mono {cs m : List Comp} {s t : State} (h : Frame m s t) (hm : Comp.within m cs = true) : Frame cs s t :=
  ⟨fun c hc => h.same c (fun hx => hc (Comp.within_mem hm hx))⟩

theorem Frame.foldl {α : Type} {cs : List Comp} {s t : State} {f : State → α → State} (l : List α) (h : Frame cs s t)
    (hf : ∀ (u : State) (x : α), Frame cs s u → Frame cs s (f u x)) : Frame cs s (l.foldl f t) := by
  induction l generalizing t with
  | nil => exact h
  | cons x l ih => exact ih (hf t x h)

theorem Frame.foldr {α : Type} {cs : List Comp} {s t : State} {f : α → State → State} (l : List α) (h : Frame cs s t)
    (hf : ∀ (u : State) (x : α), Frame cs s u → Frame cs s (f x u)) : Frame cs s (l.foldr f t) := by
  induction l with
  | nil => exact h
  | cons x l ih => exact hf _ x ih

theorem Frame.getD {cs : List Comp} {s t : State} {o : Option State} (h : Frame cs s t)
    (ho : ∀ u : State, o = some u → Frame cs s u) : Frame cs s (o.getD t) := by
  cases o with
  | none => exact h
  | some u => exact ho u rfl

theorem Frame.tryAll {α : Type} {cs : List Comp} {s t u : State} {f : State → α → Option State} {l : List α} (h : Frame cs s t)
    (hf : ∀ (v w : State) (x : α), Frame cs s v → f v x = some w → Frame cs s w) (hu : tryAll f l t = some u) : Frame cs s u := by
  induction l generalizing t with
  | nil =>
    obtain rfl := Option.some.inj hu
    exact h
  | cons x l ih =>
    unfold Machine.tryAll at hu
    split at hu
    · cases hu
    · exact ih (hf _ _ _ h (by assumption)) hu

theorem Frame.ite {cs : List Comp} {s t u : State} {p : Prop} [Decidable p] (h : Frame cs s t) (h' : Frame cs s u) :
    Frame cs s (if p then t else u) := by
  split <;> assumption

/-- A further update, told component by component. -/
theorem Frame.upd {cs : List Comp} {s t u : State} (h : Frame cs s t) (h' : ∀ c : Comp, c ∉ cs → c.same t u) : Frame cs s u :=
  ⟨fun c hc => Comp.same_trans (h.same c hc) (h' c hc)⟩

end Sys2Proof.Machine
end

