-- ==== Sys2Proof/Laws/FrameOps.lean ====
section
/-! SUPPORT. One frame per shared operation: which components of the state it can change at all. -/

namespace Sys2Proof.Machine

theorem State.modTests_frame (s : State) (f : List TestSt → List TestSt) :
    Frame [.tests] s (State.modTests s f) := by
  unfold State.modTests
  exact ⟨fun c hc => by cases c <;> first | rfl | exact absurd (by decide) hc⟩

theorem State.modErrs_frame (s : State) (f : ErrSt → ErrSt) :
    Frame [.errs] s (State.modErrs s f) := by
  unfold State.modErrs
  exact ⟨fun c hc => by cases c <;> first | rfl | exact absurd (by decide) hc⟩

theorem State.modMgmt_frame (s : State) (f : MgmtSt → MgmtSt) :
    Frame [.mgmt] s (State.modMgmt s f) := by
  unfold State.modMgmt
  exact ⟨fun c hc => by cases c <;> first | rfl | exact absurd (by decide) hc⟩

theorem State.signal_frame (s : State) (fn : Nat) (vec : Nat) :
    Frame [.mgmt] s (State.signal s fn vec) := by
  unfold State.signal
  refine Frame.after ?_ (State.modMgmt_frame _ _) rfl
  exact Frame.refl _ _

theorem State.raiseNew_frame (s : State) :
    Frame [.errs, .mgmt] s (State.raiseNew s) := by
  unfold State.raiseNew
  extract_lets
  refine Frame.ite ?_ ?_
  · refine Frame.after ?_ (State.signal_frame _ _ _) rfl
    refine Frame.after ?_ (State.modErrs_frame _ _) rfl
    exact Frame.refl _ _
  · refine Frame.after ?_ (State.modErrs_frame _ _) rfl
    exact Frame.refl _ _

theorem State.logErr_frame (s : State) (x1 : ErrArg) :
    Frame [.errs, .mgmt] s (State.logErr s x1) := by
  unfold State.logErr
  extract_lets
  refine Frame.ite ?_ ?_
  · refine Frame.after ?_ (State.modErrs_frame _ _) rfl
    exact Frame.refl _ _
  · refine Frame.ite ?_ ?_
    · refine Frame.after ?_ (State.modErrs_frame _ _) rfl
      exact Frame.refl _ _
    · refine Frame.after ?_ (State.raiseNew_frame _) rfl
      refine Frame.after ?_ (State.modErrs_frame _ _) rfl
      exact Frame.refl _ _

theorem State.logVerdict_frame (s : State) (t : TestSt) (kind : Nat) :
    Frame [.errs, .mgmt] s (State.logVerdict s t kind) := by
  unfold State.logVerdict
  refine Frame.after ?_ (State.logErr_frame _ _) rfl
  exact Frame.refl _ _

theorem State.abandonTests_frame (s : State) (f : TestSt → Bool) :
    Frame [.tests, .errs, .mgmt] s (State.abandonTests s f) := by
  unfold State.abandonTests
  extract_lets
  refine Frame.foldl _ ?_ (fun u x hu => ?_)
  · refine Frame.after ?_ (State.modTests_frame _ _) rfl
    exact Frame.refl _ _
  · refine Frame.after ?_ (State.logVerdict_frame _ _ _) rfl
    assumption

theorem State.modNvme_frame (s : State) (f : NvmeSt → NvmeSt) :
    Frame [.nvme] s (State.modNvme s f) := by
  unfold State.modNvme
  exact ⟨fun c hc => by cases c <;> first | rfl | exact absurd (by decide) hc⟩

theorem State.modCtl_frame (s : State) (fn : Nat) (f : Ctl → Ctl) :
    Frame [.nvme] s (State.modCtl s fn f) := by
  unfold State.modCtl
  refine Frame.after ?_ (State.modNvme_frame _ _) rfl
  exact Frame.refl _ _

theorem State.nvmeIrq_frame (s : State) (fn : Nat) (sqid : Nat) :
    Frame [.mgmt] s (State.nvmeIrq s fn sqid) := by
  unfold State.nvmeIrq
  refine Frame.ite ?_ ?_
  · refine Frame.after ?_ (State.signal_frame _ _ _) rfl
    exact Frame.refl _ _
  · split
    · exact Frame.refl _ _
    · split
      · exact Frame.refl _ _
      · refine Frame.ite ?_ ?_
        · refine Frame.after ?_ (State.signal_frame _ _ _) rfl
          exact Frame.refl _ _
        · exact Frame.refl _ _

theorem State.cpl_frame (s : State) (c : NvmeCpl) :
    Frame [.nvme, .mgmt] s (State.cpl s c) := by
  unfold State.cpl
  refine Frame.after ?_ (State.nvmeIrq_frame _ _ _) rfl
  refine Frame.after ?_ (State.modNvme_frame _ _) rfl
  exact Frame.refl _ _

theorem State.asyncEvent_frame (s : State) (fn : Nat) (dw0 : Nat) :
    Frame [.nvme, .mgmt] s (State.asyncEvent s fn dw0) := by
  unfold State.asyncEvent
  split
  · refine Frame.after ?_ (State.modCtl_frame _ _ _) rfl
    exact Frame.refl _ _
  · refine Frame.after ?_ (State.cpl_frame _ _) rfl
    refine Frame.after ?_ (State.modCtl_frame _ _ _) rfl
    exact Frame.refl _ _

theorem State.abortAdd_frame (s : State) (fn : Nat) (es : List AbortEnt) :
    Frame [.nvme, .mgmt] s (State.abortAdd s fn es) := by
  unfold State.abortAdd
  refine Frame.ite ?_ ?_
  · exact Frame.refl _ _
  · refine Frame.after ?_ (State.asyncEvent_frame _ _ _) rfl
    refine Frame.after ?_ (State.modCtl_frame _ _ _) rfl
    exact Frame.refl _ _

theorem State.dropNvme_frame (s : State) (f : NvmeHdr → Bool) :
    Frame [.nvme] s (State.dropNvme s f) := by
  unfold State.dropNvme
  refine Frame.after ?_ (State.modNvme_frame _ _) rfl
  exact Frame.refl _ _

theorem State.abortFn_frame (s : State) (fn : Nat) (reason : Nat) :
    Frame [.nvme, .mgmt] s (State.abortFn s fn reason) := by
  unfold State.abortFn
  extract_lets
  refine Frame.after ?_ (State.abortAdd_frame _ _ _) rfl
  refine Frame.after ?_ (State.dropNvme_frame _ _) rfl
  exact Frame.refl _ _

theorem State.setCtx_frame (s : State) (n : Nat) (c : Context) :
    Frame [.ctxs] s (State.setCtx s n c) := by
  unfold State.setCtx
  exact ⟨fun c hc => by cases c <;> first | rfl | exact absurd (by decide) hc⟩

theorem State.modCtx_frame (s : State) (n : Nat) (f : Context → Context) :
    Frame [.ctxs] s (State.modCtx s n f) := by
  unfold State.modCtx
  refine Frame.after ?_ (State.setCtx_frame _ _ _) rfl
  exact Frame.refl _ _

theorem State.logViol_frame (s : State) (x1 : ErrArg) :
    Frame [.ctxs, .errs, .mgmt] s (State.logViol s x1) := by
  unfold State.logViol
  refine Frame.after ?_ (State.modCtx_frame _ _ _) rfl
  refine Frame.after ?_ (State.logErr_frame _ _) rfl
  exact Frame.refl _ _

theorem State.modPeer_frame (s : State) (f : PeerSt → PeerSt) :
    Frame [.peer] s (State.modPeer s f) := by
  unfold State.modPeer
  exact ⟨fun c hc => by cases c <;> first | rfl | exact absurd (by decide) hc⟩

theorem State.sendMsg_frame (s : State) (m : PeerMsg) :
    Frame [.peer] s (State.sendMsg s m) := by
  unfold State.sendMsg
  refine Frame.after ?_ (State.modPeer_frame _ _) rfl
  exact Frame.refl _ _

theorem State.sendAll_frame (s : State) (kind : Nat) (opId : Nat) (off : Nat) (payload : List Byte) :
    Frame [.peer] s (State.sendAll s kind opId off payload) := by
  unfold State.sendAll
  refine Frame.foldl _ ?_ (fun u x hu => ?_)
  · exact Frame.refl _ _
  · refine Frame.after ?_ (State.sendMsg_frame _ _) rfl
    assumption

theorem State.endOps_frame (s : State) (uids : List Nat) (status : Nat) :
    Frame [.peer] s (State.endOps s uids status) := by
  unfold State.endOps
  extract_lets
  refine Frame.foldl _ ?_ (fun u x hu => ?_)
  · refine Frame.after ?_ (State.modPeer_frame _ _) rfl
    exact Frame.refl _ _
  · refine Frame.after ?_ (State.sendAll_frame _ _ _ _ _) rfl
    assumption

theorem State.drawn_frame (s : State) :
    Frame [.freeCtr] s (State.drawn s) := by
  unfold State.drawn
  exact ⟨fun c hc => by cases c <;> first | rfl | exact absurd (by decide) hc⟩

theorem State.setObj_frame (s : State) (o : Nat) (x : ObjectSt) :
    Frame [.objs] s (State.setObj s o x) := by
  unfold State.setObj
  exact ⟨fun c hc => by cases c <;> first | rfl | exact absurd (by decide) hc⟩

theorem State.modObj_frame (s : State) (o : Nat) (f : ObjectSt → ObjectSt) :
    Frame [.objs] s (State.modObj s o f) := by
  unfold State.modObj
  split
  · exact Frame.refl _ _
  · refine Frame.after ?_ (State.setObj_frame _ _ _) rfl
    exact Frame.refl _ _

theorem State.markUndef_frame (s : State) (o : Nat) (off : Nat) (len : Nat) :
    Frame [.objs, .freeCtr] s (State.markUndef s o off len) := by
  unfold State.markUndef
  refine Frame.ite ?_ ?_
  · exact Frame.refl _ _
  · refine Frame.after ?_ (State.drawn_frame _) rfl
    refine Frame.after ?_ (State.modObj_frame _ _ _) rfl
    exact Frame.refl _ _

theorem State.markAll_frame (s : State) (rs : List (Nat × Nat × Nat)) :
    Frame [.objs, .freeCtr] s (State.markAll s rs) := by
  unfold State.markAll
  refine Frame.foldl _ ?_ (fun u x hu => ?_)
  · exact Frame.refl _ _
  · refine Frame.after ?_ (State.markUndef_frame _ _ _ _) rfl
    assumption

theorem State.modArrays_frame (s : State) (f : Table ArraySt → Table ArraySt) :
    Frame [.arrays] s (State.modArrays s f) := by
  unfold State.modArrays
  exact ⟨fun c hc => by cases c <;> first | rfl | exact absurd (by decide) hc⟩

theorem State.modNand_frame (s : State) (f : NandSt → NandSt) :
    Frame [.nand] s (State.modNand s f) := by
  unfold State.modNand
  exact ⟨fun c hc => by cases c <;> first | rfl | exact absurd (by decide) hc⟩

theorem State.dropWork_frame (s : State) (uids : List Nat) :
    Frame [.arrays, .nand] s (State.dropWork s uids) := by
  unfold State.dropWork
  extract_lets
  refine Frame.after ?_ (State.modNand_frame _ _) rfl
  refine Frame.after ?_ (State.modArrays_frame _ _) rfl
  exact Frame.refl _ _

theorem State.modCmds_frame (s : State) (f : List Cmd → List Cmd) :
    Frame [.cmds] s (State.modCmds s f) := by
  unfold State.modCmds
  exact ⟨fun c hc => by cases c <;> first | rfl | exact absurd (by decide) hc⟩

theorem State.loseCmds_frame (s : State) (cs : List Cmd) :
    Frame [.cmds, .objs, .arrays, .nand, .peer, .freeCtr] s (State.loseCmds s cs) := by
  unfold State.loseCmds
  extract_lets
  refine Frame.after ?_ (State.modPeer_frame _ _) rfl
  refine Frame.after ?_ (State.modCmds_frame _ _) rfl
  refine Frame.after ?_ (State.dropWork_frame _ _) rfl
  refine Frame.foldl _ ?_ (fun u x hu => ?_)
  · exact Frame.refl _ _
  · refine Frame.ite ?_ ?_
    · refine Frame.after ?_ (State.markAll_frame _ _) rfl
      assumption
    · assumption

theorem State.signalEvent_frame (s : State) (e : Entry) (bad : Bool) :
    Frame [.ctxs] s (State.signalEvent s e bad) := by
  unfold State.signalEvent
  refine Frame.ite ?_ ?_
  · split
    · exact Frame.refl _ _
    · extract_lets
      refine Frame.after ?_ (State.modCtx_frame _ _ _) rfl
      exact Frame.refl _ _
  · exact Frame.refl _ _

theorem State.modCmd_frame (s : State) (uid : Nat) (f : Cmd → Cmd) :
    Frame [.cmds] s (State.modCmd s uid f) := by
  unfold State.modCmd
  refine Frame.after ?_ (State.modCmds_frame _ _) rfl
  exact Frame.refl _ _

theorem State.bumpBy_frame (s : State) (n : Nat) :
    Frame [.nextId] s (State.bumpBy s n) := by
  unfold State.bumpBy
  exact ⟨fun c hc => by cases c <;> first | rfl | exact absurd (by decide) hc⟩

theorem State.bump_frame (s : State) :
    Frame [.nextId] s (State.bump s) := by
  unfold State.bump
  refine Frame.after ?_ (State.bumpBy_frame _ _) rfl
  exact Frame.refl _ _

theorem State.conclude_frame (s : State) (uid : Nat) (st : Nat) (dw0 : Nat) (dw1 : Nat) :
    Frame [.ctxs, .cmds, .objs, .arrays, .nand, .nvme, .peer, .mgmt, .nextId, .freeCtr] s (State.conclude s uid st dw0 dw1) := by
  unfold State.conclude
  split
  · exact Frame.refl _ _
  · refine Frame.ite ?_ ?_
    · exact Frame.refl _ _
    · refine Frame.ite ?_ ?_
      · extract_lets
        refine Frame.after ?_ (State.loseCmds_frame _ _) rfl
        refine Frame.after ?_ (State.abortAdd_frame _ _ _) rfl
        refine Frame.after ?_ (State.endOps_frame _ _ _) rfl
        exact Frame.refl _ _
      · extract_lets
        refine Frame.after ?_ (State.modPeer_frame _ _) rfl
        refine Frame.after ?_ (State.bump_frame _) rfl
        refine Frame.after ?_ (State.modCmd_frame _ _ _) rfl
        refine Frame.after ?_ (State.dropWork_frame _ _) rfl
        refine Frame.after ?_ (State.signalEvent_frame _ _ _) rfl
        refine Frame.ite ?_ ?_
        · refine Frame.after ?_ (State.markAll_frame _ _) rfl
          refine Frame.ite ?_ ?_
          · refine Frame.after ?_ (State.endOps_frame _ _ _) rfl
            exact Frame.refl _ _
          · exact Frame.refl _ _
        · refine Frame.ite ?_ ?_
          · refine Frame.after ?_ (State.endOps_frame _ _ _) rfl
            exact Frame.refl _ _
          · exact Frame.refl _ _

theorem State.concludeAll_frame (s : State) (f : Cmd → Bool) (st : Nat) :
    Frame [.ctxs, .cmds, .objs, .arrays, .nand, .nvme, .peer, .mgmt, .nextId, .freeCtr] s (State.concludeAll s f st) := by
  unfold State.concludeAll
  refine Frame.foldl _ ?_ (fun u x hu => ?_)
  · exact Frame.refl _ _
  · refine Frame.after ?_ (State.conclude_frame _ _ _ _ _) rfl
    assumption

theorem State.modStore_frame (s : State) (f : StoreSt → StoreSt) :
    Frame [.store] s (State.modStore s f) := by
  unfold State.modStore
  exact ⟨fun c hc => by cases c <;> first | rfl | exact absurd (by decide) hc⟩

theorem State.modObjs_frame (s : State) (f : Table ObjectSt → Table ObjectSt) :
    Frame [.objs] s (State.modObjs s f) := by
  unfold State.modObjs
  exact ⟨fun c hc => by cases c <;> first | rfl | exact absurd (by decide) hc⟩

theorem State.destroyObj_frame (s : State) (o : Nat) :
    Frame [.objs, .store] s (State.destroyObj s o) := by
  unfold State.destroyObj
  split
  · exact Frame.refl _ _
  · extract_lets
    refine Frame.after ?_ (State.modStore_frame _ _) rfl
    refine Frame.after ?_ (State.modObjs_frame _ _) rfl
    exact Frame.refl _ _

theorem State.collect_frame (s : State) (o : Nat) :
    Frame [.objs, .store] s (State.collect s o) := by
  unfold State.collect
  split
  · exact Frame.refl _ _
  · refine Frame.ite ?_ ?_
    · refine Frame.after ?_ (State.destroyObj_frame _ _) rfl
      exact Frame.refl _ _
    · exact Frame.refl _ _

theorem State.reap_frame (s : State) (ctx : Nat) :
    Frame [.ctxs, .objs, .store] s (State.reap s ctx) := by
  unfold State.reap
  extract_lets
  refine Frame.foldl _ ?_ (fun u x hu => ?_)
  · refine Frame.after ?_ (State.modCtx_frame _ _ _) rfl
    exact Frame.refl _ _
  · refine Frame.after ?_ (State.collect_frame _ _) rfl
    assumption

theorem State.drainAll_frame (s : State) (ctx : Nat) :
    Frame [.ctxs] s (State.drainAll s ctx) := by
  unfold State.drainAll
  refine Frame.after ?_ (State.modCtx_frame _ _ _) rfl
  exact Frame.refl _ _

theorem State.modParts_frame (s : State) (f : Table PartSt → Table PartSt) :
    Frame [.parts] s (State.modParts s f) := by
  unfold State.modParts
  exact ⟨fun c hc => by cases c <;> first | rfl | exact absurd (by decide) hc⟩

theorem State.releaseJob_frame (s : State) (ctx : Nat) :
    Frame [.parts] s (State.releaseJob s ctx) := by
  unfold State.releaseJob
  refine Frame.after ?_ (State.modParts_frame _ _) rfl
  exact Frame.refl _ _

theorem State.faultCtx_frame (s : State) (ctx : Nat) (cls : Nat) (addr : Nat) (status : Nat) (queue : Nat) (cid : Nat) :
    Frame [.ctxs, .cmds, .objs, .arrays, .parts, .nand, .store, .nvme, .peer, .errs, .mgmt, .nextId, .freeCtr] s (State.faultCtx s ctx cls addr status queue cid) := by
  unfold State.faultCtx
  extract_lets
  refine Frame.ite ?_ ?_
  · refine Frame.after ?_ (State.reap_frame _ _) rfl
    refine Frame.after ?_ (State.drainAll_frame _ _) rfl
    refine Frame.after ?_ (State.releaseJob_frame _ _) rfl
    refine Frame.after ?_ (State.concludeAll_frame _ _ _) rfl
    refine Frame.after ?_ (State.endOps_frame _ _ _) rfl
    refine Frame.after ?_ (State.modCtx_frame _ _ _) rfl
    refine Frame.after ?_ (State.logViol_frame _ _) rfl
    exact Frame.refl _ _
  · refine Frame.after ?_ (State.logViol_frame _ _) rfl
    exact Frame.refl _ _

theorem State.checkHead_frame (s : State) (ctx : Nat) (q : Nat) :
    Frame [.ctxs, .cmds, .objs, .arrays, .parts, .nand, .store, .nvme, .peer, .errs, .mgmt, .nextId, .freeCtr] s (State.checkHead s ctx q) := by
  unfold State.checkHead
  split
  · exact Frame.refl _ _
  · split
    · exact Frame.refl _ _
    · refine Frame.ite ?_ ?_
      · refine Frame.after ?_ (State.faultCtx_frame _ _ _ _ _ _ _) rfl
        exact Frame.refl _ _
      · exact Frame.refl _ _

theorem State.checkHeads_frame (s : State) (ctx : Nat) :
    Frame [.ctxs, .cmds, .objs, .arrays, .parts, .nand, .store, .nvme, .peer, .errs, .mgmt, .nextId, .freeCtr] s (State.checkHeads s ctx) := by
  unfold State.checkHeads
  refine Frame.foldl _ ?_ (fun u x hu => ?_)
  · exact Frame.refl _ _
  · refine Frame.after ?_ (State.checkHead_frame _ _ _) rfl
    assumption

theorem State.recheck_frame (s : State) :
    Frame [.ctxs, .cmds, .objs, .arrays, .parts, .nand, .store, .nvme, .peer, .errs, .mgmt, .nextId, .freeCtr] s (State.recheck s) := by
  unfold State.recheck
  refine Frame.foldl _ ?_ (fun u x hu => ?_)
  · exact Frame.refl _ _
  · refine Frame.after ?_ (State.checkHeads_frame _ _) rfl
    assumption

theorem State.finishBody_frame (c : Cmd) (r : BodyOut) :
    Frame [.ctxs, .cmds, .objs, .arrays, .parts, .nand, .store, .nvme, .peer, .errs, .mgmt, .nextId, .freeCtr] r.1 (State.finishBody c r) := by
  unfold State.finishBody
  split
  · exact Frame.refl _ _
  · extract_lets
    refine Frame.ite ?_ ?_
    · refine Frame.after ?_ (State.faultCtx_frame _ _ _ _ _ _ _) rfl
      refine Frame.after ?_ (State.conclude_frame _ _ _ _ _) rfl
      exact Frame.refl _ _
    · refine Frame.after ?_ (State.conclude_frame _ _ _ _ _) rfl
      exact Frame.refl _ _

theorem ends_frame (s : State) (st : Nat) :
    Frame [] s (ends s st).1 := by
  unfold ends
  dsimp only
  exact Frame.refl _ _

theorem doQueueCreate_frame (s : State) (ctx : Nat) (q : Nat) (cls : Nat) (n : Nat) (vec : Nat) (sq : Nat) (cq : Nat) (colo : Nat) :
    Frame [.ctxs] s (doQueueCreate s ctx q cls n vec sq cq colo).1 := by
  unfold doQueueCreate
  extract_lets
  split
  · refine Frame.after ?_ (ends_frame _ _) rfl
    exact Frame.refl _ _
  · split
    · refine Frame.after ?_ (ends_frame _ _) rfl
      exact Frame.refl _ _
    · split
      · refine Frame.after ?_ (ends_frame _ _) rfl
        exact Frame.refl _ _
      · split
        · refine Frame.after ?_ (ends_frame _ _) rfl
          exact Frame.refl _ _
        · refine Frame.after ?_ (ends_frame _ _) rfl
          refine Frame.after ?_ (State.modCtx_frame _ _ _) rfl
          exact Frame.refl _ _

theorem doQueueDestroy_frame (s : State) (ctx : Nat) (q : Nat) :
    Frame [.ctxs] s (doQueueDestroy s ctx q).1 := by
  unfold doQueueDestroy
  split
  · refine Frame.after ?_ (ends_frame _ _) rfl
    exact Frame.refl _ _
  · split
    · refine Frame.after ?_ (ends_frame _ _) rfl
      exact Frame.refl _ _
    · extract_lets
      dsimp only
      refine Frame.after ?_ (State.modCtx_frame _ _ _) rfl
      exact Frame.refl _ _

theorem State.mapObj_frame (s : State) (ctx : Nat) (h : Nat) (o : Nat) (rights : Nat) :
    Frame [.ctxs] s (State.mapObj s ctx h o rights) := by
  unfold State.mapObj
  extract_lets
  refine Frame.after ?_ (State.modCtx_frame _ _ _) rfl
  exact Frame.refl _ _

theorem doObjCreate_frame (s : State) (ctx : Nat) (oid : Nat) (pages : Nat) (word : Nat) (kind : Nat) (h : Nat) (l : Nat) (p : Nat) (d : Nat) :
    Frame [.ctxs, .objs, .nextId] s (doObjCreate s ctx oid pages word kind h l p d).1 := by
  unfold doObjCreate
  extract_lets
  split
  · refine Frame.after ?_ (ends_frame _ _) rfl
    exact Frame.refl _ _
  · split
    · refine Frame.after ?_ (ends_frame _ _) rfl
      exact Frame.refl _ _
    · split
      · refine Frame.after ?_ (ends_frame _ _) rfl
        exact Frame.refl _ _
      · dsimp only
        refine Frame.after ?_ (State.mapObj_frame _ _ _ _ _) rfl
        refine Frame.after ?_ (State.bump_frame _) rfl
        refine Frame.after ?_ (State.setObj_frame _ _ _) rfl
        exact Frame.refl _ _

theorem doObjOpen_frame (s : State) (ctx : Nat) (oid : Nat) (rights : Nat) :
    Frame [.ctxs] s (doObjOpen s ctx oid rights).1 := by
  unfold doObjOpen
  split
  · refine Frame.after ?_ (ends_frame _ _) rfl
    exact Frame.refl _ _
  · extract_lets
    split
    · refine Frame.after ?_ (ends_frame _ _) rfl
      exact Frame.refl _ _
    · split
      · refine Frame.after ?_ (ends_frame _ _) rfl
        exact Frame.refl _ _
      · split
        · refine Frame.after ?_ (ends_frame _ _) rfl
          exact Frame.refl _ _
        · dsimp only
          refine Frame.after ?_ (State.mapObj_frame _ _ _ _ _) rfl
          exact Frame.refl _ _

theorem doObjShare_frame (s : State) (ctx : Nat) (h : Nat) (grantee : Nat) (rights : Nat) :
    Frame [.objs] s (doObjShare s ctx h grantee rights).1 := by
  unfold doObjShare
  split
  · refine Frame.after ?_ (ends_frame _ _) rfl
    exact Frame.refl _ _
  · split
    · refine Frame.after ?_ (ends_frame _ _) rfl
      exact Frame.refl _ _
    · split
      · refine Frame.after ?_ (ends_frame _ _) rfl
        exact Frame.refl _ _
      · refine Frame.after ?_ (ends_frame _ _) rfl
        refine Frame.after ?_ (State.modObj_frame _ _ _) rfl
        exact Frame.refl _ _

theorem doObjUnshare_frame (s : State) (ctx : Nat) (h : Nat) (grantee : Nat) :
    Frame [.objs] s (doObjUnshare s ctx h grantee).1 := by
  unfold doObjUnshare
  split
  · refine Frame.after ?_ (ends_frame _ _) rfl
    exact Frame.refl _ _
  · split
    · refine Frame.after ?_ (ends_frame _ _) rfl
      exact Frame.refl _ _
    · refine Frame.after ?_ (ends_frame _ _) rfl
      refine Frame.after ?_ (State.modObj_frame _ _ _) rfl
      exact Frame.refl _ _

theorem doObjRetain_frame (s : State) (ctx : Nat) (h : Nat) :
    Frame [.ctxs] s (doObjRetain s ctx h).1 := by
  unfold doObjRetain
  split
  · refine Frame.after ?_ (ends_frame _ _) rfl
    exact Frame.refl _ _
  · split
    · refine Frame.after ?_ (ends_frame _ _) rfl
      exact Frame.refl _ _
    · split
      · refine Frame.after ?_ (ends_frame _ _) rfl
        exact Frame.refl _ _
      · dsimp only
        refine Frame.after ?_ (State.modCtx_frame _ _ _) rfl
        exact Frame.refl _ _

theorem doObjRelease_frame (s : State) (ctx : Nat) (h : Nat) (destroy : Bool) :
    Frame [.ctxs, .objs] s (doObjRelease s ctx h destroy).1 := by
  unfold doObjRelease
  split
  · refine Frame.after ?_ (ends_frame _ _) rfl
    exact Frame.refl _ _
  · split
    · refine Frame.after ?_ (ends_frame _ _) rfl
      exact Frame.refl _ _
    · split
      · refine Frame.after ?_ (ends_frame _ _) rfl
        exact Frame.refl _ _
      · extract_lets
        dsimp only
        refine Frame.ite ?_ ?_
        · refine Frame.after ?_ (State.modObj_frame _ _ _) rfl
          refine Frame.after ?_ (State.modCtx_frame _ _ _) rfl
          exact Frame.refl _ _
        · refine Frame.after ?_ (State.modCtx_frame _ _ _) rfl
          exact Frame.refl _ _

theorem doObjPlace_frame (s : State) (ctx : Nat) (h : Nat) (word : Nat) :
    Frame [.objs] s (doObjPlace s ctx h word).1 := by
  unfold doObjPlace
  split
  · refine Frame.after ?_ (ends_frame _ _) rfl
    exact Frame.refl _ _
  · split
    · refine Frame.after ?_ (ends_frame _ _) rfl
      exact Frame.refl _ _
    · refine Frame.after ?_ (ends_frame _ _) rfl
      refine Frame.after ?_ (State.modObj_frame _ _ _) rfl
      exact Frame.refl _ _

theorem State.hostWrite_frame (s : State) (addr : Nat) (bs : List Byte) :
    Frame [.host] s (State.hostWrite s addr bs) := by
  unfold State.hostWrite
  exact ⟨fun c hc => by cases c <;> first | rfl | exact absurd (by decide) hc⟩

theorem doObjQuery_frame (s : State) (ctx : Nat) (h : Nat) (buf : Nat) :
    Frame [.host] s (doObjQuery s ctx h buf).1 := by
  unfold doObjQuery
  split
  · refine Frame.after ?_ (ends_frame _ _) rfl
    exact Frame.refl _ _
  · split
    · refine Frame.after ?_ (ends_frame _ _) rfl
      exact Frame.refl _ _
    · extract_lets
      refine Frame.after ?_ (ends_frame _ _) rfl
      refine Frame.after ?_ (State.hostWrite_frame _ _ _) rfl
      exact Frame.refl _ _

theorem doEventCreate_frame (s : State) (ctx : Nat) (ev : Nat) (value : Nat) :
    Frame [.ctxs] s (doEventCreate s ctx ev value).1 := by
  unfold doEventCreate
  split
  · refine Frame.after ?_ (ends_frame _ _) rfl
    exact Frame.refl _ _
  · refine Frame.after ?_ (ends_frame _ _) rfl
    refine Frame.after ?_ (State.modCtx_frame _ _ _) rfl
    exact Frame.refl _ _

theorem doEventDestroy_frame (s : State) (ctx : Nat) (ev : Nat) :
    Frame [.ctxs] s (doEventDestroy s ctx ev).1 := by
  unfold doEventDestroy
  split
  · refine Frame.after ?_ (ends_frame _ _) rfl
    exact Frame.refl _ _
  · refine Frame.after ?_ (ends_frame _ _) rfl
    refine Frame.after ?_ (State.modCtx_frame _ _ _) rfl
    exact Frame.refl _ _

theorem doEventClear_frame (s : State) (ctx : Nat) (ev : Nat) :
    Frame [.ctxs] s (doEventClear s ctx ev).1 := by
  unfold doEventClear
  split
  · refine Frame.after ?_ (ends_frame _ _) rfl
    exact Frame.refl _ _
  · split
    · refine Frame.after ?_ (ends_frame _ _) rfl
      exact Frame.refl _ _
    · dsimp only
      refine Frame.after ?_ (State.modCtx_frame _ _ _) rfl
      exact Frame.refl _ _

theorem doInstall_frame (s : State) (uid : Nat) (ctx : Nat) (oid : Nat) (addr : Nat) (length : Nat) (image : List Byte) :
    Frame [.store] s (doInstall s uid ctx oid addr length image).1 := by
  unfold doInstall
  split
  · refine Frame.after ?_ (ends_frame _ _) rfl
    exact Frame.refl _ _
  · split
    · refine Frame.after ?_ (ends_frame _ _) rfl
      exact Frame.refl _ _
    · extract_lets
      split
      · dsimp only
        exact Frame.refl _ _
      · split
        · refine Frame.after ?_ (ends_frame _ _) rfl
          exact Frame.refl _ _
        · split
          · refine Frame.after ?_ (ends_frame _ _) rfl
            exact Frame.refl _ _
          · dsimp only
            refine Frame.after ?_ (State.modStore_frame _ _) rfl
            exact Frame.refl _ _

theorem doPriority_frame (s : State) (uid : Nat) (ctx : Nat) (q : Nat) (cls : Nat) (cid : Nat) :
    Frame [.cmds, .arrays] s (doPriority s uid ctx q cls cid).1 := by
  unfold doPriority
  split
  · refine Frame.after ?_ (ends_frame _ _) rfl
    exact Frame.refl _ _
  · split
    · dsimp only
      exact Frame.refl _ _
    · extract_lets
      split
      · dsimp only
        exact Frame.refl _ _
      · split
        · refine Frame.after ?_ (ends_frame _ _) rfl
          exact Frame.refl _ _
        · split
          · refine Frame.after ?_ (ends_frame _ _) rfl
            exact Frame.refl _ _
          · split
            · refine Frame.after ?_ (ends_frame _ _) rfl
              exact Frame.refl _ _
            · dsimp only
              refine Frame.ite ?_ ?_
              · refine Frame.after ?_ (State.modArrays_frame _ _) rfl
                refine Frame.after ?_ (State.modCmd_frame _ _ _) rfl
                exact Frame.refl _ _
              · refine Frame.after ?_ (State.modCmd_frame _ _ _) rfl
                exact Frame.refl _ _

theorem doJobEnd_frame (s : State) (ctx : Nat) :
    Frame [.parts] s (doJobEnd s ctx).1 := by
  unfold doJobEnd
  split
  · dsimp only
    refine Frame.after ?_ (State.releaseJob_frame _ _) rfl
    exact Frame.refl _ _
  · refine Frame.after ?_ (ends_frame _ _) rfl
    exact Frame.refl _ _

theorem State.dropCopies_frame (s : State) (parts : List Nat) (specOnly : Bool) :
    Frame [.objs] s (State.dropCopies s parts specOnly) := by
  unfold State.dropCopies
  refine Frame.after ?_ (State.modObjs_frame _ _) rfl
  exact Frame.refl _ _

theorem State.evict_frame (s : State) (parts : List Nat) (tier : Nat) (die : Nat) (t : State) :
    State.evict s parts tier die = some t → Frame [.objs] s t := by
  intro h
  obtain ⟨v, -, rfl⟩ := Option.map_eq_some_iff.mp h
  exact (State.modObj_frame _ _ _).mono rfl

theorem State.evictFor_frame (s : State) (parts : List Nat) (w : Nat) (page : Nat) :
    ∀ t, State.evictFor s parts w page = some t → Frame [.objs] s t.1 := by
  intro t h
  obtain ⟨k, -, hk⟩ := List.exists_of_findSome?_eq_some h
  obtain ⟨d, -, hd⟩ := List.exists_of_findSome?_eq_some hk
  split at hd
  · rename_i s' hs
    split at hd
    · obtain rfl := Option.some.inj hd
      exact State.evict_frame _ _ _ _ _ hs
    · cases hd
  · cases hd

theorem State.backPage_frame (s : State) (o : Nat) (page : Nat) (t : State) :
    State.backPage s o page = some t → Frame [.objs] s t := by
  intro h
  unfold State.backPage at h
  split at h
  · cases h
  · rename_i x hx
    have hp : ∀ (u : State) (td : Nat × Nat), Frame [.objs] s u →
        Frame [.objs] s (u.modObj o (fun x => { x with pageTab := tset x.pageTab page (PageSt.fresh td u.time.now) })) :=
      fun u td hu => hu.after (State.modObj_frame _ _ _) rfl
    have h1 : Frame [.objs] s (s.dropCopies (s.homeParts x.part) true) := (State.dropCopies_frame _ _ _).mono rfl
    have h2 : Frame [.objs] s (s.dropCopies (List.range 8) false) := (State.dropCopies_frame _ _ _).mono rfl
    split at h
    · obtain rfl := Option.some.inj h
      exact Frame.refl _ _
    · extract_lets parts put at h
      split at h
      · obtain rfl := Option.some.inj h
        exact hp s _ (Frame.refl _ _)
      · split at h
        · obtain rfl := Option.some.inj h
          exact hp _ _ h1
        · split at h
          · obtain rfl := Option.some.inj h
            exact hp _ _ h2
          · obtain ⟨r, hr, rfl⟩ := Option.map_eq_some_iff.mp h
            exact hp r.1 _ (h2.after (State.evictFor_frame _ _ _ _ _ hr) rfl)

theorem State.backAll_frame (x0 : State) (x1 : Nat) (x2 : List Nat) (t : State) :
    State.backAll x0 x1 x2 = some t → Frame [.objs] x0 t := by
  intro h
  induction x2 generalizing x0 with
  | nil =>
    obtain rfl := Option.some.inj h
    exact Frame.refl _ _
  | cons p ps ih =>
    unfold State.backAll at h
    split at h
    · cases h
    · rename_i s1 hs
      exact (State.backPage_frame _ _ _ _ hs).after (ih _ h) rfl

theorem State.tagRange_frame (s : State) (o : Nat) (off : Nat) (len : Nat) (layout : Nat) :
    Frame [.objs] s (State.tagRange s o off len layout) := by
  unfold State.tagRange
  refine Frame.after ?_ (State.modObj_frame _ _ _) rfl
  exact Frame.refl _ _

theorem State.objWrite_frame (s : State) (o : Nat) (off : Nat) (bs : List Byte) :
    Frame [.objs] s (State.objWrite s o off bs) := by
  unfold State.objWrite
  refine Frame.after ?_ (State.modObj_frame _ _ _) rfl
  exact Frame.refl _ _

theorem State.cmdWrite_frame (s : State) (uid : Nat) (o : Nat) (off : Nat) (layout : Nat) (bs : List Byte) (t : State) :
    State.cmdWrite s uid o off layout bs = some t → Frame [.cmds, .objs, .nand, .nextId] s t := by
  intro h
  unfold State.cmdWrite at h
  dsimp only at h
  split at h
  · cases h
  · rename_i s1 hs
    have h2 : Frame [.cmds, .objs, .nand, .nextId] s ((s1.objWrite o off bs).tagRange o off bs.length layout) :=
      ((State.backAll_frame _ _ _ _ hs).mono rfl).after
        ((State.objWrite_frame _ _ _ _).after (State.tagRange_frame _ _ _ _ _) rfl) rfl
    split at h
    · obtain rfl := Option.some.inj h
      exact h2
    · split at h
      · obtain rfl := Option.some.inj h
        exact ((h2.after (State.modNand_frame _ _) rfl).after (State.modCmd_frame _ _ _) rfl).after (State.bumpBy_frame _ _) rfl
      · obtain rfl := Option.some.inj h
        exact h2

theorem copyEnd_frame (s : State) (uid : Nat) :
    Frame [.cmds] s (copyEnd s uid).1 := by
  unfold copyEnd
  split
  · split
    · refine Frame.after ?_ (ends_frame _ _) rfl
      exact Frame.refl _ _
    · dsimp only
      refine Frame.after ?_ (State.modCmd_frame _ _ _) rfl
      exact Frame.refl _ _
  · refine Frame.after ?_ (ends_frame _ _) rfl
    exact Frame.refl _ _

theorem doCopyIn_frame (s : State) (uid : Nat) (ctx : Nat) (h : Nat) (off : Nat) (layout : Nat) (data : List Byte) :
    Frame [.cmds, .objs, .nand, .nextId] s (doCopyIn s uid ctx h off layout data).1 := by
  unfold doCopyIn
  split
  · refine Frame.after ?_ (ends_frame _ _) rfl
    exact Frame.refl _ _
  · split
    · refine Frame.after ?_ (ends_frame _ _) rfl
      exact Frame.refl _ _
    · refine Frame.after ?_ (copyEnd_frame _ _) rfl
      refine Frame.after ?_ (State.cmdWrite_frame _ _ _ _ _ _ _ (by assumption)) rfl
      exact Frame.refl _ _

theorem State.useRange_frame (s : State) (o : Nat) (off : Nat) (len : Nat) :
    Frame [.objs] s (State.useRange s o off len) := by
  unfold State.useRange
  refine Frame.after ?_ (State.modObj_frame _ _ _) rfl
  exact Frame.refl _ _

theorem doCopyOut_frame (s : State) (ctx : Nat) (h : Nat) (off : Nat) (host : Nat) (len : Nat) :
    Frame [.objs, .host] s (doCopyOut s ctx h off host len).1 := by
  unfold doCopyOut
  split
  · refine Frame.after ?_ (ends_frame _ _) rfl
    exact Frame.refl _ _
  · split
    · refine Frame.after ?_ (ends_frame _ _) rfl
      exact Frame.refl _ _
    · refine Frame.after ?_ (ends_frame _ _) rfl
      refine Frame.after ?_ (State.hostWrite_frame _ _ _) rfl
      refine Frame.after ?_ (State.useRange_frame _ _ _ _) rfl
      exact Frame.refl _ _

theorem doCopy_frame (s : State) (uid : Nat) (ctx : Nat) (src : Nat) (dst : Nat) (soff : Nat) (doff : Nat) (len : Nat) (layout : Nat) :
    Frame [.cmds, .objs, .nand, .nextId] s (doCopy s uid ctx src dst soff doff len layout).1 := by
  unfold doCopy
  split
  · split
    · refine Frame.after ?_ (ends_frame _ _) rfl
      exact Frame.refl _ _
    · split
      · refine Frame.after ?_ (ends_frame _ _) rfl
        exact Frame.refl _ _
      · refine Frame.after ?_ (copyEnd_frame _ _) rfl
        refine Frame.after ?_ (State.cmdWrite_frame _ _ _ _ _ _ _ (by assumption)) rfl
        refine Frame.after ?_ (State.useRange_frame _ _ _ _) rfl
        exact Frame.refl _ _
  · refine Frame.after ?_ (ends_frame _ _) rfl
    exact Frame.refl _ _

theorem State.backRanges_frame (s : State) (rs : List (Nat × Nat × Nat)) (t : State) :
    State.backRanges s rs = some t → Frame [.objs] s t := by
  intro h
  exact Frame.tryAll (Frame.refl _ _) (fun u v x hu hv => hu.after (State.backAll_frame _ _ _ _ hv) rfl) h

theorem State.sendMsgs_frame (s : State) (dst : Nat) (kind : Nat) (opId : Nat) (ms : List (Nat × List Byte)) :
    Frame [.peer] s (State.sendMsgs s dst kind opId ms) := by
  unfold State.sendMsgs
  refine Frame.foldl _ ?_ (fun u x hu => ?_)
  · exact Frame.refl _ _
  · refine Frame.after ?_ (State.sendMsg_frame _ _) rfl
    assumption

theorem State.sendShare_frame (s : State) (c : Cmd) (o : GroupOp) (j : Nat) :
    Frame [.peer] s (State.sendShare s c o j) := by
  unfold State.sendShare
  extract_lets
  refine Frame.ite ?_ ?_
  · refine Frame.after ?_ (State.sendMsgs_frame _ _ _ _ _) rfl
    exact Frame.refl _ _
  · refine Frame.foldl _ ?_ (fun u x hu => ?_)
    · exact Frame.refl _ _
    · refine Frame.ite ?_ ?_
      · split
        · assumption
        · extract_lets
          refine Frame.after ?_ (State.sendMsgs_frame _ _ _ _ _) rfl
          assumption
      · assumption

theorem State.startOp_frame (s : State) (c : Cmd) (mode : Nat) (seq : Nat) (t : State) :
    State.startOp s c mode seq = some t → Frame [.objs, .peer] s t := by
  intro h
  unfold State.startOp at h
  dsimp only at h
  split at h
  · cases h
  · rename_i s1 hs
    obtain rfl := Option.some.inj h
    refine Frame.foldl _ ?_ (fun u x hu => hu.after (State.sendShare_frame _ _ _ _) rfl)
    refine Frame.after ?_ (State.sendAll_frame _ _ _ _ _) rfl
    refine Frame.after ?_ (State.modPeer_frame _ _) rfl
    exact (State.backRanges_frame _ _ _ hs).mono rfl

theorem State.startRun_frame (s : State) (c : Cmd) (mode : Nat) (seq : Nat) (plan : List TilePlan) :
    Frame [.cmds, .objs, .peer] s (State.startRun s c mode seq plan).1 := by
  unfold State.startRun
  extract_lets
  split
  · dsimp only
    refine Frame.after ?_ (State.modCmd_frame _ _ _) rfl
    refine Frame.ite ?_ ?_
    · refine Frame.getD ?_ (fun u hu => ?_)
      · exact Frame.refl _ _
      · refine Frame.after ?_ (State.backRanges_frame _ _ _ (by assumption)) rfl
        exact Frame.refl _ _
    · exact Frame.refl _ _
  · extract_lets
    split
    · dsimp only
      refine Frame.after ?_ (State.modCmd_frame _ _ _) rfl
      refine Frame.after ?_ (State.modCmd_frame _ _ _) rfl
      refine Frame.ite ?_ ?_
      · refine Frame.getD ?_ (fun u hu => ?_)
        · exact Frame.refl _ _
        · refine Frame.after ?_ (State.backRanges_frame _ _ _ (by assumption)) rfl
          exact Frame.refl _ _
      · exact Frame.refl _ _
    · split
      · dsimp only
        refine Frame.after ?_ (State.startOp_frame _ _ _ _ _ (by assumption)) rfl
        refine Frame.after ?_ (State.modCmd_frame _ _ _) rfl
        refine Frame.after ?_ (State.modCmd_frame _ _ _) rfl
        refine Frame.ite ?_ ?_
        · refine Frame.getD ?_ (fun u hu => ?_)
          · exact Frame.refl _ _
          · refine Frame.after ?_ (State.backRanges_frame _ _ _ (by assumption)) rfl
            exact Frame.refl _ _
        · exact Frame.refl _ _
      · dsimp only
        refine Frame.after ?_ (State.modCmd_frame _ _ _) rfl
        refine Frame.after ?_ (State.modCmd_frame _ _ _) rfl
        refine Frame.ite ?_ ?_
        · refine Frame.getD ?_ (fun u hu => ?_)
          · exact Frame.refl _ _
          · refine Frame.after ?_ (State.backRanges_frame _ _ _ (by assumption)) rfl
            exact Frame.refl _ _
        · exact Frame.refl _ _

theorem State.startSearch_frame (s : State) (c : Cmd) :
    Frame [.cmds] s (State.startSearch s c).1 := by
  unfold State.startSearch
  split
  · refine Frame.after ?_ (ends_frame _ _) rfl
    exact Frame.refl _ _
  · split
    · refine Frame.after ?_ (ends_frame _ _) rfl
      exact Frame.refl _ _
    · extract_lets
      dsimp only
      refine Frame.after ?_ (State.modCmd_frame _ _ _) rfl
      exact Frame.refl _ _

theorem doIndexSeal_frame (s : State) (uid : Nat) (ctx : Nat) (h : Nat) :
    Frame [.cmds, .objs, .nand, .nextId] s (doIndexSeal s uid ctx h).1 := by
  unfold doIndexSeal
  split
  · refine Frame.after ?_ (ends_frame _ _) rfl
    exact Frame.refl _ _
  · split
    · refine Frame.after ?_ (ends_frame _ _) rfl
      exact Frame.refl _ _
    · split
      · refine Frame.after ?_ (ends_frame _ _) rfl
        exact Frame.refl _ _
      · split
        · refine Frame.after ?_ (ends_frame _ _) rfl
          exact Frame.refl _ _
        · split
          · refine Frame.after ?_ (ends_frame _ _) rfl
            exact Frame.refl _ _
          · extract_lets
            split
            · refine Frame.after ?_ (ends_frame _ _) rfl
              exact Frame.refl _ _
            · split
              · refine Frame.after ?_ (ends_frame _ _) rfl
                exact Frame.refl _ _
              · extract_lets
                dsimp only
                refine Frame.after ?_ (State.modCmd_frame _ _ _) rfl
                refine Frame.after ?_ (State.modObj_frame _ _ _) rfl
                refine Frame.tryAll ?_ (fun u v x hu hv => ?_) (by assumption)
                · exact Frame.refl _ _
                · refine Frame.after ?_ (State.cmdWrite_frame _ _ _ _ _ _ _ (by assumption)) rfl
                  assumption

theorem State.startBody_frame (s0 : State) (c : Cmd) :
    Frame [.ctxs, .cmds, .objs, .arrays, .parts, .nand, .store, .peer, .host, .nextId] s0 (State.startBody s0 c).1 := by
  unfold State.startBody
  extract_lets
  split
  · refine Frame.after ?_ (doQueueCreate_frame _ _ _ _ _ _ _ _ _) rfl
    refine Frame.after ?_ (State.modCmd_frame _ _ _) rfl
    exact Frame.refl _ _
  · refine Frame.after ?_ (doQueueDestroy_frame _ _ _) rfl
    refine Frame.after ?_ (State.modCmd_frame _ _ _) rfl
    exact Frame.refl _ _
  · refine Frame.after ?_ (doObjCreate_frame _ _ _ _ _ _ _ _ _ _) rfl
    refine Frame.after ?_ (State.modCmd_frame _ _ _) rfl
    exact Frame.refl _ _
  · refine Frame.after ?_ (doObjOpen_frame _ _ _ _) rfl
    refine Frame.after ?_ (State.modCmd_frame _ _ _) rfl
    exact Frame.refl _ _
  · refine Frame.after ?_ (doObjShare_frame _ _ _ _ _) rfl
    refine Frame.after ?_ (State.modCmd_frame _ _ _) rfl
    exact Frame.refl _ _
  · refine Frame.after ?_ (doObjUnshare_frame _ _ _ _) rfl
    refine Frame.after ?_ (State.modCmd_frame _ _ _) rfl
    exact Frame.refl _ _
  · refine Frame.after ?_ (doObjRetain_frame _ _ _) rfl
    refine Frame.after ?_ (State.modCmd_frame _ _ _) rfl
    exact Frame.refl _ _
  · refine Frame.after ?_ (doObjRelease_frame _ _ _ _) rfl
    refine Frame.after ?_ (State.modCmd_frame _ _ _) rfl
    exact Frame.refl _ _
  · refine Frame.after ?_ (doObjPlace_frame _ _ _ _) rfl
    refine Frame.after ?_ (State.modCmd_frame _ _ _) rfl
    exact Frame.refl _ _
  · refine Frame.after ?_ (doObjQuery_frame _ _ _ _) rfl
    refine Frame.after ?_ (State.modCmd_frame _ _ _) rfl
    exact Frame.refl _ _
  · refine Frame.after ?_ (doEventCreate_frame _ _ _ _) rfl
    refine Frame.after ?_ (State.modCmd_frame _ _ _) rfl
    exact Frame.refl _ _
  · refine Frame.after ?_ (doEventDestroy_frame _ _ _) rfl
    refine Frame.after ?_ (State.modCmd_frame _ _ _) rfl
    exact Frame.refl _ _
  · refine Frame.after ?_ (doEventClear_frame _ _ _) rfl
    refine Frame.after ?_ (State.modCmd_frame _ _ _) rfl
    exact Frame.refl _ _
  · refine Frame.after ?_ (doInstall_frame _ _ _ _ _ _ _) rfl
    refine Frame.after ?_ (State.modCmd_frame _ _ _) rfl
    exact Frame.refl _ _
  · refine Frame.after ?_ (doPriority_frame _ _ _ _ _ _) rfl
    refine Frame.after ?_ (State.modCmd_frame _ _ _) rfl
    exact Frame.refl _ _
  · refine Frame.after ?_ (doJobEnd_frame _ _) rfl
    refine Frame.after ?_ (State.modCmd_frame _ _ _) rfl
    exact Frame.refl _ _
  · refine Frame.after ?_ (doCopyIn_frame _ _ _ _ _ _ _) rfl
    refine Frame.after ?_ (State.modCmd_frame _ _ _) rfl
    exact Frame.refl _ _
  · refine Frame.after ?_ (doCopyOut_frame _ _ _ _ _ _) rfl
    refine Frame.after ?_ (State.modCmd_frame _ _ _) rfl
    exact Frame.refl _ _
  · refine Frame.after ?_ (doCopy_frame _ _ _ _ _ _ _ _ _) rfl
    refine Frame.after ?_ (State.modCmd_frame _ _ _) rfl
    exact Frame.refl _ _
  · refine Frame.after ?_ (ends_frame _ _) rfl
    refine Frame.after ?_ (State.modCmd_frame _ _ _) rfl
    exact Frame.refl _ _
  · refine Frame.after ?_ (State.startRun_frame _ _ _ _ _) rfl
    refine Frame.after ?_ (State.modCmd_frame _ _ _) rfl
    exact Frame.refl _ _
  · refine Frame.after ?_ (State.startSearch_frame _ _) rfl
    refine Frame.after ?_ (State.modCmd_frame _ _ _) rfl
    exact Frame.refl _ _
  · refine Frame.after ?_ (doIndexSeal_frame _ _ _ _) rfl
    refine Frame.after ?_ (State.modCmd_frame _ _ _) rfl
    exact Frame.refl _ _

theorem State.dropQueue_frame (s : State) (ctx : Nat) (q : Nat) :
    Frame [.ctxs] s (State.dropQueue s ctx q) := by
  unfold State.dropQueue
  refine Frame.after ?_ (State.modCtx_frame _ _ _) rfl
  exact Frame.refl _ _

theorem State.settleOne_frame (s : State) (t : State) :
    State.settleOne s = some t → Frame [.ctxs, .cmds, .objs, .arrays, .parts, .nand, .store, .nvme, .peer, .errs, .mgmt, .host, .nextId, .freeCtr] s t := by
  intro h
  unfold State.settleOne at h
  split at h
  · rename_i c _
    split at h
    · obtain rfl := Option.some.inj h
      exact (State.startBody_frame _ _).mono rfl |>.after (State.finishBody_frame _ _) rfl
    · obtain rfl := Option.some.inj h
      exact (State.conclude_frame _ _ _ _ _).mono rfl
  · split at h
    · obtain rfl := Option.some.inj h
      refine Frame.after ?_ (State.conclude_frame _ _ _ _ _) rfl
      split
      · exact (State.dropQueue_frame _ _ _).mono rfl
      · exact Frame.refl _ _
    · cases h

theorem State.settleN_frame (x0 : Nat) (x1 : State) :
    Frame [.ctxs, .cmds, .objs, .arrays, .parts, .nand, .store, .nvme, .peer, .errs, .mgmt, .host, .nextId, .freeCtr] x1 (State.settleN x0 x1) := by
  induction x0 generalizing x1 with
  | zero => exact Frame.refl _ _
  | succ n ih =>
    unfold State.settleN
    split
    · exact Frame.refl _ _
    · rename_i s' hs
      exact (State.settleOne_frame _ _ hs).after (ih _) rfl

theorem State.settle_frame (s : State) :
    Frame [.ctxs, .cmds, .objs, .arrays, .parts, .nand, .store, .nvme, .peer, .errs, .mgmt, .host, .nextId, .freeCtr] s (State.settle s) := State.settleN_frame _ _

theorem State.abortJob_frame (s : State) (ctx : Nat) :
    Frame [.ctxs, .cmds, .objs, .arrays, .parts, .nand, .store, .nvme, .peer, .errs, .mgmt, .host, .nextId, .freeCtr] s (State.abortJob s ctx) := by
  unfold State.abortJob
  extract_lets
  refine Frame.after ?_ (State.recheck_frame _) rfl
  refine Frame.after ?_ (State.settle_frame _) rfl
  refine Frame.after ?_ (State.releaseJob_frame _ _) rfl
  refine Frame.after ?_ (State.concludeAll_frame _ _ _) rfl
  refine Frame.after ?_ (State.endOps_frame _ _ _) rfl
  exact Frame.refl _ _

theorem State.abortKci_frame (s : State) (f : Cmd → Bool) (reason : Nat) :
    Frame [.cmds, .objs, .arrays, .nand, .nvme, .peer, .mgmt, .freeCtr] s (State.abortKci s f reason) := by
  unfold State.abortKci
  extract_lets
  refine Frame.after ?_ (State.loseCmds_frame _ _) rfl
  refine Frame.foldl _ ?_ (fun u x hu => ?_)
  · exact Frame.refl _ _
  · refine Frame.after ?_ (State.abortAdd_frame _ _ _) rfl
    assumption

theorem State.modLedger_frame (s : State) (f : LedgerSt → LedgerSt) :
    Frame [.ledger] s (State.modLedger s f) := by
  unfold State.modLedger
  exact ⟨fun c hc => by cases c <;> first | rfl | exact absurd (by decide) hc⟩

theorem State.addClosed_frame (s : State) (r : Closed) :
    Frame [.ledger, .mgmt] s (State.addClosed s r) := by
  unfold State.addClosed
  extract_lets
  refine Frame.ite ?_ ?_
  · refine Frame.after ?_ (State.signal_frame _ _ _) rfl
    refine Frame.after ?_ (State.modLedger_frame _ _) rfl
    exact Frame.refl _ _
  · refine Frame.after ?_ (State.modLedger_frame _ _) rfl
    exact Frame.refl _ _

theorem State.addStats_frame (s : State) (c : Cmd) :
    Frame [.ledger] s (State.addStats s c) := by
  unfold State.addStats
  extract_lets
  refine Frame.after ?_ (State.modLedger_frame _ _) rfl
  exact Frame.refl _ _

theorem State.logNvme_frame (s : State) (h : NvmeHdr) (st : NvmeSts) (lba : Nat) (addr : Nat) :
    Frame [.ctxs, .errs, .mgmt] s (State.logNvme s h st lba addr) := by
  unfold State.logNvme
  extract_lets
  refine Frame.ite ?_ ?_
  · refine Frame.after ?_ (State.logViol_frame _ _) rfl
    exact Frame.refl _ _
  · refine Frame.ite ?_ ?_
    · refine Frame.after ?_ (State.logErr_frame _ _) rfl
      exact Frame.refl _ _
    · refine Frame.ite ?_ ?_
      · refine Frame.after ?_ (State.logErr_frame _ _) rfl
        exact Frame.refl _ _
      · refine Frame.after ?_ (State.logErr_frame _ _) rfl
        exact Frame.refl _ _

theorem State.errInfo_frame (s : State) (h : NvmeHdr) (st : NvmeSts) (lba : Nat) :
    Frame [.nvme] s (State.errInfo s h st lba) := by
  unfold State.errInfo
  extract_lets
  refine Frame.after ?_ (State.modCtl_frame _ _ _) rfl
  exact Frame.refl _ _

theorem State.nvEnd_frame (s : State) (h : NvmeHdr) (st : NvmeSts) (dw0 : Nat) :
    Frame [.nvme, .mgmt] s (State.nvEnd s h st dw0) := by
  unfold State.nvEnd
  refine Frame.after ?_ (State.cpl_frame _ _) rfl
  refine Frame.after ?_ (State.modNvme_frame _ _) rfl
  exact Frame.refl _ _

theorem State.nvDoneAt_frame (s : State) (h : NvmeHdr) (st : NvmeSts) (dw0 : Nat) (lba : Nat) (addr : Nat) :
    Frame [.ctxs, .nvme, .errs, .mgmt] s (State.nvDoneAt s h st dw0 lba addr) := by
  unfold State.nvDoneAt
  refine Frame.ite ?_ ?_
  · refine Frame.after ?_ (State.logNvme_frame _ _ _ _ _) rfl
    refine Frame.after ?_ (State.errInfo_frame _ _ _ _) rfl
    refine Frame.after ?_ (State.nvEnd_frame _ _ _ _) rfl
    exact Frame.refl _ _
  · refine Frame.after ?_ (State.nvEnd_frame _ _ _ _) rfl
    exact Frame.refl _ _

theorem State.nvDone_frame (s : State) (h : NvmeHdr) (st : NvmeSts) (dw0 : Nat) (lba : Nat) :
    Frame [.ctxs, .nvme, .errs, .mgmt] s (State.nvDone s h st dw0 lba) := by
  unfold State.nvDone
  refine Frame.after ?_ (State.nvDoneAt_frame _ _ _ _ _ _) rfl
  exact Frame.refl _ _

theorem State.modPower_frame (s : State) (f : PowerSt → PowerSt) :
    Frame [.power] s (State.modPower s f) := by
  unfold State.modPower
  exact ⟨fun c hc => by cases c <;> first | rfl | exact absurd (by decide) hc⟩

theorem State.modRails_frame (s : State) (f : Nat → Rail → Rail) :
    Frame [.power] s (State.modRails s f) := by
  unfold State.modRails
  refine Frame.after ?_ (State.modPower_frame _ _) rfl
  exact Frame.refl _ _

theorem State.retarget_frame (s : State) :
    Frame [.power] s (State.retarget s) := by
  unfold State.retarget
  refine Frame.after ?_ (State.modRails_frame _ _) rfl
  exact Frame.refl _ _

theorem State.setPstate_frame (s : State) (ps : Nat) :
    Frame [.power] s (State.setPstate s ps) := by
  unfold State.setPstate
  refine Frame.after ?_ (State.retarget_frame _) rfl
  refine Frame.after ?_ (State.modPower_frame _ _) rfl
  exact Frame.refl _ _

theorem State.wake_frame (s : State) :
    Frame [.power, .nvme] s (State.wake s) := by
  unfold State.wake
  extract_lets
  refine Frame.ite ?_ ?_
  · refine Frame.after ?_ (State.setPstate_frame _ _) rfl
    refine Frame.after ?_ (State.modNvme_frame _ _) rfl
    exact Frame.refl _ _
  · refine Frame.after ?_ (State.modPower_frame _ _) rfl
    refine Frame.after ?_ (State.modNvme_frame _ _) rfl
    exact Frame.refl _ _

theorem State.begin_frame (s : State) (h : NvmeHdr) (op : Nat) :
    Frame [.power, .nvme] s (State.begin s h op) := by
  unfold State.begin
  extract_lets
  refine Frame.ite ?_ ?_
  · refine Frame.after ?_ (State.modNvme_frame _ _) rfl
    refine Frame.after ?_ (State.wake_frame _) rfl
    exact Frame.refl _ _
  · refine Frame.after ?_ (State.modNvme_frame _ _) rfl
    refine Frame.after ?_ (State.wake_frame _) rfl
    exact Frame.refl _ _

theorem State.admin_frame {cs : List Comp} {a : State} (s : State) (h : NvmeHdr) (op : Nat) (vf : Bool) (f : State → State) (h0 : Frame cs a s) (hf : ∀ (u0 : State), Frame cs a u0 → Frame cs a (f u0)) (hm : Comp.within [.power, .ctxs, .nvme, .errs, .mgmt] cs = true) :
    Frame cs a (State.admin s h op vf f) := by
  unfold State.admin
  refine Frame.ite ?_ ?_
  · assumption
  · refine Frame.ite ?_ ?_
    · refine Frame.after ?_ (State.nvDone_frame _ _ _ _ _) (Comp.within_trans rfl hm)
      refine Frame.after ?_ (State.begin_frame _ _ _) (Comp.within_trans rfl hm)
      assumption
    · apply hf
      refine Frame.after ?_ (State.begin_frame _ _ _) (Comp.within_trans rfl hm)
      assumption

theorem State.admitted_frame (s : State) (h : NvmeHdr) :
    Frame [.ctxs, .nvme, .errs, .mgmt] s (State.admitted s h) := by
  unfold State.admitted
  refine Frame.ite ?_ ?_
  · exact Frame.refl _ _
  · refine Frame.after ?_ (State.nvDone_frame _ _ _ _ _) rfl
    refine Frame.after ?_ (State.modNvme_frame _ _) rfl
    exact Frame.refl _ _

theorem State.admitPieces_frame (s : State) (es : List Extent) :
    Frame [.ctxs, .nvme, .errs, .mgmt] s (State.admitPieces s es) := by
  unfold State.admitPieces
  split
  · exact Frame.refl _ _
  · extract_lets
    refine Frame.after ?_ (State.admitted_frame _ _) rfl
    refine Frame.after ?_ (State.modNvme_frame _ _) rfl
    exact Frame.refl _ _

theorem State.modTime_frame (s : State) (f : TimeSt → TimeSt) :
    Frame [.time] s (State.modTime s f) := by
  unfold State.modTime
  exact ⟨fun c hc => by cases c <;> first | rfl | exact absurd (by decide) hc⟩

theorem State.modRegion_frame (s : State) (r : Nat) (f : Region → Region) :
    Frame [.time] s (State.modRegion s r f) := by
  unfold State.modRegion
  refine Frame.after ?_ (State.modTime_frame _ _) rfl
  exact Frame.refl _ _

theorem State.askVolt_frame (s : State) (r : Nat) :
    Frame [.power, .time] s (State.askVolt s r) := by
  unfold State.askVolt
  extract_lets
  refine Frame.ite ?_ ?_
  · refine Frame.after ?_ (State.modPower_frame _ _) rfl
    exact Frame.refl _ _
  · refine Frame.after ?_ (State.modRegion_frame _ _ _) rfl
    exact Frame.refl _ _

theorem State.journal_frame (s : State) (kind : Nat) (slotBits : Nat) (sector : Nat) :
    Frame [.store] s (State.journal s kind slotBits sector) := by
  unfold State.journal
  extract_lets
  refine Frame.after ?_ (State.modStore_frame _ _) rfl
  exact Frame.refl _ _

theorem State.setSlot_frame (s : State) (b : Bool) (st : Nat) :
    Frame [.store] s (State.setSlot s b st) := by
  unfold State.setSlot
  refine Frame.after ?_ (State.journal_frame _ _ _ _) rfl
  refine Frame.after ?_ (State.modStore_frame _ _) rfl
  exact Frame.refl _ _

theorem State.boot_frame (s : State) :
    Frame [.store] s (State.boot s) := by
  unfold State.boot
  extract_lets w1
  split
  · dsimp only [w1]
    refine Frame.after ?_ (State.modStore_frame _ _) rfl
    refine Frame.after ?_ (State.setSlot_frame _ _ _) rfl
    exact Frame.refl _ _
  · split
    · dsimp only [w1]
      refine Frame.after ?_ (State.modStore_frame _ _) rfl
      refine Frame.after ?_ (State.setSlot_frame _ _ _) rfl
      exact Frame.refl _ _
    · dsimp only [w1]
      refine Frame.after ?_ (State.modStore_frame _ _) rfl
      exact Frame.refl _ _

theorem State.breach_frame (s : State) (x1 : Nat) :
    Frame [.time, .cmds] s (State.breach s x1) := by
  unfold State.breach
  extract_lets
  refine Frame.after ?_ (State.modCmds_frame _ _) rfl
  refine Frame.after ?_ (State.modRegion_frame _ _ _) rfl
  exact Frame.refl _ _

theorem State.charge_frame (s : State) (ctx : Nat) (c : Counts) :
    Frame [.ledger, .freeCtr] s (State.charge s ctx c) := by
  unfold State.charge
  extract_lets
  refine Frame.after ?_ (State.drawn_frame _) rfl
  refine Frame.after ?_ (State.modLedger_frame _ _) rfl
  exact Frame.refl _ _

theorem State.checkTemp_frame (s : State) (fn : Nat) :
    Frame [.nvme, .mgmt] s (State.checkTemp s fn) := by
  unfold State.checkTemp
  extract_lets
  refine Frame.ite ?_ ?_
  · refine Frame.after ?_ (State.asyncEvent_frame _ _ _) rfl
    exact Frame.refl _ _
  · exact Frame.refl _ _

theorem State.clearSelects_frame (s : State) :
    Frame [.errs, .ledger] s (State.clearSelects s) := by
  unfold State.clearSelects
  refine Frame.after ?_ (State.modLedger_frame _ _) rfl
  refine Frame.after ?_ (State.modErrs_frame _ _) rfl
  exact Frame.refl _ _

theorem State.clearConfig_frame (s : State) :
    Frame [.parts, .peer, .errs, .ledger, .mgmt] s (State.clearConfig s) := by
  unfold State.clearConfig
  extract_lets
  refine Frame.after ?_ (State.modMgmt_frame _ _) rfl
  refine Frame.after ?_ (State.modErrs_frame _ _) rfl
  refine Frame.after ?_ (State.modPeer_frame _ _) rfl
  refine Frame.after ?_ (State.modParts_frame _ _) rfl
  refine Frame.after ?_ (State.clearSelects_frame _) rfl
  exact Frame.refl _ _

theorem State.modCtxs_frame (s : State) (f : Table Context → Table Context) :
    Frame [.ctxs] s (State.modCtxs s f) := by
  unfold State.modCtxs
  exact ⟨fun c hc => by cases c <;> first | rfl | exact absurd (by decide) hc⟩

theorem State.clearContexts_frame (s : State) :
    Frame [.ctxs, .objs, .store] s (State.clearContexts s) := by
  unfold State.clearContexts
  extract_lets
  refine Frame.foldl _ ?_ (fun u x hu => ?_)
  · refine Frame.after ?_ (State.modCtxs_frame _ _) rfl
    exact Frame.refl _ _
  · refine Frame.after ?_ (State.collect_frame _ _) rfl
    assumption

theorem State.clearController_frame (s : State) (fn : Nat) (reason : Nat) :
    Frame [.nvme, .mgmt] s (State.clearController s fn reason) := by
  unfold State.clearController
  extract_lets
  refine Frame.ite ?_ ?_
  · refine Frame.after ?_ (State.modNvme_frame _ _) rfl
    refine Frame.after ?_ (State.modCtl_frame _ _ _) rfl
    refine Frame.after ?_ (State.abortFn_frame _ _ _) rfl
    exact Frame.refl _ _
  · refine Frame.after ?_ (State.modCtl_frame _ _ _) rfl
    refine Frame.after ?_ (State.abortFn_frame _ _ _) rfl
    exact Frame.refl _ _

theorem State.clearControllers_frame (s : State) (reason : Nat) :
    Frame [.nvme, .mgmt] s (State.clearControllers s reason) := by
  unfold State.clearControllers
  refine Frame.foldl _ ?_ (fun u x hu => ?_)
  · exact Frame.refl _ _
  · refine Frame.after ?_ (State.clearController_frame _ _ _) rfl
    assumption

theorem State.closeCtx_frame (s : State) (ctx : Nat) :
    Frame [.ctxs, .cmds, .objs, .arrays, .nand, .store, .nvme, .peer, .mgmt, .freeCtr] s (State.closeCtx s ctx) := by
  unfold State.closeCtx
  extract_lets
  refine Frame.after ?_ (State.abortAdd_frame _ _ _) rfl
  refine Frame.after ?_ (State.modCtx_frame _ _ _) rfl
  refine Frame.after ?_ (State.reap_frame _ _) rfl
  refine Frame.after ?_ (State.modCtx_frame _ _ _) rfl
  refine Frame.after ?_ (State.loseCmds_frame _ _) rfl
  exact Frame.refl _ _

theorem State.closeOrderly_frame (s : State) (ctx : Nat) :
    Frame [.ctxs] s (State.closeOrderly s ctx) := by
  unfold State.closeOrderly
  refine Frame.after ?_ (State.modCtx_frame _ _ _) rfl
  exact Frame.refl _ _

theorem State.setArr_frame (s : State) (x1 : Nat) (x : ArraySt) :
    Frame [.arrays] s (State.setArr s x1 x) := by
  unfold State.setArr
  exact ⟨fun c hc => by cases c <;> first | rfl | exact absurd (by decide) hc⟩

theorem State.modArr_frame (s : State) (x1 : Nat) (f : ArraySt → ArraySt) :
    Frame [.arrays] s (State.modArr s x1 f) := by
  unfold State.modArr
  refine Frame.after ?_ (State.setArr_frame _ _ _) rfl
  exact Frame.refl _ _

theorem State.maybeFinish_frame (s : State) (uid : Nat) :
    Frame [.ctxs, .cmds, .objs, .arrays, .nand, .nvme, .peer, .mgmt, .nextId, .freeCtr] s (State.maybeFinish s uid) := by
  unfold State.maybeFinish
  split
  · exact Frame.refl _ _
  · refine Frame.ite ?_ ?_
    · refine Frame.ite ?_ ?_
      · refine Frame.after ?_ (State.conclude_frame _ _ _ _ _) rfl
        exact Frame.refl _ _
      · refine Frame.after ?_ (State.modCmd_frame _ _ _) rfl
        exact Frame.refl _ _
    · exact Frame.refl _ _

theorem State.failCheck_frame (s : State) (uid : Nat) (ti : Nat) :
    Frame [.ctxs, .cmds, .objs, .arrays, .nand, .nvme, .peer, .mgmt, .nextId, .freeCtr] s (State.failCheck s uid ti) := by
  unfold State.failCheck
  split
  · exact Frame.refl _ _
  · refine Frame.after ?_ (State.conclude_frame _ _ _ _ _) rfl
    exact Frame.refl _ _

theorem State.startTest_frame (s : State) (kind : Nat) (index : Nat) (cls : Nat) (seq : Nat) :
    Frame [.tests] s (State.startTest s kind index cls seq) := by
  unfold State.startTest
  refine Frame.ite ?_ ?_
  · exact Frame.refl _ _
  · refine Frame.after ?_ (State.modTests_frame _ _) rfl
    exact Frame.refl _ _

theorem State.logTest_frame (s : State) (x1 : ErrArg) (kind : Nat) (index : Nat) :
    Frame [.tests, .errs, .mgmt] s (State.logTest s x1 kind index) := by
  unfold State.logTest
  extract_lets
  refine Frame.after ?_ (State.startTest_frame _ _ _ _ _) rfl
  refine Frame.after ?_ (State.logErr_frame _ _) rfl
  exact Frame.refl _ _

theorem State.logCheck_frame (s : State) (c : Cmd) (x2 : Nat) (kind : Nat) (row : Nat) (t : TileSt) :
    Frame [.tests, .errs, .mgmt] s (State.logCheck s c x2 kind row t) := by
  unfold State.logCheck
  extract_lets
  refine Frame.after ?_ (State.logTest_frame _ _ _ _) rfl
  exact Frame.refl _ _

theorem State.columnVerdict_frame (s : State) (x1 : Nat) (pass : Nat) :
    Frame [.ctxs, .cmds, .objs, .arrays, .tests, .nand, .nvme, .peer, .errs, .mgmt, .nextId, .freeCtr] s (State.columnVerdict s x1 pass) := by
  unfold State.columnVerdict
  split
  · exact Frame.refl _ _
  · split
    · exact Frame.refl _ _
    · split
      · exact Frame.refl _ _
      · extract_lets
        refine Frame.ite ?_ ?_
        · exact Frame.refl _ _
        · refine Frame.ite ?_ ?_
          · refine Frame.after ?_ (State.maybeFinish_frame _ _) rfl
            refine Frame.after ?_ (State.modArr_frame _ _ _) rfl
            exact Frame.refl _ _
          · refine Frame.after ?_ (State.failCheck_frame _ _ _) rfl
            refine Frame.after ?_ (State.logCheck_frame _ _ _ _ _ _) rfl
            refine Frame.after ?_ (State.modCmd_frame _ _ _) rfl
            refine Frame.after ?_ (State.modArr_frame _ _ _) rfl
            exact Frame.refl _ _

theorem State.finishShutdown_frame (s : State) :
    Frame [.store, .nvme] s (State.finishShutdown s) := by
  unfold State.finishShutdown
  refine Frame.ite ?_ ?_
  · extract_lets
    refine Frame.ite ?_ ?_
    · refine Frame.after ?_ (State.modStore_frame _ _) rfl
      refine Frame.after ?_ (State.modNvme_frame _ _) rfl
      exact Frame.refl _ _
    · refine Frame.after ?_ (State.modNvme_frame _ _) rfl
      exact Frame.refl _ _
  · exact Frame.refl _ _

theorem State.endFlushes_frame (s : State) :
    Frame [.ctxs, .nvme, .errs, .mgmt] s (State.endFlushes s) := by
  unfold State.endFlushes
  extract_lets
  refine Frame.foldl _ ?_ (fun u x hu => ?_)
  · refine Frame.after ?_ (State.modNvme_frame _ _) rfl
    exact Frame.refl _ _
  · refine Frame.after ?_ (State.nvDone_frame _ _ _ _ _) rfl
    assumption

theorem State.commitExtent_frame (s : State) (id : Nat) (place : Nat) :
    Frame [.ctxs, .store, .nvme, .errs, .ledger, .mgmt, .freeCtr] s (State.commitExtent s id place) := by
  unfold State.commitExtent
  split
  · exact Frame.refl _ _
  · extract_lets
    refine Frame.after ?_ (State.finishShutdown_frame _) rfl
    refine Frame.after ?_ (State.endFlushes_frame _) rfl
    refine Frame.ite ?_ ?_
    · refine Frame.after ?_ (State.nvDone_frame _ _ _ _ _) rfl
      refine Frame.ite ?_ ?_
      · refine Frame.after ?_ (State.modNvme_frame _ _) rfl
        exact Frame.refl _ _
      · refine Frame.after ?_ (State.charge_frame _ _ _) rfl
        refine Frame.after ?_ (State.modNvme_frame _ _) rfl
        exact Frame.refl _ _
    · refine Frame.ite ?_ ?_
      · refine Frame.after ?_ (State.modNvme_frame _ _) rfl
        exact Frame.refl _ _
      · refine Frame.after ?_ (State.charge_frame _ _ _) rfl
        refine Frame.after ?_ (State.modNvme_frame _ _) rfl
        exact Frame.refl _ _

theorem State.commitCache_frame (s : State) :
    Frame [.ctxs, .nand, .store, .nvme, .errs, .ledger, .mgmt, .freeCtr] s (State.commitCache s) := by
  unfold State.commitCache
  extract_lets
  refine Frame.after ?_ (State.modNand_frame _ _) rfl
  refine Frame.foldl _ ?_ (fun u x hu => ?_)
  · exact Frame.refl _ _
  · refine Frame.after ?_ (State.commitExtent_frame _ _ _) rfl
    assumption

theorem State.commitDone_frame (s : State) (uid : Nat) :
    Frame [.ctxs, .cmds, .objs, .arrays, .nand, .nvme, .peer, .mgmt, .nextId, .freeCtr] s (State.commitDone s uid) := by
  unfold State.commitDone
  split
  · exact Frame.refl _ _
  · refine Frame.ite ?_ ?_
    · exact Frame.refl _ _
    · split
      · refine Frame.after ?_ (State.maybeFinish_frame _ _) rfl
        exact Frame.refl _ _
      · refine Frame.ite ?_ ?_
        · refine Frame.after ?_ (State.conclude_frame _ _ _ _ _) rfl
          exact Frame.refl _ _
        · exact Frame.refl _ _

theorem State.commitItem_frame (s : State) (die : Nat) (block : Nat) (id : Nat) :
    Frame [.ctxs, .cmds, .objs, .arrays, .parts, .nand, .store, .nvme, .peer, .errs, .ledger, .mgmt, .host, .nextId, .freeCtr] s (State.commitItem s die block id) := by
  unfold State.commitItem
  split
  · exact Frame.refl _ _
  · refine Frame.after ?_ (State.commitExtent_frame _ _ _) rfl
    refine Frame.after ?_ (State.modNand_frame _ _) rfl
    exact Frame.refl _ _
  · extract_lets
    refine Frame.ite ?_ ?_
    · refine Frame.after ?_ (State.modNand_frame _ _) rfl
      exact Frame.refl _ _
    · split
      · refine Frame.after ?_ (State.modNand_frame _ _) rfl
        exact Frame.refl _ _
      · extract_lets
        refine Frame.after ?_ (State.recheck_frame _) rfl
        refine Frame.after ?_ (State.settle_frame _) rfl
        refine Frame.after ?_ (State.commitDone_frame _ _) rfl
        refine Frame.after ?_ (State.modCmd_frame _ _ _) rfl
        refine Frame.after ?_ (State.charge_frame _ _ _) rfl
        refine Frame.after ?_ (State.modNand_frame _ _) rfl
        exact Frame.refl _ _

theorem State.commitRow_frame (s : State) (g : Nat) (block : Nat) (wl : Nat) :
    Frame [.ctxs, .cmds, .objs, .arrays, .parts, .nand, .store, .nvme, .peer, .errs, .ledger, .mgmt, .host, .nextId, .freeCtr] s (State.commitRow s g block wl) := by
  unfold State.commitRow
  extract_lets
  refine Frame.ite ?_ ?_
  · refine Frame.foldl _ ?_ (fun u x hu => ?_)
    · refine Frame.after ?_ (State.modNand_frame _ _) rfl
      exact Frame.refl _ _
    · refine Frame.after ?_ (State.commitItem_frame _ _ _ _) rfl
      assumption
  · exact Frame.refl _ _

theorem State.controllerReset_frame (s : State) (fn : Nat) (reason : Nat) :
    Frame [.nvme, .mgmt] s (State.controllerReset s fn reason) := by
  unfold State.controllerReset
  extract_lets
  refine Frame.ite ?_ ?_
  · refine Frame.after ?_ (State.modNvme_frame _ _) rfl
    refine Frame.after ?_ (State.modCtl_frame _ _ _) rfl
    refine Frame.after ?_ (State.abortFn_frame _ _ _) rfl
    exact Frame.refl _ _
  · refine Frame.after ?_ (State.modCtl_frame _ _ _) rfl
    refine Frame.after ?_ (State.abortFn_frame _ _ _) rfl
    exact Frame.refl _ _

theorem State.queueErase_frame (s : State) (sector : Nat) :
    Frame [.store] s (State.queueErase s sector) := by
  unfold State.queueErase
  refine Frame.after ?_ (State.modStore_frame _ _) rfl
  exact Frame.refl _ _

theorem State.copyRecord_frame (s : State) :
    Frame [.store] s (State.copyRecord s) := by
  unfold State.copyRecord
  split
  · extract_lets
    refine Frame.foldl _ ?_ (fun u x hu => ?_)
    · refine Frame.after ?_ (State.modStore_frame _ _) rfl
      exact Frame.refl _ _
    · refine Frame.after ?_ (State.queueErase_frame _ _) rfl
      assumption
  · exact Frame.refl _ _

theorem State.copyRecords_frame (x0 : Nat) (x1 : State) :
    Frame [.store] x1 (State.copyRecords x0 x1) := by
  induction x0 generalizing x1 with
  | zero => exact Frame.refl _ _
  | succ n ih => exact Frame.after (State.copyRecord_frame _) (ih _) rfl

theorem State.modBlock_frame (s : State) (die : Nat) (block : Nat) (f : BlockSt → BlockSt) :
    Frame [.nand] s (State.modBlock s die block f) := by
  unfold State.modBlock
  refine Frame.after ?_ (State.modNand_frame _ _) rfl
  exact Frame.refl _ _

theorem State.countCommitted_frame (s : State) (g : Nat) (block : Nat) (r : RowSt) (i : Nat) :
    Frame [.nand] s (State.countCommitted s g block r i) := by
  unfold State.countCommitted
  extract_lets
  refine Frame.foldl _ ?_ (fun u x hu => ?_)
  · exact Frame.refl _ _
  · refine Frame.after ?_ (State.modBlock_frame _ _ _ _) rfl
    assumption

theorem State.countLadder_frame (s : State) (level : Nat) :
    Frame [.nand] s (State.countLadder s level) := by
  unfold State.countLadder
  refine Frame.after ?_ (State.modNand_frame _ _) rfl
  exact Frame.refl _ _

theorem State.countStale_frame (s : State) (n : Nat) :
    Frame [.peer] s (State.countStale s n) := by
  unfold State.countStale
  refine Frame.after ?_ (State.modPeer_frame _ _) rfl
  exact Frame.refl _ _

theorem State.doorbellFault_frame (s : State) (ctx : Nat) (queue : Nat) (off : Nat) :
    Frame [.ctxs, .cmds, .objs, .arrays, .parts, .nand, .store, .nvme, .peer, .errs, .mgmt, .host, .nextId, .freeCtr] s (State.doorbellFault s ctx queue off) := by
  unfold State.doorbellFault
  refine Frame.after ?_ (State.settle_frame _) rfl
  refine Frame.after ?_ (State.faultCtx_frame _ _ _ _ _ _ _) rfl
  exact Frame.refl _ _

theorem State.cqHeadWrite_frame (s : State) (ctx : Nat) (queue : Nat) (head : Nat) :
    Frame [.ctxs, .cmds, .objs, .arrays, .parts, .nand, .store, .nvme, .peer, .errs, .mgmt, .host, .nextId, .freeCtr] s (State.cqHeadWrite s ctx queue head) := by
  unfold State.cqHeadWrite
  split
  · exact Frame.refl _ _
  · refine Frame.ite ?_ ?_
    · exact Frame.refl _ _
    · refine Frame.ite ?_ ?_
      · refine Frame.after ?_ (State.doorbellFault_frame _ _ _ _) rfl
        exact Frame.refl _ _
      · extract_lets
        refine Frame.ite ?_ ?_
        · refine Frame.after ?_ (State.signal_frame _ _ _) rfl
          refine Frame.after ?_ (State.modCtx_frame _ _ _) rfl
          exact Frame.refl _ _
        · refine Frame.after ?_ (State.modCtx_frame _ _ _) rfl
          exact Frame.refl _ _

theorem State.endAllOps_frame (s : State) (status : Nat) :
    Frame [.ctxs, .cmds, .objs, .arrays, .parts, .nand, .store, .nvme, .peer, .errs, .mgmt, .host, .nextId, .freeCtr] s (State.endAllOps s status) := by
  unfold State.endAllOps
  extract_lets
  refine Frame.after ?_ (State.recheck_frame _) rfl
  refine Frame.after ?_ (State.settle_frame _) rfl
  refine Frame.after ?_ (State.concludeAll_frame _ _ _) rfl
  refine Frame.after ?_ (State.modPeer_frame _ _) rfl
  exact Frame.refl _ _

theorem State.degrade_frame (s : State) :
    Frame [.ctxs, .cmds, .objs, .arrays, .parts, .nand, .store, .nvme, .peer, .errs, .mgmt, .host, .nextId, .freeCtr] s (State.degrade s) := by
  unfold State.degrade
  refine Frame.after ?_ (State.endAllOps_frame _ _) rfl
  refine Frame.after ?_ (State.modPeer_frame _ _) rfl
  exact Frame.refl _ _

theorem State.nsChanged_frame (s : State) (nsid : Nat) (fns : List Nat) :
    Frame [.nvme, .mgmt] s (State.nsChanged s nsid fns) := by
  unfold State.nsChanged
  refine Frame.foldl _ ?_ (fun u x hu => ?_)
  · exact Frame.refl _ _
  · extract_lets
    refine Frame.ite ?_ ?_
    · refine Frame.after ?_ (State.asyncEvent_frame _ _ _) rfl
      refine Frame.after ?_ (State.modCtl_frame _ _ _) rfl
      assumption
    · refine Frame.after ?_ (State.modCtl_frame _ _ _) rfl
      assumption

theorem State.dropNsCache_frame (s : State) (nsid : Nat) :
    Frame [.ctxs, .nand, .store, .nvme, .errs, .mgmt] s (State.dropNsCache s nsid) := by
  unfold State.dropNsCache
  extract_lets
  refine Frame.after ?_ (State.finishShutdown_frame _) rfl
  refine Frame.after ?_ (State.endFlushes_frame _) rfl
  refine Frame.foldl _ ?_ (fun u x hu => ?_)
  · refine Frame.after ?_ (State.modNand_frame _ _) rfl
    refine Frame.after ?_ (State.modNvme_frame _ _) rfl
    exact Frame.refl _ _
  · refine Frame.after ?_ (State.nvDone_frame _ _ _ _ _) rfl
    assumption

theorem State.deleteNs_frame (s : State) (nsid : Nat) :
    Frame [.ctxs, .nand, .store, .nvme, .errs, .mgmt] s (State.deleteNs s nsid) := by
  unfold State.deleteNs
  extract_lets
  refine Frame.after ?_ (State.nsChanged_frame _ _ _) rfl
  refine Frame.after ?_ (State.modNvme_frame _ _) rfl
  refine Frame.after ?_ (State.dropNsCache_frame _ _) rfl
  exact Frame.refl _ _

theorem State.deliver_frame (s : State) (r : NandReq) (n : Nat) :
    Frame [.ledger, .freeCtr] s (State.deliver s r n) := by
  unfold State.deliver
  split
  · split
    · refine Frame.ite ?_ ?_
      · exact Frame.refl _ _
      · refine Frame.after ?_ (State.charge_frame _ _ _) rfl
        exact Frame.refl _ _
    · exact Frame.refl _ _
  · exact Frame.refl _ _

theorem State.resetCtx_frame (s : State) (ctx : Nat) (reason : Nat) :
    Frame [.ctxs, .arrays, .parts, .nand, .peer] s (State.resetCtx s ctx reason) := by
  unfold State.resetCtx
  refine Frame.ite ?_ ?_
  · exact Frame.refl _ _
  · extract_lets
    refine Frame.after ?_ (State.releaseJob_frame _ _) rfl
    refine Frame.after ?_ (State.endOps_frame _ _ _) rfl
    refine Frame.after ?_ (State.dropWork_frame _ _) rfl
    refine Frame.after ?_ (State.modCtx_frame _ _ _) rfl
    exact Frame.refl _ _

theorem State.disableCtx_frame (s : State) (ctx : Nat) :
    Frame [.ctxs, .arrays, .parts, .nand, .peer] s (State.disableCtx s ctx) := by
  unfold State.disableCtx
  extract_lets
  refine Frame.ite ?_ ?_
  · refine Frame.after ?_ (State.modCtx_frame _ _ _) rfl
    exact Frame.refl _ _
  · refine Frame.ite ?_ ?_
    · refine Frame.after ?_ (State.closeOrderly_frame _ _) rfl
      exact Frame.refl _ _
    · refine Frame.after ?_ (State.resetCtx_frame _ _ _) rfl
      refine Frame.after ?_ (State.modCtx_frame _ _ _) rfl
      exact Frame.refl _ _

theorem State.discardVolatile_frame (s : State) :
    Frame [.objs] s (State.discardVolatile s) := by
  unfold State.discardVolatile
  refine Frame.after ?_ (State.modObjs_frame _ _) rfl
  exact Frame.refl _ _

theorem State.modTile_frame (s : State) (uid : Nat) (i : Nat) (f : TileSt → TileSt) :
    Frame [.cmds] s (State.modTile s uid i f) := by
  unfold State.modTile
  refine Frame.after ?_ (State.modCmd_frame _ _ _) rfl
  exact Frame.refl _ _

theorem State.refresh_frame (s : State) (uid : Nat) :
    Frame [.cmds] s (State.refresh s uid) := by
  unfold State.refresh
  split
  · exact Frame.refl _ _
  · refine Frame.ite ?_ ?_
    · exact Frame.refl _ _
    · extract_lets
      refine Frame.after ?_ (State.modCmd_frame _ _ _) rfl
      exact Frame.refl _ _

theorem State.redoTile_frame (s : State) (c : Cmd) (ti : Nat) (t : TileSt) :
    Frame [.cmds, .arrays] s (State.redoTile s c ti t) := by
  unfold State.redoTile
  extract_lets
  refine Frame.after ?_ (State.refresh_frame _ _) rfl
  refine Frame.after ?_ (State.modArr_frame _ _ _) rfl
  refine Frame.after ?_ (State.modTile_frame _ _ _ _) rfl
  exact Frame.refl _ _

theorem State.freeRows_frame (s : State) (uid : Nat) (ti : Nat) (t : TileSt) :
    Frame [.arrays] s (State.freeRows s uid ti t) := by
  unfold State.freeRows
  extract_lets
  refine Frame.after ?_ (State.modArr_frame _ _ _) rfl
  exact Frame.refl _ _

theorem State.endSoft_frame (s : State) (uid : Nat) (st : Nat) (ti : Nat) :
    Frame [.ctxs, .cmds, .objs, .arrays, .nand, .nvme, .peer, .mgmt, .nextId, .freeCtr] s (State.endSoft s uid st ti) := by
  unfold State.endSoft
  refine Frame.after ?_ (State.maybeFinish_frame _ _) rfl
  refine Frame.after ?_ (State.modCmd_frame _ _ _) rfl
  exact Frame.refl _ _

theorem State.writeRow_frame (s : State) (c : Cmd) (t : TileSt) (i : Nat) (r : RowOut) (t' : State) :
    State.writeRow s c t i r = some t' → Frame [.cmds, .objs, .arrays, .nand, .nextId] s t' := by
  intro h
  have hw : ∀ {u v : State} {uid o off layout : Nat} {bs : List Byte}, Frame [.cmds, .objs, .arrays, .nand, .nextId] s u →
      u.cmdWrite uid o off layout bs = some v → Frame [.cmds, .objs, .arrays, .nand, .nextId] s v :=
    fun hu hv => hu.after (State.cmdWrite_frame _ _ _ _ _ _ _ hv) rfl
  unfold State.writeRow at h
  dsimp only at h
  split at h
  · obtain rfl := Option.some.inj h
    exact (State.modArr_frame _ _ _).mono rfl
  · split at h
    · obtain rfl := Option.some.inj h
      exact Frame.refl _ _
    · split at h
      · cases h
      · rename_i s1 hs
        have h1 := hw (Frame.refl _ _) hs
        split at h
        · obtain rfl := Option.some.inj h
          exact h1
        · split at h
          · exact Frame.tryAll h1 (fun u v x hu hv => hw hu hv) h
          · exact hw h1 h

theorem State.freeTile_frame (s : State) (x1 : Nat) (uid : Nat) (i : Nat) :
    Frame [.arrays] s (State.freeTile s x1 uid i) := by
  unfold State.freeTile
  refine Frame.after ?_ (State.modArr_frame _ _ _) rfl
  exact Frame.refl _ _

theorem State.endTile_frame (s : State) (uid : Nat) (ti : Nat) :
    Frame [.ctxs, .cmds, .objs, .arrays, .nand, .nvme, .peer, .mgmt, .nextId, .freeCtr] s (State.endTile s uid ti) := by
  unfold State.endTile
  split
  · exact Frame.refl _ _
  · rename_i c hc
    split
    · exact Frame.refl _ _
    · rename_i t ht
      extract_lets exc size s1 rows s2 s3 s4 s5
      have h1 : Frame [.ctxs, .cmds, .objs, .arrays, .nand, .nvme, .peer, .mgmt, .nextId, .freeCtr] s s1 := by
        dsimp only [s1]
        split
        · split
          · exact Frame.refl _ _
          · split
            · exact (State.endSoft_frame _ _ _ _).mono rfl
            · rename_i hw
              exact (((State.cmdWrite_frame _ _ _ _ _ _ _ hw).mono rfl).after (State.modCmd_frame _ _ _) rfl).after (State.drawn_frame _) rfl
        · split
          · exact (State.modCmd_frame _ _ _).mono rfl
          · exact Frame.refl _ _
      have h2 : Frame [.ctxs, .cmds, .objs, .arrays, .nand, .nvme, .peer, .mgmt, .nextId, .freeCtr] s s2 := by
        dsimp only [s2]
        split
        · split
          · exact h1.after (State.endSoft_frame _ _ _ _) rfl
          · rename_i hw
            refine Frame.tryAll h1 (fun u v x hu hv => ?_) hw
            split at hv
            · exact hu.after (State.writeRow_frame _ _ _ _ _ _ hv) rfl
            · obtain rfl := Option.some.inj hv
              exact hu
        · exact h1
      have h4 : Frame [.ctxs, .cmds, .objs, .arrays, .nand, .nvme, .peer, .mgmt, .nextId, .freeCtr] s s4 := ((h2.after (State.modCmd_frame _ _ _) rfl).after (State.modTile_frame _ _ _ _) rfl).after (State.freeTile_frame _ _ _ _) rfl
      have h5 : Frame [.ctxs, .cmds, .objs, .arrays, .nand, .nvme, .peer, .mgmt, .nextId, .freeCtr] s s5 := Frame.ite (h4.after (State.endSoft_frame _ _ _ _) rfl) h4
      exact (h5.after (State.refresh_frame _ _) rfl).after (State.maybeFinish_frame _ _) rfl

theorem State.endHard_frame (s : State) (uid : Nat) (st : Nat) (ti : Nat) :
    Frame [.ctxs, .cmds, .objs, .arrays, .nand, .nvme, .peer, .mgmt, .nextId, .freeCtr] s (State.endHard s uid st ti) := by
  unfold State.endHard
  extract_lets
  refine Frame.after ?_ (State.maybeFinish_frame _ _) rfl
  refine Frame.after ?_ (State.dropWork_frame _ _) rfl
  refine Frame.after ?_ (State.modCmd_frame _ _ _) rfl
  exact Frame.refl _ _

theorem State.drainRow.drainOwn_frame (x0 : Nat) (uid : Nat) (ti : Nat) (row : Nat) (mismatch : Nat) (s1 : State) (c : Cmd) (t : TileSt) (acc : List Int) :
    Frame [.ctxs, .cmds, .objs, .arrays, .nand, .nvme, .peer, .ledger, .mgmt, .nextId, .freeCtr] s1 (State.drainRow.drainOwn x0 uid ti row mismatch s1 c t acc) := by
  unfold State.drainRow.drainOwn
  extract_lets r g old bits' t' z s2 s2'
  have h2 : Frame [.ctxs, .cmds, .objs, .arrays, .nand, .nvme, .peer, .ledger, .mgmt, .nextId, .freeCtr] s1 s2' := by
    have hc : Frame [.ctxs, .cmds, .objs, .arrays, .nand, .nvme, .peer, .ledger, .mgmt, .nextId, .freeCtr] s1 s2 := (State.charge_frame _ _ _).mono rfl
    exact Frame.ite (hc.after (State.modArr_frame _ _ _) rfl) hc
  have h3 : ∀ u : State, Frame [.ctxs, .cmds, .objs, .arrays, .nand, .nvme, .peer, .ledger, .mgmt, .nextId, .freeCtr] s1 u →
      Frame [.ctxs, .cmds, .objs, .arrays, .nand, .nvme, .peer, .ledger, .mgmt, .nextId, .freeCtr] s1 (if t'.drained.length = t.plan.rows then ((u.modTile uid ti (fun _ => t')).freeRows uid ti t').endTile uid ti
        else (u.modTile uid ti (fun _ => t')).freeRows uid ti t') := by
    intro u hu
    have h4 := (hu.after (State.modTile_frame u uid ti (fun _ => t')) rfl).after (State.freeRows_frame _ uid ti t') rfl
    exact Frame.ite (h4.after (State.endTile_frame _ _ _) rfl) h4
  split
  · exact h2.after (State.endHard_frame _ _ _ _) rfl
  · rename_i s3 hs
    split at hs
    · obtain rfl := Option.some.inj hs
      exact h3 _ h2
    · exact h3 _ (h2.after (State.writeRow_frame _ _ _ _ _ _ hs) rfl)

theorem State.drainRow_frame (s : State) (x1 : Nat) (uid : Nat) (ti : Nat) (row : Nat) (mismatch : Nat) (ecc : Nat) :
    Frame [.ctxs, .cmds, .objs, .arrays, .tests, .nand, .nvme, .peer, .errs, .ledger, .mgmt, .nextId, .freeCtr] s (State.drainRow s x1 uid ti row mismatch ecc) := by
  unfold State.drainRow
  split
  · exact Frame.refl _ _
  · split
    · exact Frame.refl _ _
    · refine Frame.ite ?_ ?_
      · exact Frame.refl _ _
      · split
        · exact Frame.refl _ _
        · extract_lets
          refine Frame.ite ?_ ?_
          · refine Frame.after ?_ (State.redoTile_frame _ _ _ _) rfl
            refine Frame.after ?_ (State.logTest_frame _ _ _ _) rfl
            exact Frame.refl _ _
          · refine Frame.ite ?_ ?_
            · refine Frame.after ?_ (State.failCheck_frame _ _ _) rfl
              refine Frame.ite ?_ ?_
              · refine Frame.after ?_ (State.logTest_frame _ _ _ _) rfl
                refine Frame.after ?_ (State.modCmd_frame _ _ _) rfl
                refine Frame.ite ?_ ?_
                · refine Frame.after ?_ (State.modArr_frame _ _ _) rfl
                  refine Frame.after ?_ (State.logErr_frame _ _) rfl
                  exact Frame.refl _ _
                · exact Frame.refl _ _
              · refine Frame.ite ?_ ?_
                · refine Frame.after ?_ (State.modArr_frame _ _ _) rfl
                  refine Frame.after ?_ (State.logErr_frame _ _) rfl
                  exact Frame.refl _ _
                · exact Frame.refl _ _
            · split
              · refine Frame.ite ?_ ?_
                · split
                  · exact Frame.refl _ _
                  · refine Frame.ite ?_ ?_
                    · extract_lets
                      refine Frame.ite ?_ ?_
                      · refine Frame.after ?_ (State.endTile_frame _ _ _) rfl
                        refine Frame.after ?_ (State.freeRows_frame _ _ _ _) rfl
                        refine Frame.after ?_ (State.modTile_frame _ _ _ _) rfl
                        refine Frame.after ?_ (State.sendMsg_frame _ _) rfl
                        refine Frame.ite ?_ ?_
                        · refine Frame.after ?_ (State.logTest_frame _ _ _ _) rfl
                          refine Frame.after ?_ (State.modCmd_frame _ _ _) rfl
                          refine Frame.ite ?_ ?_
                          · refine Frame.after ?_ (State.modArr_frame _ _ _) rfl
                            refine Frame.after ?_ (State.logErr_frame _ _) rfl
                            exact Frame.refl _ _
                          · exact Frame.refl _ _
                        · refine Frame.ite ?_ ?_
                          · refine Frame.after ?_ (State.modArr_frame _ _ _) rfl
                            refine Frame.after ?_ (State.logErr_frame _ _) rfl
                            exact Frame.refl _ _
                          · exact Frame.refl _ _
                      · refine Frame.after ?_ (State.freeRows_frame _ _ _ _) rfl
                        refine Frame.after ?_ (State.modTile_frame _ _ _ _) rfl
                        refine Frame.after ?_ (State.sendMsg_frame _ _) rfl
                        refine Frame.ite ?_ ?_
                        · refine Frame.after ?_ (State.logTest_frame _ _ _ _) rfl
                          refine Frame.after ?_ (State.modCmd_frame _ _ _) rfl
                          refine Frame.ite ?_ ?_
                          · refine Frame.after ?_ (State.modArr_frame _ _ _) rfl
                            refine Frame.after ?_ (State.logErr_frame _ _) rfl
                            exact Frame.refl _ _
                          · exact Frame.refl _ _
                        · refine Frame.ite ?_ ?_
                          · refine Frame.after ?_ (State.modArr_frame _ _ _) rfl
                            refine Frame.after ?_ (State.logErr_frame _ _) rfl
                            exact Frame.refl _ _
                          · exact Frame.refl _ _
                    · exact Frame.refl _ _
                · refine Frame.after ?_ (State.drainRow.drainOwn_frame _ _ _ _ _ _ _ _ _) rfl
                  refine Frame.ite ?_ ?_
                  · refine Frame.after ?_ (State.logTest_frame _ _ _ _) rfl
                    refine Frame.after ?_ (State.modCmd_frame _ _ _) rfl
                    refine Frame.ite ?_ ?_
                    · refine Frame.after ?_ (State.modArr_frame _ _ _) rfl
                      refine Frame.after ?_ (State.logErr_frame _ _) rfl
                      exact Frame.refl _ _
                    · exact Frame.refl _ _
                  · refine Frame.ite ?_ ?_
                    · refine Frame.after ?_ (State.modArr_frame _ _ _) rfl
                      refine Frame.after ?_ (State.logErr_frame _ _) rfl
                      exact Frame.refl _ _
                    · exact Frame.refl _ _
              · refine Frame.after ?_ (State.drainRow.drainOwn_frame _ _ _ _ _ _ _ _ _) rfl
                refine Frame.ite ?_ ?_
                · refine Frame.after ?_ (State.logTest_frame _ _ _ _) rfl
                  refine Frame.after ?_ (State.modCmd_frame _ _ _) rfl
                  refine Frame.ite ?_ ?_
                  · refine Frame.after ?_ (State.modArr_frame _ _ _) rfl
                    refine Frame.after ?_ (State.logErr_frame _ _) rfl
                    exact Frame.refl _ _
                  · exact Frame.refl _ _
                · refine Frame.ite ?_ ?_
                  · refine Frame.after ?_ (State.modArr_frame _ _ _) rfl
                    refine Frame.after ?_ (State.logErr_frame _ _) rfl
                    exact Frame.refl _ _
                  · exact Frame.refl _ _

theorem State.dropQuiet_frame (s : State) :
    Frame [.store] s (State.dropQuiet s) := by
  unfold State.dropQuiet
  extract_lets
  refine Frame.foldl _ ?_ (fun u x hu => ?_)
  · refine Frame.after ?_ (State.modStore_frame _ _) rfl
    exact Frame.refl _ _
  · refine Frame.after ?_ (State.queueErase_frame _ _) rfl
    assumption

theorem State.dropRefs_frame (s : State) (c : Cmd) :
    Frame [.ctxs, .objs, .store] s (State.dropRefs s c) := by
  unfold State.dropRefs
  refine Frame.after ?_ (State.reap_frame _ _) rfl
  refine Frame.after ?_ (State.modCtx_frame _ _ _) rfl
  exact Frame.refl _ _

theorem State.dropRows_frame (s : State) (g : Nat) (block : Nat) (idx : Nat) :
    Frame [.nand] s (State.dropRows s g block idx) := by
  unfold State.dropRows
  refine Frame.after ?_ (State.modNand_frame _ _) rfl
  exact Frame.refl _ _

theorem State.dropStaging_frame (s : State) (ps : List Nat) :
    Frame [.objs] s (State.dropStaging s ps) := by
  unfold State.dropStaging
  refine Frame.after ?_ (State.modObjs_frame _ _) rfl
  exact Frame.refl _ _

theorem State.modDie_frame (s : State) (d : Nat) (f : DieSt → DieSt) :
    Frame [.nand] s (State.modDie s d f) := by
  unfold State.modDie
  refine Frame.after ?_ (State.modNand_frame _ _) rfl
  exact Frame.refl _ _

theorem State.dueErase_frame (s : State) (die : Nat) (block : Nat) :
    Frame [.nand] s (State.dueErase s die block) := by
  unfold State.dueErase
  refine Frame.ite ?_ ?_
  · exact Frame.refl _ _
  · refine Frame.after ?_ (State.modDie_frame _ _ _) rfl
    exact Frame.refl _ _

theorem State.enableCtx_frame (s : State) (ctx : Nat) :
    Frame [.ctxs] s (State.enableCtx s ctx) := by
  unfold State.enableCtx
  extract_lets
  refine Frame.ite ?_ ?_
  · exact Frame.refl _ _
  · refine Frame.ite ?_ ?_
    · refine Frame.after ?_ (State.modCtx_frame _ _ _) rfl
      exact Frame.refl _ _
    · refine Frame.after ?_ (State.modCtx_frame _ _ _) rfl
      exact Frame.refl _ _

theorem State.endInternal_frame (s : State) (f : Cmd → Bool) :
    Frame [.ctxs, .cmds, .objs, .arrays, .parts, .nand, .store, .nvme, .peer, .errs, .mgmt, .host, .nextId, .freeCtr] s (State.endInternal s f) := by
  unfold State.endInternal
  extract_lets
  refine Frame.after ?_ (State.recheck_frame _) rfl
  refine Frame.after ?_ (State.settle_frame _) rfl
  refine Frame.after ?_ (State.concludeAll_frame _ _ _) rfl
  refine Frame.after ?_ (State.endOps_frame _ _ _) rfl
  exact Frame.refl _ _

theorem State.endNvme_frame (s : State) (f : NvmeHdr → Bool) (st : NvmeSts) :
    Frame [.ctxs, .nvme, .errs, .mgmt] s (State.endNvme s f st) := by
  unfold State.endNvme
  extract_lets
  refine Frame.foldl _ ?_ (fun u x hu => ?_)
  · refine Frame.after ?_ (State.dropNvme_frame _ _) rfl
    exact Frame.refl _ _
  · refine Frame.after ?_ (State.nvDone_frame _ _ _ _ _) rfl
    assumption

theorem State.endPass_frame (s : State) (x1 : Nat) (errs : List PassError) (idle : Nat) :
    Frame [.ctxs, .cmds, .objs, .arrays, .nand, .nvme, .peer, .mgmt, .nextId, .freeCtr] s (State.endPass s x1 errs idle) := by
  unfold State.endPass
  split
  · exact Frame.refl _ _
  · extract_lets w1
    split
    · refine Frame.after ?_ (State.freeTile_frame _ _ _ _) rfl
      dsimp only [w1]
      refine Frame.after ?_ (State.modArr_frame _ _ _) rfl
      exact Frame.refl _ _
    · split
      · refine Frame.after ?_ (State.freeTile_frame _ _ _ _) rfl
        dsimp only [w1]
        refine Frame.after ?_ (State.modArr_frame _ _ _) rfl
        exact Frame.refl _ _
      · extract_lets
        refine Frame.ite ?_ ?_
        · refine Frame.after ?_ (State.maybeFinish_frame _ _) rfl
          refine Frame.after ?_ (State.freeTile_frame _ _ _ _) rfl
          dsimp only [w1]
          refine Frame.after ?_ (State.modArr_frame _ _ _) rfl
          exact Frame.refl _ _
        · split
          · refine Frame.after ?_ (State.endSoft_frame _ _ _ _) rfl
            refine Frame.after ?_ (State.freeTile_frame _ _ _ _) rfl
            refine Frame.after ?_ (State.modTile_frame _ _ _ _) rfl
            dsimp only [w1]
            refine Frame.after ?_ (State.modArr_frame _ _ _) rfl
            exact Frame.refl _ _
          · extract_lets _ _ w5
            refine Frame.after ?_ (State.refresh_frame _ _) rfl
            dsimp only [w5]
            dsimp only [w1]
            refine Frame.after ?_ (State.modArr_frame _ _ _) rfl
            refine Frame.after ?_ (State.modTile_frame _ _ _ _) rfl
            exact Frame.refl _ _

theorem State.modQuery_frame (s : State) (uid : Nat) (q : Nat) (f : QuerySt → QuerySt) :
    Frame [.cmds] s (State.modQuery s uid q f) := by
  unfold State.modQuery
  refine Frame.after ?_ (State.modCmd_frame _ _ _) rfl
  exact Frame.refl _ _

theorem State.failScan_frame (s : State) (c : Cmd) (st : Nat) :
    Frame [.ctxs, .cmds, .objs, .arrays, .tests, .nand, .nvme, .peer, .errs, .mgmt, .nextId, .freeCtr] s (State.failScan s c st) := by
  unfold State.failScan
  extract_lets
  refine Frame.after ?_ (State.conclude_frame _ _ _ _ _) rfl
  refine Frame.ite ?_ ?_
  · refine Frame.after ?_ (State.drawn_frame _) rfl
    refine Frame.after ?_ (State.logTest_frame _ _ _ _) rfl
    exact Frame.refl _ _
  · exact Frame.refl _ _

theorem State.searchDone_frame (s : State) (uid : Nat) :
    Frame [.ctxs, .cmds, .objs, .arrays, .nand, .nvme, .peer, .mgmt, .nextId, .freeCtr] s (State.searchDone s uid) := by
  unfold State.searchDone
  split
  · exact Frame.refl _ _
  · refine Frame.ite ?_ ?_
    · refine Frame.ite ?_ ?_
      · refine Frame.after ?_ (State.conclude_frame _ _ _ _ _) rfl
        exact Frame.refl _ _
      · extract_lets
        split
        · refine Frame.after ?_ (State.conclude_frame _ _ _ _ _) rfl
          exact Frame.refl _ _
        · split
          · refine Frame.tryAll ?_ (fun u v x hu hv => ?_) (by assumption)
            · exact Frame.refl _ _
            · refine Frame.after ?_ (State.cmdWrite_frame _ _ _ _ _ _ _ (by assumption)) rfl
              assumption
          · refine Frame.ite ?_ ?_
            · refine Frame.after ?_ (State.conclude_frame _ _ _ _ _) rfl
              refine Frame.tryAll ?_ (fun u v x hu hv => ?_) (by assumption)
              · exact Frame.refl _ _
              · refine Frame.after ?_ (State.cmdWrite_frame _ _ _ _ _ _ _ (by assumption)) rfl
                assumption
            · refine Frame.after ?_ (State.modCmd_frame _ _ _) rfl
              refine Frame.tryAll ?_ (fun u v x hu hv => ?_) (by assumption)
              · exact Frame.refl _ _
              · refine Frame.after ?_ (State.cmdWrite_frame _ _ _ _ _ _ _ (by assumption)) rfl
                assumption
    · exact Frame.refl _ _

theorem State.endScan_frame (s : State) (uid : Nat) (q : Nat) (launch : Nat) :
    Frame [.ctxs, .cmds, .objs, .arrays, .tests, .nand, .nvme, .peer, .errs, .mgmt, .nextId, .freeCtr] s (State.endScan s uid q launch) := by
  unfold State.endScan
  split
  · exact Frame.refl _ _
  · split
    · exact Frame.refl _ _
    · refine Frame.ite ?_ ?_
      · exact Frame.refl _ _
      · extract_lets
        split
        · refine Frame.after ?_ (State.failScan_frame _ _ _) rfl
          refine Frame.after ?_ (State.modQuery_frame _ _ _ _) rfl
          exact Frame.refl _ _
        · refine Frame.after ?_ (State.searchDone_frame _ _) rfl
          refine Frame.after ?_ (State.modQuery_frame _ _ _ _) rfl
          exact Frame.refl _ _

theorem State.endService_frame (s : State) (part : Nat) :
    Frame [.ctxs, .cmds, .objs, .arrays, .nand, .nvme, .peer, .errs, .mgmt, .nextId, .freeCtr] s (State.endService s part) := by
  unfold State.endService
  refine Frame.ite ?_ ?_
  · extract_lets
    refine Frame.after ?_ (State.concludeAll_frame _ _ _) rfl
    refine Frame.after ?_ (State.endOps_frame _ _ _) rfl
    refine Frame.after ?_ (State.logErr_frame _ _) rfl
    exact Frame.refl _ _
  · exact Frame.refl _ _

theorem State.setPart_frame (s : State) (p : Nat) (x : PartSt) :
    Frame [.parts] s (State.setPart s p x) := by
  unfold State.setPart
  exact ⟨fun c hc => by cases c <;> first | rfl | exact absurd (by decide) hc⟩

theorem State.modPart_frame (s : State) (p : Nat) (f : PartSt → PartSt) :
    Frame [.parts] s (State.modPart s p f) := by
  unfold State.modPart
  refine Frame.after ?_ (State.setPart_frame _ _ _) rfl
  exact Frame.refl _ _

theorem State.noteLate_frame (s : State) (c : Cmd) (x2 : Nat) (cond : Nat) :
    Frame [.parts, .errs, .mgmt] s (State.noteLate s c x2 cond) := by
  unfold State.noteLate
  extract_lets
  refine Frame.ite ?_ ?_
  · refine Frame.after ?_ (State.logErr_frame _ _) rfl
    refine Frame.after ?_ (State.modPart_frame _ _ _) rfl
    exact Frame.refl _ _
  · refine Frame.after ?_ (State.modPart_frame _ _ _) rfl
    exact Frame.refl _ _

theorem State.enter_frame (s : State) (x1 : Nat) (rate : Nat) :
    Frame [.cmds, .arrays, .parts, .errs, .ledger, .mgmt, .nextId, .freeCtr] s (State.enter s x1 rate) := by
  unfold State.enter
  split
  · exact Frame.refl _ _
  · split
    · exact Frame.refl _ _
    · split
      · exact Frame.refl _ _
      · split
        · exact Frame.refl _ _
        · extract_lets
          refine Frame.after ?_ (State.refresh_frame _ _) rfl
          rename_i w18
          dsimp only [w18]
          split
          · refine Frame.after ?_ (State.refresh_frame _ _) rfl
            refine Frame.ite ?_ ?_
            · refine Frame.after ?_ (State.noteLate_frame _ _ _ _) rfl
              refine Frame.ite ?_ ?_
              · refine Frame.after ?_ (State.modPart_frame _ _ _) rfl
                refine Frame.after ?_ (State.charge_frame _ _ _) rfl
                refine Frame.after ?_ (State.drawn_frame _) rfl
                refine Frame.after ?_ (State.bump_frame _) rfl
                refine Frame.after ?_ (State.modCmd_frame _ _ _) rfl
                refine Frame.after ?_ (State.modArr_frame _ _ _) rfl
                exact Frame.refl _ _
              · refine Frame.after ?_ (State.charge_frame _ _ _) rfl
                refine Frame.after ?_ (State.drawn_frame _) rfl
                refine Frame.after ?_ (State.bump_frame _) rfl
                refine Frame.after ?_ (State.modCmd_frame _ _ _) rfl
                refine Frame.after ?_ (State.modArr_frame _ _ _) rfl
                exact Frame.refl _ _
            · refine Frame.ite ?_ ?_
              · refine Frame.after ?_ (State.modPart_frame _ _ _) rfl
                refine Frame.after ?_ (State.charge_frame _ _ _) rfl
                refine Frame.after ?_ (State.drawn_frame _) rfl
                refine Frame.after ?_ (State.bump_frame _) rfl
                refine Frame.after ?_ (State.modCmd_frame _ _ _) rfl
                refine Frame.after ?_ (State.modArr_frame _ _ _) rfl
                exact Frame.refl _ _
              · refine Frame.after ?_ (State.charge_frame _ _ _) rfl
                refine Frame.after ?_ (State.drawn_frame _) rfl
                refine Frame.after ?_ (State.bump_frame _) rfl
                refine Frame.after ?_ (State.modCmd_frame _ _ _) rfl
                refine Frame.after ?_ (State.modArr_frame _ _ _) rfl
                exact Frame.refl _ _
          · refine Frame.ite ?_ ?_
            · refine Frame.after ?_ (State.noteLate_frame _ _ _ _) rfl
              refine Frame.ite ?_ ?_
              · refine Frame.after ?_ (State.modPart_frame _ _ _) rfl
                refine Frame.after ?_ (State.charge_frame _ _ _) rfl
                refine Frame.after ?_ (State.drawn_frame _) rfl
                refine Frame.after ?_ (State.bump_frame _) rfl
                refine Frame.after ?_ (State.modCmd_frame _ _ _) rfl
                refine Frame.after ?_ (State.modArr_frame _ _ _) rfl
                exact Frame.refl _ _
              · refine Frame.after ?_ (State.charge_frame _ _ _) rfl
                refine Frame.after ?_ (State.drawn_frame _) rfl
                refine Frame.after ?_ (State.bump_frame _) rfl
                refine Frame.after ?_ (State.modCmd_frame _ _ _) rfl
                refine Frame.after ?_ (State.modArr_frame _ _ _) rfl
                exact Frame.refl _ _
            · refine Frame.ite ?_ ?_
              · refine Frame.after ?_ (State.modPart_frame _ _ _) rfl
                refine Frame.after ?_ (State.charge_frame _ _ _) rfl
                refine Frame.after ?_ (State.drawn_frame _) rfl
                refine Frame.after ?_ (State.bump_frame _) rfl
                refine Frame.after ?_ (State.modCmd_frame _ _ _) rfl
                refine Frame.after ?_ (State.modArr_frame _ _ _) rfl
                exact Frame.refl _ _
              · refine Frame.after ?_ (State.charge_frame _ _ _) rfl
                refine Frame.after ?_ (State.drawn_frame _) rfl
                refine Frame.after ?_ (State.bump_frame _) rfl
                refine Frame.after ?_ (State.modCmd_frame _ _ _) rfl
                refine Frame.after ?_ (State.modArr_frame _ _ _) rfl
                exact Frame.refl _ _

theorem State.putRecord_frame (s : State) (f : List Nat → LacunaRec) :
    Frame [.time, .store] s (State.putRecord s f) := by
  unfold State.putRecord
  split
  · exact Frame.refl _ _
  · refine Frame.after ?_ (State.modTime_frame _ _) rfl
    refine Frame.after ?_ (State.modStore_frame _ _) rfl
    exact Frame.refl _ _

theorem State.noteCritical_frame (old : State) (new : State) :
    Frame [.nvme, .mgmt] new (State.noteCritical old new) := by
  unfold State.noteCritical
  refine Frame.foldl _ (Frame.refl _ _) (fun u i hu => ?_)
  refine Frame.foldl _ hu (fun v c hv => ?_)
  split
  · exact hv.after (State.asyncEvent_frame _ _ _) rfl
  · exact hv

theorem State.enterFailed_frame (s : State) (d : Nat) :
    Frame [.power, .time, .ctxs, .cmds, .objs, .arrays, .parts, .nand, .store, .nvme, .peer, .errs, .ledger, .mgmt, .host, .nextId, .freeCtr] s (State.enterFailed s d) := by
  unfold State.enterFailed
  refine Frame.ite ?_ ?_
  · exact Frame.refl _ _
  · extract_lets
    refine Frame.after ?_ (State.noteCritical_frame _ _) rfl
    refine Frame.after ?_ (State.endInternal_frame _ _) rfl
    refine Frame.after ?_ (State.modPower_frame _ _) rfl
    refine Frame.foldl _ ?_ (fun u x hu => ?_)
    · refine Frame.after ?_ (State.modNvme_frame _ _) rfl
      refine Frame.after ?_ (State.endNvme_frame _ _ _) rfl
      refine Frame.after ?_ (State.endNvme_frame _ _ _) rfl
      refine Frame.after ?_ (State.drawn_frame _) rfl
      refine Frame.ite ?_ ?_
      · exact Frame.refl _ _
      · refine Frame.after ?_ (State.putRecord_frame _ _) rfl
        exact Frame.refl _ _
    · refine Frame.after ?_ (State.commitExtent_frame _ _ _) rfl
      assumption

theorem State.evalBlock_frame (s : State) (uid : Nat) (q : Nat) (launch : Nat) (block : Nat) (mismatch : Nat) :
    Frame [.ctxs, .cmds, .objs, .arrays, .tests, .nand, .nvme, .peer, .errs, .ledger, .mgmt, .nextId, .freeCtr] s (State.evalBlock s uid q launch block mismatch) := by
  unfold State.evalBlock
  split
  · exact Frame.refl _ _
  · split
    · exact Frame.refl _ _
    · refine Frame.ite ?_ ?_
      · exact Frame.refl _ _
      · extract_lets
        refine Frame.ite ?_ ?_
        · refine Frame.after ?_ (State.conclude_frame _ _ _ _ _) rfl
          refine Frame.ite ?_ ?_
          · refine Frame.after ?_ (State.modNand_frame _ _) rfl
            refine Frame.after ?_ (State.drawn_frame _) rfl
            refine Frame.after ?_ (State.logTest_frame _ _ _ _) rfl
            refine Frame.after ?_ (State.modCmd_frame _ _ _) rfl
            exact Frame.refl _ _
          · exact Frame.refl _ _
        · refine Frame.ite ?_ ?_
          · refine Frame.after ?_ (State.conclude_frame _ _ _ _ _) rfl
            refine Frame.ite ?_ ?_
            · refine Frame.after ?_ (State.modNand_frame _ _) rfl
              refine Frame.after ?_ (State.drawn_frame _) rfl
              refine Frame.after ?_ (State.logTest_frame _ _ _ _) rfl
              refine Frame.after ?_ (State.modCmd_frame _ _ _) rfl
              exact Frame.refl _ _
            · exact Frame.refl _ _
          · refine Frame.ite ?_ ?_
            · refine Frame.after ?_ (State.charge_frame _ _ _) rfl
              refine Frame.after ?_ (State.modQuery_frame _ _ _ _) rfl
              refine Frame.ite ?_ ?_
              · refine Frame.after ?_ (State.modNand_frame _ _) rfl
                refine Frame.after ?_ (State.drawn_frame _) rfl
                refine Frame.after ?_ (State.logTest_frame _ _ _ _) rfl
                refine Frame.after ?_ (State.modCmd_frame _ _ _) rfl
                exact Frame.refl _ _
              · exact Frame.refl _ _
            · refine Frame.after ?_ (State.modQuery_frame _ _ _ _) rfl
              refine Frame.ite ?_ ?_
              · refine Frame.after ?_ (State.modNand_frame _ _) rfl
                refine Frame.after ?_ (State.drawn_frame _) rfl
                refine Frame.after ?_ (State.logTest_frame _ _ _ _) rfl
                refine Frame.after ?_ (State.modCmd_frame _ _ _) rfl
                exact Frame.refl _ _
              · exact Frame.refl _ _

theorem State.failOp_frame (s : State) (uid : Nat) (st : Nat) :
    Frame [.ctxs, .cmds, .objs, .arrays, .parts, .nand, .store, .nvme, .peer, .errs, .mgmt, .host, .nextId, .freeCtr] s (State.failOp s uid st) := by
  unfold State.failOp
  split
  · exact Frame.refl _ _
  · refine Frame.after ?_ (State.recheck_frame _) rfl
    refine Frame.after ?_ (State.settle_frame _) rfl
    refine Frame.after ?_ (State.conclude_frame _ _ _ _ _) rfl
    exact Frame.refl _ _

theorem State.resetStore_frame (s : State) :
    Frame [.store] s (State.resetStore s) := by
  unfold State.resetStore
  refine Frame.after ?_ (State.modStore_frame _ _) rfl
  exact Frame.refl _ _

theorem State.modGroup_frame (s : State) (g : Nat) (f : GroupSt → GroupSt) :
    Frame [.nand] s (State.modGroup s g f) := by
  unfold State.modGroup
  refine Frame.after ?_ (State.modNand_frame _ _) rfl
  exact Frame.refl _ _

theorem State.readPlans_frame (s : State) :
    Frame [.nand] s (State.readPlans s) := by
  unfold State.readPlans
  extract_lets
  refine Frame.foldl _ ?_ (fun u x hu => ?_)
  · exact Frame.refl _ _
  · extract_lets
    refine Frame.foldl _ ?_ (fun u x hu => ?_)
    · refine Frame.after ?_ (State.modGroup_frame _ _ _) rfl
      assumption
    · extract_lets
      refine Frame.after ?_ (State.dueErase_frame _ _ _) rfl
      refine Frame.after ?_ (State.modNand_frame _ _) rfl
      refine Frame.after ?_ (State.modBlock_frame _ _ _ _) rfl
      assumption

theorem State.nandReset_frame (s : State) :
    Frame [.nand] s (State.nandReset s) := by
  unfold State.nandReset
  extract_lets
  refine Frame.after ?_ (State.readPlans_frame _) rfl
  refine Frame.after ?_ (State.modNand_frame _ _) rfl
  refine Frame.foldl _ ?_ (fun u x hu => ?_)
  · exact Frame.refl _ _
  · split
    · refine Frame.after ?_ (State.modBlock_frame _ _ _ _) rfl
      assumption
    · refine Frame.after ?_ (State.modBlock_frame _ _ _ _) rfl
      assumption
    · assumption

theorem State.failPower_frame (s : State) :
    Frame [.power, .time, .nand, .store, .peer] s (State.failPower s) := by
  unfold State.failPower
  extract_lets
  refine Frame.after ?_ (State.modPower_frame _ _) rfl
  refine Frame.after ?_ (State.modPeer_frame _ _) rfl
  refine Frame.after ?_ (State.modStore_frame _ _) rfl
  refine Frame.after ?_ (State.resetStore_frame _) rfl
  refine Frame.after ?_ (State.nandReset_frame _) rfl
  refine Frame.after ?_ (State.putRecord_frame _ _) rfl
  exact Frame.refl _ _

theorem State.fetchNvme_frame (s : State) (fn : Nat) (sqid : Nat) (c : Nat × Nat) :
    Frame [.ctxs, .nvme, .errs, .mgmt] s (State.fetchNvme s fn sqid c) := by
  unfold State.fetchNvme
  extract_lets
  refine Frame.ite ?_ ?_
  · refine Frame.after ?_ (State.modNvme_frame _ _) rfl
    exact Frame.refl _ _
  · refine Frame.after ?_ (State.nvDone_frame _ _ _ _ _) rfl
    refine Frame.after ?_ (State.modNvme_frame _ _) rfl
    exact Frame.refl _ _

theorem State.searchPasses_frame (s : State) (c : Cmd) (n : Nat) :
    Frame [.cmds, .ledger, .freeCtr] s (State.searchPasses s c n) := by
  unfold State.searchPasses
  extract_lets
  refine Frame.after ?_ (State.charge_frame _ _ _) rfl
  refine Frame.after ?_ (State.modCmd_frame _ _ _) rfl
  exact Frame.refl _ _

theorem State.finalize_frame (s : State) (uid : Nat) (q : Nat) :
    Frame [.ctxs, .cmds, .objs, .arrays, .tests, .nand, .nvme, .peer, .errs, .ledger, .mgmt, .nextId, .freeCtr] s (State.finalize s uid q) := by
  unfold State.finalize
  split
  · exact Frame.refl _ _
  · refine Frame.ite ?_ ?_
    · exact Frame.refl _ _
    · extract_lets
      split
      · refine Frame.after ?_ (State.conclude_frame _ _ _ _ _) rfl
        refine Frame.after ?_ (State.charge_frame _ _ _) rfl
        refine Frame.ite ?_ ?_
        · refine Frame.after ?_ (State.searchPasses_frame _ _ _) rfl
          exact Frame.refl _ _
        · exact Frame.refl _ _
      · extract_lets
        split
        · refine Frame.after ?_ (State.failScan_frame _ _ _) rfl
          refine Frame.ite ?_ ?_
          · refine Frame.after ?_ (State.modQuery_frame _ _ _ _) rfl
            refine Frame.after ?_ (State.charge_frame _ _ _) rfl
            refine Frame.ite ?_ ?_
            · refine Frame.after ?_ (State.searchPasses_frame _ _ _) rfl
              exact Frame.refl _ _
            · exact Frame.refl _ _
          · refine Frame.after ?_ (State.charge_frame _ _ _) rfl
            refine Frame.after ?_ (State.modQuery_frame _ _ _ _) rfl
            refine Frame.after ?_ (State.charge_frame _ _ _) rfl
            refine Frame.ite ?_ ?_
            · refine Frame.after ?_ (State.searchPasses_frame _ _ _) rfl
              exact Frame.refl _ _
            · exact Frame.refl _ _
        · refine Frame.ite ?_ ?_
          · refine Frame.after ?_ (State.modQuery_frame _ _ _ _) rfl
            refine Frame.after ?_ (State.charge_frame _ _ _) rfl
            refine Frame.ite ?_ ?_
            · refine Frame.after ?_ (State.searchPasses_frame _ _ _) rfl
              exact Frame.refl _ _
            · exact Frame.refl _ _
          · refine Frame.after ?_ (State.charge_frame _ _ _) rfl
            refine Frame.after ?_ (State.modQuery_frame _ _ _ _) rfl
            refine Frame.after ?_ (State.charge_frame _ _ _) rfl
            refine Frame.ite ?_ ?_
            · refine Frame.after ?_ (State.searchPasses_frame _ _ _) rfl
              exact Frame.refl _ _
            · exact Frame.refl _ _

theorem State.finishCommit_frame (s : State) (h : NvmeHdr) (b : Bool) (i : FwImage) :
    Frame [.ctxs, .store, .nvme, .errs, .mgmt] s (State.finishCommit s h b i) := by
  unfold State.finishCommit
  extract_lets
  refine Frame.ite ?_ ?_
  · refine Frame.after ?_ (State.nvDone_frame _ _ _ _ _) rfl
    refine Frame.after ?_ (State.setSlot_frame _ _ _) rfl
    refine Frame.after ?_ (State.modStore_frame _ _) rfl
    exact Frame.refl _ _
  · refine Frame.ite ?_ ?_
    · refine Frame.after ?_ (State.nvDone_frame _ _ _ _ _) rfl
      refine Frame.after ?_ (State.setSlot_frame _ _ _) rfl
      refine Frame.after ?_ (State.modStore_frame _ _) rfl
      exact Frame.refl _ _
    · refine Frame.after ?_ (State.nvDone_frame _ _ _ _ _) rfl
      refine Frame.after ?_ (State.setSlot_frame _ _ _) rfl
      refine Frame.after ?_ (State.modStore_frame _ _) rfl
      exact Frame.refl _ _

theorem State.form_frame (s : State) :
    Frame [.ctxs, .cmds, .objs, .arrays, .parts, .nand, .store, .nvme, .peer, .errs, .mgmt, .host, .nextId, .freeCtr] s (State.form s) := by
  unfold State.form
  refine Frame.ite ?_ ?_
  · extract_lets
    refine Frame.ite ?_ ?_
    · refine Frame.after ?_ (State.recheck_frame _) rfl
      refine Frame.after ?_ (State.settle_frame _) rfl
      refine Frame.after ?_ (State.modPeer_frame _ _) rfl
      refine Frame.after ?_ (State.modPeer_frame _ _) rfl
      exact Frame.refl _ _
    · refine Frame.after ?_ (State.modPeer_frame _ _) rfl
      exact Frame.refl _ _
  · exact Frame.refl _ _

theorem State.freeSlot_frame (s : State) (c : Cmd) :
    Frame [.ctxs] s (State.freeSlot s c) := by
  unfold State.freeSlot
  refine Frame.ite ?_ ?_
  · refine Frame.after ?_ (State.modCtx_frame _ _ _) rfl
    exact Frame.refl _ _
  · exact Frame.refl _ _

theorem State.guardFault_frame (s : State) (h : NvmeHdr) (place : Nat) (lba : Nat) :
    Frame [.tests, .nvme, .errs, .mgmt] s (State.guardFault s h place lba) := by
  unfold State.guardFault
  extract_lets
  refine Frame.after ?_ (State.logTest_frame _ _ _ _) rfl
  refine Frame.after ?_ (State.errInfo_frame _ _ _ _) rfl
  refine Frame.after ?_ (State.nvEnd_frame _ _ _ _) rfl
  exact Frame.refl _ _

theorem State.stopRegions_frame (s : State) (rs : List Nat) :
    Frame [.time] s (State.stopRegions s rs) := by
  unfold State.stopRegions
  refine Frame.foldl _ ?_ (fun u x hu => ?_)
  · exact Frame.refl _ _
  · refine Frame.after ?_ (State.modRegion_frame _ _ _) rfl
    assumption

theorem State.trimNand_frame (s : State) :
    Frame [.nand] s (State.trimNand s) := by
  unfold State.trimNand
  refine Frame.after ?_ (State.modNand_frame _ _) rfl
  exact Frame.refl _ _

theorem State.haltCores_frame (s : State) :
    Frame [.power, .time, .ctxs, .cmds, .objs, .arrays, .parts, .tests, .nand, .store, .nvme, .peer, .errs, .ledger, .mgmt, .freeCtr] s (State.haltCores s) := by
  unfold State.haltCores
  extract_lets
  refine Frame.after ?_ (State.modPower_frame _ _) rfl
  refine Frame.after ?_ (State.modNvme_frame _ _) rfl
  refine Frame.after ?_ (State.stopRegions_frame _ _) rfl
  refine Frame.after ?_ (State.resetStore_frame _) rfl
  refine Frame.after ?_ (State.trimNand_frame _) rfl
  refine Frame.after ?_ (State.modArrays_frame _ _) rfl
  refine Frame.after ?_ (State.abandonTests_frame _ _) rfl
  refine Frame.after ?_ (State.clearConfig_frame _) rfl
  refine Frame.after ?_ (State.clearContexts_frame _) rfl
  refine Frame.after ?_ (State.abortKci_frame _ _ _) rfl
  refine Frame.after ?_ (State.clearControllers_frame _ _) rfl
  exact Frame.refl _ _

theorem State.takeEntry_frame (s : State) (ctx : Nat) (q : Nat) :
    Frame [.ctxs, .nextId] s (State.takeEntry s ctx q) := by
  unfold State.takeEntry
  refine Frame.ite ?_ ?_
  · exact Frame.refl _ _
  · split
    · exact Frame.refl _ _
    · refine Frame.after ?_ (State.bump_frame _) rfl
      refine Frame.after ?_ (State.modCtx_frame _ _ _) rfl
      exact Frame.refl _ _

theorem State.kciFetch_frame (s : State) (e : Entry) (b : Body) :
    Frame [.ctxs, .cmds, .objs, .arrays, .parts, .nand, .store, .nvme, .peer, .errs, .mgmt, .host, .nextId, .freeCtr] s (State.kciFetch s e b) := by
  unfold State.kciFetch
  split
  · refine Frame.ite ?_ ?_
    · exact Frame.refl _ _
    · extract_lets _ _ _ _ _ _ w7
      refine Frame.after ?_ (State.checkHeads_frame _ _) rfl
      refine Frame.after ?_ (State.settle_frame _) rfl
      dsimp only [w7]
      split
      · refine Frame.after ?_ (State.faultCtx_frame _ _ _ _ _ _ _) rfl
        refine Frame.after ?_ (State.modCmds_frame _ _) rfl
        refine Frame.after ?_ (State.modCtx_frame _ _ _) rfl
        refine Frame.after ?_ (State.takeEntry_frame _ _ _) rfl
        exact Frame.refl _ _
      · refine Frame.ite ?_ ?_
        · refine Frame.after ?_ (State.conclude_frame _ _ _ _ _) rfl
          refine Frame.after ?_ (State.modCmds_frame _ _) rfl
          refine Frame.after ?_ (State.modCtx_frame _ _ _) rfl
          refine Frame.after ?_ (State.takeEntry_frame _ _ _) rfl
          exact Frame.refl _ _
        · split
          · refine Frame.ite ?_ ?_
            · refine Frame.after ?_ (State.faultCtx_frame _ _ _ _ _ _ _) rfl
              refine Frame.after ?_ (State.conclude_frame _ _ _ _ _) rfl
              refine Frame.after ?_ (State.modCmds_frame _ _) rfl
              refine Frame.after ?_ (State.modCtx_frame _ _ _) rfl
              refine Frame.after ?_ (State.takeEntry_frame _ _ _) rfl
              exact Frame.refl _ _
            · refine Frame.after ?_ (State.conclude_frame _ _ _ _ _) rfl
              refine Frame.after ?_ (State.modCmds_frame _ _) rfl
              refine Frame.after ?_ (State.modCtx_frame _ _ _) rfl
              refine Frame.after ?_ (State.takeEntry_frame _ _ _) rfl
              exact Frame.refl _ _
          · refine Frame.after ?_ (State.modCmds_frame _ _) rfl
            refine Frame.after ?_ (State.modCtx_frame _ _ _) rfl
            refine Frame.after ?_ (State.takeEntry_frame _ _ _) rfl
            exact Frame.refl _ _
  · exact Frame.refl _ _

theorem State.keepFeat_frame (s : State) (h : NvmeHdr) (key : Nat) (v : W32) :
    Frame [.ctxs, .nvme, .errs, .mgmt] s (State.keepFeat s h key v) := by
  unfold State.keepFeat
  refine Frame.after ?_ (State.nvDone_frame _ _ _ _ _) rfl
  refine Frame.after ?_ (State.modCtl_frame _ _ _) rfl
  exact Frame.refl _ _

theorem State.lacunaEvent_frame (s : State) :
    Frame [.nvme, .mgmt] s (State.lacunaEvent s) := by
  unfold State.lacunaEvent
  refine Frame.foldl _ ?_ (fun u x hu => ?_)
  · exact Frame.refl _ _
  · refine Frame.ite ?_ ?_
    · refine Frame.after ?_ (State.asyncEvent_frame _ _ _) rfl
      assumption
    · assumption

theorem State.launchSpec_frame (s : State) (uid : Nat) (q : Nat) (list : Nat) :
    Frame [.cmds] s (State.launchSpec s uid q list) := by
  unfold State.launchSpec
  split
  · exact Frame.refl _ _
  · refine Frame.ite ?_ ?_
    · refine Frame.after ?_ (State.modQuery_frame _ _ _ _) rfl
      exact Frame.refl _ _
    · exact Frame.refl _ _

theorem State.lockRegions_frame (s : State) :
    Frame [.time] s (State.lockRegions s) := by
  unfold State.lockRegions
  refine Frame.foldl _ ?_ (fun u x hu => ?_)
  · exact Frame.refl _ _
  · refine Frame.after ?_ (State.modRegion_frame _ _ _) rfl
    assumption

theorem State.logNand_frame (s : State) (die : Nat) (addr : Nat) (status : Nat) (c : Option Cmd) :
    Frame [.tests, .errs, .mgmt] s (State.logNand s die addr status c) := by
  unfold State.logNand
  extract_lets
  refine Frame.after ?_ (State.logTest_frame _ _ _ _) rfl
  exact Frame.refl _ _

theorem State.logPort_frame (s : State) (port : Nat) (partner : Nat) :
    Frame [.errs, .mgmt] s (State.logPort s port partner) := by
  unfold State.logPort
  refine Frame.after ?_ (State.logErr_frame _ _) rfl
  exact Frame.refl _ _

theorem State.logThermal_frame (s : State) (addr : Nat) :
    Frame [.errs, .mgmt] s (State.logThermal s addr) := by
  unfold State.logThermal
  refine Frame.after ?_ (State.logErr_frame _ _) rfl
  exact Frame.refl _ _

theorem State.loseT0_frame (s : State) (d : Nat) :
    Frame [.objs] s (State.loseT0 s d) := by
  unfold State.loseT0
  refine Frame.after ?_ (State.modObjs_frame _ _) rfl
  exact Frame.refl _ _

theorem State.meetRecords_frame (s : State) :
    Frame [.power, .objs, .store, .errs, .ledger, .mgmt] s (State.meetRecords s) := by
  unfold State.meetRecords
  extract_lets
  split
  · refine Frame.after ?_ (State.modStore_frame _ _) rfl
    refine Frame.after ?_ (State.modObjs_frame _ _) rfl
    refine Frame.foldl _ ?_ (fun u x hu => ?_)
    · exact Frame.refl _ _
    · split
      · refine Frame.after ?_ (State.addClosed_frame _ _) rfl
        assumption
      · assumption
  · refine Frame.after ?_ (State.modPower_frame _ _) rfl
    refine Frame.after ?_ (State.logErr_frame _ _) rfl
    refine Frame.after ?_ (State.modStore_frame _ _) rfl
    refine Frame.after ?_ (State.modObjs_frame _ _) rfl
    refine Frame.foldl _ ?_ (fun u x hu => ?_)
    · exact Frame.refl _ _
    · split
      · refine Frame.after ?_ (State.addClosed_frame _ _) rfl
        assumption
      · assumption

theorem State.mergeCand_frame (s : State) (uid : Nat) (q : Nat) (which : Nat) :
    Frame [.cmds] s (State.mergeCand s uid q which) := by
  unfold State.mergeCand
  split
  · exact Frame.refl _ _
  · split
    · exact Frame.refl _ _
    · extract_lets
      split
      · refine Frame.after ?_ (State.modQuery_frame _ _ _ _) rfl
        exact Frame.refl _ _
      · refine Frame.ite ?_ ?_
        · refine Frame.after ?_ (State.modQuery_frame _ _ _ _) rfl
          exact Frame.refl _ _
        · refine Frame.ite ?_ ?_
          · refine Frame.after ?_ (State.modQuery_frame _ _ _ _) rfl
            exact Frame.refl _ _
          · refine Frame.ite ?_ ?_
            · refine Frame.after ?_ (State.modQuery_frame _ _ _ _) rfl
              exact Frame.refl _ _
            · refine Frame.after ?_ (State.modQuery_frame _ _ _ _) rfl
              exact Frame.refl _ _

theorem State.miReply_frame (s : State) (bs : List Byte) :
    Frame [.mgmt, .freeCtr] s (State.miReply s bs) := by
  unfold State.miReply
  refine Frame.after ?_ (State.drawn_frame _) rfl
  refine Frame.after ?_ (State.modMgmt_frame _ _) rfl
  exact Frame.refl _ _

theorem State.mi_frame (s : State) (f : State → List Byte) :
    Frame [.mgmt, .freeCtr] s (State.mi s f) := by
  unfold State.mi
  refine Frame.ite ?_ ?_
  · refine Frame.after ?_ (State.miReply_frame _ _) rfl
    exact Frame.refl _ _
  · exact Frame.refl _ _

theorem State.modOp_frame (s : State) (uid : Nat) (f : GroupOp → GroupOp) :
    Frame [.peer] s (State.modOp s uid f) := by
  unfold State.modOp
  refine Frame.after ?_ (State.modPeer_frame _ _) rfl
  exact Frame.refl _ _

theorem State.mismatch_frame (s : State) (o : GroupOp) (src : Nat) (opId : Nat) (offset : Nat) (kind : Nat) (len : Nat) :
    Frame [.ctxs, .cmds, .objs, .arrays, .parts, .nand, .store, .nvme, .peer, .errs, .mgmt, .host, .nextId, .freeCtr] s (State.mismatch s o src opId offset kind len) := by
  unfold State.mismatch
  refine Frame.ite ?_ ?_
  · refine Frame.after ?_ (State.failOp_frame _ _ _) rfl
    exact Frame.refl _ _
  · refine Frame.after ?_ (State.sendMsg_frame _ _) rfl
    refine Frame.after ?_ (State.modOp_frame _ _ _) rfl
    exact Frame.refl _ _

theorem State.modPort_frame (s : State) (p : Nat) (f : Port → Port) :
    Frame [.peer] s (State.modPort s p f) := by
  unfold State.modPort
  refine Frame.after ?_ (State.modPeer_frame _ _) rfl
  exact Frame.refl _ _

theorem State.modRegions_frame (s : State) (f : Region → Region) :
    Frame [.time] s (State.modRegions s f) := by
  unfold State.modRegions
  refine Frame.after ?_ (State.modTime_frame _ _) rfl
  exact Frame.refl _ _

theorem State.modTest_frame (s : State) (kind : Nat) (index : Nat) (f : TestSt → TestSt) :
    Frame [.tests] s (State.modTest s kind index f) := by
  unfold State.modTest
  refine Frame.after ?_ (State.modTests_frame _ _) rfl
  exact Frame.refl _ _

theorem State.nvm_frame {cs : List Comp} {a : State} (s : State) (h : NvmeHdr) (op : Nat) (lba : Nat) (f : State → NsSt → State) (h0 : Frame cs a s) (hf : ∀ (u0 : State) (u1 : NsSt), Frame cs a u0 → Frame cs a (f u0 u1)) (hm : Comp.within [.power, .ctxs, .nvme, .errs, .mgmt] cs = true) :
    Frame cs a (State.nvm s h op lba f) := by
  unfold State.nvm
  refine Frame.ite ?_ ?_
  · assumption
  · extract_lets
    refine Frame.ite ?_ ?_
    · refine Frame.after ?_ (State.nvDone_frame _ _ _ _ _) (Comp.within_trans rfl hm)
      refine Frame.after ?_ (State.begin_frame _ _ _) (Comp.within_trans rfl hm)
      assumption
    · split
      · refine Frame.after ?_ (State.nvDone_frame _ _ _ _ _) (Comp.within_trans rfl hm)
        refine Frame.after ?_ (State.begin_frame _ _ _) (Comp.within_trans rfl hm)
        assumption
      · refine Frame.ite ?_ ?_
        · apply hf
          refine Frame.after ?_ (State.begin_frame _ _ _) (Comp.within_trans rfl hm)
          assumption
        · refine Frame.after ?_ (State.nvDone_frame _ _ _ _ _) (Comp.within_trans rfl hm)
          refine Frame.after ?_ (State.begin_frame _ _ _) (Comp.within_trans rfl hm)
          assumption

theorem State.offLadder_frame (s : State) (die : Nat) (cw : Nat) :
    Frame [.nand] s (State.offLadder s die cw) := by
  unfold State.offLadder
  refine Frame.after ?_ (State.modDie_frame _ _ _) rfl
  exact Frame.refl _ _

theorem State.onMsg_frame {cs : List Comp} {a : State} (s : State) (src : Nat) (opId : Nat) (offset : Nat) (kind : Nat) (payload : List Byte) (dig : Nat) (mode : Nat) (f : State → GroupOp → State) (h0 : Frame cs a s) (hf : ∀ (u0 : State) (u1 : GroupOp), Frame cs a u0 → Frame cs a (f u0 u1)) (hm : Comp.within [.ctxs, .cmds, .objs, .arrays, .parts, .nand, .store, .nvme, .peer, .errs, .mgmt, .host, .nextId, .freeCtr] cs = true) :
    Frame cs a (State.onMsg s src opId offset kind payload dig mode f) := by
  unfold State.onMsg
  refine Frame.ite ?_ ?_
  · assumption
  · refine Frame.ite ?_ ?_
    · refine Frame.after ?_ (State.countStale_frame _ _) (Comp.within_trans rfl hm)
      assumption
    · split
      · assumption
      · refine Frame.ite ?_ ?_
        · assumption
        · refine Frame.ite ?_ ?_
          · refine Frame.after ?_ (State.mismatch_frame _ _ _ _ _ _ _) (Comp.within_trans rfl hm)
            assumption
          · apply hf
            refine Frame.after ?_ (State.modOp_frame _ _ _) (Comp.within_trans rfl hm)
            assumption

theorem State.openPeriod_frame (s : State) (at' : Nat) :
    Frame [.ledger] s (State.openPeriod s at') := by
  unfold State.openPeriod
  refine Frame.after ?_ (State.modLedger_frame _ _) rfl
  exact Frame.refl _ _

theorem State.renewCopies_frame (s : State) (c : Cmd) (t : TilePlan) :
    Frame [.objs] s (State.renewCopies s c t) := by
  unfold State.renewCopies
  refine Frame.foldl _ ?_ (fun u x hu => ?_)
  · exact Frame.refl _ _
  · refine Frame.after ?_ (State.modObj_frame _ _ _) rfl
    assumption

theorem State.stage_frame (s : State) (x1 : Nat) (c : Cmd) (i : Nat) (t : TileSt) (u : State) :
    State.stage s x1 c i t = .ok u → Frame [.cmds, .objs, .arrays] s u := by
  intro h
  unfold State.stage at h
  extract_lets put at h
  split at h
  · cases h
    exact (State.modArr_frame _ _ _).mono rfl
  · split at h
    · cases h
    · extract_lets s1 s2 at h
      cases h
      refine Frame.after ?_ (State.modArr_frame _ _ _) rfl
      refine Frame.after ?_ (State.modArr_frame _ _ _) rfl
      have h0 : Frame [.cmds, .objs, .arrays] s (s.renewCopies c t.plan) := (State.renewCopies_frame _ _ _).mono rfl
      have h1 : Frame [.cmds, .objs, .arrays] s s1 := by
        dsimp only [s1]
        exact h0.after (State.modTile_frame _ _ _ _) rfl
      exact Frame.ite (h1.after (State.modCmd_frame _ _ _) rfl) h1

theorem State.pickLoop_frame (x0 : Nat) (x1 : State) (x2 : Nat) :
    Frame [.ctxs, .cmds, .objs, .arrays, .nand, .nvme, .peer, .mgmt, .nextId, .freeCtr] x1 (State.pickLoop x0 x1 x2) := by
  induction x0 generalizing x1 with
  | zero => exact Frame.refl _ _
  | succ n ih =>
    unfold State.pickLoop
    split
    · exact Frame.refl _ _
    · split
      · exact Frame.refl _ _
      · split
        · exact Frame.refl _ _
        · split
          · rename_i s' hs
            exact (State.stage_frame _ _ _ _ _ _ hs).mono rfl
          · exact Frame.after ((State.endSoft_frame _ _ _ _).mono rfl) (ih _) rfl

theorem State.pick_frame (s : State) (x1 : Nat) :
    Frame [.ctxs, .cmds, .objs, .arrays, .nand, .nvme, .peer, .mgmt, .nextId, .freeCtr] s (State.pick s x1) := by
  unfold State.pick
  extract_lets w1 _ w3 _ w5
  split
  · refine Frame.after ?_ (State.refresh_frame _ _) rfl
    dsimp only [w5]
    clear_value w1
    split
    · refine Frame.after ?_ (State.refresh_frame _ _) rfl
      refine Frame.after ?_ (State.pickLoop_frame _ _ _) rfl
      dsimp only [w3]
      split
      · refine Frame.after ?_ (State.endHard_frame _ _ _ _) rfl
        refine Frame.after ?_ (State.modArr_frame _ _ _) rfl
        exact Frame.refl _ _
      · refine Frame.after ?_ (State.modArr_frame _ _ _) rfl
        exact Frame.refl _ _
    · refine Frame.after ?_ (State.pickLoop_frame _ _ _) rfl
      dsimp only [w3]
      split
      · refine Frame.after ?_ (State.endHard_frame _ _ _ _) rfl
        refine Frame.after ?_ (State.modArr_frame _ _ _) rfl
        exact Frame.refl _ _
      · refine Frame.after ?_ (State.modArr_frame _ _ _) rfl
        exact Frame.refl _ _
  · dsimp only [w5]
    clear_value w1
    split
    · refine Frame.after ?_ (State.refresh_frame _ _) rfl
      refine Frame.after ?_ (State.pickLoop_frame _ _ _) rfl
      dsimp only [w3]
      split
      · refine Frame.after ?_ (State.endHard_frame _ _ _ _) rfl
        refine Frame.after ?_ (State.modArr_frame _ _ _) rfl
        exact Frame.refl _ _
      · refine Frame.after ?_ (State.modArr_frame _ _ _) rfl
        exact Frame.refl _ _
    · refine Frame.after ?_ (State.pickLoop_frame _ _ _) rfl
      dsimp only [w3]
      split
      · refine Frame.after ?_ (State.endHard_frame _ _ _ _) rfl
        refine Frame.after ?_ (State.modArr_frame _ _ _) rfl
        exact Frame.refl _ _
      · refine Frame.after ?_ (State.modArr_frame _ _ _) rfl
        exact Frame.refl _ _

theorem State.post_frame (s : State) (c : Cmd) (q : QueueSt) :
    Frame [.ctxs, .cmds, .objs, .store, .nvme, .ledger, .mgmt, .host, .freeCtr] s (State.post s c q) := by
  unfold State.post
  extract_lets
  refine Frame.after ?_ (State.dropRefs_frame _ _) rfl
  refine Frame.after ?_ (State.freeSlot_frame _ _) rfl
  refine Frame.after ?_ (State.modCmds_frame _ _) rfl
  refine Frame.after ?_ (State.modNvme_frame _ _) rfl
  refine Frame.after ?_ (State.drawn_frame _) rfl
  refine Frame.ite ?_ ?_
  · refine Frame.after ?_ (State.modCtx_frame _ _ _) rfl
    refine Frame.after ?_ (State.hostWrite_frame _ _ _) rfl
    refine Frame.ite ?_ ?_
    · refine Frame.after ?_ (State.addStats_frame _ _) rfl
      refine Frame.after ?_ (State.hostWrite_frame _ _ _) rfl
      exact Frame.refl _ _
    · exact Frame.refl _ _
  · refine Frame.after ?_ (State.signal_frame _ _ _) rfl
    refine Frame.after ?_ (State.modCtx_frame _ _ _) rfl
    refine Frame.after ?_ (State.hostWrite_frame _ _ _) rfl
    refine Frame.ite ?_ ?_
    · refine Frame.after ?_ (State.addStats_frame _ _) rfl
      refine Frame.after ?_ (State.hostWrite_frame _ _ _) rfl
      exact Frame.refl _ _
    · exact Frame.refl _ _

theorem State.powerOn_frame (s0 : State) (cause : Nat) :
    Frame [.power, .time, .ctxs, .cmds, .objs, .arrays, .parts, .tests, .nand, .store, .nvme, .peer, .errs, .ledger, .mgmt, .freeCtr] s0 (State.powerOn s0 cause) := by
  unfold State.powerOn
  extract_lets u
  have hu : Frame [.power, .time, .ctxs, .cmds, .objs, .arrays, .parts, .tests, .nand, .store, .nvme, .peer, .errs, .ledger, .mgmt, .freeCtr] s0 u := ((State.loseCmds_frame _ _).mono rfl).after (State.clearContexts_frame _) rfl
  exact Frame.upd hu (fun c hc => by cases c <;> first | rfl | exact absurd (by decide) hc)

theorem State.readJournal_frame (s : State) :
    Frame [.store] s (State.readJournal s) := by
  unfold State.readJournal
  refine Frame.foldl _ ?_ (fun u x hu => ?_)
  · exact Frame.refl _ _
  · refine Frame.after ?_ (State.queueErase_frame _ _) rfl
    refine Frame.after ?_ (State.modStore_frame _ _) rfl
    assumption

theorem State.readPage_frame (s : State) (die : Nat) (r : NandReq) (cws : List CwRead) :
    Frame [.nand, .ledger, .freeCtr] s (State.readPage s die r cws) := by
  unfold State.readPage
  extract_lets
  refine Frame.after ?_ (State.modDie_frame _ _ _) rfl
  refine Frame.after ?_ (State.deliver_frame _ _ _) rfl
  refine Frame.ite ?_ ?_
  · refine Frame.after ?_ (State.modBlock_frame _ _ _ _) rfl
    refine Frame.after ?_ (State.modNand_frame _ _) rfl
    exact Frame.refl _ _
  · refine Frame.after ?_ (State.modNand_frame _ _) rfl
    exact Frame.refl _ _

theorem State.readRange_frame {cs : List Comp} {a : State} (s : State) (h : NvmeHdr) (n : NsSt) (slba : Nat) (nlb : Nat) (prchk : Nat) (pi : PiArgs) (xfer : Bool) (f : State → List Blk → State) (h0 : Frame cs a s) (hf : ∀ (u0 : State) (u1 : List Blk), Frame cs a u0 → Frame cs a (f u0 u1)) (hm : Comp.within [.ctxs, .tests, .nvme, .errs, .ledger, .mgmt, .freeCtr] cs = true) :
    Frame cs a (State.readRange s h n slba nlb prchk pi xfer f) := by
  unfold State.readRange
  split
  · refine Frame.after ?_ (State.nvDone_frame _ _ _ _ _) (Comp.within_trans rfl hm)
    assumption
  · refine Frame.ite ?_ ?_
    · refine Frame.after ?_ (State.nvDone_frame _ _ _ _ _) (Comp.within_trans rfl hm)
      assumption
    · refine Frame.ite ?_ ?_
      · refine Frame.ite ?_ ?_
        · refine Frame.after ?_ (State.nvDone_frame _ _ _ _ _) (Comp.within_trans rfl hm)
          assumption
        · assumption
      · split
        · refine Frame.after ?_ (State.nvDoneAt_frame _ _ _ _ _ _) (Comp.within_trans rfl hm)
          assumption
        · extract_lets
          split
          · refine Frame.after ?_ (State.guardFault_frame _ _ _ _) (Comp.within_trans rfl hm)
            refine Frame.ite ?_ ?_
            · assumption
            · refine Frame.after ?_ (State.charge_frame _ _ _) (Comp.within_trans rfl hm)
              assumption
          · split
            · refine Frame.after ?_ (State.nvDone_frame _ _ _ _ _) (Comp.within_trans rfl hm)
              refine Frame.ite ?_ ?_
              · assumption
              · refine Frame.after ?_ (State.charge_frame _ _ _) (Comp.within_trans rfl hm)
                assumption
            · apply hf
              refine Frame.ite ?_ ?_
              · assumption
              · refine Frame.after ?_ (State.charge_frame _ _ _) (Comp.within_trans rfl hm)
                assumption

theorem State.reclamp_frame (s : State) :
    Frame [.power] s (State.reclamp s) := by
  unfold State.reclamp
  refine Frame.ite ?_ ?_
  · exact Frame.refl _ _
  · refine Frame.after ?_ (State.modRails_frame _ _) rfl
    exact Frame.refl _ _

theorem State.resetFlash_frame (s : State) :
    Frame [.time, .ctxs, .cmds, .objs, .arrays, .parts, .nand, .store, .nvme, .peer, .errs, .mgmt, .host, .nextId, .freeCtr] s (State.resetFlash s) := by
  unfold State.resetFlash
  extract_lets
  refine Frame.after ?_ (State.stopRegions_frame _ _) rfl
  refine Frame.after ?_ (State.nandReset_frame _) rfl
  refine Frame.after ?_ (State.endNvme_frame _ _ _) rfl
  refine Frame.after ?_ (State.endInternal_frame _ _) rfl
  exact Frame.refl _ _

theorem State.resetMatrix_frame (s : State) (d : Nat) :
    Frame [.time, .ctxs, .cmds, .objs, .arrays, .parts, .tests, .nand, .store, .nvme, .peer, .errs, .mgmt, .host, .nextId, .freeCtr] s (State.resetMatrix s d) := by
  unfold State.resetMatrix
  extract_lets
  refine Frame.after ?_ (State.stopRegions_frame _ _) rfl
  refine Frame.after ?_ (State.loseT0_frame _ _) rfl
  refine Frame.after ?_ (State.modArrays_frame _ _) rfl
  refine Frame.after ?_ (State.abandonTests_frame _ _) rfl
  refine Frame.after ?_ (State.endInternal_frame _ _) rfl
  exact Frame.refl _ _

theorem State.recover_frame (s : State) (d : Nat) (cause : Nat) :
    Frame [.power, .time, .ctxs, .cmds, .objs, .arrays, .parts, .tests, .nand, .store, .nvme, .peer, .errs, .ledger, .mgmt, .host, .nextId, .freeCtr] s (State.recover s d cause) := by
  unfold State.recover
  refine Frame.ite ?_ ?_
  · exact Frame.refl _ _
  · extract_lets
    refine Frame.ite ?_ ?_
    · refine Frame.after ?_ (State.enterFailed_frame _ _) rfl
      refine Frame.after ?_ (State.modPower_frame _ _) rfl
      refine Frame.ite ?_ ?_
      · refine Frame.after ?_ (State.haltCores_frame _) rfl
        refine Frame.after ?_ (State.logErr_frame _ _) rfl
        refine Frame.after ?_ (State.modPower_frame _ _) rfl
        exact Frame.refl _ _
      · refine Frame.ite ?_ ?_
        · refine Frame.after ?_ (State.resetFlash_frame _) rfl
          refine Frame.after ?_ (State.logErr_frame _ _) rfl
          refine Frame.after ?_ (State.modPower_frame _ _) rfl
          exact Frame.refl _ _
        · refine Frame.after ?_ (State.resetMatrix_frame _ _) rfl
          refine Frame.after ?_ (State.logErr_frame _ _) rfl
          refine Frame.after ?_ (State.modPower_frame _ _) rfl
          exact Frame.refl _ _
    · refine Frame.after ?_ (State.modPower_frame _ _) rfl
      refine Frame.ite ?_ ?_
      · refine Frame.after ?_ (State.haltCores_frame _) rfl
        refine Frame.after ?_ (State.logErr_frame _ _) rfl
        refine Frame.after ?_ (State.modPower_frame _ _) rfl
        exact Frame.refl _ _
      · refine Frame.ite ?_ ?_
        · refine Frame.after ?_ (State.resetFlash_frame _) rfl
          refine Frame.after ?_ (State.logErr_frame _ _) rfl
          refine Frame.after ?_ (State.modPower_frame _ _) rfl
          exact Frame.refl _ _
        · refine Frame.after ?_ (State.resetMatrix_frame _ _) rfl
          refine Frame.after ?_ (State.logErr_frame _ _) rfl
          refine Frame.after ?_ (State.modPower_frame _ _) rfl
          exact Frame.refl _ _

theorem State.refuse_frame (s : State) (off : Nat) (status : Nat) :
    Frame [.mgmt] s (State.refuse s off status) := by
  unfold State.refuse
  refine Frame.after ?_ (State.modMgmt_frame _ _) rfl
  exact Frame.refl _ _

theorem State.regulate_frame (s : State) :
    Frame [.power] s (State.regulate s) := by
  unfold State.regulate
  refine Frame.ite ?_ ?_
  · exact Frame.refl _ _
  · refine Frame.after ?_ (State.modRails_frame _ _) rfl
    exact Frame.refl _ _

theorem State.relay_frame (s : State) (bs : List Byte) :
    Frame [.peer] s (State.relay s bs) := by
  unfold State.relay
  extract_lets
  split
  · refine Frame.ite ?_ ?_
    · refine Frame.after ?_ (State.modPeer_frame _ _) rfl
      exact Frame.refl _ _
    · exact Frame.refl _ _
  · exact Frame.refl _ _

theorem State.release_frame (s : State) (die : Nat) (block : Nat) :
    Frame [.nand] s (State.release s die block) := by
  unfold State.release
  refine Frame.after ?_ (State.dueErase_frame _ _ _) rfl
  refine Frame.after ?_ (State.modBlock_frame _ _ _ _) rfl
  exact Frame.refl _ _

theorem State.releaseStripe_frame (s : State) (g : Nat) (block : Nat) :
    Frame [.nand] s (State.releaseStripe s g block) := by
  unfold State.releaseStripe
  refine Frame.foldl _ ?_ (fun u x hu => ?_)
  · exact Frame.refl _ _
  · refine Frame.ite ?_ ?_
    · assumption
    · refine Frame.after ?_ (State.release_frame _ _ _) rfl
      assumption

theorem State.relevel_frame (s : State) (addr : Nat) :
    Frame [.power, .nvme, .errs, .mgmt] s (State.relevel s addr) := by
  unfold State.relevel
  extract_lets
  refine Frame.after ?_ (State.reclamp_frame _) rfl
  refine Frame.after ?_ (State.noteCritical_frame _ _) rfl
  refine Frame.ite ?_ ?_
  · refine Frame.after ?_ (State.logThermal_frame _ _) rfl
    refine Frame.after ?_ (State.modPower_frame _ _) rfl
    exact Frame.refl _ _
  · refine Frame.after ?_ (State.modPower_frame _ _) rfl
    exact Frame.refl _ _

theorem State.rerankQuery_frame (s : State) (uid : Nat) (q : Nat) :
    Frame [.ctxs, .cmds, .objs, .arrays, .nand, .nvme, .peer, .ledger, .mgmt, .nextId, .freeCtr] s (State.rerankQuery s uid q) := by
  unfold State.rerankQuery
  split
  · exact Frame.refl _ _
  · refine Frame.ite ?_ ?_
    · exact Frame.refl _ _
    · extract_lets
      refine Frame.ite ?_ ?_
      · refine Frame.after ?_ (State.conclude_frame _ _ _ _ _) rfl
        exact Frame.refl _ _
      · split
        · refine Frame.after ?_ (State.conclude_frame _ _ _ _ _) rfl
          exact Frame.refl _ _
        · extract_lets
          refine Frame.after ?_ (State.searchDone_frame _ _) rfl
          refine Frame.after ?_ (State.modQuery_frame _ _ _ _) rfl
          refine Frame.after ?_ (State.charge_frame _ _ _) rfl
          refine Frame.after ?_ (State.searchPasses_frame _ _ _) rfl
          exact Frame.refl _ _

theorem State.resetPart_frame (s : State) (part : Nat) :
    Frame [.ctxs, .cmds, .objs, .arrays, .parts, .tests, .nand, .store, .nvme, .peer, .errs, .mgmt, .host, .nextId, .freeCtr] s (State.resetPart s part) := by
  unfold State.resetPart
  extract_lets
  refine Frame.after ?_ (State.recheck_frame _) rfl
  refine Frame.after ?_ (State.settle_frame _) rfl
  refine Frame.foldl _ ?_ (fun u x hu => ?_)
  · refine Frame.after ?_ (State.abandonTests_frame _ _) rfl
    refine Frame.after ?_ (State.dropStaging_frame _ _) rfl
    refine Frame.foldl _ ?_ (fun u x hu => ?_)
    · refine Frame.after ?_ (State.concludeAll_frame _ _ _) rfl
      refine Frame.after ?_ (State.endOps_frame _ _ _) rfl
      exact Frame.refl _ _
    · refine Frame.after ?_ (State.modArr_frame _ _ _) rfl
      assumption
  · refine Frame.after ?_ (State.modPart_frame _ _ _) rfl
    assumption

theorem State.retireArray_frame (s : State) (x1 : Nat) :
    Frame [.ctxs, .cmds, .objs, .arrays, .parts, .nand, .store, .nvme, .peer, .errs, .mgmt, .host, .nextId, .freeCtr] s (State.retireArray s x1) := by
  unfold State.retireArray
  extract_lets
  refine Frame.after ?_ (State.recheck_frame _) rfl
  refine Frame.after ?_ (State.settle_frame _) rfl
  refine Frame.after ?_ (State.endService_frame _ _) rfl
  refine Frame.foldl _ ?_ (fun u x hu => ?_)
  · refine Frame.after ?_ (State.modCmds_frame _ _) rfl
    refine Frame.after ?_ (State.modArr_frame _ _ _) rfl
    exact Frame.refl _ _
  · refine Frame.after ?_ (State.refresh_frame _ _) rfl
    assumption

theorem State.retireDie_frame (s : State) (d : Nat) :
    Frame [.nand] s (State.retireDie s d) := by
  unfold State.retireDie
  refine Frame.ite ?_ ?_
  · exact Frame.refl _ _
  · refine Frame.after ?_ (State.modNand_frame _ _) rfl
    refine Frame.after ?_ (State.modGroup_frame _ _ _) rfl
    refine Frame.after ?_ (State.modDie_frame _ _ _) rfl
    exact Frame.refl _ _

theorem State.retireBlock_frame (s : State) (d : Nat) (b : Nat) :
    Frame [.nand] s (State.retireBlock s d b) := by
  unfold State.retireBlock
  refine Frame.ite ?_ ?_
  · exact Frame.refl _ _
  · extract_lets
    refine Frame.ite ?_ ?_
    · refine Frame.after ?_ (State.retireDie_frame _ _) rfl
      refine Frame.after ?_ (State.modNand_frame _ _) rfl
      refine Frame.after ?_ (State.modDie_frame _ _ _) rfl
      refine Frame.after ?_ (State.modBlock_frame _ _ _ _) rfl
      exact Frame.refl _ _
    · refine Frame.after ?_ (State.modNand_frame _ _) rfl
      refine Frame.after ?_ (State.modDie_frame _ _ _) rfl
      refine Frame.after ?_ (State.modBlock_frame _ _ _ _) rfl
      exact Frame.refl _ _

theorem State.retireUnit_frame (s : State) (t : TestSt) (axis : Nat) :
    Frame [.ctxs, .cmds, .objs, .arrays, .parts, .nand, .store, .nvme, .peer, .errs, .mgmt, .host, .nextId, .freeCtr] s (State.retireUnit s t axis) := by
  unfold State.retireUnit
  extract_lets
  refine Frame.ite ?_ ?_
  · refine Frame.ite ?_ ?_
    · refine Frame.ite ?_ ?_
      · refine Frame.after ?_ (State.modArr_frame _ _ _) rfl
        refine Frame.after ?_ (State.logVerdict_frame _ _ _) rfl
        refine Frame.after ?_ (State.modStore_frame _ _) rfl
        exact Frame.refl _ _
      · refine Frame.after ?_ (State.retireArray_frame _ _) rfl
        refine Frame.after ?_ (State.logVerdict_frame _ _ _) rfl
        refine Frame.after ?_ (State.modStore_frame _ _) rfl
        exact Frame.refl _ _
    · refine Frame.ite ?_ ?_
      · refine Frame.after ?_ (State.modArr_frame _ _ _) rfl
        refine Frame.after ?_ (State.logVerdict_frame _ _ _) rfl
        refine Frame.after ?_ (State.modStore_frame _ _) rfl
        exact Frame.refl _ _
      · refine Frame.after ?_ (State.retireArray_frame _ _) rfl
        refine Frame.after ?_ (State.logVerdict_frame _ _ _) rfl
        refine Frame.after ?_ (State.modStore_frame _ _) rfl
        exact Frame.refl _ _
  · refine Frame.ite ?_ ?_
    · refine Frame.after ?_ (State.retireArray_frame _ _) rfl
      refine Frame.after ?_ (State.logVerdict_frame _ _ _) rfl
      refine Frame.after ?_ (State.modStore_frame _ _) rfl
      exact Frame.refl _ _
    · refine Frame.ite ?_ ?_
      · refine Frame.ite ?_ ?_
        · refine Frame.after ?_ (State.retireDie_frame _ _) rfl
          refine Frame.after ?_ (State.logVerdict_frame _ _ _) rfl
          refine Frame.after ?_ (State.modStore_frame _ _) rfl
          exact Frame.refl _ _
        · refine Frame.after ?_ (State.retireBlock_frame _ _ _) rfl
          refine Frame.after ?_ (State.logVerdict_frame _ _ _) rfl
          refine Frame.after ?_ (State.modStore_frame _ _) rfl
          exact Frame.refl _ _
      · refine Frame.ite ?_ ?_
        · refine Frame.after ?_ (State.modNand_frame _ _) rfl
          refine Frame.after ?_ (State.logVerdict_frame _ _ _) rfl
          refine Frame.after ?_ (State.modStore_frame _ _) rfl
          exact Frame.refl _ _
        · refine Frame.ite ?_ ?_
          · refine Frame.after ?_ (State.modPeer_frame _ _) rfl
            refine Frame.after ?_ (State.logVerdict_frame _ _ _) rfl
            refine Frame.after ?_ (State.modStore_frame _ _) rfl
            exact Frame.refl _ _
          · refine Frame.after ?_ (State.logVerdict_frame _ _ _) rfl
            refine Frame.after ?_ (State.modStore_frame _ _) rfl
            exact Frame.refl _ _

theorem State.returnArray_frame (s : State) (x1 : Nat) :
    Frame [.arrays] s (State.returnArray s x1) := by
  unfold State.returnArray
  refine Frame.ite ?_ ?_
  · refine Frame.after ?_ (State.modArr_frame _ _ _) rfl
    exact Frame.refl _ _
  · exact Frame.refl _ _

theorem State.rowVerdict_frame (s : State) (x1 : Nat) (pass : Nat) (row : Nat) :
    Frame [.ctxs, .cmds, .objs, .arrays, .tests, .nand, .nvme, .peer, .errs, .mgmt, .nextId, .freeCtr] s (State.rowVerdict s x1 pass row) := by
  unfold State.rowVerdict
  split
  · exact Frame.refl _ _
  · split
    · exact Frame.refl _ _
    · split
      · exact Frame.refl _ _
      · extract_lets
        refine Frame.ite ?_ ?_
        · exact Frame.refl _ _
        · refine Frame.ite ?_ ?_
          · refine Frame.ite ?_ ?_
            · refine Frame.after ?_ (State.refresh_frame _ _) rfl
              refine Frame.after ?_ (State.modTile_frame _ _ _ _) rfl
              refine Frame.after ?_ (State.modArr_frame _ _ _) rfl
              exact Frame.refl _ _
            · rename_i w2 _ _ _ _ _ _
              dsimp only [w2]
              refine Frame.after ?_ (State.modArr_frame _ _ _) rfl
              exact Frame.refl _ _
          · refine Frame.ite ?_ ?_
            · refine Frame.after ?_ (State.failCheck_frame _ _ _) rfl
              refine Frame.after ?_ (State.logCheck_frame _ _ _ _ _ _) rfl
              refine Frame.after ?_ (State.modCmd_frame _ _ _) rfl
              exact Frame.refl _ _
            · refine Frame.ite ?_ ?_
              · refine Frame.after ?_ (State.refresh_frame _ _) rfl
                refine Frame.after ?_ (State.modTile_frame _ _ _ _) rfl
                refine Frame.after ?_ (State.modArr_frame _ _ _) rfl
                refine Frame.after ?_ (State.modTile_frame _ _ _ _) rfl
                refine Frame.after ?_ (State.logCheck_frame _ _ _ _ _ _) rfl
                refine Frame.after ?_ (State.modCmd_frame _ _ _) rfl
                exact Frame.refl _ _
              · rename_i w3 _ _ _ _ _ _
                dsimp only [w3]
                refine Frame.after ?_ (State.modArr_frame _ _ _) rfl
                refine Frame.after ?_ (State.modTile_frame _ _ _ _) rfl
                refine Frame.after ?_ (State.logCheck_frame _ _ _ _ _ _) rfl
                refine Frame.after ?_ (State.modCmd_frame _ _ _) rfl
                exact Frame.refl _ _

theorem State.wipe_frame (s : State) :
    Frame [.ctxs, .objs, .nand, .store, .nvme, .errs, .mgmt] s (State.wipe s) := by
  unfold State.wipe
  extract_lets
  refine Frame.foldl _ ?_ (fun u x hu => ?_)
  · refine Frame.after ?_ (State.modCtxs_frame _ _) rfl
    refine Frame.after ?_ (State.modNvme_frame _ _) rfl
    refine Frame.foldl _ ?_ (fun u x hu => ?_)
    · exact Frame.refl _ _
    · refine Frame.after ?_ (State.dropNsCache_frame _ _) rfl
      assumption
  · refine Frame.after ?_ (State.destroyObj_frame _ _) rfl
    assumption

theorem State.sanitizeStart_frame (s : State) (h : NvmeHdr) (kind : Nat) :
    Frame [.ctxs, .objs, .nand, .store, .nvme, .errs, .mgmt] s (State.sanitizeStart s h kind) := by
  unfold State.sanitizeStart
  refine Frame.ite ?_ ?_
  · refine Frame.after ?_ (State.nvDone_frame _ _ _ _ _) rfl
    exact Frame.refl _ _
  · refine Frame.ite ?_ ?_
    · refine Frame.after ?_ (State.nvDone_frame _ _ _ _ _) rfl
      exact Frame.refl _ _
    · extract_lets
      refine Frame.after ?_ (State.nvDone_frame _ _ _ _ _) rfl
      refine Frame.after ?_ (State.modNvme_frame _ _) rfl
      refine Frame.after ?_ (State.wipe_frame _) rfl
      exact Frame.refl _ _

theorem State.searchStep_frame {cs : List Comp} {a : State} (s : State) (ok : Bool) (f : State → State) (h0 : Frame cs a s) (hf : ∀ (u0 : State), Frame cs a u0 → Frame cs a (f u0)) (hm : Comp.within [.ctxs, .cmds, .objs, .arrays, .parts, .nand, .store, .nvme, .peer, .errs, .mgmt, .host, .nextId, .freeCtr] cs = true) :
    Frame cs a (State.searchStep s ok f) := by
  unfold State.searchStep
  refine Frame.ite ?_ ?_
  · refine Frame.after ?_ (State.recheck_frame _) (Comp.within_trans rfl hm)
    refine Frame.after ?_ (State.settle_frame _) (Comp.within_trans rfl hm)
    apply hf
    assumption
  · assumption

theorem State.sendLog_frame (s : State) (h : NvmeHdr) (dst : Nat) (off : Nat) (len : Nat) (bs : List Byte) :
    Frame [.ctxs, .nvme, .errs, .mgmt, .host, .freeCtr] s (State.sendLog s h dst off len bs) := by
  unfold State.sendLog
  refine Frame.after ?_ (State.nvDone_frame _ _ _ _ _) rfl
  refine Frame.after ?_ (State.drawn_frame _) rfl
  refine Frame.after ?_ (State.hostWrite_frame _ _ _) rfl
  exact Frame.refl _ _

theorem State.sendNak_frame (s : State) (port : Nat) :
    Frame [.peer] s (State.sendNak s port) := by
  unfold State.sendNak
  refine Frame.ite ?_ ?_
  · exact Frame.refl _ _
  · refine Frame.after ?_ (State.modPeer_frame _ _) rfl
    refine Frame.after ?_ (State.modPort_frame _ _ _) rfl
    exact Frame.refl _ _

theorem State.sendPage_frame (s : State) (h : NvmeHdr) (dst : Nat) (bs : List Byte) :
    Frame [.ctxs, .nvme, .errs, .mgmt, .host, .freeCtr] s (State.sendPage s h dst bs) := by
  unfold State.sendPage
  refine Frame.after ?_ (State.nvDone_frame _ _ _ _ _) rfl
  refine Frame.after ?_ (State.drawn_frame _) rfl
  refine Frame.after ?_ (State.hostWrite_frame _ _ _) rfl
  exact Frame.refl _ _

theorem State.sendTable_frame (s : State) (uid : Nat) (q : Nat) :
    Frame [.ctxs, .cmds, .objs, .arrays, .nand, .nvme, .peer, .ledger, .mgmt, .nextId, .freeCtr] s (State.sendTable s uid q) := by
  unfold State.sendTable
  split
  · exact Frame.refl _ _
  · refine Frame.ite ?_ ?_
    · exact Frame.refl _ _
    · extract_lets
      refine Frame.ite ?_ ?_
      · exact Frame.refl _ _
      · split
        · refine Frame.after ?_ (State.conclude_frame _ _ _ _ _) rfl
          refine Frame.ite ?_ ?_
          · refine Frame.after ?_ (State.bump_frame _) rfl
            refine Frame.after ?_ (State.modCmd_frame _ _ _) rfl
            rename_i w3 _ _ _ _ _
            dsimp only [w3]
            split
            · refine Frame.after ?_ (State.searchPasses_frame _ _ _) rfl
              refine Frame.after ?_ (State.modCmd_frame _ _ _) rfl
              exact Frame.refl _ _
            · refine Frame.after ?_ (State.modCmd_frame _ _ _) rfl
              exact Frame.refl _ _
          · exact Frame.refl _ _
        · refine Frame.after ?_ (State.charge_frame _ _ _) rfl
          refine Frame.after ?_ (State.modCmd_frame _ _ _) rfl
          refine Frame.after ?_ (State.modQuery_frame _ _ _ _) rfl
          refine Frame.ite ?_ ?_
          · refine Frame.after ?_ (State.bump_frame _) rfl
            refine Frame.after ?_ (State.modCmd_frame _ _ _) rfl
            rename_i w4 _ _ _ _ _ _ _
            dsimp only [w4]
            split
            · refine Frame.after ?_ (State.searchPasses_frame _ _ _) rfl
              refine Frame.after ?_ (State.modCmd_frame _ _ _) rfl
              exact Frame.refl _ _
            · refine Frame.after ?_ (State.modCmd_frame _ _ _) rfl
              exact Frame.refl _ _
          · exact Frame.refl _ _

theorem State.setFeat_frame {cs : List Comp} {a : State} (s : State) (h : NvmeHdr) (fid : Nat) (f : State → State) (h0 : Frame cs a s) (hf : ∀ (u0 : State), Frame cs a u0 → Frame cs a (f u0)) (hm : Comp.within [.power, .ctxs, .nvme, .errs, .mgmt] cs = true) :
    Frame cs a (State.setFeat s h fid f) := by
  unfold State.setFeat
  refine State.admin_frame _ _ _ _ _ ?_ ?_ (Comp.within_trans rfl hm)
  · assumption
  · intro _
    intro _
    refine Frame.ite ?_ ?_
    · refine Frame.after ?_ (State.nvDone_frame _ _ _ _ _) (Comp.within_trans rfl hm)
      assumption
    · apply hf
      assumption

theorem State.slotWrite_frame (s : State) (ctx : Nat) (slot : Nat) (off : Nat) (data : List Byte) :
    Frame [.ctxs, .cmds, .objs, .arrays, .parts, .nand, .store, .nvme, .peer, .errs, .mgmt, .host, .nextId, .freeCtr] s (State.slotWrite s ctx slot off data) := by
  unfold State.slotWrite
  extract_lets
  refine Frame.ite ?_ ?_
  · exact Frame.refl _ _
  · refine Frame.ite ?_ ?_
    · refine Frame.after ?_ (State.modCtx_frame _ _ _) rfl
      exact Frame.refl _ _
    · refine Frame.ite ?_ ?_
      · exact Frame.refl _ _
      · refine Frame.ite ?_ ?_
        · refine Frame.ite ?_ ?_
          · refine Frame.after ?_ (State.settle_frame _) rfl
            refine Frame.after ?_ (State.faultCtx_frame _ _ _ _ _ _ _) rfl
            refine Frame.after ?_ (State.bump_frame _) rfl
            refine Frame.after ?_ (State.modCtx_frame _ _ _) rfl
            exact Frame.refl _ _
          · refine Frame.after ?_ (State.bump_frame _) rfl
            refine Frame.after ?_ (State.modCtx_frame _ _ _) rfl
            exact Frame.refl _ _
        · refine Frame.after ?_ (State.modCtx_frame _ _ _) rfl
          exact Frame.refl _ _

theorem State.sqTail_frame (s : State) (ctx : Nat) (queue : Nat) (tail : Nat) (entries : List (List Byte)) :
    Frame [.ctxs, .cmds, .objs, .arrays, .parts, .nand, .store, .nvme, .peer, .errs, .mgmt, .host, .nextId, .freeCtr] s (State.sqTail s ctx queue tail entries) := by
  unfold State.sqTail
  split
  · exact Frame.refl _ _
  · refine Frame.ite ?_ ?_
    · exact Frame.refl _ _
    · refine Frame.ite ?_ ?_
      · refine Frame.after ?_ (State.doorbellFault_frame _ _ _ _) rfl
        exact Frame.refl _ _
      · refine Frame.ite ?_ ?_
        · exact Frame.refl _ _
        · refine Frame.after ?_ (State.checkHeads_frame _ _) rfl
          refine Frame.after ?_ (State.modCtx_frame _ _ _) rfl
          exact Frame.refl _ _

theorem State.startTime_frame (s : State) :
    Frame [.time] s (State.startTime s) := by
  unfold State.startTime
  refine Frame.ite ?_ ?_
  · exact Frame.refl _ _
  · refine Frame.after ?_ (State.modTime_frame _ _) rfl
    exact Frame.refl _ _

theorem State.start_frame (s : State) (cause : Nat) (refclk : Bool) :
    Frame [.power, .time, .ctxs, .objs, .nand, .store, .nvme, .peer, .errs, .ledger, .mgmt, .freeCtr] s (State.start s cause refclk) := by
  unfold State.start
  extract_lets
  refine Frame.after ?_ (State.modNvme_frame _ _) rfl
  refine Frame.after ?_ (State.modPeer_frame _ _) rfl
  refine Frame.after ?_ (State.modPower_frame _ _) rfl
  refine Frame.after ?_ (State.modObjs_frame _ _) rfl
  refine Frame.after ?_ (State.retarget_frame _) rfl
  refine Frame.after ?_ (State.discardVolatile_frame _) rfl
  refine Frame.after ?_ (State.commitCache_frame _) rfl
  refine Frame.after ?_ (State.copyRecords_frame _ _) rfl
  refine Frame.after ?_ (State.dropQuiet_frame _) rfl
  refine Frame.after ?_ (State.readPlans_frame _) rfl
  refine Frame.ite ?_ ?_
  · refine Frame.after ?_ (State.meetRecords_frame _) rfl
    refine Frame.after ?_ (State.lockRegions_frame _) rfl
    refine Frame.after ?_ (State.startTime_frame _) rfl
    refine Frame.after ?_ (State.boot_frame _) rfl
    refine Frame.after ?_ (State.readJournal_frame _) rfl
    refine Frame.after ?_ (State.modPower_frame _ _) rfl
    exact Frame.refl _ _
  · refine Frame.after ?_ (State.openPeriod_frame _ _) rfl
    refine Frame.after ?_ (State.meetRecords_frame _) rfl
    refine Frame.after ?_ (State.lockRegions_frame _) rfl
    refine Frame.after ?_ (State.startTime_frame _) rfl
    refine Frame.after ?_ (State.boot_frame _) rfl
    refine Frame.after ?_ (State.readJournal_frame _) rfl
    refine Frame.after ?_ (State.modPower_frame _ _) rfl
    exact Frame.refl _ _

theorem State.startCheck_frame (s : State) :
    Frame [.power] s (State.startCheck s) := by
  unfold State.startCheck
  refine Frame.ite ?_ ?_
  · exact Frame.refl _ _
  · refine Frame.after ?_ (State.modPower_frame _ _) rfl
    exact Frame.refl _ _

theorem State.startOn_frame (s : State) (die : Nat) (pos : Nat) (r : NandReq) :
    Frame [.nand] s (State.startOn s die pos r) := by
  unfold State.startOn
  extract_lets
  split
  · refine Frame.after ?_ (State.modBlock_frame _ _ _ _) rfl
    refine Frame.after ?_ (State.modDie_frame _ _ _) rfl
    exact Frame.refl _ _
  · refine Frame.after ?_ (State.modDie_frame _ _ _) rfl
    exact Frame.refl _ _
  · refine Frame.after ?_ (State.modGroup_frame _ _ _) rfl
    refine Frame.after ?_ (State.modDie_frame _ _ _) rfl
    exact Frame.refl _ _
  · refine Frame.ite ?_ ?_
    · refine Frame.after ?_ (State.modGroup_frame _ _ _) rfl
      refine Frame.after ?_ (State.modDie_frame _ _ _) rfl
      exact Frame.refl _ _
    · refine Frame.after ?_ (State.modDie_frame _ _ _) rfl
      exact Frame.refl _ _

theorem State.submit_frame (s : State) (es : List Extent) :
    Frame [.ctxs, .nvme, .errs, .mgmt, .nextId] s (State.submit s es) := by
  unfold State.submit
  extract_lets
  refine Frame.ite ?_ ?_
  · refine Frame.after ?_ (State.admitPieces_frame _ _) rfl
    refine Frame.after ?_ (State.bumpBy_frame _ _) rfl
    exact Frame.refl _ _
  · refine Frame.after ?_ (State.modNvme_frame _ _) rfl
    refine Frame.after ?_ (State.bumpBy_frame _ _) rfl
    exact Frame.refl _ _

theorem State.train_frame (s : State) (port : Nat) :
    Frame [.peer] s (State.train s port) := by
  unfold State.train
  refine Frame.ite ?_ ?_
  · refine Frame.after ?_ (State.modPort_frame _ _ _) rfl
    exact Frame.refl _ _
  · exact Frame.refl _ _

theorem State.uncorrectable_frame (s : State) (die : Nat) (cw : Nat) (r : NandReq) :
    Frame [.ctxs, .cmds, .objs, .arrays, .parts, .tests, .nand, .store, .nvme, .peer, .errs, .mgmt, .host, .nextId, .freeCtr] s (State.uncorrectable s die cw r) := by
  unfold State.uncorrectable
  extract_lets _ w2 _ w4
  clear_value w2
  split
  · refine Frame.after ?_ (State.recheck_frame _) rfl
    refine Frame.after ?_ (State.settle_frame _) rfl
    refine Frame.after ?_ (State.conclude_frame _ _ _ _ _) rfl
    refine Frame.after ?_ (State.endOps_frame _ _ _) rfl
    dsimp only [w4]
    split
    · refine Frame.after ?_ (State.modNvme_frame _ _) rfl
      refine Frame.after ?_ (State.logNand_frame _ _ _ _ _) rfl
      refine Frame.after ?_ (State.countLadder_frame _ _) rfl
      exact Frame.refl _ _
    · refine Frame.after ?_ (State.logNand_frame _ _ _ _ _) rfl
      refine Frame.after ?_ (State.countLadder_frame _ _) rfl
      exact Frame.refl _ _
  · dsimp only [w4]
    split
    · refine Frame.after ?_ (State.modNvme_frame _ _) rfl
      refine Frame.after ?_ (State.logNand_frame _ _ _ _ _) rfl
      refine Frame.after ?_ (State.countLadder_frame _ _) rfl
      exact Frame.refl _ _
    · refine Frame.after ?_ (State.logNand_frame _ _ _ _ _) rfl
      refine Frame.after ?_ (State.countLadder_frame _ _) rfl
      exact Frame.refl _ _

theorem State.unwritable_frame (s : State) (c : Cmd) (addr : Nat) :
    Frame [.ctxs, .cmds, .objs, .arrays, .parts, .nand, .store, .nvme, .peer, .errs, .mgmt, .nextId, .freeCtr] s (State.unwritable s c addr) := by
  unfold State.unwritable
  extract_lets
  refine Frame.after ?_ (State.faultCtx_frame _ _ _ _ _ _ _) rfl
  refine Frame.after ?_ (State.dropRefs_frame _ _) rfl
  refine Frame.after ?_ (State.freeSlot_frame _ _) rfl
  refine Frame.after ?_ (State.loseCmds_frame _ _) rfl
  refine Frame.after ?_ (State.abortAdd_frame _ _ _) rfl
  exact Frame.refl _ _

theorem State.writeAssign_frame (s : State) (ctx : Nat) (value : W32) :
    Frame [.ctxs, .mgmt] s (State.writeAssign s ctx value) := by
  unfold State.writeAssign
  extract_lets
  refine Frame.ite ?_ ?_
  · refine Frame.after ?_ (State.refuse_frame _ _ _) rfl
    exact Frame.refl _ _
  · refine Frame.after ?_ (State.modCtx_frame _ _ _) rfl
    exact Frame.refl _ _

theorem State.writeBind_frame (s : State) (value : W32) :
    Frame [.peer, .mgmt] s (State.writeBind s value) := by
  unfold State.writeBind
  extract_lets
  refine Frame.ite ?_ ?_
  · refine Frame.after ?_ (State.refuse_frame _ _ _) rfl
    exact Frame.refl _ _
  · refine Frame.after ?_ (State.modPeer_frame _ _) rfl
    exact Frame.refl _ _

theorem State.writeErrSelHi_frame (s : State) (value : W32) :
    Frame [.errs] s (State.writeErrSelHi s value) := by
  unfold State.writeErrSelHi
  extract_lets
  refine Frame.after ?_ (State.modErrs_frame _ _) rfl
  exact Frame.refl _ _

theorem State.writeErrVec_frame (s : State) (value : W32) :
    Frame [.errs, .mgmt] s (State.writeErrVec s value) := by
  unfold State.writeErrVec
  refine Frame.ite ?_ ?_
  · refine Frame.after ?_ (State.refuse_frame _ _ _) rfl
    exact Frame.refl _ _
  · refine Frame.after ?_ (State.modErrs_frame _ _) rfl
    exact Frame.refl _ _

theorem State.writeExcl_frame (s : State) (part : Nat) (value : W32) :
    Frame [.ctxs, .cmds, .objs, .arrays, .parts, .nand, .store, .nvme, .peer, .errs, .mgmt, .host, .nextId, .freeCtr] s (State.writeExcl s part value) := by
  unfold State.writeExcl
  extract_lets
  refine Frame.ite ?_ ?_
  · exact Frame.refl _ _
  · refine Frame.ite ?_ ?_
    · refine Frame.after ?_ (State.refuse_frame _ _ _) rfl
      exact Frame.refl _ _
    · refine Frame.ite ?_ ?_
      · refine Frame.ite ?_ ?_
        · refine Frame.after ?_ (State.abortJob_frame _ _) rfl
          exact Frame.refl _ _
        · exact Frame.refl _ _
      · refine Frame.ite ?_ ?_
        · refine Frame.after ?_ (State.refuse_frame _ _ _) rfl
          exact Frame.refl _ _
        · refine Frame.foldl _ ?_ (fun u x hu => ?_)
          · exact Frame.refl _ _
          · refine Frame.after ?_ (State.modPart_frame _ _ _) rfl
            assumption

theorem State.writeQuota_frame (s : State) (part : Nat) (value : W32) :
    Frame [.parts, .mgmt] s (State.writeQuota s part value) := by
  unfold State.writeQuota
  extract_lets
  refine Frame.ite ?_ ?_
  · refine Frame.after ?_ (State.refuse_frame _ _ _) rfl
    exact Frame.refl _ _
  · refine Frame.after ?_ (State.modPart_frame _ _ _) rfl
    exact Frame.refl _ _

theorem State.writeResv_frame (s : State) (part : Nat) (value : W32) :
    Frame [.parts, .mgmt] s (State.writeResv s part value) := by
  unfold State.writeResv
  extract_lets
  refine Frame.ite ?_ ?_
  · refine Frame.after ?_ (State.refuse_frame _ _ _) rfl
    exact Frame.refl _ _
  · refine Frame.after ?_ (State.modPart_frame _ _ _) rfl
    exact Frame.refl _ _

theorem State.writeT2Quota_frame (s : State) (part : Nat) (value : W32) :
    Frame [.parts, .mgmt] s (State.writeT2Quota s part value) := by
  unfold State.writeT2Quota
  extract_lets
  refine Frame.ite ?_ ?_
  · refine Frame.after ?_ (State.refuse_frame _ _ _) rfl
    exact Frame.refl _ _
  · refine Frame.after ?_ (State.modPart_frame _ _ _) rfl
    exact Frame.refl _ _

theorem State.writeTest_frame (s : State) (array : Nat) (value : W32) :
    Frame [.tests] s (State.writeTest s array value) := by
  unfold State.writeTest
  refine Frame.ite ?_ ?_
  · exact Frame.refl _ _
  · refine Frame.after ?_ (State.startTest_frame _ _ _ _ _) rfl
    exact Frame.refl _ _

theorem State.writeKeyCtl_frame (s : State) (value : W32) :
    Frame [.mgmt] s (State.writeKeyCtl s value) := by
  unfold State.writeKeyCtl
  extract_lets
  refine Frame.after ?_ (State.modMgmt_frame _ _) rfl
  refine Frame.ite ?_ ?_
  · refine Frame.after ?_ (State.refuse_frame _ _ _) rfl
    exact Frame.refl _ _
  · refine Frame.ite ?_ ?_
    · refine Frame.after ?_ (State.modMgmt_frame _ _) rfl
      exact Frame.refl _ _
    · refine Frame.ite ?_ ?_
      · refine Frame.after ?_ (State.modMgmt_frame _ _) rfl
        exact Frame.refl _ _
      · exact Frame.refl _ _

theorem State.writeGroupCfg_frame (s : State) (value : W32) :
    Frame [.ctxs, .cmds, .objs, .arrays, .parts, .nand, .store, .nvme, .peer, .errs, .mgmt, .host, .nextId, .freeCtr] s (State.writeGroupCfg s value) := by
  unfold State.writeGroupCfg
  extract_lets
  refine Frame.ite ?_ ?_
  · refine Frame.ite ?_ ?_
    · refine Frame.after ?_ (State.refuse_frame _ _ _) rfl
      exact Frame.refl _ _
    · refine Frame.ite ?_ ?_
      · exact Frame.refl _ _
      · refine Frame.after ?_ (State.modPeer_frame _ _) rfl
        refine Frame.after ?_ (State.endAllOps_frame _ _) rfl
        exact Frame.refl _ _
  · refine Frame.ite ?_ ?_
    · refine Frame.ite ?_ ?_
      · refine Frame.after ?_ (State.modPeer_frame _ _) rfl
        exact Frame.refl _ _
      · refine Frame.after ?_ (State.refuse_frame _ _ _) rfl
        exact Frame.refl _ _
    · refine Frame.after ?_ (State.modPeer_frame _ _) rfl
      exact Frame.refl _ _

theorem State.writeProgress_frame (s : State) (value : W32) :
    Frame [.peer, .mgmt] s (State.writeProgress s value) := by
  unfold State.writeProgress
  extract_lets
  refine Frame.ite ?_ ?_
  · refine Frame.after ?_ (State.refuse_frame _ _ _) rfl
    exact Frame.refl _ _
  · refine Frame.after ?_ (State.modPeer_frame _ _) rfl
    exact Frame.refl _ _

theorem State.writeLedgPeriod_frame (s : State) (value : W32) :
    Frame [.ledger, .mgmt] s (State.writeLedgPeriod s value) := by
  unfold State.writeLedgPeriod
  extract_lets
  refine Frame.ite ?_ ?_
  · refine Frame.after ?_ (State.refuse_frame _ _ _) rfl
    exact Frame.refl _ _
  · refine Frame.after ?_ (State.modLedger_frame _ _) rfl
    exact Frame.refl _ _

theorem State.writeLedgAck_frame (s : State) (value : W32) :
    Frame [.ledger, .mgmt] s (State.writeLedgAck s value) := by
  unfold State.writeLedgAck
  extract_lets
  refine Frame.ite ?_ ?_
  · refine Frame.after ?_ (State.refuse_frame _ _ _) rfl
    exact Frame.refl _ _
  · refine Frame.after ?_ (State.modLedger_frame _ _) rfl
    exact Frame.refl _ _

theorem State.writeLedgSelHi_frame (s : State) (value : W32) :
    Frame [.ledger] s (State.writeLedgSelHi s value) := by
  unfold State.writeLedgSelHi
  extract_lets
  refine Frame.after ?_ (State.modLedger_frame _ _) rfl
  exact Frame.refl _ _

theorem State.writeLedgCtxSel_frame (s : State) (value : W32) :
    Frame [.ledger] s (State.writeLedgCtxSel s value) := by
  unfold State.writeLedgCtxSel
  extract_lets
  refine Frame.after ?_ (State.modLedger_frame _ _) rfl
  exact Frame.refl _ _

theorem State.writeGlobal_frame (s : State) (off : Nat) (v : W32) :
    Frame [.power, .ctxs, .cmds, .objs, .arrays, .parts, .tests, .nand, .store, .nvme, .peer, .errs, .ledger, .mgmt, .host, .nextId, .freeCtr] s (State.writeGlobal s off v) := by
  unfold State.writeGlobal
  extract_lets _ w2
  refine Frame.ite ?_ ?_
  · refine Frame.ite ?_ ?_
    · refine Frame.after ?_ (State.modMgmt_frame _ _) rfl
      exact Frame.refl _ _
    · refine Frame.ite ?_ ?_
      · refine Frame.after ?_ (State.startCheck_frame _) rfl
        exact Frame.refl _ _
      · exact Frame.refl _ _
  · refine Frame.ite ?_ ?_
    · split
      · refine Frame.after ?_ (State.writeQuota_frame _ _ _) rfl
        exact Frame.refl _ _
      · refine Frame.after ?_ (State.writeResv_frame _ _ _) rfl
        exact Frame.refl _ _
      · refine Frame.after ?_ (State.writeExcl_frame _ _ _) rfl
        exact Frame.refl _ _
      · refine Frame.ite ?_ ?_
        · refine Frame.after ?_ (State.resetPart_frame _ _) rfl
          exact Frame.refl _ _
        · exact Frame.refl _ _
      · exact Frame.refl _ _
    · refine Frame.ite ?_ ?_
      · split
        · refine Frame.after ?_ (State.writeAssign_frame _ _ _) rfl
          exact Frame.refl _ _
        · refine Frame.ite ?_ ?_
          · refine Frame.after ?_ (State.resetCtx_frame _ _ _) rfl
            exact Frame.refl _ _
          · exact Frame.refl _ _
        · exact Frame.refl _ _
      · refine Frame.ite ?_ ?_
        · refine Frame.ite ?_ ?_
          · refine Frame.after ?_ (State.writeT2Quota_frame _ _ _) rfl
            exact Frame.refl _ _
          · exact Frame.refl _ _
        · refine Frame.ite ?_ ?_
          · refine Frame.ite ?_ ?_
            · refine Frame.after ?_ (State.writeTest_frame _ _ _) rfl
              exact Frame.refl _ _
            · exact Frame.refl _ _
          · refine Frame.ite ?_ ?_
            · refine Frame.ite ?_ ?_
              · refine Frame.after ?_ (State.modMgmt_frame _ _) rfl
                exact Frame.refl _ _
              · refine Frame.ite ?_ ?_
                · refine Frame.after ?_ (State.writeKeyCtl_frame _ _) rfl
                  exact Frame.refl _ _
                · refine Frame.ite ?_ ?_
                  · refine Frame.after ?_ (State.modMgmt_frame _ _) rfl
                    exact Frame.refl _ _
                  · exact Frame.refl _ _
            · refine Frame.ite ?_ ?_
              · clear_value w2
                split
                · refine Frame.ite ?_ ?_
                  · refine Frame.after ?_ (State.refuse_frame _ _ _) rfl
                    exact Frame.refl _ _
                  · refine Frame.after ?_ (State.modPeer_frame _ _) rfl
                    exact Frame.refl _ _
                · refine Frame.after ?_ (State.writeGroupCfg_frame _ _) rfl
                  exact Frame.refl _ _
                · refine Frame.after ?_ (State.writeBind_frame _ _) rfl
                  exact Frame.refl _ _
                · refine Frame.after ?_ (State.writeProgress_frame _ _) rfl
                  exact Frame.refl _ _
                · exact Frame.refl _ _
              · refine Frame.ite ?_ ?_
                · clear_value w2
                  split
                  · refine Frame.ite ?_ ?_
                    · refine Frame.after ?_ (State.modErrs_frame _ _) rfl
                      exact Frame.refl _ _
                    · exact Frame.refl _ _
                  · refine Frame.after ?_ (State.modErrs_frame _ _) rfl
                    exact Frame.refl _ _
                  · refine Frame.after ?_ (State.writeErrSelHi_frame _ _) rfl
                    exact Frame.refl _ _
                  · refine Frame.after ?_ (State.writeErrVec_frame _ _) rfl
                    exact Frame.refl _ _
                  · exact Frame.refl _ _
                · refine Frame.ite ?_ ?_
                  · clear_value w2
                    split
                    · refine Frame.after ?_ (State.writeLedgPeriod_frame _ _) rfl
                      exact Frame.refl _ _
                    · refine Frame.after ?_ (State.modLedger_frame _ _) rfl
                      exact Frame.refl _ _
                    · refine Frame.after ?_ (State.writeLedgAck_frame _ _) rfl
                      exact Frame.refl _ _
                    · refine Frame.after ?_ (State.modLedger_frame _ _) rfl
                      exact Frame.refl _ _
                    · refine Frame.after ?_ (State.writeLedgSelHi_frame _ _) rfl
                      exact Frame.refl _ _
                    · refine Frame.after ?_ (State.writeLedgCtxSel_frame _ _) rfl
                      exact Frame.refl _ _
                    · exact Frame.refl _ _
                  · exact Frame.refl _ _

theorem State.writePolicy_frame (s : State) (ctx : Nat) (value : W32) :
    Frame [.ctxs] s (State.writePolicy s ctx value) := by
  unfold State.writePolicy
  extract_lets
  refine Frame.ite ?_ ?_
  · refine Frame.after ?_ (State.modCtx_frame _ _ _) rfl
    exact Frame.refl _ _
  · refine Frame.after ?_ (State.modCtx_frame _ _ _) rfl
    exact Frame.refl _ _

theorem State.writeMailbox_frame (s : State) (fn : Nat) (ctx : Nat) (off : Nat) (v : W32) :
    Frame [.power, .ctxs, .cmds, .objs, .arrays, .parts, .nand, .store, .nvme, .peer, .errs, .mgmt, .host, .nextId, .freeCtr] s (State.writeMailbox s fn ctx off v) := by
  unfold State.writeMailbox
  extract_lets
  refine Frame.ite ?_ ?_
  · refine Frame.ite ?_ ?_
    · exact Frame.refl _ _
    · refine Frame.after ?_ (State.settle_frame _) rfl
      refine Frame.after ?_ (State.faultCtx_frame _ _ _ _ _ _ _) rfl
      exact Frame.refl _ _
  · refine Frame.ite ?_ ?_
    · refine Frame.ite ?_ ?_
      · refine Frame.ite ?_ ?_
        · refine Frame.after ?_ (State.sqTail_frame _ _ _ _ _) rfl
          refine Frame.after ?_ (State.wake_frame _) rfl
          exact Frame.refl _ _
        · exact Frame.refl _ _
      · refine Frame.after ?_ (State.cqHeadWrite_frame _ _ _ _) rfl
        refine Frame.after ?_ (State.wake_frame _) rfl
        exact Frame.refl _ _
    · split
      · refine Frame.ite ?_ ?_
        · refine Frame.after ?_ (State.resetCtx_frame _ _ _) rfl
          exact Frame.refl _ _
        · refine Frame.ite ?_ ?_
          · refine Frame.after ?_ (State.enableCtx_frame _ _) rfl
            exact Frame.refl _ _
          · refine Frame.after ?_ (State.disableCtx_frame _ _) rfl
            exact Frame.refl _ _
      · refine Frame.after ?_ (State.writePolicy_frame _ _ _) rfl
        exact Frame.refl _ _
      · refine Frame.after ?_ (State.modCtx_frame _ _ _) rfl
        exact Frame.refl _ _
      · refine Frame.after ?_ (State.modCtx_frame _ _ _) rfl
        exact Frame.refl _ _
      · refine Frame.ite ?_ ?_
        · refine Frame.after ?_ (State.modCtx_frame _ _ _) rfl
          exact Frame.refl _ _
        · exact Frame.refl _ _
      · refine Frame.ite ?_ ?_
        · refine Frame.after ?_ (State.modCtx_frame _ _ _) rfl
          exact Frame.refl _ _
        · exact Frame.refl _ _
      · refine Frame.ite ?_ ?_
        · refine Frame.after ?_ (State.modCtx_frame _ _ _) rfl
          exact Frame.refl _ _
        · exact Frame.refl _ _
      · refine Frame.ite ?_ ?_
        · refine Frame.after ?_ (State.modCtx_frame _ _ _) rfl
          exact Frame.refl _ _
        · exact Frame.refl _ _
      · refine Frame.after ?_ (State.modCtx_frame _ _ _) rfl
        exact Frame.refl _ _
      · exact Frame.refl _ _

theorem State.writeWindow_frame (s : State) (fn : Nat) (off : Nat) :
    Frame [.ctxs, .cmds, .objs, .arrays, .parts, .nand, .store, .nvme, .peer, .errs, .mgmt, .host, .nextId, .freeCtr] s (State.writeWindow s fn off) := by
  unfold State.writeWindow
  refine Frame.ite ?_ ?_
  · refine Frame.after ?_ (State.logViol_frame _ _) rfl
    exact Frame.refl _ _
  · refine Frame.after ?_ (State.settle_frame _) rfl
    refine Frame.after ?_ (State.faultCtx_frame _ _ _ _ _ _ _) rfl
    exact Frame.refl _ _

theorem State.writeReg_frame (s : State) (fn : Nat) (off : Nat) (v : W32) :
    Frame [.power, .ctxs, .cmds, .objs, .arrays, .parts, .tests, .nand, .store, .nvme, .peer, .errs, .ledger, .mgmt, .host, .nextId, .freeCtr] s (State.writeReg s fn off v) := by
  unfold State.writeReg
  refine Frame.ite ?_ ?_
  · refine Frame.ite ?_ ?_
    · exact Frame.refl _ _
    · refine Frame.ite ?_ ?_
      · refine Frame.after ?_ (State.writeMailbox_frame _ _ _ _ _) rfl
        exact Frame.refl _ _
      · refine Frame.ite ?_ ?_
        · refine Frame.after ?_ (State.writeWindow_frame _ _ _) rfl
          exact Frame.refl _ _
        · exact Frame.refl _ _
  · refine Frame.ite ?_ ?_
    · refine Frame.ite ?_ ?_
      · refine Frame.after ?_ (State.writeMailbox_frame _ _ _ _ _) rfl
        exact Frame.refl _ _
      · exact Frame.refl _ _
    · refine Frame.ite ?_ ?_
      · refine Frame.ite ?_ ?_
        · refine Frame.after ?_ (State.writeWindow_frame _ _ _) rfl
          exact Frame.refl _ _
        · exact Frame.refl _ _
      · refine Frame.ite ?_ ?_
        · refine Frame.after ?_ (State.writeGlobal_frame _ _ _) rfl
          exact Frame.refl _ _
        · exact Frame.refl _ _

theorem finishInstall_frame (s : State) (c : Cmd) :
    Frame [.ctxs, .objs, .nextId] s (finishInstall s c).1 := by
  unfold finishInstall
  split
  · extract_lets
    split
    · refine Frame.after ?_ (ends_frame _ _) rfl
      exact Frame.refl _ _
    · split
      · refine Frame.after ?_ (ends_frame _ _) rfl
        exact Frame.refl _ _
      · split
        · refine Frame.after ?_ (ends_frame _ _) rfl
          exact Frame.refl _ _
        · dsimp only
          refine Frame.after ?_ (State.mapObj_frame _ _ _ _ _) rfl
          refine Frame.after ?_ (State.bump_frame _) rfl
          refine Frame.after ?_ (State.setObj_frame _ _ _) rfl
          exact Frame.refl _ _
  · dsimp only
    exact Frame.refl _ _

end Sys2Proof.Machine
end

