-- ==== Sys2Proof/Laws/Fetch.lean ====
section
/-! SUPPORT. What the settling of the drive, the look at the queues' heads and the fetch of a command that starts at once do. -/

namespace Sys2Proof.Machine

/-! ### Settling -/

theorem State.unblocked_false {s : State} {c : Cmd} (h : c.still) : s.unblocked c = false := by
  unfold State.unblocked
  cases hs : c.status with
  | some x => simp
  | none => simp [(h hs).1]

theorem State.waitOver_false {s : State} {c : Cmd} (h : c.still) : s.waitOver c = false := by
  unfold State.waitOver
  cases hs : c.status with
  | some x => simp
  | none =>
    by_cases hh : c.st = .holding
    · have hw := (h hs).2 hh
      cases hb : c.body <;> first | (rw [hb] at hw; cases hw; done) | simp
    · simp [hh]

theorem State.settleOne_still {s : State} (h : s.still) : s.settleOne = none := by
  have h1 : s.cmds.find? (fun c => s.unblocked c) = none :=
    List.find?_eq_none.mpr (fun c hc => by simp [State.unblocked_false (s := s) (h c hc)])
  have h2 : s.cmds.find? (fun c => s.waitOver c) = none :=
    List.find?_eq_none.mpr (fun c hc => by simp [State.waitOver_false (s := s) (h c hc)])
  unfold State.settleOne
  rw [h1, h2]

theorem State.settleN_still {s : State} (h : s.still) (n : Nat) : State.settleN n s = s := by
  cases n with
  | zero => rfl
  | succ n => simp [State.settleN, State.settleOne_still h]

/-- A drive in which no pending command moves by itself is settled. -/
theorem State.settle_still {s : State} (h : s.still) : s.settle = s := State.settleN_still h _

/-! ### The heads of the queues -/

theorem State.checkHead_fine {s : State} {ctx q : Nat}
    (h : ∀ x : QueueSt, tfind (s.ctx ctx).queues q = some x → ∀ raw : List Byte, x.avail.head? = some raw → malformed raw = false) :
    s.checkHead ctx q = s := by
  unfold State.checkHead
  cases hx : tfind (s.ctx ctx).queues q with
  | none => rfl
  | some x =>
    cases ha : x.avail with
    | nil => simp [ha]
    | cons raw rest =>
      have := h x hx raw (by rw [ha]; rfl)
      simp [ha, this]

/-- Nothing happens at heads that are not malformed. -/
theorem State.checkHeads_fine {s : State} {ctx : Nat} (h : ∀ (k : Nat) (x : QueueSt), k < 9 → tfind (s.ctx ctx).queues k = some x →
    ∀ raw : List Byte, x.avail.head? = some raw → malformed raw = false) : s.checkHeads ctx = s := by
  unfold State.checkHeads
  have key : ∀ l : List Nat, (∀ q ∈ l, q < 9) → l.foldl (fun s q => s.checkHead ctx q) s = s := by
    intro l
    induction l with
    | nil => exact fun _ => rfl
    | cons q l ih =>
      intro hl
      rw [List.foldl_cons, State.checkHead_fine (fun x hx => h q x (hl q List.mem_cons_self) hx)]
      exact ih (fun r hr => hl r (List.mem_cons_of_mem _ hr))
  exact key _ (fun q hq => List.mem_range.mp hq)

/-- Nothing happens when the drive looks at the heads of all queues, none of which is malformed. -/
theorem State.recheck_fine {s : State} (h : ∀ (n k : Nat) (x : QueueSt), tfind (s.ctx n).queues k = some x →
    ∀ raw : List Byte, x.avail.head? = some raw → malformed raw = false) : s.recheck = s := by
  unfold State.recheck
  have key : ∀ l : List (Nat × Context), l.foldl (fun s c => s.checkHeads c.1) s = s := by
    intro l
    induction l with
    | nil => rfl
    | cons c l ih =>
      rw [List.foldl_cons, State.checkHeads_fine (fun k x _ hx => h c.1 k x hx)]
      exact ih
  exact key _

/-- A calm drive neither settles nor faults a context by what its queues show. -/
theorem State.calm_rest {s : State} (h : s.calm) : s.settle.recheck = s := by
  rw [State.settle_still h.1, State.recheck_fine h.2]

/-! ### The fetch -/

@[simp] theorem State.ctx_bumpBy (s : State) (n m : Nat) : (s.bumpBy n).ctx m = s.ctx m := rfl
@[simp] theorem State.ctx_bump (s : State) (m : Nat) : s.bump.ctx m = s.ctx m := rfl
@[simp] theorem State.ctx_modCmds (s : State) (f : List Cmd → List Cmd) (m : Nat) : (s.modCmds f).ctx m = s.ctx m := rfl

theorem State.takeEntry_ctx_other (s : State) {n m : Nat} (q : Nat) (h : m ≠ n) : (s.takeEntry n q).ctx m = s.ctx m := by
  unfold State.takeEntry
  split
  · rfl
  · split
    · rfl
    · rw [State.ctx_bump]
      exact s.ctx_modCtx_other _ h

theorem State.takeEntry_ctx (s : State) (n q : Nat) : (s.takeEntry n q).ctx n =
    if q = 9 then s.ctx n else match tfind (s.ctx n).queues q with
      | none => s.ctx n
      | some x => { s.ctx n with queues := tset (s.ctx n).queues q { x with head := (x.head + 1) % x.entries, avail := x.avail.tail } } := by
  unfold State.takeEntry
  by_cases h9 : q = 9
  · rw [if_pos h9, if_pos h9]
  · rw [if_neg h9, if_neg h9]
    cases tfind (s.ctx n).queues q with
    | none => rfl
    | some x => exact (State.ctx_bump _ _).trans (State.ctx_modCtx _ _ _)

/-- The context of a command just fetched: only the queue's head and the references of the handles that it names differ. -/
theorem State.fetched_ctx (s : State) (e : Entry) (b : Body) (uid : Nat) (q : QueueSt) : (s.fetched e b uid q).ctx e.ctx =
    { (s.takeEntry e.ctx e.queue).ctx e.ctx with
      handles := tmap ((s.takeEntry e.ctx e.queue).ctx e.ctx).handles (fun h m =>
        if ((bodyHandles b).filter (fun h => s.isLive e.ctx h)).contains h then { m with dref := m.dref + 1 } else m) } := by
  unfold State.fetched
  rw [State.ctx_modCmds, State.ctx_modCtx]

theorem State.fetched_ctx_other (s : State) (e : Entry) (b : Body) (uid : Nat) (q : QueueSt) {m : Nat} (h : m ≠ e.ctx) :
    (s.fetched e b uid q).ctx m = s.ctx m := by
  unfold State.fetched
  rw [State.ctx_modCmds, State.ctx_modCtx_other _ _ h, State.takeEntry_ctx_other _ _ h]

theorem State.fetched_events (s : State) (e : Entry) (b : Body) (uid : Nat) (q : QueueSt) :
    ((s.fetched e b uid q).ctx e.ctx).events = (s.ctx e.ctx).events := by
  rw [s.fetched_ctx, s.takeEntry_ctx]
  split
  · rfl
  · split <;> rfl

theorem State.fetched_cmds (s : State) (e : Entry) (b : Body) (uid : Nat) (q : QueueSt) :
    (s.fetched e b uid q).cmds = s.cmds ++ [s.newCmd e b uid q] := by
  have := (s.takeEntry_frame e.ctx e.queue).same .cmds (by simp)
  exact congrArg (· ++ [s.newCmd e b uid q]) this

theorem State.fetched_frame (s : State) (e : Entry) (b : Body) (uid : Nat) (q : QueueSt) :
    Frame [.ctxs, .cmds, .nextId] s (s.fetched e b uid q) := by
  constructor
  intro c hc
  have h := (s.takeEntry_frame e.ctx e.queue).same c (by
    intro hx
    apply hc
    simp only [List.mem_cons, List.not_mem_nil, or_false] at *
    rcases hx with h | h
    · exact Or.inl h
    · exact Or.inr (Or.inr h))
  cases c <;> first | exact h | simp at hc

/-- The command that starts leads the settling: its body runs on the state that holds it, and the rest settles. -/
theorem State.kciFetch_starts {s : State} {e : Entry} {b : Body} {uid : Nat} {q : QueueSt} (h : Starts s e b uid q) :
    s.kciFetch e b = (State.settleN (2 * s.cmds.length + 3) (State.finishBody (s.newCmd e b uid q)
      (State.startBody (s.fetched e b uid q) (s.newCmd e b uid q)))).checkHeads e.ctx := by
  have hu : (s.cmds.any (fun c => c.uid == uid)) = false :=
    List.any_eq_false.mpr (fun c hc => by simpa using h.unused c hc)
  have hfetch : s.kciFetch e b = (s.fetched e b uid q).settle.checkHeads e.ctx := by
    have hl := h.limit
    have hp := h.passes
    unfold State.newCmd at hl hp
    unfold State.kciFetch
    rw [h.due, h.ring]
    simp only [h.fetchable, h.spells, h.data, hu, h.reached, ne_eq, not_true_eq_false, Bool.true_eq_false, Bool.false_eq_true, or_self,
      if_false]
    rw [hl, hp]
    rfl
  rw [hfetch]
  congr 1
  have hone : (s.fetched e b uid q).settleOne = some (State.finishBody (s.newCmd e b uid q)
      (State.startBody (s.fetched e b uid q) (s.newCmd e b uid q))) := by
    have hw : ((s.fetched e b uid q).waitState (s.newCmd e b uid q)).1 = true := by
      unfold State.waitState
      cases hwt : e.wait with
      | false => simp [State.newCmd, Cmd.fresh, hwt]
      | true =>
        obtain ⟨v, hv, hge⟩ := h.wait hwt
        have : tfind ((s.fetched e b uid q).ctx e.ctx).events e.waitEvent = some v := by rw [s.fetched_events]; exact hv
        simp [State.newCmd, Cmd.fresh, hwt, this, hge]
    have hf : (s.fetched e b uid q).fenceClear (s.newCmd e b uid q) = true := by
      unfold State.fenceClear
      cases hft : e.fence with
      | false => simp [State.newCmd, Cmd.fresh, hft]
      | true =>
        have ht : Machine.earlier (s.newCmd e b uid q) (s.fetched e b uid q).cmds = [] := by
          rw [s.fetched_cmds]
          unfold Machine.earlier
          rw [List.takeWhile_append_of_pos (by
            intro c hc
            have := h.unused c hc
            simpa [State.newCmd, Cmd.fresh] using this)]
          simp only [List.takeWhile_cons, bne_self_eq_false, Bool.false_eq_true, if_false, List.append_nil, List.filter_eq_nil_iff]
          intro c hc hx
          simp only [State.newCmd, Cmd.fresh, Bool.and_eq_true, beq_iff_eq] at hx
          exact h.fence hft c hc hx.1 hx.2
        simp [ht]
    have hg : (s.fetched e b uid q).groupReady (s.newCmd e b uid q) = true := by
      have hp : (s.fetched e b uid q).peer = s.peer := (s.fetched_frame e b uid q).same .peer (by simp)
      have := h.group
      unfold State.groupReady at *
      rw [hp]
      exact this
    have hd : (s.fetched e b uid q).diesUp (s.newCmd e b uid q) = true := by
      have hp : (s.fetched e b uid q).power = s.power := (s.fetched_frame e b uid q).same .power (by simp)
      unfold State.diesUp
      rw [hp, h.dies]
      simp
    have hub : (s.fetched e b uid q).unblocked (s.newCmd e b uid q) = true := by
      unfold State.unblocked
      rw [hf, hg, hd, hw]
      rfl
    have hfind : (s.fetched e b uid q).cmds.find? (fun c => (s.fetched e b uid q).unblocked c) = some (s.newCmd e b uid q) := by
      rw [s.fetched_cmds, List.find?_append]
      have : s.cmds.find? (fun c => (s.fetched e b uid q).unblocked c) = none :=
        List.find?_eq_none.mpr (fun c hc => by simp [State.unblocked_false (s := s.fetched e b uid q) (h.still c hc)])
      rw [this]
      simp [hub]
    unfold State.settleOne
    rw [hfind]
    simp only [hw, if_true]
  have hlen : (s.fetched e b uid q).cmds.length = s.cmds.length + 1 := by
    rw [s.fetched_cmds]
    simp
  unfold State.settle
  rw [hlen]
  show State.settleN (2 * s.cmds.length + 3 + 1) _ = _
  simp only [State.settleN, hone]

end Sys2Proof.Machine
end

