-- ==== Sys2Proof/Laws/Conclude.lean ====
section
/-! SUPPORT. What the conclusion of a command changes, and the end of a command whose body answers at its fetch. -/

namespace Sys2Proof.Machine

/-! ### Conclusion -/

/-- What a conclusion makes of the command. -/
def Cmd.concluded (c : Cmd) (st d0 d1 seq now : Nat) : Cmd :=
  { c with status := some st, st := .draining, dw0 := d0, dw1 := d1, doneSeq := seq, ending := none, waitItems := [],
           tiles := [], search := none, tele := { c.tele with stop := now } }

theorem State.ctx_signalEvent_other (s : State) (e : Entry) (bad : Bool) {m : Nat} (h : m ≠ e.ctx) : (s.signalEvent e bad).ctx m = s.ctx m := by
  unfold State.signalEvent
  split
  · split
    · rfl
    · exact s.ctx_modCtx_other _ h
  · rfl

/-- A signal changes nothing of the context but its events. -/
theorem State.ctx_signalEvent (s : State) (e : Entry) (bad : Bool) :
    ∃ v : Table EventSt, (s.signalEvent e bad).ctx e.ctx = { s.ctx e.ctx with events := v } := by
  unfold State.signalEvent
  split
  · split
    · exact ⟨_, rfl⟩
    · rename_i v hv
      exact ⟨_, s.ctx_modCtx _ _⟩
  · exact ⟨_, rfl⟩

theorem State.ctx_of_ctxs {s t : State} (h : t.ctxs = s.ctxs) (n : Nat) : t.ctx n = s.ctx n := by
  unfold State.ctx
  rw [h]

theorem State.cmd?_of_cmds {s t : State} (h : t.cmds = s.cmds) (u : Nat) : t.cmd? u = s.cmd? u := by
  unfold State.cmd?
  rw [h]

/-- The conclusion of a command that has not ended, as its parts. -/
theorem State.conclude_eq {s : State} {uid st : Nat} {c : Cmd} (d0 d1 : Nat) (hc : s.cmd? uid = some c) (hs : c.status = none)
    (hl : st ≠ stLinkLost) :
    s.conclude uid st d0 d1 =
      let st' := finalStatus st c.retried
      let s0 := if isError st' ∧ st' ≠ stPeerLost ∧ st' ≠ stPeerNotBound then s.endOps [uid] st' else s
      let s1 := if isError st' then s0.markAll (s0.outRanges c) else s0
      let s2 := (s1.signalEvent c.e (isError st')).dropWork [uid]
      ((s2.modCmd uid (fun c => c.concluded st' d0 d1 s.nextId s.time.now)).bump).modPeer
        (fun p => { p with ops := p.ops.filter (fun o => o.uid != uid) }) := by
  unfold State.conclude
  rw [hc]
  simp only [hs, Option.isSome_none, Bool.false_eq_true, if_false, hl]
  rfl

/-- A command that ends without an error: its event is signalled, its work in the engines goes, it waits for its posting. -/
theorem State.conclude_ok {s : State} {uid st : Nat} {c : Cmd} (d0 d1 : Nat) (hc : s.cmd? uid = some c) (hs : c.status = none)
    (hr : c.retried = false) (he : isError st = false) :
    s.conclude uid st d0 d1 =
      ((((s.signalEvent c.e false).dropWork [uid]).modCmd uid (fun c => c.concluded st d0 d1 s.nextId s.time.now)).bump).modPeer
        (fun p => { p with ops := p.ops.filter (fun o => o.uid != uid) }) := by
  have hl : st ≠ stLinkLost := by
    intro h
    subst h
    revert he
    decide
  rw [State.conclude_eq d0 d1 hc hs hl]
  simp [finalStatus, hr, he]

theorem State.conclude_cmds {s : State} {uid st : Nat} {c : Cmd} (d0 d1 : Nat) (hc : s.cmd? uid = some c) (hs : c.status = none)
    (hl : st ≠ stLinkLost) :
    (s.conclude uid st d0 d1).cmds =
      s.cmds.map (fun x => if x.uid = uid then x.concluded (finalStatus st c.retried) d0 d1 s.nextId s.time.now else x) := by
  rw [State.conclude_eq d0 d1 hc hs hl]
  dsimp only
  have h0 : ∀ t : State, (if isError (finalStatus st c.retried) = true ∧ finalStatus st c.retried ≠ stPeerLost ∧ finalStatus st c.retried ≠ stPeerNotBound
      then t.endOps [uid] (finalStatus st c.retried) else t).cmds = t.cmds := by
    intro t
    split
    · exact (State.endOps_frame _ _ _).same .cmds (by decide)
    · rfl
  have h1 : ∀ t : State, (if isError (finalStatus st c.retried) = true then t.markAll (t.outRanges c) else t).cmds = t.cmds := by
    intro t
    split
    · exact (State.markAll_frame _ _).same .cmds (by decide)
    · rfl
  have h2 : ∀ t : State, ((t.signalEvent c.e (isError (finalStatus st c.retried))).dropWork [uid]).cmds = t.cmds := by
    intro t
    rw [(State.dropWork_frame _ _).same .cmds (by decide), (State.signalEvent_frame _ _ _).same .cmds (by decide)]
  simp only [State.modPeer_cmds, State.bump, State.bumpBy, State.modCmd, State.modCmds]
  rw [h2, h1, h0]

/-- A conclusion changes nothing of a context but its events. -/
theorem State.conclude_ctx {s : State} {uid st : Nat} {c : Cmd} (d0 d1 : Nat) (hc : s.cmd? uid = some c) (hs : c.status = none)
    (hl : st ≠ stLinkLost) (n : Nat) :
    ∃ v : Table EventSt, (s.conclude uid st d0 d1).ctx n = { s.ctx n with events := v } ∧ (n ≠ c.e.ctx → v = (s.ctx n).events) := by
  rw [State.conclude_eq d0 d1 hc hs hl]
  dsimp only
  generalize hA : (if isError (finalStatus st c.retried) = true ∧ finalStatus st c.retried ≠ stPeerLost ∧ finalStatus st c.retried ≠ stPeerNotBound
      then s.endOps [uid] (finalStatus st c.retried) else s) = A
  have eA : A.ctxs = s.ctxs := by
    rw [← hA]
    split
    · exact (State.endOps_frame _ _ _).same .ctxs (by decide)
    · rfl
  generalize hB : (if isError (finalStatus st c.retried) = true then A.markAll (A.outRanges c) else A) = B
  have eB : B.ctxs = s.ctxs := by
    rw [← hB, ← eA]
    split
    · exact (State.markAll_frame _ _).same .ctxs (by decide)
    · rfl
  have eC : ∀ t : State, (((t.dropWork [uid]).modCmd uid (fun c => c.concluded (finalStatus st c.retried) d0 d1 s.nextId s.time.now)).bump.modPeer
      (fun p => { p with ops := p.ops.filter (fun o => o.uid != uid) })).ctx n = t.ctx n :=
    fun t => State.ctx_of_ctxs ((State.dropWork_frame t [uid]).same .ctxs (by decide)) n
  have hn : ∃ v : Table EventSt, (B.signalEvent c.e (isError (finalStatus st c.retried))).ctx n = { s.ctx n with events := v } ∧
      (n ≠ c.e.ctx → v = (s.ctx n).events) := by
    by_cases e : n = c.e.ctx
    · obtain ⟨v, hv⟩ := B.ctx_signalEvent c.e (isError (finalStatus st c.retried))
      rw [State.ctx_of_ctxs eB] at hv
      subst e
      exact ⟨v, hv, fun h => absurd rfl h⟩
    · exact ⟨_, (B.ctx_signalEvent_other c.e _ e).trans (State.ctx_of_ctxs eB n), fun _ => rfl⟩
  obtain ⟨v, hv, hv'⟩ := hn
  refine ⟨v, Eq.trans ?_ hv, hv'⟩
  exact State.ctx_of_ctxs ((State.dropWork_frame (B.signalEvent c.e (isError (finalStatus st c.retried))) [uid]).same .ctxs (by decide)) n

/-! ### A body that answers at the fetch -/

/-- A command whose body ends it at its fetch: the whole fetch is that end. -/
theorem State.kciFetch_ends {s u : State} {e : Entry} {b : Body} {uid st d0 d1 : Nat} {q : QueueSt} {c : Cmd} (h : Starts s e b uid q)
    (hb : State.startBody (s.fetched e b uid q) (s.newCmd e b uid q) = (u, some (st, d0, d1))) (hv : isViolation st = false)
    (hl : st ≠ stLinkLost) (hc : u.cmd? uid = some c) (hn : c.status = none)
    (hs : ∀ x ∈ u.cmds, x.uid ≠ uid → x.still)
    (hh : ∀ (k : Nat) (x : QueueSt), k < 9 → tfind (u.ctx e.ctx).queues k = some x →
      ∀ raw : List Byte, x.avail.head? = some raw → malformed raw = false) :
    s.kciFetch e b = u.conclude uid st d0 d1 := by
  have hk : (s.newCmd e b uid q).uid = uid := rfl
  have hf : State.finishBody (s.newCmd e b uid q) (State.startBody (s.fetched e b uid q) (s.newCmd e b uid q)) = u.conclude uid st d0 d1 := by
    rw [hb]
    simp [State.finishBody, hv, hk]
  rw [State.kciFetch_starts h, hf]
  have hst : (u.conclude uid st d0 d1).still := by
    intro x hx hxn
    rw [State.conclude_cmds d0 d1 hc hn hl] at hx
    obtain ⟨y, hy, rfl⟩ := List.mem_map.mp hx
    by_cases e : y.uid = uid
    · simp [e, Cmd.concluded] at hxn
    · simp only [e, if_false] at hxn ⊢
      exact hs y hy e hxn
  rw [State.settleN_still hst]
  refine State.checkHeads_fine (fun k x hk9 hx => ?_)
  obtain ⟨v, hv', _⟩ := State.conclude_ctx d0 d1 hc hn hl e.ctx
  rw [hv'] at hx
  exact hh k x hk9 hx

/-- The queues' heads after a fetch that leaves the queues. -/
theorem Starts.heads_fetched {s : State} {e : Entry} {b : Body} {uid : Nat} {q : QueueSt} (h : Starts s e b uid q) (k : Nat)
    (x : QueueSt) (hk : k < 9) (hx : tfind ((s.fetched e b uid q).ctx e.ctx).queues k = some x) (raw : List Byte)
    (hr : x.avail.head? = some raw) : malformed raw = false := by
  rw [s.fetched_ctx, s.takeEntry_ctx] at hx
  by_cases hq : e.queue = 9
  · rw [if_pos hq] at hx
    exact h.heads k x hx raw (by rw [if_neg (by omega)]; exact hr)
  · rw [if_neg hq, h.ring] at hx
    by_cases e' : k = e.queue
    · subst e'
      rw [tfind_tset_same] at hx
      cases hx
      exact h.heads e.queue q h.ring raw (by simpa using hr)
    · rw [tfind_tset_other _ _ e'] at hx
      exact h.heads k x hx raw (by simpa [e'] using hr)

/-- The command just fetched is pending under its number. -/
theorem Starts.cmd_fetched {s : State} {e : Entry} {b : Body} {uid : Nat} {q : QueueSt} (h : Starts s e b uid q) :
    (s.fetched e b uid q).cmd? uid = some (s.newCmd e b uid q) := by
  unfold State.cmd?
  rw [s.fetched_cmds, List.find?_append, List.find?_eq_none.mpr (fun c hc => by simpa using h.unused c hc)]
  simp [State.newCmd, Cmd.fresh]

end Sys2Proof.Machine
end

