-- ==== Sys2Proof/Laws/Bodies.lean ====
section
/-! SUPPORT. A command whose body ends it at its fetch: what the whole fetch leaves, for any such body. -/

namespace Sys2Proof.Machine

/-- What a conclusion leaves of the command's context: its event signalled. -/
theorem State.conclude_ctx_eq {s : State} {uid st : Nat} {c : Cmd} (d0 d1 : Nat) (hc : s.cmd? uid = some c) (hs : c.status = none)
    (hl : st ≠ stLinkLost) (n : Nat) :
    (s.conclude uid st d0 d1).ctx n = (s.signalEvent c.e (isError (finalStatus st c.retried))).ctx n := by
  rw [State.conclude_eq d0 d1 hc hs hl]
  dsimp only
  generalize finalStatus st c.retried = st'
  have key : ∀ v : State, v.ctxs = s.ctxs → (v.signalEvent c.e (isError st')).ctx n = (s.signalEvent c.e (isError st')).ctx n := by
    intro v hv
    unfold State.signalEvent
    split
    · rw [State.ctx_of_ctxs hv]
      split
      · exact State.ctx_of_ctxs hv _
      · by_cases e : n = c.e.ctx
        · subst e
          rw [State.ctx_modCtx, State.ctx_modCtx, State.ctx_of_ctxs hv]
        · rw [State.ctx_modCtx_other _ _ e, State.ctx_modCtx_other _ _ e, State.ctx_of_ctxs hv]
    · exact State.ctx_of_ctxs hv _
  have e3 : ∀ t : State, ((((t.dropWork [uid]).modCmd uid (fun c => c.concluded st' d0 d1 s.nextId s.time.now)).bump).modPeer
      (fun p => { p with ops := p.ops.filter (fun o => o.uid != uid) })).ctx n = t.ctx n :=
    fun t => State.ctx_of_ctxs ((State.dropWork_frame t [uid]).same .ctxs (by decide)) n
  rw [e3]
  apply key
  have h0 : ∀ t : State, (if isError st' = true then t.markAll (t.outRanges c) else t).ctxs = t.ctxs := by
    intro t
    split
    · exact (State.markAll_frame _ _).same .ctxs (by decide)
    · rfl
  rw [h0]
  split
  · exact (State.endOps_frame _ _ _).same .ctxs (by decide)
  · rfl

/-- A conclusion leaves the objects of a command that ends without an error, or that has nothing to write. -/
theorem State.conclude_objs {s : State} {uid st : Nat} {c : Cmd} (d0 d1 : Nat) (hc : s.cmd? uid = some c) (hs : c.status = none)
    (hl : st ≠ stLinkLost) (ho : isError (finalStatus st c.retried) = false ∨ ∀ v : State, v.outRanges c = []) :
    (s.conclude uid st d0 d1).objs = s.objs := by
  rw [State.conclude_eq d0 d1 hc hs hl]
  dsimp only
  revert ho
  generalize finalStatus st c.retried = st'
  intro ho
  have e3 : ∀ t : State, ((((t.dropWork [uid]).modCmd uid (fun c => c.concluded st' d0 d1 s.nextId s.time.now)).bump).modPeer
      (fun p => { p with ops := p.ops.filter (fun o => o.uid != uid) })).objs = t.objs :=
    fun t => (State.dropWork_frame t [uid]).same .objs (by decide)
  rw [e3, (State.signalEvent_frame _ _ _).same .objs (by decide)]
  have h1 : ∀ t : State, (if isError st' = true then t.markAll (t.outRanges c) else t).objs = t.objs := by
    intro t
    rcases ho with ho | ho
    · rw [ho]; rfl
    · rw [ho]; split <;> rfl
  rw [h1]
  split
  · exact (State.endOps_frame _ _ _).same .objs (by decide)
  · rfl

/-- The command that the fetch makes, past its waits. -/
def State.runningCmd (s : State) (e : Entry) (b : Body) (uid : Nat) (q : QueueSt) : Cmd := { s.newCmd e b uid q with st := .holding }

/-- The state in which a body runs: the command fetched, and past its waits. -/
def State.running (s : State) (e : Entry) (b : Body) (uid : Nat) (q : QueueSt) : State :=
  (s.fetched e b uid q).modCmd uid (fun c => { c with st := .holding })

theorem State.modCmd_ctx (s : State) (u : Nat) (f : Cmd → Cmd) (n : Nat) : (s.modCmd u f).ctx n = s.ctx n := rfl

theorem State.running_ctx (s : State) (e : Entry) (b : Body) (uid : Nat) (q : QueueSt) (n : Nat) :
    (s.running e b uid q).ctx n = (s.fetched e b uid q).ctx n := rfl

theorem State.running_frame (s : State) (e : Entry) (b : Body) (uid : Nat) (q : QueueSt) :
    Frame [.ctxs, .cmds, .nextId] s (s.running e b uid q) :=
  (s.fetched_frame e b uid q).after (m := [.cmds]) (State.modCmd_frame _ _ _) (by decide)

theorem State.running_cmds {s : State} {e : Entry} {b : Body} {uid : Nat} {q : QueueSt} (h : ∀ c ∈ s.cmds, c.uid ≠ uid) :
    (s.running e b uid q).cmds = s.cmds ++ [s.runningCmd e b uid q] := by
  show (s.fetched e b uid q).cmds.map _ = _
  rw [s.fetched_cmds, List.map_append]
  congr 1
  · conv_rhs => rw [← List.map_id s.cmds]
    apply List.map_congr_left
    intro c hc
    rw [if_neg (h c hc)]
    rfl
  · simp [State.runningCmd, State.newCmd, Cmd.fresh]

theorem State.fetched_queues_other (s : State) (e : Entry) (b : Body) (uid : Nat) (q : QueueSt) {j : Nat} (h : j ≠ e.queue) :
    tfind ((s.fetched e b uid q).ctx e.ctx).queues j = tfind (s.ctx e.ctx).queues j := by
  rw [s.fetched_ctx, s.takeEntry_ctx]
  split
  · rfl
  · split
    · rfl
    · exact tfind_tset_other _ _ h

/-- What the fetch of a body that ends at once leaves. -/
structure Ended (s u t : State) (e : Entry) (b : Body) (uid : Nat) (q : QueueSt) (st d0 d1 : Nat) : Prop where
  cmds : t.cmds = s.cmds ++ [(s.runningCmd e b uid q).concluded st d0 d1 u.nextId u.time.now]
  ctx : t.ctx e.ctx = (u.signalEvent e (isError st)).ctx e.ctx
  other : ∀ m : Nat, m ≠ e.ctx → t.ctx m = u.ctx m
  objs : (isError st = false ∨ ∀ v : State, v.outRanges (s.runningCmd e b uid q) = []) → t.objs = u.objs
  frame : Frame [.ctxs, .cmds, .objs, .arrays, .nand, .nvme, .peer, .mgmt, .nextId, .freeCtr] u t

/-- The command of a body that leaves the commands as they are. -/
theorem Starts.cmd_running {s u : State} {e : Entry} {b : Body} {uid : Nat} {q : QueueSt} (h : Starts s e b uid q)
    (hc : u.cmds = (s.running e b uid q).cmds) : u.cmd? uid = some (s.runningCmd e b uid q) := by
  unfold State.cmd?
  rw [hc, State.running_cmds h.unused, List.find?_append, List.find?_eq_none.mpr (fun c hc => by simpa using h.unused c hc)]
  simp [State.runningCmd, State.newCmd, Cmd.fresh]

theorem Starts.ended {s u : State} {e : Entry} {b : Body} {uid st d0 d1 : Nat} {q : QueueSt} (h : Starts s e b uid q)
    (hb : State.startBody (s.fetched e b uid q) (s.newCmd e b uid q) = (u, some (st, d0, d1))) (hv : isViolation st = false)
    (hl : st ≠ stLinkLost) (hc : u.cmds = (s.running e b uid q).cmds)
    (hh : ∀ (k : Nat) (x : QueueSt), k < 9 → tfind (u.ctx e.ctx).queues k = some x →
      ∀ raw : List Byte, x.avail.head? = some raw → malformed raw = false) :
    Ended s u (s.kciFetch e b) e b uid q st d0 d1 := by
  have hu := h.cmd_running hc
  have hn : (s.runningCmd e b uid q).status = none := rfl
  have hr : (s.runningCmd e b uid q).retried = false := rfl
  have hf : finalStatus st false = st := by unfold finalStatus; simp
  have hs : ∀ x ∈ u.cmds, x.uid ≠ uid → x.still := by
    intro x hx hne
    rw [hc, State.running_cmds h.unused, List.mem_append] at hx
    rcases hx with hx | hx
    · exact h.still x hx
    · rw [List.mem_singleton] at hx
      subst hx
      exact absurd rfl hne
  rw [State.kciFetch_ends h hb hv hl hu hn hs hh]
  refine ⟨?_, ?_, ?_, ?_, State.conclude_frame _ _ _ _ _⟩
  · rw [State.conclude_cmds d0 d1 hu hn hl, hr, hf, hc, State.running_cmds h.unused, List.map_append]
    congr 1
    · conv_rhs => rw [← List.map_id s.cmds]
      apply List.map_congr_left
      intro c hcm
      rw [if_neg (h.unused c hcm)]
      rfl
    · simp [State.runningCmd, State.newCmd, Cmd.fresh]
  · rw [State.conclude_ctx_eq d0 d1 hu hn hl, hr, hf]
    rfl
  · intro m hm
    obtain ⟨v, hv', hv''⟩ := State.conclude_ctx d0 d1 hu hn hl m
    rw [hv', hv'' hm]
  · intro ho
    exact State.conclude_objs d0 d1 hu hn hl (by rw [hr, hf]; exact ho)

/-- A body that leaves the queues of its context as they are. -/
theorem Starts.quietHeads {s u : State} {e : Entry} {b : Body} {uid : Nat} {q : QueueSt} (h : Starts s e b uid q)
    (hx : (u.ctx e.ctx).queues = ((s.fetched e b uid q).ctx e.ctx).queues) (k : Nat) (x : QueueSt) (hk : k < 9)
    (hf : tfind (u.ctx e.ctx).queues k = some x) (raw : List Byte) (hr : x.avail.head? = some raw) : malformed raw = false := by
  rw [hx] at hf
  exact h.heads_fetched k x hk hf raw hr

end Sys2Proof.Machine

namespace Sys2Proof.Claims
open Sys2Proof.Machine

/-! ### The state in which a body runs, read through the one before the fetch -/

theorem fr {cs : List Comp} {s t : State} (h : Frame cs s t) (c : Comp) (hc : c ∉ cs := by decide) : c.same s t := h.same c hc

theorem ctx_lift (s : State) (e : Entry) (b : Body) (uid : Nat) (q : QueueSt) {α : Type} (f : Context → α)
    (h1 : ∀ (c : Context) (x : Table QueueSt), f { c with queues := x } = f c) (h2 : ∀ (c : Context) (x : Table HandleSt), f { c with handles := x } = f c) (m : Nat) :
    f ((s.fetched e b uid q).ctx m) = f (s.ctx m) := by
  by_cases hm : m = e.ctx
  · subst hm
    rw [s.fetched_ctx, h2, s.takeEntry_ctx]
    split
    · rfl
    · split
      · rfl
      · rw [h1]
  · rw [s.fetched_ctx_other e b uid q hm]

section run
variable (s : State) (e : Entry) (b : Body) (uid : Nat) (q : QueueSt)
theorem run_objs : (s.running e b uid q).objs = s.objs := fr (State.running_frame s e b uid q) .objs
theorem run_host : (s.running e b uid q).host = s.host := fr (State.running_frame s e b uid q) .host
theorem run_obj (o : Nat) : (s.running e b uid q).obj? o = s.obj? o := by unfold State.obj?; rw [run_objs]
theorem run_part (p : Nat) : (s.running e b uid q).part p = s.part p := by
  unfold State.part; rw [show (s.running e b uid q).parts = s.parts from fr (State.running_frame s e b uid q) .parts]
theorem run_partition (m : Nat) : ((s.running e b uid q).ctx m).partition = (s.ctx m).partition := ctx_lift s e b uid q (·.partition) (fun _ _ => rfl) (fun _ _ => rfl) m
theorem run_state (m : Nat) : ((s.running e b uid q).ctx m).state = (s.ctx m).state := ctx_lift s e b uid q (·.state) (fun _ _ => rfl) (fun _ _ => rfl) m
theorem run_events (m : Nat) : ((s.running e b uid q).ctx m).events = (s.ctx m).events := ctx_lift s e b uid q (·.events) (fun _ _ => rfl) (fun _ _ => rfl) m
theorem run_homeParts (p : Nat) : (s.running e b uid q).homeParts p = s.homeParts p := by
  unfold State.homeParts State.setOf; simp only [run_part]
theorem run_idParts : (s.running e b uid q).idParts e.ctx = s.idParts e.ctx := by
  unfold State.idParts; rw [run_partition, run_homeParts]
theorem run_findOid (ps : List Nat) (o : Nat) : (s.running e b uid q).findOid ps o = s.findOid ps o := by
  unfold State.findOid; rw [run_objs]
theorem run_handles : ((s.running e b uid q).ctx e.ctx).handles = tmap (s.ctx e.ctx).handles (fun h m =>
    if ((bodyHandles b).filter (fun h => s.isLive e.ctx h)).contains h then { m with dref := m.dref + 1 } else m) := by
  rw [State.running_ctx, s.fetched_ctx]
  rw [s.takeEntry_ctx]
  split
  · rfl
  · split <;> rfl
theorem run_handle (h : Nat) : tfind ((s.running e b uid q).ctx e.ctx).handles h = (tfind (s.ctx e.ctx).handles h).map (fun m =>
    if ((bodyHandles b).filter (fun h => s.isLive e.ctx h)).contains h then { m with dref := m.dref + 1 } else m) := by
  rw [run_handles, tfind_tmap]
theorem run_free : ((s.running e b uid q).ctx e.ctx).freeHandle = (s.ctx e.ctx).freeHandle := by
  unfold Context.freeHandle
  congr 1
  funext h
  rw [run_handle]
  cases tfind (s.ctx e.ctx).handles h <;> rfl
end run

theorem setHeld_run (s : State) (e : Entry) (b : Body) (uid : Nat) (q : QueueSt) (n : Nat) : (s.running e b uid q).setHeld n = s.setHeld n := by
  unfold State.setHeld
  have h1 : ((s.running e b uid q).ctx n).partition = (s.ctx n).partition := ctx_lift s e b uid q (·.partition) (fun _ _ => rfl) (fun _ _ => rfl) n
  have h2 : (s.running e b uid q).parts = s.parts := fr (State.running_frame s e b uid q) .parts
  unfold State.part
  rw [h1, h2]

/-- A handle that the command names is LIVE. -/
theorem live {s : State} {e : Entry} {b : Body} {uid : Nat} {q : QueueSt} (h : Starts s e b uid q) {k : Nat} (hk : k ∈ bodyHandles b) :
    s.isLive e.ctx k = true := by
  have hp := h.passes
  unfold State.kciCheck at hp
  split at hp
  · cases hp
  · split at hp
    · cases hp
    · split at hp
      · cases hp
      · rename_i ha
        unfold State.accessCheck at ha
        dsimp only at ha
        split at ha
        · cases ha
        · rename_i hf
          rw [List.find?_eq_none] at hf
          have := hf k hk
          have h2 : s.isLive (s.newCmd e b uid q).e.ctx k = true := by simpa using this
          exact h2

/-- The handle that the command names, held for it. -/
theorem held {s : State} {e : Entry} {b : Body} {uid : Nat} {q : QueueSt} (h : Starts s e b uid q) {k : Nat} {m : HandleSt} (hk : k ∈ bodyHandles b)
    (hm : tfind (s.ctx e.ctx).handles k = some m) : m.draining = false ∧
    tfind ((s.running e b uid q).ctx e.ctx).handles k = some { m with dref := m.dref + 1 } := by
  have hl := live h hk
  constructor
  · unfold State.isLive at hl; rw [hm] at hl; simp at hl; exact hl.1
  · rw [run_handle, hm]
    refine congrArg some (if_pos ?_)
    rw [List.contains_iff_mem, List.mem_filter]
    exact ⟨hk, hl⟩

theorem held_obj {s : State} {e : Entry} {b : Body} {uid : Nat} {q : QueueSt} (h : Starts s e b uid q) {k : Nat} {m : HandleSt} {x : ObjectSt} (hk : k ∈ bodyHandles b)
    (hm : tfind (s.ctx e.ctx).handles k = some m) (hx : s.obj? m.obj = some x) :
    (s.running e b uid q).handleObj e.ctx k = some ({ m with dref := m.dref + 1 }, x) := by
  unfold State.handleObj
  rw [(held h hk hm).2]
  show ((s.running e b uid q).obj? m.obj).map _ = _
  rw [run_obj, hx]; rfl

/-! ### What the fetch of a body that ends at once amounts to -/

theorem completes_of {c : Instr} {s u : State} {e : Entry} {b : Body} {uid st d0 d1 : Nat} {q : QueueSt} {P : State → Prop}
    (h : Starts s e b uid q) (he : exec c s = .next (s.kciFetch e b))
    (hb : State.startBody (s.fetched e b uid q) (s.newCmd e b uid q) = (u, some (st, d0, d1))) (hv : isViolation st = false)
    (hl : st ≠ stLinkLost) (hc : u.cmds = (s.running e b uid q).cmds)
    (hh : ∀ (k : Nat) (x : QueueSt), k < 9 → tfind (u.ctx e.ctx).queues k = some x →
      ∀ raw : List Byte, x.avail.head? = some raw → malformed raw = false)
    (ho : ∀ m : Nat, m ≠ e.ctx → u.ctx m = (s.fetched e b uid q).ctx m)
    (hP : ∀ t, Ended s u t e b uid q st d0 d1 → P t) : completes c s e uid st d0 P := by
  have hE := h.ended hb hv hl hc hh
  refine ⟨_, _, he, hE.cmds, rfl, rfl, rfl, rfl, rfl, ?_, hP _ hE⟩
  intro m hm
  rw [hE.other m hm, ho m hm, State.fetched_ctx_other _ _ _ _ _ hm]

theorem quiet_of {s u t : State} {e : Entry} {b : Body} {uid st d0 d1 : Nat} {q : QueueSt} (hE : Ended s u t e b uid q st d0 d1)
    (ho : u.objs = s.objs) (hr : isError st = false ∨ ∀ v : State, v.outRanges (s.runningCmd e b uid q) = []) (hh : u.host = s.host)
    (hq : (u.ctx e.ctx).queues = ((s.fetched e b uid q).ctx e.ctx).queues) : quiet s t e := by
  refine ⟨(hE.objs hr).trans ho, (fr hE.frame .host).trans hh, fun j hj => ?_⟩
  obtain ⟨v, hv⟩ := u.ctx_signalEvent e (isError st)
  rw [hE.ctx, hv]
  show tfind (u.ctx e.ctx).queues j = _
  rw [hq, s.fetched_queues_other e b uid q hj]

/-- A body that ends without any effect. -/
theorem ends_quiet {c : Instr} {s : State} {e : Entry} {b : Body} {uid st d0 d1 : Nat} {q : QueueSt} {P : State → Prop}
    (h : Starts s e b uid q) (he : exec c s = .next (s.kciFetch e b))
    (hb : State.startBody (s.fetched e b uid q) (s.newCmd e b uid q) = (s.running e b uid q, some (st, d0, d1))) (hv : isViolation st = false)
    (hl : st ≠ stLinkLost) (hr : isError st = false ∨ ∀ v : State, v.outRanges (s.runningCmd e b uid q) = [])
    (hP : ∀ t, Ended s (s.running e b uid q) t e b uid q st d0 d1 → quiet s t e → P t) : completes c s e uid st d0 P :=
  completes_of h he hb hv hl rfl (h.quietHeads rfl) (fun _ _ => rfl) (fun t ht => hP t ht
    (quiet_of ht (fr (State.running_frame s e b uid q) .objs) hr (fr (State.running_frame s e b uid q) .host) rfl))

theorem quiet_run {s u t : State} {e : Entry} {b : Body} {uid st d0 d1 : Nat} {q : QueueSt} (hE : Ended s u t e b uid q st d0 d1)
    (ho : u.objs = (s.running e b uid q).objs) (hr : isError st = false ∨ ∀ v : State, v.outRanges (s.runningCmd e b uid q) = [])
    (hh : u.host = (s.running e b uid q).host) (hq : (u.ctx e.ctx).queues = ((s.fetched e b uid q).ctx e.ctx).queues) : quiet s t e :=
  quiet_of hE (ho.trans (run_objs s e b uid q)) hr (hh.trans (run_host s e b uid q)) hq

/-- A body that changes one object and ends with SUCCESS. -/
theorem ends_mod {c : Instr} {s : State} {e : Entry} {b : Body} {uid d0 d1 o : Nat} {q : QueueSt} {P : State → Prop} {x : ObjectSt} {f : ObjectSt → ObjectSt}
    (h : Starts s e b uid q) (he : exec c s = .next (s.kciFetch e b)) (hx : s.obj? o = some x)
    (hb : State.startBody (s.fetched e b uid q) (s.newCmd e b uid q) = ((s.running e b uid q).modObj o f, some (stSuccess, d0, d1)))
    (hP : ∀ t, t.host = s.host → t.obj? o = some (f x) → (∀ p, p ≠ o → t.obj? p = s.obj? p) → P t) : completes c s e uid stSuccess d0 P := by
  have hm : ∀ w : State, w.obj? o = some x → w.modObj o f = w.setObj o (f x) := by
    intro w hw; unfold State.modObj; rw [hw]
  rw [hm _ (by rw [run_obj, hx])] at hb
  refine completes_of h he hb (by decide) (by decide) rfl (h.quietHeads rfl) (fun _ _ => rfl) (fun t ht => hP t ?_ ?_ ?_)
  · exact (fr ht.frame .host).trans (run_host s e b uid q)
  · have := ht.objs (.inl (by decide))
    show tfind t.objs o = _
    rw [this]; exact tfind_tset_same _ _ _
  · intro p hp
    have := ht.objs (.inl (by decide))
    show tfind t.objs p = _
    rw [this]
    show tfind (tset _ _ _) p = _
    rw [tfind_tset_other _ _ hp]
    show (s.running e b uid q).obj? p = _
    rw [run_obj]

theorem any_tmap (l : Table HandleSt) (f : Nat → HandleSt → HandleSt) (o : Nat) (hf : ∀ k m, (f k m).obj = m.obj) :
    (tmap l f).any (fun h => h.2.obj == o) = l.any (fun h => h.2.obj == o) := by
  unfold tmap
  rw [List.any_map]
  congr 1
  funext x
  simp [hf]

theorem run_mappers (s : State) (e : Entry) (b : Body) (uid : Nat) (q : QueueSt) (o : Nat) : (s.running e b uid q).mappers o = s.mappers o := by
  unfold State.mappers
  congr 1
  funext n
  by_cases hn : n = e.ctx
  · subst hn
    rw [run_handles, any_tmap]
    intro k m
    split <;> rfl
  · rw [State.running_ctx, s.fetched_ctx_other e b uid q hn]

theorem mget_mwrite {m : Mem} (hm : Mem.wf m = true) (b : Nat) (bs : List Byte) (a : Nat) :
    mget (mwrite m b bs) a = if b ≤ a ∧ a < b + bs.length then bs.getD (a - b) 0 else mget m a := by
  split
  · rename_i h
    have := mget_mwrite_at b bs hm (i := a - b) (by omega)
    rwa [Nat.add_sub_cancel' h.1] at this
  · exact mget_mwrite_other m b bs (by omega)

theorem le_length (k n : Nat) : (le k n).length = k := by
  induction k generalizing n with
  | zero => rfl
  | succ k ih => show (_ :: le k _).length = _; rw [List.length_cons, ih]

theorem used_run {s : State} {e : Entry} {b : Body} {uid : Nat} {q : QueueSt} (hS : Starts s e b uid q) (ev : Nat) (h1 : e.wait = true → e.waitEvent ≠ ev)
    (h2 : e.signal = true → e.signalEvent ≠ ev) : (s.running e b uid q).eventUsed e.ctx ev = s.eventUsed e.ctx ev := by
  unfold State.eventUsed State.pendingOf
  rw [State.running_cmds hS.unused, List.filter_append, List.any_append]
  simp [State.runningCmd, State.newCmd, Cmd.fresh]
  tauto

theorem signal_events {u : State} {e : Entry} {bad : Bool} {j : Nat} (h : e.signal = true → j ≠ e.signalEvent) :
    tfind ((u.signalEvent e bad).ctx e.ctx).events j = tfind (u.ctx e.ctx).events j := by
  unfold State.signalEvent
  split
  · rename_i hs
    split
    · rfl
    · rw [State.ctx_modCtx]
      exact tfind_tset_other _ _ (h hs)
  · rfl

theorem run_libFree (s : State) (e : Entry) (b : Body) (uid : Nat) (q : QueueSt) : (s.running e b uid q).libFree = s.libFree := by
  unfold State.libFree State.libUsed
  rw [run_objs, show (s.running e b uid q).store = s.store from fr (State.running_frame s e b uid q) .store]

theorem run_fw (s : State) (e : Entry) (b : Body) (uid : Nat) (q : QueueSt) : (s.running e b uid q).fwVersion = s.fwVersion := by
  unfold State.fwVersion
  rw [show (s.running e b uid q).store = s.store from fr (State.running_frame s e b uid q) .store]

/-- A body that goes on: what the whole fetch leaves, when the command does not end at once. -/
theorem goes_on {s u : State} {e : Entry} {b : Body} {uid : Nat} {q : QueueSt} (h : Starts s e b uid q)
    (hb : State.startBody (s.fetched e b uid q) (s.newCmd e b uid q) = (u, none))
    (hs : u.still)
    (hh : ∀ (k : Nat) (x : QueueSt), k < 9 → tfind (u.ctx e.ctx).queues k = some x →
      ∀ raw : List Byte, x.avail.head? = some raw → malformed raw = false) : s.kciFetch e b = u := by
  rw [State.kciFetch_starts h, hb]
  show (State.settleN _ u).checkHeads e.ctx = u
  rw [State.settleN_still hs]
  exact State.checkHeads_fine (fun k x hk hx => hh k x hk hx)

theorem pend_run {s : State} {e : Entry} {b : Body} {uid : Nat} {q : QueueSt} (hS : Starts s e b uid q) :
    (s.running e b uid q).pendingOf e.ctx = s.pendingOf e.ctx ++ [s.runningCmd e b uid q] := by
  unfold State.pendingOf
  rw [State.running_cmds hS.unused, List.filter_append]
  simp [State.runningCmd, State.newCmd, Cmd.fresh]

theorem find_append_none {α : Type} (l : List α) (x : α) (f g : α → Bool) (h : ∀ c ∈ l, f c = g c) (hx : f x = false) : (l ++ [x]).find? f = l.find? g := by
  rw [List.find?_append]
  have : l.find? f = l.find? g := by
    induction l with
    | nil => rfl
    | cons a l ih => rw [List.find?_cons, List.find?_cons, h a (by simp), ih (fun c hc => h c (by simp [hc]))]
  rw [this]
  simp [hx]

/-- A waiter whose wait is over ends in the next round. -/
theorem waiter_ends {s u v : State} {e : Entry} {b : Body} {uid : Nat} {q : QueueSt} {c : Cmd} (h : Starts s e b uid q)
    (hb : State.startBody (s.fetched e b uid q) (s.newCmd e b uid q) = (u, none)) (hc : u.cmds = s.cmds ++ [c]) (hu : c.uid = uid) (hn : c.status = none) (hst : c.st = .holding)
    (hw : u.waitOver c = true) (hv : (match c.body with | .queueDestroy q => u.dropQueue c.e.ctx q | _ => u) = v) (hvc : v.cmds = u.cmds)
    (hr : c.retried = false)
    (hh : ∀ (k : Nat) (x : QueueSt), k < 9 → tfind (v.ctx e.ctx).queues k = some x →
      ∀ raw : List Byte, x.avail.head? = some raw → malformed raw = false) :
    s.kciFetch e b = v.conclude uid stSuccess 0 0 ∧ (v.conclude uid stSuccess 0 0).cmds = s.cmds ++ [c.concluded stSuccess 0 0 v.nextId v.time.now] := by
  have hcmd : v.cmd? uid = some c := by
    unfold State.cmd?
    rw [hvc, hc, List.find?_append, List.find?_eq_none.mpr (fun c hc => by simpa using h.unused c hc)]
    simp [hu]
  have hone : u.settleOne = some (v.conclude uid stSuccess 0 0) := by
    unfold State.settleOne
    have h1 : u.cmds.find? (fun c => u.unblocked c) = none := by
      rw [List.find?_eq_none, hc]
      intro y hy
      rw [List.mem_append] at hy
      rcases hy with hy | hy
      · rw [State.unblocked_false (h.still y hy)]; simp
      · rw [List.mem_singleton] at hy; subst hy
        unfold State.unblocked
        simp [hst]
    have h2 : u.cmds.find? (fun c => u.waitOver c) = some c := by
      rw [hc, List.find?_append, List.find?_eq_none.2 (fun y hy => by rw [State.waitOver_false (h.still y hy)]; simp)]
      simp [hw]
    rw [h1, h2]
    dsimp only
    rw [hu]
    subst hv
    rfl
  have hcs : (v.conclude uid stSuccess 0 0).cmds = s.cmds ++ [c.concluded stSuccess 0 0 v.nextId v.time.now] := by
    rw [State.conclude_cmds 0 0 hcmd hn (by decide), hvc, hc, List.map_append]
    congr 1
    · conv_rhs => rw [← List.map_id s.cmds]
      apply List.map_congr_left
      intro c hcm
      rw [if_neg (h.unused c hcm)]
      rfl
    · simp [hu, hr, finalStatus]
  refine ⟨?_, hcs⟩
  rw [State.kciFetch_starts h, hb]
  show (State.settleN (2 * s.cmds.length + 2 + 1) u).checkHeads e.ctx = _
  unfold State.settleN
  rw [hone]
  dsimp only
  have hst : (v.conclude uid stSuccess 0 0).still := by
    intro x hx
    rw [hcs, List.mem_append] at hx
    rcases hx with hx | hx
    · exact h.still x hx
    · rw [List.mem_singleton] at hx; subst hx
      intro hx2; simp [Cmd.concluded] at hx2
  rw [State.settleN_still hst]
  refine State.checkHeads_fine (fun k x hk9 hx => ?_)
  obtain ⟨w, hw', _⟩ := State.conclude_ctx (st := stSuccess) 0 0 hcmd hn (by decide) e.ctx
  rw [hw'] at hx
  exact hh k x hk9 hx

end Sys2Proof.Claims
end

