-- ==== Sys2Proof/Laws/Effects.lean ====
section
/-! SUPPORT. What the shared operations do inside a component that a frame only names: the parts of it that stay. -/

namespace Sys2Proof.Machine

/-! ### Mappings that go and objects that are collected -/

theorem State.collect_store (s : State) (o : Nat) : ∃ l : List Nat, (s.collect o).store = { s.store with freed := l } := by
  unfold State.collect State.destroyObj
  repeat' split
  all_goals exact ⟨_, rfl⟩

theorem State.collectAll_store (l : List Nat) (s : State) :
    ∃ k : List Nat, (l.foldl (fun s o => s.collect o) s).store = { s.store with freed := k } := by
  induction l generalizing s with
  | nil => exact ⟨_, rfl⟩
  | cons o l ih =>
    obtain ⟨k, hk⟩ := ih (s.collect o)
    obtain ⟨j, hj⟩ := s.collect_store o
    exact ⟨k, by rw [List.foldl_cons, hk, hj]⟩

/-- The contexts at their reset values free library sectors, and change nothing else of the store. -/
theorem State.clearContexts_store (s : State) : ∃ k : List Nat, s.clearContexts.store = { s.store with freed := k } := by
  unfold State.clearContexts
  exact State.collectAll_store _ _

theorem State.collect_ctxs (s : State) (o : Nat) : (s.collect o).ctxs = s.ctxs := by
  unfold State.collect State.destroyObj
  repeat' split
  all_goals rfl

theorem State.collectAll_ctxs (l : List Nat) (s : State) : (l.foldl (fun s o => s.collect o) s).ctxs = s.ctxs := by
  induction l generalizing s with
  | nil => rfl
  | cons o l ih => rw [List.foldl_cons, ih, State.collect_ctxs]

/-- Every context is at its reset value but for its two counters. -/
theorem State.clearContexts_ctx (s : State) (n : Nat) :
    s.clearContexts.ctx n = { Context.reset n with viol := (s.ctx n).viol, c0Discard := (s.ctx n).c0Discard } := by
  unfold State.clearContexts
  dsimp only
  unfold State.ctx tget
  rw [State.collectAll_ctxs]
  show (tfind (tmap s.ctxs (fun n c => { Context.reset n with viol := c.viol, c0Discard := c.c0Discard })) n).getD _ = _
  rw [tfind_tmap]
  cases tfind s.ctxs n <;> rfl

/-! ### Asynchronous events and abort lists -/

theorem State.ctl_of_nvme {s t : State} (h : t.nvme.ctls = s.nvme.ctls) (n : Nat) : t.ctl n = s.ctl n := by
  unfold State.ctl
  rw [h]

theorem State.cpl_nvme (s : State) (c : NvmeCpl) : (s.cpl c).nvme = { s.nvme with out := s.nvme.out ++ [c] } := by
  unfold State.cpl
  rw [(State.nvmeIrq_frame _ _ _).same .nvme (by decide)]
  rfl

theorem State.cpl_ctl (s : State) (c : NvmeCpl) (n : Nat) : (s.cpl c).ctl n = s.ctl n := by
  apply State.ctl_of_nvme
  rw [State.cpl_nvme]

/-- An event changes of the NVMe state only the controllers and what was handed to the host. -/
theorem State.asyncEvent_nvme (s : State) (fn dw : Nat) :
    ∃ (l : Table Ctl) (o : List NvmeCpl), (s.asyncEvent fn dw).nvme = { s.nvme with ctls := l, out := o } := by
  unfold State.asyncEvent
  split
  · exact ⟨_, _, rfl⟩
  · rw [State.cpl_nvme]
    exact ⟨_, _, rfl⟩

/-- An event changes of its controller only the outstanding requests and the held events. -/
theorem State.asyncEvent_ctl (s : State) (fn dw : Nat) :
    ∃ a h : List Nat, (s.asyncEvent fn dw).ctl fn = { s.ctl fn with aers := a, held := h } := by
  unfold State.asyncEvent
  split
  · exact ⟨_, _, s.ctl_modCtl fn _⟩
  · rename_i cid rest _
    refine ⟨rest, (s.ctl fn).held, ?_⟩
    rw [State.cpl_ctl, State.ctl_modCtl]

theorem State.asyncEvent_ctl_other (s : State) {fn m : Nat} (dw : Nat) (h : m ≠ fn) : (s.asyncEvent fn dw).ctl m = s.ctl m := by
  unfold State.asyncEvent
  split
  · exact s.ctl_modCtl_other _ h
  · rw [State.cpl_ctl]
    exact s.ctl_modCtl_other _ h

theorem State.abortAdd_nvme (s : State) (fn : Nat) (es : List AbortEnt) :
    ∃ (l : Table Ctl) (o : List NvmeCpl), (s.abortAdd fn es).nvme = { s.nvme with ctls := l, out := o } := by
  unfold State.abortAdd
  split
  · exact ⟨_, _, rfl⟩
  · obtain ⟨l, o, h⟩ := State.asyncEvent_nvme (s.modCtl fn (fun c => { c with aborts := c.aborts ++ es })) fn (eventDw 7 0x01 0xC2)
    exact ⟨l, o, by rw [h]; rfl⟩

/-- The entries stand at the end of the function's abort list. -/
theorem State.abortAdd_ctl (s : State) (fn : Nat) (es : List AbortEnt) :
    ∃ a h : List Nat, (s.abortAdd fn es).ctl fn = { s.ctl fn with aborts := (s.ctl fn).aborts ++ es, aers := a, held := h } := by
  unfold State.abortAdd
  split
  · rename_i h
    have : es = [] := by simpa using h
    exact ⟨(s.ctl fn).aers, (s.ctl fn).held, by simp [this]⟩
  · obtain ⟨a, h, e⟩ := State.asyncEvent_ctl (s.modCtl fn (fun c => { c with aborts := c.aborts ++ es })) fn (eventDw 7 0x01 0xC2)
    exact ⟨a, h, by rw [e, State.ctl_modCtl]⟩

theorem State.abortAdd_ctl_other (s : State) {fn m : Nat} (es : List AbortEnt) (h : m ≠ fn) : (s.abortAdd fn es).ctl m = s.ctl m := by
  unfold State.abortAdd
  split
  · rfl
  · rw [State.asyncEvent_ctl_other _ _ h, State.ctl_modCtl_other _ _ h]

/-! ### The end of a function's fetched commands -/

theorem Ctl.reset_aers : Ctl.reset.aers = [] := rfl

theorem State.dropNvme_ctl (s : State) (f : NvmeHdr → Bool) (n : Nat) : ∃ a : List Nat, (s.dropNvme f).ctl n = { s.ctl n with aers := a } := by
  unfold State.dropNvme State.ctl tget
  show ∃ a, (tfind (tmap s.nvme.ctls (fun fn c => { c with aers := c.aers.filter (fun i => !f { fn := fn, sqid := 0, cid := i, nsid := 0 }) })) n).getD _ = _
  rw [tfind_tmap]
  cases tfind s.nvme.ctls n with
  | none => exact ⟨[], rfl⟩
  | some c => exact ⟨_, rfl⟩

/-- What the end of a function's fetched commands leaves of the NVMe state. -/
theorem State.abortFn_nvme (s : State) (fn reason : Nat) :
    (s.abortFn fn reason).nvme.outstanding = s.nvme.outstanding.filter (fun o => !(o.1.fn == fn)) ∧
    (s.abortFn fn reason).nvme.cache.map (·.id) = s.nvme.cache.map (·.id) ∧ (s.abortFn fn reason).nvme.ns = s.nvme.ns := by
  unfold State.abortFn
  obtain ⟨l, o, h⟩ := State.abortAdd_nvme (s.dropNvme (fun h => h.fn == fn)) fn
    ((s.nvme.outstanding.filter (fun o => o.1.fn == fn)).map (s.nvmeAbortEnt reason))
  rw [h]
  refine ⟨rfl, ?_, rfl⟩
  show (s.nvme.cache.map _).map _ = _
  rw [List.map_map]
  apply List.map_congr_left
  intro e _
  simp only [Function.comp]
  split <;> rfl

theorem State.abortFn_ctl (s : State) (fn reason : Nat) : ∃ a h : List Nat, (s.abortFn fn reason).ctl fn =
    { s.ctl fn with aborts := (s.ctl fn).aborts ++ (s.nvme.outstanding.filter (fun o => o.1.fn == fn)).map (s.nvmeAbortEnt reason), aers := a, held := h } := by
  unfold State.abortFn
  obtain ⟨a, h, e⟩ := State.abortAdd_ctl (s.dropNvme (fun h => h.fn == fn)) fn
    ((s.nvme.outstanding.filter (fun o => o.1.fn == fn)).map (s.nvmeAbortEnt reason))
  obtain ⟨b, e'⟩ := s.dropNvme_ctl (fun h => h.fn == fn) fn
  exact ⟨a, h, by rw [e, e']⟩

theorem State.abortFn_ctl_other (s : State) {fn m : Nat} (reason : Nat) (hm : m ≠ fn) :
    ∃ a : List Nat, (s.abortFn fn reason).ctl m = { s.ctl m with aers := a } := by
  unfold State.abortFn
  rw [State.abortAdd_ctl_other _ _ hm]
  exact s.dropNvme_ctl _ m

/-- A controller that FLR, hot reset or PERST# clears. -/
theorem State.clearController_nvme (s : State) (fn reason : Nat) :
    (s.clearController fn reason).nvme.outstanding = s.nvme.outstanding.filter (fun o => !(o.1.fn == fn)) ∧
    (s.clearController fn reason).nvme.cache.map (·.id) = s.nvme.cache.map (·.id) ∧ (s.clearController fn reason).nvme.ns = s.nvme.ns := by
  have h := s.abortFn_nvme fn reason
  unfold State.clearController
  dsimp only
  split <;> exact h

/-- What FLR, hot reset and PERST# leave of a controller. -/
def Ctl.cleared (c : Ctl) : Ctl := { Ctl.reset with aborts := c.aborts, errLog := c.errLog, held := c.held, told := c.told }

theorem State.clearController_ctls (s : State) (fn reason n : Nat) :
    (s.clearController fn reason).ctl n = ((s.abortFn fn reason).modCtl fn Ctl.cleared).ctl n := by
  apply State.ctl_of_nvme
  unfold State.clearController
  dsimp only
  split <;> rfl

theorem State.clearController_ctl (s : State) (fn reason : Nat) :
    (s.clearController fn reason).ctl fn = ((s.abortFn fn reason).ctl fn).cleared := by
  rw [State.clearController_ctls, State.ctl_modCtl]

theorem State.clearController_ctl_other (s : State) {fn m : Nat} (reason : Nat) (hm : m ≠ fn) :
    ∃ a : List Nat, (s.clearController fn reason).ctl m = { s.ctl m with aers := a } := by
  obtain ⟨a, h⟩ := s.abortFn_ctl_other reason hm
  exact ⟨a, by rw [State.clearController_ctls, State.ctl_modCtl_other _ _ hm, h]⟩

/-- A controller that is disabled and holds no queue. -/
def Ctl.off (c : Ctl) : Prop := c.enabled = false ∧ c.ready = false ∧ c.sqs = [] ∧ c.cqs = []

theorem State.clearAll_nvme (l : List Nat) (s : State) (reason : Nat) :
    (l.foldl (fun s f => s.clearController f reason) s).nvme.outstanding = s.nvme.outstanding.filter (fun o => !l.contains o.1.fn) ∧
    (l.foldl (fun s f => s.clearController f reason) s).nvme.cache.map (·.id) = s.nvme.cache.map (·.id) ∧
    (l.foldl (fun s f => s.clearController f reason) s).nvme.ns = s.nvme.ns := by
  induction l generalizing s with
  | nil => simp
  | cons f l ih =>
    obtain ⟨h1, h2, h3⟩ := ih (s.clearController f reason)
    obtain ⟨g1, g2, g3⟩ := s.clearController_nvme f reason
    rw [List.foldl_cons]
    refine ⟨?_, by rw [h2, g2], by rw [h3, g3]⟩
    rw [h1, g1, List.filter_filter]
    apply List.filter_congr
    intro o _
    rw [List.contains_cons]
    cases h : (o.1.fn == f) <;> simp

theorem State.clearAll_ctl (l : List Nat) (s : State) (reason n : Nat) (h : n ∈ l ∨ (s.ctl n).off) :
    ((l.foldl (fun s f => s.clearController f reason) s).ctl n).off := by
  induction l generalizing s with
  | nil => simpa using h
  | cons f l ih =>
    rw [List.foldl_cons]
    apply ih
    by_cases hf : n = f
    · subst hf
      exact Or.inr (by rw [s.clearController_ctl]; exact ⟨rfl, rfl, rfl, rfl⟩)
    · rcases h with h | h
      · rw [List.mem_cons] at h
        exact Or.inl (h.resolve_left hf)
      · obtain ⟨a, hc⟩ := s.clearController_ctl_other reason hf
        exact Or.inr (by rw [hc]; exact h)

/-- Every controller is cleared: none is enabled or holds a queue, nothing is fetched, the write cache and the namespaces
stay. -/
theorem State.clearControllers_all (s : State) (reason : Nat) :
    (∀ n : Nat, ((s.clearControllers reason).ctl n).off) ∧ (s.clearControllers reason).nvme.outstanding = [] ∧
    (s.clearControllers reason).nvme.cache.map (·.id) = s.nvme.cache.map (·.id) ∧ (s.clearControllers reason).nvme.ns = s.nvme.ns := by
  obtain ⟨h1, h2, h3⟩ := State.clearAll_nvme s.fns s reason
  refine ⟨?_, ?_, h2, h3⟩
  · intro n
    apply State.clearAll_ctl
    by_cases hn : n ∈ s.fns
    · exact Or.inl hn
    · right
      have : tfind s.nvme.ctls n = none := by
        have hno : n ∉ s.nvme.ctls.map (·.1) := by
          intro hx
          apply hn
          unfold State.fns
          rw [List.mem_eraseDups]
          exact List.mem_append_left _ hx
        generalize s.nvme.ctls = t at hno
        induction t with
        | nil => rfl
        | cons p t ih =>
          simp only [List.map_cons, List.mem_cons, not_or] at hno
          unfold tfind
          rw [if_neg hno.1]
          exact ih hno.2
      unfold State.ctl tget
      rw [this]
      exact ⟨rfl, rfl, rfl, rfl⟩
  · unfold State.clearControllers
    rw [h1, List.filter_eq_nil_iff]
    intro o ho
    have : o.1.fn ∈ s.fns := by
      unfold State.fns
      rw [List.mem_eraseDups]
      exact List.mem_append_right _ (List.mem_map.mpr ⟨o, ho, rfl⟩)
    simpa using this

/-! ### Commands that leave without a completion -/

theorem State.loseCmds_cmds (s : State) (cs : List Cmd) :
    (s.loseCmds cs).cmds = s.cmds.filter (fun c => !(cs.map (·.uid)).contains c.uid) := by
  have h : ∀ (l : List Cmd) (u : State), (l.foldl (fun s c => if c.status.isNone then s.markAll (s.outRanges c) else s) u).cmds = u.cmds := by
    intro l
    induction l with
    | nil => exact fun _ => rfl
    | cons c l ih =>
      intro u
      rw [List.foldl_cons, ih]
      split
      · exact (State.markAll_frame _ _).same .cmds (by decide)
      · rfl
  unfold State.loseCmds
  simp only [State.modPeer, State.modCmds]
  have hd : ∀ (u : State) (l : List Nat), (u.dropWork l).cmds = u.cmds := fun u l => (State.dropWork_frame u l).same .cmds (by decide)
  rw [hd, h]

theorem State.abortAdds_nvme (l : List Nat) (g : State → Nat → List AbortEnt) (s : State) : ∃ (c : Table Ctl) (o : List NvmeCpl),
    (l.foldl (fun s n => s.abortAdd n (g s n)) s).nvme = { s.nvme with ctls := c, out := o } := by
  induction l generalizing s with
  | nil => exact ⟨_, _, rfl⟩
  | cons n l ih =>
    obtain ⟨c, o, h⟩ := ih (s.abortAdd n (g s n))
    obtain ⟨c', o', h'⟩ := s.abortAdd_nvme n (g s n)
    exact ⟨c, o, by rw [List.foldl_cons, h, h']⟩

/-- What KCI commands that go into the abort lists change of the NVMe state. -/
theorem State.abortKci_nvme (s : State) (f : Cmd → Bool) (reason : Nat) :
    ∃ (c : Table Ctl) (o : List NvmeCpl), (s.abortKci f reason).nvme = { s.nvme with ctls := c, out := o } := by
  unfold State.abortKci
  dsimp only
  have hl : ∀ (u : State) (cs : List Cmd), (u.loseCmds cs).nvme = u.nvme := fun u cs => (State.loseCmds_frame u cs).same .nvme (by decide)
  rw [hl]
  exact State.abortAdds_nvme _ (fun u n => ((s.cmds.filter f).filter (fun c => c.e.ctx == n)).map (u.kciAbort reason)) s

theorem State.abortAdds_off (l : List Nat) (g : State → Nat → List AbortEnt) (s : State) (n : Nat) (h : (s.ctl n).off) :
    ((l.foldl (fun s n => s.abortAdd n (g s n)) s).ctl n).off := by
  induction l generalizing s with
  | nil => exact h
  | cons m l ih =>
    rw [List.foldl_cons]
    apply ih
    by_cases hm : n = m
    · subst hm
      obtain ⟨a, k, e⟩ := s.abortAdd_ctl n (g s n)
      rw [e]
      exact h
    · rw [State.abortAdd_ctl_other _ _ hm]
      exact h

theorem State.abortKci_off (s : State) (f : Cmd → Bool) (reason n : Nat) (h : (s.ctl n).off) : ((s.abortKci f reason).ctl n).off := by
  unfold State.abortKci
  dsimp only
  have hl : ∀ (u : State) (cs : List Cmd), (u.loseCmds cs).ctl n = u.ctl n := by
    intro u cs
    unfold State.ctl
    rw [(State.loseCmds_frame u cs).same .nvme (by decide)]
  rw [hl]
  exact State.abortAdds_off _ (fun u n => ((s.cmds.filter f).filter (fun c => c.e.ctx == n)).map (u.kciAbort reason)) s n h

theorem State.abortKci_cmds (s : State) (f : Cmd → Bool) (reason : Nat) :
    (s.abortKci f reason).cmds = s.cmds.filter (fun c => !((s.cmds.filter f).map (·.uid)).contains c.uid) := by
  unfold State.abortKci
  dsimp only
  rw [State.loseCmds_cmds]
  congr 1
  have h : ∀ (l : List Nat) (g : State → Nat → List AbortEnt) (u : State), (l.foldl (fun s n => s.abortAdd n (g s n)) u).cmds = u.cmds := by
    intro l g
    induction l with
    | nil => exact fun _ => rfl
    | cons n l ih =>
      intro u
      rw [List.foldl_cons, ih]
      exact (State.abortAdd_frame _ _ _).same .cmds (by decide)
  exact h _ (fun u n => ((s.cmds.filter f).filter (fun c => c.e.ctx == n)).map (u.kciAbort reason)) s

/-! ### The cores stop (R416) -/

theorem State.clearConfig_kept (s : State) : s.clearConfig.peer = s.peer.halt ∧ s.clearConfig.ledger.period = s.ledger.period ∧
    s.clearConfig.ledger.ring = s.ledger.ring := ⟨rfl, rfl, rfl⟩

/-- What PERST# and the recovery of C leave. -/
theorem State.haltCores_leaves (s : State) :
    s.haltCores.cmds = [] ∧
    (∀ n : Nat, s.haltCores.ctx n = { Context.reset n with viol := (s.ctx n).viol, c0Discard := (s.ctx n).c0Discard }) ∧
    s.haltCores.nvme.cache.map (·.id) = s.nvme.cache.map (·.id) ∧ s.haltCores.nvme.ns = s.nvme.ns ∧ s.haltCores.nvme.outstanding = [] ∧
    s.haltCores.peer.valid = false ∧ s.haltCores.ledger.period = s.ledger.period ∧
    s.haltCores.power = { s.power with
      linkUp := false, nvmeReady := false, computeReady := false, pstate := 0, lastOp := 0, lowPending := none,
      checkRunning := false, checkDone := false } := by
  obtain ⟨hoff, hout, hcache, hns⟩ := s.clearControllers_all 4
  generalize hA : s.clearControllers 4 = A at *
  have fA : Frame [.nvme, .mgmt] s A := by rw [← hA]; exact State.clearControllers_frame s 4
  obtain ⟨c, o, hB⟩ := A.abortKci_nvme (fun _ => true) 4
  have hBc := A.abortKci_cmds (fun _ => true) 4
  have fB := State.abortKci_frame A (fun _ => true) 4
  generalize hBB : A.abortKci (fun _ => true) 4 = B at *
  have fC := State.clearContexts_frame B
  have hCc := B.clearContexts_ctx
  generalize hCC : B.clearContexts = C at *
  have fD := State.clearConfig_frame C
  obtain ⟨hDp, hDl, -⟩ := C.clearConfig_kept
  generalize hDD : C.clearConfig = D at *
  have fE := State.abandonTests_frame D (fun _ => true)
  generalize hE : D.abandonTests (fun _ => true) = E at *
  have fF := State.modArrays_frame E (fun l => tmap l (fun _ a => a.stop))
  generalize hF : E.modArrays (fun l => tmap l (fun _ a => a.stop)) = F at *
  have fG := State.trimNand_frame F
  have fH := State.resetStore_frame F.trimNand
  have fI := State.stopRegions_frame F.trimNand.resetStore [32, 33, 34, 35, 36]
  have e : s.haltCores = ((F.trimNand.resetStore.stopRegions [32, 33, 34, 35, 36]).modNvme (fun n => { n with fwBuf := [], wce := true })).modPower (fun p => { p with
    linkUp := false, nvmeReady := false, computeReady := false, pstate := 0, lastOp := 0, lowPending := none,
    checkRunning := false, checkDone := false }) := by
    unfold State.haltCores
    dsimp only
    rw [hA, hBB, hCC, hDD, hE, hF]
  generalize F.trimNand = G at *
  generalize G.resetStore = H at *
  generalize H.stopRegions [32, 33, 34, 35, 36] = I at *
  have nvme : I.nvme = B.nvme := by
    rw [fI.same .nvme (by decide), fH.same .nvme (by decide), fG.same .nvme (by decide), fF.same .nvme (by decide), fE.same .nvme (by decide),
      fD.same .nvme (by decide), fC.same .nvme (by decide)]
  have cmds : I.cmds = B.cmds := by
    rw [fI.same .cmds (by decide), fH.same .cmds (by decide), fG.same .cmds (by decide), fF.same .cmds (by decide), fE.same .cmds (by decide),
      fD.same .cmds (by decide), fC.same .cmds (by decide)]
  have ctxs : I.ctxs = C.ctxs := by
    rw [fI.same .ctxs (by decide), fH.same .ctxs (by decide), fG.same .ctxs (by decide), fF.same .ctxs (by decide), fE.same .ctxs (by decide),
      fD.same .ctxs (by decide)]
  have peer : I.peer = D.peer := by
    rw [fI.same .peer (by decide), fH.same .peer (by decide), fG.same .peer (by decide), fF.same .peer (by decide), fE.same .peer (by decide)]
  have ledger : I.ledger = D.ledger := by
    rw [fI.same .ledger (by decide), fH.same .ledger (by decide), fG.same .ledger (by decide), fF.same .ledger (by decide), fE.same .ledger (by decide)]
  have power : I.power = s.power := by
    rw [fI.same .power (by decide), fH.same .power (by decide), fG.same .power (by decide), fF.same .power (by decide), fE.same .power (by decide),
      fD.same .power (by decide), fC.same .power (by decide), fB.same .power (by decide), fA.same .power (by decide)]
  have bctx : ∀ n : Nat, B.ctx n = s.ctx n := by
    intro n
    unfold State.ctx
    rw [fB.same .ctxs (by decide), fA.same .ctxs (by decide)]
  rw [e]
  refine ⟨?_, ?_, ?_, ?_, ?_, ?_, ?_, ?_⟩
  · show I.cmds = []
    rw [cmds, hBc, List.filter_eq_nil_iff]
    intro x hx
    have : x.uid ∈ (A.cmds.filter (fun _ => true)).map (·.uid) := List.mem_map.mpr ⟨x, by simpa using hx, rfl⟩
    simpa using this
  · intro n
    show I.ctx n = _
    have : I.ctx n = C.ctx n := by unfold State.ctx; rw [ctxs]
    rw [this, hCc, bctx]
  · show I.nvme.cache.map (·.id) = _
    rw [nvme, hB]
    exact hcache
  · show I.nvme.ns = _
    rw [nvme, hB]
    exact hns
  · show I.nvme.outstanding = _
    rw [nvme, hB]
    exact hout
  · show I.peer.valid = _
    rw [peer, hDp]
    rfl
  · show I.ledger.period = _
    rw [ledger, hDl, fC.same .ledger (by decide), fB.same .ledger (by decide), fA.same .ledger (by decide)]
  · show ({ I.power with linkUp := false, nvmeReady := false, computeReady := false, pstate := 0, lastOp := 0, lowPending := none, checkRunning := false, checkDone := false } : PowerSt) = _
    rw [power]

/-! ### A start (R422) -/

theorem State.meetRecords_power (s : State) : ∃ x : Option Nat, s.meetRecords.power = { s.power with t0 := x } := by
  have hfold : ∀ (l : List LacunaRec) (u : State), (l.foldl (fun s r => match r.snapshot with | some c => s.addClosed c | none => s) u).power = u.power := by
    intro l
    induction l with
    | nil => exact fun _ => rfl
    | cons r l ih =>
      intro u
      rw [List.foldl_cons, ih]
      cases r.snapshot with
      | none => rfl
      | some c => exact (State.addClosed_frame u c).same .power (by decide)
  unfold State.meetRecords
  dsimp only
  split
  · exact ⟨s.power.t0, hfold _ s⟩
  · refine ⟨none, ?_⟩
    simp only [State.modPower]
    rw [(State.logErr_frame _ _).same .power (by decide)]
    exact congrArg (fun p : PowerSt => { p with t0 := none }) (hfold _ s)

/-- Every region is LOCKED after step 4 of a start. -/
theorem State.lockRegions_lock (s : State) {r : Nat} (h : r < 42) : (s.lockRegions.region r).lock = 2 := by
  unfold State.lockRegions
  have key : ∀ (l : List Nat) (u : State), r ∈ l ∨ (u.region r).lock = 2 →
      ((l.foldl (fun s r => s.modRegion r (fun x =>
        if x.lock = 2 then x else { x with lock := 2, time := s.time.now * 2 ^ 26, missed := 0, good := 0, heldFor := 0 })) u).region r).lock = 2 := by
    intro l
    induction l with
    | nil =>
      intro u h
      simpa using h
    | cons k l ih =>
      intro u h
      rw [List.foldl_cons]
      apply ih
      by_cases hk : r = k
      · subst hk
        right
        rw [State.region_modRegion]
        split <;> simp_all
      · rcases h with h | h
        · exact Or.inl ((List.mem_cons.mp h).resolve_left hk)
        · right
          rw [State.region_modRegion_other _ _ hk]
          exact h
  exact key _ s (Or.inl (List.mem_range.mpr h))

/-- What a start leaves of the power state and of device time. -/
theorem State.start_leaves (s : State) (cause : Nat) (refclk : Bool) :
    (∃ (x : Option Nat) (rs : Table Rail), (s.start cause refclk).power = { s.power with
      mode := .running, perstPin := false, commonClock := refclk, linkUp := true, miReady := s.power.rail33, resetCause := cause,
      nvmeReady := false, computeReady := false, checkRunning := true, checkDone := false, t0 := x, rails := rs }) ∧
    (s.start cause refclk).time.running = true ∧ (∀ r : Nat, r < 42 → ((s.start cause refclk).region r).lock = 2) ∧
    (s.start cause refclk).peer.incarnation = (s.peer.incarnation + 1) % 2 ^ 32 := by
  have f1 := State.modPower_frame s (fun p => { p with
    mode := .running, perstPin := false, commonClock := refclk, linkUp := true, miReady := p.rail33, resetCause := cause,
    nvmeReady := false, computeReady := false, checkRunning := true, checkDone := false })
  have e : s.start cause refclk = s.start cause refclk := rfl
  conv_rhs at e => unfold State.start
  dsimp only at e
  have p1 : (s.modPower (fun p => { p with
    mode := .running, perstPin := false, commonClock := refclk, linkUp := true, miReady := p.rail33, resetCause := cause,
    nvmeReady := false, computeReady := false, checkRunning := true, checkDone := false })).power = { s.power with
    mode := .running, perstPin := false, commonClock := refclk, linkUp := true, miReady := s.power.rail33, resetCause := cause,
    nvmeReady := false, computeReady := false, checkRunning := true, checkDone := false } := rfl
  generalize s.modPower (fun p => { p with
    mode := .running, perstPin := false, commonClock := refclk, linkUp := true, miReady := p.rail33, resetCause := cause,
    nvmeReady := false, computeReady := false, checkRunning := true, checkDone := false }) = A at *
  have f2 := State.readJournal_frame A
  generalize A.readJournal = B at *
  have f3 := State.boot_frame B
  generalize B.boot = C at *
  have f4 := State.startTime_frame C
  have run : C.startTime.time.running = true := by
    unfold State.startTime
    split
    · assumption
    · rfl
  generalize C.startTime = D at *
  have f5 := State.lockRegions_frame D
  have lock := fun r (h : r < 42) => State.lockRegions_lock D h
  have run' : D.lockRegions.time.running = true := by
    unfold State.lockRegions
    have : ∀ (l : List Nat) (u : State), (l.foldl (fun s r => s.modRegion r (fun x =>
        if x.lock = 2 then x else { x with lock := 2, time := s.time.now * 2 ^ 26, missed := 0, good := 0, heldFor := 0 })) u).time.running = u.time.running := by
      intro l
      induction l with
      | nil => exact fun _ => rfl
      | cons k l ih => exact fun u => (ih _).trans rfl
    rw [this, run]
  generalize D.lockRegions = E at *
  have f6 := State.meetRecords_frame E
  obtain ⟨x, hx⟩ := E.meetRecords_power
  generalize E.meetRecords = F at *
  have f7 : Frame [.ledger] F (if F.ledger.isOpen = true then F else F.openPeriod F.time.now) := by
    split
    · exact Frame.refl _ _
    · exact State.modLedger_frame F _
  generalize (if F.ledger.isOpen = true then F else F.openPeriod F.time.now) = G at *
  have f8 := State.readPlans_frame G
  generalize G.readPlans = H at *
  have f9 := State.dropQuiet_frame H
  generalize H.dropQuiet = I at *
  have f10 := State.copyRecords_frame I.store.hole.length I
  generalize State.copyRecords I.store.hole.length I = J at *
  have f11 := State.commitCache_frame J
  generalize J.commitCache = K at *
  have f12 := State.discardVolatile_frame K
  generalize K.discardVolatile = L at *
  have power : L.power = F.power := by
    rw [f12.same .power (by decide), f11.same .power (by decide), f10.same .power (by decide), f9.same .power (by decide),
      f8.same .power (by decide), f7.same .power (by decide)]
  have powerE : E.power = A.power := by
    rw [f5.same .power (by decide), f4.same .power (by decide), f3.same .power (by decide), f2.same .power (by decide)]
  have time : L.time = E.time := by
    rw [f12.same .time (by decide), f11.same .time (by decide), f10.same .time (by decide), f9.same .time (by decide),
      f8.same .time (by decide), f7.same .time (by decide), f6.same .time (by decide)]
  have peer : L.peer = s.peer := by
    rw [f12.same .peer (by decide), f11.same .peer (by decide), f10.same .peer (by decide), f9.same .peer (by decide),
      f8.same .peer (by decide), f7.same .peer (by decide), f6.same .peer (by decide), f5.same .peer (by decide), f4.same .peer (by decide),
      f3.same .peer (by decide), f2.same .peer (by decide), f1.same .peer (by decide)]
  rw [e]
  refine ⟨?_, ?_, ?_, ?_⟩
  · unfold State.retarget State.modRails
    simp only [State.modPower, State.modObjs, State.modPeer, State.modNvme]
    rw [power, hx, powerE, p1]
    exact ⟨_, _, rfl⟩
  · show L.time.running = true
    rw [time]
    exact run'
  · intro r hr
    show (tget Region.reset L.time.regions r).lock = 2
    rw [time]
    exact lock r hr
  · show (L.peer.incarnation + 1) % 2 ^ 32 = _
    rw [peer]

/-! ### Resets of contexts (R367, R368) -/

/-- A reset is latched in its own context and in no other. -/
theorem State.resetCtx_ctx (s : State) (n reason m : Nat) : (s.resetCtx n reason).ctx m =
    if m = n ∧ (s.ctx n).state ≠ 3 then { s.ctx n with state := 3, resetReason := reason } else s.ctx m := by
  unfold State.resetCtx
  by_cases h : (s.ctx n).state = 3
  · simp [h]
  · rw [if_neg h]
    dsimp only
    generalize hA : s.modCtx n (fun c => { c with state := 3, resetReason := reason }) = A
    have h1 := State.dropWork_frame A ((s.pendingOf n).map (·.uid))
    have h2 := State.endOps_frame (A.dropWork ((s.pendingOf n).map (·.uid))) ((s.pendingOf n).map (·.uid)) stPeerAborted
    have h3 := State.releaseJob_frame ((A.dropWork ((s.pendingOf n).map (·.uid))).endOps ((s.pendingOf n).map (·.uid)) stPeerAborted) n
    have : (((A.dropWork ((s.pendingOf n).map (·.uid))).endOps ((s.pendingOf n).map (·.uid)) stPeerAborted).releaseJob n).ctx m = A.ctx m := by
      unfold State.ctx
      rw [h3.same .ctxs (by decide), h2.same .ctxs (by decide), h1.same .ctxs (by decide)]
    rw [this, ← hA]
    by_cases hm : m = n
    · subst hm
      simp [State.ctx_modCtx, h]
    · simp [State.ctx_modCtx_other _ _ hm, hm]

theorem State.resetCtx_state (s : State) (n reason : Nat) : ((s.resetCtx n reason).ctx n).state = 3 := by
  rw [State.resetCtx_ctx]
  split
  · rfl
  · rename_i h
    simpa using h

theorem State.resetCtx_other (s : State) {n m : Nat} (reason : Nat) (h : m ≠ n) : (s.resetCtx n reason).ctx m = s.ctx m := by
  rw [State.resetCtx_ctx]
  simp [h]

/-- Several contexts are reset. -/
theorem State.resetAll_state (l : List Nat) (s : State) (reason n : Nat) (h : n ∈ l ∨ (s.ctx n).state = 3) :
    ((l.foldl (fun s c => s.resetCtx c reason) s).ctx n).state = 3 := by
  induction l generalizing s with
  | nil => simpa using h
  | cons k l ih =>
    rw [List.foldl_cons]
    apply ih
    by_cases hk : n = k
    · subst hk
      exact Or.inr (s.resetCtx_state n reason)
    · rcases h with h | h
      · exact Or.inl ((List.mem_cons.mp h).resolve_left hk)
      · right
        rw [State.resetCtx_other _ _ hk]
        exact h

theorem State.resetAll_frame (l : List Nat) (s : State) (reason : Nat) :
    Frame [.ctxs, .arrays, .parts, .nand, .peer] s (l.foldl (fun s c => s.resetCtx c reason) s) := by
  induction l generalizing s with
  | nil => exact ⟨fun c _ => by cases c <;> rfl⟩
  | cons k l ih => exact (s.resetCtx_frame k reason).after (ih _) (by decide)

/-! ### RUNs that go on to the end of their tile (R47) -/

theorem Cmd.inTile_not_all {c : Cmd} (h : c.tiles.any (fun t => t.began && !t.finished) = true) : (c.tiles.all (·.finished)) = false := by
  rw [List.all_eq_false]
  rw [List.any_eq_true] at h
  obtain ⟨t, ht, hx⟩ := h
  exact ⟨t, ht, by simp_all⟩

/-- A soft end of a command with a tile in progress only notes it: the tiles in progress go on. -/
theorem State.endSoft_inTile {s : State} (uid st ti : Nat) (h : ∀ c ∈ s.cmds, c.tiles.any (fun t => t.began && !t.finished) = true ∧ c.status = none) :
    (∀ c ∈ (s.endSoft uid st ti).cmds, c.tiles.any (fun t => t.began && !t.finished) = true ∧ c.status = none) ∧
    Frame [.cmds] s (s.endSoft uid st ti) := by
  unfold State.endSoft
  generalize hA : s.modCmd uid (fun c => { c.noteEnd st ti with
    tiles := c.tiles.map (fun t => if t.began then t else { t with finished := true }) }) = A
  have fA : Frame [.cmds] s A := by rw [← hA]; exact State.modCmd_frame s uid _
  have hc : ∀ c ∈ A.cmds, c.tiles.any (fun t => t.began && !t.finished) = true ∧ c.status = none := by
    intro c hc
    rw [← hA] at hc
    simp only [State.modCmd, State.modCmds, List.mem_map] at hc
    obtain ⟨d, hd, rfl⟩ := hc
    obtain ⟨h1, h2⟩ := h d hd
    split
    · refine ⟨?_, h2⟩
      rw [List.any_eq_true] at h1 ⊢
      obtain ⟨t, ht, hx⟩ := h1
      refine ⟨t, List.mem_map.mpr ⟨t, ht, ?_⟩, hx⟩
      rw [Bool.and_eq_true] at hx
      rw [if_pos hx.1]
    · exact ⟨h1, h2⟩
  have : A.maybeFinish uid = A := by
    unfold State.maybeFinish
    cases hx : A.cmd? uid with
    | none => rfl
    | some c =>
      have := Cmd.inTile_not_all (hc c (List.mem_of_find?_eq_some hx)).1
      dsimp only
      rw [if_neg (by simp [this])]
  rw [this]
  exact ⟨hc, fA⟩

/-! ### The failed state (R421) -/

theorem State.commitAll_power (l : List Nat) (s : State) : (l.foldl (fun s i => s.commitExtent i 0) s).power = s.power := by
  induction l generalizing s with
  | nil => rfl
  | cons i l ih =>
    rw [List.foldl_cons, ih]
    exact (State.commitExtent_frame _ _ _).same .power (by decide)

/-- Of the power state only the mark of the failed state changes. -/
theorem State.enterFailed_power (s : State) (d : Nat) : (s.enterFailed d).power = { s.power with failed := true } := by
  unfold State.enterFailed
  split
  · rename_i h
    generalize s.power = p at *
    cases p
    simp_all
  · dsimp only
    rw [(State.noteCritical_frame _ _).same .power (by decide), (State.endInternal_frame _ _).same .power (by decide)]
    simp only [State.modPower]
    rw [State.commitAll_power]
    simp only [State.modNvme]
    rw [(State.endNvme_frame _ _ _).same .power (by decide), (State.endNvme_frame _ _ _).same .power (by decide),
      (State.drawn_frame _).same .power (by decide)]
    split
    · rfl
    · rw [(State.putRecord_frame _ _).same .power (by decide)]

/-- What the beginning of a recovery leaves of the power state; the cores and their commands stop when it is C's. -/
theorem State.recover_leaves (s : State) {d cause : Nat} (hm : s.power.mode = .running) (hd : d ≤ 3) (h : s.power.recovering.contains d = false)
    (h2 : s.power.recovering.contains 2 = false) :
    ∃ p : PowerSt, (if d = 2 then p = { s.power with
        linkUp := false, nvmeReady := false, computeReady := false, pstate := 0, lastOp := 0, lowPending := none,
        checkRunning := false, checkDone := false } else p = s.power) ∧
      (s.recover d cause).power = { p with
        recoveries := s.power.recoveries ++ [(d, s.power.onTime)]
        recovering := s.power.recovering ++ [d]
        failed := s.power.failed || decide (3 ≤ (s.recover d cause).power.recent d) } ∧
      (d = 2 → (s.recover d cause).power.recent d < 3 → (s.recover d cause).cmds = []) := by
  generalize hR : s.recover d cause = R
  unfold State.recover at hR
  rw [if_neg (by simp only [hm, h, h2]; simp; omega)] at hR
  dsimp only at hR
  generalize hA : (s.modPower (fun p => { p with recoveries := p.recoveries ++ [(d, p.onTime)] })).logErr
      { cls := 0x52, kind := 2, addr := d, detail := cause } = A at hR
  have pA : A.power = { s.power with recoveries := s.power.recoveries ++ [(d, s.power.onTime)] } := by
    rw [← hA, (State.logErr_frame _ _).same .power (by decide)]
    rfl
  generalize hB : (if d = 2 then A.haltCores else if d = 3 then A.resetFlash else A.resetMatrix d) = B at hR
  obtain ⟨hc, -, -, -, -, -, -, hp⟩ := A.haltCores_leaves
  have pB : ∃ p : PowerSt, (if d = 2 then p = { s.power with
        linkUp := false, nvmeReady := false, computeReady := false, pstate := 0, lastOp := 0, lowPending := none,
        checkRunning := false, checkDone := false } else p = s.power) ∧
      B.power = { p with recoveries := s.power.recoveries ++ [(d, s.power.onTime)] } := by
    rw [← hB]
    by_cases h2 : d = 2
    · rw [if_pos h2]
      exact ⟨_, by rw [if_pos h2], by rw [hp, pA]⟩
    · rw [if_neg h2]
      by_cases h3 : d = 3
      · rw [if_pos h3]
        exact ⟨_, by rw [if_neg h2], by rw [(State.resetFlash_frame _).same .power (by decide), pA]⟩
      · rw [if_neg h3]
        exact ⟨_, by rw [if_neg h2], by rw [(State.resetMatrix_frame _ _).same .power (by decide), pA]⟩
  obtain ⟨p, hp1, hp2⟩ := pB
  refine ⟨p, hp1, ?_⟩
  generalize hC : B.modPower (fun p => { p with recovering := p.recovering ++ [d] }) = C at hR
  have pC : C.power = { p with recoveries := s.power.recoveries ++ [(d, s.power.onTime)], recovering := s.power.recovering ++ [d] } := by
    rw [← hC]
    show ({ B.power with recovering := B.power.recovering ++ [d] } : PowerSt) = _
    rw [hp2]
    have : p.recovering = s.power.recovering := by
      split at hp1 <;> rw [hp1]
    rw [← this]
  have pf : p.failed = s.power.failed := by
    split at hp1 <;> rw [hp1]
  by_cases h3 : 3 ≤ C.power.recent d
  · rw [if_pos h3] at hR
    have hr : R.power = { C.power with failed := true } := by rw [← hR, State.enterFailed_power]
    have : R.power.recent d = C.power.recent d := by rw [hr]; rfl
    refine ⟨?_, fun _ hlt => ?_⟩
    · rw [this, decide_eq_true h3, hr, pC]
      simp
    · omega
  · rw [if_neg h3] at hR
    subst hR
    refine ⟨?_, fun h2 _ => ?_⟩
    · rw [decide_eq_false h3, pC, Bool.or_false, ← pf]
    · rw [← hC]
      show B.cmds = []
      rw [← hB, if_pos h2]
      exact hc

end Sys2Proof.Machine
end

