-- ==== Sys2Proof/Laws/FrameExec.lean ====
section
/-! SUPPORT. One frame per command: it answers a next state, and only the listed components can differ from before. -/

namespace Sys2Proof.Machine

theorem execPowerOnReset_frame (rail12 : Bool) (rail33 : Bool) (s : State) :
    ∃ t : State, execPowerOnReset rail12 rail33 s = .next t ∧ Frame [.power, .time, .ctxs, .cmds, .objs, .arrays, .parts, .tests, .nand, .store, .nvme, .peer, .errs, .ledger, .mgmt, .freeCtr] s t := by
  unfold execPowerOnReset
  extract_lets w1
  split
  · refine ⟨_, rfl, ?_⟩
    dsimp only [w1]
    refine Frame.after ?_ (State.modPower_frame _ _) rfl
    exact Frame.refl _ _
  · refine ⟨_, rfl, ?_⟩
    dsimp only [w1]
    refine Frame.after ?_ (State.modPower_frame _ _) rfl
    exact Frame.refl _ _
  · refine ⟨_, rfl, ?_⟩
    refine Frame.after ?_ (State.powerOn_frame _ _) rfl
    dsimp only [w1]
    refine Frame.after ?_ (State.modPower_frame _ _) rfl
    refine Frame.after ?_ (State.nandReset_frame _) rfl
    refine Frame.after ?_ (State.putRecord_frame _ _) rfl
    exact Frame.refl _ _
  · refine ⟨_, rfl, ?_⟩
    refine Frame.after ?_ (State.powerOn_frame _ _) rfl
    dsimp only [w1]
    refine Frame.after ?_ (State.modPower_frame _ _) rfl
    refine Frame.after ?_ (State.nandReset_frame _) rfl
    refine Frame.after ?_ (State.putRecord_frame _ _) rfl
    exact Frame.refl _ _
  · refine ⟨_, rfl, ?_⟩
    refine Frame.after ?_ (State.powerOn_frame _ _) rfl
    dsimp only [w1]
    refine Frame.after ?_ (State.modPower_frame _ _) rfl
    exact Frame.refl _ _
  · refine ⟨_, rfl, ?_⟩
    refine Frame.after ?_ (State.powerOn_frame _ _) rfl
    dsimp only [w1]
    refine Frame.after ?_ (State.modPower_frame _ _) rfl
    exact Frame.refl _ _
  · refine ⟨_, rfl, ?_⟩
    refine Frame.after ?_ (State.powerOn_frame _ _) rfl
    dsimp only [w1]
    refine Frame.after ?_ (State.modPower_frame _ _) rfl
    exact Frame.refl _ _

theorem execAuxRailValid_frame (s : State) :
    ∃ t : State, execAuxRailValid s = .next t ∧ Frame [.power] s t := by
  unfold execAuxRailValid
  refine ⟨_, rfl, ?_⟩
  refine Frame.after ?_ (State.modPower_frame _ _) rfl
  exact Frame.refl _ _

theorem execPowerFail_frame (s : State) :
    ∃ t : State, execPowerFail s = .next t ∧ Frame [.power, .time, .nand, .store, .peer] s t := by
  unfold execPowerFail
  extract_lets
  split
  · refine ⟨_, rfl, ?_⟩
    refine Frame.after ?_ (State.failPower_frame _) rfl
    refine Frame.after ?_ (State.modPower_frame _ _) rfl
    exact Frame.refl _ _
  · refine ⟨_, rfl, ?_⟩
    refine Frame.after ?_ (State.failPower_frame _) rfl
    refine Frame.after ?_ (State.modPower_frame _ _) rfl
    exact Frame.refl _ _
  · refine ⟨_, rfl, ?_⟩
    refine Frame.after ?_ (State.modPower_frame _ _) rfl
    refine Frame.after ?_ (State.modPower_frame _ _) rfl
    exact Frame.refl _ _
  · refine ⟨_, rfl, ?_⟩
    refine Frame.after ?_ (State.modPower_frame _ _) rfl
    exact Frame.refl _ _
  · refine ⟨_, rfl, ?_⟩
    refine Frame.after ?_ (State.modPower_frame _ _) rfl
    exact Frame.refl _ _
  · refine ⟨_, rfl, ?_⟩
    refine Frame.after ?_ (State.modPower_frame _ _) rfl
    exact Frame.refl _ _
  · refine ⟨_, rfl, ?_⟩
    refine Frame.after ?_ (State.modPower_frame _ _) rfl
    exact Frame.refl _ _

theorem execPowerFailRecordDone_frame (s : State) :
    ∃ t : State, execPowerFailRecordDone s = .next t ∧ Frame [.power, .time, .ctxs, .cmds, .objs, .arrays, .parts, .tests, .nand, .store, .nvme, .peer, .errs, .ledger, .mgmt, .freeCtr] s t := by
  unfold execPowerFailRecordDone
  refine ⟨_, rfl, ?_⟩
  refine Frame.ite ?_ ?_
  · refine Frame.after ?_ (State.powerOn_frame _ _) rfl
    exact Frame.refl _ _
  · exact Frame.refl _ _

theorem execPwrdisAssert_frame (s : State) :
    ∃ t : State, execPwrdisAssert s = .next t ∧ Frame [.power, .time, .nand, .store, .peer] s t := by
  unfold execPwrdisAssert
  extract_lets
  split
  · refine ⟨_, rfl, ?_⟩
    refine Frame.after ?_ (State.failPower_frame _) rfl
    refine Frame.after ?_ (State.modPower_frame _ _) rfl
    refine Frame.after ?_ (State.modPower_frame _ _) rfl
    exact Frame.refl _ _
  · refine ⟨_, rfl, ?_⟩
    refine Frame.after ?_ (State.failPower_frame _) rfl
    refine Frame.after ?_ (State.modPower_frame _ _) rfl
    refine Frame.after ?_ (State.modPower_frame _ _) rfl
    exact Frame.refl _ _
  · refine ⟨_, rfl, ?_⟩
    refine Frame.after ?_ (State.modPower_frame _ _) rfl
    refine Frame.after ?_ (State.modPower_frame _ _) rfl
    exact Frame.refl _ _
  · refine ⟨_, rfl, ?_⟩
    refine Frame.after ?_ (State.modPower_frame _ _) rfl
    exact Frame.refl _ _
  · refine ⟨_, rfl, ?_⟩
    refine Frame.after ?_ (State.modPower_frame _ _) rfl
    exact Frame.refl _ _
  · refine ⟨_, rfl, ?_⟩
    refine Frame.after ?_ (State.modPower_frame _ _) rfl
    exact Frame.refl _ _
  · refine ⟨_, rfl, ?_⟩
    refine Frame.after ?_ (State.modPower_frame _ _) rfl
    exact Frame.refl _ _

theorem execPwrdisDeassert_frame (s : State) :
    ∃ t : State, execPwrdisDeassert s = .next t ∧ Frame [.power, .time, .ctxs, .cmds, .objs, .arrays, .parts, .tests, .nand, .store, .nvme, .peer, .errs, .ledger, .mgmt, .freeCtr] s t := by
  unfold execPwrdisDeassert
  extract_lets
  refine ⟨_, rfl, ?_⟩
  refine Frame.ite ?_ ?_
  · refine Frame.after ?_ (State.powerOn_frame _ _) rfl
    refine Frame.after ?_ (State.modPower_frame _ _) rfl
    exact Frame.refl _ _
  · refine Frame.after ?_ (State.modPower_frame _ _) rfl
    exact Frame.refl _ _

theorem execPerstAssert_frame (s : State) :
    ∃ t : State, execPerstAssert s = .next t ∧ Frame [.power, .time, .ctxs, .cmds, .objs, .arrays, .parts, .tests, .nand, .store, .nvme, .peer, .errs, .ledger, .mgmt, .freeCtr] s t := by
  unfold execPerstAssert
  extract_lets
  refine ⟨_, rfl, ?_⟩
  refine Frame.ite ?_ ?_
  · refine Frame.after ?_ (State.modPower_frame _ _) rfl
    refine Frame.ite ?_ ?_
    · refine Frame.after ?_ (State.modPower_frame _ _) rfl
      exact Frame.refl _ _
    · refine Frame.after ?_ (State.haltCores_frame _) rfl
      refine Frame.after ?_ (State.modPower_frame _ _) rfl
      exact Frame.refl _ _
  · refine Frame.after ?_ (State.modPower_frame _ _) rfl
    exact Frame.refl _ _

theorem execPerstDeassert_frame (refclk : Bool) (s : State) :
    ∃ t : State, execPerstDeassert refclk s = .next t ∧ Frame [.power, .time, .ctxs, .objs, .nand, .store, .nvme, .peer, .errs, .ledger, .mgmt, .freeCtr] s t := by
  unfold execPerstDeassert
  extract_lets
  split
  · refine ⟨_, rfl, ?_⟩
    refine Frame.ite ?_ ?_
    · refine Frame.after ?_ (State.modPower_frame _ _) rfl
      exact Frame.refl _ _
    · refine Frame.after ?_ (State.start_frame _ _ _) rfl
      exact Frame.refl _ _
  · refine ⟨_, rfl, ?_⟩
    refine Frame.after ?_ (State.start_frame _ _ _) rfl
    exact Frame.refl _ _
  · refine ⟨_, rfl, ?_⟩
    exact Frame.refl _ _
  · refine ⟨_, rfl, ?_⟩
    refine Frame.after ?_ (State.modPower_frame _ _) rfl
    exact Frame.refl _ _
  · refine ⟨_, rfl, ?_⟩
    refine Frame.after ?_ (State.modPower_frame _ _) rfl
    exact Frame.refl _ _
  · refine ⟨_, rfl, ?_⟩
    refine Frame.after ?_ (State.modPower_frame _ _) rfl
    exact Frame.refl _ _
  · refine ⟨_, rfl, ?_⟩
    refine Frame.after ?_ (State.modPower_frame _ _) rfl
    exact Frame.refl _ _

theorem execControllerEnable_frame (fn : Nat) (s : State) :
    ∃ t : State, execControllerEnable fn s = .next t ∧ Frame [.power, .nvme, .mgmt] s t := by
  unfold execControllerEnable
  split
  · extract_lets
    refine ⟨_, rfl, ?_⟩
    refine Frame.ite ?_ ?_
    · refine Frame.after ?_ (State.asyncEvent_frame _ _ _) rfl
      refine Frame.after ?_ (State.modPower_frame _ _) rfl
      refine Frame.after ?_ (State.modCtl_frame _ _ _) rfl
      exact Frame.refl _ _
    · refine Frame.after ?_ (State.modPower_frame _ _) rfl
      refine Frame.after ?_ (State.modCtl_frame _ _ _) rfl
      exact Frame.refl _ _
  · refine ⟨_, rfl, ?_⟩
    exact Frame.refl _ _

theorem execComputeReady_frame (s : State) :
    ∃ t : State, execComputeReady s = .next t ∧ Frame [.power, .store] s t := by
  unfold execComputeReady
  split
  · extract_lets
    split
    · refine ⟨_, rfl, ?_⟩
      refine Frame.after ?_ (State.modStore_frame _ _) rfl
      refine Frame.after ?_ (State.setSlot_frame _ _ _) rfl
      refine Frame.after ?_ (State.setSlot_frame _ _ _) rfl
      refine Frame.after ?_ (State.modPower_frame _ _) rfl
      exact Frame.refl _ _
    · refine ⟨_, rfl, ?_⟩
      refine Frame.after ?_ (State.modPower_frame _ _) rfl
      exact Frame.refl _ _
  · refine ⟨_, rfl, ?_⟩
    exact Frame.refl _ _

theorem execControllerReset_frame (fn : Nat) (s : State) :
    ∃ t : State, execControllerReset fn s = .next t ∧ Frame [.nvme, .mgmt] s t := by
  unfold execControllerReset
  refine ⟨_, rfl, ?_⟩
  refine Frame.ite ?_ ?_
  · refine Frame.after ?_ (State.controllerReset_frame _ _ _) rfl
    exact Frame.refl _ _
  · exact Frame.refl _ _

theorem execFlr_frame (fn : Nat) (s : State) :
    ∃ t : State, execFlr fn s = .next t ∧ Frame [.ctxs, .arrays, .parts, .nand, .nvme, .peer, .errs, .ledger, .mgmt] s t := by
  unfold execFlr
  split
  · split
    · extract_lets
      refine ⟨_, rfl, ?_⟩
      refine Frame.foldl _ ?_ (fun u x hu => ?_)
      · refine Frame.after ?_ (State.clearSelects_frame _) rfl
        refine Frame.after ?_ (State.clearControllers_frame _ _) rfl
        exact Frame.refl _ _
      · refine Frame.after ?_ (State.resetCtx_frame _ _ _) rfl
        assumption
    · refine ⟨_, rfl, ?_⟩
      refine Frame.after ?_ (State.resetCtx_frame _ _ _) rfl
      refine Frame.after ?_ (State.clearController_frame _ _ _) rfl
      exact Frame.refl _ _
  · refine ⟨_, rfl, ?_⟩
    exact Frame.refl _ _

theorem execHostLinkLoss_frame (s : State) :
    ∃ t : State, execHostLinkLoss s = .next t ∧ Frame [.power, .ctxs, .cmds, .objs, .arrays, .nand, .nvme, .peer, .errs, .ledger, .mgmt, .nextId, .freeCtr] s t := by
  unfold execHostLinkLoss
  split
  · extract_lets
    refine ⟨_, rfl, ?_⟩
    refine Frame.foldl _ ?_ (fun u x hu => ?_)
    · refine Frame.after ?_ (State.abortKci_frame _ _ _) rfl
      refine Frame.after ?_ (State.clearSelects_frame _) rfl
      refine Frame.after ?_ (State.clearControllers_frame _ _) rfl
      refine Frame.after ?_ (State.modPower_frame _ _) rfl
      exact Frame.refl _ _
    · refine Frame.after ?_ (State.endSoft_frame _ _ _ _) rfl
      assumption
  · refine ⟨_, rfl, ?_⟩
    exact Frame.refl _ _

theorem execSmbrst_frame (s : State) :
    ∃ t : State, execSmbrst s = .next t ∧ Frame [.mgmt] s t := by
  unfold execSmbrst
  refine ⟨_, rfl, ?_⟩
  refine Frame.after ?_ (State.modMgmt_frame _ _) rfl
  exact Frame.refl _ _

theorem execDieRecoveryStart_frame (die : Nat) (cause : Nat) (s : State) :
    ∃ t : State, execDieRecoveryStart die cause s = .next t ∧ Frame [.power, .time, .ctxs, .cmds, .objs, .arrays, .parts, .tests, .nand, .store, .nvme, .peer, .errs, .ledger, .mgmt, .host, .nextId, .freeCtr] s t := by
  unfold execDieRecoveryStart
  refine ⟨_, rfl, ?_⟩
  refine Frame.after ?_ (State.recover_frame _ _ _) rfl
  exact Frame.refl _ _

theorem execHousekeepingReportTimeout_frame (die : Nat) (s : State) :
    ∃ t : State, execHousekeepingReportTimeout die s = .next t ∧ Frame [.power, .time, .ctxs, .cmds, .objs, .arrays, .parts, .tests, .nand, .store, .nvme, .peer, .errs, .ledger, .mgmt, .host, .nextId, .freeCtr] s t := by
  unfold execHousekeepingReportTimeout
  refine ⟨_, rfl, ?_⟩
  refine Frame.after ?_ (State.recover_frame _ _ _) rfl
  exact Frame.refl _ _

theorem execKerilWatchdogExpiry_frame (s : State) :
    ∃ t : State, execKerilWatchdogExpiry s = .next t ∧ Frame [.power, .time, .ctxs, .cmds, .objs, .arrays, .parts, .tests, .nand, .store, .nvme, .peer, .errs, .ledger, .mgmt, .host, .nextId, .freeCtr] s t := by
  unfold execKerilWatchdogExpiry
  refine ⟨_, rfl, ?_⟩
  refine Frame.after ?_ (State.recover_frame _ _ _) rfl
  exact Frame.refl _ _

theorem execDieRecoveryDone_frame (die : Nat) (s : State) :
    ∃ t : State, execDieRecoveryDone die s = .next t ∧ Frame [.power, .time, .ctxs, .cmds, .objs, .arrays, .parts, .nand, .store, .nvme, .peer, .errs, .ledger, .mgmt, .host, .nextId, .freeCtr] s t := by
  unfold execDieRecoveryDone
  split
  · extract_lets
    split
    · refine ⟨_, rfl, ?_⟩
      refine Frame.after ?_ (State.recheck_frame _) rfl
      refine Frame.after ?_ (State.settle_frame _) rfl
      refine Frame.after ?_ (State.modPower_frame _ _) rfl
      exact Frame.refl _ _
    · split
      · refine ⟨_, rfl, ?_⟩
        refine Frame.after ?_ (State.start_frame _ _ _) rfl
        refine Frame.after ?_ (State.modPower_frame _ _) rfl
        exact Frame.refl _ _
      · split
        · refine ⟨_, rfl, ?_⟩
          refine Frame.after ?_ (State.start_frame _ _ _) rfl
          refine Frame.after ?_ (State.modPower_frame _ _) rfl
          exact Frame.refl _ _
        · refine ⟨_, rfl, ?_⟩
          refine Frame.after ?_ (State.modPower_frame _ _) rfl
          exact Frame.refl _ _
  · refine ⟨_, rfl, ?_⟩
    exact Frame.refl _ _

theorem execThermalSample_frame (tj : List Int) (tn : List Int) (s : State) :
    ∃ t : State, execThermalSample tj tn s = .next t ∧ Frame [.power, .time, .nvme, .errs, .mgmt] s t := by
  unfold execThermalSample
  split
  · refine ⟨_, rfl, ?_⟩
    exact Frame.refl _ _
  · extract_lets
    refine ⟨_, rfl, ?_⟩
    refine Frame.after ?_ (State.relevel_frame _ _) rfl
    refine Frame.after ?_ (State.modPower_frame _ _) rfl
    refine Frame.after ?_ (State.modPower_frame _ _) rfl
    refine Frame.after ?_ (State.modTime_frame _ _) rfl
    exact Frame.refl _ _

theorem execThermalLevelExit_frame (s : State) :
    ∃ t : State, execThermalLevelExit s = .next t ∧ Frame [.power, .nvme, .errs, .mgmt] s t := by
  unfold execThermalLevelExit
  extract_lets
  split
  · refine ⟨_, rfl, ?_⟩
    refine Frame.after ?_ (State.relevel_frame _ _) rfl
    refine Frame.after ?_ (State.modPower_frame _ _) rfl
    exact Frame.refl _ _
  · refine ⟨_, rfl, ?_⟩
    exact Frame.refl _ _

theorem execVoltageRampStep_frame (s : State) :
    ∃ t : State, execVoltageRampStep s = .next t ∧ Frame [.power] s t := by
  unfold execVoltageRampStep
  refine ⟨_, rfl, ?_⟩
  refine Frame.ite ?_ ?_
  · refine Frame.after ?_ (State.modPower_frame _ _) rfl
    exact Frame.refl _ _
  · exact Frame.refl _ _

theorem execHoldupCheck_frame (s : State) :
    ∃ t : State, execHoldupCheck s = .next t ∧ Frame [.power] s t := by
  unfold execHoldupCheck
  refine ⟨_, rfl, ?_⟩
  refine Frame.ite ?_ ?_
  · refine Frame.after ?_ (State.startCheck_frame _) rfl
    exact Frame.refl _ _
  · exact Frame.refl _ _

theorem execHoldupCheckDone_frame (dtUs : Nat) (s : State) :
    ∃ t : State, execHoldupCheckDone dtUs s = .next t ∧ Frame [.power, .nvme, .errs, .mgmt] s t := by
  unfold execHoldupCheckDone
  split
  · extract_lets
    refine ⟨_, rfl, ?_⟩
    refine Frame.after ?_ (State.noteCritical_frame _ _) rfl
    refine Frame.ite ?_ ?_
    · refine Frame.after ?_ (State.logErr_frame _ _) rfl
      refine Frame.after ?_ (State.modPower_frame _ _) rfl
      exact Frame.refl _ _
    · refine Frame.after ?_ (State.modPower_frame _ _) rfl
      exact Frame.refl _ _
  · refine ⟨_, rfl, ?_⟩
    exact Frame.refl _ _

theorem execPwrHoldupCheckStart_frame (value : BitVec 32) (s : State) :
    ∃ t : State, execPwrHoldupCheckStart value s = .next t ∧ Frame [.power] s t := by
  unfold execPwrHoldupCheckStart
  refine ⟨_, rfl, ?_⟩
  refine Frame.ite ?_ ?_
  · refine Frame.after ?_ (State.startCheck_frame _) rfl
    exact Frame.refl _ _
  · exact Frame.refl _ _

theorem execDeviceTimeRecord_frame (s : State) :
    ∃ t : State, execDeviceTimeRecord s = .next t ∧ Frame [.store] s t := by
  unfold execDeviceTimeRecord
  refine ⟨_, rfl, ?_⟩
  refine Frame.ite ?_ ?_
  · refine Frame.after ?_ (State.modStore_frame _ _) rfl
    exact Frame.refl _ _
  · exact Frame.refl _ _

theorem execCrystalPeriod_frame (s : State) :
    ∃ t : State, execCrystalPeriod s = .next t ∧ Frame [.power, .time] s t := by
  unfold execCrystalPeriod
  refine ⟨_, rfl, ?_⟩
  refine Frame.ite ?_ ?_
  · refine Frame.after ?_ (State.modPower_frame _ _) rfl
    refine Frame.after ?_ (State.modTime_frame _ _) rfl
    exact Frame.refl _ _
  · exact Frame.refl _ _

theorem execBeaconSend_frame (s : State) :
    ∃ t : State, execBeaconSend s = .next t ∧ Frame [.time] s t := by
  unfold execBeaconSend
  refine ⟨_, rfl, ?_⟩
  refine Frame.ite ?_ ?_
  · refine Frame.after ?_ (State.modRegions_frame _ _) rfl
    refine Frame.after ?_ (State.modTime_frame _ _) rfl
    exact Frame.refl _ _
  · exact Frame.refl _ _

theorem execBeaconReceive_frame (region : Nat) (b : Nat) (s : State) :
    ∃ t : State, execBeaconReceive region b s = .next t ∧ Frame [.time, .freeCtr] s t := by
  unfold execBeaconReceive
  refine ⟨_, rfl, ?_⟩
  refine Frame.ite ?_ ?_
  · refine Frame.after ?_ (State.drawn_frame _) rfl
    refine Frame.after ?_ (State.modRegion_frame _ _ _) rfl
    exact Frame.refl _ _
  · exact Frame.refl _ _

theorem execBeaconPathMeasure_frame (region : Nat) (delay16 : Nat) (s : State) :
    ∃ t : State, execBeaconPathMeasure region delay16 s = .next t ∧ Frame [.time] s t := by
  unfold execBeaconPathMeasure
  refine ⟨_, rfl, ?_⟩
  refine Frame.ite ?_ ?_
  · refine Frame.after ?_ (State.modRegion_frame _ _ _) rfl
    exact Frame.refl _ _
  · exact Frame.refl _ _

theorem execBeaconMissLimit_frame (region : Nat) (s : State) :
    ∃ t : State, execBeaconMissLimit region s = .next t ∧ Frame [.time] s t := by
  unfold execBeaconMissLimit
  refine ⟨_, rfl, ?_⟩
  refine Frame.ite ?_ ?_
  · refine Frame.after ?_ (State.modRegion_frame _ _ _) rfl
    exact Frame.refl _ _
  · exact Frame.refl _ _

theorem execHoldoverTimeout_frame (region : Nat) (s : State) :
    ∃ t : State, execHoldoverTimeout region s = .next t ∧ Frame [.errs, .mgmt] s t := by
  unfold execHoldoverTimeout
  refine ⟨_, rfl, ?_⟩
  refine Frame.ite ?_ ?_
  · refine Frame.after ?_ (State.logErr_frame _ _) rfl
    exact Frame.refl _ _
  · exact Frame.refl _ _

theorem execLocalTick_frame (region : Nat) (s : State) :
    ∃ t : State, execLocalTick region s = .next t ∧ Frame [.time] s t := by
  unfold execLocalTick
  extract_lets
  refine ⟨_, rfl, ?_⟩
  refine Frame.ite ?_ ?_
  · refine Frame.after ?_ (State.modRegion_frame _ _ _) rfl
    exact Frame.refl _ _
  · exact Frame.refl _ _

theorem execOscillatorWatch_frame (region : Nat) (duty : Nat) (jitter : Nat) (ticks : Nat) (s : State) :
    ∃ t : State, execOscillatorWatch region duty jitter ticks s = .next t ∧ Frame [.time, .tests, .errs, .mgmt] s t := by
  unfold execOscillatorWatch
  split
  · extract_lets
    refine ⟨_, rfl, ?_⟩
    refine Frame.after ?_ (State.logTest_frame _ _ _ _) rfl
    refine Frame.after ?_ (State.modRegion_frame _ _ _) rfl
    exact Frame.refl _ _
  · refine ⟨_, rfl, ?_⟩
    exact Frame.refl _ _

theorem execMarginSample_frame (region : Nat) (slack : Nat) (s : State) :
    ∃ t : State, execMarginSample region slack s = .next t ∧ Frame [.power, .time, .tests, .errs, .mgmt] s t := by
  unfold execMarginSample
  split
  · extract_lets
    refine ⟨_, rfl, ?_⟩
    refine Frame.ite ?_ ?_
    · refine Frame.after ?_ (State.modRegion_frame _ _ _) rfl
      exact Frame.refl _ _
    · refine Frame.ite ?_ ?_
      · refine Frame.after ?_ (State.askVolt_frame _ _) rfl
        refine Frame.after ?_ (State.modRegion_frame _ _ _) rfl
        refine Frame.after ?_ (State.modRegion_frame _ _ _) rfl
        exact Frame.refl _ _
      · refine Frame.ite ?_ ?_
        · refine Frame.after ?_ (State.askVolt_frame _ _) rfl
          refine Frame.after ?_ (State.modRegion_frame _ _ _) rfl
          refine Frame.after ?_ (State.modRegion_frame _ _ _) rfl
          exact Frame.refl _ _
        · refine Frame.after ?_ (State.logTest_frame _ _ _ _) rfl
          refine Frame.after ?_ (State.modRegion_frame _ _ _) rfl
          refine Frame.after ?_ (State.modRegion_frame _ _ _) rfl
          exact Frame.refl _ _
  · refine ⟨_, rfl, ?_⟩
    exact Frame.refl _ _

theorem execStretchRelease_frame (region : Nat) (s : State) :
    ∃ t : State, execStretchRelease region s = .next t ∧ Frame [.time] s t := by
  unfold execStretchRelease
  refine ⟨_, rfl, ?_⟩
  refine Frame.ite ?_ ?_
  · refine Frame.after ?_ (State.modRegion_frame _ _ _) rfl
    exact Frame.refl _ _
  · exact Frame.refl _ _

theorem execLastingMarginFault_frame (region : Nat) (s : State) :
    ∃ t : State, execLastingMarginFault region s = .next t ∧ Frame [.power, .time, .ctxs, .cmds, .objs, .arrays, .parts, .tests, .nand, .store, .nvme, .peer, .errs, .ledger, .mgmt, .host, .nextId, .freeCtr] s t := by
  unfold execLastingMarginFault
  split
  · extract_lets
    refine ⟨_, rfl, ?_⟩
    split
    · refine Frame.ite ?_ ?_
      · refine Frame.after ?_ (State.logErr_frame _ _) rfl
        refine Frame.after ?_ (State.modRegion_frame _ _ _) rfl
        exact Frame.refl _ _
      · refine Frame.after ?_ (State.retireArray_frame _ _) rfl
        refine Frame.after ?_ (State.logErr_frame _ _) rfl
        refine Frame.after ?_ (State.modRegion_frame _ _ _) rfl
        exact Frame.refl _ _
    · refine Frame.after ?_ (State.recover_frame _ _ _) rfl
      refine Frame.after ?_ (State.logErr_frame _ _) rfl
      refine Frame.after ?_ (State.modRegion_frame _ _ _) rfl
      exact Frame.refl _ _
  · refine ⟨_, rfl, ?_⟩
    exact Frame.refl _ _

theorem execMonitorRefresh_frame (rates : List Nat) (s : State) :
    ∃ t : State, execMonitorRefresh rates s = .next t ∧ Frame [.power, .time, .cmds, .nvme, .errs, .mgmt] s t := by
  unfold execMonitorRefresh
  split
  · refine ⟨_, rfl, ?_⟩
    exact Frame.refl _ _
  · extract_lets _ _ _ w4
    refine ⟨_, rfl, ?_⟩
    clear_value w4
    split
    · refine Frame.foldl _ ?_ (fun u x hu => ?_)
      · refine Frame.after ?_ (State.modTime_frame _ _) rfl
        exact Frame.refl _ _
      · refine Frame.after ?_ (State.breach_frame _ _) rfl
        assumption
    · refine Frame.after ?_ (State.relevel_frame _ _) rfl
      refine Frame.after ?_ (State.modPower_frame _ _) rfl
      refine Frame.foldl _ ?_ (fun u x hu => ?_)
      · refine Frame.after ?_ (State.modTime_frame _ _) rfl
        exact Frame.refl _ _
      · refine Frame.after ?_ (State.breach_frame _ _) rfl
        assumption

theorem execPowerMonitorRefresh_frame (draws : List Nat) (s : State) :
    ∃ t : State, execPowerMonitorRefresh draws s = .next t ∧ Frame [.power, .nvme, .mgmt] s t := by
  unfold execPowerMonitorRefresh
  split
  · extract_lets
    refine ⟨_, rfl, ?_⟩
    refine Frame.after ?_ (State.regulate_frame _) rfl
    refine Frame.foldl _ ?_ (fun u x hu => ?_)
    · refine Frame.after ?_ (State.modPower_frame _ _) rfl
      exact Frame.refl _ _
    · refine Frame.ite ?_ ?_
      · refine Frame.after ?_ (State.asyncEvent_frame _ _ _) rfl
        assumption
      · assumption
  · refine ⟨_, rfl, ?_⟩
    exact Frame.refl _ _

theorem execKciSqTail_frame (ctx : Nat) (queue : Nat) (tail : Nat) (entries : List (List Byte)) (s : State) :
    ∃ t : State, execKciSqTail ctx queue tail entries s = .next t ∧ Frame [.power, .ctxs, .cmds, .objs, .arrays, .parts, .nand, .store, .nvme, .peer, .errs, .mgmt, .host, .nextId, .freeCtr] s t := by
  unfold execKciSqTail
  refine ⟨_, rfl, ?_⟩
  refine Frame.ite ?_ ?_
  · refine Frame.after ?_ (State.sqTail_frame _ _ _ _ _) rfl
    refine Frame.after ?_ (State.wake_frame _) rfl
    exact Frame.refl _ _
  · exact Frame.refl _ _

theorem execKciCqHead_frame (ctx : Nat) (queue : Nat) (head : Nat) (s : State) :
    ∃ t : State, execKciCqHead ctx queue head s = .next t ∧ Frame [.power, .ctxs, .cmds, .objs, .arrays, .parts, .nand, .store, .nvme, .peer, .errs, .mgmt, .host, .nextId, .freeCtr] s t := by
  unfold execKciCqHead
  refine ⟨_, rfl, ?_⟩
  refine Frame.ite ?_ ?_
  · refine Frame.after ?_ (State.cqHeadWrite_frame _ _ _ _) rfl
    refine Frame.after ?_ (State.wake_frame _) rfl
    exact Frame.refl _ _
  · exact Frame.refl _ _

theorem execClass0SlotWrite_frame (ctx : Nat) (slot : Nat) (off : Nat) (data : List Byte) (s : State) :
    ∃ t : State, execClass0SlotWrite ctx slot off data s = .next t ∧ Frame [.power, .ctxs, .cmds, .objs, .arrays, .parts, .nand, .store, .nvme, .peer, .errs, .mgmt, .host, .nextId, .freeCtr] s t := by
  unfold execClass0SlotWrite
  refine ⟨_, rfl, ?_⟩
  refine Frame.ite ?_ ?_
  · refine Frame.after ?_ (State.slotWrite_frame _ _ _ _ _) rfl
    refine Frame.after ?_ (State.wake_frame _) rfl
    exact Frame.refl _ _
  · exact Frame.refl _ _

theorem execCtxEnableSet_frame (ctx : Nat) (s : State) :
    ∃ t : State, execCtxEnableSet ctx s = .next t ∧ Frame [.ctxs] s t := by
  unfold execCtxEnableSet
  refine ⟨_, rfl, ?_⟩
  refine Frame.ite ?_ ?_
  · refine Frame.after ?_ (State.enableCtx_frame _ _) rfl
    exact Frame.refl _ _
  · exact Frame.refl _ _

theorem execCtxEnableClear_frame (ctx : Nat) (s : State) :
    ∃ t : State, execCtxEnableClear ctx s = .next t ∧ Frame [.ctxs, .arrays, .parts, .nand, .peer] s t := by
  unfold execCtxEnableClear
  refine ⟨_, rfl, ?_⟩
  refine Frame.ite ?_ ?_
  · refine Frame.after ?_ (State.disableCtx_frame _ _) rfl
    exact Frame.refl _ _
  · exact Frame.refl _ _

theorem execCtxControlReset_frame (ctx : Nat) (s : State) :
    ∃ t : State, execCtxControlReset ctx s = .next t ∧ Frame [.ctxs, .arrays, .parts, .nand, .peer] s t := by
  unfold execCtxControlReset
  refine ⟨_, rfl, ?_⟩
  refine Frame.ite ?_ ?_
  · refine Frame.after ?_ (State.resetCtx_frame _ _ _) rfl
    exact Frame.refl _ _
  · exact Frame.refl _ _

theorem execContextResetComplete_frame (ctx : Nat) (s : State) :
    ∃ t : State, execContextResetComplete ctx s = .next t ∧ Frame [.ctxs, .cmds, .objs, .arrays, .parts, .nand, .store, .nvme, .peer, .errs, .mgmt, .host, .nextId, .freeCtr] s t := by
  unfold execContextResetComplete
  extract_lets
  refine ⟨_, rfl, ?_⟩
  refine Frame.ite ?_ ?_
  · refine Frame.after ?_ (State.recheck_frame _) rfl
    refine Frame.after ?_ (State.settle_frame _) rfl
    refine Frame.after ?_ (State.closeCtx_frame _ _) rfl
    exact Frame.refl _ _
  · exact Frame.refl _ _

theorem execCtxPolicyWrite_frame (ctx : Nat) (value : BitVec 32) (s : State) :
    ∃ t : State, execCtxPolicyWrite ctx value s = .next t ∧ Frame [.ctxs] s t := by
  unfold execCtxPolicyWrite
  refine ⟨_, rfl, ?_⟩
  refine Frame.ite ?_ ?_
  · refine Frame.after ?_ (State.writePolicy_frame _ _ _) rfl
    exact Frame.refl _ _
  · exact Frame.refl _ _

theorem execRegisterWrite_frame (fn : Nat) (off : Nat) (size : Nat) (value : BitVec 64) (s : State) :
    ∃ t : State, execRegisterWrite fn off size value s = .next t ∧ Frame [.power, .ctxs, .cmds, .objs, .arrays, .parts, .tests, .nand, .store, .nvme, .peer, .errs, .ledger, .mgmt, .host, .nextId, .freeCtr] s t := by
  unfold execRegisterWrite
  split
  · refine ⟨_, rfl, ?_⟩
    exact Frame.refl _ _
  · split
    · refine ⟨_, rfl, ?_⟩
      refine Frame.ite ?_ ?_
      · refine Frame.after ?_ (State.slotWrite_frame _ _ _ _ _) rfl
        refine Frame.after ?_ (State.wake_frame _) rfl
        exact Frame.refl _ _
      · exact Frame.refl _ _
    · extract_lets
      split
      · refine ⟨_, rfl, ?_⟩
        refine Frame.after ?_ (State.writeReg_frame _ _ _ _) rfl
        exact Frame.refl _ _
      · split
        · refine ⟨_, rfl, ?_⟩
          refine Frame.after ?_ (State.writeReg_frame _ _ _ _) rfl
          refine Frame.after ?_ (State.writeReg_frame _ _ _ _) rfl
          exact Frame.refl _ _
        · refine ⟨_, rfl, ?_⟩
          exact Frame.refl _ _

theorem execLoRegisterRead_frame (fn : Nat) (off : Nat) (size : Nat) (s : State) :
    ∃ t : State, execLoRegisterRead fn off size s = .next t ∧ Frame [.mgmt] s t := by
  unfold execLoRegisterRead
  split
  · refine ⟨_, rfl, ?_⟩
    exact Frame.refl _ _
  · split
    · extract_lets
      refine ⟨_, rfl, ?_⟩
      refine Frame.after ?_ (State.modMgmt_frame _ _) rfl
      exact Frame.refl _ _
    · refine ⟨_, rfl, ?_⟩
      refine Frame.after ?_ (State.modMgmt_frame _ _) rfl
      exact Frame.refl _ _

theorem execQueueCreate_frame (e : Entry) (queue : Nat) (cls : Nat) (entries : Nat) (vector : Nat) (sq : Nat) (cq : Nat) (colo : Nat) (s : State) :
    ∃ t : State, execQueueCreate e queue cls entries vector sq cq colo s = .next t ∧ Frame [.ctxs, .cmds, .objs, .arrays, .parts, .nand, .store, .nvme, .peer, .errs, .mgmt, .host, .nextId, .freeCtr] s t := by
  unfold execQueueCreate
  refine ⟨_, rfl, ?_⟩
  refine Frame.after ?_ (State.kciFetch_frame _ _ _) rfl
  exact Frame.refl _ _

theorem execQueueDestroy_frame (e : Entry) (queue : Nat) (s : State) :
    ∃ t : State, execQueueDestroy e queue s = .next t ∧ Frame [.ctxs, .cmds, .objs, .arrays, .parts, .nand, .store, .nvme, .peer, .errs, .mgmt, .host, .nextId, .freeCtr] s t := by
  unfold execQueueDestroy
  refine ⟨_, rfl, ?_⟩
  refine Frame.after ?_ (State.kciFetch_frame _ _ _) rfl
  exact Frame.refl _ _

theorem execObjCreate_frame (e : Entry) (oid : Nat) (pages : Nat) (word : Nat) (kind : Nat) (h : Nat) (l : Nat) (p : Nat) (d : Nat) (s : State) :
    ∃ t : State, execObjCreate e oid pages word kind h l p d s = .next t ∧ Frame [.ctxs, .cmds, .objs, .arrays, .parts, .nand, .store, .nvme, .peer, .errs, .mgmt, .host, .nextId, .freeCtr] s t := by
  unfold execObjCreate
  refine ⟨_, rfl, ?_⟩
  refine Frame.after ?_ (State.kciFetch_frame _ _ _) rfl
  exact Frame.refl _ _

theorem execObjOpen_frame (e : Entry) (oid : Nat) (rights : Nat) (s : State) :
    ∃ t : State, execObjOpen e oid rights s = .next t ∧ Frame [.ctxs, .cmds, .objs, .arrays, .parts, .nand, .store, .nvme, .peer, .errs, .mgmt, .host, .nextId, .freeCtr] s t := by
  unfold execObjOpen
  refine ⟨_, rfl, ?_⟩
  refine Frame.after ?_ (State.kciFetch_frame _ _ _) rfl
  exact Frame.refl _ _

theorem execObjShare_frame (e : Entry) (handle : Nat) (grantee : Nat) (rights : Nat) (s : State) :
    ∃ t : State, execObjShare e handle grantee rights s = .next t ∧ Frame [.ctxs, .cmds, .objs, .arrays, .parts, .nand, .store, .nvme, .peer, .errs, .mgmt, .host, .nextId, .freeCtr] s t := by
  unfold execObjShare
  refine ⟨_, rfl, ?_⟩
  refine Frame.after ?_ (State.kciFetch_frame _ _ _) rfl
  exact Frame.refl _ _

theorem execObjUnshare_frame (e : Entry) (handle : Nat) (grantee : Nat) (s : State) :
    ∃ t : State, execObjUnshare e handle grantee s = .next t ∧ Frame [.ctxs, .cmds, .objs, .arrays, .parts, .nand, .store, .nvme, .peer, .errs, .mgmt, .host, .nextId, .freeCtr] s t := by
  unfold execObjUnshare
  refine ⟨_, rfl, ?_⟩
  refine Frame.after ?_ (State.kciFetch_frame _ _ _) rfl
  exact Frame.refl _ _

theorem execObjRetain_frame (e : Entry) (handle : Nat) (s : State) :
    ∃ t : State, execObjRetain e handle s = .next t ∧ Frame [.ctxs, .cmds, .objs, .arrays, .parts, .nand, .store, .nvme, .peer, .errs, .mgmt, .host, .nextId, .freeCtr] s t := by
  unfold execObjRetain
  refine ⟨_, rfl, ?_⟩
  refine Frame.after ?_ (State.kciFetch_frame _ _ _) rfl
  exact Frame.refl _ _

theorem execObjRelease_frame (e : Entry) (handle : Nat) (destroy : Bool) (s : State) :
    ∃ t : State, execObjRelease e handle destroy s = .next t ∧ Frame [.ctxs, .cmds, .objs, .arrays, .parts, .nand, .store, .nvme, .peer, .errs, .mgmt, .host, .nextId, .freeCtr] s t := by
  unfold execObjRelease
  refine ⟨_, rfl, ?_⟩
  refine Frame.after ?_ (State.kciFetch_frame _ _ _) rfl
  exact Frame.refl _ _

theorem execObjPlace_frame (e : Entry) (handle : Nat) (word : Nat) (s : State) :
    ∃ t : State, execObjPlace e handle word s = .next t ∧ Frame [.ctxs, .cmds, .objs, .arrays, .parts, .nand, .store, .nvme, .peer, .errs, .mgmt, .host, .nextId, .freeCtr] s t := by
  unfold execObjPlace
  refine ⟨_, rfl, ?_⟩
  refine Frame.after ?_ (State.kciFetch_frame _ _ _) rfl
  exact Frame.refl _ _

theorem execObjQuery_frame (e : Entry) (handle : Nat) (buf : Nat) (s : State) :
    ∃ t : State, execObjQuery e handle buf s = .next t ∧ Frame [.ctxs, .cmds, .objs, .arrays, .parts, .nand, .store, .nvme, .peer, .errs, .mgmt, .host, .nextId, .freeCtr] s t := by
  unfold execObjQuery
  refine ⟨_, rfl, ?_⟩
  refine Frame.after ?_ (State.kciFetch_frame _ _ _) rfl
  exact Frame.refl _ _

theorem execEventCreate_frame (e : Entry) (event : Nat) (value : Nat) (s : State) :
    ∃ t : State, execEventCreate e event value s = .next t ∧ Frame [.ctxs, .cmds, .objs, .arrays, .parts, .nand, .store, .nvme, .peer, .errs, .mgmt, .host, .nextId, .freeCtr] s t := by
  unfold execEventCreate
  refine ⟨_, rfl, ?_⟩
  refine Frame.after ?_ (State.kciFetch_frame _ _ _) rfl
  exact Frame.refl _ _

theorem execEventDestroy_frame (e : Entry) (event : Nat) (s : State) :
    ∃ t : State, execEventDestroy e event s = .next t ∧ Frame [.ctxs, .cmds, .objs, .arrays, .parts, .nand, .store, .nvme, .peer, .errs, .mgmt, .host, .nextId, .freeCtr] s t := by
  unfold execEventDestroy
  refine ⟨_, rfl, ?_⟩
  refine Frame.after ?_ (State.kciFetch_frame _ _ _) rfl
  exact Frame.refl _ _

theorem execEventClear_frame (e : Entry) (event : Nat) (s : State) :
    ∃ t : State, execEventClear e event s = .next t ∧ Frame [.ctxs, .cmds, .objs, .arrays, .parts, .nand, .store, .nvme, .peer, .errs, .mgmt, .host, .nextId, .freeCtr] s t := by
  unfold execEventClear
  refine ⟨_, rfl, ?_⟩
  refine Frame.after ?_ (State.kciFetch_frame _ _ _) rfl
  exact Frame.refl _ _

theorem execProgramInstall_frame (e : Entry) (oid : Nat) (addr : Nat) (length : Nat) (image : List Byte) (s : State) :
    ∃ t : State, execProgramInstall e oid addr length image s = .next t ∧ Frame [.ctxs, .cmds, .objs, .arrays, .parts, .nand, .store, .nvme, .peer, .errs, .mgmt, .host, .nextId, .freeCtr] s t := by
  unfold execProgramInstall
  refine ⟨_, rfl, ?_⟩
  refine Frame.after ?_ (State.kciFetch_frame _ _ _) rfl
  exact Frame.refl _ _

theorem execPriority_frame (e : Entry) (queue : Nat) (cls : Nat) (cid : Nat) (s : State) :
    ∃ t : State, execPriority e queue cls cid s = .next t ∧ Frame [.ctxs, .cmds, .objs, .arrays, .parts, .nand, .store, .nvme, .peer, .errs, .mgmt, .host, .nextId, .freeCtr] s t := by
  unfold execPriority
  refine ⟨_, rfl, ?_⟩
  refine Frame.after ?_ (State.kciFetch_frame _ _ _) rfl
  exact Frame.refl _ _

theorem execJobEnd_frame (e : Entry) (s : State) :
    ∃ t : State, execJobEnd e s = .next t ∧ Frame [.ctxs, .cmds, .objs, .arrays, .parts, .nand, .store, .nvme, .peer, .errs, .mgmt, .host, .nextId, .freeCtr] s t := by
  unfold execJobEnd
  refine ⟨_, rfl, ?_⟩
  refine Frame.after ?_ (State.kciFetch_frame _ _ _) rfl
  exact Frame.refl _ _

theorem execCopyIn_frame (e : Entry) (handle : Nat) (off : Nat) (host : Nat) (length : Nat) (layout : Nat) (data : List Byte) (s : State) :
    ∃ t : State, execCopyIn e handle off host length layout data s = .next t ∧ Frame [.ctxs, .cmds, .objs, .arrays, .parts, .nand, .store, .nvme, .peer, .errs, .mgmt, .host, .nextId, .freeCtr] s t := by
  unfold execCopyIn
  refine ⟨_, rfl, ?_⟩
  refine Frame.after ?_ (State.kciFetch_frame _ _ _) rfl
  exact Frame.refl _ _

theorem execCopyOut_frame (e : Entry) (handle : Nat) (off : Nat) (host : Nat) (length : Nat) (layout : Nat) (s : State) :
    ∃ t : State, execCopyOut e handle off host length layout s = .next t ∧ Frame [.ctxs, .cmds, .objs, .arrays, .parts, .nand, .store, .nvme, .peer, .errs, .mgmt, .host, .nextId, .freeCtr] s t := by
  unfold execCopyOut
  refine ⟨_, rfl, ?_⟩
  refine Frame.after ?_ (State.kciFetch_frame _ _ _) rfl
  exact Frame.refl _ _

theorem execCopy_frame (e : Entry) (src : Nat) (dst : Nat) (soff : Nat) (doff : Nat) (length : Nat) (layout : Nat) (s : State) :
    ∃ t : State, execCopy e src dst soff doff length layout s = .next t ∧ Frame [.ctxs, .cmds, .objs, .arrays, .parts, .nand, .store, .nvme, .peer, .errs, .mgmt, .host, .nextId, .freeCtr] s t := by
  unfold execCopy
  refine ⟨_, rfl, ?_⟩
  refine Frame.after ?_ (State.kciFetch_frame _ _ _) rfl
  exact Frame.refl _ _

theorem execNop_frame (e : Entry) (s : State) :
    ∃ t : State, execNop e s = .next t ∧ Frame [.ctxs, .cmds, .objs, .arrays, .parts, .nand, .store, .nvme, .peer, .errs, .mgmt, .host, .nextId, .freeCtr] s t := by
  unfold execNop
  refine ⟨_, rfl, ?_⟩
  refine Frame.after ?_ (State.kciFetch_frame _ _ _) rfl
  exact Frame.refl _ _

theorem execRun_frame (e : Entry) (prog : Nat) (nargs : Nat) (mode : Nat) (seq : Nat) (block : Nat) (args : List ArgEntry) (plan : List TilePlan) (s : State) :
    ∃ t : State, execRun e prog nargs mode seq block args plan s = .next t ∧ Frame [.ctxs, .cmds, .objs, .arrays, .parts, .nand, .store, .nvme, .peer, .errs, .mgmt, .host, .nextId, .freeCtr] s t := by
  unfold execRun
  refine ⟨_, rfl, ?_⟩
  refine Frame.after ?_ (State.kciFetch_frame _ _ _) rfl
  exact Frame.refl _ _

theorem execSearch_frame (e : Entry) (index : Nat) (query : Nat) (output : Nat) (nq : Nat) (k : Nat) (nprobe : Nat) (f : Nat) (rerank : Nat) (nterms : Nat) (qoff : Nat) (ooff : Nat) (filters : Nat) (terms : List FilterTerm) (s : State) :
    ∃ t : State, execSearch e index query output nq k nprobe f rerank nterms qoff ooff filters terms s = .next t ∧ Frame [.ctxs, .cmds, .objs, .arrays, .parts, .nand, .store, .nvme, .peer, .errs, .mgmt, .host, .nextId, .freeCtr] s t := by
  unfold execSearch
  refine ⟨_, rfl, ?_⟩
  refine Frame.after ?_ (State.kciFetch_frame _ _ _) rfl
  exact Frame.refl _ _

theorem execIndexSeal_frame (e : Entry) (handle : Nat) (s : State) :
    ∃ t : State, execIndexSeal e handle s = .next t ∧ Frame [.ctxs, .cmds, .objs, .arrays, .parts, .nand, .store, .nvme, .peer, .errs, .mgmt, .host, .nextId, .freeCtr] s t := by
  unfold execIndexSeal
  refine ⟨_, rfl, ?_⟩
  refine Frame.after ?_ (State.kciFetch_frame _ _ _) rfl
  exact Frame.refl _ _

theorem execPassPick_frame (array : Nat) (s : State) :
    ∃ t : State, execPassPick array s = .next t ∧ Frame [.ctxs, .cmds, .objs, .arrays, .parts, .nand, .store, .nvme, .peer, .errs, .mgmt, .host, .nextId, .freeCtr] s t := by
  unfold execPassPick
  refine ⟨_, rfl, ?_⟩
  refine Frame.ite ?_ ?_
  · refine Frame.after ?_ (State.recheck_frame _) rfl
    refine Frame.after ?_ (State.settle_frame _) rfl
    refine Frame.after ?_ (State.pick_frame _ _) rfl
    exact Frame.refl _ _
  · exact Frame.refl _ _

theorem execCommandAged_frame (uid : Nat) (s : State) :
    ∃ t : State, execCommandAged uid s = .next t ∧ Frame [.cmds] s t := by
  unfold execCommandAged
  split
  · refine ⟨_, rfl, ?_⟩
    exact Frame.refl _ _
  · refine ⟨_, rfl, ?_⟩
    refine Frame.ite ?_ ?_
    · refine Frame.after ?_ (State.modCmd_frame _ _ _) rfl
      exact Frame.refl _ _
    · exact Frame.refl _ _

theorem execReservationWindowBoundary_frame (s : State) :
    ∃ t : State, execReservationWindowBoundary s = .next t ∧ Frame [.time, .arrays, .parts] s t := by
  unfold execReservationWindowBoundary
  extract_lets
  split
  · refine ⟨_, rfl, ?_⟩
    exact ⟨fun c hc => by cases c <;> first | rfl | exact absurd (by decide) hc⟩
  · refine ⟨_, rfl, ?_⟩
    exact Frame.refl _ _

theorem execPassEntry_frame (array : Nat) (rate : Nat) (s : State) :
    ∃ t : State, execPassEntry array rate s = .next t ∧ Frame [.cmds, .arrays, .parts, .errs, .ledger, .mgmt, .nextId, .freeCtr] s t := by
  unfold execPassEntry
  refine ⟨_, rfl, ?_⟩
  refine Frame.ite ?_ ?_
  · refine Frame.after ?_ (State.enter_frame _ _ _) rfl
    exact Frame.refl _ _
  · exact Frame.refl _ _

theorem execPassEnd_frame (array : Nat) (errs : List PassError) (idle : Nat) (s : State) :
    ∃ t : State, execPassEnd array errs idle s = .next t ∧ Frame [.ctxs, .cmds, .objs, .arrays, .parts, .nand, .store, .nvme, .peer, .errs, .mgmt, .host, .nextId, .freeCtr] s t := by
  unfold execPassEnd
  refine ⟨_, rfl, ?_⟩
  refine Frame.ite ?_ ?_
  · refine Frame.after ?_ (State.recheck_frame _) rfl
    refine Frame.after ?_ (State.settle_frame _) rfl
    refine Frame.after ?_ (State.endPass_frame _ _ _ _) rfl
    exact Frame.refl _ _
  · exact Frame.refl _ _

theorem execRowVerdict_frame (array : Nat) (pass : Nat) (row : Nat) (s : State) :
    ∃ t : State, execRowVerdict array pass row s = .next t ∧ Frame [.ctxs, .cmds, .objs, .arrays, .parts, .tests, .nand, .store, .nvme, .peer, .errs, .mgmt, .host, .nextId, .freeCtr] s t := by
  unfold execRowVerdict
  refine ⟨_, rfl, ?_⟩
  refine Frame.ite ?_ ?_
  · refine Frame.after ?_ (State.recheck_frame _) rfl
    refine Frame.after ?_ (State.settle_frame _) rfl
    refine Frame.after ?_ (State.rowVerdict_frame _ _ _ _) rfl
    exact Frame.refl _ _
  · exact Frame.refl _ _

theorem execColumnVerdict_frame (array : Nat) (pass : Nat) (s : State) :
    ∃ t : State, execColumnVerdict array pass s = .next t ∧ Frame [.ctxs, .cmds, .objs, .arrays, .parts, .tests, .nand, .store, .nvme, .peer, .errs, .mgmt, .host, .nextId, .freeCtr] s t := by
  unfold execColumnVerdict
  refine ⟨_, rfl, ?_⟩
  refine Frame.ite ?_ ?_
  · refine Frame.after ?_ (State.recheck_frame _) rfl
    refine Frame.after ?_ (State.settle_frame _) rfl
    refine Frame.after ?_ (State.columnVerdict_frame _ _ _) rfl
    exact Frame.refl _ _
  · exact Frame.refl _ _

theorem execRowDrain_frame (array : Nat) (uid : Nat) (tile : Nat) (row : Nat) (mismatch : Nat) (ecc : Nat) (s : State) :
    ∃ t : State, execRowDrain array uid tile row mismatch ecc s = .next t ∧ Frame [.ctxs, .cmds, .objs, .arrays, .parts, .tests, .nand, .store, .nvme, .peer, .errs, .ledger, .mgmt, .host, .nextId, .freeCtr] s t := by
  unfold execRowDrain
  refine ⟨_, rfl, ?_⟩
  refine Frame.ite ?_ ?_
  · refine Frame.after ?_ (State.recheck_frame _) rfl
    refine Frame.after ?_ (State.settle_frame _) rfl
    refine Frame.after ?_ (State.drainRow_frame _ _ _ _ _ _ _) rfl
    exact Frame.refl _ _
  · exact Frame.refl _ _

theorem execCompletionPost_frame (ctx : Nat) (queue : Nat) (dmaFault : Option Nat) (s : State) :
    ∃ t : State, execCompletionPost ctx queue dmaFault s = .next t ∧ Frame [.ctxs, .cmds, .objs, .arrays, .parts, .nand, .store, .nvme, .peer, .errs, .ledger, .mgmt, .host, .nextId, .freeCtr] s t := by
  unfold execCompletionPost
  split
  · split
    · refine ⟨_, rfl, ?_⟩
      exact Frame.refl _ _
    · split
      · refine ⟨_, rfl, ?_⟩
        refine Frame.after ?_ (State.recheck_frame _) rfl
        refine Frame.after ?_ (State.settle_frame _) rfl
        refine Frame.after ?_ (State.unwritable_frame _ _ _) rfl
        exact Frame.refl _ _
      · refine ⟨_, rfl, ?_⟩
        refine Frame.after ?_ (State.recheck_frame _) rfl
        refine Frame.after ?_ (State.settle_frame _) rfl
        refine Frame.after ?_ (State.post_frame _ _ _) rfl
        exact Frame.refl _ _
  · refine ⟨_, rfl, ?_⟩
    exact Frame.refl _ _

theorem execPartExclClaim_frame (part : Nat) (value : BitVec 32) (s : State) :
    ∃ t : State, execPartExclClaim part value s = .next t ∧ Frame [.ctxs, .cmds, .objs, .arrays, .parts, .nand, .store, .nvme, .peer, .errs, .mgmt, .host, .nextId, .freeCtr] s t := by
  unfold execPartExclClaim
  refine ⟨_, rfl, ?_⟩
  refine Frame.ite ?_ ?_
  · refine Frame.after ?_ (State.writeExcl_frame _ _ _) rfl
    exact Frame.refl _ _
  · exact Frame.refl _ _

theorem execClaimComplete_frame (part : Nat) (s : State) :
    ∃ t : State, execClaimComplete part s = .next t ∧ Frame [.parts] s t := by
  unfold execClaimComplete
  extract_lets
  refine ⟨_, rfl, ?_⟩
  refine Frame.ite ?_ ?_
  · refine Frame.foldl _ ?_ (fun u x hu => ?_)
    · exact Frame.refl _ _
    · refine Frame.after ?_ (State.modPart_frame _ _ _) rfl
      assumption
  · exact Frame.refl _ _

theorem execPartExclAbort_frame (part : Nat) (value : BitVec 32) (s : State) :
    ∃ t : State, execPartExclAbort part value s = .next t ∧ Frame [.ctxs, .cmds, .objs, .arrays, .parts, .nand, .store, .nvme, .peer, .errs, .mgmt, .host, .nextId, .freeCtr] s t := by
  unfold execPartExclAbort
  refine ⟨_, rfl, ?_⟩
  refine Frame.ite ?_ ?_
  · refine Frame.after ?_ (State.writeExcl_frame _ _ _) rfl
    exact Frame.refl _ _
  · exact Frame.refl _ _

theorem execReleaseComplete_frame (part : Nat) (s : State) :
    ∃ t : State, execReleaseComplete part s = .next t ∧ Frame [.cmds, .arrays, .parts] s t := by
  unfold execReleaseComplete
  extract_lets
  split
  · refine ⟨_, rfl, ?_⟩
    refine Frame.foldl _ ?_ (fun u x hu => ?_)
    · refine Frame.after ?_ (State.modCmds_frame _ _) rfl
      refine Frame.foldl _ ?_ (fun u x hu => ?_)
      · refine Frame.foldl _ ?_ (fun u x hu => ?_)
        · exact Frame.refl _ _
        · refine Frame.after ?_ (State.modArr_frame _ _ _) rfl
          assumption
      · refine Frame.after ?_ (State.modPart_frame _ _ _) rfl
        assumption
    · refine Frame.after ?_ (State.refresh_frame _ _) rfl
      assumption
  · refine ⟨_, rfl, ?_⟩
    exact Frame.refl _ _

theorem execPartReset_frame (part : Nat) (value : BitVec 32) (s : State) :
    ∃ t : State, execPartReset part value s = .next t ∧ Frame [.ctxs, .cmds, .objs, .arrays, .parts, .tests, .nand, .store, .nvme, .peer, .errs, .mgmt, .host, .nextId, .freeCtr] s t := by
  unfold execPartReset
  refine ⟨_, rfl, ?_⟩
  refine Frame.ite ?_ ?_
  · refine Frame.after ?_ (State.resetPart_frame _ _) rfl
    exact Frame.refl _ _
  · exact Frame.refl _ _

theorem execPartDramQuotaWrite_frame (part : Nat) (value : BitVec 32) (s : State) :
    ∃ t : State, execPartDramQuotaWrite part value s = .next t ∧ Frame [.parts, .mgmt] s t := by
  unfold execPartDramQuotaWrite
  refine ⟨_, rfl, ?_⟩
  refine Frame.ite ?_ ?_
  · refine Frame.after ?_ (State.writeQuota_frame _ _ _) rfl
    exact Frame.refl _ _
  · exact Frame.refl _ _

theorem execSchedResvWrite_frame (part : Nat) (value : BitVec 32) (s : State) :
    ∃ t : State, execSchedResvWrite part value s = .next t ∧ Frame [.parts, .mgmt] s t := by
  unfold execSchedResvWrite
  refine ⟨_, rfl, ?_⟩
  refine Frame.ite ?_ ?_
  · refine Frame.after ?_ (State.writeResv_frame _ _ _) rfl
    exact Frame.refl _ _
  · exact Frame.refl _ _

theorem execCtxAssignWrite_frame (ctx : Nat) (value : BitVec 32) (s : State) :
    ∃ t : State, execCtxAssignWrite ctx value s = .next t ∧ Frame [.ctxs, .mgmt] s t := by
  unfold execCtxAssignWrite
  refine ⟨_, rfl, ?_⟩
  refine Frame.ite ?_ ?_
  · refine Frame.after ?_ (State.writeAssign_frame _ _ _) rfl
    exact Frame.refl _ _
  · exact Frame.refl _ _

theorem execCtxAdminReset_frame (ctx : Nat) (value : BitVec 32) (s : State) :
    ∃ t : State, execCtxAdminReset ctx value s = .next t ∧ Frame [.ctxs, .arrays, .parts, .nand, .peer] s t := by
  unfold execCtxAdminReset
  refine ⟨_, rfl, ?_⟩
  refine Frame.ite ?_ ?_
  · refine Frame.after ?_ (State.resetCtx_frame _ _ _) rfl
    exact Frame.refl _ _
  · exact Frame.refl _ _

theorem execMemT2QuotaWrite_frame (part : Nat) (value : BitVec 32) (s : State) :
    ∃ t : State, execMemT2QuotaWrite part value s = .next t ∧ Frame [.parts, .mgmt] s t := by
  unfold execMemT2QuotaWrite
  refine ⟨_, rfl, ?_⟩
  refine Frame.ite ?_ ?_
  · refine Frame.after ?_ (State.writeT2Quota_frame _ _ _) rfl
    exact Frame.refl _ _
  · exact Frame.refl _ _

theorem execMxaTestStart_frame (array : Nat) (value : BitVec 32) (s : State) :
    ∃ t : State, execMxaTestStart array value s = .next t ∧ Frame [.tests] s t := by
  unfold execMxaTestStart
  refine ⟨_, rfl, ?_⟩
  refine Frame.ite ?_ ?_
  · refine Frame.after ?_ (State.writeTest_frame _ _ _) rfl
    exact Frame.refl _ _
  · exact Frame.refl _ _

theorem execSecKeyEnroll_frame (value : BitVec 32) (s : State) :
    ∃ t : State, execSecKeyEnroll value s = .next t ∧ Frame [.mgmt] s t := by
  unfold execSecKeyEnroll
  refine ⟨_, rfl, ?_⟩
  refine Frame.ite ?_ ?_
  · refine Frame.after ?_ (State.writeKeyCtl_frame _ _) rfl
    exact Frame.refl _ _
  · exact Frame.refl _ _

theorem execSecKeyRevoke_frame (value : BitVec 32) (s : State) :
    ∃ t : State, execSecKeyRevoke value s = .next t ∧ Frame [.mgmt] s t := by
  unfold execSecKeyRevoke
  refine ⟨_, rfl, ?_⟩
  refine Frame.ite ?_ ?_
  · refine Frame.after ?_ (State.writeKeyCtl_frame _ _) rfl
    exact Frame.refl _ _
  · exact Frame.refl _ _

theorem execPeerGroupCfgSet_frame (value : BitVec 32) (s : State) :
    ∃ t : State, execPeerGroupCfgSet value s = .next t ∧ Frame [.ctxs, .cmds, .objs, .arrays, .parts, .nand, .store, .nvme, .peer, .errs, .mgmt, .host, .nextId, .freeCtr] s t := by
  unfold execPeerGroupCfgSet
  refine ⟨_, rfl, ?_⟩
  refine Frame.ite ?_ ?_
  · refine Frame.after ?_ (State.writeGroupCfg_frame _ _) rfl
    exact Frame.refl _ _
  · exact Frame.refl _ _

theorem execPeerGroupCfgClear_frame (value : BitVec 32) (s : State) :
    ∃ t : State, execPeerGroupCfgClear value s = .next t ∧ Frame [.ctxs, .cmds, .objs, .arrays, .parts, .nand, .store, .nvme, .peer, .errs, .mgmt, .host, .nextId, .freeCtr] s t := by
  unfold execPeerGroupCfgClear
  refine ⟨_, rfl, ?_⟩
  refine Frame.ite ?_ ?_
  · refine Frame.after ?_ (State.writeGroupCfg_frame _ _) rfl
    exact Frame.refl _ _
  · exact Frame.refl _ _

theorem execPeerBindWrite_frame (value : BitVec 32) (s : State) :
    ∃ t : State, execPeerBindWrite value s = .next t ∧ Frame [.peer, .mgmt] s t := by
  unfold execPeerBindWrite
  refine ⟨_, rfl, ?_⟩
  refine Frame.ite ?_ ?_
  · refine Frame.after ?_ (State.writeBind_frame _ _) rfl
    exact Frame.refl _ _
  · exact Frame.refl _ _

theorem execPeerProgressToWrite_frame (value : BitVec 32) (s : State) :
    ∃ t : State, execPeerProgressToWrite value s = .next t ∧ Frame [.peer, .mgmt] s t := by
  unfold execPeerProgressToWrite
  refine ⟨_, rfl, ?_⟩
  refine Frame.ite ?_ ?_
  · refine Frame.after ?_ (State.writeProgress_frame _ _) rfl
    exact Frame.refl _ _
  · exact Frame.refl _ _

theorem execErrSelHiWrite_frame (value : BitVec 32) (s : State) :
    ∃ t : State, execErrSelHiWrite value s = .next t ∧ Frame [.errs] s t := by
  unfold execErrSelHiWrite
  refine ⟨_, rfl, ?_⟩
  refine Frame.ite ?_ ?_
  · refine Frame.after ?_ (State.writeErrSelHi_frame _ _) rfl
    exact Frame.refl _ _
  · exact Frame.refl _ _

theorem execErrIrqVecWrite_frame (value : BitVec 32) (s : State) :
    ∃ t : State, execErrIrqVecWrite value s = .next t ∧ Frame [.errs, .mgmt] s t := by
  unfold execErrIrqVecWrite
  refine ⟨_, rfl, ?_⟩
  refine Frame.ite ?_ ?_
  · refine Frame.after ?_ (State.writeErrVec_frame _ _) rfl
    exact Frame.refl _ _
  · exact Frame.refl _ _

theorem execLedgSelHiWrite_frame (value : BitVec 32) (s : State) :
    ∃ t : State, execLedgSelHiWrite value s = .next t ∧ Frame [.ledger] s t := by
  unfold execLedgSelHiWrite
  refine ⟨_, rfl, ?_⟩
  refine Frame.ite ?_ ?_
  · refine Frame.after ?_ (State.writeLedgSelHi_frame _ _) rfl
    exact Frame.refl _ _
  · exact Frame.refl _ _

theorem execLedgCtxSelWrite_frame (value : BitVec 32) (s : State) :
    ∃ t : State, execLedgCtxSelWrite value s = .next t ∧ Frame [.ledger] s t := by
  unfold execLedgCtxSelWrite
  refine ⟨_, rfl, ?_⟩
  refine Frame.ite ?_ ?_
  · refine Frame.after ?_ (State.writeLedgCtxSel_frame _ _) rfl
    exact Frame.refl _ _
  · exact Frame.refl _ _

theorem execLedgAckWrite_frame (value : BitVec 32) (s : State) :
    ∃ t : State, execLedgAckWrite value s = .next t ∧ Frame [.ledger, .mgmt] s t := by
  unfold execLedgAckWrite
  refine ⟨_, rfl, ?_⟩
  refine Frame.ite ?_ ?_
  · refine Frame.after ?_ (State.writeLedgAck_frame _ _) rfl
    exact Frame.refl _ _
  · exact Frame.refl _ _

theorem execLedgPeriodWrite_frame (value : BitVec 32) (s : State) :
    ∃ t : State, execLedgPeriodWrite value s = .next t ∧ Frame [.ledger, .mgmt] s t := by
  unfold execLedgPeriodWrite
  refine ⟨_, rfl, ?_⟩
  refine Frame.ite ?_ ?_
  · refine Frame.after ?_ (State.writeLedgPeriod_frame _ _) rfl
    exact Frame.refl _ _
  · exact Frame.refl _ _

theorem execLedgerPeriodClose_frame (s : State) :
    ∃ t : State, execLedgerPeriodClose s = .next t ∧ Frame [.store, .ledger, .mgmt] s t := by
  unfold execLedgerPeriodClose
  extract_lets
  split
  · refine ⟨_, rfl, ?_⟩
    refine Frame.after ?_ (State.openPeriod_frame _ _) rfl
    refine Frame.after ?_ (State.modStore_frame _ _) rfl
    refine Frame.after ?_ (State.addClosed_frame _ _) rfl
    exact Frame.refl _ _
  · refine ⟨_, rfl, ?_⟩
    exact Frame.refl _ _

theorem execErrorLogFlush_frame (s : State) :
    ∃ t : State, execErrorLogFlush s = .next t ∧ Frame [.store, .errs] s t := by
  unfold execErrorLogFlush
  split
  · refine ⟨_, rfl, ?_⟩
    refine Frame.after ?_ (State.modStore_frame _ _) rfl
    refine Frame.after ?_ (State.modErrs_frame _ _) rfl
    exact Frame.refl _ _
  · refine ⟨_, rfl, ?_⟩
    exact Frame.refl _ _

theorem execTargetedSelfTest_frame (kind : Nat) (index : Nat) (s : State) :
    ∃ t : State, execTargetedSelfTest kind index s = .next t ∧ Frame [.cmds, .arrays, .tests] s t := by
  unfold execTargetedSelfTest
  split
  · refine ⟨_, rfl, ?_⟩
    exact Frame.refl _ _
  · split
    · refine ⟨_, rfl, ?_⟩
      exact Frame.refl _ _
    · split
      · split
        · extract_lets w1
          refine ⟨_, rfl, ?_⟩
          clear_value w1
          split
          · refine Frame.after ?_ (State.refresh_frame _ _) rfl
            refine Frame.after ?_ (State.modTest_frame _ _ _ _) rfl
            refine Frame.after ?_ (State.modArr_frame _ _ _) rfl
            exact Frame.refl _ _
          · refine Frame.after ?_ (State.modTest_frame _ _ _ _) rfl
            refine Frame.after ?_ (State.modArr_frame _ _ _) rfl
            exact Frame.refl _ _
        · refine ⟨_, rfl, ?_⟩
          exact Frame.refl _ _
      · refine ⟨_, rfl, ?_⟩
        refine Frame.after ?_ (State.modTest_frame _ _ _ _) rfl
        exact Frame.refl _ _

theorem execSelfTestVerdict_frame (kind : Nat) (index : Nat) (reproduced : Nat) (axis : Nat) (s : State) :
    ∃ t : State, execSelfTestVerdict kind index reproduced axis s = .next t ∧ Frame [.ctxs, .cmds, .objs, .arrays, .parts, .tests, .verdicts, .verdictCtrs, .nand, .store, .nvme, .peer, .errs, .mgmt, .host, .nextId, .freeCtr] s t := by
  unfold execSelfTestVerdict
  split
  · refine ⟨_, rfl, ?_⟩
    exact Frame.refl _ _
  · split
    · refine ⟨_, rfl, ?_⟩
      exact Frame.refl _ _
    · extract_lets
      refine ⟨_, rfl, ?_⟩
      refine Frame.after ?_ (State.noteCritical_frame _ _) rfl
      refine Frame.ite ?_ ?_
      · refine Frame.after ?_ (State.returnArray_frame _ _) rfl
        refine Frame.ite ?_ ?_
        · refine Frame.after ?_ (State.retireUnit_frame _ _ _) rfl
          refine Frame.after ?_ (State.logVerdict_frame _ _ _) rfl
          refine Frame.after ?_ (State.modNvme_frame _ _) rfl
          exact ⟨fun c hc => by cases c <;> first | rfl | exact absurd (by decide) hc⟩
        · refine Frame.after ?_ (State.logVerdict_frame _ _ _) rfl
          refine Frame.after ?_ (State.modNvme_frame _ _) rfl
          exact ⟨fun c hc => by cases c <;> first | rfl | exact absurd (by decide) hc⟩
      · refine Frame.ite ?_ ?_
        · refine Frame.after ?_ (State.retireUnit_frame _ _ _) rfl
          refine Frame.after ?_ (State.logVerdict_frame _ _ _) rfl
          refine Frame.after ?_ (State.modNvme_frame _ _) rfl
          exact ⟨fun c hc => by cases c <;> first | rfl | exact absurd (by decide) hc⟩
        · refine Frame.after ?_ (State.logVerdict_frame _ _ _) rfl
          refine Frame.after ?_ (State.modNvme_frame _ _) rfl
          exact ⟨fun c hc => by cases c <;> first | rfl | exact absurd (by decide) hc⟩

theorem execMigrationStart_frame (obj : Nat) (page : Nat) (tier : Nat) (s : State) :
    ∃ t : State, execMigrationStart obj page tier s = .next t ∧ Frame [.objs] s t := by
  unfold execMigrationStart
  split
  · refine ⟨_, rfl, ?_⟩
    exact Frame.refl _ _
  · split
    · refine ⟨_, rfl, ?_⟩
      exact Frame.refl _ _
    · extract_lets
      split
      · refine ⟨_, rfl, ?_⟩
        refine Frame.after ?_ (State.setObj_frame _ _ _) rfl
        exact Frame.refl _ _
      · refine ⟨_, rfl, ?_⟩
        exact Frame.refl _ _

theorem execMigrationSwitch_frame (obj : Nat) (page : Nat) (s : State) :
    ∃ t : State, execMigrationSwitch obj page s = .next t ∧ Frame [.objs] s t := by
  unfold execMigrationSwitch
  split
  · refine ⟨_, rfl, ?_⟩
    exact Frame.refl _ _
  · split
    · refine ⟨_, rfl, ?_⟩
      exact Frame.refl _ _
    · split
      · refine ⟨_, rfl, ?_⟩
        exact Frame.refl _ _
      · extract_lets
        refine ⟨_, rfl, ?_⟩
        refine Frame.ite ?_ ?_
        · refine Frame.after ?_ (State.setObj_frame _ _ _) rfl
          exact Frame.refl _ _
        · exact Frame.refl _ _

theorem execSpeculativeReadIssue_frame (uid : Nat) (obj : Nat) (page : Nat) (s : State) :
    ∃ t : State, execSpeculativeReadIssue uid obj page s = .next t ∧ Frame [.objs] s t := by
  unfold execSpeculativeReadIssue
  split
  · split
    · refine ⟨_, rfl, ?_⟩
      exact Frame.refl _ _
    · extract_lets
      split
      · refine ⟨_, rfl, ?_⟩
        refine Frame.after ?_ (State.setObj_frame _ _ _) rfl
        exact Frame.refl _ _
      · refine ⟨_, rfl, ?_⟩
        exact Frame.refl _ _
  · refine ⟨_, rfl, ?_⟩
    exact Frame.refl _ _

theorem execSpeculativeScanLaunch_frame (uid : Nat) (query : Nat) (list : Nat) (s : State) :
    ∃ t : State, execSpeculativeScanLaunch uid query list s = .next t ∧ Frame [.ctxs, .cmds, .objs, .arrays, .parts, .nand, .store, .nvme, .peer, .errs, .mgmt, .host, .nextId, .freeCtr] s t := by
  unfold execSpeculativeScanLaunch
  refine ⟨_, rfl, ?_⟩
  refine State.searchStep_frame _ _ _ ?_ ?_ rfl
  · exact Frame.refl _ _
  · intro _
    intro _
    refine Frame.after ?_ (State.launchSpec_frame _ _ _ _) rfl
    assumption

theorem execDistanceTableSend_frame (uid : Nat) (query : Nat) (s : State) :
    ∃ t : State, execDistanceTableSend uid query s = .next t ∧ Frame [.ctxs, .cmds, .objs, .arrays, .parts, .nand, .store, .nvme, .peer, .errs, .ledger, .mgmt, .host, .nextId, .freeCtr] s t := by
  unfold execDistanceTableSend
  refine ⟨_, rfl, ?_⟩
  refine State.searchStep_frame _ _ _ ?_ ?_ rfl
  · exact Frame.refl _ _
  · intro _
    intro _
    refine Frame.after ?_ (State.sendTable_frame _ _ _) rfl
    assumption

theorem execSelectionFinal_frame (uid : Nat) (query : Nat) (s : State) :
    ∃ t : State, execSelectionFinal uid query s = .next t ∧ Frame [.ctxs, .cmds, .objs, .arrays, .parts, .tests, .nand, .store, .nvme, .peer, .errs, .ledger, .mgmt, .host, .nextId, .freeCtr] s t := by
  unfold execSelectionFinal
  refine ⟨_, rfl, ?_⟩
  refine State.searchStep_frame _ _ _ ?_ ?_ rfl
  · exact Frame.refl _ _
  · intro _
    intro _
    refine Frame.after ?_ (State.finalize_frame _ _ _) rfl
    assumption

theorem execCodewordEvaluate_frame (uid : Nat) (query : Nat) (launch : Nat) (block : Nat) (mismatch : Nat) (s : State) :
    ∃ t : State, execCodewordEvaluate uid query launch block mismatch s = .next t ∧ Frame [.ctxs, .cmds, .objs, .arrays, .parts, .tests, .nand, .store, .nvme, .peer, .errs, .ledger, .mgmt, .host, .nextId, .freeCtr] s t := by
  unfold execCodewordEvaluate
  refine ⟨_, rfl, ?_⟩
  refine State.searchStep_frame _ _ _ ?_ ?_ rfl
  · exact Frame.refl _ _
  · intro _
    intro _
    refine Frame.after ?_ (State.evalBlock_frame _ _ _ _ _ _) rfl
    assumption

theorem execMergerCandidate_frame (uid : Nat) (query : Nat) (which : Nat) (s : State) :
    ∃ t : State, execMergerCandidate uid query which s = .next t ∧ Frame [.ctxs, .cmds, .objs, .arrays, .parts, .nand, .store, .nvme, .peer, .errs, .mgmt, .host, .nextId, .freeCtr] s t := by
  unfold execMergerCandidate
  refine ⟨_, rfl, ?_⟩
  refine State.searchStep_frame _ _ _ ?_ ?_ rfl
  · exact Frame.refl _ _
  · intro _
    intro _
    refine Frame.after ?_ (State.mergeCand_frame _ _ _ _) rfl
    assumption

theorem execScanEnd_frame (uid : Nat) (query : Nat) (launch : Nat) (s : State) :
    ∃ t : State, execScanEnd uid query launch s = .next t ∧ Frame [.ctxs, .cmds, .objs, .arrays, .parts, .tests, .nand, .store, .nvme, .peer, .errs, .mgmt, .host, .nextId, .freeCtr] s t := by
  unfold execScanEnd
  refine ⟨_, rfl, ?_⟩
  refine State.searchStep_frame _ _ _ ?_ ?_ rfl
  · exact Frame.refl _ _
  · intro _
    intro _
    refine Frame.after ?_ (State.endScan_frame _ _ _ _) rfl
    assumption

theorem execRerank_frame (uid : Nat) (query : Nat) (s : State) :
    ∃ t : State, execRerank uid query s = .next t ∧ Frame [.ctxs, .cmds, .objs, .arrays, .parts, .nand, .store, .nvme, .peer, .errs, .ledger, .mgmt, .host, .nextId, .freeCtr] s t := by
  unfold execRerank
  refine ⟨_, rfl, ?_⟩
  refine State.searchStep_frame _ _ _ ?_ ?_ rfl
  · exact Frame.refl _ _
  · intro _
    intro _
    refine Frame.after ?_ (State.rerankQuery_frame _ _ _) rfl
    assumption

theorem execNandOpStart_frame (die : Nat) (due : List NandReq) (s : State) :
    ∃ t : State, execNandOpStart die due s = .next t ∧ Frame [.nand] s t := by
  unfold execNandOpStart
  split
  · extract_lets
    split
    · refine ⟨_, rfl, ?_⟩
      refine Frame.foldl _ ?_ (fun u x hu => ?_)
      · exact Frame.refl _ _
      · refine Frame.ite ?_ ?_
        · refine Frame.after ?_ (State.modDie_frame _ _ _) rfl
          assumption
        · assumption
    · split
      · refine ⟨_, rfl, ?_⟩
        refine Frame.foldl _ ?_ (fun u x hu => ?_)
        · exact Frame.refl _ _
        · refine Frame.ite ?_ ?_
          · refine Frame.after ?_ (State.modDie_frame _ _ _) rfl
            assumption
          · assumption
      · refine ⟨_, rfl, ?_⟩
        refine Frame.after ?_ (State.startOn_frame _ _ _ _) rfl
        refine Frame.foldl _ ?_ (fun u x hu => ?_)
        · exact Frame.refl _ _
        · refine Frame.ite ?_ ?_
          · refine Frame.after ?_ (State.modDie_frame _ _ _) rfl
            assumption
          · assumption
  · refine ⟨_, rfl, ?_⟩
    exact Frame.refl _ _

theorem execNandReadDone_frame (die : Nat) (cws : List CwRead) (s : State) :
    ∃ t : State, execNandReadDone die cws s = .next t ∧ Frame [.nand, .ledger, .freeCtr] s t := by
  unfold execNandReadDone
  split
  · refine ⟨_, rfl, ?_⟩
    exact Frame.refl _ _
  · refine ⟨_, rfl, ?_⟩
    refine Frame.ite ?_ ?_
    · refine Frame.after ?_ (State.readPage_frame _ _ _ _) rfl
      exact Frame.refl _ _
    · exact Frame.refl _ _

theorem execRecoveryLadderStep_frame (die : Nat) (cw : Nat) (ok : Bool) (s : State) :
    ∃ t : State, execRecoveryLadderStep die cw ok s = .next t ∧ Frame [.ctxs, .cmds, .objs, .arrays, .parts, .tests, .nand, .store, .nvme, .peer, .errs, .ledger, .mgmt, .host, .nextId, .freeCtr] s t := by
  unfold execRecoveryLadderStep
  split
  · split
    · refine ⟨_, rfl, ?_⟩
      exact Frame.refl _ _
    · split
      · refine ⟨_, rfl, ?_⟩
        refine Frame.after ?_ (State.offLadder_frame _ _ _) rfl
        refine Frame.after ?_ (State.deliver_frame _ _ _) rfl
        refine Frame.after ?_ (State.modBlock_frame _ _ _ _) rfl
        refine Frame.after ?_ (State.countLadder_frame _ _) rfl
        exact Frame.refl _ _
      · split
        · refine ⟨_, rfl, ?_⟩
          refine Frame.after ?_ (State.modDie_frame _ _ _) rfl
          exact Frame.refl _ _
        · refine ⟨_, rfl, ?_⟩
          refine Frame.after ?_ (State.offLadder_frame _ _ _) rfl
          refine Frame.after ?_ (State.uncorrectable_frame _ _ _ _) rfl
          exact Frame.refl _ _
  · refine ⟨_, rfl, ?_⟩
    exact Frame.refl _ _

theorem execReadAroundErase_frame (die : Nat) (block : Nat) (page : Nat) (cw : Nat) (bad : List Nat) (s : State) :
    ∃ t : State, execReadAroundErase die block page cw bad s = .next t ∧ Frame [.nand, .ledger, .freeCtr] s t := by
  unfold execReadAroundErase
  extract_lets
  split
  · refine ⟨_, rfl, ?_⟩
    exact Frame.refl _ _
  · split
    · refine ⟨_, rfl, ?_⟩
      refine Frame.after ?_ (State.deliver_frame _ _ _) rfl
      refine Frame.after ?_ (State.modDie_frame _ _ _) rfl
      exact Frame.refl _ _
    · refine ⟨_, rfl, ?_⟩
      exact Frame.refl _ _

theorem execNandProgramDone_frame (die : Nat) (ok : Bool) (s : State) :
    ∃ t : State, execNandProgramDone die ok s = .next t ∧ Frame [.ctxs, .cmds, .objs, .arrays, .parts, .tests, .nand, .store, .nvme, .peer, .errs, .ledger, .mgmt, .host, .nextId, .freeCtr] s t := by
  unfold execNandProgramDone
  extract_lets
  split
  · refine ⟨_, rfl, ?_⟩
    exact Frame.refl _ _
  · split
    · refine ⟨_, rfl, ?_⟩
      exact Frame.refl _ _
    · refine ⟨_, rfl, ?_⟩
      exact Frame.refl _ _
    · refine ⟨_, rfl, ?_⟩
      refine Frame.ite ?_ ?_
      · refine Frame.after ?_ (State.modGroup_frame _ _ _) rfl
        refine Frame.after ?_ (State.modDie_frame _ _ _) rfl
        exact Frame.refl _ _
      · refine Frame.after ?_ (State.logNand_frame _ _ _ _ _) rfl
        refine Frame.after ?_ (State.modDie_frame _ _ _) rfl
        exact Frame.refl _ _
    · extract_lets
      split
      · refine ⟨_, rfl, ?_⟩
        refine Frame.after ?_ (State.commitRow_frame _ _ _ _) rfl
        refine Frame.after ?_ (State.countCommitted_frame _ _ _ _ _) rfl
        refine Frame.after ?_ (State.modNand_frame _ _) rfl
        refine Frame.after ?_ (State.modDie_frame _ _ _) rfl
        exact Frame.refl _ _
      · refine ⟨_, rfl, ?_⟩
        refine Frame.after ?_ (State.logNand_frame _ _ _ _ _) rfl
        refine Frame.after ?_ (State.modBlock_frame _ _ _ _) rfl
        refine Frame.after ?_ (State.modDie_frame _ _ _) rfl
        exact Frame.refl _ _

theorem execNandEraseDone_frame (die : Nat) (ok : Bool) (s : State) :
    ∃ t : State, execNandEraseDone die ok s = .next t ∧ Frame [.tests, .nand, .errs, .mgmt] s t := by
  unfold execNandEraseDone
  extract_lets
  split
  · refine ⟨_, rfl, ?_⟩
    exact Frame.refl _ _
  · split
    · refine ⟨_, rfl, ?_⟩
      exact Frame.refl _ _
    · extract_lets
      split
      · refine ⟨_, rfl, ?_⟩
        refine Frame.after ?_ (State.dropRows_frame _ _ _ _) rfl
        refine Frame.after ?_ (State.modBlock_frame _ _ _ _) rfl
        refine Frame.after ?_ (State.modGroup_frame _ _ _) rfl
        refine Frame.after ?_ (State.modDie_frame _ _ _) rfl
        exact Frame.refl _ _
      · refine ⟨_, rfl, ?_⟩
        refine Frame.after ?_ (State.logNand_frame _ _ _ _ _) rfl
        refine Frame.after ?_ (State.dueErase_frame _ _ _) rfl
        refine Frame.after ?_ (State.modBlock_frame _ _ _ _) rfl
        refine Frame.after ?_ (State.modGroup_frame _ _ _) rfl
        refine Frame.after ?_ (State.modDie_frame _ _ _) rfl
        exact Frame.refl _ _

theorem execNandReset_frame (s : State) :
    ∃ t : State, execNandReset s = .next t ∧ Frame [.nand] s t := by
  unfold execNandReset
  refine ⟨_, rfl, ?_⟩
  refine Frame.ite ?_ ?_
  · exact Frame.refl _ _
  · refine Frame.after ?_ (State.nandReset_frame _) rfl
    exact Frame.refl _ _

theorem execPatrolRead_frame (die : Nat) (block : Nat) (page : Nat) (cws : List CwRead) (last : Bool) (s : State) :
    ∃ t : State, execPatrolRead die block page cws last s = .next t ∧ Frame [.nand, .ledger, .freeCtr] s t := by
  unfold execPatrolRead
  extract_lets
  split
  · refine ⟨_, rfl, ?_⟩
    refine Frame.ite ?_ ?_
    · refine Frame.after ?_ (State.modDie_frame _ _ _) rfl
      refine Frame.after ?_ (State.readPage_frame _ _ _ _) rfl
      refine Frame.after ?_ (State.modBlock_frame _ _ _ _) rfl
      exact Frame.refl _ _
    · refine Frame.after ?_ (State.readPage_frame _ _ _ _) rfl
      refine Frame.after ?_ (State.modBlock_frame _ _ _ _) rfl
      exact Frame.refl _ _
  · refine ⟨_, rfl, ?_⟩
    exact Frame.refl _ _

theorem execBlockRefresh_frame (die : Nat) (block : Nat) (s : State) :
    ∃ t : State, execBlockRefresh die block s = .next t ∧ Frame [.nand] s t := by
  unfold execBlockRefresh
  extract_lets
  refine ⟨_, rfl, ?_⟩
  refine Frame.ite ?_ ?_
  · refine Frame.after ?_ (State.release_frame _ _ _) rfl
    exact Frame.refl _ _
  · exact Frame.refl _ _

theorem execReadOffsetCalibration_frame (die : Nat) (block : Nat) (temp : Int) (s : State) :
    ∃ t : State, execReadOffsetCalibration die block temp s = .next t ∧ Frame [.nand] s t := by
  unfold execReadOffsetCalibration
  refine ⟨_, rfl, ?_⟩
  refine Frame.ite ?_ ?_
  · refine Frame.after ?_ (State.modBlock_frame _ _ _ _) rfl
    exact Frame.refl _ _
  · exact Frame.refl _ _

theorem execGarbageCollection_frame (group : Nat) (free : Nat) (reclaimable : Bool) (victim : Option Nat) (s : State) :
    ∃ t : State, execGarbageCollection group free reclaimable victim s = .next t ∧ Frame [.nand, .nvme, .mgmt] s t := by
  unfold execGarbageCollection
  split
  · extract_lets _ _ w3
    refine ⟨_, rfl, ?_⟩
    refine Frame.after ?_ (State.noteCritical_frame _ _) rfl
    refine Frame.ite ?_ ?_
    · refine Frame.after ?_ (State.modNvme_frame _ _) rfl
      dsimp only [w3]
      split
      · refine Frame.ite ?_ ?_
        · refine Frame.after ?_ (State.releaseStripe_frame _ _ _) rfl
          refine Frame.after ?_ (State.modGroup_frame _ _ _) rfl
          exact Frame.refl _ _
        · refine Frame.after ?_ (State.modGroup_frame _ _ _) rfl
          exact Frame.refl _ _
      · refine Frame.after ?_ (State.modGroup_frame _ _ _) rfl
        exact Frame.refl _ _
    · dsimp only [w3]
      split
      · refine Frame.ite ?_ ?_
        · refine Frame.after ?_ (State.releaseStripe_frame _ _ _) rfl
          refine Frame.after ?_ (State.modGroup_frame _ _ _) rfl
          exact Frame.refl _ _
        · refine Frame.after ?_ (State.modGroup_frame _ _ _) rfl
          exact Frame.refl _ _
      · refine Frame.after ?_ (State.modGroup_frame _ _ _) rfl
        exact Frame.refl _ _
  · refine ⟨_, rfl, ?_⟩
    exact Frame.refl _ _

theorem execWearLeveling_frame (group : Nat) (block : Nat) (s : State) :
    ∃ t : State, execWearLeveling group block s = .next t ∧ Frame [.nand] s t := by
  unfold execWearLeveling
  refine ⟨_, rfl, ?_⟩
  refine Frame.ite ?_ ?_
  · refine Frame.after ?_ (State.releaseStripe_frame _ _ _) rfl
    exact Frame.refl _ _
  · exact Frame.refl _ _

theorem execWriteAdmit_frame (s : State) :
    ∃ t : State, execWriteAdmit s = .next t ∧ Frame [.ctxs, .nvme, .errs, .mgmt] s t := by
  unfold execWriteAdmit
  split
  · refine ⟨_, rfl, ?_⟩
    exact Frame.refl _ _
  · extract_lets
    split
    · refine ⟨_, rfl, ?_⟩
      refine Frame.after ?_ (State.admitPieces_frame _ _) rfl
      refine Frame.after ?_ (State.modNvme_frame _ _) rfl
      exact Frame.refl _ _
    · refine ⟨_, rfl, ?_⟩
      exact Frame.refl _ _

theorem execStoreOpStart_frame (due : List StoreOp) (s : State) :
    ∃ t : State, execStoreOpStart due s = .next t ∧ Frame [.store] s t := by
  unfold execStoreOpStart
  split
  · refine ⟨_, rfl, ?_⟩
    exact Frame.refl _ _
  · extract_lets
    split
    · refine ⟨_, rfl, ?_⟩
      refine Frame.after ?_ (State.modStore_frame _ _) rfl
      exact Frame.refl _ _
    · split
      · refine ⟨_, rfl, ?_⟩
        refine Frame.after ?_ (State.modStore_frame _ _) rfl
        exact Frame.refl _ _
      · extract_lets
        refine ⟨_, rfl, ?_⟩
        split
        · refine Frame.after ?_ (State.journal_frame _ _ _ _) rfl
          refine Frame.after ?_ (State.modStore_frame _ _) rfl
          refine Frame.after ?_ (State.modStore_frame _ _) rfl
          exact Frame.refl _ _
        · refine Frame.after ?_ (State.modStore_frame _ _) rfl
          refine Frame.after ?_ (State.modStore_frame _ _) rfl
          exact Frame.refl _ _

theorem execStoreEraseDone_frame (blank : Bool) (s : State) :
    ∃ t : State, execStoreEraseDone blank s = .next t ∧ Frame [.store] s t := by
  unfold execStoreEraseDone
  split
  · refine ⟨_, rfl, ?_⟩
    exact Frame.refl _ _
  · split
    · extract_lets
      split
      · refine ⟨_, rfl, ?_⟩
        refine Frame.after ?_ (State.journal_frame _ _ _ _) rfl
        refine Frame.after ?_ (State.modStore_frame _ _) rfl
        refine Frame.ite ?_ ?_
        · refine Frame.after ?_ (State.modStore_frame _ _) rfl
          exact Frame.refl _ _
        · exact Frame.refl _ _
      · refine ⟨_, rfl, ?_⟩
        refine Frame.after ?_ (State.journal_frame _ _ _ _) rfl
        refine Frame.ite ?_ ?_
        · refine Frame.after ?_ (State.modStore_frame _ _) rfl
          exact Frame.refl _ _
        · exact Frame.refl _ _
    · refine ⟨_, rfl, ?_⟩
      exact Frame.refl _ _

theorem execControlSectorSwitch_frame (s : State) :
    ∃ t : State, execControlSectorSwitch s = .next t ∧ Frame [.store] s t := by
  unfold execControlSectorSwitch
  split
  · extract_lets
    refine ⟨_, rfl, ?_⟩
    refine Frame.after ?_ (State.journal_frame _ _ _ _) rfl
    refine Frame.after ?_ (State.modStore_frame _ _) rfl
    refine Frame.after ?_ (State.journal_frame _ _ _ _) rfl
    refine Frame.after ?_ (State.journal_frame _ _ _ _) rfl
    exact Frame.refl _ _
  · refine ⟨_, rfl, ?_⟩
    exact Frame.refl _ _

theorem execGapAdvance_frame (s : State) :
    ∃ t : State, execGapAdvance s = .next t ∧ Frame [.store] s t := by
  unfold execGapAdvance
  extract_lets
  split
  · refine ⟨_, rfl, ?_⟩
    refine Frame.after ?_ (State.queueErase_frame _ _) rfl
    refine Frame.after ?_ (State.journal_frame _ _ _ _) rfl
    refine Frame.after ?_ (State.modStore_frame _ _) rfl
    exact Frame.refl _ _
  · refine ⟨_, rfl, ?_⟩
    exact Frame.refl _ _

theorem execProgramLoad_frame (obj : Nat) (reads : List Bool) (s : State) :
    ∃ t : State, execProgramLoad obj reads s = .next t ∧ Frame [.ctxs, .cmds, .objs, .arrays, .parts, .nand, .store, .nvme, .peer, .errs, .mgmt, .host, .nextId, .freeCtr] s t := by
  unfold execProgramLoad
  split
  · refine ⟨_, rfl, ?_⟩
    exact Frame.refl _ _
  · split
    · refine ⟨_, rfl, ?_⟩
      exact Frame.refl _ _
    · extract_lets
      split
      · refine ⟨_, rfl, ?_⟩
        exact Frame.refl _ _
      · split
        · refine ⟨_, rfl, ?_⟩
          refine Frame.after ?_ (State.setObj_frame _ _ _) rfl
          refine Frame.after ?_ (State.modStore_frame _ _) rfl
          exact Frame.refl _ _
        · split
          · refine ⟨_, rfl, ?_⟩
            exact Frame.refl _ _
          · refine ⟨_, rfl, ?_⟩
            refine Frame.after ?_ (State.recheck_frame _) rfl
            refine Frame.after ?_ (State.settle_frame _) rfl
            refine Frame.after ?_ (State.concludeAll_frame _ _ _) rfl
            refine Frame.after ?_ (State.endOps_frame _ _ _) rfl
            refine Frame.after ?_ (State.logErr_frame _ _) rfl
            refine Frame.after ?_ (State.setObj_frame _ _ _) rfl
            refine Frame.after ?_ (State.modStore_frame _ _) rfl
            exact Frame.refl _ _

theorem execPortTrained_frame (port : Nat) (lanes : Nat) (s : State) :
    ∃ t : State, execPortTrained port lanes s = .next t ∧ Frame [.tests, .peer, .errs, .mgmt] s t := by
  unfold execPortTrained
  split
  · extract_lets
    split
    · refine ⟨_, rfl, ?_⟩
      refine Frame.after ?_ (State.modPort_frame _ _ _) rfl
      refine Frame.foldl _ ?_ (fun u x hu => ?_)
      · exact Frame.refl _ _
      · refine Frame.after ?_ (State.logTest_frame _ _ _ _) rfl
        assumption
    · refine ⟨_, rfl, ?_⟩
      refine Frame.after ?_ (State.modPeer_frame _ _) rfl
      refine Frame.after ?_ (State.modPort_frame _ _ _) rfl
      refine Frame.foldl _ ?_ (fun u x hu => ?_)
      · exact Frame.refl _ _
      · refine Frame.after ?_ (State.logTest_frame _ _ _ _) rfl
        assumption
  · refine ⟨_, rfl, ?_⟩
    exact Frame.refl _ _

theorem execPeerPresChange_frame (port : Nat) (low : Bool) (s : State) :
    ∃ t : State, execPeerPresChange port low s = .next t ∧ Frame [.peer] s t := by
  unfold execPeerPresChange
  split
  · refine ⟨_, rfl, ?_⟩
    refine Frame.ite ?_ ?_
    · refine Frame.after ?_ (State.train_frame _ _) rfl
      refine Frame.after ?_ (State.modPort_frame _ _ _) rfl
      exact Frame.refl _ _
    · refine Frame.after ?_ (State.modPort_frame _ _ _) rfl
      exact Frame.refl _ _
  · refine ⟨_, rfl, ?_⟩
    exact Frame.refl _ _

theorem execPeerAlertPulse_frame (port : Nat) (s : State) :
    ∃ t : State, execPeerAlertPulse port s = .next t ∧ Frame [.peer] s t := by
  unfold execPeerAlertPulse
  refine ⟨_, rfl, ?_⟩
  refine Frame.ite ?_ ?_
  · refine Frame.after ?_ (State.modPort_frame _ _ _) rfl
    exact Frame.refl _ _
  · exact Frame.refl _ _

theorem execPeerAlertStuck_frame (port : Nat) (s : State) :
    ∃ t : State, execPeerAlertStuck port s = .next t ∧ Frame [.peer, .errs, .mgmt] s t := by
  unfold execPeerAlertStuck
  refine ⟨_, rfl, ?_⟩
  refine Frame.ite ?_ ?_
  · refine Frame.after ?_ (State.logPort_frame _ _ _) rfl
    refine Frame.after ?_ (State.modPort_frame _ _ _) rfl
    exact Frame.refl _ _
  · exact Frame.refl _ _

theorem execHello_frame (port : Nat) (gid : Nat) (size : Nat) (member : Nat) (pport : Nat) (incarnation : Nat) (fw : Nat) (s : State) :
    ∃ t : State, execHello port gid size member pport incarnation fw s = .next t ∧ Frame [.peer, .errs, .mgmt] s t := by
  unfold execHello
  extract_lets
  split
  · split
    · refine ⟨_, rfl, ?_⟩
      refine Frame.after ?_ (State.modPeer_frame _ _) rfl
      refine Frame.after ?_ (State.modPort_frame _ _ _) rfl
      exact Frame.refl _ _
    · refine ⟨_, rfl, ?_⟩
      refine Frame.after ?_ (State.logPort_frame _ _ _) rfl
      refine Frame.after ?_ (State.modPort_frame _ _ _) rfl
      exact Frame.refl _ _
  · refine ⟨_, rfl, ?_⟩
    exact Frame.refl _ _

theorem execHeartbeatSend_frame (s : State) :
    ∃ t : State, execHeartbeatSend s = .next t ∧ Frame [.peer] s t := by
  unfold execHeartbeatSend
  split
  · extract_lets
    refine ⟨_, rfl, ?_⟩
    refine Frame.foldl _ ?_ (fun u x hu => ?_)
    · exact Frame.refl _ _
    · refine Frame.after ?_ (State.sendMsg_frame _ _) rfl
      assumption
  · refine ⟨_, rfl, ?_⟩
    exact Frame.refl _ _

theorem execHeartbeat_frame (src : Nat) (incarnation : Nat) (gstate : Nat) (lost : Nat) (epoch : Nat) (time : Nat) (s : State) :
    ∃ t : State, execHeartbeat src incarnation gstate lost epoch time s = .next t ∧ Frame [.ctxs, .cmds, .objs, .arrays, .parts, .nand, .store, .nvme, .peer, .errs, .mgmt, .host, .nextId, .freeCtr] s t := by
  unfold execHeartbeat
  extract_lets
  split
  · refine ⟨_, rfl, ?_⟩
    refine Frame.ite ?_ ?_
    · refine Frame.after ?_ (State.degrade_frame _) rfl
      refine Frame.after ?_ (State.modPeer_frame _ _) rfl
      exact Frame.refl _ _
    · refine Frame.after ?_ (State.form_frame _) rfl
      refine Frame.after ?_ (State.modPeer_frame _ _) rfl
      exact Frame.refl _ _
  · refine ⟨_, rfl, ?_⟩
    exact Frame.refl _ _

theorem execHeartbeatWindowEnd_frame (s : State) :
    ∃ t : State, execHeartbeatWindowEnd s = .next t ∧ Frame [.peer] s t := by
  unfold execHeartbeatWindowEnd
  split
  · extract_lets
    refine ⟨_, rfl, ?_⟩
    refine Frame.after ?_ (State.modPeer_frame _ _) rfl
    exact Frame.refl _ _
  · refine ⟨_, rfl, ?_⟩
    exact Frame.refl _ _

theorem execMemberLost_frame (member : Nat) (s : State) :
    ∃ t : State, execMemberLost member s = .next t ∧ Frame [.ctxs, .cmds, .objs, .arrays, .parts, .nand, .store, .nvme, .peer, .errs, .mgmt, .host, .nextId, .freeCtr] s t := by
  unfold execMemberLost
  split
  · refine ⟨_, rfl, ?_⟩
    refine Frame.after ?_ (State.degrade_frame _) rfl
    refine Frame.after ?_ (State.modPeer_frame _ _) rfl
    exact Frame.refl _ _
  · refine ⟨_, rfl, ?_⟩
    exact Frame.refl _ _

theorem execGroupReform_frame (s : State) :
    ∃ t : State, execGroupReform s = .next t ∧ Frame [.ctxs, .cmds, .objs, .arrays, .parts, .nand, .store, .nvme, .peer, .errs, .mgmt, .host, .nextId, .freeCtr] s t := by
  unfold execGroupReform
  refine ⟨_, rfl, ?_⟩
  refine Frame.ite ?_ ?_
  · refine Frame.after ?_ (State.form_frame _) rfl
    refine Frame.after ?_ (State.modPeer_frame _ _) rfl
    exact Frame.refl _ _
  · exact Frame.refl _ _

theorem execFormingTimeout_frame (s : State) :
    ∃ t : State, execFormingTimeout s = .next t ∧ Frame [.errs, .mgmt] s t := by
  unfold execFormingTimeout
  refine ⟨_, rfl, ?_⟩
  refine Frame.ite ?_ ?_
  · refine Frame.after ?_ (State.logPort_frame _ _ _) rfl
    exact Frame.refl _ _
  · exact Frame.refl _ _

theorem execIdle_frame (port : Nat) (s : State) :
    ∃ t : State, execIdle port s = .next t ∧ Frame [.peer] s t := by
  unfold execIdle
  refine ⟨_, rfl, ?_⟩
  refine Frame.ite ?_ ?_
  · refine Frame.after ?_ (State.modPeer_frame _ _) rfl
    exact Frame.refl _ _
  · exact Frame.refl _ _

theorem execFlitReceive_frame (port : Nat) (bytes : List Byte) (s : State) :
    ∃ t : State, execFlitReceive port bytes s = .next t ∧ Frame [.peer] s t := by
  unfold execFlitReceive
  split
  · split
    · refine ⟨_, rfl, ?_⟩
      refine Frame.after ?_ (State.sendNak_frame _ _) rfl
      exact Frame.refl _ _
    · extract_lets
      split
      · refine ⟨_, rfl, ?_⟩
        refine Frame.after ?_ (State.modPort_frame _ _ _) rfl
        refine Frame.after ?_ (State.modPeer_frame _ _) rfl
        refine Frame.after ?_ (State.modPort_frame _ _ _) rfl
        exact Frame.refl _ _
      · split
        · refine ⟨_, rfl, ?_⟩
          refine Frame.after ?_ (State.sendNak_frame _ _) rfl
          refine Frame.after ?_ (State.modPeer_frame _ _) rfl
          refine Frame.after ?_ (State.modPort_frame _ _ _) rfl
          exact Frame.refl _ _
        · split
          · refine ⟨_, rfl, ?_⟩
            refine Frame.after ?_ (State.countStale_frame _ _) rfl
            refine Frame.after ?_ (State.modPort_frame _ _ _) rfl
            refine Frame.after ?_ (State.modPeer_frame _ _) rfl
            refine Frame.after ?_ (State.modPort_frame _ _ _) rfl
            exact Frame.refl _ _
          · split
            · refine ⟨_, rfl, ?_⟩
              refine Frame.after ?_ (State.modPort_frame _ _ _) rfl
              refine Frame.after ?_ (State.modPeer_frame _ _) rfl
              refine Frame.after ?_ (State.modPort_frame _ _ _) rfl
              exact Frame.refl _ _
            · refine ⟨_, rfl, ?_⟩
              refine Frame.after ?_ (State.relay_frame _ _) rfl
              refine Frame.after ?_ (State.modPort_frame _ _ _) rfl
              refine Frame.after ?_ (State.modPeer_frame _ _) rfl
              refine Frame.after ?_ (State.modPort_frame _ _ _) rfl
              exact Frame.refl _ _
  · refine ⟨_, rfl, ?_⟩
    exact Frame.refl _ _

theorem execNak_frame (port : Nat) (expected : Nat) (s : State) :
    ∃ t : State, execNak port expected s = .next t ∧ Frame [.peer] s t := by
  unfold execNak
  split
  · extract_lets
    refine ⟨_, rfl, ?_⟩
    refine Frame.after ?_ (State.modPeer_frame _ _) rfl
    refine Frame.after ?_ (State.modPort_frame _ _ _) rfl
    exact Frame.refl _ _
  · refine ⟨_, rfl, ?_⟩
    exact Frame.refl _ _

theorem execPortRetrain_frame (port : Nat) (s : State) :
    ∃ t : State, execPortRetrain port s = .next t ∧ Frame [.peer] s t := by
  unfold execPortRetrain
  refine ⟨_, rfl, ?_⟩
  refine Frame.ite ?_ ?_
  · refine Frame.after ?_ (State.modPort_frame _ _ _) rfl
    exact Frame.refl _ _
  · exact Frame.refl _ _

theorem execPost_frame (src : Nat) (opId : Nat) (s : State) :
    ∃ t : State, execPost src opId s = .next t ∧ Frame [.peer] s t := by
  unfold execPost
  split
  · refine ⟨_, rfl, ?_⟩
    exact Frame.refl _ _
  · split
    · refine ⟨_, rfl, ?_⟩
      refine Frame.after ?_ (State.countStale_frame _ _) rfl
      exact Frame.refl _ _
    · split
      · refine ⟨_, rfl, ?_⟩
        refine Frame.after ?_ (State.modPeer_frame _ _) rfl
        exact Frame.refl _ _
      · split
        · refine ⟨_, rfl, ?_⟩
          exact Frame.refl _ _
        · extract_lets
          split
          · refine ⟨_, rfl, ?_⟩
            refine Frame.after ?_ (State.modOp_frame _ _ _) rfl
            exact Frame.refl _ _
          · refine ⟨_, rfl, ?_⟩
            refine Frame.after ?_ (State.sendShare_frame _ _ _ _) rfl
            refine Frame.after ?_ (State.modOp_frame _ _ _) rfl
            exact Frame.refl _ _

theorem execGather_frame (src : Nat) (opId : Nat) (offset : Nat) (payload : List Byte) (digest : Nat) (s : State) :
    ∃ t : State, execGather src opId offset payload digest s = .next t ∧ Frame [.ctxs, .cmds, .objs, .arrays, .parts, .nand, .store, .nvme, .peer, .errs, .mgmt, .host, .nextId, .freeCtr] s t := by
  unfold execGather
  refine ⟨_, rfl, ?_⟩
  refine State.onMsg_frame _ _ _ _ _ _ _ _ _ ?_ ?_ rfl
  · exact Frame.refl _ _
  · intro _ _ _
    split
    · refine Frame.ite ?_ ?_
      · assumption
      · refine Frame.after ?_ (State.failOp_frame _ _ _) rfl
        assumption
    · split
      · assumption
      · split
        · assumption
        · extract_lets
          refine Frame.ite ?_ ?_
          · refine Frame.after ?_ (State.recheck_frame _) rfl
            refine Frame.after ?_ (State.settle_frame _) rfl
            refine Frame.after ?_ (State.modOp_frame _ _ _) rfl
            refine Frame.after ?_ (State.objWrite_frame _ _ _ _) rfl
            assumption
          · assumption

theorem execReduce_frame (src : Nat) (opId : Nat) (offset : Nat) (payload : List Byte) (digest : Nat) (s : State) :
    ∃ t : State, execReduce src opId offset payload digest s = .next t ∧ Frame [.ctxs, .cmds, .objs, .arrays, .parts, .nand, .store, .nvme, .peer, .errs, .mgmt, .host, .nextId, .freeCtr] s t := by
  unfold execReduce
  refine ⟨_, rfl, ?_⟩
  refine State.onMsg_frame _ _ _ _ _ _ _ _ _ ?_ ?_ rfl
  · exact Frame.refl _ _
  · intro _ _ _
    refine Frame.ite ?_ ?_
    · assumption
    · extract_lets
      refine Frame.after ?_ (State.modOp_frame _ _ _) rfl
      assumption

theorem execEnvelope_frame (src : Nat) (opId : Nat) (offset : Nat) (payload : List Byte) (digest : Nat) (s : State) :
    ∃ t : State, execEnvelope src opId offset payload digest s = .next t ∧ Frame [.ctxs, .cmds, .objs, .arrays, .parts, .nand, .store, .nvme, .peer, .errs, .mgmt, .host, .nextId, .freeCtr] s t := by
  unfold execEnvelope
  refine ⟨_, rfl, ?_⟩
  refine State.onMsg_frame _ _ _ _ _ _ _ _ _ ?_ ?_ rfl
  · exact Frame.refl _ _
  · intro _ _ _
    extract_lets
    refine Frame.ite ?_ ?_
    · assumption
    · refine Frame.after ?_ (State.modOp_frame _ _ _) rfl
      assumption

theorem execAbort_frame (src : Nat) (opId : Nat) (status : Nat) (s : State) :
    ∃ t : State, execAbort src opId status s = .next t ∧ Frame [.ctxs, .cmds, .objs, .arrays, .parts, .nand, .store, .nvme, .peer, .errs, .mgmt, .host, .nextId, .freeCtr] s t := by
  unfold execAbort
  extract_lets
  split
  · refine ⟨_, rfl, ?_⟩
    exact Frame.refl _ _
  · split
    · refine ⟨_, rfl, ?_⟩
      refine Frame.after ?_ (State.countStale_frame _ _) rfl
      exact Frame.refl _ _
    · split
      · refine ⟨_, rfl, ?_⟩
        exact Frame.refl _ _
      · refine ⟨_, rfl, ?_⟩
        refine Frame.after ?_ (State.failOp_frame _ _ _) rfl
        refine Frame.after ?_ (State.modPeer_frame _ _) rfl
        exact Frame.refl _ _

theorem execMsgNak_frame (src : Nat) (opId : Nat) (offset : Nat) (kind : Nat) (len16 : Nat) (s : State) :
    ∃ t : State, execMsgNak src opId offset kind len16 s = .next t ∧ Frame [.ctxs, .cmds, .objs, .arrays, .parts, .nand, .store, .nvme, .peer, .errs, .mgmt, .host, .nextId, .freeCtr] s t := by
  unfold execMsgNak
  split
  · refine ⟨_, rfl, ?_⟩
    exact Frame.refl _ _
  · split
    · refine ⟨_, rfl, ?_⟩
      refine Frame.after ?_ (State.countStale_frame _ _) rfl
      exact Frame.refl _ _
    · split
      · refine ⟨_, rfl, ?_⟩
        refine Frame.after ?_ (State.modPeer_frame _ _) rfl
        exact Frame.refl _ _
      · split
        · refine ⟨_, rfl, ?_⟩
          exact Frame.refl _ _
        · refine ⟨_, rfl, ?_⟩
          refine Frame.after ?_ (State.failOp_frame _ _ _) rfl
          exact Frame.refl _ _

theorem execMessageCopyExpiry_frame (s : State) :
    ∃ t : State, execMessageCopyExpiry s = .next t ∧ Frame [.peer] s t := by
  unfold execMessageCopyExpiry
  refine ⟨_, rfl, ?_⟩
  refine Frame.ite ?_ ?_
  · refine Frame.after ?_ (State.modPeer_frame _ _) rfl
    exact Frame.refl _ _
  · exact Frame.refl _ _

theorem execPeerProgressTimeout_frame (uid : Nat) (s : State) :
    ∃ t : State, execPeerProgressTimeout uid s = .next t ∧ Frame [.ctxs, .cmds, .objs, .arrays, .parts, .nand, .store, .nvme, .peer, .errs, .mgmt, .host, .nextId, .freeCtr] s t := by
  unfold execPeerProgressTimeout
  split
  · refine ⟨_, rfl, ?_⟩
    exact Frame.refl _ _
  · refine ⟨_, rfl, ?_⟩
    refine Frame.ite ?_ ?_
    · refine Frame.after ?_ (State.failOp_frame _ _ _) rfl
      exact Frame.refl _ _
    · exact Frame.refl _ _

theorem execNvmeSqDoorbell_frame (fn : Nat) (sqid : Nat) (tail : Nat) (cmds : List (Nat × Nat)) (s : State) :
    ∃ t : State, execNvmeSqDoorbell fn sqid tail cmds s = .next t ∧ Frame [.power, .ctxs, .nvme, .errs, .mgmt] s t := by
  unfold execNvmeSqDoorbell
  extract_lets
  split
  · split
    · refine ⟨_, rfl, ?_⟩
      refine Frame.foldl _ ?_ (fun u x hu => ?_)
      · refine Frame.after ?_ (State.wake_frame _) rfl
        exact Frame.refl _ _
      · refine Frame.after ?_ (State.fetchNvme_frame _ _ _ _) rfl
        assumption
    · split
      · refine ⟨_, rfl, ?_⟩
        exact Frame.refl _ _
      · split
        · refine ⟨_, rfl, ?_⟩
          exact Frame.refl _ _
        · refine ⟨_, rfl, ?_⟩
          refine Frame.foldl _ ?_ (fun u x hu => ?_)
          · refine Frame.after ?_ (State.modCtl_frame _ _ _) rfl
            refine Frame.after ?_ (State.wake_frame _) rfl
            exact Frame.refl _ _
          · refine Frame.after ?_ (State.fetchNvme_frame _ _ _ _) rfl
            assumption
  · refine ⟨_, rfl, ?_⟩
    exact Frame.refl _ _

theorem execLowPowerWake_frame (s : State) :
    ∃ t : State, execLowPowerWake s = .next t ∧ Frame [.power] s t := by
  unfold execLowPowerWake
  refine ⟨_, rfl, ?_⟩
  refine Frame.ite ?_ ?_
  · refine Frame.after ?_ (State.setPstate_frame _ _) rfl
    exact Frame.refl _ _
  · exact Frame.refl _ _

theorem execCreateIoSubmissionQueue_frame (h : NvmeHdr) (qid : Nat) (qsize : Nat) (cqid : Nat) (s : State) :
    ∃ t : State, execCreateIoSubmissionQueue h qid qsize cqid s = .next t ∧ Frame [.power, .ctxs, .nvme, .errs, .mgmt] s t := by
  unfold execCreateIoSubmissionQueue
  refine ⟨_, rfl, ?_⟩
  refine State.admin_frame _ _ _ _ _ ?_ ?_ rfl
  · exact Frame.refl _ _
  · intro _
    intro _
    extract_lets
    refine Frame.ite ?_ ?_
    · refine Frame.after ?_ (State.nvDone_frame _ _ _ _ _) rfl
      assumption
    · refine Frame.ite ?_ ?_
      · refine Frame.after ?_ (State.nvDone_frame _ _ _ _ _) rfl
        assumption
      · refine Frame.ite ?_ ?_
        · refine Frame.after ?_ (State.nvDone_frame _ _ _ _ _) rfl
          assumption
        · refine Frame.after ?_ (State.nvDone_frame _ _ _ _ _) rfl
          refine Frame.after ?_ (State.modCtl_frame _ _ _) rfl
          assumption

theorem execCreateIoCompletionQueue_frame (h : NvmeHdr) (qid : Nat) (qsize : Nat) (iv : Nat) (ien : Bool) (s : State) :
    ∃ t : State, execCreateIoCompletionQueue h qid qsize iv ien s = .next t ∧ Frame [.power, .ctxs, .nvme, .errs, .mgmt] s t := by
  unfold execCreateIoCompletionQueue
  refine ⟨_, rfl, ?_⟩
  refine State.admin_frame _ _ _ _ _ ?_ ?_ rfl
  · exact Frame.refl _ _
  · intro _
    intro _
    extract_lets
    refine Frame.ite ?_ ?_
    · refine Frame.after ?_ (State.nvDone_frame _ _ _ _ _) rfl
      assumption
    · refine Frame.ite ?_ ?_
      · refine Frame.after ?_ (State.nvDone_frame _ _ _ _ _) rfl
        assumption
      · refine Frame.ite ?_ ?_
        · refine Frame.after ?_ (State.nvDone_frame _ _ _ _ _) rfl
          assumption
        · refine Frame.after ?_ (State.nvDone_frame _ _ _ _ _) rfl
          refine Frame.after ?_ (State.modCtl_frame _ _ _) rfl
          assumption

theorem execDeleteIoSubmissionQueue_frame (h : NvmeHdr) (qid : Nat) (s : State) :
    ∃ t : State, execDeleteIoSubmissionQueue h qid s = .next t ∧ Frame [.power, .ctxs, .nvme, .errs, .mgmt] s t := by
  unfold execDeleteIoSubmissionQueue
  refine ⟨_, rfl, ?_⟩
  refine State.admin_frame _ _ _ _ _ ?_ ?_ rfl
  · exact Frame.refl _ _
  · intro _
    intro _
    refine Frame.ite ?_ ?_
    · refine Frame.after ?_ (State.nvDone_frame _ _ _ _ _) rfl
      assumption
    · extract_lets
      refine Frame.after ?_ (State.nvDone_frame _ _ _ _ _) rfl
      refine Frame.after ?_ (State.modCtl_frame _ _ _) rfl
      refine Frame.after ?_ (State.endNvme_frame _ _ _) rfl
      assumption

theorem execDeleteIoCompletionQueue_frame (h : NvmeHdr) (qid : Nat) (s : State) :
    ∃ t : State, execDeleteIoCompletionQueue h qid s = .next t ∧ Frame [.power, .ctxs, .nvme, .errs, .mgmt] s t := by
  unfold execDeleteIoCompletionQueue
  refine ⟨_, rfl, ?_⟩
  refine State.admin_frame _ _ _ _ _ ?_ ?_ rfl
  · exact Frame.refl _ _
  · intro _
    intro _
    extract_lets
    refine Frame.ite ?_ ?_
    · refine Frame.after ?_ (State.nvDone_frame _ _ _ _ _) rfl
      assumption
    · refine Frame.ite ?_ ?_
      · refine Frame.after ?_ (State.nvDone_frame _ _ _ _ _) rfl
        assumption
      · refine Frame.after ?_ (State.nvDone_frame _ _ _ _ _) rfl
        refine Frame.after ?_ (State.modCtl_frame _ _ _) rfl
        assumption

theorem execIdentify_frame (h : NvmeHdr) (cns : Nat) (dst : Nat) (s : State) :
    ∃ t : State, execIdentify h cns dst s = .next t ∧ Frame [.power, .ctxs, .nvme, .errs, .mgmt, .host, .freeCtr] s t := by
  unfold execIdentify
  refine ⟨_, rfl, ?_⟩
  refine State.admin_frame _ _ _ _ _ ?_ ?_ rfl
  · exact Frame.refl _ _
  · intro _
    intro _
    refine Frame.ite ?_ ?_
    · refine Frame.after ?_ (State.nvDone_frame _ _ _ _ _) rfl
      assumption
    · split
      · refine Frame.after ?_ (State.sendPage_frame _ _ _ _) rfl
        assumption
      · refine Frame.after ?_ (State.nvDone_frame _ _ _ _ _) rfl
        assumption

theorem execNvmeAbort_frame (h : NvmeHdr) (sqid : Nat) (cid : Nat) (s : State) :
    ∃ t : State, execNvmeAbort h sqid cid s = .next t ∧ Frame [.power, .ctxs, .nvme, .errs, .mgmt] s t := by
  unfold execNvmeAbort
  refine ⟨_, rfl, ?_⟩
  refine State.admin_frame _ _ _ _ _ ?_ ?_ rfl
  · exact Frame.refl _ _
  · intro _
    intro _
    extract_lets
    refine Frame.ite ?_ ?_
    · refine Frame.after ?_ (State.nvDone_frame _ _ _ _ _) rfl
      refine Frame.after ?_ (State.endNvme_frame _ _ _) rfl
      assumption
    · refine Frame.after ?_ (State.nvDone_frame _ _ _ _ _) rfl
      assumption

theorem execGetFeatures_frame (h : NvmeHdr) (fid : Nat) (cdw11 : Nat) (dst : Nat) (s : State) :
    ∃ t : State, execGetFeatures h fid cdw11 dst s = .next t ∧ Frame [.power, .ctxs, .nvme, .errs, .mgmt, .host] s t := by
  unfold execGetFeatures
  refine ⟨_, rfl, ?_⟩
  refine State.admin_frame _ _ _ _ _ ?_ ?_ rfl
  · exact Frame.refl _ _
  · intro _
    intro _
    extract_lets
    refine Frame.ite ?_ ?_
    · refine Frame.after ?_ (State.nvDone_frame _ _ _ _ _) rfl
      assumption
    · refine Frame.ite ?_ ?_
      · refine Frame.after ?_ (State.nvDone_frame _ _ _ _ _) rfl
        assumption
      · refine Frame.ite ?_ ?_
        · refine Frame.after ?_ (State.nvDone_frame _ _ _ _ _) rfl
          assumption
        · refine Frame.ite ?_ ?_
          · refine Frame.after ?_ (State.nvDone_frame _ _ _ _ _) rfl
            refine Frame.after ?_ (State.hostWrite_frame _ _ _) rfl
            assumption
          · refine Frame.ite ?_ ?_
            · refine Frame.after ?_ (State.nvDone_frame _ _ _ _ _) rfl
              refine Frame.after ?_ (State.hostWrite_frame _ _ _) rfl
              assumption
            · refine Frame.ite ?_ ?_
              · refine Frame.after ?_ (State.nvDone_frame _ _ _ _ _) rfl
                assumption
              · refine Frame.ite ?_ ?_
                · refine Frame.after ?_ (State.nvDone_frame _ _ _ _ _) rfl
                  assumption
                · refine Frame.ite ?_ ?_
                  · refine Frame.after ?_ (State.nvDone_frame _ _ _ _ _) rfl
                    assumption
                  · refine Frame.ite ?_ ?_
                    · refine Frame.after ?_ (State.nvDone_frame _ _ _ _ _) rfl
                      assumption
                    · refine Frame.after ?_ (State.nvDone_frame _ _ _ _ _) rfl
                      assumption

theorem execSetArbitration_frame (h : NvmeHdr) (value : BitVec 32) (s : State) :
    ∃ t : State, execSetArbitration h value s = .next t ∧ Frame [.power, .ctxs, .nvme, .errs, .mgmt] s t := by
  unfold execSetArbitration
  refine ⟨_, rfl, ?_⟩
  refine State.setFeat_frame _ _ _ _ ?_ ?_ rfl
  · exact Frame.refl _ _
  · intro _
    intro _
    refine Frame.after ?_ (State.keepFeat_frame _ _ _ _) rfl
    assumption

theorem execSetPowerManagement_frame (h : NvmeHdr) (value : BitVec 32) (s : State) :
    ∃ t : State, execSetPowerManagement h value s = .next t ∧ Frame [.power, .ctxs, .nvme, .errs, .mgmt] s t := by
  unfold execSetPowerManagement
  refine ⟨_, rfl, ?_⟩
  refine State.setFeat_frame _ _ _ _ ?_ ?_ rfl
  · exact Frame.refl _ _
  · intro _
    intro _
    extract_lets
    refine Frame.ite ?_ ?_
    · refine Frame.after ?_ (State.nvDone_frame _ _ _ _ _) rfl
      assumption
    · refine Frame.ite ?_ ?_
      · refine Frame.after ?_ (State.nvDone_frame _ _ _ _ _) rfl
        refine Frame.after ?_ (State.setPstate_frame _ _) rfl
        assumption
      · refine Frame.after ?_ (State.nvDone_frame _ _ _ _ _) rfl
        refine Frame.after ?_ (State.modPower_frame _ _) rfl
        assumption

theorem execLowPowerEntry_frame (s : State) :
    ∃ t : State, execLowPowerEntry s = .next t ∧ Frame [.power] s t := by
  unfold execLowPowerEntry
  split
  · refine ⟨_, rfl, ?_⟩
    exact Frame.refl _ _
  · refine ⟨_, rfl, ?_⟩
    refine Frame.ite ?_ ?_
    · refine Frame.after ?_ (State.setPstate_frame _ _) rfl
      exact Frame.refl _ _
    · exact Frame.refl _ _

theorem execSetTemperatureThreshold_frame (h : NvmeHdr) (value : BitVec 32) (s : State) :
    ∃ t : State, execSetTemperatureThreshold h value s = .next t ∧ Frame [.power, .ctxs, .nvme, .errs, .mgmt] s t := by
  unfold execSetTemperatureThreshold
  refine ⟨_, rfl, ?_⟩
  refine State.setFeat_frame _ _ _ _ ?_ ?_ rfl
  · exact Frame.refl _ _
  · intro _
    intro _
    refine Frame.after ?_ (State.checkTemp_frame _ _) rfl
    refine Frame.after ?_ (State.keepFeat_frame _ _ _ _) rfl
    assumption

theorem execSetVolatileWriteCache_frame (h : NvmeHdr) (value : BitVec 32) (s : State) :
    ∃ t : State, execSetVolatileWriteCache h value s = .next t ∧ Frame [.power, .ctxs, .nvme, .errs, .mgmt] s t := by
  unfold execSetVolatileWriteCache
  refine ⟨_, rfl, ?_⟩
  refine State.setFeat_frame _ _ _ _ ?_ ?_ rfl
  · exact Frame.refl _ _
  · intro _
    intro _
    refine Frame.after ?_ (State.nvDone_frame _ _ _ _ _) rfl
    refine Frame.after ?_ (State.modNvme_frame _ _) rfl
    assumption

theorem execSetNumberOfQueues_frame (h : NvmeHdr) (value : BitVec 32) (s : State) :
    ∃ t : State, execSetNumberOfQueues h value s = .next t ∧ Frame [.power, .ctxs, .nvme, .errs, .mgmt] s t := by
  unfold execSetNumberOfQueues
  refine ⟨_, rfl, ?_⟩
  refine State.setFeat_frame _ _ _ _ ?_ ?_ rfl
  · exact Frame.refl _ _
  · intro _
    intro _
    extract_lets
    refine Frame.ite ?_ ?_
    · refine Frame.after ?_ (State.nvDone_frame _ _ _ _ _) rfl
      assumption
    · refine Frame.ite ?_ ?_
      · refine Frame.after ?_ (State.nvDone_frame _ _ _ _ _) rfl
        assumption
      · refine Frame.after ?_ (State.nvDone_frame _ _ _ _ _) rfl
        refine Frame.after ?_ (State.modCtl_frame _ _ _) rfl
        assumption

theorem execSetInterruptCoalescing_frame (h : NvmeHdr) (value : BitVec 32) (s : State) :
    ∃ t : State, execSetInterruptCoalescing h value s = .next t ∧ Frame [.power, .ctxs, .nvme, .errs, .mgmt] s t := by
  unfold execSetInterruptCoalescing
  refine ⟨_, rfl, ?_⟩
  refine State.setFeat_frame _ _ _ _ ?_ ?_ rfl
  · exact Frame.refl _ _
  · intro _
    intro _
    refine Frame.after ?_ (State.keepFeat_frame _ _ _ _) rfl
    assumption

theorem execSetInterruptVectorConfiguration_frame (h : NvmeHdr) (value : BitVec 32) (s : State) :
    ∃ t : State, execSetInterruptVectorConfiguration h value s = .next t ∧ Frame [.power, .ctxs, .nvme, .errs, .mgmt] s t := by
  unfold execSetInterruptVectorConfiguration
  refine ⟨_, rfl, ?_⟩
  refine State.setFeat_frame _ _ _ _ ?_ ?_ rfl
  · exact Frame.refl _ _
  · intro _
    intro _
    refine Frame.after ?_ (State.keepFeat_frame _ _ _ _) rfl
    assumption

theorem execSetWriteAtomicityNormal_frame (h : NvmeHdr) (value : BitVec 32) (s : State) :
    ∃ t : State, execSetWriteAtomicityNormal h value s = .next t ∧ Frame [.power, .ctxs, .nvme, .errs, .mgmt] s t := by
  unfold execSetWriteAtomicityNormal
  refine ⟨_, rfl, ?_⟩
  refine State.setFeat_frame _ _ _ _ ?_ ?_ rfl
  · exact Frame.refl _ _
  · intro _
    intro _
    refine Frame.after ?_ (State.keepFeat_frame _ _ _ _) rfl
    assumption

theorem execSetAsyncEventConfiguration_frame (h : NvmeHdr) (value : BitVec 32) (s : State) :
    ∃ t : State, execSetAsyncEventConfiguration h value s = .next t ∧ Frame [.power, .ctxs, .nvme, .errs, .mgmt] s t := by
  unfold execSetAsyncEventConfiguration
  refine ⟨_, rfl, ?_⟩
  refine State.setFeat_frame _ _ _ _ ?_ ?_ rfl
  · exact Frame.refl _ _
  · intro _
    intro _
    refine Frame.after ?_ (State.keepFeat_frame _ _ _ _) rfl
    assumption

theorem execSetApst_frame (h : NvmeHdr) (enable : Bool) (table : List (Nat × Nat)) (s : State) :
    ∃ t : State, execSetApst h enable table s = .next t ∧ Frame [.power, .ctxs, .nvme, .errs, .mgmt] s t := by
  unfold execSetApst
  refine ⟨_, rfl, ?_⟩
  refine State.setFeat_frame _ _ _ _ ?_ ?_ rfl
  · exact Frame.refl _ _
  · intro _
    intro _
    refine Frame.ite ?_ ?_
    · refine Frame.after ?_ (State.nvDone_frame _ _ _ _ _) rfl
      assumption
    · refine Frame.after ?_ (State.nvDone_frame _ _ _ _ _) rfl
      refine Frame.after ?_ (State.modNvme_frame _ _) rfl
      assumption

theorem execApstIdleExpiry_frame (s : State) :
    ∃ t : State, execApstIdleExpiry s = .next t ∧ Frame [.power] s t := by
  unfold execApstIdleExpiry
  extract_lets
  refine ⟨_, rfl, ?_⟩
  refine Frame.ite ?_ ?_
  · refine Frame.after ?_ (State.modPower_frame _ _) rfl
    exact Frame.refl _ _
  · exact Frame.refl _ _

theorem execSetTimestamp_frame (h : NvmeHdr) (ms : Nat) (s : State) :
    ∃ t : State, execSetTimestamp h ms s = .next t ∧ Frame [.power, .ctxs, .nvme, .errs, .ledger, .mgmt] s t := by
  unfold execSetTimestamp
  refine ⟨_, rfl, ?_⟩
  refine State.setFeat_frame _ _ _ _ ?_ ?_ rfl
  · exact Frame.refl _ _
  · intro _
    intro _
    extract_lets
    refine Frame.after ?_ (State.nvDone_frame _ _ _ _ _) rfl
    refine Frame.ite ?_ ?_
    · refine Frame.after ?_ (State.modLedger_frame _ _) rfl
      refine Frame.after ?_ (State.modCtl_frame _ _ _) rfl
      assumption
    · refine Frame.after ?_ (State.modCtl_frame _ _ _) rfl
      assumption

theorem execLacunaRelease_frame (h : NvmeHdr) (seq : Nat) (s : State) :
    ∃ t : State, execLacunaRelease h seq s = .next t ∧ Frame [.power, .ctxs, .objs, .store, .nvme, .errs, .mgmt] s t := by
  unfold execLacunaRelease
  refine ⟨_, rfl, ?_⟩
  refine State.setFeat_frame _ _ _ _ ?_ ?_ rfl
  · exact Frame.refl _ _
  · intro _
    intro _
    split
    · refine Frame.after ?_ (State.nvDone_frame _ _ _ _ _) rfl
      assumption
    · extract_lets
      refine Frame.after ?_ (State.nvDone_frame _ _ _ _ _) rfl
      refine Frame.ite ?_ ?_
      · refine Frame.after ?_ (State.modObjs_frame _ _) rfl
        refine Frame.foldl _ ?_ (fun u x hu => ?_)
        · refine Frame.after ?_ (State.modStore_frame _ _) rfl
          assumption
        · refine Frame.after ?_ (State.queueErase_frame _ _) rfl
          refine Frame.after ?_ (State.queueErase_frame _ _) rfl
          assumption
      · refine Frame.after ?_ (State.modStore_frame _ _) rfl
        refine Frame.after ?_ (State.modObjs_frame _ _) rfl
        refine Frame.foldl _ ?_ (fun u x hu => ?_)
        · refine Frame.after ?_ (State.modStore_frame _ _) rfl
          assumption
        · refine Frame.after ?_ (State.queueErase_frame _ _) rfl
          refine Frame.after ?_ (State.queueErase_frame _ _) rfl
          assumption

theorem execAsyncEventRequest_frame (h : NvmeHdr) (s : State) :
    ∃ t : State, execAsyncEventRequest h s = .next t ∧ Frame [.power, .ctxs, .nvme, .errs, .mgmt] s t := by
  unfold execAsyncEventRequest
  refine ⟨_, rfl, ?_⟩
  refine State.admin_frame _ _ _ _ _ ?_ ?_ rfl
  · exact Frame.refl _ _
  · intro _
    intro _
    extract_lets
    refine Frame.ite ?_ ?_
    · refine Frame.after ?_ (State.nvDone_frame _ _ _ _ _) rfl
      assumption
    · split
      · refine Frame.after ?_ (State.nvDone_frame _ _ _ _ _) rfl
        refine Frame.after ?_ (State.modCtl_frame _ _ _) rfl
        assumption
      · refine Frame.after ?_ (State.modCtl_frame _ _ _) rfl
        assumption

theorem execGetLogErrorInformation_frame (h : NvmeHdr) (dst : Nat) (len : Nat) (s : State) :
    ∃ t : State, execGetLogErrorInformation h dst len s = .next t ∧ Frame [.power, .ctxs, .nvme, .errs, .mgmt, .host, .freeCtr] s t := by
  unfold execGetLogErrorInformation
  refine ⟨_, rfl, ?_⟩
  refine State.admin_frame _ _ _ _ _ ?_ ?_ rfl
  · exact Frame.refl _ _
  · intro _
    intro _
    refine Frame.after ?_ (State.sendLog_frame _ _ _ _ _ _) rfl
    assumption

theorem execGetLogSmartHealth_frame (h : NvmeHdr) (dst : Nat) (len : Nat) (s : State) :
    ∃ t : State, execGetLogSmartHealth h dst len s = .next t ∧ Frame [.power, .ctxs, .nvme, .errs, .mgmt, .host, .freeCtr] s t := by
  unfold execGetLogSmartHealth
  refine ⟨_, rfl, ?_⟩
  refine State.admin_frame _ _ _ _ _ ?_ ?_ rfl
  · exact Frame.refl _ _
  · intro _
    intro _
    refine Frame.after ?_ (State.sendLog_frame _ _ _ _ _ _) rfl
    assumption

theorem execGetLogFirmwareSlot_frame (h : NvmeHdr) (dst : Nat) (len : Nat) (s : State) :
    ∃ t : State, execGetLogFirmwareSlot h dst len s = .next t ∧ Frame [.power, .ctxs, .nvme, .errs, .mgmt, .host, .freeCtr] s t := by
  unfold execGetLogFirmwareSlot
  refine ⟨_, rfl, ?_⟩
  refine State.admin_frame _ _ _ _ _ ?_ ?_ rfl
  · exact Frame.refl _ _
  · intro _
    intro _
    refine Frame.after ?_ (State.sendLog_frame _ _ _ _ _ _) rfl
    assumption

theorem execGetLogChangedNamespace_frame (h : NvmeHdr) (dst : Nat) (len : Nat) (s : State) :
    ∃ t : State, execGetLogChangedNamespace h dst len s = .next t ∧ Frame [.power, .ctxs, .nvme, .errs, .mgmt, .host, .freeCtr] s t := by
  unfold execGetLogChangedNamespace
  refine ⟨_, rfl, ?_⟩
  refine State.admin_frame _ _ _ _ _ ?_ ?_ rfl
  · exact Frame.refl _ _
  · intro _
    intro _
    extract_lets
    refine Frame.after ?_ (State.sendLog_frame _ _ _ _ _ _) rfl
    refine Frame.after ?_ (State.modCtl_frame _ _ _) rfl
    assumption

theorem execGetLogCommandsSupported_frame (h : NvmeHdr) (dst : Nat) (len : Nat) (s : State) :
    ∃ t : State, execGetLogCommandsSupported h dst len s = .next t ∧ Frame [.power, .ctxs, .nvme, .errs, .mgmt, .host, .freeCtr] s t := by
  unfold execGetLogCommandsSupported
  refine ⟨_, rfl, ?_⟩
  refine State.admin_frame _ _ _ _ _ ?_ ?_ rfl
  · exact Frame.refl _ _
  · intro _
    intro _
    refine Frame.after ?_ (State.sendLog_frame _ _ _ _ _ _) rfl
    assumption

theorem execGetLogSanitizeStatus_frame (h : NvmeHdr) (dst : Nat) (len : Nat) (s : State) :
    ∃ t : State, execGetLogSanitizeStatus h dst len s = .next t ∧ Frame [.power, .ctxs, .nvme, .errs, .mgmt, .host, .freeCtr] s t := by
  unfold execGetLogSanitizeStatus
  refine ⟨_, rfl, ?_⟩
  refine State.admin_frame _ _ _ _ _ ?_ ?_ rfl
  · exact Frame.refl _ _
  · intro _
    intro _
    refine Frame.after ?_ (State.sendLog_frame _ _ _ _ _ _) rfl
    assumption

theorem execGetLogLacuna_frame (h : NvmeHdr) (lsf : Nat) (dst : Nat) (off : Nat) (len : Nat) (s : State) :
    ∃ t : State, execGetLogLacuna h lsf dst off len s = .next t ∧ Frame [.power, .ctxs, .nvme, .errs, .mgmt, .host, .freeCtr] s t := by
  unfold execGetLogLacuna
  refine ⟨_, rfl, ?_⟩
  refine State.admin_frame _ _ _ _ _ ?_ ?_ rfl
  · exact Frame.refl _ _
  · intro _
    intro _
    refine Frame.after ?_ (State.sendLog_frame _ _ _ _ _ _) rfl
    assumption

theorem execGetLogColophonStatistics_frame (h : NvmeHdr) (dst : Nat) (off : Nat) (len : Nat) (s : State) :
    ∃ t : State, execGetLogColophonStatistics h dst off len s = .next t ∧ Frame [.power, .ctxs, .nvme, .errs, .mgmt, .host, .freeCtr] s t := by
  unfold execGetLogColophonStatistics
  refine ⟨_, rfl, ?_⟩
  refine State.admin_frame _ _ _ _ _ ?_ ?_ rfl
  · exact Frame.refl _ _
  · intro _
    intro _
    refine Frame.after ?_ (State.sendLog_frame _ _ _ _ _ _) rfl
    assumption

theorem execGetLogAbortList_frame (h : NvmeHdr) (lsf : Nat) (dst : Nat) (len : Nat) (s : State) :
    ∃ t : State, execGetLogAbortList h lsf dst len s = .next t ∧ Frame [.power, .ctxs, .nvme, .errs, .mgmt, .host, .freeCtr] s t := by
  unfold execGetLogAbortList
  refine ⟨_, rfl, ?_⟩
  refine State.admin_frame _ _ _ _ _ ?_ ?_ rfl
  · exact Frame.refl _ _
  · intro _
    intro _
    extract_lets
    refine Frame.after ?_ (State.sendLog_frame _ _ _ _ _ _) rfl
    refine Frame.ite ?_ ?_
    · refine Frame.after ?_ (State.modCtl_frame _ _ _) rfl
      assumption
    · assumption

theorem execNamespaceManagementCreate_frame (h : NvmeHdr) (nsze : Nat) (flbas : Nat) (pi : Nat) (s : State) :
    ∃ t : State, execNamespaceManagementCreate h nsze flbas pi s = .next t ∧ Frame [.power, .ctxs, .nvme, .errs, .mgmt] s t := by
  unfold execNamespaceManagementCreate
  refine ⟨_, rfl, ?_⟩
  refine State.admin_frame _ _ _ _ _ ?_ ?_ rfl
  · exact Frame.refl _ _
  · intro _
    intro _
    extract_lets
    refine Frame.ite ?_ ?_
    · refine Frame.after ?_ (State.nvDone_frame _ _ _ _ _) rfl
      assumption
    · refine Frame.ite ?_ ?_
      · refine Frame.after ?_ (State.nvDone_frame _ _ _ _ _) rfl
        assumption
      · refine Frame.ite ?_ ?_
        · refine Frame.after ?_ (State.nvDone_frame _ _ _ _ _) rfl
          assumption
        · split
          · refine Frame.after ?_ (State.nvDone_frame _ _ _ _ _) rfl
            assumption
          · refine Frame.after ?_ (State.nvDone_frame _ _ _ _ _) rfl
            refine Frame.after ?_ (State.modNvme_frame _ _) rfl
            assumption

theorem execNamespaceManagementDelete_frame (h : NvmeHdr) (s : State) :
    ∃ t : State, execNamespaceManagementDelete h s = .next t ∧ Frame [.power, .ctxs, .nand, .store, .nvme, .errs, .mgmt] s t := by
  unfold execNamespaceManagementDelete
  refine ⟨_, rfl, ?_⟩
  refine State.admin_frame _ _ _ _ _ ?_ ?_ rfl
  · exact Frame.refl _ _
  · intro _
    intro _
    refine Frame.ite ?_ ?_
    · refine Frame.after ?_ (State.nvDone_frame _ _ _ _ _) rfl
      refine Frame.foldl _ ?_ (fun u x hu => ?_)
      · assumption
      · refine Frame.after ?_ (State.deleteNs_frame _ _) rfl
        assumption
    · refine Frame.ite ?_ ?_
      · refine Frame.after ?_ (State.nvDone_frame _ _ _ _ _) rfl
        assumption
      · refine Frame.after ?_ (State.nvDone_frame _ _ _ _ _) rfl
        refine Frame.after ?_ (State.deleteNs_frame _ _) rfl
        assumption

theorem execNamespaceAttachment_frame (h : NvmeHdr) (attach : Bool) (ctrls : List Nat) (s : State) :
    ∃ t : State, execNamespaceAttachment h attach ctrls s = .next t ∧ Frame [.power, .ctxs, .nvme, .errs, .mgmt] s t := by
  unfold execNamespaceAttachment
  refine ⟨_, rfl, ?_⟩
  refine State.admin_frame _ _ _ _ _ ?_ ?_ rfl
  · exact Frame.refl _ _
  · intro _
    intro _
    split
    · refine Frame.after ?_ (State.nvDone_frame _ _ _ _ _) rfl
      assumption
    · extract_lets
      refine Frame.ite ?_ ?_
      · refine Frame.after ?_ (State.nvDone_frame _ _ _ _ _) rfl
        assumption
      · refine Frame.ite ?_ ?_
        · refine Frame.after ?_ (State.nvDone_frame _ _ _ _ _) rfl
          assumption
        · refine Frame.ite ?_ ?_
          · refine Frame.after ?_ (State.nvDone_frame _ _ _ _ _) rfl
            assumption
          · refine Frame.after ?_ (State.nvDone_frame _ _ _ _ _) rfl
            refine Frame.after ?_ (State.nsChanged_frame _ _ _) rfl
            refine Frame.after ?_ (State.modNvme_frame _ _) rfl
            assumption

theorem execFirmwareImageDownload_frame (h : NvmeHdr) (off : Nat) (data : List Byte) (s : State) :
    ∃ t : State, execFirmwareImageDownload h off data s = .next t ∧ Frame [.power, .ctxs, .nvme, .errs, .mgmt] s t := by
  unfold execFirmwareImageDownload
  refine ⟨_, rfl, ?_⟩
  refine State.admin_frame _ _ _ _ _ ?_ ?_ rfl
  · exact Frame.refl _ _
  · intro _
    intro _
    refine Frame.ite ?_ ?_
    · refine Frame.after ?_ (State.nvDone_frame _ _ _ _ _) rfl
      assumption
    · refine Frame.after ?_ (State.nvDone_frame _ _ _ _ _) rfl
      refine Frame.after ?_ (State.modNvme_frame _ _) rfl
      assumption

theorem execFirmwareCommit_frame (h : NvmeHdr) (action : Nat) (slot : Nat) (img : FwImage) (s : State) :
    ∃ t : State, execFirmwareCommit h action slot img s = .next t ∧ Frame [.power, .ctxs, .store, .nvme, .errs, .mgmt] s t := by
  unfold execFirmwareCommit
  refine ⟨_, rfl, ?_⟩
  refine State.admin_frame _ _ _ _ _ ?_ ?_ rfl
  · exact Frame.refl _ _
  · intro _
    intro _
    extract_lets
    refine Frame.ite ?_ ?_
    · refine Frame.after ?_ (State.nvDone_frame _ _ _ _ _) rfl
      assumption
    · refine Frame.ite ?_ ?_
      · refine Frame.after ?_ (State.nvDone_frame _ _ _ _ _) rfl
        assumption
      · refine Frame.ite ?_ ?_
        · refine Frame.after ?_ (State.nvDone_frame _ _ _ _ _) rfl
          assumption
        · refine Frame.ite ?_ ?_
          · split
            · refine Frame.after ?_ (State.nvDone_frame _ _ _ _ _) rfl
              assumption
            · refine Frame.ite ?_ ?_
              · refine Frame.after ?_ (State.nvDone_frame _ _ _ _ _) rfl
                assumption
              · refine Frame.ite ?_ ?_
                · refine Frame.after ?_ (State.nvDone_frame _ _ _ _ _) rfl
                  assumption
                · refine Frame.after ?_ (State.nvDone_frame _ _ _ _ _) rfl
                  refine Frame.after ?_ (State.setSlot_frame _ _ _) rfl
                  assumption
          · refine Frame.after ?_ (State.modStore_frame _ _) rfl
            refine Frame.after ?_ (State.setSlot_frame _ _ _) rfl
            assumption

theorem execFormatNvm_frame (h : NvmeHdr) (lbaf : Nat) (pi : Nat) (ses : Nat) (ext : Bool) (s : State) :
    ∃ t : State, execFormatNvm h lbaf pi ses ext s = .next t ∧ Frame [.power, .ctxs, .nand, .store, .nvme, .errs, .mgmt] s t := by
  unfold execFormatNvm
  refine ⟨_, rfl, ?_⟩
  refine State.admin_frame _ _ _ _ _ ?_ ?_ rfl
  · exact Frame.refl _ _
  · intro _
    intro _
    refine Frame.ite ?_ ?_
    · refine Frame.after ?_ (State.nvDone_frame _ _ _ _ _) rfl
      assumption
    · refine Frame.ite ?_ ?_
      · refine Frame.after ?_ (State.nvDone_frame _ _ _ _ _) rfl
        assumption
      · refine Frame.ite ?_ ?_
        · refine Frame.after ?_ (State.nvDone_frame _ _ _ _ _) rfl
          assumption
        · extract_lets
          refine Frame.after ?_ (State.nvDone_frame _ _ _ _ _) rfl
          refine Frame.after ?_ (State.modNvme_frame _ _) rfl
          refine Frame.foldl _ ?_ (fun u x hu => ?_)
          · assumption
          · refine Frame.after ?_ (State.dropNsCache_frame _ _) rfl
            assumption

theorem execSecuritySend_frame (h : NvmeHdr) (cmd : OpalCmd) (s : State) :
    ∃ t : State, execSecuritySend h cmd s = .next t ∧ Frame [.power, .ctxs, .nvme, .errs, .mgmt, .freeCtr] s t := by
  unfold execSecuritySend
  refine ⟨_, rfl, ?_⟩
  refine State.admin_frame _ _ _ _ _ ?_ ?_ rfl
  · exact Frame.refl _ _
  · intro _
    intro _
    split
    · extract_lets
      refine Frame.ite ?_ ?_
      · refine Frame.after ?_ (State.nvDone_frame _ _ _ _ _) rfl
        assumption
      · refine Frame.after ?_ (State.nvDone_frame _ _ _ _ _) rfl
        refine Frame.after ?_ (State.modNvme_frame _ _) rfl
        assumption
    · refine Frame.ite ?_ ?_
      · refine Frame.after ?_ (State.nvDone_frame _ _ _ _ _) rfl
        assumption
      · refine Frame.after ?_ (State.nvDone_frame _ _ _ _ _) rfl
        refine Frame.after ?_ (State.modNvme_frame _ _) rfl
        assumption
    · refine Frame.ite ?_ ?_
      · refine Frame.after ?_ (State.nvDone_frame _ _ _ _ _) rfl
        assumption
      · extract_lets
        refine Frame.after ?_ (State.nvDone_frame _ _ _ _ _) rfl
        refine Frame.after ?_ (State.drawn_frame _) rfl
        refine Frame.after ?_ (State.modNvme_frame _ _) rfl
        assumption
    · refine Frame.after ?_ (State.nvDone_frame _ _ _ _ _) rfl
      refine Frame.after ?_ (State.modNvme_frame _ _) rfl
      assumption
    · refine Frame.ite ?_ ?_
      · refine Frame.after ?_ (State.nvDone_frame _ _ _ _ _) rfl
        assumption
      · refine Frame.after ?_ (State.nvDone_frame _ _ _ _ _) rfl
        refine Frame.after ?_ (State.modNvme_frame _ _) rfl
        assumption

theorem execSecurityReceive_frame (h : NvmeHdr) (dst : Nat) (s : State) :
    ∃ t : State, execSecurityReceive h dst s = .next t ∧ Frame [.power, .ctxs, .nvme, .errs, .mgmt, .host, .freeCtr] s t := by
  unfold execSecurityReceive
  refine ⟨_, rfl, ?_⟩
  refine State.admin_frame _ _ _ _ _ ?_ ?_ rfl
  · exact Frame.refl _ _
  · intro _
    intro _
    refine Frame.after ?_ (State.sendPage_frame _ _ _ _) rfl
    assumption

theorem execSanitizeBlockErase_frame (h : NvmeHdr) (s : State) :
    ∃ t : State, execSanitizeBlockErase h s = .next t ∧ Frame [.power, .ctxs, .objs, .nand, .store, .nvme, .errs, .mgmt] s t := by
  unfold execSanitizeBlockErase
  refine ⟨_, rfl, ?_⟩
  refine State.admin_frame _ _ _ _ _ ?_ ?_ rfl
  · exact Frame.refl _ _
  · intro _
    intro _
    refine Frame.after ?_ (State.sanitizeStart_frame _ _ _) rfl
    assumption

theorem execSanitizeCryptoErase_frame (h : NvmeHdr) (s : State) :
    ∃ t : State, execSanitizeCryptoErase h s = .next t ∧ Frame [.power, .ctxs, .objs, .nand, .store, .nvme, .errs, .mgmt] s t := by
  unfold execSanitizeCryptoErase
  refine ⟨_, rfl, ?_⟩
  refine State.admin_frame _ _ _ _ _ ?_ ?_ rfl
  · exact Frame.refl _ _
  · intro _
    intro _
    refine Frame.after ?_ (State.sanitizeStart_frame _ _ _) rfl
    assumption

theorem execSanitizeDone_frame (s : State) :
    ∃ t : State, execSanitizeDone s = .next t ∧ Frame [.nand, .nvme] s t := by
  unfold execSanitizeDone
  split
  · extract_lets
    refine ⟨_, rfl, ?_⟩
    refine Frame.ite ?_ ?_
    · refine Frame.after ?_ (State.modNand_frame _ _) rfl
      refine Frame.after ?_ (State.modNvme_frame _ _) rfl
      exact Frame.refl _ _
    · refine Frame.after ?_ (State.modNvme_frame _ _) rfl
      exact Frame.refl _ _
  · refine ⟨_, rfl, ?_⟩
    exact Frame.refl _ _

theorem execFlush_frame (h : NvmeHdr) (s : State) :
    ∃ t : State, execFlush h s = .next t ∧ Frame [.power, .ctxs, .nvme, .errs, .mgmt] s t := by
  unfold execFlush
  split
  · refine ⟨_, rfl, ?_⟩
    exact Frame.refl _ _
  · extract_lets
    split
    · refine ⟨_, rfl, ?_⟩
      refine Frame.after ?_ (State.nvDone_frame _ _ _ _ _) rfl
      refine Frame.after ?_ (State.begin_frame _ _ _) rfl
      exact Frame.refl _ _
    · split
      · refine ⟨_, rfl, ?_⟩
        refine Frame.after ?_ (State.nvDone_frame _ _ _ _ _) rfl
        refine Frame.after ?_ (State.begin_frame _ _ _) rfl
        exact Frame.refl _ _
      · refine ⟨_, rfl, ?_⟩
        refine Frame.ite ?_ ?_
        · refine Frame.after ?_ (State.nvDone_frame _ _ _ _ _) rfl
          refine Frame.after ?_ (State.begin_frame _ _ _) rfl
          exact Frame.refl _ _
        · refine Frame.after ?_ (State.modNvme_frame _ _) rfl
          refine Frame.after ?_ (State.begin_frame _ _ _) rfl
          exact Frame.refl _ _

theorem execWrite_frame (h : NvmeHdr) (slba : Nat) (nlb : Nat) (fua : Bool) (pract : Bool) (prchk : Nat) (pi : PiArgs) (data : List Byte) (s : State) :
    ∃ t : State, execWrite h slba nlb fua pract prchk pi data s = .next t ∧ Frame [.power, .ctxs, .nvme, .errs, .mgmt, .nextId] s t := by
  unfold execWrite
  refine ⟨_, rfl, ?_⟩
  refine State.nvm_frame _ _ _ _ _ ?_ ?_ rfl
  · exact Frame.refl _ _
  · intro _ _ _
    split
    · refine Frame.after ?_ (State.nvDone_frame _ _ _ _ _) rfl
      assumption
    · split
      · refine Frame.after ?_ (State.nvDone_frame _ _ _ _ _) rfl
        assumption
      · extract_lets
        refine Frame.ite ?_ ?_
        · refine Frame.after ?_ (State.nvDone_frame _ _ _ _ _) rfl
          assumption
        · split
          · refine Frame.after ?_ (State.nvDone_frame _ _ _ _ _) rfl
            assumption
          · refine Frame.after ?_ (State.submit_frame _ _) rfl
            assumption

theorem execRead_frame (h : NvmeHdr) (slba : Nat) (nlb : Nat) (pract : Bool) (prchk : Nat) (pi : PiArgs) (dst : Nat) (mdst : Nat) (s : State) :
    ∃ t : State, execRead h slba nlb pract prchk pi dst mdst s = .next t ∧ Frame [.power, .ctxs, .tests, .nvme, .errs, .ledger, .mgmt, .host, .freeCtr] s t := by
  unfold execRead
  refine ⟨_, rfl, ?_⟩
  refine State.nvm_frame _ _ _ _ _ ?_ ?_ rfl
  · exact Frame.refl _ _
  · intro _ _ _
    refine State.readRange_frame _ _ _ _ _ _ _ _ _ ?_ ?_ rfl
    · assumption
    · intro _ _ _
      extract_lets
      refine Frame.after ?_ (State.nvDone_frame _ _ _ _ _) rfl
      refine Frame.ite ?_ ?_
      · refine Frame.after ?_ (State.hostWrite_frame _ _ _) rfl
        assumption
      · refine Frame.after ?_ (State.hostWrite_frame _ _ _) rfl
        refine Frame.after ?_ (State.hostWrite_frame _ _ _) rfl
        assumption

theorem execCompare_frame (h : NvmeHdr) (slba : Nat) (nlb : Nat) (data : List Byte) (s : State) :
    ∃ t : State, execCompare h slba nlb data s = .next t ∧ Frame [.power, .ctxs, .tests, .nvme, .errs, .ledger, .mgmt, .freeCtr] s t := by
  unfold execCompare
  refine ⟨_, rfl, ?_⟩
  refine State.nvm_frame _ _ _ _ _ ?_ ?_ rfl
  · exact Frame.refl _ _
  · intro _ _ _
    refine State.readRange_frame _ _ _ _ _ _ _ _ _ ?_ ?_ rfl
    · assumption
    · intro _ _ _
      refine Frame.after ?_ (State.nvDone_frame _ _ _ _ _) rfl
      assumption

theorem execWriteZeroes_frame (h : NvmeHdr) (slba : Nat) (nlb : Nat) (fua : Bool) (s : State) :
    ∃ t : State, execWriteZeroes h slba nlb fua s = .next t ∧ Frame [.power, .ctxs, .nvme, .errs, .mgmt, .nextId] s t := by
  unfold execWriteZeroes
  refine ⟨_, rfl, ?_⟩
  refine State.nvm_frame _ _ _ _ _ ?_ ?_ rfl
  · exact Frame.refl _ _
  · intro _ _ _
    split
    · refine Frame.after ?_ (State.nvDone_frame _ _ _ _ _) rfl
      assumption
    · split
      · refine Frame.after ?_ (State.nvDone_frame _ _ _ _ _) rfl
        assumption
      · refine Frame.after ?_ (State.submit_frame _ _) rfl
        assumption

theorem execDatasetManagementDeallocate_frame (h : NvmeHdr) (ranges : List (Nat × Nat)) (s : State) :
    ∃ t : State, execDatasetManagementDeallocate h ranges s = .next t ∧ Frame [.power, .ctxs, .nvme, .errs, .mgmt, .nextId] s t := by
  unfold execDatasetManagementDeallocate
  refine ⟨_, rfl, ?_⟩
  refine State.nvm_frame _ _ _ _ _ ?_ ?_ rfl
  · exact Frame.refl _ _
  · intro _ _ _
    extract_lets
    refine Frame.ite ?_ ?_
    · refine Frame.after ?_ (State.nvDone_frame _ _ _ _ _) rfl
      assumption
    · refine Frame.ite ?_ ?_
      · refine Frame.after ?_ (State.nvDone_frame _ _ _ _ _) rfl
        assumption
      · split
        · refine Frame.after ?_ (State.nvDone_frame _ _ _ _ _) rfl
          assumption
        · refine Frame.ite ?_ ?_
          · refine Frame.after ?_ (State.nvDone_frame _ _ _ _ _) rfl
            assumption
          · refine Frame.after ?_ (State.submit_frame _ _) rfl
            assumption

theorem execVerify_frame (h : NvmeHdr) (slba : Nat) (nlb : Nat) (prchk : Nat) (pi : PiArgs) (s : State) :
    ∃ t : State, execVerify h slba nlb prchk pi s = .next t ∧ Frame [.power, .ctxs, .tests, .nvme, .errs, .ledger, .mgmt, .freeCtr] s t := by
  unfold execVerify
  refine ⟨_, rfl, ?_⟩
  refine State.nvm_frame _ _ _ _ _ ?_ ?_ rfl
  · exact Frame.refl _ _
  · intro _ _ _
    refine State.readRange_frame _ _ _ _ _ _ _ _ _ ?_ ?_ rfl
    · assumption
    · intro _ _ _
      refine Frame.after ?_ (State.nvDone_frame _ _ _ _ _) rfl
      assumption

theorem execCacheCommitStart_frame (die : Nat) (block : Nat) (wl : Nat) (items : List Nat) (s : State) :
    ∃ t : State, execCacheCommitStart die block wl items s = .next t ∧ Frame [.nand] s t := by
  unfold execCacheCommitStart
  extract_lets
  refine ⟨_, rfl, ?_⟩
  refine Frame.ite ?_ ?_
  · refine Frame.after ?_ (State.modDie_frame _ _ _) rfl
    refine Frame.after ?_ (State.modNand_frame _ _) rfl
    exact Frame.refl _ _
  · exact Frame.refl _ _

theorem execShutdownNotification_frame (fn : Nat) (abrupt : Bool) (s : State) :
    ∃ t : State, execShutdownNotification fn abrupt s = .next t ∧ Frame [.store, .nvme] s t := by
  unfold execShutdownNotification
  extract_lets
  refine ⟨_, rfl, ?_⟩
  refine Frame.ite ?_ ?_
  · refine Frame.after ?_ (State.finishShutdown_frame _) rfl
    refine Frame.after ?_ (State.modCtl_frame _ _ _) rfl
    exact Frame.refl _ _
  · exact Frame.refl _ _

theorem execMiReadDataStructure_frame (kind : Nat) (s : State) :
    ∃ t : State, execMiReadDataStructure kind s = .next t ∧ Frame [.mgmt, .freeCtr] s t := by
  unfold execMiReadDataStructure
  refine ⟨_, rfl, ?_⟩
  refine Frame.after ?_ (State.mi_frame _ _) rfl
  exact Frame.refl _ _

theorem execMiSubsystemHealthPoll_frame (s : State) :
    ∃ t : State, execMiSubsystemHealthPoll s = .next t ∧ Frame [.mgmt, .freeCtr] s t := by
  unfold execMiSubsystemHealthPoll
  refine ⟨_, rfl, ?_⟩
  refine Frame.after ?_ (State.mi_frame _ _) rfl
  exact Frame.refl _ _

theorem execMiControllerHealthPoll_frame (ctrl : Nat) (s : State) :
    ∃ t : State, execMiControllerHealthPoll ctrl s = .next t ∧ Frame [.mgmt, .freeCtr] s t := by
  unfold execMiControllerHealthPoll
  refine ⟨_, rfl, ?_⟩
  refine Frame.after ?_ (State.mi_frame _ _) rfl
  exact Frame.refl _ _

theorem execMiConfigurationGet_frame (cfg : Nat) (s : State) :
    ∃ t : State, execMiConfigurationGet cfg s = .next t ∧ Frame [.mgmt, .freeCtr] s t := by
  unfold execMiConfigurationGet
  refine ⟨_, rfl, ?_⟩
  refine Frame.after ?_ (State.mi_frame _ _) rfl
  exact Frame.refl _ _

theorem execMiConfigurationSet_frame (cfg : Nat) (value : Nat) (s : State) :
    ∃ t : State, execMiConfigurationSet cfg value s = .next t ∧ Frame [.mgmt, .freeCtr] s t := by
  unfold execMiConfigurationSet
  refine ⟨_, rfl, ?_⟩
  refine Frame.ite ?_ ?_
  · refine Frame.after ?_ (State.miReply_frame _ _) rfl
    refine Frame.after ?_ (State.modMgmt_frame _ _) rfl
    exact Frame.refl _ _
  · exact Frame.refl _ _

theorem execMiVpdRead_frame (_off : Nat) (len : Nat) (s : State) :
    ∃ t : State, execMiVpdRead _off len s = .next t ∧ Frame [.mgmt, .freeCtr] s t := by
  unfold execMiVpdRead
  refine ⟨_, rfl, ?_⟩
  refine Frame.after ?_ (State.mi_frame _ _) rfl
  exact Frame.refl _ _

theorem execMiTunneledIdentify_frame (cns : Nat) (s : State) :
    ∃ t : State, execMiTunneledIdentify cns s = .next t ∧ Frame [.mgmt, .freeCtr] s t := by
  unfold execMiTunneledIdentify
  refine ⟨_, rfl, ?_⟩
  refine Frame.after ?_ (State.mi_frame _ _) rfl
  exact Frame.refl _ _

theorem execMiTunneledGetLogPage_frame (lid : Nat) (s : State) :
    ∃ t : State, execMiTunneledGetLogPage lid s = .next t ∧ Frame [.mgmt, .freeCtr] s t := by
  unfold execMiTunneledGetLogPage
  refine ⟨_, rfl, ?_⟩
  refine Frame.after ?_ (State.mi_frame _ _) rfl
  exact Frame.refl _ _

theorem execMiErrorLogRead_frame (seq : Nat) (count : Nat) (s : State) :
    ∃ t : State, execMiErrorLogRead seq count s = .next t ∧ Frame [.mgmt, .freeCtr] s t := by
  unfold execMiErrorLogRead
  refine ⟨_, rfl, ?_⟩
  refine Frame.after ?_ (State.mi_frame _ _) rfl
  exact Frame.refl _ _

theorem execHostLinkReturn_frame (s : State) :
    ∃ t : State, execHostLinkReturn s = .next t ∧ Frame [.power, .ctxs, .arrays, .parts, .nand, .peer] s t := by
  unfold execHostLinkReturn
  split
  · extract_lets
    refine ⟨_, rfl, ?_⟩
    refine Frame.foldl _ ?_ (fun u x hu => ?_)
    · refine Frame.after ?_ (State.modPower_frame _ _) rfl
      exact Frame.refl _ _
    · refine Frame.after ?_ (State.resetCtx_frame _ _ _) rfl
      assumption
  · refine ⟨_, rfl, ?_⟩
    exact Frame.refl _ _

theorem execDieRecoveryOverrun_frame (die : Nat) (s : State) :
    ∃ t : State, execDieRecoveryOverrun die s = .next t ∧ Frame [.power, .time, .ctxs, .cmds, .objs, .arrays, .parts, .nand, .store, .nvme, .peer, .errs, .ledger, .mgmt, .host, .nextId, .freeCtr] s t := by
  unfold execDieRecoveryOverrun
  refine ⟨_, rfl, ?_⟩
  refine Frame.ite ?_ ?_
  · refine Frame.after ?_ (State.enterFailed_frame _ _) rfl
    exact Frame.refl _ _
  · exact Frame.refl _ _

theorem execAuxiliaryRailLoss_frame (s : State) :
    ∃ t : State, execAuxiliaryRailLoss s = .next t ∧ Frame [.power] s t := by
  unfold execAuxiliaryRailLoss
  refine ⟨_, rfl, ?_⟩
  refine Frame.after ?_ (State.modPower_frame _ _) rfl
  exact Frame.refl _ _

theorem execHoldUpEnergyExhausted_frame (written : Nat) (s : State) :
    ∃ t : State, execHoldUpEnergyExhausted written s = .next t ∧ Frame [.power, .time, .ctxs, .cmds, .objs, .arrays, .parts, .tests, .nand, .store, .nvme, .peer, .errs, .ledger, .mgmt, .freeCtr] s t := by
  unfold execHoldUpEnergyExhausted
  split
  · extract_lets
    refine ⟨_, rfl, ?_⟩
    refine Frame.after ?_ (State.powerOn_frame _ _) rfl
    refine Frame.after ?_ (State.modPower_frame _ _) rfl
    refine Frame.after ?_ (State.modStore_frame _ _) rfl
    exact Frame.refl _ _
  · refine ⟨_, rfl, ?_⟩
    exact Frame.refl _ _

theorem execPeerAlertReturnsHigh_frame (port : Nat) (s : State) :
    ∃ t : State, execPeerAlertReturnsHigh port s = .next t ∧ Frame [.peer] s t := by
  unfold execPeerAlertReturnsHigh
  refine ⟨_, rfl, ?_⟩
  refine Frame.ite ?_ ?_
  · refine Frame.after ?_ (State.modPort_frame _ _ _) rfl
    exact Frame.refl _ _
  · exact Frame.refl _ _

theorem execPeerLanesLeaveElectricalIdle_frame (port : Nat) (s : State) :
    ∃ t : State, execPeerLanesLeaveElectricalIdle port s = .next t ∧ Frame [.peer] s t := by
  unfold execPeerLanesLeaveElectricalIdle
  refine ⟨_, rfl, ?_⟩
  refine Frame.ite ?_ ?_
  · refine Frame.after ?_ (State.train_frame _ _) rfl
    refine Frame.after ?_ (State.modPort_frame _ _ _) rfl
    exact Frame.refl _ _
  · exact Frame.refl _ _

theorem execStorePageProgramDone_frame (s : State) :
    ∃ t : State, execStorePageProgramDone s = .next t ∧ Frame [.time, .ctxs, .cmds, .objs, .arrays, .parts, .nand, .store, .nvme, .peer, .errs, .mgmt, .host, .nextId, .freeCtr] s t := by
  unfold execStorePageProgramDone
  split
  · refine ⟨_, rfl, ?_⟩
    exact Frame.refl _ _
  · extract_lets
    split
    · refine ⟨_, rfl, ?_⟩
      exact Frame.refl _ _
    · split
      · refine ⟨_, rfl, ?_⟩
        exact Frame.refl _ _
      · refine ⟨_, rfl, ?_⟩
        exact Frame.refl _ _
      · refine ⟨_, rfl, ?_⟩
        refine Frame.after ?_ (State.modStore_frame _ _) rfl
        exact Frame.refl _ _
      · refine ⟨_, rfl, ?_⟩
        refine Frame.after ?_ (State.modStore_frame _ _) rfl
        exact Frame.refl _ _
      · refine ⟨_, rfl, ?_⟩
        refine Frame.after ?_ (State.modStore_frame _ _) rfl
        exact Frame.refl _ _
      · refine ⟨_, rfl, ?_⟩
        refine Frame.after ?_ (State.modStore_frame _ _) rfl
        exact Frame.refl _ _
      · refine ⟨_, rfl, ?_⟩
        refine Frame.after ?_ (State.modTime_frame _ _) rfl
        refine Frame.after ?_ (State.modStore_frame _ _) rfl
        exact Frame.refl _ _
      · refine ⟨_, rfl, ?_⟩
        refine Frame.ite ?_ ?_
        · refine Frame.after ?_ (State.modStore_frame _ _) rfl
          exact Frame.refl _ _
        · refine Frame.after ?_ (State.lacunaEvent_frame _) rfl
          refine Frame.after ?_ (State.copyRecord_frame _) rfl
          refine Frame.after ?_ (State.modStore_frame _ _) rfl
          exact Frame.refl _ _
      · split
        · refine ⟨_, rfl, ?_⟩
          refine Frame.after ?_ (State.modStore_frame _ _) rfl
          exact Frame.refl _ _
        · refine ⟨_, rfl, ?_⟩
          refine Frame.after ?_ (State.finishCommit_frame _ _ _ _) rfl
          refine Frame.after ?_ (State.modStore_frame _ _) rfl
          exact Frame.refl _ _
      · split
        · refine ⟨_, rfl, ?_⟩
          refine Frame.after ?_ (State.modStore_frame _ _) rfl
          exact Frame.refl _ _
        · refine ⟨_, rfl, ?_⟩
          refine Frame.after ?_ (State.recheck_frame _) rfl
          refine Frame.after ?_ (State.settle_frame _) rfl
          refine Frame.ite ?_ ?_
          · refine Frame.after ?_ (State.modStore_frame _ _) rfl
            exact Frame.refl _ _
          · refine Frame.after ?_ (State.finishBody_frame _ _) rfl
            refine Frame.after ?_ (finishInstall_frame _ _) rfl
            refine Frame.after ?_ (State.modStore_frame _ _) rfl
            exact Frame.refl _ _

theorem execPatrolScrub_frame (stack : Nat) (bank : Nat) (s : State) :
    ∃ t : State, execPatrolScrub stack bank s = .next t ∧ Frame [.nand] s t := by
  unfold execPatrolScrub
  refine ⟨_, rfl, ?_⟩
  refine Frame.ite ?_ ?_
  · refine Frame.after ?_ (State.modNand_frame _ _) rfl
    exact Frame.refl _ _
  · exact Frame.refl _ _

theorem execLedToggle_frame (s : State) :
    ∃ t : State, execLedToggle s = .next t ∧ Frame [.power] s t := by
  unfold execLedToggle
  refine ⟨_, rfl, ?_⟩
  refine Frame.ite ?_ ?_
  · refine Frame.after ?_ (State.modPower_frame _ _) rfl
    exact Frame.refl _ _
  · exact Frame.refl _ _

end Sys2Proof.Machine
end

