-- ==== Sys2Proof/Laws/KeepBase.lean ====
section
/-! SUPPORT. How steps that keep the invariant of Safety.lean compose, and the operations that touch what it speaks of: the
byte memories, the error log and the ledger ring. -/

namespace Sys2Proof.Machine

/-- The invariant passes from `s` to `t`. -/
def Keeps (s t : State) : Prop := s.Inv → t.Inv

theorem Keeps.refl (s : State) : Keeps s s := fun h => h

theorem Keeps.after {s t u : State} (h : Keeps s t) (h' : Keeps t u) : Keeps s u := fun x => h' (h x)

/-- The components that the invariant speaks of. -/
def Comp.watched (c : Comp) : Bool := [Comp.host, .objs, .nvme, .errs, .ledger].contains c

/-- An update that touches none of them keeps the invariant. -/
theorem Keeps.ofFrame {m : List Comp} {s t : State} (h : Frame m s t) (hm : m.any Comp.watched = false) : Keeps s t := by
  have hn : ∀ c : Comp, c.watched = true → c ∉ m := by
    intro c hc hx
    rw [List.any_eq_false] at hm
    exact hm c hx hc
  have e1 : t.host = s.host := h.same .host (hn _ rfl)
  have e2 : t.errs = s.errs := h.same .errs (hn _ rfl)
  have e3 : t.ledger = s.ledger := h.same .ledger (hn _ rfl)
  have e4 : t.objs = s.objs := h.same .objs (hn _ rfl)
  have e5 : t.nvme = s.nvme := h.same .nvme (hn _ rfl)
  intro x
  unfold State.Inv State.Canonical State.Bounded at *
  rw [e1, e2, e3, e4, e5]
  exact x

theorem Keeps.foldl {α : Type} {s t : State} {f : State → α → State} (l : List α) (h : Keeps s t)
    (hf : ∀ (u : State) (x : α), Keeps s u → Keeps s (f u x)) : Keeps s (l.foldl f t) := by
  induction l generalizing t with
  | nil => exact h
  | cons x l ih => exact ih (hf t x h)

theorem Keeps.foldr {α : Type} {s t : State} {f : α → State → State} (l : List α) (h : Keeps s t)
    (hf : ∀ (u : State) (x : α), Keeps s u → Keeps s (f x u)) : Keeps s (l.foldr f t) := by
  induction l with
  | nil => exact h
  | cons x l ih => exact hf _ x ih

theorem Keeps.getD {s t : State} {o : Option State} (h : Keeps s t) (ho : ∀ u : State, o = some u → Keeps s u) :
    Keeps s (o.getD t) := by
  cases o with
  | none => exact h
  | some u => exact ho u rfl

theorem Keeps.ite {s t u : State} {p : Prop} [Decidable p] (h : Keeps s t) (h' : Keeps s u) : Keeps s (if p then t else u) := by
  split <;> assumption

theorem Keeps.tryAll {α : Type} {s t u : State} {f : State → α → Option State} {l : List α} (h : Keeps s t)
    (hf : ∀ (v w : State) (x : α), Keeps s v → f v x = some w → Keeps s w) (hu : tryAll f l t = some u) : Keeps s u := by
  induction l generalizing t with
  | nil =>
    obtain rfl := Option.some.inj hu
    exact h
  | cons x l ih =>
    unfold Machine.tryAll at hu
    split at hu
    · cases hu
    · exact ih (hf _ _ _ h (by assumption)) hu

/-- A change of the error log that adds no record. -/
theorem Keeps.modErrs {s t : State} {f : ErrSt → ErrSt} (h : Keeps s t) (h1 : (f t.errs).staging.length ≤ t.errs.staging.length)
    (h2 : (f t.errs).ring.length = t.errs.ring.length) : Keeps s (t.modErrs f) := by
  intro x
  obtain ⟨a, b, c, d⟩ := h x
  exact ⟨a, le_trans h1 b, h2 ▸ c, d⟩

/-- A change of the ledger that closes no period. -/
theorem Keeps.modLedger {s t : State} {f : LedgerSt → LedgerSt} (h : Keeps s t)
    (h1 : (f t.ledger).ring.length = t.ledger.ring.length) : Keeps s (t.modLedger f) := by
  intro x
  obtain ⟨a, b, c, d⟩ := h x
  exact ⟨a, b, c, h1 ▸ d⟩

/-- A change of block storage that leaves the shadow MBR and the download buffer. -/
theorem Keeps.modNvme {s t : State} {f : NvmeSt → NvmeSt} (h : Keeps s t) (h1 : (f t.nvme).mbr = t.nvme.mbr)
    (h2 : (f t.nvme).fwBuf = t.nvme.fwBuf) : Keeps s (t.modNvme f) := by
  intro x
  obtain ⟨⟨a, b, c, d⟩, e⟩ := h x
  exact ⟨⟨a, b, by simpa only [State.modNvme, h1] using c, by simpa only [State.modNvme, h2] using d⟩, e⟩

/-- A change of block storage after which its two memories still stand in their canonical form. -/
theorem Keeps.modNvmeWf {s t : State} {f : NvmeSt → NvmeSt} (h : Keeps s t)
    (h1 : Mem.wf t.nvme.mbr = true → Mem.wf (f t.nvme).mbr = true)
    (h2 : Mem.wf t.nvme.fwBuf = true → Mem.wf (f t.nvme).fwBuf = true) : Keeps s (t.modNvme f) := by
  intro x
  obtain ⟨⟨a, b, c, d⟩, e⟩ := h x
  exact ⟨⟨a, b, h1 c, h2 d⟩, e⟩

theorem State.modCtl_keeps (s : State) (n : Nat) (f : Ctl → Ctl) : Keeps s (s.modCtl n f) :=
  Keeps.modNvme (Keeps.refl s) rfl rfl

theorem mem_tset {α : Type} {t : Table α} {k : Nat} {v : α} {p : Nat × α} (h : p ∈ tset t k v) : p = (k, v) ∨ p ∈ t := by
  induction t with
  | nil => simpa [tset] using h
  | cons q t ih =>
    obtain ⟨k', v'⟩ := q
    simp only [tset] at h
    split at h
    · simp only [List.mem_cons] at *
      tauto
    · split at h
      · simp only [List.mem_cons] at *
        tauto
      · simp only [List.mem_cons] at *
        rcases h with h | h
        · exact Or.inr (Or.inl h)
        · rcases ih h with h | h
          · exact Or.inl h
          · exact Or.inr (Or.inr h)

theorem mem_of_tfind {α : Type} {t : Table α} {k : Nat} {v : α} (h : tfind t k = some v) : (k, v) ∈ t := by
  induction t with
  | nil => cases h
  | cons q t ih =>
    obtain ⟨k', v'⟩ := q
    simp only [tfind] at h
    split at h
    · rename_i e
      cases h
      rw [e]
      exact List.mem_cons_self
    · exact List.mem_cons_of_mem _ (ih h)

/-- Any change of the object table after which every object's data stands in its canonical form. -/
theorem Keeps.objs {s t : State} {o : Table ObjectSt} (h : Keeps s t)
    (ho : (∀ p ∈ t.objs, Mem.wf p.2.data = true) → ∀ p ∈ o, Mem.wf p.2.data = true) : Keeps s { t with objs := o } := by
  intro x
  obtain ⟨⟨a, b, c⟩, d⟩ := h x
  exact ⟨⟨a, ho b, c⟩, d⟩

theorem Keeps.setObj {s t : State} {n : Nat} {x : ObjectSt} (h : Keeps s t) (hx : Mem.wf x.data = true) : Keeps s (t.setObj n x) :=
  h.objs (fun hp _ hq => by
    rcases mem_tset hq with rfl | hq
    · exact hx
    · exact hp _ hq)

theorem Keeps.modObj {s t : State} {n : Nat} {f : ObjectSt → ObjectSt} (h : Keeps s t)
    (hf : ∀ x : ObjectSt, Mem.wf x.data = true → Mem.wf (f x).data = true) : Keeps s (t.modObj n f) := by
  unfold State.modObj
  split
  · exact h
  · rename_i x hx
    exact h.objs (fun hp _ hq => by
      rcases mem_tset hq with rfl | hq
      · exact hf x (hp _ (mem_of_tfind hx))
      · exact hp _ hq)

/-- A change of every object that leaves its data. -/
theorem Keeps.tmapObjs {s t : State} {f : Nat → ObjectSt → ObjectSt} (h : Keeps s t) (hf : ∀ n x, (f n x).data = x.data) :
    Keeps s (t.modObjs (fun l => tmap l f)) :=
  h.objs (fun hp q hq => by
    obtain ⟨p, hp', rfl⟩ := List.mem_map.mp hq
    rw [hf]
    exact hp p hp')

/-- Some objects go. -/
theorem Keeps.subObjs {s t : State} {f : Table ObjectSt → Table ObjectSt} (h : Keeps s t) (hf : ∀ l, f l ⊆ l) : Keeps s (t.modObjs f) :=
  h.objs (fun hp q hq => hp q (hf _ hq))

theorem State.hostWrite_keeps (s : State) (a : Nat) (bs : List Byte) : Keeps s (s.hostWrite a bs) :=
  fun h => ⟨⟨mwrite_wf a bs h.1.1, h.1.2⟩, h.2⟩

theorem length_bumpLast (l : List ErrRec) : (bumpLast l).length = l.length := by
  induction l with
  | nil => rfl
  | cons r l ih =>
    cases l with
    | nil => rfl
    | cons r' l => simp only [bumpLast, List.length_cons] at *; omega

theorem length_bumpJoined (a : ErrArg) (l : List ErrRec) : (bumpJoined a l).length = l.length := by
  simp [bumpJoined]

theorem State.raiseNew_keeps (s : State) : Keeps s s.raiseNew := by
  unfold State.raiseNew
  extract_lets t
  have h : Keeps s t := Keeps.modErrs (Keeps.refl _) le_rfl rfl
  exact Keeps.ite (h.after (Keeps.ofFrame (State.signal_frame _ _ _) rfl)) h

/-- R431, R434: one record at most, and none into a full staging buffer. -/
theorem State.logErr_keeps (s : State) (a : ErrArg) : Keeps s (s.logErr a) := by
  intro x
  unfold State.logErr
  extract_lets now run
  split
  · refine Keeps.modErrs (Keeps.refl s) ?_ ?_ x
    · split
      · exact le_rfl
      · exact (length_bumpLast _).le
    · split
      · exact length_bumpLast _
      · rfl
  · split
    · exact Keeps.modErrs (Keeps.refl s) (length_bumpJoined _ _).le rfl x
    · rename_i hn
      refine State.raiseNew_keeps _ ?_
      obtain ⟨h1, h2, h3, h4⟩ := x
      refine ⟨h1, ?_, h3, h4⟩
      simp only [State.modErrs, List.length_append, List.length_cons, List.length_nil]
      omega

/-- R445: a closed record enters the ring, the oldest leaving a full one. -/
theorem State.addClosed_keeps (s : State) (r : Closed) : Keeps s (s.addClosed r) := by
  intro x
  unfold State.addClosed
  extract_lets full lost t
  have h : t.Inv := by
    obtain ⟨h1, h2, h3, h4⟩ := x
    refine ⟨h1, h2, h3, ?_⟩
    simp only [t, State.modLedger, List.length_append, List.length_cons, List.length_nil]
    by_cases hf : 1024 ≤ s.ledger.ring.length
    · have : full = true := decide_eq_true hf
      rw [this]
      simp only [if_true, List.length_tail]
      omega
    · have : full = false := decide_eq_false hf
      rw [this]
      simp only [Bool.false_eq_true, if_false]
      omega
  exact Keeps.ite (Keeps.ofFrame (State.signal_frame _ _ _) rfl) (Keeps.refl _) h

end Sys2Proof.Machine
end

