-- ==== Sys2Proof/Laws/KeepOps.lean ====
section
/-! SUPPORT. One law per shared operation that reaches host memory, the error log or the ledger: it keeps the invariant. -/

namespace Sys2Proof.Machine

theorem State.logVerdict_keeps (s : State) (t : TestSt) (kind : Nat) :
    Keeps s (State.logVerdict s t kind) := by
  unfold State.logVerdict
  refine Keeps.after ?_ (State.logErr_keeps _ _)
  exact Keeps.refl _

theorem State.abandonTests_keeps (s : State) (f : TestSt → Bool) :
    Keeps s (State.abandonTests s f) := by
  unfold State.abandonTests
  extract_lets
  refine Keeps.foldl _ ?_ (fun u x hu => ?_)
  · refine Keeps.after ?_ (Keeps.ofFrame (State.modTests_frame _ _) rfl)
    exact Keeps.refl _
  · refine Keeps.after ?_ (State.logVerdict_keeps _ _ _)
    assumption

theorem State.cpl_keeps (s : State) (c : NvmeCpl) :
    Keeps s (State.cpl s c) := by
  unfold State.cpl
  refine Keeps.after ?_ (Keeps.ofFrame (State.nvmeIrq_frame _ _ _) rfl)
  refine Keeps.modNvme ?_ rfl rfl
  exact Keeps.refl _

theorem State.asyncEvent_keeps (s : State) (fn : Nat) (dw0 : Nat) :
    Keeps s (State.asyncEvent s fn dw0) := by
  unfold State.asyncEvent
  split
  · refine Keeps.after ?_ (State.modCtl_keeps _ _ _)
    exact Keeps.refl _
  · refine Keeps.after ?_ (State.cpl_keeps _ _)
    refine Keeps.after ?_ (State.modCtl_keeps _ _ _)
    exact Keeps.refl _

theorem State.abortAdd_keeps (s : State) (fn : Nat) (es : List AbortEnt) :
    Keeps s (State.abortAdd s fn es) := by
  unfold State.abortAdd
  refine Keeps.ite ?_ ?_
  · exact Keeps.refl _
  · refine Keeps.after ?_ (State.asyncEvent_keeps _ _ _)
    refine Keeps.after ?_ (State.modCtl_keeps _ _ _)
    exact Keeps.refl _

theorem State.dropNvme_keeps (s : State) (f : NvmeHdr → Bool) :
    Keeps s (State.dropNvme s f) := by
  unfold State.dropNvme
  refine Keeps.modNvme ?_ rfl rfl
  exact Keeps.refl _

theorem State.abortFn_keeps (s : State) (fn : Nat) (reason : Nat) :
    Keeps s (State.abortFn s fn reason) := by
  unfold State.abortFn
  extract_lets
  refine Keeps.after ?_ (State.abortAdd_keeps _ _ _)
  refine Keeps.after ?_ (State.dropNvme_keeps _ _)
  exact Keeps.refl _

theorem State.logViol_keeps (s : State) (x1 : ErrArg) :
    Keeps s (State.logViol s x1) := by
  unfold State.logViol
  refine Keeps.after ?_ (Keeps.ofFrame (State.modCtx_frame _ _ _) rfl)
  refine Keeps.after ?_ (State.logErr_keeps _ _)
  exact Keeps.refl _

theorem State.markUndef_keeps (s : State) (o : Nat) (off : Nat) (len : Nat) :
    Keeps s (State.markUndef s o off len) := by
  unfold State.markUndef
  refine Keeps.ite ?_ ?_
  · exact Keeps.refl _
  · refine Keeps.after ?_ (Keeps.ofFrame (State.drawn_frame _) rfl)
    refine Keeps.modObj ?_ (fun _ hx => hx)
    exact Keeps.refl _

theorem State.markAll_keeps (s : State) (rs : List (Nat × Nat × Nat)) :
    Keeps s (State.markAll s rs) := by
  unfold State.markAll
  refine Keeps.foldl _ ?_ (fun u x hu => ?_)
  · exact Keeps.refl _
  · refine Keeps.after ?_ (State.markUndef_keeps _ _ _ _)
    assumption

theorem State.loseCmds_keeps (s : State) (cs : List Cmd) :
    Keeps s (State.loseCmds s cs) := by
  unfold State.loseCmds
  extract_lets
  refine Keeps.after ?_ (Keeps.ofFrame (State.modPeer_frame _ _) rfl)
  refine Keeps.after ?_ (Keeps.ofFrame (State.modCmds_frame _ _) rfl)
  refine Keeps.after ?_ (Keeps.ofFrame (State.dropWork_frame _ _) rfl)
  refine Keeps.foldl _ ?_ (fun u x hu => ?_)
  · exact Keeps.refl _
  · refine Keeps.ite ?_ ?_
    · refine Keeps.after ?_ (State.markAll_keeps _ _)
      assumption
    · assumption

theorem State.conclude_keeps (s : State) (uid : Nat) (st : Nat) (dw0 : Nat) (dw1 : Nat) :
    Keeps s (State.conclude s uid st dw0 dw1) := by
  unfold State.conclude
  split
  · exact Keeps.refl _
  · refine Keeps.ite ?_ ?_
    · exact Keeps.refl _
    · refine Keeps.ite ?_ ?_
      · extract_lets
        refine Keeps.after ?_ (State.loseCmds_keeps _ _)
        refine Keeps.after ?_ (State.abortAdd_keeps _ _ _)
        refine Keeps.after ?_ (Keeps.ofFrame (State.endOps_frame _ _ _) rfl)
        exact Keeps.refl _
      · extract_lets
        refine Keeps.after ?_ (Keeps.ofFrame (State.modPeer_frame _ _) rfl)
        refine Keeps.after ?_ (Keeps.ofFrame (State.bump_frame _) rfl)
        refine Keeps.after ?_ (Keeps.ofFrame (State.modCmd_frame _ _ _) rfl)
        refine Keeps.after ?_ (Keeps.ofFrame (State.dropWork_frame _ _) rfl)
        refine Keeps.after ?_ (Keeps.ofFrame (State.signalEvent_frame _ _ _) rfl)
        refine Keeps.ite ?_ ?_
        · refine Keeps.after ?_ (State.markAll_keeps _ _)
          refine Keeps.ite ?_ ?_
          · refine Keeps.after ?_ (Keeps.ofFrame (State.endOps_frame _ _ _) rfl)
            exact Keeps.refl _
          · exact Keeps.refl _
        · refine Keeps.ite ?_ ?_
          · refine Keeps.after ?_ (Keeps.ofFrame (State.endOps_frame _ _ _) rfl)
            exact Keeps.refl _
          · exact Keeps.refl _

theorem State.concludeAll_keeps (s : State) (f : Cmd → Bool) (st : Nat) :
    Keeps s (State.concludeAll s f st) := by
  unfold State.concludeAll
  refine Keeps.foldl _ ?_ (fun u x hu => ?_)
  · exact Keeps.refl _
  · refine Keeps.after ?_ (State.conclude_keeps _ _ _ _ _)
    assumption

theorem State.destroyObj_keeps (s : State) (o : Nat) :
    Keeps s (State.destroyObj s o) := by
  unfold State.destroyObj
  split
  · exact Keeps.refl _
  · extract_lets
    refine Keeps.after ?_ (Keeps.ofFrame (State.modStore_frame _ _) rfl)
    refine Keeps.subObjs ?_ (fun _ => List.filter_subset_self _)
    exact Keeps.refl _

theorem State.collect_keeps (s : State) (o : Nat) :
    Keeps s (State.collect s o) := by
  unfold State.collect
  split
  · exact Keeps.refl _
  · refine Keeps.ite ?_ ?_
    · refine Keeps.after ?_ (State.destroyObj_keeps _ _)
      exact Keeps.refl _
    · exact Keeps.refl _

theorem State.reap_keeps (s : State) (ctx : Nat) :
    Keeps s (State.reap s ctx) := by
  unfold State.reap
  extract_lets
  refine Keeps.foldl _ ?_ (fun u x hu => ?_)
  · refine Keeps.after ?_ (Keeps.ofFrame (State.modCtx_frame _ _ _) rfl)
    exact Keeps.refl _
  · refine Keeps.after ?_ (State.collect_keeps _ _)
    assumption

theorem State.faultCtx_keeps (s : State) (ctx : Nat) (cls : Nat) (addr : Nat) (status : Nat) (queue : Nat) (cid : Nat) :
    Keeps s (State.faultCtx s ctx cls addr status queue cid) := by
  unfold State.faultCtx
  extract_lets
  refine Keeps.ite ?_ ?_
  · refine Keeps.after ?_ (State.reap_keeps _ _)
    refine Keeps.after ?_ (Keeps.ofFrame (State.drainAll_frame _ _) rfl)
    refine Keeps.after ?_ (Keeps.ofFrame (State.releaseJob_frame _ _) rfl)
    refine Keeps.after ?_ (State.concludeAll_keeps _ _ _)
    refine Keeps.after ?_ (Keeps.ofFrame (State.endOps_frame _ _ _) rfl)
    refine Keeps.after ?_ (Keeps.ofFrame (State.modCtx_frame _ _ _) rfl)
    refine Keeps.after ?_ (State.logViol_keeps _ _)
    exact Keeps.refl _
  · refine Keeps.after ?_ (State.logViol_keeps _ _)
    exact Keeps.refl _

theorem State.checkHead_keeps (s : State) (ctx : Nat) (q : Nat) :
    Keeps s (State.checkHead s ctx q) := by
  unfold State.checkHead
  split
  · exact Keeps.refl _
  · split
    · exact Keeps.refl _
    · refine Keeps.ite ?_ ?_
      · refine Keeps.after ?_ (State.faultCtx_keeps _ _ _ _ _ _ _)
        exact Keeps.refl _
      · exact Keeps.refl _

theorem State.checkHeads_keeps (s : State) (ctx : Nat) :
    Keeps s (State.checkHeads s ctx) := by
  unfold State.checkHeads
  refine Keeps.foldl _ ?_ (fun u x hu => ?_)
  · exact Keeps.refl _
  · refine Keeps.after ?_ (State.checkHead_keeps _ _ _)
    assumption

theorem State.recheck_keeps (s : State) :
    Keeps s (State.recheck s) := by
  unfold State.recheck
  refine Keeps.foldl _ ?_ (fun u x hu => ?_)
  · exact Keeps.refl _
  · refine Keeps.after ?_ (State.checkHeads_keeps _ _)
    assumption

theorem State.finishBody_keeps (c : Cmd) (r : BodyOut) :
    Keeps r.1 (State.finishBody c r) := by
  unfold State.finishBody
  split
  · exact Keeps.refl _
  · extract_lets
    refine Keeps.ite ?_ ?_
    · refine Keeps.after ?_ (State.faultCtx_keeps _ _ _ _ _ _ _)
      refine Keeps.after ?_ (State.conclude_keeps _ _ _ _ _)
      exact Keeps.refl _
    · refine Keeps.after ?_ (State.conclude_keeps _ _ _ _ _)
      exact Keeps.refl _

theorem doObjCreate_keeps (s : State) (ctx : Nat) (oid : Nat) (pages : Nat) (word : Nat) (kind : Nat) (h : Nat) (l : Nat) (p : Nat) (d : Nat) :
    Keeps s (doObjCreate s ctx oid pages word kind h l p d).1 := by
  unfold doObjCreate
  extract_lets
  split
  · refine Keeps.after ?_ (Keeps.ofFrame (ends_frame _ _) rfl)
    exact Keeps.refl _
  · split
    · refine Keeps.after ?_ (Keeps.ofFrame (ends_frame _ _) rfl)
      exact Keeps.refl _
    · split
      · refine Keeps.after ?_ (Keeps.ofFrame (ends_frame _ _) rfl)
        exact Keeps.refl _
      · dsimp only
        refine Keeps.after ?_ (Keeps.ofFrame (State.mapObj_frame _ _ _ _ _) rfl)
        refine Keeps.after ?_ (Keeps.ofFrame (State.bump_frame _) rfl)
        refine Keeps.setObj ?_ rfl
        exact Keeps.refl _

theorem doObjShare_keeps (s : State) (ctx : Nat) (h : Nat) (grantee : Nat) (rights : Nat) :
    Keeps s (doObjShare s ctx h grantee rights).1 := by
  unfold doObjShare
  split
  · refine Keeps.after ?_ (Keeps.ofFrame (ends_frame _ _) rfl)
    exact Keeps.refl _
  · split
    · refine Keeps.after ?_ (Keeps.ofFrame (ends_frame _ _) rfl)
      exact Keeps.refl _
    · split
      · refine Keeps.after ?_ (Keeps.ofFrame (ends_frame _ _) rfl)
        exact Keeps.refl _
      · refine Keeps.after ?_ (Keeps.ofFrame (ends_frame _ _) rfl)
        refine Keeps.modObj ?_ (fun _ hx => hx)
        exact Keeps.refl _

theorem doObjUnshare_keeps (s : State) (ctx : Nat) (h : Nat) (grantee : Nat) :
    Keeps s (doObjUnshare s ctx h grantee).1 := by
  unfold doObjUnshare
  split
  · refine Keeps.after ?_ (Keeps.ofFrame (ends_frame _ _) rfl)
    exact Keeps.refl _
  · split
    · refine Keeps.after ?_ (Keeps.ofFrame (ends_frame _ _) rfl)
      exact Keeps.refl _
    · refine Keeps.after ?_ (Keeps.ofFrame (ends_frame _ _) rfl)
      refine Keeps.modObj ?_ (fun _ hx => hx)
      exact Keeps.refl _

theorem doObjRelease_keeps (s : State) (ctx : Nat) (h : Nat) (destroy : Bool) :
    Keeps s (doObjRelease s ctx h destroy).1 := by
  unfold doObjRelease
  split
  · refine Keeps.after ?_ (Keeps.ofFrame (ends_frame _ _) rfl)
    exact Keeps.refl _
  · split
    · refine Keeps.after ?_ (Keeps.ofFrame (ends_frame _ _) rfl)
      exact Keeps.refl _
    · split
      · refine Keeps.after ?_ (Keeps.ofFrame (ends_frame _ _) rfl)
        exact Keeps.refl _
      · extract_lets
        dsimp only
        refine Keeps.ite ?_ ?_
        · refine Keeps.modObj ?_ (fun _ hx => hx)
          refine Keeps.after ?_ (Keeps.ofFrame (State.modCtx_frame _ _ _) rfl)
          exact Keeps.refl _
        · refine Keeps.after ?_ (Keeps.ofFrame (State.modCtx_frame _ _ _) rfl)
          exact Keeps.refl _

theorem doObjPlace_keeps (s : State) (ctx : Nat) (h : Nat) (word : Nat) :
    Keeps s (doObjPlace s ctx h word).1 := by
  unfold doObjPlace
  split
  · refine Keeps.after ?_ (Keeps.ofFrame (ends_frame _ _) rfl)
    exact Keeps.refl _
  · split
    · refine Keeps.after ?_ (Keeps.ofFrame (ends_frame _ _) rfl)
      exact Keeps.refl _
    · refine Keeps.after ?_ (Keeps.ofFrame (ends_frame _ _) rfl)
      refine Keeps.modObj ?_ (fun _ hx => hx)
      exact Keeps.refl _

theorem doObjQuery_keeps (s : State) (ctx : Nat) (h : Nat) (buf : Nat) :
    Keeps s (doObjQuery s ctx h buf).1 := by
  unfold doObjQuery
  split
  · refine Keeps.after ?_ (Keeps.ofFrame (ends_frame _ _) rfl)
    exact Keeps.refl _
  · split
    · refine Keeps.after ?_ (Keeps.ofFrame (ends_frame _ _) rfl)
      exact Keeps.refl _
    · extract_lets
      refine Keeps.after ?_ (Keeps.ofFrame (ends_frame _ _) rfl)
      refine Keeps.after ?_ (State.hostWrite_keeps _ _ _)
      exact Keeps.refl _

theorem State.dropCopies_keeps (s : State) (parts : List Nat) (specOnly : Bool) :
    Keeps s (State.dropCopies s parts specOnly) := by
  unfold State.dropCopies
  refine Keeps.tmapObjs ?_ (fun _ x => by split <;> rfl)
  exact Keeps.refl _

theorem State.evict_keeps (s : State) (parts : List Nat) (tier : Nat) (die : Nat) (t : State) :
    State.evict s parts tier die = some t → Keeps s t := by
  intro h
  obtain ⟨v, -, rfl⟩ := Option.map_eq_some_iff.mp h
  refine Keeps.modObj (Keeps.refl _) (fun x hx => ?_)
  split <;> exact hx

theorem State.evictFor_keeps (s : State) (parts : List Nat) (w : Nat) (page : Nat) :
    ∀ t, State.evictFor s parts w page = some t → Keeps s t.1 := by
  intro t h
  obtain ⟨k, -, hk⟩ := List.exists_of_findSome?_eq_some h
  obtain ⟨d, -, hd⟩ := List.exists_of_findSome?_eq_some hk
  split at hd
  · rename_i s' hs
    split at hd
    · obtain rfl := Option.some.inj hd
      exact State.evict_keeps _ _ _ _ _ hs
    · cases hd
  · cases hd

theorem State.backPage_keeps (s : State) (o : Nat) (page : Nat) (t : State) :
    State.backPage s o page = some t → Keeps s t := by
  intro h
  unfold State.backPage at h
  split at h
  · cases h
  · rename_i x hx
    have hp : ∀ (u : State) (td : Nat × Nat), Keeps s u →
        Keeps s (u.modObj o (fun x => { x with pageTab := tset x.pageTab page (PageSt.fresh td u.time.now) })) :=
      fun u td hu => hu.modObj (fun _ hx => hx)
    have h1 : Keeps s (s.dropCopies (s.homeParts x.part) true) := State.dropCopies_keeps _ _ _
    have h2 : Keeps s (s.dropCopies (List.range 8) false) := State.dropCopies_keeps _ _ _
    split at h
    · obtain rfl := Option.some.inj h
      exact Keeps.refl _
    · extract_lets parts put at h
      split at h
      · obtain rfl := Option.some.inj h
        exact hp s _ (Keeps.refl _)
      · split at h
        · obtain rfl := Option.some.inj h
          exact hp _ _ h1
        · split at h
          · obtain rfl := Option.some.inj h
            exact hp _ _ h2
          · obtain ⟨r, hr, rfl⟩ := Option.map_eq_some_iff.mp h
            exact hp r.1 _ (h2.after (State.evictFor_keeps _ _ _ _ _ hr))

theorem State.backAll_keeps (x0 : State) (x1 : Nat) (x2 : List Nat) (t : State) :
    State.backAll x0 x1 x2 = some t → Keeps x0 t := by
  intro h
  induction x2 generalizing x0 with
  | nil =>
    obtain rfl := Option.some.inj h
    exact Keeps.refl _
  | cons p ps ih =>
    unfold State.backAll at h
    split at h
    · cases h
    · rename_i s1 hs
      exact (State.backPage_keeps _ _ _ _ hs).after (ih _ h)

theorem State.tagRange_keeps (s : State) (o : Nat) (off : Nat) (len : Nat) (layout : Nat) :
    Keeps s (State.tagRange s o off len layout) := by
  unfold State.tagRange
  refine Keeps.modObj ?_ (fun _ hx => hx)
  exact Keeps.refl _

theorem State.objWrite_keeps (s : State) (o : Nat) (off : Nat) (bs : List Byte) :
    Keeps s (State.objWrite s o off bs) := by
  unfold State.objWrite
  exact Keeps.modObj (Keeps.refl _) (fun x hx => mwrite_wf _ _ hx)

theorem State.cmdWrite_keeps (s : State) (uid : Nat) (o : Nat) (off : Nat) (layout : Nat) (bs : List Byte) (t : State) :
    State.cmdWrite s uid o off layout bs = some t → Keeps s t := by
  intro h
  unfold State.cmdWrite at h
  dsimp only at h
  split at h
  · cases h
  · rename_i s1 hs
    have h2 : Keeps s ((s1.objWrite o off bs).tagRange o off bs.length layout) :=
      ((State.backAll_keeps _ _ _ _ hs).after (State.objWrite_keeps _ _ _ _)).after (State.tagRange_keeps _ _ _ _ _)
    split at h
    · obtain rfl := Option.some.inj h
      exact h2
    · split at h
      · obtain rfl := Option.some.inj h
        exact ((h2.after (Keeps.ofFrame (State.modNand_frame _ _) rfl)).after (Keeps.ofFrame (State.modCmd_frame _ _ _) rfl)).after
          (Keeps.ofFrame (State.bumpBy_frame _ _) rfl)
      · obtain rfl := Option.some.inj h
        exact h2

theorem doCopyIn_keeps (s : State) (uid : Nat) (ctx : Nat) (h : Nat) (off : Nat) (layout : Nat) (data : List Byte) :
    Keeps s (doCopyIn s uid ctx h off layout data).1 := by
  unfold doCopyIn
  split
  · refine Keeps.after ?_ (Keeps.ofFrame (ends_frame _ _) rfl)
    exact Keeps.refl _
  · split
    · refine Keeps.after ?_ (Keeps.ofFrame (ends_frame _ _) rfl)
      exact Keeps.refl _
    · refine Keeps.after ?_ (Keeps.ofFrame (copyEnd_frame _ _) rfl)
      refine Keeps.after ?_ (State.cmdWrite_keeps _ _ _ _ _ _ _ (by assumption))
      exact Keeps.refl _

theorem State.useRange_keeps (s : State) (o : Nat) (off : Nat) (len : Nat) :
    Keeps s (State.useRange s o off len) := by
  unfold State.useRange
  refine Keeps.modObj ?_ (fun _ hx => hx)
  exact Keeps.refl _

theorem doCopyOut_keeps (s : State) (ctx : Nat) (h : Nat) (off : Nat) (host : Nat) (len : Nat) :
    Keeps s (doCopyOut s ctx h off host len).1 := by
  unfold doCopyOut
  split
  · refine Keeps.after ?_ (Keeps.ofFrame (ends_frame _ _) rfl)
    exact Keeps.refl _
  · split
    · refine Keeps.after ?_ (Keeps.ofFrame (ends_frame _ _) rfl)
      exact Keeps.refl _
    · refine Keeps.after ?_ (Keeps.ofFrame (ends_frame _ _) rfl)
      refine Keeps.after ?_ (State.hostWrite_keeps _ _ _)
      refine Keeps.after ?_ (State.useRange_keeps _ _ _ _)
      exact Keeps.refl _

theorem doCopy_keeps (s : State) (uid : Nat) (ctx : Nat) (src : Nat) (dst : Nat) (soff : Nat) (doff : Nat) (len : Nat) (layout : Nat) :
    Keeps s (doCopy s uid ctx src dst soff doff len layout).1 := by
  unfold doCopy
  split
  · split
    · refine Keeps.after ?_ (Keeps.ofFrame (ends_frame _ _) rfl)
      exact Keeps.refl _
    · split
      · refine Keeps.after ?_ (Keeps.ofFrame (ends_frame _ _) rfl)
        exact Keeps.refl _
      · refine Keeps.after ?_ (Keeps.ofFrame (copyEnd_frame _ _) rfl)
        refine Keeps.after ?_ (State.cmdWrite_keeps _ _ _ _ _ _ _ (by assumption))
        refine Keeps.after ?_ (State.useRange_keeps _ _ _ _)
        exact Keeps.refl _
  · refine Keeps.after ?_ (Keeps.ofFrame (ends_frame _ _) rfl)
    exact Keeps.refl _

theorem State.backRanges_keeps (s : State) (rs : List (Nat × Nat × Nat)) (t : State) :
    State.backRanges s rs = some t → Keeps s t := by
  intro h
  exact Keeps.tryAll (Keeps.refl _) (fun u v x hu hv => hu.after (State.backAll_keeps _ _ _ _ hv)) h

theorem State.startOp_keeps (s : State) (c : Cmd) (mode : Nat) (seq : Nat) (t : State) :
    State.startOp s c mode seq = some t → Keeps s t := by
  intro h
  unfold State.startOp at h
  dsimp only at h
  split at h
  · cases h
  · rename_i s1 hs
    obtain rfl := Option.some.inj h
    refine Keeps.foldl _ ?_ (fun u x hu => hu.after (Keeps.ofFrame (State.sendShare_frame _ _ _ _) rfl))
    refine Keeps.after ?_ (Keeps.ofFrame (State.sendAll_frame _ _ _ _ _) rfl)
    refine Keeps.after ?_ (Keeps.ofFrame (State.modPeer_frame _ _) rfl)
    exact State.backRanges_keeps _ _ _ hs

theorem State.startRun_keeps (s : State) (c : Cmd) (mode : Nat) (seq : Nat) (plan : List TilePlan) :
    Keeps s (State.startRun s c mode seq plan).1 := by
  unfold State.startRun
  extract_lets
  split
  · dsimp only
    refine Keeps.after ?_ (Keeps.ofFrame (State.modCmd_frame _ _ _) rfl)
    refine Keeps.ite ?_ ?_
    · refine Keeps.getD ?_ (fun u hu => ?_)
      · exact Keeps.refl _
      · refine Keeps.after ?_ (State.backRanges_keeps _ _ _ (by assumption))
        exact Keeps.refl _
    · exact Keeps.refl _
  · extract_lets
    split
    · dsimp only
      refine Keeps.after ?_ (Keeps.ofFrame (State.modCmd_frame _ _ _) rfl)
      refine Keeps.after ?_ (Keeps.ofFrame (State.modCmd_frame _ _ _) rfl)
      refine Keeps.ite ?_ ?_
      · refine Keeps.getD ?_ (fun u hu => ?_)
        · exact Keeps.refl _
        · refine Keeps.after ?_ (State.backRanges_keeps _ _ _ (by assumption))
          exact Keeps.refl _
      · exact Keeps.refl _
    · split
      · dsimp only
        refine Keeps.after ?_ (State.startOp_keeps _ _ _ _ _ (by assumption))
        refine Keeps.after ?_ (Keeps.ofFrame (State.modCmd_frame _ _ _) rfl)
        refine Keeps.after ?_ (Keeps.ofFrame (State.modCmd_frame _ _ _) rfl)
        refine Keeps.ite ?_ ?_
        · refine Keeps.getD ?_ (fun u hu => ?_)
          · exact Keeps.refl _
          · refine Keeps.after ?_ (State.backRanges_keeps _ _ _ (by assumption))
            exact Keeps.refl _
        · exact Keeps.refl _
      · dsimp only
        refine Keeps.after ?_ (Keeps.ofFrame (State.modCmd_frame _ _ _) rfl)
        refine Keeps.after ?_ (Keeps.ofFrame (State.modCmd_frame _ _ _) rfl)
        refine Keeps.ite ?_ ?_
        · refine Keeps.getD ?_ (fun u hu => ?_)
          · exact Keeps.refl _
          · refine Keeps.after ?_ (State.backRanges_keeps _ _ _ (by assumption))
            exact Keeps.refl _
        · exact Keeps.refl _

theorem doIndexSeal_keeps (s : State) (uid : Nat) (ctx : Nat) (h : Nat) :
    Keeps s (doIndexSeal s uid ctx h).1 := by
  unfold doIndexSeal
  split
  · refine Keeps.after ?_ (Keeps.ofFrame (ends_frame _ _) rfl)
    exact Keeps.refl _
  · split
    · refine Keeps.after ?_ (Keeps.ofFrame (ends_frame _ _) rfl)
      exact Keeps.refl _
    · split
      · refine Keeps.after ?_ (Keeps.ofFrame (ends_frame _ _) rfl)
        exact Keeps.refl _
      · split
        · refine Keeps.after ?_ (Keeps.ofFrame (ends_frame _ _) rfl)
          exact Keeps.refl _
        · split
          · refine Keeps.after ?_ (Keeps.ofFrame (ends_frame _ _) rfl)
            exact Keeps.refl _
          · extract_lets
            split
            · refine Keeps.after ?_ (Keeps.ofFrame (ends_frame _ _) rfl)
              exact Keeps.refl _
            · split
              · refine Keeps.after ?_ (Keeps.ofFrame (ends_frame _ _) rfl)
                exact Keeps.refl _
              · extract_lets
                dsimp only
                refine Keeps.after ?_ (Keeps.ofFrame (State.modCmd_frame _ _ _) rfl)
                refine Keeps.modObj ?_ (fun _ hx => hx)
                refine Keeps.tryAll ?_ (fun u v x hu hv => ?_) (by assumption)
                · exact Keeps.refl _
                · refine Keeps.after ?_ (State.cmdWrite_keeps _ _ _ _ _ _ _ (by assumption))
                  assumption

theorem State.startBody_keeps (s0 : State) (c : Cmd) :
    Keeps s0 (State.startBody s0 c).1 := by
  unfold State.startBody
  extract_lets
  split
  · refine Keeps.after ?_ (Keeps.ofFrame (doQueueCreate_frame _ _ _ _ _ _ _ _ _) rfl)
    refine Keeps.after ?_ (Keeps.ofFrame (State.modCmd_frame _ _ _) rfl)
    exact Keeps.refl _
  · refine Keeps.after ?_ (Keeps.ofFrame (doQueueDestroy_frame _ _ _) rfl)
    refine Keeps.after ?_ (Keeps.ofFrame (State.modCmd_frame _ _ _) rfl)
    exact Keeps.refl _
  · refine Keeps.after ?_ (doObjCreate_keeps _ _ _ _ _ _ _ _ _ _)
    refine Keeps.after ?_ (Keeps.ofFrame (State.modCmd_frame _ _ _) rfl)
    exact Keeps.refl _
  · refine Keeps.after ?_ (Keeps.ofFrame (doObjOpen_frame _ _ _ _) rfl)
    refine Keeps.after ?_ (Keeps.ofFrame (State.modCmd_frame _ _ _) rfl)
    exact Keeps.refl _
  · refine Keeps.after ?_ (doObjShare_keeps _ _ _ _ _)
    refine Keeps.after ?_ (Keeps.ofFrame (State.modCmd_frame _ _ _) rfl)
    exact Keeps.refl _
  · refine Keeps.after ?_ (doObjUnshare_keeps _ _ _ _)
    refine Keeps.after ?_ (Keeps.ofFrame (State.modCmd_frame _ _ _) rfl)
    exact Keeps.refl _
  · refine Keeps.after ?_ (Keeps.ofFrame (doObjRetain_frame _ _ _) rfl)
    refine Keeps.after ?_ (Keeps.ofFrame (State.modCmd_frame _ _ _) rfl)
    exact Keeps.refl _
  · refine Keeps.after ?_ (doObjRelease_keeps _ _ _ _)
    refine Keeps.after ?_ (Keeps.ofFrame (State.modCmd_frame _ _ _) rfl)
    exact Keeps.refl _
  · refine Keeps.after ?_ (doObjPlace_keeps _ _ _ _)
    refine Keeps.after ?_ (Keeps.ofFrame (State.modCmd_frame _ _ _) rfl)
    exact Keeps.refl _
  · refine Keeps.after ?_ (doObjQuery_keeps _ _ _ _)
    refine Keeps.after ?_ (Keeps.ofFrame (State.modCmd_frame _ _ _) rfl)
    exact Keeps.refl _
  · refine Keeps.after ?_ (Keeps.ofFrame (doEventCreate_frame _ _ _ _) rfl)
    refine Keeps.after ?_ (Keeps.ofFrame (State.modCmd_frame _ _ _) rfl)
    exact Keeps.refl _
  · refine Keeps.after ?_ (Keeps.ofFrame (doEventDestroy_frame _ _ _) rfl)
    refine Keeps.after ?_ (Keeps.ofFrame (State.modCmd_frame _ _ _) rfl)
    exact Keeps.refl _
  · refine Keeps.after ?_ (Keeps.ofFrame (doEventClear_frame _ _ _) rfl)
    refine Keeps.after ?_ (Keeps.ofFrame (State.modCmd_frame _ _ _) rfl)
    exact Keeps.refl _
  · refine Keeps.after ?_ (Keeps.ofFrame (doInstall_frame _ _ _ _ _ _ _) rfl)
    refine Keeps.after ?_ (Keeps.ofFrame (State.modCmd_frame _ _ _) rfl)
    exact Keeps.refl _
  · refine Keeps.after ?_ (Keeps.ofFrame (doPriority_frame _ _ _ _ _ _) rfl)
    refine Keeps.after ?_ (Keeps.ofFrame (State.modCmd_frame _ _ _) rfl)
    exact Keeps.refl _
  · refine Keeps.after ?_ (Keeps.ofFrame (doJobEnd_frame _ _) rfl)
    refine Keeps.after ?_ (Keeps.ofFrame (State.modCmd_frame _ _ _) rfl)
    exact Keeps.refl _
  · refine Keeps.after ?_ (doCopyIn_keeps _ _ _ _ _ _ _)
    refine Keeps.after ?_ (Keeps.ofFrame (State.modCmd_frame _ _ _) rfl)
    exact Keeps.refl _
  · refine Keeps.after ?_ (doCopyOut_keeps _ _ _ _ _ _)
    refine Keeps.after ?_ (Keeps.ofFrame (State.modCmd_frame _ _ _) rfl)
    exact Keeps.refl _
  · refine Keeps.after ?_ (doCopy_keeps _ _ _ _ _ _ _ _ _)
    refine Keeps.after ?_ (Keeps.ofFrame (State.modCmd_frame _ _ _) rfl)
    exact Keeps.refl _
  · refine Keeps.after ?_ (Keeps.ofFrame (ends_frame _ _) rfl)
    refine Keeps.after ?_ (Keeps.ofFrame (State.modCmd_frame _ _ _) rfl)
    exact Keeps.refl _
  · refine Keeps.after ?_ (State.startRun_keeps _ _ _ _ _)
    refine Keeps.after ?_ (Keeps.ofFrame (State.modCmd_frame _ _ _) rfl)
    exact Keeps.refl _
  · refine Keeps.after ?_ (Keeps.ofFrame (State.startSearch_frame _ _) rfl)
    refine Keeps.after ?_ (Keeps.ofFrame (State.modCmd_frame _ _ _) rfl)
    exact Keeps.refl _
  · refine Keeps.after ?_ (doIndexSeal_keeps _ _ _ _)
    refine Keeps.after ?_ (Keeps.ofFrame (State.modCmd_frame _ _ _) rfl)
    exact Keeps.refl _

theorem State.settleOne_keeps (s : State) (t : State) :
    State.settleOne s = some t → Keeps s t := by
  intro h
  unfold State.settleOne at h
  split at h
  · split at h
    · obtain rfl := Option.some.inj h
      exact (State.startBody_keeps _ _).after (State.finishBody_keeps _ _)
    · obtain rfl := Option.some.inj h
      exact State.conclude_keeps _ _ _ _ _
  · split at h
    · obtain rfl := Option.some.inj h
      refine Keeps.after ?_ (State.conclude_keeps _ _ _ _ _)
      split
      · exact Keeps.ofFrame (State.dropQueue_frame _ _ _) rfl
      · exact Keeps.refl _
    · cases h

theorem State.settleN_keeps (x0 : Nat) (x1 : State) :
    Keeps x1 (State.settleN x0 x1) := by
  induction x0 generalizing x1 with
  | zero => exact Keeps.refl _
  | succ n ih =>
    unfold State.settleN
    split
    · exact Keeps.refl _
    · rename_i s' hs
      exact (State.settleOne_keeps _ _ hs).after (ih _)

theorem State.settle_keeps (s : State) :
    Keeps s (State.settle s) := by
  unfold State.settle
  refine Keeps.after ?_ (State.settleN_keeps _ _)
  exact Keeps.refl _

theorem State.abortJob_keeps (s : State) (ctx : Nat) :
    Keeps s (State.abortJob s ctx) := by
  unfold State.abortJob
  extract_lets
  refine Keeps.after ?_ (State.recheck_keeps _)
  refine Keeps.after ?_ (State.settle_keeps _)
  refine Keeps.after ?_ (Keeps.ofFrame (State.releaseJob_frame _ _) rfl)
  refine Keeps.after ?_ (State.concludeAll_keeps _ _ _)
  refine Keeps.after ?_ (Keeps.ofFrame (State.endOps_frame _ _ _) rfl)
  exact Keeps.refl _

theorem State.abortKci_keeps (s : State) (f : Cmd → Bool) (reason : Nat) :
    Keeps s (State.abortKci s f reason) := by
  unfold State.abortKci
  extract_lets
  refine Keeps.after ?_ (State.loseCmds_keeps _ _)
  refine Keeps.foldl _ ?_ (fun u x hu => ?_)
  · exact Keeps.refl _
  · refine Keeps.after ?_ (State.abortAdd_keeps _ _ _)
    assumption

theorem State.addStats_keeps (s : State) (c : Cmd) :
    Keeps s (State.addStats s c) := by
  unfold State.addStats
  extract_lets
  refine Keeps.modLedger ?_ rfl
  exact Keeps.refl _

theorem State.logNvme_keeps (s : State) (h : NvmeHdr) (st : NvmeSts) (lba : Nat) (addr : Nat) :
    Keeps s (State.logNvme s h st lba addr) := by
  unfold State.logNvme
  extract_lets
  refine Keeps.ite ?_ ?_
  · refine Keeps.after ?_ (State.logViol_keeps _ _)
    exact Keeps.refl _
  · refine Keeps.ite ?_ ?_
    · refine Keeps.after ?_ (State.logErr_keeps _ _)
      exact Keeps.refl _
    · refine Keeps.ite ?_ ?_
      · refine Keeps.after ?_ (State.logErr_keeps _ _)
        exact Keeps.refl _
      · refine Keeps.after ?_ (State.logErr_keeps _ _)
        exact Keeps.refl _

theorem State.errInfo_keeps (s : State) (h : NvmeHdr) (st : NvmeSts) (lba : Nat) :
    Keeps s (State.errInfo s h st lba) := by
  unfold State.errInfo
  extract_lets
  refine Keeps.after ?_ (State.modCtl_keeps _ _ _)
  exact Keeps.refl _

theorem State.nvEnd_keeps (s : State) (h : NvmeHdr) (st : NvmeSts) (dw0 : Nat) :
    Keeps s (State.nvEnd s h st dw0) := by
  unfold State.nvEnd
  refine Keeps.after ?_ (State.cpl_keeps _ _)
  refine Keeps.modNvme ?_ rfl rfl
  exact Keeps.refl _

theorem State.nvDoneAt_keeps (s : State) (h : NvmeHdr) (st : NvmeSts) (dw0 : Nat) (lba : Nat) (addr : Nat) :
    Keeps s (State.nvDoneAt s h st dw0 lba addr) := by
  unfold State.nvDoneAt
  refine Keeps.ite ?_ ?_
  · refine Keeps.after ?_ (State.logNvme_keeps _ _ _ _ _)
    refine Keeps.after ?_ (State.errInfo_keeps _ _ _ _)
    refine Keeps.after ?_ (State.nvEnd_keeps _ _ _ _)
    exact Keeps.refl _
  · refine Keeps.after ?_ (State.nvEnd_keeps _ _ _ _)
    exact Keeps.refl _

theorem State.nvDone_keeps (s : State) (h : NvmeHdr) (st : NvmeSts) (dw0 : Nat) (lba : Nat) :
    Keeps s (State.nvDone s h st dw0 lba) := by
  unfold State.nvDone
  refine Keeps.after ?_ (State.nvDoneAt_keeps _ _ _ _ _ _)
  exact Keeps.refl _

theorem State.wake_keeps (s : State) :
    Keeps s (State.wake s) := by
  unfold State.wake
  extract_lets
  refine Keeps.ite ?_ ?_
  · refine Keeps.after ?_ (Keeps.ofFrame (State.setPstate_frame _ _) rfl)
    refine Keeps.modNvme ?_ rfl rfl
    exact Keeps.refl _
  · refine Keeps.after ?_ (Keeps.ofFrame (State.modPower_frame _ _) rfl)
    refine Keeps.modNvme ?_ rfl rfl
    exact Keeps.refl _

theorem State.begin_keeps (s : State) (h : NvmeHdr) (op : Nat) :
    Keeps s (State.begin s h op) := by
  unfold State.begin
  extract_lets
  refine Keeps.ite ?_ ?_
  · refine Keeps.modNvme ?_ rfl rfl
    refine Keeps.after ?_ (State.wake_keeps _)
    exact Keeps.refl _
  · refine Keeps.modNvme ?_ rfl rfl
    refine Keeps.after ?_ (State.wake_keeps _)
    exact Keeps.refl _

theorem State.admin_keeps {a : State} (s : State) (h : NvmeHdr) (op : Nat) (vf : Bool) (f : State → State) (h0 : Keeps a s) (hf : ∀ (u0 : State), Keeps a u0 → Keeps a (f u0)) :
    Keeps a (State.admin s h op vf f) := by
  unfold State.admin
  refine Keeps.ite ?_ ?_
  · assumption
  · refine Keeps.ite ?_ ?_
    · refine Keeps.after ?_ (State.nvDone_keeps _ _ _ _ _)
      refine Keeps.after ?_ (State.begin_keeps _ _ _)
      assumption
    · apply hf
      refine Keeps.after ?_ (State.begin_keeps _ _ _)
      assumption

theorem State.admitted_keeps (s : State) (h : NvmeHdr) :
    Keeps s (State.admitted s h) := by
  unfold State.admitted
  refine Keeps.ite ?_ ?_
  · exact Keeps.refl _
  · refine Keeps.after ?_ (State.nvDone_keeps _ _ _ _ _)
    refine Keeps.modNvme ?_ rfl rfl
    exact Keeps.refl _

theorem State.admitPieces_keeps (s : State) (es : List Extent) :
    Keeps s (State.admitPieces s es) := by
  unfold State.admitPieces
  split
  · exact Keeps.refl _
  · extract_lets
    refine Keeps.after ?_ (State.admitted_keeps _ _)
    refine Keeps.modNvme ?_ rfl rfl
    exact Keeps.refl _

theorem State.charge_keeps (s : State) (ctx : Nat) (c : Counts) :
    Keeps s (State.charge s ctx c) := by
  unfold State.charge
  extract_lets
  refine Keeps.after ?_ (Keeps.ofFrame (State.drawn_frame _) rfl)
  refine Keeps.modLedger ?_ rfl
  exact Keeps.refl _

theorem State.checkTemp_keeps (s : State) (fn : Nat) :
    Keeps s (State.checkTemp s fn) := by
  unfold State.checkTemp
  extract_lets
  refine Keeps.ite ?_ ?_
  · refine Keeps.after ?_ (State.asyncEvent_keeps _ _ _)
    exact Keeps.refl _
  · exact Keeps.refl _

theorem State.clearSelects_keeps (s : State) :
    Keeps s (State.clearSelects s) := by
  unfold State.clearSelects
  refine Keeps.modLedger ?_ rfl
  refine Keeps.modErrs ?_ le_rfl rfl
  exact Keeps.refl _

theorem State.clearConfig_keeps (s : State) :
    Keeps s (State.clearConfig s) := by
  unfold State.clearConfig
  extract_lets
  refine Keeps.after ?_ (Keeps.ofFrame (State.modMgmt_frame _ _) rfl)
  refine Keeps.modErrs ?_ le_rfl rfl
  refine Keeps.after ?_ (Keeps.ofFrame (State.modPeer_frame _ _) rfl)
  refine Keeps.after ?_ (Keeps.ofFrame (State.modParts_frame _ _) rfl)
  refine Keeps.after ?_ (State.clearSelects_keeps _)
  exact Keeps.refl _

theorem State.clearContexts_keeps (s : State) :
    Keeps s (State.clearContexts s) := by
  unfold State.clearContexts
  extract_lets
  refine Keeps.foldl _ ?_ (fun u x hu => ?_)
  · refine Keeps.after ?_ (Keeps.ofFrame (State.modCtxs_frame _ _) rfl)
    exact Keeps.refl _
  · refine Keeps.after ?_ (State.collect_keeps _ _)
    assumption

theorem State.clearController_keeps (s : State) (fn : Nat) (reason : Nat) :
    Keeps s (State.clearController s fn reason) := by
  unfold State.clearController
  extract_lets
  refine Keeps.ite ?_ ?_
  · refine Keeps.modNvme ?_ rfl rfl
    refine Keeps.after ?_ (State.modCtl_keeps _ _ _)
    refine Keeps.after ?_ (State.abortFn_keeps _ _ _)
    exact Keeps.refl _
  · refine Keeps.after ?_ (State.modCtl_keeps _ _ _)
    refine Keeps.after ?_ (State.abortFn_keeps _ _ _)
    exact Keeps.refl _

theorem State.clearControllers_keeps (s : State) (reason : Nat) :
    Keeps s (State.clearControllers s reason) := by
  unfold State.clearControllers
  refine Keeps.foldl _ ?_ (fun u x hu => ?_)
  · exact Keeps.refl _
  · refine Keeps.after ?_ (State.clearController_keeps _ _ _)
    assumption

theorem State.closeCtx_keeps (s : State) (ctx : Nat) :
    Keeps s (State.closeCtx s ctx) := by
  unfold State.closeCtx
  extract_lets
  refine Keeps.after ?_ (State.abortAdd_keeps _ _ _)
  refine Keeps.after ?_ (Keeps.ofFrame (State.modCtx_frame _ _ _) rfl)
  refine Keeps.after ?_ (State.reap_keeps _ _)
  refine Keeps.after ?_ (Keeps.ofFrame (State.modCtx_frame _ _ _) rfl)
  refine Keeps.after ?_ (State.loseCmds_keeps _ _)
  exact Keeps.refl _

theorem State.maybeFinish_keeps (s : State) (uid : Nat) :
    Keeps s (State.maybeFinish s uid) := by
  unfold State.maybeFinish
  split
  · exact Keeps.refl _
  · refine Keeps.ite ?_ ?_
    · refine Keeps.ite ?_ ?_
      · refine Keeps.after ?_ (State.conclude_keeps _ _ _ _ _)
        exact Keeps.refl _
      · refine Keeps.after ?_ (Keeps.ofFrame (State.modCmd_frame _ _ _) rfl)
        exact Keeps.refl _
    · exact Keeps.refl _

theorem State.failCheck_keeps (s : State) (uid : Nat) (ti : Nat) :
    Keeps s (State.failCheck s uid ti) := by
  unfold State.failCheck
  split
  · exact Keeps.refl _
  · refine Keeps.after ?_ (State.conclude_keeps _ _ _ _ _)
    exact Keeps.refl _

theorem State.logTest_keeps (s : State) (x1 : ErrArg) (kind : Nat) (index : Nat) :
    Keeps s (State.logTest s x1 kind index) := by
  unfold State.logTest
  extract_lets
  refine Keeps.after ?_ (Keeps.ofFrame (State.startTest_frame _ _ _ _ _) rfl)
  refine Keeps.after ?_ (State.logErr_keeps _ _)
  exact Keeps.refl _

theorem State.logCheck_keeps (s : State) (c : Cmd) (x2 : Nat) (kind : Nat) (row : Nat) (t : TileSt) :
    Keeps s (State.logCheck s c x2 kind row t) := by
  unfold State.logCheck
  extract_lets
  refine Keeps.after ?_ (State.logTest_keeps _ _ _ _)
  exact Keeps.refl _

theorem State.columnVerdict_keeps (s : State) (x1 : Nat) (pass : Nat) :
    Keeps s (State.columnVerdict s x1 pass) := by
  unfold State.columnVerdict
  split
  · exact Keeps.refl _
  · split
    · exact Keeps.refl _
    · split
      · exact Keeps.refl _
      · extract_lets
        refine Keeps.ite ?_ ?_
        · exact Keeps.refl _
        · refine Keeps.ite ?_ ?_
          · refine Keeps.after ?_ (State.maybeFinish_keeps _ _)
            refine Keeps.after ?_ (Keeps.ofFrame (State.modArr_frame _ _ _) rfl)
            exact Keeps.refl _
          · refine Keeps.after ?_ (State.failCheck_keeps _ _ _)
            refine Keeps.after ?_ (State.logCheck_keeps _ _ _ _ _ _)
            refine Keeps.after ?_ (Keeps.ofFrame (State.modCmd_frame _ _ _) rfl)
            refine Keeps.after ?_ (Keeps.ofFrame (State.modArr_frame _ _ _) rfl)
            exact Keeps.refl _

theorem State.finishShutdown_keeps (s : State) :
    Keeps s (State.finishShutdown s) := by
  unfold State.finishShutdown
  refine Keeps.ite ?_ ?_
  · extract_lets
    refine Keeps.ite ?_ ?_
    · refine Keeps.after ?_ (Keeps.ofFrame (State.modStore_frame _ _) rfl)
      refine Keeps.modNvme ?_ rfl rfl
      exact Keeps.refl _
    · refine Keeps.modNvme ?_ rfl rfl
      exact Keeps.refl _
  · exact Keeps.refl _

theorem State.endFlushes_keeps (s : State) :
    Keeps s (State.endFlushes s) := by
  unfold State.endFlushes
  extract_lets
  refine Keeps.foldl _ ?_ (fun u x hu => ?_)
  · refine Keeps.modNvme ?_ rfl rfl
    exact Keeps.refl _
  · refine Keeps.after ?_ (State.nvDone_keeps _ _ _ _ _)
    assumption

theorem State.commitExtent_keeps (s : State) (id : Nat) (place : Nat) :
    Keeps s (State.commitExtent s id place) := by
  unfold State.commitExtent
  split
  · exact Keeps.refl _
  · extract_lets
    refine Keeps.after ?_ (State.finishShutdown_keeps _)
    refine Keeps.after ?_ (State.endFlushes_keeps _)
    refine Keeps.ite ?_ ?_
    · refine Keeps.after ?_ (State.nvDone_keeps _ _ _ _ _)
      refine Keeps.ite ?_ ?_
      · refine Keeps.modNvme ?_ rfl rfl
        exact Keeps.refl _
      · refine Keeps.after ?_ (State.charge_keeps _ _ _)
        refine Keeps.modNvme ?_ rfl rfl
        exact Keeps.refl _
    · refine Keeps.ite ?_ ?_
      · refine Keeps.modNvme ?_ rfl rfl
        exact Keeps.refl _
      · refine Keeps.after ?_ (State.charge_keeps _ _ _)
        refine Keeps.modNvme ?_ rfl rfl
        exact Keeps.refl _

theorem State.commitCache_keeps (s : State) :
    Keeps s (State.commitCache s) := by
  unfold State.commitCache
  extract_lets
  refine Keeps.after ?_ (Keeps.ofFrame (State.modNand_frame _ _) rfl)
  refine Keeps.foldl _ ?_ (fun u x hu => ?_)
  · exact Keeps.refl _
  · refine Keeps.after ?_ (State.commitExtent_keeps _ _ _)
    assumption

theorem State.commitDone_keeps (s : State) (uid : Nat) :
    Keeps s (State.commitDone s uid) := by
  unfold State.commitDone
  split
  · exact Keeps.refl _
  · refine Keeps.ite ?_ ?_
    · exact Keeps.refl _
    · split
      · refine Keeps.after ?_ (State.maybeFinish_keeps _ _)
        exact Keeps.refl _
      · refine Keeps.ite ?_ ?_
        · refine Keeps.after ?_ (State.conclude_keeps _ _ _ _ _)
          exact Keeps.refl _
        · exact Keeps.refl _

theorem State.commitItem_keeps (s : State) (die : Nat) (block : Nat) (id : Nat) :
    Keeps s (State.commitItem s die block id) := by
  unfold State.commitItem
  split
  · exact Keeps.refl _
  · refine Keeps.after ?_ (State.commitExtent_keeps _ _ _)
    refine Keeps.after ?_ (Keeps.ofFrame (State.modNand_frame _ _) rfl)
    exact Keeps.refl _
  · extract_lets
    refine Keeps.ite ?_ ?_
    · refine Keeps.after ?_ (Keeps.ofFrame (State.modNand_frame _ _) rfl)
      exact Keeps.refl _
    · split
      · refine Keeps.after ?_ (Keeps.ofFrame (State.modNand_frame _ _) rfl)
        exact Keeps.refl _
      · extract_lets
        refine Keeps.after ?_ (State.recheck_keeps _)
        refine Keeps.after ?_ (State.settle_keeps _)
        refine Keeps.after ?_ (State.commitDone_keeps _ _)
        refine Keeps.after ?_ (Keeps.ofFrame (State.modCmd_frame _ _ _) rfl)
        refine Keeps.after ?_ (State.charge_keeps _ _ _)
        refine Keeps.after ?_ (Keeps.ofFrame (State.modNand_frame _ _) rfl)
        exact Keeps.refl _

theorem State.commitRow_keeps (s : State) (g : Nat) (block : Nat) (wl : Nat) :
    Keeps s (State.commitRow s g block wl) := by
  unfold State.commitRow
  extract_lets
  refine Keeps.ite ?_ ?_
  · refine Keeps.foldl _ ?_ (fun u x hu => ?_)
    · refine Keeps.after ?_ (Keeps.ofFrame (State.modNand_frame _ _) rfl)
      exact Keeps.refl _
    · refine Keeps.after ?_ (State.commitItem_keeps _ _ _ _)
      assumption
  · exact Keeps.refl _

theorem State.controllerReset_keeps (s : State) (fn : Nat) (reason : Nat) :
    Keeps s (State.controllerReset s fn reason) := by
  unfold State.controllerReset
  extract_lets
  refine Keeps.ite ?_ ?_
  · refine Keeps.modNvme ?_ rfl rfl
    refine Keeps.after ?_ (State.modCtl_keeps _ _ _)
    refine Keeps.after ?_ (State.abortFn_keeps _ _ _)
    exact Keeps.refl _
  · refine Keeps.after ?_ (State.modCtl_keeps _ _ _)
    refine Keeps.after ?_ (State.abortFn_keeps _ _ _)
    exact Keeps.refl _

theorem State.doorbellFault_keeps (s : State) (ctx : Nat) (queue : Nat) (off : Nat) :
    Keeps s (State.doorbellFault s ctx queue off) := by
  unfold State.doorbellFault
  refine Keeps.after ?_ (State.settle_keeps _)
  refine Keeps.after ?_ (State.faultCtx_keeps _ _ _ _ _ _ _)
  exact Keeps.refl _

theorem State.cqHeadWrite_keeps (s : State) (ctx : Nat) (queue : Nat) (head : Nat) :
    Keeps s (State.cqHeadWrite s ctx queue head) := by
  unfold State.cqHeadWrite
  split
  · exact Keeps.refl _
  · refine Keeps.ite ?_ ?_
    · exact Keeps.refl _
    · refine Keeps.ite ?_ ?_
      · refine Keeps.after ?_ (State.doorbellFault_keeps _ _ _ _)
        exact Keeps.refl _
      · extract_lets
        refine Keeps.ite ?_ ?_
        · refine Keeps.after ?_ (Keeps.ofFrame (State.signal_frame _ _ _) rfl)
          refine Keeps.after ?_ (Keeps.ofFrame (State.modCtx_frame _ _ _) rfl)
          exact Keeps.refl _
        · refine Keeps.after ?_ (Keeps.ofFrame (State.modCtx_frame _ _ _) rfl)
          exact Keeps.refl _

theorem State.endAllOps_keeps (s : State) (status : Nat) :
    Keeps s (State.endAllOps s status) := by
  unfold State.endAllOps
  extract_lets
  refine Keeps.after ?_ (State.recheck_keeps _)
  refine Keeps.after ?_ (State.settle_keeps _)
  refine Keeps.after ?_ (State.concludeAll_keeps _ _ _)
  refine Keeps.after ?_ (Keeps.ofFrame (State.modPeer_frame _ _) rfl)
  exact Keeps.refl _

theorem State.degrade_keeps (s : State) :
    Keeps s (State.degrade s) := by
  unfold State.degrade
  refine Keeps.after ?_ (State.endAllOps_keeps _ _)
  refine Keeps.after ?_ (Keeps.ofFrame (State.modPeer_frame _ _) rfl)
  exact Keeps.refl _

theorem State.nsChanged_keeps (s : State) (nsid : Nat) (fns : List Nat) :
    Keeps s (State.nsChanged s nsid fns) := by
  unfold State.nsChanged
  refine Keeps.foldl _ ?_ (fun u x hu => ?_)
  · exact Keeps.refl _
  · extract_lets
    refine Keeps.ite ?_ ?_
    · refine Keeps.after ?_ (State.asyncEvent_keeps _ _ _)
      refine Keeps.after ?_ (State.modCtl_keeps _ _ _)
      assumption
    · refine Keeps.after ?_ (State.modCtl_keeps _ _ _)
      assumption

theorem State.dropNsCache_keeps (s : State) (nsid : Nat) :
    Keeps s (State.dropNsCache s nsid) := by
  unfold State.dropNsCache
  extract_lets
  refine Keeps.after ?_ (State.finishShutdown_keeps _)
  refine Keeps.after ?_ (State.endFlushes_keeps _)
  refine Keeps.foldl _ ?_ (fun u x hu => ?_)
  · refine Keeps.after ?_ (Keeps.ofFrame (State.modNand_frame _ _) rfl)
    refine Keeps.modNvme ?_ rfl rfl
    exact Keeps.refl _
  · refine Keeps.after ?_ (State.nvDone_keeps _ _ _ _ _)
    assumption

theorem State.deleteNs_keeps (s : State) (nsid : Nat) :
    Keeps s (State.deleteNs s nsid) := by
  unfold State.deleteNs
  extract_lets
  refine Keeps.after ?_ (State.nsChanged_keeps _ _ _)
  refine Keeps.modNvme ?_ rfl rfl
  refine Keeps.after ?_ (State.dropNsCache_keeps _ _)
  exact Keeps.refl _

theorem State.deliver_keeps (s : State) (r : NandReq) (n : Nat) :
    Keeps s (State.deliver s r n) := by
  unfold State.deliver
  split
  · split
    · refine Keeps.ite ?_ ?_
      · exact Keeps.refl _
      · refine Keeps.after ?_ (State.charge_keeps _ _ _)
        exact Keeps.refl _
    · exact Keeps.refl _
  · exact Keeps.refl _

theorem State.discardVolatile_keeps (s : State) :
    Keeps s (State.discardVolatile s) := by
  unfold State.discardVolatile
  refine Keeps.objs (Keeps.refl _) (fun hp q hq => ?_)
  obtain ⟨p, hp', rfl⟩ := List.mem_map.mp hq
  exact hp p (List.mem_of_mem_filter hp')

theorem State.endSoft_keeps (s : State) (uid : Nat) (st : Nat) (ti : Nat) :
    Keeps s (State.endSoft s uid st ti) := by
  unfold State.endSoft
  refine Keeps.after ?_ (State.maybeFinish_keeps _ _)
  refine Keeps.after ?_ (Keeps.ofFrame (State.modCmd_frame _ _ _) rfl)
  exact Keeps.refl _

theorem State.writeRow_keeps (s : State) (c : Cmd) (t : TileSt) (i : Nat) (r : RowOut) (t' : State) :
    State.writeRow s c t i r = some t' → Keeps s t' := by
  intro h
  have hw : ∀ {u v : State} {uid o off layout : Nat} {bs : List Byte}, Keeps s u →
      u.cmdWrite uid o off layout bs = some v → Keeps s v := fun hu hv => hu.after (State.cmdWrite_keeps _ _ _ _ _ _ _ hv)
  unfold State.writeRow at h
  dsimp only at h
  split at h
  · obtain rfl := Option.some.inj h
    exact Keeps.ofFrame (State.modArr_frame _ _ _) rfl
  · split at h
    · obtain rfl := Option.some.inj h
      exact Keeps.refl _
    · split at h
      · cases h
      · rename_i s1 hs
        have h1 := hw (Keeps.refl _) hs
        split at h
        · obtain rfl := Option.some.inj h
          exact h1
        · split at h
          · exact Keeps.tryAll h1 (fun u v x hu hv => hw hu hv) h
          · exact hw h1 h

theorem State.endTile_keeps (s : State) (uid : Nat) (ti : Nat) :
    Keeps s (State.endTile s uid ti) := by
  unfold State.endTile
  split
  · exact Keeps.refl _
  · rename_i c hc
    split
    · exact Keeps.refl _
    · rename_i t ht
      extract_lets exc size s1 rows s2 s3 s4 s5
      have h1 : Keeps s s1 := by
        dsimp only [s1]
        split
        · split
          · exact Keeps.refl _
          · split
            · exact State.endSoft_keeps _ _ _ _
            · rename_i hw
              exact ((State.cmdWrite_keeps _ _ _ _ _ _ _ hw).after (Keeps.ofFrame (State.modCmd_frame _ _ _) rfl)).after
                (Keeps.ofFrame (State.drawn_frame _) rfl)
        · split
          · exact Keeps.ofFrame (State.modCmd_frame _ _ _) rfl
          · exact Keeps.refl _
      have h2 : Keeps s s2 := by
        dsimp only [s2]
        split
        · split
          · exact h1.after (State.endSoft_keeps _ _ _ _)
          · rename_i hw
            refine Keeps.tryAll h1 (fun u v x hu hv => ?_) hw
            split at hv
            · exact hu.after (State.writeRow_keeps _ _ _ _ _ _ hv)
            · obtain rfl := Option.some.inj hv
              exact hu
        · exact h1
      have h4 : Keeps s s4 := ((h2.after (Keeps.ofFrame (State.modCmd_frame _ _ _) rfl)).after
        (Keeps.ofFrame (State.modTile_frame _ _ _ _) rfl)).after (Keeps.ofFrame (State.freeTile_frame _ _ _ _) rfl)
      have h5 : Keeps s s5 := Keeps.ite (h4.after (State.endSoft_keeps _ _ _ _)) h4
      exact (h5.after (Keeps.ofFrame (State.refresh_frame _ _) rfl)).after (State.maybeFinish_keeps _ _)

theorem State.endHard_keeps (s : State) (uid : Nat) (st : Nat) (ti : Nat) :
    Keeps s (State.endHard s uid st ti) := by
  unfold State.endHard
  extract_lets
  refine Keeps.after ?_ (State.maybeFinish_keeps _ _)
  refine Keeps.after ?_ (Keeps.ofFrame (State.dropWork_frame _ _) rfl)
  refine Keeps.after ?_ (Keeps.ofFrame (State.modCmd_frame _ _ _) rfl)
  exact Keeps.refl _

theorem State.drainRow.drainOwn_keeps (x0 : Nat) (uid : Nat) (ti : Nat) (row : Nat) (mismatch : Nat) (s1 : State) (c : Cmd) (t : TileSt) (acc : List Int) :
    Keeps s1 (State.drainRow.drainOwn x0 uid ti row mismatch s1 c t acc) := by
  unfold State.drainRow.drainOwn
  extract_lets r g old bits' t' z s2 s2'
  have h2 : Keeps s1 s2' := by
    have hc : Keeps s1 s2 := State.charge_keeps _ _ _
    exact Keeps.ite (hc.after (Keeps.ofFrame (State.modArr_frame _ _ _) rfl)) hc
  have h3 : ∀ u : State, Keeps s1 u →
      Keeps s1 (if t'.drained.length = t.plan.rows then ((u.modTile uid ti (fun _ => t')).freeRows uid ti t').endTile uid ti
        else (u.modTile uid ti (fun _ => t')).freeRows uid ti t') := by
    intro u hu
    have h4 := (hu.after (Keeps.ofFrame (State.modTile_frame u uid ti (fun _ => t')) rfl)).after
      (Keeps.ofFrame (State.freeRows_frame _ uid ti t') rfl)
    exact Keeps.ite (h4.after (State.endTile_keeps _ _ _)) h4
  split
  · exact h2.after (State.endHard_keeps _ _ _ _)
  · rename_i s3 hs
    split at hs
    · obtain rfl := Option.some.inj hs
      exact h3 _ h2
    · exact h3 _ (h2.after (State.writeRow_keeps _ _ _ _ _ _ hs))

theorem State.drainRow_keeps (s : State) (x1 : Nat) (uid : Nat) (ti : Nat) (row : Nat) (mismatch : Nat) (ecc : Nat) :
    Keeps s (State.drainRow s x1 uid ti row mismatch ecc) := by
  unfold State.drainRow
  split
  · exact Keeps.refl _
  · split
    · exact Keeps.refl _
    · refine Keeps.ite ?_ ?_
      · exact Keeps.refl _
      · split
        · exact Keeps.refl _
        · extract_lets
          refine Keeps.ite ?_ ?_
          · refine Keeps.after ?_ (Keeps.ofFrame (State.redoTile_frame _ _ _ _) rfl)
            refine Keeps.after ?_ (State.logTest_keeps _ _ _ _)
            exact Keeps.refl _
          · refine Keeps.ite ?_ ?_
            · refine Keeps.after ?_ (State.failCheck_keeps _ _ _)
              refine Keeps.ite ?_ ?_
              · refine Keeps.after ?_ (State.logTest_keeps _ _ _ _)
                refine Keeps.after ?_ (Keeps.ofFrame (State.modCmd_frame _ _ _) rfl)
                refine Keeps.ite ?_ ?_
                · refine Keeps.after ?_ (Keeps.ofFrame (State.modArr_frame _ _ _) rfl)
                  refine Keeps.after ?_ (State.logErr_keeps _ _)
                  exact Keeps.refl _
                · exact Keeps.refl _
              · refine Keeps.ite ?_ ?_
                · refine Keeps.after ?_ (Keeps.ofFrame (State.modArr_frame _ _ _) rfl)
                  refine Keeps.after ?_ (State.logErr_keeps _ _)
                  exact Keeps.refl _
                · exact Keeps.refl _
            · split
              · refine Keeps.ite ?_ ?_
                · split
                  · exact Keeps.refl _
                  · refine Keeps.ite ?_ ?_
                    · extract_lets
                      refine Keeps.ite ?_ ?_
                      · refine Keeps.after ?_ (State.endTile_keeps _ _ _)
                        refine Keeps.after ?_ (Keeps.ofFrame (State.freeRows_frame _ _ _ _) rfl)
                        refine Keeps.after ?_ (Keeps.ofFrame (State.modTile_frame _ _ _ _) rfl)
                        refine Keeps.after ?_ (Keeps.ofFrame (State.sendMsg_frame _ _) rfl)
                        refine Keeps.ite ?_ ?_
                        · refine Keeps.after ?_ (State.logTest_keeps _ _ _ _)
                          refine Keeps.after ?_ (Keeps.ofFrame (State.modCmd_frame _ _ _) rfl)
                          refine Keeps.ite ?_ ?_
                          · refine Keeps.after ?_ (Keeps.ofFrame (State.modArr_frame _ _ _) rfl)
                            refine Keeps.after ?_ (State.logErr_keeps _ _)
                            exact Keeps.refl _
                          · exact Keeps.refl _
                        · refine Keeps.ite ?_ ?_
                          · refine Keeps.after ?_ (Keeps.ofFrame (State.modArr_frame _ _ _) rfl)
                            refine Keeps.after ?_ (State.logErr_keeps _ _)
                            exact Keeps.refl _
                          · exact Keeps.refl _
                      · refine Keeps.after ?_ (Keeps.ofFrame (State.freeRows_frame _ _ _ _) rfl)
                        refine Keeps.after ?_ (Keeps.ofFrame (State.modTile_frame _ _ _ _) rfl)
                        refine Keeps.after ?_ (Keeps.ofFrame (State.sendMsg_frame _ _) rfl)
                        refine Keeps.ite ?_ ?_
                        · refine Keeps.after ?_ (State.logTest_keeps _ _ _ _)
                          refine Keeps.after ?_ (Keeps.ofFrame (State.modCmd_frame _ _ _) rfl)
                          refine Keeps.ite ?_ ?_
                          · refine Keeps.after ?_ (Keeps.ofFrame (State.modArr_frame _ _ _) rfl)
                            refine Keeps.after ?_ (State.logErr_keeps _ _)
                            exact Keeps.refl _
                          · exact Keeps.refl _
                        · refine Keeps.ite ?_ ?_
                          · refine Keeps.after ?_ (Keeps.ofFrame (State.modArr_frame _ _ _) rfl)
                            refine Keeps.after ?_ (State.logErr_keeps _ _)
                            exact Keeps.refl _
                          · exact Keeps.refl _
                    · exact Keeps.refl _
                · refine Keeps.after ?_ (State.drainRow.drainOwn_keeps _ _ _ _ _ _ _ _ _)
                  refine Keeps.ite ?_ ?_
                  · refine Keeps.after ?_ (State.logTest_keeps _ _ _ _)
                    refine Keeps.after ?_ (Keeps.ofFrame (State.modCmd_frame _ _ _) rfl)
                    refine Keeps.ite ?_ ?_
                    · refine Keeps.after ?_ (Keeps.ofFrame (State.modArr_frame _ _ _) rfl)
                      refine Keeps.after ?_ (State.logErr_keeps _ _)
                      exact Keeps.refl _
                    · exact Keeps.refl _
                  · refine Keeps.ite ?_ ?_
                    · refine Keeps.after ?_ (Keeps.ofFrame (State.modArr_frame _ _ _) rfl)
                      refine Keeps.after ?_ (State.logErr_keeps _ _)
                      exact Keeps.refl _
                    · exact Keeps.refl _
              · refine Keeps.after ?_ (State.drainRow.drainOwn_keeps _ _ _ _ _ _ _ _ _)
                refine Keeps.ite ?_ ?_
                · refine Keeps.after ?_ (State.logTest_keeps _ _ _ _)
                  refine Keeps.after ?_ (Keeps.ofFrame (State.modCmd_frame _ _ _) rfl)
                  refine Keeps.ite ?_ ?_
                  · refine Keeps.after ?_ (Keeps.ofFrame (State.modArr_frame _ _ _) rfl)
                    refine Keeps.after ?_ (State.logErr_keeps _ _)
                    exact Keeps.refl _
                  · exact Keeps.refl _
                · refine Keeps.ite ?_ ?_
                  · refine Keeps.after ?_ (Keeps.ofFrame (State.modArr_frame _ _ _) rfl)
                    refine Keeps.after ?_ (State.logErr_keeps _ _)
                    exact Keeps.refl _
                  · exact Keeps.refl _

theorem State.dropRefs_keeps (s : State) (c : Cmd) :
    Keeps s (State.dropRefs s c) := by
  unfold State.dropRefs
  refine Keeps.after ?_ (State.reap_keeps _ _)
  refine Keeps.after ?_ (Keeps.ofFrame (State.modCtx_frame _ _ _) rfl)
  exact Keeps.refl _

theorem State.dropStaging_keeps (s : State) (ps : List Nat) :
    Keeps s (State.dropStaging s ps) := by
  unfold State.dropStaging
  refine Keeps.tmapObjs ?_ (fun _ x => by split <;> rfl)
  exact Keeps.refl _

theorem State.endInternal_keeps (s : State) (f : Cmd → Bool) :
    Keeps s (State.endInternal s f) := by
  unfold State.endInternal
  extract_lets
  refine Keeps.after ?_ (State.recheck_keeps _)
  refine Keeps.after ?_ (State.settle_keeps _)
  refine Keeps.after ?_ (State.concludeAll_keeps _ _ _)
  refine Keeps.after ?_ (Keeps.ofFrame (State.endOps_frame _ _ _) rfl)
  exact Keeps.refl _

theorem State.endNvme_keeps (s : State) (f : NvmeHdr → Bool) (st : NvmeSts) :
    Keeps s (State.endNvme s f st) := by
  unfold State.endNvme
  extract_lets
  refine Keeps.foldl _ ?_ (fun u x hu => ?_)
  · refine Keeps.after ?_ (State.dropNvme_keeps _ _)
    exact Keeps.refl _
  · refine Keeps.after ?_ (State.nvDone_keeps _ _ _ _ _)
    assumption

theorem State.endPass_keeps (s : State) (x1 : Nat) (errs : List PassError) (idle : Nat) :
    Keeps s (State.endPass s x1 errs idle) := by
  unfold State.endPass
  split
  · exact Keeps.refl _
  · extract_lets w1
    split
    · refine Keeps.after ?_ (Keeps.ofFrame (State.freeTile_frame _ _ _ _) rfl)
      dsimp only [w1]
      refine Keeps.after ?_ (Keeps.ofFrame (State.modArr_frame _ _ _) rfl)
      exact Keeps.refl _
    · split
      · refine Keeps.after ?_ (Keeps.ofFrame (State.freeTile_frame _ _ _ _) rfl)
        dsimp only [w1]
        refine Keeps.after ?_ (Keeps.ofFrame (State.modArr_frame _ _ _) rfl)
        exact Keeps.refl _
      · extract_lets
        refine Keeps.ite ?_ ?_
        · refine Keeps.after ?_ (State.maybeFinish_keeps _ _)
          refine Keeps.after ?_ (Keeps.ofFrame (State.freeTile_frame _ _ _ _) rfl)
          dsimp only [w1]
          refine Keeps.after ?_ (Keeps.ofFrame (State.modArr_frame _ _ _) rfl)
          exact Keeps.refl _
        · split
          · refine Keeps.after ?_ (State.endSoft_keeps _ _ _ _)
            refine Keeps.after ?_ (Keeps.ofFrame (State.freeTile_frame _ _ _ _) rfl)
            refine Keeps.after ?_ (Keeps.ofFrame (State.modTile_frame _ _ _ _) rfl)
            dsimp only [w1]
            refine Keeps.after ?_ (Keeps.ofFrame (State.modArr_frame _ _ _) rfl)
            exact Keeps.refl _
          · extract_lets _ _ w5
            refine Keeps.after ?_ (Keeps.ofFrame (State.refresh_frame _ _) rfl)
            dsimp only [w5]
            dsimp only [w1]
            refine Keeps.after ?_ (Keeps.ofFrame (State.modArr_frame _ _ _) rfl)
            refine Keeps.after ?_ (Keeps.ofFrame (State.modTile_frame _ _ _ _) rfl)
            exact Keeps.refl _

theorem State.failScan_keeps (s : State) (c : Cmd) (st : Nat) :
    Keeps s (State.failScan s c st) := by
  unfold State.failScan
  extract_lets
  refine Keeps.after ?_ (State.conclude_keeps _ _ _ _ _)
  refine Keeps.ite ?_ ?_
  · refine Keeps.after ?_ (Keeps.ofFrame (State.drawn_frame _) rfl)
    refine Keeps.after ?_ (State.logTest_keeps _ _ _ _)
    exact Keeps.refl _
  · exact Keeps.refl _

theorem State.searchDone_keeps (s : State) (uid : Nat) :
    Keeps s (State.searchDone s uid) := by
  unfold State.searchDone
  split
  · exact Keeps.refl _
  · refine Keeps.ite ?_ ?_
    · refine Keeps.ite ?_ ?_
      · refine Keeps.after ?_ (State.conclude_keeps _ _ _ _ _)
        exact Keeps.refl _
      · extract_lets
        split
        · refine Keeps.after ?_ (State.conclude_keeps _ _ _ _ _)
          exact Keeps.refl _
        · split
          · refine Keeps.tryAll ?_ (fun u v x hu hv => ?_) (by assumption)
            · exact Keeps.refl _
            · refine Keeps.after ?_ (State.cmdWrite_keeps _ _ _ _ _ _ _ (by assumption))
              assumption
          · refine Keeps.ite ?_ ?_
            · refine Keeps.after ?_ (State.conclude_keeps _ _ _ _ _)
              refine Keeps.tryAll ?_ (fun u v x hu hv => ?_) (by assumption)
              · exact Keeps.refl _
              · refine Keeps.after ?_ (State.cmdWrite_keeps _ _ _ _ _ _ _ (by assumption))
                assumption
            · refine Keeps.after ?_ (Keeps.ofFrame (State.modCmd_frame _ _ _) rfl)
              refine Keeps.tryAll ?_ (fun u v x hu hv => ?_) (by assumption)
              · exact Keeps.refl _
              · refine Keeps.after ?_ (State.cmdWrite_keeps _ _ _ _ _ _ _ (by assumption))
                assumption
    · exact Keeps.refl _

theorem State.endScan_keeps (s : State) (uid : Nat) (q : Nat) (launch : Nat) :
    Keeps s (State.endScan s uid q launch) := by
  unfold State.endScan
  split
  · exact Keeps.refl _
  · split
    · exact Keeps.refl _
    · refine Keeps.ite ?_ ?_
      · exact Keeps.refl _
      · extract_lets
        split
        · refine Keeps.after ?_ (State.failScan_keeps _ _ _)
          refine Keeps.after ?_ (Keeps.ofFrame (State.modQuery_frame _ _ _ _) rfl)
          exact Keeps.refl _
        · refine Keeps.after ?_ (State.searchDone_keeps _ _)
          refine Keeps.after ?_ (Keeps.ofFrame (State.modQuery_frame _ _ _ _) rfl)
          exact Keeps.refl _

theorem State.endService_keeps (s : State) (part : Nat) :
    Keeps s (State.endService s part) := by
  unfold State.endService
  refine Keeps.ite ?_ ?_
  · extract_lets
    refine Keeps.after ?_ (State.concludeAll_keeps _ _ _)
    refine Keeps.after ?_ (Keeps.ofFrame (State.endOps_frame _ _ _) rfl)
    refine Keeps.after ?_ (State.logErr_keeps _ _)
    exact Keeps.refl _
  · exact Keeps.refl _

theorem State.noteLate_keeps (s : State) (c : Cmd) (x2 : Nat) (cond : Nat) :
    Keeps s (State.noteLate s c x2 cond) := by
  unfold State.noteLate
  extract_lets
  refine Keeps.ite ?_ ?_
  · refine Keeps.after ?_ (State.logErr_keeps _ _)
    refine Keeps.after ?_ (Keeps.ofFrame (State.modPart_frame _ _ _) rfl)
    exact Keeps.refl _
  · refine Keeps.after ?_ (Keeps.ofFrame (State.modPart_frame _ _ _) rfl)
    exact Keeps.refl _

theorem State.enter_keeps (s : State) (x1 : Nat) (rate : Nat) :
    Keeps s (State.enter s x1 rate) := by
  unfold State.enter
  split
  · exact Keeps.refl _
  · split
    · exact Keeps.refl _
    · split
      · exact Keeps.refl _
      · split
        · exact Keeps.refl _
        · extract_lets
          refine Keeps.after ?_ (Keeps.ofFrame (State.refresh_frame _ _) rfl)
          rename_i w18
          dsimp only [w18]
          split
          · refine Keeps.after ?_ (Keeps.ofFrame (State.refresh_frame _ _) rfl)
            refine Keeps.ite ?_ ?_
            · refine Keeps.after ?_ (State.noteLate_keeps _ _ _ _)
              refine Keeps.ite ?_ ?_
              · refine Keeps.after ?_ (Keeps.ofFrame (State.modPart_frame _ _ _) rfl)
                refine Keeps.after ?_ (State.charge_keeps _ _ _)
                refine Keeps.after ?_ (Keeps.ofFrame (State.drawn_frame _) rfl)
                refine Keeps.after ?_ (Keeps.ofFrame (State.bump_frame _) rfl)
                refine Keeps.after ?_ (Keeps.ofFrame (State.modCmd_frame _ _ _) rfl)
                refine Keeps.after ?_ (Keeps.ofFrame (State.modArr_frame _ _ _) rfl)
                exact Keeps.refl _
              · refine Keeps.after ?_ (State.charge_keeps _ _ _)
                refine Keeps.after ?_ (Keeps.ofFrame (State.drawn_frame _) rfl)
                refine Keeps.after ?_ (Keeps.ofFrame (State.bump_frame _) rfl)
                refine Keeps.after ?_ (Keeps.ofFrame (State.modCmd_frame _ _ _) rfl)
                refine Keeps.after ?_ (Keeps.ofFrame (State.modArr_frame _ _ _) rfl)
                exact Keeps.refl _
            · refine Keeps.ite ?_ ?_
              · refine Keeps.after ?_ (Keeps.ofFrame (State.modPart_frame _ _ _) rfl)
                refine Keeps.after ?_ (State.charge_keeps _ _ _)
                refine Keeps.after ?_ (Keeps.ofFrame (State.drawn_frame _) rfl)
                refine Keeps.after ?_ (Keeps.ofFrame (State.bump_frame _) rfl)
                refine Keeps.after ?_ (Keeps.ofFrame (State.modCmd_frame _ _ _) rfl)
                refine Keeps.after ?_ (Keeps.ofFrame (State.modArr_frame _ _ _) rfl)
                exact Keeps.refl _
              · refine Keeps.after ?_ (State.charge_keeps _ _ _)
                refine Keeps.after ?_ (Keeps.ofFrame (State.drawn_frame _) rfl)
                refine Keeps.after ?_ (Keeps.ofFrame (State.bump_frame _) rfl)
                refine Keeps.after ?_ (Keeps.ofFrame (State.modCmd_frame _ _ _) rfl)
                refine Keeps.after ?_ (Keeps.ofFrame (State.modArr_frame _ _ _) rfl)
                exact Keeps.refl _
          · refine Keeps.ite ?_ ?_
            · refine Keeps.after ?_ (State.noteLate_keeps _ _ _ _)
              refine Keeps.ite ?_ ?_
              · refine Keeps.after ?_ (Keeps.ofFrame (State.modPart_frame _ _ _) rfl)
                refine Keeps.after ?_ (State.charge_keeps _ _ _)
                refine Keeps.after ?_ (Keeps.ofFrame (State.drawn_frame _) rfl)
                refine Keeps.after ?_ (Keeps.ofFrame (State.bump_frame _) rfl)
                refine Keeps.after ?_ (Keeps.ofFrame (State.modCmd_frame _ _ _) rfl)
                refine Keeps.after ?_ (Keeps.ofFrame (State.modArr_frame _ _ _) rfl)
                exact Keeps.refl _
              · refine Keeps.after ?_ (State.charge_keeps _ _ _)
                refine Keeps.after ?_ (Keeps.ofFrame (State.drawn_frame _) rfl)
                refine Keeps.after ?_ (Keeps.ofFrame (State.bump_frame _) rfl)
                refine Keeps.after ?_ (Keeps.ofFrame (State.modCmd_frame _ _ _) rfl)
                refine Keeps.after ?_ (Keeps.ofFrame (State.modArr_frame _ _ _) rfl)
                exact Keeps.refl _
            · refine Keeps.ite ?_ ?_
              · refine Keeps.after ?_ (Keeps.ofFrame (State.modPart_frame _ _ _) rfl)
                refine Keeps.after ?_ (State.charge_keeps _ _ _)
                refine Keeps.after ?_ (Keeps.ofFrame (State.drawn_frame _) rfl)
                refine Keeps.after ?_ (Keeps.ofFrame (State.bump_frame _) rfl)
                refine Keeps.after ?_ (Keeps.ofFrame (State.modCmd_frame _ _ _) rfl)
                refine Keeps.after ?_ (Keeps.ofFrame (State.modArr_frame _ _ _) rfl)
                exact Keeps.refl _
              · refine Keeps.after ?_ (State.charge_keeps _ _ _)
                refine Keeps.after ?_ (Keeps.ofFrame (State.drawn_frame _) rfl)
                refine Keeps.after ?_ (Keeps.ofFrame (State.bump_frame _) rfl)
                refine Keeps.after ?_ (Keeps.ofFrame (State.modCmd_frame _ _ _) rfl)
                refine Keeps.after ?_ (Keeps.ofFrame (State.modArr_frame _ _ _) rfl)
                exact Keeps.refl _

theorem State.noteCritical_keeps (old : State) (new : State) :
    Keeps new (State.noteCritical old new) := by
  unfold State.noteCritical
  extract_lets
  refine Keeps.foldl _ ?_ (fun u x hu => ?_)
  · exact Keeps.refl _
  · extract_lets
    refine Keeps.foldl _ ?_ (fun u x hu => ?_)
    · assumption
    · refine Keeps.ite ?_ ?_
      · refine Keeps.after ?_ (State.asyncEvent_keeps _ _ _)
        assumption
      · assumption

theorem State.enterFailed_keeps (s : State) (d : Nat) :
    Keeps s (State.enterFailed s d) := by
  unfold State.enterFailed
  refine Keeps.ite ?_ ?_
  · exact Keeps.refl _
  · extract_lets
    refine Keeps.after ?_ (State.noteCritical_keeps _ _)
    refine Keeps.after ?_ (State.endInternal_keeps _ _)
    refine Keeps.after ?_ (Keeps.ofFrame (State.modPower_frame _ _) rfl)
    refine Keeps.foldl _ ?_ (fun u x hu => ?_)
    · refine Keeps.modNvme ?_ rfl rfl
      refine Keeps.after ?_ (State.endNvme_keeps _ _ _)
      refine Keeps.after ?_ (State.endNvme_keeps _ _ _)
      refine Keeps.after ?_ (Keeps.ofFrame (State.drawn_frame _) rfl)
      refine Keeps.ite ?_ ?_
      · exact Keeps.refl _
      · refine Keeps.after ?_ (Keeps.ofFrame (State.putRecord_frame _ _) rfl)
        exact Keeps.refl _
    · refine Keeps.after ?_ (State.commitExtent_keeps _ _ _)
      assumption

theorem State.evalBlock_keeps (s : State) (uid : Nat) (q : Nat) (launch : Nat) (block : Nat) (mismatch : Nat) :
    Keeps s (State.evalBlock s uid q launch block mismatch) := by
  unfold State.evalBlock
  split
  · exact Keeps.refl _
  · split
    · exact Keeps.refl _
    · refine Keeps.ite ?_ ?_
      · exact Keeps.refl _
      · extract_lets
        refine Keeps.ite ?_ ?_
        · refine Keeps.after ?_ (State.conclude_keeps _ _ _ _ _)
          refine Keeps.ite ?_ ?_
          · refine Keeps.after ?_ (Keeps.ofFrame (State.modNand_frame _ _) rfl)
            refine Keeps.after ?_ (Keeps.ofFrame (State.drawn_frame _) rfl)
            refine Keeps.after ?_ (State.logTest_keeps _ _ _ _)
            refine Keeps.after ?_ (Keeps.ofFrame (State.modCmd_frame _ _ _) rfl)
            exact Keeps.refl _
          · exact Keeps.refl _
        · refine Keeps.ite ?_ ?_
          · refine Keeps.after ?_ (State.conclude_keeps _ _ _ _ _)
            refine Keeps.ite ?_ ?_
            · refine Keeps.after ?_ (Keeps.ofFrame (State.modNand_frame _ _) rfl)
              refine Keeps.after ?_ (Keeps.ofFrame (State.drawn_frame _) rfl)
              refine Keeps.after ?_ (State.logTest_keeps _ _ _ _)
              refine Keeps.after ?_ (Keeps.ofFrame (State.modCmd_frame _ _ _) rfl)
              exact Keeps.refl _
            · exact Keeps.refl _
          · refine Keeps.ite ?_ ?_
            · refine Keeps.after ?_ (State.charge_keeps _ _ _)
              refine Keeps.after ?_ (Keeps.ofFrame (State.modQuery_frame _ _ _ _) rfl)
              refine Keeps.ite ?_ ?_
              · refine Keeps.after ?_ (Keeps.ofFrame (State.modNand_frame _ _) rfl)
                refine Keeps.after ?_ (Keeps.ofFrame (State.drawn_frame _) rfl)
                refine Keeps.after ?_ (State.logTest_keeps _ _ _ _)
                refine Keeps.after ?_ (Keeps.ofFrame (State.modCmd_frame _ _ _) rfl)
                exact Keeps.refl _
              · exact Keeps.refl _
            · refine Keeps.after ?_ (Keeps.ofFrame (State.modQuery_frame _ _ _ _) rfl)
              refine Keeps.ite ?_ ?_
              · refine Keeps.after ?_ (Keeps.ofFrame (State.modNand_frame _ _) rfl)
                refine Keeps.after ?_ (Keeps.ofFrame (State.drawn_frame _) rfl)
                refine Keeps.after ?_ (State.logTest_keeps _ _ _ _)
                refine Keeps.after ?_ (Keeps.ofFrame (State.modCmd_frame _ _ _) rfl)
                exact Keeps.refl _
              · exact Keeps.refl _

theorem State.failOp_keeps (s : State) (uid : Nat) (st : Nat) :
    Keeps s (State.failOp s uid st) := by
  unfold State.failOp
  split
  · exact Keeps.refl _
  · refine Keeps.after ?_ (State.recheck_keeps _)
    refine Keeps.after ?_ (State.settle_keeps _)
    refine Keeps.after ?_ (State.conclude_keeps _ _ _ _ _)
    exact Keeps.refl _

theorem State.fetchNvme_keeps (s : State) (fn : Nat) (sqid : Nat) (c : Nat × Nat) :
    Keeps s (State.fetchNvme s fn sqid c) := by
  unfold State.fetchNvme
  extract_lets
  refine Keeps.ite ?_ ?_
  · refine Keeps.modNvme ?_ rfl rfl
    exact Keeps.refl _
  · refine Keeps.after ?_ (State.nvDone_keeps _ _ _ _ _)
    refine Keeps.modNvme ?_ rfl rfl
    exact Keeps.refl _

theorem State.searchPasses_keeps (s : State) (c : Cmd) (n : Nat) :
    Keeps s (State.searchPasses s c n) := by
  unfold State.searchPasses
  extract_lets
  refine Keeps.after ?_ (State.charge_keeps _ _ _)
  refine Keeps.after ?_ (Keeps.ofFrame (State.modCmd_frame _ _ _) rfl)
  exact Keeps.refl _

theorem State.finalize_keeps (s : State) (uid : Nat) (q : Nat) :
    Keeps s (State.finalize s uid q) := by
  unfold State.finalize
  split
  · exact Keeps.refl _
  · refine Keeps.ite ?_ ?_
    · exact Keeps.refl _
    · extract_lets
      split
      · refine Keeps.after ?_ (State.conclude_keeps _ _ _ _ _)
        refine Keeps.after ?_ (State.charge_keeps _ _ _)
        refine Keeps.ite ?_ ?_
        · refine Keeps.after ?_ (State.searchPasses_keeps _ _ _)
          exact Keeps.refl _
        · exact Keeps.refl _
      · extract_lets
        split
        · refine Keeps.after ?_ (State.failScan_keeps _ _ _)
          refine Keeps.ite ?_ ?_
          · refine Keeps.after ?_ (Keeps.ofFrame (State.modQuery_frame _ _ _ _) rfl)
            refine Keeps.after ?_ (State.charge_keeps _ _ _)
            refine Keeps.ite ?_ ?_
            · refine Keeps.after ?_ (State.searchPasses_keeps _ _ _)
              exact Keeps.refl _
            · exact Keeps.refl _
          · refine Keeps.after ?_ (State.charge_keeps _ _ _)
            refine Keeps.after ?_ (Keeps.ofFrame (State.modQuery_frame _ _ _ _) rfl)
            refine Keeps.after ?_ (State.charge_keeps _ _ _)
            refine Keeps.ite ?_ ?_
            · refine Keeps.after ?_ (State.searchPasses_keeps _ _ _)
              exact Keeps.refl _
            · exact Keeps.refl _
        · refine Keeps.ite ?_ ?_
          · refine Keeps.after ?_ (Keeps.ofFrame (State.modQuery_frame _ _ _ _) rfl)
            refine Keeps.after ?_ (State.charge_keeps _ _ _)
            refine Keeps.ite ?_ ?_
            · refine Keeps.after ?_ (State.searchPasses_keeps _ _ _)
              exact Keeps.refl _
            · exact Keeps.refl _
          · refine Keeps.after ?_ (State.charge_keeps _ _ _)
            refine Keeps.after ?_ (Keeps.ofFrame (State.modQuery_frame _ _ _ _) rfl)
            refine Keeps.after ?_ (State.charge_keeps _ _ _)
            refine Keeps.ite ?_ ?_
            · refine Keeps.after ?_ (State.searchPasses_keeps _ _ _)
              exact Keeps.refl _
            · exact Keeps.refl _

theorem State.finishCommit_keeps (s : State) (h : NvmeHdr) (b : Bool) (i : FwImage) :
    Keeps s (State.finishCommit s h b i) := by
  unfold State.finishCommit
  extract_lets
  refine Keeps.ite ?_ ?_
  · refine Keeps.after ?_ (State.nvDone_keeps _ _ _ _ _)
    refine Keeps.after ?_ (Keeps.ofFrame (State.setSlot_frame _ _ _) rfl)
    refine Keeps.after ?_ (Keeps.ofFrame (State.modStore_frame _ _) rfl)
    exact Keeps.refl _
  · refine Keeps.ite ?_ ?_
    · refine Keeps.after ?_ (State.nvDone_keeps _ _ _ _ _)
      refine Keeps.after ?_ (Keeps.ofFrame (State.setSlot_frame _ _ _) rfl)
      refine Keeps.after ?_ (Keeps.ofFrame (State.modStore_frame _ _) rfl)
      exact Keeps.refl _
    · refine Keeps.after ?_ (State.nvDone_keeps _ _ _ _ _)
      refine Keeps.after ?_ (Keeps.ofFrame (State.setSlot_frame _ _ _) rfl)
      refine Keeps.after ?_ (Keeps.ofFrame (State.modStore_frame _ _) rfl)
      exact Keeps.refl _

theorem State.form_keeps (s : State) :
    Keeps s (State.form s) := by
  unfold State.form
  refine Keeps.ite ?_ ?_
  · extract_lets
    refine Keeps.ite ?_ ?_
    · refine Keeps.after ?_ (State.recheck_keeps _)
      refine Keeps.after ?_ (State.settle_keeps _)
      refine Keeps.after ?_ (Keeps.ofFrame (State.modPeer_frame _ _) rfl)
      refine Keeps.after ?_ (Keeps.ofFrame (State.modPeer_frame _ _) rfl)
      exact Keeps.refl _
    · refine Keeps.after ?_ (Keeps.ofFrame (State.modPeer_frame _ _) rfl)
      exact Keeps.refl _
  · exact Keeps.refl _

theorem State.guardFault_keeps (s : State) (h : NvmeHdr) (place : Nat) (lba : Nat) :
    Keeps s (State.guardFault s h place lba) := by
  unfold State.guardFault
  extract_lets
  refine Keeps.after ?_ (State.logTest_keeps _ _ _ _)
  refine Keeps.after ?_ (State.errInfo_keeps _ _ _ _)
  refine Keeps.after ?_ (State.nvEnd_keeps _ _ _ _)
  exact Keeps.refl _

theorem State.haltCores_keeps (s : State) :
    Keeps s (State.haltCores s) := by
  unfold State.haltCores
  extract_lets s1 s2
  have h1 : Keeps s s1 := (((State.clearControllers_keeps _ _).after (State.abortKci_keeps _ _ _)).after
    ((State.clearContexts_keeps _).after (State.clearConfig_keeps _))).after (State.abandonTests_keeps _ _)
  refine Keeps.after ?_ (Keeps.ofFrame (State.modPower_frame _ _) rfl)
  refine Keeps.modNvmeWf ?_ (fun h => h) (fun _ => rfl)
  have h2 : Keeps s s2 := h1.after (Keeps.ofFrame (State.modArrays_frame _ _) rfl)
  exact h2.after (((Keeps.ofFrame (State.trimNand_frame _) rfl).after (Keeps.ofFrame (State.resetStore_frame _) rfl)).after
    (Keeps.ofFrame (State.stopRegions_frame _ _) rfl))

theorem State.kciFetch_keeps (s : State) (e : Entry) (b : Body) :
    Keeps s (State.kciFetch s e b) := by
  unfold State.kciFetch
  split
  · refine Keeps.ite ?_ ?_
    · exact Keeps.refl _
    · extract_lets _ _ _ _ _ _ w7
      refine Keeps.after ?_ (State.checkHeads_keeps _ _)
      refine Keeps.after ?_ (State.settle_keeps _)
      dsimp only [w7]
      split
      · refine Keeps.after ?_ (State.faultCtx_keeps _ _ _ _ _ _ _)
        refine Keeps.after ?_ (Keeps.ofFrame (State.modCmds_frame _ _) rfl)
        refine Keeps.after ?_ (Keeps.ofFrame (State.modCtx_frame _ _ _) rfl)
        refine Keeps.after ?_ (Keeps.ofFrame (State.takeEntry_frame _ _ _) rfl)
        exact Keeps.refl _
      · refine Keeps.ite ?_ ?_
        · refine Keeps.after ?_ (State.conclude_keeps _ _ _ _ _)
          refine Keeps.after ?_ (Keeps.ofFrame (State.modCmds_frame _ _) rfl)
          refine Keeps.after ?_ (Keeps.ofFrame (State.modCtx_frame _ _ _) rfl)
          refine Keeps.after ?_ (Keeps.ofFrame (State.takeEntry_frame _ _ _) rfl)
          exact Keeps.refl _
        · split
          · refine Keeps.ite ?_ ?_
            · refine Keeps.after ?_ (State.faultCtx_keeps _ _ _ _ _ _ _)
              refine Keeps.after ?_ (State.conclude_keeps _ _ _ _ _)
              refine Keeps.after ?_ (Keeps.ofFrame (State.modCmds_frame _ _) rfl)
              refine Keeps.after ?_ (Keeps.ofFrame (State.modCtx_frame _ _ _) rfl)
              refine Keeps.after ?_ (Keeps.ofFrame (State.takeEntry_frame _ _ _) rfl)
              exact Keeps.refl _
            · refine Keeps.after ?_ (State.conclude_keeps _ _ _ _ _)
              refine Keeps.after ?_ (Keeps.ofFrame (State.modCmds_frame _ _) rfl)
              refine Keeps.after ?_ (Keeps.ofFrame (State.modCtx_frame _ _ _) rfl)
              refine Keeps.after ?_ (Keeps.ofFrame (State.takeEntry_frame _ _ _) rfl)
              exact Keeps.refl _
          · refine Keeps.after ?_ (Keeps.ofFrame (State.modCmds_frame _ _) rfl)
            refine Keeps.after ?_ (Keeps.ofFrame (State.modCtx_frame _ _ _) rfl)
            refine Keeps.after ?_ (Keeps.ofFrame (State.takeEntry_frame _ _ _) rfl)
            exact Keeps.refl _
  · exact Keeps.refl _

theorem State.keepFeat_keeps (s : State) (h : NvmeHdr) (key : Nat) (v : W32) :
    Keeps s (State.keepFeat s h key v) := by
  unfold State.keepFeat
  refine Keeps.after ?_ (State.nvDone_keeps _ _ _ _ _)
  refine Keeps.after ?_ (State.modCtl_keeps _ _ _)
  exact Keeps.refl _

theorem State.lacunaEvent_keeps (s : State) :
    Keeps s (State.lacunaEvent s) := by
  unfold State.lacunaEvent
  refine Keeps.foldl _ ?_ (fun u x hu => ?_)
  · exact Keeps.refl _
  · refine Keeps.ite ?_ ?_
    · refine Keeps.after ?_ (State.asyncEvent_keeps _ _ _)
      assumption
    · assumption

theorem State.logNand_keeps (s : State) (die : Nat) (addr : Nat) (status : Nat) (c : Option Cmd) :
    Keeps s (State.logNand s die addr status c) := by
  unfold State.logNand
  extract_lets
  refine Keeps.after ?_ (State.logTest_keeps _ _ _ _)
  exact Keeps.refl _

theorem State.logPort_keeps (s : State) (port : Nat) (partner : Nat) :
    Keeps s (State.logPort s port partner) := by
  unfold State.logPort
  refine Keeps.after ?_ (State.logErr_keeps _ _)
  exact Keeps.refl _

theorem State.logThermal_keeps (s : State) (addr : Nat) :
    Keeps s (State.logThermal s addr) := by
  unfold State.logThermal
  refine Keeps.after ?_ (State.logErr_keeps _ _)
  exact Keeps.refl _

theorem State.loseT0_keeps (s : State) (d : Nat) :
    Keeps s (State.loseT0 s d) := by
  unfold State.loseT0
  refine Keeps.tmapObjs ?_ (fun _ _ => rfl)
  exact Keeps.refl _

theorem State.meetRecords_keeps (s : State) :
    Keeps s (State.meetRecords s) := by
  unfold State.meetRecords
  extract_lets
  split
  · refine Keeps.after ?_ (Keeps.ofFrame (State.modStore_frame _ _) rfl)
    refine Keeps.tmapObjs ?_ (fun _ x => by split <;> rfl)
    refine Keeps.foldl _ ?_ (fun u x hu => ?_)
    · exact Keeps.refl _
    · split
      · refine Keeps.after ?_ (State.addClosed_keeps _ _)
        assumption
      · assumption
  · refine Keeps.after ?_ (Keeps.ofFrame (State.modPower_frame _ _) rfl)
    refine Keeps.after ?_ (State.logErr_keeps _ _)
    refine Keeps.after ?_ (Keeps.ofFrame (State.modStore_frame _ _) rfl)
    refine Keeps.tmapObjs ?_ (fun _ x => by split <;> rfl)
    refine Keeps.foldl _ ?_ (fun u x hu => ?_)
    · exact Keeps.refl _
    · split
      · refine Keeps.after ?_ (State.addClosed_keeps _ _)
        assumption
      · assumption

theorem State.mismatch_keeps (s : State) (o : GroupOp) (src : Nat) (opId : Nat) (offset : Nat) (kind : Nat) (len : Nat) :
    Keeps s (State.mismatch s o src opId offset kind len) := by
  unfold State.mismatch
  refine Keeps.ite ?_ ?_
  · refine Keeps.after ?_ (State.failOp_keeps _ _ _)
    exact Keeps.refl _
  · refine Keeps.after ?_ (Keeps.ofFrame (State.sendMsg_frame _ _) rfl)
    refine Keeps.after ?_ (Keeps.ofFrame (State.modOp_frame _ _ _) rfl)
    exact Keeps.refl _

theorem State.nvm_keeps {a : State} (s : State) (h : NvmeHdr) (op : Nat) (lba : Nat) (f : State → NsSt → State) (h0 : Keeps a s) (hf : ∀ (u0 : State) (u1 : NsSt), Keeps a u0 → Keeps a (f u0 u1)) :
    Keeps a (State.nvm s h op lba f) := by
  unfold State.nvm
  refine Keeps.ite ?_ ?_
  · assumption
  · extract_lets
    refine Keeps.ite ?_ ?_
    · refine Keeps.after ?_ (State.nvDone_keeps _ _ _ _ _)
      refine Keeps.after ?_ (State.begin_keeps _ _ _)
      assumption
    · split
      · refine Keeps.after ?_ (State.nvDone_keeps _ _ _ _ _)
        refine Keeps.after ?_ (State.begin_keeps _ _ _)
        assumption
      · refine Keeps.ite ?_ ?_
        · apply hf
          refine Keeps.after ?_ (State.begin_keeps _ _ _)
          assumption
        · refine Keeps.after ?_ (State.nvDone_keeps _ _ _ _ _)
          refine Keeps.after ?_ (State.begin_keeps _ _ _)
          assumption

theorem State.onMsg_keeps {a : State} (s : State) (src : Nat) (opId : Nat) (offset : Nat) (kind : Nat) (payload : List Byte) (dig : Nat) (mode : Nat) (f : State → GroupOp → State) (h0 : Keeps a s) (hf : ∀ (u0 : State) (u1 : GroupOp), Keeps a u0 → Keeps a (f u0 u1)) :
    Keeps a (State.onMsg s src opId offset kind payload dig mode f) := by
  unfold State.onMsg
  refine Keeps.ite ?_ ?_
  · assumption
  · refine Keeps.ite ?_ ?_
    · refine Keeps.after ?_ (Keeps.ofFrame (State.countStale_frame _ _) rfl)
      assumption
    · split
      · assumption
      · refine Keeps.ite ?_ ?_
        · assumption
        · refine Keeps.ite ?_ ?_
          · refine Keeps.after ?_ (State.mismatch_keeps _ _ _ _ _ _ _)
            assumption
          · apply hf
            refine Keeps.after ?_ (Keeps.ofFrame (State.modOp_frame _ _ _) rfl)
            assumption

theorem State.openPeriod_keeps (s : State) (at' : Nat) :
    Keeps s (State.openPeriod s at') := by
  unfold State.openPeriod
  refine Keeps.modLedger ?_ rfl
  exact Keeps.refl _

theorem State.renewCopies_keeps (s : State) (c : Cmd) (t : TilePlan) :
    Keeps s (State.renewCopies s c t) := by
  unfold State.renewCopies
  refine Keeps.foldl _ ?_ (fun u x hu => ?_)
  · exact Keeps.refl _
  · refine Keeps.modObj ?_ (fun _ hx => hx)
    assumption

theorem State.stage_keeps (s : State) (x1 : Nat) (c : Cmd) (i : Nat) (t : TileSt) (u : State) :
    State.stage s x1 c i t = .ok u → Keeps s u := by
  intro h
  unfold State.stage at h
  extract_lets put at h
  split at h
  · cases h
    exact Keeps.ofFrame (State.modArr_frame _ _ _) rfl
  · split at h
    · cases h
    · extract_lets s1 s2 at h
      cases h
      refine Keeps.after ?_ (Keeps.ofFrame (State.modArr_frame _ _ _) rfl)
      refine Keeps.after ?_ (Keeps.ofFrame (State.modArr_frame _ _ _) rfl)
      have h1 : Keeps s s1 := (State.renewCopies_keeps _ _ _).after (Keeps.ofFrame (State.modTile_frame _ _ _ _) rfl)
      exact Keeps.ite (h1.after (Keeps.ofFrame (State.modCmd_frame _ _ _) rfl)) h1

theorem State.pickLoop_keeps (x0 : Nat) (x1 : State) (x2 : Nat) :
    Keeps x1 (State.pickLoop x0 x1 x2) := by
  unfold State.pickLoop
  split
  · exact Keeps.refl _
  · split
    · exact Keeps.refl _
    · split
      · exact Keeps.refl _
      · split
        · exact Keeps.refl _
        · split
          · refine Keeps.after ?_ (State.stage_keeps _ _ _ _ _ _ (by assumption))
            exact Keeps.refl _
          · refine Keeps.after ?_ (State.pickLoop_keeps _ _ _)
            refine Keeps.after ?_ (State.endSoft_keeps _ _ _ _)
            exact Keeps.refl _

theorem State.pick_keeps (s : State) (x1 : Nat) :
    Keeps s (State.pick s x1) := by
  unfold State.pick
  extract_lets w1 _ w3 _ w5
  split
  · refine Keeps.after ?_ (Keeps.ofFrame (State.refresh_frame _ _) rfl)
    dsimp only [w5]
    clear_value w1
    split
    · refine Keeps.after ?_ (Keeps.ofFrame (State.refresh_frame _ _) rfl)
      refine Keeps.after ?_ (State.pickLoop_keeps _ _ _)
      dsimp only [w3]
      split
      · refine Keeps.after ?_ (State.endHard_keeps _ _ _ _)
        refine Keeps.after ?_ (Keeps.ofFrame (State.modArr_frame _ _ _) rfl)
        exact Keeps.refl _
      · refine Keeps.after ?_ (Keeps.ofFrame (State.modArr_frame _ _ _) rfl)
        exact Keeps.refl _
    · refine Keeps.after ?_ (State.pickLoop_keeps _ _ _)
      dsimp only [w3]
      split
      · refine Keeps.after ?_ (State.endHard_keeps _ _ _ _)
        refine Keeps.after ?_ (Keeps.ofFrame (State.modArr_frame _ _ _) rfl)
        exact Keeps.refl _
      · refine Keeps.after ?_ (Keeps.ofFrame (State.modArr_frame _ _ _) rfl)
        exact Keeps.refl _
  · dsimp only [w5]
    clear_value w1
    split
    · refine Keeps.after ?_ (Keeps.ofFrame (State.refresh_frame _ _) rfl)
      refine Keeps.after ?_ (State.pickLoop_keeps _ _ _)
      dsimp only [w3]
      split
      · refine Keeps.after ?_ (State.endHard_keeps _ _ _ _)
        refine Keeps.after ?_ (Keeps.ofFrame (State.modArr_frame _ _ _) rfl)
        exact Keeps.refl _
      · refine Keeps.after ?_ (Keeps.ofFrame (State.modArr_frame _ _ _) rfl)
        exact Keeps.refl _
    · refine Keeps.after ?_ (State.pickLoop_keeps _ _ _)
      dsimp only [w3]
      split
      · refine Keeps.after ?_ (State.endHard_keeps _ _ _ _)
        refine Keeps.after ?_ (Keeps.ofFrame (State.modArr_frame _ _ _) rfl)
        exact Keeps.refl _
      · refine Keeps.after ?_ (Keeps.ofFrame (State.modArr_frame _ _ _) rfl)
        exact Keeps.refl _

theorem State.post_keeps (s : State) (c : Cmd) (q : QueueSt) :
    Keeps s (State.post s c q) := by
  unfold State.post
  extract_lets
  refine Keeps.after ?_ (State.dropRefs_keeps _ _)
  refine Keeps.after ?_ (Keeps.ofFrame (State.freeSlot_frame _ _) rfl)
  refine Keeps.after ?_ (Keeps.ofFrame (State.modCmds_frame _ _) rfl)
  refine Keeps.modNvme ?_ rfl rfl
  refine Keeps.after ?_ (Keeps.ofFrame (State.drawn_frame _) rfl)
  refine Keeps.ite ?_ ?_
  · refine Keeps.after ?_ (Keeps.ofFrame (State.modCtx_frame _ _ _) rfl)
    refine Keeps.after ?_ (State.hostWrite_keeps _ _ _)
    refine Keeps.ite ?_ ?_
    · refine Keeps.after ?_ (State.addStats_keeps _ _)
      refine Keeps.after ?_ (State.hostWrite_keeps _ _ _)
      exact Keeps.refl _
    · exact Keeps.refl _
  · refine Keeps.after ?_ (Keeps.ofFrame (State.signal_frame _ _ _) rfl)
    refine Keeps.after ?_ (Keeps.ofFrame (State.modCtx_frame _ _ _) rfl)
    refine Keeps.after ?_ (State.hostWrite_keeps _ _ _)
    refine Keeps.ite ?_ ?_
    · refine Keeps.after ?_ (State.addStats_keeps _ _)
      refine Keeps.after ?_ (State.hostWrite_keeps _ _ _)
      exact Keeps.refl _
    · exact Keeps.refl _

theorem State.powerOn_keeps (s0 : State) (cause : Nat) :
    Keeps s0 (State.powerOn s0 cause) := by
  unfold State.powerOn
  extract_lets u
  have hu : Keeps s0 u := (State.loseCmds_keeps _ _).after (State.clearContexts_keeps _)
  refine hu.after (fun x => ?_)
  obtain ⟨⟨h1, h2, h3, _⟩, _, h5, h6⟩ := x
  refine ⟨⟨h1, ?_, h3, rfl⟩, Nat.zero_le _, h5, h6⟩
  intro p hp
  obtain ⟨q, hq, rfl⟩ := List.mem_map.mp hp
  exact h2 q (List.mem_of_mem_filter hq)

theorem State.readPage_keeps (s : State) (die : Nat) (r : NandReq) (cws : List CwRead) :
    Keeps s (State.readPage s die r cws) := by
  unfold State.readPage
  extract_lets
  refine Keeps.after ?_ (Keeps.ofFrame (State.modDie_frame _ _ _) rfl)
  refine Keeps.after ?_ (State.deliver_keeps _ _ _)
  refine Keeps.ite ?_ ?_
  · refine Keeps.after ?_ (Keeps.ofFrame (State.modBlock_frame _ _ _ _) rfl)
    refine Keeps.after ?_ (Keeps.ofFrame (State.modNand_frame _ _) rfl)
    exact Keeps.refl _
  · refine Keeps.after ?_ (Keeps.ofFrame (State.modNand_frame _ _) rfl)
    exact Keeps.refl _

theorem State.readRange_keeps {a : State} (s : State) (h : NvmeHdr) (n : NsSt) (slba : Nat) (nlb : Nat) (prchk : Nat) (pi : PiArgs) (xfer : Bool) (f : State → List Blk → State) (h0 : Keeps a s) (hf : ∀ (u0 : State) (u1 : List Blk), Keeps a u0 → Keeps a (f u0 u1)) :
    Keeps a (State.readRange s h n slba nlb prchk pi xfer f) := by
  unfold State.readRange
  split
  · refine Keeps.after ?_ (State.nvDone_keeps _ _ _ _ _)
    assumption
  · refine Keeps.ite ?_ ?_
    · refine Keeps.after ?_ (State.nvDone_keeps _ _ _ _ _)
      assumption
    · refine Keeps.ite ?_ ?_
      · refine Keeps.ite ?_ ?_
        · refine Keeps.after ?_ (State.nvDone_keeps _ _ _ _ _)
          assumption
        · assumption
      · split
        · refine Keeps.after ?_ (State.nvDoneAt_keeps _ _ _ _ _ _)
          assumption
        · extract_lets
          split
          · refine Keeps.after ?_ (State.guardFault_keeps _ _ _ _)
            refine Keeps.ite ?_ ?_
            · assumption
            · refine Keeps.after ?_ (State.charge_keeps _ _ _)
              assumption
          · split
            · refine Keeps.after ?_ (State.nvDone_keeps _ _ _ _ _)
              refine Keeps.ite ?_ ?_
              · assumption
              · refine Keeps.after ?_ (State.charge_keeps _ _ _)
                assumption
            · apply hf
              refine Keeps.ite ?_ ?_
              · assumption
              · refine Keeps.after ?_ (State.charge_keeps _ _ _)
                assumption

theorem State.resetFlash_keeps (s : State) :
    Keeps s (State.resetFlash s) := by
  unfold State.resetFlash
  extract_lets
  refine Keeps.after ?_ (Keeps.ofFrame (State.stopRegions_frame _ _) rfl)
  refine Keeps.after ?_ (Keeps.ofFrame (State.nandReset_frame _) rfl)
  refine Keeps.after ?_ (State.endNvme_keeps _ _ _)
  refine Keeps.after ?_ (State.endInternal_keeps _ _)
  exact Keeps.refl _

theorem State.resetMatrix_keeps (s : State) (d : Nat) :
    Keeps s (State.resetMatrix s d) := by
  unfold State.resetMatrix
  extract_lets
  refine Keeps.after ?_ (Keeps.ofFrame (State.stopRegions_frame _ _) rfl)
  refine Keeps.after ?_ (State.loseT0_keeps _ _)
  refine Keeps.after ?_ (Keeps.ofFrame (State.modArrays_frame _ _) rfl)
  refine Keeps.after ?_ (State.abandonTests_keeps _ _)
  refine Keeps.after ?_ (State.endInternal_keeps _ _)
  exact Keeps.refl _

theorem State.recover_keeps (s : State) (d : Nat) (cause : Nat) :
    Keeps s (State.recover s d cause) := by
  unfold State.recover
  refine Keeps.ite ?_ ?_
  · exact Keeps.refl _
  · extract_lets
    refine Keeps.ite ?_ ?_
    · refine Keeps.after ?_ (State.enterFailed_keeps _ _)
      refine Keeps.after ?_ (Keeps.ofFrame (State.modPower_frame _ _) rfl)
      refine Keeps.ite ?_ ?_
      · refine Keeps.after ?_ (State.haltCores_keeps _)
        refine Keeps.after ?_ (State.logErr_keeps _ _)
        refine Keeps.after ?_ (Keeps.ofFrame (State.modPower_frame _ _) rfl)
        exact Keeps.refl _
      · refine Keeps.ite ?_ ?_
        · refine Keeps.after ?_ (State.resetFlash_keeps _)
          refine Keeps.after ?_ (State.logErr_keeps _ _)
          refine Keeps.after ?_ (Keeps.ofFrame (State.modPower_frame _ _) rfl)
          exact Keeps.refl _
        · refine Keeps.after ?_ (State.resetMatrix_keeps _ _)
          refine Keeps.after ?_ (State.logErr_keeps _ _)
          refine Keeps.after ?_ (Keeps.ofFrame (State.modPower_frame _ _) rfl)
          exact Keeps.refl _
    · refine Keeps.after ?_ (Keeps.ofFrame (State.modPower_frame _ _) rfl)
      refine Keeps.ite ?_ ?_
      · refine Keeps.after ?_ (State.haltCores_keeps _)
        refine Keeps.after ?_ (State.logErr_keeps _ _)
        refine Keeps.after ?_ (Keeps.ofFrame (State.modPower_frame _ _) rfl)
        exact Keeps.refl _
      · refine Keeps.ite ?_ ?_
        · refine Keeps.after ?_ (State.resetFlash_keeps _)
          refine Keeps.after ?_ (State.logErr_keeps _ _)
          refine Keeps.after ?_ (Keeps.ofFrame (State.modPower_frame _ _) rfl)
          exact Keeps.refl _
        · refine Keeps.after ?_ (State.resetMatrix_keeps _ _)
          refine Keeps.after ?_ (State.logErr_keeps _ _)
          refine Keeps.after ?_ (Keeps.ofFrame (State.modPower_frame _ _) rfl)
          exact Keeps.refl _

theorem State.relevel_keeps (s : State) (addr : Nat) :
    Keeps s (State.relevel s addr) := by
  unfold State.relevel
  extract_lets
  refine Keeps.after ?_ (Keeps.ofFrame (State.reclamp_frame _) rfl)
  refine Keeps.after ?_ (State.noteCritical_keeps _ _)
  refine Keeps.ite ?_ ?_
  · refine Keeps.after ?_ (State.logThermal_keeps _ _)
    refine Keeps.after ?_ (Keeps.ofFrame (State.modPower_frame _ _) rfl)
    exact Keeps.refl _
  · refine Keeps.after ?_ (Keeps.ofFrame (State.modPower_frame _ _) rfl)
    exact Keeps.refl _

theorem State.rerankQuery_keeps (s : State) (uid : Nat) (q : Nat) :
    Keeps s (State.rerankQuery s uid q) := by
  unfold State.rerankQuery
  split
  · exact Keeps.refl _
  · refine Keeps.ite ?_ ?_
    · exact Keeps.refl _
    · extract_lets
      refine Keeps.ite ?_ ?_
      · refine Keeps.after ?_ (State.conclude_keeps _ _ _ _ _)
        exact Keeps.refl _
      · split
        · refine Keeps.after ?_ (State.conclude_keeps _ _ _ _ _)
          exact Keeps.refl _
        · extract_lets
          refine Keeps.after ?_ (State.searchDone_keeps _ _)
          refine Keeps.after ?_ (Keeps.ofFrame (State.modQuery_frame _ _ _ _) rfl)
          refine Keeps.after ?_ (State.charge_keeps _ _ _)
          refine Keeps.after ?_ (State.searchPasses_keeps _ _ _)
          exact Keeps.refl _

theorem State.resetPart_keeps (s : State) (part : Nat) :
    Keeps s (State.resetPart s part) := by
  unfold State.resetPart
  extract_lets
  refine Keeps.after ?_ (State.recheck_keeps _)
  refine Keeps.after ?_ (State.settle_keeps _)
  refine Keeps.foldl _ ?_ (fun u x hu => ?_)
  · refine Keeps.after ?_ (State.abandonTests_keeps _ _)
    refine Keeps.after ?_ (State.dropStaging_keeps _ _)
    refine Keeps.foldl _ ?_ (fun u x hu => ?_)
    · refine Keeps.after ?_ (State.concludeAll_keeps _ _ _)
      refine Keeps.after ?_ (Keeps.ofFrame (State.endOps_frame _ _ _) rfl)
      exact Keeps.refl _
    · refine Keeps.after ?_ (Keeps.ofFrame (State.modArr_frame _ _ _) rfl)
      assumption
  · refine Keeps.after ?_ (Keeps.ofFrame (State.modPart_frame _ _ _) rfl)
    assumption

theorem State.retireArray_keeps (s : State) (x1 : Nat) :
    Keeps s (State.retireArray s x1) := by
  unfold State.retireArray
  extract_lets
  refine Keeps.after ?_ (State.recheck_keeps _)
  refine Keeps.after ?_ (State.settle_keeps _)
  refine Keeps.after ?_ (State.endService_keeps _ _)
  refine Keeps.foldl _ ?_ (fun u x hu => ?_)
  · refine Keeps.after ?_ (Keeps.ofFrame (State.modCmds_frame _ _) rfl)
    refine Keeps.after ?_ (Keeps.ofFrame (State.modArr_frame _ _ _) rfl)
    exact Keeps.refl _
  · refine Keeps.after ?_ (Keeps.ofFrame (State.refresh_frame _ _) rfl)
    assumption

theorem State.retireUnit_keeps (s : State) (t : TestSt) (axis : Nat) :
    Keeps s (State.retireUnit s t axis) := by
  unfold State.retireUnit
  extract_lets
  refine Keeps.ite ?_ ?_
  · refine Keeps.ite ?_ ?_
    · refine Keeps.ite ?_ ?_
      · refine Keeps.after ?_ (Keeps.ofFrame (State.modArr_frame _ _ _) rfl)
        refine Keeps.after ?_ (State.logVerdict_keeps _ _ _)
        refine Keeps.after ?_ (Keeps.ofFrame (State.modStore_frame _ _) rfl)
        exact Keeps.refl _
      · refine Keeps.after ?_ (State.retireArray_keeps _ _)
        refine Keeps.after ?_ (State.logVerdict_keeps _ _ _)
        refine Keeps.after ?_ (Keeps.ofFrame (State.modStore_frame _ _) rfl)
        exact Keeps.refl _
    · refine Keeps.ite ?_ ?_
      · refine Keeps.after ?_ (Keeps.ofFrame (State.modArr_frame _ _ _) rfl)
        refine Keeps.after ?_ (State.logVerdict_keeps _ _ _)
        refine Keeps.after ?_ (Keeps.ofFrame (State.modStore_frame _ _) rfl)
        exact Keeps.refl _
      · refine Keeps.after ?_ (State.retireArray_keeps _ _)
        refine Keeps.after ?_ (State.logVerdict_keeps _ _ _)
        refine Keeps.after ?_ (Keeps.ofFrame (State.modStore_frame _ _) rfl)
        exact Keeps.refl _
  · refine Keeps.ite ?_ ?_
    · refine Keeps.after ?_ (State.retireArray_keeps _ _)
      refine Keeps.after ?_ (State.logVerdict_keeps _ _ _)
      refine Keeps.after ?_ (Keeps.ofFrame (State.modStore_frame _ _) rfl)
      exact Keeps.refl _
    · refine Keeps.ite ?_ ?_
      · refine Keeps.ite ?_ ?_
        · refine Keeps.after ?_ (Keeps.ofFrame (State.retireDie_frame _ _) rfl)
          refine Keeps.after ?_ (State.logVerdict_keeps _ _ _)
          refine Keeps.after ?_ (Keeps.ofFrame (State.modStore_frame _ _) rfl)
          exact Keeps.refl _
        · refine Keeps.after ?_ (Keeps.ofFrame (State.retireBlock_frame _ _ _) rfl)
          refine Keeps.after ?_ (State.logVerdict_keeps _ _ _)
          refine Keeps.after ?_ (Keeps.ofFrame (State.modStore_frame _ _) rfl)
          exact Keeps.refl _
      · refine Keeps.ite ?_ ?_
        · refine Keeps.after ?_ (Keeps.ofFrame (State.modNand_frame _ _) rfl)
          refine Keeps.after ?_ (State.logVerdict_keeps _ _ _)
          refine Keeps.after ?_ (Keeps.ofFrame (State.modStore_frame _ _) rfl)
          exact Keeps.refl _
        · refine Keeps.ite ?_ ?_
          · refine Keeps.after ?_ (Keeps.ofFrame (State.modPeer_frame _ _) rfl)
            refine Keeps.after ?_ (State.logVerdict_keeps _ _ _)
            refine Keeps.after ?_ (Keeps.ofFrame (State.modStore_frame _ _) rfl)
            exact Keeps.refl _
          · refine Keeps.after ?_ (State.logVerdict_keeps _ _ _)
            refine Keeps.after ?_ (Keeps.ofFrame (State.modStore_frame _ _) rfl)
            exact Keeps.refl _

theorem State.rowVerdict_keeps (s : State) (x1 : Nat) (pass : Nat) (row : Nat) :
    Keeps s (State.rowVerdict s x1 pass row) := by
  unfold State.rowVerdict
  split
  · exact Keeps.refl _
  · split
    · exact Keeps.refl _
    · split
      · exact Keeps.refl _
      · extract_lets
        refine Keeps.ite ?_ ?_
        · exact Keeps.refl _
        · refine Keeps.ite ?_ ?_
          · refine Keeps.ite ?_ ?_
            · refine Keeps.after ?_ (Keeps.ofFrame (State.refresh_frame _ _) rfl)
              refine Keeps.after ?_ (Keeps.ofFrame (State.modTile_frame _ _ _ _) rfl)
              refine Keeps.after ?_ (Keeps.ofFrame (State.modArr_frame _ _ _) rfl)
              exact Keeps.refl _
            · rename_i w2 _ _ _ _ _ _
              dsimp only [w2]
              refine Keeps.after ?_ (Keeps.ofFrame (State.modArr_frame _ _ _) rfl)
              exact Keeps.refl _
          · refine Keeps.ite ?_ ?_
            · refine Keeps.after ?_ (State.failCheck_keeps _ _ _)
              refine Keeps.after ?_ (State.logCheck_keeps _ _ _ _ _ _)
              refine Keeps.after ?_ (Keeps.ofFrame (State.modCmd_frame _ _ _) rfl)
              exact Keeps.refl _
            · refine Keeps.ite ?_ ?_
              · refine Keeps.after ?_ (Keeps.ofFrame (State.refresh_frame _ _) rfl)
                refine Keeps.after ?_ (Keeps.ofFrame (State.modTile_frame _ _ _ _) rfl)
                refine Keeps.after ?_ (Keeps.ofFrame (State.modArr_frame _ _ _) rfl)
                refine Keeps.after ?_ (Keeps.ofFrame (State.modTile_frame _ _ _ _) rfl)
                refine Keeps.after ?_ (State.logCheck_keeps _ _ _ _ _ _)
                refine Keeps.after ?_ (Keeps.ofFrame (State.modCmd_frame _ _ _) rfl)
                exact Keeps.refl _
              · rename_i w3 _ _ _ _ _ _
                dsimp only [w3]
                refine Keeps.after ?_ (Keeps.ofFrame (State.modArr_frame _ _ _) rfl)
                refine Keeps.after ?_ (Keeps.ofFrame (State.modTile_frame _ _ _ _) rfl)
                refine Keeps.after ?_ (State.logCheck_keeps _ _ _ _ _ _)
                refine Keeps.after ?_ (Keeps.ofFrame (State.modCmd_frame _ _ _) rfl)
                exact Keeps.refl _

theorem State.wipe_keeps (s : State) :
    Keeps s (State.wipe s) := by
  unfold State.wipe
  extract_lets
  refine Keeps.foldl _ ?_ (fun u x hu => ?_)
  · refine Keeps.after ?_ (Keeps.ofFrame (State.modCtxs_frame _ _) rfl)
    refine Keeps.modNvme ?_ rfl rfl
    refine Keeps.foldl _ ?_ (fun u x hu => ?_)
    · exact Keeps.refl _
    · refine Keeps.after ?_ (State.dropNsCache_keeps _ _)
      assumption
  · refine Keeps.after ?_ (State.destroyObj_keeps _ _)
    assumption

theorem State.sanitizeStart_keeps (s : State) (h : NvmeHdr) (kind : Nat) :
    Keeps s (State.sanitizeStart s h kind) := by
  unfold State.sanitizeStart
  refine Keeps.ite ?_ ?_
  · refine Keeps.after ?_ (State.nvDone_keeps _ _ _ _ _)
    exact Keeps.refl _
  · refine Keeps.ite ?_ ?_
    · refine Keeps.after ?_ (State.nvDone_keeps _ _ _ _ _)
      exact Keeps.refl _
    · extract_lets
      refine Keeps.after ?_ (State.nvDone_keeps _ _ _ _ _)
      refine Keeps.modNvme ?_ rfl rfl
      refine Keeps.after ?_ (State.wipe_keeps _)
      exact Keeps.refl _

theorem State.searchStep_keeps {a : State} (s : State) (ok : Bool) (f : State → State) (h0 : Keeps a s) (hf : ∀ (u0 : State), Keeps a u0 → Keeps a (f u0)) :
    Keeps a (State.searchStep s ok f) := by
  unfold State.searchStep
  refine Keeps.ite ?_ ?_
  · refine Keeps.after ?_ (State.recheck_keeps _)
    refine Keeps.after ?_ (State.settle_keeps _)
    apply hf
    assumption
  · assumption

theorem State.sendLog_keeps (s : State) (h : NvmeHdr) (dst : Nat) (off : Nat) (len : Nat) (bs : List Byte) :
    Keeps s (State.sendLog s h dst off len bs) := by
  unfold State.sendLog
  refine Keeps.after ?_ (State.nvDone_keeps _ _ _ _ _)
  refine Keeps.after ?_ (Keeps.ofFrame (State.drawn_frame _) rfl)
  refine Keeps.after ?_ (State.hostWrite_keeps _ _ _)
  exact Keeps.refl _

theorem State.sendPage_keeps (s : State) (h : NvmeHdr) (dst : Nat) (bs : List Byte) :
    Keeps s (State.sendPage s h dst bs) := by
  unfold State.sendPage
  refine Keeps.after ?_ (State.nvDone_keeps _ _ _ _ _)
  refine Keeps.after ?_ (Keeps.ofFrame (State.drawn_frame _) rfl)
  refine Keeps.after ?_ (State.hostWrite_keeps _ _ _)
  exact Keeps.refl _

theorem State.sendTable_keeps (s : State) (uid : Nat) (q : Nat) :
    Keeps s (State.sendTable s uid q) := by
  unfold State.sendTable
  split
  · exact Keeps.refl _
  · refine Keeps.ite ?_ ?_
    · exact Keeps.refl _
    · extract_lets
      refine Keeps.ite ?_ ?_
      · exact Keeps.refl _
      · split
        · refine Keeps.after ?_ (State.conclude_keeps _ _ _ _ _)
          refine Keeps.ite ?_ ?_
          · refine Keeps.after ?_ (Keeps.ofFrame (State.bump_frame _) rfl)
            refine Keeps.after ?_ (Keeps.ofFrame (State.modCmd_frame _ _ _) rfl)
            rename_i w3 _ _ _ _ _
            dsimp only [w3]
            split
            · refine Keeps.after ?_ (State.searchPasses_keeps _ _ _)
              refine Keeps.after ?_ (Keeps.ofFrame (State.modCmd_frame _ _ _) rfl)
              exact Keeps.refl _
            · refine Keeps.after ?_ (Keeps.ofFrame (State.modCmd_frame _ _ _) rfl)
              exact Keeps.refl _
          · exact Keeps.refl _
        · refine Keeps.after ?_ (State.charge_keeps _ _ _)
          refine Keeps.after ?_ (Keeps.ofFrame (State.modCmd_frame _ _ _) rfl)
          refine Keeps.after ?_ (Keeps.ofFrame (State.modQuery_frame _ _ _ _) rfl)
          refine Keeps.ite ?_ ?_
          · refine Keeps.after ?_ (Keeps.ofFrame (State.bump_frame _) rfl)
            refine Keeps.after ?_ (Keeps.ofFrame (State.modCmd_frame _ _ _) rfl)
            rename_i w4 _ _ _ _ _ _ _
            dsimp only [w4]
            split
            · refine Keeps.after ?_ (State.searchPasses_keeps _ _ _)
              refine Keeps.after ?_ (Keeps.ofFrame (State.modCmd_frame _ _ _) rfl)
              exact Keeps.refl _
            · refine Keeps.after ?_ (Keeps.ofFrame (State.modCmd_frame _ _ _) rfl)
              exact Keeps.refl _
          · exact Keeps.refl _

theorem State.setFeat_keeps {a : State} (s : State) (h : NvmeHdr) (fid : Nat) (f : State → State) (h0 : Keeps a s) (hf : ∀ (u0 : State), Keeps a u0 → Keeps a (f u0)) :
    Keeps a (State.setFeat s h fid f) := by
  unfold State.setFeat
  refine State.admin_keeps _ _ _ _ _ ?_ ?_
  · assumption
  · intro _
    intro _
    refine Keeps.ite ?_ ?_
    · refine Keeps.after ?_ (State.nvDone_keeps _ _ _ _ _)
      assumption
    · apply hf
      assumption

theorem State.slotWrite_keeps (s : State) (ctx : Nat) (slot : Nat) (off : Nat) (data : List Byte) :
    Keeps s (State.slotWrite s ctx slot off data) := by
  unfold State.slotWrite
  extract_lets
  refine Keeps.ite ?_ ?_
  · exact Keeps.refl _
  · refine Keeps.ite ?_ ?_
    · refine Keeps.after ?_ (Keeps.ofFrame (State.modCtx_frame _ _ _) rfl)
      exact Keeps.refl _
    · refine Keeps.ite ?_ ?_
      · exact Keeps.refl _
      · refine Keeps.ite ?_ ?_
        · refine Keeps.ite ?_ ?_
          · refine Keeps.after ?_ (State.settle_keeps _)
            refine Keeps.after ?_ (State.faultCtx_keeps _ _ _ _ _ _ _)
            refine Keeps.after ?_ (Keeps.ofFrame (State.bump_frame _) rfl)
            refine Keeps.after ?_ (Keeps.ofFrame (State.modCtx_frame _ _ _) rfl)
            exact Keeps.refl _
          · refine Keeps.after ?_ (Keeps.ofFrame (State.bump_frame _) rfl)
            refine Keeps.after ?_ (Keeps.ofFrame (State.modCtx_frame _ _ _) rfl)
            exact Keeps.refl _
        · refine Keeps.after ?_ (Keeps.ofFrame (State.modCtx_frame _ _ _) rfl)
          exact Keeps.refl _

theorem State.sqTail_keeps (s : State) (ctx : Nat) (queue : Nat) (tail : Nat) (entries : List (List Byte)) :
    Keeps s (State.sqTail s ctx queue tail entries) := by
  unfold State.sqTail
  split
  · exact Keeps.refl _
  · refine Keeps.ite ?_ ?_
    · exact Keeps.refl _
    · refine Keeps.ite ?_ ?_
      · refine Keeps.after ?_ (State.doorbellFault_keeps _ _ _ _)
        exact Keeps.refl _
      · refine Keeps.ite ?_ ?_
        · exact Keeps.refl _
        · refine Keeps.after ?_ (State.checkHeads_keeps _ _)
          refine Keeps.after ?_ (Keeps.ofFrame (State.modCtx_frame _ _ _) rfl)
          exact Keeps.refl _

theorem State.start_keeps (s : State) (cause : Nat) (refclk : Bool) :
    Keeps s (State.start s cause refclk) := by
  unfold State.start
  extract_lets s1 s2 s3 s4 s5
  have h1 : Keeps s s1 := Keeps.ofFrame (State.modPower_frame _ _) rfl
  have h2 : Keeps s s2 := h1.after (((((Keeps.ofFrame (State.readJournal_frame _) rfl).after (Keeps.ofFrame (State.boot_frame _) rfl)).after
    (Keeps.ofFrame (State.startTime_frame _) rfl)).after (Keeps.ofFrame (State.lockRegions_frame _) rfl)).after (State.meetRecords_keeps _))
  have h3 : Keeps s s3 := h2.after ((Keeps.ite (Keeps.refl _) (State.openPeriod_keeps _ _)).after
    ((Keeps.ofFrame (State.readPlans_frame _) rfl).after (Keeps.ofFrame (State.dropQuiet_frame _) rfl)))
  have h4 : Keeps s s4 := h3.after ((((Keeps.ofFrame (State.copyRecords_frame _ _) rfl).after (State.commitCache_keeps _)).after
    (State.discardVolatile_keeps _)).after (Keeps.ofFrame (State.retarget_frame _) rfl))
  clear_value s1 s2 s3 s4
  have h5 : Keeps s s5 := h4.tmapObjs (fun _ _ => rfl)
  clear_value s5
  refine Keeps.modNvme ?_ (by rfl) (by rfl)
  exact (h5.after (Keeps.ofFrame (State.modPower_frame _ _) rfl)).after (Keeps.ofFrame (State.modPeer_frame _ _) rfl)

theorem State.submit_keeps (s : State) (es : List Extent) :
    Keeps s (State.submit s es) := by
  unfold State.submit
  extract_lets
  refine Keeps.ite ?_ ?_
  · refine Keeps.after ?_ (State.admitPieces_keeps _ _)
    refine Keeps.after ?_ (Keeps.ofFrame (State.bumpBy_frame _ _) rfl)
    exact Keeps.refl _
  · refine Keeps.modNvme ?_ rfl rfl
    refine Keeps.after ?_ (Keeps.ofFrame (State.bumpBy_frame _ _) rfl)
    exact Keeps.refl _

theorem State.uncorrectable_keeps (s : State) (die : Nat) (cw : Nat) (r : NandReq) :
    Keeps s (State.uncorrectable s die cw r) := by
  unfold State.uncorrectable
  extract_lets addr c s1 s2
  have h1 : Keeps s s1 := (Keeps.ofFrame (State.countLadder_frame _ _) rfl).after (State.logNand_keeps _ _ _ _ _)
  have h2 : Keeps s s2 := by
    dsimp only [s2]
    split
    · refine h1.modNvme ?_ ?_ <;> split <;> rfl
    · exact h1
  cases c with
  | some c =>
    exact h2.after ((((Keeps.ofFrame (State.endOps_frame _ _ _) rfl).after (State.conclude_keeps _ _ _ _ _)).after
      (State.settle_keeps _)).after (State.recheck_keeps _))
  | none => exact h2

theorem State.unwritable_keeps (s : State) (c : Cmd) (addr : Nat) :
    Keeps s (State.unwritable s c addr) := by
  unfold State.unwritable
  extract_lets
  refine Keeps.after ?_ (State.faultCtx_keeps _ _ _ _ _ _ _)
  refine Keeps.after ?_ (State.dropRefs_keeps _ _)
  refine Keeps.after ?_ (Keeps.ofFrame (State.freeSlot_frame _ _) rfl)
  refine Keeps.after ?_ (State.loseCmds_keeps _ _)
  refine Keeps.after ?_ (State.abortAdd_keeps _ _ _)
  exact Keeps.refl _

theorem State.writeErrSelHi_keeps (s : State) (value : W32) :
    Keeps s (State.writeErrSelHi s value) := by
  unfold State.writeErrSelHi
  extract_lets
  refine Keeps.modErrs ?_ le_rfl rfl
  exact Keeps.refl _

theorem State.writeErrVec_keeps (s : State) (value : W32) :
    Keeps s (State.writeErrVec s value) := by
  unfold State.writeErrVec
  refine Keeps.ite ?_ ?_
  · refine Keeps.after ?_ (Keeps.ofFrame (State.refuse_frame _ _ _) rfl)
    exact Keeps.refl _
  · refine Keeps.modErrs ?_ le_rfl rfl
    exact Keeps.refl _

theorem State.writeExcl_keeps (s : State) (part : Nat) (value : W32) :
    Keeps s (State.writeExcl s part value) := by
  unfold State.writeExcl
  extract_lets
  refine Keeps.ite ?_ ?_
  · exact Keeps.refl _
  · refine Keeps.ite ?_ ?_
    · refine Keeps.after ?_ (Keeps.ofFrame (State.refuse_frame _ _ _) rfl)
      exact Keeps.refl _
    · refine Keeps.ite ?_ ?_
      · refine Keeps.ite ?_ ?_
        · refine Keeps.after ?_ (State.abortJob_keeps _ _)
          exact Keeps.refl _
        · exact Keeps.refl _
      · refine Keeps.ite ?_ ?_
        · refine Keeps.after ?_ (Keeps.ofFrame (State.refuse_frame _ _ _) rfl)
          exact Keeps.refl _
        · refine Keeps.foldl _ ?_ (fun u x hu => ?_)
          · exact Keeps.refl _
          · refine Keeps.after ?_ (Keeps.ofFrame (State.modPart_frame _ _ _) rfl)
            assumption

theorem State.writeGroupCfg_keeps (s : State) (value : W32) :
    Keeps s (State.writeGroupCfg s value) := by
  unfold State.writeGroupCfg
  extract_lets
  refine Keeps.ite ?_ ?_
  · refine Keeps.ite ?_ ?_
    · refine Keeps.after ?_ (Keeps.ofFrame (State.refuse_frame _ _ _) rfl)
      exact Keeps.refl _
    · refine Keeps.ite ?_ ?_
      · exact Keeps.refl _
      · refine Keeps.after ?_ (Keeps.ofFrame (State.modPeer_frame _ _) rfl)
        refine Keeps.after ?_ (State.endAllOps_keeps _ _)
        exact Keeps.refl _
  · refine Keeps.ite ?_ ?_
    · refine Keeps.ite ?_ ?_
      · refine Keeps.after ?_ (Keeps.ofFrame (State.modPeer_frame _ _) rfl)
        exact Keeps.refl _
      · refine Keeps.after ?_ (Keeps.ofFrame (State.refuse_frame _ _ _) rfl)
        exact Keeps.refl _
    · refine Keeps.after ?_ (Keeps.ofFrame (State.modPeer_frame _ _) rfl)
      exact Keeps.refl _

theorem State.writeLedgPeriod_keeps (s : State) (value : W32) :
    Keeps s (State.writeLedgPeriod s value) := by
  unfold State.writeLedgPeriod
  extract_lets
  refine Keeps.ite ?_ ?_
  · refine Keeps.after ?_ (Keeps.ofFrame (State.refuse_frame _ _ _) rfl)
    exact Keeps.refl _
  · refine Keeps.modLedger ?_ rfl
    exact Keeps.refl _

theorem State.writeLedgAck_keeps (s : State) (value : W32) :
    Keeps s (State.writeLedgAck s value) := by
  unfold State.writeLedgAck
  extract_lets
  refine Keeps.ite ?_ ?_
  · refine Keeps.after ?_ (Keeps.ofFrame (State.refuse_frame _ _ _) rfl)
    exact Keeps.refl _
  · refine Keeps.modLedger ?_ rfl
    exact Keeps.refl _

theorem State.writeLedgSelHi_keeps (s : State) (value : W32) :
    Keeps s (State.writeLedgSelHi s value) := by
  unfold State.writeLedgSelHi
  extract_lets
  refine Keeps.modLedger ?_ rfl
  exact Keeps.refl _

theorem State.writeLedgCtxSel_keeps (s : State) (value : W32) :
    Keeps s (State.writeLedgCtxSel s value) := by
  unfold State.writeLedgCtxSel
  extract_lets
  refine Keeps.modLedger ?_ rfl
  exact Keeps.refl _

theorem State.writeGlobal_keeps (s : State) (off : Nat) (v : W32) :
    Keeps s (State.writeGlobal s off v) := by
  unfold State.writeGlobal
  extract_lets _ w2
  refine Keeps.ite ?_ ?_
  · refine Keeps.ite ?_ ?_
    · refine Keeps.after ?_ (Keeps.ofFrame (State.modMgmt_frame _ _) rfl)
      exact Keeps.refl _
    · refine Keeps.ite ?_ ?_
      · refine Keeps.after ?_ (Keeps.ofFrame (State.startCheck_frame _) rfl)
        exact Keeps.refl _
      · exact Keeps.refl _
  · refine Keeps.ite ?_ ?_
    · split
      · refine Keeps.after ?_ (Keeps.ofFrame (State.writeQuota_frame _ _ _) rfl)
        exact Keeps.refl _
      · refine Keeps.after ?_ (Keeps.ofFrame (State.writeResv_frame _ _ _) rfl)
        exact Keeps.refl _
      · refine Keeps.after ?_ (State.writeExcl_keeps _ _ _)
        exact Keeps.refl _
      · refine Keeps.ite ?_ ?_
        · refine Keeps.after ?_ (State.resetPart_keeps _ _)
          exact Keeps.refl _
        · exact Keeps.refl _
      · exact Keeps.refl _
    · refine Keeps.ite ?_ ?_
      · split
        · refine Keeps.after ?_ (Keeps.ofFrame (State.writeAssign_frame _ _ _) rfl)
          exact Keeps.refl _
        · refine Keeps.ite ?_ ?_
          · refine Keeps.after ?_ (Keeps.ofFrame (State.resetCtx_frame _ _ _) rfl)
            exact Keeps.refl _
          · exact Keeps.refl _
        · exact Keeps.refl _
      · refine Keeps.ite ?_ ?_
        · refine Keeps.ite ?_ ?_
          · refine Keeps.after ?_ (Keeps.ofFrame (State.writeT2Quota_frame _ _ _) rfl)
            exact Keeps.refl _
          · exact Keeps.refl _
        · refine Keeps.ite ?_ ?_
          · refine Keeps.ite ?_ ?_
            · refine Keeps.after ?_ (Keeps.ofFrame (State.writeTest_frame _ _ _) rfl)
              exact Keeps.refl _
            · exact Keeps.refl _
          · refine Keeps.ite ?_ ?_
            · refine Keeps.ite ?_ ?_
              · refine Keeps.after ?_ (Keeps.ofFrame (State.modMgmt_frame _ _) rfl)
                exact Keeps.refl _
              · refine Keeps.ite ?_ ?_
                · refine Keeps.after ?_ (Keeps.ofFrame (State.writeKeyCtl_frame _ _) rfl)
                  exact Keeps.refl _
                · refine Keeps.ite ?_ ?_
                  · refine Keeps.after ?_ (Keeps.ofFrame (State.modMgmt_frame _ _) rfl)
                    exact Keeps.refl _
                  · exact Keeps.refl _
            · refine Keeps.ite ?_ ?_
              · clear_value w2
                split
                · refine Keeps.ite ?_ ?_
                  · refine Keeps.after ?_ (Keeps.ofFrame (State.refuse_frame _ _ _) rfl)
                    exact Keeps.refl _
                  · refine Keeps.after ?_ (Keeps.ofFrame (State.modPeer_frame _ _) rfl)
                    exact Keeps.refl _
                · refine Keeps.after ?_ (State.writeGroupCfg_keeps _ _)
                  exact Keeps.refl _
                · refine Keeps.after ?_ (Keeps.ofFrame (State.writeBind_frame _ _) rfl)
                  exact Keeps.refl _
                · refine Keeps.after ?_ (Keeps.ofFrame (State.writeProgress_frame _ _) rfl)
                  exact Keeps.refl _
                · exact Keeps.refl _
              · refine Keeps.ite ?_ ?_
                · clear_value w2
                  split
                  · refine Keeps.ite ?_ ?_
                    · refine Keeps.modErrs ?_ le_rfl rfl
                      exact Keeps.refl _
                    · exact Keeps.refl _
                  · refine Keeps.modErrs ?_ le_rfl rfl
                    exact Keeps.refl _
                  · refine Keeps.after ?_ (State.writeErrSelHi_keeps _ _)
                    exact Keeps.refl _
                  · refine Keeps.after ?_ (State.writeErrVec_keeps _ _)
                    exact Keeps.refl _
                  · exact Keeps.refl _
                · refine Keeps.ite ?_ ?_
                  · clear_value w2
                    split
                    · refine Keeps.after ?_ (State.writeLedgPeriod_keeps _ _)
                      exact Keeps.refl _
                    · refine Keeps.modLedger ?_ rfl
                      exact Keeps.refl _
                    · refine Keeps.after ?_ (State.writeLedgAck_keeps _ _)
                      exact Keeps.refl _
                    · refine Keeps.modLedger ?_ rfl
                      exact Keeps.refl _
                    · refine Keeps.after ?_ (State.writeLedgSelHi_keeps _ _)
                      exact Keeps.refl _
                    · refine Keeps.after ?_ (State.writeLedgCtxSel_keeps _ _)
                      exact Keeps.refl _
                    · exact Keeps.refl _
                  · exact Keeps.refl _

theorem State.writeMailbox_keeps (s : State) (fn : Nat) (ctx : Nat) (off : Nat) (v : W32) :
    Keeps s (State.writeMailbox s fn ctx off v) := by
  unfold State.writeMailbox
  extract_lets
  refine Keeps.ite ?_ ?_
  · refine Keeps.ite ?_ ?_
    · exact Keeps.refl _
    · refine Keeps.after ?_ (State.settle_keeps _)
      refine Keeps.after ?_ (State.faultCtx_keeps _ _ _ _ _ _ _)
      exact Keeps.refl _
  · refine Keeps.ite ?_ ?_
    · refine Keeps.ite ?_ ?_
      · refine Keeps.ite ?_ ?_
        · refine Keeps.after ?_ (State.sqTail_keeps _ _ _ _ _)
          refine Keeps.after ?_ (State.wake_keeps _)
          exact Keeps.refl _
        · exact Keeps.refl _
      · refine Keeps.after ?_ (State.cqHeadWrite_keeps _ _ _ _)
        refine Keeps.after ?_ (State.wake_keeps _)
        exact Keeps.refl _
    · split
      · refine Keeps.ite ?_ ?_
        · refine Keeps.after ?_ (Keeps.ofFrame (State.resetCtx_frame _ _ _) rfl)
          exact Keeps.refl _
        · refine Keeps.ite ?_ ?_
          · refine Keeps.after ?_ (Keeps.ofFrame (State.enableCtx_frame _ _) rfl)
            exact Keeps.refl _
          · refine Keeps.after ?_ (Keeps.ofFrame (State.disableCtx_frame _ _) rfl)
            exact Keeps.refl _
      · refine Keeps.after ?_ (Keeps.ofFrame (State.writePolicy_frame _ _ _) rfl)
        exact Keeps.refl _
      · refine Keeps.after ?_ (Keeps.ofFrame (State.modCtx_frame _ _ _) rfl)
        exact Keeps.refl _
      · refine Keeps.after ?_ (Keeps.ofFrame (State.modCtx_frame _ _ _) rfl)
        exact Keeps.refl _
      · refine Keeps.ite ?_ ?_
        · refine Keeps.after ?_ (Keeps.ofFrame (State.modCtx_frame _ _ _) rfl)
          exact Keeps.refl _
        · exact Keeps.refl _
      · refine Keeps.ite ?_ ?_
        · refine Keeps.after ?_ (Keeps.ofFrame (State.modCtx_frame _ _ _) rfl)
          exact Keeps.refl _
        · exact Keeps.refl _
      · refine Keeps.ite ?_ ?_
        · refine Keeps.after ?_ (Keeps.ofFrame (State.modCtx_frame _ _ _) rfl)
          exact Keeps.refl _
        · exact Keeps.refl _
      · refine Keeps.ite ?_ ?_
        · refine Keeps.after ?_ (Keeps.ofFrame (State.modCtx_frame _ _ _) rfl)
          exact Keeps.refl _
        · exact Keeps.refl _
      · refine Keeps.after ?_ (Keeps.ofFrame (State.modCtx_frame _ _ _) rfl)
        exact Keeps.refl _
      · exact Keeps.refl _

theorem State.writeWindow_keeps (s : State) (fn : Nat) (off : Nat) :
    Keeps s (State.writeWindow s fn off) := by
  unfold State.writeWindow
  refine Keeps.ite ?_ ?_
  · refine Keeps.after ?_ (State.logViol_keeps _ _)
    exact Keeps.refl _
  · refine Keeps.after ?_ (State.settle_keeps _)
    refine Keeps.after ?_ (State.faultCtx_keeps _ _ _ _ _ _ _)
    exact Keeps.refl _

theorem State.writeReg_keeps (s : State) (fn : Nat) (off : Nat) (v : W32) :
    Keeps s (State.writeReg s fn off v) := by
  unfold State.writeReg
  refine Keeps.ite ?_ ?_
  · refine Keeps.ite ?_ ?_
    · exact Keeps.refl _
    · refine Keeps.ite ?_ ?_
      · refine Keeps.after ?_ (State.writeMailbox_keeps _ _ _ _ _)
        exact Keeps.refl _
      · refine Keeps.ite ?_ ?_
        · refine Keeps.after ?_ (State.writeWindow_keeps _ _ _)
          exact Keeps.refl _
        · exact Keeps.refl _
  · refine Keeps.ite ?_ ?_
    · refine Keeps.ite ?_ ?_
      · refine Keeps.after ?_ (State.writeMailbox_keeps _ _ _ _ _)
        exact Keeps.refl _
      · exact Keeps.refl _
    · refine Keeps.ite ?_ ?_
      · refine Keeps.ite ?_ ?_
        · refine Keeps.after ?_ (State.writeWindow_keeps _ _ _)
          exact Keeps.refl _
        · exact Keeps.refl _
      · refine Keeps.ite ?_ ?_
        · refine Keeps.after ?_ (State.writeGlobal_keeps _ _ _)
          exact Keeps.refl _
        · exact Keeps.refl _

theorem finishInstall_keeps (s : State) (c : Cmd) :
    Keeps s (finishInstall s c).1 := by
  unfold finishInstall
  split
  · extract_lets ctx
    split
    · exact Keeps.refl _
    · split
      · exact Keeps.refl _
      · split
        · exact Keeps.refl _
        · refine Keeps.after ((Keeps.refl s).setObj (mwrite_wf 0 _ rfl)) ((Keeps.ofFrame (State.bump_frame _) rfl).after (Keeps.ofFrame (State.mapObj_frame _ _ _ _ _) rfl))
  · exact Keeps.refl _

end Sys2Proof.Machine
end

