-- ==== Sys2Proof/Laws/Settle.lean ====
section
/-! SUPPORT. What the drive's settling keeps, by what its parts keep; and the states of the arrays, which neither the end of a
command nor the settling changes. -/

namespace Sys2Proof.Machine

/-! ### Relations that settling keeps -/

/-- A relation between states that the parts of settling keep. -/
structure Kept (R : State → State → Prop) : Prop where
  refl : ∀ s : State, R s s
  trans : ∀ s t u : State, R s t → R t u → R s u
  conclude : ∀ (s : State) (uid st d0 d1 : Nat), R s (s.conclude uid st d0 d1)
  fault : ∀ (s : State) (ctx cls addr st q cid : Nat), R s (s.faultCtx ctx cls addr st q cid)
  body : ∀ (s : State) (c : Cmd), R s (s.startBody c).1
  queue : ∀ (s : State) (ctx q : Nat), R s (s.dropQueue ctx q)

theorem Kept.foldl {R : State → State → Prop} (k : Kept R) {α : Type} (f : State → α → State) (hf : ∀ (s : State) (x : α), R s (f s x))
    (l : List α) (s : State) : R s (l.foldl f s) := by
  induction l generalizing s with
  | nil => exact k.refl s
  | cons x l ih => exact k.trans _ _ _ (hf s x) (ih _)

theorem Kept.finishBody {R : State → State → Prop} (k : Kept R) (c : Cmd) (r : BodyOut) : R r.1 (State.finishBody c r) := by
  unfold State.finishBody
  split
  · exact k.refl _
  · split
    · exact k.trans _ _ _ (k.conclude _ _ _ _ _) (k.fault _ _ _ _ _ _ _)
    · exact k.conclude _ _ _ _ _

theorem Kept.settleOne {R : State → State → Prop} (k : Kept R) (s t : State) (h : s.settleOne = some t) : R s t := by
  unfold State.settleOne at h
  split at h
  · split at h
    · obtain rfl := Option.some.inj h
      exact k.trans _ _ _ (k.body _ _) (k.finishBody _ _)
    · obtain rfl := Option.some.inj h
      exact k.conclude _ _ _ _ _
  · split at h
    · obtain rfl := Option.some.inj h
      refine k.trans _ _ _ ?_ (k.conclude _ _ _ _ _)
      split
      · exact k.queue _ _ _
      · exact k.refl _
    · cases h

theorem Kept.settleN {R : State → State → Prop} (k : Kept R) (n : Nat) (s : State) : R s (State.settleN n s) := by
  induction n generalizing s with
  | zero => exact k.refl s
  | succ n ih =>
    unfold State.settleN
    split
    · exact k.refl s
    · rename_i t ht
      exact k.trans _ _ _ (k.settleOne _ _ ht) (ih t)

theorem Kept.settle {R : State → State → Prop} (k : Kept R) (s : State) : R s s.settle := k.settleN _ s

theorem Kept.checkHead {R : State → State → Prop} (k : Kept R) (s : State) (ctx q : Nat) : R s (s.checkHead ctx q) := by
  unfold State.checkHead
  split
  · exact k.refl s
  · split
    · exact k.refl s
    · split
      · exact k.fault _ _ _ _ _ _ _
      · exact k.refl s

theorem Kept.checkHeads {R : State → State → Prop} (k : Kept R) (s : State) (ctx : Nat) : R s (s.checkHeads ctx) :=
  k.foldl (fun s q => s.checkHead ctx q) (fun s q => k.checkHead s ctx q) _ s

theorem Kept.recheck {R : State → State → Prop} (k : Kept R) (s : State) : R s s.recheck := by
  have h : ∀ (l : List (Nat × Context)) (u : State), R u (l.foldl (fun s c => s.checkHeads c.1) u) := by
    intro l
    induction l with
    | nil => exact k.refl
    | cons c l ih =>
      intro u
      rw [List.foldl_cons]
      exact k.trans _ _ _ (k.checkHeads u c.1) (ih _)
  exact h s.ctxs s

theorem Kept.concludeAll {R : State → State → Prop} (k : Kept R) (s : State) (f : Cmd → Bool) (st : Nat) : R s (s.concludeAll f st) :=
  k.foldl (fun s (c : Cmd) => s.conclude c.uid st c.excRecs c.dw1) (fun s c => k.conclude s c.uid st c.excRecs c.dw1) _ s

/-! ### The states of the arrays -/

/-- Every array is in the state it was in: in service, under test or retired. -/
def ArrKept (s t : State) : Prop := ∀ a : Nat, (t.arr a).state = (s.arr a).state

theorem ArrKept.after {s t u : State} (h : ArrKept s t) (h' : ArrKept t u) : ArrKept s u := fun a => (h' a).trans (h a)

theorem ArrKept.of {s t : State} (h : t.arrays = s.arrays) : ArrKept s t := fun a => by unfold State.arr; rw [h]

theorem ArrKept.frame {cs : List Comp} {s t : State} (h : Frame cs s t) (hc : Comp.arrays ∉ cs) : ArrKept s t := .of (h.same .arrays hc)

/-- A change of every array that leaves its state. -/
theorem ArrKept.tmap (s : State) (f : Nat → ArraySt → ArraySt) (hf : ∀ (k : Nat) (a : ArraySt), (f k a).state = a.state) :
    ArrKept s (s.modArrays (fun l => Machine.tmap l f)) := by
  intro a
  show (tget ArraySt.reset (Machine.tmap s.arrays f) a).state = (tget ArraySt.reset s.arrays a).state
  unfold tget
  rw [tfind_tmap]
  cases tfind s.arrays a with
  | none => rfl
  | some x => exact hf a x

theorem State.dropWork_arrKept (s : State) (uids : List Nat) : ArrKept s (s.dropWork uids) := by
  unfold State.dropWork
  extract_lets s1
  have h : ArrKept s s1 := ArrKept.tmap _ _ (fun _ _ => rfl)
  exact h.after (.frame (State.modNand_frame _ _) (by decide))

theorem State.loseCmds_arrKept (s : State) (cs : List Cmd) : ArrKept s (s.loseCmds cs) := by
  unfold State.loseCmds
  have h : ∀ (l : List Cmd) (u : State), ArrKept s u → ArrKept s (l.foldl (fun s c => if c.status.isNone then s.markAll (s.outRanges c) else s) u) := by
    intro l
    induction l with
    | nil => exact fun _ h => h
    | cons c l ih =>
      intro u hu
      refine ih _ (hu.after ?_)
      dsimp only
      split
      · exact .frame (State.markAll_frame _ _) (by decide)
      · exact .of rfl
  exact ((h cs s (.of rfl)).after (State.dropWork_arrKept _ _)).after (.of rfl)

theorem State.conclude_arrKept (s : State) (uid st d0 d1 : Nat) : ArrKept s (s.conclude uid st d0 d1) := by
  unfold State.conclude
  split
  · exact .of rfl
  · split
    · exact .of rfl
    · split
      · exact ((ArrKept.frame (State.endOps_frame _ _ _) (by decide)).after (.frame (State.abortAdd_frame _ _ _) (by decide))).after
          (State.loseCmds_arrKept _ _)
      · extract_lets st' s0 s1 s2 s3
        have h0 : ArrKept s s0 := by
          unfold s0
          split
          · exact .frame (State.endOps_frame _ _ _) (by decide)
          · exact .of rfl
        have h1 : ArrKept s0 s1 := by
          unfold s1
          split
          · exact .frame (State.markAll_frame _ _) (by decide)
          · exact .of rfl
        exact (((h0.after h1).after (.frame (State.signalEvent_frame _ _ _) (by decide))).after (State.dropWork_arrKept _ _)).after (.of rfl)

theorem State.faultCtx_arrKept (s : State) (ctx cls addr st q cid : Nat) : ArrKept s (s.faultCtx ctx cls addr st q cid) := by
  unfold State.faultCtx
  extract_lets a s1 fs s2 uids s3
  have h1 : ArrKept s s1 := .frame (State.logViol_frame _ _) (by decide)
  have hf : ∀ (l : List Cmd) (u : State), ArrKept u (l.foldl (fun s c => s.conclude c.uid stCtxFaulted c.excRecs c.dw1) u) := by
    intro l
    induction l with
    | nil => exact fun _ => .of rfl
    | cons c l ih => exact fun u => (State.conclude_arrKept _ _ _ _ _).after (ih _)
  split
  · refine ArrKept.after ?_ (.frame (State.reap_frame _ _) (by decide))
    refine ArrKept.after ?_ (.frame (State.drainAll_frame _ _) (by decide))
    refine ArrKept.after ?_ (.frame (State.releaseJob_frame _ _) (by decide))
    have h2 : ArrKept s1 s2 := .of rfl
    have h3 : ArrKept (s2.endOps uids stCtxFaulted) s3 := hf _ _
    exact ((h1.after h2).after (.frame (State.endOps_frame _ _ _) (by decide))).after h3
  · exact h1

theorem doPriority_arrKept (s : State) (uid ctx q cls cid : Nat) : ArrKept s (doPriority s uid ctx q cls cid).1 := by
  unfold doPriority
  split
  · exact .of rfl
  · split
    · exact .of rfl
    · extract_lets code now s1 s2
      have h2 : ArrKept s s2 := by
        unfold s2
        split
        · refine ArrKept.after (t := s1) (.of rfl) (ArrKept.tmap _ _ ?_)
          intro _ a
          split <;> rfl
        · exact .of rfl
      repeat' split
      all_goals first | exact h2 | exact .of rfl

theorem State.startBody_arrKept (s : State) (c : Cmd) : ArrKept s (s.startBody c).1 := by
  have h0 : ArrKept s (s.modCmd c.uid (fun c => { c with st := .holding })) := .of rfl
  unfold State.startBody
  extract_lets s0 ctx
  refine h0.after ?_
  split
  all_goals first
    | exact .of rfl
    | exact doPriority_arrKept _ _ _ _ _ _
    | exact .frame (by first
        | exact doQueueCreate_frame .. | exact doQueueDestroy_frame .. | exact doObjCreate_frame .. | exact doObjOpen_frame ..
        | exact doObjShare_frame .. | exact doObjUnshare_frame .. | exact doObjRetain_frame .. | exact doObjRelease_frame ..
        | exact doObjPlace_frame .. | exact doObjQuery_frame .. | exact doEventCreate_frame .. | exact doEventDestroy_frame ..
        | exact doEventClear_frame .. | exact doInstall_frame .. | exact doJobEnd_frame .. | exact doCopyIn_frame ..
        | exact doCopyOut_frame .. | exact doCopy_frame .. | exact State.startRun_frame .. | exact State.startSearch_frame ..
        | exact doIndexSeal_frame ..) (by decide)

theorem ArrKept.kept : Kept ArrKept where
  refl := fun _ => .of rfl
  trans := fun _ _ _ h h' => h.after h'
  conclude := State.conclude_arrKept
  fault := State.faultCtx_arrKept
  body := State.startBody_arrKept
  queue := fun s ctx q => .frame (State.dropQueue_frame s ctx q) (by decide)

/-! ### The contexts -/

/-- What of a context a command cannot change: all but its state, the status and count of its faults, and what it holds. -/
def Context.core (c : Context) : Context :=
  { c with state := 0, faultStatus := 0, viol := 0, queues := [], handles := [], events := [], slots := [] }

/-- Every context keeps its assignment, its policy and its registers, and its state; but an OPEN context may have faulted. -/
def CtxKept (s t : State) : Prop := ∀ n : Nat, (t.ctx n).core = (s.ctx n).core ∧
  ((t.ctx n).state = (s.ctx n).state ∨ ((s.ctx n).state = 1 ∧ (t.ctx n).state = 2))

theorem CtxKept.after {s t u : State} (h : CtxKept s t) (h' : CtxKept t u) : CtxKept s u := by
  intro n
  obtain ⟨a, b⟩ := h n
  obtain ⟨c, d⟩ := h' n
  exact ⟨c.trans a, by omega⟩

theorem CtxKept.of {s t : State} (h : t.ctxs = s.ctxs) : CtxKept s t := fun n => by
  unfold State.ctx
  rw [h]
  exact ⟨rfl, .inl rfl⟩

theorem CtxKept.frame {cs : List Comp} {s t : State} (h : Frame cs s t) (hc : Comp.ctxs ∉ cs) : CtxKept s t := .of (h.same .ctxs hc)

/-- A change of one context that leaves its core and its state. -/
theorem CtxKept.mod (s : State) (n : Nat) (f : Context → Context) (hc : (f (s.ctx n)).core = (s.ctx n).core)
    (hs : (f (s.ctx n)).state = (s.ctx n).state) : CtxKept s (s.modCtx n f) := by
  intro m
  by_cases h : m = n
  · subst h
    rw [s.ctx_modCtx m f]
    exact ⟨hc, .inl hs⟩
  · rw [s.ctx_modCtx_other f h]
    exact ⟨rfl, .inl rfl⟩

theorem State.reap_ctxKept (s : State) (ctx : Nat) : CtxKept s (s.reap ctx) := by
  unfold State.reap
  extract_lets gone s1
  have h1 : CtxKept s s1 := .mod _ _ _ rfl rfl
  have : ∀ (l : List (Nat × HandleSt)) (u : State), CtxKept u (l.foldl (fun s h => s.collect h.2.obj) u) := by
    intro l
    induction l with
    | nil => exact fun _ => .of rfl
    | cons c l ih => exact fun u => (CtxKept.frame (State.collect_frame _ _) (by decide)).after (ih _)
  exact h1.after (this _ _)

theorem State.signalEvent_ctxKept (s : State) (e : Entry) (bad : Bool) : CtxKept s (s.signalEvent e bad) := by
  unfold State.signalEvent
  split
  · split
    · exact .of rfl
    · exact .mod _ _ _ rfl rfl
  · exact .of rfl

theorem State.conclude_ctxKept (s : State) (uid st d0 d1 : Nat) : CtxKept s (s.conclude uid st d0 d1) := by
  unfold State.conclude
  split
  · exact .of rfl
  · split
    · exact .of rfl
    · split
      · exact ((CtxKept.frame (State.endOps_frame _ _ _) (by decide)).after (.frame (State.abortAdd_frame _ _ _) (by decide))).after
          (.frame (State.loseCmds_frame _ _) (by decide))
      · extract_lets st' s0 s1 s2 s3
        have h0 : CtxKept s s0 := by
          unfold s0
          split
          · exact .frame (State.endOps_frame _ _ _) (by decide)
          · exact .of rfl
        have h1 : CtxKept s0 s1 := by
          unfold s1
          split
          · exact .frame (State.markAll_frame _ _) (by decide)
          · exact .of rfl
        exact (((h0.after h1).after (State.signalEvent_ctxKept _ _ _)).after (.frame (State.dropWork_frame _ [uid]) (by decide))).after (.of rfl)

theorem State.faultCtx_ctxKept (s : State) (ctx cls addr st q cid : Nat) : CtxKept s (s.faultCtx ctx cls addr st q cid) := by
  unfold State.faultCtx
  extract_lets a s1 fs s2 uids s3
  have h1 : CtxKept s s1 := (CtxKept.frame (State.logErr_frame _ _) (by decide)).after (.mod _ _ _ rfl rfl)
  split
  · rename_i hst
    have h2 : CtxKept s1 s2 := by
      intro m
      by_cases h : m = ctx
      · subst h
        rw [s1.ctx_modCtx m _]
        exact ⟨rfl, .inr ⟨hst, rfl⟩⟩
      · rw [s1.ctx_modCtx_other _ h]
        exact ⟨rfl, .inl rfl⟩
    have hf : ∀ (l : List Cmd) (u : State), CtxKept u (l.foldl (fun s c => s.conclude c.uid stCtxFaulted c.excRecs c.dw1) u) := by
      intro l
      induction l with
      | nil => exact fun _ => .of rfl
      | cons c l ih => exact fun u => (State.conclude_ctxKept _ _ _ _ _).after (ih _)
    have h3 : CtxKept (s2.endOps uids stCtxFaulted) s3 := hf _ _
    refine CtxKept.after ?_ (State.reap_ctxKept _ _)
    refine CtxKept.after ?_ (.mod _ _ _ rfl rfl)
    refine CtxKept.after ?_ (.frame (State.releaseJob_frame _ _) (by decide))
    exact ((h1.after h2).after (.frame (State.endOps_frame _ _ _) (by decide))).after h3
  · exact h1

theorem State.mapObj_ctxKept (s : State) (ctx h o r : Nat) : CtxKept s (s.mapObj ctx h o r) := .mod _ _ _ rfl rfl

theorem doQueueCreate_ctxKept (s : State) (ctx q cls n v a b c : Nat) : CtxKept s (doQueueCreate s ctx q cls n v a b c).1 := by
  unfold doQueueCreate
  extract_lets x
  repeat' split
  all_goals first | exact .of rfl | exact .mod _ _ _ rfl rfl

theorem doQueueDestroy_ctxKept (s : State) (ctx q : Nat) : CtxKept s (doQueueDestroy s ctx q).1 := by
  unfold doQueueDestroy
  repeat' split
  all_goals first | exact .of rfl | exact .mod _ _ _ rfl rfl

theorem doObjCreate_ctxKept (s : State) (ctx o n w k h l p d : Nat) : CtxKept s (doObjCreate s ctx o n w k h l p d).1 := by
  unfold doObjCreate
  extract_lets kv
  repeat' split
  all_goals first | exact .of rfl | exact CtxKept.after (.of rfl) (State.mapObj_ctxKept _ _ _ _ _)

theorem doObjOpen_ctxKept (s : State) (ctx o r : Nat) : CtxKept s (doObjOpen s ctx o r).1 := by
  unfold doObjOpen
  split
  · exact .of rfl
  · extract_lets ok
    repeat' split
    all_goals first | exact .of rfl | exact State.mapObj_ctxKept _ _ _ _ _

theorem doObjRetain_ctxKept (s : State) (ctx h : Nat) : CtxKept s (doObjRetain s ctx h).1 := by
  unfold doObjRetain
  repeat' split
  all_goals first | exact .of rfl | exact .mod _ _ _ rfl rfl

theorem doObjRelease_ctxKept (s : State) (ctx h : Nat) (d : Bool) : CtxKept s (doObjRelease s ctx h d).1 := by
  unfold doObjRelease
  repeat' split
  all_goals first
    | exact .of rfl
    | (extract_lets m s1 s2
       have h1 : CtxKept s s1 := .mod _ _ _ rfl rfl
       first
         | exact h1
         | exact h1.after (.frame (State.modObj_frame _ _ _) (by decide)))

theorem doEventCreate_ctxKept (s : State) (ctx e v : Nat) : CtxKept s (doEventCreate s ctx e v).1 := by
  unfold doEventCreate
  repeat' split
  all_goals first | exact .of rfl | exact .mod _ _ _ rfl rfl

theorem doEventDestroy_ctxKept (s : State) (ctx e : Nat) : CtxKept s (doEventDestroy s ctx e).1 := by
  unfold doEventDestroy
  repeat' split
  all_goals first | exact .of rfl | exact .mod _ _ _ rfl rfl

theorem doEventClear_ctxKept (s : State) (ctx e : Nat) : CtxKept s (doEventClear s ctx e).1 := by
  unfold doEventClear
  repeat' split
  all_goals first | exact .of rfl | exact .mod _ _ _ rfl rfl

theorem State.startBody_ctxKept (s : State) (c : Cmd) : CtxKept s (s.startBody c).1 := by
  have h0 : CtxKept s (s.modCmd c.uid (fun c => { c with st := .holding })) := .of rfl
  unfold State.startBody
  extract_lets s0 ctx
  refine h0.after ?_
  change CtxKept s0 _
  split
  · exact doQueueCreate_ctxKept _ _ _ _ _ _ _ _ _
  · exact doQueueDestroy_ctxKept _ _ _
  · exact doObjCreate_ctxKept _ _ _ _ _ _ _ _ _ _
  · exact doObjOpen_ctxKept _ _ _ _
  · exact .frame (doObjShare_frame ..) (by decide)
  · exact .frame (doObjUnshare_frame ..) (by decide)
  · exact doObjRetain_ctxKept _ _ _
  · exact doObjRelease_ctxKept _ _ _ _
  · exact .frame (doObjPlace_frame ..) (by decide)
  · exact .frame (doObjQuery_frame ..) (by decide)
  · exact doEventCreate_ctxKept _ _ _ _
  · exact doEventDestroy_ctxKept _ _ _
  · exact doEventClear_ctxKept _ _ _
  · exact .frame (doInstall_frame ..) (by decide)
  · exact .frame (doPriority_frame ..) (by decide)
  · exact .frame (doJobEnd_frame ..) (by decide)
  · exact .frame (doCopyIn_frame ..) (by decide)
  · exact .frame (doCopyOut_frame ..) (by decide)
  · exact .frame (doCopy_frame ..) (by decide)
  · exact .frame (ends_frame ..) (by decide)
  · exact .frame (State.startRun_frame ..) (by decide)
  · exact .frame (State.startSearch_frame ..) (by decide)
  · exact .frame (doIndexSeal_frame ..) (by decide)

theorem CtxKept.kept : Kept CtxKept where
  refl := fun _ => .of rfl
  trans := fun _ _ _ h h' => h.after h'
  conclude := State.conclude_ctxKept
  fault := State.faultCtx_ctxKept
  body := State.startBody_ctxKept
  queue := fun _ _ _ => .mod _ _ _ rfl rfl

/-! ### The partitions -/

/-- Every partition stays as it is, but a set whose job has ended may be on its way out (Table 8-1). -/
def PartKept (s t : State) : Prop := ∀ p : Nat, ∃ st : Nat, t.part p = { s.part p with state := st } ∧
  (st = (s.part p).state ∨ (((s.part p).state = 1 ∨ (s.part p).state = 2) ∧ st = 3))

theorem PartKept.after {s t u : State} (h : PartKept s t) (h' : PartKept t u) : PartKept s u := by
  intro p
  obtain ⟨a, e, ha⟩ := h p
  obtain ⟨b, f, hb⟩ := h' p
  rw [e] at f hb
  dsimp only at hb
  exact ⟨b, f, by omega⟩

theorem PartKept.of {s t : State} (h : t.parts = s.parts) : PartKept s t := fun p => ⟨(s.part p).state, by unfold State.part; rw [h], .inl rfl⟩

theorem PartKept.frame {cs : List Comp} {s t : State} (h : Frame cs s t) (hc : Comp.parts ∉ cs) : PartKept s t := .of (h.same .parts hc)

theorem State.releaseJob_part (s : State) (ctx p : Nat) : (s.releaseJob ctx).part p =
    (if ((s.part p).state = 1 ∨ (s.part p).state = 2) ∧ (s.part p).ctx = ctx then { s.part p with state := 3 } else s.part p) := by
  unfold State.releaseJob State.part State.modParts tget
  dsimp only
  rw [tfind_tmap]
  cases tfind s.parts p with
  | none => simp [PartSt.reset]
  | some x => rfl

theorem State.releaseJob_partKept (s : State) (ctx : Nat) : PartKept s (s.releaseJob ctx) := by
  intro p
  rw [State.releaseJob_part]
  split
  · rename_i hc
    exact ⟨3, rfl, .inr ⟨hc.1, rfl⟩⟩
  · exact ⟨(s.part p).state, rfl, .inl rfl⟩

theorem State.faultCtx_partKept (s : State) (ctx cls addr st q cid : Nat) : PartKept s (s.faultCtx ctx cls addr st q cid) := by
  unfold State.faultCtx
  extract_lets a s1 fs s2 uids s3
  have h1 : PartKept s s1 := .frame (State.logViol_frame _ _) (by decide)
  split
  · have h3 : PartKept (s2.endOps uids stCtxFaulted) s3 := .frame (State.concludeAll_frame _ _ _) (by decide)
    refine PartKept.after ?_ (.frame (State.reap_frame _ _) (by decide))
    refine PartKept.after ?_ (.frame (State.drainAll_frame _ _) (by decide))
    refine PartKept.after ?_ (State.releaseJob_partKept _ _)
    have h2 : PartKept s1 s2 := .of rfl
    exact ((h1.after h2).after (.frame (State.endOps_frame _ _ _) (by decide))).after h3
  · exact h1

theorem doJobEnd_partKept (s : State) (ctx : Nat) : PartKept s (doJobEnd s ctx).1 := by
  unfold doJobEnd
  split
  · exact State.releaseJob_partKept _ _
  · exact .of rfl

theorem State.startBody_partKept (s : State) (c : Cmd) : PartKept s (s.startBody c).1 := by
  have h0 : PartKept s (s.modCmd c.uid (fun c => { c with st := .holding })) := .of rfl
  unfold State.startBody
  extract_lets s0 ctx
  refine h0.after ?_
  change PartKept s0 _
  split
  · exact .frame (doQueueCreate_frame ..) (by decide)
  · exact .frame (doQueueDestroy_frame ..) (by decide)
  · exact .frame (doObjCreate_frame ..) (by decide)
  · exact .frame (doObjOpen_frame ..) (by decide)
  · exact .frame (doObjShare_frame ..) (by decide)
  · exact .frame (doObjUnshare_frame ..) (by decide)
  · exact .frame (doObjRetain_frame ..) (by decide)
  · exact .frame (doObjRelease_frame ..) (by decide)
  · exact .frame (doObjPlace_frame ..) (by decide)
  · exact .frame (doObjQuery_frame ..) (by decide)
  · exact .frame (doEventCreate_frame ..) (by decide)
  · exact .frame (doEventDestroy_frame ..) (by decide)
  · exact .frame (doEventClear_frame ..) (by decide)
  · exact .frame (doInstall_frame ..) (by decide)
  · exact .frame (doPriority_frame ..) (by decide)
  · exact doJobEnd_partKept _ _
  · exact .frame (doCopyIn_frame ..) (by decide)
  · exact .frame (doCopyOut_frame ..) (by decide)
  · exact .frame (doCopy_frame ..) (by decide)
  · exact .frame (ends_frame ..) (by decide)
  · exact .frame (State.startRun_frame ..) (by decide)
  · exact .frame (State.startSearch_frame ..) (by decide)
  · exact .frame (doIndexSeal_frame ..) (by decide)

theorem PartKept.kept : Kept PartKept where
  refl := fun _ => .of rfl
  trans := fun _ _ _ h h' => h.after h'
  conclude := fun s uid st d0 d1 => .frame (State.conclude_frame s uid st d0 d1) (by decide)
  fault := State.faultCtx_partKept
  body := State.startBody_partKept
  queue := fun s ctx q => .frame (State.dropQueue_frame s ctx q) (by decide)

/-! ### The commands that end together -/

/-- A command before and after some commands have ended with a status: it is unchanged, or it has ended. -/
def Cmd.mayEnd (st : Nat) (c d : Cmd) : Prop :=
  d = c ∨ (c.status = none ∧ ∃ d0 d1 seq now : Nat, d = c.concluded (finalStatus st c.retried) d0 d1 seq now)

theorem Cmd.mayEnd_uid {st : Nat} {c d : Cmd} (h : c.mayEnd st d) : d.uid = c.uid := by
  rcases h with rfl | ⟨_, d0, d1, q, n, rfl⟩ <;> rfl

/-- The end of one command, over the whole list. -/
theorem State.conclude_list {s : State} {st : Nat} (uid d0 d1 : Nat) (hu : (s.cmds.map (·.uid)).Nodup) (hl : st ≠ stLinkLost) :
    ∃ f : Cmd → Cmd, (s.conclude uid st d0 d1).cmds = s.cmds.map f ∧
      ∀ c ∈ s.cmds, c.mayEnd st (f c) ∧ (c.uid ≠ uid → f c = c) ∧
        (c.uid = uid → (f c).status = some (match c.status with | some x => x | none => finalStatus st c.retried)) := by
  cases hc : s.cmd? uid with
  | none =>
    refine ⟨id, ?_, fun c hcm => ⟨.inl rfl, fun _ => rfl, fun e => ?_⟩⟩
    · unfold State.conclude
      rw [hc]
      simp
    · have := List.find?_eq_none.mp hc c hcm
      simp [e] at this
  | some x =>
    have hx : x ∈ s.cmds ∧ x.uid = uid := ⟨List.mem_of_find?_eq_some hc, by simpa using List.find?_some hc⟩
    have uniq : ∀ c ∈ s.cmds, c.uid = uid → c = x := by
      intro c hcm e
      exact List.inj_on_of_nodup_map hu hcm hx.1 (e.trans hx.2.symm)
    cases hs : x.status with
    | some y =>
      refine ⟨id, ?_, fun c hcm => ⟨.inl rfl, fun _ => rfl, fun e => ?_⟩⟩
      · unfold State.conclude
        rw [hc]
        simp [hs]
      · rw [uniq c hcm e]
        simp [hs]
    | none =>
      refine ⟨_, State.conclude_cmds d0 d1 hc hs hl, fun c hcm => ⟨?_, fun e => if_neg e, fun e => ?_⟩⟩
      · by_cases e : c.uid = uid
        · rw [uniq c hcm e, if_pos hx.2]
          exact .inr ⟨hs, _, _, _, _, rfl⟩
        · rw [if_neg e]
          exact .inl rfl
      · rw [if_pos e, uniq c hcm e, hs]
        rfl

/-- The end of several commands: each that is named and had not ended has ended with the status, the others are unchanged. -/
theorem State.concludeList_list {st : Nat} (hl : st ≠ stLinkLost) (l : List Cmd) : ∀ {s : State}, (s.cmds.map (·.uid)).Nodup →
    ∃ f : Cmd → Cmd, (l.foldl (fun s c => s.conclude c.uid st c.excRecs c.dw1) s).cmds = s.cmds.map f ∧
      ∀ c ∈ s.cmds, c.mayEnd st (f c) ∧ ((∀ x ∈ l, x.uid ≠ c.uid) → f c = c) ∧
        ((∃ x ∈ l, x.uid = c.uid) → (f c).status = some (match c.status with | some x => x | none => finalStatus st c.retried)) := by
  induction l with
  | nil => exact fun _ => ⟨id, by simp, fun c _ => ⟨.inl rfl, fun _ => rfl, fun ⟨_, h, _⟩ => by cases h⟩⟩
  | cons y l ih =>
    intro s hu
    obtain ⟨f, hf, h1⟩ := State.conclude_list y.uid y.excRecs y.dw1 hu hl
    have hu' : (((s.conclude y.uid st y.excRecs y.dw1).cmds).map (·.uid)).Nodup := by
      rw [hf, List.map_map]
      have : s.cmds.map ((fun x => x.uid) ∘ f) = s.cmds.map (fun x => x.uid) :=
        List.map_congr_left (fun c hc => Cmd.mayEnd_uid (h1 c hc).1)
      rw [this]
      exact hu
    obtain ⟨g, hg, h2⟩ := ih hu'
    refine ⟨g ∘ f, ?_, fun c hc => ?_⟩
    · rw [List.foldl_cons, hg, hf, List.map_map]
    · have hfc : f c ∈ (s.conclude y.uid st y.excRecs y.dw1).cmds := hf ▸ List.mem_map_of_mem hc
      obtain ⟨a1, a2, a3⟩ := h1 c hc
      obtain ⟨b1, b2, b3⟩ := h2 (f c) hfc
      have eu : (f c).uid = c.uid := Cmd.mayEnd_uid a1
      refine ⟨?_, fun hn => ?_, fun hx => ?_⟩
      · show c.mayEnd st (g (f c))
        rcases a1 with e | ⟨hs, d0, d1, q, n, e⟩
        · rw [e] at b1 ⊢
          exact b1
        · rcases b1 with e' | ⟨hs', _⟩
          · rw [e']
            exact .inr ⟨hs, d0, d1, q, n, e⟩
          · rw [e] at hs'
            cases hs'
      · show g (f c) = c
        have e1 : f c = c := a2 (Ne.symm (hn y (List.mem_cons_self ..)))
        rw [b2 (fun x hx => by rw [eu]; exact hn x (List.mem_cons_of_mem _ hx)), e1]
      · show (g (f c)).status = _
        by_cases hy : c.uid = y.uid
        · have e1 := a3 hy
          rcases b1 with e | ⟨hs, _⟩
          · rw [e]
            exact e1
          · rw [e1] at hs
            cases hs
        · obtain ⟨x, hx, ex⟩ := hx
          rcases List.mem_cons.mp hx with rfl | hx
          · exact absurd ex.symm hy
          · rw [b3 ⟨x, hx, ex.trans eu.symm⟩, a2 hy]

/-- The same for every pending command that a predicate selects. -/
theorem State.concludeAll_list {s : State} {st : Nat} (f : Cmd → Bool) (hu : (s.cmds.map (·.uid)).Nodup) (hl : st ≠ stLinkLost) :
    ∃ g : Cmd → Cmd, (s.concludeAll f st).cmds = s.cmds.map g ∧
      ∀ c ∈ s.cmds, c.mayEnd st (g c) ∧ (f c = false → g c = c) ∧
        (f c = true → (g c).status = some (match c.status with | some x => x | none => finalStatus st c.retried)) := by
  obtain ⟨g, hg, h⟩ := State.concludeList_list hl (s.cmds.filter (fun c => f c && c.status.isNone)) hu
  refine ⟨g, hg, fun c hc => ⟨(h c hc).1, fun hf => (h c hc).2.1 ?_, fun hf => ?_⟩⟩
  · intro x hx e
    obtain ⟨hm, hp⟩ := List.mem_filter.mp hx
    have : x = c := List.inj_on_of_nodup_map hu hm hc e
    rw [this, hf] at hp
    cases hp
  · cases hs : c.status with
    | none =>
      have := (h c hc).2.2 ⟨c, List.mem_filter.mpr ⟨hc, by simp [hf, hs]⟩, rfl⟩
      rw [hs] at this
      exact this
    | some y =>
      rcases (h c hc).1 with e | ⟨hn, _⟩
      · rw [e]
        exact hs
      · rw [hs] at hn
        cases hn

/-! ### A context that faults -/

theorem Cmd.mayEnd_e {st : Nat} {c d : Cmd} (h : c.mayEnd st d) : d.e = c.e := by
  rcases h with rfl | ⟨_, d0, d1, q, n, rfl⟩ <;> rfl

theorem Cmd.mayEnd_still {st : Nat} {c d : Cmd} (h : c.mayEnd st d) (hs : c.still) : d.still := by
  rcases h with rfl | ⟨_, d0, d1, q, n, rfl⟩
  · exact hs
  · intro hn
    cases hn

/-- A command that has ended, or is not there, is not ended again. -/
theorem State.conclude_ended {s : State} {uid : Nat} (st d0 d1 : Nat) (h : ∀ c : Cmd, s.cmd? uid = some c → c.status.isSome = true) :
    s.conclude uid st d0 d1 = s := by
  unfold State.conclude
  cases hc : s.cmd? uid with
  | none => rfl
  | some c => simp [h c hc]

/-- The end of commands of one context changes no other context, and of that one its events alone. -/
theorem State.concludeList_ctx {st : Nat} (hl : st ≠ stLinkLost) (k : Nat) (l : List Cmd) : ∀ {s : State}, (s.cmds.map (·.uid)).Nodup →
    (∀ x ∈ l, ∀ c ∈ s.cmds, c.uid = x.uid → c.e.ctx = k) → ∀ n : Nat, ∃ v : Table EventSt,
      (l.foldl (fun s c => s.conclude c.uid st c.excRecs c.dw1) s).ctx n = { s.ctx n with events := v } ∧ (n ≠ k → v = (s.ctx n).events) := by
  induction l with
  | nil => exact fun _ _ n => ⟨_, rfl, fun _ => rfl⟩
  | cons y l ih =>
    intro s hu hk n
    obtain ⟨f, hf, h1⟩ := State.conclude_list (st := st) y.uid y.excRecs y.dw1 hu hl
    have hu' : (((s.conclude y.uid st y.excRecs y.dw1).cmds).map (·.uid)).Nodup := by
      rw [hf, List.map_map]
      have : s.cmds.map ((fun x => x.uid) ∘ f) = s.cmds.map (fun x => x.uid) :=
        List.map_congr_left (fun c hc => Cmd.mayEnd_uid (h1 c hc).1)
      rw [this]
      exact hu
    have hk' : ∀ x ∈ l, ∀ c ∈ (s.conclude y.uid st y.excRecs y.dw1).cmds, c.uid = x.uid → c.e.ctx = k := by
      intro x hx c hc e
      rw [hf] at hc
      obtain ⟨c', hc', rfl⟩ := List.mem_map.mp hc
      rw [Cmd.mayEnd_uid (h1 c' hc').1] at e
      rw [Cmd.mayEnd_e (h1 c' hc').1]
      exact hk x (List.mem_cons_of_mem _ hx) c' hc' e
    obtain ⟨v, hv, hv'⟩ := ih hu' hk' n
    rw [List.foldl_cons]
    have base : ∃ w : Table EventSt, (s.conclude y.uid st y.excRecs y.dw1).ctx n = { s.ctx n with events := w } ∧ (n ≠ k → w = (s.ctx n).events) := by
      cases hc : s.cmd? y.uid with
      | none =>
        rw [State.conclude_ended _ _ _ (by intro c h; rw [hc] at h; cases h)]
        exact ⟨_, rfl, fun _ => rfl⟩
      | some c =>
        cases hs : c.status with
        | some z =>
          rw [State.conclude_ended _ _ _ (by intro c' h; rw [hc] at h; cases h; rw [hs]; rfl)]
          exact ⟨_, rfl, fun _ => rfl⟩
        | none =>
          have hx : c ∈ s.cmds ∧ c.uid = y.uid := ⟨List.mem_of_find?_eq_some hc, by simpa using List.find?_some hc⟩
          have e := hk y (List.mem_cons_self ..) c hx.1 hx.2
          obtain ⟨w, hw, hw'⟩ := State.conclude_ctx y.excRecs y.dw1 hc hs hl n
          exact ⟨w, hw, fun hn => hw' (by rw [e]; exact hn)⟩
    obtain ⟨w, hw, hw'⟩ := base
    refine ⟨v, by rw [hv, hw], fun hn => ?_⟩
    rw [hv' hn, hw]
    exact hw' hn

theorem State.logViol_ctx (s : State) (a : ErrArg) : (s.logViol a).ctx a.ctx = { s.ctx a.ctx with viol := satAdd 32 (s.ctx a.ctx).viol 1 } := by
  unfold State.logViol
  rw [State.ctx_modCtx, State.ctx_of_ctxs ((State.logErr_frame _ _).same .ctxs (by decide))]

theorem State.logViol_ctx_other (s : State) (a : ErrArg) {n : Nat} (h : n ≠ a.ctx) : (s.logViol a).ctx n = s.ctx n := by
  unfold State.logViol
  rw [State.ctx_modCtx_other _ _ h, State.ctx_of_ctxs ((State.logErr_frame _ _).same .ctxs (by decide))]

theorem State.reap_ctx (s : State) (ctx n : Nat) : (s.reap ctx).ctx n =
    (if n = ctx then { s.ctx n with handles := (s.ctx n).handles.filter (fun h => !(h.2.draining && h.2.dref == 0)) } else s.ctx n) := by
  unfold State.reap
  extract_lets gone s1
  have : ∀ (l : List (Nat × HandleSt)) (u : State), (l.foldl (fun s h => s.collect h.2.obj) u).ctx n = u.ctx n := by
    intro l
    induction l with
    | nil => exact fun _ => rfl
    | cons c l ih =>
      intro u
      rw [List.foldl_cons, ih]
      exact State.ctx_of_ctxs ((State.collect_frame _ _).same .ctxs (by decide)) n
  rw [this]
  split
  · rename_i h
    subst h
    exact s.ctx_modCtx n _
  · rename_i h
    exact s.ctx_modCtx_other _ h

/-- R366: what a fault makes of an OPEN context and of its commands; every other context and command is as before. -/
theorem State.faultCtx_open {s : State} {ctx : Nat} (cls addr st q cid : Nat) (ho : (s.ctx ctx).state = 1) (hu : (s.cmds.map (·.uid)).Nodup) :
    ∃ (v : Table EventSt) (h : Table HandleSt) (g : Cmd → Cmd),
      (s.faultCtx ctx cls addr st q cid).ctx ctx = { s.ctx ctx with
        state := 2, faultStatus := (if st = 0 then stCtxFaulted else st), viol := satAdd 32 (s.ctx ctx).viol 1, events := v, handles := h } ∧
      (∀ n : Nat, n ≠ ctx → (s.faultCtx ctx cls addr st q cid).ctx n = s.ctx n) ∧
      (s.faultCtx ctx cls addr st q cid).cmds = s.cmds.map g ∧
      (∀ c ∈ s.cmds, c.mayEnd stCtxFaulted (g c) ∧ (c.e.ctx ≠ ctx → g c = c) ∧
        (c.e.ctx = ctx → (g c).status = some (match c.status with | some x => x | none => stCtxFaulted))) := by
  unfold State.faultCtx
  extract_lets a s1 fs s2 uids s3
  have c1 : s1.cmds = s.cmds := (State.logViol_frame _ _).same .cmds (by decide)
  have x1 : s1.ctx ctx = { s.ctx ctx with viol := satAdd 32 (s.ctx ctx).viol 1 } := State.logViol_ctx s a
  have y1 : ∀ n : Nat, n ≠ ctx → s1.ctx n = s.ctx n := fun n h => State.logViol_ctx_other s a h
  rw [if_pos (show (s1.ctx ctx).state = 1 by rw [x1]; exact ho)]
  have x2 : s2.ctx ctx = { s1.ctx ctx with state := 2, faultStatus := fs } := s1.ctx_modCtx ctx _
  have y2 : ∀ n : Nat, n ≠ ctx → s2.ctx n = s1.ctx n := fun n h => s1.ctx_modCtx_other _ h
  generalize he : s2.endOps uids stCtxFaulted = e
  have ce : e.cmds = s.cmds := by
    rw [← he, ← c1]
    exact (State.endOps_frame _ _ _).same .cmds (by decide)
  have xe : ∀ n : Nat, e.ctx n = s2.ctx n := fun n => by
    rw [← he]
    exact State.ctx_of_ctxs ((State.endOps_frame _ _ _).same .ctxs (by decide)) n
  have hs3 : s3 = (e.cmds.filter (fun c => c.e.ctx == ctx && c.status.isNone)).foldl (fun s c => s.conclude c.uid stCtxFaulted c.excRecs c.dw1) e := by
    rw [← he]
    rfl
  have hl : stCtxFaulted ≠ stLinkLost := by decide
  have ue : (e.cmds.map (·.uid)).Nodup := ce ▸ hu
  obtain ⟨g, hg, hgs⟩ := State.concludeAll_list (s := e) (fun c => c.e.ctx == ctx) ue hl
  have hk : ∀ x ∈ e.cmds.filter (fun c => c.e.ctx == ctx && c.status.isNone), ∀ c ∈ e.cmds, c.uid = x.uid → c.e.ctx = ctx := by
    intro x hx c hc eu
    obtain ⟨hm, hp⟩ := List.mem_filter.mp hx
    rw [List.inj_on_of_nodup_map ue hc hm eu]
    simp only [Bool.and_eq_true, beq_iff_eq] at hp
    exact hp.1
  have fx := fun n => State.concludeList_ctx hl ctx (e.cmds.filter (fun c => c.e.ctx == ctx && c.status.isNone)) ue hk n
  rw [← hs3] at fx
  have c3 : s3.cmds = s.cmds.map g := by
    rw [hs3, ← ce]
    exact hg
  have rel : ∀ n : Nat, (s3.releaseJob ctx).ctx n = s3.ctx n := fun n => rfl
  have dr : ∀ n : Nat, ((s3.releaseJob ctx).drainAll ctx).ctx n =
      (if n = ctx then { s3.ctx n with handles := tmap (s3.ctx n).handles (fun _ h => { h with draining := true }) } else s3.ctx n) := by
    intro n
    split
    · rename_i h
      subst h
      exact (s3.releaseJob n).ctx_modCtx n _
    · rename_i h
      exact (s3.releaseJob ctx).ctx_modCtx_other _ h
  obtain ⟨v, hv, _⟩ := fx ctx
  refine ⟨v, (tmap (s.ctx ctx).handles (fun _ h => { h with draining := true })).filter (fun h => !(h.2.draining && h.2.dref == 0)), g,
    ?_, fun n hn => ?_, ?_, fun c hc => ?_⟩
  · rw [State.reap_ctx, if_pos rfl, dr, if_pos rfl, hv, xe, x2, x1]
  · obtain ⟨w, hw, hw'⟩ := fx n
    rw [State.reap_ctx, if_neg hn, dr, if_neg hn, hw, hw' hn, xe, y2 n hn, y1 n hn]
  · rw [(State.reap_frame _ _).same .cmds (by decide), (State.drainAll_frame _ _).same .cmds (by decide)]
    exact c3
  · obtain ⟨p1, p2, p3⟩ := hgs c (ce.symm ▸ hc)
    refine ⟨p1, fun h => p2 (by simp [h]), fun h => ?_⟩
    rw [p3 (by simp [h])]
    cases c.status <;> rfl

/-! ### The work of commands in the arrays -/

theorem State.dropWork_arr (s : State) (uids : List Nat) (a : Nat) : (s.dropWork uids).arr a =
    { s.arr a with
      staged := (match (s.arr a).staged with | some u => if uids.contains u.1 then none else some u | none => none)
      class0 := (match (s.arr a).class0 with | some u => if uids.contains u then none else some u | none => none)
      checking := (s.arr a).checking.filter (fun r => !uids.contains r.uid)
      slots := (s.arr a).slots.filter (fun q => !uids.contains q.2.1 || (s.arr a).inflight.any (fun r => r.uid == q.2.1 && r.tile == q.2.2)) } := by
  unfold State.dropWork State.modNand State.modArrays State.arr tget
  dsimp only
  rw [tfind_tmap]
  cases tfind s.arrays a <;> rfl

/-- What stays staged is of no dropped command. -/
theorem State.dropWork_staged {s : State} {uids : List Nat} {a : Nat} {u : Nat × Nat} (h : ((s.dropWork uids).arr a).staged = some u) :
    uids.contains u.1 = false := by
  rw [State.dropWork_arr] at h
  dsimp only at h
  split at h
  · split at h
    · cases h
    · rename_i hc
      obtain rfl := Option.some.inj h
      simpa using hc
  · cases h

/-! ### The close of a context -/

/-- R368: what the close of a context leaves of it, of the commands and of the abort list. -/
theorem State.closeCtx_leaves (s : State) (ctx : Nat) :
    (s.closeCtx ctx).ctx ctx = { s.ctx ctx with
      state := 0, enable := false, policy := 0x100, policyErr := 0, seedLo := 0, seedHi := 0, seed := 0, queues := [], handles := [],
      events := [], slots := [] } ∧
    (∀ n : Nat, n ≠ ctx → (s.closeCtx ctx).ctx n = s.ctx n) ∧
    (s.closeCtx ctx).cmds = s.cmds.filter (fun c => !((s.pendingOf ctx).map (·.uid)).contains c.uid) ∧
    ((s.closeCtx ctx).ctl ctx).aborts = (s.ctl ctx).aborts ++ (s.pendingOf ctx).map (s.kciAbort (s.ctx ctx).resetReason) := by
  unfold State.closeCtx
  extract_lets c cs ents s1 s2 s3
  have x1 : ∀ n : Nat, s1.ctx n = s.ctx n := fun n => State.ctx_of_ctxs ((State.loseCmds_frame _ _).same .ctxs (by decide)) n
  have xa : ∀ n : Nat, (s3.abortAdd ctx ents).ctx n = s3.ctx n := fun n =>
    State.ctx_of_ctxs ((State.abortAdd_frame _ _ _).same .ctxs (by decide)) n
  refine ⟨?_, fun n hn => ?_, ?_, ?_⟩
  · rw [xa]
    show ((s2.reap ctx).modCtx ctx _).ctx ctx = _
    rw [State.ctx_modCtx, State.reap_ctx, if_pos rfl]
    show ({ (s1.modCtx ctx _).ctx ctx with state := 0, enable := false, policy := 0x100, policyErr := 0, seedLo := 0, seedHi := 0, seed := 0, queues := [], handles := [], events := [], slots := [] } : Context) = _
    rw [State.ctx_modCtx, x1]
  · rw [xa]
    show ((s2.reap ctx).modCtx ctx _).ctx n = _
    rw [State.ctx_modCtx_other _ _ hn, State.reap_ctx, if_neg hn]
    show (s1.modCtx ctx _).ctx n = _
    rw [State.ctx_modCtx_other _ _ hn, x1]
  · rw [(State.abortAdd_frame _ _ _).same .cmds (by decide)]
    show (s2.reap ctx).cmds = _
    rw [(State.reap_frame _ _).same .cmds (by decide)]
    exact State.loseCmds_cmds _ _
  · obtain ⟨a, h, e⟩ := State.abortAdd_ctl s3 ctx ents
    rw [e]
    show (s3.ctl ctx).aborts ++ ents = _
    have : s3.nvme = s.nvme := by
      show (s2.reap ctx).nvme = _
      rw [(State.reap_frame _ _).same .nvme (by decide)]
      show s1.nvme = _
      exact (State.loseCmds_frame _ _).same .nvme (by decide)
    unfold State.ctl
    rw [this]

end Sys2Proof.Machine
end

