-- ==== Sys2Proof/Tests/Slice0.lean ====
section
/-! SUPPORT. The model's own tests: states that meet the hypotheses of each obligation (clause by clause, where its clauses differ),
ill-formed commands that the checks of WellFormed refuse, and single steps whose results the spec gives or that follow from it by
hand. Nothing here is a statement for the provers. -/

namespace Sys2Proof.Tests
open Sys2Proof Sys2Proof.Machine Sys2Proof.Claims
set_option Elab.async false

/-! ### Small states -/

/-- A drive that runs and is ready for compute, 5 ms after its start. -/
def run : State := { State.reset with
  power := { State.reset.power with
    mode := .running, rail12 := true, rail33 := true, miReady := true, perstPin := false, linkUp := true, nvmeReady := true,
    computeReady := true, checkDone := true },
  time := { State.reset.time with
    running := true, now := 5000000 } }

/-- The same with other power registers, other time, other namespaces and controllers, another store, another error log. -/
def runP (f : PowerSt → PowerSt) : State := { run with
  power := f run.power }
def runT (f : TimeSt → TimeSt) : State := { run with
  time := f run.time }
def runV (f : NvmeSt → NvmeSt) : State := { run with
  nvme := f run.nvme }
def runS (f : StoreSt → StoreSt) : State := { run with
  store := f run.store }
def runE (f : ErrSt → ErrSt) : State := { run with
  errs := f run.errs }

/-- A drive without power, one that records a power failure, one under PWRDIS, one under PERST#. -/
def dark : State := runP (fun p => { p with mode := .noRails, rail12 := false, rail33 := false, miReady := false })
def failingDrive : State := runP (fun p => { p with mode := .failing })
def held : State := runP (fun p => { p with mode := .pwrdis })
def underPerst : State := runP (fun p => { p with mode := .perst })

/-- A running drive with one timing region set. -/
def withRegion (r : Nat) (f : Region → Region) : State := runT (fun t => { t with
  regions := [(r, f Region.reset)] })

/-! ### The queue, the frames and the invariant -/

theorem test_reset_inv : State.reset.Inv := by
  refine ⟨⟨rfl, ?_, rfl, rfl⟩, by unfold State.Bounded; decide⟩
  intro o ho; cases ho

theorem test_idle_step : State.reset.pending = [] ∧ step State.reset = .next State.reset := ⟨rfl, rfl⟩

theorem test_frames_witness : ∃ t : State, exec .smbrst run = .next t := ⟨_, rfl⟩

theorem test_no_command_has_bits : decodeTableWord 32 0 = none ∧ State.withFetchWord State.reset 32 0 = State.reset := ⟨rfl, rfl⟩

/-! ### Power, time and the error log: a state that meets the hypotheses of each clause -/

theorem test_auxRailPins : dark.power.mode = .noRails := by decide
theorem test_ledToggle : (runP (fun p => { p with failed := true })).power.failed = true ∧
    (runP (fun p => { p with failed := true })).pinRow = .operating := by decide
theorem test_powerOnReset : dark.power.mode ≠ .failing ∧ dark.power.mode ≠ .pwrdis := by decide
theorem test_railsWhileFailing : failingDrive.power.mode = .failing := by decide
theorem test_holdUpEnergyExhausted : (failingDrive.store.hole = [] ∨ failingDrive.store.hole ≠ []) ∧ failingDrive.power.mode = .failing := by decide
theorem test_pwrdisDeassert : held.power.mode = .pwrdis := by decide
theorem test_powerFail : run.power.mode = .running ∨ run.power.mode = .perst := by decide
theorem test_powerFail_slots : run.store.recordSlots.isSome = true := by decide
theorem test_perstAssert : run.power.mode = .running ∧ run.power.recovering.contains 2 = false := by decide
theorem test_perstDeassert : (runP (fun p => { p with mode := .powerOnReset })).power.mode = .powerOnReset ∧
    underPerst.power.mode = .perst ∧ underPerst.power.recovering.contains 2 = false := by decide
theorem test_controllerEnable : run.linked = true ∧ 255 < 256 ∧ run.power.nvmeReady = true := by decide
theorem test_computeReady :
    let s := runP (fun p => { p with computeReady := false })
    s.linked = true ∧ s.power.nvmeReady = true ∧ s.power.checkDone = true ∧ s.power.computeReady = false := by decide
theorem test_computeReady_tried : (runS (fun t => { t with runningB := false, slotA := 3 })).store.slot false = 3 ∧ run.store.slot run.store.runningB ≠ 3 := by
  decide
theorem test_controllerReset : run.linked = true ∧ 255 < 256 := by decide
theorem test_shutdown : (runV (fun n => { n with ctls := [(3, { Ctl.reset with enabled := true })] })).linked = true ∧
    ((runV (fun n => { n with ctls := [(3, { Ctl.reset with enabled := true })] })).ctl 3).enabled = true ∧
    (runV (fun n => { n with ctls := [(3, { Ctl.reset with enabled := true })] })).nvme.cache = [] := by decide
theorem test_hostLinkReturn : (runP (fun p => { p with linkUp := false })).live = true ∧ (runP (fun p => { p with linkUp := false })).power.linkUp = false := by
  decide
theorem test_recoveryBegins : run.power.mode = .running ∧ 3 ≤ 3 ∧ run.power.recovering.contains 3 = false ∧ run.power.recovering.contains 2 = false := by
  decide
theorem test_dieRecoveryDone :
    let s := runP (fun p => { p with recovering := [1, 2] })
    s.power.recovering.contains 1 = true ∧ s.power.recovering.contains 2 = true ∧ s.power.failed = false ∧ s.power.mode = .running := by decide

theorem test_thermalSample :
    let s := runP (fun p => { p with hotSince := some 4000000 })
    s.live = true ∧ s.power.hotSince = some 4000000 ∧ 4000000 + 1000000 ≤ s.time.now ∧ s.power.thermal = 0 := by decide
theorem test_thermalLevelExit : run.live = true ∧ held100 (some 0) 100000000 ∧ ¬ held100 none 5 := by
  refine ⟨by decide, ⟨0, rfl, by decide⟩, ?_⟩
  rintro ⟨x, h, -⟩; cases h
theorem test_voltageRampStep : run.live = true ∧ tfind ([(2, { cur := 620, target := 640 })] : Table Rail) 2 =
    some { cur := 620, target := 640 } := by decide
theorem test_pwrHoldupCheckStart : run.globalOpen = true ∧ bit (1 : BitVec 32).toNat 0 = true := by decide
theorem test_holdupCheckDone : (runP (fun p => { p with checkRunning := true })).live = true ∧
    (runP (fun p => { p with checkRunning := true })).power.checkRunning = true ∧ logRoom (runP (fun p => { p with checkRunning := true })) :=
  ⟨by decide, by decide, by unfold logRoom; decide⟩
theorem test_lowPowerWake : (runP (fun p => { p with pstate := 4 })).live = true ∧ 4 ≤ (runP (fun p => { p with pstate := 4 })).power.pstate := by decide
theorem test_lowPowerEntry : (runP (fun p => { p with lowPending := some 5 })).live = true ∧ run.nvme.cache = [] ∧ run.nvme.waiting = [] ∧
    (runP (fun p => { p with lowPending := some 5 })).power.lowPending = some 5 := by decide
theorem test_apstIdleExpiry :
    let s := runV (fun n => { n with apst := true, apstTable := [(4, 5)] })
    s.live = true ∧ s.nvme.apst = true ∧ s.power.pstate ≤ 3 ∧ s.isIdle = true ∧ (s.nvme.apstTable.getD s.power.pstate (0, 0)).2 ≠ 0 ∧
      s.nvme.idleSince + (s.nvme.apstTable.getD s.power.pstate (0, 0)).2 * 1000000 ≤ s.time.now := by decide
theorem test_crystalPeriod : run.ticking = true := by decide
theorem test_deviceTimeRecord : run.live = true ∧ run.store.queue.contains { kind := .timeRecord } = false := by decide
theorem test_beaconSend : run.ticking = true ∧ run.time.beacon + 1024 ≤ run.time.now := by decide
theorem test_beaconReceive :
    let s := withRegion 41 (fun x => { x with lock := 1, good := 7, time := 4000000 * 2 ^ 26 })
    s.ticking = true ∧ 41 < 42 ∧ 4000000 ≤ s.time.now ∧ (s.region 41).osc ≠ 2 ∧ (s.region 41).lock = 1 ∧
      (beaconError s 41 4000000).natAbs ≤ 16 * 2 ^ 26 ∧ 7 ≤ (s.region 41).good := by decide
theorem test_beaconReceive_unlocked : 0 < beaconError (withRegion 0 id) 0 4000000 ∧ ((withRegion 0 id).region 0).lock = 0 := by decide
theorem test_beaconReceive_locked :
    let s := withRegion 3 (fun x => { x with lock := 2, time := 4000065 * 2 ^ 26 })
    (s.region 3).lock = 2 ∧ 64 * 2 ^ 26 < (beaconError s 3 4000000).natAbs ∧ (beaconError s 3 4000000).natAbs ≤ 1024 * 2 ^ 26 := by decide
theorem test_beaconReceive_holdover :
    let s := withRegion 3 (fun x => { x with lock := 3, time := 4000016 * 2 ^ 26 })
    (s.region 3).lock = 3 ∧ (beaconError s 3 4000000).natAbs ≤ 16 * 2 ^ 26 := by decide
theorem test_beaconMissLimit :
    let s := withRegion 9 (fun x => { x with lock := 2, missed := 4 })
    s.ticking = true ∧ (s.region 9).lock = 2 ∧ (s.region 9).osc ≠ 2 ∧ 4 ≤ (s.region 9).missed := by decide

/-- A region that has been in HOLDOVER for 65 beacon periods. -/
def drifting (e : ErrSt) : State := { withRegion 7 (fun x => { x with lock := 3, heldFor := 65 }) with
  errs := e }
/-- A record of such a region. -/
def holdoverRec : ErrRec := ({ cls := 0x42, kind := 2, unit := unitOf 0xA 7 } : ErrArg).toRec 1 4999000 0

theorem test_holdoverTimeout : (drifting ErrSt.reset).ticking = true ∧ ((drifting ErrSt.reset).region 7).lock = 3 ∧
    64 < ((drifting ErrSt.reset).region 7).heldFor ∧ (drifting ErrSt.reset).errs.staging.length < 256 ∧
    (drifting ErrSt.reset).errs.lastAt + 1000000 < (drifting ErrSt.reset).time.now := by decide
theorem test_errorMerged :
    let s := drifting { ErrSt.reset with staging := [holdoverRec], lastAt := 4999000 }
    s.errs.staging = [] ++ [holdoverRec] ∧ holdoverRec.cls = 0x42 ∧ holdoverRec.kind = 2 ∧ holdoverRec.ctx = 0xFFFF ∧
      holdoverRec.unit = unitOf 0xA 7 ∧ holdoverRec.status = 0 ∧ s.time.now ≤ s.errs.lastAt + 1000000 := by decide
theorem test_errorDropped :
    let s := drifting { ErrSt.reset with staging := List.replicate 256 { holdoverRec with unit := 0 } }
    256 ≤ s.errs.staging.length ∧ s.errs.lastAt + 1000000 < s.time.now ∧ ({ holdoverRec with unit := 0 } : ErrRec).unit ≠ unitOf 0xA 7 ∧
      (s.region 7).lock = 3 :=
  ⟨by decide +kernel, by decide, by decide, by decide⟩
theorem test_localTick : run.ticking = true ∧ (run.region 0).osc ≠ 2 ∧ 0 < (run.region 0).period + (run.region 0).slew := by decide
theorem test_localTick_housekeeping : ((withRegion 1 (fun x => { x with osc := 2 })).region 1).osc = 2 ∧ 1 ≠ housekeeping 1 := by decide
theorem test_oscillatorWatch : run.ticking = true ∧ (run.region 4).osc < 2 ∧ (44 < 45 ∨ 55 < 44) ∧ (45 ≤ 45 ∧ 55 ≤ 55 ∧ 20 ≤ 20 ∧ 993 ≤ 1055) := by decide
theorem test_marginSample : run.ticking = true ∧ 64 ≤ 64 ∧ (run.region 4).stretch ≤ 8 ∧ (12 ≤ 12 ∧ 8 ≤ 11 ∧ 11 < 12 ∧ 4 ≤ 7 ∧ 7 < 8 ∧ 3 < 4) := by decide
theorem test_stretchRelease :
    let s := withRegion 4 (fun x => { x with calm := 1024, stretch := 1 })
    s.ticking = true ∧ 1024 ≤ (s.region 4).calm ∧ 0 < (s.region 4).stretch ∧ s.railSettled (regionDie 4) = true := by decide
theorem test_lastingMarginFault :
    let s := withRegion 0 (fun x => { x with low := 16 })
    s.ticking = true ∧ 16 ≤ (s.region 0).low ∧ (regionArray 0).isSome = true := by decide
theorem test_lastingMarginFault_noArray :
    let s := withRegion 37 (fun x => { x with low := 16 })
    16 ≤ (s.region 37).low ∧ regionArray 37 = none ∧ s.power.mode = .running ∧ s.power.recovering.contains (regionDie 37) = false ∧
      s.power.recovering.contains 2 = false := by decide
theorem test_monitorRefresh :
    let s := { run with arrays := [(15, { ArraySt.reset with slots := [(0, 1, 0)] })] }
    s.ticking = true ∧ (s.arr 15).slots ≠ [] ∧ 0 < 999 ∧ 999 < 1000 := by decide

/-! ### KCI commands: a drive whose context 0 is open, with an entry due -/

/-- A memory object of two pages in T1 of partition 0, owned by context 0. -/
def mem1 : ObjectSt :=
  { oid := 0x11, part := 0, owner := 0, kind := 1, pages := 2, word := 0x10000000, kvH := 0, kvL := 0, kvP := 0, kvD := 0, data := [(3, 7)],
    undef := [], pageTab := [(0, PageSt.fresh (1, 0) 0), (1, PageSt.fresh (1, 0) 0)], tags := [], isSealed := false, mark := false,
    grants := [(8, 1)], doomed := false, prog := none }

/-- The same as a stored object in T2, as an object with no page, and as a marked one. -/
def mem2 : ObjectSt := { mem1 with
  oid := 0x12, word := 0xA0000000, pageTab := [(0, PageSt.fresh (2, 0) 0), (1, PageSt.fresh (2, 0) 0)] }
def mem3 : ObjectSt := { mem1 with
  oid := 0x13, pageTab := [] }
def mem4 : ObjectSt := { mem1 with
  oid := 0x14, mark := true }

def mapped (o : Nat) : HandleSt := { obj := o, draining := false, rights := 3, dref := 0, href := 1, base := 65536 * 4 * o }

/-- Context 0, open, with its control queue, a queue of class 1, one of class 2, the class-0 queue, four handles and two events. -/
def ctx0 (q : Nat) (avail : List (List Byte)) : Context :=
  let ring (k cls : Nat) : QueueSt := { QueueSt.fresh cls 16 k (65536 * k) (65536 * k + 8192) (65536 * k + 16384) with
    avail := if k = q then avail else [] }
  { Context.reset 0 with
    state := 1, enable := true, queues := [(0, ring 0 1), (1, ring 1 1), (2, ring 2 2), (9, ring 9 0)],
    handles := [(0, mapped 1), (1, mapped 2), (2, mapped 3), (3, mapped 4), (4, { mapped 1 with draining := true })],
    events := [(0, { err := false, value := 5 }), (1, { err := true, value := 0 })] }

/-- The entry of a command in a queue of context 0. -/
def entry (q : Nat) : Entry :=
  { ctx := 0, queue := q, cid := 7, fence := false, wait := false, signal := false, waitEvent := 0, signalEvent := 0, threshold := 0,
    incr := 1, dmaFault := none }

/-- The drive with the entry of a command due in a queue. -/
def kci (e : Entry) (b : Body) : State := { run with
  ctxs := [(0, ctx0 e.queue [encodeEntry e b])], objs := [(1, mem1), (2, mem2), (3, mem3), (4, mem4)], nextId := 50 }

/-- The queue that the entry stands in. -/
def ringOf (s : State) (e : Entry) : QueueSt := (tfind (s.ctx e.ctx).queues e.queue).getD (QueueSt.fresh 0 0 0 0 0 0)

/-- The drive with commands that are pending. -/
def withCmds (cs : List Cmd) (s : State) : State := { s with
  cmds := cs }

/-- A pending command of context 0 that waits for nothing. -/
def pendingCmd (uid q cid : Nat) (st : CmdState) : Cmd := { Cmd.fresh uid { entry q with cid := cid } .nop 1 0 1000 with
  st := st }

/-- What `Due` asks, as one check. -/
def dueB (s : State) (e : Entry) (b : Body) (uid : Nat) : Bool :=
  s.fetchable e.ctx e.queue && (tfind (s.ctx e.ctx).queues e.queue).isSome && decide (s.entryDue e.ctx e.queue = some (encodeEntry e b, uid)) &&
    entryFits e b && bodyFits b && s.cmds.all (fun c => c.uid != uid) &&
    s.cmds.all (fun c => c.status.isSome || (c.st != .blocked && (c.st != .holding || !isWaiter c.body))) &&
    (s.ctx e.ctx).queues.all (fun x => if x.1 = e.queue then x.2.avail.tail.isEmpty else x.2.avail.isEmpty) &&
    decide ((s.cmds.map (·.uid)).Nodup)

/-- What `Starts` asks beyond it. -/
def startsB (s : State) (e : Entry) (b : Body) (uid : Nat) : Bool :=
  dueB s e b uid && decide (e.dmaFault = none) && !s.over0 (s.newCmd e b uid (ringOf s e)) &&
    decide (s.kciCheck (s.newCmd e b uid (ringOf s e)) = none) && !e.fence && !e.wait && s.groupReady (s.newCmd e b uid (ringOf s e)) &&
    decide (s.power.recovering = [])

theorem still_of {s : State} (h : s.cmds.all (fun c => c.status.isSome || (c.st != .blocked && (c.st != .holding || !isWaiter c.body))) = true) :
    s.still := by
  intro c hc hn
  have := List.all_eq_true.mp h c hc
  simp only [hn, Option.isSome_none, Bool.false_or, Bool.and_eq_true, bne_iff_ne, ne_eq, Bool.or_eq_true, Bool.not_eq_true'] at this
  exact ⟨this.1, fun hh => this.2.resolve_left (fun h' => h' hh)⟩

theorem heads_of {s : State} {n k : Nat}
    (h : (s.ctx n).queues.all (fun x => if x.1 = k then x.2.avail.tail.isEmpty else x.2.avail.isEmpty) = true) : s.headsFine n k := by
  intro j x hx raw hr
  have := List.all_eq_true.mp h _ (mem_of_tfind hx)
  by_cases hj : j = k
  · simp only [hj, if_true, List.isEmpty_iff] at this hr
    rw [this] at hr; cases hr
  · simp only [hj, if_false, List.isEmpty_iff] at this hr
    rw [this] at hr; cases hr

theorem ring_of {s : State} {e : Entry} (h : (tfind (s.ctx e.ctx).queues e.queue).isSome = true) :
    tfind (s.ctx e.ctx).queues e.queue = some (ringOf s e) := by
  unfold ringOf
  cases hq : tfind (s.ctx e.ctx).queues e.queue with
  | none => rw [hq] at h; cases h
  | some x => rfl

theorem due_of {s : State} {e : Entry} {b : Body} {uid : Nat} (h : dueB s e b uid = true) : Due s e b uid (ringOf s e) := by
  simp only [dueB, Bool.and_eq_true, decide_eq_true_eq] at h
  obtain ⟨⟨⟨⟨⟨⟨⟨⟨h1, h2⟩, h3⟩, h4⟩, h5⟩, h6⟩, h7⟩, h8⟩, h9⟩ := h
  exact ⟨h1, ring_of h2, h3, h4, h5, fun c hc => by simpa using List.all_eq_true.mp h6 c hc, still_of h7, heads_of h8, h9⟩

theorem starts_of {s : State} {e : Entry} {b : Body} {uid : Nat} (h : startsB s e b uid = true) : Starts s e b uid (ringOf s e) := by
  simp only [startsB, Bool.and_eq_true, decide_eq_true_eq, Bool.not_eq_true'] at h
  obtain ⟨⟨⟨⟨⟨⟨⟨h1, h2⟩, h3⟩, h4⟩, h5⟩, h6⟩, h7⟩, h8⟩ := h
  have d := due_of h1
  exact ⟨d.fetchable, d.ring, d.due, d.spells, d.data, d.unused, h2, h3, h4, d.still, by simp [h5], by simp [h6], h7, h8, d.heads⟩

theorem test_queueCreate : startsB (kci (entry 0) (.queueCreate 3 1 16 1 4096 8192 12288)) (entry 0) (.queueCreate 3 1 16 1 4096 8192 12288) 50 = true ∧
    (Context.reset 0).maxClass ≤ 1 ∧ (kci (entry 0) .nop).setHeld 0 = false ∧ tfind ((kci (entry 0) .nop).ctx 0).queues 3 = none ∧
    ringSizeOk 16 = true ∧ 1 < vectorsOf 0 := by decide
theorem test_queueCreate_exists : startsB (kci (entry 0) (.queueCreate 2 1 16 1 4096 8192 12288)) (entry 0) (.queueCreate 2 1 16 1 4096 8192 12288) 50 = true ∧
    (tfind ((kci (entry 0) .nop).ctx 0).queues 2).isSome = true := by decide
/-- Context 8 may use class 1 at best. -/
theorem test_queueCreate_class : (0 : Nat) < (Context.reset 8).maxClass := by decide
theorem test_queueDestroy : startsB (kci (entry 0) (.queueDestroy 2)) (entry 0) (.queueDestroy 2) 50 = true ∧
    startsB (withCmds [pendingCmd 3 2 1 .queued] (kci (entry 0) (.queueDestroy 2))) (entry 0) (.queueDestroy 2) 50 = true := by decide
theorem test_priority : startsB (kci (entry 0) (.priority 2 3 1)) (entry 0) (.priority 2 3 1) 50 = true ∧
    startsB (withCmds [pendingCmd 3 2 1 .queued] (kci (entry 0) (.priority 2 3 1))) (entry 0) (.priority 2 3 1) 50 = true ∧
    ((withCmds [pendingCmd 3 2 1 .queued] (kci (entry 0) (.priority 2 3 1))).pendingOf 0).find? (fun c => c.e.queue == 2 && c.e.cid == 1) =
      some (pendingCmd 3 2 1 .queued) ∧ stateCode CmdState.queued < 4 := by decide
theorem test_jobEnd : startsB (kci (entry 0) .jobEnd) (entry 0) .jobEnd 50 = true ∧
    (let s := { kci (entry 0) .jobEnd with parts := [(0, { PartSt.reset with state := 2, ctx := 0 })] }
     startsB s (entry 0) .jobEnd 50 = true ∧ s.pendingOf 0 = [] ∧ (s.part 0).state = 2 ∧ (s.part 0).ctx = 0) := by decide
theorem test_objCreate :
    let b : Body := .objCreate 0x99 4 0x10000000 1 0 0 0 0
    startsB (kci (entry 0) b) (entry 0) b 50 = true ∧ wordBad 1 0x10000000 = false ∧ kvFmtOf 0x10000000 = 0 ∧
      (kci (entry 0) b).findOid ((kci (entry 0) b).idParts 0) 0x99 = none ∧ ((kci (entry 0) b).ctx 0).freeHandle = some 5 ∧
      ((kci (entry 0) b).findOid ((kci (entry 0) b).idParts 0) 0x11).isSome = true := by decide
theorem test_objCreate_full :
    (({ ctx0 0 [] with handles := (List.range 256).map (fun h => (h, mapped 1)) } : Context)).freeHandle = none := by
  rfl
theorem test_objOpen :
    let s := { kci (entry 0) (.objOpen 0x15 1) with objs := [(1, mem1), (5, { mem2 with oid := 0x15 })] }
    startsB s (entry 0) (.objOpen 0x15 1) 50 = true ∧ s.findOid (s.idParts 0) 0x15 = some (5, { mem2 with oid := 0x15 }) ∧
      1 &&& mem2.allowed 0 = 1 ∧ (∀ m ∈ (s.ctx 0).handles, m.2.obj ≠ 5) ∧ (s.ctx 0).freeHandle = some 5 ∧
      s.findOid (s.idParts 0) 0x77 = none ∧ 4 &&& mem2.allowed 0 ≠ 4 := by decide
theorem test_objShare :
    let b : Body := .objShare 0 16 1
    startsB (kci (entry 0) b) (entry 0) b 50 = true ∧ mem1.owner = 0 ∧ ((kci (entry 0) b).ctx 16).partition = ((kci (entry 0) b).ctx 0).partition ∧
      1 &&& (mapped 1).rights = 1 ∧ mem1.grants.length < 16 ∧ ((kci (entry 0) b).ctx 9).partition ≠ ((kci (entry 0) b).ctx 0).partition := by decide
theorem test_objUnshare : startsB (kci (entry 0) (.objUnshare 0 8)) (entry 0) (.objUnshare 0 8) 50 = true ∧ ∃ y ∈ mem1.grants, y.1 = 8 := by decide
theorem test_objRetain : startsB (kci (entry 0) (.objRetain 0)) (entry 0) (.objRetain 0) 50 = true ∧ (mapped 1).href < 65535 := by decide
theorem test_objRelease :
    startsB (kci (entry 0) (.objRelease 1 true)) (entry 0) (.objRelease 1 true) 50 = true ∧ (mapped 2).href = 1 ∧ (kci (entry 0) (.objRelease 1 true)).mappers 2 = 1 :=
  ⟨by decide, by decide, by decide +kernel⟩
theorem test_objPlace : startsB (kci (entry 0) (.objPlace 0 0x50000000)) (entry 0) (.objPlace 0 0x50000000) 50 = true ∧
    wordBad mem1.kind 0x50000000 = false ∧ kvFmtOf 0x50000000 = kvFmtOf mem1.word ∧ wordBad mem1.kind 0x50000001 = true := by decide
theorem test_objQuery : startsB (kci (entry 0) (.objQuery 0 64)) (entry 0) (.objQuery 0 64) 50 = true ∧ 64 % 32 = 0 ∧ mem1.kind ≠ 3 := by decide
theorem test_eventCreate : startsB (kci (entry 0) (.eventCreate 63 4)) (entry 0) (.eventCreate 63 4) 50 = true ∧
    tfind ((kci (entry 0) .nop).ctx 0).events 63 = none ∧ (tfind ((kci (entry 0) .nop).ctx 0).events 1).isSome = true := by decide
theorem test_eventDestroy : startsB (kci (entry 0) (.eventDestroy 1)) (entry 0) (.eventDestroy 1) 50 = true ∧
    (kci (entry 0) (.eventDestroy 1)).eventUsed 0 1 = false := by decide
theorem test_eventClear : startsB (kci (entry 0) (.eventClear 1)) (entry 0) (.eventClear 1) 50 = true ∧
    (withCmds [{ pendingCmd 3 2 1 .queued with e := { entry 2 with signal := true, signalEvent := 1 } }] (kci (entry 0) (.eventClear 1))).eventUsed 0 1 = true ∧
    startsB (withCmds [{ pendingCmd 3 2 1 .queued with e := { entry 2 with signal := true, signalEvent := 1 } }] (kci (entry 0) (.eventClear 1))) (entry 0) (.eventClear 1) 50 = true := by
  decide
theorem test_nop :
    let e := { entry 1 with signal := true, signalEvent := 0, incr := 2 }
    startsB (kci e .nop) e .nop 50 = true ∧ tfind ((kci e .nop).ctx 0).events 0 = some { err := false, value := 5 } := by decide
theorem test_programInstall :
    let b : Body := .programInstall 0x77 4096 3 [1, 2, 3]
    startsB (kci (entry 0) b) (entry 0) b 50 = true ∧ (kci (entry 0) b).findOid ((kci (entry 0) b).idParts 0) 0x77 = none ∧
      ipoReason [1, 2, 3] 3 (kci (entry 0) b).fwVersion (kci (entry 0) b).mgmt.keys = 1 := by decide

/-! ### Mailbox pages and registers -/

/-- Context 0 open with nothing due; context 1 closed with valid control-queue registers. -/
def idle : State := { run with
  ctxs := [(0, ctx0 99 []), (1, { Context.reset 1 with ctlCq := 4096, ctlSize := 0x00030010 })],
  objs := [(1, mem1), (2, mem2), (3, mem3), (4, mem4)], nextId := 50 }

theorem shows_of {s : State} {n : Nat} {f : Nat → QueueSt → List (List Byte)}
    (h : (s.ctx n).queues.all (fun x => match (f x.1 x.2).head? with | some raw => !malformed raw | none => true) = true) :
    ∀ (j : Nat) (x : QueueSt), tfind (s.ctx n).queues j = some x → ∀ raw : List Byte, (f j x).head? = some raw → malformed raw = false := by
  intro j x hx raw hr
  have := List.all_eq_true.mp h _ (mem_of_tfind hx)
  simp only [hr, Bool.not_eq_true'] at this
  exact this

theorem test_kciSqTail : idle.kciOpen = true ∧ (idle.ctx 0).state = 1 ∧ tfind (idle.ctx 0).queues 1 = some (ringOf idle (entry 1)) ∧
    (ringOf idle (entry 1)).closing = false ∧ 1 < (ringOf idle (entry 1)).entries ∧
    [encodeEntry (entry 1) .nop].length = (1 + (ringOf idle (entry 1)).entries - (ringOf idle (entry 1)).tail) % (ringOf idle (entry 1)).entries ∧
    (∀ e ∈ [encodeEntry (entry 1) .nop], e.length = 64) := by decide
theorem test_kciSqTail_entries : ∀ (j : Nat) (x : QueueSt), tfind (idle.ctx 0).queues j = some x → ∀ raw : List Byte,
    (if j = 1 then (ringOf idle (entry 1)).avail ++ [encodeEntry (entry 1) .nop] else x.avail).head? = some raw → malformed raw = false :=
  shows_of (f := fun j x => if j = 1 then (ringOf idle (entry 1)).avail ++ [encodeEntry (entry 1) .nop] else x.avail) (by decide)
theorem test_doorbellOutside : (ringOf idle (entry 1)).entries ≤ 16 ∧ idle.still ∧ distinct idle :=
  ⟨by decide, fun c hc => (by cases hc), by unfold distinct; decide⟩
theorem test_class0SlotWrite : tfind (idle.ctx 0).queues 9 = some (ringOf idle (entry 9)) ∧ (tget SlotSt.empty (idle.ctx 0).slots 15).busy = false ∧
    ([1, 2] : List Byte) ≠ [] ∧ 61 + 2 < 64 := by decide
theorem test_class0SlotWrite_busy :
    let c := { ctx0 99 [] with slots := [(4, { SlotSt.empty with busy := true })] }
    let s := { run with ctxs := [(0, c)] }
    (tget SlotSt.empty (s.ctx 0).slots 4).busy = true ∧ (tfind (s.ctx 0).queues 9).isSome = true ∧ s.kciOpen = true := by decide
theorem test_class0Latch : (encodeEntry (entry 9) .nop).length = 64 ∧ malformed (encodeEntry (entry 9) .nop) = false := by decide
theorem test_ctxEnableSet : (idle.ctx 1).state = 0 ∧ idle.sanitizing = false ∧ idle.power.failed = false ∧ idle.setHeld 1 = false ∧
    (idle.ctx 1).ctlSq.toNat % 4096 = 0 ∧ (idle.ctx 1).ctlCq.toNat % 4096 = 0 ∧ ringSizeOk ((idle.ctx 1).ctlSize.toNat % 65536) = true ∧
    (idle.ctx 1).ctlSize.toNat / 65536 < vectorsOf 1 := by decide
theorem test_ctxEnableSet_base : ({ Context.reset 1 with ctlSq := 64 } : Context).ctlSq.toNat % 4096 ≠ 0 := by decide
theorem test_ctxEnableClear :
    let s := { run with ctxs := [(0, { ctx0 99 [] with queues := [(0, QueueSt.fresh 1 16 0 0 4096 0)], handles := [] })] }
    (s.ctx 0).queues.all (fun q => q.1 == 0) = true ∧ (s.ctx 0).handles = [] ∧ s.pendingOf 0 = [] ∧ (s.ctx 0).state = 1 ∧
      (idle.ctx 0).handles ≠ [] := by decide
theorem test_contextReset : (idle.ctx 0).state ≠ 3 ∧ idle.kciOpen = true ∧ idle.globalOpen = true ∧ bit (1 : BitVec 32).toNat 0 = true := by decide
theorem test_contextResetComplete :
    let s := { idle with ctxs := [(0, { ctx0 99 [] with state := 3 })] }
    (s.ctx 0).state = 3 ∧ s.calm ∧ s.arrays = [] :=
  ⟨by decide, ⟨fun c hc => (by cases hc), fun n k x hx raw hr => by
    have h0 : ∀ m : Nat, (({ idle with ctxs := [(0, { ctx0 99 [] with state := 3 })] } : State).ctx m).queues.all (fun x => x.2.avail.isEmpty) = true := by
      intro m
      cases m with
      | zero => decide
      | succ m => rfl
    have := List.all_eq_true.mp (h0 n) _ (mem_of_tfind hx)
    simp only [List.isEmpty_iff] at this
    rw [this] at hr; cases hr⟩, rfl⟩
theorem test_ctxPolicyWrite : policyCause (0x80000000 : BitVec 32).toNat ≠ policyCause (0x00000100 : BitVec 32).toNat ∧
    (policyCause (0x00000100 : BitVec 32).toNat = 0 ∨ policyCause (0x80000000 : BitVec 32).toNat = 0) := by decide
theorem test_registerWrite : idle.kciOpen = true ∧ idle.globalOpen = true ∧ idle.peer.valid = false ∧ (idle.ctx 1).state = 0 ∧
    bit idle.mgmt.cfgErr.toNat 31 = false := by decide
theorem test_registerRows : bit (2 : BitVec 64).toNat 1 = true ∧ bit (1 : BitVec 64).toNat 1 = false ∧ bit (1 : BitVec 64).toNat 0 = true := by decide
theorem test_registerSizes : slotAt 0 0x100000 = none ∧ (2 ≠ 4 ∧ 2 ≠ 8) := by decide
theorem test_readOnlyFields : mailboxRo 0 = true ∧ idle.still ∧ distinct idle ∧
    (({ idle with ctxs := [(1, { ctx0 99 [] with partition := 1 })] } : State).ctx 1).state = 1 :=
  ⟨by decide, fun c hc => (by cases hc), by unfold distinct; decide, by decide⟩

/-! ### Copies, compute and completions -/

theorem test_copyIn :
    let b (h : Nat) : Body := .copyIn h 10 4096 4 0x10000004 [1, 2, 3, 4]
    startsB (kci (entry 1) (b 0)) (entry 1) (b 0) 50 = true ∧ (∀ p ∈ pagesOf 10 4, (tfind mem1.pageTab p).isSome = true) ∧ mem1.persistent = false ∧
      startsB (kci (entry 1) (b 1)) (entry 1) (b 1) 50 = true ∧ (∀ p ∈ pagesOf 10 4, (tfind mem2.pageTab p).isSome = true) ∧ mem2.persistent = true := by
  decide
theorem test_canonical : (kci (entry 1) .nop).Canonical := by
  refine ⟨rfl, ?_, rfl, rfl⟩
  intro o ho
  simp only [kci, List.mem_cons, List.not_mem_nil, or_false] at ho
  rcases ho with rfl | rfl | rfl | rfl <;> rfl
theorem test_firstWrite :
    let b : Body := .copyIn 2 10 4096 4 0x10000004 [1, 2, 3, 4]
    let s := kci (entry 1) b
    startsB s (entry 1) b 50 = true ∧ pagesOf 10 4 = [0] ∧ tfind mem3.pageTab 0 = none ∧
      (s.choose (s.homeParts mem3.part) mem3.word 0).isSome = true := by decide
theorem test_copyOut :
    let b (h : Nat) : Body := .copyOut h 10 4096 4 0
    startsB (kci (entry 1) (b 0)) (entry 1) (b 0) 50 = true ∧ mem1.mark = false ∧ mem1.lostIn 10 4 = false ∧
      startsB (kci (entry 1) (b 3)) (entry 1) (b 3) 50 = true ∧ mem4.mark = true ∧
      ({ mem1 with pageTab := [(0, { PageSt.fresh (1, 0) 0 with lost := true })] } : ObjectSt).lostIn 10 4 = true := by decide
theorem test_copy :
    let b : Body := .copy 1 0 8 10 4 0x10000004
    startsB (kci (entry 1) b) (entry 1) b 50 = true ∧ mem2.mark = false ∧ mem2.lostIn 8 4 = false ∧
      (∀ p ∈ pagesOf 10 4, (tfind mem1.pageTab p).isSome = true) ∧ mem1.persistent = false := by decide

/-- A slot of a program's interface, and a program with an activation of rows of 4, a weight and an FP32 output. -/
def slot (n role fmt rowLen : Nat) : SlotDesc :=
  { slot := n, role := role, fmt := fmt, group := 0, sr := false, calibrated := false, mayGather := false, kvfmt := 0, rowLen := rowLen,
    cols := 0, calibOff := 0 }
def progSt : ProgSt :=
  { latency := false, slots := [slot 0 0 1 4, slot 1 1 1 3, slot 2 2 7 3], calib := [], hash16 := zeros 16, codeOff := 0,
    sectors := [], loaded := true, damaged := false }
def progObj : ObjectSt := { mem1 with
  oid := 0x50, kind := 3, pages := 1, pageTab := [], data := [], grants := [], prog := some progSt }
/-- One tile of 2 rows and 3 columns over 4 elements. -/
def tile : TilePlan :=
  { actSlot := some 0, wSlot := 1, outSlot := some 2, chain := slot 0 0 0 0, arr := 0, row0 := 0, rows := 2, col0 := 0, cols := 3,
    reduction := 4, passes := [⟨false, 0⟩], actScale := 0x3F800000, wScale := 0x3F800000, outScale := 0x3F800000, bias := none, act := none,
    residual := none, resScale := 0x3F800000 }
def arg (n h rows len : Nat) : ArgEntry := { slot := n, handle := h, gathered := false, rows := rows, offset := 0, length := len }
def runBody : Body := .run 5 3 0 0 4096 [arg 0 0 2 8, arg 1 1 4 12, arg 2 2 2 24] [tile]
/-- An index object with no more than a seal. -/
def idxObj (shut : Bool) (word : Nat) : ObjectSt := { mem1 with
  oid := 0x60, kind := 2, word := word, isSealed := shut, data := [] }
/-- The drive with a command due, the program under handle 5 and an index under handle 6. -/
def kciC (e : Entry) (b : Body) (x : ObjectSt) : State := { kci e b with
  ctxs := [(0, { ctx0 e.queue [encodeEntry e b] with handles := (ctx0 0 []).handles ++ [(5, { mapped 5 with rights := 4 }), (6, mapped 6)] })],
  objs := (kci e b).objs ++ [(5, progObj), (6, x)] }

theorem test_run : startsB (kciC (entry 1) runBody mem1) (entry 1) runBody 50 = true := by decide +kernel

/-- An index of one list with one record, which passes the validation of a seal: d = 32, M = 8, INT8, sections in pages 0 to 4. -/
def idxGood : ObjectSt := { mem1 with
  oid := 0x61, kind := 2, word := 0xA0000000, pages := 5,
  data := [(0, 0x31), (1, 0x49), (2, 0x44), (3, 0x58), (4, 1), (8, 32), (0xA, 8), (0xC, 1), (0x10, 1), (0x1A, 1), (0x22, 2), (0x2A, 3), (0x32, 4),
    (0x10008, 1), (0x1000C, 1), (0x40008, 1), (0x4000A, 8)],
  pageTab := (List.range 5).map (fun p => (p, PageSt.fresh (2, 0) 0)) }

theorem test_indexSeal : idxGood.indexOk = true ∧ idxGood.mark = false ∧ idxGood.lostIn 0 idxGood.size = false ∧ idxGood.persistent = true := by
  decide +kernel
theorem test_indexSeal_starts :
    let s (x : ObjectSt) := kciC (entry 0) (.indexSeal 6) x
    startsB (kciC (entry 1) (.indexSeal 6) idxGood) (entry 1) (.indexSeal 6) 50 = true ∧ sealRoom (s idxGood) idxGood = true ∧
      (∀ p ∈ pagesOf 0x40 16, (tfind idxGood.pageTab p).isSome = true) ∧ idxGood.head.nlist = 1 ∧
      (∀ p ∈ pagesOf (idxGood.head.dirOff + 16) 8, (tfind idxGood.pageTab p).isSome = true) := by decide +kernel
theorem test_indexSeal_invalid : startsB (kciC (entry 1) (.indexSeal 6) (idxObj false 0xA0000000)) (entry 1) (.indexSeal 6) 50 = true ∧
    (idxObj false 0xA0000000).indexOk = false ∧ startsB (kci (entry 1) (.indexSeal 0)) (entry 1) (.indexSeal 0) 50 = true := by decide +kernel
def searchBody : Body := .search 6 0 2 1 1 1 1 0 0 0 0 0 []
theorem test_search : startsB (kciC (entry 1) searchBody { idxGood with isSealed := true }) (entry 1) searchBody 50 = true := by decide +kernel

theorem test_fetchChecks :
    let s := kci (entry 1) (.copyOut 0 131073 4096 4 0)
    dueB s (entry 1) (.copyOut 0 131073 4096 4 0) 50 = true ∧
      s.kciCheck (s.newCmd (entry 1) (.copyOut 0 131073 4096 4 0) 50 (ringOf s (entry 1))) = some (stMemUnmapped, 65536 * 4 + 131073) ∧
      isViolation stMemUnmapped = true ∧
      (let t := kci (entry 1) (.copyOut 0 0 4096 0 0)
       dueB t (entry 1) (.copyOut 0 0 4096 0 0) 50 = true ∧
         t.kciCheck (t.newCmd (entry 1) (.copyOut 0 0 4096 0 0) 50 (ringOf t (entry 1))) = some (stInvalidField, 0) ∧ isViolation stInvalidField = false) := by
  decide
/-- A class-0 entry is due beside sixteen pending class-0 commands of the partition. -/
def crowded : State :=
  let raw := encodeEntry (entry 9) .nop
  { run with
    ctxs := [(0, { ctx0 99 [] with slots := [(2, { buf := (List.range 64).map (fun i => (i, raw.getD i 0)), busy := true, cid := 40 })] })],
    cmds := (List.range 16).map (fun i => { Cmd.fresh i { entry 1 with cid := i } .nop 0 0 1000 with st := .queued }), nextId := 50 }
theorem test_fetchChecks_class0 : dueB crowded (entry 9) .nop 40 = true ∧
    crowded.over0 (crowded.newCmd (entry 9) .nop 40 (ringOf crowded (entry 9))) = true := by decide
theorem test_fetchDmaFault : dueB (kci { entry 1 with dmaFault := some 4096 } .nop) { entry 1 with dmaFault := some 4096 } .nop 50 = true := by decide
theorem test_drainingHandle : ∀ h ∈ [4, 77],
    let s := kci (entry 1) (.copyOut h 0 4096 4 0)
    dueB s (entry 1) (.copyOut h 0 4096 4 0) 50 = true ∧ s.entryCheck (s.newCmd (entry 1) (.copyOut h 0 4096 4 0) 50 (ringOf s (entry 1))) = none ∧
      s.power.failed = false ∧ h ∈ bodyHandles (.copyOut h 0 4096 4 0) := by decide
theorem test_fenceAndWait :
    let e := { entry 1 with fence := true }
    let s := withCmds [pendingCmd 3 1 1 .queued] (kci e .nop)
    dueB s e .nop 50 = true ∧ s.kciCheck (s.newCmd e .nop 50 (ringOf s e)) = none ∧ (∃ c ∈ s.cmds, c.e.ctx = e.ctx ∧ c.e.queue = e.queue) := by decide
theorem test_waits : ∀ v ∈ [0, 1],
    let e := { entry 1 with wait := true, waitEvent := v, threshold := 6 }
    let s := kci e .nop
    dueB s e .nop 50 = true ∧ s.kciCheck (s.newCmd e .nop 50 (ringOf s e)) = none ∧ s.groupReady (s.newCmd e .nop 50 (ringOf s e)) = true ∧
      (∃ x : EventSt, tfind (s.ctx 0).events v = some x ∧ x.value < 6) := by
  intro v hv
  simp only [List.mem_cons, List.not_mem_nil, or_false] at hv
  rcases hv with rfl | rfl
  · exact ⟨by decide, by decide, by decide, _, rfl, by decide⟩
  · exact ⟨by decide, by decide, by decide, _, rfl, by decide⟩

theorem calm_of {s : State} (h1 : s.cmds.all (fun c => c.status.isSome || (c.st != .blocked && (c.st != .holding || !isWaiter c.body))) = true)
    (h2 : s.ctxs.all (fun c => c.2.queues.all (fun q => q.2.avail.isEmpty)) = true) : s.calm := by
  refine ⟨still_of h1, fun n k x hx raw hr => ?_⟩
  unfold State.ctx tget at hx
  cases hc : tfind s.ctxs n with
  | none => rw [hc] at hx; cases hx
  | some c =>
    rw [hc] at hx
    have := List.all_eq_true.mp (List.all_eq_true.mp h2 _ (mem_of_tfind hc)) _ (mem_of_tfind hx)
    simp only [List.isEmpty_iff] at this
    rw [this] at hr; cases hr

/-- A command that has ended and waits for its completion to be posted; the drive that holds it. -/
def endedCmd : Cmd := { pendingCmd 3 1 1 .draining with
  status := some stSuccess }
def posting (full : Bool) : State := withCmds [endedCmd] { idle with
  ctxs := [(0, { ctx0 99 [] with
    queues := [(1, { QueueSt.fresh 1 16 1 65536 131072 196608 with cqTail := if full then 15 else 0 })] })] }
theorem test_completionPost : (posting false).kciOpen = true ∧ (posting false).nextPost 0 1 = some endedCmd ∧
    (ringOf (posting false) (entry 1)).full = false ∧ (posting true).nextPost 0 1 = some endedCmd ∧ (ringOf (posting true) (entry 1)).full = true ∧
    ((posting false).ctx 0).state = 1 := by decide
theorem test_completionPost_calm : (posting false).calm ∧ (posting true).calm ∧ distinct (posting false) :=
  ⟨calm_of (by decide) (by decide), calm_of (by decide) (by decide), by unfold distinct; decide⟩

/-! ### The administrator's registers -/

theorem test_globalOpen : run.globalOpen = true ∧ run.kciOpen = true ∧ run.linked = true ∧ run.live = true ∧ run.ticking = true := by decide
theorem test_partDramQuotaWrite : (672 : BitVec 32).toNat % 65536 ≤ 672 ∧ 672 < (673 : BitVec 32).toNat % 65536 := by decide
theorem test_schedResvWrite : (50 : BitVec 32).toNat % 256 ≤ 50 ∧ 50 < (51 : BitVec 32).toNat % 256 := by decide
theorem test_windowBoundary : run.time.window < run.time.now / 1000000 * 1000000 ∧
    (runT (fun t => { t with window := 5000000 })).time.now / 1000000 * 1000000 ≤ (runT (fun t => { t with window := 5000000 })).time.window := by decide
theorem test_memT2QuotaWrite : (1 : BitVec 32).toNat % 65536 ≤ run.variant.maxT2 ∧ run.t2Held [0] ≤ 1 * 16384 ∧ run.variant.maxT2 < 65535 := by decide
theorem test_ctxAssignWrite : (∃ x : BitVec 32, bits x.toNat 19 18 = 1 ∧ 1 ≤ bits x.toNat 23 20 ∧ bits x.toNat 23 20 ≤ 8 ∧ x.toNat % 8 = (idle.ctx 1).partition) ∧
    (idle.ctx 0).queues ≠ [] ∧ (9 : Nat) % 8 ≠ (idle.ctx 0).partition := ⟨⟨0x00140001, by decide⟩, by decide, by decide⟩

/-- Partition 0 in a state of Table 8-1, claimed by context 0. -/
def claimed (st : Nat) : State := { idle with
  parts := [(0, { PartSt.reset with state := st, ctx := 0 })] }
theorem test_partExclClaim : bit (0x80000000 : BitVec 32).toNat 31 = true ∧ bit (0x80000000 : BitVec 32).toNat 30 = false ∧
    exclSet 0 0x80000000 = [0] ∧ (idle.part 0).state = 0 ∧ (idle.ctx 0).partition = 0 ∧ (claimed 1).part 0 ≠ idle.part 0 ∧
    exclSet 1 0x80000100 = [1, 2] ∧ 1 % 2 ^ bits (0x80000100 : BitVec 32).toNat 9 8 ≠ 0 := by decide
theorem test_claimComplete : ((claimed 1).part 0).state = 1 ∧ (claimed 1).setOf 0 = [0] ∧ ((claimed 1).arr 0).slots = [] ∧ ((claimed 1).arr 8).slots = [] := by
  decide
theorem test_partExclAbort : bit (0x40000000 : BitVec 32).toNat 31 = false ∧ bit (0x40000000 : BitVec 32).toNat 30 = true ∧
    ((claimed 2).part 0).lead = 0 ∧ ((claimed 2).part 0).state = 2 ∧ (idle.part 0).state = 0 := by decide
theorem test_calm : (claimed 2).calm ∧ distinct (claimed 2) := ⟨calm_of (by decide) (by decide), by unfold distinct; decide⟩
theorem test_releaseComplete : ((claimed 3).part 0).state = 3 ∧ (claimed 3).setOf 0 = [0] ∧ ((claimed 3).arr 0).inflight = [] ∧ ((claimed 3).arr 8).inflight = [] := by
  decide
theorem test_partReset : (claimed 2).globalOpen = true ∧ bit (1 : BitVec 32).toNat 0 = true := by decide

/-- The base point of P-384, as SEC_KEY_DATA holds it. -/
def basePoint : List Byte := be 48 g384.1 ++ be 48 g384.2
theorem test_secKeyEnroll : bit (1 : BitVec 32).toNat 0 = true ∧ bit (1 : BitVec 32).toNat 1 = false ∧ run.mgmt.keySel < 8 ∧
    tfind run.mgmt.keys run.mgmt.keySel = none ∧ basePoint.length = 96 ∧ keyOnCurve basePoint = true := by decide +kernel
theorem test_secKeyRevoke : bit (2 : BitVec 32).toNat 1 = true ∧ bit (2 : BitVec 32).toNat 0 = false ∧
    tfind ({ run.mgmt with keys := [(0, basePoint)] } : MgmtSt).keys 0 ≠ none := by
  exact ⟨by decide, by decide, by simp [tfind]⟩
theorem test_peerGroupCfgSet :
    let v : BitVec 32 := 0x80000304
    bit v.toNat 31 = true ∧ v.toNat % 16 = 4 ∧ bits v.toNat 10 8 = 3 ∧ (3 : Nat) < 4 ∧ ({ run.peer with gid := 9 } : PeerSt).gid ≠ 0 ∧ run.peer.valid = false := by
  decide
theorem test_peerGroupCfgClear : bit (0x00000304 : BitVec 32).toNat 31 = false ∧ bits (0x00000304 : BitVec 32).toNat 10 8 = 3 ∧
    (0x00000304 : BitVec 32).toNat % 16 = 4 := by decide
theorem test_peerBindWrite : ∃ c : Cmd, c.body = .run 5 3 1 0 4096 [] [] ∧ (1 : Nat) ≠ 0 :=
  ⟨{ pendingCmd 3 1 1 .queued with body := .run 5 3 1 0 4096 [] [] }, rfl, by decide⟩
theorem test_peerProgressToWrite : (1 ≤ (60000 : BitVec 32).toNat % 65536 ∧ (60000 : BitVec 32).toNat % 65536 ≤ 60000) ∧
    (0 : BitVec 32).toNat % 65536 < 1 := by decide
theorem test_errIrqVecWrite : (256 : BitVec 32).toNat % 512 ≤ 256 ∧ 256 < (257 : BitVec 32).toNat % 512 := by decide
theorem test_ledgAckWrite : (0 : BitVec 32).toNat * 2 ^ 32 + run.ledger.ackLo.toNat = 0 ∧ run.ledger.ring = [] := by decide
theorem test_ledgPeriodWrite : 60 ≤ (60 : BitVec 32).toNat ∧ (2678400 : BitVec 32).toNat ≤ 2678400 ∧ (59 : BitVec 32).toNat < 60 := by decide
theorem test_ledgerPeriodClose :
    let s := { run with ledger := { run.ledger with isOpen := true, openAt := 0, openLen := 0 } }
    s.ledger.isOpen = true ∧ s.time.running = true ∧ s.ledger.openAt + s.ledger.openLen * 1000000000 ≤ s.time.now ∧ s.ledger.ring.length ≤ 1024 := by
  decide
theorem test_errorLogFlush : (runE (fun e => { e with staging := [holdoverRec] })).live = true ∧
    (runE (fun e => { e with staging := [holdoverRec] })).errs.staging ≠ [] ∧ run.errs.staging = [] := by decide
theorem test_mxaTestStart : (run.arr 15).state ≠ 2 ∧ run.tests = [] ∧ (({ run with arrays := [(15, { ArraySt.reset with state := 2 })] } : State).arr 15).state = 2 := by
  decide

/-- A test of array 3, due or running. -/
def testOf (running : Bool) : TestSt := { kind := 1, index := 3, errSeq := 0, cls := 0x10, running := running }
theorem test_targetedSelfTest :
    let s := { run with tests := [testOf false] }
    s.live = true ∧ (∃ x ∈ s.tests, x.kind = 1 ∧ x.index = 3 ∧ x.running = false) ∧ (s.arr 3).state ≠ 2 ∧ (s.arr 3).inflight = [] ∧ (s.arr 11).state ≠ 1 := by
  decide
theorem test_selfTestVerdict :
    let s := { run with tests := [testOf true], arrays := [(3, { ArraySt.reset with state := 1 })] }
    s.live = true ∧ s.tests = [testOf true] ∧ (testOf true).running = true ∧ (s.arr 3).state = 1 ∧ s.errs.staging.length < 254 ∧
      s.earlier 1 3 < 3 ∧ (s.arr 3).spareRows < 3 := by decide
theorem test_selfTestVerdict_spent : 3 ≤ ({ ArraySt.reset with state := 1, spareRows := 3 } : ArraySt).spareRows := by decide
theorem test_migrationStart :
    let x := { mem1 with word := 0x10000000 }
    idle.live = true ∧ tfind x.pageTab 0 = some (PageSt.fresh (1, 0) 0) ∧ x.persistent = false ∧ 0 ≤ maxTier x.word ∧ (PageSt.fresh (1, 0) 0).tier ≠ 0 ∧
      idle.class0Names 1 0 = false ∧
      idle.room (idle.homeParts x.part) 0 (if (diesFor x.word 0).contains 0 then 0 else (diesFor x.word 0).headD 0) = true := by decide
theorem test_migrationSwitch : tfind ({ mem1 with pageTab := [(0, { PageSt.fresh (1, 0) 0 with moving := some 0 })] } : ObjectSt).pageTab 0 =
    some { PageSt.fresh (1, 0) 0 with moving := some 0 } ∧ idle.class0Names 1 0 = false := by decide
theorem test_speculativeReadIssue :
    let x := { mem2 with word := 0x60040000 }
    let c := { pendingCmd 3 1 1 .queued with handles := [1] }
    let s := { withCmds [c] idle with objs := [(1, mem1), (2, x)] }
    s.live = true ∧ s.cmd? 3 = some c ∧ c.status = none ∧ c.st ≠ .blocked ∧ 1 ∈ c.handles ∧ tfind (s.ctx 0).handles 1 = some (mapped 2) ∧
      s.obj? 2 = some x ∧ x.mark = false ∧ tfind x.pageTab 0 = some (PageSt.fresh (2, 0) 0) ∧ homeTier x.word = 1 ∧
      (x.pageTab.map (fun q => q.2.copies.countP (·.spec))).sum < runAhead x.word ∧ s.room (s.homeParts x.part) 1 0 = true := by decide
theorem test_patrolScrub : run.live = true ∧ 1 < 2 ∧ 47 < 48 := by decide

/-! ### Passes: a RUN of one tile whose pass is picked, in the array, under check and drained -/

/-- The weight and the output of the tile, beside the activation (`mem1`). -/
def wObj : ObjectSt := { mem1 with
  oid := 0x71, data := [(0, 1), (2, 2), (4, 1)] }
def outObj : ObjectSt := { mem1 with
  oid := 0x72, data := [] }
def gemmBody : Body := .run 5 3 0 0 4096 [arg 0 0 2 8, arg 1 7 4 12, arg 2 8 2 24] [tile]
/-- The RUN with one tile. -/
def gemmCmd (t : TileSt) : Cmd := { Cmd.fresh 50 (entry 1) gemmBody 1 0 1000 with
  st := .queued, tiles := [t], handles := [5, 0, 7, 8] }
def gemm (t : TileSt) : State := { run with
  ctxs := [(0, { ctx0 99 [] with handles := (ctx0 99 []).handles ++ [(5, { mapped 5 with rights := 4 }), (7, mapped 7), (8, mapped 8)] })],
  objs := [(1, mem1), (5, progObj), (7, wObj), (8, outObj)], cmds := [gemmCmd t], nextId := 60 }
def tile0 : TileSt := TileSt.fresh tile 0
def todo0 : PassTodo := { shadow := false, k0 := 0, sliceA := 0, sliceW := 0, half := 0, rows := none, retry := false }
/-- The tile begun, with its pass still to run, and with none. -/
def tile1 : TileSt := { tile0 with
  began := true, slots := [0], todo := [todo0], loA := [some 0, some 0], loW := [some 0, some 0, some 0] }
def tile2 : TileSt := { tile1 with
  todo := [] }
def pass0 : PassRec := { pid := 55, uid := 50, tile := 0, todo := todo0, draw := 3, checked := true, entered := 0, applied := [], errs := [], okRows := [], badRows := [] }
def withArr (f : ArraySt → ArraySt) (s : State) : State := { s with
  arrays := [(0, f ArraySt.reset)] }

theorem noWaiter_of {s : State} (h : s.cmds.all (fun c => !isWaiter c.body) = true) : noWaiter s :=
  fun c hc => by simpa using List.all_eq_true.mp h c hc

theorem test_pickOrder : ((gemm tile0).choice 0).isSome = true := by decide +kernel
theorem test_pass_calm : (gemm tile0).calm ∧ noWaiter (gemm tile0) ∧ (gemm tile1).calm ∧ noWaiter (gemm tile1) :=
  ⟨calm_of (by decide) (by decide), noWaiter_of (by decide), calm_of (by decide) (by decide), noWaiter_of (by decide)⟩
theorem test_passPick : (repick (gemm tile0) 0).overFails 0 = none ∧ (repick (gemm tile0) 0).choice 0 = some (gemmCmd tile0) ∧
    (repick (gemm tile0) 0).nextTile (gemmCmd tile0) 0 = some 0 ∧ tile0.began = false ∧
    (match (repick (gemm tile0) 0).precheck (gemmCmd tile0) tile0 with | .ok _ => true | .error _ => false) = true ∧
    (repick (gemm tile0) 0).slotsFor (gemmCmd tile0) 0 2 = some [12] := by decide +kernel
theorem test_passPick_begun : (repick (gemm tile1) 0).overFails 0 = none ∧ (repick (gemm tile1) 0).choice 0 = some (gemmCmd tile1) ∧ tile1.began = true := by
  decide +kernel
theorem test_passPick_none : (repick run 0).choice 0 = none ∧ (repick run 0).overFails 0 = none := by decide +kernel
theorem test_commandAged :
    let s := { gemm tile0 with time := { (gemm tile0).time with now := 50000000 } }
    s.live = true ∧ s.cmd? 50 = some (gemmCmd tile0) ∧ (gemmCmd tile0).st = .queued ∧ (gemmCmd tile0).cls ≠ 0 ∧
      (gemmCmd tile0).queuedAt + 50000000 ≤ s.time.now := by decide
theorem test_passEntry :
    let s := withArr (fun x => { x with staged := some (50, 0) }) (gemm tile1)
    s.passesAllowed = true ∧ (s.arr 0).state = 0 ∧ s.power.recovering.contains (arrDie 0) = false ∧ (s.arr 0).staged = some (50, 0) ∧
      s.cmd? 50 = some (gemmCmd tile1) ∧ (gemmCmd tile1).tiles[0]? = some tile1 ∧ tile1.todo = todo0 :: [] := by decide
theorem test_passEnd :
    let s := withArr (fun x => { x with inflight := [pass0] }) (gemm tile2)
    s.live = true ∧ (s.arr 0).inflight = pass0 :: [] ∧ s.cmd? pass0.uid = some (gemmCmd tile2) ∧ (gemmCmd tile2).tiles[pass0.tile]? = some tile2 ∧
      tile2.finished = false ∧ tile2.plan.cols ≤ 128 ∧ pass0.todo.rows = none ∧
      (match s.definedUpdates (gemmCmd tile2) tile2 pass0.todo with | .ok us => decide ((0, 0, 0) ∈ us) | .error _ => false) = true := by
  decide +kernel
/-- A pass under check with no error, and one with one error of 1 in row 0. -/
def passDone : PassRec := { pass0 with
  okRows := [0, 1] }
def passBad (rows : Option (List Nat)) : PassRec := { pass0 with
  errs := [⟨0, 0, 1⟩], okRows := [1], todo := { todo0 with
    rows := rows } }
theorem test_cleanVerdicts :
    let s (p : PassRec) := withArr (fun x => { x with checking := [p] }) (gemm tile2)
    ((s pass0).arr 0).checking = pass0 :: [] ∧ (s pass0).cmd? pass0.uid = some (gemmCmd tile2) ∧ pass0.errs = [] ∧ pass0.badRows = [] ∧
      1 ∈ pass0.todo.rowsOf tile2.plan.rows ∧ 1 ∉ pass0.okRows ∧ passDone.okRows.length = (passDone.todo.rowsOf tile2.plan.rows).length := by decide
/-- One error of 1 fails the word comparison of its row under every draw: its weight is odd. -/
theorem test_error_fails (draw : Nat) : rowPasses draw [⟨0, 0, 1⟩] 3 0 = false := by
  have h : ¬ rowDiff (weightW draw) [⟨0, 0, 1⟩] 3 0 % (2 ^ 128 : Int) = 0 := by
    have : rowDiff (weightW draw) [⟨0, 0, 1⟩] 3 0 = (weightW draw 0 : Int) := by
      simp [rowDiff, List.range_succ, errAt]
    rw [this]; unfold weightW; omega
  rw [rowPasses, Bool.and_eq_false_iff]
  exact .inr (by simpa using h)
theorem test_failedVerdicts :
    let s (p : PassRec) := withArr (fun x => { x with checking := [p] }) (gemm tile2)
    (s (passBad none)).live = true ∧ ((s (passBad none)).arr 0).checking = passBad none :: [] ∧ (gemmCmd tile2).status = none ∧
      0 ∈ (passBad none).todo.rowsOf tile2.plan.rows ∧ 0 ∉ (passBad none).okRows ∧ (passBad none).okRows.length + 1 = tile2.plan.rows ∧
      (passBad (some [0])).todo.rows.isSome = true ∧ 0 ∈ (passBad (some [0])).todo.rowsOf tile2.plan.rows := by decide
theorem test_failedVerdicts_distinct : distinct (gemm tile2) ∧ (gemm tile2).calm ∧ noWaiter (gemm tile2) :=
  ⟨by unfold distinct; decide, calm_of (by decide) (by decide), noWaiter_of (by decide)⟩
/-- A column comparison that fails: an error of 1 in each column's first row. -/
theorem test_column_fails (draw : Nat) : colPasses draw [⟨0, 0, 1⟩] [0, 1] 0 = false := by
  have h : ¬ (([0, 1].map (fun i => (weightD draw i : Int) * errAt [⟨0, 0, 1⟩] i 0)).sum % (prime61 : Int) = 0) := by
    have : ([0, 1].map (fun i => (weightD draw i : Int) * errAt [⟨0, 0, 1⟩] i 0)).sum = (weightD draw 0 : Int) := by
      simp [errAt]
    rw [this]; unfold weightD prime61; omega
  rw [colPasses]
  simpa using h
theorem test_rowDrain : (gemm tile2).drainable (gemmCmd tile2) 0 tile2 0 = true ∧ (gemm tile2).rowOwner (gemmCmd tile2) tile2 0 = none ∧
    (gemmCmd tile2).strict = false ∧ tile2.plan.outSlot = some 2 ∧ (gemm tile2).slotArg (gemmCmd tile2) 2 = some (mapped 8, outObj, arg 2 8 2 24, slot 2 2 7 3) ∧
    groupSize (slot 2 2 7 3).group = 0 ∧ tile2.drained.length + 1 < tile2.plan.rows ∧ outObj.persistent = false ∧
    tile2.array = 0 := by decide
theorem test_rowDrain_pages :
    let codes := ((gemm tile2).epilogueRow (gemmCmd tile2) tile2 0 ((List.range 128).map (fun j => tile2.accAt 0 j))).codes
    let w := packFrom outObj.byte 7 0 0 codes
    w.1 = 0 ∧ w.2.length = 12 ∧ (∀ p ∈ pagesOf w.1 w.2.length, (tfind outObj.pageTab p).isSome = true) := by decide +kernel
theorem test_rowDrain_canonical : (gemm tile2).Canonical := by
  refine ⟨rfl, ?_, rfl, rfl⟩
  intro o ho
  simp only [gemm, List.mem_cons, List.not_mem_nil, or_false] at ho
  rcases ho with rfl | rfl | rfl | rfl <;> rfl
theorem test_drainErrors : ({ gemmCmd tile2 with mode := some (0, 0) } : Cmd).mode = some (0, 0) := by decide

/-! ### Searches -/

def sealedIdx : ObjectSt := { idxGood with
  isSealed := true }
def searchCmd (y : QuerySt) : Cmd := { Cmd.fresh 50 (entry 1) searchBody 1 0 1000 with
  st := .queued, handles := [6, 0, 2], search := some { sealGen := 0, queries := [y] } }
def hunt (y : QuerySt) : State := { run with
  ctxs := [(0, { ctx0 99 [] with handles := (ctx0 99 []).handles ++ [(6, mapped 6)] })],
  objs := [(1, mem1), (3, mem3), (6, sealedIdx)], cmds := [searchCmd y], nextId := 60 }
def args : SearchArgs :=
  { nq := 1, k := 1, nprobe := 1, f := 1, rerank := false, qoff := 0, ooff := 0, terms := [], idx := 6, ix := sealedIdx, qx := mem1, out := 3 }
def cand (i launch : Nat) : Cand := { id := i, score := 3, list := 0, launch := launch }
def scan (tag : Nat) : ScanSt := ScanSt.fresh 0 0 tag
def sent : QuerySt := { QuerySt.fresh with
  tableSent := true }

theorem searching_of {y : QuerySt} (h : (hunt y).runningQuery 50 0 = some (searchCmd y, { sealGen := 0, queries := [y] }, y, args)) :
    Searching (hunt y) 50 0 (searchCmd y) { sealGen := 0, queries := [y] } y args :=
  ⟨h, rfl, calm_of rfl rfl, noWaiter_of rfl⟩

theorem test_speculativeScanLaunch : Searching (hunt sent) 50 0 (searchCmd sent) { sealGen := 0, queries := [sent] } sent args ∧
    sent.tableSent = true ∧ sent.final = false ∧ 0 < args.ix.head.nlist ∧ sent.scans = [] :=
  ⟨searching_of (by decide), by decide, by decide, by decide +kernel, rfl⟩
theorem test_distanceTableSend : Searching (hunt QuerySt.fresh) 50 0 (searchCmd QuerySt.fresh) { sealGen := 0, queries := [QuerySt.fresh] } QuerySt.fresh args ∧
    (hunt QuerySt.fresh).passesAllowed = true ∧ QuerySt.fresh.tableSent = false ∧ args.nq ≤ ((hunt QuerySt.fresh).freeSlots (searchCmd QuerySt.fresh)).length :=
  ⟨searching_of (by decide), by decide, by decide, by decide +kernel⟩
def answers {α : Type} (r : Except Nat α) : Bool := match r with
  | .ok _ => true
  | .error _ => false
theorem test_selectionFinal : ∃ sel : List Nat, args.selection 0 = .ok sel := by
  unfold SearchArgs.selection
  dsimp only
  generalize hr : collectOk _ = r
  cases r with
  | ok ls => exact ⟨_, rfl⟩
  | error e =>
    have h := congrArg answers hr
    exact absurd (show answers _ = false from h) (by decide +kernel)
/-- A query with one scan and one candidate that arrives. -/
def scanning (tag next : Nat) (arr : List Cand) (pool : List Cand) : QuerySt := { sent with
  scans := [{ scan tag with nextBlock := next }], arriving := arr, pool := pool, final := decide (tag ≠ 0) }
theorem test_codewordEvaluate : (scanning 1 0 [] []).scans.find? (fun w => w.launch == 0) = some (scan 1) ∧ (scan 1).ended = false ∧ (scan 1).tag ≠ 2 ∧
    (scan 1).nextBlock = 0 ∧ 0 < (args.ix.dirEnt 0).blocks ∧ args.ix.lostIn (args.ix.blockOff 0 0) 4096 = false ∧
    blockOk (args.ix.read (args.ix.blockOff 0 0) 4096) 0 0 args.ix.head.m = true := by decide +kernel
theorem test_codewordEvaluate_unsound : blockOk (zeros 4096) 0 0 8 = false ∧ ({ searchCmd sent with mode := some (0, 0) } : Cmd).mode = some (0, 0) := by
  decide +kernel
theorem test_mergerCandidate : (scanning 1 1 [cand 0 0] []).arriving[0]? = some (cand 0 0) ∧
    (scanning 0 1 [cand 0 0] []).scans.find? (fun w => w.launch == (cand 0 0).launch) = some { scan 0 with nextBlock := 1 } ∧
    (scanning 0 1 [cand 0 0] []).pool.length < 16384 := by decide
theorem test_keptSet : ([cand 0 0, cand 1 0].map (·.id)).Nodup := by decide
theorem test_scanEnd : (args.ix.dirEnt 0).blocks ≤ ({ scan 1 with nextBlock := 1 } : ScanSt).nextBlock ∧ (scanning 1 1 [] []).arriving = [] ∧ args.rerank = false ∧
    args.ix.isSealed = true ∧ args.ix.head.gen = 0 ∧ (hunt sent).obj? args.out = some mem3 := by decide +kernel
theorem test_scanEnd_canonical : (hunt sent).Canonical := by
  refine ⟨rfl, ?_, rfl, rfl⟩
  intro o ho
  simp only [hunt, List.mem_cons, List.not_mem_nil, or_false] at ho
  rcases ho with rfl | rfl | rfl <;> decide +kernel
theorem test_rerank : ({ args with rerank := true } : SearchArgs).rerank = true ∧
    ({ scanning 1 1 [] [] with scans := [{ scan 1 with ended := true }] } : QuerySt).scanned = true ∧ (scanning 1 1 [] []).reranked = none := by decide
/-- With an index object that holds only zeros (M = 0) the table is empty. -/
theorem test_tables : answers (({ args with ix := idxObj true 0xA0000000 } : SearchArgs).tables 0) = true := by decide +kernel

/-! ### NAND -/

def cwRead (marks decodes : List Int) : CwRead := { marks := marks, decodes := decodes, corrected := 97, expected := true }
/-- A drive with one die and its block in a state. -/
def withDie (f : DieSt → DieSt) (b : BlockSt → BlockSt) : State := { run with
  nand := { run.nand with
    dies := [(0, f DieSt.reset)], blocks := [(blockKey 0 5, b BlockSt.reset)] } }
def request (kind : NandKind) (pri : Nat) : NandReq := { pri := pri, kind := kind, block := 5, page := 16, items := [], since := 0, uid := none, lba := none }

/-- Each row of Table 10-2 has its codeword; 33 bits away a mark is out of the window, and at 32 it is in it. -/
theorem test_resolution : (∀ m ∈ (cwRead [33] [0]).marks, m < -32 ∨ 32 < m) ∧ decodesAt (cwRead [33] [0]) 0 ∧ ¬ decodesAt (cwRead [33] []) 0 ∧
    marksAt (cwRead [0] [0]) 0 ∧ marksAt (cwRead [32] [32]) 32 ∧ decodesAt (cwRead [32] [32]) 32 ∧ ¬ decodesAt (cwRead [32] [0]) 32 ∧
    marksAt (cwRead [3, -3] [0]) (-3) := by
  simp [marksAt, decodesAt, cwRead]
/-- R238, Table 10-2: what the spec's table says of each. -/
theorem test_codewords : cwOut (cwRead [33] [0]) = .miss ∧ cwOut (cwRead [0] [0]) = .clean ∧ cwOut (cwRead [32] [32]) = .slip ∧
    cwOut (cwRead [32] [0]) = .falseMark ∧ cwOut (cwRead [0] [3]) = .fail ∧ cwOut (cwRead [3, -3] [-3]) = .slip := by decide
theorem test_nandReadDone :
    let s := withDie (fun d => { d with busy := some (request .read 1) }) id
    s.live = true ∧ (s.die 0).busy = some (request .read 1) ∧ (s.die 0).ladder = [] ∧ [cwRead [0] [0], cwRead [0] [], cwRead [] [0], cwRead [3] [3]].length ≤ 4 ∧
      s.nand.syncMiss + 1 < 2 ^ 32 := by decide
theorem test_recoveryLadderStep : ∀ level ∈ [2, 3, 4],
    let s := withDie (fun d => { d with busy := some (request .read 1), ladder := [(3, level)] }) id
    s.live = true ∧ (s.die 0).busy = some (request .read 1) ∧ (s.die 0).ladder.find? (fun p => p.1 == 3) = some (3, level) ∧ s.errs.staging = [] ∧
      s.errs.ring = [] := by decide
theorem test_recoveryLadderStep_calm : (withDie id id).calm ∧ noWaiter (withDie id id) := ⟨calm_of rfl rfl, noWaiter_of rfl⟩
theorem test_nandOpStart :
    let s (l : List NandReq) := withDie (fun d => { d with waiting := l }) id
    (s []).live = true ∧ (s []).reqOk 0 (request .read 1) = true ∧ (s [request .program 2, request .read 1]).startable 0 (request .read 1) = true ∧
      (s [request .erase 4]).startable 0 (request .erase 4) = false ∧ 15 / 16 < 32 ∧ 7 % 16 < (s []).variant.targets := by decide
/-- A drive whose group 0 erases on die 0, where a read waits. -/
def erasing (l : List NandReq) : State :=
  let s := withDie (fun d => { d with waiting := l }) id
  { s with
    nand := { s.nand with
      groups := [(0, { GroupSt.reset with erasing := some 0, left := [(0, 5)], plan := [(0, 5)], planOn := [0, 8] })] } }
theorem test_nandOpStart_erase :
    let s0 := erasing [request .erase 4]
    let s := { s0 with nand := { s0.nand with groups := [(0, { s0.group 0 with erasing := none })] } }
    s.startable 0 (request .erase 4) = true ∧ (s.die 0).busy = none := by decide
theorem test_readAroundErase : (erasing [request .read 1]).live = true ∧ ((erasing [request .read 1]).die 0).waiting = [request .read 1] ∧
    ((erasing []).group 0).erasing = some (idxOf 0) ∧ ((withDie id id).group 0).erasing ≠ some (idxOf 0) ∧
    (∀ d ∈ (List.range 16).map ((erasing []).variant.dieAt 0), ((erasing []).die d).retired = false ∧ ((erasing []).die d).busy = none) := by decide
/-- The program of word line 1 of block 5 on die 0, and on the parity's die, which is 5 of the group: 64 + 1. -/
theorem test_nandProgramDone :
    let s := withDie (fun d => { d with busy := some (request .program 2) }) id
    (s.die 0).busy = some (request .program 2) ∧ idxOf 0 ≠ 5 % 16 ∧ 5 % 16 ∉ (s.row 0 5 1).programmed ∧ s.errs.staging = [] ∧ s.errs.ring = [] := by
  decide
def hdr (sq cid : Nat) : NvmeHdr := { fn := 0, sqid := sq, cid := cid, nsid := 1 }
/-- An extent of one block, and a namespace of one GiB in format 0. -/
def blkX : Blk := { data := [7], guard := 0, app := 0, ref := 0, place := 0 }
def extentX : Extent := { id := 30, h := hdr 1 9, slba := 4, nlb := 1, kind := 0, blocks := [blkX], fua := false, completed := true, since := 0, dead := [] }
def ns0 : NsSt := { gib := 1, lbaf := 0, ext := false, pi := 0, attached := [0], media := [], bad := [] }
def ns1 : NsSt := { ns0 with
  lbaf := 1, pi := 1 }
theorem test_nandProgramDone_commit :
    let s : State := { run with
      nand := { run.nand with
        dies := [(17, { DieSt.reset with busy := some (request .program 2) })], rows := [(rowKey 0 5 1, { programmed := [0], items := [(0, 8)] })],
        items := [(8, .extent 30)] },
      nvme := { run.nvme with
        cache := [extentX], ns := [(1, ns0)] } }
    (s.die 17).busy = some (request .program 2) ∧ idxOf 17 = 5 % 16 ∧ s.variant.groupOf 17 = 0 ∧ (s.row 0 5 1).items = [(0, 8)] ∧
      tfind s.nand.items 8 = some (.extent extentX.id) ∧ s.nvme.cache = [extentX] ∧ extentX.blocks.length = extentX.nlb ∧
      tfind s.nvme.ns extentX.h.nsid = some ns0 := by decide
theorem test_nandEraseDone : ((withDie (fun d => { d with busy := some (request .erase 4) }) id).die 0).busy = some (request .erase 4) := by decide
theorem test_nandReset : run.power.mode ≠ .noRails ∧ (0, 5) ∈ ((erasing []).group 0).plan ∧ ((erasing []).group 0).planOn ≠ [] ∧
    ((erasing []).block ((erasing []).variant.dieAt 0 0) 5).committed = 0 := by decide
theorem test_patrolRead : run.live = true ∧ (run.die 511).busy = none ∧ (run.die 511).retired = false ∧ run.power.recovering.contains 3 = false ∧
    (∀ c ∈ [cwRead [0] [0]], cwOut c ≠ .fail) := by decide
theorem test_blockRefresh : ((withDie id (fun b => { b with reads := 200000 })).block 0 5).reads = 200000 ∧
    ((withDie id (fun b => { b with reads := 199999 })).block 0 5).reads < 200000 ∧ ((withDie id id).block 0 5).refresh = false ∧ run.power.pstate ≤ 4 := by decide
theorem test_garbageCollection : 15 < run.variant.groups ∧ 23 < 24 ∧ ({ GroupSt.reset with gc := 2 } : GroupSt).gc = 2 ∧ (7 : Nat) < 8 ∧
    (run.die (run.variant.dieAt 15 15)).retired = false := by decide
theorem test_cacheCommitStart :
    let s : State := { run with
      nvme := { run.nvme with
        cache := [extentX] } }
    extentX ∈ s.nvme.cache ∧ tfind s.nand.items 30 = none ∧ s.wlOk 0 5 1 = true ∧ idxOf 0 ≠ 5 % 16 ∧ s.nand.dies = [] ∧ s.nand.rows = [] ∧
      ((s.nvme.cache.find? (fun x => x.id == 30)).map Extent.bytes).getD 0 ≤ 262144 := by decide +kernel
theorem test_writeAdmit :
    let e := { extentX with completed := false }
    let s : State := { run with
      nvme := { run.nvme with
        waiting := [e] } }
    s.nvme.waiting = [e] ∧ s.live = true ∧ s.cacheRoom [e] = true ∧ s.nvme.cache = [] ∧ s.nvme.wce = true ∧ s.writeThrough = false ∧
      e.fua = false ∧ ({ e with fua := true } : Extent).fua = true := by decide +kernel
/-- A write of more than 1 GiB finds no room. -/
def bigWrite (n : Nat) : Extent := { extentX with
  completed := false, blocks := List.replicate n { blkX with data := List.replicate 512 0 } }
def bigDrive (n : Nat) : State := { run with
  nvme := { run.nvme with
    waiting := [bigWrite n] } }
theorem bigWrite_full (n : Nat) (h : 2097152 < n) : (bigDrive n).nvme.waiting = [bigWrite n] ∧ (bigDrive n).cacheRoom [bigWrite n] = false := by
  refine ⟨rfl, ?_⟩
  have hb : (bigWrite n).bytes = n * 512 := by
    rw [Extent.bytes, show (bigWrite n).blocks = List.replicate n { blkX with data := List.replicate 512 0 } from rfl, List.map_replicate,
      List.sum_replicate, List.length_replicate, Nat.nsmul_eq_mul]
  simp only [State.cacheRoom, decide_eq_false_iff_not, not_and, List.map_cons, List.map_nil, List.sum_cons, List.sum_nil, hb]
  intro _; omega
theorem test_writeAdmit_full : ∃ n : Nat, (bigDrive n).nvme.waiting = [bigWrite n] ∧ (bigDrive n).cacheRoom [bigWrite n] = false :=
  ⟨3000000, bigWrite_full 3000000 (by omega)⟩

/-! ### The program store -/

def withStore (f : StoreSt → StoreSt) : State := runS f
theorem test_storeOpStart :
    let s (l : List StoreOp) := withStore (fun t => { t with queue := l })
    (s [⟨.erase 40⟩, ⟨.journal⟩]).live = true ∧ (s [⟨.erase 40⟩]).storeReady ⟨.erase 40⟩ = true ∧ (s [⟨.powerFail⟩]).storeReady ⟨.powerFail⟩ = false ∧
      (s []).store.cur = none ∧ (withStore (fun t => { t with cur := some ⟨.journal⟩ })).store.cur ≠ none ∧
      StoreSt.rank ⟨.journal⟩ ≤ StoreSt.rank ⟨.erase 40⟩ := by decide
theorem test_storeEraseDone : (withStore (fun t => { t with cur := some ⟨.erase 32⟩ })).store.cur = some ⟨.erase 32⟩ ∧
    (withStore (fun t => { t with cur := some ⟨.erase 31⟩ })).store.cur = some ⟨.erase 31⟩ := by decide
theorem test_controlSectorSwitch : 2040 ≤ (withStore (fun t => { t with used := 2040 })).store.used ∧
    (withStore (fun t => { t with used := 2040 })).store.cur = none ∧ (withStore (fun t => { t with used := 2039 })).store.used < 2040 := by decide
theorem test_gapAdvance :
    let s := withStore (fun t => { t with erases := 64 })
    s.store.cur = none ∧ 64 * (s.store.gaps + 1) ≤ s.store.erases ∧ s.store.hole = [] ∧ s.store.h ∉ s.store.dirty ∧ s.store.used < 2040 ∧
      s.store.h < 4064 ∧ s.store.k < 3968 ∧ s.store.erases ≠ 63 := by decide
theorem test_programLoad :
    let s := gemm tile0
    s.live = true ∧ s.obj? 5 = some progObj ∧ progObj.prog = some progSt ∧ progSt.damaged = false ∧ s.store.cur = none ∧
      (∃ c ∈ s.cmds, c.status = none ∧ c.body = gemmBody ∧ tfind (s.ctx c.e.ctx).handles 5 = some { mapped 5 with rights := 4 }) :=
  ⟨by decide, by decide, by decide, by decide, by decide, gemmCmd tile0, by simp [gemm], by decide, by decide, by decide⟩
theorem test_programLoad_calm : (gemm tile0).calm ∧ noWaiter (gemm tile0) ∧ distinct (gemm tile0) :=
  ⟨calm_of (by decide) (by decide), noWaiter_of (by decide), by unfold distinct; decide⟩
def lacRec : LacunaRec :=
  { seq := 3, time := 9, copied := 0, complete := true, exts := [], kcis := [], counts := [], nExts := 0, nKcis := 0, unlisted := 0, snapshot := none,
    quiet := false, place := [4000, 4001] }
theorem test_storePageProgramDone :
    let s (k : StoreKind) := withStore (fun t => { t with
      cur := some ⟨k⟩, commit := some (hdr 0 5, true, { version := 1, svn := 0, sigOk := true }), hole := [lacRec], minSvn := 1 })
    (s .bootWrite).live = true ∧ (s .bootWrite).store.cur = some ⟨.bootWrite⟩ ∧ (s .lacunaCopy).store.hole = [lacRec] ∧
      (List.range 16).find? ({ s .lacunaCopy with store := { (s .lacunaCopy).store with cur := none } } : State).lacunaFree = some 0 := by decide

/-! ### Peer links -/

/-- Member 1 of a group of 4 in epoch 3, its ports UP but port 3. -/
def peered (f : PeerSt → PeerSt) : State := { run with
  peer := f { run.peer with
    gid := 7, valid := true, member := 1, size := 4, group := 2, epoch := 3,
    ports := (List.range 4).map (fun p => (p, { Port.reset with present := true, partnerLive := true, state := if p < 3 then 2 else 1, lanes := 15 })) } }
def opX : GroupOp :=
  { uid := 50, seq := 2, mode := 1, posted := [], tiles := [], envelopes := [], rows := [], rowSrcs := [], envSrcs := [], mismatched := [],
    lastMsg := 0, timeout := 1000000 }
def opOn (o : GroupOp) : State := peered (fun x => { x with ops := [o] })
theorem test_ports : (peered id).peerLive = true ∧ ((peered id).port 0).state = 2 ∧ ((peered id).port 3).state = 1 ∧ ((peered id).port 3).present = true ∧
    ((peered id).port 3).retraining = false ∧ (peered id).peer.retiredLanes = [] ∧ ((peered id).port 0).queue = [] ∧
    0 < tget 0 ((peered id).port 0).credits 0 ∧ (run.port 0).present = false ∧ (peered id).errs.staging = [] ∧ (peered id).errs.ring = [] := by decide
theorem test_alerts :
    let f : TxFlit := { seq := 5, channel := 1, bytes := [], replays := 16, firstReplay := 0 }
    let s := peered (fun x => { x with ports := tmod Port.reset x.ports 0 (fun p => { p with txBuf := [f] }) })
    (s.port 0).state = 2 ∧ (s.port 0).alertIgnored = false ∧ (∃ g ∈ (s.port 0).txBuf, 16 ≤ g.replays) := by decide
theorem test_hello_retraining : ({ Port.reset with retraining := true } : Port).retraining = true ∧ ((peered id).port 0).retraining = false := by decide
/-- An intact flit: one of channel 1 with sequence number 0 of the group's epoch for member 1. -/
def flitX : List Byte := sealFlit 0 65535 0 0 (flitBody 0x10 1 1 true 7 0 1 0x03000002 0 [])
theorem test_flits : flitX.length = 256 ∧ leNat (slice flitX 0xF8 8) = crcFlit (flitX.take 0xF8) ∧ leNat (slice flitX 1 1) % 4 = 1 ∧
    leNat (slice flitX 2 2) = ((peered id).port 0).rxNext ∧ leNat (slice flitX 0x10 4) / 2 ^ 24 = (peered id).peer.epoch ∧
    leNat (slice flitX 0xD 1) = (peered id).peer.member ∧ leNat (slice flitX 0x10 4) / 2 ^ 24 ≠ run.peer.epoch ∧
    leNat (slice (zeros 256) 1 1) % 4 = 0 ∧ leNat (slice (zeros 256) 0xF8 8) = crcFlit ((zeros 256).take 0xF8) := by decide +kernel
theorem test_heartbeats : 0 < (peered id).peer.size ∧ 0 ≠ (peered id).peer.member ∧ (peered id).peer.group = 2 ∧
    allAgree { (peered id).peer with hb := [(0, { Hb.reset with seen := true, epoch := 3 }), (2, { Hb.reset with seen := true, epoch := 3 }),
      (3, { Hb.reset with goodRun := 1, epoch := 3 })] } 3 ∧ ¬ allAgree (peered id).peer 3 := by
  refine ⟨by decide, by decide, by decide, ?_, ?_⟩ <;> unfold allAgree <;> decide
theorem test_group_calm : (peered id).calm ∧ noWaiter (peered id) ∧ distinct (peered id) := ⟨calm_of rfl rfl, noWaiter_of rfl, List.nodup_nil⟩
theorem test_losses : ((peered (fun x => { x with hb := [(0, { Hb.reset with missed := 12 })] })).peer.known 0).missed = 12 ∧
    0 ∉ (peered id).peer.lost ∧ ((peered id).peer.known 0).missed < 12 := by decide
theorem test_reforms :
    let s := peered (fun x => { x with group := 3, goodWindows := 4 })
    let u := runT (fun t => { t with now := 1000000000 })
    s.peerLive = true ∧ s.peer.group = 3 ∧ 4 ≤ s.peer.goodWindows ∧ s.peer.formingSince + 1000000000 ≤ u.time.now ∧
      s.peer.others.any (fun j => decide (j < s.peer.member) && ((s.peer.known j).gstate == 1 || (s.peer.known j).gstate == 2)) = false := by decide

theorem arrives_of {o : GroupOp} (h : o.seq = 2) : Arrives (opOn o) 0 0x03000002 o := by
  refine ⟨rfl, show 0 ∈ (List.range 4).filter (fun j => j != 1) by decide, show 0x03000002 / 2 ^ 24 = 3 by norm_num, ?_, rfl⟩
  have e : (opOn o).peer.opId o.seq = 0x03000002 := by
    rw [h]
    show 3 * 2 ^ 24 + 2 % 2 ^ 24 = 0x03000002
    norm_num
  show [o].find? (fun o => (opOn o).peer.opId o.seq == 0x03000002) = some o
  rw [List.find?_cons]
  have e' : ((opOn o).peer.opId o.seq == 0x03000002) = true := beq_iff_eq.mpr e
  rw [e']
theorem test_posts : Arrives (opOn opX) 0 0x03000002 opX ∧ 0 ∉ opX.posted ∧ (opOn opX).cmd? opX.uid = none ∧ (opOn opX).opFor 0x03000009 = none ∧
    0x04000002 / 2 ^ 24 ≠ (opOn opX).peer.epoch ∧ 0 ∈ ({ opX with posted := [0] } : GroupOp).posted :=
  ⟨arrives_of rfl, by decide, by decide, by decide, by decide, by decide⟩
/-- The command of the operation, with a gathered input of 4,096 bytes under handle 0. -/
def groupBody : Body := .run 5 1 1 2 4096 [{ arg 0 0 2 4096 with gathered := true }] [tile]
def groupCmd : Cmd := { gemmCmd tile0 with
  body := groupBody, handles := [5, 0] }
def opRuns (o : GroupOp) : State := { opOn o with
  ctxs := (gemm tile0).ctxs, objs := (gemm tile0).objs, cmds := [groupCmd] }
theorem test_gathers : (opRuns opX).cmd? opX.uid = some groupCmd ∧ groupCmd.status = none ∧
    (opRuns opX).gatheredArg groupCmd (1024 / 2 ^ 40) = some (1, { arg 0 0 2 4096 with gathered := true }) ∧ (opRuns opX).obj? 1 = some mem1 ∧
    0 * shardUnit 4096 4 ≤ 512 % 2 ^ 40 ∧ 512 % 2 ^ 40 < min ((0 + 1) * shardUnit 4096 4) 4096 ∧ tfind opX.tiles 512 = none ∧
    tfind ({ opX with tiles := [(512, digest [1])] } : GroupOp).tiles 512 = some (digest [1]) ∧ digest [1] ≠ digest [2] := by decide +kernel
theorem test_gathers_calm : (opRuns opX).calm ∧ noWaiter (opRuns opX) := ⟨calm_of (by decide) (by decide), noWaiter_of (by decide)⟩
theorem test_gathers_canonical : (opRuns opX).Canonical := by
  refine ⟨rfl, ?_, rfl, rfl⟩
  intro o ho
  simp only [opRuns, gemm, List.mem_cons, List.not_mem_nil, or_false] at ho
  rcases ho with rfl | rfl | rfl | rfl <;> rfl
theorem test_gathers_arrives : Arrives (opRuns opX) 0 0x03000002 opX := by
  have h := arrives_of (o := opX) rfl
  exact ⟨h.live, h.member, h.epoch, h.part, h.ops⟩
theorem test_mismatches : (0, 512) ∉ opX.mismatched ∧ (0, 512) ∈ ({ opX with mismatched := [(0, 512)] } : GroupOp).mismatched ∧ digest [] ≠ 1 := by decide +kernel
theorem test_reduces : (zeros 2048).length = 2048 ∧ (5, 0) ∉ ({ opX with mode := 2 } : GroupOp).rowSrcs ∧
    (∀ l : List Int, tfind ({ opX with mode := 2 } : GroupOp).rows 5 = some l → l.length = 128) ∧
    (5, 0) ∈ ({ opX with rowSrcs := [(5, 0)] } : GroupOp).rowSrcs := ⟨List.length_replicate, by decide, by simp [opX, tfind], by decide⟩
theorem test_envelopes : ∃ dg, digest (envLine (3, -5, 9, 128)) = dg ∧ tfind ({ opX with mode := 2 } : GroupOp).tiles (0 * 2 ^ 40 + 0) = none ∧
    tfind ({ opX with envelopes := [(3, (-9, 4, 128))] } : GroupOp).envelopes 3 = some (-9, 4, 128) := ⟨_, rfl, by decide, by decide⟩
theorem test_aborts : opX.lastMsg + opX.timeout ≤ (opRuns opX).time.now ∧ (opRuns opX).time.now < ({ opX with timeout := 60000000 } : GroupOp).lastMsg + 60000000 := by
  decide
theorem test_copies :
    let m : PeerMsg := { dst := 0, kind := 0x11, opId := 0x03000002, offset := 512, payload := zeros 32, sentAt := 0 }
    m.payload.length = 16 * 2 ∧ m.dst = 0 ∧ (opRuns opX).peer.copies = [] := by decide

/-! ### Block storage -/

def ioQ : IoQueue := { size := 8, tail := 7, link := 1, irq := false }
def ctlX : Ctl := { Ctl.reset with
  enabled := true, ready := true, sqs := [(1, ioQ)], cqs := [(1, ioQ), (2, ioQ)], errLog := [⟨1, 1, 9, 0x281, 0, 1⟩], held := [7],
  aborts := [⟨1, 3, 1, 9, 0, 0, 0, 0⟩], changed := [1] }
/-- A drive with a controller on the PF and on a VF and two namespaces attached to the PF; the checks of its hold-up bank are done. -/
def hosted (f : NvmeSt → NvmeSt) : State := runV (fun n => f { n with
  ctls := [(0, ctlX), (3, { Ctl.reset with ready := true })], ns := [(1, ns0), (2, ns1)] })
def adm (fn : Nat) : NvmeHdr := { fn := fn, sqid := 0, cid := 4, nsid := 1 }
def fetchedX (h : NvmeHdr) : NvmeHdr × Nat × Nat := (h, 1, 0)

theorem test_admits : admits (hosted id) (adm 0) ∧ admits (hosted id) (adm 3) ∧ Mem.wf (hosted id).host = true ∧ (hosted id).power.pstate ≤ 3 ∧
    (hosted id).power.lowPending = none := ⟨⟨rfl, by decide⟩, ⟨rfl, by decide⟩, rfl, by decide, rfl⟩
theorem test_doorbell : (hosted id).linked = true ∧ (hosted id).power.nvmeReady = true ∧ ((hosted id).ctl 0).ready = true ∧
    (hosted id).nvme.outstanding = [] ∧ tfind ((hosted id).ctl 0).sqs 1 = some ioQ ∧ 0 < ioQ.size ∧ ioQ.tail < ioQ.size ∧ 0 = (ioQ.tail + 1) % ioQ.size ∧
    0x05 ∈ adminOps ∧ 0x0D ∉ vfOps ∧ 0x02 ∈ nvmOps ∧ 0x0E ∉ nvmOps := by decide
theorem test_ioQueues : tfind ((hosted id).ctl 0).feats 0x07 = none ∧ tfind ((hosted id).ctl 0).sqs 256 = none ∧ (tfind ((hosted id).ctl 0).cqs 1).isSome = true ∧
    vectorsOf 0 - 1 < vectorsOf 0 ∧ (tfind ((hosted id).ctl 0).sqs 1).isSome = true ∧ tfind ((hosted id).ctl 0).cqs 2 = some ioQ ∧
    (∀ y ∈ ((hosted id).ctl 0).sqs, y.2.link ≠ 2) ∧ (1, ioQ) ∈ ((hosted id).ctl 0).sqs ∧ ioQ.link = 1 := by decide
theorem test_abortCommand :
    let e := { extentX with completed := false }
    (hosted (fun n => { n with outstanding := [fetchedX e.h], waiting := [e] })).nvme.waiting = [e] ∧ e.h.sqid ≠ 0 ∧ e.h.fn = (adm 0).fn ∧
      admits (hosted (fun n => { n with outstanding := [fetchedX e.h], waiting := [e] })) (adm 0) ∧
      admits (hosted (fun n => { n with outstanding := [fetchedX e.h], cache := [e] })) (adm 0) ∧ e.completed = false :=
  ⟨rfl, by decide, rfl, ⟨rfl, by decide⟩, ⟨rfl, by decide⟩, rfl⟩
theorem test_eventRequest : ((hosted id).ctl 0).aers.length < 4 ∧ ((hosted id).ctl 0).held = 7 :: [] ∧ ((hosted id).ctl 3).held = [] := by decide
theorem test_powerManagement : (3 : BitVec 32).toNat % 32 ≤ 3 ∧ (4 : BitVec 32).toNat % 32 = 4 ∧ 5 < (6 : BitVec 32).toNat % 32 := by decide
theorem test_driveFeatures : ((hosted id).ctl 3).sqs = [] ∧ ((hosted id).ctl 3).cqs = [] ∧ (0x00FE00FE : BitVec 32).toNat % 65536 ≠ 65535 ∧
    (∀ x ∈ [(4, 100), (0, 0), (5, 2000)], x.2 = 0 ∨ x.1 = 4 ∨ x.1 = 5) ∧ (∃ x ∈ [(3, 100)], x.2 ≠ 0 ∧ x.1 ≠ 4 ∧ x.1 ≠ 5) ∧
    (let s := { hosted id with ledger := { run.ledger with isOpen := true } }
     let c := { ctlX with tsSet := true, tsValue := 9 }
     s.ledger.isOpen = true ∧ 8 < c.tsValue) := by decide
theorem test_featuresRead : tfind [(0x0B, (0x11F : BitVec 32))] 0x0B = some 0x11F ∧ 0x0B ∈ [0x01, 0x04, 0x08, 0x09, 0x0A, 0x0B] ∧
    tfind ((hosted id).ctl 0).feats 0x07 = none ∧ 0x03 ∉ [0x01, 0x02, 0x04, 0x06, 0x07, 0x08, 0x09, 0x0A, 0x0B, 0x0C, 0x0E, 0xC0] := by decide
theorem test_release :
    let r := { lacRec with place := [15], kcis := [⟨0, 1, 7, 0x11, 0⟩] }
    (withStore (fun t => { t with lacuna := [r] })).store.lacuna = [r] ∧ run.store.hole = [] ∧ r.seq % 2 ^ 32 = 3 ∧
      (∃ q ∈ r.kcis, q.oid ≠ 0 ∧ q.oid = mem1.oid ∧ q.part = mem1.part) ∧ (∀ q ∈ r.kcis, q.oid = 0 ∨ q.oid ≠ mem2.oid ∨ q.part ≠ mem2.part) := by decide
theorem test_identified : tfind (hosted id).nvme.ns 1 = some ns0 ∧ 0 ∈ ns0.attached ∧ 1 ≤ (adm 0).nsid ∧ (adm 0).nsid ≤ 64 ∧
    ({ adm 0 with nsid := 65 } : NvmeHdr).nsid = 65 := by decide
theorem test_logPages : ((hosted id).ctl 0).errLog = ⟨1, 1, 9, 0x281, 0, 1⟩ :: [] ∧ ((hosted id).ctl 0).changed.length ≤ 64 ∧
    (hosted id).store.lacuna = [] ∧ ((hosted id).ctl 0).aborts = [⟨1, 3, 1, 9, 0, 0, 0, 0⟩] ∧
    (let r := { lacRec with exts := [⟨1, 0, 1, 8, 16, 0, 0⟩] }
     r.exts = [⟨1, 0, 1, 8, 16, 0, 0⟩] ∧ r.kcis = [] ∧ r.counts = []) ∧
    tfind ({ run.ledger with stats := [(3, List.replicate 16 5)] } : LedgerSt).stats 3 = some (List.replicate 16 5) := by decide
def healthRec : ErrRec := holdoverRec
theorem test_managementInterface : run.miAnswers = true ∧ run.live = true ∧ run.power.nvmeReady = true ∧
    (runP (fun p => { p with mode := .auxOnly, rail12 := false })).miAnswers = true ∧ (runP (fun p => { p with mode := .auxOnly, rail12 := false })).live = false ∧
    dark.power.miReady = false ∧ tfind ({ run.mgmt with smbCfg := [(3, 64)] } : MgmtSt).smbCfg 3 = some 64 ∧
    (runE (fun e => { e with ring := [healthRec] })).errs.ring = [healthRec] := by decide
theorem test_namespaceCreated : (2097152 : Nat) * lbaData (16 % 16) % 2 ^ 30 = 0 ∧ 2097152 * lbaData 0 ≤ (hosted id).unvmcap ∧
    tfind (hosted id).nvme.ns 3 = none ∧ (∀ j, 1 ≤ j → j < 3 → (tfind (hosted id).nvme.ns j).isSome = true) ∧
    (hosted id).unvmcap < 134217728000 * lbaData 0 := by
  refine ⟨by decide, by decide, by decide, ?_, by decide⟩
  intro j h1 h2
  have : j = 1 ∨ j = 2 := by omega
  rcases this with rfl | rfl <;> decide
theorem test_namespaces : tfind (hosted (fun n => { n with ns := [(1, { ns0 with attached := [] })] })).nvme.ns 1 = some { ns0 with attached := [] } ∧
    (hosted id).nvme.cache = [] ∧ (hosted id).nvme.waiting = [] ∧ (hosted id).nvme.flushes = [] ∧ (∀ c ∈ (hosted id).nvme.ctls, c.2.shutdown = 0) ∧
    tfind (hosted id).nvme.ns 9 = none ∧ 3 ∉ ns0.attached ∧ 3 ∈ ({ ns0 with attached := [0, 3] } : NsSt).attached := by decide
theorem test_firmware : Mem.wf (hosted id).nvme.fwBuf = true ∧ (hosted id).store.commit = none ∧ (hosted id).store.used < 2040 ∧ 983039 + 1 ≤ 983040 ∧
    (let s := withStore (fun t => { t with imgB := some { version := 2, svn := 1, sigOk := true }, slotB := 1, minSvn := 2 })
     s.store.image true = some { version := 2, svn := 1, sigOk := true } ∧ s.store.slotB = 1 ∧ 1 < s.store.minSvn ∧ run.store.minSvn ≤ 1) := by decide
theorem test_opal : tfind (hosted id).nvme.ns 1 = some ns0 ∧ 2097151 + 1 ≤ ns0.nlba ∧ (hosted id).nvme.locks = [] ∧ Mem.wf (hosted id).nvme.mbr = true ∧
    (let n := { ns0 with media := [(8, blkX)] }
     let s := hosted (fun v => { v with ns := [(1, n)], locks := [(2, { LockSt.reset with nsid := 1, slba := 0, nlb := 8 })] })
     tfind n.media 8 = some blkX ∧ s.lockOf 1 8 ≠ 2 ∧ s.lockOf 1 7 = 2) := by decide
theorem test_sanitized : (∀ c ∈ (hosted id).ctxs, c.2.queues = []) ∧ (hosted id).nvme.sanitize = 0 ∧ (∃ c ∈ idle.ctxs, c.2.queues ≠ []) ∧
    idle.obj? 2 = some mem2 ∧ (∃ p ∈ mem2.pageTab, p.2.tier = 2) ∧ (idle.objs.map (·.1)).Nodup ∧
    (hosted (fun n => { n with sanitize := 1 })).nvme.sanitize = 1 ∧ ((withDie id id).block 0 5).retired = false ∧
    (tfind (withDie id id).nand.blocks (blockKey 0 5)).isSome = true := by decide

def io : NvmeHdr := hdr 1 9
theorem reaches_of (f : NvmeSt → NvmeSt) (h1 : (hosted f).takes io = true) (h2 : tfind (hosted f).nvme.ns 1 = some ns0) (h3 : (hosted f).nvme.sanitize = 0)
    (h4 : (hosted f).nvme.locks = []) (h5 : (hosted f).nvme.readOnly = false) (h6 : (hosted f).nvme.mbrOn = false) : Reaches (hosted f) io ns0 :=
  ⟨by decide, h1, h2, by decide, h3, h4, ⟨h5, rfl⟩, h6⟩
theorem test_reaches : Reaches (hosted id) io ns0 ∧ inRange ns0 2097151 1 ∧ ns0.nlba < 2097151 + 2 :=
  ⟨reaches_of id (by decide) rfl rfl rfl rfl rfl, by unfold inRange; decide, by decide⟩
theorem test_turnedAway : (hosted (fun n => { n with sanitize := 2 })).takes io = true ∧ (hosted id).takes { io with nsid := 9 } = true ∧
    tfind (hosted id).nvme.ns 9 = none ∧ (hosted (fun n => { n with readOnly := true })).nvme.readOnly = true ∧
    (hosted (fun n => { n with locks := [(0, { LockSt.reset with writeLocked := true })] })).nvme.locks = [(0, { LockSt.reset with writeLocked := true })] := by
  decide
/-- One block of format 0: 512 bytes. -/
def block512 (b : Byte) : List Byte := List.replicate 512 b
theorem test_writes : (block512 7).length = 1 * lbaData ns0.lbaf ∧ (hosted id).nvme.waiting = [] ∧ (hosted id).nvme.cache = [] ∧
    (hosted id).nvme.wce = true ∧ (hosted id).writeThrough = false ∧
    (hosted id).cacheRoom (dataPieces io ns0 false (hosted id).nextId 4 [blkX]) = true := by
  refine ⟨?_, rfl, rfl, rfl, by decide +kernel, by decide +kernel⟩
  exact List.length_replicate
theorem test_writes_full : Reaches (hosted (fun n => { n with waiting := [{ extentX with h := hdr 1 8 }] })) io ns0 ∧
    ¬ (hosted (fun n => { n with waiting := [{ extentX with h := hdr 1 8 }] })).nvme.waiting = [] :=
  ⟨reaches_of _ (by decide) rfl rfl rfl rfl rfl, by decide⟩
def guardHdr : NvmeHdr := { io with nsid := 2 }
/-- R313: the guard of zero bytes is zero: nothing is folded into the CRC. -/
theorem guard_zeros (n : Nat) : guardOf 1 (zeros n) = 0 := by
  have h : ∀ k : Nat, (List.replicate k (0 : Byte)).foldl (crcStep 16 0x8BB7) 0 = 0 := by
    intro k
    induction k with
    | zero => rfl
    | succ k ih =>
      rw [List.replicate_succ, List.foldl_cons, show crcStep 16 0x8BB7 0 (0 : Byte) = 0 by decide]
      exact ih
  exact h n
def guardArgs : PiArgs := { guards := [1], appTags := [], refTags := [], lbat := 0, lbatm := 0, ilbrt := 0 }
theorem test_guardedWrites : (hosted id).takes guardHdr = true ∧ tfind (hosted id).nvme.ns 2 = some ns1 ∧ ns1.pi ≠ 0 ∧ lbaMd ns1.lbaf ≠ 0 ∧
    guardArgs.appTags.getD 0 0 ≠ 0xFFFF := by decide
theorem test_guardedWrites_guard : guardArgs.guards.getD 0 0 ≠ guardOf ns1.lbaf (zeros 512) := by
  rw [show guardOf ns1.lbaf (zeros 512) = 0 from guard_zeros 512]
  decide
/-- A block with protection information whose stored guard is not its data's. -/
def spoilt : Blk := { blkX with
  data := zeros 512, guard := 5 }
def spoiltDrive : State := hosted (fun n => { n with ns := [(1, ns0), (2, { ns1 with media := [(4, spoilt)] })] })
theorem test_reads : (hosted id).power.recovering = [] ∧ lbaMd ns0.lbaf = 0 ∧ ns0.pi = 0 ∧ ns0.bad = [] ∧ Mem.wf (hosted id).host = true ∧
    (let n := { ns0 with media := [(4, blkX)], bad := [(4, 77)] }
     (hosted id).cached 1 4 = none ∧ (tfind n.media 4).isSome = true ∧ tfind n.bad 4 = some 77) := by decide
theorem test_reads_guard : spoiltDrive.blkAt 2 { ns1 with media := [(4, spoilt)] } 4 = spoilt ∧ spoilt.guard ≠ guardOf ns1.lbaf spoilt.data := by
  refine ⟨rfl, ?_⟩
  rw [show guardOf ns1.lbaf spoilt.data = 0 from guard_zeros 512]
  decide
theorem test_compares : ∃ d : List Byte, d ≠ (List.range 1).flatMap (fun i => ((hosted id).blkAt 1 ns0 (4 + i)).data) := by
  refine ⟨[], fun h => ?_⟩
  have : (List.range 1).flatMap (fun i => ((hosted id).blkAt 1 ns0 (4 + i)).data) = zeros 512 ++ [] := rfl
  rw [this] at h
  exact absurd (congrArg List.length h) (by rw [List.append_nil, zeros, List.length_replicate]; decide)
theorem test_zeroes : (0 : Nat) < 2097152 ∧ 2097152 ≤ ns0.nlba ∧ 16384 * lbaData ns0.lbaf ≤ 8388608 ∧ (hosted id).extents.length < 2048 ∧
    (hosted id).nvme.cacheBytes ≤ 1073741824 := by decide
theorem test_flushes :
    let s := hosted (fun n => { n with cache := [{ extentX with completed := true, h := hdr 1 3 }] })
    (hosted id).nvme.cache = [] ∧ (s.nvme.cache.filter (fun e => e.completed && e.h.nsid == 1)).map (·.id) ≠ [] := by decide
theorem test_entriesSayAll : entryFits (entry 1) .nop = true ∧ entryFits (entry 2) .nop = true ∧ encodeEntry (entry 1) .nop = encodeEntry (entry 2) .nop := by
  decide

/-! ### Numbers -/

theorem test_nearest : (1 : Nat) ≤ 24 ∧ (0 : Nat) < 5 ∧ (0 : Nat) < 2 := by decide
/-- R113: 2.5 is a tie; it goes to the neighbour of larger magnitude, as 1.5 and 0.5 do. -/
theorem test_ties : (roundTo 1 none false 5 2).code = 3 ∧ (roundTo 1 none true 5 2).code = 256 - 3 ∧ (roundTo 1 none false 3 2).code = 2 ∧
    (roundTo 1 none false 1 2).code = 1 ∧ (roundTo 1 none false 249 100).code = 2 := by decide +kernel
theorem test_saturates : (roundTo 1 none false 128 1).code = 127 ∧ (roundTo 1 none true 128 1).code = 256 - 127 ∧ (roundTo 1 none false 128 1).sat = true ∧
    (roundTo 2 none true 8 1).code = 16 - 7 := by decide +kernel
theorem test_packedElements : elemBits 2 = 4 ∧ ∀ c ∈ [15, 0, 7], c < 2 ^ elemBits 2 := by decide
theorem test_gridValues : decodeElem 7 0x3F800000 = some (8388608, -23) ∧ (0x3F800000 : Nat) < 2 ^ elemBits 7 := by decide +kernel

/-! ### Ill-formed commands: one for each check of WellFormed -/

def ill (l : List Instr) : Bool := l.all (fun i => !i.wf)

theorem test_wf_some : ([.auxRailValid, .controllerEnable 255, .nop (entry 8), .passPick 15, .nandProgramDone 511 true, .idle 3,
    .flush io] : List Instr).all Instr.wf = true := by decide
theorem test_ill_drive : ill [.controllerEnable 256, .controllerReset 256, .flr 256, .dieRecoveryStart 4 1, .housekeepingReportTimeout 4,
    .dieRecoveryDone 4, .dieRecoveryOverrun 4, .thermalSample [] (List.replicate 32 0), .thermalSample (List.replicate 42 0) [], .beaconReceive 42 0,
    .beaconPathMeasure 42 0, .beaconMissLimit 42, .holdoverTimeout 42, .localTick 42, .oscillatorWatch 42 50 0 0, .marginSample 42 0,
    .marginSample 0 65, .stretchRelease 42, .lastingMarginFault 42, .monitorRefresh [1], .powerMonitorRefresh [1],
    .patrolScrub 2 0] = true := by decide
theorem test_ill_registers : ill [.kciSqTail 256 0 0 [], .kciSqTail 0 9 0 [], .kciSqTail 0 0 65536 [], .kciSqTail 0 0 1 [[1, 2]], .kciCqHead 256 0 0, .kciCqHead 0 10 0,
    .kciCqHead 0 0 65536, .class0SlotWrite 256 0 0 [1], .class0SlotWrite 0 16 0 [1], .class0SlotWrite 0 0 0 [], .class0SlotWrite 0 0 64 [1],
    .ctxEnableSet 256, .ctxEnableClear 256, .ctxControlReset 256, .contextResetComplete 256, .ctxPolicyWrite 256 0, .registerWrite 256 0 4 0,
    .registerWrite 0 (2 ^ 21) 4 0, .registerWrite 0 0 0 0, .registerWrite 0 0 9 0, .loRegisterRead 256 0 4, .loRegisterRead 0 (2 ^ 21) 4, .loRegisterRead 0 0 0, .loRegisterRead 0 0 9,
    .partExclClaim 8 0, .claimComplete 8, .partExclAbort 8 0, .releaseComplete 8, .partReset 8 0, .partDramQuotaWrite 8 0, .schedResvWrite 8 0,
    .ctxAssignWrite 256 0, .ctxAdminReset 256 0, .memT2QuotaWrite 8 0, .mxaTestStart 16 0] = true := by decide
theorem test_ill_entry : ill [.nop { entry 1 with ctx := 256 }, .nop (entry 10), .nop { entry 1 with cid := 65536 }, .nop { entry 1 with waitEvent := 64 },
    .nop { entry 1 with signalEvent := 64 }, .nop { entry 1 with threshold := 2 ^ 63 }, .nop { entry 1 with incr := 0 },
    .nop { entry 1 with incr := 2 ^ 32 + 1 }] = true := by decide
theorem test_ill_kci : ill [.queueCreate (entry 0) 256 0 0 0 0 0 0, .queueCreate (entry 0) 0 256 0 0 0 0 0, .queueCreate (entry 0) 0 0 65536 0 0 0 0,
    .queueDestroy (entry 0) 256, .objCreate (entry 0) (2 ^ 64) 0 0 0 0 0 0 0, .objCreate (entry 0) 0 0 (2 ^ 32) 0 0 0 0 0, .objOpen (entry 0) 0 8,
    .objShare (entry 0) 256 0 0, .objShare (entry 0) 0 256 0, .objUnshare (entry 0) 256 0, .objRetain (entry 0) 256, .objRelease (entry 0) 256 true,
    .objPlace (entry 0) 0 (2 ^ 32), .objQuery (entry 0) 0 (2 ^ 64), .eventCreate (entry 0) 256 0, .eventCreate (entry 0) 0 (2 ^ 63),
    .eventDestroy (entry 0) 256, .eventClear (entry 0) 256, .programInstall (entry 0) 1 0 2 [1], .priority (entry 0) 0 256 0, .jobEnd { entry 0 with incr := 0 },
    .copyIn (entry 1) 0 0 0 2 0 [1], .copyOut (entry 1) 256 0 0 4 0, .copy (entry 1) 0 256 0 0 4 0, .indexSeal (entry 1) 256] = true := by decide
theorem test_ill_run : ill [.run (entry 1) 256 0 0 0 0 [] [], .run (entry 1) 0 1 0 0 0 [] [], .run (entry 1) 0 0 0 (2 ^ 24) 0 [] [], .run (entry 1) 0 1 0 0 0 [arg 32 0 1 1] [],
    .run (entry 1) 0 0 0 0 0 [] [{ tile with rows := 0 }], .run (entry 1) 0 0 0 0 0 [] [{ tile with rows := 2049 }], .run (entry 1) 0 0 0 0 0 [] [{ tile with cols := 129 }],
    .search (entry 1) 256 0 0 1 1 1 1 0 0 0 0 0 [], .search (entry 1) 0 0 0 1 1 1 1 2 0 0 0 0 [], .search (entry 1) 0 0 0 1 1 1 1 0 1 0 0 0 [],
    .search (entry 1) 0 0 0 1 1 1 1 0 1 0 0 0 [⟨256, 0, 0, 0, 0⟩]] = true := by decide
theorem test_ill_work : ill [.passPick 16, .passEntry 16 1, .passEntry 0 0, .passEnd 16 [] 0, .passEnd 0 [⟨2048, 0, 1⟩] 0, .passEnd 0 [⟨0, 128, 1⟩] 0, .rowVerdict 16 0 0,
    .rowVerdict 0 0 2048, .columnVerdict 16 0, .rowDrain 16 0 0 0 0 0, .rowDrain 0 0 0 2048 0 0, .rowDrain 0 0 0 0 3 0, .rowDrain 0 0 0 0 0 3,
    .completionPost 256 0 none, .completionPost 0 10 none, .targetedSelfTest 13 0, .targetedSelfTest 1 4096, .selfTestVerdict 13 0 0 0, .selfTestVerdict 1 4096 0 0,
    .selfTestVerdict 1 0 3 0, .selfTestVerdict 1 0 0 3, .migrationStart 1 (2 ^ 28) 0, .migrationStart 1 0 3, .migrationSwitch 1 (2 ^ 28),
    .speculativeReadIssue 1 1 (2 ^ 28), .speculativeScanLaunch 1 8 0, .distanceTableSend 1 8, .selectionFinal 1 8, .codewordEvaluate 1 0 0 0 3,
    .codewordEvaluate 1 8 0 0 0, .codewordEvaluate 1 0 8192 0 0, .mergerCandidate 1 8 0, .scanEnd 1 8 0, .scanEnd 1 0 8192, .rerank 1 8] = true := by decide
theorem test_ill_nand : ill [.nandOpStart 512 [], .nandOpStart 0 [{ request .read 1 with pri := 5 }], .nandOpStart 0 [{ request .read 1 with pri := 0 }],
    .nandOpStart 0 [{ request .read 1 with block := 2048 }], .nandOpStart 0 [{ request .read 1 with page := 4096 }], .nandReadDone 512 [],
    .nandReadDone 0 (List.replicate 5 (cwRead [] [])), .recoveryLadderStep 512 0 true, .recoveryLadderStep 0 4 true, .readAroundErase 512 0 0 0 [],
    .readAroundErase 0 2048 0 0 [], .readAroundErase 0 0 4096 0 [], .readAroundErase 0 0 0 4 [], .readAroundErase 0 0 0 0 [512], .nandProgramDone 512 true,
    .nandEraseDone 512 true, .patrolRead 512 0 0 [] false, .patrolRead 0 2048 0 [] false, .blockRefresh 512 0, .blockRefresh 0 2048,
    .readOffsetCalibration 512 0 0, .garbageCollection 32 0 true none, .garbageCollection 0 2049 true none, .garbageCollection 0 0 true (some 2048),
    .wearLeveling 32 0, .wearLeveling 0 2048, .storeOpStart [⟨.erase 4096⟩], .cacheCommitStart 512 0 0 [], .cacheCommitStart 0 0 256 []] = true := by decide
theorem test_ill_peer : ill [.portTrained 4 15, .portTrained 0 16, .peerPresChange 4 true, .peerAlertPulse 4, .peerAlertStuck 4, .peerAlertReturnsHigh 4,
    .peerLanesLeaveElectricalIdle 4, .hello 4 0 0 0 0 0 0, .hello 0 (2 ^ 32) 0 0 0 0 0, .hello 0 0 0 0 4 0 0, .heartbeat 8 0 0 0 0 0, .heartbeat 0 0 4 0 0 0,
    .heartbeat 0 0 0 256 0 0, .heartbeat 0 0 0 0 256 0, .memberLost 8, .idle 4, .flitReceive 4 (zeros 256), .flitReceive 0 [1], .nak 4 0, .nak 0 65536,
    .portRetrain 4, .post 8 0, .post 0 (2 ^ 32), .gather 8 0 0 [] 0, .gather 0 0 0 [] (2 ^ 61), .reduce 0 0 0 [1] 0, .envelope 0 0 0 [1] 0, .abort 0 0 65536,
    .msgNak 0 0 0 256 0, .msgNak 0 0 0 0 65536] = true := by decide +kernel
def noTags : PiArgs := { guards := [], appTags := [], refTags := [], lbat := 0, lbatm := 0, ilbrt := 0 }
theorem test_ill_nvme : ill [.nvmeSqDoorbell 256 0 0 [], .nvmeSqDoorbell 0 256 0 [], .nvmeSqDoorbell 0 0 65536 [], .nvmeSqDoorbell 0 0 0 [(65536, 0)],
    .nvmeSqDoorbell 0 0 0 [(0, 256)], .flush { io with fn := 256 }, .flush { io with sqid := 65536 }, .flush { io with cid := 65536 },
    .flush { io with nsid := 2 ^ 32 }, .createIoSubmissionQueue (adm 0) 65536 2 1, .createIoCompletionQueue (adm 0) 1 65537 0 true,
    .deleteIoSubmissionQueue (adm 0) 65536, .deleteIoCompletionQueue (adm 0) 65536, .identify (adm 0) 256 0, .nvmeAbort (adm 0) 65536 0,
    .getFeatures (adm 0) 256 0 0, .setApst (adm 0) true (List.replicate 33 (4, 1)), .setTimestamp (adm 0) (2 ^ 48), .lacunaRelease (adm 0) (2 ^ 64),
    .namespaceManagementCreate (adm 0) 1 256 0, .namespaceManagementCreate (adm 0) 1 0 8, .namespaceAttachment (adm 0) true [65536],
    .firmwareCommit (adm 0) 8 1 ⟨0, 0, true⟩, .firmwareCommit (adm 0) 0 8 ⟨0, 0, true⟩, .formatNvm (adm 0) 16 0 0 false, .formatNvm (adm 0) 0 0 8 false,
    .write io (2 ^ 64) 1 false false 0 noTags [], .write io 0 0 false false 0 noTags [], .write io 0 1 false false 8 noTags [],
    .write io 0 1 false false 0 { noTags with lbat := 65536 } [], .read io 0 65537 false 0 noTags 0 0, .read io 0 1 false 0 noTags (2 ^ 64) 0,
    .compare io 0 0 [], .writeZeroes io 0 0 false, .datasetManagementDeallocate io [], .verify io 0 0 0 noTags, .shutdownNotification 256 false,
    .miVpdRead 65536 1] = true := by decide

/-! ### Values that the spec gives: its worked examples -/

/-- The digest of the words 5 and 3 (chapter 6). -/
theorem test_digest_example : digest (le 8 5 ++ le 8 3) = 0x0000000D00000040 := by decide +kernel
/-- 0x38, 0x01 and 0x40 in FP8 E4M3, and 4,112 × 2^-12 in BF16, which a round-half-even design would write as 0x3F80 (chapter 5). -/
theorem test_numbers_example : decodeElem 3 0x38 = some (8, -3) ∧ decodeElem 3 0x01 = some (1, -9) ∧ decodeElem 3 0x40 = some (8, -2) ∧
    (roundTo 6 none false 4112 4096).code = 0x3F81 := by decide +kernel
/-- The voltage that holds the floor at 95 °C (chapter 3): 635 mV, within the allowance of 15 mV. -/
theorem test_voltage_example : floorVolt (95 * 16) = 635 ∧ allowance (95 * 16) = 15 := by decide
/-- The bank of chapter 16: 23.8 ms give 700 µF and 340.5 mJ; 0.650 mF fail. -/
theorem test_bank_example : bankCap 23800 = 700 ∧ bankEnergy 23800 = 340 ∧ bankCap 22100 = 650 ∧ bankEnergy 22100 = 316 ∧
    (match exec (.holdupCheckDone 22100) (runP (fun p => { p with checkRunning := true })) with | .next t => t.power.bankFailed | _ => false) = true := by
  decide +kernel
/-- The store after 100 gap advances (chapter 11). -/
theorem test_store_example : ({ StoreSt.reset with h := 4, k := 100 } : StoreSt).sector 50 = 4050 ∧ ({ StoreSt.reset with h := 4, k := 100 } : StoreSt).sector 200 = 232 := by
  decide
/-- The addresses of token 100,000 of layer 5, V, head 3 (chapter 7). -/
theorem test_kv_example : kvLocate 4 8 32 512 128 5 1 3 100000 = ((46787, 20480), (262875, 3392)) ∧ kvPages 4 8 32 512 = 266240 := by decide
/-- PART_MODE of P4 to P7 in EXCLUSIVE for context 12 (chapter 18). -/
theorem test_partMode_example :
    ({ run with parts := [(4, { PartSt.reset with state := 2, set := 2, lead := 4, ctx := 12 })] } : State).readPart 4 0 = 0x2204000C := by decide
/-- The entry of chapter 15's RUN. -/
theorem test_entry_example :
    let e : Entry := { entry 2 with cid := 0x42, fence := true, signal := true, signalEvent := 7 }
    let b := encodeEntry e (.run 3 4 0 0 0x1080000000 [] [])
    b.take 8 = [0x30, 0x05, 0x42, 0, 0, 7, 0, 0] ∧ slice b 8 16 = zeros 16 ∧ slice b 0x18 4 = [3, 4, 0, 0] ∧
      slice b 0x20 8 = [0, 0, 0, 0x80, 0x10, 0, 0, 0] := by decide
/-- Handle 12 of chapter 14: one command in flight, one reference of the host, shared by two contexts; then released. -/
def sharedMap (x : HandleSt) : State := { run with
  ctxs := [(37, { Context.reset 37 with state := 1, handles := [(12, x)] }), (45, { Context.reset 45 with state := 1, handles := [(0, mapped 1)] })],
  objs := [(1, mem1)] }
theorem handleWord_of (x : HandleSt) (h : x.obj = 1) (hm : (sharedMap x).mappers 1 = 2) :
    (sharedMap x).handleWord 37 12 = (if x.draining then 2 else 1) * 2 ^ 61 + 1 * 2 ^ 59 + x.rights * 2 ^ 56 + x.dref * 2 ^ 32 + x.href * 2 ^ 16 + 2 * 2 ^ 8 := by
  have h1 : tfind ((sharedMap x).ctx 37).handles 12 = some x := rfl
  unfold State.handleWord
  rw [h1]
  simp only [h, hm]
  cases x.draining <;> rfl
theorem test_handle_example :
    (sharedMap { obj := 1, draining := false, rights := 3, dref := 1, href := 1, base := 0 }).handleWord 37 12 = 0x2B00000100010200 ∧
    (sharedMap { obj := 1, draining := true, rights := 3, dref := 1, href := 0, base := 0 }).handleWord 37 12 = 0x4B00000100000200 := by
  constructor
  · rw [handleWord_of _ rfl (by decide +kernel)]; rfl
  · rw [handleWord_of _ rfl (by decide +kernel)]; rfl
/-- Member 5 of eight reaches member 6 by its port 0 (chapter 12), and a reduced row takes ten flits. -/
theorem test_route_example :
    ({ PeerSt.reset with member := 5, size := 8, ports := (List.range 4).map (fun p => (p, { Port.reset with state := 2 })) } : PeerSt).route 6 = some 0 ∧
    flitCount 0x12 2048 = 10 := by decide
/-- The mark of chapter 10's example: a match 7 bits early whose decode fails. -/
theorem test_mark_example : cwOut (cwRead [-7] [0]) = .falseMark := by decide
/-- The slot of context 37 in BAR2 (chapter 14). -/
theorem test_slot_example : slotAt 0 0x00025940 = some (37, 5, 0) ∧ slotAt 0 0x0002597F = some (37, 5, 63) := by decide +kernel

/-! ### Checks of other standards that the model uses (assumption log 7) -/

/-- The bytes "123456789". -/
def digits : List Byte := [0x31, 0x32, 0x33, 0x34, 0x35, 0x36, 0x37, 0x38, 0x39]
theorem test_crc_checks : crc32c digits = 0xE3069283 ∧ crcFlit digits = 0x6C40DF5F0B497347 ∧ crc16 digits = 0xD0DB ∧ crc64Nvme digits = 0xAE8B14860A799888 := by
  decide +kernel
theorem test_sha384_abc : (sha384 [0x61, 0x62, 0x63]).take 8 = [0xCB, 0x00, 0x75, 0x3F, 0x45, 0xA3, 0x5E, 0x8B] := by decide +kernel

/-! ### Single steps -/

/-- What a state shows after one command. -/
def after {α : Type} (d : α) (c : Instr) (s : State) (f : State → α) : α := match step { s with pending := [c] } with
  | .next t => f t
  | _ => d

/-- From power on to the first controller: each command makes the next one possible. -/
theorem test_bringUp : after 0 (.perstDeassert true) State.reset (fun t => if t.power.mode = .running then 1 else 0) = 1 ∧
    after false (.controllerEnable 0) (runP (fun p => { p with nvmeReady := true })) (fun t => (t.ctl 0).ready) = true ∧
    after false .computeReady (runP (fun p => { p with computeReady := false })) (fun t => t.power.computeReady) = true := by decide +kernel
/-- R462, Table 18-12: 673 units of 64 MiB are refused. -/
theorem test_quota_edge : after 0 (.partDramQuotaWrite 2 672) run (fun t => (t.part 2).quota) = 672 ∧
    after 0 (.partDramQuotaWrite 2 673) run (fun t => (t.part 2).quota) = 0x60 := by decide +kernel
/-- R57: each period of the 50 MHz crystal adds 20 ns; device time stands while it does not run. -/
theorem test_crystal : after 0 .crystalPeriod run (fun t => t.time.now) = 5000020 ∧
    after 0 .crystalPeriod (runT (fun t => { t with running := false })) (fun t => t.time.now) = 5000000 := by decide
/-- R464: the time-out takes 1 to 60,000 ms. -/
theorem test_progressTo_edge : after 0 (.peerProgressToWrite 60000) run (fun t => t.peer.progressTo) = 60000 ∧
    after 0 (.peerProgressToWrite 0) run (fun t => t.peer.progressTo) = 1000 := by decide +kernel
/-- R276: a second mismatch damages a program, one mismatch alone does not. -/
theorem test_programLoad_damage : after none (.programLoad 5 [false]) (gemm tile0) (fun t => (t.obj? 5).bind (·.prog)) = some progSt ∧
    after none (.programLoad 5 [false, false]) (gemm tile0) (fun t => ((t.obj? 5).bind (·.prog)).map (·.damaged)) = some true := by decide +kernel
/-- R255: 24 free stripes are not urgent, 23 are, and 31 stay urgent. -/
theorem test_gc_edge : after 9 (.garbageCollection 0 24 true none) run (fun t => (t.group 0).gc) = 1 ∧
    after 9 (.garbageCollection 0 23 true none) run (fun t => (t.group 0).gc) = 2 ∧
    after 9 (.garbageCollection 0 63 true none) run (fun t => (t.group 0).gc) = 1 ∧ after 9 (.garbageCollection 0 64 true none) run (fun t => (t.group 0).gc) = 0 := by
  decide +kernel

end Sys2Proof.Tests
end

section
/-! SUPPORT. Rounding a fraction (R113, R114): the logarithm, the grid exponent and the quotient of `roundMag`, read as rationals. -/

namespace Sys2Proof.Machine

/-! ### Fractions in units of a power of two -/

/-- The numerator of a fraction with numerator `a` in units of 2^e. -/
def unitNum (a : Nat) (e : Int) : Nat := a * 2 ^ (-e).toNat

/-- The denominator of a fraction with denominator `b` in units of 2^e. -/
def unitDen (b : Nat) (e : Int) : Nat := b * 2 ^ e.toNat

theorem unitDen_pos {b : Nat} (hb : 0 < b) (e : Int) : 0 < unitDen b e := Nat.mul_pos hb (Nat.two_pow_pos _)

theorem two_zpow_toNat (e : Int) : (2 : ℚ) ^ e.toNat = 2 ^ (-e).toNat * 2 ^ e := by
  rw [← zpow_natCast, ← zpow_natCast, ← zpow_add₀ two_ne_zero]
  congr 1
  omega

theorem unitNum_div_unitDen (a b : Nat) (e : Int) : (unitNum a e : ℚ) / unitDen b e = a / b / 2 ^ e := by
  have h : (2 : ℚ) ^ (-e).toNat ≠ 0 := pow_ne_zero _ two_ne_zero
  unfold unitNum unitDen
  push_cast
  rw [two_zpow_toNat e, mul_comm (2 ^ (-e).toNat : ℚ) (2 ^ e), ← mul_assoc, mul_div_mul_right _ _ h, div_div]

theorem two_zpow_le_div_iff {a b : Nat} (hb : 0 < b) (e : Int) : (2 : ℚ) ^ e ≤ a / b ↔ unitDen b e ≤ unitNum a e := by
  have hd : (0 : ℚ) < unitDen b e := by exact_mod_cast unitDen_pos hb e
  rw [← one_le_div (zpow_pos two_pos e), ← unitNum_div_unitDen, one_le_div hd, Nat.cast_le]

theorem div_lt_zpow_log2 {a b : Nat} (hb : 0 < b) : (a : ℚ) / b < 2 ^ ((Nat.log2 a : Int) - Nat.log2 b + 1) := by
  have ha : (a : ℚ) < 2 ^ (Nat.log2 a + 1) := by exact_mod_cast Nat.lt_log2_self
  have hb' : (2 : ℚ) ^ Nat.log2 b ≤ b := by exact_mod_cast Nat.log2_self_le hb.ne'
  have e : (2 : ℚ) ^ ((Nat.log2 a : Int) - Nat.log2 b + 1) = 2 ^ (Nat.log2 a + 1) / 2 ^ Nat.log2 b := by
    rw [← zpow_natCast, ← zpow_natCast, ← zpow_sub₀ two_ne_zero]
    congr 1
    push_cast
    ring
  rw [e]
  exact div_lt_div₀ ha hb' (by positivity) (by positivity)

theorem zpow_log2_le_div {a b : Nat} (ha : 0 < a) (hb : 0 < b) : (2 : ℚ) ^ ((Nat.log2 a : Int) - Nat.log2 b - 1) ≤ a / b := by
  have h := (div_lt_zpow_log2 (a := b) ha).le
  have e : (2 : ℚ) ^ ((Nat.log2 a : Int) - Nat.log2 b - 1) = (2 ^ ((Nat.log2 b : Int) - Nat.log2 a + 1))⁻¹ := by
    rw [← zpow_neg]
    congr 1
    ring
  rw [e, inv_le_comm₀ (by positivity) (by positivity), inv_div]
  exact h

/-! ### The logarithm and the grid exponent -/

/-- The logarithm's test against 2^d, whichever side it scales. -/
theorem floorLog2_eq {a b : Nat} (hb : 0 < b) : floorLog2 a b =
    if (2 : ℚ) ^ ((Nat.log2 a : Int) - Nat.log2 b) ≤ a / b then (Nat.log2 a : Int) - Nat.log2 b else (Nat.log2 a : Int) - Nat.log2 b - 1 := by
  simp only [two_zpow_le_div_iff hb, floorLog2, unitNum, unitDen]
  generalize (Nat.log2 a : Int) - Nat.log2 b = d
  by_cases h : 0 ≤ d
  · simp [h, Int.toNat_of_nonpos (show -d ≤ 0 by omega)]
  · simp [h, Int.toNat_of_nonpos (show d ≤ 0 by omega)]

theorem zpow_floorLog2_le {a b : Nat} (ha : 0 < a) (hb : 0 < b) : (2 : ℚ) ^ floorLog2 a b ≤ a / b := by
  rw [floorLog2_eq hb]
  split
  · assumption
  · exact zpow_log2_le_div ha hb

theorem div_lt_zpow_floorLog2 {a b : Nat} (hb : 0 < b) : (a : ℚ) / b < 2 ^ (floorLog2 a b + 1) := by
  rw [floorLog2_eq hb]
  split
  · exact div_lt_zpow_log2 hb
  · rw [sub_add_cancel]
    exact not_le.1 ‹_›

/-- The exponent of the grid that `roundMag` rounds to. -/
def gridExp (prec : Nat) (lsb : Int) (a b : Nat) : Int := max (floorLog2 a b - ((prec : Int) - 1)) lsb

/-- The fraction a / b in units of its grid. -/
def gridQuot (prec : Nat) (lsb : Int) (a b : Nat) : ℚ := a / b / 2 ^ gridExp prec lsb a b

theorem gridQuot_nonneg (prec : Nat) (lsb : Int) (a b : Nat) : 0 ≤ gridQuot prec lsb a b := by
  unfold gridQuot
  positivity

theorem gridQuot_lt (prec : Nat) (lsb : Int) (a : Nat) {b : Nat} (hb : 0 < b) : gridQuot prec lsb a b < 2 ^ prec := by
  have hq : floorLog2 a b + 1 ≤ (prec : Int) + gridExp prec lsb a b := by
    unfold gridExp
    omega
  rw [gridQuot, div_lt_iff₀ (by positivity), ← zpow_natCast, ← zpow_add₀ two_ne_zero]
  exact (div_lt_zpow_floorLog2 hb).trans_le (zpow_le_zpow_right₀ one_le_two hq)

/-- Above the smallest step, the quotient has its full precision. -/
theorem le_gridQuot {prec : Nat} {lsb : Int} {a b : Nat} (hp : 1 ≤ prec) (ha : 0 < a) (hb : 0 < b) (h : gridExp prec lsb a b ≠ lsb) :
    (2 : ℚ) ^ (prec - 1) ≤ gridQuot prec lsb a b := by
  have hq : ((prec - 1 : Nat) : Int) + gridExp prec lsb a b = floorLog2 a b := by
    unfold gridExp at *
    omega
  rw [gridQuot, le_div_iff₀ (by positivity), ← zpow_natCast, ← zpow_add₀ two_ne_zero, hq]
  exact zpow_floorLog2_le ha hb

/-! ### The rounded multiple -/

/-- `roundMag` takes the multiple below its quotient or the next one up; with no draw, the half decides. -/
theorem roundMag_eq {a b : Nat} (ha : 0 < a) (hb : 0 < b) (prec : Nat) (lsb : Int) (draw : Option Nat) :
    let n := unitNum a (gridExp prec lsb a b)
    let d := unitDen b (gridExp prec lsb a b)
    ∃ up : Bool, (draw = none → up = decide (d ≤ 2 * (n % d))) ∧
      roundMag prec lsb draw a b = (if up then n / d + 1 else n / d, gridExp prec lsb a b) := by
  have hn : (if 0 ≤ gridExp prec lsb a b then a else a * 2 ^ (-gridExp prec lsb a b).toNat) = unitNum a (gridExp prec lsb a b) := by
    unfold unitNum
    split
    · simp [Int.toNat_of_nonpos (show -gridExp prec lsb a b ≤ 0 by omega)]
    · rfl
  have hd : (if 0 ≤ gridExp prec lsb a b then b * 2 ^ (gridExp prec lsb a b).toNat else b) = unitDen b (gridExp prec lsb a b) := by
    unfold unitDen
    split
    · rfl
    · simp [Int.toNat_of_nonpos (show gridExp prec lsb a b ≤ 0 by omega)]
  simp only [roundMag, show ¬(a = 0 ∨ b = 0) by omega, if_false, hn, hd,
    show max (floorLog2 a b - ((prec : Int) - 1)) lsb = gridExp prec lsb a b from rfl]
  cases draw with
  | none => exact ⟨_, fun _ => rfl, rfl⟩
  | some x => exact ⟨_, (nomatch ·), rfl⟩

theorem unitNum_div_unitDen_grid (prec : Nat) (lsb : Int) (a b : Nat) :
    ((unitNum a (gridExp prec lsb a b) / unitDen b (gridExp prec lsb a b) : Nat) : Int) = ⌊gridQuot prec lsb a b⌋ := by
  rw [gridQuot, ← unitNum_div_unitDen, ← Int.natCast_floor_eq_floor (by positivity), Nat.floor_div_eq_div]

/-- The result is never below the smallest step. -/
theorem le_roundMag_snd (prec : Nat) (lsb : Int) (draw : Option Nat) (a b : Nat) : lsb ≤ (roundMag prec lsb draw a b).2 := by
  by_cases h : a = 0 ∨ b = 0
  · simp [roundMag, h]
  · obtain ⟨up, -, e⟩ := roundMag_eq (a := a) (b := b) (by omega) (by omega) prec lsb draw
    rw [e]
    exact le_max_right _ _

/-- R113, R114: the multiple has at most `prec` bits, or is the next power of two. -/
theorem roundMag_fst_le (prec : Nat) (lsb : Int) (draw : Option Nat) (a b : Nat) : (roundMag prec lsb draw a b).1 ≤ 2 ^ prec := by
  by_cases h : a = 0 ∨ b = 0
  · simp [roundMag, h]
  · have hb : 0 < b := by omega
    obtain ⟨up, -, e⟩ := roundMag_eq (a := a) (by omega) hb prec lsb draw
    have hk := unitNum_div_unitDen_grid prec lsb a b
    have hlt : ⌊gridQuot prec lsb a b⌋ < ((2 ^ prec : Nat) : Int) :=
      Int.floor_lt.2 (by exact_mod_cast gridQuot_lt prec lsb a hb)
    rw [e]
    dsimp only
    split <;> omega

/-- Rounding a quotient: half of the divisor decides. -/
theorem round_div_natCast (n : Nat) {d : Nat} (hd : 0 < d) :
    round ((n : ℚ) / d) = ((if d ≤ 2 * (n % d) then n / d + 1 else n / d : Nat) : Int) := by
  have hdq : (0 : ℚ) < d := by exact_mod_cast hd
  have hr : ((n % d : Nat) : ℚ) < d := by exact_mod_cast Nat.mod_lt n hd
  have hq : (n : ℚ) = d * (n / d : Nat) + (n % d : Nat) := by exact_mod_cast (Nat.div_add_mod n d).symm
  generalize n / d = k at hq
  generalize n % d = r at hq hr
  rw [round_eq, Int.floor_eq_iff, div_add' _ _ _ hdq.ne', le_div_iff₀ hdq, div_lt_iff₀ hdq, hq]
  by_cases h : d ≤ 2 * r
  · have h' : (d : ℚ) ≤ 2 * r := by exact_mod_cast h
    simp only [h, if_true]
    push_cast
    constructor <;> linarith
  · have h' : 2 * (r : ℚ) < d := by exact_mod_cast not_le.1 h
    have hr0 : (0 : ℚ) ≤ r := r.cast_nonneg
    simp only [h, if_false]
    push_cast
    constructor <;> linarith

/-- R113: with no draw, the multiple is the nearest integer, the larger of two that are equally near. -/
theorem roundMag_none_fst {a b : Nat} (ha : 0 < a) (hb : 0 < b) (prec : Nat) (lsb : Int) :
    ((roundMag prec lsb none a b).1 : Int) = round (gridQuot prec lsb a b) := by
  obtain ⟨up, hup, e⟩ := roundMag_eq ha hb prec lsb none
  rw [e, hup rfl, gridQuot, ← unitNum_div_unitDen, round_div_natCast _ (unitDen_pos hb _)]
  simp only [decide_eq_true_eq]

theorem roundMag_snd {a b : Nat} (ha : 0 < a) (hb : 0 < b) (prec : Nat) (lsb : Int) (draw : Option Nat) :
    (roundMag prec lsb draw a b).2 = gridExp prec lsb a b := by
  obtain ⟨up, -, e⟩ := roundMag_eq ha hb prec lsb draw
  rw [e]

/-! ### The nearest value of the grid (R113) -/

/-- Of two integers that are equally near, `round` takes the larger. -/
theorem le_round_of_tie {x : ℚ} {z : Int} (h : |x - round x| = |x - z|) : z ≤ round x := by
  by_contra hz
  have hz' : (round x : ℚ) + 1 ≤ z := by exact_mod_cast not_le.1 hz
  have hlt : x - 1 / 2 < round x := by
    rw [round_eq]
    linarith [Int.lt_floor_add_one (x + 1 / 2)]
  have habs := abs_sub_round x
  rw [h, abs_sub_comm] at habs
  linarith [le_abs_self ((z : ℚ) - x)]

/-- Every value m × 2^e of the grid is a multiple j of 2^g, or lies farther from x × 2^g than such a multiple, on the same side. -/
theorem exists_multiple_near {prec m g e : Nat} {x : ℚ} (hm : m ≤ 2 ^ prec) (hp : 1 ≤ prec) (hx : g ≠ 0 → (2 : ℚ) ^ (prec - 1) ≤ x) :
    ∃ j : Nat, m * 2 ^ e ≤ j * 2 ^ g ∧ |x * 2 ^ g - j * 2 ^ g| ≤ |x * 2 ^ g - m * 2 ^ e| := by
  rcases Nat.lt_or_ge e g with h | h
  · have hle : m * 2 ^ e ≤ 2 ^ (prec - 1) * 2 ^ g := calc
      m * 2 ^ e ≤ 2 ^ prec * 2 ^ (g - 1) := Nat.mul_le_mul hm (Nat.pow_le_pow_right two_pos (by omega))
      _ = 2 ^ (prec - 1) * 2 ^ g := by rw [← pow_add, ← pow_add]; congr 1; omega
    have hle' : (m : ℚ) * 2 ^ e ≤ 2 ^ (prec - 1) * 2 ^ g := by exact_mod_cast hle
    have hj := mul_le_mul_of_nonneg_right (hx (by omega)) (pow_nonneg (two_pos (α := ℚ)).le g)
    refine ⟨2 ^ (prec - 1), hle, ?_⟩
    push_cast
    rw [abs_of_nonneg (by linarith), abs_of_nonneg (by linarith)]
    linarith
  · have hj : m * 2 ^ e = m * 2 ^ (e - g) * 2 ^ g := by rw [mul_assoc, ← pow_add, Nat.sub_add_cancel h]
    refine ⟨m * 2 ^ (e - g), hj.le, ?_⟩
    have hj' : (m : ℚ) * 2 ^ e = (m * 2 ^ (e - g) : Nat) * 2 ^ g := by exact_mod_cast hj
    rw [hj']

/-- No value of the grid is nearer than the rounded one, and none that is equally near is larger. -/
theorem round_mul_pow_nearest {prec m g e : Nat} {x : ℚ} (hm : m ≤ 2 ^ prec) (hp : 1 ≤ prec) (hx : g ≠ 0 → (2 : ℚ) ^ (prec - 1) ≤ x) :
    |x * 2 ^ g - round x * 2 ^ g| ≤ |x * 2 ^ g - m * 2 ^ e| ∧
      (|x * 2 ^ g - round x * 2 ^ g| = |x * 2 ^ g - m * 2 ^ e| → (m : ℚ) * 2 ^ e ≤ round x * 2 ^ g) := by
  obtain ⟨j, hle, hfar⟩ := exists_multiple_near (e := e) hm hp hx
  have hle' : (m : ℚ) * 2 ^ e ≤ j * 2 ^ g := by exact_mod_cast hle
  have hg : (0 : ℚ) < 2 ^ g := by positivity
  have hnear : |x - round x| ≤ |x - (j : Int)| := round_le x j
  have scale (y : ℚ) : |x * 2 ^ g - y * 2 ^ g| = |x - y| * 2 ^ g := by rw [← sub_mul, abs_mul, abs_of_pos hg]
  rw [scale] at hfar ⊢
  have hnear' : |x - round x| * 2 ^ g ≤ |x - j| * 2 ^ g := mul_le_mul_of_nonneg_right (by exact_mod_cast hnear) hg.le
  refine ⟨hnear'.trans hfar, fun htie => hle'.trans ?_⟩
  have heq : |x - round x| = |x - (j : Int)| := by
    exact_mod_cast mul_right_cancel₀ hg.ne' (hnear'.antisymm (by linarith))
  have hj : (j : ℚ) ≤ round x := by exact_mod_cast le_round_of_tie heq
  exact mul_le_mul_of_nonneg_right hj hg.le

/-- The distance of `nearest`, in units of 1 / v, as a rational one. -/
theorem distance_cast (n u : Nat) {v : Nat} (hv : 0 < v) : (Claims.distance n u v : ℚ) = |(u : ℚ) / v - n| * v := by
  have hv' : (0 : ℚ) < v := by exact_mod_cast hv
  rw [Claims.distance, Nat.cast_natAbs, abs_sub_comm]
  push_cast
  rw [← abs_of_pos hv', ← abs_mul, sub_mul, abs_of_pos hv', div_mul_cancel₀ _ hv'.ne']

/-- The exact value in units of the smallest step, from its quotient on the grid. -/
theorem gridQuot_mul (prec : Nat) (lsb : Int) (a b : Nat) :
    (unitNum a lsb : ℚ) / unitDen b lsb = gridQuot prec lsb a b * 2 ^ (gridExp prec lsb a b - lsb).toNat := by
  have h : ((gridExp prec lsb a b - lsb).toNat : Int) = gridExp prec lsb a b - lsb :=
    Int.toNat_of_nonneg (sub_nonneg.2 (le_max_right _ _))
  rw [unitNum_div_unitDen, gridQuot, ← zpow_natCast, h, zpow_sub₀ two_ne_zero]
  field_simp

end Sys2Proof.Machine

namespace Sys2Proof.Proofs
open Sys2Proof.Machine Sys2Proof.Claims

/-- Settles O57: the rounded multiple is `round` of the quotient, and every value of the grid is a multiple of the same step or is no
nearer than one. -/
theorem roundingToNearest : Obligations.RoundingToNearest := by
  intro prec lsb a b hp ha hb
  refine ⟨le_roundMag_snd _ _ _ _ _, roundMag_fst_le _ _ _ _ _, fun m x hm => ?_⟩
  have hv : 0 < unitDen b lsb := unitDen_pos hb lsb
  have hv' : (0 : ℚ) < unitDen b lsb := by exact_mod_cast hv
  have hfst : ((roundMag prec lsb none a b).1 : ℚ) = round (gridQuot prec lsb a b) := by
    exact_mod_cast roundMag_none_fst ha hb prec lsb
  have hfull : (gridExp prec lsb a b - lsb).toNat ≠ 0 → (2 : ℚ) ^ (prec - 1) ≤ gridQuot prec lsb a b :=
    fun h => le_gridQuot hp ha hb (by omega)
  obtain ⟨hle, htie⟩ := round_mul_pow_nearest (e := x) hm hp hfull
  rw [roundMag_snd ha hb]
  change distance _ (unitNum a lsb) (unitDen b lsb) ≤ distance _ (unitNum a lsb) (unitDen b lsb) ∧
    (distance _ (unitNum a lsb) (unitDen b lsb) = distance _ (unitNum a lsb) (unitDen b lsb) → _)
  rw [← Nat.cast_le (α := ℚ), ← Nat.cast_inj (R := ℚ), ← Nat.cast_le (α := ℚ), distance_cast _ _ hv, distance_cast _ _ hv,
    gridQuot_mul prec lsb a b, mul_le_mul_iff_left₀ hv', mul_left_inj' hv'.ne']
  push_cast
  rw [hfst]
  exact ⟨hle, htie⟩

end Sys2Proof.Proofs
end

section
/-! SUPPORT. What `roundTo` writes (R105, R121): the magnitude bits of an encoded value are at most those of the largest finite one. -/

namespace Sys2Proof.Machine

/-! ### What is encoded -/

/-- k × 2^q stands on the grid of a format and is no larger than its largest finite magnitude. -/
structure InRange (fmt k : Nat) (q : Int) : Prop where
  mult : k ≤ 2 ^ (outParams fmt).1
  exp : (outParams fmt).2.1 ≤ q
  small : above k q (outParams fmt).2.2.1 (outParams fmt).2.2.2 = false

/-- The largest finite magnitude of a format, as `roundTo` writes it when it saturates. -/
def topOf (fmt : Nat) : Nat × Nat :=
  if fmt = 3 then (14, 5) else if fmt = 4 then (7, 13) else if fmt = 5 then (3, 1) else ((outParams fmt).2.2.1, (outParams fmt).2.2.2)

theorem roundTo_zero (fmt : Nat) (draw : Option Nat) (neg : Bool) (b : Nat) :
    roundTo fmt draw neg 0 b = { code := 0, sat := false, flushed := false } := rfl

theorem roundTo_pos (fmt : Nat) (draw : Option Nat) (neg : Bool) {a : Nat} (b : Nat) (ha : 0 < a) :
    let r := roundMag (outParams fmt).1 (outParams fmt).2.1 draw a b
    roundTo fmt draw neg a b =
      if above r.1 r.2 (outParams fmt).2.2.1 (outParams fmt).2.2.2 then
        { code := encodeElem fmt neg (topOf fmt).1 (topOf fmt).2, sat := true, flushed := false }
      else { code := encodeElem fmt neg r.1 r.2, sat := false, flushed := r.1 == 0 } := by
  simp only [roundTo, ha.ne', if_false, topOf]
  split_ifs <;> rfl

theorem inRange_top {fmt : Nat} (h1 : 1 ≤ fmt) (h8 : fmt ≤ 8) : InRange fmt (topOf fmt).1 (topOf fmt).2 := by
  interval_cases fmt <;> constructor <;> decide +kernel

theorem inRange_zero {fmt : Nat} : InRange fmt 0 (outParams fmt).2.1 :=
  ⟨Nat.zero_le _, le_rfl, by simp [above]⟩

/-- Every code that `roundTo` writes encodes a value in the range of its format. -/
theorem roundTo_code (fmt : Nat) (draw : Option Nat) (neg : Bool) {a : Nat} (b : Nat) (h1 : 1 ≤ fmt) (h8 : fmt ≤ 8) (ha : 0 < a) :
    ∃ (k : Nat) (q : Int), InRange fmt k q ∧ (roundTo fmt draw neg a b).code = encodeElem fmt neg k q := by
  rw [roundTo_pos fmt draw neg b ha]
  split
  · exact ⟨_, _, inRange_top h1 h8, rfl⟩
  · exact ⟨_, _, ⟨roundMag_fst_le _ _ _ _ _, le_roundMag_snd _ _ _ _ _, Bool.eq_false_iff.2 ‹_›⟩, rfl⟩

/-- A multiple that rounds to zero is flushed: nothing saturates. -/
theorem roundTo_flush (fmt : Nat) (draw : Option Nat) (neg : Bool) {a b : Nat} (ha : 0 < a)
    (h0 : (roundMag (outParams fmt).1 (outParams fmt).2.1 draw a b).1 = 0) :
    ∃ q : Int, roundTo fmt draw neg a b = { code := encodeElem fmt neg 0 q, sat := false, flushed := true } := by
  rw [roundTo_pos fmt draw neg b ha]
  simp [h0, above]

/-! ### Integer formats -/

theorem encodeElem_int {fmt : Nat} (h : fmt = 1 ∨ fmt = 2 ∨ fmt = 8) (neg : Bool) (k : Nat) (q : Int) :
    encodeElem fmt neg k q = ofSigned (elemBits fmt) (if neg then -(k * 2 ^ q.toNat : Nat) else (k * 2 ^ q.toNat : Nat)) :=
  if_pos h

/-- An integer in range is no larger than the largest positive one. -/
theorem InRange.int_le {fmt k : Nat} {q : Int} (h : fmt = 1 ∨ fmt = 2 ∨ fmt = 8) (hr : InRange fmt k q) :
    k * 2 ^ q.toNat ≤ (outParams fmt).2.2.1 := by
  obtain ⟨-, hq, hs⟩ := hr
  have hp : (outParams fmt).2.1 = 0 ∧ (outParams fmt).2.2.2 = 0 := by
    rcases h with rfl | rfl | rfl <;> exact ⟨rfl, rfl⟩
  rw [hp.1] at hq
  simpa [above, hq, hp.2] using hs

theorem ofSigned_lt (w : Nat) (v : Int) : ofSigned w v < 2 ^ w := by
  have hw : (0 : Int) < 2 ^ w := by positivity
  have := Int.emod_lt_of_pos v hw
  unfold ofSigned
  zify
  omega

theorem toSigned_of_lt {w n : Nat} (h : n < 2 ^ w) : toSigned w n = if n < 2 ^ (w - 1) then (n : Int) else n - 2 ^ w := by
  rw [toSigned, Nat.mod_eq_of_lt h, Int.emod_eq_of_lt (Int.natCast_nonneg n) (by exact_mod_cast h)]

/-- A signed number that fits reads back from its field. -/
theorem toSigned_ofSigned {w : Nat} {v : Int} (hw : 0 < w) (hl : -2 ^ (w - 1) ≤ v) (hu : v < 2 ^ (w - 1)) :
    toSigned w (ofSigned w v) = v := by
  obtain ⟨w, rfl⟩ : ∃ n, w = n + 1 := ⟨w - 1, by omega⟩
  simp only [Nat.add_sub_cancel] at hl hu
  rw [toSigned_of_lt (ofSigned_lt _ _), ofSigned, Nat.add_sub_cancel]
  have hp : (2 : Int) ^ (w + 1) = 2 * 2 ^ w := by ring
  have hc : ((2 ^ w : Nat) : Int) = 2 ^ w := by push_cast; rfl
  rcases lt_or_ge v 0 with h | h
  · rw [← Int.add_emod_right, Int.emod_eq_of_lt (by omega) (by omega)]
    split <;> omega
  · rw [Int.emod_eq_of_lt h (by omega)]
    split <;> omega

/-- R121: a rounded integer lies in the symmetric range of its format. -/
theorem toSigned_roundTo {fmt : Nat} (h : fmt = 1 ∨ fmt = 2 ∨ fmt = 8) (draw : Option Nat) (neg : Bool) (a b : Nat) :
    -((outParams fmt).2.2.1 : Int) ≤ toSigned (elemBits fmt) (roundTo fmt draw neg a b).code ∧
      toSigned (elemBits fmt) (roundTo fmt draw neg a b).code ≤ (outParams fmt).2.2.1 := by
  have hm : 0 < elemBits fmt ∧ ((outParams fmt).2.2.1 : Int) < 2 ^ (elemBits fmt - 1) := by
    rcases h with rfl | rfl | rfl <;> decide
  rcases Nat.eq_zero_or_pos a with rfl | ha
  · rw [roundTo_zero]
    simp [toSigned]
  · obtain ⟨k, q, hr, hc⟩ := roundTo_code fmt draw neg b (by omega) (by omega) ha
    have hk := hr.int_le h
    rw [hc, encodeElem_int h, toSigned_ofSigned hm.1 (by split <;> omega) (by split <;> omega)]
    split <;> omega

/-! ### Floating-point formats -/

theorem elemBits_pos (fmt : Nat) : 0 < elemBits fmt := by
  unfold elemBits
  split_ifs <;> decide

/-- The magnitude bits of k × 2^q in a floating-point format. -/
def floatMag (fmt k : Nat) (q : Int) : Nat :=
  let k' := if k = 2 ^ (manBits fmt + 1) then 2 ^ manBits fmt else k
  let q' := if k = 2 ^ (manBits fmt + 1) then q + 1 else q
  if k' < 2 ^ manBits fmt then k' else (q' - (outParams fmt).2.1 + 1).toNat * 2 ^ manBits fmt + (k' - 2 ^ manBits fmt)

theorem encodeElem_float {fmt : Nat} (h3 : 3 ≤ fmt) (h7 : fmt ≤ 7) (neg : Bool) (k : Nat) (q : Int) :
    encodeElem fmt neg k q = floatMag fmt k q + if neg then 2 ^ (elemBits fmt - 1) else 0 :=
  if_neg (by omega)

/-- The largest finite magnitude of a floating-point format has its full mantissa, and an exponent above 0. -/
theorem topOf_float {fmt : Nat} (h3 : 3 ≤ fmt) (h7 : fmt ≤ 7) :
    (outParams fmt).1 = manBits fmt + 1 ∧ (outParams fmt).2.1 < 0 ∧
      (outParams fmt).2.2.1 * 2 ^ (outParams fmt).2.2.2 = (topOf fmt).1 * 2 ^ (topOf fmt).2 ∧
      2 ^ manBits fmt ≤ (topOf fmt).1 ∧ (topOf fmt).1 < 2 ^ (manBits fmt + 1) ∧ 0 < (topOf fmt).2 := by
  interval_cases fmt <;> decide +kernel

/-- A normal value k × 2^e that is at most K × 2^E, with no smaller an exponent, has the same exponent. -/
theorem exp_eq_of_normal_le {man k K e E : Nat} (hk : 2 ^ man ≤ k) (hK : K < 2 ^ (man + 1)) (h : k * 2 ^ e ≤ K * 2 ^ E) (he : E ≤ e) :
    e = E ∧ k ≤ K := by
  obtain ⟨d, rfl⟩ := Nat.exists_eq_add_of_le' he
  rw [pow_add, ← mul_assoc] at h
  have hkd : k * 2 ^ d ≤ K := Nat.le_of_mul_le_mul_right h (Nat.two_pow_pos E)
  cases d with
  | zero => exact ⟨Nat.zero_add E, by simpa using hkd⟩
  | succ d =>
    have : 2 ^ man * 2 ≤ k * 2 ^ (d + 1) := Nat.mul_le_mul hk (Nat.pow_le_pow_right two_pos (Nat.le_add_left 1 d))
    rw [pow_succ] at hK
    omega

/-- Magnitude bits rise with the exponent, and with the mantissa at one exponent. -/
theorem normal_bits_le {man k K : Nat} {lsb q E : Int} (hk : k < 2 ^ (man + 1)) (hl : lsb ≤ q) (h : E ≤ q → q = E ∧ k ≤ K) :
    (q - lsb + 1).toNat * 2 ^ man + (k - 2 ^ man) ≤ (E - lsb + 1).toNat * 2 ^ man + (K - 2 ^ man) := by
  rw [pow_succ] at hk
  rcases lt_or_ge q E with hq | hq
  · have := Nat.mul_le_mul_right (2 ^ man) (show (q - lsb + 1).toNat + 1 ≤ (E - lsb + 1).toNat by omega)
    rw [Nat.succ_mul] at this
    omega
  · obtain ⟨rfl, hK⟩ := h hq
    omega

/-- A value in range, from the largest exponent on. -/
theorem InRange.le_top {fmt k : Nat} {q : Int} (h3 : 3 ≤ fmt) (h7 : fmt ≤ 7) (hr : InRange fmt k q) (hq : 0 ≤ q) :
    k * 2 ^ q.toNat ≤ (topOf fmt).1 * 2 ^ (topOf fmt).2 := by
  obtain ⟨-, -, htop, -⟩ := topOf_float h3 h7
  have hs := hr.small
  rw [above, if_pos hq, htop] at hs
  simpa using hs

theorem floatMag_top {fmt : Nat} (h3 : 3 ≤ fmt) (h7 : fmt ≤ 7) : floatMag fmt (topOf fmt).1 (topOf fmt).2 =
    ((topOf fmt).2 - (outParams fmt).2.1 + 1).toNat * 2 ^ manBits fmt + ((topOf fmt).1 - 2 ^ manBits fmt) := by
  obtain ⟨-, -, -, hM, hM', -⟩ := topOf_float h3 h7
  simp only [floatMag, hM'.ne, if_false, hM.not_gt]

/-- No value in range has larger magnitude bits than the largest finite magnitude. -/
theorem floatMag_le_top {fmt k : Nat} {q : Int} (h3 : 3 ≤ fmt) (h7 : fmt ≤ 7) (hr : InRange fmt k q) :
    floatMag fmt k q ≤ floatMag fmt (topOf fmt).1 (topOf fmt).2 := by
  obtain ⟨hp, hlsb, -, hM, hM', hE⟩ := topOf_float h3 h7
  have hk := hr.mult
  have hl := hr.exp
  rw [floatMag_top h3 h7]
  rw [hp] at hk
  have hpow : 2 ^ (manBits fmt + 1) = 2 ^ manBits fmt * 2 := pow_succ _ _
  by_cases hc : k = 2 ^ (manBits fmt + 1)
  · simp only [floatMag, hc, if_true, lt_irrefl, if_false]
    refine normal_bits_le (by omega) (by omega) fun hq => ?_
    have hle := hr.le_top h3 h7 (by omega)
    rw [hc, pow_succ, mul_assoc, ← pow_succ'] at hle
    have := exp_eq_of_normal_le le_rfl hM' hle (by omega)
    omega
  · simp only [floatMag, hc, if_false]
    split
    · have := Nat.mul_le_mul_right (2 ^ manBits fmt) (show 1 ≤ ((topOf fmt).2 - (outParams fmt).2.1 + 1).toNat by omega)
      omega
    · refine normal_bits_le (by omega) hl fun hq => ?_
      have := exp_eq_of_normal_le (by omega) hM' (hr.le_top h3 h7 (by omega)) (by omega)
      omega

theorem floatMag_top_value : floatMag 3 (topOf 3).1 (topOf 3).2 = 126 ∧ floatMag 4 (topOf 4).1 (topOf 4).2 = 123 ∧
    floatMag 5 (topOf 5).1 (topOf 5).2 = 7 ∧ floatMag 6 (topOf 6).1 (topOf 6).2 = 32639 ∧
    floatMag 7 (topOf 7).1 (topOf 7).2 = 2139095039 := by decide +kernel

theorem floatMag_top_lt {fmt : Nat} (h3 : 3 ≤ fmt) (h7 : fmt ≤ 7) : floatMag fmt (topOf fmt).1 (topOf fmt).2 < 2 ^ (elemBits fmt - 1) := by
  interval_cases fmt <;> decide +kernel

/-- R104: a code whose magnitude bits are at most the largest finite ones is finite. -/
theorem decodeElem_isSome_of_mod_le {fmt code : Nat} (h3 : 3 ≤ fmt) (h7 : fmt ≤ 7)
    (h : code % 2 ^ (elemBits fmt - 1) ≤ floatMag fmt (topOf fmt).1 (topOf fmt).2) : (decodeElem fmt code).isSome = true := by
  obtain ⟨e3, e4, e5, e6, e7⟩ := floatMag_top_value
  interval_cases fmt
  pick_goal 3
  · rfl
  all_goals
    simp only [elemBits, Nat.succ_ne_self, Nat.reduceEqDiff, or_self, or_false, ↓reduceIte, Nat.add_one_sub_one, Nat.reducePow,
      e3, e4, e6, e7] at h
    rw [decodeElem, if_neg (by omega)]
    rfl

/-- Magnitude bits below a sign bit. -/
theorem add_sign_lt {w mag : Nat} (hw : 0 < w) (h : mag < 2 ^ (w - 1)) (neg : Bool) :
    (mag + if neg then 2 ^ (w - 1) else 0) % 2 ^ (w - 1) = mag ∧ (mag + if neg then 2 ^ (w - 1) else 0) < 2 ^ w := by
  have hp : 2 ^ w = 2 ^ (w - 1) * 2 := by rw [← pow_succ, Nat.sub_add_cancel hw]
  cases neg
  · exact ⟨Nat.mod_eq_of_lt h, by simp only [Bool.false_eq_true, if_false]; omega⟩
  · exact ⟨by simp [Nat.mod_eq_of_lt h], by simp only [if_true]; omega⟩

/-! ### Every format -/

theorem encodeElem_zero {fmt : Nat} (h1 : 1 ≤ fmt) (h8 : fmt ≤ 8) (neg : Bool) (q : Int) :
    encodeElem fmt neg 0 q = if neg = true ∧ 3 ≤ fmt ∧ fmt ≤ 7 then 2 ^ (elemBits fmt - 1) else 0 := by
  by_cases h : fmt = 1 ∨ fmt = 2 ∨ fmt = 8
  · have hint : ¬(neg = true ∧ 3 ≤ fmt ∧ fmt ≤ 7) := by omega
    rw [encodeElem_int h, if_neg hint]
    simp [ofSigned]
  · have h3 : 3 ≤ fmt := by omega
    have h7 : fmt ≤ 7 := by omega
    have hz : floatMag fmt 0 q = 0 := by
      have := Nat.two_pow_pos (manBits fmt + 1)
      simp [floatMag, this.ne]
    rw [encodeElem_float h3 h7, hz, Nat.zero_add]
    simp only [h3, h7, and_true]

/-- R105: the code of a value in range is finite and fits the format. -/
theorem encodeElem_finite {fmt k : Nat} {q : Int} (h1 : 1 ≤ fmt) (h8 : fmt ≤ 8) (neg : Bool) (hr : InRange fmt k q) :
    (decodeElem fmt (encodeElem fmt neg k q)).isSome = true ∧ encodeElem fmt neg k q < 2 ^ elemBits fmt := by
  by_cases h : fmt = 1 ∨ fmt = 2 ∨ fmt = 8
  · refine ⟨?_, encodeElem_int h neg k q ▸ ofSigned_lt _ _⟩
    rcases h with rfl | rfl | rfl <;> rfl
  · have h3 : 3 ≤ fmt := by omega
    have h7 : fmt ≤ 7 := by omega
    have hle := floatMag_le_top h3 h7 hr
    obtain ⟨hmod, hlt⟩ := add_sign_lt (elemBits_pos fmt) (hle.trans_lt (floatMag_top_lt h3 h7)) neg
    rw [encodeElem_float h3 h7]
    exact ⟨decodeElem_isSome_of_mod_le h3 h7 (hmod.symm ▸ hle), hlt⟩

end Sys2Proof.Machine

namespace Sys2Proof.Proofs
open Sys2Proof.Machine Sys2Proof.Claims

theorem finite_roundTo : finiteOutputs := by
  intro fmt draw neg a b h1 h8 _
  rcases Nat.eq_zero_or_pos a with rfl | ha
  · have hz := encodeElem_finite h1 h8 false (inRange_zero (fmt := fmt))
    rw [encodeElem_zero h1 h8] at hz
    exact ⟨by simpa [roundTo_zero] using hz.1, Nat.two_pow_pos _, fun _ => ⟨rfl, rfl⟩, fun h => absurd h (lt_irrefl 0)⟩
  · obtain ⟨k, q, hr, hc⟩ := roundTo_code fmt draw neg b h1 h8 ha
    obtain ⟨hsome, hlt⟩ := encodeElem_finite h1 h8 neg hr
    refine ⟨hc ▸ hsome, hc ▸ hlt, fun h => absurd h ha.ne', fun _ h0 => ?_⟩
    obtain ⟨q', e⟩ := roundTo_flush fmt draw neg ha h0
    rw [e]
    exact ⟨rfl, rfl, encodeElem_zero h1 h8 neg q'⟩

/-- Settles O58: what `roundTo` encodes is in the range of its format, whose codes are finite and, for integers, symmetric. -/
theorem outputEncodings : Obligations.OutputEncodings :=
  ⟨finite_roundTo, fun draw neg a b =>
    ⟨toSigned_roundTo (fmt := 1) (.inl rfl) draw neg a b, toSigned_roundTo (fmt := 2) (.inr (.inl rfl)) draw neg a b⟩⟩

end Sys2Proof.Proofs
end

section
/-! SUPPORT. Arrays of packed elements (R103): what the bytes of `packFrom` read as. -/

namespace Sys2Proof.Machine

/-- A byte of a memory once bytes are written over it. -/
def overlay (rd : Nat → Byte) (p : Nat × List Byte) (a : Nat) : Byte :=
  if p.1 ≤ a ∧ a < p.1 + p.2.length then p.2.getD (a - p.1) 0 else rd a

/-- An element of an array once codes are placed from element number `e` on. -/
def placed (rd : Nat → Byte) (fmt off e : Nat) (codes : List Nat) (i : Nat) : Nat :=
  if e ≤ i ∧ i < e + codes.length then codes.getD (i - e) 0 else rawElem rd fmt off i

/-! ### Two elements in a byte -/

section
variable {rd : Nat → Byte} {fmt off : Nat} (h4 : elemBits fmt = 4)
include h4

theorem rawElem_even (k : Nat) : rawElem rd fmt off (2 * k) = (rd (off + k)).toNat % 16 := by
  simp [rawElem, h4]

theorem rawElem_odd (k : Nat) : rawElem rd fmt off (2 * k + 1) = (rd (off + k)).toNat / 16 := by
  rw [rawElem, if_pos h4, if_neg (by omega), show (2 * k + 1) / 2 = k by omega]

theorem rawElem_lt (i : Nat) : rawElem rd fmt off i < 16 := by
  have := (rd (off + i / 2)).isLt
  simp only [rawElem, h4, if_true]
  split <;> omega

theorem placed_lt {codes : List Nat} (hc : ∀ c ∈ codes, c < 16) (e i : Nat) : placed rd fmt off e codes i < 16 := by
  unfold placed
  split
  · next h =>
    rw [List.getD_eq_getElem _ _ (show i - e < codes.length by omega)]
    exact hc _ (List.getElem_mem _)
  · exact rawElem_lt h4 i

/-- The bytes of `packFrom` hold two elements each, placed or as they were. -/
theorem packFrom_nibbles (e : Nat) (codes : List Nat) : packFrom rd fmt off e codes =
    (off + e / 2, (List.range ((e + codes.length + 1) / 2 - e / 2)).map (fun q =>
      BitVec.ofNat 8 (placed rd fmt off e codes (2 * (e / 2 + q)) + 16 * placed rd fmt off e codes (2 * (e / 2 + q) + 1)))) := by
  simp only [packFrom, h4, if_true, placed, rawElem_even h4, rawElem_odd h4, Nat.add_assoc]

theorem overlay_packFrom_nibbles {codes : List Nat} (hc : ∀ c ∈ codes, c < 16) (e k : Nat) :
    (overlay rd (packFrom rd fmt off e codes) (off + k)).toNat =
      placed rd fmt off e codes (2 * k) + 16 * placed rd fmt off e codes (2 * k + 1) := by
  rw [overlay, packFrom_nibbles h4, List.length_map, List.length_range]
  split
  · next h =>
    have hq : off + k - (off + e / 2) = k - e / 2 := by omega
    have hk : e / 2 + (k - e / 2) = k := by omega
    have h0 := placed_lt (rd := rd) (off := off) h4 hc e (2 * k)
    have h1 := placed_lt (rd := rd) (off := off) h4 hc e (2 * k + 1)
    rw [hq, List.getD_eq_getElem _ _ (by simp; omega), List.getElem_map, List.getElem_range, hk, BitVec.toNat_ofNat]
    exact Nat.mod_eq_of_lt (by omega)
  · next h =>
    rw [placed, if_neg (by omega), placed, if_neg (by omega), rawElem_even h4, rawElem_odd h4]
    exact (Nat.mod_add_div _ 16).symm

/-- R103: 4-bit elements that are placed read back, and the neighbour in a shared byte reads as before. -/
theorem rawElem_packFrom_nibbles {codes : List Nat} (hc : ∀ c ∈ codes, c < 16) (e i : Nat) :
    rawElem (overlay rd (packFrom rd fmt off e codes)) fmt off i = placed rd fmt off e codes i := by
  have h0 (k : Nat) := placed_lt (rd := rd) (off := off) h4 hc e (2 * k)
  obtain ⟨k, rfl | rfl⟩ := Nat.even_or_odd' i
  · rw [rawElem_even h4, overlay_packFrom_nibbles h4 hc]
    specialize h0 k
    omega
  · rw [rawElem_odd h4, overlay_packFrom_nibbles h4 hc]
    specialize h0 k
    omega

end

/-! ### Elements of whole bytes -/

theorem leNat_le {k n : Nat} (h : n < 256 ^ k) : leNat (le k n) = n := by
  induction k generalizing n with
  | zero => simp_all [le, leNat]
  | succ k ih =>
    rw [le, leNat, ih (by rw [pow_succ] at h; omega), BitVec.toNat_ofNat]
    exact Nat.mod_add_div n 256

theorem mul_add_lt_mul_iff {i j w m : Nat} (hj : j < w) : i * w + j < m * w ↔ i < m := by
  rw [← Nat.div_lt_iff_lt_mul (by omega), mul_comm, Nat.mul_add_div (by omega), Nat.div_eq_of_lt hj, Nat.add_zero]

theorem length_flatMap_le (w : Nat) (codes : List Nat) : (codes.flatMap (le w)).length = codes.length * w := by
  simp [List.length_flatMap, Claims.le_length]

/-- The bytes of one code among those of a list of codes. -/
theorem getD_flatMap_le {w j : Nat} (hj : j < w) (codes : List Nat) {d : Nat} (hd : d < codes.length) :
    (codes.flatMap (le w)).getD (d * w + j) 0 = (le w (codes.getD d 0)).getD j 0 := by
  induction codes generalizing d with
  | nil => exact absurd hd (Nat.not_lt_zero d)
  | cons c codes ih =>
    rw [List.flatMap_cons]
    cases d with
    | zero =>
      rw [Nat.zero_mul, Nat.zero_add, List.getD_append _ _ _ _ (by rwa [Claims.le_length])]
      rfl
    | succ d =>
      have hw : (d + 1) * w + j = w + (d * w + j) := by ring
      rw [hw, List.getD_append_right _ _ _ _ (by rw [Claims.le_length]; omega), Claims.le_length, Nat.add_sub_cancel_left, ih (by simpa using hd)]
      rfl

section
variable {rd : Nat → Byte} {fmt off : Nat} (h4 : elemBits fmt ≠ 4)
include h4

theorem rawElem_bytes (i : Nat) : rawElem rd fmt off i =
    leNat ((List.range (elemBits fmt / 8)).map (fun j => rd (off + i * (elemBits fmt / 8) + j))) :=
  if_neg h4

theorem packFrom_bytes (e : Nat) (codes : List Nat) :
    packFrom rd fmt off e codes = (off + e * (elemBits fmt / 8), codes.flatMap (le (elemBits fmt / 8))) :=
  if_neg h4

/-- Byte j of element i, once codes are placed. -/
theorem overlay_packFrom_bytes (e : Nat) (codes : List Nat) (i : Nat) {j : Nat} (hj : j < elemBits fmt / 8) :
    overlay rd (packFrom rd fmt off e codes) (off + i * (elemBits fmt / 8) + j) =
      if e ≤ i ∧ i < e + codes.length then (le (elemBits fmt / 8) (codes.getD (i - e) 0)).getD j 0
      else rd (off + i * (elemBits fmt / 8) + j) := by
  rw [packFrom_bytes h4, overlay, length_flatMap_le]
  generalize elemBits fmt / 8 = w at hj
  have hlo : e * w ≤ i * w + j ↔ e ≤ i := by
    rw [← not_lt, mul_add_lt_mul_iff hj, not_lt]
  have hhi : i * w + j < e * w + codes.length * w ↔ i < e + codes.length := by
    rw [← Nat.add_mul, mul_add_lt_mul_iff hj]
  have hif : (off + e * w ≤ off + i * w + j ∧ off + i * w + j < off + e * w + codes.length * w) ↔ e ≤ i ∧ i < e + codes.length := by
    rw [← hlo, ← hhi]
    omega
  simp only [hif]
  split
  · next h =>
    have hd : off + i * w + j - (off + e * w) = (i - e) * w + j := by
      obtain ⟨d, rfl⟩ := Nat.exists_eq_add_of_le h.1
      rw [Nat.add_sub_cancel_left, Nat.add_mul]
      omega
    rw [hd, getD_flatMap_le hj codes (by omega)]
  · rfl

/-- R103: elements of whole bytes that are placed read back, and every other one reads as before. -/
theorem rawElem_packFrom_bytes {codes : List Nat} (hc : ∀ c ∈ codes, c < 256 ^ (elemBits fmt / 8)) (e i : Nat) :
    rawElem (overlay rd (packFrom rd fmt off e codes)) fmt off i = placed rd fmt off e codes i := by
  have hbytes := fun j (hj : j ∈ List.range (elemBits fmt / 8)) =>
    overlay_packFrom_bytes (rd := rd) (off := off) h4 e codes i (List.mem_range.1 hj)
  rw [rawElem_bytes h4, List.map_congr_left hbytes, placed]
  split
  · next h =>
    have hi : i - e < codes.length := by omega
    have hle : (List.range (elemBits fmt / 8)).map (fun j => (le (elemBits fmt / 8) (codes.getD (i - e) 0)).getD j 0) =
        le (elemBits fmt / 8) (codes.getD (i - e) 0) :=
      List.ext_getElem (by simp [Claims.le_length]) (by simp +contextual)
    rw [hle, leNat_le]
    rw [List.getD_eq_getElem _ _ hi]
    exact hc _ (List.getElem_mem _)
  · exact (rawElem_bytes h4 i).symm

end

/-- A format whose elements do not share a byte has whole bytes. -/
theorem pow_elemBits {fmt : Nat} (h4 : elemBits fmt ≠ 4) : 2 ^ elemBits fmt = 256 ^ (elemBits fmt / 8) := by
  have h : elemBits fmt = 8 ∨ elemBits fmt = 16 ∨ elemBits fmt = 32 := by
    revert h4
    unfold elemBits
    split_ifs <;> decide
  rcases h with h | h | h <;> rw [h] <;> rfl

end Sys2Proof.Machine

namespace Sys2Proof.Proofs
open Sys2Proof.Machine Sys2Proof.Claims

/-- Settles O59: 4-bit elements byte by byte, two elements in each; wider ones by the bytes of each code. -/
theorem packedElements : Obligations.PackedElements := by
  intro rd fmt off _ _
  refine ⟨fun h4 k => ⟨rawElem_even h4 k, rawElem_odd h4 k⟩, fun e codes hc i => ?_⟩
  by_cases h4 : elemBits fmt = 4
  · rw [h4] at hc
    exact rawElem_packFrom_nibbles h4 hc e i
  · rw [pow_elemBits h4] at hc
    exact rawElem_packFrom_bytes h4 hc e i

end Sys2Proof.Proofs
end

section
/-! SUPPORT. A fetch that a check ends with a violation (R365, R402), and the check of the handles that a command names (R363). -/

namespace Sys2Proof.Machine

/-! ### Queues of a context that is not OPEN -/

/-- R344: the drive does not look at the queues of a context that is not OPEN. -/
theorem State.checkHead_not_open {s : State} {ctx : Nat} (h : (s.ctx ctx).state ≠ 1) (q : Nat) : s.checkHead ctx q = s := by
  have hf : s.fetchable ctx q = false := by simp [State.fetchable, h]
  unfold State.checkHead
  split
  · rfl
  · split
    · rfl
    · simp [hf]

theorem State.checkHeads_not_open {s : State} {ctx : Nat} (h : (s.ctx ctx).state ≠ 1) : s.checkHeads ctx = s := by
  unfold State.checkHeads
  induction List.range 9 with
  | nil => rfl
  | cons q l ih => rw [List.foldl_cons, State.checkHead_not_open h, ih]

theorem State.fetchable_open {s : State} {ctx q : Nat} (h : s.fetchable ctx q = true) : (s.ctx ctx).state = 1 := by
  simp only [State.fetchable, Bool.and_eq_true, beq_iff_eq] at h
  obtain ⟨⟨⟨⟨-, ho⟩, -⟩, -⟩, -⟩ := h
  exact ho

/-! ### The check of the handles -/

/-- R363: a handle that is EMPTY or DRAINING is not LIVE. -/
theorem State.isLive_false {s : State} {ctx h : Nat}
    (hd : tfind (s.ctx ctx).handles h = none ∨ ∃ m : HandleSt, tfind (s.ctx ctx).handles h = some m ∧ m.draining = true) :
    s.isLive ctx h = false := by
  unfold State.isLive
  rcases hd with hn | ⟨m, hm, hdr⟩
  · rw [hn]
  · simp [hm, hdr]

/-- R402: the handles' states come first among the checks of the accesses. -/
theorem State.accessCheck_not_live {s : State} {c : Cmd} {h : Nat} (hm : h ∈ bodyHandles c.body) (hl : s.isLive c.e.ctx h = false) :
    ∃ a : Nat, s.accessCheck c = some (stMemUnmapped, a) := by
  unfold State.accessCheck
  dsimp only
  split
  · exact ⟨_, rfl⟩
  · next hf => simpa [hl] using List.find?_eq_none.mp hf h hm

theorem State.needsFailed_false {s : State} (c : Cmd) (h : s.power.failed = false) : s.needsFailed c = false := by
  simp [State.needsFailed, h]

theorem State.kciCheck_access {s : State} {c : Cmd} {r : Nat × Nat} (he : s.entryCheck c = none)
    (ha : isCompute c.body = true → s.noArrays (s.ctx c.e.ctx).partition = false) (hf : s.power.failed = false)
    (hr : s.accessCheck c = some r) : s.kciCheck c = some r := by
  unfold State.kciCheck
  have hn : ¬ ((isCompute c.body = true ∧ s.noArrays (s.ctx c.e.ctx).partition = true) ∨ s.needsFailed c = true) := by
    rw [State.needsFailed_false c hf]
    rintro (⟨hc, hx⟩ | hx)
    · rw [ha hc] at hx
      cases hx
    · cases hx
  simp only [he, if_neg hn, hr]

end Sys2Proof.Machine

namespace Sys2Proof.Claims
open Sys2Proof.Machine

/-! ### A fetch that ends with a violation -/

theorem exec_fetchOf (e : Entry) (b : Body) (s : State) : exec (fetchOf e b) s = .next (s.kciFetch e b) := by
  cases b <;> rfl

theorem isViolation_ne {st n : Nat} (hv : isViolation st = true) (hn : isViolation n = false) : st ≠ n := by
  rintro rfl
  simp [hn] at hv

/-- R366: nothing moves after a fault when nothing moved before it: the commands that it ends only wait for their posting. -/
theorem faultCtx_rest {u : State} {ctx cls addr st queue cid : Nat} (ho : (u.ctx ctx).state = 1) (hu : distinct u) (hs : u.still) :
    (u.faultCtx ctx cls addr st queue cid).settle.checkHeads ctx = u.faultCtx ctx cls addr st queue cid := by
  obtain ⟨v, hs', g, hctx, -, hcmds, hg⟩ := State.faultCtx_open cls addr st queue cid ho hu
  have hstill : (u.faultCtx ctx cls addr st queue cid).still := by
    intro c hc
    rw [hcmds] at hc
    obtain ⟨c', hc', rfl⟩ := List.mem_map.mp hc
    exact Cmd.mayEnd_still (hg c' hc').1 (hs c' hc')
  rw [State.settle_still hstill, State.checkHeads_not_open (by simp [hctx])]

section
variable {s : State} {e : Entry} {b : Body} {uid : Nat} {q : QueueSt} (h : Due s e b uid q)
include h

/-- R365: a violation found at the fetch ends the command with its status and then faults its context. -/
theorem Due.kciFetch_violation {st a : Nat} (hd : e.dmaFault = none) (ho : s.over0 (s.newCmd e b uid q) = false)
    (hk : s.kciCheck (s.newCmd e b uid q) = some (st, a)) (hv : isViolation st = true) :
    s.kciFetch e b = ((((s.fetched e b uid q).conclude uid st 0 (s.newCmd e b uid q).dw1).faultCtx e.ctx clsMemory a st e.queue
      e.cid).settle).checkHeads e.ctx := by
  have hu : (s.cmds.any (fun c => c.uid == uid)) = false :=
    List.any_eq_false.mpr (fun c hc => by simpa using h.unused c hc)
  unfold State.newCmd at ho hk
  unfold State.kciFetch
  rw [h.due, h.ring]
  simp only [h.fetchable, h.spells, h.data, hu, hd, ne_eq, not_true_eq_false, Bool.true_eq_false, Bool.false_eq_true, or_self, if_false]
  rw [ho, hk]
  simp only [hv, if_true]
  rfl

theorem Due.cmd_fetched : (s.fetched e b uid q).cmd? uid = some (s.newCmd e b uid q) := by
  unfold State.cmd?
  rw [s.fetched_cmds, List.find?_append, List.find?_eq_none.mpr (fun c hc => by simpa using h.unused c hc)]
  simp [State.newCmd, Cmd.fresh]

/-- The commands once the fetched one has ended: it is the newest, the others are as before. -/
theorem Due.concluded_cmds {st : Nat} (d0 d1 : Nat) (hl : st ≠ stLinkLost) :
    ((s.fetched e b uid q).conclude uid st d0 d1).cmds =
      s.cmds ++ [(s.newCmd e b uid q).concluded st d0 d1 (s.fetched e b uid q).nextId (s.fetched e b uid q).time.now] := by
  rw [State.conclude_cmds d0 d1 h.cmd_fetched rfl hl, s.fetched_cmds, List.map_append,
    List.map_congr_left (fun c hc => if_neg (h.unused c hc)), List.map_id', List.map_singleton,
    if_pos (show (s.newCmd e b uid q).uid = uid from rfl)]
  simp [finalStatus, State.newCmd, Cmd.fresh]

/-- A fetch that ends its command and then faults its context, given what the end leaves. -/
theorem Due.fetchFaults_of {u : State} {y : Cmd} {a st own cls : Nat}
    (hf : s.kciFetch e b = (u.faultCtx e.ctx cls a st e.queue e.cid).settle.checkHeads e.ctx)
    (hc : u.cmds = s.cmds ++ [y]) (hy : y.uid = uid) (hown : y.status = some own) (ho : (u.ctx e.ctx).state = 1)
    (hviol : (u.ctx e.ctx).viol = (s.ctx e.ctx).viol) (h0 : st ≠ 0) : fetchFaults s e b uid st own := by
  have hu : distinct u := by
    unfold distinct
    rw [hc, List.map_append, List.nodup_append]
    refine ⟨h.numbers, List.nodup_singleton _, fun n hn m hm => ?_⟩
    obtain ⟨c, hcm, rfl⟩ := List.mem_map.mp hn
    obtain rfl : m = y.uid := by simpa using hm
    exact hy ▸ h.unused c hcm
  have hs : u.still := by
    intro c hcm
    rw [hc, List.mem_append, List.mem_singleton] at hcm
    rcases hcm with hcm | rfl
    · exact h.still c hcm
    · exact fun hn => absurd (hown.symm.trans hn) (by simp)
  rw [faultCtx_rest ho hu hs] at hf
  obtain ⟨v, hs', g, hctx, -, hcmds, hg⟩ := State.faultCtx_open cls a st e.queue e.cid ho hu
  have hin : ∀ c ∈ u.cmds, g c ∈ (u.faultCtx e.ctx cls a st e.queue e.cid).cmds := fun c hcm => hcmds ▸ List.mem_map_of_mem hcm
  have hold : ∀ c ∈ s.cmds, c ∈ u.cmds := fun c hcm => hc ▸ List.mem_append_left _ hcm
  have hyu : y ∈ u.cmds := hc ▸ List.mem_append_right _ (List.mem_singleton_self y)
  refine ⟨_, g y, exec_fetchOf e b s, ?_⟩
  rw [hf, hctx]
  refine ⟨rfl, if_neg h0, by rw [hviol], hin y hyu, (Cmd.mayEnd_uid (hg y hyu).1).trans hy, ?_, fun x hx he hn => ?_, fun x hx he => ?_⟩
  · rcases (hg y hyu).1 with hgy | ⟨hn, -⟩
    · rw [hgy, hown]
    · rw [hown] at hn
      cases hn
  · obtain ⟨hmay, -, hend⟩ := hg x (hold x hx)
    exact ⟨g x, hin x (hold x hx), Cmd.mayEnd_uid hmay, by rw [hend he, hn]⟩
  · obtain ⟨-, hkeep, -⟩ := hg x (hold x hx)
    exact hkeep he ▸ hin x (hold x hx)

/-- R365, R402: a command whose check finds a violation ends with its status, and its context faults with it. -/
theorem Due.fetchFaults_violation {st a : Nat} (hd : e.dmaFault = none) (hover : s.over0 (s.newCmd e b uid q) = false)
    (hk : s.kciCheck (s.newCmd e b uid q) = some (st, a)) (hv : isViolation st = true) : fetchFaults s e b uid st st := by
  have hl : st ≠ stLinkLost := isViolation_ne hv rfl
  obtain ⟨v, hctx, -⟩ := State.conclude_ctx 0 (s.newCmd e b uid q).dw1 h.cmd_fetched rfl hl e.ctx
  refine h.fetchFaults_of (h.kciFetch_violation hd hover hk hv) (h.concluded_cmds 0 _ hl) rfl rfl ?_ ?_ (isViolation_ne hv rfl)
  · rw [hctx]
    exact (ctx_lift s e b uid q (·.state) (fun _ _ => rfl) (fun _ _ => rfl) e.ctx).trans (State.fetchable_open h.fetchable)
  · rw [hctx]
    exact ctx_lift s e b uid q (·.viol) (fun _ _ => rfl) (fun _ _ => rfl) e.ctx

end

end Sys2Proof.Claims

namespace Sys2Proof.Proofs
open Sys2Proof.Machine Sys2Proof.Claims

/-- Settles O27: a handle that is not LIVE is the first cause among the checks of the accesses, and it is a violation. -/
theorem drainingHandles : Obligations.DrainingHandles := by
  intro e b uid q s h hd hover he harr hpow hbad
  obtain ⟨k, hk, hdead⟩ := hbad
  obtain ⟨a, hacc⟩ := State.accessCheck_not_live (c := s.newCmd e b uid q) hk (State.isLive_false hdead)
  exact h.fetchFaults_violation hd hover (State.kciCheck_access he harr hpow hacc) rfl

end Sys2Proof.Proofs
end

/-! The step, the frame of every command, and the invariant: O1 to O6. -/

namespace Sys2Proof.Proofs
open Sys2Proof.Machine Sys2Proof.Claims

/-! ### The step, and the frame of every command -/

/-- Every command answers a next state, and changes only what `touches` lists: its law in Laws/FrameExec, one row for each. -/
theorem exec_frame : ∀ (c : Instr) (s : State), ∃ t : State, exec c s = .next t ∧ Frame (touches c) s t
  | .powerOnReset .., s => execPowerOnReset_frame _ _ s
  | .auxRailValid, s => execAuxRailValid_frame s
  | .powerFail, s => execPowerFail_frame s
  | .powerFailRecordDone, s => execPowerFailRecordDone_frame s
  | .pwrdisAssert, s => execPwrdisAssert_frame s
  | .pwrdisDeassert, s => execPwrdisDeassert_frame s
  | .perstAssert, s => execPerstAssert_frame s
  | .perstDeassert .., s => execPerstDeassert_frame _ s
  | .controllerEnable .., s => execControllerEnable_frame _ s
  | .computeReady, s => execComputeReady_frame s
  | .controllerReset .., s => execControllerReset_frame _ s
  | .flr .., s => execFlr_frame _ s
  | .hostLinkLoss, s => execHostLinkLoss_frame s
  | .smbrst, s => execSmbrst_frame s
  | .dieRecoveryStart .., s => execDieRecoveryStart_frame _ _ s
  | .housekeepingReportTimeout .., s => execHousekeepingReportTimeout_frame _ s
  | .kerilWatchdogExpiry, s => execKerilWatchdogExpiry_frame s
  | .dieRecoveryDone .., s => execDieRecoveryDone_frame _ s
  | .thermalSample .., s => execThermalSample_frame _ _ s
  | .thermalLevelExit, s => execThermalLevelExit_frame s
  | .voltageRampStep, s => execVoltageRampStep_frame s
  | .holdupCheck, s => execHoldupCheck_frame s
  | .holdupCheckDone .., s => execHoldupCheckDone_frame _ s
  | .pwrHoldupCheckStart .., s => execPwrHoldupCheckStart_frame _ s
  | .deviceTimeRecord, s => execDeviceTimeRecord_frame s
  | .crystalPeriod, s => execCrystalPeriod_frame s
  | .beaconSend, s => execBeaconSend_frame s
  | .beaconReceive .., s => execBeaconReceive_frame _ _ s
  | .beaconPathMeasure .., s => execBeaconPathMeasure_frame _ _ s
  | .beaconMissLimit .., s => execBeaconMissLimit_frame _ s
  | .holdoverTimeout .., s => execHoldoverTimeout_frame _ s
  | .localTick .., s => execLocalTick_frame _ s
  | .oscillatorWatch .., s => execOscillatorWatch_frame _ _ _ _ s
  | .marginSample .., s => execMarginSample_frame _ _ s
  | .stretchRelease .., s => execStretchRelease_frame _ s
  | .lastingMarginFault .., s => execLastingMarginFault_frame _ s
  | .monitorRefresh .., s => execMonitorRefresh_frame _ s
  | .powerMonitorRefresh .., s => execPowerMonitorRefresh_frame _ s
  | .kciSqTail .., s => execKciSqTail_frame _ _ _ _ s
  | .kciCqHead .., s => execKciCqHead_frame _ _ _ s
  | .class0SlotWrite .., s => execClass0SlotWrite_frame _ _ _ _ s
  | .ctxEnableSet .., s => execCtxEnableSet_frame _ s
  | .ctxEnableClear .., s => execCtxEnableClear_frame _ s
  | .ctxControlReset .., s => execCtxControlReset_frame _ s
  | .contextResetComplete .., s => execContextResetComplete_frame _ s
  | .ctxPolicyWrite .., s => execCtxPolicyWrite_frame _ _ s
  | .registerWrite .., s => execRegisterWrite_frame _ _ _ _ s
  | .loRegisterRead .., s => execLoRegisterRead_frame _ _ _ s
  | .queueCreate .., s => execQueueCreate_frame _ _ _ _ _ _ _ _ s
  | .queueDestroy .., s => execQueueDestroy_frame _ _ s
  | .objCreate .., s => execObjCreate_frame _ _ _ _ _ _ _ _ _ s
  | .objOpen .., s => execObjOpen_frame _ _ _ s
  | .objShare .., s => execObjShare_frame _ _ _ _ s
  | .objUnshare .., s => execObjUnshare_frame _ _ _ s
  | .objRetain .., s => execObjRetain_frame _ _ s
  | .objRelease .., s => execObjRelease_frame _ _ _ s
  | .objPlace .., s => execObjPlace_frame _ _ _ s
  | .objQuery .., s => execObjQuery_frame _ _ _ s
  | .eventCreate .., s => execEventCreate_frame _ _ _ s
  | .eventDestroy .., s => execEventDestroy_frame _ _ s
  | .eventClear .., s => execEventClear_frame _ _ s
  | .programInstall .., s => execProgramInstall_frame _ _ _ _ _ s
  | .priority .., s => execPriority_frame _ _ _ _ s
  | .jobEnd .., s => execJobEnd_frame _ s
  | .copyIn .., s => execCopyIn_frame _ _ _ _ _ _ _ s
  | .copyOut .., s => execCopyOut_frame _ _ _ _ _ _ s
  | .copy .., s => execCopy_frame _ _ _ _ _ _ _ s
  | .nop .., s => execNop_frame _ s
  | .run .., s => execRun_frame _ _ _ _ _ _ _ _ s
  | .search .., s => execSearch_frame _ _ _ _ _ _ _ _ _ _ _ _ _ _ s
  | .indexSeal .., s => execIndexSeal_frame _ _ s
  | .passPick .., s => execPassPick_frame _ s
  | .commandAged .., s => execCommandAged_frame _ s
  | .reservationWindowBoundary, s => execReservationWindowBoundary_frame s
  | .passEntry .., s => execPassEntry_frame _ _ s
  | .passEnd .., s => execPassEnd_frame _ _ _ s
  | .rowVerdict .., s => execRowVerdict_frame _ _ _ s
  | .columnVerdict .., s => execColumnVerdict_frame _ _ s
  | .rowDrain .., s => execRowDrain_frame _ _ _ _ _ _ s
  | .completionPost .., s => execCompletionPost_frame _ _ _ s
  | .partExclClaim .., s => execPartExclClaim_frame _ _ s
  | .claimComplete .., s => execClaimComplete_frame _ s
  | .partExclAbort .., s => execPartExclAbort_frame _ _ s
  | .releaseComplete .., s => execReleaseComplete_frame _ s
  | .partReset .., s => execPartReset_frame _ _ s
  | .partDramQuotaWrite .., s => execPartDramQuotaWrite_frame _ _ s
  | .schedResvWrite .., s => execSchedResvWrite_frame _ _ s
  | .ctxAssignWrite .., s => execCtxAssignWrite_frame _ _ s
  | .ctxAdminReset .., s => execCtxAdminReset_frame _ _ s
  | .memT2QuotaWrite .., s => execMemT2QuotaWrite_frame _ _ s
  | .mxaTestStart .., s => execMxaTestStart_frame _ _ s
  | .secKeyEnroll .., s => execSecKeyEnroll_frame _ s
  | .secKeyRevoke .., s => execSecKeyRevoke_frame _ s
  | .peerGroupCfgSet .., s => execPeerGroupCfgSet_frame _ s
  | .peerGroupCfgClear .., s => execPeerGroupCfgClear_frame _ s
  | .peerBindWrite .., s => execPeerBindWrite_frame _ s
  | .peerProgressToWrite .., s => execPeerProgressToWrite_frame _ s
  | .errSelHiWrite .., s => execErrSelHiWrite_frame _ s
  | .errIrqVecWrite .., s => execErrIrqVecWrite_frame _ s
  | .ledgSelHiWrite .., s => execLedgSelHiWrite_frame _ s
  | .ledgCtxSelWrite .., s => execLedgCtxSelWrite_frame _ s
  | .ledgAckWrite .., s => execLedgAckWrite_frame _ s
  | .ledgPeriodWrite .., s => execLedgPeriodWrite_frame _ s
  | .ledgerPeriodClose, s => execLedgerPeriodClose_frame s
  | .errorLogFlush, s => execErrorLogFlush_frame s
  | .targetedSelfTest .., s => execTargetedSelfTest_frame _ _ s
  | .selfTestVerdict .., s => execSelfTestVerdict_frame _ _ _ _ s
  | .migrationStart .., s => execMigrationStart_frame _ _ _ s
  | .migrationSwitch .., s => execMigrationSwitch_frame _ _ s
  | .speculativeReadIssue .., s => execSpeculativeReadIssue_frame _ _ _ s
  | .speculativeScanLaunch .., s => execSpeculativeScanLaunch_frame _ _ _ s
  | .distanceTableSend .., s => execDistanceTableSend_frame _ _ s
  | .selectionFinal .., s => execSelectionFinal_frame _ _ s
  | .codewordEvaluate .., s => execCodewordEvaluate_frame _ _ _ _ _ s
  | .mergerCandidate .., s => execMergerCandidate_frame _ _ _ s
  | .scanEnd .., s => execScanEnd_frame _ _ _ s
  | .rerank .., s => execRerank_frame _ _ s
  | .nandOpStart .., s => execNandOpStart_frame _ _ s
  | .nandReadDone .., s => execNandReadDone_frame _ _ s
  | .recoveryLadderStep .., s => execRecoveryLadderStep_frame _ _ _ s
  | .readAroundErase .., s => execReadAroundErase_frame _ _ _ _ _ s
  | .nandProgramDone .., s => execNandProgramDone_frame _ _ s
  | .nandEraseDone .., s => execNandEraseDone_frame _ _ s
  | .nandReset, s => execNandReset_frame s
  | .patrolRead .., s => execPatrolRead_frame _ _ _ _ _ s
  | .blockRefresh .., s => execBlockRefresh_frame _ _ s
  | .readOffsetCalibration .., s => execReadOffsetCalibration_frame _ _ _ s
  | .garbageCollection .., s => execGarbageCollection_frame _ _ _ _ s
  | .wearLeveling .., s => execWearLeveling_frame _ _ s
  | .writeAdmit, s => execWriteAdmit_frame s
  | .storeOpStart .., s => execStoreOpStart_frame _ s
  | .storeEraseDone .., s => execStoreEraseDone_frame _ s
  | .controlSectorSwitch, s => execControlSectorSwitch_frame s
  | .gapAdvance, s => execGapAdvance_frame s
  | .programLoad .., s => execProgramLoad_frame _ _ s
  | .portTrained .., s => execPortTrained_frame _ _ s
  | .peerPresChange .., s => execPeerPresChange_frame _ _ s
  | .peerAlertPulse .., s => execPeerAlertPulse_frame _ s
  | .peerAlertStuck .., s => execPeerAlertStuck_frame _ s
  | .hello port gid size member pport incarnation fw, s => execHello_frame port gid size member pport incarnation fw s
  | .heartbeatSend, s => execHeartbeatSend_frame s
  | .heartbeat src incarnation gstate lost epoch time, s => execHeartbeat_frame src incarnation gstate lost epoch time s
  | .heartbeatWindowEnd, s => execHeartbeatWindowEnd_frame s
  | .memberLost .., s => execMemberLost_frame _ s
  | .groupReform, s => execGroupReform_frame s
  | .formingTimeout, s => execFormingTimeout_frame s
  | .idle .., s => execIdle_frame _ s
  | .flitReceive .., s => execFlitReceive_frame _ _ s
  | .nak .., s => execNak_frame _ _ s
  | .portRetrain .., s => execPortRetrain_frame _ s
  | .post .., s => execPost_frame _ _ s
  | .gather .., s => execGather_frame _ _ _ _ _ s
  | .reduce .., s => execReduce_frame _ _ _ _ _ s
  | .envelope .., s => execEnvelope_frame _ _ _ _ _ s
  | .abort src opId status, s => execAbort_frame src opId status s
  | .msgNak .., s => execMsgNak_frame _ _ _ _ _ s
  | .messageCopyExpiry, s => execMessageCopyExpiry_frame s
  | .peerProgressTimeout .., s => execPeerProgressTimeout_frame _ s
  | .nvmeSqDoorbell .., s => execNvmeSqDoorbell_frame _ _ _ _ s
  | .lowPowerWake, s => execLowPowerWake_frame s
  | .createIoSubmissionQueue .., s => execCreateIoSubmissionQueue_frame _ _ _ _ s
  | .createIoCompletionQueue .., s => execCreateIoCompletionQueue_frame _ _ _ _ _ s
  | .deleteIoSubmissionQueue .., s => execDeleteIoSubmissionQueue_frame _ _ s
  | .deleteIoCompletionQueue .., s => execDeleteIoCompletionQueue_frame _ _ s
  | .identify .., s => execIdentify_frame _ _ _ s
  | .nvmeAbort .., s => execNvmeAbort_frame _ _ _ s
  | .getFeatures .., s => execGetFeatures_frame _ _ _ _ s
  | .setArbitration .., s => execSetArbitration_frame _ _ s
  | .setPowerManagement .., s => execSetPowerManagement_frame _ _ s
  | .lowPowerEntry, s => execLowPowerEntry_frame s
  | .setTemperatureThreshold .., s => execSetTemperatureThreshold_frame _ _ s
  | .setVolatileWriteCache .., s => execSetVolatileWriteCache_frame _ _ s
  | .setNumberOfQueues .., s => execSetNumberOfQueues_frame _ _ s
  | .setInterruptCoalescing .., s => execSetInterruptCoalescing_frame _ _ s
  | .setInterruptVectorConfiguration .., s => execSetInterruptVectorConfiguration_frame _ _ s
  | .setWriteAtomicityNormal .., s => execSetWriteAtomicityNormal_frame _ _ s
  | .setAsyncEventConfiguration .., s => execSetAsyncEventConfiguration_frame _ _ s
  | .setApst .., s => execSetApst_frame _ _ _ s
  | .apstIdleExpiry, s => execApstIdleExpiry_frame s
  | .setTimestamp .., s => execSetTimestamp_frame _ _ s
  | .lacunaRelease .., s => execLacunaRelease_frame _ _ s
  | .asyncEventRequest .., s => execAsyncEventRequest_frame _ s
  | .getLogErrorInformation .., s => execGetLogErrorInformation_frame _ _ _ s
  | .getLogSmartHealth .., s => execGetLogSmartHealth_frame _ _ _ s
  | .getLogFirmwareSlot .., s => execGetLogFirmwareSlot_frame _ _ _ s
  | .getLogChangedNamespace .., s => execGetLogChangedNamespace_frame _ _ _ s
  | .getLogCommandsSupported .., s => execGetLogCommandsSupported_frame _ _ _ s
  | .getLogSanitizeStatus .., s => execGetLogSanitizeStatus_frame _ _ _ s
  | .getLogLacuna .., s => execGetLogLacuna_frame _ _ _ _ _ s
  | .getLogColophonStatistics .., s => execGetLogColophonStatistics_frame _ _ _ _ s
  | .getLogAbortList .., s => execGetLogAbortList_frame _ _ _ _ s
  | .namespaceManagementCreate .., s => execNamespaceManagementCreate_frame _ _ _ _ s
  | .namespaceManagementDelete .., s => execNamespaceManagementDelete_frame _ s
  | .namespaceAttachment .., s => execNamespaceAttachment_frame _ _ _ s
  | .firmwareImageDownload .., s => execFirmwareImageDownload_frame _ _ _ s
  | .firmwareCommit .., s => execFirmwareCommit_frame _ _ _ _ s
  | .formatNvm .., s => execFormatNvm_frame _ _ _ _ _ s
  | .securitySend .., s => execSecuritySend_frame _ _ s
  | .securityReceive .., s => execSecurityReceive_frame _ _ s
  | .sanitizeBlockErase .., s => execSanitizeBlockErase_frame _ s
  | .sanitizeCryptoErase .., s => execSanitizeCryptoErase_frame _ s
  | .sanitizeDone, s => execSanitizeDone_frame s
  | .flush .., s => execFlush_frame _ s
  | .write .., s => execWrite_frame _ _ _ _ _ _ _ _ s
  | .read .., s => execRead_frame _ _ _ _ _ _ _ _ s
  | .compare .., s => execCompare_frame _ _ _ _ s
  | .writeZeroes .., s => execWriteZeroes_frame _ _ _ _ s
  | .datasetManagementDeallocate .., s => execDatasetManagementDeallocate_frame _ _ s
  | .verify .., s => execVerify_frame _ _ _ _ _ s
  | .cacheCommitStart .., s => execCacheCommitStart_frame _ _ _ _ s
  | .shutdownNotification fn abrupt, s => execShutdownNotification_frame fn abrupt s
  | .miReadDataStructure .., s => execMiReadDataStructure_frame _ s
  | .miSubsystemHealthPoll, s => execMiSubsystemHealthPoll_frame s
  | .miControllerHealthPoll .., s => execMiControllerHealthPoll_frame _ s
  | .miConfigurationGet .., s => execMiConfigurationGet_frame _ s
  | .miConfigurationSet .., s => execMiConfigurationSet_frame _ _ s
  | .miVpdRead off len, s => execMiVpdRead_frame off len s
  | .miTunneledIdentify .., s => execMiTunneledIdentify_frame _ s
  | .miTunneledGetLogPage .., s => execMiTunneledGetLogPage_frame _ s
  | .miErrorLogRead .., s => execMiErrorLogRead_frame _ _ s
  | .hostLinkReturn, s => execHostLinkReturn_frame s
  | .dieRecoveryOverrun .., s => execDieRecoveryOverrun_frame _ s
  | .auxiliaryRailLoss, s => execAuxiliaryRailLoss_frame s
  | .holdUpEnergyExhausted .., s => execHoldUpEnergyExhausted_frame _ s
  | .peerAlertReturnsHigh .., s => execPeerAlertReturnsHigh_frame _ s
  | .peerLanesLeaveElectricalIdle .., s => execPeerLanesLeaveElectricalIdle_frame _ s
  | .storePageProgramDone, s => execStorePageProgramDone_frame s
  | .patrolScrub .., s => execPatrolScrub_frame _ _ s
  | .ledToggle, s => execLedToggle_frame s

/-- No command touches the queue. -/
theorem pending_not_touched (c : Instr) : Comp.pending ∉ touches c := by
  cases c <;> exact of_decide_eq_true rfl

/-- Settles O1: the front command runs on the queue's rest by the definition of a step. -/
theorem stepTakesFront : Obligations.StepTakesFront := fun _ _ => rfl

/-- Settles O2: the front command answers (`exec_frame`) and leaves the queue's rest as it is. -/
theorem stepAlwaysAnswers : Obligations.StepAlwaysAnswers := by
  intro s
  rcases hp : s.pending with _ | ⟨c, rest⟩
  · have hidle : step s = .next s := by simp [step, hp]
    exact ⟨⟨s, hidle, hp⟩, fun _ => hidle⟩
  · obtain ⟨t, ht, hframe⟩ := exec_frame c { s with pending := rest }
    refine ⟨⟨t, ?_, hframe.same .pending (pending_not_touched c)⟩, fun h => nomatch h⟩
    simpa [step, hp] using ht

/-- Settles O3: `exec_frame`, of the one state that the command answers. -/
theorem framesOfCommands : Obligations.FramesOfCommands := by
  intro c s t h
  obtain ⟨u, hu, hframe⟩ := exec_frame c s
  obtain rfl : u = t := Host.Outcome.next.inj (hu.symm.trans h)
  exact hframe

/-- Settles O5: right after reset every byte memory and every log is empty. -/
theorem resetMeetsInvariant : Obligations.ResetMeetsInvariant :=
  ⟨⟨rfl, fun _ ho => absurd ho List.not_mem_nil, rfl, rfl⟩, Nat.zero_le _, Nat.zero_le _, Nat.zero_le _⟩

end Sys2Proof.Proofs

namespace Sys2Proof.Machine

/-! ### Every command keeps the invariant -/

/-- A command answers a next state, and the invariant passes to it. -/
def AnswerKeeps (s : State) (o : Host.Outcome State Fault Refusal) : Prop := ∃ t : State, o = .next t ∧ Keeps s t

theorem AnswerKeeps.next {s t : State} (h : Keeps s t) : AnswerKeeps s (.next t) := ⟨t, rfl, h⟩

theorem AnswerKeeps.ite {s : State} {p : Prop} [Decidable p] {o o' : Host.Outcome State Fault Refusal} (h : AnswerKeeps s o) (h' : AnswerKeeps s o') :
    AnswerKeeps s (if p then o else o') := by
  split <;> assumption

/-- A command whose frame names nothing that the invariant speaks of. -/
theorem AnswerKeeps.ofFrame {s : State} {m : List Comp} {o : Host.Outcome State Fault Refusal}
    (h : ∃ t : State, o = .next t ∧ Frame m s t) (hm : m.any Comp.watched = false) : AnswerKeeps s o := by
  obtain ⟨t, ht, hframe⟩ := h
  exact ⟨t, ht, .ofFrame hframe hm⟩

/-- A further update that touches nothing the invariant speaks of. -/
theorem Keeps.fr {s t u : State} {m : List Comp} (h : Keeps s t) (hf : Frame m t u) (hm : m.any Comp.watched = false) : Keeps s u :=
  h.after (.ofFrame hf hm)

/-- The drive settles after a change. -/
theorem Keeps.settled {s t : State} (h : Keeps s t) : Keeps s t.settle.recheck :=
  (h.after (State.settle_keeps _)).after (State.recheck_keeps _)

/-- An NVMe command completes. -/
theorem Keeps.done {s t : State} {h : NvmeHdr} {st : NvmeSts} {dw0 lba : Nat} (hk : Keeps s t) : Keeps s (t.nvDone h st dw0 lba) :=
  hk.after (State.nvDone_keeps _ _ _ _ _)

theorem State.admin_own {s : State} (h : NvmeHdr) (op : Nat) (vf : Bool) (f : State → State) (hf : ∀ u : State, Keeps u (f u)) :
    Keeps s (s.admin h op vf f) :=
  State.admin_keeps s h op vf f (.refl s) (fun u hu => hu.after (hf u))

theorem State.setFeat_own {s : State} (h : NvmeHdr) (fid : Nat) (f : State → State) (hf : ∀ u : State, Keeps u (f u)) :
    Keeps s (s.setFeat h fid f) :=
  State.setFeat_keeps s h fid f (.refl s) (fun u hu => hu.after (hf u))

theorem State.nvm_own {s : State} (h : NvmeHdr) (op lba : Nat) (f : State → NsSt → State) (hf : ∀ (u : State) (n : NsSt), Keeps u (f u n)) :
    Keeps s (s.nvm h op lba f) :=
  State.nvm_keeps s h op lba f (.refl s) (fun u n hu => hu.after (hf u n))

theorem State.searchStep_own {s : State} (ok : Bool) (f : State → State) (hf : ∀ u : State, Keeps u (f u)) : Keeps s (s.searchStep ok f) :=
  State.searchStep_keeps s ok f (.refl s) (fun u hu => hu.after (hf u))

theorem State.onMsg_own {s : State} (src opId offset kind : Nat) (payload : List Byte) (dig mode : Nat) (f : State → GroupOp → State)
    (hf : ∀ (u : State) (o : GroupOp), Keeps u (f u o)) : Keeps s (s.onMsg src opId offset kind payload dig mode f) :=
  State.onMsg_keeps s src opId offset kind payload dig mode f (.refl s) (fun u o hu => hu.after (hf u o))

theorem execPowerOnReset_keeps (rail12 rail33 : Bool) (s : State) : AnswerKeeps s (execPowerOnReset rail12 rail33 s) := by
  unfold execPowerOnReset
  extract_lets rails
  have hrails (u : State) : Keeps u (rails u) := .ofFrame (State.modPower_frame _ _) rfl
  have hfail : Keeps s ((rails (s.putRecord s.failRecord).nandReset).powerOn 1) :=
    (((Keeps.ofFrame (State.putRecord_frame _ _) rfl).fr (State.nandReset_frame _) rfl).after (hrails _)).after (State.powerOn_keeps _ _)
  have hon : Keeps s ((rails s).powerOn 1) := (hrails s).after (State.powerOn_keeps _ _)
  cases s.power.mode
  case failing | pwrdis => exact .next (hrails s)
  case running | perst => exact .next hfail
  case noRails | auxOnly | powerOnReset => exact .next hon

theorem execPerstDeassert_keeps (refclk : Bool) (s : State) : AnswerKeeps s (execPerstDeassert refclk s) := by
  unfold execPerstDeassert
  extract_lets s1
  have h1 : Keeps s s1 := .ofFrame (State.modPower_frame _ _) rfl
  cases s.power.mode
  case perst => exact .next (.ite h1 (State.start_keeps _ _ _))
  case powerOnReset => exact .next (State.start_keeps _ _ _)
  case running => exact .next (.refl s)
  case noRails | auxOnly | failing | pwrdis => exact .next h1

theorem execFlr_keeps (fn : Nat) (s : State) : AnswerKeeps s (execFlr fn s) :=
  .ite
    (.ite
      (.next (.foldl _ ((State.clearControllers_keeps _ _).after (State.clearSelects_keeps _))
        (fun _ _ h => h.fr (State.resetCtx_frame _ _ _) rfl)))
      (.next ((State.clearController_keeps _ _ _).fr (State.resetCtx_frame _ _ _) rfl)))
    (.next (.refl s))

theorem execHostLinkLoss_keeps (s : State) : AnswerKeeps s (execHostLinkLoss s) :=
  .ite
    (.next (.foldl _
      ((((Keeps.ofFrame (State.modPower_frame _ _) rfl).after (State.clearControllers_keeps _ _)).after (State.clearSelects_keeps _)).after
        (State.abortKci_keeps _ _ _))
      (fun _ _ h => h.after (State.endSoft_keeps _ _ _ _))))
    (.next (.refl s))

theorem execDieRecoveryDone_keeps (die : Nat) (s : State) : AnswerKeeps s (execDieRecoveryDone die s) := by
  unfold execDieRecoveryDone
  extract_lets s1
  have h1 : Keeps s s1 := .ofFrame (State.modPower_frame _ _) rfl
  exact .ite
    (.ite (.next h1.settled)
      (.ite (.next (h1.after (State.start_keeps _ _ _))) (.ite (.next (h1.after (State.start_keeps _ _ _))) (.next h1))))
    (.next (.refl s))

theorem execThermalSample_keeps (tj tn : List Int) (s : State) : AnswerKeeps s (execThermalSample tj tn s) := by
  unfold execThermalSample
  extract_lets s1 s2 j n now s3 place pack
  have h3 : Keeps s s3 :=
    ((Keeps.ofFrame (State.modTime_frame _ _) rfl).fr (State.modPower_frame _ _) rfl).fr (State.modPower_frame _ _) rfl
  exact .ite (.next (.refl s)) (.next (h3.after (State.relevel_keeps _ _)))

theorem execThermalLevelExit_keeps (s : State) : AnswerKeeps s (execThermalLevelExit s) :=
  .ite (.next ((Keeps.ofFrame (State.modPower_frame _ _) rfl).after (State.relevel_keeps _ _))) (.next (.refl s))

theorem execHoldupCheckDone_keeps (dtUs : Nat) (s : State) : AnswerKeeps s (execHoldupCheckDone dtUs s) := by
  unfold execHoldupCheckDone
  extract_lets bad s1 s2
  have h1 : Keeps s s1 := .ofFrame (State.modPower_frame _ _) rfl
  have h2 : Keeps s s2 := .ite (h1.after (State.logErr_keeps _ _)) h1
  exact .ite (.next (h2.after (State.noteCritical_keeps _ _))) (.next (.refl s))

theorem execOscillatorWatch_keeps (region duty jitter ticks : Nat) (s : State) : AnswerKeeps s (execOscillatorWatch region duty jitter ticks s) :=
  .ite (.next ((Keeps.ofFrame (State.modRegion_frame _ _ _) rfl).after (State.logTest_keeps _ _ _ _))) (.next (.refl s))

theorem execMarginSample_keeps (region slack : Nat) (s : State) : AnswerKeeps s (execMarginSample region slack s) := by
  unfold execMarginSample
  extract_lets s1
  have h1 : Keeps s s1 := .ofFrame (State.modRegion_frame _ _ _) rfl
  have hregion (f : Region → Region) : Keeps s (s1.modRegion region f) := h1.fr (State.modRegion_frame _ _ _) rfl
  exact .ite
    (.next (.ite h1 (.ite ((hregion _).fr (State.askVolt_frame _ _) rfl)
      (.ite ((hregion _).fr (State.askVolt_frame _ _) rfl) ((hregion _).after (State.logTest_keeps _ _ _ _))))))
    (.next (.refl s))

theorem execLastingMarginFault_keeps (region : Nat) (s : State) : AnswerKeeps s (execLastingMarginFault region s) := by
  unfold execLastingMarginFault
  extract_lets s1
  have h1 : Keeps s s1 := (Keeps.ofFrame (State.modRegion_frame _ _ _) rfl).after (State.logErr_keeps _ _)
  refine .ite (.next ?_) (.next (.refl s))
  split
  · exact .ite h1 (h1.after (State.retireArray_keeps _ _))
  · exact h1.after (State.recover_keeps _ _ _)

theorem execMonitorRefresh_keeps (rates : List Nat) (s : State) : AnswerKeeps s (execMonitorRefresh rates s) := by
  unfold execMonitorRefresh
  extract_lets volt rate s1 slow s2
  have h2 : Keeps s s2 := .foldl _ (.ofFrame (State.modTime_frame _ _) rfl) (fun _ _ h => h.fr (State.breach_frame _ _) rfl)
  refine .ite (.next (.refl s)) (.next ?_)
  cases slow
  case nil => exact h2
  case cons => exact (h2.fr (State.modPower_frame _ _) rfl).after (State.relevel_keeps _ _)

theorem execPowerMonitorRefresh_keeps (draws : List Nat) (s : State) : AnswerKeeps s (execPowerMonitorRefresh draws s) :=
  .ite
    (.next (Keeps.fr (.foldl _ (.ofFrame (State.modPower_frame _ _) rfl) (fun _ _ h => .ite (h.after (State.asyncEvent_keeps _ _ _)) h))
      (State.regulate_frame _) rfl))
    (.next (.refl s))

theorem execRegisterWrite_keeps (fn off size : Nat) (value : BitVec 64) (s : State) : AnswerKeeps s (execRegisterWrite fn off size value s) := by
  unfold execRegisterWrite
  refine .ite (.next (.refl s)) ?_
  split
  · exact .next (.ite ((State.wake_keeps _).after (State.slotWrite_keeps _ _ _ _ _)) (.refl s))
  · exact .ite (.next (State.writeReg_keeps _ _ _ _))
      (.ite (.next ((State.writeReg_keeps _ _ _ _).after (State.writeReg_keeps _ _ _ _))) (.next (.refl s)))

theorem execCompletionPost_keeps (ctx queue : Nat) (dmaFault : Option Nat) (s : State) : AnswerKeeps s (execCompletionPost ctx queue dmaFault s) := by
  unfold execCompletionPost
  split
  · refine .ite (.next (.refl s)) ?_
    cases dmaFault
    case some => exact .next (State.unwritable_keeps _ _ _).settled
    case none => exact .next (State.post_keeps _ _ _).settled
  · exact .next (.refl s)

theorem execLedgerPeriodClose_keeps (s : State) : AnswerKeeps s (execLedgerPeriodClose s) :=
  .ite (.next (((State.addClosed_keeps _ _).fr (State.modStore_frame _ _) rfl).after (State.openPeriod_keeps _ _))) (.next (.refl s))

/-- R434: the ring keeps the last 65,536 records. -/
theorem execErrorLogFlush_keeps (s : State) : AnswerKeeps s (execErrorLogFlush s) := by
  refine .ite (.next (Keeps.fr ?_ (State.modStore_frame _ _) rfl)) (.next (.refl s))
  rintro ⟨hmem, hstaging, hring, hledger⟩
  refine ⟨hmem, Nat.zero_le _, ?_, hledger⟩
  simp only [State.modErrs, List.length_drop, List.length_append]
  omega

theorem execSelfTestVerdict_keeps (kind index reproduced axis : Nat) (s : State) :
    AnswerKeeps s (execSelfTestVerdict kind index reproduced axis s) := by
  unfold execSelfTestVerdict
  split
  · exact .next (.refl s)
  · extract_lets lasting s1 s2 s3
    have h1 : Keeps s s1 := id
    have h2 : Keeps s s2 := (h1.modNvme rfl rfl).after (State.logVerdict_keeps _ _ _)
    have h3 : Keeps s s3 := .ite (h2.after (State.retireUnit_keeps _ _ _)) h2
    exact .ite (.next (.refl s)) (.next (Keeps.after (.ite (h3.fr (State.returnArray_frame _ _) rfl) h3) (State.noteCritical_keeps _ _)))

/-- A change of an object's record that leaves its data. -/
theorem Keeps.sameData {s : State} {o : Nat} {x y : ObjectSt} (hx : s.obj? o = some x) (hy : y.data = x.data) : Keeps s (s.setObj o y) :=
  fun hinv => (Keeps.refl s).setObj (hy ▸ hinv.1.2.1 _ (mem_of_tfind hx)) hinv

theorem execMigrationStart_keeps (obj page tier : Nat) (s : State) : AnswerKeeps s (execMigrationStart obj page tier s) := by
  unfold execMigrationStart
  split
  · exact .next (.refl s)
  · rename_i x hx
    split
    · exact .next (.refl s)
    · exact .ite (.next (.sameData hx rfl)) (.next (.refl s))

theorem execMigrationSwitch_keeps (obj page : Nat) (s : State) : AnswerKeeps s (execMigrationSwitch obj page s) := by
  unfold execMigrationSwitch
  split
  · exact .next (.refl s)
  · rename_i x hx
    split
    · exact .next (.refl s)
    · split
      · exact .next (.refl s)
      · exact .next (.ite (.sameData hx rfl) (.refl s))

theorem execSpeculativeReadIssue_keeps (uid obj page : Nat) (s : State) : AnswerKeeps s (execSpeculativeReadIssue uid obj page s) := by
  unfold execSpeculativeReadIssue
  split
  · rename_i c x hc hx
    split
    · exact .next (.refl s)
    · exact .ite (.next (.sameData hx rfl)) (.next (.refl s))
  · exact .next (.refl s)

theorem execNandReadDone_keeps (die : Nat) (cws : List CwRead) (s : State) : AnswerKeeps s (execNandReadDone die cws s) := by
  unfold execNandReadDone
  split
  · exact .next (.refl s)
  · exact .next (.ite (State.readPage_keeps _ _ _ _) (.refl s))

theorem execRecoveryLadderStep_keeps (die cw : Nat) (ok : Bool) (s : State) : AnswerKeeps s (execRecoveryLadderStep die cw ok s) := by
  unfold execRecoveryLadderStep
  split
  · exact .ite (.next (.refl s))
      (.ite
        (.next ((((Keeps.ofFrame (State.countLadder_frame _ _) rfl).fr (State.modBlock_frame _ _ _ _) rfl).after (State.deliver_keeps _ _ _)).fr
          (State.offLadder_frame _ _ _) rfl))
        (.ite (.next (.ofFrame (State.modDie_frame _ _ _) rfl))
          (.next ((State.uncorrectable_keeps _ _ _ _).fr (State.offLadder_frame _ _ _) rfl))))
  · exact .next (.refl s)

theorem execReadAroundErase_keeps (die block page cw : Nat) (bad : List Nat) (s : State) :
    AnswerKeeps s (execReadAroundErase die block page cw bad s) := by
  unfold execReadAroundErase
  extract_lets g dies hit
  split
  · exact .next (.refl s)
  · exact .ite (.next ((Keeps.ofFrame (State.modDie_frame _ _ _) rfl).after (State.deliver_keeps _ _ _))) (.next (.refl s))

theorem execNandProgramDone_keeps (die : Nat) (ok : Bool) (s : State) : AnswerKeeps s (execNandProgramDone die ok s) := by
  unfold execNandProgramDone
  extract_lets g i
  split
  · exact .next (.refl s)
  · have h1 : Keeps s (s.modDie die (fun d => { d with busy := none })) := .ofFrame (State.modDie_frame _ _ _) rfl
    split
    · exact .next (.refl s)
    · exact .next (.refl s)
    · exact .next (.ite (h1.fr (State.modGroup_frame _ _ _) rfl) (h1.after (State.logNand_keeps _ _ _ _ _)))
    · exact .ite
        (.next (((h1.fr (State.modNand_frame _ _) rfl).fr (State.countCommitted_frame _ _ _ _ _) rfl).after (State.commitRow_keeps _ _ _ _)))
        (.next ((h1.fr (State.modBlock_frame _ _ _ _) rfl).after (State.logNand_keeps _ _ _ _ _)))

theorem execNandEraseDone_keeps (die : Nat) (ok : Bool) (s : State) : AnswerKeeps s (execNandEraseDone die ok s) := by
  unfold execNandEraseDone
  extract_lets g i
  split
  · exact .next (.refl s)
  · extract_lets s1
    have h1 : Keeps s s1 := (Keeps.ofFrame (State.modDie_frame _ _ _) rfl).fr (State.modGroup_frame _ _ _) rfl
    exact .ite (.next (.refl s))
      (.ite (.next ((h1.fr (State.modBlock_frame _ _ _ _) rfl).fr (State.dropRows_frame _ _ _ _) rfl))
        (.next (((h1.fr (State.modBlock_frame _ _ _ _) rfl).fr (State.dueErase_frame _ _ _) rfl).after (State.logNand_keeps _ _ _ _ _))))

theorem execPatrolRead_keeps (die block page : Nat) (cws : List CwRead) (last : Bool) (s : State) :
    AnswerKeeps s (execPatrolRead die block page cws last s) := by
  unfold execPatrolRead
  extract_lets r s1
  have h1 : Keeps s s1 := (Keeps.ofFrame (State.modBlock_frame _ _ _ _) rfl).after (State.readPage_keeps _ _ _ _)
  exact .ite (.next (.ite (h1.fr (State.modDie_frame _ _ _) rfl) h1)) (.next (.refl s))

theorem execGarbageCollection_keeps (group free : Nat) (reclaimable : Bool) (victim : Option Nat) (s : State) :
    AnswerKeeps s (execGarbageCollection group free reclaimable victim s) := by
  unfold execGarbageCollection
  extract_lets st s1 s2 s3
  have h1 : Keeps s s1 := .ofFrame (State.modGroup_frame _ _ _) rfl
  have h2 : Keeps s s2 := by
    cases victim
    case none => exact h1
    case some => exact .ite (h1.fr (State.releaseStripe_frame _ _ _) rfl) h1
  have h3 : Keeps s s3 := .ite (h2.modNvme rfl rfl) h2
  exact .ite (.next (h3.after (State.noteCritical_keeps _ _))) (.next (.refl s))

theorem execWriteAdmit_keeps (s : State) : AnswerKeeps s (execWriteAdmit s) := by
  unfold execWriteAdmit
  split
  · exact .next (.refl s)
  · exact .ite (.next (((Keeps.refl s).modNvme rfl rfl).after (State.admitPieces_keeps _ _))) (.next (.refl s))

theorem execProgramLoad_keeps (obj : Nat) (reads : List Bool) (s : State) : AnswerKeeps s (execProgramLoad obj reads s) := by
  unfold execProgramLoad
  split
  · exact .next (.refl s)
  · rename_i x hx
    split
    · exact .next (.refl s)
    · extract_lets idle s1 good s2 needs uids
      have h1 : Keeps s s1 := .ofFrame (State.modStore_frame _ _) rfl
      have hx1 : s1.obj? obj = some x := hx
      have hprog (p : Option ProgSt) : Keeps s (s1.setObj obj { x with prog := p }) := h1.after (.sameData hx1 rfl)
      have h2 : Keeps s s2 := (hprog _).after (State.logErr_keeps _ _)
      exact .ite (.next (.refl s)) (.ite (.next (hprog _))
        (.ite (.next (.refl s)) (.next ((h2.fr (State.endOps_frame _ _ _) rfl).after (State.concludeAll_keeps _ _ _)).settled)))

theorem execPortTrained_keeps (port lanes : Nat) (s : State) : AnswerKeeps s (execPortTrained port lanes s) := by
  unfold execPortTrained
  extract_lets alive good failed s1 mask s2
  have h1 : Keeps s s1 := .foldl _ (.refl s) (fun _ _ h => h.after (State.logTest_keeps _ _ _ _))
  exact .ite
    (.ite (.next (h1.fr (State.modPort_frame _ _ _) rfl)) (.next ((h1.fr (State.modPort_frame _ _ _) rfl).fr (State.modPeer_frame _ _) rfl)))
    (.next (.refl s))

theorem execHello_keeps (port gid size member pport incarnation fw : Nat) (s : State) :
    AnswerKeeps s (execHello port gid size member pport incarnation fw s) :=
  .ite
    (.ite (.next ((Keeps.ofFrame (State.modPort_frame _ _ _) rfl).fr (State.modPeer_frame _ _) rfl))
      (.next ((Keeps.ofFrame (State.modPort_frame _ _ _) rfl).after (State.logPort_keeps _ _ _))))
    (.next (.refl s))

theorem execHeartbeat_keeps (src incarnation gstate lost epoch time : Nat) (s : State) :
    AnswerKeeps s (execHeartbeat src incarnation gstate lost epoch time s) :=
  .ite
    (.next (.ite ((Keeps.ofFrame (State.modPeer_frame _ _) rfl).after (State.degrade_keeps _))
      ((Keeps.ofFrame (State.modPeer_frame _ _) rfl).after (State.form_keeps _))))
    (.next (.refl s))

theorem execGather_keeps (src opId offset : Nat) (payload : List Byte) (digest : Nat) (s : State) :
    AnswerKeeps s (execGather src opId offset payload digest s) := by
  refine .next (State.onMsg_own _ _ _ _ _ _ _ _ (fun u o => ?_))
  split
  · exact .ite (.refl u) (State.failOp_keeps _ _ _)
  · split
    · exact .refl u
    · split
      · exact .refl u
      · exact .ite ((State.objWrite_keeps _ _ _ _).fr (State.modOp_frame _ _ _) rfl).settled (.refl u)

theorem execAbort_keeps (src opId status : Nat) (s : State) : AnswerKeeps s (execAbort src opId status s) := by
  unfold execAbort
  extract_lets
  refine .ite (.next (.refl s)) (.ite (.next (.ofFrame (State.countStale_frame _ _) rfl)) ?_)
  split
  · exact .next (.refl s)
  · exact .next ((Keeps.ofFrame (State.modPeer_frame _ _) rfl).after (State.failOp_keeps _ _ _))

theorem execMsgNak_keeps (src opId offset kind len16 : Nat) (s : State) : AnswerKeeps s (execMsgNak src opId offset kind len16 s) := by
  unfold execMsgNak
  refine .ite (.next (.refl s)) (.ite (.next (.ofFrame (State.countStale_frame _ _) rfl)) ?_)
  split
  · exact .next (.ofFrame (State.modPeer_frame _ _) rfl)
  · split
    · exact .next (.refl s)
    · exact .next (State.failOp_keeps _ _ _)

theorem execPeerProgressTimeout_keeps (uid : Nat) (s : State) : AnswerKeeps s (execPeerProgressTimeout uid s) := by
  unfold execPeerProgressTimeout
  split
  · exact .next (.refl s)
  · exact .next (.ite (State.failOp_keeps _ _ _) (.refl s))

theorem execNvmeSqDoorbell_keeps (fn sqid tail : Nat) (cmds : List (Nat × Nat)) (s : State) :
    AnswerKeeps s (execNvmeSqDoorbell fn sqid tail cmds s) := by
  unfold execNvmeSqDoorbell
  extract_lets free count
  have hfetch {u : State} (q : Nat) (hu : Keeps s u) : Keeps s (cmds.foldl (fun s c => s.fetchNvme fn q c) u) :=
    .foldl _ hu (fun _ _ h => h.after (State.fetchNvme_keeps _ _ _ _))
  refine .ite (.ite (.next (hfetch 0 (State.wake_keeps s))) ?_) (.next (.refl s))
  split
  · exact .next (.refl s)
  · exact .ite (.next (.refl s)) (.next (hfetch sqid ((State.wake_keeps s).after (State.modCtl_keeps _ _ _))))

theorem execIdentify_keeps (h : NvmeHdr) (cns dst : Nat) (s : State) : AnswerKeeps s (execIdentify h cns dst s) := by
  refine .next (State.admin_own _ _ _ _ (fun u => .ite (State.nvDone_keeps _ _ _ _ _) ?_))
  split
  · exact State.sendPage_keeps _ _ _ _
  · exact State.nvDone_keeps _ _ _ _ _

theorem execGetFeatures_keeps (h : NvmeHdr) (fid cdw11 dst : Nat) (s : State) : AnswerKeeps s (execGetFeatures h fid cdw11 dst s) := by
  refine .next (State.admin_own _ _ _ _ (fun u => ?_))
  have hdone (v : Nat) : Keeps u (u.nvDone h nvOk v 0) := State.nvDone_keeps _ _ _ _ _
  have hbytes (bs : List Byte) (v : Nat) : Keeps u ((u.hostWrite dst bs).nvDone h nvOk v 0) := (State.hostWrite_keeps _ _ _).done
  exact .ite (hdone _) (.ite (hdone _) (.ite (hdone _) (.ite (hbytes _ _) (.ite (hbytes _ _) (.ite (hdone _) (.ite (hdone _) (.ite (hdone _)
    (.ite (hdone _) (State.nvDone_keeps _ _ _ _ _)))))))))

theorem execSetTimestamp_keeps (h : NvmeHdr) (ms : Nat) (s : State) : AnswerKeeps s (execSetTimestamp h ms s) := by
  refine .next (State.setFeat_own _ _ _ (fun u => ?_))
  extract_lets v back s1 s2
  have h1 : Keeps u s1 := State.modCtl_keeps _ _ _
  have h2 : Keeps u s2 := .ite (h1.modLedger rfl) h1
  exact h2.done

theorem execLacunaRelease_keeps (h : NvmeHdr) (seq : Nat) (s : State) : AnswerKeeps s (execLacunaRelease h seq s) := by
  refine .next (State.setFeat_own _ _ _ (fun u => ?_))
  split
  · exact State.nvDone_keeps _ _ _ _ _
  · extract_lets rest names s1 s2 s3 s4
    have h1 : Keeps u s1 := .ofFrame (State.modStore_frame _ _) rfl
    have h2 : Keeps u s2 := .foldl _ h1 (fun _ _ h => (h.fr (State.queueErase_frame _ _) rfl).fr (State.queueErase_frame _ _) rfl)
    have h3 : Keeps u s3 := h2.tmapObjs (fun _ _ => by split <;> rfl)
    have h4 : Keeps u s4 := .ite h3 (h3.fr (State.modStore_frame _ _) rfl)
    exact h4.done

theorem execAsyncEventRequest_keeps (h : NvmeHdr) (s : State) : AnswerKeeps s (execAsyncEventRequest h s) := by
  refine .next (State.admin_own _ _ _ _ (fun u => .ite (State.nvDone_keeps _ _ _ _ _) ?_))
  split
  · exact (State.modCtl_keeps _ _ _).done
  · exact State.modCtl_keeps _ _ _

theorem execGetLogAbortList_keeps (h : NvmeHdr) (lsf dst len : Nat) (s : State) : AnswerKeeps s (execGetLogAbortList h lsf dst len s) :=
  .next (State.admin_own _ _ _ _ (fun u =>
    Keeps.after (.ite (State.modCtl_keeps _ _ _) (.refl u)) (State.sendLog_keeps _ _ _ _ _ _)))

theorem execNamespaceManagementCreate_keeps (h : NvmeHdr) (nsze flbas pi : Nat) (s : State) :
    AnswerKeeps s (execNamespaceManagementCreate h nsze flbas pi s) := by
  refine .next (State.admin_own _ _ _ _ (fun u => ?_))
  have hend (st : NvmeSts) : Keeps u (u.nvDone h st 0 0) := State.nvDone_keeps _ _ _ _ _
  refine .ite (hend _) (.ite (hend _) (.ite (hend _) ?_))
  split
  · exact hend _
  · exact ((Keeps.refl u).modNvme rfl rfl).done

theorem execNamespaceManagementDelete_keeps (h : NvmeHdr) (s : State) : AnswerKeeps s (execNamespaceManagementDelete h s) :=
  .next (State.admin_own _ _ _ _ (fun u =>
    .ite (Keeps.foldl _ (.refl u) (fun _ _ h => h.after (State.deleteNs_keeps _ _))).done
      (.ite (State.nvDone_keeps _ _ _ _ _) (State.deleteNs_keeps _ _).done)))

theorem execNamespaceAttachment_keeps (h : NvmeHdr) (attach : Bool) (ctrls : List Nat) (s : State) :
    AnswerKeeps s (execNamespaceAttachment h attach ctrls s) := by
  refine .next (State.admin_own _ _ _ _ (fun u => ?_))
  have hend (st : NvmeSts) : Keeps u (u.nvDone h st 0 0) := State.nvDone_keeps _ _ _ _ _
  split
  · exact hend _
  · exact .ite (hend _) (.ite (hend _) (.ite (hend _) (((Keeps.refl u).modNvme rfl rfl).after (State.nsChanged_keeps _ _ _)).done))

theorem execFirmwareImageDownload_keeps (h : NvmeHdr) (off : Nat) (data : List Byte) (s : State) :
    AnswerKeeps s (execFirmwareImageDownload h off data s) :=
  .next (State.admin_own _ _ _ _ (fun u =>
    .ite (State.nvDone_keeps _ _ _ _ _) ((Keeps.refl u).modNvmeWf id (fun hbuf => mwrite_wf _ _ hbuf)).done))

theorem execFirmwareCommit_keeps (h : NvmeHdr) (action slot : Nat) (img : FwImage) (s : State) :
    AnswerKeeps s (execFirmwareCommit h action slot img s) := by
  refine .next (State.admin_own _ _ _ _ (fun u => ?_))
  have hend (st : NvmeSts) : Keeps u (u.nvDone h st 0 0) := State.nvDone_keeps _ _ _ _ _
  have hslot (b : Bool) (n : Nat) : Keeps u (u.setSlot b n) := .ofFrame (State.setSlot_frame _ _ _) rfl
  refine .ite (hend _) (.ite (hend _) (.ite (hend _) (.ite ?_ ((hslot _ _).fr (State.modStore_frame _ _) rfl))))
  split
  · exact hend _
  · exact .ite (hend _) (.ite (hend _) (hslot _ _).done)

theorem execFormatNvm_keeps (h : NvmeHdr) (lbaf pi ses : Nat) (ext : Bool) (s : State) : AnswerKeeps s (execFormatNvm h lbaf pi ses ext s) := by
  refine .next (State.admin_own _ _ _ _ (fun u => ?_))
  have hend (st : NvmeSts) : Keeps u (u.nvDone h st 0 0) := State.nvDone_keeps _ _ _ _ _
  extract_lets ids s1
  have h1 : Keeps u s1 := .foldl _ (.refl u) (fun _ _ h => h.after (State.dropNsCache_keeps _ _))
  exact .ite (hend _) (.ite (hend _) (.ite (hend _) (h1.modNvme rfl rfl).done))

theorem execSecuritySend_keeps (h : NvmeHdr) (cmd : OpalCmd) (s : State) : AnswerKeeps s (execSecuritySend h cmd s) := by
  refine .next (State.admin_own _ _ _ _ (fun u => ?_))
  have hend (st : NvmeSts) : Keeps u (u.nvDone h st 0 0) := State.nvDone_keeps _ _ _ _ _
  cases cmd
  case setRange | setLocks => exact .ite (hend _) ((Keeps.refl u).modNvme rfl rfl).done
  case genKey => exact .ite (hend _) (((Keeps.refl u).modNvme rfl rfl).fr (State.drawn_frame _) rfl).done
  case setMbr => exact ((Keeps.refl u).modNvme rfl rfl).done
  case writeMbr => exact .ite (hend _) ((Keeps.refl u).modNvmeWf (fun hmbr => mwrite_wf _ _ hmbr) id).done

theorem execSanitizeDone_keeps (s : State) : AnswerKeeps s (execSanitizeDone s) := by
  unfold execSanitizeDone
  extract_lets s1
  have h1 : Keeps s s1 := (Keeps.refl s).modNvme rfl rfl
  exact .ite (.next (.ite (h1.fr (State.modNand_frame _ _) rfl) h1)) (.next (.refl s))

theorem execFlush_keeps (h : NvmeHdr) (s : State) : AnswerKeeps s (execFlush h s) := by
  unfold execFlush
  extract_lets s1 mine covers waits
  have h1 : Keeps s s1 := State.begin_keeps _ _ _
  exact .ite (.next (.refl s)) (.ite (.next h1.done) (.ite (.next h1.done) (.next (.ite h1.done (h1.modNvme rfl rfl)))))

theorem execWrite_keeps (h : NvmeHdr) (slba nlb : Nat) (fua pract : Bool) (prchk : Nat) (pi : PiArgs) (data : List Byte) (s : State) :
    AnswerKeeps s (execWrite h slba nlb fua pract prchk pi data s) := by
  refine .next (State.nvm_own _ _ _ _ (fun u n => ?_))
  split
  · exact State.nvDone_keeps _ _ _ _ _
  · split
    · exact State.nvDone_keeps _ _ _ _ _
    · refine .ite (State.nvDone_keeps _ _ _ _ _) ?_
      split
      · exact State.nvDone_keeps _ _ _ _ _
      · exact State.submit_keeps _ _

theorem execRead_keeps (h : NvmeHdr) (slba nlb : Nat) (pract : Bool) (prchk : Nat) (pi : PiArgs) (dst mdst : Nat) (s : State) :
    AnswerKeeps s (execRead h slba nlb pract prchk pi dst mdst s) :=
  .next (State.nvm_own _ _ _ _ (fun u _ => State.readRange_keeps _ _ _ _ _ _ _ _ _ (.refl u) (fun _ _ hu =>
    hu.after (Keeps.done (.ite (State.hostWrite_keeps _ _ _) ((State.hostWrite_keeps _ _ _).after (State.hostWrite_keeps _ _ _)))))))

theorem execWriteZeroes_keeps (h : NvmeHdr) (slba nlb : Nat) (fua : Bool) (s : State) : AnswerKeeps s (execWriteZeroes h slba nlb fua s) := by
  refine .next (State.nvm_own _ _ _ _ (fun u n => ?_))
  split
  · exact State.nvDone_keeps _ _ _ _ _
  · split
    · exact State.nvDone_keeps _ _ _ _ _
    · exact State.submit_keeps _ _

theorem execDatasetManagementDeallocate_keeps (h : NvmeHdr) (ranges : List (Nat × Nat)) (s : State) :
    AnswerKeeps s (execDatasetManagementDeallocate h ranges s) := by
  refine .next (State.nvm_own _ _ _ _ (fun u n => .ite (State.nvDone_keeps _ _ _ _ _) (.ite (State.nvDone_keeps _ _ _ _ _) ?_)))
  split
  · exact State.nvDone_keeps _ _ _ _ _
  · exact .ite (State.nvDone_keeps _ _ _ _ _) (State.submit_keeps _ _)

theorem execStorePageProgramDone_keeps (s : State) : AnswerKeeps s (execStorePageProgramDone s) := by
  unfold execStorePageProgramDone
  split
  · exact .next (.refl s)
  · extract_lets s1
    have h1 : Keeps s s1 := .ofFrame (State.modStore_frame _ _) rfl
    refine .ite (.next (.refl s)) ?_
    split
    · exact .next (.refl s)
    · exact .next (.refl s)
    · exact .next h1
    · exact .next h1
    · exact .next h1
    · exact .next h1
    · exact .next (h1.fr (State.modTime_frame _ _) rfl)
    · exact .next (.ite h1 ((h1.fr (State.copyRecord_frame _) rfl).after (State.lacunaEvent_keeps _)))
    · split
      · exact .next h1
      · exact .next (h1.after (State.finishCommit_keeps _ _ _ _))
    · split
      · exact .next h1
      · exact .next (Keeps.settled (.ite h1 ((h1.after (finishInstall_keeps _ _)).after (State.finishBody_keeps _ _))))

theorem execPwrdisDeassert_keeps (s : State) : AnswerKeeps s (execPwrdisDeassert s) :=
  .next (.ite ((Keeps.ofFrame (State.modPower_frame _ _) rfl).after (State.powerOn_keeps _ _)) (.ofFrame (State.modPower_frame _ _) rfl))

theorem execPerstAssert_keeps (s : State) : AnswerKeeps s (execPerstAssert s) := by
  unfold execPerstAssert
  extract_lets s1
  have h1 : Keeps s s1 := .ofFrame (State.modPower_frame _ _) rfl
  exact .next (.ite (Keeps.fr (.ite h1 (h1.after (State.haltCores_keeps _))) (State.modPower_frame _ _) rfl) h1)

theorem execControllerEnable_keeps (fn : Nat) (s : State) : AnswerKeeps s (execControllerEnable fn s) := by
  unfold execControllerEnable
  extract_lets tell s1
  have h1 : Keeps s s1 := (State.modCtl_keeps _ _ _).fr (State.modPower_frame _ _) rfl
  exact .ite (.next (.ite (h1.after (State.asyncEvent_keeps _ _ _)) h1)) (.next (.refl s))

theorem execMemberLost_keeps (member : Nat) (s : State) : AnswerKeeps s (execMemberLost member s) :=
  .ite (.next ((Keeps.ofFrame (State.modPeer_frame _ _) rfl).after (State.degrade_keeps _))) (.next (.refl s))

theorem execReduce_keeps (src opId offset : Nat) (payload : List Byte) (digest : Nat) (s : State) :
    AnswerKeeps s (execReduce src opId offset payload digest s) :=
  .next (State.onMsg_own _ _ _ _ _ _ _ _ (fun u _ => .ite (.refl u) (.ofFrame (State.modOp_frame _ _ _) rfl)))

theorem execEnvelope_keeps (src opId offset : Nat) (payload : List Byte) (digest : Nat) (s : State) :
    AnswerKeeps s (execEnvelope src opId offset payload digest s) :=
  .next (State.onMsg_own _ _ _ _ _ _ _ _ (fun u _ => .ite (.refl u) (.ofFrame (State.modOp_frame _ _ _) rfl)))

theorem execCreateIoSubmissionQueue_keeps (h : NvmeHdr) (qid qsize cqid : Nat) (s : State) :
    AnswerKeeps s (execCreateIoSubmissionQueue h qid qsize cqid s) :=
  .next (State.admin_own _ _ _ _ (fun _ => .ite (State.nvDone_keeps _ _ _ _ _) (.ite (State.nvDone_keeps _ _ _ _ _)
    (.ite (State.nvDone_keeps _ _ _ _ _) (State.modCtl_keeps _ _ _).done))))

theorem execCreateIoCompletionQueue_keeps (h : NvmeHdr) (qid qsize iv : Nat) (ien : Bool) (s : State) :
    AnswerKeeps s (execCreateIoCompletionQueue h qid qsize iv ien s) :=
  .next (State.admin_own _ _ _ _ (fun _ => .ite (State.nvDone_keeps _ _ _ _ _) (.ite (State.nvDone_keeps _ _ _ _ _)
    (.ite (State.nvDone_keeps _ _ _ _ _) (State.modCtl_keeps _ _ _).done))))

theorem execDeleteIoSubmissionQueue_keeps (h : NvmeHdr) (qid : Nat) (s : State) : AnswerKeeps s (execDeleteIoSubmissionQueue h qid s) :=
  .next (State.admin_own _ _ _ _ (fun _ => .ite (State.nvDone_keeps _ _ _ _ _)
    ((State.endNvme_keeps _ _ _).after (State.modCtl_keeps _ _ _)).done))

theorem execDeleteIoCompletionQueue_keeps (h : NvmeHdr) (qid : Nat) (s : State) : AnswerKeeps s (execDeleteIoCompletionQueue h qid s) :=
  .next (State.admin_own _ _ _ _ (fun _ => .ite (State.nvDone_keeps _ _ _ _ _) (.ite (State.nvDone_keeps _ _ _ _ _)
    (State.modCtl_keeps _ _ _).done)))

theorem execNvmeAbort_keeps (h : NvmeHdr) (sqid cid : Nat) (s : State) : AnswerKeeps s (execNvmeAbort h sqid cid s) :=
  .next (State.admin_own _ _ _ _ (fun _ => .ite (State.endNvme_keeps _ _ _).done (State.nvDone_keeps _ _ _ _ _)))

theorem execSetPowerManagement_keeps (h : NvmeHdr) (value : BitVec 32) (s : State) : AnswerKeeps s (execSetPowerManagement h value s) :=
  .next (State.setFeat_own _ _ _ (fun _ => .ite (State.nvDone_keeps _ _ _ _ _)
    (.ite (Keeps.ofFrame (State.setPstate_frame _ _) rfl).done (Keeps.ofFrame (State.modPower_frame _ _) rfl).done)))

theorem execSetVolatileWriteCache_keeps (h : NvmeHdr) (value : BitVec 32) (s : State) : AnswerKeeps s (execSetVolatileWriteCache h value s) :=
  .next (State.setFeat_own _ _ _ (fun u => ((Keeps.refl u).modNvme rfl rfl).done))

theorem execSetNumberOfQueues_keeps (h : NvmeHdr) (value : BitVec 32) (s : State) : AnswerKeeps s (execSetNumberOfQueues h value s) :=
  .next (State.setFeat_own _ _ _ (fun _ => .ite (State.nvDone_keeps _ _ _ _ _) (.ite (State.nvDone_keeps _ _ _ _ _)
    (State.modCtl_keeps _ _ _).done)))

theorem execSetApst_keeps (h : NvmeHdr) (enable : Bool) (table : List (Nat × Nat)) (s : State) : AnswerKeeps s (execSetApst h enable table s) :=
  .next (State.setFeat_own _ _ _ (fun u => .ite (State.nvDone_keeps _ _ _ _ _) ((Keeps.refl u).modNvme rfl rfl).done))

theorem execCompare_keeps (h : NvmeHdr) (slba nlb : Nat) (data : List Byte) (s : State) : AnswerKeeps s (execCompare h slba nlb data s) :=
  .next (State.nvm_own _ _ _ _ (fun u _ => State.readRange_keeps _ _ _ _ _ _ _ _ _ (.refl u) (fun _ _ hu => hu.done)))

theorem execVerify_keeps (h : NvmeHdr) (slba nlb prchk : Nat) (pi : PiArgs) (s : State) : AnswerKeeps s (execVerify h slba nlb prchk pi s) :=
  .next (State.nvm_own _ _ _ _ (fun u _ => State.readRange_keeps _ _ _ _ _ _ _ _ _ (.refl u) (fun _ _ hu => hu.done)))

theorem execHoldUpEnergyExhausted_keeps (written : Nat) (s : State) : AnswerKeeps s (execHoldUpEnergyExhausted written s) :=
  .ite
    (.next (((Keeps.ofFrame (State.modStore_frame _ _) rfl).fr (State.modPower_frame _ _) rfl).after (State.powerOn_keeps _ _)))
    (.next (.refl s))

end Sys2Proof.Machine

namespace Sys2Proof.Proofs
open Sys2Proof.Machine Sys2Proof.Claims

/-- Every command keeps the invariant: those that touch nothing it speaks of by their frame, the others by the laws of the operations
they are made of. -/
theorem exec_keeps : ∀ (c : Instr) (s : State), AnswerKeeps s (exec c s)
  | .powerOnReset .., s => execPowerOnReset_keeps _ _ s
  | .auxRailValid, s => .ofFrame (execAuxRailValid_frame s) rfl
  | .powerFail, s => .ofFrame (execPowerFail_frame s) rfl
  | .powerFailRecordDone, _ => .next (.ite (State.powerOn_keeps _ _) (.refl _))
  | .pwrdisAssert, s => .ofFrame (execPwrdisAssert_frame s) rfl
  | .pwrdisDeassert, s => execPwrdisDeassert_keeps s
  | .perstAssert, s => execPerstAssert_keeps s
  | .perstDeassert .., s => execPerstDeassert_keeps _ s
  | .controllerEnable .., s => execControllerEnable_keeps _ s
  | .computeReady, s => .ofFrame (execComputeReady_frame s) rfl
  | .controllerReset .., _ => .next (.ite (State.controllerReset_keeps _ _ _) (.refl _))
  | .flr .., s => execFlr_keeps _ s
  | .hostLinkLoss, s => execHostLinkLoss_keeps s
  | .smbrst, s => .ofFrame (execSmbrst_frame s) rfl
  | .dieRecoveryStart .., _ => .next (State.recover_keeps _ _ _)
  | .housekeepingReportTimeout .., _ => .next (State.recover_keeps _ _ _)
  | .kerilWatchdogExpiry, _ => .next (State.recover_keeps _ _ _)
  | .dieRecoveryDone .., s => execDieRecoveryDone_keeps _ s
  | .thermalSample .., s => execThermalSample_keeps _ _ s
  | .thermalLevelExit, s => execThermalLevelExit_keeps s
  | .voltageRampStep, s => .ofFrame (execVoltageRampStep_frame s) rfl
  | .holdupCheck, s => .ofFrame (execHoldupCheck_frame s) rfl
  | .holdupCheckDone .., s => execHoldupCheckDone_keeps _ s
  | .pwrHoldupCheckStart .., s => .ofFrame (execPwrHoldupCheckStart_frame _ s) rfl
  | .deviceTimeRecord, s => .ofFrame (execDeviceTimeRecord_frame s) rfl
  | .crystalPeriod, s => .ofFrame (execCrystalPeriod_frame s) rfl
  | .beaconSend, s => .ofFrame (execBeaconSend_frame s) rfl
  | .beaconReceive .., s => .ofFrame (execBeaconReceive_frame _ _ s) rfl
  | .beaconPathMeasure .., s => .ofFrame (execBeaconPathMeasure_frame _ _ s) rfl
  | .beaconMissLimit .., s => .ofFrame (execBeaconMissLimit_frame _ s) rfl
  | .holdoverTimeout .., _ => .next (.ite (State.logErr_keeps _ _) (.refl _))
  | .localTick .., s => .ofFrame (execLocalTick_frame _ s) rfl
  | .oscillatorWatch .., s => execOscillatorWatch_keeps _ _ _ _ s
  | .marginSample .., s => execMarginSample_keeps _ _ s
  | .stretchRelease .., s => .ofFrame (execStretchRelease_frame _ s) rfl
  | .lastingMarginFault .., s => execLastingMarginFault_keeps _ s
  | .monitorRefresh .., s => execMonitorRefresh_keeps _ s
  | .powerMonitorRefresh .., s => execPowerMonitorRefresh_keeps _ s
  | .kciSqTail .., _ => .next (.ite ((State.wake_keeps _).after (State.sqTail_keeps _ _ _ _ _)) (.refl _))
  | .kciCqHead .., _ => .next (.ite ((State.wake_keeps _).after (State.cqHeadWrite_keeps _ _ _ _)) (.refl _))
  | .class0SlotWrite .., _ => .next (.ite ((State.wake_keeps _).after (State.slotWrite_keeps _ _ _ _ _)) (.refl _))
  | .ctxEnableSet .., s => .ofFrame (execCtxEnableSet_frame _ s) rfl
  | .ctxEnableClear .., s => .ofFrame (execCtxEnableClear_frame _ s) rfl
  | .ctxControlReset .., s => .ofFrame (execCtxControlReset_frame _ s) rfl
  | .contextResetComplete .., _ => .next (.ite ((State.closeCtx_keeps _ _).settled) (.refl _))
  | .ctxPolicyWrite .., s => .ofFrame (execCtxPolicyWrite_frame _ _ s) rfl
  | .registerWrite .., s => execRegisterWrite_keeps _ _ _ _ s
  | .loRegisterRead .., s => .ofFrame (execLoRegisterRead_frame _ _ _ s) rfl
  | .queueCreate .., _ => .next (State.kciFetch_keeps _ _ _)
  | .queueDestroy .., _ => .next (State.kciFetch_keeps _ _ _)
  | .objCreate .., _ => .next (State.kciFetch_keeps _ _ _)
  | .objOpen .., _ => .next (State.kciFetch_keeps _ _ _)
  | .objShare .., _ => .next (State.kciFetch_keeps _ _ _)
  | .objUnshare .., _ => .next (State.kciFetch_keeps _ _ _)
  | .objRetain .., _ => .next (State.kciFetch_keeps _ _ _)
  | .objRelease .., _ => .next (State.kciFetch_keeps _ _ _)
  | .objPlace .., _ => .next (State.kciFetch_keeps _ _ _)
  | .objQuery .., _ => .next (State.kciFetch_keeps _ _ _)
  | .eventCreate .., _ => .next (State.kciFetch_keeps _ _ _)
  | .eventDestroy .., _ => .next (State.kciFetch_keeps _ _ _)
  | .eventClear .., _ => .next (State.kciFetch_keeps _ _ _)
  | .programInstall .., _ => .next (State.kciFetch_keeps _ _ _)
  | .priority .., _ => .next (State.kciFetch_keeps _ _ _)
  | .jobEnd .., _ => .next (State.kciFetch_keeps _ _ _)
  | .copyIn .., _ => .next (State.kciFetch_keeps _ _ _)
  | .copyOut .., _ => .next (State.kciFetch_keeps _ _ _)
  | .copy .., _ => .next (State.kciFetch_keeps _ _ _)
  | .nop .., _ => .next (State.kciFetch_keeps _ _ _)
  | .run .., _ => .next (State.kciFetch_keeps _ _ _)
  | .search .., _ => .next (State.kciFetch_keeps _ _ _)
  | .indexSeal .., _ => .next (State.kciFetch_keeps _ _ _)
  | .passPick .., _ => .next (.ite ((State.pick_keeps _ _).settled) (.refl _))
  | .commandAged .., s => .ofFrame (execCommandAged_frame _ s) rfl
  | .reservationWindowBoundary, s => .ofFrame (execReservationWindowBoundary_frame s) rfl
  | .passEntry .., _ => .next (.ite (State.enter_keeps _ _ _) (.refl _))
  | .passEnd .., _ => .next (.ite ((State.endPass_keeps _ _ _ _).settled) (.refl _))
  | .rowVerdict .., _ => .next (.ite ((State.rowVerdict_keeps _ _ _ _).settled) (.refl _))
  | .columnVerdict .., _ => .next (.ite ((State.columnVerdict_keeps _ _ _).settled) (.refl _))
  | .rowDrain .., _ => .next (.ite ((State.drainRow_keeps _ _ _ _ _ _ _).settled) (.refl _))
  | .completionPost .., s => execCompletionPost_keeps _ _ _ s
  | .partExclClaim .., _ => .next (.ite (State.writeExcl_keeps _ _ _) (.refl _))
  | .claimComplete .., s => .ofFrame (execClaimComplete_frame _ s) rfl
  | .partExclAbort .., _ => .next (.ite (State.writeExcl_keeps _ _ _) (.refl _))
  | .releaseComplete .., s => .ofFrame (execReleaseComplete_frame _ s) rfl
  | .partReset .., _ => .next (.ite (State.resetPart_keeps _ _) (.refl _))
  | .partDramQuotaWrite .., s => .ofFrame (execPartDramQuotaWrite_frame _ _ s) rfl
  | .schedResvWrite .., s => .ofFrame (execSchedResvWrite_frame _ _ s) rfl
  | .ctxAssignWrite .., s => .ofFrame (execCtxAssignWrite_frame _ _ s) rfl
  | .ctxAdminReset .., s => .ofFrame (execCtxAdminReset_frame _ _ s) rfl
  | .memT2QuotaWrite .., s => .ofFrame (execMemT2QuotaWrite_frame _ _ s) rfl
  | .mxaTestStart .., s => .ofFrame (execMxaTestStart_frame _ _ s) rfl
  | .secKeyEnroll .., s => .ofFrame (execSecKeyEnroll_frame _ s) rfl
  | .secKeyRevoke .., s => .ofFrame (execSecKeyRevoke_frame _ s) rfl
  | .peerGroupCfgSet .., _ => .next (.ite (State.writeGroupCfg_keeps _ _) (.refl _))
  | .peerGroupCfgClear .., _ => .next (.ite (State.writeGroupCfg_keeps _ _) (.refl _))
  | .peerBindWrite .., s => .ofFrame (execPeerBindWrite_frame _ s) rfl
  | .peerProgressToWrite .., s => .ofFrame (execPeerProgressToWrite_frame _ s) rfl
  | .errSelHiWrite .., _ => .next (.ite (State.writeErrSelHi_keeps _ _) (.refl _))
  | .errIrqVecWrite .., _ => .next (.ite (State.writeErrVec_keeps _ _) (.refl _))
  | .ledgSelHiWrite .., _ => .next (.ite (State.writeLedgSelHi_keeps _ _) (.refl _))
  | .ledgCtxSelWrite .., _ => .next (.ite (State.writeLedgCtxSel_keeps _ _) (.refl _))
  | .ledgAckWrite .., _ => .next (.ite (State.writeLedgAck_keeps _ _) (.refl _))
  | .ledgPeriodWrite .., _ => .next (.ite (State.writeLedgPeriod_keeps _ _) (.refl _))
  | .ledgerPeriodClose, s => execLedgerPeriodClose_keeps s
  | .errorLogFlush, s => execErrorLogFlush_keeps s
  | .targetedSelfTest .., s => .ofFrame (execTargetedSelfTest_frame _ _ s) rfl
  | .selfTestVerdict .., s => execSelfTestVerdict_keeps _ _ _ _ s
  | .migrationStart .., s => execMigrationStart_keeps _ _ _ s
  | .migrationSwitch .., s => execMigrationSwitch_keeps _ _ s
  | .speculativeReadIssue .., s => execSpeculativeReadIssue_keeps _ _ _ s
  | .speculativeScanLaunch .., _ => .next (State.searchStep_own _ _ (fun _ => .ofFrame (State.launchSpec_frame _ _ _ _) rfl))
  | .distanceTableSend .., _ => .next (State.searchStep_own _ _ (fun _ => State.sendTable_keeps _ _ _))
  | .selectionFinal .., _ => .next (State.searchStep_own _ _ (fun _ => State.finalize_keeps _ _ _))
  | .codewordEvaluate .., _ => .next (State.searchStep_own _ _ (fun _ => State.evalBlock_keeps _ _ _ _ _ _))
  | .mergerCandidate .., _ => .next (State.searchStep_own _ _ (fun _ => .ofFrame (State.mergeCand_frame _ _ _ _) rfl))
  | .scanEnd .., _ => .next (State.searchStep_own _ _ (fun _ => State.endScan_keeps _ _ _ _))
  | .rerank .., _ => .next (State.searchStep_own _ _ (fun _ => State.rerankQuery_keeps _ _ _))
  | .nandOpStart .., s => .ofFrame (execNandOpStart_frame _ _ s) rfl
  | .nandReadDone .., s => execNandReadDone_keeps _ _ s
  | .recoveryLadderStep .., s => execRecoveryLadderStep_keeps _ _ _ s
  | .readAroundErase .., s => execReadAroundErase_keeps _ _ _ _ _ s
  | .nandProgramDone .., s => execNandProgramDone_keeps _ _ s
  | .nandEraseDone .., s => execNandEraseDone_keeps _ _ s
  | .nandReset, s => .ofFrame (execNandReset_frame s) rfl
  | .patrolRead .., s => execPatrolRead_keeps _ _ _ _ _ s
  | .blockRefresh .., s => .ofFrame (execBlockRefresh_frame _ _ s) rfl
  | .readOffsetCalibration .., s => .ofFrame (execReadOffsetCalibration_frame _ _ _ s) rfl
  | .garbageCollection .., s => execGarbageCollection_keeps _ _ _ _ s
  | .wearLeveling .., s => .ofFrame (execWearLeveling_frame _ _ s) rfl
  | .writeAdmit, s => execWriteAdmit_keeps s
  | .storeOpStart .., s => .ofFrame (execStoreOpStart_frame _ s) rfl
  | .storeEraseDone .., s => .ofFrame (execStoreEraseDone_frame _ s) rfl
  | .controlSectorSwitch, s => .ofFrame (execControlSectorSwitch_frame s) rfl
  | .gapAdvance, s => .ofFrame (execGapAdvance_frame s) rfl
  | .programLoad .., s => execProgramLoad_keeps _ _ s
  | .portTrained .., s => execPortTrained_keeps _ _ s
  | .peerPresChange .., s => .ofFrame (execPeerPresChange_frame _ _ s) rfl
  | .peerAlertPulse .., s => .ofFrame (execPeerAlertPulse_frame _ s) rfl
  | .peerAlertStuck .., _ => .next (.ite ((Keeps.ofFrame (State.modPort_frame _ _ _) rfl).after (State.logPort_keeps _ _ _)) (.refl _))
  | .hello port gid size member pport incarnation fw, s => execHello_keeps port gid size member pport incarnation fw s
  | .heartbeatSend, s => .ofFrame (execHeartbeatSend_frame s) rfl
  | .heartbeat src incarnation gstate lost epoch time, s => execHeartbeat_keeps src incarnation gstate lost epoch time s
  | .heartbeatWindowEnd, s => .ofFrame (execHeartbeatWindowEnd_frame s) rfl
  | .memberLost .., s => execMemberLost_keeps _ s
  | .groupReform, _ => .next (.ite ((Keeps.ofFrame (State.modPeer_frame _ _) rfl).after (State.form_keeps _)) (.refl _))
  | .formingTimeout, _ => .next (.ite (State.logPort_keeps _ _ _) (.refl _))
  | .idle .., s => .ofFrame (execIdle_frame _ s) rfl
  | .flitReceive .., s => .ofFrame (execFlitReceive_frame _ _ s) rfl
  | .nak .., s => .ofFrame (execNak_frame _ _ s) rfl
  | .portRetrain .., s => .ofFrame (execPortRetrain_frame _ s) rfl
  | .post .., s => .ofFrame (execPost_frame _ _ s) rfl
  | .gather .., s => execGather_keeps _ _ _ _ _ s
  | .reduce .., s => execReduce_keeps _ _ _ _ _ s
  | .envelope .., s => execEnvelope_keeps _ _ _ _ _ s
  | .abort src opId status, s => execAbort_keeps src opId status s
  | .msgNak .., s => execMsgNak_keeps _ _ _ _ _ s
  | .messageCopyExpiry, s => .ofFrame (execMessageCopyExpiry_frame s) rfl
  | .peerProgressTimeout .., s => execPeerProgressTimeout_keeps _ s
  | .nvmeSqDoorbell .., s => execNvmeSqDoorbell_keeps _ _ _ _ s
  | .lowPowerWake, s => .ofFrame (execLowPowerWake_frame s) rfl
  | .createIoSubmissionQueue .., s => execCreateIoSubmissionQueue_keeps _ _ _ _ s
  | .createIoCompletionQueue .., s => execCreateIoCompletionQueue_keeps _ _ _ _ _ s
  | .deleteIoSubmissionQueue .., s => execDeleteIoSubmissionQueue_keeps _ _ s
  | .deleteIoCompletionQueue .., s => execDeleteIoCompletionQueue_keeps _ _ s
  | .identify .., s => execIdentify_keeps _ _ _ s
  | .nvmeAbort .., s => execNvmeAbort_keeps _ _ _ s
  | .getFeatures .., s => execGetFeatures_keeps _ _ _ _ s
  | .setArbitration .., _ => .next (State.setFeat_own _ _ _ (fun _ => State.keepFeat_keeps _ _ _ _))
  | .setPowerManagement .., s => execSetPowerManagement_keeps _ _ s
  | .lowPowerEntry, s => .ofFrame (execLowPowerEntry_frame s) rfl
  | .setTemperatureThreshold .., _ => .next (State.setFeat_own _ _ _ (fun _ => (State.keepFeat_keeps _ _ _ _).after (State.checkTemp_keeps _ _)))
  | .setVolatileWriteCache .., s => execSetVolatileWriteCache_keeps _ _ s
  | .setNumberOfQueues .., s => execSetNumberOfQueues_keeps _ _ s
  | .setInterruptCoalescing .., _ => .next (State.setFeat_own _ _ _ (fun _ => State.keepFeat_keeps _ _ _ _))
  | .setInterruptVectorConfiguration .., _ => .next (State.setFeat_own _ _ _ (fun _ => State.keepFeat_keeps _ _ _ _))
  | .setWriteAtomicityNormal .., _ => .next (State.setFeat_own _ _ _ (fun _ => State.keepFeat_keeps _ _ _ _))
  | .setAsyncEventConfiguration .., _ => .next (State.setFeat_own _ _ _ (fun _ => State.keepFeat_keeps _ _ _ _))
  | .setApst .., s => execSetApst_keeps _ _ _ s
  | .apstIdleExpiry, s => .ofFrame (execApstIdleExpiry_frame s) rfl
  | .setTimestamp .., s => execSetTimestamp_keeps _ _ s
  | .lacunaRelease .., s => execLacunaRelease_keeps _ _ s
  | .asyncEventRequest .., s => execAsyncEventRequest_keeps _ s
  | .getLogErrorInformation .., _ => .next (State.admin_own _ _ _ _ (fun _ => State.sendLog_keeps _ _ _ _ _ _))
  | .getLogSmartHealth .., _ => .next (State.admin_own _ _ _ _ (fun _ => State.sendLog_keeps _ _ _ _ _ _))
  | .getLogFirmwareSlot .., _ => .next (State.admin_own _ _ _ _ (fun _ => State.sendLog_keeps _ _ _ _ _ _))
  | .getLogChangedNamespace .., _ => .next (State.admin_own _ _ _ _ (fun _ => (State.modCtl_keeps _ _ _).after (State.sendLog_keeps _ _ _ _ _ _)))
  | .getLogCommandsSupported .., _ => .next (State.admin_own _ _ _ _ (fun _ => State.sendLog_keeps _ _ _ _ _ _))
  | .getLogSanitizeStatus .., _ => .next (State.admin_own _ _ _ _ (fun _ => State.sendLog_keeps _ _ _ _ _ _))
  | .getLogLacuna .., _ => .next (State.admin_own _ _ _ _ (fun _ => State.sendLog_keeps _ _ _ _ _ _))
  | .getLogColophonStatistics .., _ => .next (State.admin_own _ _ _ _ (fun _ => State.sendLog_keeps _ _ _ _ _ _))
  | .getLogAbortList .., s => execGetLogAbortList_keeps _ _ _ _ s
  | .namespaceManagementCreate .., s => execNamespaceManagementCreate_keeps _ _ _ _ s
  | .namespaceManagementDelete .., s => execNamespaceManagementDelete_keeps _ s
  | .namespaceAttachment .., s => execNamespaceAttachment_keeps _ _ _ s
  | .firmwareImageDownload .., s => execFirmwareImageDownload_keeps _ _ _ s
  | .firmwareCommit .., s => execFirmwareCommit_keeps _ _ _ _ s
  | .formatNvm .., s => execFormatNvm_keeps _ _ _ _ _ s
  | .securitySend .., s => execSecuritySend_keeps _ _ s
  | .securityReceive .., _ => .next (State.admin_own _ _ _ _ (fun _ => State.sendPage_keeps _ _ _ _))
  | .sanitizeBlockErase .., _ => .next (State.admin_own _ _ _ _ (fun _ => State.sanitizeStart_keeps _ _ _))
  | .sanitizeCryptoErase .., _ => .next (State.admin_own _ _ _ _ (fun _ => State.sanitizeStart_keeps _ _ _))
  | .sanitizeDone, s => execSanitizeDone_keeps s
  | .flush .., s => execFlush_keeps _ s
  | .write .., s => execWrite_keeps _ _ _ _ _ _ _ _ s
  | .read .., s => execRead_keeps _ _ _ _ _ _ _ _ s
  | .compare .., s => execCompare_keeps _ _ _ _ s
  | .writeZeroes .., s => execWriteZeroes_keeps _ _ _ _ s
  | .datasetManagementDeallocate .., s => execDatasetManagementDeallocate_keeps _ _ s
  | .verify .., s => execVerify_keeps _ _ _ _ _ s
  | .cacheCommitStart .., s => .ofFrame (execCacheCommitStart_frame _ _ _ _ s) rfl
  | .shutdownNotification .., _ => .next (.ite ((State.modCtl_keeps _ _ _).after (State.finishShutdown_keeps _)) (.refl _))
  | .miReadDataStructure .., s => .ofFrame (execMiReadDataStructure_frame _ s) rfl
  | .miSubsystemHealthPoll, s => .ofFrame (execMiSubsystemHealthPoll_frame s) rfl
  | .miControllerHealthPoll .., s => .ofFrame (execMiControllerHealthPoll_frame _ s) rfl
  | .miConfigurationGet .., s => .ofFrame (execMiConfigurationGet_frame _ s) rfl
  | .miConfigurationSet .., s => .ofFrame (execMiConfigurationSet_frame _ _ s) rfl
  | .miVpdRead off len, s => .ofFrame (execMiVpdRead_frame off len s) rfl
  | .miTunneledIdentify .., s => .ofFrame (execMiTunneledIdentify_frame _ s) rfl
  | .miTunneledGetLogPage .., s => .ofFrame (execMiTunneledGetLogPage_frame _ s) rfl
  | .miErrorLogRead .., s => .ofFrame (execMiErrorLogRead_frame _ _ s) rfl
  | .hostLinkReturn, s => .ofFrame (execHostLinkReturn_frame s) rfl
  | .dieRecoveryOverrun .., _ => .next (.ite (State.enterFailed_keeps _ _) (.refl _))
  | .auxiliaryRailLoss, s => .ofFrame (execAuxiliaryRailLoss_frame s) rfl
  | .holdUpEnergyExhausted .., s => execHoldUpEnergyExhausted_keeps _ s
  | .peerAlertReturnsHigh .., s => .ofFrame (execPeerAlertReturnsHigh_frame _ s) rfl
  | .peerLanesLeaveElectricalIdle .., s => .ofFrame (execPeerLanesLeaveElectricalIdle_frame _ s) rfl
  | .storePageProgramDone, s => execStorePageProgramDone_keeps s
  | .patrolScrub .., s => .ofFrame (execPatrolScrub_frame _ _ s) rfl
  | .ledToggle, s => .ofFrame (execLedToggle_frame s) rfl

/-- Settles O4: on an empty queue nothing changes, and otherwise the front command keeps the invariant (`exec_keeps`). -/
theorem invariantKept : Obligations.InvariantKept := by
  intro s t hinv hstep
  rcases hp : s.pending with _ | ⟨c, rest⟩
  · obtain rfl : s = t := Host.Outcome.next.inj ((stepAlwaysAnswers s).2 hp ▸ hstep)
    exact hinv
  · have hrun : exec c { s with pending := rest } = .next t := by simpa [step, hp] using hstep
    obtain ⟨u, hu, hkeeps⟩ := exec_keeps c { s with pending := rest }
    obtain rfl : u = t := Host.Outcome.next.inj (hu.symm.trans hrun)
    exact hkeeps hinv

/-- Settles O6: by induction on the run, each step of which keeps the invariant and is answered. -/
theorem safeRuns : Obligations.SafeRuns := by
  intro s hinv t hreach
  have ht : t.Inv := by
    induction hreach with
    | here => exact hinv
    | more _ hstep ih => exact invariantKept _ _ ih hstep
  obtain ⟨⟨u, hu, -⟩, -⟩ := stepAlwaysAnswers t
  exact ⟨ht, u, hu⟩

end Sys2Proof.Proofs

/-! An entry's 64 bytes spell its fields (Tables 15-1, 15-4, 15-5): O56. -/

namespace Sys2Proof.Machine

/-! ### A field reads back -/

/-- The number that a field's bytes spell. -/
def fieldAt (raw : List Byte) (p : Nat × Nat) : Nat := leNat (slice raw p.1 p.2)

/-- The bytes of a field: offset and size. -/
def Field.place (f : Field) : Nat × Nat := (f.off, f.size)

/-- Places in rising order, none over another, within `n` bytes. -/
def Apart (n : Nat) (ps : List (Nat × Nat)) : Prop := ps.Pairwise (fun p q => p.1 + p.2 ≤ q.1) ∧ ∀ p ∈ ps, p.1 + p.2 ≤ n

theorem length_le (k n : Nat) : (le k n).length = k := by
  induction k generalizing n with
  | zero => rfl
  | succ k ih => rw [le, List.length_cons, ih]

theorem getElem_le (k n i : Nat) (h : i < (le k n).length) : (le k n)[i] = BitVec.ofNat 8 (n / 256 ^ i) := by
  induction k generalizing n i with
  | zero => exact absurd h (Nat.not_lt_zero i)
  | succ k ih =>
    cases i with
    | zero => simp [le]
    | succ i => simp [le, ih, Nat.div_div_eq_div_mul, pow_succ, Nat.mul_comm]

/-- The one field whose bytes hold an address is found there. -/
theorem find?_field {fs : List Field} {f : Field} {i : Nat} (hp : (fs.map Field.place).Pairwise (fun p q => p.1 + p.2 ≤ q.1)) (hf : f ∈ fs)
    (hl : f.off ≤ i) (hu : i < f.off + f.size) : fs.find? (fun g => g.off ≤ i && i < g.off + g.size) = some f := by
  induction fs with
  | nil => exact absurd hf List.not_mem_nil
  | cons g fs ih =>
    rw [List.map_cons, List.pairwise_cons] at hp
    obtain ⟨hg, hp⟩ := hp
    rcases List.mem_cons.mp hf with rfl | hf
    · exact List.find?_cons_of_pos (by simp [hl, hu])
    · have hgf : g.off + g.size ≤ f.off := hg f.place (List.mem_map_of_mem hf)
      rw [List.find?_cons_of_neg (by simp; omega)]
      exact ih hp hf

/-- A field of fields laid apart reads back. -/
theorem fieldAt_layFields {n : Nat} {fs : List Field} {f : Field} (ha : Apart n (fs.map Field.place)) (hf : f ∈ fs)
    (hv : f.val < 256 ^ f.size) : fieldAt (layFields n fs) f.place = f.val := by
  obtain ⟨hp, hn⟩ := ha
  have hend : f.off + f.size ≤ n := hn f.place (List.mem_map_of_mem hf)
  have hbytes : slice (layFields n fs) f.off f.size = le f.size f.val := by
    refine List.ext_getElem ?_ (fun i h1 h2 => ?_)
    · simp only [slice, layFields, List.length_take, List.length_drop, List.length_map, List.length_range, length_le]
      omega
    · rw [length_le] at h2
      simp only [slice, layFields, List.getElem_take, List.getElem_drop, List.getElem_map, List.getElem_range, getElem_le,
        find?_field hp hf (Nat.le_add_right f.off i) (by omega), Nat.add_sub_cancel_left]
  rw [fieldAt, Field.place, hbytes, leNat_le hv]

/-- All fields laid apart read back. -/
theorem map_fieldAt_layFields {n : Nat} {fs : List Field} (ha : Apart n (fs.map Field.place)) (hv : ∀ f ∈ fs, f.val < 256 ^ f.size) :
    (fs.map Field.place).map (fieldAt (layFields n fs)) = fs.map (·.val) := by
  rw [List.map_map]
  exact List.map_congr_left (fun f hf => fieldAt_layFields ha hf (hv f hf))

/-! ### The command that the fields spell -/

/-- The places of the common part's fields (Table 15-1). -/
def commonPlaces : List (Nat × Nat) := [(0x00, 1), (0x01, 1), (0x02, 2), (0x04, 1), (0x05, 1), (0x08, 8), (0x10, 4)]

/-- The places of a command's own fields, by opcode (Tables 15-4 and 15-5). -/
def bodyPlaces : Nat → List (Nat × Nat)
  | 0x01 => [(0x18, 1), (0x19, 1), (0x1A, 2), (0x1C, 2), (0x20, 8), (0x28, 8), (0x30, 8)]
  | 0x03 => [(0x18, 8), (0x20, 8), (0x28, 4), (0x2C, 1), (0x2D, 1), (0x2E, 2), (0x30, 4), (0x34, 2)]
  | 0x04 => [(0x18, 8), (0x20, 1)]
  | 0x05 => [(0x18, 1), (0x19, 1), (0x1A, 1)]
  | 0x06 | 0x08 => [(0x18, 1), (0x19, 1)]
  | 0x09 => [(0x18, 1), (0x1C, 4)]
  | 0x0A | 0x0B => [(0x18, 1), (0x20, 8)]
  | 0x0E => [(0x18, 8), (0x20, 8), (0x28, 4)]
  | 0x0F => [(0x18, 1), (0x19, 1), (0x1A, 2)]
  | 0x10 | 0x2F => []
  | 0x20 | 0x21 => [(0x18, 1), (0x20, 8), (0x28, 8), (0x30, 4), (0x38, 4)]
  | 0x22 => [(0x18, 1), (0x19, 1), (0x20, 8), (0x28, 8), (0x30, 4), (0x38, 4)]
  | 0x30 => [(0x18, 1), (0x19, 1), (0x1A, 1), (0x1C, 4), (0x20, 8)]
  | 0x31 => [(0x18, 1), (0x19, 1), (0x1A, 1), (0x1B, 1), (0x1C, 2), (0x1E, 2), (0x20, 1), (0x21, 1), (0x22, 1), (0x28, 8), (0x30, 8), (0x38, 8)]
  | _ => [(0x18, 1)]

/-- The command of an opcode and the values of its own fields, without what the drive reads from host memory. -/
def bodyOf : Nat → List Nat → Body
  | 0x01, [q, c, n, v, sq, cq, co] => .queueCreate q c n v sq cq co
  | 0x02, [q] => .queueDestroy q
  | 0x03, [o, n, w, k, h, l, p, d] => .objCreate o n w k h l p d
  | 0x04, [o, r] => .objOpen o r
  | 0x05, [h, g, r] => .objShare h g r
  | 0x06, [h, g] => .objUnshare h g
  | 0x07, [h] => .objRetain h
  | 0x08, [h, d] => .objRelease h (d == 1)
  | 0x09, [h, w] => .objPlace h w
  | 0x0A, [h, b] => .objQuery h b
  | 0x0B, [e, v] => .eventCreate e v
  | 0x0C, [e] => .eventDestroy e
  | 0x0D, [e] => .eventClear e
  | 0x0E, [o, a, n] => .programInstall o a n []
  | 0x0F, [q, c, i] => .priority q c i
  | 0x10, _ => .jobEnd
  | 0x20, [h, o, a, n, l] => .copyIn h o a n l []
  | 0x21, [h, o, a, n, l] => .copyOut h o a n l
  | 0x22, [s, d, so, od, n, l] => .copy s d so od n l
  | 0x30, [p, n, m, q, b] => .run p n m q b [] []
  | 0x31, [i, q, o, n, k, np, f, r, t, qo, oo, fi] => .search i q o n k np f r t qo oo fi []
  | 0x32, [h] => .indexSeal h
  | _, _ => .nop

theorem bodyOf_fields (b : Body) : bodyOf (bodyOpcode b) ((bodyFields b).map (·.val)) = Claims.bodyCore b := by
  cases b
  case objRelease h d => cases d <;> rfl
  all_goals rfl

theorem place_bodyFields (b : Body) : (bodyFields b).map Field.place = bodyPlaces (bodyOpcode b) := by
  cases b <;> rfl

theorem apart_places : ∀ op < 0x33, (commonPlaces ++ bodyPlaces op).Pairwise (fun p q => p.1 + p.2 ≤ q.1) ∧
    ∀ p ∈ commonPlaces ++ bodyPlaces op, p.1 + p.2 ≤ 64 := by
  decide

theorem bodyOpcode_lt (b : Body) : bodyOpcode b < 0x33 := by
  cases b <;> exact of_decide_eq_true rfl

/-- No two fields of an entry share a byte. -/
theorem apart_entry (e : Entry) (b : Body) : Apart 64 ((entryFields e (bodyOpcode b) ++ bodyFields b).map Field.place) := by
  rw [List.map_append, place_bodyFields]
  exact apart_places _ (bodyOpcode_lt b)

/-! ### Reading an entry -/

/-- The values of the common part's fields. -/
def commonVals (e : Entry) (op : Nat) : List Nat :=
  [op, b2n e.fence + 2 * b2n e.wait + 4 * b2n e.signal, e.cid, e.waitEvent, e.signalEvent, e.threshold, e.incr - 1]

theorem place_entryFields (e : Entry) (op : Nat) : (entryFields e op).map Field.place = commonPlaces := rfl

theorem val_entryFields (e : Entry) (op : Nat) : (entryFields e op).map (·.val) = commonVals e op := rfl

/-- Every field of an entry reads back from its bytes. -/
theorem fields_encodeEntry {e : Entry} {b : Body} (h : entryFits e b = true) :
    commonPlaces.map (fieldAt (encodeEntry e b)) = commonVals e (bodyOpcode b) ∧
    (bodyPlaces (bodyOpcode b)).map (fieldAt (encodeEntry e b)) = (bodyFields b).map (·.val) := by
  rw [entryFits, Bool.and_eq_true, List.all_eq_true] at h
  have hall := map_fieldAt_layFields (apart_entry e b) (fun f hf => of_decide_eq_true (h.1 f hf))
  rw [List.map_append, List.map_append, List.map_append, place_bodyFields, place_entryFields, val_entryFields, ← encodeEntry] at hall
  exact List.append_inj hall (by simp [commonPlaces, commonVals])

/-- The command that an entry's bytes spell. -/
theorem bodyCore_encodeEntry {e : Entry} {b : Body} (h : entryFits e b = true) : Claims.bodyCore b =
    bodyOf (fieldAt (encodeEntry e b) (0, 1)) ((bodyPlaces (fieldAt (encodeEntry e b) (0, 1))).map (fieldAt (encodeEntry e b))) := by
  obtain ⟨hcommon, hbody⟩ := fields_encodeEntry h
  have hop : fieldAt (encodeEntry e b) (0, 1) = bodyOpcode b := (List.cons.inj hcommon).1
  rw [hop, hbody, bodyOf_fields]

/-- Three flags are told by their bits. -/
theorem flags_inj {a b c a' b' c' : Bool} (h : b2n a + 2 * b2n b + 4 * b2n c = b2n a' + 2 * b2n b' + 4 * b2n c') :
    a = a' ∧ b = b' ∧ c = c' := by
  revert h a b c a' b' c'
  decide

end Sys2Proof.Machine

namespace Sys2Proof.Proofs
open Sys2Proof.Machine Sys2Proof.Claims

/-- Settles O56: the bytes alone give the opcode, the command and every common field. -/
theorem entriesSayAll : Obligations.EntriesSayAll := by
  intro e f b c he hf heq
  refine ⟨by rw [bodyCore_encodeEntry he, bodyCore_encodeEntry hf, heq], ?_⟩
  have hvals : commonVals e (bodyOpcode b) = commonVals f (bodyOpcode c) := by
    rw [← (fields_encodeEntry he).1, ← (fields_encodeEntry hf).1, heq]
  simp only [commonVals, List.cons.injEq, and_true] at hvals
  obtain ⟨-, hflags, hcid, hwaitEvent, hsignalEvent, hthreshold, hincr⟩ := hvals
  obtain ⟨hfence, hwait, hsignal⟩ := flags_inj hflags
  simp only [entryFits, Bool.and_eq_true, decide_eq_true_eq] at he hf
  have hincr' : e.incr = f.incr := by omega
  cases e
  cases f
  simp_all

end Sys2Proof.Proofs

/-! What a frame leaves, by component: the equations that the proofs of the claims use. -/

namespace Sys2Proof.Machine

section
variable {cs : List Comp} {s t : State}

theorem Frame.variant_eq (h : Frame cs s t) (hc : Comp.variant ∉ cs := by decide) : t.variant = s.variant := h.same .variant hc
theorem Frame.power_eq (h : Frame cs s t) (hc : Comp.power ∉ cs := by decide) : t.power = s.power := h.same .power hc
theorem Frame.time_eq (h : Frame cs s t) (hc : Comp.time ∉ cs := by decide) : t.time = s.time := h.same .time hc
theorem Frame.ctxs_eq (h : Frame cs s t) (hc : Comp.ctxs ∉ cs := by decide) : t.ctxs = s.ctxs := h.same .ctxs hc
theorem Frame.cmds_eq (h : Frame cs s t) (hc : Comp.cmds ∉ cs := by decide) : t.cmds = s.cmds := h.same .cmds hc
theorem Frame.objs_eq (h : Frame cs s t) (hc : Comp.objs ∉ cs := by decide) : t.objs = s.objs := h.same .objs hc
theorem Frame.arrays_eq (h : Frame cs s t) (hc : Comp.arrays ∉ cs := by decide) : t.arrays = s.arrays := h.same .arrays hc
theorem Frame.parts_eq (h : Frame cs s t) (hc : Comp.parts ∉ cs := by decide) : t.parts = s.parts := h.same .parts hc
theorem Frame.tests_eq (h : Frame cs s t) (hc : Comp.tests ∉ cs := by decide) : t.tests = s.tests := h.same .tests hc
theorem Frame.verdicts_eq (h : Frame cs s t) (hc : Comp.verdicts ∉ cs := by decide) : t.verdicts = s.verdicts := h.same .verdicts hc
theorem Frame.verdictCtrs_eq (h : Frame cs s t) (hc : Comp.verdictCtrs ∉ cs := by decide) : t.verdictCtrs = s.verdictCtrs := h.same .verdictCtrs hc
theorem Frame.nand_eq (h : Frame cs s t) (hc : Comp.nand ∉ cs := by decide) : t.nand = s.nand := h.same .nand hc
theorem Frame.store_eq (h : Frame cs s t) (hc : Comp.store ∉ cs := by decide) : t.store = s.store := h.same .store hc
theorem Frame.nvme_eq (h : Frame cs s t) (hc : Comp.nvme ∉ cs := by decide) : t.nvme = s.nvme := h.same .nvme hc
theorem Frame.peer_eq (h : Frame cs s t) (hc : Comp.peer ∉ cs := by decide) : t.peer = s.peer := h.same .peer hc
theorem Frame.errs_eq (h : Frame cs s t) (hc : Comp.errs ∉ cs := by decide) : t.errs = s.errs := h.same .errs hc
theorem Frame.ledger_eq (h : Frame cs s t) (hc : Comp.ledger ∉ cs := by decide) : t.ledger = s.ledger := h.same .ledger hc
theorem Frame.mgmt_eq (h : Frame cs s t) (hc : Comp.mgmt ∉ cs := by decide) : t.mgmt = s.mgmt := h.same .mgmt hc
theorem Frame.host_eq (h : Frame cs s t) (hc : Comp.host ∉ cs := by decide) : t.host = s.host := h.same .host hc
theorem Frame.nextId_eq (h : Frame cs s t) (hc : Comp.nextId ∉ cs := by decide) : t.nextId = s.nextId := h.same .nextId hc
theorem Frame.freeCtr_eq (h : Frame cs s t) (hc : Comp.freeCtr ∉ cs := by decide) : t.freeCtr = s.freeCtr := h.same .freeCtr hc
theorem Frame.pending_eq (h : Frame cs s t) (hc : Comp.pending ∉ cs := by decide) : t.pending = s.pending := h.same .pending hc

end

end Sys2Proof.Machine

/-! The auxiliary rail, power-on resets and power failures: O7, O8 and O9. -/

namespace Sys2Proof.Machine
open Sys2Proof.Claims

/-! ### What a power-on reset leaves (R414) -/

/-- The state that a power-on reset reads: it still has everything but commands and contexts. -/
theorem powerOn_base (s : State) : Frame [.cmds, .ctxs, .objs, .arrays, .nand, .store, .peer, .freeCtr] s (s.loseCmds s.cmds).clearContexts ∧
    ∃ k : List Nat, (s.loseCmds s.cmds).clearContexts.store = { s.store with freed := k } := by
  have hlose := State.loseCmds_frame s s.cmds
  obtain ⟨k, hk⟩ := State.clearContexts_store (s.loseCmds s.cmds)
  exact ⟨(hlose.mono rfl).after (State.clearContexts_frame _) rfl, k, hlose.store_eq ▸ hk⟩

theorem State.powerOn_power (s : State) (cause : Nat) : (s.powerOn cause).power = { PowerSt.reset with
    mode := s.power.rest, rail12 := s.power.rail12, rail33 := s.power.rail33, pwrdisPin := s.power.pwrdisPin,
    miReady := s.power.miReady && s.power.rail33, resetCause := cause, t0 := s.power.t0, recoveries := s.power.recoveries,
    onTime := s.power.onTime } := by
  have hpower := (powerOn_base s).1.power_eq
  simp only [State.powerOn]
  rw [show ((s.loseCmds s.cmds).clearContexts).power = s.power from hpower]

theorem State.powerOn_hole (s : State) (cause : Nat) : (s.powerOn cause).store.hole = s.store.hole := by
  obtain ⟨-, k, hk⟩ := powerOn_base s
  exact (congrArg StoreSt.hole hk :)

theorem State.powerOn_recorded (s : State) (cause : Nat) : (s.powerOn cause).time.recorded = s.time.recorded :=
  (congrArg TimeSt.recorded (powerOn_base s).1.time_eq :)

/-- Only stored objects are left, and what stands on NAND of them. -/
theorem State.powerOn_objs (s : State) (cause : Nat) :
    ∀ o ∈ (s.powerOn cause).objs, o.2.persistent = true ∧ ∀ p ∈ o.2.pageTab, p.2.tier = 2 := by
  intro o ho
  obtain ⟨x, hx, rfl⟩ := List.mem_map.mp ho
  refine ⟨(List.mem_filter.mp hx).2, fun p hp => ?_⟩
  obtain ⟨q, hq, rfl⟩ := List.mem_map.mp hp
  simpa using (List.mem_filter.mp hq).2

/-- A power-on reset of a state that differs from `s` in power, time, NAND and the store at most, with the store's journal and lacuna slots. -/
theorem restarted_powerOn {s b : State} (cause : Nat) (h : Frame [.power, .time, .nand, .store] s b)
    (hj : b.store.journal = s.store.journal) (hl : b.store.lacuna = s.store.lacuna) : restarted s (b.powerOn cause) cause := by
  obtain ⟨hbase, k, hk⟩ := powerOn_base b
  have hframe := (h.mono (cs := [.power, .time, .cmds, .ctxs, .objs, .arrays, .nand, .store, .peer, .freeCtr]) rfl).after hbase rfl
  have hnvme := hframe.nvme_eq
  have herrs := hframe.errs_eq
  have hledger := hframe.ledger_eq
  exact ⟨rfl, rfl, rfl, rfl, rfl, rfl, rfl, rfl, rfl, State.powerOn_objs b cause, rfl, rfl, rfl, rfl, (congrArg NvmeSt.ns hnvme :),
    (congrArg NvmeSt.locks hnvme :), (congrArg ErrSt.ring herrs :), (congrArg ErrSt.next herrs :), (congrArg LedgerSt.ring hledger :),
    (congrArg LedgerSt.period hledger :), (congrArg MgmtSt.keys hframe.mgmt_eq :), hframe.host_eq,
    (congrArg StoreSt.journal hk).trans hj, (congrArg StoreSt.lacuna hk).trans hl⟩

/-! ### The record of a power failure (R339) -/

theorem State.putRecord_none {s : State} (f : List Nat → LacunaRec) (h : s.store.recordSlots = none) : s.putRecord f = s := by
  unfold State.putRecord
  rw [h]

theorem State.putRecord_some {s : State} (f : List Nat → LacunaRec) {place : List Nat} (h : s.store.recordSlots = some place) :
    s.putRecord f = { s with
      store := { s.store with hole := s.store.hole ++ [f place], lacSeq := s.store.lacSeq + 1 }
      time := { s.time with recorded := some s.time.now } } := by
  unfold State.putRecord
  rw [h]
  rfl

theorem State.putRecord_kept (s : State) (f : List Nat → LacunaRec) :
    (s.putRecord f).store.journal = s.store.journal ∧ (s.putRecord f).store.lacuna = s.store.lacuna := by
  rcases hslots : s.store.recordSlots with _ | place
  · rw [State.putRecord_none f hslots]
    exact ⟨rfl, rfl⟩
  · rw [State.putRecord_some f hslots]
    exact ⟨rfl, rfl⟩

/-- R425 to R427: what t0 leaves. -/
theorem State.failPower_leaves (s : State) : s.failPower.power = { s.power with
      mode := .failing, t0 := some s.time.now, linkUp := false, nvmeReady := false, computeReady := false } ∧
    s.failPower.store.cur = some { kind := .powerFail } ∧ s.failPower.nvme = s.nvme ∧ s.failPower.cmds = s.cmds ∧
    ∀ place : List Nat, s.store.recordSlots = some place → s.failPower.time.recorded = some s.time.now ∧
      s.failPower.store.hole = s.store.hole ++ [s.failRecord place] := by
  have hreset := State.nandReset_frame (s.putRecord s.failRecord)
  have hput := State.putRecord_frame s s.failRecord
  have hpower : (s.putRecord s.failRecord).nandReset.power = s.power := hreset.power_eq.trans hput.power_eq
  have hframe := State.failPower_frame s
  refine ⟨?_, rfl, hframe.nvme_eq, hframe.cmds_eq, fun place hplace => ?_⟩
  · simp only [State.failPower, State.resetStore, State.modPower_power, State.modPeer_power, State.modStore_power, hpower]
  · have htime := hreset.time_eq
    have hstore := hreset.store_eq
    rw [State.putRecord_some _ hplace] at htime hstore
    simp only [State.failPower, State.resetStore, State.modPower_time, State.modPeer_time, State.modStore_time, State.modPower_store,
      State.modPeer_store, State.modStore_store, State.putRecord_some _ hplace, htime, hstore, and_self]

/-- Of a loss of power, told for a state that differs from `s` in its power registers at most. -/
theorem failing_failPower {s b : State} (p : PowerSt) (hb : b = { s with power := p }) : failing s b.failPower := by
  subst hb
  obtain ⟨hpower, hcur, hnvme, hcmds, hrecord⟩ := State.failPower_leaves { s with power := p }
  refine ⟨by rw [hpower], by rw [hpower], by rw [hpower], by rw [hpower], by rw [hpower], hcur, hnvme, hcmds, fun place hplace => ?_⟩
  obtain ⟨hrecorded, hhole⟩ := hrecord place hplace
  exact ⟨hrecorded, _, hhole, rfl, rfl, rfl, rfl, rfl, rfl⟩

/-- R34: a record that is cut keeps its first entries. -/
theorem LacunaRec.cut_leaves (r : LacunaRec) (written : Nat) : (r.cut written).kcis = r.kcis.take written ∧
    (written ≤ r.kcis.length + r.exts.length → (r.cut written).complete = false ∧
      (r.cut written).exts = r.exts.take (written - r.kcis.length)) := by
  unfold LacunaRec.cut
  by_cases h : r.kcis.length + r.exts.length < written
  · rw [if_pos h]
    exact ⟨(List.take_of_length_le (by omega)).symm, fun hw => absurd hw (by omega)⟩
  · rw [if_neg h]
    exact ⟨rfl, fun _ => ⟨rfl, rfl⟩⟩

end Sys2Proof.Machine

namespace Sys2Proof.Proofs
open Sys2Proof.Machine Sys2Proof.Claims

/-- R471: in the failed state the pin shows the toggle. -/
theorem State.led_failed {s : State} (hrow : s.pinRow = .operating) (hfailed : s.power.failed = true) :
    s.led = if s.power.ledToggle then .low else .released := by
  simp [State.led, hrow, hfailed]

theorem ledToggle_holds : ledToggle := by
  intro s hfailed hrow
  refine ⟨{ s with power := { s.power with ledToggle := !s.power.ledToggle } }, ?_, rfl, ?_⟩
  · simp [exec, execLedToggle, hfailed, State.modPower]
  · rw [State.led_failed hrow hfailed, State.led_failed (by exact hrow) (by exact hfailed)]
    cases s.power.ledToggle <;> simp

theorem auxRailPins_holds : auxRailPins := by
  intro s hmode
  refine ⟨_, rfl, ?_⟩
  have hrow : (s.modPower (fun p => { p with
      rail33 := true, miReady := true, mode := if p.mode = .noRails then .auxOnly else p.mode })).pinRow = .auxOnly := by
    simp [State.pinRow, hmode]
  simp [State.smbus, State.pcieLanes, State.clkreq, State.led, hrow]

/-- Settles O7: one row of the dispatch each; the pins are read off the mode. -/
theorem auxiliaryIsland : Obligations.AuxiliaryIsland :=
  ⟨fun _ => rfl, auxRailPins_holds, fun _ => rfl, fun _ => rfl, ledToggle_holds⟩

/-- A rail that rises while nothing records a power failure. -/
theorem exec_powerOnReset {s : State} (rail12 rail33 : Bool) (h1 : s.power.mode ≠ .failing) (h2 : s.power.mode ≠ .pwrdis) :
    ∃ b : State, exec (.powerOnReset rail12 rail33) s = .next (b.powerOn 1) ∧ Frame [.power, .time, .nand, .store] s b ∧
      b.store.journal = s.store.journal ∧ b.store.lacuna = s.store.lacuna ∧
      b.power = { s.power with rail12 := rail12, rail33 := rail33 } := by
  let rails (u : State) : State := u.modPower (fun p => { p with rail12 := rail12, rail33 := rail33 })
  have hput := State.putRecord_frame s s.failRecord
  have hreset := State.nandReset_frame (s.putRecord s.failRecord)
  obtain ⟨hj, hl⟩ := State.putRecord_kept s s.failRecord
  have hpower : (s.putRecord s.failRecord).nandReset.power = s.power := hreset.power_eq.trans hput.power_eq
  have hstore := hreset.store_eq
  have hrecorded : Frame [.power, .time, .nand, .store] s (rails (s.putRecord s.failRecord).nandReset) :=
    ((hput.mono rfl).after hreset rfl).after (State.modPower_frame _ _) rfl
  have hplain : Frame [.power, .time, .nand, .store] s (rails s) := (State.modPower_frame _ _).mono rfl
  cases hm : s.power.mode
  case failing => exact absurd hm h1
  case pwrdis => exact absurd hm h2
  case running | perst =>
    refine ⟨_, by simp only [exec, execPowerOnReset, hm]; rfl, hrecorded, (congrArg StoreSt.journal hstore).trans hj,
      (congrArg StoreSt.lacuna hstore).trans hl, ?_⟩
    exact congrArg (fun p : PowerSt => { p with rail12 := rail12, rail33 := rail33 }) hpower
  case noRails | auxOnly | powerOnReset =>
    exact ⟨_, by simp only [exec, execPowerOnReset, hm]; rfl, hplain, rfl, rfl, rfl⟩

theorem powerOnReset_holds : powerOnReset := by
  intro rail12 rail33 s h1 h2
  obtain ⟨b, hexec, hframe, hj, hl, hpower⟩ := exec_powerOnReset rail12 rail33 h1 h2
  refine ⟨_, hexec, restarted_powerOn 1 hframe hj hl, ?_⟩
  rw [State.powerOn_power, hpower]
  exact ⟨rfl, rfl, rfl⟩

theorem railsWhileFailing_holds : railsWhileFailing := by
  intro rail12 rail33 s hmode
  have hexec : exec (.powerOnReset rail12 rail33) s = .next (s.modPower (fun p => { p with rail12 := rail12, rail33 := rail33 })) := by
    simp only [exec, execPowerOnReset, hmode]
  exact hexec

theorem powerFailRecordDone_holds : powerFailRecordDone := by
  intro s hmode
  refine ⟨_, congrArg Host.Outcome.next (if_pos hmode), restarted_powerOn _ (Frame.refl _ _) rfl rfl,
    State.powerOn_hole _ _, State.powerOn_recorded _ _, ?_⟩
  rw [State.powerOn_power]

theorem PowerSt.rest_of_no_pwrdis {p : PowerSt} (h : p.pwrdisPin = false) :
    p.rest = if p.rail12 ∧ p.rail33 then .powerOnReset else if p.rail33 then .auxOnly else .noRails := by
  simp [PowerSt.rest, h]

theorem pwrdisDeassert_holds : pwrdisDeassert := by
  intro s hmode
  refine ⟨_, congrArg Host.Outcome.next (if_pos hmode), restarted_powerOn 1 ((State.modPower_frame _ _).mono rfl) rfl rfl, ?_⟩
  rw [State.powerOn_power]
  exact ⟨rfl, PowerSt.rest_of_no_pwrdis (p := { s.power with pwrdisPin := false }) rfl⟩

theorem holdUpEnergyExhausted_holds : holdUpEnergyExhausted := by
  intro written s hmode
  refine ⟨_, if_pos hmode, restarted_powerOn 1 ?_ rfl rfl, fun rs r hhole => ?_⟩
  · exact ((State.modStore_frame _ _).mono rfl).after (State.modPower_frame _ _) rfl
  · refine ⟨r.cut written, ?_, LacunaRec.cut_leaves r written⟩
    rw [State.powerOn_hole]
    simp [hhole]

/-- Settles O8: what a power-on reset leaves (`restarted_powerOn`), of the state before each of them. -/
theorem powerOnResets : Obligations.PowerOnResets :=
  ⟨powerOnReset_holds, railsWhileFailing_holds, powerFailRecordDone_holds, pwrdisDeassert_holds, holdUpEnergyExhausted_holds⟩

/-- Settles O9: what t0 leaves (`failing_failPower`), for both ways to lose the 12 V rail. -/
theorem powerFailures : Obligations.PowerFailures := by
  refine ⟨fun s hmode => ?_, fun s hmode => ?_⟩
  · refine ⟨(s.modPower (fun p => { p with rail12 := false })).failPower, ?_, failing_failPower _ rfl, ?_⟩
    · rcases hmode with hmode | hmode <;> simp only [exec, execPowerFail, hmode]
    · rw [(State.failPower_leaves _).1]
      exact ⟨rfl, rfl⟩
  · refine ⟨((s.modPower (fun p => { p with pwrdisPin := true })).modPower (fun p => { p with byPwrdis := true })).failPower, ?_,
      failing_failPower _ rfl, ?_⟩
    · rcases hmode with hmode | hmode <;> simp only [exec, execPwrdisAssert, hmode]
    · rw [(State.failPower_leaves _).1]
      exact ⟨rfl, rfl⟩

end Sys2Proof.Proofs

/-! PERST#, starts, resets of functions and recoveries of a die: O10, O11 and O12. -/

namespace Sys2Proof.Machine
-- One thread elaborates these proofs: in parallel they ask for more stacks than the check allows.
set_option Elab.async false
open Sys2Proof.Claims

theorem State.setSlot_power (s : State) (b : Bool) (n : Nat) : (s.setSlot b n).power = s.power := rfl

theorem State.setSlot_minSvn (s : State) (b : Bool) (n : Nat) : (s.setSlot b n).store.minSvn = s.store.minSvn := by
  cases b <;> rfl

theorem State.setSlot_slot (s : State) (b : Bool) (n : Nat) : (s.setSlot b n).store.slot b = n := by
  cases b <;> rfl

theorem State.setSlot_slot_other (s : State) (b : Bool) (n : Nat) : (s.setSlot (!b) n).store.slot b = s.store.slot b := by
  cases b <;> rfl

/-- The boot slot that was tried is confirmed, the other one is the last good image, and the fused minimum rises to the image's version. -/
def State.confirmSlot (s : State) (svn : Nat) : State :=
  ((s.setSlot s.store.runningB 4).setSlot (!s.store.runningB) 1).modStore (fun t => { t with minSvn := max t.minSvn svn })

theorem State.confirmSlot_leaves (s : State) (svn : Nat) : (s.confirmSlot svn).power = s.power ∧
    s.store.minSvn ≤ (s.confirmSlot svn).store.minSvn ∧ (s.confirmSlot svn).store.slot s.store.runningB = 4 ∧
    (s.confirmSlot svn).store.slot (!s.store.runningB) = 1 := by
  unfold State.confirmSlot
  generalize s.store.runningB = b
  refine ⟨?_, ?_, ?_, ?_⟩
  · rw [State.modStore_power, State.setSlot_power, State.setSlot_power]
  · rw [State.modStore_store, State.setSlot_minSvn, State.setSlot_minSvn]
    exact Nat.le_max_left _ _
  · rw [State.modStore_store]
    exact (State.setSlot_slot_other _ b _).trans (State.setSlot_slot s b _)
  · rw [State.modStore_store]
    exact State.setSlot_slot _ (!b) _

/-- A start, in the words of the claims. -/
theorem started_start (s : State) (cause : Nat) (refclk : Bool) : started (s.start cause refclk) cause refclk ∧
    (s.start cause refclk).peer.incarnation = (s.peer.incarnation + 1) % 2 ^ 32 := by
  obtain ⟨⟨x, rs, hpower⟩, hrun, hlock, hinc⟩ := State.start_leaves s cause refclk
  refine ⟨?_, hinc⟩
  unfold started
  rw [hpower]
  exact ⟨rfl, rfl, rfl, rfl, rfl, rfl, rfl, rfl, rfl, hrun, hlock⟩

/-- Table 16-4: a controller that is off, with nothing fetched. -/
theorem ctlCleared_of {t : State} {fn : Nat} (hoff : (t.ctl fn).off) (ho : ∀ o ∈ t.nvme.outstanding, o.1.fn ≠ fn) : ctlCleared t fn := by
  obtain ⟨henabled, hready, hsqs, hcqs⟩ := hoff
  exact ⟨henabled, hready, hsqs, hcqs, ho⟩

theorem not_mem_outstanding {t s : State} {fn : Nat} (h : t.nvme.outstanding = s.nvme.outstanding.filter (fun o => !(o.1.fn == fn))) :
    ∀ o ∈ t.nvme.outstanding, o.1.fn ≠ fn := by
  intro o ho
  rw [h, List.mem_filter] at ho
  simpa using ho.2

/-- R414: what CC.EN cleared leaves of the controller. -/
def Ctl.disabled (c : Ctl) : Ctl :=
  { c with enabled := false, ready := false, sqs := [], cqs := [], tsValue := 0, tsAt := 0, tsSet := false, shutdown := 0 }

theorem State.controllerReset_ctl (s : State) (fn reason : Nat) :
    (s.controllerReset fn reason).ctl fn = ((s.abortFn fn reason).ctl fn).disabled := by
  have hset : ((s.abortFn fn reason).modCtl fn Ctl.disabled).ctl fn = ((s.abortFn fn reason).ctl fn).disabled := State.ctl_modCtl _ _ _
  unfold State.controllerReset
  dsimp only
  split
  · exact (State.ctl_of_nvme rfl fn).trans hset
  · exact hset

theorem State.controllerReset_nvme (s : State) (fn reason : Nat) :
    (s.controllerReset fn reason).nvme.outstanding = (s.abortFn fn reason).nvme.outstanding ∧
    (s.controllerReset fn reason).nvme.cache = (s.abortFn fn reason).nvme.cache := by
  unfold State.controllerReset
  dsimp only
  split <;> exact ⟨rfl, rfl⟩

/-- Table 16-4: a controller that an FLR cleared. -/
theorem ctlCleared_clearController (s : State) (fn reason : Nat) : ctlCleared (s.clearController fn reason) fn :=
  ctlCleared_of (by rw [State.clearController_ctl]; exact ⟨rfl, rfl, rfl, rfl⟩) (not_mem_outstanding (State.clearController_nvme s fn reason).1)

theorem ctlCleared_of_nvme {s t : State} {fn : Nat} (h : t.nvme = s.nvme) (hc : ctlCleared s fn) : ctlCleared t fn := by
  have hctl : t.ctl fn = s.ctl fn := State.ctl_of_nvme (congrArg NvmeSt.ctls h) fn
  unfold ctlCleared at *
  rwa [hctl, h]

/-- R323: a shutdown with nothing cached is complete, and a device time record is due. -/
theorem State.finishShutdown_done {s : State} {fn : Nat} {c : Ctl} (hcache : s.nvme.cache = []) (hwait : s.nvme.waiting = [])
    (hfn : tfind s.nvme.ctls fn = some c) (hc : c.shutdown = 1) :
    (s.finishShutdown.ctl fn).shutdown = 2 ∧ { kind := .timeRecord } ∈ s.finishShutdown.store.queue := by
  have hdue : s.nvme.ctls.any (fun c => c.2.shutdown == 1) = true := List.any_eq_true.mpr ⟨_, mem_of_tfind hfn, by simp [hc]⟩
  unfold State.finishShutdown
  rw [if_pos ⟨hcache, hwait⟩]
  dsimp only
  rw [if_pos hdue]
  refine ⟨?_, List.mem_append_right _ (List.mem_singleton_self _)⟩
  simp only [State.ctl, State.modStore_nvme, State.modNvme_nvme, tget, tfind_tmap, hfn, Option.map_some, Option.getD_some, hc, if_true]

theorem State.finishShutdown_cached {s : State} (h : s.nvme.cache ≠ []) : s.finishShutdown = s := if_neg (fun hn => h hn.1)

/-- R47: RUNs in progress go on to the end of their tile. -/
theorem State.endSoftAll_inTile (l : List Cmd) {s : State} (st : Nat) (h : ∀ c ∈ s.cmds, c.inTile = true ∧ c.status = none) :
    (∀ c ∈ (l.foldl (fun s c => s.endSoft c.uid st 0) s).cmds, c.inTile = true ∧ c.status = none) ∧
    Frame [.cmds] s (l.foldl (fun s c => s.endSoft c.uid st 0) s) := by
  induction l generalizing s with
  | nil => exact ⟨h, Frame.refl _ _⟩
  | cons c l ih =>
    obtain ⟨hcmds, hframe⟩ := State.endSoft_inTile c.uid st 0 h
    obtain ⟨hall, hrest⟩ := ih hcmds
    exact ⟨hall, hframe.after hrest rfl⟩

end Sys2Proof.Machine

namespace Sys2Proof.Proofs
-- One thread elaborates these proofs: in parallel they ask for more stacks than the check allows.
set_option Elab.async false
open Sys2Proof.Machine Sys2Proof.Claims

/-! ### PERST# and the start -/

theorem exec_perstAssert {s : State} (hmode : s.power.mode = .running) (hrec : s.power.recovering.contains 2 = false) :
    exec .perstAssert s = .next ((s.modPower (fun p => { p with perstPin := true })).haltCores.modPower (fun p => { p with mode := .perst })) := by
  simp only [exec, execPerstAssert, hmode, hrec, if_true, Bool.false_eq_true, if_false]

theorem perstAssert_holds : perstAssert := by
  intro s hmode hrec
  have hleaves := State.haltCores_leaves (s.modPower (fun p => { p with perstPin := true }))
  refine ⟨_, exec_perstAssert hmode hrec, ?_⟩
  generalize (s.modPower (fun p => { p with perstPin := true })).haltCores = u at hleaves
  obtain ⟨hcmds, hctx, hcache, hns, -, hvalid, hperiod, hpower⟩ := hleaves
  refine ⟨rfl, ?_, ?_, ?_, hcmds, fun n => ?_, hcache, hns, hvalid, hperiod⟩
  · rw [State.modPower_power, hpower]
    rfl
  · rw [State.modPower_power, hpower]
  · rw [State.modPower_power, hpower]
  · have hn : (u.modPower (fun p => { p with mode := .perst })).ctx n = _ := hctx n
    rw [hn]
    exact ⟨rfl, rfl, rfl⟩

theorem perstDeassert_holds : perstDeassert := by
  intro refclk s
  refine ⟨fun hmode => ⟨s.start s.power.resetCause refclk, ?_, started_start _ _ _⟩,
    fun hmode hrec => ⟨s.start 2 refclk, ?_, started_start _ _ _⟩⟩
  · simp only [exec, execPerstDeassert, hmode]
  · simp only [exec, execPerstDeassert, hmode, hrec, Bool.false_eq_true, if_false]

theorem controllerEnable_holds : controllerEnable := by
  intro fn s hlinked hfn hready
  let on (c : Ctl) : Ctl := { c with enabled := true, ready := true, told := true }
  let s1 := (s.modCtl fn on).modPower (fun p => { p with nvmeReady := true })
  let dw := eventDw 7 0x00 0xC0
  let tell := !s.store.lacuna.isEmpty && !(s.ctl fn).told
  have hexec : exec (.controllerEnable fn) s = .next (if tell then s1.asyncEvent fn dw else s1) := if_pos ⟨hlinked, hfn, hready⟩
  have hon : s1.ctl fn = on (s.ctl fn) := State.ctl_modCtl s fn on
  have hother (m : Nat) (hm : m ≠ fn) : s1.ctl m = s.ctl m := State.ctl_modCtl_other s on hm
  refine ⟨_, hexec, ?_⟩
  cases tell
  case false => exact ⟨congrArg Ctl.enabled hon, congrArg Ctl.ready hon, rfl, hother⟩
  case true =>
    obtain ⟨a, h, hctl⟩ := State.asyncEvent_ctl s1 fn dw
    rw [hon] at hctl
    exact ⟨congrArg Ctl.enabled hctl, congrArg Ctl.ready hctl, (State.asyncEvent_frame s1 fn dw).power_eq,
      fun m hm => (State.asyncEvent_ctl_other s1 dw hm).trans (hother m hm)⟩

theorem exec_computeReady {s : State} (hlinked : s.linked = true) (hready : s.power.nvmeReady = true) (hdone : s.power.checkDone = true)
    (hnot : s.power.computeReady = false) : exec .computeReady s =
      if s.store.slot s.store.runningB = 3 then
        .next ((s.modPower (fun p => { p with computeReady := true })).confirmSlot
          (match s.store.image s.store.runningB with | some i => i.svn | none => 0))
      else .next (s.modPower (fun p => { p with computeReady := true })) :=
  if_pos ⟨hlinked, hready, hdone, hnot⟩

theorem computeReady_holds : computeReady := by
  intro s hlinked hready hdone hnot
  rw [exec_computeReady hlinked hready hdone hnot]
  by_cases hslot : s.store.slot s.store.runningB = 3
  · rw [if_pos hslot]
    obtain ⟨hpower, hmin, hconfirmed, hother⟩ := State.confirmSlot_leaves (s.modPower (fun p => { p with computeReady := true }))
      (match s.store.image s.store.runningB with | some i => i.svn | none => 0)
    exact ⟨_, rfl, hpower, hmin, fun _ => ⟨hconfirmed, hother⟩, fun h => absurd hslot h⟩
  · rw [if_neg hslot]
    exact ⟨_, rfl, rfl, Nat.le_refl _, fun h => absurd h hslot, fun _ => rfl⟩

/-- Settles O10. -/
theorem perstAndStart : Obligations.PerstAndStart :=
  ⟨perstAssert_holds, perstDeassert_holds, controllerEnable_holds, computeReady_holds⟩

/-! ### The resets of functions, the shutdown, the host link -/

theorem controllerReset_holds : controllerReset := by
  intro fn s hlinked hfn
  obtain ⟨hout, hcache, -⟩ := State.abortFn_nvme s fn 2
  obtain ⟨a, h, hctl⟩ := State.abortFn_ctl s fn 2
  obtain ⟨hout', hcache'⟩ := State.controllerReset_nvme s fn 2
  have hreset := State.controllerReset_ctl s fn 2
  rw [hctl] at hreset
  refine ⟨_, congrArg Host.Outcome.next (if_pos ⟨hlinked, hfn⟩), ctlCleared_of ?_ (not_mem_outstanding (hout'.trans hout)), ?_, ?_, ?_,
    (State.controllerReset_frame s fn 2).ctxs_eq⟩
  · rw [hreset]
    exact ⟨rfl, rfl, rfl, rfl⟩
  · rw [hreset]
    rfl
  · rw [hreset]
    rfl
  · rw [hcache', hcache]

theorem flrVf_holds : flrVf := by
  intro fn s hlinked hfn hvf
  have hexec : exec (.flr fn) s = .next ((s.clearController fn 1).resetCtx fn 1) := by
    simp only [exec, execFlr, hlinked, hfn, hvf, and_self, if_true, if_false]
  have hclear := State.clearController_frame s fn 1
  have hframe := State.resetCtx_frame (s.clearController fn 1) fn 1
  have hctl : ((s.clearController fn 1).resetCtx fn 1).ctl fn = ((s.abortFn fn 1).ctl fn).cleared :=
    (State.ctl_of_nvme (congrArg NvmeSt.ctls hframe.nvme_eq) fn).trans (State.clearController_ctl s fn 1)
  refine ⟨_, hexec, ctlCleared_of_nvme hframe.nvme_eq (ctlCleared_clearController s fn 1), by rw [hctl]; rfl, State.resetCtx_state _ _ _,
    fun n hn => ?_, hframe.errs_eq.trans hclear.errs_eq⟩
  rw [State.resetCtx_other _ _ hn, State.ctx, State.ctx, hclear.ctxs_eq]

theorem flrPf_holds : flrPf := by
  intro s hlinked
  let s1 := (s.clearControllers 1).clearSelects
  let keys := s1.ctxs.map (·.1)
  have hexec : exec (.flr 0) s = .next (keys.foldl (fun s c => s.resetCtx c 1) s1) := by
    simp only [exec, execFlr, hlinked, Nat.zero_lt_succ, and_self, if_true]
    rfl
  have hclear := State.clearControllers_frame s 1
  have hselects := State.clearSelects_frame (s.clearControllers 1)
  have hframe := State.resetAll_frame keys s1 1
  obtain ⟨hoff, hout, -, -⟩ := State.clearControllers_all s 1
  have hctxs : s1.ctxs = s.ctxs := hselects.ctxs_eq.trans hclear.ctxs_eq
  have hcleared : ctlCleared (s.clearControllers 1) 0 := ctlCleared_of (hoff 0) (by rw [hout]; exact fun o ho => absurd ho List.not_mem_nil)
  refine ⟨_, hexec, ctlCleared_of_nvme (hframe.nvme_eq.trans hselects.nvme_eq) hcleared, fun c hc => ?_, ?_⟩
  · exact State.resetAll_state _ _ _ _ (Or.inl (List.mem_map_of_mem (hctxs ▸ hc)))
  · rw [hframe.errs_eq, hframe.ledger_eq]
    refine ⟨rfl, rfl, rfl, rfl, ?_⟩
    show (s.clearControllers 1).ledger.ring = s.ledger.ring
    rw [hclear.ledger_eq]

theorem shutdownNotification_holds : shutdownNotification := by
  intro fn abrupt s hlinked hfn henabled
  let s1 := s.modCtl fn (fun c => { c with shutdown := 1 })
  have hexec : exec (.shutdownNotification fn abrupt) s = .next s1.finishShutdown := congrArg Host.Outcome.next (if_pos ⟨hlinked, hfn, henabled⟩)
  refine ⟨_, hexec, fun hcache hwait => State.finishShutdown_done hcache hwait (tfind_tset_same _ _ _) rfl, fun hcache => ?_⟩
  rw [State.finishShutdown_cached (s := s1) hcache]
  exact ⟨congrArg Ctl.shutdown (State.ctl_modCtl _ _ _), rfl⟩

theorem hostLinkLoss_holds : hostLinkLoss := by
  intro s hlinked
  let s0 := s.modPower (fun p => { p with linkUp := false })
  let f (c : Cmd) : Bool := c.status.isSome || !c.inTile
  let s2 := (s0.clearControllers 4).clearSelects.abortKci f 4
  have hexec : exec .hostLinkLoss s = .next (s2.cmds.foldl (fun s c => s.endSoft c.uid stLinkLost 0) s2) := if_pos hlinked
  have hclear := State.clearControllers_frame s0 4
  have hselects := State.clearSelects_frame (s0.clearControllers 4)
  have habort := State.abortKci_frame (s0.clearControllers 4).clearSelects f 4
  obtain ⟨hoff, hout, hcache, -⟩ := State.clearControllers_all s0 4
  obtain ⟨c, o, hnvme⟩ := State.abortKci_nvme (s0.clearControllers 4).clearSelects f 4
  have hleft : ∀ c ∈ s2.cmds, c.inTile = true ∧ c.status = none := by
    intro c hc
    obtain ⟨hin, hnot⟩ := List.mem_filter.mp ((State.abortKci_cmds _ f 4) ▸ hc)
    have hf : f c = false := by
      by_contra hf
      have hmem : c.uid ∈ ((s0.clearControllers 4).clearSelects.cmds.filter f).map (·.uid) :=
        List.mem_map_of_mem (List.mem_filter.mpr ⟨hin, by simpa using hf⟩)
      simp [hmem] at hnot
    simpa [f, and_comm] using hf
  obtain ⟨hcmds, hframe⟩ := State.endSoftAll_inTile s2.cmds stLinkLost hleft
  have hnvme2 : s2.nvme = { (s0.clearControllers 4).nvme with ctls := c, out := o } := hselects.nvme_eq ▸ hnvme
  have hcleared (fn : Nat) : ctlCleared s2 fn := by
    refine ctlCleared_of (State.abortKci_off _ f 4 fn ?_) ?_
    · rw [State.ctl_of_nvme (congrArg NvmeSt.ctls hselects.nvme_eq)]
      exact hoff fn
    · rw [hnvme2]
      exact fun x hx => absurd (hout ▸ hx) List.not_mem_nil
  refine ⟨_, hexec, ?_, fun fn => ctlCleared_of_nvme hframe.nvme_eq (hcleared fn), ?_, hcmds⟩
  · rw [hframe.power_eq, habort.power_eq, hselects.power_eq, hclear.power_eq]
    rfl
  · rw [hframe.nvme_eq, hnvme2]
    exact hcache

theorem hostLinkReturn_holds : hostLinkReturn := by
  intro s hlive hdown
  let s1 := s.modPower (fun p => { p with linkUp := true })
  have hexec : exec .hostLinkReturn s = .next ((s1.ctxs.map (·.1)).foldl (fun s c => s.resetCtx c 4) s1) := if_pos ⟨hlive, hdown⟩
  refine ⟨_, hexec, (State.resetAll_frame _ s1 4).power_eq, fun c hc => ?_⟩
  exact State.resetAll_state _ _ _ _ (Or.inl (List.mem_map_of_mem hc))

/-- Settles O11. -/
theorem functionResets : Obligations.FunctionResets :=
  ⟨controllerReset_holds, flrVf_holds, flrPf_holds, shutdownNotification_holds, hostLinkLoss_holds, hostLinkReturn_holds⟩

/-! ### The recoveries of a die -/

/-- R419, R421: whatever brings a die into recovery, of what `recover` leaves. -/
theorem recoveryBegins_recover {c : Instr} {s : State} {d cause : Nat} (hc : exec c s = .next (s.recover d cause)) : recoveryBegins c s d := by
  intro hmode hd hrec hrec2
  have hleaves := State.recover_leaves s (cause := cause) hmode hd hrec hrec2
  refine ⟨_, hc, ?_⟩
  generalize s.recover d cause = t at hleaves
  obtain ⟨p, hp, hpower, hcmds⟩ := hleaves
  have hmode' : p.mode = .running := by
    split at hp <;> simp [hp, hmode]
  refine ⟨by rw [hpower], by rw [hpower], by rw [hpower]; exact hmode', fun h3 => ?_, fun h3 => ?_, fun h2 => ?_⟩
  · rw [hpower]
    simp [h3]
  · rw [hpower]
    simp [h3]
  · rw [if_pos h2] at hp
    exact ⟨by rw [hpower, hp], by rw [hpower, hp], hcmds h2⟩

theorem dieRecoveryDone_holds : dieRecoveryDone := by
  intro d s hrec hfailed
  let s1 := s.modPower (fun p => { p with recovering := p.recovering.filter (fun x => x != d) })
  refine ⟨fun hd => ⟨s1.settle.recheck, ?_, ?_⟩, fun hd hmode => ?_⟩
  · simp only [exec, execDieRecoveryDone, hrec, hfailed, hd, and_self, if_true, ne_eq, not_false_eq_true]
    rfl
  · rw [(State.recheck_frame _).power_eq, (State.settle_frame _).power_eq]
    rfl
  · subst hd
    obtain ⟨⟨x, rs, hpower⟩, -⟩ := State.start_leaves s1 3 s.power.commonClock
    refine ⟨s1.start 3 s.power.commonClock, ?_, (started_start _ _ _).1, ?_⟩
    · simp only [exec, execDieRecoveryDone, hrec, hfailed, hmode, and_self, if_true, ne_eq, not_true_eq_false, if_false]
      rfl
    · rw [hpower]
      simp [s1]

theorem dieRecoveryOverrun_holds : dieRecoveryOverrun := by
  intro d s hrec
  refine ⟨_, congrArg Host.Outcome.next (if_pos hrec), ?_⟩
  rw [State.enterFailed_power]
  exact ⟨rfl, rfl⟩

/-- Settles O12. -/
theorem dieRecoveries : Obligations.DieRecoveries :=
  ⟨fun _ _ _ => recoveryBegins_recover rfl, fun _ _ => recoveryBegins_recover rfl, fun _ => recoveryBegins_recover rfl,
    dieRecoveryDone_holds, dieRecoveryOverrun_holds⟩

end Sys2Proof.Proofs

/-! The error log as the claims speak of it; the thermal levels, the hold-up bank, device time, the monitors and the watches: O13 to O17. -/

namespace Sys2Proof.Machine
-- One thread elaborates these proofs: in parallel they ask for more stacks than the check allows.
set_option Elab.async false
open Sys2Proof.Claims

/-! ### What an error leaves in the log (R431 to R434) -/

/-- A record says what an error says. -/
def ErrArg.says (a : ErrArg) (r : ErrRec) : Prop := r.cls = a.cls ∧ r.kind = a.kind ∧ r.ctx = a.ctx ∧ r.unit = a.unit ∧ r.status = a.status

theorem ErrArg.joins_iff (a : ErrArg) (r : ErrRec) : a.joins r = true ↔ a.kind ≤ 2 ∧ a.says r := by
  simp only [ErrArg.joins, ErrArg.says, Bool.and_eq_true, decide_eq_true_eq, beq_iff_eq, and_assoc, @eq_comm Nat r.cls, @eq_comm Nat r.kind,
    @eq_comm Nat r.ctx, @eq_comm Nat r.unit, @eq_comm Nat r.status]

theorem bumpLast_concat (l : List ErrRec) (r : ErrRec) : bumpLast (l ++ [r]) = l ++ [{ r with repeats := satAdd 16 r.repeats 1 }] := by
  induction l with
  | nil => rfl
  | cons x xs ih =>
    rw [List.cons_append, List.cons_append, ← ih]
    cases xs <;> rfl

/-- R433: an error that the newest record takes up. -/
def State.joinsNewest (s : State) (a : ErrArg) : Prop :=
  ∃ r : ErrRec, s.errs.newest = some r ∧ a.joins r = true ∧ s.time.now ≤ s.errs.lastAt + 1000000

theorem State.joinsNewest_run (s : State) (a : ErrArg) : (match s.errs.newest with
    | some r => a.joins r && decide (s.time.now ≤ s.errs.lastAt + 1000000)
    | none => false) = true ↔ s.joinsNewest a := by
  unfold State.joinsNewest
  cases s.errs.newest <;> simp

theorem State.logErr_of_joins {s : State} {a : ErrArg} (h : s.joinsNewest a) :
    s.logErr a = s.modErrs (fun e => if e.staging.isEmpty then { e with ring := bumpLast e.ring, lastAt := s.time.now }
      else { e with staging := bumpLast e.staging, lastAt := s.time.now }) :=
  if_pos ((State.joinsNewest_run s a).mpr h)

theorem State.logErr_of_full {s : State} {a : ErrArg} (h : ¬ s.joinsNewest a) (hf : 256 ≤ s.errs.staging.length) :
    s.logErr a = s.modErrs (fun e => { e with staging := bumpJoined a e.staging, dropped := satAdd 32 e.dropped 1 }) :=
  (if_neg (fun hr => h ((State.joinsNewest_run s a).mp hr))).trans (if_pos hf)

theorem State.logErr_of_room {s : State} {a : ErrArg} (h : ¬ s.joinsNewest a) (hr : logRoom s) :
    s.logErr a = (s.modErrs (fun e => { e with
      staging := e.staging ++ [a.toRec e.next s.time.now (s.stampFlags a.region)], next := e.next + 1, lastAt := s.time.now })).raiseNew :=
  (if_neg (fun hr => h ((State.joinsNewest_run s a).mp hr))).trans (if_neg (Nat.not_le_of_lt hr))

theorem State.raiseNew_errs (s : State) : s.raiseNew.errs = { s.errs with isNew := true } := by
  unfold State.raiseNew
  dsimp only
  split <;> rfl

theorem State.raiseNew_msix (s : State) : s.raiseNew.mgmt.msix = s.mgmt.msix ++
    (if s.errs.isNew = false ∧ bit s.errs.vec.toNat 31 = true then [(0, s.errs.vec.toNat % 512)] else []) := by
  unfold State.raiseNew
  dsimp only
  split
  · rfl
  · exact (List.append_nil _).symm

theorem logged_of_errs {s t : State} {a : ErrArg} (h : t.errs = s.errs) (hl : logged s a) : logged t a := by
  unfold logged
  rwa [h]

/-- With room an error stands in the log (R431, R433). -/
theorem State.logErr_logged {s : State} (a : ErrArg) (hroom : logRoom s) : logged (s.logErr a) a := by
  by_cases h : s.joinsNewest a
  · rw [State.logErr_of_joins h]
    obtain ⟨r, hnew, hjoin, -⟩ := h
    refine ⟨{ r with repeats := satAdd 16 r.repeats 1 }, ?_, ((ErrArg.joins_iff a r).mp hjoin).2⟩
    unfold ErrSt.newest at hnew
    cases hlast : s.errs.staging.getLast? with
    | none =>
      rw [hlast] at hnew
      obtain ⟨rs, hrs⟩ := List.getLast?_eq_some_iff.mp hnew
      have hnil : s.errs.staging = [] := List.getLast?_eq_none_iff.mp hlast
      simp [State.modErrs, hnil, hrs, bumpLast_concat]
    | some x =>
      rw [hlast] at hnew
      obtain rfl := Option.some.inj hnew
      obtain ⟨rs, hrs⟩ := List.getLast?_eq_some_iff.mp hlast
      simp [State.modErrs, hrs, bumpLast_concat]
  · rw [State.logErr_of_room h hroom]
    refine ⟨a.toRec s.errs.next s.time.now (s.stampFlags a.region), ?_, rfl, rfl, rfl, rfl, rfl⟩
    rw [State.raiseNew_errs]
    exact List.mem_append_left _ (List.mem_append_right _ (List.mem_singleton_self _))

/-- A test of a unit that is due stands among the tests. -/
theorem State.startTest_mem (s : State) (kind index cls seq : Nat) : ∃ x ∈ (s.startTest kind index cls seq).tests, x.kind = kind ∧ x.index = index := by
  unfold State.startTest
  split
  · rename_i h
    simpa using h
  · exact ⟨_, List.mem_append_right _ (List.mem_singleton_self _), rfl, rfl⟩

theorem State.logTest_logged {s : State} (a : ErrArg) (kind index : Nat) (h : logRoom s) :
    logged (s.logTest a kind index) { a with unit := unitOf kind index } :=
  logged_of_errs (State.startTest_frame _ _ _ _ _).errs_eq (State.logErr_logged _ h)

/-! ### The regions -/

theorem State.region_of_time {s t : State} (h : t.time.regions = s.time.regions) (r : Nat) : t.region r = s.region r := by
  unfold State.region
  rw [h]

theorem State.maxTj_of_time {s t : State} (h : t.time.regions = s.time.regions) : t.maxTj = s.maxTj := by
  unfold State.maxTj State.region
  rw [h]

theorem State.maxTn_of_power {s t : State} (h : t.power.tn = s.power.tn) : t.maxTn = s.maxTn := by
  unfold State.maxTn
  rw [h]

/-- A table that a list of numbers makes. -/
theorem tfind_map_keys {α : Type} (l : List Nat) (f : Nat → α) (k : Nat) : tfind (l.map (fun n => (n, f n))) k = if k ∈ l then some (f k) else none := by
  induction l with
  | nil => rfl
  | cons x xs ih =>
    by_cases h : k = x
    · simp [tfind, h]
    · simp [tfind, h, ih]

theorem tget_map_range {α : Type} (d : α) (n : Nat) (f : Nat → α) {k : Nat} (h : k < n) : tget d ((List.range n).map (fun m => (m, f m))) k = f k := by
  unfold tget
  rw [tfind_map_keys, if_pos (List.mem_range.mpr h)]
  rfl

theorem State.modRegions_region (s : State) (f : Region → Region) {r : Nat} (h : r < 42) : (s.modRegions f).region r = f (s.region r) :=
  tget_map_range _ _ _ h

/-- A list of entries that change one after the other, each once. -/
theorem tget_foldl_tmod {α : Type} (d : α) (f : Nat → α → α) (l : List Nat) (t : Table α) (k : Nat) (hl : l.Nodup) :
    tget d (l.foldl (fun t n => tmod d t n (f n)) t) k = if k ∈ l then f k (tget d t k) else tget d t k := by
  induction l generalizing t with
  | nil => rfl
  | cons x xs ih =>
    obtain ⟨hx, hxs⟩ := List.nodup_cons.mp hl
    rw [List.foldl_cons, ih _ hxs]
    by_cases h : k = x
    · subst h
      simp [hx, tmod]
    · simp [h, tmod, tget_tset_other]

/-! ### Rails and thermal levels -/

theorem State.modRails_power (s : State) (f : Nat → Rail → Rail) : ∃ rs : Table Rail, (s.modRails f).power = { s.power with rails := rs } := ⟨_, rfl⟩

theorem State.reclamp_power (s : State) : ∃ rs : Table Rail, s.reclamp.power = { s.power with rails := rs } := by
  unfold State.reclamp
  split
  · exact ⟨s.power.rails, rfl⟩
  · exact State.modRails_power s _

theorem State.regulate_power (s : State) : ∃ rs : Table Rail, s.regulate.power = { s.power with rails := rs } := by
  unfold State.regulate
  split
  · exact ⟨s.power.rails, rfl⟩
  · exact State.modRails_power s _

theorem State.setPstate_power (s : State) (ps : Nat) : ∃ rs : Table Rail, (s.setPstate ps).power =
    { s.power with pstate := ps, lastOp := if ps ≤ 3 then ps else s.power.lastOp, lowPending := none, rails := rs } :=
  State.modRails_power _ _

/-- The level in force follows the levels entered (R411). -/
theorem State.relevel_power (s : State) (addr : Nat) : ∃ rs : Table Rail, (s.relevel addr).power = { s.power with
    thermal := s.power.level, tm1 := if s.power.thermal = 0 ∧ 0 < s.power.level then satAdd 32 s.power.tm1 1 else s.power.tm1, rails := rs } := by
  unfold State.relevel
  extract_lets l old s1 s2
  obtain ⟨rs, hrs⟩ := State.reclamp_power (State.noteCritical s s2)
  refine ⟨rs, ?_⟩
  have hlog : Frame [.errs, .mgmt] s1 s2 := Frame.ite (State.logErr_frame _ _) (Frame.refl _ _)
  rw [hrs, (State.noteCritical_frame s s2).power_eq, hlog.power_eq]
  rfl

/-- The level is the highest one entered. -/
theorem PowerSt.level_throttled {p : PowerSt} (h : p.throttled = true) : 1 ≤ p.level := by
  unfold PowerSt.level
  split_ifs <;> omega

theorem PowerSt.level_emergency {p : PowerSt} (h : p.emergency = true) : 2 ≤ p.level := by
  unfold PowerSt.level
  rw [if_pos h]
  split <;> omega

theorem PowerSt.level_critical {p : PowerSt} (h : p.critical = true) : p.level = 3 := if_pos h

/-- R411: the temperatures that a sample gives. -/
def State.withTemps (s : State) (tj tn : List Int) : State :=
  (s.modTime (fun t => { t with regions := (List.range 42).foldl (fun rs r => tmod Region.reset rs r (fun x => { x with tj := tj.getD r x.tj })) t.regions })).modPower
    (fun p => { p with tn := (List.range 32).map (fun k => (k, tn.getD k (tget 0 p.tn k))) })

theorem State.withTemps_tj (s : State) (tj tn : List Int) {r : Nat} (h : r < 42) : ((s.withTemps tj tn).region r).tj = tj.getD r (s.region r).tj := by
  unfold State.region State.withTemps
  rw [State.modPower_time, State.modTime_time, tget_foldl_tmod _ (fun r (x : Region) => { x with tj := tj.getD r x.tj }) _ _ _ List.nodup_range,
    if_pos (List.mem_range.mpr h)]

theorem State.withTemps_tn (s : State) (tj tn : List Int) {k : Nat} (h : k < 32) : tget 0 (s.withTemps tj tn).power.tn k = tn.getD k (tget 0 s.power.tn k) :=
  tget_map_range _ _ _ h

/-- R411: the levels that the temperatures enter, and the timers of the conditions on them. -/
def PowerSt.heated (p : PowerSt) (j n : Int) (now : Nat) (breaching : Bool) : PowerSt := { p with
  hotSince := timer (decide (1840 ≤ j)) now p.hotSince
  throttled := p.throttled || decide (1520 ≤ j)
  emergency := p.emergency || decide (1680 ≤ j ∨ 1360 ≤ n) || breaching
  critical := (p.critical && !decide (j ≤ 1600 ∧ n ≤ 1280)) || ran (timer (decide (1840 ≤ j)) now p.hotSince) now 1000000 || decide (1440 ≤ n)
  calmSince := timer (decide (j ≤ 1440)) now p.calmSince
  coolSince := timer (decide (j ≤ 1600 ∧ n ≤ 1280) && !breaching) now p.coolSince }

theorem PowerSt.heated_critical {p : PowerSt} {j n : Int} {now : Nat} {b : Bool} {x : Nat} (hx : p.hotSince = some x) (h : x + 1000000 ≤ now)
    (hj : 1840 ≤ j) : (p.heated j n now b).critical = true := by
  simp [PowerSt.heated, timer, ran, hx, hj, h]

end Sys2Proof.Machine

namespace Sys2Proof.Proofs
-- One thread elaborates these proofs: in parallel they ask for more stacks than the check allows.
set_option Elab.async false
open Sys2Proof.Machine Sys2Proof.Claims

/-! ### Thermal levels, rails and power states -/

theorem exec_thermalSample {s : State} (hlive : s.live = true) (tj tn : List Int) : ∃ addr : Nat, exec (.thermalSample tj tn) s =
    .next (((s.withTemps tj tn).modPower (fun p => p.heated (s.withTemps tj tn).maxTj (s.withTemps tj tn).maxTn s.time.now
      (s.withTemps tj tn).breaching)).relevel addr) := by
  refine ⟨if 1520 ≤ (s.withTemps tj tn).maxTj then ((List.range 42).find? (fun r => ((s.withTemps tj tn).region r).tj == (s.withTemps tj tn).maxTj)).getD 0
    else ((List.range 32).find? (fun k => tget 0 (s.withTemps tj tn).power.tn k == (s.withTemps tj tn).maxTn)).getD 0, ?_⟩
  show execThermalSample tj tn s = _
  unfold execThermalSample State.withTemps PowerSt.heated
  rw [if_neg (by simp [hlive])]

theorem thermalSample_holds : thermalSample := by
  intro tj tn s hlive
  obtain ⟨addr, hexec⟩ := exec_thermalSample hlive tj tn
  refine ⟨_, hexec, ?_⟩
  generalize hs2 : s.withTemps tj tn = s2
  let p := s2.power.heated s2.maxTj s2.maxTn s.time.now s2.breaching
  let s3 := s2.modPower (fun p => p.heated s2.maxTj s2.maxTn s.time.now s2.breaching)
  have htime : (s3.relevel addr).time = s2.time := (State.relevel_frame s3 addr).time_eq
  obtain ⟨rs, hpower⟩ := State.relevel_power s3 addr
  have hthermal : s2.power.thermal = s.power.thermal := by rw [← hs2]; rfl
  have htm1 : s2.power.tm1 = s.power.tm1 := by rw [← hs2]; rfl
  have hpower' : (s3.relevel addr).power = { p with
      thermal := p.level, tm1 := if s.power.thermal = 0 ∧ 0 < p.level then satAdd 32 s.power.tm1 1 else s.power.tm1, rails := rs } := by
    rw [hpower, ← hthermal, ← htm1]
    rfl
  have htn : (s3.relevel addr).power.tn = s2.power.tn := by rw [hpower']; rfl
  rw [State.maxTj_of_time (congrArg TimeSt.regions htime), State.maxTn_of_power htn, hpower']
  refine ⟨fun r hr => ?_, fun k hk => ?_, fun h => ?_, fun h => ?_, fun h => ?_, fun x hx hnow hj => ?_, fun h0 hl => ?_, fun h => ?_⟩
  · rw [State.region_of_time (congrArg TimeSt.regions htime), ← hs2]
    exact State.withTemps_tj s tj tn hr
  · rw [← State.withTemps_tn s tj tn hk, hs2]
    rfl
  · exact PowerSt.level_throttled (by simp [p, PowerSt.heated, h])
  · exact PowerSt.level_emergency (p := p) (by simp only [p, PowerSt.heated, h, decide_true, Bool.or_true, Bool.true_or])
  · exact PowerSt.level_critical (p := p) (by simp only [p, PowerSt.heated, h, decide_true, Bool.or_true])
  · refine PowerSt.level_critical (PowerSt.heated_critical (x := x) ?_ hnow hj)
    rw [← hs2]
    exact hx
  · exact if_pos ⟨h0, hl⟩
  · refine if_neg (fun hn => ?_)
    rcases h with h | h
    · omega
    · exact absurd hn.2 (by show ¬ 0 < p.level; rw [show p.level = 0 from h]; omega)

theorem ran_iff_held100 (t : Option Nat) (now : Nat) : ran t now 100000000 = true ↔ held100 t now := by
  cases t <;> simp [ran, held100]

theorem thermalLevelExit_holds : thermalLevelExit := by
  intro s hlive
  let s1 := s.modPower (fun p =>
      let e := p.emergency && !(!p.critical && ran p.coolSince s.time.now 100000000)
      { p with emergency := e, throttled := p.throttled && (e || p.critical || !ran p.calmSince s.time.now 100000000) })
  have hexec : exec .thermalLevelExit s = .next (s1.relevel 0) := if_pos hlive
  obtain ⟨rs, hpower⟩ := State.relevel_power s1 0
  refine ⟨_, hexec, ?_⟩
  simp only [hpower, ← ran_iff_held100]
  refine ⟨rfl, rfl, fun hc hcool => ?_, fun h => ?_, fun hc he hcalm => ?_, fun h => ?_⟩
  · simp [s1, hc, hcool]
  · rcases h with h | h <;> simp [s1, h]
  · have hc' : s.power.critical = false := hc
    have hcalm' : ran s.power.calmSince s.time.now 100000000 = true := hcalm
    show (s.power.throttled && (s1.power.emergency || s.power.critical || !ran s.power.calmSince s.time.now 100000000)) = false
    rw [show s1.power.emergency = false from he, hc', hcalm']
    exact Bool.and_false _
  · show (s.power.throttled && (s1.power.emergency || s.power.critical || !ran s.power.calmSince s.time.now 100000000)) = s.power.throttled
    rcases h with h | h | h
    · rw [show s.power.critical = true from h, Bool.or_true, Bool.true_or, Bool.and_true]
    · rw [show s1.power.emergency = true from h, Bool.true_or, Bool.true_or, Bool.and_true]
    · rw [Bool.eq_false_of_not_eq_true h, Bool.not_false, Bool.or_true, Bool.and_true]

theorem stepRail_toward (r : Rail) : (stepRail r).target = r.target ∧ (r.cur = r.target → (stepRail r).cur = r.cur) ∧
    (r.cur < r.target → r.cur < (stepRail r).cur ∧ (stepRail r).cur ≤ r.cur + 5 ∧ (stepRail r).cur ≤ r.target) ∧
    (r.target < r.cur → (stepRail r).cur < r.cur ∧ r.cur ≤ (stepRail r).cur + 5 ∧ r.target ≤ (stepRail r).cur) := by
  unfold stepRail
  split_ifs with hup hdown
  · simp only [true_and]
    omega
  · simp only [true_and]
    omega
  · exact ⟨rfl, fun _ => rfl, fun h => absurd h hup, fun h => absurd h hdown⟩

theorem voltageRampStep_holds : voltageRampStep := by
  intro s hlive
  refine ⟨_, congrArg Host.Outcome.next (if_pos hlive), fun d r hr => ⟨stepRail r, ?_, stepRail_toward r⟩⟩
  rw [State.modPower_power, tfind_tmap, hr]
  rfl

theorem lowPowerWake_holds : lowPowerWake := by
  intro s hlive hps
  have hexec : exec .lowPowerWake s = .next (s.setPstate s.power.lastOp) := congrArg Host.Outcome.next (if_pos ⟨hlive, hps⟩)
  obtain ⟨rs, hpower⟩ := State.setPstate_power s s.power.lastOp
  exact ⟨_, hexec, by rw [hpower], by rw [hpower]⟩

theorem lowPowerEntry_holds : lowPowerEntry := by
  intro ps s hlive hpending
  have hexec : exec .lowPowerEntry s = .next (if s.live = true ∧ s.nvme.cache = [] ∧ s.nvme.waiting = [] then s.setPstate ps else s) := by
    show execLowPowerEntry s = _
    unfold execLowPowerEntry
    rw [hpending]
  rw [hexec]
  refine ⟨fun hcache hwait => ?_, fun hcache => by rw [if_neg (fun h => hcache h.2.1)]⟩
  rw [if_pos ⟨hlive, hcache, hwait⟩]
  obtain ⟨rs, hpower⟩ := State.setPstate_power s ps
  refine ⟨_, rfl, by rw [hpower], by rw [hpower], fun h => ?_⟩
  rw [hpower]
  exact if_neg (by omega)

theorem apstIdleExpiry_holds : apstIdleExpiry := fun _ hlive hapst hps hidle hne hnow =>
  congrArg Host.Outcome.next (if_pos ⟨hlive, hapst, hps, hne, hidle, hnow⟩)

/-- Settles O13. -/
theorem heatAndPowerStates : Obligations.HeatAndPowerStates :=
  ⟨thermalSample_holds, thermalLevelExit_holds, voltageRampStep_holds, lowPowerWake_holds, lowPowerEntry_holds, apstIdleExpiry_holds⟩

/-! ### The hold-up bank -/

theorem startCheck_eq (s : State) : s.startCheck = { s with power := { s.power with checkRunning := true } } := by
  unfold State.startCheck
  split
  · rename_i h
    rw [← h]
  · rfl

theorem holdupCheck_holds : holdupCheck := fun s hlive =>
  congrArg Host.Outcome.next ((if_pos hlive).trans (startCheck_eq s))

theorem pwrHoldupCheckStart_holds : pwrHoldupCheckStart := fun _ s hopen hbit =>
  congrArg Host.Outcome.next ((if_pos ⟨hopen, hbit⟩).trans (startCheck_eq s))

/-- Table 17-6: bit 4 is the bank's. -/
theorem critical_bank (s : State) : bit s.critical 4 = s.power.bankFailed := by
  have hsum : ∀ a b c d e : Bool, bit (b2n a + 2 * b2n b + 4 * b2n c + 8 * b2n d + 16 * b2n e) 4 = e := by decide
  exact hsum _ _ _ _ _

theorem holdupCheckDone_holds : holdupCheckDone := by
  intro dt s hlive hrun hroom
  let bad := decide (9 * 1081 * 4 * dt < 320 * 20 * 136 * 1000)
  let s1 := s.modPower (fun p => { p with
    checkRunning := false, checkDone := true, bankFailed := bad, holdCap := min (bankCap dt) 65535, holdEnergy := min (bankEnergy dt) 65535 })
  let a : ErrArg := { cls := 0x51, kind := 2, detail := min (bankEnergy dt) 65535 }
  let s2 := if bad then s1.logErr a else s1
  have hexec : exec (.holdupCheckDone dt) s = .next (State.noteCritical s s2) := if_pos ⟨hlive, hrun⟩
  have hnote := State.noteCritical_frame s s2
  have hlog : Frame [.errs, .mgmt] s1 s2 := Frame.ite (State.logErr_frame _ _) (Frame.refl _ _)
  have hpower : (State.noteCritical s s2).power = s1.power := hnote.power_eq.trans hlog.power_eq
  refine ⟨_, hexec, by rw [hpower]; rfl, by rw [hpower]; rfl, by rw [hpower]; rfl, ?_, critical_bank _, fun h => ?_, fun h => ?_⟩
  · rw [hpower]
    show bad = true ↔ _
    rw [decide_eq_true_iff]
    omega
  · rw [hpower] at h
    have hs2 : s2 = s1.logErr a := if_pos h
    exact logged_of_errs hnote.errs_eq (hs2 ▸ State.logErr_logged (s := s1) a hroom)
  · rw [hpower] at h
    have hs2 : s2 = s1 := if_neg (by rw [show bad = false from h]; exact Bool.false_ne_true)
    rw [hnote.errs_eq, hs2]
    rfl

/-- Settles O14. -/
theorem holdUpBank : Obligations.HoldUpBank := ⟨holdupCheck_holds, pwrHoldupCheckStart_holds, holdupCheckDone_holds⟩

/-! ### Device time and beacons -/

theorem crystalPeriod_holds : crystalPeriod := fun _ h => congrArg Host.Outcome.next (if_pos h)

theorem deviceTimeRecord_holds : deviceTimeRecord := fun _ hlive hdue => congrArg Host.Outcome.next (if_pos ⟨hlive, hdue⟩)

theorem beaconSend_holds : beaconSend := by
  intro s htick hbeacon
  refine ⟨_, congrArg Host.Outcome.next (if_pos ⟨htick, hbeacon⟩), rfl, rfl, fun r hr => ?_⟩
  rw [State.modRegions_region _ _ hr]
  generalize hx : State.region (s.modTime _) r = x
  obtain rfl : s.region r = x := hx
  by_cases hlock : (s.region r).lock = 3
  · rw [if_pos hlock, if_pos hlock]
  · rw [if_neg hlock, if_neg hlock]
    rfl

theorem beaconPathMeasure_holds : beaconPathMeasure := by
  intro r d s htick hr
  exact ⟨_, congrArg Host.Outcome.next (if_pos ⟨htick, hr⟩), State.region_modRegion _ _ _, fun m hm => State.region_modRegion_other _ _ hm⟩

end Sys2Proof.Proofs

namespace Sys2Proof.Machine
-- One thread elaborates these proofs: in parallel they ask for more stacks than the check allows.
set_option Elab.async false
open Sys2Proof.Claims

/-- R60: a beacon's error is what the region time lacks. -/
def Region.errorOf (r : Region) (b : Nat) : Int := (b * oneNs + r.delay16 * 2 ^ 22 : Nat) - (r.time : Int)

theorem Region.steer_lock (r : Region) (e : Int) (target draw : Nat) : (r.steer e target draw).lock = r.lock ∧ (r.steer e target draw).good = r.good := by
  unfold Region.steer
  split_ifs <;> exact ⟨rfl, rfl⟩

theorem Region.relock_time (r : Region) (e : Int) : (r.relock e).time = r.time ∧ (r.relock e).slew = r.slew := by
  unfold Region.relock
  dsimp only
  split_ifs <;> exact ⟨rfl, rfl⟩

/-- R60: region time and slew share after a beacon. -/
theorem Region.steer_time (r : Region) (b draw : Nat) : let e := r.errorOf b; let t := r.steer e (b * oneNs + r.delay16 * 2 ^ 22) draw
    r.time ≤ t.time ∧ (r.lock = 0 → 0 < e → t.time = b * oneNs + r.delay16 * 2 ^ 22) ∧
    (r.lock ≠ 0 → e.natAbs ≤ 1024 * oneNs → t.time = r.time ∧ t.slew = clampSlew (e / 1024)) := by
  intro e t
  simp only [t]
  unfold Region.steer
  by_cases hfar : r.lock = 0 ∨ 1024 * oneNs < e.natAbs
  · rw [if_pos hfar]
    by_cases hpos : 0 < e
    · rw [if_pos hpos]
      refine ⟨?_, fun _ _ => rfl, fun h1 h2 => by omega⟩
      simp only [e, Region.errorOf] at hpos
      show r.time ≤ b * oneNs + r.delay16 * 2 ^ 22
      omega
    · rw [if_neg hpos]
      exact ⟨Nat.le_refl _, fun _ h => absurd h hpos, fun h1 h2 => by omega⟩
  · rw [if_neg hfar]
    exact ⟨Nat.le_refl _, fun h => absurd (Or.inl h) hfar, fun _ _ => ⟨rfl, rfl⟩⟩

/-- R60, R61, R68: a region's time after a local tick. -/
def Region.tick (x : Region) (follows : Prop) [Decidable follows] (h : Nat) : Region :=
  if follows then { x with time := max (x.time + 1) h, ticks := x.ticks + 1 }
  else { x with time := max (x.time + 1) ((x.time : Int) + x.period + x.slew).toNat, ticks := x.ticks + 1 }

/-- Table 3-3: an UNLOCKED region begins to acquire. -/
theorem Region.relock_unlocked {r : Region} (e : Int) (h : r.lock = 0) : r.relock e = { r with lock := 1, good := 0 } := if_pos h

theorem Region.relock_acquiring_near {r : Region} {e : Int} (h : r.lock = 1) (he : e.natAbs ≤ 16 * oneNs) : r.relock e =
    if 8 ≤ r.good + 1 then { r with lock := 2, good := 0 } else { r with good := r.good + 1 } := by
  simp [Region.relock, h, he]

theorem Region.relock_acquiring_far {r : Region} {e : Int} (h : r.lock = 1) (he : 16 * oneNs < e.natAbs) : r.relock e = { r with good := 0 } := by
  simp [Region.relock, h, Nat.not_le_of_lt he]

theorem Region.relock_locked {r : Region} (e : Int) (h : r.lock = 2) : r.relock e =
    if 64 * oneNs < e.natAbs then { r with lock := 1, good := 0 } else r := by
  simp [Region.relock, h]

theorem Region.relock_heldOver_near {r : Region} {e : Int} (h : r.lock = 3) (he : e.natAbs ≤ 16 * oneNs) : r.relock e = { r with lock := 2, good := 0 } := by
  simp [Region.relock, h, he]

end Sys2Proof.Machine

namespace Sys2Proof.Proofs
-- One thread elaborates these proofs: in parallel they ask for more stacks than the check allows.
set_option Elab.async false
open Sys2Proof.Machine Sys2Proof.Claims

theorem beaconReceive_holds : beaconReceive := by
  intro r b s htick hr hb hosc
  let x := s.region r
  let e := x.errorOf b
  let y := x.steer e (b * oneNs + x.delay16 * 2 ^ 22) s.freeCtr
  have hexec : exec (.beaconReceive r b) s = .next (s.modRegion r (fun r => r.beacon b s.freeCtr)).drawn :=
    congrArg Host.Outcome.next (if_pos ⟨htick, hr, hb, hosc⟩)
  have htime := (State.drawn_frame (s.modRegion r (fun r => r.beacon b s.freeCtr))).time_eq
  have hregion : (s.modRegion r (fun r => r.beacon b s.freeCtr)).drawn.region r = { y.relock e with ticks := 0, missed := 0, heldFor := 0 } :=
    (State.region_of_time (congrArg TimeSt.regions htime) r).trans (State.region_modRegion _ _ _)
  obtain ⟨hle, hjump, hslew⟩ := Region.steer_time x b s.freeCtr
  obtain ⟨htime', hslew'⟩ := Region.relock_time y e
  obtain ⟨hlock, hgood⟩ := Region.steer_lock x e (b * oneNs + x.delay16 * 2 ^ 22) s.freeCtr
  refine ⟨_, hexec, fun m hm => (State.region_of_time (congrArg TimeSt.regions htime) m).trans (State.region_modRegion_other _ _ hm), ?_⟩
  rw [hregion]
  refine ⟨htime'.symm ▸ hle, rfl, rfl, rfl, fun h0 => ⟨?_, fun he => htime'.trans (hjump h0 he)⟩, fun h1 hnear => ?_, fun h1 hfar => ?_, fun h2 => ?_,
    fun h3 hnear => ?_, fun h0 he => ⟨htime'.trans (hslew h0 he).1, hslew'.trans (hslew h0 he).2⟩⟩
  · rw [Region.relock_unlocked e (hlock.trans h0)]
  · rw [Region.relock_acquiring_near (e := e) (hlock.trans h1) hnear, hgood]
    refine ⟨fun h7 => ?_, fun h7 => ?_⟩
    · rw [if_pos (Nat.succ_le_succ h7)]
    · rw [if_neg (by show ¬ 8 ≤ (s.region r).good + 1; omega)]
      exact ⟨hlock.trans h1, rfl⟩
  · rw [Region.relock_acquiring_far (e := e) (hlock.trans h1) hfar]
    exact ⟨hlock.trans h1, rfl⟩
  · rw [Region.relock_locked e (hlock.trans h2)]
    by_cases hfar : 64 * oneNs < e.natAbs
    · rw [if_pos hfar]
      exact ⟨fun _ => hfar, fun _ => rfl⟩
    · rw [if_neg hfar]
      exact ⟨fun h => absurd ((hlock.trans h2).symm.trans h) (by decide), fun h => absurd h hfar⟩
  · rw [Region.relock_heldOver_near (e := e) (hlock.trans h3) hnear]

theorem beaconMissLimit_holds : beaconMissLimit := by
  intro r s htick hr hlock hosc
  refine ⟨fun h => ?_, fun h => congrArg Host.Outcome.next (if_neg (fun hn => by omega))⟩
  refine ⟨_, congrArg Host.Outcome.next (if_pos ⟨htick, hr, hlock, h, hosc⟩), ?_, ?_, fun m hm => State.region_modRegion_other _ _ hm⟩ <;>
    rw [State.region_modRegion]

/-- The error that a HOLDOVER beyond its bound logs (R63). -/
def holdoverError (s : State) (r : Nat) : ErrArg :=
  { cls := 0x42, kind := 2, unit := unitOf 0xA r, addr := r, detail := (s.region r).heldFor % 2 ^ 32 }

theorem exec_holdoverTimeout {s : State} {r : Nat} (htick : s.ticking = true) (hlock : (s.region r).lock = 3) (hheld : 64 < (s.region r).heldFor) :
    exec (.holdoverTimeout r) s = .next (s.logErr (holdoverError s r)) := congrArg Host.Outcome.next (if_pos ⟨htick, hlock, hheld⟩)

theorem holdoverTimeout_holds : holdoverTimeout := fun _ _ htick hlock hheld hroom =>
  ⟨_, exec_holdoverTimeout htick hlock hheld, State.logErr_logged _ hroom⟩

theorem localTick_holds : localTick := by
  intro r s htick hr
  let h := s.region (housekeeping r)
  have hexec : exec (.localTick r) s = .next (s.modRegion r (fun x => x.tick (x.osc = 2 ∧ r ≠ housekeeping r) h.time)) :=
    congrArg Host.Outcome.next (if_pos ⟨htick, hr⟩)
  refine ⟨_, hexec, ?_⟩
  rw [State.region_modRegion]
  unfold Region.tick
  by_cases hosc : (s.region r).osc = 2 ∧ r ≠ housekeeping r
  · rw [if_pos hosc]
    exact ⟨Nat.lt_of_lt_of_le (Nat.lt_succ_self _) (Nat.le_max_left _ _), rfl, fun m hm => State.region_modRegion_other _ _ hm, rfl,
      fun h2 => absurd hosc.1 h2, fun _ _ => Nat.le_max_right _ _⟩
  · rw [if_neg hosc]
    refine ⟨Nat.lt_of_lt_of_le (Nat.lt_succ_self _) (Nat.le_max_left _ _), rfl, fun m hm => State.region_modRegion_other _ _ hm, rfl,
      fun _ hpos => ?_, fun h2 hne => absurd ⟨h2, hne⟩ hosc⟩
    show ((max ((s.region r).time + 1) ((s.region r).time + (s.region r).period + (s.region r).slew : Int).toNat : Nat) : Int) = _
    omega

/-- Settles O15. -/
theorem timeAndBeacons : Obligations.TimeAndBeacons :=
  ⟨crystalPeriod_holds, deviceTimeRecord_holds, beaconSend_holds, beaconPathMeasure_holds, beaconReceive_holds, beaconMissLimit_holds,
    holdoverTimeout_holds, localTick_holds⟩

/-! ### The error log and the monitors -/

theorem errorMerged_holds : errorMerged := by
  intro r rs x s htick hlock hheld hstaging hcls hkind hctx hunit hstatus hnow
  refine ⟨_, exec_holdoverTimeout htick hlock hheld, ?_⟩
  have hjoins : s.joinsNewest (holdoverError s r) := by
    refine ⟨x, ?_, (ErrArg.joins_iff _ _).mpr ⟨Nat.le_refl 2, hcls, hkind, hctx, hunit, hstatus⟩, hnow⟩
    unfold ErrSt.newest
    rw [hstaging, List.getLast?_concat]
  rw [State.logErr_of_joins hjoins, State.modErrs_errs, hstaging, if_neg (by simp), bumpLast_concat]

theorem errorRecorded_holds : errorRecorded := by
  intro r s htick hlock hheld hroom hnow
  have hnew : ¬ s.joinsNewest (holdoverError s r) := fun ⟨_, _, _, h⟩ => by omega
  refine ⟨_, exec_holdoverTimeout htick hlock hheld, ?_⟩
  rw [State.logErr_of_room hnew hroom, State.raiseNew_errs, State.raiseNew_msix]
  exact ⟨rfl, rfl, ⟨_, rfl, rfl, rfl, rfl, rfl⟩, rfl⟩

theorem errorDropped_holds : errorDropped := by
  intro r s htick hlock hheld hfull hnow hunit
  have hnew : ¬ s.joinsNewest (holdoverError s r) := fun ⟨_, _, _, h⟩ => by omega
  refine ⟨_, exec_holdoverTimeout htick hlock hheld, ?_⟩
  have hnone : bumpJoined (holdoverError s r) s.errs.staging = s.errs.staging := by
    unfold bumpJoined
    refine (List.map_congr_left (fun x hx => if_neg (fun hj => ?_))).trans (List.map_id _)
    exact hunit x hx ((ErrArg.joins_iff _ _).mp hj).2.2.2.2.1
  rw [State.logErr_of_full hnew hfull, State.modErrs_errs, hnone]

/-- R56: a breach is counted for the region of the array alone. -/
theorem breach_region (s : State) (a r : Nat) : (s.breach a).region r =
    if r = arrRegion a then { s.region r with breaches := satAdd 32 (s.region r).breaches 1 } else s.region r := by
  let s1 := s.modRegion (arrRegion a) (fun r => { r with breaches := satAdd 32 r.breaches 1 })
  have hcmds : (s.breach a).region r = s1.region r := rfl
  rw [hcmds]
  split
  · rename_i h
    rw [h, State.region_modRegion]
  · rename_i h
    exact State.region_modRegion_other _ _ h

theorem breachAll_region (l : List Nat) (s : State) (r : Nat) (hl : (l.map arrRegion).Nodup) : (l.foldl (fun s a => s.breach a) s).region r =
    if r ∈ l.map arrRegion then { s.region r with breaches := satAdd 32 (s.region r).breaches 1 } else s.region r := by
  induction l generalizing s with
  | nil => rfl
  | cons a as ih =>
    rw [List.map_cons, List.nodup_cons] at hl
    rw [List.foldl_cons, ih _ hl.2, breach_region]
    by_cases h : r = arrRegion a
    · subst h
      simp [hl.1]
    · simp [h]

/-- Table 3-1: the region of an array. -/
theorem arrRegion_spec : ∀ a : Nat, a < 16 → arrRegion a < 42 ∧ regionArray (arrRegion a) = some a := by decide

theorem arrRegions_nodup (f : Nat → Bool) : (((List.range 16).filter f).map arrRegion).Nodup := by
  refine (List.nodup_range.filter f).map_on (fun a ha b hb h => ?_)
  obtain ⟨-, ha'⟩ := arrRegion_spec a (List.mem_range.mp (List.mem_filter.mp ha).1)
  obtain ⟨-, hb'⟩ := arrRegion_spec b (List.mem_range.mp (List.mem_filter.mp hb).1)
  rw [h, hb'] at ha'
  exact (Option.some.inj ha').symm

/-- R56: a breach of the rate floor by any of the arrays is an emergency. -/
def breachEnd (s : State) : List Nat → State
  | [] => s
  | a :: _ => (s.modPower (fun p => { p with emergency := true })).relevel (arrRegion a)

theorem breachEnd_region (s : State) (l : List Nat) (r : Nat) : (breachEnd s l).region r = s.region r := by
  cases l with
  | nil => rfl
  | cons a as => exact State.region_of_time (congrArg TimeSt.regions (State.relevel_frame (s.modPower _) _).time_eq) r

theorem monitorRefresh_holds : monitorRefresh := by
  intro rates s htick
  let rate (r : Nat) : Nat := match regionArray r with | some a => rates.getD a 0 | none => 0
  let volt (r : Nat) : Nat := (tget { cur := 0, target := 0 } s.power.rails (regionDie r)).cur
  let s1 := s.modTime (fun t => { t with regions := (List.range 42).map (fun r => (r, (tget Region.reset t.regions r).refreshed (volt r) (rate r))) })
  let l := (List.range 16).filter (fun a => s1.slow a)
  have hexec : exec (.monitorRefresh rates) s = .next (breachEnd (l.foldl (fun s a => s.breach a) s1) l) := by
    show execMonitorRefresh rates s = _
    unfold execMonitorRefresh
    rw [if_neg (by simp [htick])]
    show Host.Outcome.next (match l with
      | [] => l.foldl (fun (s : State) a => s.breach a) s1
      | a :: _ => ((l.foldl (fun (s : State) a => s.breach a) s1).modPower (fun p => { p with emergency := true })).relevel (arrRegion a)) = _
    clear_value l
    cases l <;> rfl
  have hs1 (r : Nat) (hr : r < 42) : s1.region r = (s.region r).refreshed (volt r) (rate r) := tget_map_range _ _ _ hr
  have hregion (r : Nat) := (breachEnd_region (l.foldl (fun s a => s.breach a) s1) l r).trans (breachAll_region l s1 r (arrRegions_nodup _))
  refine ⟨_, hexec, fun r hr => ?_, fun a ha hslots hpos hslow => ?_⟩
  · rw [hregion, hs1 r hr]
    split <;> exact ⟨rfl, rfl, rfl, rfl, rfl⟩
  · obtain ⟨hlt, harr⟩ := arrRegion_spec a ha
    have hrate : rate (arrRegion a) = rates.getD a 0 := by simp only [rate, harr]
    have hmem : a ∈ l := by
      refine List.mem_filter.mpr ⟨List.mem_range.mpr ha, ?_⟩
      have hv : (s1.region (arrRegion a)).monRate = rates.getD a 0 := (congrArg Region.monRate (hs1 _ hlt)).trans hrate
      have hslots' : (s1.arr a).slots ≠ [] := hslots
      simp only [State.slow, hv, hpos, hslow, and_self, decide_true, Bool.and_true]
      simpa using hslots'
    rw [hregion, if_pos (List.mem_map_of_mem hmem), hs1 _ hlt]
    obtain ⟨b, bs, hb⟩ : ∃ b bs, l = b :: bs := List.exists_cons_of_ne_nil (List.ne_nil_of_mem hmem)
    rw [hb]
    obtain ⟨rs, hpower⟩ := State.relevel_power (((b :: bs).foldl (fun s a => s.breach a) s1).modPower (fun p => { p with emergency := true })) (arrRegion b)
    refine ⟨(congrArg PowerSt.emergency hpower :), ?_, rfl⟩
    show 2 ≤ (State.relevel _ _).power.thermal
    rw [hpower]
    exact PowerSt.level_emergency rfl

theorem powerMonitorRefresh_holds : powerMonitorRefresh := by
  intro draws s hlive
  let s1 := s.modPower (fun p => { p with
      draws := (List.range 8).map (fun k => (k, draws.getD k 0 % 2 ^ 24)), monTn := p.tn, monComposite := s.composite })
  let s2 := s1.nvme.ctls.foldl (fun u c =>
      if c.2.enabled && bit (c.2.feat 0x0B) 1 && c.2.outOfTemp s.composite && !c.2.outOfTemp s.power.monComposite then u.asyncEvent c.1 (eventDw 1 1 0x02) else u) s1
  have hexec : exec (.powerMonitorRefresh draws) s = .next s2.regulate := if_pos hlive
  have hevents : Frame [.nvme, .mgmt] s1 s2 := Frame.foldl _ (Frame.refl _ _) (fun u c hu => Frame.ite (hu.after (State.asyncEvent_frame _ _ _) rfl) hu)
  obtain ⟨rs, hpower⟩ := State.regulate_power s2
  refine ⟨_, hexec, ?_⟩
  rw [hpower, hevents.power_eq]
  exact ⟨fun k hk => tget_map_range _ _ _ hk, rfl, rfl⟩

/-- Settles O16. -/
theorem errorRecordsAndMonitors : Obligations.ErrorRecordsAndMonitors :=
  ⟨errorRecorded_holds, errorMerged_holds, errorDropped_holds, monitorRefresh_holds, powerMonitorRefresh_holds⟩

/-! ### The watches -/

theorem oscillatorWatch_holds : oscillatorWatch := by
  intro r duty jitter ticks s htick hr hosc
  refine ⟨fun hbad hroom => ?_, fun h1 h2 h3 h4 h5 => if_neg (fun h => ?_)⟩
  · let s1 := s.modRegion r (fun x =>
      if decide ((s.region r).osc = 0) then { x with osc := 1, lock := 0, good := 0, missed := 0, switches := satAdd 32 x.switches 1 }
      else { x with osc := 2, lock := 2, missed := 0 })
    let a : ErrArg := { cls := 0x41, kind := 2, addr := r }
    have hexec : exec (.oscillatorWatch r duty jitter ticks) s = .next (s1.logTest a 0xA r) := if_pos ⟨htick, hr, decide_eq_true hbad, hosc⟩
    have hregion : (s1.logTest a 0xA r).region r = s1.region r :=
      State.region_of_time (congrArg TimeSt.regions (State.logTest_frame s1 a 0xA r).time_eq) r
    refine ⟨_, hexec, ?_, fun h0 => ?_, State.startTest_mem _ _ _ _ _, State.logTest_logged (s := s1) a 0xA r hroom⟩
    · rw [hregion, State.region_modRegion]
      by_cases h0 : (s.region r).osc = 0
      · rw [if_pos (decide_eq_true h0), h0]
      · rw [if_neg (by simpa using h0)]
        show 2 = _
        omega
    · rw [hregion, State.region_modRegion, if_pos (decide_eq_true h0)]
      exact ⟨rfl, rfl⟩
  · have hbad := of_decide_eq_true h.2.2.1
    omega

/-- What a request for voltage leaves of the regions: a refusal is counted for the region that asks (R72). -/
theorem askVolt_region {s t : State} {r : Nat} {x : Region} (hr : t.region r = x) (hother : ∀ m : Nat, m ≠ r → t.region m = s.region m) :
    (∃ n : Nat, (t.askVolt r).region r = { x with refused := n }) ∧ ∀ m : Nat, m ≠ r → (t.askVolt r).region m = s.region m := by
  subst hr
  unfold State.askVolt
  dsimp only
  split
  · exact ⟨⟨_, rfl⟩, hother⟩
  · exact ⟨⟨_, State.region_modRegion _ _ _⟩, fun m hm => (State.region_modRegion_other _ _ hm).trans (hother m hm)⟩

theorem stretchTo_slack (x : Region) (n : Nat) : (x.stretchTo n).slack = x.slack ∧ (x.stretch ≤ n → (x.stretchTo n).stretch = n) := by
  unfold Region.stretchTo
  split
  · exact ⟨rfl, fun _ => rfl⟩
  · exact ⟨rfl, fun h => by omega⟩

theorem marginSample_holds : marginSample := by
  intro r slack s htick hr hslack
  let s1 := s.modRegion r (fun x => x.sample slack)
  have hs1 : s1.region r = (s.region r).sample slack := State.region_modRegion _ _ _
  have hs1' (m : Nat) (hm : m ≠ r) : s1.region m = s.region m := State.region_modRegion_other _ _ hm
  have hin := And.intro htick (And.intro hr hslack)
  by_cases h12 : 12 ≤ slack
  · have hexec : exec (.marginSample r slack) s = .next s1 := (if_pos hin).trans (congrArg Host.Outcome.next (if_pos h12))
    refine ⟨s1, hexec, by rw [hs1]; rfl, hs1', fun _ => ⟨by rw [hs1]; rfl, rfl, rfl, rfl⟩, ?_, ?_, ?_⟩ <;> omega
  by_cases h8 : 8 ≤ slack
  · let s2 := s1.modRegion r (fun x => { x with warns := satAdd 32 x.warns 1 })
    have hexec : exec (.marginSample r slack) s = .next (s2.askVolt r) :=
      (if_pos hin).trans (congrArg Host.Outcome.next ((if_neg h12).trans (if_pos h8)))
    have hs2 : s2.region r = { (s.region r).sample slack with warns := satAdd 32 (s.region r).warns 1 } := by
      rw [State.region_modRegion, hs1]
      rfl
    obtain ⟨⟨n, hn⟩, hother⟩ := askVolt_region hs2 (fun m hm => (State.region_modRegion_other _ _ hm).trans (hs1' m hm))
    refine ⟨_, hexec, by rw [hn]; rfl, hother, fun h => absurd h h12, fun _ _ => ⟨by rw [hn], by rw [hn]; rfl, (State.askVolt_frame _ _).errs_eq⟩, ?_, ?_⟩ <;> omega
  by_cases h4 : 4 ≤ slack
  · let s2 := s1.modRegion r (fun x => x.stretchTo (min (x.stretch + 1) 8))
    have hexec : exec (.marginSample r slack) s = .next (s2.askVolt r) :=
      (if_pos hin).trans (congrArg Host.Outcome.next ((if_neg h12).trans ((if_neg h8).trans (if_pos h4))))
    have hs2 : s2.region r = ((s.region r).sample slack).stretchTo (min ((s.region r).stretch + 1) 8) := by
      rw [State.region_modRegion, hs1]
      rfl
    obtain ⟨hkeep, hto⟩ := stretchTo_slack ((s.region r).sample slack) (min ((s.region r).stretch + 1) 8)
    obtain ⟨⟨n, hn⟩, hother⟩ := askVolt_region hs2 (fun m hm => (State.region_modRegion_other _ _ hm).trans (hs1' m hm))
    refine ⟨_, hexec, by rw [hn]; exact hkeep, hother, fun h => absurd h h12, fun h => absurd h h8, fun _ _ h => ⟨?_, (State.askVolt_frame _ _).errs_eq⟩, by omega⟩
    rw [hn]
    exact hto (by show (s.region r).stretch ≤ _; omega)
  · let s2 := s1.modRegion r (fun x => x.stretchTo 8)
    let a : ErrArg := { cls := 0x40, kind := 2, addr := r, detail := slack }
    have hexec : exec (.marginSample r slack) s = .next (s2.logTest a 0xA r) :=
      (if_pos hin).trans (congrArg Host.Outcome.next ((if_neg h12).trans ((if_neg h8).trans (if_neg h4))))
    have hregion (m : Nat) : (s2.logTest a 0xA r).region m = s2.region m :=
      State.region_of_time (congrArg TimeSt.regions (State.logTest_frame s2 a 0xA r).time_eq) m
    have hs2 : s2.region r = ((s.region r).sample slack).stretchTo 8 := by rw [State.region_modRegion, hs1]
    obtain ⟨hkeep, hto⟩ := stretchTo_slack ((s.region r).sample slack) 8
    refine ⟨_, hexec, by rw [hregion, hs2]; exact hkeep, fun m hm => ?_, fun h => absurd h h12, fun h => absurd h h8, fun h => absurd h h4, fun _ h => ⟨?_,
      State.startTest_mem _ _ _ _ _, fun hroom => State.logTest_logged (s := s2) a 0xA r hroom⟩⟩
    · rw [hregion]
      exact (State.region_modRegion_other _ _ hm).trans (hs1' m hm)
    · rw [hregion, hs2]
      exact hto h

theorem stretchRelease_holds : stretchRelease := by
  intro r s htick hr hcalm hstretch hrail
  exact ⟨_, congrArg Host.Outcome.next (if_pos ⟨htick, hr, hcalm, hstretch, hrail⟩), State.region_modRegion _ _ _,
    fun m hm => State.region_modRegion_other _ _ hm⟩

/-- R73: an array that leaves service is retired, and stays so while the drive settles. -/
theorem retireArray_state (s : State) (a : Nat) : ((s.retireArray a).arr a).state = 2 := by
  unfold State.retireArray
  extract_lets s1 s2 s3
  have hs1 : (s1.arr a).state = 2 := congrArg ArraySt.state (State.arr_modArr _ _ _)
  have hs2 : ArrKept s1 s2 := .of rfl
  have hs3 : ArrKept s2 s3 := ArrKept.kept.foldl _ (fun s (c : Cmd) => .frame (State.refresh_frame s c.uid) (by decide)) _ _
  have hend : ArrKept s3 (s3.endService (a % 8)) := by
    unfold State.endService
    split
    · exact (ArrKept.frame (State.logErr_frame _ _) (by decide)).after ((ArrKept.frame (State.endOps_frame _ _ _) (by decide)).after (ArrKept.kept.concludeAll _ _ _))
    · exact .of rfl
  rw [(((hs2.after hs3).after hend).after ((ArrKept.kept.settle _).after (ArrKept.kept.recheck _))) a, hs1]

theorem lastingMarginFault_holds : lastingMarginFault := by
  intro r s htick hr hlow
  let a : ErrArg := { cls := 0x40, kind := 2, unit := unitOf 0xA r, addr := r, detail := (s.region r).slack }
  let s1 := (s.modRegion r (fun x => { x with low := 0 })).logErr a
  have hlog := State.logErr_frame (s.modRegion r (fun x => { x with low := 0 })) a
  have hexec : exec (.lastingMarginFault r) s = .next (match regionArray r with
      | some n => if (s1.arr n).state = 2 then s1 else s1.retireArray n
      | none => s1.recover (regionDie r) 0) := if_pos ⟨htick, hr, hlow⟩
  refine ⟨fun n hn => ?_, fun hnone hmode hrec hrec2 => ?_⟩
  · rw [hn] at hexec
    replace hexec : exec (.lastingMarginFault r) s = .next (if (s1.arr n).state = 2 then s1 else s1.retireArray n) := hexec
    have harr : (s1.arr n).state = (s.arr n).state := ArrKept.frame hlog (by decide) n
    refine ⟨_, hexec, ?_, fun hroom h2 => ?_⟩
    · by_cases h2 : (s1.arr n).state = 2
      · rw [if_pos h2, h2]
      · rw [if_neg h2, retireArray_state]
    · rw [if_pos (harr.trans h2)]
      exact State.logErr_logged (s := s.modRegion r (fun x => { x with low := 0 })) a hroom
  · rw [hnone] at hexec
    have hpower : s1.power = s.power := hlog.power_eq
    have hdie : regionDie r ≤ 3 := by
      unfold regionDie
      split_ifs <;> omega
    obtain ⟨p, -, hp, -⟩ := State.recover_leaves s1 (cause := 0) (hpower ▸ hmode) hdie (hpower ▸ hrec) (hpower ▸ hrec2)
    refine ⟨_, hexec, ?_⟩
    rw [hp, hpower]

/-- Settles O17. -/
theorem watches : Obligations.Watches := ⟨oscillatorWatch_holds, marginSample_holds, stretchRelease_holds, lastingMarginFault_holds⟩

end Sys2Proof.Proofs

/-! The mailbox page: doorbells, class-0 slots, faults and the life of a context: O18, O19 and O20. -/

namespace Sys2Proof.Machine
-- One thread elaborates these proofs: in parallel they ask for more stacks than the check allows.
set_option Elab.async false
open Sys2Proof.Claims

/-! ### Doorbells wake the drive -/

theorem State.wake_ctx (s : State) (n : Nat) : s.wake.ctx n = s.ctx n := State.ctx_of_ctxs (State.wake_frame s).ctxs_eq n

/-- R337: a doorbell ends a low-power state, or an entry into one. -/
theorem State.wake_power (s : State) : s.wake.power.lowPending = none ∧ (4 ≤ s.power.pstate → s.wake.power.pstate = s.power.lastOp) := by
  unfold State.wake
  dsimp only
  split
  · obtain ⟨rs, h⟩ := State.setPstate_power (s.modNvme (fun n => { n with idleSince := s.time.now })) s.power.lastOp
    rw [h]
    exact ⟨rfl, fun _ => rfl⟩
  · rename_i h
    exact ⟨rfl, fun h4 => absurd h4 h⟩

/-- R347: what a write of a submission tail does to a queue that stands. -/
theorem State.sqTail_of {s : State} {n k : Nat} {q : QueueSt} (tail : Nat) (es : List (List Byte)) (hstate : (s.ctx n).state = 1)
    (hq : tfind (s.ctx n).queues k = some q) (hclosing : q.closing = false) : s.sqTail n k tail es =
      if q.entries ≤ tail then s.doorbellFault n k (0x100 + 8 * k)
      else if es.length ≠ (tail + q.entries - q.tail) % q.entries ∨ (es.any (fun e => e.length != 64)) = true then s
      else (s.modCtx n (fun c => { c with queues := tset c.queues k { q with tail := tail, avail := q.avail ++ es } })).checkHeads n := by
  unfold State.sqTail
  rw [hq]
  exact if_neg (by simp [hstate, hclosing])

/-- R347: what a write of a completion head does to a queue that stands. -/
theorem State.cqHeadWrite_of {s : State} {n k : Nat} {q : QueueSt} (head : Nat) (hstate : (s.ctx n).state = 1)
    (hq : tfind (s.ctx n).queues k = some q) (hclosing : q.closing = false) : s.cqHeadWrite n k head =
      if q.entries ≤ head then s.doorbellFault n k (0x104 + 8 * k)
      else
        let s1 := s.modCtx n (fun c => { c with queues := tset c.queues k { q with cqHead := head, irq := decide (head ≠ q.cqTail) } })
        if decide (head ≠ q.cqTail) then s1.signal n q.vector else s1 := by
  unfold State.cqHeadWrite
  rw [hq]
  exact if_neg (by simp [hstate, hclosing])

/-! ### The bytes of a class-0 slot -/

/-- Bytes that are set one after the other. -/
theorem tget_foldl_bytes (off : Nat) (data : List Byte) (k : Nat) (b : Table Byte) (i : Nat) :
    tget 0 (((List.range' k data.length).zip data).foldl (fun b p => tset b (off + p.1) p.2) b) i =
      if off + k ≤ i ∧ i < off + k + data.length then data.getD (i - (off + k)) 0 else tget 0 b i := by
  induction data generalizing k b with
  | nil => simp
  | cons x xs ih =>
    rw [List.length_cons, List.range'_succ, List.zip_cons_cons, List.foldl_cons, ih]
    by_cases h : i = off + k
    · subst h
      simp [show ¬ (off + (k + 1) ≤ off + k) by omega]
    · rw [tget_tset_other _ _ _ h]
      by_cases hin : off + (k + 1) ≤ i ∧ i < off + (k + 1) + xs.length
      · rw [if_pos hin, if_pos (by omega), show i - (off + k) = i - (off + (k + 1)) + 1 by omega]
        rfl
      · rw [if_neg hin, if_neg (by omega)]

/-- The buffer of a slot after a write at an offset. -/
def SlotSt.put (x : SlotSt) (off : Nat) (data : List Byte) : Table Byte :=
  ((List.range data.length).zip data).foldl (fun b p => tset b (off + p.1) p.2) x.buf

theorem SlotSt.put_byte (x : SlotSt) (off : Nat) (data : List Byte) (i : Nat) : tget 0 (x.put off data) i =
    if off ≤ i ∧ i < off + data.length then data.getD (i - off) 0 else tget 0 x.buf i := by
  unfold SlotSt.put
  rw [List.range_eq_range']
  exact tget_foldl_bytes off data 0 x.buf i

theorem SlotSt.put_whole (x : SlotSt) {data : List Byte} (h : data.length = 64) : (List.range 64).map (fun i => tget 0 (x.put 0 data) i) = data := by
  refine List.ext_getElem (by simp [h]) (fun i hi hi' => ?_)
  rw [List.getElem_map, List.getElem_range, SlotSt.put_byte, if_pos ⟨Nat.zero_le _, by omega⟩]
  simp [hi']

/-- R349: a write into a free slot of a context whose class-0 queue is open. -/
theorem State.slotWrite_free {s : State} {n k off : Nat} {data : List Byte} {q : QueueSt} (hstate : (s.ctx n).state = 1)
    (hq : tfind (s.ctx n).queues 9 = some q) (hclosing : q.closing = false) (hbusy : (tget SlotSt.empty (s.ctx n).slots k).busy = false) :
    s.slotWrite n k off data =
      (let x := tget SlotSt.empty (s.ctx n).slots k
       let buf := x.put off data
       if off + data.length = 64 then
         let s1 := (s.modCtx n (fun c => { c with slots := tset c.slots k { buf := buf, busy := true, cid := s.nextId } })).bump
         let raw := (List.range 64).map (fun i => tget 0 buf i)
         if malformed raw then (s1.faultCtx n clsEntry (mailbox n (0x800 + 0x40 * k)) 0 9 (leNat (slice raw 2 2))).settle else s1
       else s.modCtx n (fun c => { c with slots := tset c.slots k { x with buf := buf } })) := by
  unfold State.slotWrite
  simp only [hstate, hq, hclosing, hbusy]
  rfl

theorem State.slotWrite_busy {s : State} {n k off : Nat} {data : List Byte} (hstate : (s.ctx n).state = 1)
    (hbusy : (tget SlotSt.empty (s.ctx n).slots k).busy = true) :
    s.slotWrite n k off data = s.modCtx n (fun c => { c with c0Discard := satAdd 32 c.c0Discard 1 }) := by
  unfold State.slotWrite
  simp [hstate, hbusy]

/-! ### A context that faults -/

theorem State.faultCtx_settled {s : State} (n cls addr st q cid : Nat) (ho : (s.ctx n).state = 1) (hstill : s.still) (hu : distinct s) :
    (s.faultCtx n cls addr st q cid).settle = s.faultCtx n cls addr st q cid := by
  obtain ⟨-, -, g, -, -, hcmds, hg⟩ := State.faultCtx_open cls addr st q cid ho hu
  refine State.settle_still (fun c hc => ?_)
  rw [hcmds] at hc
  obtain ⟨d, hd, rfl⟩ := List.mem_map.mp hc
  exact Cmd.mayEnd_still (hg d hd).1 (hstill d hd)

/-- R365, R366: what a fault of an OPEN context leaves, for any violation without a status of its own. -/
theorem contextFaults_of {c : Instr} {s u : State} {n : Nat} (cls addr q cid : Nat) (hexec : exec c s = .next (u.faultCtx n cls addr 0 q cid).settle)
    (hctxs : u.ctxs = s.ctxs) (hcmds : u.cmds = s.cmds) (ho : (s.ctx n).state = 1) (hstill : s.still) (hu : distinct s) :
    contextFaults c s n stCtxFaulted := by
  have hctx (m : Nat) : u.ctx m = s.ctx m := State.ctx_of_ctxs hctxs m
  have ho' : (u.ctx n).state = 1 := (hctx n).symm ▸ ho
  have hu' : distinct u := by
    unfold distinct
    rwa [hcmds]
  have hstill' : u.still := by
    unfold State.still
    rwa [hcmds]
  rw [State.faultCtx_settled n cls addr 0 q cid ho' hstill' hu'] at hexec
  obtain ⟨v, h, g, hfaulted, hother, hlist, hg⟩ := State.faultCtx_open cls addr 0 q cid ho' hu'
  rw [hcmds] at hlist hg
  refine ⟨_, hexec, by rw [hfaulted], by rw [hfaulted]; rfl, by rw [hfaulted, hctx], fun x hx hn hs => ⟨g x, ?_, Cmd.mayEnd_uid (hg x hx).1, ?_⟩,
    fun x hx hn => ?_, fun m hm => (hother m hm).trans (hctx m)⟩
  · rw [hlist]
    exact List.mem_map_of_mem hx
  · rw [(hg x hx).2.2 hn, hs]
  · rw [hlist]
    exact (hg x hx).2.1 hn ▸ List.mem_map_of_mem hx

end Sys2Proof.Machine

namespace Sys2Proof.Proofs
-- One thread elaborates these proofs: in parallel they ask for more stacks than the check allows.
set_option Elab.async false
open Sys2Proof.Machine Sys2Proof.Claims

/-! ### Doorbells and class-0 slots -/

theorem exec_kciSqTail {s : State} {n k : Nat} (tail : Nat) (es : List (List Byte)) (hopen : s.kciOpen = true) (hn : n < 256) (hk : k < 9) :
    exec (.kciSqTail n k tail es) s = .next (s.wake.sqTail n k tail es) := congrArg Host.Outcome.next (if_pos ⟨hopen, hn, hk⟩)

theorem exec_kciCqHead {s : State} {n k : Nat} (head : Nat) (hopen : s.kciOpen = true) (hn : n < 256) (hk : k < 10) :
    exec (.kciCqHead n k head) s = .next (s.wake.cqHeadWrite n k head) := congrArg Host.Outcome.next (if_pos ⟨hopen, hn, hk⟩)

theorem kciSqTail_holds : kciSqTail := by
  intro n k tail es q s hopen hn hk hstate hq hclosing htail hlen h64 hfine
  let f (c : Context) : Context := { c with queues := tset c.queues k { q with tail := tail, avail := q.avail ++ es } }
  have hsq : s.wake.sqTail n k tail es = (s.wake.modCtx n f).checkHeads n := by
    rw [State.sqTail_of tail es ((State.wake_ctx s n).symm ▸ hstate) ((State.wake_ctx s n).symm ▸ hq) hclosing, if_neg (Nat.not_le_of_lt htail)]
    exact if_neg (by simpa [hlen] using h64)
  have hctx : (s.wake.modCtx n f).ctx n = f (s.ctx n) := (State.ctx_modCtx _ _ _).trans (congrArg f (State.wake_ctx s n))
  rw [State.checkHeads_fine (fun j x hj hx => ?_)] at hsq
  · refine ⟨_, (exec_kciSqTail tail es hopen hn hk).trans (congrArg Host.Outcome.next hsq), ?_, fun j hj => ?_, fun m hm => ?_, ?_⟩
    · rw [hctx]
      exact tfind_tset_same _ _ _
    · rw [hctx]
      exact tfind_tset_other _ _ hj
    · rw [State.ctx_modCtx_other _ _ hm, State.wake_ctx]
    · exact State.wake_power s
  · rw [hctx] at hx
    by_cases h : j = k
    · subst h
      obtain rfl := Option.some.inj ((tfind_tset_same _ _ _).symm.trans hx)
      have := hfine j q hq
      rwa [if_pos rfl] at this
    · have := hfine j x ((tfind_tset_other _ _ h).symm.trans hx)
      rwa [if_neg h] at this

theorem kciCqHead_holds : kciCqHead := by
  intro n k head q s hopen hn hk hstate hq hclosing hhead
  let s1 := s.wake.modCtx n (fun c => { c with queues := tset c.queues k { q with cqHead := head, irq := decide (head ≠ q.cqTail) } })
  have hcq : s.wake.cqHeadWrite n k head = if decide (head ≠ q.cqTail) then s1.signal n q.vector else s1 := by
    rw [State.cqHeadWrite_of head ((State.wake_ctx s n).symm ▸ hstate) ((State.wake_ctx s n).symm ▸ hq) hclosing]
    exact if_neg (Nat.not_le_of_lt hhead)
  have hctx (m : Nat) : (s.wake.cqHeadWrite n k head).ctx m = s1.ctx m := by
    rw [hcq]
    split <;> rfl
  refine ⟨_, exec_kciCqHead head hopen hn hk, ?_, fun j hj => ?_, fun m hm => ?_, ?_⟩
  · rw [hctx, State.ctx_modCtx]
    exact tfind_tset_same _ _ _
  · rw [hctx, State.ctx_modCtx, State.wake_ctx]
    exact tfind_tset_other _ _ hj
  · rw [hctx, State.ctx_modCtx_other _ _ hm, State.wake_ctx]
  · have hmgmt : s1.mgmt = s.mgmt := (State.wake_frame s).mgmt_eq
    rw [hcq]
    by_cases h : head = q.cqTail
    · rw [if_neg (by simpa using h), if_pos h, hmgmt, List.append_nil]
    · rw [if_pos (by simpa using h), if_neg h]
      exact congrArg (fun m : MgmtSt => m.msix ++ [(n, q.vector)]) hmgmt

theorem exec_class0SlotWrite {s : State} {n k off : Nat} {data : List Byte} (hopen : s.kciOpen = true) (hn : n < 256) (hk : k < 16) (hne : data ≠ [])
    (hlen : off + data.length ≤ 64) : exec (.class0SlotWrite n k off data) s = .next (s.wake.slotWrite n k off data) :=
  congrArg Host.Outcome.next (if_pos ⟨hopen, hn, hk, hne, hlen⟩)

theorem class0SlotWrite_holds : class0SlotWrite := by
  intro n k off data q s hopen hn hk hne hlen hstate hq hclosing x
  have hexec := exec_class0SlotWrite hopen hn hk hne hlen
  have hctx := State.wake_ctx s
  refine ⟨fun hbusy hshort => ?_, fun hbusy => ?_⟩
  · have hwrite : s.wake.slotWrite n k off data = s.wake.modCtx n (fun c => { c with slots := tset c.slots k { x with buf := x.put off data } }) := by
      rw [State.slotWrite_free ((hctx n).symm ▸ hstate) ((hctx n).symm ▸ hq) hclosing ((hctx n).symm ▸ hbusy), hctx n]
      exact if_neg (Nat.ne_of_lt hshort)
    rw [hwrite] at hexec
    refine ⟨_, { x with buf := x.put off data }, hexec, ?_, hbusy, fun i hi => ?_, fun i hi => ?_, ?_, fun m hm => ?_⟩
    · rw [State.ctx_modCtx]
      exact tfind_tset_same _ _ _
    · rw [SlotSt.put_byte, if_pos (by omega), Nat.add_sub_cancel_left]
    · rw [SlotSt.put_byte, if_neg (by omega)]
    · rw [State.ctx_modCtx, hctx]
    · rw [State.ctx_modCtx_other _ _ hm, hctx]
  · rw [State.slotWrite_busy ((hctx n).symm ▸ hstate) ((hctx n).symm ▸ hbusy)] at hexec
    exact ⟨_, hexec, by rw [State.ctx_modCtx, hctx]⟩

theorem class0Latch_holds : class0Latch := by
  intro n k data q s hopen hn hk hlen hfine hstate hq hclosing hbusy
  let x := tget SlotSt.empty (s.ctx n).slots k
  have hctx := State.wake_ctx s
  have hexec := exec_class0SlotWrite (off := 0) hopen hn hk (List.ne_nil_of_length_pos (by omega)) (by omega : 0 + data.length ≤ 64)
  have hid : s.wake.nextId = s.nextId := (State.wake_frame s).nextId_eq
  have hwrite : s.wake.slotWrite n k 0 data =
      (s.wake.modCtx n (fun c => { c with slots := tset c.slots k { buf := x.put 0 data, busy := true, cid := s.nextId } })).bump := by
    rw [State.slotWrite_free ((hctx n).symm ▸ hstate) ((hctx n).symm ▸ hq) hclosing ((hctx n).symm ▸ hbusy), hctx n, hid]
    dsimp only
    rw [if_pos (by omega), SlotSt.put_whole _ hlen, if_neg (by rw [hfine]; exact Bool.false_ne_true)]
  rw [hwrite] at hexec
  refine ⟨_, { buf := x.put 0 data, busy := true, cid := s.nextId }, hexec, ?_, rfl, rfl, ?_, SlotSt.put_whole _ hlen⟩
  · rw [State.ctx_bump, State.ctx_modCtx]
    exact tfind_tset_same _ _ _
  · exact congrArg (· + 1) hid

/-- Settles O18. -/
theorem doorbells : Obligations.Doorbells := ⟨kciSqTail_holds, kciCqHead_holds, class0SlotWrite_holds, class0Latch_holds⟩

/-! ### The faults of a doorbell and of a read-only field -/

theorem doorbellOutside_holds : doorbellOutside := by
  intro n k v es q s hopen hn hstate hq hclosing hv hstill hu
  have hwake := State.wake_frame s
  refine ⟨fun hk => ?_, fun hk => ?_⟩
  · refine contextFaults_of (u := s.wake) clsDoorbell (mailbox n (0x100 + 8 * k)) k 0 ?_ hwake.ctxs_eq hwake.cmds_eq hstate hstill hu
    refine (exec_kciSqTail v es hopen hn hk).trans (congrArg Host.Outcome.next ?_)
    rw [State.sqTail_of v es ((State.wake_ctx s n).symm ▸ hstate) ((State.wake_ctx s n).symm ▸ hq) hclosing]
    exact if_pos hv
  · refine contextFaults_of (u := s.wake) clsDoorbell (mailbox n (0x104 + 8 * k)) k 0 ?_ hwake.ctxs_eq hwake.cmds_eq hstate hstill hu
    refine (exec_kciCqHead v hopen hn hk).trans (congrArg Host.Outcome.next ?_)
    rw [State.cqHeadWrite_of v ((State.wake_ctx s n).symm ▸ hstate) ((State.wake_ctx s n).symm ▸ hq) hclosing]
    exact if_pos hv

/-- Table 14-3: where the read-only fields of a mailbox page stand. -/
theorem mailboxRo_low {off : Nat} (h : mailboxRo off = true) : off % 4 = 0 ∧ off < 0x100 := by
  have hmem : off ∈ [0x000, 0x00C, 0x018, 0x040, 0x044] := List.contains_iff_mem.mp h
  fin_cases hmem <;> decide

/-- A 4-byte write in the page of a context, below its class-0 slots, is a write of its mailbox. -/
theorem exec_registerWrite_page {s : State} {fn off : Nat} (v : BitVec 64) (hfn : fn < 256) (halign : off % 4 = 0) (hlow : off % 0x1000 < 0x800) :
    exec (.registerWrite fn off 4 v) s = .next (s.writeReg fn off (v.setWidth 32)) := by
  have hslot : slotAt fn off = none := if_neg (fun h => by omega)
  show execRegisterWrite fn off 4 v s = _
  unfold execRegisterWrite
  rw [if_neg (by omega), hslot]
  exact if_pos ⟨rfl, halign⟩

theorem readOnlyFields_holds : readOnlyFields := by
  intro n off v s hopen hn hro
  obtain ⟨halign, hlow⟩ := mailboxRo_low hro
  refine ⟨?_, fun hne hstate hstill hu => ?_⟩
  · rw [exec_registerWrite_page v (by decide) (by omega) (by omega)]
    unfold State.writeReg State.writeMailbox
    rw [if_neg (by decide), if_pos (by omega), if_pos hopen, show (n * 0x1000 + off) % 0x1000 = off by omega, if_pos hro, if_pos rfl]
  · refine contextFaults_of (u := s) clsPrivilege off 0 0 ?_ rfl rfl hstate hstill hu
    rw [exec_registerWrite_page v hn halign (by omega)]
    unfold State.writeReg State.writeMailbox
    rw [if_pos hne, if_neg (by rw [hopen]; decide), if_pos (by omega), if_pos hro, if_neg hne]

/-- Settles O19. -/
theorem contextFaults : Obligations.ContextFaults := ⟨doorbellOutside_holds, readOnlyFields_holds⟩

/-! ### The life of a context -/

theorem ctxEnableSet_holds : ctxEnableSet := by
  intro n s hopen hn hclosed hsan hfailed hheld c
  have hexec : exec (.ctxEnableSet n) s = .next (s.enableCtx n) := congrArg Host.Outcome.next (if_pos ⟨hopen, hn⟩)
  refine ⟨fun halign hsize hvec => ?_, fun halign => ?_⟩
  · have hcause : c.openCause n = 0 := by
      unfold Context.openCause
      rw [if_neg (by simp [halign]), if_neg (by simp [hsize]), if_neg (Nat.not_le_of_lt hvec)]
    have henable : s.enableCtx n = s.modCtx n (fun c => { c with
        enable := true, openErr := 0, state := 1,
        queues := [(0, QueueSt.fresh 1 (c.ctlSize.toNat % 65536) (c.ctlSize.toNat / 65536) c.ctlSq.toNat c.ctlCq.toNat 0)] }) :=
      (if_neg (by simp [hclosed])).trans (if_neg (by simp [show (s.ctx n).openCause n = 0 from hcause, hsan, hfailed, hheld]))
    rw [henable] at hexec
    refine ⟨_, QueueSt.fresh 1 (c.ctlSize.toNat % 65536) (c.ctlSize.toNat / 65536) c.ctlSq.toNat c.ctlCq.toNat 0, hexec, ?_⟩
    rw [State.ctx_modCtx]
    exact ⟨rfl, rfl, rfl, rfl, rfl, rfl, rfl, rfl, rfl, rfl, rfl, fun m hm => State.ctx_modCtx_other _ _ hm⟩
  · have hcause : c.openCause n = 1 := if_pos halign
    have henable : s.enableCtx n = s.modCtx n (fun c => { c with enable := true, openErr := (s.ctx n).openCause n }) :=
      (if_neg (by simp [hclosed])).trans (if_pos (.inl (by rw [show (s.ctx n).openCause n = 1 from hcause]; decide)))
    rw [henable] at hexec
    refine ⟨_, hexec, ?_⟩
    rw [State.ctx_modCtx, show (s.ctx n).openCause n = 1 from hcause]

theorem ctxEnableClear_holds : ctxEnableClear := by
  intro n s hopen hn hstate
  have hexec : exec (.ctxEnableClear n) s = .next (s.disableCtx n) := congrArg Host.Outcome.next (if_pos ⟨hopen, hn⟩)
  have hopened : ¬ ((s.ctx n).state = 0 ∨ (s.ctx n).state = 3) := by omega
  refine ⟨fun hqueues hhandles hpending => ?_, fun hbusy => ?_⟩
  · have hclose : s.disableCtx n = s.closeOrderly n := (if_neg hopened).trans (if_pos ⟨hstate, hqueues, hhandles, hpending⟩)
    rw [hclose] at hexec
    refine ⟨_, hexec, ?_⟩
    unfold State.closeOrderly
    rw [State.ctx_modCtx]
    exact ⟨rfl, rfl, rfl, rfl, fun m hm => State.ctx_modCtx_other _ _ hm⟩
  · let s1 := s.modCtx n (fun c => { c with enable := false })
    have hreset : s.disableCtx n = s1.resetCtx n 3 :=
      (if_neg hopened).trans (if_neg (fun ⟨_, _, hh, hp⟩ => hbusy.elim (fun h => h hh) (fun h => h hp)))
    have hs1 : s1.ctx n = { s.ctx n with enable := false } := State.ctx_modCtx _ _ _
    rw [hreset] at hexec
    refine ⟨_, hexec, State.resetCtx_state _ _ _, ?_, (State.resetCtx_frame _ _ _).cmds_eq, fun m hm => ?_⟩
    · rw [State.resetCtx_ctx, if_pos ⟨rfl, by rw [hs1]; simp [hstate]⟩, hs1]
    · rw [State.resetCtx_other _ _ hm, State.ctx_modCtx_other _ _ hm]

/-- R367: a reset that is latched leaves nothing of the context's commands staged. -/
theorem resetCtx_staged {s : State} {n : Nat} (reason : Nat) (h : (s.ctx n).state ≠ 3) {a : Nat} {u : Nat × Nat}
    (hu : ((s.resetCtx n reason).arr a).staged = some u) : ∀ x ∈ s.pendingOf n, x.uid ≠ u.1 := by
  intro x hx hxu
  let uids := (s.pendingOf n).map (·.uid)
  let s1 := s.modCtx n (fun c => { c with state := 3, resetReason := reason })
  have hreset : s.resetCtx n reason = ((s1.dropWork uids).endOps uids stPeerAborted).releaseJob n := if_neg h
  have harrays : (s.resetCtx n reason).arrays = (s1.dropWork uids).arrays := by
    rw [hreset, (State.releaseJob_frame _ _).arrays_eq, (State.endOps_frame _ _ _).arrays_eq]
  have hu' : ((s1.dropWork uids).arr a).staged = some u := by
    unfold State.arr at hu ⊢
    rwa [← harrays]
  have hmem : uids.contains u.1 = true := List.contains_iff_mem.mpr (hxu ▸ List.mem_map_of_mem hx)
  rw [State.dropWork_staged hu'] at hmem
  cases hmem

theorem contextReset_of {c : Instr} {n : Nat} {s : State} (hexec : exec c s = .next (s.resetCtx n 3)) : contextReset c n s := by
  intro h
  refine ⟨_, hexec, ?_, fun m hm => State.resetCtx_other _ _ hm, (State.resetCtx_frame _ _ _).cmds_eq, fun a u hu => resetCtx_staged 3 h hu⟩
  rw [State.resetCtx_ctx, if_pos ⟨rfl, h⟩]

theorem ctxControlReset_holds : ctxControlReset := fun _ _ hopen hn => contextReset_of (congrArg Host.Outcome.next (if_pos ⟨hopen, hn⟩))

theorem ctxAdminReset_holds : ctxAdminReset := fun _ _ _ hopen hn hbit => contextReset_of (congrArg Host.Outcome.next (if_pos ⟨hopen, hn, hbit⟩))

theorem closeCtx_calm {s : State} (n : Nat) (h : s.calm) : (s.closeCtx n).calm := by
  obtain ⟨hn, hother, hcmds, -⟩ := State.closeCtx_leaves s n
  refine ⟨fun c hc => ?_, fun m k x hx => ?_⟩
  · rw [hcmds] at hc
    exact h.1 c (List.mem_filter.mp hc).1
  · by_cases hm : m = n
    · subst hm
      rw [hn] at hx
      cases hx
    · rw [hother m hm] at hx
      exact h.2 m k x hx

theorem contextResetComplete_holds : contextResetComplete := by
  intro n s hstate hcalm hidle
  have hdone : ((s.pendingOf n).map (·.uid)).all (fun u => !s.arrays.any (fun a => a.2.inflight.any (fun r => r.uid == u))) = true := by
    simp only [List.all_map, List.all_eq_true, Function.comp, Bool.not_eq_true', List.any_eq_false, beq_iff_eq, Bool.not_eq_true]
    exact fun x hx a ha r hr => hidle a r x ha hr hx
  have hexec : exec (.contextResetComplete n) s = .next ((s.closeCtx n).settle).recheck := congrArg Host.Outcome.next (if_pos ⟨hstate, hdone⟩)
  rw [State.calm_rest (closeCtx_calm n hcalm)] at hexec
  obtain ⟨hn, -, hcmds, haborts⟩ := State.closeCtx_leaves s n
  refine ⟨_, hexec, ?_⟩
  rw [hn, hcmds, haborts]
  refine ⟨rfl, rfl, rfl, rfl, rfl, rfl, rfl, rfl, fun x hx => ?_, by simp⟩
  obtain ⟨hmem, hleft⟩ := List.mem_filter.mp hx
  refine ⟨hmem, fun hctx => ?_⟩
  have hpending : x.uid ∈ (s.pendingOf n).map (·.uid) := List.mem_map_of_mem (List.mem_filter.mpr ⟨hmem, by simpa using hctx⟩)
  rw [List.contains_iff_mem.mpr hpending] at hleft
  cases hleft

theorem ctxPolicyWrite_holds : ctxPolicyWrite := by
  intro n v s hopen hn
  have hexec : exec (.ctxPolicyWrite n v) s = .next (s.writePolicy n v) := congrArg Host.Outcome.next (if_pos ⟨hopen, hn⟩)
  refine ⟨fun h => ⟨_, hexec, ?_, fun m hm => ?_⟩, fun h => ⟨_, hexec, ?_⟩⟩
  · exact (congrArg (fun t => State.ctx t n) (if_pos h)).trans (State.ctx_modCtx _ _ _)
  · exact (congrArg (fun t => State.ctx t m) (if_pos h)).trans (State.ctx_modCtx_other _ _ hm)
  · exact (congrArg (fun t => State.ctx t n) (if_neg h)).trans (State.ctx_modCtx _ _ _)

/-- Settles O20. -/
theorem contextLife : Obligations.ContextLife :=
  ⟨ctxEnableSet_holds, ctxEnableClear_holds, ctxControlReset_holds, ctxAdminReset_holds, contextResetComplete_holds, ctxPolicyWrite_holds⟩

end Sys2Proof.Proofs

/-! The commands of queues, jobs, events and objects: O22 and O23. -/

namespace Sys2Proof.Machine
-- One thread elaborates these proofs: in parallel they ask for more stacks than the check allows.
set_option Elab.async false
open Sys2Proof.Claims

/-! ### What a body that runs sees, and what its end leaves -/

section
variable {s u t : State} {e : Entry} {b : Body} {uid st d0 d1 : Nat} {q : QueueSt}

theorem State.running_maxClass (s : State) (e : Entry) (b : Body) (uid : Nat) (q : QueueSt) (m : Nat) :
    ((s.running e b uid q).ctx m).maxClass = (s.ctx m).maxClass :=
  ctx_lift s e b uid q (·.maxClass) (fun _ _ => rfl) (fun _ _ => rfl) m

/-- The queues stay, but that the entry has left its own. -/
theorem State.running_queue (s : State) (e : Entry) (b : Body) (uid : Nat) (q : QueueSt) {j : Nat} (h : j ≠ e.queue) :
    tfind ((s.running e b uid q).ctx e.ctx).queues j = tfind (s.ctx e.ctx).queues j := s.fetched_queues_other e b uid q h

theorem State.running_queue_isSome (s : State) (e : Entry) (b : Body) (uid : Nat) (q : QueueSt) (j : Nat) :
    (tfind ((s.running e b uid q).ctx e.ctx).queues j).isSome = (tfind (s.ctx e.ctx).queues j).isSome := by
  by_cases h : j = e.queue
  · subst h
    rw [State.running_ctx, s.fetched_ctx, s.takeEntry_ctx]
    split
    · rfl
    · split
      · rfl
      · rename_i x hx
        rw [hx]
        show (tfind (tset _ _ _) _).isSome = _
        rw [tfind_tset_same]
        rfl
  · rw [s.running_queue e b uid q h]

/-- The handles that the command does not name are as before. -/
theorem State.running_handle_other (s : State) (e : Entry) (b : Body) (uid : Nat) (q : QueueSt) {k : Nat} (h : k ∉ bodyHandles b) :
    tfind ((s.running e b uid q).ctx e.ctx).handles k = tfind (s.ctx e.ctx).handles k := by
  have hnot : ¬ (((bodyHandles b).filter (fun h => s.isLive e.ctx h)).contains k = true) :=
    fun hc => h (List.mem_filter.mp (List.contains_iff_mem.mp hc)).1
  rw [run_handle]
  simp only [if_neg hnot]
  exact Option.map_id'

theorem Ended.queues (h : Ended s u t e b uid q st d0 d1) : (t.ctx e.ctx).queues = (u.ctx e.ctx).queues := by
  obtain ⟨v, hv⟩ := u.ctx_signalEvent e (isError st)
  rw [h.ctx, hv]

theorem Ended.handles (h : Ended s u t e b uid q st d0 d1) : (t.ctx e.ctx).handles = (u.ctx e.ctx).handles := by
  obtain ⟨v, hv⟩ := u.ctx_signalEvent e (isError st)
  rw [h.ctx, hv]

theorem Ended.event (h : Ended s u t e b uid q st d0 d1) {j : Nat} (hj : e.signal = true → j ≠ e.signalEvent) :
    tfind (t.ctx e.ctx).events j = tfind (u.ctx e.ctx).events j := by
  rw [h.ctx]
  exact signal_events hj

/-- A command that a check of its body refuses ends with its status and changes nothing. -/
theorem Starts.refused (h : Starts s e b uid q) (hb : State.startBody (s.fetched e b uid q) (s.newCmd e b uid q) = ends (s.running e b uid q) st)
    (hv : isViolation st = false) (hl : st ≠ stLinkLost) (hr : ∀ v : State, v.outRanges (s.runningCmd e b uid q) = []) :
    completes (fetchOf e b) s e uid st 0 (quiet s · e) :=
  ends_quiet h (exec_fetchOf e b s) hb hv hl (.inr hr) (fun _ _ hq => hq)

/-- A command whose wait for others is over as it starts ends with SUCCESS (R355, R389). -/
theorem Starts.waitOver_completes {v : State} {P : State → Prop} (h : Starts s e b uid q)
    (hb : State.startBody (s.fetched e b uid q) (s.newCmd e b uid q) = (u, none)) (hc : u.cmds = (s.running e b uid q).cmds)
    (hw : u.waitOver (s.runningCmd e b uid q) = true) (hv : (match (s.runningCmd e b uid q).body with | .queueDestroy n => u.dropQueue (s.runningCmd e b uid q).e.ctx n | _ => u) = v)
    (hvc : v.cmds = u.cmds)
    (hh : ∀ (k : Nat) (x : QueueSt), k < 9 → tfind (v.ctx e.ctx).queues k = some x →
      ∀ raw : List Byte, x.avail.head? = some raw → malformed raw = false) (ho : ∀ m : Nat, m ≠ e.ctx → v.ctx m = s.ctx m)
    (hP : ∀ t : State, t.objs = v.objs → t.parts = v.parts → (t.ctx e.ctx).queues = (v.ctx e.ctx).queues → P t) :
    completes (fetchOf e b) s e uid stSuccess 0 P := by
  have hlist := hc.trans (State.running_cmds h.unused)
  obtain ⟨hfetch, hcmds⟩ := waiter_ends h hb hlist rfl rfl rfl hw hv hvc rfl hh
  have hcmd : v.cmd? uid = some (s.runningCmd e b uid q) := h.cmd_running (hvc.trans hc)
  obtain ⟨ev, hctx, -⟩ := State.conclude_ctx (st := stSuccess) 0 0 hcmd rfl (by decide) e.ctx
  refine ⟨_, _, (exec_fetchOf e b s).trans (congrArg Host.Outcome.next hfetch), hcmds, rfl, rfl, rfl, rfl, rfl, fun m hm => ?_, hP _ ?_ ?_ ?_⟩
  · obtain ⟨ev', hother, hsame⟩ := State.conclude_ctx (st := stSuccess) 0 0 hcmd rfl (by decide) m
    rw [hother, hsame hm]
    exact ho m hm
  · exact State.conclude_objs 0 0 hcmd rfl (by decide) (.inl rfl)
  · exact (State.conclude_frame _ _ _ _ _).parts_eq
  · rw [hctx]

/-- A command whose wait for others is not over goes on (R355, R389). -/
theorem Starts.waits (h : Starts s e b uid q) (hb : State.startBody (s.fetched e b uid q) (s.newCmd e b uid q) = (u, none))
    (hc : u.cmds = (s.running e b uid q).cmds) (hw : u.waitOver (s.runningCmd e b uid q) = false)
    (hh : ∀ (k : Nat) (x : QueueSt), k < 9 → tfind (u.ctx e.ctx).queues k = some x →
      ∀ raw : List Byte, x.avail.head? = some raw → malformed raw = false) : s.kciFetch e b = u := by
  have hlist := hc.trans (State.running_cmds h.unused)
  have hblocked : u.cmds.find? (fun c => u.unblocked c) = none := by
    refine List.find?_eq_none.mpr (fun c hcm => ?_)
    rcases List.mem_append.mp (hlist ▸ hcm) with hold | hnew
    · rw [State.unblocked_false (h.still c hold)]
      exact Bool.false_ne_true
    · rw [List.mem_singleton.mp hnew]
      exact Bool.false_ne_true
  have hwait : u.cmds.find? (fun c => u.waitOver c) = none := by
    refine List.find?_eq_none.mpr (fun c hcm => ?_)
    rcases List.mem_append.mp (hlist ▸ hcm) with hold | hnew
    · rw [State.waitOver_false (h.still c hold)]
      exact Bool.false_ne_true
    · rw [List.mem_singleton.mp hnew, hw]
      exact Bool.false_ne_true
  have hone : u.settleOne = none := by
    unfold State.settleOne
    rw [hblocked, hwait]
  rw [State.kciFetch_starts h, hb]
  show (State.settleN (2 * s.cmds.length + 2 + 1) u).checkHeads e.ctx = u
  unfold State.settleN
  rw [hone]
  exact State.checkHeads_fine (fun k x hk hx => hh k x hk hx)

end

end Sys2Proof.Machine

namespace Sys2Proof.Proofs
-- One thread elaborates these proofs: in parallel they ask for more stacks than the check allows.
set_option Elab.async false
open Sys2Proof.Machine Sys2Proof.Claims

/-! ### Queues -/

theorem queueCreate_holds : queueCreate := by
  intro e q cls n v sq cq co uid r s h h1 h9 hq9 hcls
  let b : Body := .queueCreate q cls n v sq cq co
  let run := s.running e b uid r
  have hfields : ¬ (q < 1 ∨ 9 < q ∨ (q = 9 ∧ cls ≠ 0) ∨ (q ≠ 9 ∧ (cls < 1 ∨ 3 < cls))) := by omega
  have hbody : State.startBody (s.fetched e b uid r) (s.newCmd e b uid r) =
      if cls < (run.ctx e.ctx).maxClass then ends run stClassDenied
      else if run.setHeld e.ctx then ends run stExclusive
      else if (tfind (run.ctx e.ctx).queues q).isSome ∨ sq % 4096 ≠ 0 ∨ cq % 4096 ≠ 0 ∨ co % 4096 ≠ 0 ∨ (q = 9 ∧ sq ≠ 0) ∨ ringSizeOk n = false
        ∨ vectorsOf e.ctx ≤ v ∨ run.sanitizing ∨ run.power.failed then ends run stInvalidField
      else ends (run.modCtx e.ctx (fun c => { c with queues := tset c.queues q (QueueSt.fresh cls n v sq cq co) })) stSuccess := if_neg hfields
  have hpower : run.power = s.power := (State.running_frame s e b uid r).power_eq
  have hnvme : run.nvme = s.nvme := (State.running_frame s e b uid r).nvme_eq
  rw [State.running_maxClass, setHeld_run, State.running_queue_isSome] at hbody
  refine ⟨fun hlow => ?_, fun hhigh hheld hnone hsq hcq hco hn hvec hsan hfailed => ?_, fun hhigh hheld hsome => ?_⟩
  · rw [if_pos hlow] at hbody
    exact h.refused hbody rfl (by decide) (fun _ => rfl)
  · have hsan' : run.sanitizing = false := by
      unfold State.sanitizing at hsan ⊢
      rwa [hnvme]
    have hqe : q ≠ e.queue := by
      rintro rfl
      rw [h.ring] at hnone
      cases hnone
    rw [if_neg (Nat.not_lt_of_le hhigh), hheld, if_neg Bool.false_ne_true, hsan', hpower, hfailed, hnone, if_neg (by simp [hsq, hcq, hco, hn]; omega)] at hbody
    refine completes_of h rfl hbody rfl (by decide) rfl (fun k x hk hx => ?_) (fun m hm => State.ctx_modCtx_other _ _ hm) (fun t ht => ⟨?_, ?_, fun j hj hje => ?_⟩)
    · rw [State.ctx_modCtx] at hx
      by_cases hkq : k = q
      · subst hkq
        obtain rfl := Option.some.inj ((tfind_tset_same _ _ _).symm.trans hx)
        exact fun raw hraw => absurd hraw (by simp [QueueSt.fresh])
      · exact h.heads_fetched k x hk ((tfind_tset_other _ _ hkq).symm.trans hx)
    · exact (ht.objs (.inl rfl)).trans (run_objs s e b uid r)
    · rw [ht.queues, State.ctx_modCtx]
      exact tfind_tset_same _ _ _
    · rw [ht.queues, State.ctx_modCtx]
      exact (tfind_tset_other _ _ hj).trans (s.running_queue e b uid r hje)
  · rw [if_neg (Nat.not_lt_of_le hhigh), hheld, if_neg Bool.false_ne_true, hsome, if_pos (.inl rfl)] at hbody
    exact h.refused hbody rfl (by decide) (fun _ => rfl)

theorem queueDestroy_holds : queueDestroy := by
  intro e q uid r x s h h1 h9 hqe hx hclosing
  let b : Body := .queueDestroy q
  let run := s.running e b uid r
  let u := run.modCtx e.ctx (fun c => { c with queues := tset c.queues q { x with closing := true, avail := [] } })
  have hbody : State.startBody (s.fetched e b uid r) (s.newCmd e b uid r) = (u, none) := by
    show doQueueDestroy run e.ctx q = _
    unfold doQueueDestroy
    rw [s.running_queue e b uid r hqe, hx]
    exact if_neg (by rw [hclosing]; simp; omega)
  have hqueues : (u.ctx e.ctx).queues = tset (run.ctx e.ctx).queues q { x with closing := true, avail := [] } := by
    rw [State.ctx_modCtx]
  have hpend : u.pendingOf e.ctx = s.pendingOf e.ctx ++ [s.runningCmd e b uid r] := pend_run h
  refine ⟨fun hidle => ?_, fun ⟨c, hc, hcq⟩ => ?_⟩
  · have hover : u.waitOver (s.runningCmd e b uid r) = true := by
      have hnone : (u.pendingOf e.ctx).any (fun d => d.e.queue == q && d.uid != uid) = false := by
        rw [hpend, List.any_append, List.any_eq_false.mpr (fun d hd => by simp [hidle d hd])]
        simp [State.runningCmd, State.newCmd, Cmd.fresh]
      show (true && true && !(u.pendingOf e.ctx).any (fun d => d.e.queue == q && d.uid != uid)) = true
      rw [hnone]
      rfl
    have hdrop : ((u.dropQueue e.ctx q).ctx e.ctx).queues = tdel (tset (run.ctx e.ctx).queues q { x with closing := true, avail := [] }) q := by
      unfold State.dropQueue
      rw [State.ctx_modCtx, hqueues]
    refine h.waitOver_completes (v := u.dropQueue e.ctx q) hbody rfl hover rfl rfl (fun k y hk hy => ?_) (fun m hm => ?_) (fun t hobjs _ hq => ⟨hobjs.trans (run_objs s e b uid r), ?_, fun j hj hje => ?_⟩)
    · rw [hdrop] at hy
      by_cases hkq : k = q
      · subst hkq
        rw [tfind_tdel_same] at hy
        cases hy
      · exact h.heads_fetched k y hk ((tfind_tset_other _ _ hkq).symm.trans ((tfind_tdel_other _ hkq).symm.trans hy))
    · unfold State.dropQueue
      rw [State.ctx_modCtx_other _ _ hm, State.ctx_modCtx_other _ _ hm]
      exact s.fetched_ctx_other e b uid r hm
    · rw [hq, hdrop, tfind_tdel_same]
    · rw [hq, hdrop, tfind_tdel_other _ hj, tfind_tset_other _ _ hj]
      exact s.running_queue e b uid r hje
  · have hover : u.waitOver (s.runningCmd e b uid r) = false := by
      have hbusy : (u.pendingOf e.ctx).any (fun d => d.e.queue == q && d.uid != uid) = true := by
        refine List.any_eq_true.mpr ⟨c, hpend ▸ List.mem_append_left _ hc, ?_⟩
        have hne : c.uid ≠ uid := h.unused c (List.mem_filter.mp hc).1
        simp [hcq, hne]
      show (true && true && !(u.pendingOf e.ctx).any (fun d => d.e.queue == q && d.uid != uid)) = false
      rw [hbusy]
      rfl
    have hfetch : s.kciFetch e b = u := h.waits hbody rfl hover (fun k y hk hy => by
      rw [hqueues] at hy
      by_cases hkq : k = q
      · subst hkq
        obtain rfl := Option.some.inj ((tfind_tset_same _ _ _).symm.trans hy)
        exact fun raw hraw => absurd hraw (by simp)
      · exact h.heads_fetched k y hk ((tfind_tset_other _ _ hkq).symm.trans hy))
    refine ⟨u, s.runningCmd e b uid r, (exec_fetchOf e b s).trans (congrArg Host.Outcome.next hfetch), State.running_cmds h.unused, rfl, rfl, rfl, ?_⟩
    rw [hqueues]
    exact tfind_tset_same _ _ _

/-! ### Jobs and priorities -/

theorem jobEnd_holds : jobEnd := by
  intro e uid r s h
  let b : Body := .jobEnd
  let run := s.running e b uid r
  have hparts : run.parts = s.parts := (State.running_frame s e b uid r).parts_eq
  have hbody : State.startBody (s.fetched e b uid r) (s.newCmd e b uid r) =
      if s.parts.any (fun p => p.2.state == 2 && p.2.ctx == e.ctx) then (run.releaseJob e.ctx, none) else ends run stInvalidField := by
    rw [← hparts]
    rfl
  refine ⟨fun hnone => ?_, fun ⟨p, hp, hstate, hctx⟩ hidle => ?_⟩
  · have hany : s.parts.any (fun p => p.2.state == 2 && p.2.ctx == e.ctx) = false :=
      List.any_eq_false.mpr (fun p hp => by simpa using hnone p hp)
    rw [hany] at hbody
    exact h.refused hbody rfl (by decide) (fun _ => rfl)
  · have hany : s.parts.any (fun p => p.2.state == 2 && p.2.ctx == e.ctx) = true := List.any_eq_true.mpr ⟨p, hp, by simp [hstate, hctx]⟩
    rw [hany] at hbody
    have hover : (run.releaseJob e.ctx).waitOver (s.runningCmd e b uid r) = true := by
      have hpend : (run.releaseJob e.ctx).pendingOf e.ctx = [s.runningCmd e b uid r] := (pend_run h).trans (by rw [hidle]; rfl)
      show (true && true && ((run.releaseJob e.ctx).pendingOf e.ctx).all (fun d => d.uid == uid)) = true
      rw [hpend]
      simp [State.runningCmd, State.newCmd, Cmd.fresh]
    refine h.waitOver_completes (v := run.releaseJob e.ctx) hbody rfl hover rfl rfl (fun k x hk hx => h.heads_fetched k x hk hx) (fun m hm => s.fetched_ctx_other e b uid r hm)
      (fun t hobjs hp _ => ⟨hobjs.trans (run_objs s e b uid r), fun n => ?_⟩)
    have hpart : t.part n = (run.releaseJob e.ctx).part n := by
      unfold State.part
      rw [hp]
    rw [hpart, State.releaseJob_part]
    unfold State.part
    rw [hparts]

theorem priority_holds : priority := by
  intro e q cls cid uid r s h hq hcls
  let b : Body := .priority q cls cid
  let run := s.running e b uid r
  have hfind : (run.pendingOf e.ctx).find? (fun c => c.e.queue == q && c.e.cid == cid && c.uid != uid) =
      (s.pendingOf e.ctx).find? (fun c => c.e.queue == q && c.e.cid == cid) := by
    rw [pend_run h]
    refine find_append_none _ _ _ _ (fun c hc => ?_) (by simp [State.runningCmd, State.newCmd, Cmd.fresh])
    have hne : c.uid ≠ uid := h.unused c (List.mem_filter.mp hc).1
    simp [hne]
  have hbody : State.startBody (s.fetched e b uid r) (s.newCmd e b uid r) = doPriority run uid e.ctx q cls cid := rfl
  unfold doPriority at hbody
  rw [if_neg (by omega), hfind, State.running_maxClass] at hbody
  refine ⟨fun hnone => ?_, fun x hx hcode hhigh hzero => ?_, fun x hx hcode hlow => ?_⟩
  · rw [List.find?_eq_none.mpr (fun c hc => by simpa using hnone c hc)] at hbody
    exact ends_quiet h rfl hbody rfl (by decide) (.inl rfl) (fun _ _ hquiet => hquiet)
  · rw [hx] at hbody
    dsimp only at hbody
    rw [if_neg (by omega), if_neg (by omega), if_neg (by omega), if_neg (by omega)] at hbody
    let f (c : Cmd) : Cmd := { c with
      cls := cls, doorbell := if cls = 0 ∧ c.cls ≠ 0 then s.time.now else c.doorbell, lastTile := if cls = 0 ∧ c.cls ≠ 0 then none else c.lastTile }
    let s1 := run.modCmd x.uid f
    let u : State := if cls ≠ 0 ∧ x.cls = 0 then
      s1.modArrays (fun l => tmap l (fun _ a => if a.class0 = some x.uid then { a with class0 := none } else a)) else s1
    have hnow : run.time = s.time := (State.running_frame s e b uid r).time_eq
    replace hbody : State.startBody (s.fetched e b uid r) (s.newCmd e b uid r) = (u, some (stSuccess, stateCode x.st, 0)) := by
      rw [hbody, hnow]
    have hu : Frame [.cmds, .arrays] run u := 
      Frame.ite (((State.modCmd_frame run x.uid f).mono rfl).after (State.modArrays_frame _ _) rfl) ((State.modCmd_frame run x.uid f).mono rfl)
    have hxuid : x.uid ≠ uid := h.unused x (List.mem_filter.mp (List.mem_of_find?_eq_some hx)).1
    have hucmds : u.cmds = s.cmds.map (fun c => if c.uid = x.uid then f c else c) ++ [s.runningCmd e b uid r] := by
      have h1 : u.cmds = run.cmds.map (fun c => if c.uid = x.uid then f c else c) := by
        simp only [u]
        split <;> rfl
      rw [h1, State.running_cmds h.unused, List.map_append, List.map_singleton, if_neg (fun he => hxuid he.symm)]
    have hold : ∀ c ∈ s.cmds.map (fun c => if c.uid = x.uid then f c else c), c.uid ≠ uid ∧ c.still := by
      intro c hc
      obtain ⟨d, hd, rfl⟩ := List.mem_map.mp hc
      split
      · exact ⟨h.unused d hd, h.still d hd⟩
      · exact ⟨h.unused d hd, h.still d hd⟩
    have hcmd : u.cmd? uid = some (s.runningCmd e b uid r) := by
      unfold State.cmd?
      rw [hucmds, List.find?_append, List.find?_eq_none.mpr (fun c hc => by simpa using (hold c hc).1)]
      simp [State.runningCmd, State.newCmd, Cmd.fresh]
    have hfetch := State.kciFetch_ends h hbody rfl (by decide) hcmd rfl (fun c hc hne => by
      rw [hucmds] at hc
      rcases List.mem_append.mp hc with hc | hc
      · exact (hold c hc).2
      · rw [List.mem_singleton.mp hc] at hne
        exact absurd rfl hne) (fun k y hk hy => by
      rw [State.ctx_of_ctxs hu.ctxs_eq] at hy
      exact h.heads_fetched k y hk hy)
    refine ⟨_, (s.runningCmd e b uid r).concluded stSuccess (stateCode x.st) 0 u.nextId u.time.now,
      (exec_fetchOf e b s).trans (congrArg Host.Outcome.next hfetch), rfl, rfl, rfl, ?_⟩
    rw [State.conclude_cmds _ 0 hcmd rfl (by decide), hucmds, List.map_append, List.map_congr_left (fun c hc => if_neg (hold c hc).1), List.map_id']
    simp [State.runningCmd, State.newCmd, Cmd.fresh, f, finalStatus]
  · rw [hx] at hbody
    dsimp only at hbody
    rw [if_neg (by omega), if_pos hlow] at hbody
    exact h.refused hbody rfl (by decide) (fun _ => rfl)

/-! ### Events -/

theorem eventCreate_holds : eventCreate := by
  intro e ev value uid r s h hev
  let b : Body := .eventCreate ev value
  let run := s.running e b uid r
  have hevents : (run.ctx e.ctx).events = (s.ctx e.ctx).events := run_events s e b uid r e.ctx
  have hbody : State.startBody (s.fetched e b uid r) (s.newCmd e b uid r) =
      if 64 ≤ ev ∨ (tfind (run.ctx e.ctx).events ev).isSome then ends run stInvalidField
      else ends (run.modCtx e.ctx (fun c => { c with events := tset c.events ev { err := false, value := value } })) stSuccess := rfl
  rw [hevents] at hbody
  refine ⟨fun hnone hsignal => ?_, fun hsome => ?_⟩
  · rw [hnone, if_neg (by simp; omega)] at hbody
    have hqueues : ((run.modCtx e.ctx (fun c => { c with events := tset c.events ev { err := false, value := value } })).ctx e.ctx).queues =
        ((s.fetched e b uid r).ctx e.ctx).queues := by
      rw [State.ctx_modCtx]
      rfl
    refine completes_of h rfl hbody rfl (by decide) rfl (h.quietHeads hqueues) (fun m hm => State.ctx_modCtx_other _ _ hm)
      (fun t ht => ⟨quiet_run ht rfl (.inl rfl) rfl hqueues, ?_, fun j hj hjs => ?_⟩)
    · rw [ht.event (fun hs => Ne.symm (hsignal hs)), State.ctx_modCtx]
      exact tfind_tset_same _ _ _
    · rw [ht.event hjs, State.ctx_modCtx, ← hevents]
      exact tfind_tset_other _ _ hj
  · rw [if_pos (.inr hsome)] at hbody
    exact h.refused hbody rfl (by decide) (fun _ => rfl)

/-- An event of the command's context changes, and the command ends with SUCCESS. -/
theorem event_changes {s : State} {e : Entry} {b : Body} {uid d0 ev : Nat} {r : QueueSt} {f : Table EventSt → Table EventSt} {P : State → Prop}
    (h : Starts s e b uid r) (hsignal : e.signal = true → e.signalEvent ≠ ev)
    (hbody : State.startBody (s.fetched e b uid r) (s.newCmd e b uid r) =
      ((s.running e b uid r).modCtx e.ctx (fun c => { c with events := f c.events }), some (stSuccess, d0, 0)))
    (hP : ∀ t : State, quiet s t e → tfind (t.ctx e.ctx).events ev = tfind (f (s.ctx e.ctx).events) ev → P t) :
    completes (fetchOf e b) s e uid stSuccess d0 P := by
  have hctx := State.ctx_modCtx (s.running e b uid r) e.ctx (fun c => { c with events := f c.events })
  have hqueues : (((s.running e b uid r).modCtx e.ctx (fun c => { c with events := f c.events })).ctx e.ctx).queues = ((s.fetched e b uid r).ctx e.ctx).queues := by
    rw [hctx]
    rfl
  refine completes_of h (exec_fetchOf e b s) hbody rfl (by decide) rfl (h.quietHeads hqueues) (fun m hm => State.ctx_modCtx_other _ _ hm)
    (fun t ht => hP t (quiet_run ht rfl (.inl rfl) rfl hqueues) ?_)
  rw [ht.event (fun hs => Ne.symm (hsignal hs)), hctx, ← run_events s e b uid r e.ctx]

/-- A refused command of an event leaves the event. -/
theorem event_refused {s : State} {e : Entry} {b : Body} {uid ev : Nat} {r : QueueSt} {v : EventSt}
    (h : Starts s e b uid r) (hsignal : e.signal = true → e.signalEvent ≠ ev) (hv : tfind (s.ctx e.ctx).events ev = some v)
    (hr : ∀ u : State, u.outRanges (s.runningCmd e b uid r) = [])
    (hbody : State.startBody (s.fetched e b uid r) (s.newCmd e b uid r) = ends (s.running e b uid r) stInvalidField) :
    completes (fetchOf e b) s e uid stInvalidField 0 (fun t => quiet s t e ∧ tfind (t.ctx e.ctx).events ev = some v) := by
  refine ends_quiet h (exec_fetchOf e b s) hbody rfl (by decide) (.inr hr) (fun t ht hquiet => ⟨hquiet, ?_⟩)
  rw [ht.event (fun hs => Ne.symm (hsignal hs)), run_events, hv]

theorem eventDestroy_holds : eventDestroy := by
  intro e ev uid r v s h hv hwait hsignal
  let b : Body := .eventDestroy ev
  let run := s.running e b uid r
  have hbody : State.startBody (s.fetched e b uid r) (s.newCmd e b uid r) =
      if (tfind (run.ctx e.ctx).events ev).isNone ∨ run.eventUsed e.ctx ev then ends run stInvalidField
      else ends (run.modCtx e.ctx (fun c => { c with events := tdel c.events ev })) stSuccess := rfl
  rw [run_events, hv, used_run h ev hwait hsignal] at hbody
  refine ⟨fun hunused => ?_, fun hused => ?_⟩
  · rw [if_neg (by simp [hunused])] at hbody
    exact event_changes (f := fun l => tdel l ev) h hsignal hbody (fun t hquiet hev => ⟨hquiet, hev.trans (tfind_tdel_same _ _)⟩)
  · rw [if_pos (.inr hused)] at hbody
    exact event_refused h hsignal hv (fun _ => rfl) hbody

theorem eventClear_holds : eventClear := by
  intro e ev uid r v s h hv hwait hsignal
  let b : Body := .eventClear ev
  let run := s.running e b uid r
  have hbody : State.startBody (s.fetched e b uid r) (s.newCmd e b uid r) =
      if run.eventUsed e.ctx ev then ends run stInvalidField
      else (run.modCtx e.ctx (fun c => { c with events := tset c.events ev { v with err := false } }), some (stSuccess, v.value % 2 ^ 32, 0)) := by
    show doEventClear run e.ctx ev = _
    unfold doEventClear
    rw [run_events, hv]
  rw [used_run h ev hwait hsignal] at hbody
  refine ⟨fun hunused => ?_, fun hused => ?_⟩
  · rw [if_neg (by simp [hunused])] at hbody
    exact event_changes (f := fun l => tset l ev { v with err := false }) h hsignal hbody (fun t hquiet hev => ⟨hquiet, hev.trans (tfind_tset_same _ _ _)⟩)
  · rw [if_pos hused] at hbody
    exact event_refused h hsignal hv (fun _ => rfl) hbody

theorem nop_holds : nop := by
  intro e uid r s h
  refine ends_quiet (st := stSuccess) (d1 := 0) h rfl rfl rfl (by decide) (.inl rfl) (fun t ht hquiet => ⟨hquiet, ?_, fun v hs hv => ?_, fun j hj => ?_⟩)
  · rw [ht.handles, run_handles]
    exact List.map_id _
  · rw [ht.ctx]
    unfold State.signalEvent
    rw [if_pos hs, run_events, hv]
    rw [State.ctx_modCtx]
    exact tfind_tset_same _ _ _
  · rw [ht.event hj, run_events]

/-- Settles O22. -/
theorem queueAndEventCommands : Obligations.QueueAndEventCommands :=
  ⟨queueCreate_holds, queueDestroy_holds, priority_holds, jobEnd_holds, eventCreate_holds, eventDestroy_holds, eventClear_holds, nop_holds⟩

/-! ### Objects -/

/-- An object is mapped under a handle of the command's context, and the command ends with SUCCESS. -/
theorem mapObj_handle (u : State) (n hd o rights : Nat) : ∃ base : Nat, (u.mapObj n hd o rights).ctx n = { u.ctx n with
    handles := tset (u.ctx n).handles hd { obj := o, draining := false, rights := rights, dref := 0, href := 1, base := base } } :=
  ⟨_, State.ctx_modCtx _ _ _⟩

theorem objCreate_holds : objCreate := by
  intro e oid pages word kind h l p d uid r s hs hkind hp1 hp2 hword hoid hkv0 hkv
  let b : Body := .objCreate oid pages word kind h l p d
  let run := s.running e b uid r
  have hbody : State.startBody (s.fetched e b uid r) (s.newCmd e b uid r) = doObjCreate run e.ctx oid pages word kind h l p d := rfl
  have hfields : ¬ ((kind ≠ 1 ∧ kind ≠ 2) ∨ pages = 0 ∨ 2 ^ 28 < pages ∨ wordBad kind word ∨ oid = 0
      ∨ (kvFmtOf word = 0 ∧ (h ≠ 0 ∨ l ≠ 0 ∨ p ≠ 0 ∨ d ≠ 0))
      ∨ (kvFmtOf word ≠ 0 ∧ ((d ≠ 64 ∧ d ≠ 128 ∧ d ≠ 256) ∨ pages ≠ kvPages (kvFmtOf word) h l p))) := by
    rintro (hk | hn | hn | hw | ho | ⟨hk, hn⟩ | ⟨hk, hn⟩)
    · omega
    · omega
    · omega
    · rw [hword] at hw
      cases hw
    · exact hoid ho
    · have := hkv0 hk
      omega
    · have := hkv hk
      omega
  unfold doObjCreate at hbody
  dsimp only at hbody
  rw [if_neg hfields, run_idParts, run_findOid, run_free] at hbody
  refine ⟨fun hsome => ?_, fun hnone hfull => ?_, fun hd hnone hfree => ?_⟩
  · rw [if_pos hsome] at hbody
    exact hs.refused hbody rfl (by decide) (fun _ => rfl)
  · rw [hnone, hfull] at hbody
    exact hs.refused hbody rfl (by decide) (fun _ => rfl)
  · rw [hnone, hfree] at hbody
    let x : ObjectSt := {
      oid := oid, part := (run.ctx e.ctx).partition, owner := e.ctx, kind := kind, pages := pages, word := word,
      kvH := h, kvL := l, kvP := p, kvD := d, data := [], undef := [], pageTab := [], tags := [], isSealed := false, mark := false,
      grants := [], doomed := false, prog := none }
    let u := ((run.setObj run.nextId x).bump).mapObj e.ctx hd run.nextId 3
    replace hbody : State.startBody (s.fetched e b uid r) (s.newCmd e b uid r) = (u, some (stSuccess, hd, 0)) := hbody
    obtain ⟨base, hctx⟩ := mapObj_handle ((run.setObj run.nextId x).bump) e.ctx hd run.nextId 3
    have hqueues : (u.ctx e.ctx).queues = ((s.fetched e b uid r).ctx e.ctx).queues := by
      rw [show u.ctx e.ctx = _ from hctx]
      rfl
    refine completes_of hs rfl hbody rfl (by decide) rfl (hs.quietHeads hqueues) (fun m hm => State.ctx_modCtx_other _ _ hm)
      (fun t ht => ⟨(fr ht.frame .host).trans (run_host s e b uid r),
        { obj := run.nextId, draining := false, rights := 3, dref := 0, href := 1, base := base }, x, ?_, ?_, rfl, rfl, rfl, rfl, rfl, rfl, rfl, rfl, rfl,
        run_partition s e b uid r e.ctx, rfl, rfl, fun _ => rfl, fun o ho => ?_⟩)
    · rw [ht.handles, show u.ctx e.ctx = _ from hctx]
      exact tfind_tset_same _ _ _
    · unfold State.obj?
      rw [ht.objs (.inl rfl)]
      exact tfind_tset_same _ _ _
    · unfold State.obj?
      rw [ht.objs (.inl rfl)]
      exact (tfind_tset_other _ _ ho).trans (run_obj s e b uid r o)

theorem objOpen_holds : objOpen := by
  intro e oid rights uid r s hs
  let b : Body := .objOpen oid rights
  let run := s.running e b uid r
  have hbody : State.startBody (s.fetched e b uid r) (s.newCmd e b uid r) = doObjOpen run e.ctx oid rights := rfl
  unfold doObjOpen at hbody
  rw [run_idParts, run_findOid, run_free] at hbody
  refine ⟨fun hnone => ?_, fun o x hx => ⟨fun hrights => ?_, fun hd hrights hne hdoomed howner hunmapped hfree => ?_⟩⟩
  · rw [hnone] at hbody
    exact hs.refused hbody rfl (by decide) (fun _ => rfl)
  · rw [hx] at hbody
    dsimp only at hbody
    rw [if_pos (by simp [hrights])] at hbody
    exact hs.refused hbody rfl (by decide) (fun _ => rfl)
  · rw [hx, hfree] at hbody
    dsimp only at hbody
    have hany : (run.ctx e.ctx).handles.any (fun h => h.2.obj == o) = false := by
      rw [run_handles, any_tmap _ _ _ (fun k m => by split <;> rfl)]
      exact List.any_eq_false.mpr (fun m hm => by simpa using hunmapped m hm)
    have howner' : x.owner = e.ctx ∨ (run.ctx x.owner).state = 1 := (run_state s e b uid r x.owner).symm ▸ howner
    rw [if_neg (by simp [hrights, hne, hdoomed, howner']), if_neg (by rw [hany]; exact Bool.false_ne_true)] at hbody
    obtain ⟨base, hctx⟩ := mapObj_handle run e.ctx hd o rights
    have hqueues : ((run.mapObj e.ctx hd o rights).ctx e.ctx).queues = ((s.fetched e b uid r).ctx e.ctx).queues := by
      rw [hctx]
      rfl
    refine completes_of hs rfl hbody rfl (by decide) rfl (hs.quietHeads hqueues) (fun m hm => State.ctx_modCtx_other _ _ hm)
      (fun t ht => ⟨quiet_run ht rfl (.inl rfl) rfl hqueues,
        { obj := o, draining := false, rights := rights, dref := 0, href := 1, base := base }, ?_, rfl, rfl, rfl, rfl, rfl⟩)
    rw [ht.handles, hctx]
    exact tfind_tset_same _ _ _

theorem objShare_holds : objShare := by
  intro e h g rights uid r m x s hs hm hx
  let b : Body := .objShare h g rights
  let run := s.running e b uid r
  have hbody : State.startBody (s.fetched e b uid r) (s.newCmd e b uid r) = doObjShare run e.ctx h g rights := rfl
  unfold doObjShare at hbody
  rw [held_obj hs (List.mem_singleton_self h) hm hx] at hbody
  dsimp only at hbody
  rw [run_partition, run_partition] at hbody
  refine ⟨fun hbad => ?_, fun howner hg hpart hrights hkind hroom => ?_⟩
  · rw [if_pos (by tauto)] at hbody
    exact hs.refused hbody rfl (by decide) (fun _ => rfl)
  · rw [if_neg (by simp only [howner, hpart, hrights]; tauto), if_neg (by omega)] at hbody
    exact ends_mod hs rfl hx hbody (fun t hhost hobj hother => ⟨hhost, hobj, hother⟩)

theorem objUnshare_holds : objUnshare := by
  intro e h g uid r m x s hs hm hx howner ⟨y, hy, hyg⟩
  let b : Body := .objUnshare h g
  have hbody : State.startBody (s.fetched e b uid r) (s.newCmd e b uid r) = doObjUnshare (s.running e b uid r) e.ctx h g := rfl
  unfold doObjUnshare at hbody
  rw [held_obj hs (List.mem_singleton_self h) hm hx] at hbody
  dsimp only at hbody
  have hany : x.grants.any (fun g' => g'.1 == g) = true := List.any_eq_true.mpr ⟨y, hy, by simp [hyg]⟩
  rw [if_neg (by simp [howner, hany])] at hbody
  exact ends_mod hs rfl hx hbody (fun t hhost hobj hother => ⟨hhost, hobj, hother⟩)

theorem objRetain_holds : objRetain := by
  intro e h uid r m s hs hm hroom
  let b : Body := .objRetain h
  let run := s.running e b uid r
  obtain ⟨hlive, hheld⟩ := held hs (List.mem_singleton_self h) hm
  have hbody : State.startBody (s.fetched e b uid r) (s.newCmd e b uid r) = doObjRetain run e.ctx h := rfl
  unfold doObjRetain at hbody
  rw [hheld] at hbody
  dsimp only at hbody
  rw [if_neg (by simp [hlive]), if_neg (by omega)] at hbody
  have hctx := State.ctx_modCtx run e.ctx (fun c => { c with handles := tset c.handles h { m with href := m.href + 1, dref := m.dref + 1 } })
  have hqueues : ((run.modCtx e.ctx (fun c => { c with handles := tset c.handles h { m with href := m.href + 1, dref := m.dref + 1 } })).ctx e.ctx).queues =
      ((s.fetched e b uid r).ctx e.ctx).queues := by
    rw [hctx]
    rfl
  refine completes_of hs rfl hbody rfl (by decide) rfl (hs.quietHeads hqueues) (fun m hm => State.ctx_modCtx_other _ _ hm)
    (fun t ht => ⟨quiet_run ht rfl (.inl rfl) rfl hqueues, ?_, fun k hk => ?_⟩)
  · rw [ht.handles]
    exact (congrArg (fun c : Context => tfind c.handles h) hctx).trans (tfind_tset_same _ _ _)
  · rw [ht.handles]
    refine (congrArg (fun c : Context => tfind c.handles k) hctx).trans ((tfind_tset_other _ _ hk).trans ?_)
    exact s.running_handle_other e b uid r (by simpa [b, bodyHandles] using hk)

theorem objPlace_holds : objPlace := by
  intro e h word uid r m x s hs hm hx
  let b : Body := .objPlace h word
  have hbody : State.startBody (s.fetched e b uid r) (s.newCmd e b uid r) = doObjPlace (s.running e b uid r) e.ctx h word := rfl
  unfold doObjPlace at hbody
  rw [held_obj hs (List.mem_singleton_self h) hm hx] at hbody
  dsimp only at hbody
  refine ⟨fun hbad => ?_, fun hkind hword hkv => ?_⟩
  · rw [if_pos hbad] at hbody
    exact hs.refused hbody rfl (by decide) (fun _ => rfl)
  · rw [if_neg (by simp [hkind, hword, hkv])] at hbody
    exact ends_mod hs rfl hx hbody (fun t hhost hobj hother => ⟨hhost, hobj, hother⟩)

theorem objQuery_holds : objQuery := by
  intro e h buf uid r m x s hcanon hs hm hx hkind halign n bs
  let b : Body := .objQuery h buf
  let run := s.running e b uid r
  have hbody : State.startBody (s.fetched e b uid r) (s.newCmd e b uid r) = doObjQuery run e.ctx h buf := rfl
  unfold doObjQuery at hbody
  rw [held_obj hs (List.mem_singleton_self h) hm hx] at hbody
  dsimp only at hbody
  rw [if_neg (by omega), if_neg hkind] at hbody
  replace hbody : State.startBody (s.fetched e b uid r) (s.newCmd e b uid r) = ends (run.hostWrite buf bs) stSuccess := hbody
  have hlen : bs.length = 32 := by simp only [bs, List.length_append, le_length]
  clear_value bs
  refine completes_of hs rfl hbody rfl (by decide) rfl (hs.quietHeads rfl) (fun _ _ => rfl) (fun t ht => ⟨(ht.objs (.inl rfl)).trans (run_objs s e b uid r), fun a => ?_⟩)
  have hhost : t.host = mwrite run.host buf bs := ht.frame.host_eq
  rw [hhost, run_host, mget_mwrite hcanon.1, hlen]

theorem objRelease_holds : objRelease := by
  intro e h uid destroy r m x s hs hm hx
  let b : Body := .objRelease h destroy
  let run := s.running e b uid r
  obtain ⟨hlive, hheld⟩ := held hs (List.mem_singleton_self h) hm
  have hbody : State.startBody (s.fetched e b uid r) (s.newCmd e b uid r) = doObjRelease run e.ctx h destroy := rfl
  unfold doObjRelease at hbody
  rw [hheld] at hbody
  dsimp only at hbody
  rw [if_neg (by simp [hlive]), run_mappers] at hbody
  refine ⟨fun hdestroy hbusy => ?_, fun hfree => ?_⟩
  · rw [if_pos ⟨hdestroy, hbusy⟩] at hbody
    exact hs.refused hbody rfl (by decide) (fun _ => rfl)
  · rw [if_neg (fun ⟨hd, hbusy⟩ => by have := hfree hd; omega)] at hbody
    let m' : HandleSt := { m with href := m.href - 1, draining := m.href == 1, dref := m.dref + 1 }
    let s1 := run.modCtx e.ctx (fun c => { c with handles := tset c.handles h m' })
    let u := if destroy then s1.modObj m.obj (fun x => { x with doomed := true }) else s1
    replace hbody : State.startBody (s.fetched e b uid r) (s.newCmd e b uid r) = (u, some (stSuccess, m.href - 1, 0)) := hbody
    have hframe : Frame [.objs] s1 u := Frame.ite (State.modObj_frame _ _ _) (Frame.refl _ _)
    have hctx : u.ctx e.ctx = { run.ctx e.ctx with handles := tset (run.ctx e.ctx).handles h m' } :=
      (State.ctx_of_ctxs hframe.ctxs_eq e.ctx).trans (State.ctx_modCtx _ _ _)
    have hobj (o : Nat) : u.obj? o = if o = m.obj then some { x with doomed := x.doomed || destroy } else s.obj? o := by
      have h1 (o : Nat) : s1.obj? o = s.obj? o := run_obj s e b uid r o
      cases destroy with
      | false =>
        show s1.obj? o = _
        rw [h1]
        split
        · rename_i ho
          rw [ho, hx, Bool.or_false]
        · rfl
      | true =>
        show (s1.modObj m.obj _).obj? o = _
        unfold State.modObj
        rw [h1, hx]
        by_cases ho : o = m.obj
        · rw [if_pos ho, ho, Bool.or_true]
          exact tfind_tset_same _ _ _
        · rw [if_neg ho, ← h1]
          exact tfind_tset_other _ _ ho
    have hqueues : (u.ctx e.ctx).queues = ((s.fetched e b uid r).ctx e.ctx).queues := by
      rw [hctx]
      rfl
    refine completes_of hs rfl hbody rfl (by decide) (hframe.cmds_eq.trans rfl) (hs.quietHeads hqueues)
      (fun k hk => (State.ctx_of_ctxs hframe.ctxs_eq k).trans (State.ctx_modCtx_other _ _ hk)) (fun t ht => ⟨?_, ?_, fun k hk => ?_, ?_, fun o ho => ?_⟩)
    · exact (fr ht.frame .host).trans (hframe.host_eq.trans (run_host s e b uid r))
    · rw [ht.handles, hctx]
      exact tfind_tset_same _ _ _
    · rw [ht.handles, hctx]
      exact (tfind_tset_other _ _ hk).trans (s.running_handle_other e b uid r (by simpa [b, bodyHandles] using hk))
    · unfold State.obj?
      rw [ht.objs (.inl rfl)]
      exact (hobj m.obj).trans (if_pos rfl)
    · unfold State.obj?
      rw [ht.objs (.inl rfl)]
      exact (hobj o).trans (if_neg ho)

/-! ### Programs -/

theorem programInstall_holds : programInstall := by
  intro e oid addr n uid img r s hs halign hoid
  let b : Body := .programInstall oid addr n img
  let run := s.running e b uid r
  have hbody : State.startBody (s.fetched e b uid r) (s.newCmd e b uid r) = doInstall run uid e.ctx oid addr n img := rfl
  have hmgmt : run.mgmt = s.mgmt := (State.running_frame s e b uid r).mgmt_eq
  have hstore : run.store = s.store := (State.running_frame s e b uid r).store_eq
  unfold doInstall at hbody
  dsimp only at hbody
  rw [if_neg (by omega), run_idParts, run_findOid, run_fw, hmgmt, run_free, run_libFree] at hbody
  refine ⟨fun hsome => ?_, fun hnone hbad => ?_, fun hnone hgood hfree hroom => ?_⟩
  · rw [if_pos hsome] at hbody
    exact hs.refused hbody rfl (by decide) (fun _ => rfl)
  · rw [hnone, if_neg (by simp), if_pos hbad] at hbody
    refine ends_quiet hs rfl hbody rfl (by decide) (.inr (fun _ => rfl)) (fun t ht hquiet => ⟨hquiet, ?_⟩)
    exact ⟨_, ht.cmds ▸ List.mem_append_right _ (List.mem_singleton_self _), rfl, rfl⟩
  · rw [hnone, if_neg (by simp), if_neg (by simp [hgood]), if_neg (by rw [Option.isNone_iff_eq_none]; exact Option.ne_none_iff_isSome.mpr hfree), if_neg (Nat.not_lt_of_le hroom)] at hbody
    have hfetch := goes_on hs hbody (fun c hc => by
      rcases List.mem_append.mp ((State.running_cmds hs.unused : run.cmds = _) ▸ hc) with hc | hc
      · exact hs.still c hc
      · rw [List.mem_singleton.mp hc]
        exact fun _ => ⟨by simp [State.runningCmd], fun _ => rfl⟩) (fun k x hk hx => hs.heads_fetched k x hk hx)
    refine ⟨_, s.runningCmd e b uid r, congrArg Host.Outcome.next hfetch, State.running_cmds hs.unused, rfl, rfl, rfl, run_objs s e b uid r, ?_⟩
    rw [State.modStore_store, hstore]

/-- Settles O23. -/
theorem objectCommands : Obligations.ObjectCommands :=
  ⟨objCreate_holds, objOpen_holds, objShare_holds, objUnshare_holds, objRetain_holds, objRelease_holds, objPlace_holds, objQuery_holds,
    programInstall_holds⟩

end Sys2Proof.Proofs

/-! The copies and the start of compute commands: O24 and O25. -/

namespace Sys2Proof.Machine
-- One thread elaborates these proofs: in parallel they ask for more stacks than the check allows.
set_option Elab.async false
open Sys2Proof.Claims

/-! ### The bytes of an object that is written (R42, R37) -/

/-- Is an address in a range of undefined contents? -/
def undefAt (a : Nat) (u : Nat × Nat × Nat) : Bool := decide (u.1 ≤ a) && decide (a < u.1 + u.2.1)

theorem ObjectSt.byte_eq (x : ObjectSt) (a : Nat) : x.byte a =
    match (x.undef.find? (undefAt a)).map (·.2.2) with | some tag => Config.freeByte tag a | none => mget x.data a := by
  unfold ObjectSt.byte
  show (match x.undef.find? (undefAt a) with | some u => _ | none => _) = _
  cases x.undef.find? (undefAt a) <;> rfl

/-- A part of a range that stands when a condition holds. -/
theorem piece_find (c : Prop) [Decidable c] (start n tag a : Nat) : (if c then [(start, n, tag)] else []).find? (undefAt a) =
    if c ∧ start ≤ a ∧ a < start + n then some (start, n, tag) else none := by
  by_cases hc : c
  · by_cases ha : start ≤ a ∧ a < start + n
    · rw [if_pos hc, if_pos ⟨hc, ha⟩]
      exact List.find?_cons_of_pos (by simp [undefAt, ha])
    · rw [if_pos hc, if_neg (fun h => ha h.2)]
      exact List.find?_cons_of_neg (by simpa [undefAt] using ha)
  · rw [if_neg hc, if_neg (fun h => hc h.1)]
    rfl

/-- A written range is defined; the rest of the undefined ranges stays so, in order. -/
theorem cutUndef_find (off len a : Nat) (us : List (Nat × Nat × Nat)) : ((cutUndef off len us).find? (undefAt a)).map (·.2.2) =
    if off ≤ a ∧ a < off + len then none else (us.find? (undefAt a)).map (·.2.2) := by
  induction us with
  | nil => simp [cutUndef]
  | cons u us ih =>
    obtain ⟨start, n, tag⟩ := u
    have hcons : cutUndef off len ((start, n, tag) :: us) =
        ((if start < off ∧ start < start + n then [(start, min (start + n) off - start, tag)] else []) ++
          (if off + len < start + n ∧ start < start + n then [(max start (off + len), start + n - max start (off + len), tag)] else [])) ++
        cutUndef off len us := rfl
    rw [hcons, List.find?_append, List.find?_append, piece_find, piece_find]
    by_cases hu : start ≤ a ∧ a < start + n
    · rw [List.find?_cons_of_pos (by simpa [undefAt] using hu)]
      by_cases hin : off ≤ a ∧ a < off + len
      · rw [if_neg (by omega), if_neg (by omega), if_pos hin]
        rw [if_pos hin] at ih
        exact ih
      · rw [if_neg hin]
        by_cases hlow : a < off
        · rw [if_pos (by omega)]
          rfl
        · rw [if_neg (by omega), if_pos (by omega)]
          rfl
    · rw [List.find?_cons_of_neg (by simpa [undefAt] using hu), if_neg (by omega), if_neg (by omega)]
      exact ih

/-- An object after a write of a command: its bytes, the layout of the range, and its pages (R390, R391). -/
def ObjectSt.written (x : ObjectSt) (now off layout : Nat) (bs : List Byte) : ObjectSt :=
  { x with
    data := mwrite x.data off bs, undef := cutUndef off bs.length x.undef, isSealed := false,
    pageTab := touchPages now x.pageTab (pagesOf off bs.length), tags := putTag (tagOf off bs.length layout) x.tags }

theorem ObjectSt.written_byte {x : ObjectSt} (hwf : Mem.wf x.data = true) (now off layout : Nat) (bs : List Byte) (a : Nat) :
    (x.written now off layout bs).byte a = if off ≤ a ∧ a < off + bs.length then bs.getD (a - off) 0 else x.byte a := by
  rw [ObjectSt.byte_eq, ObjectSt.byte_eq]
  show (match ((cutUndef off bs.length x.undef).find? (undefAt a)).map (·.2.2) with
    | some tag => Config.freeByte tag a | none => mget (mwrite x.data off bs) a) = _
  rw [cutUndef_find, mget_mwrite hwf]
  by_cases hin : off ≤ a ∧ a < off + bs.length
  · rw [if_pos hin, if_pos hin, if_pos hin]
  · rw [if_neg hin, if_neg hin, if_neg hin]

theorem ObjectSt.byte_of {x y : ObjectSt} (hd : y.data = x.data) (hu : y.undef = x.undef) (a : Nat) : y.byte a = x.byte a := by
  unfold ObjectSt.byte
  rw [hd, hu]

theorem State.Canonical.obj_wf {s : State} (h : s.Canonical) {o : Nat} {x : ObjectSt} (hx : s.obj? o = some x) : Mem.wf x.data = true :=
  h.2.1 (o, x) (mem_of_tfind hx)

/-! ### Page tables -/

/-- A page table whose entries at some pages change. -/
theorem tfind_pages (f : PageSt → PageSt) (ps : List Nat) (t : Table PageSt) (p : Nat) :
    (tfind (ps.foldl (fun t p => match tfind t p with | some q => tset t p (f q) | none => t) t) p).isSome = (tfind t p).isSome := by
  induction ps generalizing t with
  | nil => rfl
  | cons q qs ih =>
    rw [List.foldl_cons, ih]
    split
    · rename_i x hx
      by_cases h : p = q
      · rw [h, tfind_tset_same, hx]
        rfl
      · rw [tfind_tset_other _ _ h]
    · rfl

theorem usePages_isSome (now : Nat) (t : Table PageSt) (ps : List Nat) (p : Nat) : (tfind (usePages now t ps) p).isSome = (tfind t p).isSome :=
  tfind_pages (fun q => { q with lastUse := now }) ps t p

theorem touchPages_isSome (now : Nat) (t : Table PageSt) (ps : List Nat) (p : Nat) : (tfind (touchPages now t ps) p).isSome = (tfind t p).isSome :=
  tfind_pages (fun q => q.touch now) ps t p

/-- R161: pages that are backed need no tier. -/
theorem State.backAll_backed {s : State} {o : Nat} {x : ObjectSt} (hx : s.obj? o = some x) (ps : List Nat) (h : ∀ p ∈ ps, (tfind x.pageTab p).isSome = true) :
    s.backAll o ps = some s := by
  induction ps with
  | nil => rfl
  | cons p ps ih =>
    have hp : s.backPage o p = some s := by
      unfold State.backPage
      rw [hx]
      exact if_pos (h p List.mem_cons_self)
    show (match s.backPage o p with | none => none | some s' => s'.backAll o ps) = _
    rw [hp]
    exact ih (fun q hq => h q (List.mem_cons_of_mem _ hq))

/-! ### One object changes -/

theorem State.modObj_eq {s : State} {o : Nat} {x : ObjectSt} (hx : s.obj? o = some x) (f : ObjectSt → ObjectSt) : s.modObj o f = s.setObj o (f x) := by
  unfold State.modObj
  rw [hx]

theorem State.obj_setObj_other (s : State) {o p : Nat} (x : ObjectSt) (h : p ≠ o) : (s.setObj o x).obj? p = s.obj? p := tfind_tset_other _ _ h

theorem State.obj_modObj_other (s : State) {o p : Nat} (f : ObjectSt → ObjectSt) (h : p ≠ o) : (s.modObj o f).obj? p = s.obj? p := by
  unfold State.modObj
  split
  · rfl
  · exact s.obj_setObj_other _ h

theorem oneObject_of {s t : State} {o : Nat} {y : ObjectSt} (h : t.objs = (s.setObj o y).objs) : oneObject s t o y := by
  unfold oneObject State.obj?
  rw [h]
  exact ⟨tfind_tset_same _ _ _, fun p hp => tfind_tset_other _ _ hp⟩

/-- R390, R391: what a command's write leaves of the objects when every page is backed. -/
theorem State.cmdWrite_objs {s : State} {o : Nat} {x : ObjectSt} (hx : s.obj? o = some x) (off layout : Nat) (bs : List Byte) :
    ∃ u : State, (s.objWrite o off bs).tagRange o off bs.length layout = u ∧ u.obj? o = some (x.written s.time.now off layout bs) ∧
      (∀ p : Nat, p ≠ o → u.obj? p = s.obj? p) ∧ Frame [.objs] s u := by
  have h1 := State.obj_modObj s (fun x => { x with
    data := mwrite x.data off bs, undef := cutUndef off bs.length x.undef, isSealed := false,
    pageTab := touchPages s.time.now x.pageTab (pagesOf off bs.length) }) hx
  refine ⟨_, rfl, State.obj_modObj _ _ h1, fun p hp => ?_, ?_⟩
  · exact (State.obj_modObj_other _ _ hp).trans (State.obj_modObj_other _ _ hp)
  · exact (State.objWrite_frame _ _ _ _).after (State.tagRange_frame _ _ _ _ _) rfl

theorem State.cmdWrite_volatile {s : State} {o : Nat} {x : ObjectSt} (hx : s.obj? o = some x) (uid off layout : Nat) (bs : List Byte)
    (hback : ∀ p ∈ pagesOf off bs.length, (tfind x.pageTab p).isSome = true) (hv : x.persistent = false) :
    ∃ u : State, s.cmdWrite uid o off layout bs = some u ∧ u.obj? o = some (x.written s.time.now off layout bs) ∧
      (∀ p : Nat, p ≠ o → u.obj? p = s.obj? p) ∧ Frame [.objs] s u := by
  obtain ⟨u, hu, hobj, hother, hframe⟩ := State.cmdWrite_objs hx off layout bs
  refine ⟨u, ?_, hobj, hother, hframe⟩
  have hv' : (x.written s.time.now off layout bs).persistent = false := hv
  unfold State.cmdWrite
  rw [State.backAll_backed hx _ hback]
  dsimp only
  rw [hu, hobj]
  dsimp only
  rw [hv']
  rfl

/-- R162: a write of a persistent object waits for its pages on NAND. -/
theorem State.cmdWrite_persistent {s : State} {o : Nat} {x : ObjectSt} (hx : s.obj? o = some x) (uid off layout : Nat) (bs : List Byte)
    (hback : ∀ p ∈ pagesOf off bs.length, (tfind x.pageTab p).isSome = true) (hv : x.persistent = true) :
    ∃ (u : State) (ids : List Nat), s.cmdWrite uid o off layout bs = some u ∧ u.obj? o = some (x.written s.time.now off layout bs) ∧
      (∀ p : Nat, p ≠ o → u.obj? p = s.obj? p) ∧ ids.length = (pagesOf off bs.length).length ∧
      u.cmds = s.cmds.map (fun c => if c.uid = uid then { c with waitItems := c.waitItems ++ ids } else c) ∧
      Frame [.objs, .nand, .cmds, .nextId] s u := by
  obtain ⟨u, hu, hobj, hother, hframe⟩ := State.cmdWrite_objs hx off layout bs
  have hv' : (x.written s.time.now off layout bs).persistent = true := hv
  let ps := pagesOf off bs.length
  let ids := (List.range ps.length).map (fun i => u.nextId + i)
  let u1 := u.modNand (fun n => { n with items := n.items ++ (ids.zip ps).map (fun p => (p.1, Item.t2 o p.2 uid [0, 1, 2, 3])) })
  let u2 := u1.modCmd uid (fun c => { c with waitItems := c.waitItems ++ ids })
  refine ⟨u2.bumpBy ps.length, ids, ?_, hobj, hother, by simp [ids, ps], ?_, ?_⟩
  · unfold State.cmdWrite
    rw [State.backAll_backed hx _ hback]
    dsimp only
    rw [hu, hobj]
    dsimp only
    rw [hv']
    rfl
  · show u.cmds.map _ = _
    rw [hframe.cmds_eq]
  · exact (((hframe.mono rfl).after (State.modNand_frame u _) rfl).after (State.modCmd_frame u1 uid _) rfl).after (State.bumpBy_frame u2 _) rfl

/-! ### The newest command -/

section
variable {s u : State} {e : Entry} {b : Body} {uid : Nat} {q : QueueSt}

/-- A change of the newest command alone. -/
theorem map_newest (h : Starts s e b uid q) {c : Cmd} (hc : c.uid = uid) (f : Cmd → Cmd) :
    (s.cmds ++ [c]).map (fun d => if d.uid = uid then f d else d) = s.cmds ++ [f c] := by
  rw [List.map_append, List.map_congr_left (fun d hd => if_neg (h.unused d hd)), List.map_id', List.map_singleton, if_pos hc]

theorem find_newest (h : Starts s e b uid q) {c : Cmd} (hcs : u.cmds = s.cmds ++ [c]) (hc : c.uid = uid) : u.cmd? uid = some c := by
  unfold State.cmd?
  rw [hcs, List.find?_append, List.find?_eq_none.mpr (fun d hd => by simpa using h.unused d hd)]
  simp [hc]

/-- A command that the engines work on does not move by itself. -/
theorem goes_on_newest {v : State} (h : Starts s e b uid q) (hb : State.startBody (s.fetched e b uid q) (s.newCmd e b uid q) = (v, none)) {c : Cmd}
    (hcs : v.cmds = s.cmds ++ [c]) (hc : c.still) (hctx : v.ctx e.ctx = (s.running e b uid q).ctx e.ctx) : s.kciFetch e b = v := by
  refine goes_on h hb (fun d hd => ?_) (fun k x hk hx => ?_)
  · rcases List.mem_append.mp (hcs ▸ hd) with hd | hd
    · exact h.still d hd
    · rw [List.mem_singleton.mp hd]
      exact hc
  · rw [hctx] at hx
    exact h.heads_fetched k x hk hx

end

end Sys2Proof.Machine

namespace Sys2Proof.Proofs
-- One thread elaborates these proofs: in parallel they ask for more stacks than the check allows.
set_option Elab.async false
open Sys2Proof.Machine Sys2Proof.Claims

/-! ### COPY_IN -/

/-- The running command has no page to wait for as it starts. -/
theorem copyEnd_volatile {s u : State} {e : Entry} {b : Body} {uid : Nat} {q : QueueSt} (h : Starts s e b uid q) (hc : u.cmds = (s.running e b uid q).cmds) :
    copyEnd u uid = ends u stSuccess := by
  unfold copyEnd
  rw [h.cmd_running hc]
  rfl

theorem copyIn_holds : copyIn := by
  intro e h off host n layout uid data r m x s hs hcanon hm hx hback stored
  let b : Body := .copyIn h off host n layout data
  let run := s.running e b uid r
  have hlen : data.length = n := by simpa [bodyFits] using hs.data
  have hobj := held_obj hs (List.mem_singleton_self h) hm hx
  have hxrun : run.obj? m.obj = some x := (run_obj s e b uid r m.obj).trans hx
  have hbody : State.startBody (s.fetched e b uid r) (s.newCmd e b uid r) =
      match run.cmdWrite uid m.obj off layout data with | none => ends run stTierFull | some s1 => copyEnd s1 uid := by
    show doCopyIn run uid e.ctx h off layout data = _
    unfold doCopyIn
    rw [hobj] <;> rfl
  have hstored (u t : State) (hu : u.obj? m.obj = some (x.written run.time.now off layout data)) (hother : ∀ p : Nat, p ≠ m.obj → u.obj? p = run.obj? p)
      (hobjs : t.objs = u.objs) (hhost : t.host = s.host) : stored t := by
    have hsame (p : Nat) : t.obj? p = u.obj? p := by
      unfold State.obj?
      rw [hobjs]
    refine ⟨hhost, x.written run.time.now off layout data, ⟨(hsame _).trans hu, fun p hp => ?_⟩, rfl, ?_, fun a => ?_⟩
    · exact (hsame p).trans ((hother p hp).trans (run_obj s e b uid r p))
    · rw [← hlen]
      rfl
    · rw [← hlen]
      exact ObjectSt.written_byte (hcanon.obj_wf hx) _ _ _ _ _
  rw [← hlen] at hback
  refine ⟨fun hv => ?_, fun hv hn => ?_⟩
  · obtain ⟨u, hwrite, hu, hother, hframe⟩ := State.cmdWrite_volatile hxrun uid off layout data hback hv
    rw [hwrite] at hbody
    have hend : State.startBody (s.fetched e b uid r) (s.newCmd e b uid r) = ends u stSuccess := hbody.trans (copyEnd_volatile hs hframe.cmds_eq)
    have hctx (k : Nat) : u.ctx k = run.ctx k := State.ctx_of_ctxs hframe.ctxs_eq k
    refine completes_of hs rfl hend rfl (by decide) hframe.cmds_eq (hs.quietHeads (congrArg Context.queues (hctx e.ctx))) (fun k _ => hctx k)
      (fun t ht => hstored u t hu hother (ht.objs (.inl rfl)) ((fr ht.frame .host).trans (hframe.host_eq.trans (run_host s e b uid r))))
  · obtain ⟨u, ids, hwrite, hu, hother, hids, hcmds, hframe⟩ := State.cmdWrite_persistent hxrun uid off layout data hback hv
    rw [hwrite] at hbody
    let c1 : Cmd := { s.runningCmd e b uid r with waitItems := ids }
    have hucmds : u.cmds = s.cmds ++ [c1] := by
      rw [hcmds, State.running_cmds hs.unused]
      exact map_newest hs rfl (fun c => { c with waitItems := c.waitItems ++ ids })
    have hids' : ids ≠ [] := by
      have hpos : 0 < (pagesOf off data.length).length := by
        unfold pagesOf
        rw [if_neg (by omega), List.length_map, List.length_range]
        omega
      exact List.ne_nil_of_length_pos (hids ▸ hpos)
    have hend : copyEnd u uid = (u.modCmd uid (fun c => { c with st := .draining }), none) := by
      unfold copyEnd
      rw [find_newest hs hucmds rfl]
      exact if_neg (by simpa [c1] using hids')
    let v := u.modCmd uid (fun c => { c with st := .draining })
    have hvcmds : v.cmds = s.cmds ++ [{ c1 with st := .draining }] := by
      show u.cmds.map _ = _
      rw [hucmds]
      exact map_newest hs rfl (fun c => { c with st := .draining })
    have hfetch := goes_on_newest hs (hbody.trans hend) hvcmds (fun _ => ⟨nofun, nofun⟩) (State.ctx_of_ctxs hframe.ctxs_eq e.ctx)
    exact ⟨v, _, congrArg Host.Outcome.next hfetch, hvcmds, rfl, rfl, rfl, hlen ▸ hids,
      hstored u v hu hother rfl (hframe.host_eq.trans (run_host s e b uid r))⟩

/-! ### First writes -/

/-- Where there is room depends on the objects and on the quotas (R161, R456). -/
theorem State.choose_of {s t : State} (ho : t.objs = s.objs) (hp : t.parts = s.parts) (hv : t.variant = s.variant) (ps : List Nat) (w p : Nat) :
    t.choose ps w p = s.choose ps w p := by
  unfold State.choose State.room State.t1Held State.poolUsed State.t2Held State.pagesWhere State.copiesIn State.part
  rw [ho, hp, hv]

theorem firstWrite_holds : firstWrite := by
  intro e h off host n layout uid p data r m x td s hs hm hx hv hpages hunbacked hchoose
  let b : Body := .copyIn h off host n layout data
  let run := s.running e b uid r
  have hrun := State.running_frame s e b uid r
  have hlen : data.length = n := by simpa [bodyFits] using hs.data
  have hobj := held_obj hs (List.mem_singleton_self h) hm hx
  have hxrun : run.obj? m.obj = some x := (run_obj s e b uid r m.obj).trans hx
  let g := PageSt.fresh td run.time.now
  let x1 : ObjectSt := { x with pageTab := tset x.pageTab p g }
  let run1 := run.setObj m.obj x1
  have hback : run.backAll m.obj (pagesOf off data.length) = some run1 := by
    have hpage : run.backPage m.obj p = some run1 := by
      unfold State.backPage
      rw [hxrun]
      dsimp only
      rw [hunbacked, run_homeParts, State.choose_of hrun.objs_eq hrun.parts_eq hrun.variant_eq, hchoose]
      exact congrArg some (State.modObj_eq hxrun _)
    rw [hlen, hpages]
    show (match run.backPage m.obj p with | none => none | some s' => s'.backAll m.obj []) = _
    rw [hpage]
    rfl
  have hx1 : run1.obj? m.obj = some x1 := State.obj_setObj _ _ _
  obtain ⟨u, hu, huobj, -, hframe⟩ := State.cmdWrite_objs hx1 off layout data
  have hbody : State.startBody (s.fetched e b uid r) (s.newCmd e b uid r) = copyEnd u uid := by
    show doCopyIn run uid e.ctx h off layout data = _
    unfold doCopyIn State.cmdWrite
    rw [hobj]
    dsimp only
    rw [hback]
    dsimp only
    rw [hu, huobj]
    dsimp only
    rw [show (x1.written run1.time.now off layout data).persistent = false from hv]
    rfl
  have hucmds : u.cmds = run.cmds := hframe.cmds_eq
  have hctx (k : Nat) : u.ctx k = run.ctx k := State.ctx_of_ctxs hframe.ctxs_eq k
  refine completes_of hs rfl (hbody.trans (copyEnd_volatile hs hucmds)) rfl (by decide) hucmds (hs.quietHeads (congrArg Context.queues (hctx e.ctx))) (fun k _ => hctx k)
    (fun t ht => ⟨x1.written run1.time.now off layout data, g.touch run1.time.now, ?_, ?_, rfl, rfl, rfl⟩)
  · unfold State.obj?
    rw [ht.objs (.inl rfl)]
    exact huobj
  · show tfind (touchPages run1.time.now (tset x.pageTab p g) (pagesOf off data.length)) p = _
    rw [hlen, hpages]
    show tfind (match tfind (tset x.pageTab p g) p with | some q => _ | none => _) p = _
    rw [tfind_tset_same]
    exact tfind_tset_same _ _ _

/-! ### COPY_OUT and COPY -/

theorem ObjectSt.read_length (x : ObjectSt) (off n : Nat) : (x.read off n).length = n := by
  unfold ObjectSt.read
  rw [List.length_map, List.length_range]

theorem ObjectSt.read_getD (x : ObjectSt) (off : Nat) {n i : Nat} (h : i < n) : (x.read off n).getD i 0 = x.byte (off + i) := by
  unfold ObjectSt.read
  simp [h]

theorem copyOut_holds : copyOut := by
  intro e h off host n layout uid r m x s hs hcanon hm hx
  let b : Body := .copyOut h off host n layout
  let run := s.running e b uid r
  have hobj := held_obj hs (List.mem_singleton_self h) hm hx
  have hxrun : run.obj? m.obj = some x := (run_obj s e b uid r m.obj).trans hx
  have hbody : State.startBody (s.fetched e b uid r) (s.newCmd e b uid r) =
      match x.readStatus off n with
      | some st => ends run st
      | none => ends ((run.useRange m.obj off n).hostWrite host (x.read off n)) stSuccess := by
    show doCopyOut run e.ctx h off host n = _
    unfold doCopyOut
    rw [hobj] <;> rfl
  unfold ObjectSt.readStatus at hbody
  refine ⟨fun hmark => ?_, fun hmark hlost => ?_, fun hmark hkept => ?_⟩
  · rw [hmark] at hbody
    exact hs.refused hbody rfl (by decide) (fun _ => rfl)
  · rw [hmark, hlost] at hbody
    exact hs.refused hbody rfl (by decide) (fun _ => rfl)
  · rw [hmark, hkept] at hbody
    let y : ObjectSt := { x with pageTab := usePages run.time.now x.pageTab (pagesOf off n) }
    have huse : run.useRange m.obj off n = run.setObj m.obj y := State.modObj_eq hxrun _
    rw [huse] at hbody
    refine completes_of hs rfl hbody rfl (by decide) rfl (hs.quietHeads rfl) (fun _ _ => rfl) (fun t ht => ⟨fun a => ?_, y, ?_, fun a => ObjectSt.byte_of rfl rfl a⟩)
    · have hhost : t.host = mwrite run.host host (x.read off n) := ht.frame.host_eq
      rw [hhost, run_host, mget_mwrite hcanon.1, ObjectSt.read_length]
      split
      · rename_i hin
        exact ObjectSt.read_getD _ _ (by omega)
      · rfl
    · refine oneObject_of ((ht.objs (.inl rfl)).trans ?_)
      show tset run.objs m.obj y = tset s.objs m.obj y
      rw [run_objs]

theorem copy_holds : copy := by
  intro e src dst soff doff n layout uid r ms md xs xd s hs hcanon hms hmd hxs hxd hmark hkept hback hv
  let b : Body := .copy src dst soff doff n layout
  let run := s.running e b uid r
  have hsrc : src ∈ bodyHandles b := by
    show src ∈ (if src = dst then [src] else [src, dst])
    split <;> exact List.mem_cons_self
  have hdst : dst ∈ bodyHandles b := by
    show dst ∈ (if src = dst then [src] else [src, dst])
    split
    · rename_i heq
      exact heq ▸ List.mem_cons_self
    · exact List.mem_cons_of_mem _ (List.mem_singleton_self _)
  have hxsrun : run.obj? ms.obj = some xs := (run_obj s e b uid r ms.obj).trans hxs
  have hxdrun : run.obj? md.obj = some xd := (run_obj s e b uid r md.obj).trans hxd
  let used (x : ObjectSt) : ObjectSt := { x with pageTab := usePages run.time.now x.pageTab (pagesOf soff n) }
  let v := run.useRange ms.obj soff n
  have huse : v = run.setObj ms.obj (used xs) := State.modObj_eq hxsrun _
  -- what the read leaves of an object: its bytes, and whether its pages are backed
  have hobj (o : Nat) (x : ObjectSt) (hx : run.obj? o = some x) : ∃ y : ObjectSt, v.obj? o = some y ∧ (y = x ∨ y = used x) := by
    by_cases ho : o = ms.obj
    · subst ho
      obtain rfl := Option.some.inj (hxsrun.symm.trans hx)
      exact ⟨used xs, by rw [huse]; exact State.obj_setObj _ _ _, .inr rfl⟩
    · exact ⟨x, by rw [huse, State.obj_setObj_other _ _ ho, hx], .inl rfl⟩
  obtain ⟨yd, hyd, hydeq⟩ := hobj md.obj xd hxdrun
  have hyback : ∀ p ∈ pagesOf doff (xs.read soff n).length, (tfind yd.pageTab p).isSome = true := by
    rw [ObjectSt.read_length]
    rcases hydeq with rfl | rfl
    · exact hback
    · intro p hp
      rw [usePages_isSome]
      exact hback p hp
  have hyv : yd.persistent = false := by rcases hydeq with rfl | rfl <;> exact hv
  have hydata : yd.data = xd.data := by rcases hydeq with rfl | rfl <;> rfl
  have hywf : Mem.wf yd.data = true := hydata ▸ hcanon.obj_wf hxd
  have hybyte (a : Nat) : yd.byte a = xd.byte a := by rcases hydeq with rfl | rfl <;> rfl
  obtain ⟨u, hwrite, hu, hother, hframe⟩ := State.cmdWrite_volatile hyd uid doff layout (xs.read soff n) hyback hyv
  have hbody : State.startBody (s.fetched e b uid r) (s.newCmd e b uid r) = copyEnd u uid := by
    show doCopy run uid e.ctx src dst soff doff n layout = _
    unfold doCopy ObjectSt.readStatus
    rw [held_obj hs hsrc hms hxs, held_obj hs hdst hmd hxd]
    dsimp only
    rw [hmark, hkept]
    show (match v.cmdWrite uid md.obj doff layout (xs.read soff n) with | none => ends run stTierFull | some s1 => copyEnd s1 uid) = _
    rw [hwrite]
  have hvframe : Frame [.objs] run v := State.useRange_frame run ms.obj soff n
  have hucmds : u.cmds = run.cmds := hframe.cmds_eq.trans hvframe.cmds_eq
  have hctx (k : Nat) : u.ctx k = run.ctx k := State.ctx_of_ctxs (hframe.ctxs_eq.trans hvframe.ctxs_eq) k
  refine completes_of hs rfl (hbody.trans (copyEnd_volatile hs hucmds)) rfl (by decide) hucmds (hs.quietHeads (congrArg Context.queues (hctx e.ctx)))
    (fun k _ => hctx k) (fun t ht => ?_)
  have hsame (o : Nat) : t.obj? o = u.obj? o := by
    unfold State.obj?
    rw [ht.objs (.inl rfl)]
  refine ⟨?_, ⟨_, (hsame _).trans hu, fun a => ?_⟩, fun o x ho hx => ?_⟩
  · exact (fr ht.frame .host).trans (hframe.host_eq.trans (hvframe.host_eq.trans (run_host s e b uid r)))
  · rw [ObjectSt.written_byte hywf, ObjectSt.read_length, hybyte]
    by_cases hin : doff ≤ a ∧ a < doff + n
    · rw [if_pos hin, if_pos hin, ObjectSt.read_getD _ _ (by omega)]
    · rw [if_neg hin, if_neg hin]
  · obtain ⟨y, hy, hyeq⟩ := hobj o x ((run_obj s e b uid r o).trans hx)
    refine ⟨y, (hsame o).trans ((hother o ho).trans hy), fun a => ?_⟩
    rcases hyeq with rfl | rfl <;> rfl

/-- Settles O24. -/
theorem copyCommands : Obligations.CopyCommands := ⟨copyIn_holds, firstWrite_holds, copyOut_holds, copy_holds⟩

end Sys2Proof.Proofs

namespace Sys2Proof.Machine
-- One thread elaborates these proofs: in parallel they ask for more stacks than the check allows.
set_option Elab.async false
open Sys2Proof.Claims

/-! ### INDEX_SEAL: the writes into the index (R209) -/

/-- A command whose writes into one persistent object have begun: `y` is the object, and `ids` the pages that it waits for. -/
structure Sealing (s run u : State) (c : Cmd) (o : Nat) (x y : ObjectSt) (ids : List Nat) : Prop where
  obj : u.obj? o = some y
  other : ∀ p : Nat, p ≠ o → u.obj? p = s.obj? p
  backed : ∀ p : Nat, (tfind y.pageTab p).isSome = (tfind x.pageTab p).isSome
  stays : y.persistent = true
  wf : Mem.wf y.data = true
  cmds : u.cmds = s.cmds ++ [{ c with waitItems := ids }]
  frame : Frame [.objs, .nand, .cmds, .nextId] run u

/-- A further write. -/
theorem Sealing.write {s u : State} {e : Entry} {b : Body} {uid : Nat} {q : QueueSt} {o : Nat} {x y : ObjectSt} {ids : List Nat} (h : Starts s e b uid q)
    (hu : Sealing s (s.running e b uid q) u (s.runningCmd e b uid q) o x y ids) (off : Nat) (bs : List Byte)
    (hback : ∀ p ∈ pagesOf off bs.length, (tfind x.pageTab p).isSome = true) :
    ∃ (v : State) (new : List Nat), u.cmdWrite uid o off 0 bs = some v ∧ new.length = (pagesOf off bs.length).length ∧
      Sealing s (s.running e b uid q) v (s.runningCmd e b uid q) o x (y.written u.time.now off 0 bs) (ids ++ new) := by
  obtain ⟨v, new, hwrite, hobj, hother, hnew, hcmds, hframe⟩ := State.cmdWrite_persistent hu.obj uid off 0 bs
    (fun p hp => (hu.backed p).trans (hback p hp)) hu.stays
  refine ⟨v, new, hwrite, hnew, hobj, fun p hp => (hother p hp).trans (hu.other p hp), fun p => ?_, hu.stays, mwrite_wf _ _ hu.wf, ?_, hu.frame.after hframe rfl⟩
  · exact (touchPages_isSome _ _ _ p).trans (hu.backed p)
  · rw [hcmds, hu.cmds]
    exact map_newest h rfl (fun c => { c with waitItems := c.waitItems ++ new })

theorem Sealing.writes {s : State} {e : Entry} {b : Body} {uid : Nat} {q : QueueSt} {o : Nat} {x : ObjectSt} (h : Starts s e b uid q)
    (ws : List (Nat × List Byte)) (hback : ∀ w ∈ ws, ∀ p ∈ pagesOf w.1 w.2.length, (tfind x.pageTab p).isSome = true)
    (off : Nat) (bs : List Byte) (hlast : ∀ p ∈ pagesOf off bs.length, (tfind x.pageTab p).isSome = true) {u : State} {y : ObjectSt} {ids : List Nat}
    (hu : Sealing s (s.running e b uid q) u (s.runningCmd e b uid q) o x y ids) :
    ∃ (v w : State) (z : ObjectSt) (ids' new : List Nat), tryAll (fun s w => s.cmdWrite uid o w.1 0 w.2) (ws ++ [(off, bs)]) u = some v ∧
      Mem.wf z.data = true ∧ new.length = (pagesOf off bs.length).length ∧
      Sealing s (s.running e b uid q) v (s.runningCmd e b uid q) o x (z.written w.time.now off 0 bs) (ids' ++ new) := by
  induction ws generalizing u y ids with
  | nil =>
    obtain ⟨v, new, hwrite, hnew, hv⟩ := hu.write h off bs hlast
    refine ⟨v, u, y, ids, new, ?_, hu.wf, hnew, hv⟩
    show (match u.cmdWrite uid o off 0 bs with | none => none | some s' => tryAll _ [] s') = _
    rw [hwrite]
    rfl
  | cons w ws ih =>
    obtain ⟨v, new, hwrite, -, hv⟩ := hu.write h w.1 w.2 (hback w List.mem_cons_self)
    obtain ⟨v', w', z, ids', new', htry, hrest⟩ := ih (fun w' hw' => hback w' (List.mem_cons_of_mem _ hw')) hv
    refine ⟨v', w', z, ids', new', ?_, hrest⟩
    show (match u.cmdWrite uid o w.1 0 w.2 with | none => none | some s' => tryAll _ (ws ++ [(off, bs)]) s') = _
    rw [hwrite]
    exact htry

theorem State.t1Held_of {s t : State} (ho : t.objs = s.objs) (ps : List Nat) : t.t1Held ps = s.t1Held ps := by
  unfold State.t1Held State.pagesWhere State.copiesIn
  rw [ho]

/-- The quota that the pages of an index need (R209). -/
theorem sealRoom_run (s : State) (e : Entry) (b : Body) (uid : Nat) (q : QueueSt) (x : ObjectSt) : sealRoom (s.running e b uid q) x = sealRoom s x := by
  unfold sealRoom
  simp only [run_homeParts, run_part, State.t1Held_of (run_objs s e b uid q)]

theorem digestBytes_length (a b : Nat) : (le 8 a ++ le 8 b).length = 16 := by
  rw [List.length_append, le_length, le_length]

end Sys2Proof.Machine

namespace Sys2Proof.Proofs
-- One thread elaborates these proofs: in parallel they ask for more stacks than the check allows.
set_option Elab.async false
open Sys2Proof.Machine Sys2Proof.Claims

theorem indexSeal_holds : indexSeal := by
  intro e h uid r m x s hs hcanon hm hx hmark hkept
  let b : Body := .indexSeal h
  let run := s.running e b uid r
  have hxrun : run.obj? m.obj = some x := (run_obj s e b uid r m.obj).trans hx
  have hbody : State.startBody (s.fetched e b uid r) (s.newCmd e b uid r) = doIndexSeal run uid e.ctx h := rfl
  have hroom := sealRoom_run s e b uid r x
  unfold doIndexSeal at hbody
  rw [held_obj hs (List.mem_singleton_self h) hm hx] at hbody
  dsimp only at hbody
  refine ⟨fun hkind => ?_, fun hkind hbad => ?_, fun hkind hok hfull => ?_, fun hkind hok hfits hstays hhead hdir => ?_⟩
  · rw [if_pos hkind] at hbody
    exact hs.refused hbody rfl (by decide) (fun _ => rfl)
  · rw [if_neg (not_not.mpr hkind), hmark, if_neg Bool.false_ne_true, hkept, if_neg Bool.false_ne_true, if_pos hbad] at hbody
    exact hs.refused hbody rfl (by decide) (fun _ => rfl)
  · rw [hfull] at hroom
    rw [if_neg (not_not.mpr hkind), hmark, if_neg Bool.false_ne_true, hkept, if_neg Bool.false_ne_true, if_neg (by simp [hok])] at hbody
    replace hbody := hbody.trans (if_pos (Nat.lt_of_not_le (of_decide_eq_false hroom)))
    exact hs.refused hbody rfl (by decide) (fun _ => rfl)
  · rw [hfits] at hroom
    rw [if_neg (not_not.mpr hkind), hmark, if_neg Bool.false_ne_true, hkept, if_neg Bool.false_ne_true, if_neg (by simp [hok])] at hbody
    replace hbody := hbody.trans (if_neg (Nat.not_lt_of_le (of_decide_eq_true hroom)))
    let bs := le 8 x.indexDigest ++ le 8 (x.head.gen + 1)
    have hbs : bs.length = 16 := digestBytes_length _ _
    let ws := (List.range x.head.nlist).map (fun l => (x.head.dirOff + 24 * l + 16, le 8 (x.listDigest l)))
    have hbegin : Sealing s run run (s.runningCmd e b uid r) m.obj x x [] :=
      ⟨hxrun, fun p _ => run_obj s e b uid r p, fun _ => rfl, hstays, hcanon.obj_wf hx, State.running_cmds hs.unused, Frame.refl _ _⟩
    have hws : ∀ w ∈ ws, ∀ p ∈ pagesOf w.1 w.2.length, (tfind x.pageTab p).isSome = true := by
      intro w hw
      obtain ⟨l, hl, rfl⟩ := List.mem_map.mp hw
      dsimp only
      rw [le_length]
      exact hdir l (List.mem_range.mp hl)
    obtain ⟨v, w, z, ids, new, htry, hwf, hnew, hv⟩ := Sealing.writes hs ws hws 0x40 bs (by rw [hbs]; exact hhead) hbegin
    rw [htry] at hbody
    let f (x1 : ObjectSt) : ObjectSt := { x1 with isSealed := true, pageTab := tmap x1.pageTab (fun p q =>
      if ((x.head.fixed.flatMap (fun q => pagesOf q.1 q.2)).eraseDups).contains p then { q with copies := [{ tier := 1, die := p % 2, gen := q.gen, spec := false }] } else q) }
    let g (c : Cmd) : Cmd := { c with st := .draining, ending := some stSuccess, dw0 := (x.head.gen + 1) % 2 ^ 32, dw1 := 0 }
    let t := (v.modObj m.obj f).modCmd uid g
    replace hbody : State.startBody (s.fetched e b uid r) (s.newCmd e b uid r) = (t, none) := hbody
    have hmod : Frame [.objs] v (v.modObj m.obj f) := State.modObj_frame _ _ _
    have htcmds : t.cmds = s.cmds ++ [g { s.runningCmd e b uid r with waitItems := ids ++ new }] := by
      show (v.modObj m.obj f).cmds.map _ = _
      rw [hmod.cmds_eq, hv.cmds]
      exact map_newest hs rfl g
    have hctx : t.ctx e.ctx = run.ctx e.ctx := State.ctx_of_ctxs (hmod.ctxs_eq.trans hv.frame.ctxs_eq) e.ctx
    have hfetch := goes_on_newest hs hbody htcmds (fun _ => ⟨nofun, nofun⟩) hctx
    refine ⟨t, _, congrArg Host.Outcome.next hfetch, htcmds, rfl, rfl, rfl, rfl, rfl, ?_, ?_, f (z.written w.time.now 0x40 0 bs), ⟨?_, fun p hp => ?_⟩, rfl, fun i hi => ?_⟩
    · have hpos : 0 < new.length := by
        rw [hnew, hbs]
        decide
      exact List.append_ne_nil_of_right_ne_nil _ (List.ne_nil_of_length_pos hpos)
    · exact hmod.host_eq.trans (hv.frame.host_eq.trans (run_host s e b uid r))
    · exact State.obj_modObj v f hv.obj
    · exact (State.obj_modObj_other v f hp).trans (hv.other p hp)
    · have hbyte (y : ObjectSt) (a : Nat) : (f y).byte a = y.byte a := ObjectSt.byte_of rfl rfl a
      rw [hbyte, ObjectSt.written_byte hwf, if_pos (by omega), Nat.add_sub_cancel_left]

/-! ### The start of RUN and SEARCH -/

theorem computeStarts_holds : computeStarts := by
  intro e uid r s
  refine ⟨fun p n q b args plan hs hqueue hcls => ?_, fun i q o n k np f rr nt qo oo fi ts mi mq mo xi xq xo hs hmi hmq hmo hxi hxq hxo hsealed => ?_⟩
  · let body : Body := .run p n 0 q b args plan
    let run := s.running e body uid r
    have hframe := State.running_frame s e body uid r
    let c := s.newCmd e body uid r
    have hc0 : c.cls ≠ 0 := by
      show (if e.queue = 0 then 1 else r.cls) ≠ 0
      rw [if_neg hqueue]
      exact hcls
    have hgone (a : Nat) : run.arrayGone a = s.arrayGone a := by
      unfold State.arrayGone State.arr
      rw [hframe.arrays_eq, hframe.power_eq]
    have hwhere (ps : List Nat) (a : Nat) : run.arrayFor ps a = s.arrayFor ps a := by
      unfold State.arrayFor
      simp only [hgone]
    let tiles := plan.map (fun y => TileSt.fresh y (s.arrayFor (s.homeParts (s.ctx e.ctx).partition) y.arr))
    let c1 : Cmd := { s.runningCmd e body uid r with tiles := tiles, st := .queued, queuedAt := run.time.now }
    let s1 := run.modCmd uid (fun c => { c with tiles := tiles, st := .queued, queuedAt := run.time.now })
    have hs1 : s1.cmds = s.cmds ++ [c1] := by
      show run.cmds.map _ = _
      rw [State.running_cmds hs.unused]
      exact map_newest hs rfl (fun c => { c with tiles := tiles, st := .queued, queuedAt := run.time.now })
    let s2 := s1.modCmd uid (fun c => { c with resident := s1.isResident c1 })
    have hs2 : s2.cmds = s.cmds ++ [{ c1 with resident := s1.isResident c1 }] := by
      show s1.cmds.map _ = _
      rw [hs1]
      exact map_newest hs rfl (fun c => { c with resident := s1.isResident c1 })
    have hbody : State.startBody (s.fetched e body uid r) c = (s2, none) := by
      show State.startRun run c 0 q plan = _
      unfold State.startRun
      dsimp only
      have htiles : plan.map (fun t => TileSt.fresh t (if c.cls = 0 ∧ ((run.part (run.ctx c.e.ctx).partition).state == 2) = false then
          run.class0Array (run.ctx c.e.ctx).partition else run.arrayFor (run.homeParts (run.ctx c.e.ctx).partition) t.arr)) = tiles := by
        refine List.map_congr_left (fun y _ => congrArg (TileSt.fresh y) ?_)
        rw [if_neg (fun h => hc0 h.1), hwhere, run_homeParts, run_partition]
        rfl
      rw [if_neg hc0, htiles]
      have hfind : (run.modCmd c.uid (fun c => { c with tiles := tiles, st := .queued, queuedAt := run.time.now })).cmd? c.uid = some c1 :=
        find_newest hs hs1 rfl
      rw [hfind]
      rfl
    have hfetch := goes_on_newest hs hbody hs2 (fun _ => ⟨nofun, nofun⟩) rfl
    exact ⟨s2, _, congrArg Host.Outcome.next hfetch, hs2, rfl, rfl, rfl, congrArg TimeSt.now hframe.time_eq, run_objs s e body uid r, rfl⟩
  · let body : Body := .search i q o n k np f rr nt qo oo fi ts
    let run := s.running e body uid r
    let c := s.newCmd e body uid r
    let x : SearchSt := { sealGen := xi.head.gen, queries := List.replicate n QuerySt.fresh }
    have hof {h : Nat} (hh : h = i ∨ h = q ∨ h = o) : h ∈ bodyHandles body :=
      List.mem_eraseDups.mpr (by simpa using hh)
    have hargs : run.searchArgs c = some ⟨n, k, np, f, bit rr 0, qo, oo, ts, mi.obj, xi, xq, mo.obj⟩ := by
      show (match run.handleObj e.ctx i, run.handleObj e.ctx q, run.handleObj e.ctx o with
        | some (hi, x), some (_, y), some (ho, _) => some (SearchArgs.mk n k np f (bit rr 0) qo oo ts hi.obj x y ho.obj)
        | _, _, _ => none) = _
      rw [held_obj hs (hof (.inl rfl)) hmi hxi, held_obj hs (hof (.inr (.inl rfl))) hmq hxq, held_obj hs (hof (.inr (.inr rfl))) hmo hxo]
    let g (c : Cmd) : Cmd := { c with st := .queued, queuedAt := run.time.now, search := some x }
    have hbody : State.startBody (s.fetched e body uid r) c = (run.modCmd uid g, none) := by
      show State.startSearch run c = _
      unfold State.startSearch
      rw [hargs]
      exact if_neg (by simp [hsealed])
    have hcmds : (run.modCmd uid g).cmds = s.cmds ++ [g (s.runningCmd e body uid r)] := by
      show run.cmds.map _ = _
      rw [State.running_cmds hs.unused]
      exact map_newest hs rfl g
    have hfetch := goes_on_newest hs hbody hcmds (fun _ => ⟨nofun, nofun⟩) rfl
    exact ⟨_, _, congrArg Host.Outcome.next hfetch, hcmds, rfl, rfl, rfl, congrArg TimeSt.now (State.running_frame s e body uid r).time_eq,
      run_objs s e body uid r, x, rfl, rfl, rfl⟩

/-- Settles O25. -/
theorem computeStarts : Obligations.ComputeStarts := ⟨indexSeal_holds, computeStarts_holds⟩

end Sys2Proof.Proofs

/-! The checks at the fetch, fences, events and completions: O26, O28 and O29. -/

namespace Sys2Proof.Machine
-- One thread elaborates these proofs: in parallel they ask for more stacks than the check allows.
set_option Elab.async false
open Sys2Proof.Claims

/-! ### The statuses of the checks -/

theorem State.entryCheck_kept {s : State} {c : Cmd} {st : Nat} (h : s.entryCheck c = some st) : st ≠ stLinkLost := by
  unfold State.entryCheck at h
  dsimp only at h
  split_ifs at h <;> (obtain rfl := Option.some.inj h; decide)

theorem State.accessCheck_kept {s : State} {c : Cmd} {st a : Nat} (h : s.accessCheck c = some (st, a)) : st ≠ stLinkLost := by
  unfold State.accessCheck at h
  extract_lets ctx acc addr bad prog at h
  clear_value prog
  split at h
  · cases h
    decide
  · split at h
    · cases h
      decide
    · split at h
      · cases h
        decide
      · split at h
        · obtain ⟨rfl, -⟩ := Prod.mk.inj (Option.some.inj h)
          decide
        · obtain ⟨x, -, hx⟩ := Option.map_eq_some_iff.mp h
          cases hx
          decide

theorem State.fieldCheck_kept {s : State} {c : Cmd} {st : Nat} (h : s.fieldCheck c = some st) : st ≠ stLinkLost := by
  unfold State.fieldCheck at h
  extract_lets ctx at h
  split at h
  case h_5 =>
    split at h
    · cases h
      decide
    · split_ifs at h <;> (obtain rfl := Option.some.inj h; decide)
  case h_6 => cases h
  all_goals split_ifs at h <;> (obtain rfl := Option.some.inj h; decide)

/-- No check at the fetch answers that the link was lost: every command that fails one completes (R402). -/
theorem State.kciCheck_kept {s : State} {c : Cmd} {st a : Nat} (h : s.kciCheck c = some (st, a)) : st ≠ stLinkLost := by
  unfold State.kciCheck at h
  split at h
  · next st' he =>
    cases h
    exact State.entryCheck_kept he
  · split at h
    · cases h
      decide
    · split at h
      · next r ha =>
        cases h
        exact State.accessCheck_kept ha
      · obtain ⟨st', hf, hx⟩ := Option.map_eq_some_iff.mp h
        cases hx
        exact State.fieldCheck_kept hf

/-! ### A fetch whose command does not start -/

/-- A drive in which no pending command can move is settled. -/
theorem State.settle_of {s : State} (h : ∀ c ∈ s.cmds, s.unblocked c = false ∧ s.waitOver c = false) : s.settle = s := by
  have hone : s.settleOne = none := by
    unfold State.settleOne
    rw [List.find?_eq_none.mpr (fun c hc => by simp [(h c hc).1]), List.find?_eq_none.mpr (fun c hc => by simp [(h c hc).2])]
  unfold State.settle
  generalize 2 * s.cmds.length + 2 = n
  cases n with
  | zero => rfl
  | succ n => simp [State.settleN, hone]

end Sys2Proof.Machine

namespace Sys2Proof.Claims
-- One thread elaborates these proofs: in parallel they ask for more stacks than the check allows.
set_option Elab.async false
open Sys2Proof.Machine

section
variable {s : State} {e : Entry} {b : Body} {uid : Nat} {q : QueueSt} (h : Due s e b uid q)
include h

/-- The queues' heads after the entry was taken. -/
theorem Due.heads_fetched (k : Nat) (x : QueueSt) (hk : k < 9) (hx : tfind ((s.fetched e b uid q).ctx e.ctx).queues k = some x) (raw : List Byte)
    (hr : x.avail.head? = some raw) : malformed raw = false := by
  rw [s.fetched_ctx, s.takeEntry_ctx] at hx
  by_cases hq : e.queue = 9
  · rw [if_pos hq] at hx
    exact h.heads k x hx raw (by rw [if_neg (by omega)]; exact hr)
  · rw [if_neg hq, h.ring] at hx
    by_cases hk' : k = e.queue
    · subst hk'
      rw [tfind_tset_same] at hx
      cases hx
      exact h.heads e.queue q h.ring raw (by simpa using hr)
    · rw [tfind_tset_other _ _ hk'] at hx
      exact h.heads k x hx raw (by simpa [hk'] using hr)

/-- What the fetch makes of the entry before the drive settles (R402). -/
theorem Due.kciFetch_eq : s.kciFetch e b = (match e.dmaFault with
    | some a => (s.fetched e b uid q).faultCtx e.ctx clsHostDma a 0 e.queue e.cid
    | none => if s.over0 (s.newCmd e b uid q) = true then (s.fetched e b uid q).conclude uid stReservation 0 (s.newCmd e b uid q).dw1
      else match s.kciCheck (s.newCmd e b uid q) with
      | some (st, a) => if isViolation st = true then ((s.fetched e b uid q).conclude uid st 0 (s.newCmd e b uid q).dw1).faultCtx e.ctx clsMemory a st e.queue e.cid
        else (s.fetched e b uid q).conclude uid st 0 (s.newCmd e b uid q).dw1
      | none => s.fetched e b uid q).settle.checkHeads e.ctx := by
  have hu : (s.cmds.any (fun c => c.uid == uid)) = false :=
    List.any_eq_false.mpr (fun c hc => by simpa using h.unused c hc)
  unfold State.kciFetch
  rw [h.due, h.ring]
  simp only [h.fetchable, h.spells, h.data, hu, ne_eq, not_true_eq_false, Bool.true_eq_false, Bool.false_eq_true, or_self, if_false]
  rfl

/-- Nothing moves by itself once the fetched command has ended. -/
theorem Due.concluded_still {st : Nat} (d0 d1 : Nat) (hl : st ≠ stLinkLost) : ((s.fetched e b uid q).conclude uid st d0 d1).still := by
  intro c hc
  rw [h.concluded_cmds d0 d1 hl, List.mem_append, List.mem_singleton] at hc
  rcases hc with hc | rfl
  · exact h.still c hc
  · exact nofun

/-- A command that ends at its fetch without a violation: the whole fetch is that end. -/
theorem Due.completes_refused {st : Nat} (hl : st ≠ stLinkLost)
    (hf : s.kciFetch e b = ((s.fetched e b uid q).conclude uid st 0 (s.newCmd e b uid q).dw1).settle.checkHeads e.ctx) :
    completes (fetchOf e b) s e uid st 0 (fun t => t.host = s.host) := by
  let u := (s.fetched e b uid q).conclude uid st 0 (s.newCmd e b uid q).dw1
  have hcmds : u.cmds = _ := h.concluded_cmds 0 (s.newCmd e b uid q).dw1 hl
  have hctx := State.conclude_ctx 0 (s.newCmd e b uid q).dw1 h.cmd_fetched rfl hl
  rw [State.settle_still (h.concluded_still _ _ hl), State.checkHeads_fine (fun k x hk hx => ?heads)] at hf
  case heads =>
    obtain ⟨v, hv, -⟩ := hctx e.ctx
    rw [hv] at hx
    exact h.heads_fetched k x hk hx
  refine ⟨u, _, (exec_fetchOf e b s).trans (congrArg Host.Outcome.next hf), hcmds, rfl, rfl, rfl, rfl, rfl, fun m hm => ?_, ?_⟩
  · obtain ⟨v, hv, hv'⟩ := hctx m
    rw [hv, hv' hm]
    exact State.fetched_ctx_other _ _ _ _ _ hm
  · exact (State.conclude_frame _ _ _ _ _).host_eq.trans (State.fetched_frame s e b uid q).host_eq

/-- A command that may not leave BLOCKED stays there, and nothing else changes (R376, R377). -/
theorem Due.stays_blocked (hd : e.dmaFault = none) (ho : s.over0 (s.newCmd e b uid q) = false) (hk : s.kciCheck (s.newCmd e b uid q) = none)
    (hblocked : (s.fetched e b uid q).unblocked (s.newCmd e b uid q) = false) :
    continues (fetchOf e b) s uid (fun t x => x.st = .blocked ∧ t.objs = s.objs ∧ t.host = s.host) := by
  have hf := h.kciFetch_eq
  rw [hd, ho, hk] at hf
  replace hf : s.kciFetch e b = (s.fetched e b uid q).settle.checkHeads e.ctx := hf
  have hsettle : (s.fetched e b uid q).settle = s.fetched e b uid q := by
    refine State.settle_of (fun c hc => ?_)
    rw [s.fetched_cmds, List.mem_append, List.mem_singleton] at hc
    rcases hc with hc | rfl
    · exact ⟨State.unblocked_false (h.still c hc), State.waitOver_false (h.still c hc)⟩
    · exact ⟨hblocked, rfl⟩
  rw [hsettle, State.checkHeads_fine h.heads_fetched] at hf
  have hframe := State.fetched_frame s e b uid q
  exact ⟨_, _, (exec_fetchOf e b s).trans (congrArg Host.Outcome.next hf), s.fetched_cmds e b uid q, rfl, rfl, rfl, hframe.objs_eq, hframe.host_eq⟩

end

end Sys2Proof.Claims

namespace Sys2Proof.Proofs
-- One thread elaborates these proofs: in parallel they ask for more stacks than the check allows.
set_option Elab.async false
open Sys2Proof.Machine Sys2Proof.Claims

theorem fetchChecks_holds : fetchChecks := by
  intro e b uid q s h
  have hf := h.kciFetch_eq
  refine ⟨fun hd ho => ?_, fun st a hd ho hk => ⟨fun hv => ?_, fun hv => h.fetchFaults_violation hd ho hk hv⟩⟩
  · rw [hd, ho] at hf
    exact h.completes_refused (by decide) hf
  · rw [hd, ho, hk] at hf
    dsimp only at hf
    rw [hv] at hf
    exact h.completes_refused (State.kciCheck_kept hk) hf

theorem fetchDmaFault_holds : fetchDmaFault := by
  intro e b uid a q s h hd
  let u := s.fetched e b uid q
  have hf := h.kciFetch_eq
  rw [hd] at hf
  replace hf : s.kciFetch e b = (u.faultCtx e.ctx clsHostDma a 0 e.queue e.cid).settle.checkHeads e.ctx := hf
  have hcmds : u.cmds = s.cmds ++ [s.newCmd e b uid q] := s.fetched_cmds e b uid q
  have hopen : (u.ctx e.ctx).state = 1 :=
    (ctx_lift s e b uid q (·.state) (fun _ _ => rfl) (fun _ _ => rfl) e.ctx).trans (State.fetchable_open h.fetchable)
  have hdistinct : distinct u := by
    unfold distinct
    rw [hcmds, List.map_append, List.nodup_append]
    refine ⟨h.numbers, List.nodup_singleton _, fun n hn m hm => ?_⟩
    obtain ⟨c, hc, rfl⟩ := List.mem_map.mp hn
    obtain rfl : m = uid := List.mem_singleton.mp hm
    exact h.unused c hc
  obtain ⟨v, hs, g, hctx, -, hg, hend⟩ := State.faultCtx_open clsHostDma a 0 e.queue e.cid hopen hdistinct
  have hstill : (u.faultCtx e.ctx clsHostDma a 0 e.queue e.cid).still := by
    intro c hc
    rw [hg] at hc
    obtain ⟨c', hc', rfl⟩ := List.mem_map.mp hc
    obtain ⟨hmay, hkeep, hstatus⟩ := hend c' hc'
    rw [hcmds, List.mem_append, List.mem_singleton] at hc'
    rcases hc' with hc' | rfl
    · exact Cmd.mayEnd_still hmay (h.still c' hc')
    · exact fun hn => absurd ((hstatus rfl).symm.trans hn) nofun
  rw [State.settle_still hstill, State.checkHeads_not_open (by simp [hctx])] at hf
  have hnew : s.newCmd e b uid q ∈ u.cmds := hcmds ▸ List.mem_append_right _ (List.mem_singleton_self _)
  have hold {c : Cmd} (hc : c ∈ s.cmds) : c ∈ u.cmds := hcmds ▸ List.mem_append_left _ hc
  have hin {c : Cmd} (hc : c ∈ u.cmds) : g c ∈ (u.faultCtx e.ctx clsHostDma a 0 e.queue e.cid).cmds := hg ▸ List.mem_map_of_mem hc
  refine ⟨_, g (s.newCmd e b uid q), (exec_fetchOf e b s).trans (congrArg Host.Outcome.next hf), ?_⟩
  rw [hctx]
  refine ⟨rfl, rfl, ?_, hin hnew, (Cmd.mayEnd_uid (hend _ hnew).1).trans rfl, (hend _ hnew).2.2 rfl, fun x hx hctx' hnone => ?_, fun x hx hother => ?_⟩
  · exact congrArg (satAdd 32 · 1) (ctx_lift s e b uid q (·.viol) (fun _ _ => rfl) (fun _ _ => rfl) e.ctx)
  · obtain ⟨hmay, -, hstatus⟩ := hend x (hold hx)
    exact ⟨g x, hin (hold hx), Cmd.mayEnd_uid hmay, by rw [hstatus hctx', hnone]⟩
  · obtain ⟨-, hkeep, -⟩ := hend x (hold hx)
    exact hkeep hother ▸ hin (hold hx)

/-- Settles O26. -/
theorem fetchChecks : Obligations.FetchChecks := ⟨fetchChecks_holds, fetchDmaFault_holds⟩

/-! ### Fences and events -/

theorem fenceAndWait_holds : fenceAndWait := by
  intro e b uid q s h hd ho hk
  let u := s.fetched e b uid q
  let c := s.newCmd e b uid q
  have hcmds : u.cmds = s.cmds ++ [c] := s.fetched_cmds e b uid q
  refine ⟨fun ⟨d, hd', hctx, hqueue⟩ hfence => h.stays_blocked hd ho hk ?_, fun v hw hv hlow => ⟨fun herr => h.stays_blocked hd ho hk ?_,
    fun herr hfence hgroup hrec => ?_⟩⟩
  · have hmem : d ∈ Machine.earlier c u.cmds := by
      have hne : ∀ x ∈ s.cmds, (x.uid != c.uid) = true := fun x hx => bne_iff_ne.mpr (h.unused x hx)
      unfold Machine.earlier
      rw [hcmds, List.takeWhile_append_of_pos hne, List.mem_filter, List.mem_append]
      exact ⟨.inl hd', by simp [hctx, hqueue, c, State.newCmd, Cmd.fresh]⟩
    have hclear : u.fenceClear c = false := by
      unfold State.fenceClear
      simp [show c.e.fence = true from hfence, List.ne_nil_of_mem hmem]
    simp [State.unblocked, u, c, hclear]
  all_goals
    have hwait : u.waitState c = (false, v.err) := by
      unfold State.waitState
      rw [if_pos (show c.e.wait = true from hw), show tfind (u.ctx c.e.ctx).events c.e.waitEvent = some v from
        (congrArg (tfind · e.waitEvent) (s.fetched_events e b uid q)).trans hv]
      exact congrArg (·, v.err) (decide_eq_false (Nat.not_le.mpr hlow))
  · simp [State.unblocked, hwait, u, c, herr]
  · have hf := h.kciFetch_eq
    rw [hd, ho, hk] at hf
    let v' := u.conclude uid stEventErrored 0 c.dw1
    have hpower : u.power = s.power := (State.fetched_frame s e b uid q).power_eq
    have hblocked : u.unblocked c = true := by
      unfold State.unblocked State.fenceClear State.diesUp
      rw [hwait, hpower, hrec, show u.groupReady c = true from ?group]
      · simp [c, State.newCmd, Cmd.fresh, herr, hfence]
      · unfold State.groupReady
        rw [(State.fetched_frame s e b uid q).peer_eq]
        exact hgroup
    have hfind : u.cmds.find? (fun d => u.unblocked d) = some c := by
      rw [hcmds, List.find?_append, List.find?_eq_none.mpr (fun d hd => by simp [State.unblocked_false (s := u) (h.still d hd)])]
      simp [hblocked]
    have hone : u.settleOne = some v' := by
      unfold State.settleOne
      rw [hfind]
      dsimp only
      rw [hwait]
      rfl
    have hsettle : u.settle = v'.settle := by
      have hlen : u.cmds.length = s.cmds.length + 1 := by simp [hcmds]
      rw [State.settle_still (h.concluded_still _ _ (by decide))]
      unfold State.settle
      rw [hlen]
      show State.settleN (2 * s.cmds.length + 3 + 1) u = v'
      unfold State.settleN
      rw [hone]
      exact State.settleN_still (h.concluded_still _ _ (by decide)) _
    exact h.completes_refused (by decide) (hf.trans (congrArg (State.checkHeads · e.ctx) hsettle))

/-- Settles O28. -/
theorem fencesAndEvents : Obligations.FencesAndEvents := fenceAndWait_holds

end Sys2Proof.Proofs

/-! ### The posting of a completion -/

namespace Sys2Proof.Machine
-- One thread elaborates these proofs: in parallel they ask for more stacks than the check allows.
set_option Elab.async false
open Sys2Proof.Claims

theorem nextPost_of_foldl {l : List Cmd} {a : Option Cmd} {c : Cmd}
    (h : l.foldl (fun a c => match a with | none => some c | some b => if c.doneSeq < b.doneSeq then some c else some b) a = some c) :
    a = some c ∨ c ∈ l := by
  induction l generalizing a with
  | nil => exact .inl h
  | cons d l ih =>
    rcases ih h with hd | hc
    · cases a with
      | none => exact .inr (Option.some.inj hd ▸ List.mem_cons_self)
      | some b =>
        dsimp only at hd
        split at hd
        · exact .inr (Option.some.inj hd ▸ List.mem_cons_self)
        · exact .inl hd
    · exact .inr (List.mem_cons_of_mem _ hc)

/-- The command whose completion is posted next has ended, and came from the queue (R373). -/
theorem State.nextPost_mem {s : State} {n k : Nat} {c : Cmd} (h : s.nextPost n k = some c) : c ∈ s.cmds ∧ c.e.ctx = n ∧ c.e.queue = k := by
  rcases nextPost_of_foldl h with h | h
  · cases h
  · obtain ⟨hmem, hc⟩ := List.mem_filter.mp h
    simp only [Bool.and_eq_true, beq_iff_eq] at hc
    exact ⟨hmem, hc.1.1, hc.1.2⟩

theorem zeros_length (n : Nat) : (zeros n).length = n := List.length_replicate

theorem satLe_length (k n : Nat) : (satLe k n).length = k := le_length _ _

theorem completionBytes_length (c : Cmd) (draw head : Nat) (phase colo : Bool) (now : Nat) : (completionBytes c draw head phase colo now).length = 32 := by
  simp only [completionBytes, List.length_append, le_length, zeros_length]

theorem State.colophonBody_length (s : State) (c : Cmd) (part : Nat) : (s.colophonBody c part).length = 120 := by
  have h16 (l : List Byte) : ((l ++ zeros 16).take 16).length = 16 := by
    rw [List.length_take, List.length_append, zeros_length]
    omega
  unfold State.colophonBody
  extract_lets ctx m prog inp out t
  repeat rw [List.length_append]
  simp only [le_length, satLe_length, zeros_length]
  rw [h16]

theorem State.colophon_length (s : State) (c : Cmd) (part : Nat) : (s.colophon c part).length = 128 := by
  simp only [State.colophon, List.length_append, le_length, State.colophonBody_length]

/-- The ring of a queue after a completion (R353, R373). -/
def QueueSt.posted (q : QueueSt) : QueueSt :=
  { q with cqTail := (q.cqTail + 1) % q.entries, phase := (if (q.cqTail + 1) % q.entries = 0 then !q.phase else q.phase), irq := true }

/-- R353: a vector is signalled unless an interrupt is pending. -/
theorem State.signal_unless (s : State) (b : Bool) (fn vec : Nat) : (if b = true then s else s.signal fn vec).ctxs = s.ctxs ∧
    (if b = true then s else s.signal fn vec).cmds = s.cmds ∧ (if b = true then s else s.signal fn vec).host = s.host ∧
    (if b = true then s else s.signal fn vec).mgmt.msix = s.mgmt.msix ++ (if b = true then [] else [(fn, vec)]) := by
  cases b with
  | false => exact ⟨rfl, rfl, rfl, rfl⟩
  | true => exact ⟨rfl, rfl, rfl, (List.append_nil _).symm⟩

section
variable (s : State) (c : Cmd) (q : QueueSt)

/-- What a posting does before the command's slot and its references go. -/
theorem State.post_parts : ∃ u : State, s.post c q = (u.freeSlot c).dropRefs c ∧
    u.cmds = s.cmds.filter (fun d => d.uid != c.uid) ∧
    u.ctx c.e.ctx = { s.ctx c.e.ctx with queues := tset (s.ctx c.e.ctx).queues c.e.queue q.posted } ∧
    (∀ m : Nat, m ≠ c.e.ctx → u.ctx m = s.ctx m) ∧
    u.mgmt.msix = s.mgmt.msix ++ (if q.irq then [] else [(c.e.ctx, q.vector)]) ∧
    u.host = mwrite (if isCompute c.body = true then mwrite s.host (q.colo + 128 * q.cqTail) (s.colophon c (s.colophonPart c)) else s.host)
      (q.cq + 32 * q.cqTail) (completionBytes c s.freeCtr q.head q.phase (isCompute c.body) s.time.now) := by
  unfold State.post
  extract_lets colo s1 s2 tail' q' s3 s4 s5
  have h1 : s1.ctxs = s.ctxs ∧ s1.cmds = s.cmds ∧ s1.mgmt = s.mgmt ∧
      s1.host = if isCompute c.body = true then mwrite s.host (q.colo + 128 * q.cqTail) (s.colophon c (s.colophonPart c)) else s.host := by
    unfold s1 colo
    by_cases hc : isCompute c.body = true
    · rw [if_pos hc, if_pos hc]
      have hframe := State.addStats_frame (s.hostWrite (q.colo + 128 * q.cqTail) (s.colophon c (s.colophonPart c))) c
      exact ⟨hframe.ctxs_eq.trans (s.hostWrite_ctxs _ _), hframe.cmds_eq.trans (s.hostWrite_cmds _ _), hframe.mgmt_eq.trans (s.hostWrite_mgmt _ _),
        hframe.host_eq.trans (s.hostWrite_host _ _)⟩
    · rw [if_neg hc, if_neg hc]
      exact ⟨rfl, rfl, rfl, rfl⟩
  obtain ⟨hctxs1, hcmds1, hmgmt1, hhost1⟩ := h1
  have hctxs : s2.ctxs = s.ctxs := (s1.hostWrite_ctxs _ _).trans hctxs1
  have hcmds : s2.cmds = s.cmds := (s1.hostWrite_cmds _ _).trans hcmds1
  have hmgmt : s2.mgmt = s.mgmt := (s1.hostWrite_mgmt _ _).trans hmgmt1
  have hhost : s2.host = mwrite s1.host _ _ := s1.hostWrite_host _ _
  rw [hhost1] at hhost
  clear_value s1 s2
  have h4 : s4.ctxs = s3.ctxs ∧ s4.cmds = s3.cmds ∧ s4.host = s3.host ∧ s4.mgmt.msix = s3.mgmt.msix ++ (if q.irq then [] else [(c.e.ctx, q.vector)]) :=
    s3.signal_unless q.irq c.e.ctx q.vector
  obtain ⟨hctxs4, hcmds4, hhost4, hmsix4⟩ := h4
  have hctx (m : Nat) : s2.ctx m = s.ctx m := State.ctx_of_ctxs hctxs m
  refine ⟨s5, rfl, ?_, ?_, fun m hm => ?_, ?_, ?_⟩
  · show s4.cmds.filter _ = _
    rw [hcmds4]
    show s2.cmds.filter _ = _
    rw [hcmds]
  · refine (State.ctx_of_ctxs (t := s5) hctxs4 _).trans ((s2.ctx_modCtx _ _).trans ?_)
    rw [hctx]
    rfl
  · exact (State.ctx_of_ctxs (t := s5) hctxs4 _).trans ((s2.ctx_modCtx_other _ hm).trans (hctx m))
  · show s4.mgmt.msix = _
    rw [hmsix4]
    show s2.mgmt.msix ++ _ = _
    rw [hmgmt]
  · show s4.host = _
    rw [hhost4]
    exact hhost

/-- The slot and the references of a command that leaves: nothing of its context goes but its class-0 slot and what its handles held. -/
theorem State.freed_ctx (u : State) (m : Nat) : ∃ (x : Table SlotSt) (h : Table HandleSt),
    ((u.freeSlot c).dropRefs c).ctx m = { u.ctx m with slots := x, handles := h } := by
  have hfree : ∃ x : Table SlotSt, (u.freeSlot c).ctx m = { u.ctx m with slots := x } := by
    unfold State.freeSlot
    split
    · by_cases hm : m = c.e.ctx
      · subst hm
        exact ⟨_, u.ctx_modCtx _ _⟩
      · exact ⟨_, u.ctx_modCtx_other _ hm⟩
    · exact ⟨_, rfl⟩
  obtain ⟨x, hx⟩ := hfree
  unfold State.dropRefs
  rw [State.reap_ctx]
  split
  · next hm =>
    subst hm
    rw [State.ctx_modCtx, hx]
    exact ⟨_, _, rfl⟩
  · next hm =>
    rw [State.ctx_modCtx_other _ _ hm, hx]
    exact ⟨_, _, rfl⟩

theorem State.freed_frame (u : State) : Frame [.ctxs, .objs, .store] u ((u.freeSlot c).dropRefs c) :=
  ((u.freeSlot_frame c).mono (by decide)).after (State.dropRefs_frame _ _) (by decide)

end

/-! ### A conclusion that is no lost link leaves NVMe -/

theorem State.conclude_nvme (s : State) {st : Nat} (uid d0 d1 : Nat) (hl : st ≠ stLinkLost) : (s.conclude uid st d0 d1).nvme = s.nvme := by
  cases hc : s.cmd? uid with
  | none => rw [State.conclude_ended _ _ _ (by rw [hc]; rintro _ ⟨⟩)]
  | some c =>
    cases hs : c.status with
    | some z => rw [State.conclude_ended _ _ _ (by rw [hc]; rintro _ ⟨⟩; rw [hs]; rfl)]
    | none =>
      rw [State.conclude_eq d0 d1 hc hs hl]
      extract_lets st' s0 s1 s2
      have h0 : s0.nvme = s.nvme := by
        unfold s0
        split
        · exact (State.endOps_frame _ _ _).nvme_eq
        · rfl
      have h1 : s1.nvme = s0.nvme := by
        unfold s1
        split
        · exact (State.markAll_frame _ _).nvme_eq
        · rfl
      have h2 : s2.nvme = s1.nvme := (State.dropWork_frame _ _).nvme_eq.trans (State.signalEvent_frame _ _ _).nvme_eq
      exact h2.trans (h1.trans h0)

theorem State.concludeAll_nvme (s : State) (f : Cmd → Bool) {st : Nat} (hl : st ≠ stLinkLost) : (s.concludeAll f st).nvme = s.nvme := by
  unfold State.concludeAll
  generalize s.cmds.filter (fun c => f c && c.status.isNone) = l
  induction l generalizing s with
  | nil => rfl
  | cons c l ih => rw [List.foldl_cons, ih, State.conclude_nvme _ _ _ _ hl]

theorem State.faultCtx_nvme (s : State) (ctx cls addr st q cid : Nat) : (s.faultCtx ctx cls addr st q cid).nvme = s.nvme := by
  unfold State.faultCtx
  extract_lets a s1 fs s2 uids s3
  have h1 : s1.nvme = s.nvme := (State.logViol_frame _ _).nvme_eq
  have h3 : s3.nvme = s1.nvme := (State.concludeAll_nvme _ _ (by decide)).trans (State.endOps_frame s2 uids stCtxFaulted).nvme_eq
  split
  · exact (State.reap_frame _ _).nvme_eq.trans ((State.drainAll_frame _ _).nvme_eq.trans ((State.releaseJob_frame _ _).nvme_eq.trans (h3.trans h1)))
  · exact h1

end Sys2Proof.Machine

namespace Sys2Proof.Proofs
-- One thread elaborates these proofs: in parallel they ask for more stacks than the check allows.
set_option Elab.async false
open Sys2Proof.Machine Sys2Proof.Claims

theorem completionPost_holds : completionPost := by
  intro n k c q s hopen hcanon hcalm hpost hq hstate
  obtain ⟨-, hn, hk⟩ := State.nextPost_mem hpost
  have hexec : exec (.completionPost n k none) s = (if s.kciOpen = false ∨ q.full = true ∨ ((s.ctx n).state ≠ 1 ∧ (s.ctx n).state ≠ 2) then .next s
      else .next ((s.post c q).settle.recheck)) := by
    show execCompletionPost n k none s = _
    unfold execCompletionPost
    rw [hpost, hq]
  refine ⟨fun hfull => hexec.trans (if_pos (.inr (.inl hfull))), fun hfull => ?_⟩
  rw [if_neg (by simp only [hopen, hfull, Bool.true_eq_false, Bool.false_eq_true, false_or]; omega)] at hexec
  obtain ⟨u, hu, hcmds, hctx, hother, hmsix, hhost⟩ := State.post_parts s c q
  have hframe := State.freed_frame c u
  rw [← hu] at hframe
  have hqueues (m : Nat) : ((s.post c q).ctx m).queues = (u.ctx m).queues := by
    obtain ⟨x, y, hx⟩ := State.freed_ctx c u m
    rw [hu, hx]
  have hcalm' : (s.post c q).calm := by
    refine ⟨fun d hd => ?_, fun m j x hx raw hraw => ?_⟩
    · rw [hframe.cmds_eq, hcmds] at hd
      exact hcalm.1 d (List.mem_filter.mp hd).1
    · rw [hqueues] at hx
      by_cases hm : m = c.e.ctx
      · subst hm
        rw [hctx] at hx
        by_cases hj : j = c.e.queue
        · subst hj
          obtain rfl := Option.some.inj ((tfind_tset_same _ _ _).symm.trans hx)
          exact hcalm.2 n k q hq raw hraw
        · exact hcalm.2 _ j x ((tfind_tset_other _ _ hj).symm.trans hx) raw hraw
      · rw [hother m hm] at hx
        exact hcalm.2 m j x hx raw hraw
  rw [State.calm_rest hcalm'] at hexec
  refine ⟨_, hexec, hframe.cmds_eq.trans hcmds, ?_, ?_, fun st hst herr => ?_, fun a => ?_⟩
  · rw [← hn, hqueues, hctx, ← hk]
    exact tfind_tset_same _ _ _
  · rw [hframe.mgmt_eq, hmsix, hn]
  · unfold completionBytes resultWords
    rw [hst, if_neg (by simp [herr]), hk]
    simp only [List.append_assoc]
    rfl
  · have hwf : Mem.wf (if isCompute c.body = true then mwrite s.host (q.colo + 128 * q.cqTail) (s.colophon c (s.colophonPart c)) else s.host) = true := by
      split
      · exact mwrite_wf _ _ hcanon.1
      · exact hcanon.1
    rw [hframe.host_eq, hhost, mget_mwrite hwf, completionBytes_length]
    refine if_congr Iff.rfl rfl ?_
    by_cases hcomp : isCompute c.body = true
    · rw [if_pos hcomp, mget_mwrite hcanon.1, State.colophon_length]
      exact if_congr (by simp [hcomp]) rfl rfl
    · rw [if_neg hcomp, if_neg (fun h => hcomp h.1)]

theorem completionFault_holds : completionFault := by
  intro n k a c q s hopen hcalm hdistinct hpost hq hfull hstate
  obtain ⟨-, rfl, rfl⟩ := State.nextPost_mem hpost
  have hexec : exec (.completionPost c.e.ctx c.e.queue (some a)) s = .next ((s.unwritable c a).settle.recheck) := by
    show execCompletionPost c.e.ctx c.e.queue (some a) s = _
    unfold execCompletionPost
    rw [hpost, hq]
    exact if_neg (by simp [hopen, hfull, hstate])
  let s1 := s.abortAdd c.e.ctx [s.kciAbort 5 c]
  let s2 := s1.loseCmds [c]
  let s3 := (s2.freeSlot c).dropRefs c
  have hunw : s.unwritable c a = s3.faultCtx c.e.ctx clsHostDma a 0 c.e.queue c.e.cid := rfl
  have hlost : s2.ctxs = s.ctxs := (State.loseCmds_frame _ _).ctxs_eq.trans (State.abortAdd_frame _ _ _).ctxs_eq
  have hctx (m : Nat) : ∃ (x : Table SlotSt) (h : Table HandleSt), s3.ctx m = { s.ctx m with slots := x, handles := h } := by
    obtain ⟨x, h, hx⟩ := State.freed_ctx c s2 m
    exact ⟨x, h, hx.trans (by rw [State.ctx_of_ctxs hlost])⟩
  have hcmds : s3.cmds = s.cmds.filter (fun d => !([c].map (·.uid)).contains d.uid) := by
    rw [(State.freed_frame c s2).cmds_eq, State.loseCmds_cmds, (State.abortAdd_frame _ _ _).cmds_eq]
  have hopen3 : (s3.ctx c.e.ctx).state = 1 := by
    obtain ⟨x, h, hx⟩ := hctx c.e.ctx
    rw [hx]
    exact hstate
  have hdistinct3 : distinct s3 := by
    unfold distinct
    rw [hcmds]
    exact hdistinct.sublist (List.filter_sublist.map _)
  obtain ⟨v, hs, g, hfaulted, hother, hlist, hg⟩ := State.faultCtx_open clsHostDma a 0 c.e.queue c.e.cid hopen3 hdistinct3
  rw [← hunw] at hfaulted hother hlist
  have hcalm' : (s.unwritable c a).calm := by
    refine ⟨fun d hd => ?_, fun m j x hx raw hraw => ?_⟩
    · rw [hlist] at hd
      obtain ⟨d', hd', rfl⟩ := List.mem_map.mp hd
      exact Cmd.mayEnd_still (hg d' hd').1 (hcalm.1 d' (List.mem_filter.mp (hcmds ▸ hd')).1)
    · have hqueues : ((s.unwritable c a).ctx m).queues = (s.ctx m).queues := by
        obtain ⟨y, h, hy⟩ := hctx m
        by_cases hm : m = c.e.ctx
        · subst hm
          rw [hfaulted, hy]
        · rw [hother m hm, hy]
      exact hcalm.2 m j x (hqueues ▸ hx) raw hraw
  rw [State.calm_rest hcalm'] at hexec
  refine ⟨_, hexec, by rw [hfaulted], fun y hy => ?_, s.kciAbort 5 c, ?_, rfl, rfl, rfl⟩
  · rw [hlist, hcmds] at hy
    obtain ⟨d, hd, rfl⟩ := List.mem_map.mp hy
    rw [Cmd.mayEnd_uid (hg d (hcmds ▸ hd)).1]
    simpa using (List.mem_filter.mp hd).2
  · obtain ⟨x, h, hx⟩ := State.abortAdd_ctl s c.e.ctx [s.kciAbort 5 c]
    have hnvme : (s.unwritable c a).nvme = s1.nvme :=
      (State.faultCtx_nvme _ _ _ _ _ _ _).trans ((State.freed_frame c s2).nvme_eq.trans (State.loseCmds_frame _ _).nvme_eq)
    have hctl : (s.unwritable c a).ctl c.e.ctx = s1.ctl c.e.ctx := State.ctl_of_nvme (congrArg NvmeSt.ctls hnvme) _
    rw [hctl, hx]
    exact List.mem_append_right _ (List.mem_singleton_self _)

/-- Settles O29. -/
theorem completions : Obligations.Completions := ⟨completionPost_holds, completionFault_holds⟩

end Sys2Proof.Proofs

/-! The administrator's registers: O30, O31, O32 and O33. -/

namespace Sys2Proof.Machine
-- One thread elaborates these proofs: in parallel they ask for more stacks than the check allows.
set_option Elab.async false
open Sys2Proof.Claims

/-! ### Refused writes -/

/-- R455: a write that is refused in the state `s` is one that the claims call refused. -/
theorem refuses_of {c : Instr} {s : State} {off st : Nat} (hexec : exec c s = .next (s.refuse off st)) (hoff : off < 2 ^ 21) : refuses c s s off st := by
  refine ⟨_, hexec, ?_⟩
  unfold State.refuse
  dsimp only [State.modMgmt]
  rw [Nat.mod_eq_of_lt hoff]
  split <;> rfl

/-! ### Several partitions or arrays changed alike -/

theorem State.foldl_modPart_part {f : PartSt → PartSt} (hf : ∀ x, f (f x) = f x) (l : List Nat) (s : State) (p : Nat) :
    (l.foldl (fun s p => s.modPart p f) s).part p = if p ∈ l then f (s.part p) else s.part p := by
  induction l generalizing s with
  | nil => rfl
  | cons q l ih =>
    rw [List.foldl_cons, ih]
    by_cases hp : p = q
    · subst hp
      simp [hf]
    · simp [State.part_modPart_other _ _ hp, hp]

theorem State.foldl_modPart_rest (f : PartSt → PartSt) (l : List Nat) (s : State) :
    l.foldl (fun s p => s.modPart p f) s = { s with parts := (l.foldl (fun s p => s.modPart p f) s).parts } := by
  induction l generalizing s with
  | nil => rfl
  | cons q l ih =>
    rw [List.foldl_cons, ih]
    rfl

theorem State.foldl_modArr_arr {f : ArraySt → ArraySt} (hf : ∀ x, f (f x) = f x) (l : List Nat) (s : State) (a : Nat) :
    (l.foldl (fun s a => s.modArr a f) s).arr a = if a ∈ l then f (s.arr a) else s.arr a := by
  induction l generalizing s with
  | nil => rfl
  | cons q l ih =>
    rw [List.foldl_cons, ih]
    by_cases hp : a = q
    · subst hp
      simp [hf]
    · simp [State.arr_modArr_other _ _ hp, hp]

theorem State.foldl_modArr_rest (f : ArraySt → ArraySt) (l : List Nat) (s : State) :
    l.foldl (fun s a => s.modArr a f) s = { s with arrays := (l.foldl (fun s a => s.modArr a f) s).arrays } := by
  induction l generalizing s with
  | nil => rfl
  | cons q l ih =>
    rw [List.foldl_cons, ih]
    rfl

theorem mem_arraysOf {ps : List Nat} {a : Nat} : a ∈ arraysOf ps ↔ ∃ q ∈ ps, a = q ∨ a = q + 8 := by
  unfold arraysOf
  rw [List.mem_append, List.mem_map]
  constructor
  · rintro (h | ⟨q, hq, rfl⟩)
    · exact ⟨a, h, .inl rfl⟩
    · exact ⟨q, hq, .inr rfl⟩
  · rintro ⟨q, hq, rfl | rfl⟩
    · exact .inl hq
    · exact .inr ⟨q, hq, rfl⟩

/-- R155: the other quotas, beside the one of a partition. -/
theorem sum_range_others (f : Nat → Nat) {n p : Nat} (hp : p < n) :
    ((List.range n).map f).sum = f p + (((List.range n).filter (fun j => j != p)).map f).sum := by
  have hmem : p ∈ List.range n := List.mem_range.mpr hp
  rw [← List.Nodup.erase_eq_filter List.nodup_range p, ← List.sum_cons, ← List.map_cons]
  exact ((List.perm_cons_erase hmem).map f).sum_eq

theorem State.ownsStored_iff (s : State) (n : Nat) : s.ownsStored n = true ↔ ∃ o ∈ s.objs, o.2.owner = n ∧ o.2.persistent = true := by
  simp [State.ownsStored, List.any_eq_true]

/-! ### Commands that end together -/

theorem State.conclude_queues (s : State) {st : Nat} (uid d0 d1 : Nat) (hl : st ≠ stLinkLost) (n : Nat) :
    ((s.conclude uid st d0 d1).ctx n).queues = (s.ctx n).queues := by
  cases hc : s.cmd? uid with
  | none => rw [State.conclude_ended _ _ _ (by rw [hc]; rintro _ ⟨⟩)]
  | some c =>
    cases hs : c.status with
    | some z => rw [State.conclude_ended _ _ _ (by rw [hc]; rintro _ ⟨⟩; rw [hs]; rfl)]
    | none =>
      obtain ⟨v, hv, -⟩ := State.conclude_ctx d0 d1 hc hs hl n
      rw [hv]

theorem State.concludeAll_queues (s : State) (f : Cmd → Bool) {st : Nat} (hl : st ≠ stLinkLost) (n : Nat) :
    ((s.concludeAll f st).ctx n).queues = (s.ctx n).queues := by
  unfold State.concludeAll
  generalize s.cmds.filter (fun c => f c && c.status.isNone) = l
  induction l generalizing s with
  | nil => rfl
  | cons c l ih => rw [List.foldl_cons, ih, State.conclude_queues _ _ _ _ hl]

/-- A state that shows the same commands and queues as a calm one is calm. -/
theorem State.calm_of {s t : State} (h : s.calm) (hc : t.cmds = s.cmds) (hq : ∀ n : Nat, (t.ctx n).queues = (s.ctx n).queues) : t.calm :=
  ⟨fun c hm => h.1 c (hc ▸ hm), fun n k x hx => h.2 n k x (hq n ▸ hx)⟩

/-- Nothing begins to move when commands end: none of those left waits for another one. -/
theorem State.concludeAll_calm {s : State} (f : Cmd → Bool) {st : Nat} (hl : st ≠ stLinkLost) (h : s.calm) (hu : distinct s) : (s.concludeAll f st).calm := by
  obtain ⟨g, hg, hend⟩ := State.concludeAll_list f hu hl
  refine ⟨fun c hc => ?_, fun n k x hx => h.2 n k x (State.concludeAll_queues s f hl n ▸ hx)⟩
  rw [hg] at hc
  obtain ⟨d, hd, rfl⟩ := List.mem_map.mp hc
  exact Cmd.mayEnd_still (hend d hd).1 (h.1 d hd)

/-- What a conclusion of all commands that a predicate selects does to the commands. -/
theorem allEnd_of {s u t : State} {f f' : Cmd → Bool} {st : Nat} (hu : distinct s) (hl : st ≠ stLinkLost) (h0 : st ≠ stSuccess) (hus : u.cmds = s.cmds)
    (hf : ∀ c ∈ s.cmds, f' c = f c) (ht : t.cmds = (u.concludeAll f' st).cmds) : allEnd s t f st := by
  obtain ⟨g, hg, hend⟩ := State.concludeAll_list (s := u) f' (hus ▸ hu) hl
  rw [hus] at hg hend
  rw [hg] at ht
  refine ⟨?_, fun x hx hkeep => ?_, fun x hx hfx hn => ⟨g x, ?_, Cmd.mayEnd_uid (hend x hx).1, ?_⟩⟩
  · rw [ht, List.map_map]
    exact List.map_congr_left (fun c hc => Cmd.mayEnd_uid (hend c hc).1)
  · have hgx : g x = x := by
      rcases hkeep with hfx | hs
      · exact (hend x hx).2.1 ((hf x hx).trans hfx)
      · rcases (hend x hx).1 with he | ⟨hn, -⟩
        · exact he
        · exact absurd hn hs
    rw [ht]
    exact List.mem_map.mpr ⟨x, hx, hgx⟩
  · rw [ht]
    exact List.mem_map_of_mem hx
  · rw [(hend x hx).2.2 ((hf x hx).trans hfx), hn]
    exact congrArg some (if_neg (fun h => h0 h.1))

/-- The passes that are in an array stay in it when commands end. -/
theorem State.conclude_inflight (s : State) {st : Nat} (uid d0 d1 : Nat) (hl : st ≠ stLinkLost) (a : Nat) :
    ((s.conclude uid st d0 d1).arr a).inflight = (s.arr a).inflight := by
  cases hc : s.cmd? uid with
  | none => rw [State.conclude_ended _ _ _ (by rw [hc]; rintro _ ⟨⟩)]
  | some c =>
    cases hs : c.status with
    | some z => rw [State.conclude_ended _ _ _ (by rw [hc]; rintro _ ⟨⟩; rw [hs]; rfl)]
    | none =>
      rw [State.conclude_eq d0 d1 hc hs hl]
      extract_lets st' s0 s1 s2
      have h0 : s0.arrays = s.arrays := by
        unfold s0
        split
        · exact (State.endOps_frame _ _ _).arrays_eq
        · rfl
      have h1 : s1.arrays = s0.arrays := by
        unfold s1
        split
        · exact (State.markAll_frame _ _).arrays_eq
        · rfl
      have h2 : (s1.signalEvent c.e (isError st')).arrays = s.arrays := (State.signalEvent_frame _ _ _).arrays_eq.trans (h1.trans h0)
      show (s2.arr a).inflight = _
      unfold s2
      rw [State.dropWork_arr]
      unfold State.arr
      rw [h2]

theorem State.concludeAll_inflight (s : State) (f : Cmd → Bool) {st : Nat} (hl : st ≠ stLinkLost) (a : Nat) :
    ((s.concludeAll f st).arr a).inflight = (s.arr a).inflight := by
  unfold State.concludeAll
  generalize s.cmds.filter (fun c => f c && c.status.isNone) = l
  induction l generalizing s with
  | nil => rfl
  | cons c l ih => rw [List.foldl_cons, ih, State.conclude_inflight _ _ _ _ hl]

/-- Commands whose states are made anew keep their numbers and their statuses. -/
theorem State.refresh_rest (s : State) (uid : Nat) : Frame [.cmds] s (s.refresh uid) ∧ (s.refresh uid).cmds.map (·.uid) = s.cmds.map (·.uid) ∧
    (s.refresh uid).cmds.map (·.status) = s.cmds.map (·.status) := by
  refine ⟨State.refresh_frame s uid, ?_⟩
  unfold State.refresh
  split
  · exact ⟨rfl, rfl⟩
  · split
    · exact ⟨rfl, rfl⟩
    · constructor <;>
      · show (s.cmds.map _).map _ = _
        rw [List.map_map]
        refine List.map_congr_left (fun c _ => ?_)
        dsimp only [Function.comp]
        split <;> rfl

theorem State.refreshes_rest (l : List Nat) (s : State) : Frame [.cmds] s (l.foldl (fun s u => s.refresh u) s) ∧
    (l.foldl (fun s u => s.refresh u) s).cmds.map (·.uid) = s.cmds.map (·.uid) ∧
    (l.foldl (fun s u => s.refresh u) s).cmds.map (·.status) = s.cmds.map (·.status) := by
  induction l generalizing s with
  | nil => exact ⟨Frame.refl _ _, rfl, rfl⟩
  | cons u l ih =>
    obtain ⟨hf, hu, hs⟩ := State.refresh_rest s u
    obtain ⟨hf', hu', hs'⟩ := ih (s.refresh u)
    exact ⟨hf.after hf' (by decide), hu'.trans hu, hs'.trans hs⟩

theorem State.part_of_parts {s t : State} (h : t.parts = s.parts) (p : Nat) : t.part p = s.part p := by
  unfold State.part
  rw [h]

theorem State.arr_of_arrays {s t : State} (h : t.arrays = s.arrays) (a : Nat) : t.arr a = s.arr a := by
  unfold State.arr
  rw [h]

end Sys2Proof.Machine

namespace Sys2Proof.Proofs
-- One thread elaborates these proofs: in parallel they ask for more stacks than the check allows.
set_option Elab.async false
open Sys2Proof.Machine Sys2Proof.Claims

/-! ### Quotas, reservations and contexts -/

theorem partDramQuotaWrite_holds : partDramQuotaWrite := by
  intro p v s hopen hp
  have hexec : exec (.partDramQuotaWrite p v) s = .next (if s.variant.maxQuota < v.toNat % 65536 then s.refuse (partOff p 0x04) stInvalidField
      else s.modPart p (fun x => { x with quota := v.toNat % 65536 })) := congrArg Host.Outcome.next (if_pos ⟨hopen, hp⟩)
  have hmost : s.variant.maxQuota = (match s.variant with | .dx30 => 672 | .dx61 => 608) := rfl
  rw [hmost] at hexec
  refine ⟨fun hle => hexec.trans (congrArg Host.Outcome.next (if_neg (Nat.not_lt.mpr hle))), fun hlt => ?_⟩
  have := refuses_of (hexec.trans (congrArg Host.Outcome.next (if_pos hlt))) (by unfold partOff; omega)
  rwa [show partOff p 0x04 = 0x102004 + 0x40 * p by unfold partOff; omega] at this

theorem schedResvWrite_holds : schedResvWrite := by
  intro p v s hopen hp
  have hexec : exec (.schedResvWrite p v) s = .next (if 50 < v.toNat % 256 then s.refuse (partOff p 0x08) stInvalidField
      else s.modPart p (fun x => { x with resvNext := v.toNat % 256 })) := congrArg Host.Outcome.next (if_pos ⟨hopen, hp⟩)
  refine ⟨fun hle => hexec.trans (congrArg Host.Outcome.next (if_neg (Nat.not_lt.mpr hle))), fun hlt => ?_⟩
  have := refuses_of (hexec.trans (congrArg Host.Outcome.next (if_pos hlt))) (by unfold partOff; omega)
  rwa [show partOff p 0x08 = 0x102008 + 0x40 * p by unfold partOff; omega] at this

theorem reservationWindowBoundary_holds : reservationWindowBoundary := by
  intro s
  refine ⟨fun hlt => ⟨_, if_pos hlt, rfl, rfl, fun p => ?_, fun a => ?_, rfl⟩, fun hle => if_neg (Nat.not_lt.mpr hle)⟩
  · unfold State.part tget
    dsimp only
    rw [tfind_tmap]
    cases tfind s.parts p <;> exact ⟨rfl, rfl, rfl⟩
  · unfold State.arr tget
    dsimp only
    rw [tfind_tmap]
    cases tfind s.arrays a <;> exact ⟨rfl, rfl, rfl⟩

theorem memT2QuotaWrite_holds : memT2QuotaWrite := by
  intro p v s hopen hp q others fits
  have hexec : exec (.memT2QuotaWrite p v) s = .next (s.writeT2Quota p v) := congrArg Host.Outcome.next (if_pos ⟨hopen, hp⟩)
  have htotal : s.nvmGib - (s.part p).t2quota + q = others + q := by
    have := sum_range_others (fun j => (s.part j).t2quota) hp
    unfold State.nvmGib
    dsimp only [others]
    omega
  have hcond : (s.variant.maxT2 < q ∨ s.variant.user < (s.nvmGib - (s.part p).t2quota + q) * 2 ^ 30 ∨ q * 16384 < s.t2Held [p]) ↔ ¬ fits := by
    rw [htotal]
    dsimp only [fits]
    omega
  refine ⟨fun h => hexec.trans (congrArg Host.Outcome.next (if_neg (fun hc => hcond.mp hc h))), fun h => ?_⟩
  exact refuses_of (hexec.trans (congrArg Host.Outcome.next (if_pos (hcond.mpr h)))) (by omega)

theorem ctxAssignWrite_holds : ctxAssignWrite := by
  intro n v s hopen hn x c moves floor
  have hexec : exec (.ctxAssignWrite n v) s = .next (s.writeAssign n v) := congrArg Host.Outcome.next (if_pos ⟨hopen, hn⟩)
  have hcond : ((x % 8 ≠ c.partition ∧ (c.queues ≠ [] ∨ c.handles ≠ [] ∨ s.ownsStored n = true)) ∨ bits x 19 18 = 3
      ∨ (bits x 19 18 = 1 ∧ (bits x 23 20 < 1 ∨ 8 < bits x 23 20)) ∨ (bits x 19 18 ≠ 1 ∧ bits x 23 20 ≠ 0)) ↔ (moves ∨ ¬ floor) := by
    rw [State.ownsStored_iff]
    refine or_congr Iff.rfl ?_
    dsimp only [floor]
    omega
  refine ⟨fun hm hf => hexec.trans (congrArg Host.Outcome.next (if_neg (fun hc => (hcond.mp hc).elim hm (fun h => h hf)))), fun h => ?_⟩
  exact refuses_of (hexec.trans (congrArg Host.Outcome.next (if_pos (hcond.mpr h)))) (by omega)

/-- Settles O30. -/
theorem quotasAndAssignments : Obligations.QuotasAndAssignments :=
  ⟨partDramQuotaWrite_holds, schedResvWrite_holds, reservationWindowBoundary_holds, memT2QuotaWrite_holds, ctxAssignWrite_holds⟩

/-! ### Exclusive jobs -/

theorem exclSet_eq (p : Nat) (v : BitVec 32) : (List.range (2 ^ bits v.toNat 9 8)).map (· + p) = exclSet p v :=
  List.map_congr_left (fun i _ => Nat.add_comm i p)

theorem claimable_iff (s : State) (ps : List Nat) (n : Nat) : s.claimable ps n = true ↔
    (∀ q ∈ ps, (s.part q).state = 0) ∧ (s.ctx n).partition ∈ ps ∧ ∀ c ∈ s.ctxs, c.1 ≠ n → c.2.partition ∈ ps → c.2.queues = [] := by
  simp only [State.claimable, Bool.and_eq_true, List.all_eq_true, beq_iff_eq, List.contains_iff_mem, Bool.or_eq_true, Bool.not_eq_true',
    List.isEmpty_iff, and_assoc]
  refine and_congr Iff.rfl (and_congr Iff.rfl (forall_congr' fun c => forall_congr' fun _ => ?_))
  rw [← Bool.not_eq_true, List.contains_iff_mem]
  tauto

theorem partExclClaim_holds : partExclClaim := by
  intro p v s hopen hp hclaim habort ok
  have hexec : exec (.partExclClaim p v) s = .next (s.writeExcl p v) := congrArg Host.Outcome.next (if_pos ⟨hopen, hp⟩)
  have hoff : partOff p 0x0C = 0x10200C + 0x40 * p := by
    unfold partOff
    omega
  have hwrite : s.writeExcl p v = if p % 2 ^ bits v.toNat 9 8 ≠ 0 then s.refuse (partOff p 0x0C) stInvalidField
      else if s.claimable (exclSet p v) (v.toNat % 256) = false then s.refuse (partOff p 0x0C) stExclusive
      else (exclSet p v).foldl (fun s q => s.modPart q (fun x => { x with state := 1, set := bits v.toNat 9 8, lead := p, ctx := v.toNat % 256 })) s := by
    unfold State.writeExcl
    simp only [hclaim, habort, exclSet_eq]
    simp
  rw [hoff] at hwrite
  rw [hwrite] at hexec
  refine ⟨fun hz hok => ?_, fun hz hok => ?_, fun hz => refuses_of (hexec.trans (congrArg Host.Outcome.next (if_pos hz))) (by omega)⟩
  · rw [if_neg (not_not.mpr hz), if_neg (by simpa using (claimable_iff _ _ _).mpr hok)] at hexec
    refine ⟨_, hexec, State.foldl_modPart_rest _ _ _, fun q hq => ?_, fun q hq => ?_⟩
    · exact (State.foldl_modPart_part (by exact fun _ => rfl) _ s q).trans (if_pos hq)
    · exact (State.foldl_modPart_part (by exact fun _ => rfl) _ s q).trans (if_neg hq)
  · rw [if_neg (not_not.mpr hz), if_pos (Bool.eq_false_iff.mpr (fun h => hok ((claimable_iff _ _ _).mp h)))] at hexec
    exact refuses_of hexec (by omega)

theorem claimComplete_holds : claimComplete := by
  intro p s hlive hstate free
  have hfree : s.slotsFree (s.setOf p) = true ↔ free := by
    simp only [State.slotsFree, List.all_eq_true, List.isEmpty_iff, mem_arraysOf]
    constructor
    · exact fun h q hq => ⟨h q ⟨q, hq, .inl rfl⟩, h (q + 8) ⟨q, hq, .inr rfl⟩⟩
    · rintro h a ⟨q, hq, rfl | rfl⟩
      · exact (h a hq).1
      · exact (h q hq).2
  refine ⟨fun h => ⟨_, congrArg Host.Outcome.next (if_pos ⟨hlive, hstate, hfree.mpr h⟩), State.foldl_modPart_rest _ _ _, fun q hq => ?_, fun q hq => ?_⟩,
    fun h => congrArg Host.Outcome.next (if_neg (fun hc => h (hfree.mp hc.2.2)))⟩
  · exact (State.foldl_modPart_part (by exact fun _ => rfl) _ s q).trans (if_pos hq)
  · exact (State.foldl_modPart_part (by exact fun _ => rfl) _ s q).trans (if_neg hq)

theorem partExclAbort_holds : partExclAbort := by
  intro p v s hopen hp hclaim habort
  have hexec : exec (.partExclAbort p v) s = .next (s.writeExcl p v) := congrArg Host.Outcome.next (if_pos ⟨hopen, hp⟩)
  have hoff : partOff p 0x0C = 0x10200C + 0x40 * p := by
    unfold partOff
    omega
  have hwrite : s.writeExcl p v = if p % 2 ^ bits v.toNat 9 8 ≠ 0 ∨ (s.part p).state = 0 ∨ (s.part p).lead ≠ p then s.refuse (partOff p 0x0C) stInvalidField
      else if (s.part p).state = 1 ∨ (s.part p).state = 2 then s.abortJob (s.part p).ctx else s := by
    unfold State.writeExcl
    simp only [hclaim, habort]
    simp
  rw [hoff] at hwrite
  rw [hwrite] at hexec
  refine ⟨fun hz hlead hstate hcalm hdistinct => ?_, fun h => refuses_of (hexec.trans (congrArg Host.Outcome.next (if_pos h))) (by omega)⟩
  rw [if_neg (by omega), if_pos hstate] at hexec
  let n := (s.part p).ctx
  let s1 := s.endOps ((s.pendingOf n).map (·.uid)) stPreempt
  let s2 := s1.concludeAll (fun c => c.e.ctx == n) stPreempt
  have hframe : Frame [.peer] s s1 := State.endOps_frame _ _ _
  have hcalm1 : s1.calm := State.calm_of hcalm hframe.cmds_eq (fun m => by rw [State.ctx_of_ctxs hframe.ctxs_eq])
  have hdistinct1 : distinct s1 := by
    unfold distinct
    rw [hframe.cmds_eq]
    exact hdistinct
  have hrelease := State.releaseJob_frame s2 n
  have hcalm3 : (s2.releaseJob n).calm :=
    State.calm_of (State.concludeAll_calm _ (by decide) hcalm1 hdistinct1) hrelease.cmds_eq (fun m => by rw [State.ctx_of_ctxs hrelease.ctxs_eq])
  have habortJob : s.abortJob n = s2.releaseJob n := State.calm_rest hcalm3
  rw [show s.abortJob (s.part p).ctx = s2.releaseJob n from habortJob] at hexec
  refine ⟨_, hexec, allEnd_of hdistinct (by decide) (by decide) hframe.cmds_eq (fun _ _ => rfl) hrelease.cmds_eq, fun q => ?_⟩
  have hpart : s2.part q = s.part q := State.part_of_parts ((State.concludeAll_frame _ _ _).parts_eq.trans hframe.parts_eq) q
  rw [State.releaseJob_part, hpart]

theorem releaseComplete_holds : releaseComplete := by
  intro p s hlive hstate done
  let ps := s.setOf p
  let as := arraysOf ps
  have hdone : as.all (fun a => (s.arr a).inflight.isEmpty) = true ↔ done := by
    simp only [as, List.all_eq_true, List.isEmpty_iff, mem_arraysOf]
    constructor
    · exact fun h q hq => ⟨h q ⟨q, hq, .inl rfl⟩, h (q + 8) ⟨q, hq, .inr rfl⟩⟩
    · rintro h a ⟨q, hq, rfl | rfl⟩
      · exact (h a hq).1
      · exact (h q hq).2
  refine ⟨fun h => ?_, fun h => if_neg (fun hc => h (hdone.mp hc.2.2))⟩
  let f (x : ArraySt) : ArraySt := { x with staged := none, checking := [], slots := [], class0 := none, chain := [] }
  let s1 := as.foldl (fun s a => s.modArr a f) s
  let s2 := ps.foldl (fun s p => s.modPart p PartSt.share) s1
  let s3 := s2.modCmds (fun l => l.map (fun c => if c.status.isNone && c.tiles.any (fun t => as.contains t.array && !t.finished) then s2.requeue as c else c))
  have hexec : exec (.releaseComplete p) s = .next (s3.cmds.foldl (fun s c => s.refresh c.uid) s3) := if_pos ⟨hlive, hstate, hdone.mpr h⟩
  have h1 : s1 = { s with arrays := s1.arrays } := State.foldl_modArr_rest f as s
  have h2 : s2 = { s1 with parts := s2.parts } := State.foldl_modPart_rest PartSt.share ps s1
  obtain ⟨hframe, huids, hstatus⟩ := State.refreshes_rest (s3.cmds.map (·.uid)) s3
  rw [List.foldl_map] at hframe huids hstatus
  have hcmds : s2.cmds = s.cmds := by rw [h2, h1]
  have harr (a : Nat) (ha : a ∈ as) : (s3.cmds.foldl (fun s c => s.refresh c.uid) s3).arr a = f (s.arr a) := by
    have e3 : s3.arrays = s1.arrays := show s2.arrays = _ by rw [h2]
    rw [State.arr_of_arrays (hframe.arrays_eq.trans e3)]
    exact (State.foldl_modArr_arr (f := f) (fun _ => rfl) as s a).trans (if_pos ha)
  have hpart (q : Nat) : (s3.cmds.foldl (fun s c => s.refresh c.uid) s3).part q = if q ∈ ps then (s.part q).share else s.part q := by
    rw [State.part_of_parts (t := s3.cmds.foldl (fun s c => s.refresh c.uid) s3) (s := s2) hframe.parts_eq]
    have e1 : s1.part q = s.part q := State.part_of_parts (congrArg State.parts h1) q
    rw [← e1]
    exact State.foldl_modPart_part (f := PartSt.share) (fun _ => rfl) ps s1 q
  refine ⟨_, hexec, fun q hq => ⟨(hpart q).trans (if_pos hq), ?_, ?_, ?_⟩, fun q hq => (hpart q).trans (if_neg hq), ?_, huids.trans ?_, hstatus.trans ?_⟩
  · rw [harr q (mem_arraysOf.mpr ⟨q, hq, .inl rfl⟩)]
  · rw [harr (q + 8) (mem_arraysOf.mpr ⟨q, hq, .inr rfl⟩)]
  · rw [harr q (mem_arraysOf.mpr ⟨q, hq, .inl rfl⟩)]
  · exact hframe.objs_eq.trans (show s2.objs = s.objs by rw [h2, h1])
  all_goals
    show (s2.cmds.map _).map _ = _
    rw [hcmds, List.map_map]
    refine List.map_congr_left (fun c _ => ?_)
    dsimp only [Function.comp]
    split <;> rfl

theorem partReset_holds : partReset := by
  intro p v s hopen hp hcalm hdistinct hbit ps
  have hexec : exec (.partReset p v) s = .next (s.resetPart p) := congrArg Host.Outcome.next (if_pos ⟨hopen, hp, hbit⟩)
  let as := arraysOf ps
  let mine (c : Cmd) : Bool := ps.contains (s.ctx c.e.ctx).partition
  let s0 := s.endOps ((s.cmds.filter mine).map (·.uid)) stPreempt
  let s1 := s0.concludeAll mine stPreempt
  let f (x : ArraySt) : ArraySt := { x with
    staged := none, class0 := none, charge := 0, chain := []
    slots := x.slots.filter (fun q => x.inflight.any (fun r => r.uid == q.2.1 && r.tile == q.2.2)) }
  have hff (x : ArraySt) : f (f x) = f x := by
    show ({ f x with slots := (f x).slots.filter _ } : ArraySt) = _
    dsimp only [f]
    rw [List.filter_filter]
    simp only [Bool.and_self]
  let s2 := as.foldl (fun s a => s.modArr a f) s1
  let s3 := (s2.dropStaging ps).abandonTests (fun t => takesArray t.kind && as.contains t.index)
  let s4 := ps.foldl (fun s p => s.modPart p PartSt.share) s3
  have hframe0 : Frame [.peer] s s0 := State.endOps_frame _ _ _
  have hcalm0 : s0.calm := State.calm_of hcalm hframe0.cmds_eq (fun m => by rw [State.ctx_of_ctxs hframe0.ctxs_eq])
  have hdistinct0 : distinct s0 := by
    unfold distinct
    rw [hframe0.cmds_eq]
    exact hdistinct
  have h2 : s2 = { s1 with arrays := s2.arrays } := State.foldl_modArr_rest f as s1
  have h4 : s4 = { s3 with parts := s4.parts } := State.foldl_modPart_rest PartSt.share ps s3
  have hframe3 : Frame [.objs, .tests, .errs, .mgmt] s2 s3 :=
    ((s2.dropStaging_frame ps).mono (by decide)).after (State.abandonTests_frame _ _) (by decide)
  have hcmds : s4.cmds = s1.cmds := by rw [h4, hframe3.cmds_eq, h2]
  have hctxs : s4.ctxs = s1.ctxs := by rw [h4, hframe3.ctxs_eq, h2]
  have hparts : s3.parts = s.parts := by rw [hframe3.parts_eq, h2, (State.concludeAll_frame _ _ _).parts_eq, hframe0.parts_eq]
  have harrays : s4.arrays = s2.arrays := by rw [h4, hframe3.arrays_eq]
  have hreset : s.resetPart p = s4 :=
    State.calm_rest (State.calm_of (State.concludeAll_calm mine (by decide) hcalm0 hdistinct0) hcmds (fun m => by rw [State.ctx_of_ctxs hctxs]))
  rw [hreset] at hexec
  have hpart (q : Nat) : s4.part q = if q ∈ ps then (s.part q).share else s.part q := by
    rw [← State.part_of_parts hparts]
    exact State.foldl_modPart_part (f := PartSt.share) (fun _ => rfl) ps s3 q
  have hinflight (a : Nat) : (s1.arr a).inflight = (s.arr a).inflight :=
    (State.concludeAll_inflight s0 mine (by decide) a).trans (by rw [State.arr_of_arrays hframe0.arrays_eq])
  refine ⟨s4, hexec, allEnd_of hdistinct (by decide) (by decide) hframe0.cmds_eq (fun _ _ => rfl) hcmds, fun q hq => ⟨(hpart q).trans (if_pos hq), fun a ha => ?_⟩,
    fun q hq => (hpart q).trans (if_neg hq)⟩
  have hmem : a ∈ as := mem_arraysOf.mpr ⟨q, hq, by simpa using ha⟩
  have harr : s4.arr a = f (s1.arr a) := (State.arr_of_arrays harrays a).trans ((State.foldl_modArr_arr hff as s1 a).trans (if_pos hmem))
  rw [harr]
  refine ⟨rfl, rfl, hinflight a, fun hnone => ?_⟩
  show (s1.arr a).slots.filter (fun q => (s1.arr a).inflight.any (fun r => r.uid == q.2.1 && r.tile == q.2.2)) = []
  rw [hinflight a, hnone]
  exact List.filter_eq_nil_iff.mpr (fun _ _ => Bool.false_ne_true)

/-- Settles O31. -/
theorem exclusiveJobs : Obligations.ExclusiveJobs :=
  ⟨partExclClaim_holds, claimComplete_holds, partExclAbort_holds, releaseComplete_holds, partReset_holds⟩

end Sys2Proof.Proofs

/-! Keys, the shard group's registers, and the registers of the logs: O32 and O33. -/

namespace Sys2Proof.Machine
-- One thread elaborates these proofs: in parallel they ask for more stacks than the check allows.
set_option Elab.async false
open Sys2Proof.Claims

/-! ### Keys -/

/-- R463: a refused write of SEC_KEY_CTL clears SEC_KEY_DATA all the same. -/
theorem refuses_cleared {c : Instr} {s : State} {off st : Nat} (hexec : exec c s = .next ((s.refuse off st).modMgmt (fun m => { m with keyData := [] })))
    (hoff : off < 2 ^ 21) : refuses c s { s with mgmt := { s.mgmt with keyData := [] } } off st := by
  refine ⟨_, hexec, ?_⟩
  unfold State.refuse
  dsimp only [State.modMgmt]
  rw [Nat.mod_eq_of_lt hoff]
  split <;> rfl

/-- What a write of SEC_KEY_CTL does, by its bits (R463). -/
theorem State.writeKeyCtl_eq (s : State) (v : W32) (hsel : s.mgmt.keySel < 8) : s.writeKeyCtl v =
    (if (bit v.toNat 0 = true ∧ bit v.toNat 1 = true) ∨
        (bit v.toNat 0 = true ∧ ((tfind s.mgmt.keys s.mgmt.keySel).isSome = true ∨ keyOnCurve ((List.range 96).map (fun k => tget 0 s.mgmt.keyData k)) = false)) ∨
        (bit v.toNat 1 = true ∧ (tfind s.mgmt.keys s.mgmt.keySel).isSome = false) then s.refuse 0x107048 stInvalidField
      else if bit v.toNat 0 = true then s.modMgmt (fun m => { m with keys := tset m.keys s.mgmt.keySel ((List.range 96).map (fun k => tget 0 s.mgmt.keyData k)) })
      else if bit v.toNat 1 = true then s.modMgmt (fun m => { m with keys := tdel m.keys s.mgmt.keySel })
      else s).modMgmt (fun m => { m with keyData := [] }) := by
  unfold State.writeKeyCtl
  dsimp only
  rw [Nat.mod_eq_of_lt hsel]

/-! ### The shard group -/

/-- A command that ends without its group has no message to send: of the peer only its operations change (R464). -/
theorem State.conclude_peer (s : State) (uid d0 d1 : Nat) : ∃ ops : List GroupOp,
    (s.conclude uid stPeerNotBound d0 d1).peer = { s.peer with ops := ops } ∧ (s.peer.ops = [] → ops = []) := by
  cases hc : s.cmd? uid with
  | none => exact ⟨s.peer.ops, by rw [State.conclude_ended _ _ _ (by rw [hc]; rintro _ ⟨⟩)], id⟩
  | some c =>
    cases hs : c.status with
    | some z => exact ⟨s.peer.ops, by rw [State.conclude_ended _ _ _ (by rw [hc]; rintro _ ⟨⟩; rw [hs]; rfl)], id⟩
    | none =>
      rw [State.conclude_eq d0 d1 hc hs (by decide)]
      extract_lets st' s0 s1 s2
      have hst : st' = stPeerNotBound := if_neg (fun h => absurd h.1 (by decide))
      have h0 : s0 = s := if_neg (fun h => h.2.2 hst)
      have h1 : s1.peer = s.peer := by
        unfold s1
        rw [h0]
        split
        · exact (State.markAll_frame _ _).peer_eq
        · rfl
      have h2 : s2.peer = s.peer := ((State.dropWork_frame _ _).peer_eq.trans (State.signalEvent_frame _ _ _).peer_eq).trans h1
      refine ⟨s.peer.ops.filter (fun o => o.uid != uid), ?_, fun h => by rw [h]; rfl⟩
      show ({ s2.peer with ops := s2.peer.ops.filter (fun o => o.uid != uid) } : PeerSt) = _
      rw [h2]

theorem State.concludeAll_peer (s : State) (f : Cmd → Bool) : ∃ ops : List GroupOp,
    (s.concludeAll f stPeerNotBound).peer = { s.peer with ops := ops } ∧ (s.peer.ops = [] → ops = []) := by
  unfold State.concludeAll
  generalize s.cmds.filter (fun c => f c && c.status.isNone) = l
  induction l generalizing s with
  | nil => exact ⟨s.peer.ops, rfl, id⟩
  | cons c l ih =>
    obtain ⟨ops, h, hops⟩ := State.conclude_peer s c.uid c.excRecs c.dw1
    obtain ⟨ops', h', hops'⟩ := ih (s.conclude c.uid stPeerNotBound c.excRecs c.dw1)
    refine ⟨ops', h'.trans (by rw [h]), fun hnil => hops' ?_⟩
    rw [h]
    exact hops hnil

/-- The body of a command with a part in a group operation (Table 15-7). -/
def isGroupRun (c : Cmd) : Bool := match c.body with | .run _ _ mode _ _ _ _ => mode != 0 | _ => false

theorem isGroupRun_iff (c : Cmd) : isGroupRun c = true ↔
    ∃ (p n mode q b : Nat) (args : List ArgEntry) (plan : List TilePlan), c.body = .run p n mode q b args plan ∧ mode ≠ 0 := by
  unfold isGroupRun
  constructor
  · intro h
    split at h
    · next p n mode q b args plan hb => exact ⟨p, n, mode, q, b, args, plan, hb, by simpa using h⟩
    · cases h
  · rintro ⟨p, n, mode, q, b, args, plan, hb, hm⟩
    rw [hb]
    simpa using hm

theorem State.groupCmds_ne_nil (s : State) : s.groupCmds ≠ [] ↔ ∃ c ∈ s.cmds, isGroupRun c = true := by
  show (s.cmds.filter isGroupRun).map _ ≠ [] ↔ _
  rw [Ne, List.map_eq_nil_iff, List.filter_eq_nil_iff]
  push Not
  rfl

/-- The numbers of the commands with a part in a group operation tell those commands. -/
theorem State.groupCmds_contains {s : State} (hu : distinct s) {c : Cmd} (hc : c ∈ s.cmds) : s.groupCmds.contains c.uid = isGroupRun c := by
  rw [Bool.eq_iff_iff, List.contains_iff_mem]
  show c.uid ∈ (s.cmds.filter isGroupRun).map _ ↔ _
  rw [List.mem_map]
  constructor
  · rintro ⟨d, hd, he⟩
    obtain ⟨hd, hrun⟩ := List.mem_filter.mp hd
    rwa [← List.inj_on_of_nodup_map hu hd hc he]
  · exact fun h => ⟨c, List.mem_filter.mpr ⟨hc, h⟩, rfl⟩

/-! ### The ledger -/

theorem le_foldl_max (l : List Nat) (a n : Nat) : n ≤ l.foldl max a ↔ n ≤ a ∨ ∃ x ∈ l, n ≤ x := by
  induction l generalizing a with
  | nil => simp
  | cons y l ih =>
    rw [List.foldl_cons, ih, le_max_iff, List.exists_mem_cons_iff, or_assoc]

/-- A ring that takes new entries at its end and keeps the last `n` (R434). -/
theorem keeps_last {α : Type} (l m : List α) (n : Nat) : ((l ++ m).drop ((l ++ m).length - n)).length = min (l.length + m.length) n ∧
    (l.length + m.length ≤ n → (l ++ m).drop ((l ++ m).length - n) = l ++ m) ∧ (m.length ≤ n → m <:+ (l ++ m).drop ((l ++ m).length - n)) := by
  have hlen : (l ++ m).length = l.length + m.length := List.length_append
  refine ⟨by rw [List.length_drop]; omega, fun hfits => ?_, fun hfits => ?_⟩
  · rw [Nat.sub_eq_zero_of_le (hlen ▸ hfits)]
    rfl
  · exact List.suffix_of_suffix_length_le (List.suffix_append _ _) (List.drop_suffix _ _) (by rw [List.length_drop]; omega)

/-- R465: ERR_RECORD reads zeros when it holds no record. -/
theorem State.readErr_record {s : State} (h : s.errs.window = none) {k : Nat} (hk : 4 * k < 64) : s.readErr (0x40 + 4 * k) = 0 := by
  have hoff : ∀ n : Nat, n < 0x40 → 0x40 + 4 * k ≠ n := by omega
  unfold State.readErr
  dsimp only
  split
  case h_8 => rw [if_pos (by omega), h]
  all_goals next he => exact absurd he (hoff _ (by decide))

/-- What a closed record does to the ledger (R445). -/
theorem State.addClosed_ledger (s : State) (r : Closed) : (s.addClosed r).ledger = { s.ledger with
    ring := (if decide (1024 ≤ s.ledger.ring.length) = true then s.ledger.ring.tail else s.ledger.ring) ++ [r]
    overwritten := (if (decide (1024 ≤ s.ledger.ring.length) && (match s.ledger.ring.head? with | some o => decide (s.ledger.ack < o.seq) | none => false)) = true
      then satAdd 32 s.ledger.overwritten 1 else s.ledger.overwritten) } := by
  unfold State.addClosed
  extract_lets full lost s1
  split <;> rfl

end Sys2Proof.Machine

namespace Sys2Proof.Proofs
-- One thread elaborates these proofs: in parallel they ask for more stacks than the check allows.
set_option Elab.async false
open Sys2Proof.Machine Sys2Proof.Claims

/-! ### Keys -/

theorem secKeyEnroll_holds : secKeyEnroll := by
  intro v s hopen henroll hsel key ok
  have hexec : exec (.secKeyEnroll v) s = .next (s.writeKeyCtl v) := congrArg Host.Outcome.next (if_pos hopen)
  rw [State.writeKeyCtl_eq s v hsel, henroll] at hexec
  by_cases hok : ok
  · obtain ⟨hrevoke, hnone, hcurve⟩ := hok
    refine ⟨fun _ => hexec.trans ?_, fun h => absurd ⟨hrevoke, hnone, hcurve⟩ h⟩
    have hbad : ¬ ((true = true ∧ bit v.toNat 1 = true) ∨ (true = true ∧ ((tfind s.mgmt.keys s.mgmt.keySel).isSome = true ∨ keyOnCurve key = false)) ∨
        (bit v.toNat 1 = true ∧ (tfind s.mgmt.keys s.mgmt.keySel).isSome = false)) := by
      simp [hrevoke, hnone, hcurve]
    rw [if_neg hbad, if_pos rfl]
    rfl
  · refine ⟨fun h => absurd h hok, fun _ => refuses_cleared (hexec.trans ?_) (by decide)⟩
    rw [if_pos ?_]
    dsimp only [ok] at hok
    rw [← Option.not_isSome_iff_eq_none] at hok
    simp only [true_and, Bool.not_eq_true] at hok ⊢
    cases h1 : bit v.toNat 1 <;> cases h2 : (tfind s.mgmt.keys s.mgmt.keySel).isSome <;> simp_all [key]

theorem secKeyRevoke_holds : secKeyRevoke := by
  intro v s hopen hrevoke henroll hsel
  have hexec : exec (.secKeyRevoke v) s = .next (s.writeKeyCtl v) := congrArg Host.Outcome.next (if_pos hopen)
  rw [State.writeKeyCtl_eq s v hsel, henroll, hrevoke] at hexec
  refine ⟨fun hsome => ?_, fun hnone => refuses_cleared (hexec.trans ?_) (by decide)⟩
  · rw [← Option.isSome_iff_ne_none] at hsome
    rw [if_neg (by simp [hsome]), if_neg Bool.false_ne_true, if_pos rfl] at hexec
    exact ⟨_, hexec, rfl, tfind_tdel_same _ _, fun i hi => tfind_tdel_other _ hi⟩
  · rw [if_pos (.inr (.inr ⟨rfl, by simp [hnone]⟩))]

/-! ### The shard group -/

theorem peerGroupCfgSet_holds : peerGroupCfgSet := by
  intro v s hopen hvalid size mem ok
  have hexec : exec (.peerGroupCfgSet v) s = .next (s.writeGroupCfg v) := congrArg Host.Outcome.next (if_pos hopen)
  unfold State.writeGroupCfg at hexec
  dsimp only at hexec
  rw [hvalid] at hexec
  refine ⟨fun hv hok => ?_, fun hv hok => ?_, fun hv hm hz => ?_, fun hv hne => ?_⟩
  · rw [hv, if_neg Bool.false_ne_true, if_pos rfl, if_pos hok] at hexec
    refine ⟨_, hexec, rfl, rfl, rfl, rfl, rfl, rfl, rfl, rfl, rfl, fun k x hx => ?_⟩
    simp only [State.modPeer, tfind_tmap, hx, Option.map_some, Bool.and_eq_true]
  · rw [hv, if_neg Bool.false_ne_true, if_pos rfl, if_neg hok] at hexec
    exact refuses_of hexec (by decide)
  · rw [hv, if_pos rfl, if_neg (not_or.mpr ⟨not_not.mpr hm, not_not.mpr hz⟩), if_pos rfl] at hexec
    exact hexec
  · rw [hv, if_pos rfl, if_pos hne] at hexec
    exact refuses_of hexec (by decide)

theorem peerGroupCfgClear_holds : peerGroupCfgClear := by
  intro v s hopen hvalid
  have hexec : exec (.peerGroupCfgClear v) s = .next (s.writeGroupCfg v) := congrArg Host.Outcome.next (if_pos hopen)
  unfold State.writeGroupCfg at hexec
  dsimp only at hexec
  rw [hvalid] at hexec
  refine ⟨fun hv hm hz hcalm hdistinct => ?_, fun hv => ?_⟩
  · rw [hv, if_pos rfl, if_neg (not_or.mpr ⟨not_not.mpr hm, not_not.mpr hz⟩), if_neg Bool.false_ne_true] at hexec
    let s1 := s.modPeer (fun p => { p with ops := [] })
    let s2 := s1.concludeAll (fun c => s.groupCmds.contains c.uid) stPeerNotBound
    have hcalm2 : s2.calm := State.concludeAll_calm _ (by decide) (State.calm_of hcalm rfl (fun _ => rfl)) hdistinct
    have hend : s.endAllOps stPeerNotBound = s2 := State.calm_rest hcalm2
    rw [hend] at hexec
    obtain ⟨ops, hpeer, hops⟩ := State.concludeAll_peer s1 (fun c => s.groupCmds.contains c.uid)
    have hpeer' : s2.peer = { s1.peer with ops := ops } := hpeer
    refine ⟨_, hexec, allEnd_of (u := s1) hdistinct (by decide) (by decide) rfl (fun c hc => State.groupCmds_contains hdistinct hc) rfl, rfl, rfl, ?_, rfl, ?_, ?_, fun k x hx => ?_⟩
    · show s2.peer.ops = []
      rw [hpeer']
      exact hops rfl
    · show s2.peer.gid = _
      rw [hpeer']
      rfl
    · show s2.peer.epoch = _
      rw [hpeer']
      rfl
    · replace hx : tfind (tmap s2.peer.ports (fun _ x => x.idle)) k = some x := hx
      rw [tfind_tmap, Option.map_eq_some_iff] at hx
      obtain ⟨y, -, rfl⟩ := hx
      rfl
  · rw [hv, if_neg Bool.false_ne_true, if_neg Bool.false_ne_true] at hexec
    exact hexec

theorem peerBindWrite_holds : peerBindWrite := by
  intro v s hopen busy same
  have hexec : exec (.peerBindWrite v) s = .next (s.writeBind v) := congrArg Host.Outcome.next (if_pos hopen)
  unfold State.writeBind at hexec
  dsimp only at hexec
  have hbusy : s.groupCmds ≠ [] ↔ busy :=
    s.groupCmds_ne_nil.trans (exists_congr fun c => and_congr Iff.rfl (isGroupRun_iff c))
  have hcond : (decide (bit v.toNat 31 = s.peer.bindValid ∧ v.toNat % 256 = s.peer.bindCtx) = false ∧ s.groupCmds ≠ []) ↔ ¬ same ∧ busy :=
    and_congr decide_eq_false_iff_not hbusy
  refine ⟨fun h => hexec.trans (congrArg Host.Outcome.next (if_neg (fun hc => ?_))), fun hb hs => ?_⟩
  · obtain ⟨hs, hb⟩ := hcond.mp hc
    exact h.elim (fun hn => hn hb) hs
  · exact refuses_of (hexec.trans (congrArg Host.Outcome.next (if_pos (hcond.mpr ⟨hs, hb⟩)))) (by decide)

theorem peerProgressToWrite_holds : peerProgressToWrite := by
  intro v s hopen n
  have hexec : exec (.peerProgressToWrite v) s = .next (if n < 1 ∨ 60000 < n then s.refuse 0x10800C stInvalidField
      else s.modPeer (fun p => { p with progressTo := n })) := congrArg Host.Outcome.next (if_pos hopen)
  exact ⟨fun h1 h2 => hexec.trans (congrArg Host.Outcome.next (if_neg (by omega))),
    fun h => refuses_of (hexec.trans (congrArg Host.Outcome.next (if_pos h))) (by decide)⟩

/-- Settles O32. -/
theorem keysAndGroupRegisters : Obligations.KeysAndGroupRegisters :=
  ⟨secKeyEnroll_holds, secKeyRevoke_holds, peerGroupCfgSet_holds, peerGroupCfgClear_holds, peerBindWrite_holds, peerProgressToWrite_holds⟩

/-! ### The error log and the ledger -/

theorem ledgerPeriodClose_holds : ledgerPeriodClose := by
  intro s hperiod hrun e
  refine ⟨fun hdue hmax => ?_, fun hearly => if_neg (fun h => absurd h.2.2 (Nat.not_le.mpr hearly))⟩
  let r := s.closedRec e false
  let s1 := s.addClosed r
  let l := s.ledger.ring
  have hl1024 : l.length ≤ 1024 := hmax
  have hl : s1.ledger = _ := s.addClosed_ledger r
  have hexec : exec .ledgerPeriodClose s = .next ((s1.modStore (fun st => { st with queue := st.queue ++ [{ kind := .ledgerRecord }] })).openPeriod e) :=
    if_pos ⟨hperiod, hrun, hdue⟩
  have hring : s1.ledger.ring = (if decide (1024 ≤ l.length) = true then l.tail else l) ++ [r] := by rw [hl]
  have hlost : s1.ledger.overwritten = _ := congrArg LedgerSt.overwritten hl
  refine ⟨_, hexec, ?_, rfl, ?_, rfl, fun p hp => ?_, ?_, fun hroom => ?_, fun o rs hor hfull => ?_, r, ?_, rfl, rfl, rfl, rfl, rfl, ?_⟩
  · show s1.ledger.openSeq + 1 = _
    rw [hl]
  · show s1.ledger.period = _
    rw [hl]
  · obtain ⟨y, -, rfl⟩ := List.mem_map.mp (show p ∈ remainders s1.ledger.ctrs from hp)
    exact ⟨rfl, rfl, rfl, rfl, rfl, Nat.mod_lt _ (by decide)⟩
  · show s1.ledger.ring.length = min (l.length + 1) 1024
    rw [hring]
    by_cases h : 1024 ≤ l.length
    · rw [if_pos (decide_eq_true h), List.length_append, List.length_tail, List.length_singleton]
      omega
    · rw [if_neg (by simpa using h), List.length_append, List.length_singleton]
      omega
  · have hno : ¬ (1024 ≤ l.length) := Nat.not_le.mpr hroom
    refine ⟨?_, fun x hx => ?_⟩
    · show s1.ledger.overwritten = _
      rw [hlost, decide_eq_false hno]
      rfl
    · show x ∈ s1.ledger.ring
      rw [hring, if_neg (by simpa using hno)]
      exact List.mem_append_left _ hx
  · show s1.ledger.overwritten = _
    rw [hlost, decide_eq_true (show 1024 ≤ s.ledger.ring.length by omega), hor]
    simp only [List.head?_cons, Bool.true_and, decide_eq_true_eq]
  · show s1.ledger.ring.getLast? = some r
    rw [hring, List.getLast?_concat]
  · show bit (s.ledger.flags % 2 + 2 * b2n false) 1 = false
    rcases Nat.mod_two_eq_zero_or_one s.ledger.flags with h | h <;> rw [h] <;> rfl

theorem errorLogFlush_holds : errorLogFlush := by
  intro s hlive
  refine ⟨fun hnone => if_neg (fun h => h.2 hnone), fun hsome => ⟨_, if_pos ⟨hlive, hsome⟩, rfl, rfl, ?_, ?_⟩⟩
  · exact List.mem_append_right _ (List.mem_singleton_self _)
  · dsimp only [State.modStore, State.modErrs]
    exact keeps_last s.errs.ring s.errs.staging 65536

theorem errSelHiWrite_holds : errSelHiWrite := by
  intro v s hopen
  have of_seq {r : ErrRec} (hr : s.errs.ring.find? (fun r => r.seq == join32 s.errs.selLo v) = some r) : r.seq = join32 s.errs.selLo v := by
    simpa using List.find?_some hr
  refine ⟨_, congrArg Host.Outcome.next (if_pos hopen), rfl, fun r hr => ⟨List.mem_of_find?_eq_some hr, of_seq hr⟩, fun hnone => ⟨fun r hr => ?_, fun k hk => ?_⟩⟩
  · exact fun h => List.find?_eq_none.mp hnone r hr (beq_iff_eq.mpr h)
  · exact State.readErr_record hnone hk

theorem errIrqVecWrite_holds : errIrqVecWrite := by
  intro v s hopen
  have hexec : exec (.errIrqVecWrite v) s = .next (if 256 < v.toNat % 512 then s.refuse 0x109018 stInvalidField
      else s.modErrs (fun e => { e with vec := v &&& 0x800001FF })) := congrArg Host.Outcome.next (if_pos hopen)
  exact ⟨fun h => hexec.trans (congrArg Host.Outcome.next (if_neg (Nat.not_lt.mpr h))),
    fun h => refuses_of (hexec.trans (congrArg Host.Outcome.next (if_pos h))) (by decide)⟩

theorem ledgSelHiWrite_holds : ledgSelHiWrite := by
  intro v s hopen
  have of_seq {r : Closed} (hr : s.ledger.ring.find? (fun r => r.seq == join32 s.ledger.selLo v) = some r) : r.seq = join32 s.ledger.selLo v := by
    simpa using List.find?_some hr
  refine ⟨_, congrArg Host.Outcome.next (if_pos hopen), rfl, fun r hr => ⟨List.mem_of_find?_eq_some hr, of_seq hr⟩, fun hnone r hr => ?_⟩
  exact fun h => List.find?_eq_none.mp hnone r hr (beq_iff_eq.mpr h)

theorem ledgCtxSelWrite_holds : ledgCtxSelWrite := fun _ _ hopen => congrArg Host.Outcome.next (if_pos hopen)

theorem ledgAckWrite_holds : ledgAckWrite := by
  intro v s hopen n closed
  have hexec : exec (.ledgAckWrite v) s = .next (if s.ledger.newest < n then s.refuse 0x10A01C stInvalidField
      else s.modLedger (fun l => { l with ack := max l.ack n })) := congrArg Host.Outcome.next (if_pos hopen)
  have hclosed : n ≤ s.ledger.newest ↔ closed := by
    unfold LedgerSt.newest
    rw [le_foldl_max, Nat.le_zero_eq]
    simp only [List.mem_map, exists_exists_and_eq_and]
    rfl
  exact ⟨fun h => hexec.trans (congrArg Host.Outcome.next (if_neg (Nat.not_lt.mpr (hclosed.mpr h)))),
    fun h => refuses_of (hexec.trans (congrArg Host.Outcome.next (if_pos (Nat.not_le.mp (fun hc => h (hclosed.mp hc)))))) (by decide)⟩

theorem ledgPeriodWrite_holds : ledgPeriodWrite := by
  intro v s hopen
  have hexec : exec (.ledgPeriodWrite v) s = .next (if v.toNat < 60 ∨ 2678400 < v.toNat then s.refuse 0x10A000 stInvalidField
      else s.modLedger (fun l => { l with period := v.toNat })) := congrArg Host.Outcome.next (if_pos hopen)
  exact ⟨fun h1 h2 => hexec.trans (congrArg Host.Outcome.next (if_neg (by omega))),
    fun h => refuses_of (hexec.trans (congrArg Host.Outcome.next (if_pos h))) (by decide)⟩

/-- Settles O33. -/
theorem errorLogAndLedger : Obligations.ErrorLogAndLedger :=
  ⟨ledgerPeriodClose_holds, errorLogFlush_holds, errSelHiWrite_holds, errIrqVecWrite_holds, ledgSelHiWrite_holds, ledgCtxSelWrite_holds, ledgAckWrite_holds,
    ledgPeriodWrite_holds⟩

end Sys2Proof.Proofs

/-! The self-tests, and what the drive moves by itself: O34 and O35. -/

namespace Sys2Proof.Machine
-- One thread elaborates these proofs: in parallel they ask for more stacks than the check allows.
set_option Elab.async false
open Sys2Proof.Claims

/-! ### Verdicts -/

/-- An error that merges with no other stands in the staging buffer, with every record before it (R433). -/
theorem State.logErr_staged {s : State} {a : ErrArg} (hk : 2 < a.kind) (hroom : s.errs.staging.length < 256) :
    (s.logErr a).errs.staging = s.errs.staging ++ [a.toRec s.errs.next s.time.now (s.stampFlags a.region)] := by
  have hjoin : ¬ s.joinsNewest a := by
    rintro ⟨r, -, h, -⟩
    have := ((ErrArg.joins_iff a r).mp h).1
    omega
  rw [State.logErr_of_room hjoin hroom, State.raiseNew_errs]
  rfl

/-- The verdict of a test stands in the log (R149, R150). -/
theorem State.logVerdict_staged {s : State} (x : TestSt) {k : Nat} (hk : 2 < k) (hroom : s.errs.staging.length < 256) :
    ∃ r : ErrRec, (s.logVerdict x k).errs.staging = s.errs.staging ++ [r] ∧ r.cls = x.cls ∧ r.kind = k ∧ r.unit = unitOf x.kind x.index :=
  ⟨_, State.logErr_staged (s := s) (a := { cls := x.cls, kind := k, unit := unitOf x.kind x.index, detail := x.errSeq % 2 ^ 32 }) hk hroom, rfl, rfl, rfl⟩

/-- What the verdict on the only test does before a unit is retired or serves again: it is logged and counted, and the test is over. -/
def State.judged (s : State) (x : TestSt) (lasting : Bool) : State :=
  ({ s with
    tests := s.tests.filter (fun t => !(t.kind == x.kind && t.index == x.index))
    verdicts := if lasting then s.verdicts else s.verdicts ++ [(x.kind, x.index, s.power.onTime)]
    verdictCtrs := tmod (0, 0) s.verdictCtrs (unitOf x.kind x.index) (fun v => if lasting then (satAdd 16 v.1 1, v.2) else (v.1, satAdd 16 v.2 1)) }
    |>.modNvme (fun n => { n with idleSince := s.time.now })).logVerdict x (if lasting then 4 else 3)

theorem exec_selfTestVerdict {s : State} {x : TestSt} {repro axis : Nat} (hlive : s.live = true) (htests : s.tests = [x]) (hrun : x.running = true)
    (hkind : takesArray x.kind = true) {lasting : Bool} (hlasting : decide (0 < repro ∨ 3 ≤ s.earlier x.kind x.index) = lasting) :
    exec (.selfTestVerdict x.kind x.index repro axis) s =
      .next (State.noteCritical s ((if lasting = true then (s.judged x lasting).retireUnit x axis else s.judged x lasting).returnArray x.index)) := by
  have hfind : s.tests.find? (fun t => t.kind == x.kind && t.index == x.index && t.running) = some x := by
    rw [htests]
    simp [hrun]
  show execSelfTestVerdict x.kind x.index repro axis s = _
  unfold execSelfTestVerdict
  rw [hfind]
  dsimp only
  rw [if_neg (by simp [hlive]), hlasting, if_pos hkind]
  rfl

section
variable {s : State} {x : TestSt} (lasting : Bool)

theorem State.judged_frame : Frame [.tests, .verdicts, .verdictCtrs, .nvme, .errs, .mgmt] s (s.judged x lasting) :=
  Frame.after (t := { s with
    tests := s.tests.filter (fun t => !(t.kind == x.kind && t.index == x.index))
    verdicts := if lasting then s.verdicts else s.verdicts ++ [(x.kind, x.index, s.power.onTime)]
    verdictCtrs := tmod (0, 0) s.verdictCtrs (unitOf x.kind x.index) (fun v => if lasting then (satAdd 16 v.1 1, v.2) else (v.1, satAdd 16 v.2 1)) }
    |>.modNvme (fun n => { n with idleSince := s.time.now }))
    ⟨fun c hc => by cases c <;> first | rfl | exact absurd (by decide) hc⟩ (State.logVerdict_frame _ _ _) (by decide)

theorem State.judged_tests (h : s.tests = [x]) : (s.judged x lasting).tests = [] := by
  refine (State.logVerdict_frame _ _ _).tests_eq.trans ?_
  show s.tests.filter _ = []
  rw [h]
  simp

theorem State.judged_verdicts : (s.judged x lasting).verdicts = if lasting then s.verdicts else s.verdicts ++ [(x.kind, x.index, s.power.onTime)] :=
  (State.logVerdict_frame _ _ _).verdicts_eq

theorem State.judged_counts : tget (0, 0) (s.judged x lasting).verdictCtrs (unitOf x.kind x.index) =
    if lasting then (satAdd 16 (tget (0, 0) s.verdictCtrs (unitOf x.kind x.index)).1 1, (tget (0, 0) s.verdictCtrs (unitOf x.kind x.index)).2)
    else ((tget (0, 0) s.verdictCtrs (unitOf x.kind x.index)).1, satAdd 16 (tget (0, 0) s.verdictCtrs (unitOf x.kind x.index)).2 1) := by
  have h : (s.judged x lasting).verdictCtrs = _ := (State.logVerdict_frame _ _ _).verdictCtrs_eq
  rw [h]
  exact tget_tset_same _ _ _ _

theorem State.judged_staged (hroom : s.errs.staging.length < 256) : ∃ r : ErrRec, (s.judged x lasting).errs.staging = s.errs.staging ++ [r] ∧
    r.cls = x.cls ∧ r.kind = (if lasting then 4 else 3) ∧ r.unit = unitOf x.kind x.index :=
  State.logVerdict_staged x (by cases lasting <;> decide) hroom

/-- An array under test whose last test is over serves again. -/
theorem State.returnArray_serves {a : Nat} (ht : s.tests = []) (hs : (s.arr a).state = 1) : s.returnArray a = s.modArr a (fun x => { x with state := 0 }) :=
  if_pos ⟨hs, by rw [ht]; rfl⟩

end

end Sys2Proof.Machine

namespace Sys2Proof.Proofs
-- One thread elaborates these proofs: in parallel they ask for more stacks than the check allows.
set_option Elab.async false
open Sys2Proof.Machine Sys2Proof.Claims

/-! ### Self-tests -/

theorem mxaTestStart_holds : mxaTestStart := by
  intro a v s hopen ha hbit busy
  have hexec : exec (.mxaTestStart a v) s = .next (s.writeTest a v) := congrArg Host.Outcome.next (if_pos ⟨hopen, ha⟩)
  have hbusy : (bit v.toNat 0 = false ∨ (s.arr a).state = 2 ∨ (s.tests.any (fun t => takesArray t.kind && t.index == a && t.running)) = true) ↔ busy := by
    simp only [hbit, Bool.true_eq_false, false_or, List.any_eq_true, Bool.and_eq_true, beq_iff_eq, takesArray, decide_eq_true_eq, and_assoc]
    simp only [busy, and_assoc]
  refine ⟨fun h => ?_, fun h => hexec.trans (congrArg Host.Outcome.next (if_pos (hbusy.mpr h)))⟩
  have hexec' := hexec.trans (congrArg Host.Outcome.next (if_neg (fun hc => h (hbusy.mp hc))))
  refine ⟨_, hexec', ?_, fun x hx => ?_, ?_⟩
  · unfold State.startTest
    split <;> rfl
  · unfold State.startTest
    split
    · exact hx
    · exact List.mem_append_left _ hx
  · unfold State.startTest
    split
    · next hany =>
      obtain ⟨x, hx, hkx⟩ := List.any_eq_true.mp hany
      simp only [Bool.and_eq_true, beq_iff_eq] at hkx
      refine ⟨x, hx, hkx.1, hkx.2, Bool.eq_false_iff.mpr (fun hr => h (.inr ⟨x, hx, ?_, hkx.2, hr⟩))⟩
      omega
    · exact ⟨_, List.mem_append_right _ (List.mem_singleton_self _), rfl, rfl, rfl⟩

theorem targetedSelfTest_holds : targetedSelfTest := by
  intro k a s hlive h1 h3 ha hdue free
  obtain ⟨x, hx, hkx, hix, hrx⟩ := hdue
  obtain ⟨y, hy⟩ : ∃ y, s.tests.find? (fun t => t.kind == k && t.index == a && !t.running) = some y :=
    Option.isSome_iff_exists.mp (List.find?_isSome.mpr ⟨x, hx, by simp [hkx, hix, hrx]⟩)
  let f (x : ArraySt) : ArraySt := { x with state := 1, staged := none }
  let s1 := (s.modArr a f).modTest k a (fun t => { t with running := true })
  have hexec : exec (.targetedSelfTest k a) s = if a < 16 ∧ (s.arr a).state ≠ 2 ∧ (s.arr a).inflight = [] ∧ (s.arr ((a + 8) % 16)).state ≠ 1 then
      .next (match (s.arr a).staged with | some u => s1.refresh u.1 | none => s1) else .next s := by
    show execTargetedSelfTest k a s = _
    unfold execTargetedSelfTest
    rw [hy]
    exact (if_neg (by simp [hlive])).trans (if_pos (decide_eq_true ⟨h1, h3⟩))
  refine ⟨fun hfree => ?_, fun hbusy => hexec.trans (if_neg (fun h => hbusy h.2))⟩
  have hframe : Frame [.cmds] s1 (match (s.arr a).staged with | some u => s1.refresh u.1 | none => s1) := by
    split
    · exact State.refresh_frame _ _
    · exact Frame.refl _ _
  refine ⟨_, hexec.trans (if_pos ⟨ha, hfree⟩), ?_, fun b hb => ?_, hframe.tests_eq⟩
  · exact (State.arr_of_arrays (s := s.modArr a f) hframe.arrays_eq a).trans (s.arr_modArr a f)
  · exact (State.arr_of_arrays (s := s.modArr a f) hframe.arrays_eq b).trans (s.arr_modArr_other f hb)

theorem selfTestVerdict_holds : selfTestVerdict := by
  intro a repro axis x s hlive ha htests hkind hindex hrun hstate hroom told
  subst hindex
  have htakes : takesArray x.kind = true := by rw [hkind]; rfl
  have hframe (b : Bool) := State.judged_frame (s := s) (x := x) b
  have harr (b : Bool) : (s.judged x b).arr x.index = s.arr x.index := State.arr_of_arrays (hframe b).arrays_eq _
  have hnote (u : State) : Frame [.nvme, .mgmt] u (State.noteCritical s u) := State.noteCritical_frame s u
  have hexec {b : Bool} (hb : decide (0 < repro ∨ 3 ≤ s.earlier 1 x.index) = b) := exec_selfTestVerdict (axis := axis) hlive htests hrun htakes
    (show decide (0 < repro ∨ 3 ≤ s.earlier x.kind x.index) = b by rw [hkind]; exact hb)
  rw [hkind] at hexec
  refine ⟨fun hrepro hfew => ?_, fun hlasting haxis hspare => ?_, fun hlasting haxis hspare => ?_⟩
  · have hexec := hexec (decide_eq_false (show ¬ (0 < repro ∨ 3 ≤ s.earlier 1 x.index) by omega))
    let s2 := s.judged x false
    rw [if_neg Bool.false_ne_true, State.returnArray_serves (State.judged_tests false htests) ((congrArg ArraySt.state (harr false)).trans hstate)] at hexec
    obtain ⟨r, hstaged, hr⟩ := State.judged_staged (x := x) false (show s.errs.staging.length < 256 by omega)
    let f (x : ArraySt) : ArraySt := { x with state := 0 }
    have hn := hnote (s2.modArr x.index f)
    refine ⟨_, hexec, hn.tests_eq.trans (State.judged_tests false htests), ⟨r, ?_, ?_⟩, ?_, ?_, ?_⟩
    · rw [show (State.noteCritical s (s2.modArr x.index f)).errs = s2.errs from hn.errs_eq, hstaged]
      exact List.mem_append_right _ (List.mem_singleton_self _)
    · exact ⟨hr.1, hr.2.1, hkind ▸ hr.2.2⟩
    · rw [State.arr_of_arrays hn.arrays_eq, s2.arr_modArr]
    · exact hn.verdicts_eq.trans ((State.judged_verdicts false).trans (by rw [hkind]; rfl))
    · have := State.judged_counts (s := s) (x := x) false
      rw [hkind] at this
      rw [show (State.noteCritical s (s2.modArr x.index f)).verdictCtrs = s2.verdictCtrs from hn.verdictCtrs_eq, this]
      rfl
  all_goals
    subst haxis
    have hexec := hexec (decide_eq_true hlasting)
    let s2 := s.judged x true
    let s3 := (s2.modStore (fun st => { st with retired := st.retired ++ [(x.kind, x.index)] })).logVerdict x 6
    have h3 : Frame [.store, .errs, .mgmt] s2 s3 := (State.modStore_frame _ _).mono (m := [.store]) (by decide) |>.after (State.logVerdict_frame _ _ _) (by decide)
    have harr3 : s3.arr x.index = s.arr x.index := (State.arr_of_arrays h3.arrays_eq _).trans (harr true)
    have htests3 : s3.tests = [] := h3.tests_eq.trans (State.judged_tests true htests)
    have hunit : s2.retireUnit x 0 = if (s2.arr x.index).spareRows < 3 then s3.modArr x.index (fun x => { x with spareRows := x.spareRows + 1 }) else s3.retireArray x.index :=
      (if_pos hkind).trans (if_pos rfl)
    rw [if_pos rfl, hunit, harr true] at hexec
  · let f (x : ArraySt) : ArraySt := { x with spareRows := x.spareRows + 1 }
    let g (x : ArraySt) : ArraySt := { x with state := 0 }
    let s4 := s3.modArr x.index f
    have harr4 : s4.arr x.index = f (s.arr x.index) := (s3.arr_modArr _ f).trans (congrArg f harr3)
    rw [if_pos hspare, State.returnArray_serves (s := s4) htests3 ((congrArg ArraySt.state harr4).trans hstate)] at hexec
    obtain ⟨r, hstaged, hcls, hk, hunit⟩ := State.judged_staged (x := x) true (show s.errs.staging.length < 256 by omega)
    obtain ⟨r', hstaged', hcls', hk', hunit'⟩ := State.logVerdict_staged (s := s2.modStore (fun st => { st with retired := st.retired ++ [(x.kind, x.index)] }))
      x (k := 6) (by decide) (by
        show s2.errs.staging.length < 256
        rw [hstaged, List.length_append, List.length_singleton]
        omega)
    have hn := hnote (s4.modArr x.index g)
    have hstaging : (State.noteCritical s (s4.modArr x.index g)).errs.staging = s.errs.staging ++ [r] ++ [r'] := by
      rw [show (State.noteCritical s (s4.modArr x.index g)).errs = s3.errs from hn.errs_eq, hstaged']
      exact congrArg (· ++ [r']) hstaged
    refine ⟨_, hexec, hn.tests_eq.trans htests3, ⟨r, ?_, hcls, hk, hkind ▸ hunit⟩, ⟨r', ?_, hcls', hk', hkind ▸ hunit'⟩, ?_, ?_, ?_⟩
    · rw [hstaging]
      exact List.mem_append_left _ (List.mem_append_right _ (List.mem_singleton_self _))
    · rw [hstaging]
      exact List.mem_append_right _ (List.mem_singleton_self _)
    · rw [State.arr_of_arrays hn.arrays_eq, s4.arr_modArr, harr4]
    · exact hn.verdicts_eq.trans (h3.verdicts_eq.trans (State.judged_verdicts true))
    · have hcounts := State.judged_counts (s := s) (x := x) true
      rw [hkind] at hcounts
      rw [show (State.noteCritical s (s4.modArr x.index g)).verdictCtrs = s2.verdictCtrs from hn.verdictCtrs_eq.trans h3.verdictCtrs_eq, hcounts]
      rfl
  · rw [if_neg (Nat.not_lt.mpr hspare)] at hexec
    have hgone : ((s3.retireArray x.index).arr x.index).state = 2 := retireArray_state s3 x.index
    rw [show (s3.retireArray x.index).returnArray x.index = s3.retireArray x.index from if_neg (fun h => by rw [hgone] at h; omega)] at hexec
    have hn := hnote (s3.retireArray x.index)
    exact ⟨_, hexec, hn.tests_eq.trans ((State.retireArray_frame s3 x.index).tests_eq.trans htests3), by rw [State.arr_of_arrays hn.arrays_eq, hgone]⟩

/-- Settles O34. -/
theorem selfTests : Obligations.SelfTests := ⟨mxaTestStart_holds, targetedSelfTest_holds, selfTestVerdict_holds⟩

/-! ### Migrations -/

theorem migrationStart_holds : migrationStart := by
  intro o p tier x g s hlive hx hg hkind hvol hmax hne hmoving hlost hnames hroom
  let y : ObjectSt := { x with pageTab := tset x.pageTab p { g with moving := some tier } }
  have hexec : exec (.migrationStart o p tier) s = .next (s.setObj o y) := by
    show execMigrationStart o p tier s = _
    unfold execMigrationStart
    rw [hx]
    dsimp only
    rw [hg]
    exact if_pos ⟨hlive, hkind, hvol, hmax, hne, hmoving, hlost, hnames, hroom⟩
  exact ⟨_, y, hexec, ⟨State.obj_setObj s o y, fun q hq => State.obj_setObj_other s y hq⟩, tfind_tset_same _ _ _, ObjectSt.byte_of rfl rfl,
    fun q hq => tfind_tset_other _ _ hq⟩

theorem migrationSwitch_holds : migrationSwitch := by
  intro o p tier x g s hlive hx hg hmoving hnames
  let d := if (diesFor x.word p).contains g.die then g.die else (diesFor x.word p).headD 0
  let g' : PageSt := { g with tier := tier, die := d, moving := none }
  let y : ObjectSt := { x with pageTab := tset x.pageTab p g' }
  have hexec : exec (.migrationSwitch o p) s = .next (s.setObj o y) := by
    show execMigrationSwitch o p s = _
    unfold execMigrationSwitch
    rw [hx]
    dsimp only
    rw [hg]
    dsimp only
    rw [hmoving]
    exact congrArg Host.Outcome.next (if_pos ⟨hlive, hnames⟩)
  exact ⟨_, y, g', hexec, ⟨State.obj_setObj s o y, fun q hq => State.obj_setObj_other s y hq⟩, tfind_tset_same _ _ _, rfl, rfl, ObjectSt.byte_of rfl rfl,
    fun q hq => tfind_tset_other _ _ hq⟩

theorem speculativeReadIssue_holds : speculativeReadIssue := by
  intro uid o p h c m x g s hlive hc hnone hblocked hh hm ho hx hkind hmark hg htier hlost hcopies hhome hahead hroom
  let g' : PageSt := { g with copies := [{ tier := 1, die := g.die, gen := g.gen, spec := true }] }
  let y : ObjectSt := { x with pageTab := tset x.pageTab p g' }
  have hnamed : c.handles.any (fun h => match tfind (s.ctx c.e.ctx).handles h with | some m => m.obj == o | none => false) = true :=
    List.any_eq_true.mpr ⟨h, hh, by rw [hm]; exact beq_iff_eq.mpr ho⟩
  have hexec : exec (.speculativeReadIssue uid o p) s = .next (s.setObj o y) := by
    show execSpeculativeReadIssue uid o p s = _
    unfold execSpeculativeReadIssue
    rw [hc, hx]
    dsimp only
    rw [hg]
    dsimp only
    rw [if_pos hhome, hcopies]
    exact if_pos ⟨hlive, hnone, hblocked, hnamed, htier, hlost, hmark, rfl, hahead, (if_pos rfl).trans hroom, hkind⟩
  exact ⟨_, y, hexec, ⟨State.obj_setObj s o y, fun q hq => State.obj_setObj_other s y hq⟩, tfind_tset_same _ _ _, ObjectSt.byte_of rfl rfl,
    fun q hq => tfind_tset_other _ _ hq, rfl⟩

theorem patrolScrub_holds : patrolScrub := by
  intro stack bank s hlive hstack hbank
  refine ⟨_, congrArg Host.Outcome.next (if_pos ⟨hlive, hstack, hbank⟩), rfl, ?_⟩
  exact (tget_tset_other _ _ _ (by omega)).trans (tget_tset_same _ _ _ _)

/-- Settles O35. -/
theorem migrations : Obligations.Migrations := ⟨migrationStart_holds, migrationSwitch_holds, speculativeReadIssue_holds, patrolScrub_holds⟩

end Sys2Proof.Proofs

/-! The arrays: the pick, O36. -/

namespace Sys2Proof.Machine
-- One thread elaborates these proofs: in parallel they ask for more stacks than the check allows.
set_option Elab.async false
open Sys2Proof.Claims

/-! ### The older of two commands -/

theorem older_iff (x y : Cmd) : older x y = true ↔
    x.fetched < y.fetched ∨ (x.fetched = y.fetched ∧ (x.e.ctx < y.e.ctx ∨ (x.e.ctx = y.e.ctx ∧ x.uid ≤ y.uid))) := by
  simp [older]

theorem older_refl (x : Cmd) : older x x = true := by
  rw [older_iff]
  omega

theorem older_trans {x y z : Cmd} (h : older x y = true) (h' : older y z = true) : older x z = true := by
  rw [older_iff] at *
  omega

theorem older_total {x y : Cmd} (h : ¬ older x y = true) : older y x = true := by
  rw [older_iff] at *
  omega

/-- R185: the oldest command of a list is in it, and no other one of it is older. -/
theorem oldest_spec {l : List Cmd} {c : Cmd} (h : oldest l = some c) : c ∈ l ∧ ∀ d ∈ l, older c d = true := by
  induction l generalizing c with
  | nil => cases h
  | cons x l ih =>
    unfold oldest at h
    cases ho : oldest l with
    | none =>
      rw [ho] at h
      obtain rfl := Option.some.inj h
      have hnil : l = [] := by
        cases l with
        | nil => rfl
        | cons y l =>
          unfold oldest at ho
          split at ho
          · cases ho
          · split at ho <;> cases ho
      subst hnil
      exact ⟨List.mem_singleton_self _, fun d hd => List.mem_singleton.mp hd ▸ older_refl _⟩
    | some y =>
      rw [ho] at h
      obtain ⟨hy, hall⟩ := ih ho
      dsimp only at h
      split at h
      · next hxy =>
        obtain rfl := Option.some.inj h
        refine ⟨List.mem_cons_self, fun d hd => ?_⟩
        rcases List.mem_cons.mp hd with rfl | hd
        · exact older_refl _
        · exact older_trans hxy (hall d hd)
      · next hxy =>
        obtain rfl := Option.some.inj h
        refine ⟨List.mem_cons_of_mem _ hy, fun d hd => ?_⟩
        rcases List.mem_cons.mp hd with rfl | hd
        · exact older_total hxy
        · exact hall d hd

theorem oldest_isSome {l : List Cmd} {d : Cmd} (h : d ∈ l) : ∃ c, oldest l = some c := by
  cases l with
  | nil => cases h
  | cons x l =>
    unfold oldest
    split
    · exact ⟨_, rfl⟩
    · split <;> exact ⟨_, rfl⟩

/-! ### Commands that do not move by themselves, and do not begin to -/

/-- No pending command is blocked or waits for others to be DONE, and no queue shows a malformed entry next. -/
def State.atRest (s : State) : Prop := (∀ c ∈ s.cmds, isWaiter c.body = false ∧ (c.status = none → c.st ≠ .blocked)) ∧
  ∀ (n k : Nat) (x : QueueSt), tfind (s.ctx n).queues k = some x → ∀ raw : List Byte, x.avail.head? = some raw → malformed raw = false

theorem State.atRest_of {s : State} (h : s.calm) (hw : noWaiter s) : s.atRest := ⟨fun c hc => ⟨hw c hc, fun hn => (h.1 c hc hn).1⟩, h.2⟩

theorem State.atRest.rest {s : State} (h : s.atRest) : s.settle.recheck = s :=
  State.calm_rest ⟨fun c hc hn => ⟨(h.1 c hc).2 hn, fun _ => (h.1 c hc).1⟩, h.2⟩

theorem State.atRest.of_cmds {s t : State} (h : s.atRest) (hc : t.cmds = s.cmds) (hq : ∀ n : Nat, (t.ctx n).queues = (s.ctx n).queues) : t.atRest :=
  ⟨fun c hm => h.1 c (hc ▸ hm), fun n k x hx => h.2 n k x (hq n ▸ hx)⟩

theorem State.atRest.frame {s t : State} {cs : List Comp} (h : s.atRest) (hf : Frame cs s t) (hc : Comp.cmds ∉ cs := by decide)
    (hx : Comp.ctxs ∉ cs := by decide) : t.atRest :=
  h.of_cmds (hf.same .cmds hc) (fun n => congrArg Context.queues (State.ctx_of_ctxs (hf.same .ctxs hx) n))

/-- A change of commands that leaves their bodies and their statuses, and blocks none. -/
def Cmd.goesOn (c d : Cmd) : Prop := d.uid = c.uid ∧ d.e = c.e ∧ d.body = c.body ∧ d.status = c.status ∧ (c.st ≠ .blocked → d.st ≠ .blocked)

theorem Cmd.goesOn_refl (c : Cmd) : c.goesOn c := ⟨rfl, rfl, rfl, rfl, id⟩

theorem State.atRest.modCmd {s : State} (h : s.atRest) (u : Nat) {f : Cmd → Cmd} (hf : ∀ c ∈ s.cmds, c.uid = u → c.goesOn (f c)) : (s.modCmd u f).atRest := by
  refine ⟨fun d hd => ?_, h.2⟩
  obtain ⟨c, hc, rfl⟩ := List.mem_map.mp hd
  split
  · next hu =>
    obtain ⟨-, -, hbody, hstatus, hst⟩ := hf c hc hu
    rw [hbody, hstatus]
    exact ⟨(h.1 c hc).1, fun hn => hst ((h.1 c hc).2 hn)⟩
  · exact h.1 c hc

/-- Entries set alike one after the other. -/
theorem tfind_foldl_tset {α : Type} (l : List Nat) (v : α) (t : Table α) (k : Nat) :
    tfind (l.foldl (fun t k => tset t k v) t) k = if k ∈ l then some v else tfind t k := by
  induction l generalizing t with
  | nil => rfl
  | cons x l ih =>
    rw [List.foldl_cons, ih]
    by_cases hk : k = x
    · subst hk
      simp [tfind_tset_same]
    · simp [tfind_tset_other _ _ hk, hk]

/-! ### One command among the commands -/

theorem State.cmd?_modCmd {s : State} {u : Nat} {c : Cmd} {f : Cmd → Cmd} (hf : ∀ d : Cmd, d.uid = u → (f d).uid = u) (h : s.cmd? u = some c) :
    (s.modCmd u f).cmd? u = some (f c) := by
  have hc : c.uid = u := by simpa using List.find?_some h
  unfold State.cmd? at h ⊢
  show (s.cmds.map _).find? _ = _
  rw [List.find?_map]
  have hcomp : ((fun d : Cmd => d.uid == u) ∘ fun d : Cmd => if d.uid = u then f d else d) = fun d : Cmd => d.uid == u := by
    funext d
    dsimp only [Function.comp]
    split
    · next hd => simp [hd, hf d hd]
    · rfl
  rw [hcomp, h, Option.map_some, if_pos hc]

theorem State.cmd?_modCmd_other {s : State} {u v : Nat} {f : Cmd → Cmd} (hf : ∀ d : Cmd, d.uid = v → (f d).uid = v) (h : u ≠ v) :
    (s.modCmd v f).cmd? u = s.cmd? u := by
  unfold State.cmd?
  show (s.cmds.map _).find? _ = _
  rw [List.find?_map]
  have hcomp : ((fun d : Cmd => d.uid == u) ∘ fun d : Cmd => if d.uid = v then f d else d) = fun d : Cmd => d.uid == u := by
    funext d
    dsimp only [Function.comp]
    split
    · next hd => rw [hf d hd, hd]
    · rfl
  rw [hcomp]
  cases hfind : s.cmds.find? (fun d => d.uid == u) with
  | none => rfl
  | some d =>
    have hd : d.uid = u := by simpa using List.find?_some hfind
    rw [Option.map_some, if_neg (by omega)]

theorem State.cmd?_mem {s : State} {u : Nat} {c : Cmd} (h : s.cmd? u = some c) : c ∈ s.cmds ∧ c.uid = u :=
  ⟨List.mem_of_find?_eq_some h, by simpa using List.find?_some h⟩

/-- Of a command whose state is made anew only the state and its time change. -/
theorem State.refresh_eq (s : State) (v : Nat) : ∃ (g : Cmd → CmdState × Nat), s.refresh v = s.modCmd v (fun c => { c with st := (g c).1, queuedAt := (g c).2 }) ∧
    ∀ c : Cmd, c.st ≠ .blocked → (g c).1 ≠ .blocked := by
  unfold State.refresh
  have hsame : s = s.modCmd v (fun c => { c with st := c.st, queuedAt := c.queuedAt }) := by
    show s = { s with cmds := s.cmds.map _ }
    rw [List.map_congr_left (g := id) (fun c _ => by dsimp only; split <;> rfl), List.map_id]
  split
  · exact ⟨fun c => (c.st, c.queuedAt), hsame, fun _ h => h⟩
  · next c _ =>
    split
    · exact ⟨fun c => (c.st, c.queuedAt), hsame, fun _ h => h⟩
    · refine ⟨fun d => (s.runState c, if (decide (s.runState c = .queued) && decide (c.st ≠ .queued ∧ c.st ≠ .staged)) = true then s.time.now else d.queuedAt), rfl, fun _ _ => ?_⟩
      unfold State.runState
      split
      · nofun
      · split
        · nofun
        · split <;> nofun

theorem State.atRest.refresh {s : State} (h : s.atRest) (v : Nat) : (s.refresh v).atRest := by
  obtain ⟨g, hg, hb⟩ := s.refresh_eq v
  rw [hg]
  exact h.modCmd v (fun c _ _ => ⟨rfl, rfl, rfl, rfl, hb c⟩)

theorem State.cmd?_refresh {s : State} {u : Nat} {c : Cmd} (v : Nat) (h : s.cmd? u = some c) :
    ∃ (st : CmdState) (q : Nat), (s.refresh v).cmd? u = some { c with st := st, queuedAt := q } := by
  obtain ⟨g, hg, -⟩ := s.refresh_eq v
  rw [hg]
  by_cases huv : u = v
  · subst huv
    exact ⟨_, _, State.cmd?_modCmd (fun _ hd => hd) h⟩
  · exact ⟨c.st, c.queuedAt, (State.cmd?_modCmd_other (by exact fun _ hd => hd) huv).trans h⟩

end Sys2Proof.Machine

namespace Sys2Proof.Proofs
-- One thread elaborates these proofs: in parallel they ask for more stacks than the check allows.
set_option Elab.async false
open Sys2Proof.Machine Sys2Proof.Claims

/-! ### The pick -/

/-- Does the next pass of a command on an array run failed rows again? -/
def rerun (s : State) (a : Nat) (c : Cmd) : Bool := match s.nextTile c a with
  | some i => (match c.tiles[i]? with | some t => (match t.todo with | td :: _ => td.rows.isSome | [] => false) | none => false)
  | none => false

theorem rerun_iff (s : State) (a : Nat) (c : Cmd) : rerun s a c = true ↔ rerunsRows s a c := by
  unfold rerun rerunsRows
  constructor
  · intro h
    split at h
    · next i hi =>
      split at h
      · next t ht =>
        split at h
        · next td rest htodo => exact ⟨i, t, td, rest, hi, ht, htodo, h⟩
        · cases h
      · cases h
    · cases h
  · rintro ⟨i, t, td, rest, hi, ht, htodo, h⟩
    rw [hi]
    dsimp only
    rw [ht]
    dsimp only
    rw [htodo]
    exact h

theorem row5_mem {s : State} {a : Nat} {cs : List Cmd} {c : Cmd} (h : s.row5 a cs = some c) : c ∈ cs := by
  unfold State.row5 at h
  exact (List.mem_filter.mp (List.mem_filter.mp (oldest_spec h).1).1).1

theorem turn0_mem {s : State} {a : Nat} {cs : List Cmd} {c : Cmd} (h : s.turn0 a cs = some c) : c ∈ cs := by
  unfold State.turn0 at h
  split at h
  · exact List.mem_of_find?_eq_some h
  · exact (List.mem_filter.mp (oldest_spec h).1).1

theorem pickOrder_holds : pickOrder := by
  intro a c s h
  unfold State.choice at h
  split at h
  · cases h
  · let cs := s.candidates a
    let low := cs.filter (fun c => c.cls != 0 || (match s.turn0 a cs with | some d => d.uid == c.uid | none => false))
    replace h : (match oldest (cs.filter (rerun s a)) with
      | some c => some c
      | none => match (match s.turn0 a cs with | some c => if s.nextWithin c a = true then some c else none | none => none) with
        | some c => some c
        | none => if s.defers a = true then none
          else match oldest (low.filter (fun c => c.aged && c.cls != 0)) with
            | some c => some c
            | none => s.row5 a low) = some c := h
    cases hre : oldest (cs.filter (rerun s a)) with
    | some d =>
      rw [hre] at h
      obtain rfl := Option.some.inj h
      obtain ⟨hmem, hold⟩ := oldest_spec hre
      obtain ⟨hcs, hrun⟩ := List.mem_filter.mp hmem
      refine ⟨hcs, fun e he hr => ⟨(rerun_iff s a d).mp hrun, hold e (List.mem_filter.mpr ⟨he, (rerun_iff s a e).mpr hr⟩)⟩, fun hnone => ?_⟩
      exact absurd ((rerun_iff s a d).mp hrun) (hnone d hcs)
    | none =>
      rw [hre] at h
      have hnore (d : Cmd) (hd : d ∈ cs) : ¬ rerunsRows s a d := fun hr => by
        obtain ⟨x, hx⟩ := oldest_isSome (List.mem_filter.mpr ⟨hd, (rerun_iff s a d).mpr hr⟩)
        rw [hre] at hx
        cases hx
      dsimp only at h
      cases hzero : (match s.turn0 a cs with | some c => if s.nextWithin c a = true then some c else none | none => none) with
      | some d =>
        rw [hzero] at h
        obtain rfl := Option.some.inj h
        obtain ⟨ht, hw⟩ : s.turn0 a cs = some d ∧ s.nextWithin d a = true := by
          split at hzero
          · next x hx =>
            split at hzero
            · next hw =>
              obtain rfl := Option.some.inj hzero
              exact ⟨hx, hw⟩
            · cases hzero
          · cases hzero
        refine ⟨turn0_mem ht, fun e he hr => absurd hr (hnore e he), fun _ => ⟨fun e he _ => Option.some.inj (ht.symm.trans he), fun hall => ?_⟩⟩
        rw [hall d ht] at hw
        cases hw
      | none =>
        rw [hzero] at h
        have hlow (d : Cmd) (hd : d ∈ low) : d ∈ cs := (List.mem_filter.mp hd).1
        dsimp only at h
        split at h
        · cases h
        · next hdefers =>
          have hwithin (d : Cmd) (hd : s.turn0 a cs = some d) : s.nextWithin d a = false := by
            rw [hd] at hzero
            dsimp only at hzero
            split at hzero
            · cases hzero
            · next hw => simpa using hw
          have haged (d : Cmd) (hd : d ∈ cs) (hag : d.aged = true) (hcls : d.cls ≠ 0) : d ∈ low.filter (fun c => c.aged && c.cls != 0) :=
            List.mem_filter.mpr ⟨List.mem_filter.mpr ⟨hd, by simp [hcls]⟩, by simp [hag, hcls]⟩
          have hmem : c ∈ cs ∧ ∀ d ∈ cs, d.aged = true → d.cls ≠ 0 → c.aged = true ∧ c.cls ≠ 0 ∧ older c d = true := by
            cases hold : oldest (low.filter (fun c => c.aged && c.cls != 0)) with
            | some d =>
              rw [hold] at h
              obtain rfl := Option.some.inj h
              obtain ⟨hd, hall⟩ := oldest_spec hold
              obtain ⟨hdl, hda⟩ := List.mem_filter.mp hd
              simp only [Bool.and_eq_true, bne_iff_ne] at hda
              exact ⟨hlow d hdl, fun e he hag hcls => ⟨hda.1, hda.2, hall e (haged e he hag hcls)⟩⟩
            | none =>
              rw [hold] at h
              refine ⟨hlow c (row5_mem h), fun e he hag hcls => ?_⟩
              obtain ⟨x, hx⟩ := oldest_isSome (haged e he hag hcls)
              rw [hold] at hx
              cases hx
          refine ⟨hmem.1, fun e he hr => absurd hr (hnore e he), fun _ => ⟨fun d hd hw => ?_, fun _ => ⟨by simpa using hdefers, hmem.2⟩⟩⟩
          rw [hwithin d hd] at hw
          cases hw

theorem commandAged_holds : commandAged := by
  intro uid c s hlive hc
  have hexec : exec (.commandAged uid) s = .next (if s.live = true ∧ c.st = .queued ∧ c.cls ≠ 0 ∧ c.queuedAt + 50000000 ≤ s.time.now then
      s.modCmd uid (fun c => { c with aged := true }) else s) := by
    show execCommandAged uid s = _
    unfold execCommandAged
    rw [hc]
  refine ⟨fun hst hcls hold => ⟨_, hexec.trans (congrArg Host.Outcome.next (if_pos ⟨hlive, hst, hcls, hold⟩)), rfl, State.cmd?_modCmd (fun _ hd => hd) hc⟩,
    fun h => hexec.trans (congrArg Host.Outcome.next (if_neg (fun ⟨_, hst, hcls, hold⟩ => ?_)))⟩
  rcases h with h | h | h
  · exact h hst
  · exact hcls h
  · omega

/-- What a pick does after the choice: the states of the commands that lost or gained the array are made anew. -/
theorem pick_rest {s : State} {a : Nat} (h : (repick s a).overFails a = none) :
    Frame [.cmds] (State.pickLoop (s.cmds.length + 1) (repick s a) a) (s.pick a) ∧
      ((State.pickLoop (s.cmds.length + 1) (repick s a) a).atRest → (s.pick a).atRest) := by
  let s3 := State.pickLoop (s.cmds.length + 1) (repick s a) a
  let s4 := match (s.arr a).staged with | some u => s3.refresh u.1 | none => s3
  have hpick : s.pick a = match (s4.arr a).staged with | some u => s4.refresh u.1 | none => s4 := by
    unfold State.pick
    extract_lets old s1 s2 s3' s4'
    have hs2 : s2 = repick s a := by
      unfold s2
      rw [show s1.overFails a = none from h]
      rfl
    have hs3 : s3' = s3 := congrArg (fun u => State.pickLoop (s.cmds.length + 1) u a) hs2
    unfold s4'
    rw [hs3] <;> rfl
  have h4 : Frame [.cmds] s3 s4 ∧ (s3.atRest → s4.atRest) := by
    unfold s4
    split
    · exact ⟨State.refresh_frame _ _, fun h => h.refresh _⟩
    · exact ⟨Frame.refl _ _, id⟩
  rw [hpick]
  split
  · exact ⟨h4.1.after (State.refresh_frame _ _) (by decide), fun h => (h4.2 h).refresh _⟩
  · exact h4

theorem passPick_holds : passPick := by
  intro a s hlive ha hcalm hnw hover
  let s1 := repick s a
  have hexec : exec (.passPick a) s = .next (s.pick a).settle.recheck := congrArg Host.Outcome.next (if_pos ⟨hlive, ha⟩)
  have hrest : s1.atRest := (State.atRest_of hcalm hnw).frame (State.modArr_frame s a _)
  obtain ⟨hframe, hkeep⟩ := pick_rest hover
  have harr1 (b : Nat) (hb : b ≠ a) : s1.arr b = s.arr b := s.arr_modArr_other _ hb
  have harr1a : s1.arr a = { s.arr a with staged := none, class0 := (s.holder a).map (·.uid) } := s.arr_modArr a _
  refine ⟨fun hnone => ?_, fun c i x hc hi hx => ?_⟩
  · have hloop : State.pickLoop (s.cmds.length + 1) s1 a = s1 := by
      unfold State.pickLoop
      rw [show s1.choice a = none from hnone]
    rw [hloop] at hframe hkeep
    rw [(hkeep hrest).rest] at hexec
    have harr (b : Nat) : (s.pick a).arr b = s1.arr b := State.arr_of_arrays hframe.arrays_eq b
    refine ⟨_, hexec, ?_, hframe.objs_eq, ?_, ?_, fun b hb => (harr b).trans (harr1 b hb)⟩
    all_goals rw [harr, harr1a]
  · have hloop {t : State} (ht : s1.stage a c i x = .ok t) : State.pickLoop (s.cmds.length + 1) s1 a = t := by
      unfold State.pickLoop
      rw [show s1.choice a = some c from hc]
      dsimp only
      rw [show s1.nextTile c a = some i from hi]
      dsimp only
      rw [hx]
      dsimp only
      rw [ht]
    let put (s : State) : State := s.modArr a (fun x => { x with staged := some (c.uid, i) })
    refine ⟨fun hbegan => ?_, fun y sl hbegan hcheck hslots => ?_⟩
    · have hstage : s1.stage a c i x = .ok (put s1) := if_pos hbegan
      rw [hloop hstage] at hframe hkeep
      rw [(hkeep (hrest.frame (State.modArr_frame s1 a _))).rest] at hexec
      have harr (b : Nat) : (s.pick a).arr b = (put s1).arr b := State.arr_of_arrays hframe.arrays_eq b
      have hput : (put s1).arr a = { s1.arr a with staged := some (c.uid, i) } := s1.arr_modArr a _
      refine ⟨_, hexec, ?_, hframe.objs_eq, ?_, fun b hb => (harr b).trans ((s1.arr_modArr_other _ hb).trans (harr1 b hb))⟩
      · rw [harr, hput]
      · rw [harr, hput, harr1a]
    · let s2 := (s1.renewCopies c x.plan).modTile c.uid i (fun _ => { y with slots := sl })
      let s3 := if s1.reserves c x.plan then s2.modCmd c.uid (fun c => { c with excUsed := c.excUsed + excSize x.plan.rows }) else s2
      let f (x : ArraySt) : ArraySt := { x with slots := sl.foldl (fun tb k => tset tb k (c.uid, i)) x.slots }
      have hstage : s1.stage a c i x = .ok (put (s3.modArr a f)) := by
        unfold State.stage
        dsimp only
        rw [if_neg (by simp [hbegan]), show s1.precheck c x = .ok y from hcheck]
        dsimp only
        rw [show s1.slotsFor c a x.plan.rows = some sl from hslots]
        rfl
      have hrest2 : s2.atRest := (hrest.frame (State.renewCopies_frame s1 c x.plan)).modCmd c.uid (fun c _ _ => ⟨rfl, rfl, rfl, rfl, id⟩)
      have hrest3 : s3.atRest ∧ s3.arrays = s1.arrays := by
        have h2 : s2.arrays = s1.arrays := (State.renewCopies_frame s1 c x.plan).arrays_eq
        unfold s3
        split
        · exact ⟨hrest2.modCmd c.uid (fun c _ _ => ⟨rfl, rfl, rfl, rfl, id⟩), h2⟩
        · exact ⟨hrest2, h2⟩
      rw [hloop hstage] at hframe hkeep
      rw [(hkeep ((hrest3.1.frame (State.modArr_frame s3 a _)).frame (State.modArr_frame (s3.modArr a f) a _))).rest] at hexec
      have harr (b : Nat) : (s.pick a).arr b = (put (s3.modArr a f)).arr b := State.arr_of_arrays hframe.arrays_eq b
      have hput : (s.pick a).arr a = { f (s1.arr a) with staged := some (c.uid, i) } := by
        rw [harr, show (put (s3.modArr a f)).arr a = _ from State.arr_modArr _ a _, State.arr_modArr, State.arr_of_arrays hrest3.2]
      have hfound (k : Nat) : tfind ((s.pick a).arr a).slots k = if k ∈ sl then some (c.uid, i) else tfind (s.arr a).slots k := by
        rw [hput, harr1a]
        exact tfind_foldl_tset sl _ _ k
      refine ⟨_, hexec, by rw [hput], fun k hk => (hfound k).trans (if_pos hk), fun k hk => (hfound k).trans (if_neg hk), fun b hb => ?_⟩
      rw [harr, show (put (s3.modArr a f)).arr b = _ from State.arr_modArr_other _ _ hb, State.arr_modArr_other _ _ hb, State.arr_of_arrays hrest3.2, harr1 b hb]

/-- Settles O36. -/
theorem picks : Obligations.Picks := ⟨pickOrder_holds, passPick_holds, commandAged_holds⟩

end Sys2Proof.Proofs

/-! The entry and the end of a pass, and the verdicts of the residue check: O37 and O38. -/

namespace Sys2Proof.Machine
-- One thread elaborates these proofs: in parallel they ask for more stacks than the check allows.
set_option Elab.async false
open Sys2Proof.Claims

/-! ### The mode of a command -/

/-- What the first pass of a command fixes of it (R139). -/
theorem State.fixMode_spec (s : State) (c : Cmd) (a : Nat) :
    (s.fixMode c a).mode = some (match c.mode with | some m => m | none => ((s.ctx c.e.ctx).effMode.1, (s.ctx c.e.ctx).effMode.2.1)) ∧
    (c.mode = none → (s.fixMode c a).strict = bit (s.ctx c.e.ctx).policy.toNat 8 ∧ (s.fixMode c a).overFail = bit (s.ctx c.e.ctx).policy.toNat 9 ∧
      (s.fixMode c a).seed = (s.ctx c.e.ctx).seed) ∧
    (s.fixMode c a).uid = c.uid ∧ (s.fixMode c a).e = c.e ∧ (s.fixMode c a).cls = c.cls ∧ (s.fixMode c a).tiles = c.tiles ∧
    (s.fixMode c a).status = c.status := by
  unfold State.fixMode
  cases hm : c.mode with
  | none =>
    rw [if_neg (by simp)]
    exact ⟨rfl, fun _ => ⟨rfl, rfl, rfl⟩, rfl, rfl, rfl, rfl, rfl⟩
  | some m =>
    rw [if_pos (show (some m).isSome = true from rfl)]
    exact ⟨hm, nofun, rfl, rfl, rfl, rfl, rfl⟩

/-- R139, R140: a pass of a command in FULL is checked, and of one in OFF only a retry. -/
theorem Cmd.sample_checked (c : Cmd) (retry isLast : Bool) (draw n : Nat) : (c.mode = some (0, n) → (c.sample retry isLast draw).1 = true) ∧
    (c.mode = some (2, n) → (c.sample retry isLast draw).1 = retry) := by
  unfold Cmd.sample
  exact ⟨fun h => by rw [h]; rfl, fun h => by rw [h]; rfl⟩

theorem State.charge_steps (s : State) (n : Nat) (k : Counts) : (tget Counts.zero (s.charge n k).ledger.ctrs n).steps =
    satAdd 64 (tget Counts.zero s.ledger.ctrs n).steps k.steps := congrArg Counts.steps (tget_tset_same _ _ _ _)

theorem State.charge_vops (s : State) (n : Nat) (k : Counts) : (tget Counts.zero (s.charge n k).ledger.ctrs n).vops =
    satAdd 64 (tget Counts.zero s.ledger.ctrs n).vops k.vops := congrArg Counts.vops (tget_tset_same _ _ _ _)

theorem State.part_of_noteLate (s : State) (c : Cmd) (a cond p : Nat) : ((s.noteLate c a cond).part p).demoted = (s.part p).demoted := by
  have hmod (f : PartSt → PartSt) (hf : ∀ x, (f x).demoted = x.demoted) : ((s.modPart (a % 8) f).part p).demoted = (s.part p).demoted := by
    by_cases hp : p = a % 8
    · subst hp
      rw [State.part_modPart, hf]
    · rw [State.part_modPart_other _ _ hp]
  unfold State.noteLate
  extract_lets q s1
  split
  · rw [State.part_of_parts (State.logErr_frame _ _).parts_eq]
    exact hmod _ (fun _ => rfl)
  · exact hmod _ (fun _ => rfl)

theorem State.atRest.modTile {s : State} (h : s.atRest) (u i : Nat) (f : TileSt → TileSt) : (s.modTile u i f).atRest :=
  h.modCmd u (f := fun c => { c with tiles := c.tiles.modify i f }) (fun _ _ _ => ⟨rfl, rfl, rfl, rfl, id⟩)

/-- A change of a command's tile. -/
theorem State.cmd?_modTile {s : State} {u : Nat} {c : Cmd} (i : Nat) (f : TileSt → TileSt) (h : s.cmd? u = some c) :
    (s.modTile u i f).cmd? u = some { c with tiles := c.tiles.modify i f } :=
  State.cmd?_modCmd (f := fun c => { c with tiles := c.tiles.modify i f }) (by exact fun _ hd => hd) h

/-! ### Accumulators -/

theorem addUpdates_cons (acc : Table Int) (u : Nat × Nat × Int) (us : List (Nat × Nat × Int)) :
    addUpdates acc (u :: us) = addUpdates (tset acc (accKey u.1 u.2.1) (tget 0 acc (accKey u.1 u.2.1) + u.2.2)) us := rfl

theorem addUpdates_other {us : List (Nat × Nat × Int)} {k : Nat} (h : k ∉ us.map (fun u => accKey u.1 u.2.1)) (acc : Table Int) :
    tget 0 (addUpdates acc us) k = tget 0 acc k := by
  induction us generalizing acc with
  | nil => rfl
  | cons u us ih =>
    rw [List.map_cons, List.mem_cons, not_or] at h
    rw [addUpdates_cons, ih h.2, tget_tset_other _ _ _ h.1]

/-- Updates of distinct accumulators: each grows by its own (R129). -/
theorem addUpdates_at {us : List (Nat × Nat × Int)} (hn : (us.map (fun u => accKey u.1 u.2.1)).Nodup) {i j : Nat} {v : Int} (h : (i, j, v) ∈ us)
    (acc : Table Int) : tget 0 (addUpdates acc us) (accKey i j) = tget 0 acc (accKey i j) + v := by
  induction us generalizing acc with
  | nil => cases h
  | cons u us ih =>
    obtain ⟨hu, hus⟩ := List.nodup_cons.mp hn
    rcases List.mem_cons.mp h with rfl | h
    · rw [addUpdates_cons]
      dsimp only at hu ⊢
      rw [addUpdates_other hu, tget_tset_same]
    · have hk : accKey i j ∈ us.map (fun u => accKey u.1 u.2.1) := List.mem_map.mpr ⟨(i, j, v), h, rfl⟩
      have hne : accKey i j ≠ accKey u.1 u.2.1 := fun e => hu (show accKey u.1 u.2.1 ∈ _ from e ▸ hk)
      rw [addUpdates_cons, ih hus h, tget_tset_other _ _ _ hne]

/-- Each accumulator grows by the sum of its updates (R129). -/
theorem addUpdates_sum (us : List (Nat × Nat × Int)) (k : Nat) (acc : Table Int) :
    tget 0 (addUpdates acc us) k = tget 0 acc k + ((us.filter (fun u => accKey u.1 u.2.1 == k)).map (·.2.2)).sum := by
  induction us generalizing acc with
  | nil => exact (Int.add_zero _).symm
  | cons u us ih =>
    rw [addUpdates_cons, ih]
    by_cases hk : accKey u.1 u.2.1 = k
    · rw [List.filter_cons_of_pos (p := fun u : Nat × Nat × Int => accKey u.1 u.2.1 == k) (beq_iff_eq.mpr hk), List.map_cons, List.sum_cons, hk, tget_tset_same, Int.add_assoc]
    · rw [List.filter_cons_of_neg (p := fun u : Nat × Nat × Int => accKey u.1 u.2.1 == k) (by simpa using hk), tget_tset_other _ _ _ (Ne.symm hk)]

theorem accKey_inj {i j i' j' : Nat} (hj : j < 128) (hj' : j' < 128) (h : accKey i j = accKey i' j') : i = i' ∧ j = j' := by
  unfold accKey at h
  omega

theorem collectOk_eq {α : Type} {l : List (Except Nat α)} {us : List α} (h : collectOk l = .ok us) : l = us.map .ok := by
  induction l generalizing us with
  | nil =>
    obtain rfl := Except.ok.inj h
    rfl
  | cons x l ih =>
    cases x with
    | error e => cases h
    | ok v =>
      unfold collectOk at h
      cases hl : collectOk l with
      | error e =>
        rw [hl] at h
        cases h
      | ok r =>
        rw [hl] at h
        obtain rfl := Except.ok.inj h
        rw [ih hl]
        rfl

/-- The places of the updates that a list of places defines. -/
theorem collectOk_places {g : Nat × Nat → Except Nat Int} {ps : List (Nat × Nat)} {us : List (Nat × Nat × Int)}
    (h : collectOk (ps.map (fun p => match g p with | .ok v => .ok (p.1, p.2, v) | .error e => .error e)) = .ok us) :
    us.map (fun u => (u.1, u.2.1)) = ps := by
  have heq := collectOk_eq h
  clear h
  induction ps generalizing us with
  | nil =>
    rw [List.map_nil, List.nil_eq, List.map_eq_nil_iff] at heq
    rw [heq]
    rfl
  | cons p ps ih =>
    cases us with
    | nil => cases heq
    | cons u us =>
      rw [List.map_cons, List.map_cons, List.cons.injEq] at heq
      obtain ⟨hp, hrest⟩ := heq
      rw [List.map_cons, ih hrest]
      cases hg : g p with
      | error e =>
        rw [hg] at hp
        cases hp
      | ok v =>
        rw [hg] at hp
        obtain rfl := Except.ok.inj hp
        rfl

/-- R129: a pass over the whole tile defines one update for each accumulator. -/
theorem State.definedUpdates_spec {s : State} {c : Cmd} {t : TileSt} {td : PassTodo} {us : List (Nat × Nat × Int)} (h : s.definedUpdates c t td = .ok us)
    (hrows : td.rows = none) (hcols : t.plan.cols ≤ 128) : (us.map (fun u => accKey u.1 u.2.1)).Nodup ∧
    ∀ (act w : Operand) (i j : Nat) (v : Int), s.actOperand c t = some act → s.slotOperand c t.plan.wSlot = some w → i < t.plan.rows → j < t.plan.cols →
      elemUpdate act w t td i j = .ok v → (i, j, v) ∈ us := by
  unfold State.definedUpdates at h
  cases ha : s.actOperand c t with
  | none =>
    rw [ha] at h
    cases h
  | some a =>
    cases hw : s.slotOperand c t.plan.wSlot with
    | none =>
      rw [ha, hw] at h
      cases h
    | some w =>
      rw [ha, hw] at h
      dsimp only at h
      have hr : td.rowsOf t.plan.rows = List.range t.plan.rows := by
        unfold PassTodo.rowsOf
        rw [hrows]
        rfl
      rw [hr] at h
      let places := List.range t.plan.rows ×ˢ List.range t.plan.cols
      have hlist : (List.range t.plan.rows).flatMap (fun i => (List.range t.plan.cols).map (fun j =>
          match elemUpdate a w t td i j with | .ok v => (.ok (i, j, v) : Except Nat (Nat × Nat × Int)) | .error e => .error e)) =
          places.map (fun p => match elemUpdate a w t td p.1 p.2 with | .ok v => .ok (p.1, p.2, v) | .error e => .error e) := by
        show _ = List.map _ (List.flatMap _ _)
        rw [List.map_flatMap]
        refine List.flatMap_congr (fun i _ => ?_)
        rw [List.map_map]
        rfl
      replace h := (congrArg collectOk hlist).symm.trans h
      have hplaces := collectOk_places (g := fun p => elemUpdate a w t td p.1 p.2) h
      refine ⟨?_, fun a' w' i j v ha' hw' hi hj hv => ?_⟩
      · have hkeys : us.map (fun u => accKey u.1 u.2.1) = places.map (fun p => accKey p.1 p.2) := by
          rw [← hplaces, List.map_map]
          rfl
        rw [hkeys]
        refine List.Nodup.map_on (fun p hp q hq hpq => ?_) (List.Nodup.product List.nodup_range List.nodup_range)
        have hp2 : p.2 < 128 := Nat.lt_of_lt_of_le (List.mem_range.mp (List.mem_product.mp hp).2) hcols
        have hq2 : q.2 < 128 := Nat.lt_of_lt_of_le (List.mem_range.mp (List.mem_product.mp hq).2) hcols
        obtain ⟨h1, h2⟩ := accKey_inj hp2 hq2 hpq
        exact Prod.ext h1 h2
      · obtain rfl := Option.some.inj ha'
        obtain rfl := Option.some.inj hw'
        have hmem : (i, j) ∈ places := List.mem_product.mpr ⟨List.mem_range.mpr hi, List.mem_range.mpr hj⟩
        have hok := collectOk_eq h
        have : (Except.ok (i, j, v) : Except Nat (Nat × Nat × Int)) ∈ us.map .ok := by
          rw [← hok]
          exact List.mem_map.mpr ⟨(i, j), hmem, by dsimp only; rw [hv]⟩
        obtain ⟨x, hx, he⟩ := List.mem_map.mp this
        exact Except.ok.inj he ▸ hx

theorem applyErrors_nil (us : List (Nat × Nat × Int)) : applyErrors us [] = us := by
  unfold applyErrors
  rw [List.map_congr_left (g := id) (fun u _ => ?_), List.map_id]
  show (u.1, u.2.1, u.2.2 + 0) = u
  rw [Int.add_zero]

theorem applyErrors_keys (us : List (Nat × Nat × Int)) (es : List PassError) :
    (applyErrors us es).map (fun u => accKey u.1 u.2.1) = us.map (fun u => accKey u.1 u.2.1) := by
  unfold applyErrors
  rw [List.map_map]
  rfl

/-- R145: a row taken back out of the accumulators. -/
theorem addUpdates_back {us : List (Nat × Nat × Int)} (row : Nat) {j : Nat} (hj : j < 128) (hus : ∀ u ∈ us, u.2.1 < 128) (acc : Table Int) :
    tget 0 (addUpdates acc ((us.filter (fun u => u.1 == row)).map (fun u => (u.1, u.2.1, -u.2.2)))) (accKey row j) =
      tget 0 acc (accKey row j) - ((us.filter (fun u => u.1 == row && u.2.1 == j)).map (·.2.2)).sum := by
  have hneg (l : List (Nat × Nat × Int)) : (l.map (fun u => -u.2.2)).sum = -(l.map (·.2.2)).sum := by
    induction l with
    | nil => rfl
    | cons u l ih =>
      rw [List.map_cons, List.map_cons, List.sum_cons, List.sum_cons, ih]
      omega
  rw [addUpdates_sum, List.filter_map, List.map_map, List.filter_filter]
  have hfilter : us.filter (fun u => ((fun u : Nat × Nat × Int => accKey u.1 u.2.1 == accKey row j) ∘ fun u => (u.1, u.2.1, -u.2.2)) u && u.1 == row) =
      us.filter (fun u => u.1 == row && u.2.1 == j) := by
    refine List.filter_congr (fun u hu => ?_)
    rw [Bool.eq_iff_iff]
    simp only [Function.comp, Bool.and_eq_true, beq_iff_eq]
    constructor
    · rintro ⟨hk, -⟩
      exact accKey_inj (hus u hu) hj hk
    · rintro ⟨h1, h2⟩
      exact ⟨by rw [h1, h2], h1⟩
  rw [hfilter]
  exact (congrArg (tget 0 acc (accKey row j) + ·) (hneg _)).trans (Int.sub_eq_add_neg).symm

/-! ### The comparisons of the residue check -/

theorem errAt_nil (i j : Nat) : errAt [] i j = 0 := rfl

/-- R131: without an error both comparisons of a row agree. -/
theorem rowPasses_nil (draw cols i : Nat) : rowPasses draw [] cols i = true := by
  have h (wt : Nat → Nat) : rowDiff wt [] cols i = 0 := by
    unfold rowDiff
    simp only [errAt_nil, Int.mul_zero, List.map_const', List.sum_replicate, smul_zero]
  unfold rowPasses
  rw [h, h]
  decide

theorem colPasses_nil (draw : Nat) (rows : List Nat) (j : Nat) : colPasses draw [] rows j = true := by
  unfold colPasses
  simp only [errAt_nil, Int.mul_zero, List.map_const', List.sum_replicate, smul_zero]
  decide

/-! ### A command that ends -/

theorem State.cmd?_conclude {s : State} {u st : Nat} {c : Cmd} (d0 d1 : Nat) (h : s.cmd? u = some c) (hn : c.status = none) (hl : st ≠ stLinkLost) :
    (s.conclude u st d0 d1).cmd? u = some (c.concluded (finalStatus st c.retried) d0 d1 s.nextId s.time.now) := by
  refine (State.cmd?_of_cmds (s := s.modCmd u (fun x => x.concluded (finalStatus st c.retried) d0 d1 s.nextId s.time.now))
    (State.conclude_cmds d0 d1 h hn hl) u).trans ?_
  exact State.cmd?_modCmd (by exact fun _ hd => hd) h

theorem State.atRest.conclude {s : State} (h : s.atRest) (u : Nat) {st : Nat} (d0 d1 : Nat) (hl : st ≠ stLinkLost) : (s.conclude u st d0 d1).atRest := by
  have hq (n : Nat) := State.conclude_queues s u d0 d1 hl n
  cases hc : s.cmd? u with
  | none => rwa [State.conclude_ended _ _ _ (by rw [hc]; rintro _ ⟨⟩)]
  | some c =>
    cases hs : c.status with
    | some z => rwa [State.conclude_ended _ _ _ (by rw [hc]; rintro _ ⟨⟩; rw [hs]; rfl)]
    | none =>
      refine ⟨fun d hd => ?_, fun n k x hx => h.2 n k x (hq n ▸ hx)⟩
      rw [State.conclude_cmds d0 d1 hc hs hl] at hd
      obtain ⟨x, hx, rfl⟩ := List.mem_map.mp hd
      split
      · exact ⟨(h.1 x hx).1, nofun⟩
      · exact h.1 x hx

/-- R32, R136, R146: the command ends with CHECK_FAILED. -/
theorem State.failCheck_ends {s : State} {u : Nat} {c : Cmd} (ti : Nat) (h : s.atRest) (hc : s.cmd? u = some c) (hn : c.status = none) :
    (s.failCheck u ti).atRest ∧ ∃ y : Cmd, (s.failCheck u ti).cmd? u = some y ∧ y.status = some stCheckFailed := by
  unfold State.failCheck
  rw [hc]
  exact ⟨h.conclude u _ _ (by decide), _, State.cmd?_conclude _ _ hc hn (by decide), congrArg some (if_neg (fun h => absurd h.1 (by decide)))⟩

/-- A RUN with a tile that goes on, or one that has ended, does not end now (R126). -/
theorem State.maybeFinish_not {s : State} {u : Nat} {c : Cmd} {t : TileSt} {i : Nat} (hc : s.cmd? u = some c) (ht : c.tiles[i]? = some t)
    (h : t.finished = false ∨ c.status ≠ none) : s.maybeFinish u = s := by
  unfold State.maybeFinish
  rw [hc]
  refine if_neg (fun ⟨hnone, _, _, hall, _⟩ => ?_)
  rcases h with h | h
  · rw [List.all_eq_true.mp hall t (List.mem_of_getElem? ht)] at h
    cases h
  · exact h (by simpa using hnone)

end Sys2Proof.Machine

namespace Sys2Proof.Proofs
-- One thread elaborates these proofs: in parallel they ask for more stacks than the check allows.
set_option Elab.async false
open Sys2Proof.Machine Sys2Proof.Claims

/-! ### The entry of a pass -/

theorem passEntry_holds : passEntry := by
  intro a rate uid i c t td rest s hallowed hstate hrate hdie hstaged hc ht htodo steps inside
  have hexec : exec (.passEntry a rate) s = .next (s.enter a rate) := congrArg Host.Outcome.next (if_pos ⟨hallowed, hstate, hrate, hdie⟩)
  unfold State.enter at hexec
  rw [hstaged] at hexec
  dsimp -zeta only at hexec
  rw [hc] at hexec
  dsimp -zeta only at hexec
  rw [ht] at hexec
  dsimp -zeta only at hexec
  rw [htodo] at hexec
  dsimp -zeta only at hexec
  extract_lets c' rows steps' first inside' isLast sm rec' now excl ns s1 s2 zero s3 s4 s5 s6 at hexec
  obtain ⟨hmode, hfixed, huid, he, hcls, htiles, hstatus⟩ := State.fixMode_spec s c a
  let y0 : Cmd := { c' with
    aged := false, queuedAt := now, sampleAt := sm.2.1, samplePos := sm.2.2,
    lastTile := if first then some now else c'.lastTile, retried := c'.retried || td.retry,
    tele := s.teleOf c'.tele a rate sm.1 td, tiles := c'.tiles.modify i (fun t => { t with todo := rest }) }
  have hy0 : y0.uid = uid := huid.trans (State.cmd?_mem hc).2
  have h2 : s2.cmd? uid = some y0 := State.cmd?_modCmd (s := s1) (f := fun _ => y0) (fun _ _ => hy0) hc
  have h3 : Frame [.ledger, .freeCtr, .nextId] s2 s3 :=
    ((s2.bump_frame.mono (by decide)).after (State.drawn_frame _) (by decide)).after (State.charge_frame _ _ _) (by decide)
  have h4 : Frame [.parts] s3 s4 := Frame.ite (State.modPart_frame _ _ _) (Frame.refl _ _)
  have h5 : Frame [.parts, .errs, .mgmt] s4 s5 := Frame.ite (State.noteLate_frame _ _ _ _) (Frame.refl _ _)
  have h6 : Frame [.cmds] s5 s6 := by
    unfold s6
    split
    · exact State.refresh_frame _ _
    · exact Frame.refl _ _
  have hu : Frame [.cmds, .ledger, .freeCtr, .nextId, .parts, .errs, .mgmt] s1 (s6.refresh uid) :=
    ((((((State.modCmd_frame s1 uid (fun _ => y0)).mono (by decide)).after h3 (by decide)).after h4 (by decide)).after h5 (by decide)).after h6 (by decide)).after
      (State.refresh_frame s6 uid) (by decide)
  have h5cmd : s5.cmd? uid = some y0 := (State.cmd?_of_cmds (h5.cmds_eq.trans (h4.cmds_eq.trans h3.cmds_eq)) uid).trans h2
  obtain ⟨st, q, h6cmd⟩ : ∃ (st : CmdState) (q : Nat), s6.cmd? uid = some { y0 with st := st, queuedAt := q } := by
    unfold s6
    split
    · exact State.cmd?_refresh _ h5cmd
    · exact ⟨y0.st, y0.queuedAt, h5cmd⟩
  obtain ⟨st', q', hcmd⟩ := State.cmd?_refresh uid h6cmd
  have harr : (s6.refresh uid).arr a = s1.arr a := State.arr_of_arrays hu.arrays_eq a
  have hs1 : s1.arr a = _ := s.arr_modArr a _
  have hcharge : ((s6.refresh uid).arr a).charge =
      if c'.cls = 0 ∧ inside' = true ∧ td.retry = false ∧ excl = false then (s.arr a).charge + ns else (s.arr a).charge := by
    rw [harr, hs1]
  have hexcl' : excl = false ↔ (s.part (a % 8)).state ≠ 2 := beq_eq_false_iff_ne
  have hns : ns = steps * 1000 / rate := if_neg (by omega)
  have hinside : inside' = true ↔ inside := by
    unfold inside'
    rw [Bool.or_eq_true, Bool.or_eq_true, bne_iff_ne, hcls, or_assoc]
    rfl
  have hpart : ((s6.refresh uid).part (a % 8)).demoted = (s4.part (a % 8)).demoted := by
    have h6' : (s6.refresh uid).parts = s5.parts := (State.refresh_frame s6 uid).parts_eq.trans h6.parts_eq
    rw [State.part_of_parts h6']
    unfold s5
    split
    · exact State.part_of_noteLate _ _ _ _ _
    · rfl
  have hparts3 : s3.parts = s.parts := h3.parts_eq
  refine ⟨_, _, rec', hexec, ?_, ?_, rfl, rfl, rfl, rfl, hcmd, ?_, hstatus, hmode, hfixed, fun n hn => ?_, fun n hn => ?_, ?_, fun hzero hin hretry hexcl => ?_,
    fun h => ?_, fun hout => ⟨?_, ?_⟩, ?_⟩
  · rw [harr, hs1]
  · rw [harr, hs1]
  · show c'.tiles.modify i _ = _
    rw [htiles]
  · exact (Cmd.sample_checked c' td.retry isLast s.freeCtr n).1 hn
  · exact (Cmd.sample_checked c' td.retry isLast s.freeCtr n).2 hn
  · have hledger : (s6.refresh uid).ledger = s3.ledger :=
      (State.refresh_frame s6 uid).ledger_eq.trans (h6.ledger_eq.trans (h5.ledger_eq.trans h4.ledger_eq))
    rw [hledger, ← he]
    exact State.charge_steps s2.bump.drawn c'.e.ctx _
  · rw [hcharge, if_pos ⟨hcls.trans hzero, hinside.mpr hin, hretry, hexcl'.mpr hexcl⟩, hns]
  · refine hcharge.trans (if_neg (fun ⟨hzero, _, hretry, hexcl⟩ => ?_))
    rcases h with h | h | h
    · exact h (hcls.symm.trans hzero)
    · rw [hretry] at h
      cases h
    · exact hexcl'.mp hexcl h
  · have hcls0 : c'.cls = 0 := by
      rw [hcls]
      exact of_not_not (fun h => hout (.inl h))
    rw [hpart]
    unfold s4
    rw [if_pos ⟨hcls0, Bool.eq_false_iff.mpr (fun h => hout (hinside.mp h))⟩, State.part_modPart, State.part_of_parts hparts3]
  · rw [hcharge, if_neg (fun h => hout (hinside.mp h.2.1))]
  · exact hu.objs_eq

/-! ### The end of a pass -/

theorem passEnd_holds : passEnd := by
  intro a idle r rest c t us s hlive hcalm hnw hin hc ht hfin hcols hrows hus
  let steps := passSteps (r.todo.rowsOf t.plan.rows).length r.todo.shadow
  obtain ⟨hnodup, hdef⟩ := State.definedUpdates_spec hus hrows hcols
  let inRange (e : PassError) : Bool := (r.todo.rowsOf t.plan.rows).contains e.row && decide (e.col < t.plan.cols)
  let grow (us : List (Nat × Nat × Int)) (t : TileSt) : TileSt := { t with acc := addUpdates t.acc us }
  have hend (es : List PassError) : ∃ (u : State) (y : Cmd), exec (.passEnd a es idle) s = .next u ∧
      (u.arr a).inflight = rest ∧ u.cmd? r.uid = some y ∧ y.tiles[r.tile]? = some (grow (applyErrors us (es.filter inRange)) t) ∧
      (u.arr a).checking = (s.arr a).checking ++ (if r.checked then [{ r with applied := applyErrors us (es.filter inRange), errs := es.filter inRange }] else []) ∧
      u.objs = s.objs := by
    let ap := applyErrors us (es.filter inRange)
    let s1 := s.modTile r.uid r.tile (grow ap)
    let g (x : ArraySt) : ArraySt := { x with
      inflight := rest, checking := x.checking ++ (if r.checked then [{ r with applied := ap, errs := es.filter inRange }] else [])
      active := add64 x.active steps, idle := add64 x.idle idle }
    let s2 := s1.modArr a g
    have hpass : s.endPass a es idle = s2.refresh r.uid := by
      unfold State.endPass
      rw [hin]
      dsimp -zeta only
      rw [hc]
      dsimp -zeta only
      rw [ht]
      dsimp -zeta only
      extract_lets count steps'
      rw [if_neg (by simp [hfin]), hus]
    have hrest : s2.atRest := ((State.atRest_of hcalm hnw).modTile r.uid r.tile (grow ap)).frame (s1.modArr_frame a g)
    have hexec : exec (.passEnd a es idle) s = .next (s.endPass a es idle).settle.recheck := congrArg Host.Outcome.next (if_pos hlive)
    rw [hpass, (hrest.refresh r.uid).rest] at hexec
    obtain ⟨st, q, hcmd⟩ := State.cmd?_refresh r.uid (s := s2) (State.cmd?_modTile r.tile (grow ap) hc)
    have hframe := s2.refresh_frame r.uid
    have harr : (s2.refresh r.uid).arr a = g (s.arr a) := (State.arr_of_arrays hframe.arrays_eq a).trans (s1.arr_modArr a g)
    refine ⟨_, _, hexec, by rw [harr], hcmd, ?_, by rw [harr], hframe.objs_eq⟩
    show (c.tiles.modify r.tile (grow ap))[r.tile]? = _
    rw [List.getElem?_modify_eq, ht]
    rfl
  refine ⟨?_, fun e v hrow hcol hmem => ?_⟩
  · obtain ⟨u, y, hexec, hinf, hcmd, htile, hcheck, hobjs⟩ := hend []
    rw [List.filter_nil, applyErrors_nil] at htile hcheck
    exact ⟨u, y, _, hexec, hinf, hcmd, htile, rfl, fun act w i j v ha hw hi hj hv => addUpdates_at hnodup (hdef act w i j v ha hw hi hj hv) t.acc, hcheck, hobjs⟩
  · obtain ⟨u, y, hexec, -, hcmd, htile, -, -⟩ := hend [e]
    have hrange : inRange e = true := by
      have : r.todo.rowsOf t.plan.rows = List.range t.plan.rows := by
        unfold PassTodo.rowsOf
        rw [hrows]
        rfl
      simp [inRange, this, hrow, hcol]
    have hfilter : [e].filter inRange = [e] := by simp [hrange]
    rw [hfilter] at htile
    refine ⟨u, y, _, hexec, hcmd, htile, ?_⟩
    have hap : (e.row, e.col, v + (0 + e.delta)) ∈ applyErrors us [e] := by
      refine List.mem_map.mpr ⟨_, hmem, ?_⟩
      simp
    refine (addUpdates_at (by rw [applyErrors_keys]; exact hnodup) hap t.acc).trans ?_
    rw [Int.zero_add, ← Int.add_assoc]
    rfl

/-- Settles O37. -/
theorem passes : Obligations.Passes := ⟨passEntry_holds, passEnd_holds⟩

/-! ### Verdicts -/

/-- The record of the first pass that awaits its verdicts. -/
theorem find_checking {l rs : List PassRec} {r : PassRec} (h : l = r :: rs) : l.find? (fun q => q.pid == r.pid) = some r := by
  rw [h, List.find?_cons, beq_self_eq_true]

theorem filter_checking {l rs : List PassRec} {r : PassRec} (h : l = r :: rs) : l.filter (fun q => q.pid != r.pid) = rs.filter (fun q => q.pid != r.pid) := by
  rw [h, List.filter_cons_of_neg (by simp)]

theorem cleanVerdicts_holds : cleanVerdicts := by
  intro a row r rs c t s hlive hcalm hnw hcheck hc ht herrs hbad
  have hrest := State.atRest_of hcalm hnw
  refine ⟨fun hrow hnew => ?_, fun hall hgo => ?_⟩
  · let r' : PassRec := { r with okRows := r.okRows ++ [row] }
    let f (x : ArraySt) : ArraySt := { x with checking := x.checking.map (fun q => if q.pid = r.pid then r' else q) }
    have hverdict : s.rowVerdict a r.pid row = s.modArr a f := by
      unfold State.rowVerdict
      rw [find_checking hcheck]
      dsimp -zeta only
      rw [hc]
      dsimp -zeta only
      rw [ht]
      dsimp only
      rw [if_neg (by simp [hrow, hnew, hbad]), if_pos (by rw [herrs]; exact rowPasses_nil _ _ _), if_neg (fun h => h.1 hbad)]
    have hexec : exec (.rowVerdict a r.pid row) s = .next (s.rowVerdict a r.pid row).settle.recheck := congrArg Host.Outcome.next (if_pos hlive)
    rw [hverdict, (hrest.frame (s.modArr_frame a f)).rest] at hexec
    refine ⟨_, hexec, ?_, rfl, rfl⟩
    rw [s.arr_modArr]
    show ((s.arr a).checking.map (fun q => if q.pid = r.pid then r' else q)).head? = some r'
    rw [hcheck]
    exact congrArg some (if_pos rfl)
  · let f (x : ArraySt) : ArraySt := { x with checking := x.checking.filter (fun q => q.pid != r.pid) }
    have hverdict : s.columnVerdict a r.pid = s.modArr a f := by
      unfold State.columnVerdict
      rw [find_checking hcheck]
      dsimp -zeta only
      rw [hc]
      dsimp -zeta only
      rw [ht]
      dsimp only
      rw [if_neg (by simp [hbad, hall]), if_pos (List.all_eq_true.mpr (fun j _ => by rw [herrs]; exact colPasses_nil _ _ _))]
      exact State.maybeFinish_not (s := s.modArr a f) hc ht hgo
    have hexec : exec (.columnVerdict a r.pid) s = .next (s.columnVerdict a r.pid).settle.recheck := congrArg Host.Outcome.next (if_pos hlive)
    rw [hverdict, (hrest.frame (s.modArr_frame a f)).rest] at hexec
    refine ⟨_, hexec, ?_, rfl, rfl⟩
    rw [s.arr_modArr]
    exact filter_checking hcheck

theorem failedVerdicts_holds : failedVerdicts := by
  intro a row r rs c t s hlive hcalm hnw hdistinct hcheck hc hnone ht hbad
  have hrest := State.atRest_of hcalm hnw
  refine ⟨fun hrow hnew hfail => ?_, fun hall ⟨j, hj, hfail⟩ => ?_⟩
  · let counted (c : Cmd) : Cmd := { c with tele := { c.tele with failed := c.tele.failed + b2n ([] : List Nat).isEmpty } }
    let s0 := s.modCmd r.uid counted
    let s1 := s0.logCheck c a 1 row t
    have hframe1 : Frame [.tests, .errs, .mgmt] s0 s1 := State.logCheck_frame _ _ _ _ _ _
    have hrest1 : s1.atRest := (hrest.modCmd r.uid (f := counted)
      (fun _ _ _ => ⟨rfl, rfl, rfl, rfl, id⟩)).frame hframe1
    have hc1 : s1.cmd? r.uid = some (counted c) := (State.cmd?_of_cmds hframe1.cmds_eq _).trans (State.cmd?_modCmd (f := counted) (by exact fun _ hd => hd) hc)
    have htest : ∃ x ∈ s1.tests, x.kind = 1 ∧ x.index = a := State.startTest_mem _ _ _ _ _
    have hexec : exec (.rowVerdict a r.pid row) s = .next (s.rowVerdict a r.pid row).settle.recheck := congrArg Host.Outcome.next (if_pos hlive)
    have hfails : ¬ (rowPasses r.draw r.errs t.plan.cols row = true) := by
      rw [hfail]
      exact Bool.false_ne_true
    refine ⟨fun hrows hlast hcols => ?_, fun hagain => ?_⟩
    · have hrange : r.todo.rowsOf t.plan.rows = List.range t.plan.rows := by
        unfold PassTodo.rowsOf
        rw [hrows]
        rfl
      let back := (r.applied.filter (fun u => u.1 == row)).map (fun u => (u.1, u.2.1, -u.2.2))
      let f (t : TileSt) : TileSt := { t with acc := addUpdates t.acc back }
      let g (t : TileSt) : TileSt := { t with todo := { r.todo with rows := some [row], retry := true } :: t.todo }
      let k (x : ArraySt) : ArraySt := { x with checking := x.checking.filter (fun q => q.pid != r.pid) }
      let s2 := s1.modTile r.uid r.tile f
      let s3 := (s2.modArr a k).modTile r.uid r.tile g
      have hverdict : s.rowVerdict a r.pid row = s3.refresh r.uid := by
        unfold State.rowVerdict
        rw [find_checking hcheck]
        dsimp -zeta only
        rw [hc]
        dsimp -zeta only
        rw [ht]
        dsimp only
        rw [hbad, if_neg (by simp [hrow, hnew]), if_neg hfails, if_neg (by simp [hrows]), if_pos (by rw [hrange, List.length_range]; exact hlast)]
        rfl
      have hrest3 : s3.atRest := ((hrest1.modTile r.uid r.tile f).frame (s2.modArr_frame a k)).modTile r.uid r.tile g
      rw [hverdict, (hrest3.refresh r.uid).rest] at hexec
      have hc3 := State.cmd?_modTile (s := s2.modArr a k) r.tile g (State.cmd?_modTile r.tile f hc1)
      obtain ⟨st, q, hcmd⟩ := State.cmd?_refresh r.uid hc3
      have hframe := s3.refresh_frame r.uid
      refine ⟨_, _, g (f t), hexec, hcmd, ?_, rfl, ?_, ?_, fun j hj happlied => ?_⟩
      · show ((c.tiles.modify r.tile f).modify r.tile g)[r.tile]? = _
        rw [List.getElem?_modify_eq, List.getElem?_modify_eq, ht]
        rfl
      · rw [hframe.tests_eq]
        exact htest
      · rw [State.arr_of_arrays hframe.arrays_eq, show s3.arr a = k (s2.arr a) from s2.arr_modArr a k,
          State.arr_of_arrays (s := s) (t := s2) hframe1.arrays_eq]
        exact filter_checking hcheck
      · exact addUpdates_back row (by omega) happlied t.acc
    · have hverdict : s.rowVerdict a r.pid row = s1.failCheck r.uid r.tile := by
        unfold State.rowVerdict
        rw [find_checking hcheck]
        dsimp -zeta only
        rw [hc]
        dsimp -zeta only
        rw [ht]
        dsimp only
        rw [hbad, if_neg (by simp [hrow, hnew]), if_neg hfails, if_pos hagain]
      obtain ⟨hend, y, hy, hst⟩ := State.failCheck_ends r.tile hrest1 hc1 hnone
      rw [hverdict, hend.rest] at hexec
      exact ⟨_, y, hexec, hy, hst⟩
  · let f (x : ArraySt) : ArraySt := { x with checking := x.checking.filter (fun q => q.pid != r.pid) }
    let s0 := (s.modArr a f).modCmd r.uid (fun c => { c with tele := { c.tele with failed := c.tele.failed + 1 } })
    let s1 := s0.logCheck c a 3 0 t
    have hverdict : s.columnVerdict a r.pid = s1.failCheck r.uid r.tile := by
      unfold State.columnVerdict
      rw [find_checking hcheck]
      dsimp -zeta only
      rw [hc]
      dsimp -zeta only
      rw [ht]
      dsimp only
      rw [if_neg (by simp [hbad, hall]), if_neg (fun h => by
        rw [List.all_eq_true.mp h j (List.mem_range.mpr hj)] at hfail
        cases hfail)]
    have hframe1 : Frame [.tests, .errs, .mgmt] s0 s1 := State.logCheck_frame _ _ _ _ _ _
    have hrest1 : s1.atRest := ((hrest.frame (s.modArr_frame a f)).modCmd r.uid (f := fun c => { c with tele := { c.tele with failed := c.tele.failed + 1 } })
      (fun _ _ _ => ⟨rfl, rfl, rfl, rfl, id⟩)).frame hframe1
    have hc1 := (State.cmd?_of_cmds hframe1.cmds_eq r.uid).trans
      (State.cmd?_modCmd (s := s.modArr a f) (f := fun c => { c with tele := { c.tele with failed := c.tele.failed + 1 } }) (by exact fun _ hd => hd) hc)
    obtain ⟨hend, y, hy, hst⟩ := State.failCheck_ends r.tile hrest1 hc1 hnone
    have hexec : exec (.columnVerdict a r.pid) s = .next (s.columnVerdict a r.pid).settle.recheck := congrArg Host.Outcome.next (if_pos hlive)
    rw [hverdict, hend.rest] at hexec
    exact ⟨_, y, hexec, hy, hst⟩

/-- Settles O38. -/
theorem verdicts : Obligations.Verdicts := ⟨cleanVerdicts_holds, failedVerdicts_holds⟩

end Sys2Proof.Proofs


/-! The drain of a row: O39. -/

namespace Sys2Proof.Machine
-- One thread elaborates these proofs: in parallel they ask for more stacks than the check allows.
set_option Elab.async false
open Sys2Proof.Claims

/-- The object that an argument of a RUN names is the one its mapping names. -/
theorem State.obj_of_slotArg {s : State} {c : Cmd} {n : Nat} {h : HandleSt} {x : ObjectSt} {a : ArgEntry} {d : SlotDesc}
    (hs : s.slotArg c n = some (h, x, a, d)) : s.obj? h.obj = some x := by
  unfold State.slotArg at hs
  split at hs
  · split at hs
    · split at hs
      · rename_i hobj
        obtain ⟨rfl, rfl, rfl, rfl⟩ := Option.some.inj hs
        unfold State.handleObj at hobj
        split at hobj
        · cases hobj
        · obtain ⟨y, hy, hyx⟩ := Option.map_eq_some_iff.mp hobj
          obtain ⟨rfl, rfl⟩ := Prod.mk.inj hyx
          exact hy
      · cases hs
    · cases hs
  · cases hs

/-- The arguments of a RUN in a state with the same mappings and objects. -/
theorem State.slotArg_of {s t : State} (hc : t.ctxs = s.ctxs) (ho : t.objs = s.objs) (c : Cmd) (n : Nat) : t.slotArg c n = s.slotArg c n := by
  unfold State.slotArg State.handleObj State.obj? State.ctx
  rw [hc, ho]

/-- R104: a row of an output without group exponents has none. -/
theorem State.epilogueRow_exps {s : State} {c : Cmd} {t : TileSt} (h : groupSize (s.outDesc c t.plan).group = 0) (i : Nat) (acc : List Int) :
    (s.epilogueRow c t i acc).exps = [] := by
  unfold State.epilogueRow
  extract_lets ec d ob res vals early
  split
  · rfl
  · rename_i hfmt
    have hg : groupSize ec.group = 0 := (congrArg groupSize (if_neg hfmt)).trans h
    exact if_pos hg

/-- R89: a row without group exponents that goes to a volatile object, all of whose pages are backed. -/
theorem State.writeRow_volatile {s : State} {c : Cmd} {t : TileSt} {i n : Nat} {r : RowOut} {h : HandleSt} {x : ObjectSt} {a : ArgEntry} {d : SlotDesc}
    (hslot : t.plan.outSlot = some n) (harg : s.slotArg c n = some (h, x, a, d)) (hexps : r.exps = []) (hv : x.persistent = false)
    (hback : ∀ p ∈ pagesOf (packFrom x.byte d.fmt a.offset ((t.plan.row0 + i) * d.rowLen + t.plan.col0) r.codes).1
      (packFrom x.byte d.fmt a.offset ((t.plan.row0 + i) * d.rowLen + t.plan.col0) r.codes).2.length, (tfind x.pageTab p).isSome = true) :
    ∃ u : State, s.writeRow c t i r = some u ∧
      u.obj? h.obj = some (x.written s.time.now (packFrom x.byte d.fmt a.offset ((t.plan.row0 + i) * d.rowLen + t.plan.col0) r.codes).1 (slotLayout d)
        (packFrom x.byte d.fmt a.offset ((t.plan.row0 + i) * d.rowLen + t.plan.col0) r.codes).2) ∧
      (∀ p : Nat, p ≠ h.obj → u.obj? p = s.obj? p) ∧ Frame [.objs] s u := by
  obtain ⟨u, hwrite, hobj, hother, hframe⟩ := State.cmdWrite_volatile (State.obj_of_slotArg harg) c.uid _ (slotLayout d) _ hback hv
  refine ⟨u, ?_, hobj, hother, hframe⟩
  unfold State.writeRow
  rw [hslot]
  dsimp only
  rw [harg]
  dsimp only
  rw [hwrite]
  exact if_pos (by rw [hexps]; rfl)

/-- Every pass of an expansion that retries is one (R134). -/
theorem expandPasses_retry {fa fw : Nat} {split : Bool} {ps : List PassPlan} {td : PassTodo} (h : td ∈ expandPasses fa fw split true ps) : td.retry = true := by
  obtain ⟨p, -, h⟩ := List.mem_flatMap.mp h
  obtain ⟨q, -, h⟩ := List.mem_flatMap.mp h
  obtain ⟨k, -, rfl⟩ := List.mem_map.mp h
  rfl

/-- Outside of a reduce-scatter a row's accumulators are the tile's (R303). -/
theorem State.reducedRow_own {s : State} {c : Cmd} {t : TileSt} {i : Nat} (h : s.rowOwner c t i = none) :
    s.reducedRow c t i = some ((List.range 128).map (fun j => t.accAt i j)) := by
  unfold State.reducedRow
  rw [h]

/-- The row of a tile that may drain, outside of a reduce-scatter and without an error (R89). -/
theorem State.drainRow_own {s : State} {a uid ti row : Nat} {c : Cmd} {t : TileSt} (hc : s.cmd? uid = some c) (hn : c.status = none)
    (ht : c.tiles[ti]? = some t) (ha : t.array = a) (hd : s.drainable c ti t row = true) (ho : s.rowOwner c t row = none) :
    s.drainRow a uid ti row 0 0 = State.drainRow.drainOwn a uid ti row 0 s c t ((List.range 128).map (fun j => t.accAt row j)) := by
  unfold State.drainRow
  rw [hc]
  dsimp -zeta only
  rw [ht]
  dsimp -zeta only
  rw [if_neg (by simp [hn, ha, hd]), State.reducedRow_own ho, ho]
  dsimp -zeta only
  extract_lets eccAddr src s0 full mis s1
  have hmis : mis = 0 := by
    unfold mis
    split <;> rfl
  have hs1 : s1 = s := by
    unfold s1
    rw [hmis]
    rfl
  rw [if_neg (by decide), if_neg (by rw [hmis]; decide), hs1]

/-- R89: the row goes to its object, and the tile goes on. -/
theorem State.drainOwn_volatile {s : State} {a uid ti row n : Nat} {c : Cmd} {t : TileSt} {acc : List Int} {h : HandleSt} {x : ObjectSt} {arg : ArgEntry}
    {d : SlotDesc} (hstrict : c.strict = false) (hslot : t.plan.outSlot = some n) (harg : s.slotArg c n = some (h, x, arg, d))
    (hgroup : groupSize d.group = 0) (hmore : t.drained.length + 1 < t.plan.rows) (hv : x.persistent = false)
    (hback : ∀ p ∈ pagesOf (packFrom x.byte d.fmt arg.offset ((t.plan.row0 + row) * d.rowLen + t.plan.col0) (s.epilogueRow c t row acc).codes).1
      (packFrom x.byte d.fmt arg.offset ((t.plan.row0 + row) * d.rowLen + t.plan.col0) (s.epilogueRow c t row acc).codes).2.length,
      (tfind x.pageTab p).isSome = true) :
    ∃ (s3 u : State) (z : TileSt), State.drainRow.drainOwn a uid ti row 0 s c t acc = u ∧ z.drained = t.drained ++ [row] ∧
      s3.obj? h.obj = some (x.written s.time.now (packFrom x.byte d.fmt arg.offset ((t.plan.row0 + row) * d.rowLen + t.plan.col0) (s.epilogueRow c t row acc).codes).1
        (slotLayout d) (packFrom x.byte d.fmt arg.offset ((t.plan.row0 + row) * d.rowLen + t.plan.col0) (s.epilogueRow c t row acc).codes).2) ∧
      (∀ p : Nat, p ≠ h.obj → s3.obj? p = s.obj? p) ∧ Frame [.ledger, .freeCtr, .objs] s s3 ∧
      (tget Counts.zero s3.ledger.ctrs c.e.ctx).vops = satAdd 64 (tget Counts.zero s.ledger.ctrs c.e.ctx).vops t.plan.cols ∧
      Frame [.arrays] (s3.modTile uid ti (fun _ => z)) u := by
  let s2 := s.charge c.e.ctx { Counts.zero with vops := t.plan.cols }
  have hframe2 := s.charge_frame c.e.ctx { Counts.zero with vops := t.plan.cols }
  have hout : s.outDesc c t.plan = d := by
    unfold State.outDesc
    rw [hslot]
    dsimp only
    rw [harg]
  have harg2 : s2.slotArg c n = some (h, x, arg, d) := (State.slotArg_of hframe2.ctxs_eq hframe2.objs_eq c n).trans harg
  obtain ⟨s3, hwrite, hobj, hother, hframe3⟩ := State.writeRow_volatile (s := s2) hslot harg2
    (State.epilogueRow_exps (by rw [hout]; exact hgroup) row acc) hv hback
  unfold State.drainRow.drainOwn
  extract_lets r g old bits' t' src v2 v2'
  have hv2 : v2' = s2 := by
    unfold v2'
    rw [if_neg (by rw [hslot]; simp)]
    unfold v2
    show s.charge c.e.ctx { Counts.zero with vops := t.plan.cols * 1 } = s2
    rw [Nat.mul_one]
  rw [hv2, if_neg (by simp [hstrict]), hwrite]
  dsimp only
  rw [if_neg (by unfold t'; simp; omega)]
  refine ⟨s3, _, t', rfl, rfl, hobj, hother, ?_, ?_, State.freeRows_frame _ _ _ _⟩
  · exact (hframe2.mono (by decide)).after hframe3 (by decide)
  · rw [hframe3.ledger_eq]
    exact State.charge_vops s c.e.ctx { Counts.zero with vops := t.plan.cols }

end Sys2Proof.Machine

namespace Sys2Proof.Proofs
-- One thread elaborates these proofs: in parallel they ask for more stacks than the check allows.
set_option Elab.async false
open Sys2Proof.Machine Sys2Proof.Claims

theorem rowDrain_exec {a uid ti row m e : Nat} {s : State} (hlive : s.live = true) :
    exec (.rowDrain a uid ti row m e) s = .next (s.drainRow a uid ti row m e).settle.recheck := congrArg Host.Outcome.next (if_pos hlive)

theorem rowDrain_holds : rowDrain := by
  intro a uid ti row n c t h x arg d s hlive hcalm hnw hcanon hc hn ht ha hd ho hstrict hslot harg hgroup hmore hv codes w hback
  obtain ⟨s3, u, z, hdrain, hz, hobj, hother, hframe3, hvops, hframe⟩ := State.drainOwn_volatile (a := a) (uid := uid) (ti := ti) hstrict hslot harg hgroup hmore hv hback
  have hexec := rowDrain_exec (a := a) (uid := uid) (ti := ti) (row := row) (m := 0) (e := 0) hlive
  have hrest3 : s3.atRest := (State.atRest_of hcalm hnw).frame hframe3
  have hrest : u.atRest := (hrest3.modTile uid ti (fun _ => z)).frame hframe
  rw [State.drainRow_own hc hn ht ha hd ho, hdrain, hrest.rest] at hexec
  have hc3 := State.cmd?_modTile ti (fun _ => z) ((State.cmd?_of_cmds hframe3.cmds_eq uid).trans hc)
  have hobjs : u.objs = s3.objs := hframe.objs_eq
  have hobj? (p : Nat) : u.obj? p = s3.obj? p := congrArg (fun l => tfind l p) hobjs
  refine ⟨u, _, z, _, hexec, ⟨(hobj? _).trans hobj, fun p hp => (hobj? p).trans (hother p hp)⟩,
    ObjectSt.written_byte (hcanon.obj_wf (State.obj_of_slotArg harg)) _ _ _ _, (State.cmd?_of_cmds hframe.cmds_eq uid).trans hc3, hn, ?_, hz, ?_⟩
  · show (c.tiles.modify ti (fun _ => z))[ti]? = some z
    rw [List.getElem?_modify_eq, ht]
    rfl
  · rw [hframe.ledger_eq]
    exact hvops

/-- The tile whose accumulators had a double-bit error starts again (R134). -/
theorem State.redoTile_spec {s : State} {uid ti : Nat} {c : Cmd} {t : TileSt} (hc : s.cmd? uid = some c) (hu : c.uid = uid) (ht : c.tiles[ti]? = some t)
    (hrest : s.atRest) : (s.redoTile c ti t).atRest ∧ ∃ (y : Cmd) (z : TileSt), (s.redoTile c ti t).cmd? uid = some y ∧ y.tiles[ti]? = some z ∧ z.acc = [] ∧
      z.drained = [] ∧ ∀ td ∈ z.todo, td.retry = true := by
  unfold State.redoTile
  rw [hu]
  extract_lets fw s1 s2
  let f (t : TileSt) : TileSt := { t with
    todo := expandPasses (s.actFmt c t.plan) fw t.split true t.plan.passes, acc := [], drained := [], sat := 0, flushed := 0,
    satGroups := 0, underGroups := 0, groupBits := [] }
  have hrest2 : s2.atRest := (hrest.modTile uid ti _).frame (s1.modArr_frame _ _)
  obtain ⟨st, q, hy⟩ := State.cmd?_refresh uid (s := s2) (State.cmd?_modTile ti _ hc)
  have hz := (List.getElem?_modify_eq f ti c.tiles).trans (congrArg (Option.map f) ht)
  exact ⟨hrest2.refresh uid, _, f t, hy, hz, rfl, rfl, fun td htd => expandPasses_retry htd⟩

theorem drainErrors_holds : drainErrors := by
  intro a uid ti row c t s hlive hcalm hnw hdist hc hn ht ha hd ho
  have hrest := State.atRest_of hcalm hnw
  refine ⟨?_, fun m hm => ?_⟩
  · let err := drainErr c a 0x12 2 (t.slots.getD (row / 512) 0 * 2 ^ 20 + row % 512 * 2048)
    have hframe := State.logTest_frame s err 1 a
    have hdrain : s.drainRow a uid ti row 0 2 = (s.logTest err 1 a).redoTile c ti t := by
      unfold State.drainRow
      rw [hc]
      dsimp -zeta only
      rw [ht]
      dsimp -zeta only
      rw [if_neg (by simp [hn, ha, hd]), State.reducedRow_own ho]
      exact if_pos (by decide)
    obtain ⟨hrest', y, z, hy, hz, hacc, hdrained, htodo⟩ := State.redoTile_spec (s := s.logTest err 1 a) ((State.cmd?_of_cmds hframe.cmds_eq uid).trans hc)
      (State.cmd?_mem hc).2 ht (hrest.frame hframe)
    have hexec := rowDrain_exec (a := a) (uid := uid) (ti := ti) (row := row) (m := 0) (e := 2) hlive
    rw [hdrain, hrest'.rest] at hexec
    have hredo := State.redoTile_frame (s.logTest err 1 a) c ti t
    refine ⟨_, y, z, hexec, hy, hz, hacc, hdrained, htodo, ?_, hredo.objs_eq.trans hframe.objs_eq⟩
    rw [hredo.tests_eq]
    exact State.startTest_mem _ _ _ _ _
  · let counted (c : Cmd) : Cmd := { c with retried := true, tele := { c.tele with lockstep := c.tele.lockstep + 2 } }
    obtain ⟨addr, hdrain⟩ : ∃ addr : Nat, s.drainRow a uid ti row 2 0 = ((s.modCmd uid counted).logTest (drainErr c a 0x11 2 addr) 2 a).failCheck uid ti := by
      unfold State.drainRow
      rw [hc]
      dsimp -zeta only
      rw [ht]
      dsimp -zeta only
      rw [if_neg (by simp [hn, ha, hd]), State.reducedRow_own ho, hm]
      exact ⟨_, rfl⟩
    have hframe := State.logTest_frame (s.modCmd uid counted) (drainErr c a 0x11 2 addr) 2 a
    have hrest1 := (hrest.modCmd uid (f := counted) (fun _ _ _ => ⟨rfl, rfl, rfl, rfl, id⟩)).frame hframe
    have hc1 := (State.cmd?_of_cmds hframe.cmds_eq uid).trans (State.cmd?_modCmd (f := counted) (by exact fun _ hd => hd) hc)
    obtain ⟨hend, y, hy, hst⟩ := State.failCheck_ends ti hrest1 hc1 hn
    have hexec := rowDrain_exec (a := a) (uid := uid) (ti := ti) (row := row) (m := 2) (e := 0) hlive
    rw [hdrain, hend.rest] at hexec
    exact ⟨_, y, hexec, hy, hst⟩

/-- Settles O39. -/
theorem rowDrains : Obligations.RowDrains := ⟨rowDrain_holds, drainErrors_holds⟩

end Sys2Proof.Proofs


/-! Searches: the tables, the selection, scans, the merger and the results: O40 and O41. -/

namespace Sys2Proof.Machine
-- One thread elaborates these proofs: in parallel they ask for more stacks than the check allows.
set_option Elab.async false
open Sys2Proof.Claims

/-- `u` follows `s` by changes of the command `uid`, which has become `d`; the other commands, objects, contexts and the store are as
before, and nothing else moves by itself. -/
structure Follows (s u : State) (uid : Nat) (d : Cmd) : Prop where
  cmd : u.cmd? uid = some d
  uids : u.cmds.map (·.uid) = s.cmds.map (·.uid)
  others : ∀ e ∈ s.cmds, e.uid ≠ uid → e ∈ u.cmds
  rest : u.atRest
  objs : u.objs = s.objs
  ctxs : u.ctxs = s.ctxs
  store : u.store = s.store

theorem Follows.start {s : State} {uid : Nat} {c : Cmd} (hc : s.cmd? uid = some c) (h : s.atRest) : Follows s s uid c :=
  ⟨hc, rfl, fun _ he _ => he, h, rfl, rfl, rfl⟩

theorem Follows.modCmd {s u : State} {uid : Nat} {d : Cmd} (h : Follows s u uid d) (f : Cmd → Cmd) (hf : ∀ e : Cmd, e.goesOn (f e)) :
    Follows s (u.modCmd uid f) uid (f d) where
  cmd := State.cmd?_modCmd (fun e he => (hf e).1.trans he) h.cmd
  uids := by
    rw [← h.uids]
    show (u.cmds.map _).map _ = _
    rw [List.map_map]
    refine List.map_congr_left (fun e _ => ?_)
    show (if e.uid = uid then f e else e).uid = e.uid
    split
    · exact (hf e).1
    · rfl
  others e he hne := List.mem_map.mpr ⟨e, h.others e he hne, if_neg hne⟩
  rest := h.rest.modCmd uid (fun e _ _ => hf e)
  objs := h.objs
  ctxs := h.ctxs
  store := h.store

theorem Follows.frame {s u v : State} {uid : Nat} {d : Cmd} {cs : List Comp} (h : Follows s u uid d) (hf : Frame cs u v) (hc : Comp.cmds ∉ cs := by decide)
    (hx : Comp.ctxs ∉ cs := by decide) (ho : Comp.objs ∉ cs := by decide) (hs : Comp.store ∉ cs := by decide) : Follows s v uid d where
  cmd := (State.cmd?_of_cmds (hf.same .cmds hc) uid).trans h.cmd
  uids := (congrArg (List.map _) (hf.same .cmds hc)).trans h.uids
  others e he hne := (hf.same .cmds hc : v.cmds = u.cmds) ▸ h.others e he hne
  rest := h.rest.frame hf hc hx
  objs := (hf.same .objs ho).trans h.objs
  ctxs := (hf.same .ctxs hx).trans h.ctxs
  store := (hf.same .store hs).trans h.store

/-- A change of a query of the search. -/
def Cmd.modQuery (c : Cmd) (q : Nat) (f : QuerySt → QuerySt) : Cmd :=
  { c with search := c.search.map (fun x => { x with queries := x.queries.modify q f }) }

theorem Cmd.modQuery_search {c : Cmd} {x : SearchSt} (h : c.search = some x) (q : Nat) (f : QuerySt → QuerySt) :
    (c.modQuery q f).search = some { x with queries := x.queries.modify q f } := congrArg (Option.map _) h

theorem Follows.modQuery {s u : State} {uid : Nat} {d : Cmd} (h : Follows s u uid d) (q : Nat) (f : QuerySt → QuerySt) :
    Follows s (u.modQuery uid q f) uid (d.modQuery q f) := h.modCmd (fun c => c.modQuery q f) (fun _ => ⟨rfl, rfl, rfl, rfl, id⟩)

theorem getElem?_modify_at {α : Type} {l : List α} {i : Nat} {a : α} (h : l[i]? = some a) (f : α → α) : (l.modify i f)[i]? = some (f a) :=
  (List.getElem?_modify_eq f i l).trans (congrArg (Option.map f) h)

theorem Follows.charge {s u : State} {uid : Nat} {d : Cmd} (h : Follows s u uid d) (n : Nat) (k : Counts) : Follows s (u.charge n k) uid d :=
  h.frame (u.charge_frame n k)

/-- What the passes of a search's product add to its command (R140, R144, R229). -/
def Cmd.searched (hit n : Nat) (c : Cmd) : Cmd :=
  { c with sampleAt := c.sampleAt + n, tele := { c.tele with checked := c.tele.checked + hit, unchecked := c.tele.unchecked + (n - hit) } }

theorem State.searchPasses_eq (s : State) (c : Cmd) (n : Nat) :
    ∃ hit : Nat, s.searchPasses c n = (s.modCmd c.uid (Cmd.searched hit n)).charge c.e.ctx { Counts.zero with steps := 128 * n } := ⟨_, rfl⟩

theorem Follows.searchPasses {s u : State} {uid : Nat} {d : Cmd} (h : Follows s u uid d) (c : Cmd) (hu : c.uid = uid) (n : Nat) :
    ∃ y : Cmd, Follows s (u.searchPasses c n) uid y ∧ y.search = d.search ∧ d.goesOn y ∧ y.retried = d.retried := by
  obtain ⟨hit, hs⟩ := u.searchPasses_eq c n
  rw [hs, hu]
  exact ⟨_, (h.modCmd (Cmd.searched hit n) (fun _ => ⟨rfl, rfl, rfl, rfl, id⟩)).charge _ _, rfl, ⟨rfl, rfl, rfl, rfl, id⟩, rfl⟩

end Sys2Proof.Machine

namespace Sys2Proof.Proofs
-- One thread elaborates these proofs: in parallel they ask for more stacks than the check allows.
set_option Elab.async false
open Sys2Proof.Machine Sys2Proof.Claims

theorem queryOf_of {s : State} {uid q : Nat} {d : Cmd} {x : SearchSt} (hc : s.cmd? uid = some d) (hx : d.search = some x) : queryOf s uid q = x.queries[q]? := by
  unfold queryOf
  rw [hc]
  dsimp only
  rw [hx]

/-- A step of a search after which the query is `z`. -/
theorem queryStep_of {k : Instr} {s u : State} {uid q : Nat} {d : Cmd} {x : SearchSt} {z : QuerySt} {P : State → Prop} (h : Follows s u uid d)
    (hexec : exec k s = .next u.settle.recheck) (hx : d.search = some x) (hz : x.queries[q]? = some z) (hP : P u) : queryStep k s uid q z P := by
  rw [h.rest.rest] at hexec
  exact ⟨u, hexec, (queryOf_of h.cmd hx).trans hz, h.objs, h.ctxs, h.store, h.uids, h.others, hP⟩

/-- A step that ends the search. -/
theorem searchStops_of {k : Instr} {s u : State} {uid st : Nat} {d : Cmd} (h : u.cmd? uid = some d) (hr : u.atRest) (hn : d.status = none)
    (hexec : exec k s = .next (u.conclude uid st 0 0).settle.recheck) (hl : st ≠ stLinkLost := by decide) (hs : st ≠ stSuccess := by decide) :
    searchStops k s uid st := by
  rw [(hr.conclude uid 0 0 hl).rest] at hexec
  exact ⟨_, _, hexec, State.cmd?_conclude 0 0 h hn hl, congrArg some (if_neg (fun h => hs h.1)), rfl⟩

end Sys2Proof.Proofs

namespace Sys2Proof.Machine
-- One thread elaborates these proofs: in parallel they ask for more stacks than the check allows.
set_option Elab.async false
open Sys2Proof.Claims

/-- A running search: its command, its query and its parameters. -/
theorem State.runningQuery_spec {s : State} {uid q : Nat} {c : Cmd} {x : SearchSt} {y : QuerySt} {a : SearchArgs}
    (h : s.runningQuery uid q = some (c, x, y, a)) :
    s.cmd? uid = some c ∧ c.search = some x ∧ s.searchArgs c = some a ∧ c.status = none ∧ x.queries[q]? = some y := by
  unfold State.runningQuery at h
  split at h
  · cases h
  · rename_i d hd
    split at h
    · rename_i x' a' hx ha
      split at h
      · cases h
      · rename_i hgo
        obtain ⟨y', hy, heq⟩ := Option.map_eq_some_iff.mp h
        obtain ⟨rfl, rfl, rfl, rfl⟩ := heq
        rw [not_or, Option.not_isSome_iff_eq_none] at hgo
        exact ⟨hd, hx, ha, hgo.1, hy⟩
    · cases h

/-- R213: how a product fails. -/
theorem productScore_error {metric fmt norm e : Nat} {q v : List (Option (Int × Int))} (h : productScore metric fmt q v norm = .error e) :
    e = stNonfinite ∨ e = stWindowExceeded := by
  unfold productScore at h
  split at h
  · split at h
    · exact .inl (Except.error.inj h).symm
    · split at h
      · exact .inr (Except.error.inj h).symm
      · cases h
  · exact .inl (Except.error.inj h).symm

theorem collectOk_error {α : Type} {l : List (Except Nat α)} {e : Nat} (h : collectOk l = .error e) : .error e ∈ l := by
  induction l with
  | nil => cases h
  | cons v l ih =>
    cases v with
    | error e' =>
      obtain rfl := Except.error.inj h
      exact List.mem_cons_self
    | ok v =>
      unfold collectOk at h
      split at h
      · cases h
      · rename_i e' he
        obtain rfl := Except.error.inj h
        exact List.mem_cons_of_mem _ (ih he)

/-- R214: how a table fails. -/
theorem SearchArgs.tables_error {a : SearchArgs} {q e : Nat} (h : a.tables q = .error e) : e = stNonfinite ∨ e = stWindowExceeded := by
  unfold SearchArgs.tables at h
  extract_lets hd qv ds at h
  split at h
  · rename_i e' he
    obtain rfl := Except.error.inj h
    obtain ⟨m, -, hm⟩ := List.mem_flatMap.mp (collectOk_error he)
    obtain ⟨w, -, hw⟩ := List.mem_map.mp hm
    exact productScore_error hw
  · cases h

/-- R228: how a verification fails. -/
theorem SearchArgs.verify_error {a : SearchArgs} {z : ScanSt} {st : Nat} (h : a.verify z = some st) : st = stStorageMedia ∨ st = stInternal := by
  unfold SearchArgs.verify at h
  dsimp only at h
  split at h
  · exact .inl (Option.some.inj h).symm
  · split at h
    · exact .inr (Option.some.inj h).symm
    · cases h

theorem satAdd_zero (w x n : Nat) : satAdd w (satAdd w x n) 0 = satAdd w x n := by
  unfold satAdd
  omega

theorem satAdd_zero_left (w x n : Nat) : satAdd w (satAdd w x 0) n = satAdd w x n := by
  unfold satAdd
  omega

theorem State.charge_codes (s : State) (n : Nat) (k : Counts) : (tget Counts.zero (s.charge n k).ledger.ctrs n).codes =
    satAdd 64 (tget Counts.zero s.ledger.ctrs n).codes k.codes := congrArg Counts.codes (tget_tset_same _ _ _ _)

end Sys2Proof.Machine

namespace Sys2Proof.Proofs
-- One thread elaborates these proofs: in parallel they ask for more stacks than the check allows.
set_option Elab.async false
open Sys2Proof.Machine Sys2Proof.Claims

/-- The parts of a running search. -/
theorem Searching.parts {s : State} {uid q : Nat} {c : Cmd} {x : SearchSt} {y : QuerySt} {a : SearchArgs} (h : Searching s uid q c x y a) :
    Follows s s uid c ∧ c.search = some x ∧ s.searchArgs c = some a ∧ c.status = none ∧ c.uid = uid ∧ x.queries[q]? = some y := by
  obtain ⟨hc, hx, ha, hn, hy⟩ := State.runningQuery_spec h.running
  exact ⟨Follows.start hc (State.atRest_of h.calm h.waiters), hx, ha, hn, (State.cmd?_mem hc).2, hy⟩

theorem speculativeScanLaunch_holds : speculativeScanLaunch := by
  intro uid q list c x y a s h ok
  obtain ⟨hf, hx, -, -, -, hy⟩ := Searching.parts h
  let f (y : QuerySt) : QuerySt := { y with scans := y.scans ++ [ScanSt.fresh y.scans.length list 0] }
  have hok : (y.tableSent = true ∧ y.final = false ∧ list < a.ix.head.nlist ∧ (y.scans.any (fun c => c.list == list)) = false
        ∧ y.scans.countP (fun c => c.tag == 0 && !c.ended) < 16 ∧ y.scans.length < 1024) ↔ ok := by
    rw [List.countP_eq_length_filter, List.any_eq_false]
    simp only [beq_iff_eq]
    rfl
  have hexec : exec (.speculativeScanLaunch uid q list) s = .next (s.launchSpec uid q list).settle.recheck := congrArg Host.Outcome.next (if_pos h.lanes)
  have hlaunch : s.launchSpec uid q list = if ok then s.modQuery uid q f else s := by
    unfold State.launchSpec
    rw [h.running]
    exact if_congr hok rfl rfl
  rw [hlaunch] at hexec
  refine ⟨fun hok => ?_, fun hno => ?_⟩
  · rw [if_pos hok] at hexec
    exact queryStep_of (hf.modQuery q f) hexec (Cmd.modQuery_search hx q f) (getElem?_modify_at hy f) rfl
  · rwa [if_neg hno, hf.rest.rest] at hexec

end Sys2Proof.Proofs

namespace Sys2Proof.Machine
-- One thread elaborates these proofs: in parallel they ask for more stacks than the check allows.
set_option Elab.async false
open Sys2Proof.Claims

theorem State.fixMode_goesOn (s : State) (c : Cmd) (a : Nat) : c.goesOn (s.fixMode c a) ∧ (s.fixMode c a).search = c.search ∧
    (s.fixMode c a).retried = c.retried := by
  unfold State.fixMode
  extract_lets x m
  split
  · exact ⟨c.goesOn_refl, rfl, rfl⟩
  · exact ⟨⟨rfl, rfl, rfl, rfl, id⟩, rfl, rfl⟩

/-- The merger slots and the generation that a search takes with its first table (R220). -/
def SearchSt.placed (x : SearchSt) (free : List Nat) (nq gen : Nat) : SearchSt :=
  { x with queries := (x.queries.zip (free.take nq)).map (fun p => { p.1 with slot := p.2, gen := gen }) }

/-- The first table of a search: the mode of the check is fixed, the passes are counted, and the merger slots taken (R139, R220). -/
def State.firstTable (s : State) (uid : Nat) (c : Cmd) (a : SearchArgs) : State :=
  let s1 := s.modCmd uid (fun c => s.fixMode c (s.searchArray c))
  let s2 := s1.searchPasses (s.fixMode c (s.searchArray c)) a.ix.head.tblPasses
  (s2.modCmd uid (fun e => { e with st := .holding, search := e.search.map (fun x => x.placed (s.freeSlots c) a.nq (s.nextId % 8192)) })).bump

/-- The table of a query is sent (R215): `s0` is the state with the search in its merger slots. -/
def State.tableTo (s0 : State) (uid q : Nat) (c : Cmd) (a : SearchArgs) : State :=
  match a.tables q with
  | .error e => s0.conclude uid e 0 0
  | .ok (e, t, fl) =>
    ((s0.modQuery uid q (fun y => { y with tableSent := true, tableExp := e, table := t })).modCmd uid (fun c =>
      { c with tele := { c.tele with flushed := c.tele.flushed + fl } })).charge c.e.ctx { Counts.zero with vops := 256 * a.ix.head.m }

theorem State.sendTable_eq {s : State} {uid q : Nat} {c : Cmd} {x : SearchSt} {y : QuerySt} {a : SearchArgs}
    (h : s.runningQuery uid q = some (c, x, y, a)) (hsent : y.tableSent = false) :
    ((∀ z ∈ x.queries, z.tableSent = false) → (s.freeSlots c).length < a.nq → s.sendTable uid q = s) ∧
    ((∀ z ∈ x.queries, z.tableSent = false) → a.nq ≤ (s.freeSlots c).length → s.sendTable uid q = (s.firstTable uid c a).tableTo uid q c a) ∧
    (¬ (∀ z ∈ x.queries, z.tableSent = false) → s.sendTable uid q = s.tableTo uid q c a) := by
  obtain ⟨hc, -, -, -, -⟩ := State.runningQuery_spec h
  have hfresh : x.queries.all (fun z => !z.tableSent) = true ↔ ∀ z ∈ x.queries, z.tableSent = false := by
    simp [List.all_eq_true]
  unfold State.sendTable
  rw [h]
  dsimp -zeta only
  rw [if_neg (by rw [hsent]; exact Bool.false_ne_true)]
  extract_lets fresh free hd s1 s2 s0 src
  refine ⟨fun hf hn => if_pos ⟨hfresh.mpr hf, hn⟩, fun hf hn => ?_, fun hf => ?_⟩
  · rw [if_neg (by rintro ⟨-, h⟩; exact absurd h (Nat.not_lt.mpr hn))]
    have hs0 : s0 = s.firstTable uid c a := by
      have hs2 : s2 = s1.searchPasses (s.fixMode c (s.searchArray c)) a.ix.head.tblPasses := by
        unfold s2
        rw [State.cmd?_modCmd (f := fun c => s.fixMode c (s.searchArray c)) (fun d hd => (s.fixMode_goesOn d _).1.1.trans hd) hc]
      unfold s0
      rw [if_pos (hfresh.mpr hf), hs2] <;> rfl
    rw [hs0] <;> rfl
  · rw [if_neg (by rintro ⟨h, -⟩; exact hf (hfresh.mp h))]
    have hs0 : s0 = s := if_neg (fun h => hf (hfresh.mp h))
    rw [hs0] <;> rfl

theorem Follows.firstTable {s : State} {uid : Nat} {c : Cmd} (h : Follows s s uid c) (hu : c.uid = uid) (a : SearchArgs) :
    ∃ d : Cmd, Follows s (s.firstTable uid c a) uid d ∧ d.search = c.search.map (fun x => x.placed (s.freeSlots c) a.nq (s.nextId % 8192)) ∧
      d.status = c.status ∧ (tget Counts.zero (s.firstTable uid c a).ledger.ctrs c.e.ctx).steps =
        satAdd 64 (tget Counts.zero s.ledger.ctrs c.e.ctx).steps (128 * a.ix.head.tblPasses) := by
  have h1 := h.modCmd (fun c => s.fixMode c (s.searchArray c)) (fun e => (s.fixMode_goesOn e _).1)
  obtain ⟨hgo, hsearch, -⟩ := s.fixMode_goesOn c (s.searchArray c)
  obtain ⟨huid, he, -, hstatus, -⟩ := hgo
  obtain ⟨d2, h2, hsearch2, ⟨-, -, -, hstatus2, -⟩, -⟩ := h1.searchPasses (s.fixMode c (s.searchArray c)) (huid.trans hu) a.ix.head.tblPasses
  let g (e : Cmd) : Cmd := { e with st := .holding, search := e.search.map (fun x => x.placed (s.freeSlots c) a.nq (s.nextId % 8192)) }
  have h3 := (h2.modCmd g (fun _ => ⟨rfl, rfl, rfl, rfl, fun _ => nofun⟩)).frame (State.bump_frame _)
  refine ⟨g d2, h3, congrArg (Option.map _) (hsearch2.trans hsearch), hstatus2.trans hstatus, ?_⟩
  have hsteps := State.charge_steps ((s.modCmd uid (fun c => s.fixMode c (s.searchArray c))).modCmd (s.fixMode c (s.searchArray c)).uid
    (Cmd.searched 0 0)) (s.fixMode c (s.searchArray c)).e.ctx { Counts.zero with steps := 128 * a.ix.head.tblPasses }
  rw [he] at hsteps
  obtain ⟨hit, hs⟩ := (s.modCmd uid (fun c => s.fixMode c (s.searchArray c))).searchPasses_eq (s.fixMode c (s.searchArray c)) a.ix.head.tblPasses
  show (tget Counts.zero ((s.modCmd uid (fun c => s.fixMode c (s.searchArray c))).searchPasses (s.fixMode c (s.searchArray c)) a.ix.head.tblPasses).ledger.ctrs c.e.ctx).steps = _
  rw [hs, he]
  exact hsteps

end Sys2Proof.Machine

namespace Sys2Proof.Proofs
-- One thread elaborates these proofs: in parallel they ask for more stacks than the check allows.
set_option Elab.async false
open Sys2Proof.Machine Sys2Proof.Claims

/-- The table goes to the lanes (R215). -/
theorem tableTo_sent {k : Instr} {s s0 : State} {uid q e fl : Nat} {t : List Int} {d c : Cmd} {x : SearchSt} {y : QuerySt} {a : SearchArgs}
    (h : Follows s s0 uid d) (hx : d.search = some x) (hy : x.queries[q]? = some y) (hexec : exec k s = .next (s0.tableTo uid q c a).settle.recheck)
    (ht : a.tables q = .ok (e, t, fl)) : queryStep k s uid q { y with tableSent := true, tableExp := e, table := t } (fun u =>
      (tget Counts.zero u.ledger.ctrs c.e.ctx).vops = satAdd 64 (tget Counts.zero s0.ledger.ctrs c.e.ctx).vops (256 * a.ix.head.m) ∧
      (tget Counts.zero u.ledger.ctrs c.e.ctx).steps = satAdd 64 (tget Counts.zero s0.ledger.ctrs c.e.ctx).steps 0) := by
  unfold State.tableTo at hexec
  rw [ht] at hexec
  let f (y : QuerySt) : QuerySt := { y with tableSent := true, tableExp := e, table := t }
  have h1 := ((h.modQuery q f).modCmd (fun c => { c with tele := { c.tele with flushed := c.tele.flushed + fl } })
    (fun _ => ⟨rfl, rfl, rfl, rfl, id⟩)).charge c.e.ctx { Counts.zero with vops := 256 * a.ix.head.m }
  exact queryStep_of h1 hexec (Cmd.modQuery_search hx q f) (getElem?_modify_at hy f) ⟨State.charge_vops _ _ _, State.charge_steps _ _ _⟩

/-- A table that cannot be built ends the search (R214). -/
theorem tableTo_fails {k : Instr} {s s0 : State} {uid q e : Nat} {d c : Cmd} {a : SearchArgs} (h : Follows s s0 uid d) (hn : d.status = none)
    (hexec : exec k s = .next (s0.tableTo uid q c a).settle.recheck) (ht : a.tables q = .error e) : searchStops k s uid e := by
  unfold State.tableTo at hexec
  rw [ht] at hexec
  rcases SearchArgs.tables_error ht with rfl | rfl
  · exact searchStops_of h.cmd h.rest hn hexec
  · exact searchStops_of h.cmd h.rest hn hexec

theorem queryStep_mono {k : Instr} {s : State} {uid q : Nat} {z : QuerySt} {P Q : State → Prop} (h : queryStep k s uid q z P) (hpq : ∀ u, P u → Q u) :
    queryStep k s uid q z Q := by
  obtain ⟨u, hexec, hz, ho, hc, hs, hu, hd, hp⟩ := h
  exact ⟨u, hexec, hz, ho, hc, hs, hu, hd, hpq u hp⟩

theorem distanceTableSend_holds : distanceTableSend := by
  intro uid q c x y a s h hallowed hsent first
  obtain ⟨hf, hx, -, hn, hu, hy⟩ := Searching.parts h
  have hexec : exec (.distanceTableSend uid q) s = .next (s.sendTable uid q).settle.recheck :=
    congrArg Host.Outcome.next (if_pos (by rw [h.lanes, hallowed]; rfl))
  obtain ⟨hwaits, hfirst, hnext⟩ := State.sendTable_eq h.running hsent
  obtain ⟨d0, hf0, hsearch0, hstatus0, hsteps0⟩ := hf.firstTable hu a
  refine ⟨fun hfst hfull => ?_, fun e fl t ht => ⟨fun hno => ?_, fun hfst hroom hlen => ?_⟩, fun e ht hroom => ?_⟩
  · rwa [hwaits hfst hfull, hf.rest.rest] at hexec
  · rw [hnext hno] at hexec
    exact queryStep_mono (tableTo_sent hf hx hy hexec ht) (fun u hp => hp.1)
  · have hq : q < x.queries.length := (List.getElem?_eq_some_iff.mp hy).1
    have hz : (x.placed (s.freeSlots c) a.nq (s.nextId % 8192)).queries[q]? = some { y with slot := (s.freeSlots c).getD q 0, gen := s.nextId % 8192 } := by
      unfold SearchSt.placed
      rw [List.getElem?_map, (List.getElem?_zip_eq_some (z := (y, (s.freeSlots c).getD q 0))).mpr ⟨hy, ?_⟩]
      · rfl
      · rw [List.getElem?_take_of_lt (by omega), List.getD_eq_getElem?_getD, List.getElem?_eq_getElem (by omega)]
        rfl
    rw [hfirst hfst hroom] at hexec
    refine queryStep_mono (tableTo_sent hf0 (hsearch0.trans (congrArg (Option.map _) hx)) hz hexec ht) (fun u hp => ?_)
    rw [hp.2, hsteps0, satAdd_zero]
  · by_cases hfst : first
    · rw [hfirst hfst (hroom hfst)] at hexec
      exact tableTo_fails hf0 (hstatus0.trans hn) hexec ht
    · rw [hnext hfst] at hexec
      exact tableTo_fails hf hn hexec ht

end Sys2Proof.Proofs

namespace Sys2Proof.Machine
-- One thread elaborates these proofs: in parallel they ask for more stacks than the check allows.
set_option Elab.async false
open Sys2Proof.Claims

/-- The tag of a scan when the selection is final (R224). -/
def ScanSt.retag (sel : List Nat) (z : ScanSt) : ScanSt := { z with tag := if z.list ∈ sel ∧ z.short = false then 1 else 2 }

/-- The foreground scans of selected lists that no confirmed scan covers (R224). -/
def foreground (sel : List Nat) (scans : List ScanSt) : List ScanSt :=
  let need := sel.filter (fun l => !scans.any (fun z => z.list == l && z.tag == 1))
  (need.zip (List.range need.length)).map (fun p => ScanSt.fresh (scans.length + p.2) p.1 1)

theorem foreground_mem {sel : List Nat} {scans : List ScanSt} {w : ScanSt} (h : w ∈ foreground sel scans) :
    w.tag = 1 ∧ w.ended = false ∧ w.nextBlock = 0 ∧ w.list ∈ sel := by
  obtain ⟨p, hp, rfl⟩ := List.mem_map.mp h
  exact ⟨rfl, rfl, rfl, (List.mem_filter.mp (List.of_mem_zip hp).1).1⟩

/-- R224: every selected list has a confirmed scan. -/
theorem foreground_covers {sel : List Nat} {scans : List ScanSt} {l : Nat} (h : l ∈ sel) : ∃ w ∈ scans ++ foreground sel scans, w.list = l ∧ w.tag = 1 := by
  by_cases hany : scans.any (fun z => z.list == l && z.tag == 1) = true
  · obtain ⟨w, hw, hwl⟩ := List.any_eq_true.mp hany
    rw [Bool.and_eq_true, beq_iff_eq, beq_iff_eq] at hwl
    exact ⟨w, List.mem_append_left _ hw, hwl⟩
  · let need := sel.filter (fun l => !scans.any (fun z => z.list == l && z.tag == 1))
    have hl : l ∈ need := List.mem_filter.mpr ⟨h, by simpa using hany⟩
    obtain ⟨i, hi, hli⟩ := List.mem_iff_getElem.mp hl
    refine ⟨ScanSt.fresh (scans.length + i) l 1, List.mem_append_right _ (List.mem_map.mpr ⟨(l, i), ?_, rfl⟩), rfl, rfl⟩
    refine List.mem_iff_getElem?.mpr ⟨i, (List.getElem?_zip_eq_some (z := (l, i))).mpr ⟨?_, ?_⟩⟩
    · rw [List.getElem?_eq_getElem hi, hli]
    · rw [List.getElem?_range hi]

/-- The query with its selection final (R224, R226). -/
def QuerySt.finalized (sel : List Nat) (redo : Bool) (kept : List Cand) (y z : QuerySt) : QuerySt :=
  let scans := y.scans.map (ScanSt.retag sel)
  { z with
    final := true, selected := sel, scans := scans ++ foreground sel scans, kept := kept, pool := [],
    arriving := z.arriving.filter (fun d => scans.any (fun z => z.launch == d.launch && z.tag == 1)), rescanned := redo }

/-- The codes that the confirmed scans have evaluated (R226). -/
def QuerySt.confirmedCodes (y : QuerySt) (sel : List Nat) : Nat := (((y.scans.map (ScanSt.retag sel)).filter (fun z => z.tag == 1)).map (·.codes)).sum

theorem Follows.failScan {s u : State} {uid : Nat} {d : Cmd} (h : Follows s u uid d) (c : Cmd) (st : Nat) :
    ∃ v : State, u.failScan c st = v.conclude c.uid st 0 0 ∧ Follows s v uid d := by
  unfold State.failScan
  refine ⟨_, rfl, ?_⟩
  split
  · exact (h.frame (State.logTest_frame _ _ _ _)).frame (State.drawn_frame _)
  · exact h

end Sys2Proof.Machine

namespace Sys2Proof.Proofs
-- One thread elaborates these proofs: in parallel they ask for more stacks than the check allows.
set_option Elab.async false
open Sys2Proof.Machine Sys2Proof.Claims

/-- A scan that fails its verification ends the search (R228). -/
theorem failScan_stops {k : Instr} {s u : State} {uid st : Nat} {c d : Cmd} {a : SearchArgs} {z : ScanSt} (h : Follows s u uid d) (hu : c.uid = uid)
    (hn : d.status = none) (hv : a.verify z = some st) (hexec : exec k s = .next (u.failScan c st).settle.recheck) : searchStops k s uid st := by
  obtain ⟨v, hfail, hv'⟩ := h.failScan c st
  rw [hfail, hu] at hexec
  rcases SearchArgs.verify_error hv with rfl | rfl
  · exact searchStops_of hv'.cmd hv'.rest hn hexec
  · exact searchStops_of hv'.cmd hv'.rest hn hexec

/-- The parts of a final selection: the state with the query's selection made, and then the first scan that fails its verification. -/
theorem finalize_eq {s : State} {uid q : Nat} {c : Cmd} {x : SearchSt} {y : QuerySt} {a : SearchArgs} {sel : List Nat} (h : Searching s uid q c x y a)
    (hsent : y.tableSent = true) (hopen : y.final = false) (hsel : a.selection q = .ok sel) :
    ∃ (u : State) (d : Cmd) (redo : Bool) (kept : List Cand), Follows s u uid d ∧ d.status = none ∧
      d.search = some { x with queries := x.queries.modify q (QuerySt.finalized sel redo kept y) } ∧
      (tget Counts.zero u.ledger.ctrs c.e.ctx).codes = satAdd 64 (tget Counts.zero s.ledger.ctrs c.e.ctx).codes (y.confirmedCodes sel) ∧
      s.finalize uid q = match ((y.scans.map (ScanSt.retag sel)).filter (fun z => z.tag == 1 && z.ended)).findSome? a.verify with
        | some st => u.failScan c st
        | none => u := by
  obtain ⟨hf, hx, -, hn, hu, hy⟩ := Searching.parts h
  let s00 := if x.queries.all (fun z => !z.final) then s.searchPasses c a.ix.head.cenPasses else s
  let s0 := s00.charge c.e.ctx { Counts.zero with vops := a.ix.head.nlist }
  have h00 : ∃ d : Cmd, Follows s s00 uid d ∧ d.search = c.search ∧ d.status = none ∧
      satAdd 64 (tget Counts.zero s00.ledger.ctrs c.e.ctx).codes 0 = satAdd 64 (tget Counts.zero s.ledger.ctrs c.e.ctx).codes 0 := by
    unfold s00
    split
    · obtain ⟨d, hd, hsearch, ⟨-, -, -, hstatus, -⟩, -⟩ := hf.searchPasses c hu a.ix.head.cenPasses
      obtain ⟨hit, heq⟩ := s.searchPasses_eq c a.ix.head.cenPasses
      refine ⟨d, hd, hsearch, hstatus.trans hn, ?_⟩
      rw [heq, State.charge_codes]
      exact satAdd_zero _ _ _
    · exact ⟨c, hf, rfl, hn, rfl⟩
  obtain ⟨d0, hf00, hsearch, hstatus, hcodes0⟩ := h00
  let redo := y.scans.any (fun z => z.short && sel.contains z.list)
  let good (d : Cand) : Bool := (y.scans.map (ScanSt.retag sel)).any (fun z => z.launch == d.launch && z.tag == 1)
  let kept := (y.pool.filter good).foldl (keepCand (a.k * a.f)) y.kept
  let s1 := s0.modQuery uid q (QuerySt.finalized sel redo kept y)
  let s2 := if y.confirmedCodes sel = 0 then s1 else s1.charge c.e.ctx { Counts.zero with codes := y.confirmedCodes sel }
  have hf1 := (hf00.charge c.e.ctx { Counts.zero with vops := a.ix.head.nlist }).modQuery q (QuerySt.finalized sel redo kept y)
  have hcodes1 : (tget Counts.zero s1.ledger.ctrs c.e.ctx).codes = satAdd 64 (tget Counts.zero s.ledger.ctrs c.e.ctx).codes 0 :=
    (State.charge_codes s00 c.e.ctx { Counts.zero with vops := a.ix.head.nlist }).trans hcodes0
  have hretag : (fun z : ScanSt => if sel.contains z.list && !z.short then { z with tag := 1 } else { z with tag := 2 }) = ScanSt.retag sel := by
    funext z
    unfold ScanSt.retag
    by_cases hz : z.list ∈ sel ∧ z.short = false
    · rw [if_pos hz, if_pos (by simpa using hz)]
    · rw [if_neg hz, if_neg (by simpa using hz)]
  refine ⟨s2, d0.modQuery q (QuerySt.finalized sel redo kept y), redo, kept, ?_, hstatus, Cmd.modQuery_search (hsearch.trans hx) q _, ?_, ?_⟩
  · unfold s2
    split
    · exact hf1
    · exact hf1.charge _ _
  · unfold s2
    split
    · rename_i hzero
      rw [hcodes1, hzero]
    · rw [State.charge_codes, hcodes1]
      exact satAdd_zero_left _ _ _
  · unfold State.finalize
    rw [h.running]
    dsimp -zeta only
    rw [if_neg (by simp [hsent, hopen]), hsel]
    dsimp only
    rw [hretag] <;> rfl

theorem selectionFinal_holds : selectionFinal := by
  intro uid q c x y a sel s h hallowed hsent hopen hsel retag
  obtain ⟨hf, hx, -, hn, hu, hy⟩ := Searching.parts h
  have hexec : exec (.selectionFinal uid q) s = .next (s.finalize uid q).settle.recheck :=
    congrArg Host.Outcome.next (if_pos (by rw [h.lanes, hallowed]; rfl))
  obtain ⟨u, d, redo, kept, hfu, hstatus, hsearch, hcodes, hfin⟩ := finalize_eq h hsent hopen hsel
  refine ⟨fun hver => ?_, fun z st hz hended hlist hshort hver => ?_⟩
  · have hnone : ((y.scans.map (ScanSt.retag sel)).filter (fun z => z.tag == 1 && z.ended)).findSome? a.verify = none := by
      refine List.findSome?_eq_none_iff.mpr (fun w hw => ?_)
      obtain ⟨hw, htag⟩ := List.mem_filter.mp hw
      obtain ⟨z, hz, rfl⟩ := List.mem_map.mp hw
      rw [Bool.and_eq_true, beq_iff_eq] at htag
      have hsel : z.list ∈ sel ∧ z.short = false := by
        by_contra hno
        exact absurd ((if_neg hno).symm.trans htag.1) (by decide : (2 : Nat) ≠ 1)
      exact hver z hz htag.2 hsel.1 hsel.2
    rw [hfin, hnone] at hexec
    refine ⟨_, queryStep_of hfu hexec hsearch (getElem?_modify_at hy _) hcodes, rfl, rfl, rfl, ?_, fun l hl => foreground_covers hl, fun w hw => ?_,
      fun e he => ?_⟩
    · exact List.take_left' (List.length_map _)
    · refine foreground_mem (scans := y.scans.map (ScanSt.retag sel)) ?_
      rwa [show (QuerySt.finalized sel redo kept y y).scans.drop y.scans.length = foreground sel (y.scans.map (ScanSt.retag sel)) from
        List.drop_left' (List.length_map _)] at hw
    · obtain ⟨he, hgood⟩ := List.mem_filter.mp he
      obtain ⟨w, hw, hwl⟩ := List.any_eq_true.mp hgood
      rw [Bool.and_eq_true, beq_iff_eq, beq_iff_eq] at hwl
      exact ⟨he, w, hw, hwl⟩
  · have hsome : ((y.scans.map (ScanSt.retag sel)).filter (fun z => z.tag == 1 && z.ended)).findSome? a.verify = some st := by
      have htag : (ScanSt.retag sel z).tag = 1 := if_pos ⟨hlist, hshort⟩
      rw [hz, List.map_singleton, List.filter_cons_of_pos (by rw [htag]; exact hended)]
      rw [List.findSome?_cons]
      rw [show a.verify (ScanSt.retag sel z) = some st from hver]
    rw [hfin, hsome] at hexec
    exact failScan_stops hfu hu hstatus hver hexec

/-- Settles O40. -/
theorem selections : Obligations.Selections := ⟨speculativeScanLaunch_holds, distanceTableSend_holds, selectionFinal_holds⟩

end Sys2Proof.Proofs


/-! Scans, the merger, re-rank and the results: O41. -/

namespace Sys2Proof.Proofs
-- One thread elaborates these proofs: in parallel they ask for more stacks than the check allows.
set_option Elab.async false
open Sys2Proof.Machine Sys2Proof.Claims

/-! ### The merger -/

theorem mergerCandidate_holds : mergerCandidate := by
  intro uid q which c x y a d z s h hd hz rest
  obtain ⟨hf, hx, -, -, -, hy⟩ := Searching.parts h
  have hexec : exec (.mergerCandidate uid q which) s = .next (s.mergeCand uid q which).settle.recheck := congrArg Host.Outcome.next (if_pos h.lanes)
  have hgo (f : QuerySt → QuerySt) (hm : s.mergeCand uid q which = s.modQuery uid q f) :
      queryStep (.mergerCandidate uid q which) s uid q (f y) (fun u => u.ledger = s.ledger) := by
    rw [hm] at hexec
    exact queryStep_of (hf.modQuery q f) hexec (Cmd.modQuery_search hx q f) (getElem?_modify_at hy f) rfl
  have hmerge : s.mergeCand uid q which =
      if z.tag = 2 then s.modQuery uid q (fun y => { y with arriving := rest })
      else if z.tag = 1 then s.modQuery uid q (fun y => { y with arriving := rest, kept := keepCand (a.k * a.f) y.kept d })
      else if y.pool.length < 16384 then s.modQuery uid q (fun y => { y with arriving := rest, pool := y.pool ++ [d] })
      else s.modQuery uid q (fun y => { y with
        arriving := rest, scans := y.scans.map (fun w => if w.launch = z.launch then { w with short := true } else w) }) := by
    unfold State.mergeCand
    rw [h.running]
    dsimp -zeta only
    rw [hd]
    dsimp -zeta only
    rw [hz]
  let shorten (y : QuerySt) : QuerySt :=
    { y with arriving := rest, scans := y.scans.map (fun w => if w.launch = z.launch then { w with short := true } else w) }
  let pooled (y : QuerySt) : QuerySt := { y with arriving := rest, pool := y.pool ++ [d] }
  let merged (y : QuerySt) : QuerySt := { y with arriving := rest, kept := keepCand (a.k * a.f) y.kept d }
  let discarded (y : QuerySt) : QuerySt := { y with arriving := rest }
  refine ⟨fun htag => hgo merged ?_, fun htag => hgo discarded ?_, fun htag hroom => hgo pooled ?_, fun htag hfull => hgo shorten ?_⟩
  · rw [hmerge, if_neg (by omega), if_pos htag]
  · rw [hmerge, if_pos htag]
  · rw [hmerge, if_neg (by omega), if_neg (by omega), if_pos hroom]
  · rw [hmerge, if_neg (by omega), if_neg (by omega), if_neg (by omega)]

/-! ### The kept set -/

/-- The candidates of a kept set with one more, before the worst falls out (R219). -/
def oneFor (l : List Cand) (d : Cand) : List Cand :=
  match l.find? (fun b => b.id == d.id) with
  | some b => betterCand b d :: l.filter (fun b => b.id != d.id)
  | none => d :: l

theorem candLe_iff (a b : Cand) : candLe a b = true ↔ a.score < b.score ∨ (a.score = b.score ∧ a.id ≤ b.id) := by
  simp [candLe]

theorem betterCand_mem (b d : Cand) : betterCand b d = b ∨ betterCand b d = d := by
  unfold betterCand
  split
  · exact .inr rfl
  · exact .inl rfl

/-- Every member of the set with one more is the new candidate, or an old one that it does not displace (R219). -/
theorem oneFor_mem {l : List Cand} {b d : Cand} (h : b ∈ oneFor l d) : b = d ∨ b ∈ l := by
  unfold oneFor at h
  split at h
  · rename_i b' hb
    rcases List.mem_cons.mp h with rfl | h
    · rcases betterCand_mem b' d with h' | h' <;> rw [h']
      · exact .inr (List.mem_of_find?_eq_some hb)
      · exact .inl rfl
    · exact .inr (List.mem_filter.mp h).1
  · exact List.mem_cons.mp h

theorem oneFor_ids {l : List Cand} (hn : (l.map (·.id)).Nodup) (d : Cand) : ((oneFor l d).map (·.id)).Nodup := by
  unfold oneFor
  split
  · rename_i b hb
    have hid : b.id = d.id := by simpa using List.find?_some hb
    have hbetter : (betterCand b d).id = d.id := by
      rcases betterCand_mem b d with h | h <;> rw [h]
      exact hid
    refine List.nodup_cons.mpr ⟨fun h => ?_, (List.filter_sublist.map _).nodup hn⟩
    obtain ⟨e, he, heq⟩ := List.mem_map.mp h
    exact absurd (List.mem_filter.mp he).2 (by simp [show e.id = d.id from heq.trans hbetter])
  · rename_i hnone
    refine List.nodup_cons.mpr ⟨fun h => ?_, hn⟩
    obtain ⟨e, he, heq⟩ := List.mem_map.mp h
    exact absurd (List.find?_eq_none.mp hnone e he) (by simp [heq])

/-- One of the candidates has the new one's ID: the set does not grow. -/
theorem filter_id_length {l : List Cand} (hn : (l.map (·.id)).Nodup) {b : Cand} (hb : b ∈ l) : (l.filter (fun e => e.id != b.id)).length + 1 = l.length := by
  induction l with
  | nil => cases hb
  | cons e l ih =>
    obtain ⟨he, hl⟩ := List.nodup_cons.mp hn
    rcases List.mem_cons.mp hb with rfl | hb
    · rw [List.filter_cons_of_neg (by simp), List.filter_eq_self.mpr (fun e he' => ?_)]
      · rfl
      · simp only [bne_iff_ne, ne_eq]
        exact fun h => he (List.mem_map.mpr ⟨e, he', h⟩)
    · rw [List.filter_cons_of_pos (by simpa using fun h => he (List.mem_map.mpr ⟨b, hb, h.symm⟩)), List.length_cons, ih hl hb, List.length_cons]

theorem oneFor_length {l : List Cand} (hn : (l.map (·.id)).Nodup) (d : Cand) :
    (oneFor l d).length = if ∃ b ∈ l, b.id = d.id then l.length else l.length + 1 := by
  unfold oneFor
  split
  · rename_i b hb
    have hid : b.id = d.id := by simpa using List.find?_some hb
    rw [if_pos ⟨b, List.mem_of_find?_eq_some hb, hid⟩, List.length_cons, ← hid]
    exact filter_id_length hn (List.mem_of_find?_eq_some hb)
  · rename_i hnone
    rw [if_neg (fun ⟨b, hb, hid⟩ => absurd (List.find?_eq_none.mp hnone b hb) (by simp [hid])), List.length_cons]

theorem keptSet_holds : keptSet := by
  intro kk l d hn k
  have hperm : ((oneFor l d).mergeSort candLe).Perm (oneFor l d) := List.mergeSort_perm _ _
  have hk : k = ((oneFor l d).mergeSort candLe).take kk := rfl
  have hmem {b : Cand} (hb : b ∈ k) : b ∈ oneFor l d := hperm.mem_iff.mp (List.mem_of_mem_take hb)
  refine ⟨?_, ?_, ?_, fun b hb => oneFor_mem (hmem hb), fun b hb hid hworse => ?_, fun hroom b hb hid => ?_⟩
  · exact ((List.take_sublist _ _).map _).nodup ((hperm.map _).nodup_iff.mpr (oneFor_ids hn d))
  · rw [hk, List.length_take, List.length_mergeSort, oneFor_length hn]
  · refine List.Pairwise.imp (fun {a b} h => (candLe_iff a b).mp h) ((List.pairwise_mergeSort ?_ ?_ _).sublist (List.take_sublist _ _))
    · intro a b c hab hbc
      rw [candLe_iff] at *
      omega
    · intro a b
      rw [Bool.or_eq_true, candLe_iff, candLe_iff]
      omega
  · by_cases hbd : b = d
    · exact .inr hbd
    · refine .inl (fun hin => ?_)
      have hone := hmem hin
      unfold oneFor at hone
      split at hone
      · rename_i b' hb'
        have hb'eq : b' = b := by
          have hid' : b'.id = d.id := by simpa using List.find?_some hb'
          exact List.inj_on_of_nodup_map hn (List.mem_of_find?_eq_some hb') hb (hid'.trans hid.symm)
        subst hb'eq
        rcases List.mem_cons.mp hone with h | h
        · exact hbd (h.trans (if_pos (by omega)))
        · exact absurd (List.mem_filter.mp h).2 (by simp [hid])
      · rename_i hnone
        exact absurd (List.find?_eq_none.mp hnone b hb) (by simp [hid])
  · have hall : k = (oneFor l d).mergeSort candLe := by
      rw [hk]
      refine List.take_of_length_le ?_
      rw [List.length_mergeSort, oneFor_length hn]
      split <;> omega
    rw [hall]
    refine hperm.mem_iff.mpr ?_
    unfold oneFor
    split
    · exact List.mem_cons_of_mem _ (List.mem_filter.mpr ⟨hb, by simpa using hid⟩)
    · exact List.mem_cons_of_mem _ hb

end Sys2Proof.Proofs

namespace Sys2Proof.Machine
-- One thread elaborates these proofs: in parallel they ask for more stacks than the check allows.
set_option Elab.async false
open Sys2Proof.Claims

/-- The parameters of a search in a state with the same mappings and objects. -/
theorem State.searchArgs_of {s t : State} {c d : Cmd} (hc : t.ctxs = s.ctxs) (ho : t.objs = s.objs) (he : d.e = c.e) (hb : d.body = c.body) :
    t.searchArgs d = s.searchArgs c := by
  unfold State.searchArgs State.handleObj State.obj? State.ctx
  rw [hc, ho, he, hb]

/-- The running search after changes of its queries. -/
theorem Follows.runningQuery {s u : State} {uid q : Nat} {c d : Cmd} {x x' : SearchSt} {y : QuerySt} {a : SearchArgs} (h : Follows s u uid d)
    (hrun : s.runningQuery uid q = some (c, x, y, a)) (hx : d.search = some x')
    (hd : d.e = c.e ∧ d.body = c.body ∧ d.status = c.status ∧ d.st = c.st ∧ d.ending = c.ending) (p : Nat) :
    u.runningQuery uid p = (x'.queries[p]?).map (fun w => (d, x', w, a)) := by
  obtain ⟨he, hb, hs, hst, hend⟩ := hd
  have hgo : ¬ (d.status.isSome ∨ d.st = .blocked ∨ d.ending.isSome) := by
    rw [hs, hst, hend]
    obtain ⟨hc, hxc, ha, -, -⟩ := State.runningQuery_spec hrun
    intro hno
    unfold State.runningQuery at hrun
    rw [hc] at hrun
    dsimp only at hrun
    rw [hxc, ha] at hrun
    dsimp only at hrun
    rw [if_pos hno] at hrun
    cases hrun
  have ha : u.searchArgs d = some a := (State.searchArgs_of h.ctxs h.objs he hb).trans (State.runningQuery_spec hrun).2.2.1
  unfold State.runningQuery
  rw [h.cmd]
  dsimp only
  rw [hx, ha]
  exact if_neg hgo

theorem queryDone_iff (a : SearchArgs) (y : QuerySt) : (y.scanned && (!a.rerank || y.reranked.isSome)) = true ↔ queryDone a y := by
  unfold QuerySt.scanned queryDone
  cases a.rerank <;> simp [and_assoc]

/-- R222: a search with a query to go goes on. -/
theorem State.searchDone_not {u : State} {uid : Nat} {d : Cmd} {x : SearchSt} {w : QuerySt} {a : SearchArgs}
    (hrun : u.runningQuery uid 0 = (x.queries[0]?).map (fun w => (d, x, w, a))) (hw : w ∈ x.queries) (hno : ¬ queryDone a w) : u.searchDone uid = u := by
  unfold State.searchDone
  rw [hrun]
  cases x.queries[0]? with
  | none => rfl
  | some w0 => exact if_neg (fun hall => hno ((queryDone_iff a w).mp (List.all_eq_true.mp hall w hw)))

/-- R210: a search whose index was written meanwhile ends with SEARCH_INDEX_STALE. -/
theorem State.searchDone_stale {u : State} {uid : Nat} {d : Cmd} {x : SearchSt} {y : QuerySt} {a : SearchArgs}
    (hrun : u.runningQuery uid 0 = some (d, x, y, a)) (hall : x.queries.all (fun y => y.scanned && (!a.rerank || y.reranked.isSome)) = true)
    (h : a.ix.isSealed = false ∨ a.ix.head.gen ≠ x.sealGen) : u.searchDone uid = u.conclude uid stIndexStale 0 0 := by
  unfold State.searchDone
  rw [hrun]
  dsimp -zeta only
  rw [if_pos hall, if_pos h]

/-- R222: a search of one query whose result record has been written ends, with its shortfall flag. -/
theorem State.searchDone_written {u v : State} {uid : Nat} {c d : Cmd} {x : SearchSt} {y : QuerySt} {a : SearchArgs}
    (hrun : u.runningQuery uid 0 = some (d, x, y, a)) (hone : x.queries = [y])
    (hall : x.queries.all (fun y => y.scanned && (!a.rerank || y.reranked.isSome)) = true) (hsealed : a.ix.isSealed = true)
    (hgen : a.ix.head.gen = x.sealGen) (hwrite : u.cmdWrite uid a.out a.ooff 0 (a.record y) = some v) (hc : v.cmd? uid = some c) (hwait : c.waitItems = []) :
    u.searchDone uid = v.conclude uid (if (y.results a.k).length < a.k then stShort else stSuccess) (if (y.results a.k).length < a.k then 1 else 0) 0 := by
  unfold State.searchDone
  rw [hrun]
  dsimp -zeta only
  rw [if_pos hall, if_neg (by rw [hsealed, hgen]; simp), hone]
  extract_lets stride short st
  have hzip : [y].zip (List.range [y].length) = [(y, 0)] := rfl
  have htry : tryAll (fun s p => s.cmdWrite uid a.out (a.ooff + p.2 * stride) 0 (a.record p.1)) [(y, 0)] u = some v := by
    unfold tryAll
    dsimp only
    rw [Nat.zero_mul, Nat.add_zero, hwrite]
    rfl
  rw [hzip, htry]
  dsimp only
  have hshort : short = if (y.results a.k).length < a.k then 1 else 0 := Nat.zero_add _
  have hst : st = if (y.results a.k).length < a.k then stShort else stSuccess := by
    unfold st
    rw [hshort]
    split <;> rfl
  rw [hc, hst, hshort]
  exact if_pos (by rw [hwait]; rfl)

/-- The scan with its last block evaluated (R228). -/
def QuerySt.endScan (launch : Nat) (y : QuerySt) : QuerySt :=
  { y with scans := y.scans.map (fun w => if w.launch = launch then { w with ended := true } else w) }

/-- A lane's evaluation of a block: the scan's progress and the candidates of the block (R216 to R218). -/
def QuerySt.evaluated (a : SearchArgs) (y : QuerySt) (z z' : ScanSt) (blk : List Byte) (w : QuerySt) : QuerySt :=
  let worst := if y.kept.length < a.k * a.f then none else (y.kept.getLast?).map (·.score)
  { w with
    scans := w.scans.map (fun v => if v.launch = z.launch then z' else v)
    arriving := w.arriving ++ ((((blockRecs blk a.ix.head.m).filter (fun r => survives a.terms r.attr)).map (fun r =>
      ({ id := r.id, score := codeScore y.table r.codes, list := z.list, launch := z.launch } : Cand))).filter
        (fun d => match worst with | some w => decide (d.score ≤ w) | none => true)) }

theorem evaluated_arriving (a : SearchArgs) (y : QuerySt) (z z' : ScanSt) (blk : List Byte) (d : Cand) :
    d ∈ (QuerySt.evaluated a y z z' blk y).arriving ↔ d ∈ y.arriving ∨ ∃ r ∈ (blockRecs blk a.ix.head.m).filter (fun r => survives a.terms r.attr),
      d = { id := r.id, score := codeScore y.table r.codes, list := z.list, launch := z.launch } ∧
      ∀ b : Cand, a.k * a.f ≤ y.kept.length → y.kept.getLast? = some b → d.score ≤ b.score := by
  have hworst : (match (if y.kept.length < a.k * a.f then none else (y.kept.getLast?).map (·.score)) with | some w => decide (d.score ≤ w) | none => true) = true ↔
      ∀ b : Cand, a.k * a.f ≤ y.kept.length → y.kept.getLast? = some b → d.score ≤ b.score := by
    by_cases hfull : y.kept.length < a.k * a.f
    · rw [if_pos hfull]
      exact ⟨fun _ b hle => absurd hle (by omega), fun _ => rfl⟩
    · rw [if_neg hfull]
      cases y.kept.getLast? with
      | none => exact ⟨fun _ b _ hb => (by cases hb), fun _ => rfl⟩
      | some b =>
        refine ⟨fun hle b' _ hb' => ?_, fun hall => decide_eq_true (hall b (by omega) rfl)⟩
        obtain rfl := Option.some.inj hb'
        exact of_decide_eq_true hle
  refine List.mem_append.trans (or_congr Iff.rfl ?_)
  rw [List.mem_filter, List.mem_map]
  constructor
  · rintro ⟨⟨r, hr, rfl⟩, hle⟩
    exact ⟨r, hr, rfl, hworst.mp hle⟩
  · rintro ⟨r, hr, rfl, hle⟩
    exact ⟨⟨r, hr, rfl⟩, hworst.mpr hle⟩

end Sys2Proof.Machine

namespace Sys2Proof.Proofs
-- One thread elaborates these proofs: in parallel they ask for more stacks than the check allows.
set_option Elab.async false
open Sys2Proof.Machine Sys2Proof.Claims

/-! ### Scans -/

theorem codewordEvaluate_holds : codewordEvaluate := by
  intro uid q launch block mismatch c x y a z s h hz hgoes htag hnext hblock hsent off blk sound recs kept z1
  obtain ⟨hf, hx, -, hn, hu, hy⟩ := Searching.parts h
  obtain rfl : z.launch = launch := by simpa using List.find?_some hz
  have hexec : exec (.codewordEvaluate uid q z.launch block mismatch) s = .next (s.evalBlock uid q z.launch block mismatch).settle.recheck :=
    congrArg Host.Outcome.next (if_pos h.lanes)
  have hgo : ¬ (z.ended ∨ z.tag = 2 ∨ z.nextBlock ≠ block ∨ (a.ix.dirEnt z.list).blocks ≤ block ∨ y.tableSent = false) := by
    rw [hgoes, hsent, hnext]
    simp [htag, hblock]
  let full := match c.mode with | some (0, _) => true | _ => false
  have hclean (hmis : (if full = true then min mismatch 2 else 0) = 0) : s.evalBlock uid q z.launch block mismatch =
      if a.ix.lostIn off 4096 = true ∨ blockOk blk z.list block a.ix.head.m = false then s.conclude uid stStorageMedia 0 0
      else if z.tag = 1 then (s.modQuery uid q (QuerySt.evaluated a y z z1 blk)).charge c.e.ctx { Counts.zero with codes := recs.length }
      else s.modQuery uid q (QuerySt.evaluated a y z z1 blk) := by
    unfold State.evalBlock
    rw [h.running]
    dsimp -zeta only
    rw [hz]
    dsimp -zeta only
    rw [if_neg hgo]
    extract_lets hd full' mis s1 recs' ok worst cands z' s2 src
    have hmis' : mis = 0 := hmis
    have hs1 : s1 = s := by
      unfold s1
      rw [hmis']
      rfl
    have hs2 : s2 = s.modQuery uid q (QuerySt.evaluated a y z z1 blk) := by
      unfold s2
      rw [hs1]
      rfl
    rw [if_neg (by rw [hmis']; decide), hs1, hs2]
  have hcodes (f : QuerySt → QuerySt) (n : Nat) :
      (tget Counts.zero ((s.modQuery uid q f).charge c.e.ctx { Counts.zero with codes := n }).ledger.ctrs c.e.ctx).codes =
        satAdd 64 (tget Counts.zero s.ledger.ctrs c.e.ctx).codes n :=
    State.charge_codes (s.modQuery uid q f) c.e.ctx { Counts.zero with codes := n }
  refine ⟨fun hsound hmis => ?_, fun hno hmis => ?_, fun n hmode hmis => ?_⟩
  · have hmis' : (if full = true then min mismatch 2 else 0) = 0 := by
      rcases hmis with rfl | hmode
      · exact ite_self 0
      · refine if_neg (fun hfull => ?_)
        unfold full at hfull
        split at hfull
        · rename_i m hm
          exact hmode m hm
        · cases hfull
    rw [hclean hmis', if_neg (by rw [hsound.1, hsound.2]; decide)] at hexec
    refine ⟨QuerySt.evaluated a y z z1 blk y, ?_, rfl, rfl, rfl, fun d => ?_⟩
    · have hf1 := hf.modQuery q (QuerySt.evaluated a y z z1 blk)
      by_cases h1 : z.tag = 1
      · rw [if_pos h1] at hexec
        exact queryStep_of (hf1.charge c.e.ctx { Counts.zero with codes := recs.length }) hexec (Cmd.modQuery_search hx q _) (getElem?_modify_at hy _)
          ⟨fun _ => hcodes (QuerySt.evaluated a y z z1 blk) recs.length, fun hne => absurd h1 hne⟩
      · rw [if_neg h1] at hexec
        exact queryStep_of hf1 hexec (Cmd.modQuery_search hx q _) (getElem?_modify_at hy _) ⟨fun he => absurd he h1, fun _ => rfl⟩
    · exact evaluated_arriving a y z z1 blk d
  · rw [hclean (by rw [hmis]; exact ite_self 0), if_pos (by
      by_contra hc
      rw [not_or, Bool.not_eq_true, Bool.not_eq_false] at hc
      exact hno hc)] at hexec
    exact searchStops_of hf.cmd hf.rest hn hexec
  · let g (c : Cmd) : Cmd := { c with retried := true, tele := { c.tele with lockstep := c.tele.lockstep + 2 } }
    obtain ⟨e, l, f, heq⟩ : ∃ (e : ErrArg) (l : Nat) (f : NandSt → NandSt), s.evalBlock uid q z.launch block mismatch =
        ((((s.modCmd uid g).logTest e 7 l).drawn).modNand f).conclude uid stCheckFailed 0 0 := by
      have hmis' : min mismatch 2 = 2 := Nat.min_eq_right hmis
      unfold State.evalBlock
      rw [h.running]
      dsimp -zeta only
      rw [hz]
      dsimp -zeta only
      rw [if_neg hgo, hmode]
      dsimp only
      rw [hmis']
      exact ⟨_, _, _, rfl⟩
    rw [heq] at hexec
    have hf1 := (((hf.modCmd g (fun _ => ⟨rfl, rfl, rfl, rfl, id⟩)).frame (State.logTest_frame _ e 7 l)).frame (State.drawn_frame _)).frame (State.modNand_frame _ f)
    exact searchStops_of hf1.cmd hf1.rest hn hexec

/-! ### The end of a scan -/

theorem scanEnd_holds : scanEnd := by
  intro uid q launch c x y a z s h hz hgoes hends y1
  obtain ⟨hf, hx, -, hn, hu, hy⟩ := Searching.parts h
  have hexec : exec (.scanEnd uid q launch) s = .next (s.endScan uid q launch).settle.recheck := congrArg Host.Outcome.next (if_pos h.lanes)
  let u := s.modQuery uid q (QuerySt.endScan launch)
  let x1 : SearchSt := { x with queries := x.queries.modify q (QuerySt.endScan launch) }
  have hf1 := hf.modQuery q (QuerySt.endScan launch)
  have hx1 : (c.modQuery q (QuerySt.endScan launch)).search = some x1 := Cmd.modQuery_search hx q _
  have hy1 : x1.queries[q]? = some y1 := getElem?_modify_at hy _
  have hrun := hf1.runningQuery h.running hx1 ⟨rfl, rfl, rfl, rfl, rfl⟩ 0
  have heq : s.endScan uid q launch = match (if z.tag = 1 then a.verify z else none) with
      | some st => u.failScan c st
      | none => u.searchDone uid := by
    unfold State.endScan
    rw [h.running]
    dsimp -zeta only
    rw [hz]
    dsimp -zeta only
    rw [if_neg (by
      rw [hgoes]
      rintro (h | ⟨h2, h⟩ | ⟨h2, h⟩)
      · cases h
      · rcases hends with h' | h'
        · exact h2 h'
        · omega
      · rcases hends with h' | h'
        · exact h2 h'
        · obtain ⟨d, hd, hdl⟩ := List.any_eq_true.mp h
          exact h'.2 d hd (by simpa using hdl))]
    rfl
  have hdone (hver : z.tag ≠ 1 ∨ a.verify z = none) : s.endScan uid q launch = u.searchDone uid := by
    rw [heq]
    rcases hver with h1 | h1
    · rw [if_neg h1]
    · rw [h1, ite_self]
  refine ⟨fun hver hno => ?_, fun st htag hver => ?_, fun hver hall hone hq => ?_⟩
  · rw [hdone hver, State.searchDone_not hrun (List.mem_of_getElem? hy1) hno] at hexec
    exact queryStep_of hf1 hexec hx1 hy1 rfl
  · rw [heq, if_pos htag, hver] at hexec
    exact failScan_stops hf1 hu hn hver hexec
  · subst hq
    have hq1 : x1.queries = [y1] := by
      show x.queries.modify 0 _ = _
      rw [hone] <;> rfl
    rw [hq1] at hrun
    rw [hdone hver] at hexec
    have hall1 : x1.queries.all (fun y => y.scanned && (!a.rerank || y.reranked.isSome)) = true := by
      rw [hq1, List.all_cons, List.all_nil, Bool.and_true]
      exact (queryDone_iff a y1).mpr hall
    refine ⟨fun hstale => ?_, fun o hsealed hgen ho hvol hkind hwait hcanon => ?_⟩
    · rw [State.searchDone_stale hrun hall1 hstale] at hexec
      exact searchStops_of hf1.cmd hf1.rest hn hexec
    · intro b hback
      obtain ⟨v, hwrite, hobj, hother, hframe⟩ := State.cmdWrite_volatile (s := u) ho uid a.ooff 0 b hback hvol
      let st := if (y1.results a.k).length < a.k then stShort else stSuccess
      let short := if (y1.results a.k).length < a.k then 1 else 0
      have hc1 : v.cmd? uid = some (c.modQuery 0 (QuerySt.endScan launch)) := (State.cmd?_of_cmds hframe.cmds_eq uid).trans hf1.cmd
      have hlink : st ≠ stLinkLost := by
        unfold st
        split <;> decide
      have hrest : v.atRest := hf1.rest.frame hframe
      rw [State.searchDone_written hrun hq1 hall1 hsealed hgen hwrite hc1 hwait, (hrest.conclude uid short 0 hlink).rest] at hexec
      have hobjs : (v.conclude uid st short 0).objs = v.objs := by
        refine State.conclude_objs short 0 hc1 hn hlink (.inl ?_)
        unfold st finalStatus
        split
        · rw [if_neg (fun h => absurd h.1 (by decide))]
          rfl
        · split <;> rfl
      have hobj? (p : Nat) : (v.conclude uid st short 0).obj? p = v.obj? p := congrArg (fun l => tfind l p) hobjs
      refine ⟨_, _, _, hexec, State.cmd?_conclude short 0 hc1 hn hlink, ⟨(hobj? _).trans hobj, fun p hp => (hobj? p).trans (hother p hp)⟩,
        ObjectSt.written_byte (hcanon.obj_wf ho) _ _ _ _, fun hfull => ?_, fun hfew => ?_⟩
      · have hst : st = stSuccess := if_neg (by omega)
        exact ⟨congrArg (fun n => some (finalStatus n c.retried)) hst, if_neg (by omega)⟩
      · have hst : st = stShort := if_pos hfew
        exact ⟨congrArg (fun n => some (finalStatus n c.retried)) hst, if_pos hfew⟩

end Sys2Proof.Proofs

namespace Sys2Proof.Machine
-- One thread elaborates these proofs: in parallel they ask for more stacks than the check allows.
set_option Elab.async false
open Sys2Proof.Claims

/-! ### Re-rank -/

/-- The number that an FP32 score stands for. -/
def scoreValue (code : Nat) : ℚ := (fracOf 7 code).num / (fracOf 7 code).den

theorem fracOf_den_pos (fmt code : Nat) : 0 < (fracOf fmt code).den := by
  unfold fracOf Frac.ofDyadic
  split
  · split
    · exact Nat.one_pos
    · exact Nat.two_pow_pos _
  · exact Nat.one_pos

/-- R221: the order of scores is by value, then by number. -/
theorem scoreLe_iff (a b : Nat × Nat) : scoreLe a b = true ↔ scoreValue a.2 < scoreValue b.2 ∨ (scoreValue a.2 = scoreValue b.2 ∧ a.1 ≤ b.1) := by
  have hx : (0 : ℚ) < ((fracOf 7 a.2).den : ℚ) := Nat.cast_pos.mpr (fracOf_den_pos 7 a.2)
  have hy : (0 : ℚ) < ((fracOf 7 b.2).den : ℚ) := Nat.cast_pos.mpr (fracOf_den_pos 7 b.2)
  have hlt : scoreValue a.2 < scoreValue b.2 ↔ (fracOf 7 a.2).num * (fracOf 7 b.2).den < (fracOf 7 b.2).num * (fracOf 7 a.2).den := by
    unfold scoreValue
    rw [div_lt_div_iff₀ hx hy]
    exact_mod_cast Iff.rfl
  have heq : scoreValue a.2 = scoreValue b.2 ↔ (fracOf 7 a.2).num * (fracOf 7 b.2).den = (fracOf 7 b.2).num * (fracOf 7 a.2).den := by
    unfold scoreValue
    rw [div_eq_div_iff hx.ne' hy.ne']
    exact_mod_cast Iff.rfl
  rw [hlt, heq]
  unfold scoreLe
  dsimp only
  split
  · rename_i h
    exact ⟨fun _ => .inl h, fun _ => rfl⟩
  · rename_i h
    split
    · rename_i h'
      rw [decide_eq_true_iff]
      exact ⟨fun hle => .inr ⟨h', hle⟩, fun hor => hor.elim (fun hl => absurd hl h) (fun hr => hr.2)⟩
    · rename_i h'
      exact ⟨nofun, fun hor => hor.elim (fun hl => absurd hl h) (fun hr => absurd hr.1 h')⟩

theorem scoreLe_trans (a b c : Nat × Nat) (hab : scoreLe a b = true) (hbc : scoreLe b c = true) : scoreLe a c = true := by
  rw [scoreLe_iff] at *
  rcases hab with h1 | ⟨h1, h2⟩ <;> rcases hbc with h3 | ⟨h3, h4⟩
  · exact .inl (h1.trans h3)
  · exact .inl (h3 ▸ h1)
  · exact .inl (h1 ▸ h3)
  · exact .inr ⟨h1.trans h3, h2.trans h4⟩

theorem scoreLe_total (a b : Nat × Nat) : (scoreLe a b || scoreLe b a) = true := by
  rw [Bool.or_eq_true, scoreLe_iff, scoreLe_iff]
  rcases lt_trichotomy (scoreValue a.2) (scoreValue b.2) with h | h | h
  · exact .inl (.inl h)
  · rcases Nat.le_total a.1 b.1 with hle | hle
    · exact .inl (.inr ⟨h, hle⟩)
    · exact .inr (.inr ⟨h.symm, hle⟩)
  · exact .inr (.inl h)

theorem collectOk_map {α β : Type} (f : α → β) (l : List α) : collectOk (l.map (fun a => Except.ok (f a))) = .ok (l.map f) := by
  induction l with
  | nil => rfl
  | cons a l ih =>
    rw [List.map_cons]
    unfold collectOk
    rw [ih]
    rfl

/-- The candidates with their exact scores, the k best (R221). -/
def reranked (k : Nat) (kept : List Cand) (score : Nat → Nat) : List (Nat × Nat × Nat) :=
  ((kept.map (fun d => (d.id, score d.id, d.list))).mergeSort (fun p r => scoreLe (p.1, p.2.1) (r.1, r.2.1))).take k

theorem reranked_spec (k : Nat) (kept : List Cand) (score : Nat → Nat) :
    (reranked k kept score).length = min k kept.length ∧ (∀ p ∈ reranked k kept score, ∃ d ∈ kept, p = (d.id, score d.id, d.list)) ∧
    (reranked k kept score).Pairwise (fun p t => scoreLe (p.1, p.2.1) (t.1, t.2.1) = true) := by
  refine ⟨?_, fun p hp => ?_, ?_⟩
  · unfold reranked
    rw [List.length_take, List.length_mergeSort, List.length_map]
  · obtain ⟨d, hd, hdp⟩ := List.mem_map.mp ((List.mergeSort_perm _ _).mem_iff.mp (List.mem_of_mem_take hp))
    exact ⟨d, hd, hdp.symm⟩
  · refine List.Pairwise.sublist (List.take_sublist _ _) (List.pairwise_mergeSort (le := fun p r : Nat × Nat × Nat => scoreLe (p.1, p.2.1) (r.1, r.2.1)) ?_ ?_ _)
    · exact fun a b c => scoreLe_trans (a.1, a.2.1) (b.1, b.2.1) (c.1, c.2.1)
    · exact fun a b => scoreLe_total (a.1, a.2.1) (b.1, b.2.1)

end Sys2Proof.Machine

namespace Sys2Proof.Proofs
-- One thread elaborates these proofs: in parallel they ask for more stacks than the check allows.
set_option Elab.async false
open Sys2Proof.Machine Sys2Proof.Claims

theorem rerank_holds : rerank := by
  intro uid q c x y a s h hallowed hrerank hscanned hnone hd off
  obtain ⟨hf, hx, -, hn, hu, hy⟩ := Searching.parts h
  have hexec : exec (.rerank uid q) s = .next (s.rerankQuery uid q).settle.recheck := congrArg Host.Outcome.next (if_pos hallowed)
  have hgo : ¬ (a.rerank = false ∨ y.scanned = false ∨ y.reranked.isSome) := by
    rw [hrerank, hscanned, hnone]
    simp
  refine ⟨fun ⟨d, hd, hlost⟩ => ?_, fun score hscore ⟨j, w, hj, hw, hwait⟩ => ?_⟩
  · have heq : s.rerankQuery uid q = s.conclude uid stStorageMedia 0 0 := by
      unfold State.rerankQuery
      rw [h.running]
      dsimp -zeta only
      rw [if_neg hgo]
      exact if_pos (List.any_eq_true.mpr ⟨d, hd, hlost⟩)
    rw [heq] at hexec
    exact searchStops_of hf.cmd hf.rest hn hexec
  · let g (z : QuerySt) : QuerySt := { z with reranked := some (reranked a.k y.kept score) }
    let n := hd.vecPasses y.kept.length
    let u := ((s.searchPasses c n).charge c.e.ctx { Counts.zero with vops := y.kept.length }).modQuery uid q g
    have hall : collectOk (y.kept.map (fun d =>
        match productScore hd.metric hd.code (a.query q) (a.ix.vec hd.code (off d.id + 4) hd.d) (a.ix.num (off d.id) 4) with
        | .ok v => Except.ok (d.id, v, d.list)
        | .error e => .error e)) = .ok (y.kept.map (fun d => (d.id, score d.id, d.list))) := by
      rw [← collectOk_map]
      exact congrArg collectOk (List.map_congr_left (fun d hd => by rw [(hscore d hd).2]))
    have heq : s.rerankQuery uid q = u.searchDone uid := by
      unfold State.rerankQuery
      rw [h.running]
      dsimp -zeta only
      rw [if_neg hgo]
      extract_lets hd' off'
      rw [if_neg (fun hany => by
        obtain ⟨d, hd, hlost⟩ := List.any_eq_true.mp hany
        rw [(hscore d hd).1] at hlost
        cases hlost)]
      exact congrArg (fun r : Except Nat (List (Nat × Nat × Nat)) => match r with
        | .error e => s.conclude uid e 0 0
        | .ok rs => (((s.searchPasses c n).charge c.e.ctx { Counts.zero with vops := y.kept.length }).modQuery uid q (fun y => { y with
            reranked := some ((rs.mergeSort (fun p r => scoreLe (p.1, p.2.1) (r.1, r.2.1))).take a.k) })).searchDone uid) hall
    obtain ⟨hit, hs1⟩ := s.searchPasses_eq c n
    have hf1 := (((hf.modCmd (Cmd.searched hit n) (fun _ => ⟨rfl, rfl, rfl, rfl, id⟩)).charge c.e.ctx { Counts.zero with steps := 128 * n }).charge c.e.ctx
      { Counts.zero with vops := y.kept.length }).modQuery q g
    have hu1 : u = ((((s.modCmd uid (Cmd.searched hit n)).charge c.e.ctx { Counts.zero with steps := 128 * n }).charge c.e.ctx
        { Counts.zero with vops := y.kept.length }).modQuery uid q g) := by
      unfold u
      rw [hs1, hu]
    rw [← hu1] at hf1
    have hx1 : ((Cmd.searched hit n c).modQuery q g).search = some { x with queries := x.queries.modify q g } := Cmd.modQuery_search hx q g
    have hw1 : w ∈ x.queries.modify q g := List.mem_of_getElem? ((List.getElem?_modify_ne g x.queries (Ne.symm hj)).trans hw)
    rw [heq, State.searchDone_not (hf1.runningQuery h.running hx1 ⟨rfl, rfl, rfl, rfl, rfl⟩ 0) hw1 hwait] at hexec
    refine ⟨_, queryStep_of hf1 hexec hx1 (getElem?_modify_at hy g) ?_, reranked_spec _ _ _⟩
    rw [hu1]
    refine (State.charge_vops _ _ _).trans ?_
    rw [State.charge_vops]
    exact satAdd_zero_left _ _ _

/-- Settles O41. -/
theorem scans : Obligations.Scans := ⟨codewordEvaluate_holds, mergerCandidate_holds, keptSet_holds, scanEnd_holds, rerank_holds⟩

end Sys2Proof.Proofs


/-! Codewords and the recovery ladder: O42. -/

namespace Sys2Proof.Machine
-- One thread elaborates these proofs: in parallel they ask for more stacks than the check allows.
set_option Elab.async false
open Sys2Proof.Claims

/-! ### Dies, blocks and groups -/

@[simp] theorem State.block_modBlock (s : State) (d b : Nat) (f : BlockSt → BlockSt) : (s.modBlock d b f).block d b = f (s.block d b) := tget_tset_same _ _ _ _

theorem State.block_modBlock_other (s : State) {d b d' b' : Nat} (f : BlockSt → BlockSt) (h : blockKey d' b' ≠ blockKey d b) :
    (s.modBlock d b f).block d' b' = s.block d' b' := tget_tset_other _ _ _ h

theorem State.die_of_nand {s t : State} (h : t.nand = s.nand) (d : Nat) : t.die d = s.die d := congrArg (fun n : NandSt => tget DieSt.reset n.dies d) h
theorem State.block_of_nand {s t : State} (h : t.nand = s.nand) (d b : Nat) : t.block d b = s.block d b :=
  congrArg (fun n : NandSt => tget BlockSt.reset n.blocks (blockKey d b)) h
theorem State.group_of_nand {s t : State} (h : t.nand = s.nand) (g : Nat) : t.group g = s.group g := congrArg (fun n : NandSt => tget GroupSt.reset n.groups g) h

/-! ### Marks (R237) -/

/-- Whether a mark is accepted before another one: nearer, or as near and earlier (R237). -/
def nearer (m k : Int) : Prop := m.natAbs < k.natAbs ∨ (m.natAbs = k.natAbs ∧ m ≤ k)

theorem nearer_antisymm {m k : Int} (h : nearer m k) (h' : nearer k m) : m = k := by
  unfold nearer at *
  omega

/-- The choice between what was chosen so far and the next one: the next one only when it comes before. -/
def keepFirst {α : Type} (before : α → α → Prop) [DecidableRel before] (b : Option α) (m : α) : Option α :=
  match b with
  | none => some m
  | some x => if before m x then some m else some x

/-- The choice comes no later than any other, where `le` says that one does not come after another. -/
theorem foldl_keepFirst {α : Type} {before : α → α → Prop} [DecidableRel before] {le : α → α → Prop} (hrefl : ∀ x, le x x)
    (htrans : ∀ x y z, le x y → le y z → le x z) (hlt : ∀ x y, before x y → le x y) (hge : ∀ x y, ¬ before x y → le y x) (l : List α) (x : α) :
    ∃ y : α, l.foldl (keepFirst before) (some x) = some y ∧ (y = x ∨ y ∈ l) ∧ le y x ∧ ∀ k ∈ l, le y k := by
  induction l generalizing x with
  | nil => exact ⟨x, rfl, .inl rfl, hrefl x, nofun⟩
  | cons m l ih =>
    by_cases hm : before m x
    · obtain ⟨y, hy, hmem, hnear, hall⟩ := ih m
      exact ⟨y, (congrArg (l.foldl (keepFirst before)) (if_pos hm)).trans hy, .inr (List.mem_cons.mpr hmem), htrans _ _ _ hnear (hlt _ _ hm),
        List.forall_mem_cons.mpr ⟨hnear, hall⟩⟩
    · obtain ⟨y, hy, hmem, hnear, hall⟩ := ih x
      exact ⟨y, (congrArg (l.foldl (keepFirst before)) (if_neg hm)).trans hy, hmem.imp_right (List.mem_cons_of_mem _), hnear,
        List.forall_mem_cons.mpr ⟨htrans _ _ _ hnear (hge _ _ hm), hall⟩⟩

theorem nearestMark_eq (marks : List Int) : nearestMark marks = (marks.filter (fun m => decide (-32 ≤ m ∧ m ≤ 32))).foldl
    (keepFirst (fun m x : Int => m.natAbs < x.natAbs ∨ (m.natAbs = x.natAbs ∧ m < x))) none := by
  refine congrArg (fun f => List.foldl f none _) (funext fun b => funext fun m => ?_)
  cases b <;> rfl

theorem nearestMark_none {marks : List Int} (h : ∀ m ∈ marks, m < -32 ∨ 32 < m) : nearestMark marks = none := by
  rw [nearestMark_eq, List.filter_eq_nil_iff.mpr (fun m hm => ?_)]
  · rfl
  · have := h m hm
    rw [decide_eq_true_iff]
    omega

theorem nearestMark_of {c : CwRead} {m : Int} (h : marksAt c m) : nearestMark c.marks = some m := by
  obtain ⟨hm, hlo, hhi, hall⟩ := h
  have hin : m ∈ c.marks.filter (fun m => decide (-32 ≤ m ∧ m ≤ 32)) := List.mem_filter.mpr ⟨hm, decide_eq_true ⟨hlo, hhi⟩⟩
  rw [nearestMark_eq]
  cases hl : c.marks.filter (fun m => decide (-32 ≤ m ∧ m ≤ 32)) with
  | nil =>
    rw [hl] at hin
    cases hin
  | cons x l =>
    obtain ⟨y, hy, hmem, hnear, hally⟩ := foldl_keepFirst (before := fun m x : Int => m.natAbs < x.natAbs ∨ (m.natAbs = x.natAbs ∧ m < x)) (le := nearer)
      (fun x => by unfold nearer; omega) (fun x y z => by unfold nearer; omega) (fun x y => by unfold nearer; omega) (fun x y => by unfold nearer; omega) l x
    refine hy.trans (congrArg some ?_)
    rw [hl] at hin
    have hym : nearer y m := (List.mem_cons.mp hin).elim (fun h => h ▸ hnear) (hally m)
    have hyin : y ∈ c.marks.filter (fun m => decide (-32 ≤ m ∧ m ≤ 32)) := by
      rw [hl]
      exact List.mem_cons.mpr hmem
    obtain ⟨hyc, hyw⟩ := List.mem_filter.mp hyin
    obtain ⟨hylo, hyhi⟩ := of_decide_eq_true hyw
    exact nearer_antisymm hym (hall y hyc hylo hyhi)

/-! ### Counters of codewords (R238) -/

theorem decodes_iff (c : CwRead) (o : Int) : (c.expected && c.decodes.contains o) = true ↔ decodesAt c o := by
  unfold decodesAt
  simp

/-- A counter of one outcome counts the codewords with it while it has room (R238). -/
theorem foldl_count_counter {g : NandSt → Nat} {o : CwOut} (hg : ∀ (n : NandSt) (x : CwOut), g (n.count x) = if x = o then satAdd 32 (g n) 1 else g n)
    (outs : List CwOut) (n : NandSt) (h : g n + outs.count o < 2 ^ 32) : g (outs.foldl NandSt.count n) = g n + outs.count o := by
  induction outs generalizing n with
  | nil => rfl
  | cons x outs ih =>
    rw [List.foldl_cons]
    by_cases hx : x = o
    · subst hx
      rw [List.count_cons_self] at h ⊢
      have hn : g (n.count x) = g n + 1 := by
        rw [hg, if_pos rfl]
        unfold satAdd
        omega
      rw [ih _ (by omega), hn]
      omega
    · rw [List.count_cons_of_ne hx] at h ⊢
      have hn : g (n.count x) = g n := by rw [hg, if_neg hx]
      rw [ih _ (by omega), hn]

/-- The counters leave the dies and the blocks. -/
theorem foldl_count_same {α : Type} {g : NandSt → α} (hg : ∀ (n : NandSt) (x : CwOut), g (n.count x) = g n) (outs : List CwOut) (n : NandSt) :
    g (outs.foldl NandSt.count n) = g n := by
  induction outs generalizing n with
  | nil => rfl
  | cons x outs ih => rw [List.foldl_cons, ih, hg]

theorem count_filter_map (cws : List CwRead) (o : CwOut) : (cws.map cwOut).count o = (cws.filter (fun c => decide (cwOut c = o))).length := by
  rw [List.count, List.countP_map, List.countP_eq_length_filter]
  rfl

/-- A KCI command's context is charged with the codewords that it gets (Table 17-8). -/
theorem State.deliver_charges {s : State} {r : NandReq} {u n : Nat} {c : Cmd} (hu : r.uid = some u) (hc : s.cmd? u = some c) (hn : n ≠ 0) :
    (tget Counts.zero (s.deliver r n).ledger.ctrs c.e.ctx).nread = satAdd 64 (tget Counts.zero s.ledger.ctrs c.e.ctx).nread (4096 * n) := by
  unfold State.deliver
  rw [hu]
  dsimp only
  rw [hc]
  dsimp only
  rw [if_neg hn]
  exact congrArg Counts.nread (tget_tset_same _ _ _ _)

/-! ### Errors of a die (R241) -/

/-- The first record of an empty log (R431). -/
theorem State.logErr_first {s : State} (a : ErrArg) (hs : s.errs.staging = []) (hr : s.errs.ring = []) :
    (s.logErr a).errs.staging = [a.toRec s.errs.next s.time.now (s.stampFlags a.region)] := by
  have hnew : ¬ s.joinsNewest a := by
    rintro ⟨r, hnewest, -⟩
    unfold ErrSt.newest at hnewest
    rw [hs, hr] at hnewest
    cases hnewest
  rw [State.logErr_of_room hnew (by unfold logRoom; rw [hs]; decide), State.raiseNew_errs]
  exact congrArg (· ++ _) hs

/-- R241, R258: an error of a die stands in an empty log, and a test of the die is due. -/
theorem State.logNand_first {s : State} (die addr st : Nat) (c : Option Cmd) (hs : s.errs.staging = []) (hr : s.errs.ring = []) :
    (∃ e ∈ (s.logNand die addr st c).errs.staging, e.cls = 0x20 ∧ e.unit = unitOf 6 die ∧ e.addr = addr) ∧
    ∃ x ∈ (s.logNand die addr st c).tests, x.kind = 6 ∧ x.index = die := by
  refine ⟨?_, State.startTest_mem _ _ _ _ _⟩
  unfold State.logNand
  dsimp only
  split <;>
  · unfold State.logTest
    dsimp only
    rw [(State.startTest_frame _ _ _ _ _).errs_eq, State.logErr_first _ hs hr]
    exact ⟨_, List.mem_singleton_self _, rfl, rfl, rfl⟩

/-- The conclusion of a command leaves what the dies do, their ladders and the counters of the ladder: it takes only waiting reads. -/
theorem State.conclude_nand (s : State) {st : Nat} (uid d0 d1 : Nat) (hl : st ≠ stLinkLost) : ∃ g : Nat → DieSt → DieSt,
    (s.conclude uid st d0 d1).nand = { s.nand with dies := tmap s.nand.dies g } ∧ ∀ k d, (g k d).busy = d.busy ∧ (g k d).ladder = d.ladder := by
  have hsame : s.nand = { s.nand with dies := tmap s.nand.dies (fun _ d => d) } := by
    have h : tmap s.nand.dies (fun _ d => d) = s.nand.dies := List.map_id'' (fun _ => rfl) _
    rw [h]
  cases hc : s.cmd? uid with
  | none =>
    rw [State.conclude_ended _ _ _ (by rw [hc]; rintro _ ⟨⟩)]
    exact ⟨fun _ d => d, hsame, fun _ _ => ⟨rfl, rfl⟩⟩
  | some c =>
    cases hs : c.status with
    | some z =>
      rw [State.conclude_ended _ _ _ (by rw [hc]; rintro _ ⟨⟩; rw [hs]; rfl)]
      exact ⟨fun _ d => d, hsame, fun _ _ => ⟨rfl, rfl⟩⟩
    | none =>
      let g (_ : Nat) (d : DieSt) : DieSt :=
        { d with waiting := d.waiting.filter (fun q => !(q.pri == 3 && (match q.uid with | some u => [uid].contains u | none => false))) }
      have hdrop (v : State) (hv : v.nand = s.nand) : (v.dropWork [uid]).nand = { s.nand with dies := tmap s.nand.dies g } := by
        rw [← hv]
        rfl
      refine ⟨g, ?_, fun _ _ => ⟨rfl, rfl⟩⟩
      rw [State.conclude_eq d0 d1 hc hs hl]
      refine hdrop _ ((State.signalEvent_frame _ _ _).nand_eq.trans (?_ : State.nand (if _ then _ else _) = _))
      have h0 (b : Prop) [Decidable b] (st : Nat) : (if b then s.endOps [uid] st else s).nand = s.nand := by
        split
        · exact (State.endOps_frame _ _ _).nand_eq
        · rfl
      split
      · exact (State.markAll_frame _ _).nand_eq.trans (h0 _ _)
      · exact h0 _ _

theorem tget_tmap {α : Type} (v : α) (t : Table α) (f : Nat → α → α) (k : Nat) (P : α → α → Prop) (hv : P v v) (hf : ∀ x, P x (f k x)) :
    P (tget v t k) (tget v (tmap t f) k) := by
  unfold tget
  rw [tfind_tmap]
  cases tfind t k with
  | none => exact hv
  | some x => exact hf x

/-- The ladder of a die after an uncorrectable codeword, its counter, the record, the test and the command (R241). -/
theorem State.uncorrectable_spec {s : State} {die cw : Nat} {r : NandReq} (hrest : s.atRest) (hs : s.errs.staging = []) (hr : s.errs.ring = []) :
    ((s.uncorrectable die cw r).die die).ladder = (s.die die).ladder ∧ ((s.uncorrectable die cw r).die die).busy = (s.die die).busy ∧
    tget 0 (s.uncorrectable die cw r).nand.ladder 3 = satAdd 32 (tget 0 s.nand.ladder 3) 1 ∧
    (∃ e ∈ (s.uncorrectable die cw r).errs.staging, e.cls = 0x20 ∧ e.unit = unitOf 6 die ∧ e.addr = nandAddr die r.block r.page cw) ∧
    (∃ x ∈ (s.uncorrectable die cw r).tests, x.kind = 6 ∧ x.index = die) ∧
    (∀ (u : Nat) (c : Cmd), r.uid = some u → s.cmd? u = some c → c.status = none → ∃ d : Cmd, (s.uncorrectable die cw r).cmd? u = some d ∧
      d.status = some stStorageMedia) := by
  unfold State.uncorrectable
  extract_lets addr c s1 s2
  have h1 : Frame [.tests, .errs, .mgmt] (s.countLadder 5) s1 := State.logNand_frame _ _ _ _ _
  have h2 : Frame [.nvme] s1 s2 := by
    unfold s2
    split
    · exact State.modNvme_frame _ _
    · exact Frame.refl _ _
  have hcmds : s2.cmds = s.cmds := h2.cmds_eq.trans (h1.cmds_eq.trans rfl)
  have hnand : s2.nand = (s.countLadder 5).nand := h2.nand_eq.trans h1.nand_eq
  have hcount : tget 0 s2.nand.ladder 3 = satAdd 32 (tget 0 s.nand.ladder 3) 1 := by
    rw [hnand]
    exact tget_tset_same _ _ _ _
  have hdie : s2.die die = s.die die := State.die_of_nand (s := s.countLadder 5) hnand die
  obtain ⟨⟨e, he, hcls, hunit, haddr⟩, htest⟩ := State.logNand_first (s := s.countLadder 5) die addr (if c.isSome then stStorageMedia else 0) c hs hr
  have hlog : ∃ e ∈ s2.errs.staging, e.cls = 0x20 ∧ e.unit = unitOf 6 die ∧ e.addr = addr := ⟨e, (h2.errs_eq : s2.errs = s1.errs) ▸ he, hcls, hunit, haddr⟩
  have htests : ∃ x ∈ s2.tests, x.kind = 6 ∧ x.index = die := by
    rw [h2.tests_eq]
    exact htest
  have hcu {u : Nat} {x : Cmd} (hu : r.uid = some u) (hx : s.cmd? u = some x) : c = some x := by
    unfold c
    rw [hu]
    exact hx
  clear_value c
  cases c with
  | some c' =>
    have hrest2 : s2.atRest := ((hrest.frame (State.countLadder_frame s 5)).frame h1).frame h2
    have he := State.endOps_frame s2 [c'.uid] stStorageMedia
    have hrest3 := (hrest2.frame he).conclude c'.uid c'.excRecs c'.dw1 (st := stStorageMedia) (by decide)
    dsimp only
    rw [hrest3.rest]
    have hframe := State.conclude_frame (s2.endOps [c'.uid] stStorageMedia) c'.uid stStorageMedia c'.excRecs c'.dw1
    obtain ⟨g, hg, hgd⟩ := State.conclude_nand (s2.endOps [c'.uid] stStorageMedia) c'.uid c'.excRecs c'.dw1 (st := stStorageMedia) (by decide)
    have hdie2 := tget_tmap DieSt.reset s2.nand.dies g die (fun d d' => d'.ladder = d.ladder ∧ d'.busy = d.busy) ⟨rfl, rfl⟩ (fun d => ⟨(hgd die d).2, (hgd die d).1⟩)
    rw [he.nand_eq] at hg
    have hdie3 (d : Nat) : ((s2.endOps [c'.uid] stStorageMedia).conclude c'.uid stStorageMedia c'.excRecs c'.dw1).die d = tget DieSt.reset (tmap s2.nand.dies g) d := by
      unfold State.die
      rw [hg]
    rw [hdie3, hg]
    refine ⟨hdie2.1.trans (congrArg DieSt.ladder hdie), hdie2.2.trans (congrArg DieSt.busy hdie), hcount, ?_, ?_, fun u x hu hx hn => ?_⟩
    · rw [hframe.errs_eq, he.errs_eq]
      exact hlog
    · rw [hframe.tests_eq, he.tests_eq]
      exact htests
    · obtain rfl := Option.some.inj (hcu hu hx)
      have hx2 : (s2.endOps [c'.uid] stStorageMedia).cmd? c'.uid = some c' := by
        refine (State.cmd?_of_cmds (he.cmds_eq.trans hcmds) c'.uid).trans ?_
        rw [(State.cmd?_mem hx).2]
        exact hx
      have hend := State.cmd?_conclude (st := stStorageMedia) c'.excRecs c'.dw1 hx2 hn (by decide)
      rw [(State.cmd?_mem hx).2] at hend ⊢
      exact ⟨_, hend, congrArg some (if_neg (fun h => absurd h.1 (by decide)))⟩
  | none => exact ⟨congrArg DieSt.ladder hdie, congrArg DieSt.busy hdie, hcount, hlog, htests, fun u x hu hx hn => by cases hcu hu hx⟩

end Sys2Proof.Machine

namespace Sys2Proof.Proofs
-- One thread elaborates these proofs: in parallel they ask for more stacks than the check allows.
set_option Elab.async false
open Sys2Proof.Machine Sys2Proof.Claims

theorem resolution_holds : resolution := by
  intro c
  have hok (o : Int) := decodes_iff c o
  refine ⟨fun hnone => ?_, fun hzero => ?_, fun m hm hne => ?_⟩
  · have hout : cwOut c = if (c.expected && c.decodes.contains 0) = true then .miss else .fail := by
      unfold cwOut
      rw [nearestMark_none hnone]
    exact ⟨fun h => hout.trans (if_pos ((hok 0).mpr h)), fun h => hout.trans (if_neg (fun h' => h ((hok 0).mp h')))⟩
  · have hout : cwOut c = if (c.expected && c.decodes.contains 0) = true then .clean else .fail := by
      unfold cwOut
      rw [nearestMark_of hzero]
      rfl
    exact ⟨fun h => hout.trans (if_pos ((hok 0).mpr h)), fun h => hout.trans (if_neg (fun h' => h ((hok 0).mp h')))⟩
  · have hout : cwOut c = if (c.expected && c.decodes.contains m) = true then .slip
        else if (c.expected && c.decodes.contains 0) = true then .falseMark else .fail := by
      unfold cwOut
      rw [nearestMark_of hm]
      exact if_neg hne
    refine ⟨fun h => hout.trans (if_pos ((hok m).mpr h)), fun h h0 => ?_, fun h h0 => ?_⟩
    · rw [hout, if_neg (fun h' => h ((hok m).mp h')), if_pos ((hok 0).mpr h0)]
    · rw [hout, if_neg (fun h' => h ((hok m).mp h')), if_neg (fun h' => h0 ((hok 0).mp h'))]

/-! ### Reads -/

/-- The positions of the codewords that failed, as the read lists them. -/
theorem failed_positions (cws : List CwRead) :
    ((List.range (cws.map cwOut).length).zip (cws.map cwOut)).filter (fun p => decide (p.2 = .fail)) = (failedCws cws).map (fun i => (i, CwOut.fail)) := by
  have hzip : (List.range (cws.map cwOut).length).zip (cws.map cwOut) =
      (List.range cws.length).map (fun i => (i, ((cws[i]?).map cwOut).getD .fail)) := by
    refine List.ext_getElem (by simp) (fun i hi hi' => ?_)
    rw [List.length_map, List.length_range] at hi'
    simp [hi']
  rw [hzip, List.filter_map]
  unfold failedCws
  have hfilter : (List.range cws.length).filter ((fun p : Nat × CwOut => decide (p.2 = .fail)) ∘ fun i => (i, ((cws[i]?).map cwOut).getD .fail)) =
      (List.range cws.length).filter (fun i => decide (cws[i]?.map cwOut = some .fail)) := by
    refine List.filter_congr (fun i hi => ?_)
    have hi' : i < cws.length := List.mem_range.mp hi
    simp [hi']
  rw [hfilter]
  refine List.map_congr_left (fun i hi => ?_)
  rw [of_decide_eq_true (List.mem_filter.mp hi).2]
  rfl

theorem nandReadDone_holds : nandReadDone := by
  intro die cws r s hlive hbusy hkind hladder hlen n bad hmiss hslip hfalse
  let outs := cws.map cwOut
  let good := outs.countP (fun o => decide (o ≠ .fail))
  let worn := cws.any (fun c => decide (cwOut c ≠ .fail ∧ 96 < c.corrected))
  let s1 := s.modNand (fun n => outs.foldl NandSt.count n)
  let s2 := if worn then s1.modBlock die r.block (fun b => { b with refresh := true }) else s1
  let s3 := s2.deliver r good
  let f (d : DieSt) : DieSt := { d with busy := if bad = [] then none else some r, ladder := bad.map (fun i => (i, 2)) }
  have hexec : exec (.nandReadDone die cws) s = .next (s3.modDie die f) := by
    have hpage : s.readPage die r cws = s3.modDie die f := by
      have hl : (if r.pri = 3 then [] else (((List.range outs.length).zip outs).filter (fun p => decide (p.2 = .fail))).map (fun p => (p.1, 2))) =
          bad.map (fun i => (i, 2)) := by
        unfold bad outs
        rw [failed_positions]
        split
        · rfl
        · rw [List.map_map]
          rfl
      have hb : (bad.map (fun i => (i, 2))).isEmpty = true ↔ bad = [] := by rw [List.isEmpty_iff, List.map_eq_nil_iff]
      unfold State.readPage
      dsimp only
      rw [hl]
      exact congrArg (s3.modDie die) (funext (fun d => by rw [if_congr hb rfl rfl]))
    show execNandReadDone die cws s = _
    unfold execNandReadDone
    rw [hbusy]
    exact congrArg Host.Outcome.next ((if_pos ⟨hlive, hkind, hladder, hlen⟩).trans hpage)
  have h1 : Frame [.nand] s s1 := State.modNand_frame _ _
  have h2 : Frame [.nand] s s2 := by
    unfold s2
    split
    · exact h1.after (State.modBlock_frame _ _ _ _) (by decide)
    · exact h1
  have h3 : Frame [.nand, .ledger, .freeCtr] s s3 := (h2.mono (by decide)).after (State.deliver_frame _ _ _) (by decide)
  have hnand3 : s3.nand = s2.nand := (State.deliver_frame _ _ _).nand_eq
  have hdie (d : Nat) : s3.die d = s.die d := by
    have hd1 : s1.die d = s.die d := congrArg (fun l => tget DieSt.reset l d) (foldl_count_same (g := NandSt.dies) (fun n x => by cases x <;> rfl) outs s.nand)
    rw [State.die_of_nand hnand3]
    unfold s2
    split
    · exact hd1
    · exact hd1
  have hcount {g : NandSt → Nat} {o : CwOut} (hg : ∀ (n : NandSt) (x : CwOut), g (n.count x) = if x = o then satAdd 32 (g n) 1 else g n)
      (hmod : ∀ (n : NandSt) (l : Table DieSt) (b : Table BlockSt), g { n with dies := l } = g n ∧ g { n with blocks := b } = g n)
      (hroom : g s.nand + n o < 2 ^ 32) : g (s3.modDie die f).nand = g s.nand + n o := by
    have hn : outs.count o = n o := count_filter_map cws o
    have hs1 := foldl_count_counter hg outs s.nand (by rw [hn]; exact hroom)
    rw [hn] at hs1
    refine ((hmod _ _ s3.nand.blocks).1).trans ?_
    rw [hnand3]
    unfold s2
    split
    · exact (hmod _ s1.nand.dies _).2.trans hs1
    · exact hs1
  refine ⟨_, hexec, h3.after (State.modDie_frame _ _ _) (by decide), hcount (g := NandSt.syncMiss) ?_ (fun _ _ _ => ⟨rfl, rfl⟩) hmiss,
    hcount (g := NandSt.syncSlip) ?_ (fun _ _ _ => ⟨rfl, rfl⟩) hslip, hcount (g := NandSt.syncFalse) ?_ (fun _ _ _ => ⟨rfl, rfl⟩) hfalse, ?_, fun d hd => ?_,
    fun ⟨c, hc, hok, hcorr⟩ => ?_, fun u c hu hc hne hall => ?_⟩
  · exact fun n x => by cases x <;> rfl
  · exact fun n x => by cases x <;> rfl
  · exact fun n x => by cases x <;> rfl
  · rw [State.die_modDie, hdie]
  · rw [State.die_modDie_other _ _ hd, hdie]
  · have hworn : worn = true := List.any_eq_true.mpr ⟨c, hc, decide_eq_true ⟨hok, hcorr⟩⟩
    show (s3.block die r.block).refresh = true
    rw [State.block_of_nand hnand3]
    unfold s2
    rw [if_pos hworn, State.block_modBlock]
  · have hgood : good = cws.length := by
      unfold good outs
      rw [List.countP_map]
      exact List.countP_eq_length.mpr (fun c hc => decide_eq_true (hall c hc))
    have hs2 : s2.cmd? u = some c := (State.cmd?_of_cmds h2.cmds_eq u).trans hc
    rw [← hgood, ← (h2.ledger_eq : s2.ledger = s.ledger)]
    exact State.deliver_charges hu hs2 (by rw [hgood]; exact (List.length_pos_iff.mpr hne).ne')

/-! ### The recovery ladder -/

theorem recoveryLadderStep_holds : recoveryLadderStep := by
  intro die cw level r s hlive hcalm hnw hbusy hfind hlo hhi rest freed
  have hexec (ok : Bool) : exec (.recoveryLadderStep die cw ok) s =
      if ok then .next ((((s.countLadder level).modBlock die r.block (fun b => { b with laddered := satAdd 32 b.laddered 1, refresh := true })).deliver r 1).offLadder die cw)
      else if level < 4 then .next (s.modDie die (fun d => { d with ladder := d.ladder.map (fun p => if p.1 = cw then (cw, level + 1) else p) }))
      else .next ((s.uncorrectable die cw r).offLadder die cw) := by
    show execRecoveryLadderStep die cw ok s = _
    unfold execRecoveryLadderStep
    rw [hbusy, hfind]
    exact if_neg (by rw [hlive]; decide)
  have hoff (u : State) (hl : (u.die die).ladder = (s.die die).ladder) (hb : (u.die die).busy = (s.die die).busy) :
      ((u.offLadder die cw).die die).ladder = freed.ladder ∧ ((u.offLadder die cw).die die).busy = freed.busy := by
    unfold State.offLadder
    rw [State.die_modDie]
    dsimp only
    rw [hl, hb, hbusy]
    exact ⟨rfl, if_congr List.isEmpty_iff rfl rfl⟩
  refine ⟨?_, fun hlow => ?_, fun htop hs hr => ?_⟩
  · let s2 := (s.countLadder level).modBlock die r.block (fun b => { b with laddered := satAdd 32 b.laddered 1, refresh := true })
    have h3 : Frame [.ledger, .freeCtr] s2 (s2.deliver r 1) := State.deliver_frame _ _ _
    have hdie : (s2.deliver r 1).die die = s.die die := State.die_of_nand (s := s2) h3.nand_eq die
    have hblock : ((s2.deliver r 1).offLadder die cw).block die r.block =
        { s.block die r.block with laddered := satAdd 32 (s.block die r.block).laddered 1, refresh := true } :=
      (State.block_of_nand h3.nand_eq die r.block).trans (State.block_modBlock _ _ _ _)
    have hladder : ((s2.deliver r 1).offLadder die cw).nand.ladder = s2.nand.ladder := by
      show (s2.deliver r 1).nand.ladder = _
      rw [h3.nand_eq]
    refine ⟨_, (hexec true).trans (if_pos rfl), ?_, ?_, ?_, by rw [hblock], by rw [hblock]⟩
    · exact (((((State.countLadder_frame s level).after (State.modBlock_frame _ _ _ _) (by decide)).mono (by decide)).after h3 (by decide)).after
        (State.offLadder_frame _ _ _) (by decide) : Frame [.nand, .ledger, .freeCtr] s _)
    · unfold State.offLadder
      rw [State.die_modDie, hdie]
      dsimp only
      rw [hbusy]
      exact congrArg (fun b => { s.die die with ladder := rest, busy := b }) (if_congr (List.isEmpty_iff (l := rest)) rfl rfl)
    · rw [hladder]
      exact tget_tset_same _ _ _ _
  · exact ⟨_, (hexec false).trans ((if_neg (by decide)).trans (if_pos hlow)), State.modDie_frame _ _ _, State.die_modDie _ _ _⟩
  · obtain ⟨hl, hb, hcount, hlog, htest, hend⟩ := State.uncorrectable_spec (die := die) (cw := cw) (r := r) (State.atRest_of hcalm hnw) hs hr
    obtain ⟨hl', hb'⟩ := hoff _ hl hb
    exact ⟨_, (hexec false).trans ((if_neg (by decide)).trans (if_neg (by omega))), hl', hb', hcount, hlog, htest, hend⟩

/-- Settles O42. -/
theorem codewords : Obligations.Codewords := ⟨resolution_holds, nandReadDone_holds, recoveryLadderStep_holds⟩

end Sys2Proof.Proofs


/-! The operations of the NAND dies, and what a reset of F leaves: O43. -/

namespace Sys2Proof.Machine
-- One thread elaborates these proofs: in parallel they ask for more stacks than the check allows.
set_option Elab.async false
open Sys2Proof.Claims

/-! ### The next operation of a die (R247) -/

/-- An operation that does not come after another in the order of R247, the oldest first. -/
def opBefore (now : Nat) (x y : Nat × NandReq) : Prop :=
  rankOf now x.2 < rankOf now y.2 ∨ (rankOf now x.2 = rankOf now y.2 ∧ x.2.since ≤ y.2.since)

theorem State.nextOp_eq (s : State) (die : Nat) :
    s.nextOp die = (((List.range (s.die die).waiting.length).zip (s.die die).waiting).filter (fun p => s.startable die p.2)).foldl
      (keepFirst (fun p q : Nat × NandReq => rankOf s.time.now p.2 < rankOf s.time.now q.2 ∨
        (rankOf s.time.now p.2 = rankOf s.time.now q.2 ∧ p.2.since < q.2.since))) none := by
  refine congrArg (fun f => List.foldl f none _) (funext fun b => funext fun m => ?_)
  cases b <;> rfl

theorem mem_range_zip {α : Type} {l : List α} {p : Nat × α} : p ∈ (List.range l.length).zip l ↔ l[p.1]? = some p.2 := by
  rw [List.mem_iff_getElem?]
  constructor
  · rintro ⟨i, hi⟩
    obtain ⟨h1, h2⟩ := List.getElem?_zip_eq_some.mp hi
    obtain ⟨hlt, hi1⟩ := List.getElem?_eq_some_iff.mp h1
    rw [List.getElem_range] at hi1
    rw [← hi1]
    exact h2
  · intro h
    refine ⟨p.1, List.getElem?_zip_eq_some.mpr ⟨?_, h⟩⟩
    exact List.getElem?_range (List.getElem?_eq_some_iff.mp h).1

theorem State.nextOp_none {s : State} {die : Nat} (h : ∀ x ∈ (s.die die).waiting, s.startable die x = false) : s.nextOp die = none := by
  rw [State.nextOp_eq, List.filter_eq_nil_iff.mpr (fun p hp => ?_)]
  · rfl
  · rw [h p.2 (List.mem_of_getElem? (mem_range_zip.mp hp))]
    exact Bool.false_ne_true

/-- The next operation may start, and no other that may start comes before it (R247). -/
theorem State.nextOp_some {s : State} {die : Nat} (h : ∃ x ∈ (s.die die).waiting, s.startable die x = true) :
    ∃ (i : Nat) (x : NandReq), s.nextOp die = some (i, x) ∧ (s.die die).waiting[i]? = some x ∧ s.startable die x = true ∧
      ∀ y ∈ (s.die die).waiting, s.startable die y = true → rankOf s.time.now x < rankOf s.time.now y ∨
        (rankOf s.time.now x = rankOf s.time.now y ∧ x.since ≤ y.since) := by
  have hmem {y : NandReq} (hy : y ∈ (s.die die).waiting) (hok : s.startable die y = true) :
      ∃ i : Nat, (i, y) ∈ ((List.range (s.die die).waiting.length).zip (s.die die).waiting).filter (fun p => s.startable die p.2) := by
    obtain ⟨i, hi⟩ := List.mem_iff_getElem?.mp hy
    exact ⟨i, List.mem_filter.mpr ⟨mem_range_zip.mpr hi, hok⟩⟩
  rw [State.nextOp_eq]
  cases hl : ((List.range (s.die die).waiting.length).zip (s.die die).waiting).filter (fun p => s.startable die p.2) with
  | nil =>
    obtain ⟨x, hx, hok⟩ := h
    obtain ⟨i, hi⟩ := hmem hx hok
    rw [hl] at hi
    cases hi
  | cons p l =>
    obtain ⟨⟨i, x⟩, hpick, hin, hle, hall⟩ := foldl_keepFirst
      (before := fun p q : Nat × NandReq => rankOf s.time.now p.2 < rankOf s.time.now q.2 ∨
        (rankOf s.time.now p.2 = rankOf s.time.now q.2 ∧ p.2.since < q.2.since)) (le := opBefore s.time.now)
      (fun x => .inr ⟨rfl, le_rfl⟩) (fun x y z => by unfold opBefore; omega) (fun x y => by unfold opBefore; omega)
      (fun x y => by unfold opBefore; omega) l p
    have hin' : (i, x) ∈ ((List.range (s.die die).waiting.length).zip (s.die die).waiting).filter (fun p => s.startable die p.2) := by
      rw [hl]
      exact List.mem_cons.mpr hin
    obtain ⟨hzip, hok⟩ := List.mem_filter.mp hin'
    refine ⟨i, x, hpick, mem_range_zip.mp hzip, hok, fun y hy hyok => ?_⟩
    obtain ⟨j, hj⟩ := hmem hy hyok
    rw [hl] at hj
    exact (List.mem_cons.mp hj).elim (fun h => by subst h; exact hle) (fun h => hall (j, y) h)

/-- An operation that starts holds its die; an erase holds its group too (R244). -/
theorem State.startOn_spec (s : State) (die pos : Nat) (r : NandReq) :
    (s.startOn die pos r).die die = { s.die die with busy := some r, waiting := (s.die die).waiting.eraseIdx pos } ∧
    (r.kind = .erase → ((s.startOn die pos r).group (s.variant.groupOf die)).erasing = some (idxOf die)) := by
  let f (d : DieSt) : DieSt := { d with busy := some r, waiting := d.waiting.eraseIdx pos }
  have hdie : (s.modDie die f).die die = f (s.die die) := State.die_modDie _ _ _
  unfold State.startOn
  cases hk : r.kind with
  | read => exact ⟨hdie, nofun⟩
  | program => exact ⟨hdie, nofun⟩
  | erase => exact ⟨hdie, fun _ => congrArg GroupSt.erasing (State.group_modGroup (s.modDie die f) _ _)⟩
  | plan =>
    dsimp only
    split
    · exact ⟨hdie, nofun⟩
    · exact ⟨hdie, nofun⟩

end Sys2Proof.Machine

namespace Sys2Proof.Proofs
-- One thread elaborates these proofs: in parallel they ask for more stacks than the check allows.
set_option Elab.async false
open Sys2Proof.Machine Sys2Proof.Claims

theorem nandOpStart_holds : nandOpStart := by
  intro die r s hlive hlo hhi hret
  have hexec (due : List NandReq) : exec (.nandOpStart die due) s =
      let s1 := due.foldl (fun s r => if s.reqOk die r then s.modDie die (fun d => { d with waiting := d.waiting ++ [r] }) else s) s
      match (s1.die die).busy with
      | some _ => .next s1
      | none => match s1.nextOp die with
        | none => .next s1
        | some p => .next (s1.startOn die p.1 p.2) := by
    show execNandOpStart die due s = _
    unfold execNandOpStart
    exact if_pos ⟨hlive, hlo, hhi, hret⟩
  refine ⟨fun b hb hok => ?_, fun hidle hnone => ?_, fun hidle hsome => ?_⟩
  · let s1 := s.modDie die (fun d => { d with waiting := d.waiting ++ [r] })
    have hb1 : (s1.die die).busy = some b := by
      rw [State.die_modDie]
      exact hb
    rw [hexec, List.foldl_cons, List.foldl_nil, if_pos hok]
    show (match (s1.die die).busy with | some _ => Host.Outcome.next s1 | none => _) = _
    rw [hb1]
  · rw [hexec, List.foldl_nil]
    dsimp only
    rw [hidle, State.nextOp_none hnone]
  · obtain ⟨i, x, hnext, hx, hok, hfirst⟩ := State.nextOp_some hsome
    obtain ⟨hdie, herase⟩ := s.startOn_spec die i x
    refine ⟨s.startOn die i x, i, x, ?_, State.startOn_frame _ _ _ _, hx, hok, hdie, hfirst, fun hk => ?_⟩
    · rw [hexec, List.foldl_nil]
      dsimp only
      rw [hidle, hnext]
    · unfold State.startable at hok
      rw [hk] at hok
      simp only [Bool.and_eq_true, Option.isNone_iff_eq_none, List.contains_iff_mem] at hok
      exact ⟨hok.2.1.1, herase hk, hok.2.1.2, hok.2.2⟩

theorem readAroundErase_holds : readAroundErase := by
  intro die block page cw r s hlive hcw hkind hpri hblock hpage hwait g row served
  let hit (r : NandReq) : Bool := decide (r.kind = .read) && r.block == block && r.page == page && decide (r.pri ≤ 3)
  have hhit : hit r = true := by simp [hit, hkind, hblock, hpage, hpri]
  have hexec (bad : List Nat) : exec (.readAroundErase die block page cw bad) s =
      if served ∧ bad = [] then .next ((s.modDie die (fun d => { d with waiting := d.waiting.eraseP hit })).deliver r 1) else .next s := by
    show execReadAroundErase die block page cw bad s = _
    unfold execReadAroundErase
    dsimp only
    rw [hwait]
    have hfind : [r].find? hit = some r := List.find?_cons_of_pos hhit
    show (match [r].find? hit with | none => Host.Outcome.next s | some r => _) = _
    rw [hfind]
    refine if_congr ⟨?_, ?_⟩ rfl rfl
    · rintro ⟨-, -, herase, hbad, hret, hprog⟩
      refine ⟨⟨herase, fun d hd => ?_, fun d hd q hq => ?_⟩, hbad⟩
      · exact Bool.eq_false_iff.mpr (List.any_eq_false.mp hret d hd)
      · have := List.any_eq_false.mp hprog d hd
        rw [hq] at this
        simpa using this
    · rintro ⟨⟨herase, hret, hprog⟩, hbad⟩
      refine ⟨hlive, hcw, herase, hbad, List.any_eq_false.mpr (fun d hd => ?_), List.any_eq_false.mpr (fun d hd => ?_)⟩
      · rw [hret d hd]
        exact Bool.false_ne_true
      · cases hq : (s.die d).busy with
        | none => exact Bool.false_ne_true
        | some q =>
          have := hprog d hd q hq
          simpa using this
  refine ⟨fun hs => ⟨_, (hexec []).trans (if_pos ⟨hs, rfl⟩), ?_, ?_, fun u c hu hc => ?_⟩, fun hs => (hexec []).trans (if_neg (fun h => hs h.1)),
    fun b hb => (hexec b).trans (if_neg (fun h => hb h.2))⟩
  · exact ((State.modDie_frame _ _ _).mono (by decide)).after (State.deliver_frame _ _ _) (by decide)
  · rw [State.die_of_nand (State.deliver_frame _ _ _).nand_eq, State.die_modDie, hwait, List.eraseP_cons_of_pos hhit]
  · exact State.deliver_charges (s := s.modDie die (fun d => { d with waiting := d.waiting.eraseP hit })) hu hc Nat.one_ne_zero

end Sys2Proof.Proofs

namespace Sys2Proof.Machine
-- One thread elaborates these proofs: in parallel they ask for more stacks than the check allows.
set_option Elab.async false
open Sys2Proof.Claims

/-! ### Blocks that are torn, erases that become due (R249, R250) -/

theorem State.block_modBlock_cases (s : State) (d b : Nat) (f : BlockSt → BlockSt) (d' b' : Nat) :
    (s.modBlock d b f).block d' b' = s.block d' b' ∨ (s.modBlock d b f).block d' b' = f (s.block d' b') := by
  by_cases h : blockKey d' b' = blockKey d b
  · right
    unfold State.block
    rw [h]
    exact tget_tset_same _ _ _ _
  · exact .inl (State.block_modBlock_other _ _ h)

/-- From `s` to `u` blocks may have been torn, and erases have become due, but nothing else of the NAND state has changed that an
operation or a plan page depends on; a group that does not erase does not start to. -/
structure Later (s u : State) : Prop where
  frame : Frame [.nand] s u
  torn : ∀ d b : Nat, (s.block d b).torn = true → (u.block d b).torn = true
  refresh : ∀ d b : Nat, (s.block d b).refresh = true → (u.block d b).refresh = true
  committed : ∀ d b : Nat, (u.block d b).committed = (s.block d b).committed
  dies : ∀ d : Nat, (u.die d).busy = (s.die d).busy ∧ (u.die d).ladder = (s.die d).ladder ∧ (u.die d).retired = (s.die d).retired
  waiting : ∀ (d : Nat) (q : NandReq), q ∈ (s.die d).waiting → q ∈ (u.die d).waiting
  plan : ∀ g : Nat, (u.group g).plan = (s.group g).plan ∧ (u.group g).planOn = (s.group g).planOn
  erasing : ∀ g : Nat, (s.group g).erasing = none → (u.group g).erasing = none

theorem Later.refl (s : State) : Later s s :=
  ⟨Frame.refl _ _, fun _ _ h => h, fun _ _ h => h, fun _ _ => rfl, fun _ => ⟨rfl, rfl, rfl⟩, fun _ _ h => h, fun _ => ⟨rfl, rfl⟩, fun _ h => h⟩

theorem Later.trans {s u v : State} (h : Later s u) (h' : Later u v) : Later s v where
  frame := h.frame.after h'.frame (by decide)
  torn d b ht := h'.torn d b (h.torn d b ht)
  refresh d b ht := h'.refresh d b (h.refresh d b ht)
  committed d b := (h'.committed d b).trans (h.committed d b)
  dies d := ⟨(h'.dies d).1.trans (h.dies d).1, (h'.dies d).2.1.trans (h.dies d).2.1, (h'.dies d).2.2.trans (h.dies d).2.2⟩
  waiting d q hq := h'.waiting d q (h.waiting d q hq)
  plan g := ⟨(h'.plan g).1.trans (h.plan g).1, (h'.plan g).2.trans (h.plan g).2⟩
  erasing g hg := h'.erasing g (h.erasing g hg)

theorem Later.modBlock (s : State) (d b : Nat) (f : BlockSt → BlockSt)
    (hf : ∀ x : BlockSt, (x.torn = true → (f x).torn = true) ∧ (x.refresh = true → (f x).refresh = true) ∧ (f x).committed = x.committed) :
    Later s (s.modBlock d b f) where
  frame := State.modBlock_frame _ _ _ _
  torn d' b' h := (s.block_modBlock_cases d b f d' b').elim (fun e => e ▸ h) (fun e => e ▸ (hf _).1 h)
  refresh d' b' h := (s.block_modBlock_cases d b f d' b').elim (fun e => e ▸ h) (fun e => e ▸ (hf _).2.1 h)
  committed d' b' := (s.block_modBlock_cases d b f d' b').elim (fun e => by rw [e]) (fun e => by rw [e]; exact (hf _).2.2)
  dies _ := ⟨rfl, rfl, rfl⟩
  waiting _ _ h := h
  plan _ := ⟨rfl, rfl⟩
  erasing _ h := h

/-- An erase that has become due waits at its die (R249). -/
theorem State.dueErase_spec (s : State) (d b : Nat) :
    Later s (s.dueErase d b) ∧ (∃ q ∈ ((s.dueErase d b).die d).waiting, q.kind = .erase ∧ q.block = b) ∧
    (s.dueErase d b).nand.blocks = s.nand.blocks ∧ (s.dueErase d b).nand.groups = s.nand.groups := by
  unfold State.dueErase
  split
  · rename_i h
    obtain ⟨q, hq, hqk⟩ := List.any_eq_true.mp h
    rw [Bool.and_eq_true, decide_eq_true_iff, beq_iff_eq] at hqk
    exact ⟨Later.refl s, ⟨q, hq, hqk⟩, rfl, rfl⟩
  · let r : NandReq := { pri := 4, kind := .erase, block := b, page := 0, items := [], since := s.time.now, uid := none, lba := none }
    let f (x : DieSt) : DieSt := { x with waiting := x.waiting ++ [r] }
    have hdie (d' : Nat) : (s.modDie d f).die d' = s.die d' ∨ (s.modDie d f).die d' = f (s.die d') := by
      by_cases h : d' = d
      · subst h
        exact .inr (State.die_modDie _ _ _)
      · exact .inl (State.die_modDie_other _ _ h)
    refine ⟨?_, ⟨r, ?_, rfl, rfl⟩, rfl, rfl⟩
    · refine ⟨State.modDie_frame _ _ _, fun _ _ h => h, fun _ _ h => h, fun _ _ => rfl, fun d' => ?_, fun d' q hq => ?_, fun _ => ⟨rfl, rfl⟩, fun _ h => h⟩
      · rcases hdie d' with h | h
        · show ((s.modDie d f).die d').busy = _ ∧ ((s.modDie d f).die d').ladder = _ ∧ ((s.modDie d f).die d').retired = _
          rw [h]
          exact ⟨rfl, rfl, rfl⟩
        · show ((s.modDie d f).die d').busy = _ ∧ ((s.modDie d f).die d').ladder = _ ∧ ((s.modDie d f).die d').retired = _
          rw [h]
          exact ⟨rfl, rfl, rfl⟩
      · show q ∈ ((s.modDie d f).die d').waiting
        rcases hdie d' with h | h <;> rw [h]
        · exact hq
        · exact List.mem_append_left _ hq
    · show r ∈ ((s.modDie d f).die d).waiting
      rw [State.die_modDie]
      exact List.mem_append_right _ (List.mem_singleton_self r)

/-! ### Folds of steps that go one way -/

theorem foldl_way {α : Type} {R : State → State → Prop} (hrefl : ∀ u, R u u) (htrans : ∀ u v w, R u v → R v w → R u w) {f : State → α → State}
    (hf : ∀ u x, R u (f u x)) (l : List α) (s : State) : R s (l.foldl f s) := by
  induction l generalizing s with
  | nil => exact hrefl s
  | cons x l ih => exact htrans _ _ _ (hf s x) (ih (f s x))

/-- What one step of a fold makes true stays true. -/
theorem foldl_way_hit {α : Type} {R : State → State → Prop} (hrefl : ∀ u, R u u) (htrans : ∀ u v w, R u v → R v w → R u w) {f : State → α → State}
    (hf : ∀ u x, R u (f u x)) {P : State → Prop} (hmono : ∀ u v, R u v → P u → P v)
    {l : List α} {x : α} (hx : x ∈ l) {s : State} (hp : ∀ u, R s u → P (f u x)) : P (l.foldl f s) := by
  induction l generalizing s with
  | nil => cases hx
  | cons y l ih =>
    rcases List.mem_cons.mp hx with rfl | hx
    · exact hmono _ _ (foldl_way hrefl htrans hf l (f s x)) (hp s (hrefl s))
    · exact ih hx (fun u hu => hp u (htrans _ _ _ (hf s y) hu))

theorem foldl_later {α : Type} {f : State → α → State} (hf : ∀ u x, Later u (f u x)) (l : List α) (s : State) : Later s (l.foldl f s) :=
  foldl_way Later.refl (fun _ _ _ h h' => h.trans h') hf l s

theorem foldl_later_hit {α : Type} {f : State → α → State} (hf : ∀ u x, Later u (f u x)) {P : State → Prop} (hmono : ∀ u v, Later u v → P u → P v)
    {l : List α} {x : α} (hx : x ∈ l) {s : State} (hp : ∀ u, Later s u → P (f u x)) : P (l.foldl f s) :=
  foldl_way_hit Later.refl (fun _ _ _ h h' => h.trans h') hf hmono hx hp

end Sys2Proof.Machine

namespace Sys2Proof.Proofs
-- One thread elaborates these proofs: in parallel they ask for more stacks than the check allows.
set_option Elab.async false
open Sys2Proof.Machine Sys2Proof.Claims

theorem nandEraseDone_holds : nandEraseDone := by
  intro die r s hbusy hkind g b
  let s1 := (s.modDie die (fun d => { d with busy := none })).modGroup g (fun x => { x with
    erasing := none, left := x.left.filter (fun p => p != (idxOf die, r.block)) })
  have hexec (ok : Bool) : exec (.nandEraseDone die ok) s = if ok then
        .next ((s1.modBlock die r.block (fun b => { b with
          erases := b.erases + 1, reads := 0, torn := false, committed := 0, laddered := 0, refresh := false })).dropRows g r.block (idxOf die))
      else
        .next (((s1.modBlock die r.block (fun b => { b with torn := true })).dueErase die r.block).logNand die (nandAddr die r.block 0 0) 0 none) := by
    show execNandEraseDone die ok s = _
    unfold execNandEraseDone
    rw [hbusy]
    exact if_neg (fun h => h hkind)
  have h1 : Frame [.nand] s s1 := (State.modDie_frame _ _ _).after (State.modGroup_frame _ _ _) (by decide)
  have hdie1 : s1.die die = { s.die die with busy := none } := State.die_modDie s die (fun d => { d with busy := none })
  have hgroup1 : s1.group g = { s.group g with erasing := none, left := (s.group g).left.filter (fun p => p != (idxOf die, r.block)) } :=
    State.group_modGroup (s.modDie die (fun d => { d with busy := none })) _ _
  refine ⟨⟨_, (hexec true).trans (if_pos rfl), ?_, hdie1, State.block_modBlock s1 die r.block (fun b => { b with
    erases := b.erases + 1, reads := 0, torn := false, committed := 0, laddered := 0, refresh := false }), hgroup1⟩, ⟨_, (hexec false).trans (if_neg (by decide)), ?_, ?_, ?_, ?_, ?_⟩⟩
  · exact (h1.after (State.modBlock_frame _ _ _ _) (by decide)).after (State.dropRows_frame _ _ _ _) (by decide)
  all_goals
    let s2 := s1.modBlock die r.block (fun b => { b with torn := true })
    obtain ⟨hlater, hdue, hblocks, hgroups⟩ := s2.dueErase_spec die r.block
    have hlog := State.logNand_frame (s2.dueErase die r.block) die (nandAddr die r.block 0 0) 0 none
  · rw [State.die_of_nand hlog.nand_eq, (hlater.dies die).1]
    exact congrArg DieSt.busy hdie1
  · rw [State.block_of_nand hlog.nand_eq]
    exact (congrArg (fun l => tget BlockSt.reset l (blockKey die r.block)) hblocks).trans (State.block_modBlock s1 _ _ _)
  · rw [State.group_of_nand hlog.nand_eq]
    exact hlater.erasing g (congrArg GroupSt.erasing hgroup1)
  · rw [State.die_of_nand hlog.nand_eq]
    exact hdue
  · exact State.startTest_mem _ _ _ _ _

end Sys2Proof.Proofs

namespace Sys2Proof.Machine
-- One thread elaborates these proofs: in parallel they ask for more stacks than the check allows.
set_option Elab.async false
open Sys2Proof.Claims

/-! ### A reset of F (R249, R250) -/

/-- The blocks of the last plan page of a group that hold no committed word line (R249). -/
def State.tornPlan (s : State) (g : Nat) : List (Nat × Nat) :=
  if (s.group g).planOn.isEmpty then [] else (s.group g).plan.filter (fun p => (s.block (s.variant.dieAt g p.1) p.2).committed == 0)

/-- A block of a plan page is torn, and due for another erase (R249). -/
def State.tearPlanned (s : State) (g : Nat) (p : Nat × Nat) : State :=
  ((s.modBlock (s.variant.dieAt g p.1) p.2 (fun b => { b with torn := true })).modNand (fun n => { n with tornErase := satAdd 32 n.tornErase 1 })).dueErase
    (s.variant.dieAt g p.1) p.2

/-- One group's plan page is read (R249). -/
def State.readPlan (s : State) (g : Nat) : State :=
  (s.tornPlan g).foldl (fun u p => u.tearPlanned g p) (s.modGroup g (fun x => { x with left := [], erasing := none }))

theorem State.readPlans_eq (s : State) : s.readPlans = (s.nand.groups.map (·.1)).foldl State.readPlan s := rfl

theorem State.tearPlanned_spec (s : State) (g : Nat) (p : Nat × Nat) : Later s (s.tearPlanned g p) ∧
    ((s.tearPlanned g p).block (s.variant.dieAt g p.1) p.2).torn = true ∧
    ∃ q ∈ ((s.tearPlanned g p).die (s.variant.dieAt g p.1)).waiting, q.kind = .erase ∧ q.block = p.2 := by
  let d := s.variant.dieAt g p.1
  let s1 := s.modBlock d p.2 (fun b => { b with torn := true })
  let s2 := s1.modNand (fun n => { n with tornErase := satAdd 32 n.tornErase 1 })
  have h1 : Later s s1 := Later.modBlock s d p.2 _ (fun _ => ⟨fun _ => rfl, id, rfl⟩)
  have h2 : Later s1 s2 := ⟨State.modNand_frame _ _, fun _ _ h => h, fun _ _ h => h, fun _ _ => rfl, fun _ => ⟨rfl, rfl, rfl⟩, fun _ _ h => h, fun _ => ⟨rfl, rfl⟩, fun _ h => h⟩
  obtain ⟨h3, hdue, -, -⟩ := s2.dueErase_spec d p.2
  refine ⟨(h1.trans h2).trans h3, h3.torn d p.2 (h2.torn d p.2 ?_), hdue⟩
  exact congrArg BlockSt.torn (State.block_modBlock s d p.2 (fun b => { b with torn := true }))

theorem State.readPlan_later (s : State) (g : Nat) : Later s (s.readPlan g) ∧ ((s.readPlan g).group g).erasing = none := by
  let s1 := s.modGroup g (fun x => { x with left := [], erasing := none })
  have hgroup (h : Nat) : s1.group h = s.group h ∨ s1.group h = { s.group h with left := [], erasing := none } := by
    by_cases hg : h = g
    · subst hg
      exact .inr (State.group_modGroup _ _ _)
    · exact .inl (State.group_modGroup_other _ _ hg)
  have h1 : Later s s1 := by
    refine ⟨State.modGroup_frame _ _ _, fun _ _ h => h, fun _ _ h => h, fun _ _ => rfl, fun _ => ⟨rfl, rfl, rfl⟩, fun _ _ h => h, fun h => ?_, fun h hnone => ?_⟩
    · rcases hgroup h with he | he <;> rw [he] <;> exact ⟨rfl, rfl⟩
    · rcases hgroup h with he | he <;> rw [he]
      exact hnone
  have h2 : Later s1 (s.readPlan g) := foldl_later (fun u p => (u.tearPlanned_spec g p).1) _ _
  exact ⟨h1.trans h2, h2.erasing g (congrArg GroupSt.erasing (State.group_modGroup s g (fun x => { x with left := [], erasing := none })))⟩

/-- R249: a listed block that holds no committed word line is torn and due for another erase. -/
theorem State.readPlan_tears {s : State} {g : Nat} {p : Nat × Nat} (hp : p ∈ (s.group g).plan) (hon : (s.group g).planOn ≠ [])
    (hc : (s.block (s.variant.dieAt g p.1) p.2).committed = 0) :
    ((s.readPlan g).block (s.variant.dieAt g p.1) p.2).torn = true ∧
      ∃ q ∈ ((s.readPlan g).die (s.variant.dieAt g p.1)).waiting, q.kind = .erase ∧ q.block = p.2 := by
  have hmem : p ∈ s.tornPlan g := by
    unfold State.tornPlan
    rw [if_neg (fun h => hon (List.isEmpty_iff.mp h))]
    exact List.mem_filter.mpr ⟨hp, beq_iff_eq.mpr hc⟩
  refine foldl_later_hit (P := fun u => (u.block (s.variant.dieAt g p.1) p.2).torn = true ∧
      ∃ q ∈ (u.die (s.variant.dieAt g p.1)).waiting, q.kind = .erase ∧ q.block = p.2)
    (fun u p => (u.tearPlanned_spec g p).1) (fun u v huv hu => ?_) hmem (fun u hu => ?_)
  · obtain ⟨htorn, q, hq, hqk⟩ := hu
    exact ⟨huv.torn _ _ htorn, q, huv.waiting _ _ hq, hqk⟩
  · have hv : u.variant = s.variant := hu.frame.variant_eq
    rw [← hv]
    exact (u.tearPlanned_spec g p).2

theorem State.readPlans_spec (s : State) : Later s s.readPlans ∧ (∀ g : Nat, (s.readPlans.group g).erasing = none) ∧
    ∀ (g : Nat) (p : Nat × Nat), p ∈ (s.group g).plan → (s.group g).planOn ≠ [] → (s.block (s.variant.dieAt g p.1) p.2).committed = 0 →
      (s.readPlans.block (s.variant.dieAt g p.1) p.2).torn = true ∧
      ∃ q ∈ (s.readPlans.die (s.variant.dieAt g p.1)).waiting, q.kind = .erase ∧ q.block = p.2 := by
  have hstep (u : State) (g : Nat) := (u.readPlan_later g).1
  have hkey {g : Nat} (hg : s.group g ≠ GroupSt.reset) : g ∈ s.nand.groups.map (·.1) := by
    cases hf : tfind s.nand.groups g with
    | none => exact absurd (congrArg (fun o : Option GroupSt => o.getD GroupSt.reset) hf) hg
    | some x => exact List.mem_map.mpr ⟨(g, x), mem_of_tfind hf, rfl⟩
  rw [State.readPlans_eq]
  refine ⟨foldl_later hstep _ _, fun g => ?_, fun g p hp hon hc => ?_⟩
  · by_cases hg : s.group g = GroupSt.reset
    · exact (foldl_later hstep _ s).erasing g (by rw [hg]; rfl)
    · exact foldl_later_hit (P := fun u => (u.group g).erasing = none) hstep (fun u v huv hu => huv.erasing g hu) (hkey hg) (fun u _ => (u.readPlan_later g).2)
  · have hg : s.group g ≠ GroupSt.reset := fun h => by
      rw [h] at hp
      cases hp
    refine foldl_later_hit (P := fun u => (u.block (s.variant.dieAt g p.1) p.2).torn = true ∧
      ∃ q ∈ (u.die (s.variant.dieAt g p.1)).waiting, q.kind = .erase ∧ q.block = p.2) hstep (fun u v huv hu => ?_) (hkey hg) (fun u hu => ?_)
    · obtain ⟨htorn, q, hq, hqk⟩ := hu
      exact ⟨huv.torn _ _ htorn, q, huv.waiting _ _ hq, hqk⟩
    · have hv : u.variant = s.variant := hu.frame.variant_eq
      rw [← hv] at hc ⊢
      exact State.readPlan_tears ((hu.plan g).1 ▸ hp) ((hu.plan g).2 ▸ hon) ((hu.committed _ _).trans hc)

/-- What a reset of F does to the block of an operation in progress (R250). -/
def State.tearBusy (s : State) (p : Nat × NandReq) : State :=
  match p.2.kind with
  | .program => s.modBlock p.1 p.2.block (fun b => { b with torn := true, refresh := true })
  | .erase => s.modBlock p.1 p.2.block (fun b => { b with torn := true })
  | _ => s

theorem State.tearBusy_spec (s : State) (d : Nat) (r : NandReq) : Later s (s.tearBusy (d, r)) ∧
    (r.kind = .program → ((s.tearBusy (d, r)).block d r.block).torn = true ∧ ((s.tearBusy (d, r)).block d r.block).refresh = true) ∧
    (r.kind = .erase → ((s.tearBusy (d, r)).block d r.block).torn = true) := by
  unfold State.tearBusy
  cases hk : r.kind with
  | read => exact ⟨Later.refl s, nofun, nofun⟩
  | plan => exact ⟨Later.refl s, nofun, nofun⟩
  | program =>
    have hb := s.block_modBlock d r.block (fun b => { b with torn := true, refresh := true })
    exact ⟨Later.modBlock s d r.block _ (fun _ => ⟨fun _ => rfl, fun _ => rfl, rfl⟩), fun _ => ⟨congrArg BlockSt.torn hb, congrArg BlockSt.refresh hb⟩, nofun⟩
  | erase =>
    have hb := s.block_modBlock d r.block (fun b => { b with torn := true })
    exact ⟨Later.modBlock s d r.block _ (fun _ => ⟨fun _ => rfl, id, rfl⟩), nofun, fun _ => congrArg BlockSt.torn hb⟩

/-- The operations in progress, by die. -/
def State.busyOps (s : State) : List (Nat × NandReq) := s.nand.dies.filterMap (fun d => d.2.busy.map (fun r => (d.1, r)))

theorem State.busyOps_mem {s : State} {d : Nat} {r : NandReq} (h : (s.die d).busy = some r) : (d, r) ∈ s.busyOps := by
  cases hf : tfind s.nand.dies d with
  | none =>
    have hd : s.die d = DieSt.reset := congrArg (fun o : Option DieSt => o.getD DieSt.reset) hf
    rw [hd] at h
    cases h
  | some x =>
    have hd : s.die d = x := congrArg (fun o : Option DieSt => o.getD DieSt.reset) hf
    rw [hd] at h
    exact List.mem_filterMap.mpr ⟨(d, x), mem_of_tfind hf, congrArg (Option.map (fun r => (d, r))) h⟩

/-- Every die stops: nothing is in progress (R250). -/
def State.stopDies (s : State) : State := s.modNand (fun n => { n with dies := tmap n.dies (fun _ d => { d with busy := none, ladder := [] }) })

theorem State.nandReset_eq (s : State) : s.nandReset = (s.busyOps.foldl State.tearBusy s).stopDies.readPlans := by
  refine congrArg (fun f => (s.busyOps.foldl f s).stopDies.readPlans) (funext fun u => funext fun p => ?_)
  unfold State.tearBusy
  cases p.2.kind <;> rfl

end Sys2Proof.Machine

namespace Sys2Proof.Proofs
-- One thread elaborates these proofs: in parallel they ask for more stacks than the check allows.
set_option Elab.async false
open Sys2Proof.Machine Sys2Proof.Claims

theorem nandReset_holds : nandReset := by
  intro s hmode
  let s1 := s.busyOps.foldl State.tearBusy s
  have hstep (u : State) (p : Nat × NandReq) : Later u (u.tearBusy p) := (u.tearBusy_spec p.1 p.2).1
  have h1 : Later s s1 := foldl_later hstep _ _
  obtain ⟨h3, herase, hplan⟩ := s1.stopDies.readPlans_spec
  have hexec : exec .nandReset s = .next s1.stopDies.readPlans :=
    congrArg Host.Outcome.next ((if_neg hmode).trans s.nandReset_eq)
  have hvariant : s1.stopDies.variant = s.variant := h1.frame.variant_eq
  refine ⟨_, hexec, (h1.frame.after (State.modNand_frame _ _) (by decide)).after h3.frame (by decide), fun d => ?_, fun d r hd hk => ?_, fun d r hd hk => ?_,
    fun g p hp hon hc => ?_, herase⟩
  · have hstop : (s1.stopDies.die d).busy = none ∧ (s1.stopDies.die d).ladder = [] :=
      tget_tmap DieSt.reset s1.nand.dies (fun _ d => { d with busy := none, ladder := [] }) d (fun _ d' => d'.busy = none ∧ d'.ladder = []) ⟨rfl, rfl⟩
        (fun _ => ⟨rfl, rfl⟩)
    exact ⟨(h3.dies d).1.trans hstop.1, (h3.dies d).2.1.trans hstop.2⟩
  · have ht : (s1.block d r.block).torn = true ∧ (s1.block d r.block).refresh = true :=
      foldl_later_hit (P := fun u => (u.block d r.block).torn = true ∧ (u.block d r.block).refresh = true) hstep
        (fun u v huv hu => ⟨huv.torn _ _ hu.1, huv.refresh _ _ hu.2⟩) (State.busyOps_mem hd) (fun u _ => (u.tearBusy_spec d r).2.1 hk)
    exact ⟨h3.torn _ _ ht.1, h3.refresh _ _ ht.2⟩
  · have ht : (s1.block d r.block).torn = true := foldl_later_hit (P := fun u => (u.block d r.block).torn = true) hstep
      (fun u v huv hu => huv.torn _ _ hu) (State.busyOps_mem hd) (fun u _ => (u.tearBusy_spec d r).2.2 hk)
    exact h3.torn _ _ ht
  · rw [← hvariant] at hc ⊢
    refine hplan g p ?_ ?_ ?_
    · exact ((h1.plan g).1 : (s1.group g).plan = _) ▸ hp
    · exact ((h1.plan g).2 : (s1.group g).planOn = _) ▸ hon
    · exact (h1.committed _ _).trans hc

end Sys2Proof.Proofs

namespace Sys2Proof.Machine
-- One thread elaborates these proofs: in parallel they ask for more stacks than the check allows.
set_option Elab.async false
open Sys2Proof.Claims

/-! ### Commits (R232, R318) -/

/-- The namespaces and the write cache stand as they were. -/
def sameData (s u : State) : Prop := u.nvme.ns = s.nvme.ns ∧ u.nvme.cache = s.nvme.cache

theorem sameData.trans {s u v : State} (h : sameData s u) (h' : sameData u v) : sameData s v := ⟨h'.1.trans h.1, h'.2.trans h.2⟩

theorem sameData.of_nvme {s u : State} (h : u.nvme = s.nvme) : sameData s u := by
  unfold sameData
  rw [h]
  exact ⟨rfl, rfl⟩

theorem State.nvmeIrq_nvme (s : State) (fn q : Nat) : (s.nvmeIrq fn q).nvme = s.nvme := (State.nvmeIrq_frame s fn q).nvme_eq

/-- The completion of an NVMe command with success. -/
theorem State.nvDone_ok (s : State) (h : NvmeHdr) (d0 lba : Nat) : (s.nvDone h nvOk d0 lba).nvme = { s.nvme with
    outstanding := s.nvme.outstanding.filter (fun o => !o.1.same h)
    idleSince := s.time.now
    out := s.nvme.out ++ [{ fn := h.fn, sqid := h.sqid, cid := h.cid, sct := 0, sc := 0, dnr := false, dw0 := d0 }] } := by
  have hdone : s.nvDone h nvOk d0 lba = s.nvEnd h nvOk d0 := by
    unfold State.nvDone State.nvDoneAt
    exact if_neg (by decide)
  rw [hdone]
  exact State.nvmeIrq_nvme _ _ _

theorem State.nvDone_data (s : State) (h : NvmeHdr) (d0 lba : Nat) : sameData s (s.nvDone h nvOk d0 lba) := by
  unfold sameData
  rw [State.nvDone_ok]
  exact ⟨rfl, rfl⟩

theorem State.endFlushes_data (s : State) : sameData s s.endFlushes := by
  have hfold (l : List FlushSt) (u : State) : sameData u (l.foldl (fun s f => s.nvDone f.h nvOk 0 0) u) := by
    induction l generalizing u with
    | nil => exact ⟨rfl, rfl⟩
    | cons f l ih => exact (u.nvDone_data f.h 0 0).trans (ih _)
  unfold State.endFlushes
  exact hfold _ _

theorem State.finishShutdown_data (s : State) : sameData s s.finishShutdown := by
  unfold State.finishShutdown
  dsimp only
  split
  · split
    · exact ⟨rfl, rfl⟩
    · exact ⟨rfl, rfl⟩
  · exact ⟨rfl, rfl⟩

/-- An extent that is committed leaves the cache, and its data becomes the namespace's (R318). -/
theorem State.commitExtent_only {s : State} {e : Extent} {n : NsSt} (place : Nat) (hcache : s.nvme.cache = [e]) (hn : tfind s.nvme.ns e.h.nsid = some n) :
    (s.commitExtent e.id place).nvme.cache = [] ∧ tfind (s.commitExtent e.id place).nvme.ns e.h.nsid = some (n.take e place) := by
  have hfind : s.nvme.cache.find? (fun x => x.id == e.id) = some e := by
    rw [hcache]
    exact List.find?_cons_of_pos (beq_self_eq_true _)
  unfold State.commitExtent
  rw [hfind]
  dsimp -zeta only
  extract_lets before after kept size s1 src s2 s3
  have hbefore : before = [] := by
    unfold before
    rw [hcache]
    exact List.takeWhile_cons_of_neg (by simp)
  have hafter : after = [] := by
    unfold after
    rw [hcache]
    exact List.filter_cons_of_neg (by simp)
  have h1 : s1.nvme.cache = [] ∧ tfind s1.nvme.ns e.h.nsid = some (n.take e place) := by
    refine ⟨?_, ?_⟩
    · show before.map e.supersede ++ after = []
      rw [hbefore, hafter]
      rfl
    · show tfind (match tfind s.nvme.ns e.h.nsid with | some x => tset s.nvme.ns e.h.nsid (x.take e place) | none => s.nvme.ns) e.h.nsid = _
      rw [hn]
      exact tfind_tset_same _ _ _
  have h2 : sameData s1 s2 := by
    unfold s2
    split
    · exact ⟨rfl, rfl⟩
    · exact sameData.of_nvme (State.charge_frame _ _ _).nvme_eq
  have h3 : sameData s2 s3 := by
    unfold s3
    split
    · exact State.nvDone_data _ _ _ _
    · exact ⟨rfl, rfl⟩
  obtain ⟨hns, hc⟩ := ((h2.trans h3).trans s3.endFlushes_data).trans (State.finishShutdown_data _)
  rw [hns, hc]
  exact h1

/-- The namespace's blocks after data without gaps is taken: those of the range hold the data, the others stand (R318). -/
theorem NsSt.take_media {n : NsSt} {e : Extent} (place : Nat) (hkind : e.kind = 0) (hdead : e.dead = []) (hlen : e.blocks.length = e.nlb) :
    (∀ k : Nat, k < e.nlb → (tget (deallocBlk n.lbaf) (n.take e place).media (e.slba + k)).data = (e.blocks.getD k (deallocBlk n.lbaf)).data) ∧
    ∀ lba : Nat, lba < e.slba ∨ e.slba + e.nlb ≤ lba → tfind (n.take e place).media lba = tfind n.media lba := by
  let blk (i : Nat) : Blk := { (e.blocks.getD i (deallocBlk n.lbaf)) with place := place }
  have hlive : (List.range e.blocks.length).filter (fun i => e.covers e.h.nsid (e.slba + i)) = List.range e.nlb := by
    rw [hlen]
    refine List.filter_eq_self.mpr (fun i hi => ?_)
    have := List.mem_range.mp hi
    simp [Extent.covers, hdead, this]
  have hmedia : (n.take e place).media = (List.range e.nlb).foldl (fun t i => tset t (e.slba + i) (blk i)) n.media := by
    unfold NsSt.take
    rw [hlive]
    exact congrArg NsSt.media (if_pos hkind)
  have hfold (l : List Nat) (t : Table Blk) (hl : l.Nodup) (lba : Nat) : tfind (l.foldl (fun t i => tset t (e.slba + i) (blk i)) t) lba =
      if e.slba ≤ lba ∧ lba - e.slba ∈ l then some (blk (lba - e.slba)) else tfind t lba := by
    induction l generalizing t with
    | nil => exact (if_neg (fun h => List.not_mem_nil h.2)).symm
    | cons i l ih =>
      obtain ⟨hi, hl⟩ := List.nodup_cons.mp hl
      rw [List.foldl_cons, ih _ hl]
      by_cases hin : e.slba ≤ lba ∧ lba - e.slba ∈ l
      · rw [if_pos hin, if_pos ⟨hin.1, List.mem_cons_of_mem _ hin.2⟩]
      · rw [if_neg hin]
        by_cases hlba : lba = e.slba + i
        · subst hlba
          rw [tfind_tset_same, Nat.add_sub_cancel_left, if_pos ⟨Nat.le_add_right _ _, List.mem_cons_self⟩]
        · rw [tfind_tset_other _ _ hlba, if_neg]
          rintro ⟨hle, hmem⟩
          rcases List.mem_cons.mp hmem with h | h
          · omega
          · exact hin ⟨hle, h⟩
  refine ⟨fun k hk => ?_, fun lba hlba => ?_⟩
  · unfold tget
    rw [hmedia, hfold _ _ List.nodup_range, if_pos ⟨Nat.le_add_right _ _, by rw [Nat.add_sub_cancel_left]; exact List.mem_range.mpr hk⟩, Nat.add_sub_cancel_left]
    rfl
  · rw [hmedia, hfold _ _ List.nodup_range, if_neg]
    rintro ⟨hle, hmem⟩
    have := List.mem_range.mp hmem
    omega

/-- Counting the committed word lines changes only blocks. -/
theorem State.countCommitted_rest (s : State) (g b : Nat) (r : RowSt) (i : Nat) :
    (s.countCommitted g b r i).nand.rows = s.nand.rows ∧ (s.countCommitted g b r i).nand.items = s.nand.items ∧
    (s.countCommitted g b r i).nand.dies = s.nand.dies := by
  have hfold (f : State → Nat → State) (hf : ∀ u j, (f u j).nand.rows = u.nand.rows ∧ (f u j).nand.items = u.nand.items ∧ (f u j).nand.dies = u.nand.dies)
      (l : List Nat) (u : State) : (l.foldl f u).nand.rows = u.nand.rows ∧ (l.foldl f u).nand.items = u.nand.items ∧ (l.foldl f u).nand.dies = u.nand.dies := by
    induction l generalizing u with
    | nil => exact ⟨rfl, rfl, rfl⟩
    | cons j l ih =>
      obtain ⟨h1, h2, h3⟩ := ih (f u j)
      obtain ⟨g1, g2, g3⟩ := hf u j
      exact ⟨h1.trans g1, h2.trans g2, h3.trans g3⟩
  exact hfold (fun s j => s.modBlock (s.variant.dieAt g j) b (fun b => { b with committed := b.committed + 1 })) (by exact fun _ _ => ⟨rfl, rfl, rfl⟩) _ _

end Sys2Proof.Machine

namespace Sys2Proof.Proofs
-- One thread elaborates these proofs: in parallel they ask for more stacks than the check allows.
set_option Elab.async false
open Sys2Proof.Machine Sys2Proof.Claims

theorem nandProgramDone_holds : nandProgramDone := by
  intro die r s hbusy hkind g wl x
  let s1 := s.modDie die (fun d => { d with busy := none })
  let y : RowSt := { programmed := x.programmed ++ [idxOf die], items := x.items ++ r.items.map (fun k => (idxOf die, k)) }
  let s2 := s1.modNand (fun n => { n with rows := tset n.rows (rowKey g r.block wl) y })
  let s3 := s2.countCommitted g r.block y (idxOf die)
  have hdie1 : s1.die die = { s.die die with busy := none } := State.die_modDie s die (fun d => { d with busy := none })
  have hrow2 : s2.row g r.block wl = y := tget_tset_same _ _ _ _
  have hrow3 : s3.row g r.block wl = y := (congrArg (fun l => tget RowSt.empty l (rowKey g r.block wl)) (s2.countCommitted_rest g r.block y (idxOf die)).1).trans hrow2
  have hexec (ok : Bool) : exec (.nandProgramDone die ok) s = if ok then .next (s3.commitRow g r.block wl)
      else .next ((s1.modBlock die r.block (fun b => { b with refresh := true })).logNand die (nandAddr die r.block r.page 0) 0 none) := by
    show execNandProgramDone die ok s = _
    unfold execNandProgramDone
    rw [hbusy]
    dsimp only
    rw [hkind]
  have hcommit : s3.commitRow g r.block wl = if y.programmed.contains (r.block % 16) then
      y.items.foldl (fun s p => s.commitItem (s.variant.dieAt g p.1) r.block p.2)
        (s3.modNand (fun n => { n with rows := tset n.rows (rowKey g r.block wl) { y with items := [] } })) else s3 := by
    unfold State.commitRow
    rw [hrow3]
  refine ⟨fun hne hno => ?_, fun i j e hparity hitems hx hfind hcache hekind hdead hlen n hn => ?_, fun hs hr => ?_⟩
  · have hcont : y.programmed.contains (r.block % 16) = false := by
      rw [List.contains_eq_mem, decide_eq_false_iff_not, List.mem_append, List.mem_singleton, not_or]
      exact ⟨hno, fun h => hne h.symm⟩
    have hs3 : s3 = s2 := by
      unfold s3 State.countCommitted
      rw [if_neg hne, if_neg (by rw [hcont]; exact Bool.false_ne_true)]
      rfl
    refine ⟨s2, ?_, (State.modDie_frame _ _ _).after (State.modNand_frame _ _) (by decide), hrow2, hdie1, rfl⟩
    rw [hexec, if_pos rfl, hcommit, if_neg (by rw [hcont]; exact Bool.false_ne_true), hs3]
  · have hcont : y.programmed.contains (r.block % 16) = true := by
      rw [List.contains_eq_mem, decide_eq_true_iff]
      exact List.mem_append_right _ (List.mem_singleton.mpr hparity.symm)
    have hyitems : y.items = [(j, i)] := by
      show x.items ++ r.items.map _ = _
      rw [hx, hitems]
      rfl
    let s4 := s3.modNand (fun n => { n with rows := tset n.rows (rowKey g r.block wl) { y with items := [] } })
    let s5 := s4.modNand (fun n => { n with items := tdel n.items i })
    let place := blockKey (s4.variant.dieAt g j) r.block
    have hframe3 : Frame [.nand] s s3 :=
      ((State.modDie_frame _ _ _).after (State.modNand_frame _ _) (by decide)).after (State.countCommitted_frame s2 g r.block y (idxOf die)) (by decide)
    have hnvme : s5.nvme = s.nvme := hframe3.nvme_eq
    have hitem : s4.commitItem (s4.variant.dieAt g j) r.block i = s5.commitExtent e.id place := by
      have h4 : tfind s4.nand.items i = some (.extent e.id) :=
        (congrArg (fun l => tfind l i) (s2.countCommitted_rest g r.block y (idxOf die)).2.1).trans hfind
      unfold State.commitItem
      rw [h4]
    have hnand : (s5.commitExtent e.id place).nand = s5.nand := (State.commitExtent_frame _ _ _).nand_eq
    obtain ⟨hc, hns⟩ := State.commitExtent_only (s := s5) place (hnvme ▸ hcache) (by rw [hnvme]; exact hn)
    obtain ⟨hin, hout⟩ := NsSt.take_media (n := n) place hekind hdead hlen
    refine ⟨s5.commitExtent e.id place, _, ?_, hc, hns, ?_, ?_, hin, hout⟩
    · rw [hexec, if_pos rfl, hcommit, if_pos hcont, hyitems, List.foldl_cons, List.foldl_nil]
      exact congrArg Host.Outcome.next hitem
    · refine (congrArg (fun n : NandSt => (tget RowSt.empty n.rows (rowKey g r.block wl)).items) hnand).trans ?_
      exact congrArg RowSt.items (tget_tset_same _ _ _ _)
    · rw [hnand]
      exact tfind_tdel_same _ _
  · let s2' := s1.modBlock die r.block (fun b => { b with refresh := true })
    have hlog := State.logNand_frame s2' die (nandAddr die r.block r.page 0) 0 none
    obtain ⟨⟨e, he, hcls, hunit, -⟩, htest⟩ := State.logNand_first (s := s2') die (nandAddr die r.block r.page 0) 0 none hs hr
    refine ⟨_, (hexec false).trans (if_neg (by decide)), ?_, ?_, ?_, hlog.nvme_eq, ⟨e, he, hcls, hunit⟩, htest⟩
    · rw [State.die_of_nand hlog.nand_eq]
      exact hdie1
    · rw [State.block_of_nand hlog.nand_eq]
      exact congrArg BlockSt.refresh (State.block_modBlock s1 die r.block (fun b => { b with refresh := true }))
    · exact (congrArg (fun n : NandSt => tget RowSt.empty n.rows (rowKey g r.block wl)) hlog.nand_eq).trans rfl

/-- Settles O43. -/
theorem nandOperations : Obligations.NandOperations :=
  ⟨nandOpStart_holds, readAroundErase_holds, nandProgramDone_holds, nandEraseDone_holds, nandReset_holds⟩

end Sys2Proof.Proofs


/-! Patrol, refresh, collection, wear and the way of the write cache to NAND: O44. -/

namespace Sys2Proof.Machine
-- One thread elaborates these proofs: in parallel they ask for more stacks than the check allows.
set_option Elab.async false
open Sys2Proof.Claims

/-! ### Blocks that are released (R253) -/

/-- From `s` to `u` blocks may have been released: no block holds committed data that did not, and erases have become due. -/
structure Freed (s u : State) : Prop where
  frame : Frame [.nand] s u
  committed : ∀ d b : Nat, (s.block d b).committed = 0 → (u.block d b).committed = 0
  retired : ∀ d : Nat, (u.die d).retired = (s.die d).retired
  waiting : ∀ (d : Nat) (q : NandReq), q ∈ (s.die d).waiting → q ∈ (u.die d).waiting
  groups : u.nand.groups = s.nand.groups

theorem Freed.refl (s : State) : Freed s s := ⟨Frame.refl _ _, fun _ _ h => h, fun _ => rfl, fun _ _ h => h, rfl⟩

theorem Freed.trans {s u v : State} (h : Freed s u) (h' : Freed u v) : Freed s v where
  frame := h.frame.after h'.frame (by decide)
  committed d b hc := h'.committed d b (h.committed d b hc)
  retired d := (h'.retired d).trans (h.retired d)
  waiting d q hq := h'.waiting d q (h.waiting d q hq)
  groups := h'.groups.trans h.groups

/-- R253: a block that is released holds no committed data, and an erase of it waits. -/
theorem State.release_spec (s : State) (d b : Nat) : Freed s (s.release d b) ∧
    (s.release d b).block d b = { s.block d b with committed := 0, refresh := false } ∧
    ∃ q ∈ ((s.release d b).die d).waiting, q.kind = .erase ∧ q.block = b := by
  let f (x : BlockSt) : BlockSt := { x with committed := 0, refresh := false }
  let s1 := s.modBlock d b f
  obtain ⟨hlater, hdue, hblocks, hgroups⟩ := s1.dueErase_spec d b
  have h1 : Freed s s1 := by
    refine ⟨State.modBlock_frame _ _ _ _, fun d' b' hc => ?_, fun _ => rfl, fun _ _ h => h, rfl⟩
    rcases s.block_modBlock_cases d b f d' b' with h | h
    · exact (congrArg BlockSt.committed h).trans hc
    · exact congrArg BlockSt.committed h
  have h2 : Freed s1 (s.release d b) := ⟨hlater.frame, fun d' b' hc => (hlater.committed d' b').trans hc, fun d' => (hlater.dies d').2.2, hlater.waiting, hgroups⟩
  refine ⟨h1.trans h2, ?_, hdue⟩
  exact (congrArg (fun l => tget BlockSt.reset l (blockKey d b)) hblocks).trans (State.block_modBlock s d b f)

/-- R255, R257: the 16 blocks of a stripe are released. -/
theorem State.releaseStripe_spec (s : State) (g b : Nat) : Freed s (s.releaseStripe g b) ∧
    ∀ i : Nat, i < 16 → (s.die (s.variant.dieAt g i)).retired = false → ((s.releaseStripe g b).block (s.variant.dieAt g i) b).committed = 0 ∧
      ∃ q ∈ ((s.releaseStripe g b).die (s.variant.dieAt g i)).waiting, q.kind = .erase ∧ q.block = b := by
  have hstep (u : State) (i : Nat) : Freed u (if (u.die (u.variant.dieAt g i)).retired then u else u.release (u.variant.dieAt g i) b) := by
    split
    · exact Freed.refl u
    · exact (u.release_spec _ _).1
  refine ⟨foldl_way Freed.refl (fun _ _ _ h h' => h.trans h') hstep _ _, fun i hi hret => ?_⟩
  refine foldl_way_hit (P := fun u => (u.block (s.variant.dieAt g i) b).committed = 0 ∧
      ∃ q ∈ (u.die (s.variant.dieAt g i)).waiting, q.kind = .erase ∧ q.block = b) Freed.refl (fun _ _ _ h h' => h.trans h') hstep
    (fun u v huv hu => ?_) (List.mem_range.mpr hi) (fun u hu => ?_)
  · obtain ⟨hc, q, hq, hqk⟩ := hu
    exact ⟨huv.committed _ _ hc, q, huv.waiting _ _ hq, hqk⟩
  · have hv : u.variant = s.variant := hu.frame.variant_eq
    rw [hv, if_neg (by rw [hu.retired, hret]; exact Bool.false_ne_true)]
    obtain ⟨-, hblock, hdue⟩ := u.release_spec (s.variant.dieAt g i) b
    exact ⟨congrArg BlockSt.committed hblock, hdue⟩

/-- R252: a page without a codeword that fails, read for nobody: only its block can become due for a refresh. -/
theorem State.readPage_patrol {s : State} {die : Nat} {r : NandReq} {cws : List CwRead} (hu : r.uid = none) (hok : ∀ c ∈ cws, cwOut c ≠ .fail) :
    ((s.readPage die r cws).die die) = { s.die die with busy := none, ladder := [] } ∧
    ((s.readPage die r cws).block die r.block).reads = (s.block die r.block).reads ∧ Frame [.nand] s (s.readPage die r cws) := by
  let outs := cws.map cwOut
  let s1 := s.modNand (fun n => outs.foldl NandSt.count n)
  let s2 := if cws.any (fun c => decide (cwOut c ≠ .fail ∧ 96 < c.corrected)) then s1.modBlock die r.block (fun b => { b with refresh := true }) else s1
  have hbad : ((List.range outs.length).zip outs).filter (fun p => decide (p.2 = .fail)) = [] := by
    refine List.filter_eq_nil_iff.mpr (fun p hp => ?_)
    obtain ⟨c, hc, hcp⟩ := List.mem_map.mp (List.mem_of_getElem? (mem_range_zip.mp hp))
    rw [decide_eq_true_iff, ← hcp]
    exact hok c hc
  have hdeliver (n : Nat) : s2.deliver r n = s2 := by
    unfold State.deliver
    rw [hu]
  have hpage : s.readPage die r cws = s2.modDie die (fun d => { d with busy := none, ladder := [] }) := by
    unfold State.readPage
    dsimp only
    rw [hbad, List.map_nil, ite_self, hdeliver]
    rfl
  have h1 : s1.die die = s.die die ∧ s1.block die r.block = s.block die r.block :=
    ⟨congrArg (fun l => tget DieSt.reset l die) (foldl_count_same (g := NandSt.dies) (fun n x => by cases x <;> rfl) outs s.nand),
      congrArg (fun l => tget BlockSt.reset l (blockKey die r.block)) (foldl_count_same (g := NandSt.blocks) (fun n x => by cases x <;> rfl) outs s.nand)⟩
  have h2 : s2.die die = s.die die ∧ (s2.block die r.block).reads = (s.block die r.block).reads ∧ Frame [.nand] s s2 := by
    unfold s2
    split
    · refine ⟨h1.1, ?_, (State.modNand_frame _ _).after (State.modBlock_frame _ _ _ _) (by decide)⟩
      rw [State.block_modBlock]
      exact (congrArg BlockSt.reads h1.2 : (s1.block die r.block).reads = _)
    · exact ⟨h1.1, congrArg BlockSt.reads h1.2, State.modNand_frame _ _⟩
  rw [hpage]
  exact ⟨by rw [State.die_modDie, h2.1], h2.2.1, h2.2.2.after (State.modDie_frame _ _ _) (by decide)⟩

/-- An event leaves read-only mode as it is. -/
theorem State.asyncEvent_readOnly (s : State) (fn d0 : Nat) : (s.asyncEvent fn d0).nvme.readOnly = s.nvme.readOnly := by
  unfold State.asyncEvent
  split
  · rfl
  · show (State.nvmeIrq _ _ _).nvme.readOnly = _
    rw [State.nvmeIrq_nvme]
    rfl

theorem State.noteCritical_readOnly (old new : State) : (State.noteCritical old new).nvme.readOnly = new.nvme.readOnly := by
  have hfold {α : Type} (f : State → α → State) (hf : ∀ u x, (f u x).nvme.readOnly = u.nvme.readOnly) (l : List α) (u : State) :
      (l.foldl f u).nvme.readOnly = u.nvme.readOnly :=
    foldl_way (R := fun u v => v.nvme.readOnly = u.nvme.readOnly) (fun _ => rfl) (fun _ _ _ h h' => h'.trans h) hf l u
  unfold State.noteCritical
  refine hfold _ (fun u i => hfold _ (fun v c => ?_) _ _) _ _
  split
  · exact State.asyncEvent_readOnly _ _ _
  · rfl

end Sys2Proof.Machine

namespace Sys2Proof.Proofs
-- One thread elaborates these proofs: in parallel they ask for more stacks than the check allows.
set_option Elab.async false
open Sys2Proof.Machine Sys2Proof.Claims

theorem patrolRead_holds : patrolRead := by
  intro die block page last cws s hlive hidle hret hblock hpage hlen hrec hok
  let r : NandReq := { pri := 4, kind := .read, block := block, page := page, items := [], since := s.time.now, uid := none, lba := none }
  let s1 := s.modBlock die block (fun b => { b with reads := satAdd 32 b.reads 1 })
  obtain ⟨hdie, hreads, hframe⟩ := State.readPage_patrol (s := s1) (die := die) (r := r) rfl hok
  let s2 := s1.readPage die r cws
  let s3 := if last then s2.modDie die (fun d => { d with patrolled := s.power.onTime }) else s2
  have hexec : exec (.patrolRead die block page cws last) s = .next s3 :=
    if_pos ⟨hlive, hidle, hret, hblock, hpage, hlen, hrec⟩
  have h2 : Frame [.nand] s s2 := (State.modBlock_frame _ _ _ _).after hframe (by decide)
  have hreads2 : (s2.block die block).reads = satAdd 32 (s.block die block).reads 1 :=
    hreads.trans (congrArg BlockSt.reads (State.block_modBlock s die block (fun b => { b with reads := satAdd 32 b.reads 1 })))
  refine ⟨s3, hexec, ?_⟩
  have hdie2 : s2.die die = { s.die die with busy := none, ladder := [] } := hdie
  cases last with
  | true =>
    have hdie3 : s3.die die = { s2.die die with patrolled := s.power.onTime } := State.die_modDie s2 die (fun d => { d with patrolled := s.power.onTime })
    refine ⟨h2.after (State.modDie_frame s2 die (fun d => { d with patrolled := s.power.onTime })) (by decide), ?_, ?_, ?_, hreads2⟩
    · exact (congrArg DieSt.busy hdie3).trans (congrArg DieSt.busy hdie2)
    · exact (congrArg DieSt.ladder hdie3).trans (congrArg DieSt.ladder hdie2)
    · exact congrArg DieSt.patrolled hdie3
  | false => exact ⟨h2, congrArg DieSt.busy hdie2, congrArg DieSt.ladder hdie2, (congrArg DieSt.patrolled hdie2 : (s2.die die).patrolled = _), hreads2⟩

theorem blockRefresh_holds : blockRefresh := by
  intro die block s hlive hstate hblock b due
  obtain ⟨hfreed, hb, hdue⟩ := s.release_spec die block
  exact ⟨fun h => ⟨_, congrArg Host.Outcome.next (if_pos ⟨hlive, hstate, hblock, h⟩), hfreed.frame, hb, hdue⟩,
    fun h => congrArg Host.Outcome.next (if_neg (fun hc => h hc.2.2.2))⟩

theorem readOffsetCalibration_holds : readOffsetCalibration := fun _ _ _ _ hlive hblock =>
  ⟨_, congrArg Host.Outcome.next (if_pos ⟨hlive, hblock⟩), State.modBlock_frame _ _ _ _, State.block_modBlock _ _ _ _, fun _ => rfl,
    fun _ _ h => State.block_modBlock_other _ _ h⟩

theorem wearLeveling_holds : wearLeveling := by
  intro g b s hlive hg hb hstate
  obtain ⟨hfreed, hall⟩ := s.releaseStripe_spec g b
  exact ⟨_, congrArg Host.Outcome.next (if_pos ⟨hlive, hg, hb, hstate⟩), hfreed.frame, hall⟩

theorem garbageCollection_holds : garbageCollection := by
  intro g free s hlive hg hfree hstate gc
  let s1 := s.modGroup g (fun x => { x with free := free, gc := gc })
  have hexec (rec' : Bool) (v : Option Nat) : exec (.garbageCollection g free rec' v) s =
      let s2 := match v with
        | some b => if gc ≠ 0 ∧ b < 2048 then s1.releaseStripe g b else s1
        | none => s1
      let s3 := if free < 8 ∧ rec' = false then s2.modNvme (fun n => { n with readOnly := true }) else s2
      .next (State.noteCritical s s3) := by
    show execGarbageCollection g free rec' v s = _
    unfold execGarbageCollection
    exact if_pos ⟨hlive, hg, hfree, hstate⟩
  have hnote (u : State) : Frame [.nvme, .mgmt] u (State.noteCritical s u) := State.noteCritical_frame _ _
  have hgroup1 : s1.group g = { s.group g with free := free, gc := gc } := State.group_modGroup _ _ _
  refine ⟨⟨State.noteCritical s s1, ?_, ?_, fun h hh => ?_, State.noteCritical_readOnly s s1⟩, fun b hgc hb => ?_, fun hfew => ?_⟩
  · rw [hexec]
    dsimp only
    rw [if_neg (by simp)]
  · exact (State.group_of_nand (hnote s1).nand_eq g).trans hgroup1
  · exact (State.group_of_nand (hnote s1).nand_eq h).trans (State.group_modGroup_other _ _ hh)
  · obtain ⟨-, hall⟩ := s1.releaseStripe_spec g b
    have hnand := (hnote (s1.releaseStripe g b)).nand_eq
    refine ⟨State.noteCritical s (s1.releaseStripe g b), ?_, fun i hi hret => ?_⟩
    · rw [hexec]
      dsimp only
      rw [if_neg (by simp), if_pos ⟨hgc, hb⟩]
    · rw [State.block_of_nand hnand, State.die_of_nand hnand]
      exact hall i hi hret
  · refine ⟨State.noteCritical s (s1.modNvme (fun n => { n with readOnly := true })), ?_, State.noteCritical_readOnly _ _⟩
    rw [hexec]
    dsimp only
    rw [if_pos ⟨hfew, rfl⟩]

/-! ### The way of the write cache to NAND (R318, R322) -/

theorem cacheCommitStart_holds : cacheCommitStart := by
  intro die block wl id e s hlive hlo hhi hret he hid hfree hblock hwl hok hdata hbytes hdies hrows
  let r : NandReq := { pri := 2, kind := .program, block := block, page := wl * 16, items := [id], since := s.time.now, uid := none, lba := none }
  let s1 := s.modNand (fun n => { n with items := tset n.items id (.extent id) })
  have hitem : tfind s1.nand.items id = some (.extent id) := tfind_tset_same _ _ _
  have hfresh : [id].filter (fun i => s.nvme.cache.any (fun e => e.id == i) && (tfind s.nand.items i).isNone) = [id] := by
    refine List.filter_cons_of_pos ?_
    rw [hfree, Option.isNone_none, Bool.and_true]
    exact List.any_eq_true.mpr ⟨e, he, beq_iff_eq.mpr hid⟩
  have hcarried : s1.carried id (die / 16 % 4) = false := by
    unfold State.carried
    rw [Bool.or_eq_false_iff]
    constructor
    · refine List.any_eq_false.mpr (fun d hd => ?_)
      have hd' : (d.2.busy.toList ++ d.2.waiting).any (fun r => r.items.contains id) = false :=
        List.any_eq_false.mpr (fun r hr => by simpa using hdies d hd r hr)
      rw [hd', Bool.and_false]
      exact Bool.false_ne_true
    · refine List.any_eq_false.mpr (fun x hx => ?_)
      refine Bool.not_eq_true _ ▸ List.any_eq_false.mpr (fun p hp => ?_)
      have hne : (p.2 == id) = false := beq_eq_false_iff_ne.mpr (hrows x hx p hp)
      rw [hne, Bool.false_and]
      exact Bool.false_ne_true
  have hitemBytes : s1.itemBytes id ≤ 262144 := by
    unfold State.itemBytes
    rw [hitem]
    dsimp only
    revert hbytes
    show _ → (match s.nvme.cache.find? (fun x => x.id == id) with | some x => x.bytes | none => 0) ≤ 262144
    cases s.nvme.cache.find? (fun x => x.id == id) with
    | none => exact fun _ => Nat.zero_le _
    | some x => exact fun h => h
  have hitemOk : s1.itemOk die id = true := by
    unfold State.itemOk
    rw [hitem]
    dsimp only
    rw [hcarried]
    rfl
  have hpage : r.page / 16 = wl ∧ r.page % 16 = 0 ∧ r.page < 4096 := by
    show wl * 16 / 16 = wl ∧ wl * 16 % 16 = 0 ∧ wl * 16 < 4096
    omega
  have hreq : s1.reqOk die r = true := by
    have hsum : (r.items.map s1.itemBytes).sum ≤ 262144 := by
      show s1.itemBytes id + 0 ≤ 262144
      exact hitemBytes
    have hall : r.items.all (fun i => s1.itemOk die i) = true := by
      show (s1.itemOk die id && true) = true
      rw [hitemOk]
      rfl
    have hwlok : s1.wlOk die r.block (r.page / 16) = true := by
      rw [hpage.1]
      exact hok
    have hdups : r.items.eraseDups = r.items := by
      show [id].eraseDups = [id]
      rfl
    have hplace : (r.items.isEmpty || decide (idxOf die ≠ r.block % 16)) = true := decide_eq_true hdata
    have hprog : (decide ((r.pri = 2 ∨ r.pri = 4) ∧ r.page % 16 = 0 ∧ (r.items.map s1.itemBytes).sum ≤ 262144) && r.items.all (fun i => s1.itemOk die i)
        && decide (r.items.eraseDups = r.items) && s1.wlOk die r.block (r.page / 16) && (r.items.isEmpty || decide (idxOf die ≠ r.block % 16))) = true := by
      rw [hall, hwlok, hplace, decide_eq_true hdups, decide_eq_true ⟨.inl rfl, hpage.2.1, hsum⟩]
      rfl
    have hrange : decide (r.block < 2048 ∧ r.page < 4096) = true := decide_eq_true ⟨hblock, hpage.2.2⟩
    exact (Bool.and_eq_true _ _).mpr ⟨hrange, hprog⟩
  have hexec : exec (.cacheCommitStart die block wl [id]) s = .next (s1.modDie die (fun d => { d with waiting := d.waiting ++ [r] })) := by
    show execCacheCommitStart die block wl [id] s = _
    unfold execCacheCommitStart
    rw [hfresh]
    exact congrArg Host.Outcome.next (if_pos ⟨hlive, hlo, hhi, hret, List.cons_ne_nil _ _, hreq⟩)
  have hdie := State.die_modDie s1 die (fun d => { d with waiting := d.waiting ++ [r] })
  exact ⟨_, hexec, (State.modNand_frame _ _).after (State.modDie_frame _ _ _) (by decide), hitem, by rw [hdie]; rfl, by rw [hdie]; rfl⟩

theorem writeAdmit_holds : writeAdmit := by
  intro e s hwait
  let thru := !s.nvme.wce || s.writeThrough
  let s1 : State := { s with nvme := { s.nvme with waiting := [], cache := s.nvme.cache ++ [{ e with fua := e.fua || thru, since := s.time.now }] } }
  have hes : [e].takeWhile (fun x => x.h.same e.h) = [e] := List.takeWhile_cons_of_pos (by simp [NvmeHdr.same])
  have hpieces : (s.modNvme (fun n => { n with waiting := n.waiting.drop 1 })).admitPieces [e] = s1.admitted e.h := by
    have hw : s.nvme.waiting.drop 1 = [] := by
      rw [hwait]
      rfl
    exact congrArg (fun w => State.admitted { s with nvme := { s.nvme with
      waiting := w, cache := s.nvme.cache ++ [{ e with fua := e.fua || thru, since := s.time.now }] } } e.h) hw
  have hexec : exec .writeAdmit s = if s.live = true ∧ s.cacheRoom [e] = true then .next (s1.admitted e.h) else .next s := by
    show execWriteAdmit s = _
    unfold execWriteAdmit
    rw [hwait]
    dsimp only
    rw [hes, if_neg (show ¬ 2048 < [e].length by simp)]
    exact if_congr Iff.rfl (congrArg Host.Outcome.next hpieces) rfl
  refine ⟨fun hlive hroom hempty => ⟨fun hnow hnot => ?_, fun hfua hwce hwt => ?_⟩, fun hroom => ?_⟩
  · have hfua : (e.fua || thru) = true := by
      rcases hnow with h | h | h
      · rw [h, Bool.true_or]
      · simp [thru, h]
      · simp [thru, h]
    have hs1 : s1 = { s with nvme := { s.nvme with waiting := [], cache := [{ e with fua := true, since := s.time.now }] } } := by
      unfold s1
      rw [hempty, hfua]
      rfl
    have hadm : s1.admitted e.h = s1 := by
      refine if_pos (.inr ?_)
      rw [hs1]
      simp [NvmeHdr.same, hnot]
    rw [hexec, if_pos ⟨hlive, hroom⟩, hadm, hs1]
  · have hfua' : (e.fua || thru) = false := by simp [thru, hfua, hwce, hwt]
    have hs1 : s1 = { s with nvme := { s.nvme with waiting := [], cache := [{ e with since := s.time.now }] } } := by
      unfold s1
      rw [hempty, hfua', ← hfua]
      rfl
    have hadm : s1.admitted e.h = (s1.modNvme (fun n => { n with cache := n.cache.map (fun x => if x.h.same e.h then { x with completed := true } else x) })).nvDone e.h nvOk 0 0 := by
      refine if_neg ?_
      rw [hs1]
      simp [hfua]
    refine ⟨_, hexec.trans (if_pos ⟨hlive, hroom⟩), ?_, ?_, ?_⟩
    · rw [hadm, State.nvDone_ok, hs1]
      rfl
    · rw [hadm, State.nvDone_ok, hs1]
      simp [NvmeHdr.same, State.modNvme]
    · rw [hadm, State.nvDone_ok]
      exact ⟨_, List.mem_append_right _ (List.mem_singleton_self _), rfl, rfl, rfl, rfl, rfl⟩
  · rw [hexec, if_neg (fun h => by rw [hroom] at h; exact absurd h.2 Bool.false_ne_true)]

/-- Settles O44. -/
theorem nandUpkeep : Obligations.NandUpkeep := ⟨patrolRead_holds, blockRefresh_holds, readOffsetCalibration_holds, garbageCollection_holds, wearLeveling_holds,
  cacheCommitStart_holds, writeAdmit_holds⟩

end Sys2Proof.Proofs


/-! The program store: O45. -/

namespace Sys2Proof.Machine
-- One thread elaborates these proofs: in parallel they ask for more stacks than the check allows.
set_option Elab.async false
open Sys2Proof.Claims

/-- An entry appended to the journal is the next one (R263). -/
theorem State.journal_journals (s : State) (kind slotBits x : Nat) : journals s (s.journal kind slotBits x) kind slotBits x :=
  ⟨_, rfl, rfl, rfl, rfl, rfl, rfl, rfl, rfl⟩

/-! ### The next operation of the store (R262) -/

theorem State.nextStore_eq (s : State) : s.nextStore = (((List.range s.store.queue.length).zip s.store.queue).filter (fun p => s.storeReady p.2)).foldl
    (keepFirst (fun p x : Nat × StoreOp => StoreSt.rank p.2 < StoreSt.rank x.2)) none := by
  refine congrArg (fun f => List.foldl f none _) (funext fun b => funext fun m => ?_)
  cases b <;> rfl

theorem State.nextStore_none {s : State} (h : ∀ o ∈ s.store.queue, s.storeReady o = false) : s.nextStore = none := by
  rw [State.nextStore_eq, List.filter_eq_nil_iff.mpr (fun p hp => ?_)]
  · rfl
  · rw [h p.2 (List.mem_of_getElem? (mem_range_zip.mp hp))]
    exact Bool.false_ne_true

/-- The next operation may start, and no other that may start comes before it in the order of R262. -/
theorem State.nextStore_some {s : State} (h : ∃ o ∈ s.store.queue, s.storeReady o = true) : ∃ (i : Nat) (o : StoreOp), s.nextStore = some (i, o) ∧
    s.store.queue[i]? = some o ∧ s.storeReady o = true ∧ ∀ p ∈ s.store.queue, s.storeReady p = true → StoreSt.rank o ≤ StoreSt.rank p := by
  have hmem {p : StoreOp} (hp : p ∈ s.store.queue) (hok : s.storeReady p = true) :
      ∃ i : Nat, (i, p) ∈ ((List.range s.store.queue.length).zip s.store.queue).filter (fun p => s.storeReady p.2) := by
    obtain ⟨i, hi⟩ := List.mem_iff_getElem?.mp hp
    exact ⟨i, List.mem_filter.mpr ⟨mem_range_zip.mpr hi, hok⟩⟩
  rw [State.nextStore_eq]
  cases hl : ((List.range s.store.queue.length).zip s.store.queue).filter (fun p => s.storeReady p.2) with
  | nil =>
    obtain ⟨p, hp, hok⟩ := h
    obtain ⟨i, hi⟩ := hmem hp hok
    rw [hl] at hi
    cases hi
  | cons p l =>
    obtain ⟨⟨i, o⟩, hpick, hin, hle, hall⟩ := foldl_keepFirst (before := fun p x : Nat × StoreOp => StoreSt.rank p.2 < StoreSt.rank x.2)
      (le := fun p x => StoreSt.rank p.2 ≤ StoreSt.rank x.2) (fun _ => le_rfl) (fun _ _ _ => le_trans) (fun _ _ => le_of_lt) (fun _ _ => le_of_not_gt) l p
    have hin' : (i, o) ∈ ((List.range s.store.queue.length).zip s.store.queue).filter (fun p => s.storeReady p.2) := by
      rw [hl]
      exact List.mem_cons.mpr hin
    obtain ⟨hzip, hok⟩ := List.mem_filter.mp hin'
    refine ⟨i, o, hpick, mem_range_zip.mp hzip, hok, fun q hq hqok => ?_⟩
    obtain ⟨j, hj⟩ := hmem hq hqok
    rw [hl] at hj
    exact (List.mem_cons.mp hj).elim (fun h => by subst h; exact hle) (fun h => hall (j, q) h)

/-! ### The rotating window (R267) -/

/-- R268: when the hole moves on, the sector that was copied stands where the hole began, and every other one where it stood. -/
theorem slotOf_advance {h k l : Nat} (hh : h < 4064) (hk : k < 3968) (hl : l < 3968) :
    slotOf ((h + 1) % 4064) ((k + 1) % 3968) l = if slotOf h k l = (h + 96) % 4064 then h else slotOf h k l := by
  obtain ⟨m, hm⟩ : ∃ m : Nat, m = (l + 3968 - k) % 3968 := ⟨_, rfl⟩
  have hlt : m < 3968 := hm ▸ Nat.mod_lt _ (by decide)
  have hm1 : (l + 3968 - (k + 1) % 3968) % 3968 = if m = 0 then 3967 else m - 1 := by
    by_cases hlast : k = 3967
    · subst hlast
      split <;> omega
    · rw [Nat.mod_eq_of_lt (show k + 1 < 3968 by omega)]
      split <;> omega
  unfold slotOf
  rw [hm1, ← hm]
  clear hm hm1
  by_cases hzero : m = 0
  · subst hzero
    rw [if_pos rfl, if_pos rfl]
    omega
  · rw [if_neg hzero, if_neg (by omega)]
    omega

/-- What changes only the store. -/
theorem storeOnly_of {s t : State} (h : t = { s with store := t.store }) : storeOnly s t := h ▸ State.modStore_frame s (fun _ => t.store)

/-! ### Objects whose programs stay -/

/-- Every object stands for one that had the same program. -/
def progsKept (s t : State) : Prop := ∀ (o : Nat) (y : ObjectSt), t.obj? o = some y → ∃ x : ObjectSt, s.obj? o = some x ∧ y.prog = x.prog

theorem progsKept.refl (s : State) : progsKept s s := fun _ y h => ⟨y, h, rfl⟩

theorem progsKept.trans {s t u : State} (h : progsKept s t) (h' : progsKept t u) : progsKept s u := fun o y hy => by
  obtain ⟨x, hx, hxy⟩ := h' o y hy
  obtain ⟨w, hw, hwx⟩ := h o x hx
  exact ⟨w, hw, hxy.trans hwx⟩

theorem progsKept.of_objs {s t : State} (h : t.objs = s.objs) : progsKept s t := fun o y hy => ⟨y, (congrArg (fun l => tfind l o) h).symm.trans hy, rfl⟩

theorem progsKept.modObj (s : State) (o : Nat) (f : ObjectSt → ObjectSt) (hf : ∀ x, (f x).prog = x.prog) : progsKept s (s.modObj o f) := by
  intro p y hy
  by_cases hp : p = o
  · subst hp
    cases hx : s.obj? p with
    | none =>
      unfold State.modObj at hy
      rw [hx] at hy
      rw [hx] at hy
      cases hy
    | some x =>
      rw [State.obj_modObj _ _ hx] at hy
      obtain rfl := Option.some.inj hy
      exact ⟨x, rfl, hf x⟩
  · exact ⟨y, (s.obj_modObj_other f hp).symm.trans hy, rfl⟩

theorem State.markAll_progs (s : State) (rs : List (Nat × Nat × Nat)) : progsKept s (s.markAll rs) :=
  foldl_way progsKept.refl (fun _ _ _ h h' => h.trans h') (fun u r => by
    unfold State.markUndef
    split
    · exact progsKept.refl u
    · exact progsKept.modObj u _ _ (fun _ => rfl)) _ _

theorem State.conclude_progs (s : State) {st : Nat} (uid d0 d1 : Nat) (hl : st ≠ stLinkLost) : progsKept s (s.conclude uid st d0 d1) := by
  cases hc : s.cmd? uid with
  | none =>
    rw [State.conclude_ended _ _ _ (by rw [hc]; rintro _ ⟨⟩)]
    exact progsKept.refl s
  | some c =>
    cases hs : c.status with
    | some z =>
      rw [State.conclude_ended _ _ _ (by rw [hc]; rintro _ ⟨⟩; rw [hs]; rfl)]
      exact progsKept.refl s
    | none =>
      have hend (b : Prop) [Decidable b] (st : Nat) : progsKept s (if b then s.endOps [uid] st else s) := by
        split
        · exact progsKept.of_objs (State.endOps_frame _ _ _).objs_eq
        · exact progsKept.refl s
      rw [State.conclude_eq d0 d1 hc hs hl]
      refine progsKept.trans ?_ (progsKept.of_objs ((State.dropWork_frame _ [uid]).objs_eq.trans (State.signalEvent_frame _ _ _).objs_eq))
      split
      · exact (hend _ _).trans (State.markAll_progs _ _)
      · exact hend _ _

theorem State.concludeAll_progs (s : State) (f : Cmd → Bool) {st : Nat} (hl : st ≠ stLinkLost) : progsKept s (s.concludeAll f st) :=
  foldl_way progsKept.refl (fun _ _ _ h h' => h.trans h') (fun u c => u.conclude_progs _ _ _ hl) _ _

end Sys2Proof.Machine

namespace Sys2Proof.Proofs
-- One thread elaborates these proofs: in parallel they ask for more stacks than the check allows.
set_option Elab.async false
open Sys2Proof.Machine Sys2Proof.Claims

theorem storeOpStart_holds : storeOpStart := by
  intro s hlive
  have hexec : exec (.storeOpStart []) s = if s.store.cur.isSome then .next s
      else match s.nextStore with
        | none => .next s
        | some (pos, o) =>
          let s2 := s.modStore (fun t => { t with cur := some o, queue := t.queue.eraseIdx pos })
          .next (match o.kind with
            | .erase x => s2.journal jIntent 0 x
            | _ => s2) := by
    have hs : s.modStore (fun t => { t with queue := t.queue ++ [].filter (fun o => s.storeDue o && !t.queue.contains o) }) = s := by
      show { s with store := { s.store with queue := s.store.queue ++ [] } } = s
      rw [List.append_nil]
    show execStoreOpStart [] s = _
    unfold execStoreOpStart
    rw [if_neg (by rw [hlive]; decide), hs] <;> rfl
  refine ⟨fun hcur => ?_, fun hcur hnone => ?_, fun hcur hsome => ?_⟩
  · exact hexec.trans (if_pos (Option.isSome_iff_ne_none.mpr hcur))
  · rw [hexec, if_neg (by rw [hcur]; decide), State.nextStore_none hnone]
  · obtain ⟨i, o, hnext, hi, hok, hfirst⟩ := State.nextStore_some hsome
    let s2 := s.modStore (fun t => { t with cur := some o, queue := t.queue.eraseIdx i })
    rw [if_neg (by rw [hcur]; decide), hnext] at hexec
    have h2 : storeOnly s s2 := State.modStore_frame _ _
    by_cases he : ∃ x : Nat, o.kind = .erase x
    · obtain ⟨x, hx⟩ := he
      dsimp only at hexec
      rw [hx] at hexec
      refine ⟨s2.journal jIntent 0 x, i, o, hexec, storeOnly_of rfl, hi, hok, rfl, rfl, hfirst, fun x' hx' => ?_, fun hno => absurd hx (hno x)⟩
      obtain rfl : x = x' := by
        rw [hx] at hx'
        exact StoreKind.erase.inj hx'
      exact s2.journal_journals jIntent 0 x
    · have hs2 : exec (.storeOpStart []) s = .next s2 := by
        rw [hexec]
        dsimp only
        cases hk : o.kind with
        | erase x => exact absurd ⟨x, hk⟩ he
        | _ => rfl
      exact ⟨s2, i, o, hs2, h2, hi, hok, rfl, rfl, hfirst, fun x hx => absurd ⟨x, hx⟩ he, fun _ => rfl⟩

theorem storeEraseDone_holds : storeEraseDone := by
  intro x o s hcur hk n
  let s1 := if 32 ≤ x then s.modStore (fun t => { t with erases := t.erases + 1 }) else s
  have hexec (blank : Bool) : exec (.storeEraseDone blank) s = if blank then
        .next ((s1.modStore (fun t => { t with
          cur := none, dirty := t.dirty.filter (fun d => 32 + d != x), freed := t.freed.filter (fun l => t.sector l != x) })).journal jDone 0 x)
      else .next (s1.journal jIntent 0 x) := by
    show execStoreEraseDone blank s = _
    unfold execStoreEraseDone
    rw [hcur]
    dsimp only
    rw [hk]
  have h1 : s1 = { s with store := { s.store with erases := n } } := by
    unfold s1 n
    split <;> rfl
  clear_value s1
  subst h1
  refine ⟨⟨_, (hexec true).trans (if_pos rfl), ?_, rfl, ⟨_, rfl, rfl, rfl, rfl, rfl, rfl, rfl, rfl⟩, rfl, fun d => ?_, fun l => ?_⟩,
    ⟨_, (hexec false).trans (if_neg (by decide)), ?_, hcur, ⟨_, rfl, rfl, rfl, rfl, rfl, rfl, rfl, rfl⟩, rfl, rfl, rfl⟩⟩
  · exact storeOnly_of rfl
  · exact List.mem_filter.trans (and_congr_right (fun _ => bne_iff_ne))
  · exact List.mem_filter.trans (and_congr_right (fun _ => bne_iff_ne))
  · exact storeOnly_of rfl

theorem controlSectorSwitch_holds : controlSectorSwitch := by
  intro s hlive
  refine ⟨fun hfull hcur => ⟨_, _, if_pos ⟨hlive, hfull, hcur⟩, ?_, rfl, rfl, rfl, rfl, rfl, rfl, rfl, rfl, rfl⟩, fun h => if_neg (fun hc => ?_)⟩
  · exact storeOnly_of rfl
  · rcases h with h | h
    · exact absurd hc.2.1 (by omega)
    · exact h hc.2.2

theorem gapAdvance_holds : gapAdvance := by
  intro s hlive src ok
  have hok : (s.live = true ∧ s.store.cur = none ∧ 64 * (s.store.gaps + 1) ≤ s.store.erases ∧ s.store.hole = [] ∧ s.store.dirty.contains s.store.h = false ∧
      s.store.used < 2040 ∧ s.store.queue.contains { kind := .erase (32 + src) } = false) ↔ ok := by
    simp only [hlive, true_and, List.contains_eq_mem, decide_eq_false_iff_not]
    rfl
  have hexec : exec .gapAdvance s = if ok then .next (((s.modStore (fun t => { t with
      h := (t.h + 1) % 4064, k := (t.k + 1) % 3968, gaps := t.gaps + 1, dirty := t.dirty ++ [src] })).journal jGap 0 0).queueErase (32 + src)) else .next s :=
    if_congr hok rfl rfl
  refine ⟨fun h => ⟨_, hexec.trans (if_pos h), ?_, rfl, rfl, rfl, ⟨_, rfl, rfl, rfl, rfl, rfl, rfl, rfl, rfl⟩, List.mem_append_right _ (List.mem_singleton_self _),
    List.mem_append_right _ (List.mem_singleton_self _), fun hh hk l hl => ?_⟩, fun h => hexec.trans (if_neg h)⟩
  · exact storeOnly_of rfl
  · have hadv := slotOf_advance hh hk hl
    show 32 + slotOf ((s.store.h + 1) % 4064) ((s.store.k + 1) % 3968) l = if 32 + slotOf s.store.h s.store.k l = 32 + src then 32 + s.store.h else 32 + slotOf s.store.h s.store.k l
    rw [hadv]
    by_cases hc : slotOf s.store.h s.store.k l = (s.store.h + 96) % 4064
    · rw [if_pos hc, if_pos (congrArg (32 + ·) hc)]
    · rw [if_neg hc, if_neg (fun h => hc (Nat.add_left_cancel h))]

end Sys2Proof.Proofs

namespace Sys2Proof.Machine
-- One thread elaborates these proofs: in parallel they ask for more stacks than the check allows.
set_option Elab.async false
open Sys2Proof.Claims

/-! ### Lacuna records that are copied (R273) -/

theorem State.queueErases_spec (l : List Nat) (s : State) : (l.foldl (fun s p => s.queueErase (32 + p)) s).store =
    { s.store with queue := s.store.queue ++ l.map (fun p => { kind := .erase (32 + p) }) } := by
  induction l generalizing s with
  | nil =>
    show s.store = { s.store with queue := s.store.queue ++ [] }
    rw [List.append_nil]
  | cons p l ih =>
    have hq : (s.queueErase (32 + p)).store = { s.store with queue := s.store.queue ++ [{ kind := .erase (32 + p) }] } := rfl
    rw [List.foldl_cons, ih, hq, List.map_cons]
    dsimp only
    rw [List.append_assoc, List.singleton_append]

end Sys2Proof.Machine

namespace Sys2Proof.Proofs
-- One thread elaborates these proofs: in parallel they ask for more stacks than the check allows.
set_option Elab.async false
open Sys2Proof.Machine Sys2Proof.Claims

theorem programLoad_holds : programLoad := by
  intro o x p s hlive hx hp hsound hcur
  have hidle : s.modStore (fun t => { t with cur := none }) = s := by
    show { s with store := { s.store with cur := none } } = s
    rw [← hcur]
  let broken : ObjectSt := { x with prog := some { p with damaged := true, loaded := false } }
  let err : ErrArg := { cls := 0x23, kind := 2, unit := unitOf 0xB 0, addr := s.store.sector (p.sectors.headD 364) }
  let s2 := (s.setObj o broken).logErr err
  let needs (c : Cmd) : Bool := match c.body with
    | .run q .. => (match s.handleObj c.e.ctx q with | some (m, _) => m.obj == o | none => false)
    | _ => false
  let uids := (s2.cmds.filter needs).map (·.uid)
  have hexec (reads : List Bool) (hne : reads ≠ []) : exec (.programLoad o reads) s =
      if reads.take 2 ≠ [false, false] ∧ reads ≠ [false] then .next (s.setObj o { x with prog := some { p with loaded := true } })
      else if reads.length < 2 then .next s
      else .next (((s2.endOps uids stStorageMedia).concludeAll needs stStorageMedia).settle.recheck) := by
    show execProgramLoad o reads s = _
    unfold execProgramLoad
    rw [hx]
    dsimp only
    rw [hp]
    dsimp only
    rw [hcur, if_neg (by rw [hlive, hsound]; simp [hne]), hidle] <;> rfl
  refine ⟨fun l hl => ?_, ?_, fun hcalm hnw hdist => ?_⟩
  · rcases hl with rfl | rfl
    · rw [hexec _ (List.cons_ne_nil _ _)]
      rfl
    · rw [hexec _ (List.cons_ne_nil _ _)]
      rfl
  · rw [hexec _ (List.cons_ne_nil _ _)]
    rfl
  · have h2 : Frame [.objs, .errs, .mgmt] s s2 := ((State.setObj_frame s o broken).mono (by decide)).after (State.logErr_frame _ _) (by decide)
    have hend := State.endOps_frame s2 uids stStorageMedia
    let u := s2.endOps uids stStorageMedia
    have hucmds : u.cmds = s.cmds := hend.cmds_eq.trans h2.cmds_eq
    have hcalm1 : u.calm := State.calm_of hcalm hucmds (fun n => congrArg Context.queues (State.ctx_of_ctxs (hend.ctxs_eq.trans h2.ctxs_eq) n))
    have hdist1 : distinct u := by
      unfold distinct
      rw [hucmds]
      exact hdist
    have hcalm2 : (u.concludeAll needs stStorageMedia).calm := State.concludeAll_calm needs (by decide) hcalm1 hdist1
    have hrun : exec (.programLoad o [false, false]) s = .next (u.concludeAll needs stStorageMedia) := by
      rw [hexec _ (List.cons_ne_nil _ _)]
      exact congrArg Host.Outcome.next (State.calm_rest hcalm2)
    obtain ⟨-, -, hall⟩ := allEnd_of (f := needs) hdist (by decide) (by decide) hucmds (fun _ _ => rfl) (rfl : (u.concludeAll needs stStorageMedia).cmds = _)
    refine ⟨_, hrun, fun y hy => ?_, fun c hc hn ⟨pr, n, m, q, b, as, pl, h, hbody, hh, hobj⟩ => hall c hc ?_ hn⟩
    · obtain ⟨z, hz, hzy⟩ := u.concludeAll_progs needs (st := stStorageMedia) (by decide) o y hy
      have hbroken : u.obj? o = some broken := by
        refine (congrArg (fun l => tfind l o) (hend.objs_eq.trans (State.logErr_frame _ _).objs_eq)).trans ?_
        exact s.obj_setObj o broken
      rw [hbroken] at hz
      obtain rfl := Option.some.inj hz
      exact ⟨_, hzy, rfl⟩
    · have hhandle : s.handleObj c.e.ctx pr = some (h, x) := by
        unfold State.handleObj
        rw [hh]
        dsimp only
        rw [hobj, hx]
        rfl
      show (match c.body with
        | .run q .. => (match s.handleObj c.e.ctx q with | some (m, _) => m.obj == o | none => false)
        | _ => false) = true
      rw [hbody]
      dsimp only
      rw [hhandle]
      exact beq_iff_eq.mpr hobj

/-- R279: a firmware commit ends with the image in its slot, the state of the slot and a completion of its command. -/
theorem finishCommit_spec (s : State) (h : NvmeHdr) (b : Bool) (i : FwImage) :
    (s.finishCommit h b i).store.cur = s.store.cur ∧ (s.finishCommit h b i).store.commit = none ∧ (s.finishCommit h b i).store.image b = some i ∧
    (s.finishCommit h b i).store.image (!b) = s.store.image (!b) ∧
    (if b then (s.finishCommit h b i).store.slotB else (s.finishCommit h b i).store.slotA) = (if i.sigOk = true ∧ s.store.minSvn ≤ i.svn then 2 else 5) ∧
    ∃ c ∈ (s.finishCommit h b i).nvme.out, c.fn = h.fn ∧ c.sqid = h.sqid ∧ c.cid = h.cid ∧ (⟨c.sct, c.sc, c.dnr⟩ : NvmeSts) =
      (if i.sigOk = false then nvFwImage else if i.svn < s.store.minSvn then nvFwProhibited else nvFwReset) := by
  let s1 := s.modStore (fun t => if b then { t with imgB := some i, commit := none } else { t with imgA := some i, commit := none })
  have hslot (st : Nat) (v : NvmeSts) (hv : v.logged = false) :
      ((s1.setSlot b st).nvDone h v 0 0).store.cur = s.store.cur ∧ ((s1.setSlot b st).nvDone h v 0 0).store.commit = none ∧
      ((s1.setSlot b st).nvDone h v 0 0).store.image b = some i ∧ ((s1.setSlot b st).nvDone h v 0 0).store.image (!b) = s.store.image (!b) ∧
      (if b then ((s1.setSlot b st).nvDone h v 0 0).store.slotB else ((s1.setSlot b st).nvDone h v 0 0).store.slotA) = st ∧
      ∃ c ∈ ((s1.setSlot b st).nvDone h v 0 0).nvme.out, c.fn = h.fn ∧ c.sqid = h.sqid ∧ c.cid = h.cid ∧ (⟨c.sct, c.sc, c.dnr⟩ : NvmeSts) = v := by
    have hstore : ((s1.setSlot b st).nvDone h v 0 0).store = (s1.setSlot b st).store := (State.nvDone_frame _ _ _ _ _).store_eq
    have hout : ∃ c ∈ ((s1.setSlot b st).nvDone h v 0 0).nvme.out, c.fn = h.fn ∧ c.sqid = h.sqid ∧ c.cid = h.cid ∧ (⟨c.sct, c.sc, c.dnr⟩ : NvmeSts) = v := by
      have hdone : (s1.setSlot b st).nvDone h v 0 0 = (s1.setSlot b st).nvEnd h v 0 := by
        unfold State.nvDone State.nvDoneAt
        exact if_neg (by rw [hv]; exact Bool.false_ne_true)
      rw [hdone]
      unfold State.nvEnd State.cpl
      rw [State.nvmeIrq_nvme]
      exact ⟨_, List.mem_append_right _ (List.mem_singleton_self _), rfl, rfl, rfl, rfl⟩
    rw [hstore]
    cases b with
    | true => exact ⟨rfl, rfl, rfl, rfl, rfl, hout⟩
    | false => exact ⟨rfl, rfl, rfl, rfl, rfl, hout⟩
  have heq : s.finishCommit h b i = if i.sigOk = false then (s1.setSlot b 5).nvDone h nvFwImage 0 0
      else if i.svn < s.store.minSvn then (s1.setSlot b 5).nvDone h nvFwProhibited 0 0 else (s1.setSlot b 2).nvDone h nvFwReset 0 0 := rfl
  by_cases hsig : i.sigOk = false
  · rw [heq, if_pos hsig, if_pos hsig, if_neg (fun h : i.sigOk = true ∧ _ => by rw [hsig] at h; exact absurd h.1 Bool.false_ne_true)]
    exact hslot 5 nvFwImage (by decide)
  · rw [heq, if_neg hsig, if_neg hsig]
    rw [Bool.not_eq_false] at hsig
    by_cases hsvn : i.svn < s.store.minSvn
    · rw [if_pos hsvn, if_pos hsvn, if_neg (fun h : i.sigOk = true ∧ s.store.minSvn ≤ i.svn => absurd h.2 (Nat.not_le_of_lt hsvn))]
      exact hslot 5 nvFwProhibited (by decide)
    · rw [if_neg hsvn, if_neg hsvn, if_pos (show i.sigOk = true ∧ s.store.minSvn ≤ i.svn from ⟨hsig, Nat.le_of_not_lt hsvn⟩)]
      exact hslot 2 nvFwReset (by decide)

theorem storePageProgramDone_holds : storePageProgramDone := by
  intro o s hlive hcur idle
  have hlive' : ¬ s.live = false := by rw [hlive]; decide
  have hexec : exec .storePageProgramDone s = match o.kind with
    | .erase _ => .next s
    | .powerFail => .next s
    | .journal => .next idle
    | .loaderRead => .next idle
    | .ledgerRecord => .next idle
    | .errorRecords => .next idle
    | .timeRecord => .next (idle.modTime (fun t => { t with recorded := some (max (t.recorded.getD 0) t.now) }))
    | .lacunaCopy => .next (if idle.store.hole = [] then idle else idle.copyRecord.lacunaEvent)
    | .bootWrite => match idle.store.commit with
      | none => .next idle
      | some (h, b, i) => .next (idle.finishCommit h b i)
    | .install uid => match idle.cmd? uid with
      | none => .next idle
      | some c => .next ((if c.status.isSome then idle else State.finishBody c (finishInstall idle c)).settle.recheck) := by
    show execStorePageProgramDone s = _
    unfold execStorePageProgramDone
    rw [hcur]
    exact if_neg hlive'
  refine ⟨fun hk => ?_, fun hk => ?_, fun h b i hk hcommit => ?_, fun r k hk hhole hfree => ?_⟩
  · rcases hk with hk | hk | hk | hk <;> rw [hexec, hk]
  · rw [hexec, hk]
    rfl
  · obtain ⟨h1, h2, h3, h4, h5, c, hc, hfn, hsq, hcid, hst⟩ := finishCommit_spec idle h b i
    have hrun : exec .storePageProgramDone s = .next (idle.finishCommit h b i) := by
      rw [hexec, hk]
      dsimp only
      rw [show idle.store.commit = some (h, b, i) from hcommit]
    refine ⟨_, hrun, h1, h2, h3, h4, h5, c, hc, hfn, hsq, hcid, fun hgood => ?_, fun hsig => ?_, fun hsig hsvn => ?_⟩
    · rw [hst, if_neg (by rw [hgood.1]; decide)]
      exact if_neg (Nat.not_lt.mpr hgood.2)
    · rw [hst, if_pos hsig]
    · rw [hst, if_neg (by rw [hsig]; decide)]
      exact if_pos hsvn
  · let r' : LacunaRec := { r with copied := s.time.now, place := [k] }
    let s2 := idle.modStore (fun t => { t with hole := [], lacuna := t.lacuna ++ [r'], dirty := t.dirty ++ r.place })
    have hcopy : idle.copyRecord = r.place.foldl (fun s p => s.queueErase (32 + p)) s2 := by
      unfold State.copyRecord
      rw [show idle.store.hole = [r] from hhole, hfree]
    have hrun : exec .storePageProgramDone s = .next idle.copyRecord.lacunaEvent := by
      rw [hexec, hk]
      exact congrArg Host.Outcome.next (if_neg (by rw [show idle.store.hole = [r] from hhole]; exact List.cons_ne_nil _ _))
    have hstore : idle.copyRecord.lacunaEvent.store = { s2.store with queue := s2.store.queue ++ r.place.map (fun p => { kind := .erase (32 + p) }) } := by
      rw [(State.lacunaEvent_frame _).store_eq, hcopy, State.queueErases_spec]
    refine ⟨_, hrun, ?_, ?_, fun p hp => ⟨?_, ?_⟩⟩
    · exact congrArg StoreSt.hole hstore
    · exact congrArg StoreSt.lacuna hstore
    · rw [hstore]
      exact List.mem_append_right _ hp
    · rw [hstore]
      exact List.mem_append_right _ (List.mem_map.mpr ⟨p, hp, rfl⟩)

/-- Settles O45. -/
theorem programStore : Obligations.ProgramStore :=
  ⟨storeOpStart_holds, storeEraseDone_holds, controlSectorSwitch_holds, gapAdvance_holds, programLoad_holds, storePageProgramDone_holds⟩

end Sys2Proof.Proofs

/-! The ports of the peer links: O46. -/

namespace Sys2Proof.Claims
-- One thread elaborates these proofs: in parallel they ask for more stacks than the check allows.
set_option Elab.async false
open Sys2Proof.Machine

/-! ### One port changes -/

theorem onePort.same (s : State) (p : Nat) : onePort s s p (s.port p) := ⟨rfl, fun _ _ => rfl, rfl, Frame.refl _ _⟩

theorem onePort.modPort {s u : State} {p : Nat} {q : Port} (h : onePort s u p q) (f : Port → Port) : onePort s (u.modPort p f) p (f q) := by
  obtain ⟨hport, hother, hpeer, hframe⟩ := h
  refine ⟨by rw [State.port_modPort, hport], fun k hk => (State.port_modPort_other _ _ hk).trans (hother k hk), ?_, hframe.after (State.modPort_frame u p f) (by decide)⟩
  show ({ u.peer with ports := _ } : PeerSt) = _
  rw [hpeer]
  rfl

theorem onePort.cast {s t : State} {p : Nat} {q r : Port} (h : onePort s t p q) (e : q = r) : onePort s t p r := e ▸ h

/-- A port with nothing to send sends nothing (R295). -/
theorem onePort.flush {s u : State} {p : Nat} {q : Port} (h : onePort s u p q) (hq : q.queue = []) : onePort s (u.modPeer (fun x => x.flush p)) p q := by
  obtain ⟨hport, hother, hpeer, hframe⟩ := h
  have hdrain : Port.drain (tget Port.reset u.peer.ports p).queue.length (tget Port.reset u.peer.ports p) = ([], q) := by
    rw [show tget Port.reset u.peer.ports p = q from hport, hq]
    rfl
  have hflush : (u.modPeer (fun x => x.flush p)).peer = { u.peer with ports := tset u.peer.ports p q } := by
    show u.peer.flush p = _
    unfold PeerSt.flush
    dsimp only
    rw [hdrain]
    exact congrArg (fun w => ({ u.peer with ports := tset u.peer.ports p q, wire := w } : PeerSt)) (List.append_nil _)
  have hports : (u.modPeer (fun x => x.flush p)).peer.ports = tset u.peer.ports p q := congrArg PeerSt.ports hflush
  refine ⟨?_, fun k hk => ?_, ?_, hframe.after (State.modPeer_frame u _) (by decide)⟩
  · unfold State.port
    rw [hports, tget_tset_same]
  · unfold State.port
    rw [hports, tget_tset_other _ _ _ hk]
    exact hother k hk
  · rw [hflush, hpeer]

end Sys2Proof.Claims

namespace Sys2Proof.Machine
-- One thread elaborates these proofs: in parallel they ask for more stacks than the check allows.
set_option Elab.async false
open Sys2Proof.Claims

/-! ### What a port sends -/

/-- Sending flits changes the queue, the credits and the retransmission buffer of a port, and nothing else of it (R293, R295). -/
theorem Port.drain_rest (n : Nat) (p : Port) : (Port.drain n p).2 = { p with
    queue := (Port.drain n p).2.queue, credits := (Port.drain n p).2.credits, owed := (Port.drain n p).2.owed
    txSeq := (Port.drain n p).2.txSeq, txBuf := (Port.drain n p).2.txBuf } := by
  induction n generalizing p with
  | zero => rfl
  | succ n ih =>
    unfold Port.drain
    cases p.nextFlit with
    | none => rfl
    | some f =>
      refine (ih (p.sendOne f).2).trans ?_
      unfold Port.sendOne
      dsimp only
      split <;> rfl

/-- A lone flit of channel 0 leaves against a credit. -/
theorem Port.drain_control {p : Port} {b : List Byte} (hq : p.queue = [⟨0, 0, b, 0, 0⟩]) (hc : 0 < tget 0 p.credits 0) :
    Port.drain p.queue.length p = ([sealFlit p.txSeq ((p.rxNext + 65535) % 65536) p.returns.1 p.returns.2 b],
      { p with queue := [], credits := tmod 0 p.credits 0 (fun k => k - 1), owed := tmod 0 p.owed p.returns.1 (fun k => k - p.returns.2) }) := by
  have hnext : p.nextFlit = some ⟨0, 0, b, 0, 0⟩ := by
    unfold Port.nextFlit
    rw [hq, List.findSome?_cons, if_pos ⟨hc, .inl rfl⟩]
    rfl
  rw [hq]
  show Port.drain 1 p = _
  unfold Port.drain
  rw [hnext]
  unfold Port.sendOne
  rw [hq]
  rfl

/-- What the enqueueing of a control flit leaves of its port, however many flits wait. -/
theorem State.enqueue_rest (u : State) (p : Nat) (b : List Byte) :
    let q := (u.modPeer (fun x => x.enqueue p 0 [b])).port p
    q = { u.port p with queue := q.queue, credits := q.credits, owed := q.owed, txSeq := q.txSeq, txBuf := q.txBuf } := by
  intro q
  let r : Port := { u.port p with queue := (u.port p).queue ++ [⟨0, 0, b, 0, 0⟩] }
  have htget : tget Port.reset (tmod Port.reset u.peer.ports p (fun q => { q with queue := q.queue ++ [⟨0, 0, b, 0, 0⟩] })) p = r := by
    rw [tmod, tget_tset_same]
    rfl
  have hq : q = (Port.drain r.queue.length r).2 := by
    show tget Port.reset (u.peer.enqueue p 0 [b]).ports p = _
    unfold PeerSt.enqueue PeerSt.flush
    dsimp only [List.map]
    rw [htget]
    exact tget_tset_same _ _ _ _
  rw [hq]
  exact Port.drain_rest _ r

/-- A control flit leaves at once from a port with nothing else to send. -/
theorem State.enqueue_control {u : State} {p : Nat} (b : List Byte) (h : clearToSend u p) :
    let t := u.modPeer (fun x => x.enqueue p 0 [b])
    (∃ ch cr : Nat, t.peer.wire = u.peer.wire ++ [(p, sealFlit (u.port p).txSeq (((u.port p).rxNext + 65535) % 65536) ch cr b)]) ∧
      ∃ c o : Table Nat, t.port p = { u.port p with credits := c, owed := o } := by
  intro t
  let q : Port := { u.port p with queue := [⟨0, 0, b, 0, 0⟩] }
  have htget : tget Port.reset (tmod Port.reset u.peer.ports p (fun q => { q with queue := q.queue ++ [⟨0, 0, b, 0, 0⟩] })) p = q := by
    rw [tmod, tget_tset_same]
    show ({ u.port p with queue := (u.port p).queue ++ _ } : Port) = _
    rw [h.1]
    rfl
  have hdrain := Port.drain_control (p := q) rfl h.2
  have hflush : t.peer.wire = u.peer.wire ++ (Port.drain q.queue.length q).1.map (fun b => (p, b)) ∧ t.port p = (Port.drain q.queue.length q).2 := by
    show (u.peer.enqueue p 0 [b]).wire = _ ∧ tget Port.reset (u.peer.enqueue p 0 [b]).ports p = _
    unfold PeerSt.enqueue PeerSt.flush
    dsimp only [List.map]
    rw [htget]
    exact ⟨rfl, tget_tset_same _ _ _ _⟩
  rw [hdrain] at hflush
  refine ⟨⟨_, _, hflush.1⟩, tmod 0 q.credits 0 (fun k => k - 1), tmod 0 q.owed q.returns.1 (fun k => k - q.returns.2), hflush.2.trans ?_⟩
  dsimp only [q]
  rw [← h.1]

/-! ### The fields of a control flit (Table 12-2) -/

theorem flitBody_length (kind ch hop : Nat) (last : Bool) (gid src dst op off : Nat) {pl : List Byte} (h : pl.length ≤ 224) :
    (flitBody kind ch hop last gid src dst op off pl).length = 248 := by
  unfold flitBody
  simp only [List.length_append, length_le, zeros_length]
  omega

theorem sealFlit_head_length (seq ack ch cr : Nat) {b : List Byte} (h : b.length = 248) :
    (b.take 2 ++ le 2 seq ++ le 2 ack ++ le 1 ch ++ le 1 cr ++ b.drop 8).length = 248 := by
  simp only [List.length_append, length_le, List.length_take, List.length_drop]
  omega

/-- A sealed flit is 256 bytes with its CRC in the last eight (R291). -/
theorem sealFlit_crc (seq ack ch cr : Nat) {b : List Byte} (h : b.length = 248) :
    (sealFlit seq ack ch cr b).length = 256 ∧ slice (sealFlit seq ack ch cr b) 0xF8 8 = le 8 (crcFlit ((sealFlit seq ack ch cr b).take 0xF8)) := by
  have hx := sealFlit_head_length seq ack ch cr h
  unfold sealFlit
  extract_lets x
  have hx : x.length = 248 := hx
  constructor
  · rw [List.length_append, hx, length_le]
  · unfold slice
    rw [List.drop_left' hx, List.take_left' hx]
    exact List.take_of_length_le (by rw [length_le])

theorem sealFlit_payload (seq ack ch cr kind c hop : Nat) (last : Bool) (gid src dst op off : Nat) (pl : List Byte) :
    slice (sealFlit seq ack ch cr (flitBody kind c hop last gid src dst op off pl)) 0x18 pl.length = pl := by
  show ((pl ++ zeros (224 - pl.length)) ++ le 8 _).take pl.length = pl
  rw [List.append_assoc]
  exact List.take_left

/-- The fields of the header of a sealed flit stand at their places (Table 12-2). -/
theorem sealFlit_header (seq ack ch cr kind c hop : Nat) (last : Bool) (gid src dst op off : Nat) (pl : List Byte) :
    let b := sealFlit seq ack ch cr (flitBody kind c hop last gid src dst op off pl)
    b.take 1 = le 1 kind ∧ slice b 2 2 = le 2 seq ∧ slice b 4 2 = le 2 ack ∧ slice b 8 4 = le 4 gid ∧ slice b 0xC 1 = le 1 src ∧
      slice b 0xD 1 = le 1 dst ∧ slice b 0xE 2 = le 2 pl.length := by
  simp [sealFlit, flitBody, slice, le, zeros, List.replicate]

/-- What the peer logic becomes is what counts of a change of it. -/
theorem State.modPeer_congr {s : State} {f g : PeerSt → PeerSt} (h : f s.peer = g s.peer) : s.modPeer f = s.modPeer g := by
  unfold State.modPeer
  rw [h]

/-- The first record of an empty log tells the port (R284). -/
theorem State.logPort_first {s : State} (port partner : Nat) (hs : s.errs.staging = []) (hr : s.errs.ring = []) :
    ∃ e ∈ (s.logPort port partner).errs.staging, e.cls = 0x32 ∧ e.addr = port := by
  unfold State.logPort
  rw [State.logErr_first _ hs hr]
  exact ⟨_, List.mem_singleton_self _, rfl, rfl⟩

theorem State.logPort_peer (s : State) (port partner : Nat) : (s.logPort port partner).peer = s.peer := (State.logErr_frame _ _).peer_eq

/-- A control flit with this drive's header, sent on a clear port. -/
theorem sentFlit_of {s u : State} {p kind : Nat} {pl : List Byte} (h : clearToSend u p) (hpl : pl.length ≤ 224)
    (hseq : (u.port p).txSeq = (s.port p).txSeq) (hrx : (u.port p).rxNext = (s.port p).rxNext) (hwire : u.peer.wire = s.peer.wire) :
    sentFlit s (u.modPeer (fun x => x.enqueue p 0 [flitBody kind 0 1 true s.peer.gid.toNat s.peer.member
      (s.peer.member ^^^ (portMasks s.peer.size).getD p 0) 0 0 pl])) p kind pl := by
  generalize hbody : flitBody kind 0 1 true s.peer.gid.toNat s.peer.member (s.peer.member ^^^ (portMasks s.peer.size).getD p 0) 0 0 pl = body
  obtain ⟨⟨ch, cr, ht⟩, -⟩ := State.enqueue_control body h
  rw [hseq, hrx, hwire] at ht
  subst hbody
  obtain ⟨hkind, htx, hack, hgid, hsrc, hdst, hlen⟩ := sealFlit_header (s.port p).txSeq (((s.port p).rxNext + 65535) % 65536) ch cr kind 0 1 true
    s.peer.gid.toNat s.peer.member (s.peer.member ^^^ (portMasks s.peer.size).getD p 0) 0 0 pl
  obtain ⟨hsize, hcrc⟩ := sealFlit_crc (s.port p).txSeq (((s.port p).rxNext + 65535) % 65536) ch cr
    (flitBody_length kind 0 1 true s.peer.gid.toNat s.peer.member (s.peer.member ^^^ (portMasks s.peer.size).getD p 0) 0 0 hpl)
  exact ⟨_, ht, hsize, hkind, htx, hack, hgid, hsrc, hdst, hlen, sealFlit_payload _ _ _ _ _ _ _ _ _ _ _ _ _ _, hcrc⟩

end Sys2Proof.Machine

namespace Sys2Proof.Proofs
-- One thread elaborates these proofs: in parallel they ask for more stacks than the check allows.
set_option Elab.async false
open Sys2Proof.Machine Sys2Proof.Claims

theorem cabling_holds : cabling := by
  intro port s hport hlive
  have hplug (f : Port → Port) (hp : (f (s.port port)).present = true) :
      onePort s ((s.modPort port f).train port) port { f (s.port port) with
        state := (if (f (s.port port)).partnerLive = true ∧ (f (s.port port)).state = 0 then 1 else (f (s.port port)).state) } := by
    have hone := (onePort.same s port).modPort f
    unfold State.train
    rw [State.port_modPort]
    split
    · next h => exact (hone.modPort _).cast (by rw [if_pos ⟨h.2.2.1, h.2.2.2⟩])
    · next h =>
      refine hone.cast ?_
      rw [if_neg (fun hc => h ⟨hlive, hp, hc⟩)]
  refine ⟨⟨_, if_pos hport, hplug _ rfl⟩, ⟨_, if_pos hport, (onePort.same s port).modPort (fun p => { p.idle with present := false, partnerLive := false })⟩, fun hpres => ?_, fun habs => ?_⟩
  · refine ⟨_, congrArg Host.Outcome.next (if_pos ⟨hport, hpres⟩), (hplug (fun p => { p with partnerLive := true }) hpres).cast ?_⟩
    dsimp only
    simp only [true_and]
  · exact congrArg Host.Outcome.next (if_neg (fun h => absurd (habs.symm.trans h.2) (by decide)))

theorem helloSeen_holds : helloSeen := by
  intro port gid size member pport inc fw s hport hlive hstate htrained match'
  have hexec : exec (.hello port gid size member pport inc fw) s = _ := if_pos ⟨hport, hlive, hstate, htrained⟩
  refine ⟨fun hm hq => ⟨_, hexec.trans (if_pos hm), ((onePort.same s port).modPort _).flush hq⟩, fun hm => ?_⟩
  let s1 := s.modPort port (fun p => { p with state := 3, queue := [], txBuf := [] })
  have hpeer : (s1.logPort port member).peer = s1.peer := State.logPort_peer _ _ _
  refine ⟨s1.logPort port member, hexec.trans (if_neg hm), ?_, (congrArg PeerSt.wire hpeer).trans rfl, fun hs hr => State.logPort_first port member hs hr⟩
  unfold State.port
  rw [hpeer]
  exact State.port_modPort s port _

theorem alerts_holds : alerts := by
  intro port s hport hlive p again
  have hl : s.live = true := (Bool.and_eq_true _ _ ▸ hlive).1
  refine ⟨fun hup hpin => ⟨_, congrArg Host.Outcome.next (if_pos ⟨hport, hlive, hup, hpin⟩), (onePort.same s port).modPort _⟩,
    fun h => congrArg Host.Outcome.next (if_neg ?_), fun hup hmany => ?_, fun hfew => congrArg Host.Outcome.next (if_neg ?_), fun hpin => ?_,
    ⟨_, congrArg Host.Outcome.next (if_pos hport), (onePort.same s port).modPort _⟩⟩
  · rintro ⟨-, -, hup, hpin⟩
    rcases h with h | h
    · exact h hup
    · exact absurd (hpin.symm.trans h) (by decide)
  · obtain ⟨f, hf, hn⟩ := hmany
    have hany : (s.port port).txBuf.any (fun f => decide (16 ≤ f.replays)) = true := List.any_eq_true.mpr ⟨f, hf, decide_eq_true hn⟩
    exact ⟨_, congrArg Host.Outcome.next (if_pos ⟨hport, hlive, hup, hany⟩), (onePort.same s port).modPort _⟩
  · rintro ⟨-, -, -, hany⟩
    obtain ⟨f, hf, hn⟩ := List.any_eq_true.mp hany
    exact absurd (of_decide_eq_true hn) (Nat.not_le.mpr (hfew f hf))
  · let s1 := s.modPort port (fun p => { p with alertIgnored := true })
    refine ⟨s1.logPort port _, congrArg Host.Outcome.next (if_pos ⟨hport, hl, hpin⟩), ?_, fun hs hr => State.logPort_first port _ hs hr⟩
    unfold State.port
    rw [State.logPort_peer]
    exact State.port_modPort s port _

theorem idleFlit_holds : idleFlit := by
  intro port s hport hlive hup hclear
  generalize hbody : flitBody 0x00 0 1 true s.peer.gid.toNat s.peer.member (s.peer.member ^^^ (portMasks s.peer.size).getD port 0) 0 0 [] = body
  have hexec : exec (.idle port) s = .next (s.modPeer (fun x => x.enqueue port 0 [body])) :=
    congrArg Host.Outcome.next ((if_pos ⟨hport, hlive, hup⟩).trans (State.modPeer_congr (hbody ▸ rfl)))
  obtain ⟨-, c, o, ht⟩ := State.enqueue_control body hclear
  subst hbody
  exact ⟨_, hexec, State.modPeer_frame _ _, sentFlit_of hclear (Nat.zero_le _) rfl rfl rfl, by rw [ht], by rw [ht]⟩

theorem naks_holds : naks := by
  intro port expected s hport hlive hup kept
  have hagain (f : TxFlit) : ((f.again s.time.now).seq, (f.again s.time.now).channel, (f.again s.time.now).bytes) = (f.seq, f.channel, f.bytes) := by
    unfold TxFlit.again
    split <;> rfl
  let fs := kept.map (fun f => f.again s.time.now)
  have hkept : fs.map (fun f => (f.seq, f.channel, f.bytes)) = kept.map (fun f => (f.seq, f.channel, f.bytes)) := by
    rw [List.map_map]
    exact List.map_congr_left (fun f _ => hagain f)
  have hframe : peerOnly s (s.modPort port (fun p => { p with txBuf := fs })) := State.modPort_frame _ _ _
  have hport' : (s.modPort port (fun p => { p with txBuf := fs })).port port = { s.port port with txBuf := fs } := State.port_modPort _ _ _
  refine ⟨_, if_pos ⟨hport, hlive, hup⟩, hframe.after (State.modPeer_frame _ _) (by decide), ?_, ?_, ?_, ?_⟩
  · exact (congrArg (fun q : Port => q.txBuf.map (fun f => (f.seq, f.channel, f.bytes))) hport').trans hkept
  · show satAdd 32 s.peer.replays fs.length = _
    rw [List.length_map]
  · show s.peer.wire ++ fs.map _ = _
    rw [List.map_map]
    refine congrArg (s.peer.wire ++ ·) (List.map_congr_left (fun f _ => ?_))
    have hf := hagain f
    rw [Prod.mk.injEq, Prod.mk.injEq] at hf
    obtain ⟨hseq, -, hbytes⟩ := hf
    show (port, sealFlit (f.again s.time.now).seq _ 0 0 (f.again s.time.now).bytes) = _
    rw [hseq, hbytes]
  · have hcredits := congrArg Port.credits hport'
    exact hcredits

end Sys2Proof.Proofs

namespace Sys2Proof.Machine
-- One thread elaborates these proofs: in parallel they ask for more stacks than the check allows.
set_option Elab.async false
open Sys2Proof.Claims

/-! ### Training -/

/-- The lanes of a port that failed to train are logged and tested (R294). -/
def State.logLanes (s : State) (p : Nat) (l : List Nat) : State :=
  l.foldl (fun s j => s.logTest { cls := 0x31, kind := 2, addr := 4 * p + j } 9 (4 * p + j)) s

theorem State.logLanes_peer (s : State) (p : Nat) (l : List Nat) : (s.logLanes p l).peer = s.peer := by
  unfold State.logLanes
  induction l generalizing s with
  | nil => rfl
  | cons j l ih => exact (ih _).trans (State.logTest_frame _ _ _ _).peer_eq

theorem State.logLanes_tests (s : State) (p j : Nat) : ∃ x ∈ (s.logLanes p [j]).tests, x.kind = 9 ∧ x.index = 4 * p + j :=
  State.startTest_mem _ _ _ _ _

/-- A port after its training: as it was before a retraining, and clear otherwise (R294). -/
def Port.trained (lanes : Nat) (p : Port) : Port :=
  if p.retraining then { p with retraining := false, lanes := lanes } else { p.idle with state := 1, lanes := lanes }

theorem Port.trained_lanes (lanes : Nat) (p : Port) : (p.trained lanes).lanes = lanes := by
  unfold Port.trained
  split <;> rfl

/-- What PORT_TRAINED does while no lane is retired. -/
theorem execPortTrained_eq {port : Nat} {s : State} (hport : port < 4) (hlive : s.peerLive = true) (hpres : (s.port port).present = true)
    (hstate : (s.port port).state = 1) (hret : s.peer.retiredLanes = []) (lanes : Nat) :
    exec (.portTrained port lanes) s = if ((List.range 4).filter (fun j => bit lanes j)).isEmpty = true
      then .next ((s.logLanes port ((List.range 4).filter (fun j => !bit lanes j))).modPort port (fun p => p.idle))
      else .next (((s.logLanes port ((List.range 4).filter (fun j => !bit lanes j))).modPort port
        (fun p => p.trained (((List.range 4).filter (fun j => bit lanes j)).foldl (fun n j => n + 2 ^ j) 0))).modPeer
          (fun x => x.enqueue port 0 [s.helloBody port])) := by
  have halive : (List.range 4).filter (fun j => !s.peer.retiredLanes.contains (4 * port + j)) = List.range 4 := by
    rw [hret]
    rfl
  refine (if_pos (by exact ⟨hport, hlive, hpres, hstate⟩)).trans ?_
  rw [halive]
  rfl

theorem sealFlit_slice (seq ack ch cr kind c hop : Nat) (last : Bool) (gid src dst op off : Nat) {pl : List Byte} {k n : Nat} (h : k + n ≤ pl.length) :
    slice (sealFlit seq ack ch cr (flitBody kind c hop last gid src dst op off pl)) (0x18 + k) n = slice pl k n := by
  have hdrop : (sealFlit seq ack ch cr (flitBody kind c hop last gid src dst op off pl)).drop 0x18 =
      (pl ++ zeros (224 - pl.length)) ++ le 8 (crcFlit _) := rfl
  unfold slice
  rw [← List.drop_drop, hdrop, List.append_assoc, List.drop_append_of_le_length (by omega), List.take_append_of_le_length]
  rw [List.length_drop]
  omega

/-- The HELLO of this drive tells its configuration (R285). -/
theorem State.hello_fields (s : State) (p seq ack ch cr : Nat) :
    let b := sealFlit seq ack ch cr (s.helloBody p)
    b.take 1 = le 1 0x01 ∧ slice b 0x18 4 = le 4 s.peer.gid.toNat ∧ slice b 0x1C 1 = le 1 s.peer.size ∧ slice b 0x1D 1 = le 1 s.peer.member ∧
      slice b 0x1E 1 = le 1 p ∧ slice b 0x20 4 = le 4 s.peer.incarnation ∧ slice b 0x24 4 = le 4 s.fwVersion := by
  have hpl (k n : Nat) (h : k + n ≤ 16) := sealFlit_slice seq ack ch cr 0x01 0 1 true s.peer.gid.toNat s.peer.member
    (s.peer.member ^^^ (portMasks s.peer.size).getD p 0) 0 0 (k := k) (n := n)
    (pl := le 4 s.peer.gid.toNat ++ le 1 s.peer.size ++ le 1 s.peer.member ++ le 1 p ++ zeros 1 ++ le 4 s.peer.incarnation ++ le 4 s.fwVersion) h
  exact ⟨(sealFlit_header _ _ _ _ _ _ _ _ _ _ _ _ _ _).1, hpl 0 4 (by decide), hpl 4 1 (by decide), hpl 5 1 (by decide), hpl 6 1 (by decide),
    hpl 8 4 (by decide), hpl 12 4 (by decide)⟩

/-! ### Flits -/

theorem State.sendNak_sent {s : State} {p : Nat} (h : (s.port p).nakSent = true) : s.sendNak p = s := if_pos h

theorem State.sendNak_eq {s : State} {p : Nat} (h : (s.port p).nakSent = false) : s.sendNak p =
    (s.modPort p (fun q => { q with nakSent := true })).modPeer (fun x => x.enqueue p 0 [flitBody 0x03 0 1 true s.peer.gid.toNat s.peer.member
      (s.peer.member ^^^ (portMasks s.peer.size).getD p 0) 0 0 (le 2 (s.port p).rxNext)]) := by
  have hport : (s.modPort p (fun q => { q with nakSent := true })).port p = { s.port p with nakSent := true } := State.port_modPort _ _ _
  have hrx : (tget Port.reset (s.modPort p (fun q => { q with nakSent := true })).peer.ports p).rxNext = (s.port p).rxNext :=
    (congrArg Port.rxNext hport :)
  refine (if_neg (by rw [h]; decide)).trans (State.modPeer_congr ?_)
  rw [hrx]
  rfl

end Sys2Proof.Machine

namespace Sys2Proof.Proofs
-- One thread elaborates these proofs: in parallel they ask for more stacks than the check allows.
set_option Elab.async false
open Sys2Proof.Machine Sys2Proof.Claims

theorem training_holds : training := by
  intro port s hport hlive hpres hstate hret
  have hexec := execPortTrained_eq hport hlive hpres hstate hret
  have hall : exec (.portTrained port 15) s = .next ((s.modPort port (Port.trained 15)).modPeer (fun x => x.enqueue port 0 [s.helloBody port])) := hexec 15
  let u := s.modPort port (Port.trained 15)
  have hu : u.port port = (s.port port).trained 15 := State.port_modPort _ _ _
  have hframe : peerOnly s (u.modPeer (fun x => x.enqueue port 0 [s.helloBody port])) :=
    (State.modPort_frame s port (Port.trained 15)).after (State.modPeer_frame u _) (by decide)
  refine ⟨fun hfirst => ?_, fun hagain hclear => ?_, fun j hj => ?_, ⟨(s.logLanes port [0, 1, 2, 3]).modPort port (fun p => p.idle), hexec 0, ?_⟩⟩
  · have hu : u.port port = { (s.port port).idle with state := 1, lanes := 15 } := hu.trans (if_neg (by rw [hfirst]; decide))
    have hclear : clearToSend u port := by
      unfold clearToSend
      rw [hu]
      exact ⟨rfl, show 0 < tget 0 Port.reset.credits 0 by decide⟩
    obtain ⟨⟨ch, cr, hwire⟩, c, o, ht⟩ := State.enqueue_control (s.helloBody port) hclear
    rw [hu] at ht
    refine ⟨_, hall, hframe, by rw [ht], by rw [ht], by rw [ht]; rfl, by rw [ht]; rfl, by rw [ht]; exact hpres, _, hwire, ?_⟩
    exact State.hello_fields s port _ _ ch cr
  · have hu : u.port port = { s.port port with retraining := false, lanes := 15 } := hu.trans (if_pos hagain)
    have hclear : clearToSend u port := by
      unfold clearToSend
      rw [hu]
      exact hclear
    obtain ⟨-, c, o, ht⟩ := State.enqueue_control (s.helloBody port) hclear
    rw [hu] at ht
    exact ⟨_, hall, hframe, by rw [ht], by rw [ht], by rw [ht], by rw [ht]⟩
  · have hlane : exec (.portTrained port (15 - 2 ^ j)) s = .next (((s.logLanes port [j]).modPort port (Port.trained (15 - 2 ^ j))).modPeer
        (fun x => x.enqueue port 0 [s.helloBody port])) := by
      interval_cases j <;> exact hexec _
    refine ⟨_, hlane, ?_, State.logLanes_tests s port j⟩
    rw [State.enqueue_rest, State.port_modPort]
    exact Port.trained_lanes _ _
  · rw [State.port_modPort]
    exact congrArg Port.idle (congrArg (fun x : PeerSt => tget Port.reset x.ports port) (State.logLanes_peer s port _))

theorem flits_holds : flits := by
  intro port b s hport hlive hup hlen p intact ch q stale
  have hrun := (⟨hport, hlive, hup, hlen⟩ : port < 4 ∧ s.peerLive = true ∧ (s.port port).state = 2 ∧ b.length = 256)
  have hbad (h : ¬ intact) : exec (.flitReceive port b) s = .next (s.sendNak port) := (if_pos hrun).trans (if_pos h)
  let s1 := (s.modPort port (fun p => p.take b)).modPeer (fun x => x.flush port)
  have hone (hq : p.queue = []) : onePort s s1 port q := ((onePort.same s port).modPort _).flush hq
  have hgood (h : intact) : exec (.flitReceive port b) s = _ := (if_pos hrun).trans (if_neg (not_not.mpr h))
  refine ⟨fun h hnak hclear => ?_, fun h hnak => (hbad h).trans (congrArg Host.Outcome.next (State.sendNak_sent hnak)), fun h hq hch => ?_,
    fun h hq hch hseq => ?_, fun h hq hch hseq hnak => ?_, rfl, fun f hf => (List.mem_filter.mp hf).1, fun f hf => ?_⟩
  · let u := s.modPort port (fun q => { q with nakSent := true })
    have hu : u.port port = { p with nakSent := true } := State.port_modPort _ _ _
    have hclear : clearToSend u port := by
      unfold clearToSend
      rw [hu]
      exact hclear
    have hnak := State.sendNak_eq hnak
    generalize hbody : flitBody 0x03 0 1 true s.peer.gid.toNat s.peer.member (s.peer.member ^^^ (portMasks s.peer.size).getD port 0) 0 0
      (le 2 (s.port port).rxNext) = body at hnak
    obtain ⟨-, c, o, ht⟩ := State.enqueue_control body hclear
    rw [hu] at ht
    subst hbody
    refine ⟨_, (hbad h).trans (congrArg Host.Outcome.next hnak), sentFlit_of hclear (by rw [length_le]; decide) (by rw [hu]) (by rw [hu]) rfl, ?_, ?_⟩
    · exact (congrArg Port.rxNext ht).trans rfl
    · exact (congrArg Port.nakSent ht).trans rfl
  · exact ⟨_, (hgood h).trans (if_pos hch), (hone hq).modPort _⟩
  · intro after
    let s2 := s1.modPort port (fun p => { p with rxNext := (p.rxNext + 1) % 65536, nakSent := false, owed := tmod 0 p.owed ch (fun k => k + 1) })
    have hafter : onePort s s2 port after := (hone hq).modPort _
    have hin : exec (.flitReceive port b) s = _ := (hgood h).trans ((if_neg hch).trans (if_neg (not_not.mpr hseq)))
    have hstale : s.isStale (leNat (slice b 0x10 4)) = true ↔ stale := bne_iff_ne
    refine ⟨fun hs hdst => ⟨s2, hin.trans ((if_neg (fun h => hs (hstale.mp h))).trans (if_pos hdst)), hafter⟩,
      fun hs => ⟨s2.countStale 1, hin.trans (if_pos (hstale.mpr hs)), hafter.1, ?_, ?_⟩⟩
    · show satAdd 32 s2.peer.stale 1 = _
      rw [hafter.2.2.1]
    · show s2.peer.wire = _
      rw [hafter.2.2.1]
  · have hs1 : (s1.port port).nakSent = true := by
      rw [(hone hq).1]
      exact hnak
    exact ⟨s1, (hgood h).trans ((if_neg hch).trans ((if_pos hseq).trans (congrArg Host.Outcome.next (State.sendNak_sent hs1)))), hone hq⟩
  · show f ∈ p.txBuf.filter _ ↔ _
    rw [List.mem_filter]
    simp only [hf, true_and, seqLe, Bool.not_eq_true', decide_eq_false_iff_not, Nat.not_lt]

/-- Settles O46. -/
theorem peerPorts : Obligations.PeerPorts :=
  ⟨cabling_holds, training_holds, helloSeen_holds, alerts_holds, idleFlit_holds, flits_holds, naks_holds⟩

end Sys2Proof.Proofs

/-! Heartbeats and the states of the shard group: O47. -/

namespace Sys2Proof.Machine
-- One thread elaborates these proofs: in parallel they ask for more stacks than the check allows.
set_option Elab.async false
open Sys2Proof.Claims

/-! ### Messages leave -/

/-- From s to t these messages have been sent, in order: of the peer logic the ports, the wire and the kept copies may have changed. -/
def sends (s t : State) (ms : List PeerMsg) : Prop := ∃ (ports : Table Port) (wire : List (Nat × List Byte)) (copies : List PeerMsg),
  t = { s with peer := { s.peer with ports := ports, wire := wire, copies := copies, sent := s.peer.sent ++ ms } }

theorem sends.none (s : State) : sends s s [] := ⟨_, _, _, by rw [List.append_nil]⟩

theorem sends.append {s t u : State} {ms ns : List PeerMsg} (h : sends s t ms) (h' : sends t u ns) : sends s u (ms ++ ns) := by
  obtain ⟨p, w, c, rfl⟩ := h
  obtain ⟨p', w', c', rfl⟩ := h'
  refine ⟨p', w', c', ?_⟩
  rw [← List.append_assoc]

theorem sends.sent {s t : State} {ms : List PeerMsg} (h : sends s t ms) : t.peer.sent = s.peer.sent ++ ms := by
  obtain ⟨p, w, c, rfl⟩ := h
  rfl

/-- The transmission of a message changes the ports and the wire, and tells that it was sent. -/
theorem PeerSt.transmit_rest (x : PeerSt) (m : PeerMsg) : x.transmit m = { x with
    ports := (x.transmit m).ports, wire := (x.transmit m).wire, sent := x.sent ++ [m] } := by
  unfold PeerSt.transmit
  dsimp only
  split <;> rfl

theorem State.sendMsg_sends (s : State) (m : PeerMsg) : sends s (s.sendMsg m) [m] := by
  refine ⟨(s.peer.transmit m).ports, (s.peer.transmit m).wire, if isData m.kind then s.peer.copies ++ [m] else s.peer.copies, ?_⟩
  unfold State.sendMsg State.modPeer
  dsimp only
  rw [PeerSt.transmit_rest]

/-- Messages that are sent one after another, each at the time that it leaves. -/
theorem State.foldl_sendMsg {α : Type} (g : Nat → α → PeerMsg) (l : List α) (s : State) :
    sends s (l.foldl (fun s a => s.sendMsg (g s.time.now a)) s) (l.map (g s.time.now)) := by
  induction l generalizing s with
  | nil => exact sends.none s
  | cons a l ih =>
    have hfirst := s.sendMsg_sends (g s.time.now a)
    have htime : (s.sendMsg (g s.time.now a)).time = s.time := (State.sendMsg_frame _ _).time_eq
    have hrest := ih (s.sendMsg (g s.time.now a))
    rw [htime] at hrest
    exact hfirst.append hrest

/-! ### A group that loses a member, and one that forms -/

/-- A drive stays calm while only its peer logic changes. -/
theorem State.calm.modPeer {s : State} (h : s.calm) (f : PeerSt → PeerSt) : (s.modPeer f).calm := State.calm_of h rfl (fun _ => rfl)

/-- A command that ends without a part in a group operation has nobody to tell. -/
theorem State.conclude_noOps {s : State} (h : s.peer.ops = []) {st : Nat} (uid d0 d1 : Nat) (hl : st ≠ stLinkLost) :
    (s.conclude uid st d0 d1).peer = s.peer := by
  cases hc : s.cmd? uid with
  | none => rw [State.conclude_ended _ _ _ (by rw [hc]; rintro _ ⟨⟩)]
  | some c =>
    cases hs : c.status with
    | some z => rw [State.conclude_ended _ _ _ (by rw [hc]; rintro _ ⟨⟩; rw [hs]; rfl)]
    | none =>
      rw [State.conclude_eq d0 d1 hc hs hl]
      extract_lets st' s0 s1 s2
      have hend : s.endOps [uid] st' = s.modPeer (fun p => { p with ops := [] }) := by
        unfold State.endOps
        dsimp only
        rw [h]
        exact State.modPeer_congr (by rw [h]; rfl)
      have h0 : s0.peer = s.peer := by
        unfold s0
        split
        · rw [hend]
          show ({ s.peer with ops := [] } : PeerSt) = s.peer
          rw [← h]
        · rfl
      have h1 : s1.peer = s.peer := by
        unfold s1
        split
        · exact (State.markAll_frame _ _).peer_eq.trans h0
        · exact h0
      have h2 : s2.peer = s.peer := ((State.dropWork_frame _ _).peer_eq.trans (State.signalEvent_frame _ _ _).peer_eq).trans h1
      show ({ s2.peer with ops := s2.peer.ops.filter (fun o => o.uid != uid) } : PeerSt) = s.peer
      rw [h2, h]
      show ({ s.peer with ops := [] } : PeerSt) = s.peer
      rw [← h]

theorem State.concludeAll_noOps {s : State} (h : s.peer.ops = []) (f : Cmd → Bool) {st : Nat} (hl : st ≠ stLinkLost) :
    (s.concludeAll f st).peer = s.peer := by
  unfold State.concludeAll
  generalize s.cmds.filter (fun c => f c && c.status.isNone) = l
  induction l generalizing s with
  | nil => rfl
  | cons c l ih =>
    have hfirst := State.conclude_noOps h c.uid c.excRecs c.dw1 hl
    exact (ih (by rw [hfirst]; exact h)).trans hfirst

/-- R297: the group is DEGRADED and has no operation left; every command with a part in one has ended with PEER_LOST. -/
theorem State.degrade_spec {s : State} (h : s.calm) (hu : distinct s) :
    s.degrade.peer = { s.peer with group := 3, goodWindows := 0, ops := [] } ∧ allEnd s s.degrade (fun c => s.groupCmds.contains c.uid) stPeerLost := by
  let s1 := s.modPeer (fun x => { x with group := 3, goodWindows := 0, ops := [] })
  let s2 := s1.concludeAll (fun c => s.groupCmds.contains c.uid) stPeerLost
  have hcalm2 : s2.calm := State.concludeAll_calm _ (by decide) (h.modPeer _) hu
  have hend : s.degrade = s2 := State.calm_rest hcalm2
  rw [hend]
  exact ⟨State.concludeAll_noOps (s := s1) rfl _ (by decide), allEnd_of (u := s1) hu (by decide) (by decide) rfl (fun _ _ => rfl) rfl⟩

/-- The epoch of the lowest member that is FORMING or READY (R287). -/
def PeerSt.lowestEpoch (x : PeerSt) : Nat :=
  match ((List.range x.size).filter (fun j => j == x.member || (x.known j).gstate == 1 || (x.known j).gstate == 2)).head? with
  | some j => if j = x.member then x.epoch else (x.known j).epoch
  | none => x.epoch

theorem PeerSt.adopt_eq (x : PeerSt) : x.adopt = { x with epoch := x.lowestEpoch } := by
  unfold PeerSt.adopt PeerSt.lowestEpoch
  simp only [← Bool.or_assoc]
  cases (List.range x.size).filter (fun j => j == x.member || (x.known j).gstate == 1 || (x.known j).gstate == 2) with
  | nil => rfl
  | cons j l =>
    show (if j = x.member then x else { x with epoch := (x.known j).epoch }) = { x with epoch := if j = x.member then x.epoch else (x.known j).epoch }
    split <;> rfl

/-- A member keeps its epoch while no lower one is FORMING or READY (R287). -/
theorem PeerSt.lowestEpoch_own {x : PeerSt} (h : x.others.any (fun j => decide (j < x.member) && ((x.known j).gstate == 1 || (x.known j).gstate == 2)) = false) :
    x.lowestEpoch = x.epoch := by
  unfold PeerSt.lowestEpoch
  rw [List.head?_filter]
  split
  · next j hj =>
    obtain ⟨hp, hmem, hfirst⟩ := List.find?_range_eq_some.mp hj
    by_cases hown : j = x.member
    · exact if_pos hown
    · exfalso
      have hseen : ((x.known j).gstate == 1 || (x.known j).gstate == 2) = true := by
        rwa [beq_eq_false_iff_ne.mpr hown, Bool.false_or] at hp
      have hother : j ∈ x.others := List.mem_filter.mpr ⟨hmem, bne_iff_ne.mpr hown⟩
      have hlow : ¬ j < x.member := fun hlt => List.any_eq_false.mp h j hother (by rw [decide_eq_true hlt, hseen]; rfl)
      have hearly := hfirst x.member (by omega)
      simp at hearly
  · rfl

theorem PeerSt.agreed_iff (x : PeerSt) : x.agreed = true ↔ allAgree x x.epoch := by
  unfold PeerSt.agreed allAgree
  simp only [List.all_eq_true, Bool.and_eq_true, Bool.or_eq_true, decide_eq_true_eq, beq_iff_eq]

/-- A FORMING group takes the epoch of the lowest such member, and is READY once all carry it (R286, R287). -/
theorem State.form_forming {s : State} (h : s.calm) (hg : s.peer.group = 1) :
    (allAgree s.peer s.peer.lowestEpoch → s.form = { s with peer := { s.peer with epoch := s.peer.lowestEpoch, group := 2 } }) ∧
    (¬ allAgree s.peer s.peer.lowestEpoch → s.form = { s with peer := { s.peer with epoch := s.peer.lowestEpoch } }) := by
  have hadopt : s.modPeer PeerSt.adopt = { s with peer := { s.peer with epoch := s.peer.lowestEpoch } } := by
    unfold State.modPeer
    rw [PeerSt.adopt_eq]
  have hform : s.form = _ := if_pos hg
  dsimp only at hform
  rw [hadopt] at hform
  have hagreed := PeerSt.agreed_iff ({ s.peer with epoch := s.peer.lowestEpoch } : PeerSt)
  refine ⟨fun hall => (hform.trans (if_pos (hagreed.mpr hall))).trans ?_, fun hall => hform.trans (if_neg (fun hc => hall (hagreed.mp hc)))⟩
  exact State.calm_rest (State.calm_of h rfl (fun _ => rfl))

theorem State.form_other {s : State} (hg : s.peer.group ≠ 1) : s.form = s := if_neg hg

/-- A table after the same new value for every key of a list. -/
theorem tget_foldl_tset {α : Type} (d : α) (g : Nat → α) (l : List Nat) (t : Table α) (k : Nat) :
    tget d (l.foldl (fun t j => tset t j (g j)) t) k = if k ∈ l then g k else tget d t k := by
  induction l generalizing t with
  | nil => rfl
  | cons j l ih =>
    rw [List.foldl_cons, ih]
    by_cases hl : k ∈ l
    · rw [if_pos hl, if_pos (List.mem_cons_of_mem _ hl)]
    · rw [if_neg hl]
      by_cases hk : k = j
      · subst hk
        rw [tget_tset_same, if_pos List.mem_cons_self]
      · rw [tget_tset_other _ _ _ hk, if_neg (by rw [List.mem_cons]; exact not_or.mpr ⟨hk, hl⟩)]

end Sys2Proof.Machine

namespace Sys2Proof.Proofs
-- One thread elaborates these proofs: in parallel they ask for more stacks than the check allows.
set_option Elab.async false
open Sys2Proof.Machine Sys2Proof.Claims

theorem heartbeatOut_holds : heartbeatOut := by
  intro s hlive
  let pl := le 4 s.peer.incarnation ++ le 1 s.peer.group ++ le 1 (s.peer.lost.foldl (fun n k => n + 2 ^ k) 0) ++ le 1 s.peer.epoch ++ le 8 s.time.now
  let g (now j : Nat) : PeerMsg := { dst := j, kind := 0x02, opId := 0, offset := 0, payload := pl, sentAt := now }
  obtain ⟨p, w, c, ht⟩ := State.foldl_sendMsg g s.peer.others s
  have hexec : exec .heartbeatSend s = .next (s.peer.others.foldl (fun s j => s.sendMsg (g s.time.now j)) s) := if_pos hlive
  rw [ht] at hexec
  exact ⟨_, hexec, State.modPeer_frame s (fun x => { x with ports := p, wire := w, copies := c, sent := s.peer.sent ++ s.peer.others.map (g s.time.now) }), rfl, rfl, rfl⟩

theorem heartbeatIn_holds : heartbeatIn := by
  intro src inc gs lost ep time s hlive hsize hother hcalm hwait h x first epoch
  let s1 := s.modPeer (fun y => { y with hb := x.hb })
  have hcalm1 : s1.calm := hcalm.modPeer _
  have hexec : exec (.heartbeat src inc gs lost ep time) s = .next (if lost ≠ 0 ∧ s.peer.group ≠ 3 then s1.degrade else s1.form) :=
    if_pos ⟨hlive, hsize, hother⟩
  have hforms (hl : lost = 0 ∨ s.peer.group = 3) : exec (.heartbeat src inc gs lost ep time) s = .next s1.form :=
    hexec.trans (congrArg Host.Outcome.next (if_neg (fun hc => hl.elim hc.1 hc.2)))
  refine ⟨fun hl hg => (hforms hl).trans (congrArg Host.Outcome.next (State.form_other hg)),
    fun hl hg hall => (hforms (.inl hl)).trans (congrArg Host.Outcome.next ((State.form_forming hcalm1 hg).2 hall)),
    fun hl hg hall => (hforms (.inl hl)).trans (congrArg Host.Outcome.next ((State.form_forming hcalm1 hg).1 hall)), fun hl hg hdist => ?_⟩
  obtain ⟨hpeer, hend⟩ := State.degrade_spec hcalm1 hdist
  refine ⟨s1.degrade, hexec.trans (congrArg Host.Outcome.next (if_pos ⟨hl, hg⟩)), by rw [hpeer], by rw [hpeer], by rw [hpeer], ?_, hend⟩
  rw [hpeer]
  exact tget_tset_same _ _ _ _

theorem windows_holds : windows := by
  intro s hlive
  let hb := s.peer.others.foldl (fun t j => tset t j (s.peer.known j).window) s.peer.hb
  let good := s.peer.others.all (fun j => (s.peer.known j).seen && (s.peer.known j).lost == 0)
  let t := s.modPeer (fun x => { x with
    hb := hb, lost := x.lost.filter (fun j => decide ((tget Hb.reset hb j).goodRun < 4)), goodWindows := if good then x.goodWindows + 1 else 0 })
  have hknown (j : Nat) (hj : j ∈ s.peer.others) : tget Hb.reset hb j = (s.peer.known j).window :=
    (tget_foldl_tset _ (fun j => (s.peer.known j).window) _ _ _).trans (if_pos hj)
  have hgood : good = true ↔ ∀ j ∈ s.peer.others, (s.peer.known j).seen = true ∧ (s.peer.known j).lost = 0 := by
    simp only [good, List.all_eq_true, Bool.and_eq_true, beq_iff_eq]
  refine ⟨t, if_pos hlive, State.modPeer_frame _ _, fun j hj => hknown j hj, fun j hj => ?_, fun hall => if_pos (hgood.mpr hall), fun hbad => if_neg ?_, rfl, rfl⟩
  · show j ∈ s.peer.lost.filter _ ↔ _
    rw [List.mem_filter, hknown j hj, decide_eq_true_eq]
    refine and_congr_right (fun _ => ?_)
    unfold Hb.window
    cases (s.peer.known j).seen
    · simp
    · simp [Nat.lt_succ_iff]
  · obtain ⟨j, hj, hbad⟩ := hbad
    intro hc
    obtain ⟨hseen, hlost⟩ := hgood.mp hc j hj
    rcases hbad with hb | hb
    · rw [hseen] at hb
      cases hb
    · exact hb hlost

theorem losses_holds : losses := by
  intro j s hlive hsize hother hnew hcalm hdist
  have hcontains : s.peer.lost.contains j = false := by
    rw [Bool.eq_false_iff, Ne, List.contains_iff_mem]
    exact hnew
  refine ⟨fun hmiss => ?_, fun hfew => if_neg (fun hc => absurd hc.2.2.2.1 (Nat.not_le.mpr hfew))⟩
  let s1 := s.modPeer (fun x => { x with lost := x.lost ++ [j] })
  obtain ⟨hpeer, hend⟩ := State.degrade_spec (s := s1) (hcalm.modPeer _) hdist
  exact ⟨s1.degrade, if_pos ⟨hlive, hsize, hother, hmiss, hcontains⟩, by rw [hpeer]; rfl, by rw [hpeer], by rw [hpeer], hend⟩

theorem reforms_holds : reforms := by
  intro s hlive
  refine ⟨fun hg hgood hcalm _ => ?_, fun h => congrArg Host.Outcome.next (if_neg ?_), fun hg hlate hs hr => ?_, fun h => congrArg Host.Outcome.next (if_neg ?_)⟩
  · let s1 := s.modPeer (fun x => { x with group := 1, epoch := (x.epoch + 1) % 256, formingSince := s.time.now, earlyPosts := [] })
    obtain ⟨hready, hforming⟩ := State.form_forming (s := s1) (hcalm.modPeer _) rfl
    have hexec : exec .groupReform s = .next s1.form := congrArg Host.Outcome.next (if_pos ⟨hlive, hg, hgood⟩)
    have hepoch : s.peer.others.any (fun j => decide (j < s.peer.member) && ((s.peer.known j).gstate == 1 || (s.peer.known j).gstate == 2)) = false →
        s1.peer.lowestEpoch = (s.peer.epoch + 1) % 256 := PeerSt.lowestEpoch_own (x := s1.peer)
    by_cases hall : allAgree s1.peer s1.peer.lowestEpoch
    · rw [hready hall] at hexec
      exact ⟨_, hexec, State.modPeer_frame s (fun x => { s1.peer with epoch := s1.peer.lowestEpoch, group := 2 }), .inr rfl, rfl, hepoch⟩
    · rw [hforming hall] at hexec
      exact ⟨_, hexec, State.modPeer_frame s (fun x => { s1.peer with epoch := s1.peer.lowestEpoch }), .inl rfl, rfl, hepoch⟩
  · rintro ⟨-, hg, hgood⟩
    rcases h with h | h
    · exact h hg
    · exact absurd hgood (Nat.not_le.mpr h)
  · have hexec : exec .formingTimeout s = .next (s.logPort 0 s.peer.member) := congrArg Host.Outcome.next (if_pos ⟨hlive, hg, hlate⟩)
    obtain ⟨e, he, hcls, -⟩ := State.logPort_first 0 s.peer.member hs hr
    exact ⟨_, hexec, State.logPort_peer _ _ _, e, he, hcls⟩
  · rintro ⟨-, hg, hlate⟩
    rcases h with h | h
    · exact h hg
    · exact absurd hlate (Nat.not_le.mpr h)

/-- Settles O47. -/
theorem groupStates : Obligations.GroupStates :=
  ⟨heartbeatOut_holds, heartbeatIn_holds, windows_holds, losses_holds, reforms_holds⟩

end Sys2Proof.Proofs

/-! The messages of group operations: O48. -/

namespace Sys2Proof.Machine
-- One thread elaborates these proofs: in parallel they ask for more stacks than the check allows.
set_option Elab.async false
open Sys2Proof.Claims

/-! ### A part of a group operation -/

/-- The state after the only part of a group operation has changed. -/
def State.withPart (s : State) (o : GroupOp) : State := { s with peer := { s.peer with ops := [o] } }

theorem State.modOp_only {s : State} {o : GroupOp} (h : s.peer.ops = [o]) (f : GroupOp → GroupOp) : s.modOp o.uid f = s.withPart (f o) := by
  refine State.modPeer_congr (s := s) (g := fun x => { x with ops := [f o] }) ?_
  show ({ s.peer with ops := s.peer.ops.map (fun p => if p.uid = o.uid then f p else p) } : PeerSt) = { s.peer with ops := [f o] }
  rw [h, List.map_singleton, if_pos rfl]

theorem State.withPart_rest {s : State} (h : s.atRest) (o : GroupOp) : (s.withPart o).atRest := h.of_cmds rfl (fun _ => rfl)

/-- The part has heard of a member now (R298). -/
def GroupOp.heard (o : GroupOp) (now : Nat) : GroupOp := { o with lastMsg := now }

theorem State.isStale_iff (s : State) (opId : Nat) : s.isStale opId = true ↔ opId / 2 ^ 24 ≠ s.peer.epoch := bne_iff_ne

end Sys2Proof.Machine

namespace Sys2Proof.Claims
-- One thread elaborates these proofs: in parallel they ask for more stacks than the check allows.
set_option Elab.async false
open Sys2Proof.Machine

theorem Arrives.not_gone {s : State} {src opId : Nat} {o : GroupOp} (h : Arrives s src opId o) :
    ¬ (s.peerLive = false ∨ s.peer.others.contains src = false) := by
  have hmem : s.peer.others.contains src = true := List.contains_iff_mem.mpr h.member
  rw [h.live, hmem]
  decide

theorem Arrives.not_stale {s : State} {src opId : Nat} {o : GroupOp} (h : Arrives s src opId o) : ¬ s.isStale opId = true :=
  fun hc => (s.isStale_iff opId).mp hc h.epoch

end Sys2Proof.Claims

namespace Sys2Proof.Machine
-- One thread elaborates these proofs: in parallel they ask for more stacks than the check allows.
set_option Elab.async false
open Sys2Proof.Claims

/-- A message for this drive's part is refused when its digest does not match, and notes that it was heard otherwise (R292, R298). -/
theorem State.onMsg_part {s : State} {src opId : Nat} {o : GroupOp} (h : Arrives s src opId o) {mode : Nat} (hm : o.mode = mode) (offset kind : Nat)
    (pl : List Byte) (dg : Nat) (f : State → GroupOp → State) :
    s.onMsg src opId offset kind pl dg mode f = if digest pl ≠ dg then s.mismatch o src opId offset kind pl.length
      else f (s.withPart (o.heard s.time.now)) o := by
  unfold State.onMsg
  rw [if_neg h.not_gone, if_neg h.not_stale, h.part]
  dsimp only
  rw [if_neg (not_not.mpr hm), State.modOp_only h.ops]
  rfl

/-! ### A part ends -/

theorem State.conclude_ops (s : State) {uid st : Nat} {c : Cmd} (d0 d1 : Nat) (hc : s.cmd? uid = some c) (hn : c.status = none) (hl : st ≠ stLinkLost) :
    ∀ p ∈ (s.conclude uid st d0 d1).peer.ops, p.uid ≠ uid := by
  rw [State.conclude_eq d0 d1 hc hn hl]
  exact fun p hp => bne_iff_ne.mp (List.mem_filter.mp hp).2

/-- A part that ends for its own cause ends its command (R298). -/
theorem State.failOp_ends {s : State} {uid st : Nat} {c : Cmd} (hrest : s.atRest) (hc : s.cmd? uid = some c) (hn : c.status = none)
    (hl : st ≠ stLinkLost) (h0 : st ≠ stSuccess) :
    s.failOp uid st = s.conclude uid st c.excRecs c.dw1 ∧ ∃ y : Cmd, (s.failOp uid st).cmd? uid = some y ∧ y.status = some st := by
  have hfail : s.failOp uid st = s.conclude uid st c.excRecs c.dw1 := by
    unfold State.failOp
    rw [hc]
    exact (hrest.conclude uid c.excRecs c.dw1 hl).rest
  rw [hfail]
  have hst : finalStatus st c.retried = st := if_neg (fun h => h0 h.1)
  have hy := State.cmd?_conclude c.excRecs c.dw1 hc hn hl
  rw [hst] at hy
  exact ⟨rfl, _, hy, rfl⟩

theorem State.sendAll_sends (s : State) (kind opId off : Nat) (pl : List Byte) : sends s (s.sendAll kind opId off pl)
    (s.peer.others.map (fun j => (⟨j, kind, opId, off, pl, s.time.now⟩ : PeerMsg))) :=
  State.foldl_sendMsg (fun now j => ⟨j, kind, opId, off, pl, now⟩) s.peer.others s

/-- A part that ends for its own cause tells every member its status (R298). -/
theorem State.conclude_tells {s : State} {o : GroupOp} {st : Nat} {c : Cmd} (d0 d1 : Nat) (ho : s.peer.ops = [o]) (hc : s.cmd? o.uid = some c)
    (hn : c.status = none) (hl : st ≠ stLinkLost) (herr : isError st = true) (hpl : st ≠ stPeerLost) (hnb : st ≠ stPeerNotBound) :
    (s.conclude o.uid st d0 d1).peer.ops = [] ∧ (s.conclude o.uid st d0 d1).peer.sent = s.peer.sent ++ s.peer.others.map (fun j =>
      (⟨j, msgAbort, s.peer.opId o.seq, 0, le 2 st, s.time.now⟩ : PeerMsg)) := by
  have h0 : st ≠ stSuccess := by
    rintro rfl
    cases herr
  have hst : finalStatus st c.retried = st := if_neg (fun h => h0 h.1)
  rw [State.conclude_eq d0 d1 hc hn hl]
  extract_lets st' s0 s1 s2
  have hst' : st' = st := hst
  have hmine : s.endOps [o.uid] st = (s.modPeer (fun p => { p with ops := [] })).sendAll msgAbort (s.peer.opId o.seq) 0 (le 2 st) := by
    have hone : s.peer.ops.filter (fun p => [o.uid].contains p.uid) = [o] := by
      rw [ho]
      simp
    have hnone : s.modPeer (fun p => { p with ops := p.ops.filter (fun p => !([o.uid].contains p.uid)) }) = s.modPeer (fun p => { p with ops := [] }) := by
      refine State.modPeer_congr ?_
      rw [ho]
      simp
    unfold State.endOps
    dsimp only
    rw [hone, hnone]
    rfl
  obtain ⟨p, w, cp, hsend⟩ := (s.modPeer (fun p => { p with ops := [] })).sendAll_sends msgAbort (s.peer.opId o.seq) 0 (le 2 st)
  have hs0 : s0 = s.endOps [o.uid] st := by
    unfold s0
    rw [hst']
    exact if_pos ⟨herr, hpl, hnb⟩
  rw [hmine, hsend] at hs0
  have h1 : s1.peer = s0.peer := by
    unfold s1
    split
    · exact (State.markAll_frame _ _).peer_eq
    · rfl
  have h2 : s2.peer = s0.peer := ((State.dropWork_frame _ _).peer_eq.trans (State.signalEvent_frame _ _ _).peer_eq).trans h1
  constructor
  · show s2.peer.ops.filter _ = []
    rw [h2, hs0]
    rfl
  · show s2.peer.sent = _
    rw [h2, hs0]
    rfl

/-! ### The shares owed to a member -/

/-- From s to t only messages to one member have been sent. -/
def tells (s t : State) (dst : Nat) : Prop := ∃ ms : List PeerMsg, sends s t ms ∧ ∀ m ∈ ms, m.dst = dst

theorem tells.none (s : State) (dst : Nat) : tells s s dst := ⟨[], sends.none s, fun _ h => absurd h List.not_mem_nil⟩

theorem tells.append {s t u : State} {dst : Nat} (h : tells s t dst) (h' : tells t u dst) : tells s u dst := by
  obtain ⟨ms, hms, hdst⟩ := h
  obtain ⟨ns, hns, hdst'⟩ := h'
  exact ⟨ms ++ ns, hms.append hns, fun m hm => (List.mem_append.mp hm).elim (hdst m) (hdst' m)⟩

theorem tells.foldl {α : Type} {f : State → α → State} {dst : Nat} (h : ∀ (u : State) (a : α), tells u (f u a) dst) (l : List α) (s : State) :
    tells s (l.foldl f s) dst := by
  induction l generalizing s with
  | nil => exact tells.none s dst
  | cons a l ih => exact (h s a).append (ih (f s a))

theorem State.sendMsgs_tells (s : State) (dst kind opId : Nat) (ms : List (Nat × List Byte)) : tells s (s.sendMsgs dst kind opId ms) dst := by
  refine ⟨_, State.foldl_sendMsg (fun (now : Nat) (m : Nat × List Byte) => (⟨dst, kind, opId, m.1, m.2, now⟩ : PeerMsg)) ms s, fun m hm => ?_⟩
  obtain ⟨x, -, rfl⟩ := List.mem_map.mp hm
  rfl

theorem State.sendShare_tells (s : State) (c : Cmd) (o : GroupOp) (j : Nat) : tells s (s.sendShare c o j) j := by
  unfold State.sendShare
  dsimp only
  split
  · exact s.sendMsgs_tells _ _ _ _
  · refine tells.foldl (fun u a => ?_) _ s
    split
    · split
      · exact tells.none u j
      · exact u.sendMsgs_tells _ _ _ _
    · exact tells.none u j

end Sys2Proof.Machine

namespace Sys2Proof.Machine
-- One thread elaborates these proofs: in parallel they ask for more stacks than the check allows.
set_option Elab.async false
open Sys2Proof.Claims

/-! ### What messages carry -/

/-- R300: a write of an object's bytes; its other objects and the commands are as before. -/
theorem State.objWrite_byte {s : State} (h : s.Canonical) {o : Nat} {x : ObjectSt} (hx : s.obj? o = some x) (off : Nat) (bs : List Byte) :
    ∃ y : ObjectSt, oneObject s (s.objWrite o off bs) o y ∧ ∀ i : Nat, y.byte i = if off ≤ i ∧ i < off + bs.length then bs.getD (i - off) 0 else x.byte i :=
  ⟨_, ⟨State.obj_modObj s _ hx, fun _ hp => State.obj_modObj_other s _ hp⟩, fun i =>
    (ObjectSt.byte_of (y := { x.written s.time.now off 0 bs with tags := x.tags }) rfl rfl i).trans (ObjectSt.written_byte (h.obj_wf hx) s.time.now off 0 bs i)⟩

/-- Two's-complement numbers of one width agree modulo its range. -/
theorem dvd_toSigned_ofSigned (w : Nat) (v : Int) : (2 ^ w : Int) ∣ toSigned w (ofSigned w v) - v := by
  have hmod : ((ofSigned w v % 2 ^ w : Nat) : Int) = v % 2 ^ w := by
    rw [Nat.mod_eq_of_lt (ofSigned_lt w v)]
    exact Int.toNat_of_nonneg (Int.emod_nonneg _ (by positivity))
  have hbase : (2 ^ w : Int) ∣ v % 2 ^ w - v := by
    rw [← Int.dvd_neg, neg_sub]
    exact Int.dvd_self_sub_emod
  unfold toSigned
  push_cast at hmod
  split
  · rw [hmod]
    exact hbase
  · rw [hmod, sub_right_comm]
    exact Int.dvd_sub hbase (dvd_refl _)

/-- One line of an ENVELOPE message is read as it was written (assumption log 18). -/
theorem envLines_envLine {line n : Nat} {lo hi : Int} (hline : line < 2 ^ 32) (hn : n < 2 ^ 64) (hlo : -32768 ≤ lo) (hlo' : lo < 32768)
    (hhi : -32768 ≤ hi) (hhi' : hi < 32768) : envLines (envLine (line, lo, hi, n)) = [(line, lo, hi, n)] := by
  have hsigned (v : Int) (h : -32768 ≤ v) (h' : v < 32768) : toSigned 16 (leNat (le 2 (ofSigned 16 v))) = v := by
    rw [leNat_le (by exact ofSigned_lt 16 v)]
    exact toSigned_ofSigned (by decide) h h'
  have hlines : envLines (envLine (line, lo, hi, n)) =
      [(leNat (le 4 line), toSigned 16 (leNat (le 2 (ofSigned 16 lo))), toSigned 16 (leNat (le 2 (ofSigned 16 hi))), leNat (le 8 n))] := by
    simp [envLines, envLine, slice, le]
  rw [hlines, hsigned lo hlo hlo', hsigned hi hhi hhi', leNat_le (by exact hline), leNat_le (by exact hn)]

theorem joinEnv_same {t : Table (Int × Int × Nat)} {k : Nat} {a b : Int} {m : Nat} (h : tfind t k = some (a, b, m)) (lo hi : Int) (n : Nat) :
    tfind (joinEnv t k lo hi n) k = some (min a lo, max b hi, m + n) := by
  unfold joinEnv
  rw [h]
  dsimp only
  rw [tfind_tset_same, min_comm, max_comm]

theorem joinEnv_other (t : Table (Int × Int × Nat)) {k j : Nat} (lo hi : Int) (n : Nat) (h : j ≠ k) : tfind (joinEnv t k lo hi n) j = tfind t j := by
  unfold joinEnv
  split <;> exact tfind_tset_other _ _ h

end Sys2Proof.Machine

namespace Sys2Proof.Proofs
-- One thread elaborates these proofs: in parallel they ask for more stacks than the check allows.
set_option Elab.async false
open Sys2Proof.Machine Sys2Proof.Claims

theorem posts_holds : posts := by
  intro src opId o s
  have hfresh (hn : src ∉ o.posted) : ¬ o.posted.contains src = true := fun h => hn (List.contains_iff_mem.mp h)
  have hpart (h : Arrives s src opId o) : exec (.post src opId) s = if o.posted.contains src then .next s else
      let s1 := s.withPart { o with posted := o.posted ++ [src], lastMsg := s.time.now }
      match s1.cmd? o.uid with
      | none => .next s1
      | some c => .next (s1.sendShare c o src) := by
    show execPost src opId s = _
    unfold execPost
    rw [if_neg h.not_gone, if_neg h.not_stale, h.part]
    dsimp only
    rw [State.modOp_only h.ops] <;> rfl
  refine ⟨fun h hn hc => ?_, fun h hin => (hpart h).trans (if_pos (List.contains_iff_mem.mpr hin)), fun h hn c hc => ?_, fun hlive hmem hep hnone hnew => ?_,
    fun hlive hmem hep => ?_⟩
  · refine ((hpart h).trans (if_neg (hfresh hn))).trans ?_
    have hcmd : (s.withPart { o with posted := o.posted ++ [src], lastMsg := s.time.now }).cmd? o.uid = none := hc
    dsimp only
    rw [hcmd]
    rfl
  · let s1 := s.withPart { o with posted := o.posted ++ [src], lastMsg := s.time.now }
    have hcmd : s1.cmd? o.uid = some c := hc
    have hexec : exec (.post src opId) s = .next (s1.sendShare c o src) := by
      refine ((hpart h).trans (if_neg (hfresh hn))).trans ?_
      dsimp only
      rw [hcmd]
    obtain ⟨ms, ⟨p, w, cp, ht⟩, hdst⟩ := s1.sendShare_tells c o src
    rw [ht] at hexec
    refine ⟨_, hexec, State.modPeer_frame s (fun x => { s1.peer with ports := p, wire := w, copies := cp, sent := s1.peer.sent ++ ms }), rfl,
      fun m hm => List.mem_append_left _ hm, fun m hm hnew => ?_⟩
    exact (List.mem_append.mp hm).elim (fun hold => absurd hold hnew) (hdst m)
  all_goals
    have hgone : ¬ (s.peerLive = false ∨ s.peer.others.contains src = false) := by
      rw [hlive, List.contains_iff_mem.mpr hmem]
      decide
    show execPost src opId s = _
    unfold execPost
    rw [if_neg hgone]
  · have hcontains : ¬ s.peer.earlyPosts.contains (src, opId) = true := fun h => hnew (List.contains_iff_mem.mp h)
    rw [if_neg (fun h => (s.isStale_iff opId).mp h hep), hnone]
    refine congrArg Host.Outcome.next (State.modPeer_congr (s := s) (g := fun x => { x with earlyPosts := x.earlyPosts ++ [(src, opId)] }) ?_)
    rw [if_neg hcontains]
  · exact if_pos ((s.isStale_iff opId).mpr hep)

/-- What a message with a wrong digest does (R292). -/
theorem mismatches_of {c : Instr} {s : State} {o : GroupOp} {src opId offset kind len : Nat} (ho : s.peer.ops = [o])
    (h : exec c s = .next (s.mismatch o src opId offset kind len)) : mismatches c s o src opId offset kind len := by
  refine ⟨fun hfirst => ?_, fun hagain x hx hn hcalm hwait => ?_⟩
  · have hnew : ¬ o.mismatched.contains (src, offset) = true := fun hc => hfirst (List.contains_iff_mem.mp hc)
    have hexec := h.trans (congrArg Host.Outcome.next (if_neg hnew))
    rw [State.modOp_only ho] at hexec
    obtain ⟨p, w, cp, ht⟩ := (s.withPart { o with mismatched := o.mismatched ++ [(src, offset)] }).sendMsg_sends
      { dst := src, kind := msgNakType, opId := opId, offset := offset, payload := le 1 kind ++ le 2 (len / 16), sentAt := s.time.now }
    exact ⟨_, hexec, (State.modPeer_frame s (fun x => { x with ops := [_] })).after (State.sendMsg_frame _ _) (by decide), by rw [ht]; rfl, by rw [ht]; rfl⟩
  · have hexec := h.trans (congrArg Host.Outcome.next (if_pos (List.contains_iff_mem.mpr hagain)))
    obtain ⟨hconclude, y, hy, hst⟩ := State.failOp_ends (State.atRest_of hcalm hwait) hx hn (st := stCheckFailed) (by decide) (by decide)
    refine ⟨_, y, hexec, hy, hst, ?_⟩
    rw [hconclude]
    exact State.conclude_ops s _ _ hx hn (by decide)

theorem gathers_holds : gathers := by
  intro src opId offset pl dg o s h hmode
  have hgood (hd : digest pl = dg) : exec (.gather src opId offset pl dg) s = .next _ :=
    congrArg Host.Outcome.next ((State.onMsg_part h hmode offset msgGather pl dg _).trans (if_neg (not_not.mpr hd)))
  let s1 := s.withPart (o.heard s.time.now)
  refine ⟨?_, fun hd hold => ?_, fun hd d c hold hne hc hn hcalm hwait => ?_, fun hd => ?_⟩
  · intro hd c obj a x hc hcalm hwait hcanon hnew harg hx b u hi hlo hhi
    have hcmd : s1.cmd? o.uid = some c := hc
    have harg' : s1.gatheredArg c (offset / 2 ^ 40) = some (obj, a) := harg
    have hx1 : s1.obj? obj = some x := hx
    let s2 := s1.objWrite obj (a.offset + b) (pl.take (hi - b))
    have hops : s2.peer.ops = [o.heard s.time.now] := congrArg PeerSt.ops (State.objWrite_frame s1 obj _ _).peer_eq
    have hframe := State.objWrite_frame s1 obj (a.offset + b) (pl.take (hi - b))
    let p : GroupOp := { o.heard s.time.now with tiles := tset o.tiles offset dg }
    have hrest : (s2.withPart p).settle.recheck = s2.withPart p :=
      (State.withPart_rest ((State.withPart_rest (State.atRest_of hcalm hwait) _).frame hframe) p).rest
    have hexec : exec (.gather src opId offset pl dg) s = .next (s2.withPart p) := by
      refine (hgood hd).trans (congrArg Host.Outcome.next ?_)
      rw [hnew]
      dsimp only
      rw [hcmd]
      dsimp only
      rw [harg']
      dsimp only
      refine (if_pos ⟨hlo, hhi⟩).trans ?_
      exact (congrArg (fun v : State => v.settle.recheck) (State.modOp_only hops (fun q => { q with tiles := tset q.tiles offset dg }))).trans hrest
    obtain ⟨y, hone, hbyte⟩ := State.objWrite_byte (s := s1) hcanon hx1 (a.offset + b) (pl.take (hi - b))
    refine ⟨_, y, p, hexec, hone, fun i => ?_, rfl, rfl, tfind_tset_same _ _ _, hframe.cmds_eq⟩
    rw [hbyte, List.length_take, min_comm (hi - b)]
    split
    · rw [List.getD_eq_getElem?_getD, List.getElem?_take, if_pos (by omega), ← List.getD_eq_getElem?_getD]
    · rfl
  · refine (hgood hd).trans (congrArg Host.Outcome.next ?_)
    rw [hold]
    exact if_pos rfl
  · have hexec : exec (.gather src opId offset pl dg) s = .next (s1.failOp o.uid stCheckFailed) := by
      refine (hgood hd).trans (congrArg Host.Outcome.next ?_)
      rw [hold]
      exact if_neg hne
    obtain ⟨-, y, hy, hst⟩ := State.failOp_ends (s := s1) (uid := o.uid) (c := c) (st := stCheckFailed) (State.withPart_rest (State.atRest_of hcalm hwait) _) hc hn (by decide) (by decide)
    exact ⟨_, y, hexec, hy, hst⟩
  · exact mismatches_of h.ops (congrArg Host.Outcome.next ((State.onMsg_part h hmode offset msgGather pl dg _).trans (if_pos hd)))

end Sys2Proof.Proofs

namespace Sys2Proof.Proofs
-- One thread elaborates these proofs: in parallel they ask for more stacks than the check allows.
set_option Elab.async false
open Sys2Proof.Machine Sys2Proof.Claims

/-- The numbers of a REDUCE message (R303). -/
def accumulators (pl : List Byte) : List Int := (List.range 128).map (fun j => toSigned 128 (leNat (slice pl (16 * j) 16)))

/-- R303: sums of 128 bits, element by element. -/
theorem dvd_added {r : List Int} (hr : r.length = 128) (pl : List Byte) {j : Nat} (hj : j < 128) :
    (2 ^ 128 : Int) ∣ ((r.zip (accumulators pl)).map (fun p => toSigned 128 (ofSigned 128 (p.1 + p.2)))).getD j 0 - (r.getD j 0 + int128 pl j) := by
  have hvs : (accumulators pl)[j]? = some (int128 pl j) := by
    unfold accumulators
    rw [List.getElem?_map, List.getElem?_range hj]
    rfl
  have hr' : r[j]? = some r[j] := List.getElem?_eq_getElem (hr ▸ hj)
  have hget : ((r.zip (accumulators pl)).map (fun p => toSigned 128 (ofSigned 128 (p.1 + p.2))))[j]? = some (toSigned 128 (ofSigned 128 (r[j] + int128 pl j))) := by
    rw [List.getElem?_map, (List.getElem?_zip_eq_some (z := (r[j], int128 pl j))).mpr ⟨hr', hvs⟩]
    rfl
  rw [List.getD_eq_getElem?_getD, List.getD_eq_getElem?_getD, hget, hr']
  exact dvd_toSigned_ofSigned 128 _

theorem reduces_holds : reduces := by
  intro src opId row pl dg o s h hmode
  have hgood (hd : digest pl = dg) : exec (.reduce src opId row pl dg) s = .next _ :=
    congrArg Host.Outcome.next ((State.onMsg_part h hmode row msgReduce pl dg _).trans (if_neg (not_not.mpr hd)))
  let s1 := s.withPart (o.heard s.time.now)
  refine ⟨fun hd hlen hnew hrows => ?_, fun hd hold => (hgood hd).trans (congrArg Host.Outcome.next (if_pos (.inr (List.contains_iff_mem.mpr hold)))),
    fun hd => mismatches_of h.ops (congrArg Host.Outcome.next ((State.onMsg_part h hmode row msgReduce pl dg _).trans (if_pos hd)))⟩
  let add (r : List Int) : List Int := (r.zip (accumulators pl)).map (fun p => toSigned 128 (ofSigned 128 (p.1 + p.2)))
  let p : GroupOp := { o.heard s.time.now with rows := tmod (List.replicate 128 0) o.rows row add, rowSrcs := o.rowSrcs ++ [(row, src)] }
  have hexec : exec (.reduce src opId row pl dg) s = .next (s.withPart p) := by
    refine (hgood hd).trans (congrArg Host.Outcome.next ((if_neg ?_).trans (State.modOp_only (s := s1) (o := o.heard s.time.now) rfl
      (fun q => { q with rows := tmod (List.replicate 128 0) q.rows row add, rowSrcs := q.rowSrcs ++ [(row, src)] }))))
    rintro (hc | hc)
    · exact hc hlen
    · exact hnew (List.contains_iff_mem.mp hc)
  have hlength : (tget (List.replicate 128 0) o.rows row).length = 128 := by
    unfold tget
    cases hr : tfind o.rows row with
    | none => rfl
    | some l => exact hrows l hr
  exact ⟨_, p, hexec, State.modPeer_frame s (fun x => { x with ops := [p] }), rfl, rfl, fun j hj => ⟨_, tfind_tset_same _ _ _, dvd_added hlength pl hj⟩,
    fun r hr => tfind_tset_other _ _ hr⟩

theorem envelopes_holds : envelopes := by
  intro src opId offset line n dg lo hi o s h hmode hline hn hlo hlo' hhi hhi' hnew hd
  let s1 := s.withPart (o.heard s.time.now)
  let p : GroupOp := { o.heard s.time.now with
    tiles := tset o.tiles (src * 2 ^ 40 + offset) dg
    envelopes := joinEnv o.envelopes line lo hi n
    envSrcs := tmod 0 o.envSrcs src (fun k => k + 1) }
  have hexec : exec (.envelope src opId offset (envLine (line, lo, hi, n)) dg) s = .next (s.withPart p) := by
    refine congrArg Host.Outcome.next (((State.onMsg_part h hmode offset msgEnvelope _ dg _).trans (if_neg (not_not.mpr hd))).trans ?_)
    rw [envLines_envLine hline hn hlo hlo' hhi hhi']
    refine (if_neg (by rw [hnew]; decide)).trans ?_
    exact State.modOp_only (s := s1) (o := o.heard s.time.now) rfl (fun q => { q with
      tiles := tset q.tiles (src * 2 ^ 40 + offset) dg
      envelopes := joinEnv q.envelopes line lo hi n
      envSrcs := tmod 0 q.envSrcs src (fun k => k + 1) })
  exact ⟨_, p, hexec, State.modPeer_frame s (fun x => { x with ops := [p] }), rfl, rfl, fun a b k hold => joinEnv_same hold lo hi n,
    fun l hl => joinEnv_other _ lo hi n hl, tget_tset_same _ _ _ _⟩

theorem aborts_holds : aborts := by
  intro src opId st o c s h hc hn hcalm hwait
  have hrest := State.atRest_of hcalm hwait
  have hopOf : s.opOf o.uid = some o := by
    unfold State.opOf
    rw [h.ops]
    exact List.find?_cons_of_pos (beq_self_eq_true o.uid)
  have htimeout : exec (.peerProgressTimeout o.uid) s = .next (if s.peerLive = true ∧ o.lastMsg + o.timeout ≤ s.time.now then s.failOp o.uid stPeerAborted else s) := by
    show execPeerProgressTimeout o.uid s = _
    unfold execPeerProgressTimeout
    rw [hopOf]
  refine ⟨?_, fun hlate => ?_, fun hearly => htimeout.trans (congrArg Host.Outcome.next (if_neg (fun hc => absurd hc.2 (Nat.not_le.mpr hearly))))⟩
  · let s1 := s.modPeer (fun x => { x with ops := [] })
    have hexec : exec (.abort src opId st) s = .next (s1.failOp o.uid stPeerAborted) := by
      have hdrop : s.modPeer (fun x => { x with ops := x.ops.filter (fun p => p.uid != o.uid) }) = s1 := by
        refine State.modPeer_congr (s := s) ?_
        rw [h.ops]
        simp
      show execAbort src opId st s = _
      unfold execAbort
      rw [if_neg h.not_gone, if_neg h.not_stale, h.part]
      dsimp only
      rw [hdrop]
    obtain ⟨hconclude, y, hy, hst⟩ := State.failOp_ends (s := s1) (hrest.of_cmds rfl (fun _ => rfl)) hc hn (st := stPeerAborted) (by decide) (by decide)
    have hpeer : (s1.failOp o.uid stPeerAborted).peer = s1.peer := by
      rw [hconclude]
      exact State.conclude_noOps rfl _ _ _ (by decide)
    exact ⟨_, y, hexec, hy, hst, (congrArg PeerSt.ops hpeer).trans rfl, (congrArg PeerSt.sent hpeer).trans rfl⟩
  · obtain ⟨hconclude, y, hy, hst⟩ := State.failOp_ends hrest hc hn (st := stPeerAborted) (by decide) (by decide)
    obtain ⟨hops, hsent⟩ := State.conclude_tells c.excRecs c.dw1 h.ops hc hn (st := stPeerAborted) (by decide) (by decide) (by decide) (by decide)
    rw [← hconclude] at hops hsent
    exact ⟨_, y, htimeout.trans (congrArg Host.Outcome.next (if_pos ⟨h.live, hlate⟩)), hy, hst, hops, hsent⟩

theorem copies_holds : copies := by
  intro src opId offset kind len16 o s h
  refine ⟨fun m hm hdst hop hoff hkind hlen => ?_, fun hnone c hc hn hcalm hwait => ?_, ?_⟩
  · have hfind : s.peer.copies.find? (fun m => m.dst == src && m.opId == opId && m.offset == offset && m.kind == kind && m.payload.length == 16 * len16) = some m := by
      rw [hm, List.find?_cons_of_pos (by simp [hdst, hop, hoff, hkind, hlen])]
    have hexec : exec (.msgNak src opId offset kind len16) s = .next (s.modPeer (fun x => x.transmit { m with sentAt := s.time.now })) := by
      show execMsgNak src opId offset kind len16 s = _
      unfold execMsgNak
      rw [if_neg h.not_gone, if_neg h.not_stale, hfind]
    have hrest := PeerSt.transmit_rest s.peer { m with sentAt := s.time.now }
    refine ⟨_, hexec, State.modPeer_frame _ _, congrArg PeerSt.sent hrest, (congrArg PeerSt.ops hrest).trans h.ops, (congrArg PeerSt.copies hrest).trans hm⟩
  · have hexec : exec (.msgNak src opId offset kind len16) s = .next (s.failOp o.uid stCheckFailed) := by
      show execMsgNak src opId offset kind len16 s = _
      unfold execMsgNak
      rw [if_neg h.not_gone, if_neg h.not_stale, hnone, h.part]
      rfl
    obtain ⟨-, y, hy, hst⟩ := State.failOp_ends (State.atRest_of hcalm hwait) hc hn (st := stCheckFailed) (by decide) (by decide)
    exact ⟨_, y, hexec, hy, hst⟩
  · have hlive : s.live = true := (Bool.and_eq_true _ _ ▸ h.live).1
    exact congrArg Host.Outcome.next (if_pos hlive)

/-- Settles O48. -/
theorem groupMessages : Obligations.GroupMessages :=
  ⟨posts_holds, gathers_holds, reduces_holds, envelopes_holds, aborts_holds, copies_holds⟩

end Sys2Proof.Proofs

/-! How a controller takes and completes NVMe commands; the doorbell, the queues, Abort and the event requests: O49. -/

namespace Sys2Proof.Machine
-- One thread elaborates these proofs: in parallel they ask for more stacks than the check allows.
set_option Elab.async false
open Sys2Proof.Claims

/-! ### Commands that are taken -/

/-- From s to u a command has been fetched: the drive is awake, and the command is outstanding. -/
structure begun (s u : State) (h : NvmeHdr) : Prop where
  frame : Frame [.power, .nvme] s u
  nvme : u.nvme = { s.nvme with outstanding := u.nvme.outstanding, idleSince := s.time.now }
  rest : u.nvme.outstanding.filter (fun o => !o.1.same h) = s.nvme.outstanding.filter (fun o => !o.1.same h)
  mem : ∃ o ∈ u.nvme.outstanding, o.1.same h = true
  power : u.power = { s.power with pstate := u.power.pstate, lastOp := u.power.lastOp, rails := u.power.rails, lowPending := none }
  pstate : s.power.pstate ≤ 3 → u.power.pstate = s.power.pstate

theorem same_self (h : NvmeHdr) : h.same h = true := by
  unfold NvmeHdr.same
  simp

theorem same_iff (a b : NvmeHdr) : a.same b = true ↔ a.fn = b.fn ∧ a.sqid = b.sqid ∧ a.cid = b.cid := by
  unfold NvmeHdr.same
  simp only [Bool.and_eq_true, beq_iff_eq, and_assoc]

theorem State.wake_nvme (s : State) : s.wake.nvme = { s.nvme with idleSince := s.time.now } := by
  unfold State.wake
  dsimp only
  split
  · exact (State.setPstate_frame _ _).nvme_eq
  · rfl

theorem State.wake_rest (s : State) : s.wake.power = { s.power with
    pstate := s.wake.power.pstate, lastOp := s.wake.power.lastOp, rails := s.wake.power.rails, lowPending := none } ∧
    (s.power.pstate ≤ 3 → s.wake.power.pstate = s.power.pstate) := by
  unfold State.wake
  dsimp only
  split
  · next h4 =>
    obtain ⟨rs, h⟩ := State.setPstate_power (s.modNvme (fun n => { n with idleSince := s.time.now })) s.power.lastOp
    rw [h]
    exact ⟨rfl, fun h3 => absurd h4 (Nat.not_le.mpr (Nat.lt_succ_of_le h3))⟩
  · exact ⟨rfl, fun _ => rfl⟩

/-- The commands outstanding beside one are as before when that one is spelt again. -/
theorem filter_respelt (h : NvmeHdr) (l : List (NvmeHdr × Nat × Nat)) :
    (l.map (fun o => if o.1.same h then (h, o.2) else o)).filter (fun o => !o.1.same h) = l.filter (fun o => !o.1.same h) := by
  induction l with
  | nil => rfl
  | cons o l ih =>
    rw [List.map_cons]
    by_cases ho : o.1.same h = true
    · rw [if_pos ho, List.filter_cons_of_neg (by simp [same_self]), List.filter_cons_of_neg (by simp [ho]), ih]
    · rw [if_neg ho, List.filter_cons_of_pos (by simp [ho]), List.filter_cons_of_pos (by simp [ho]), ih]

theorem State.begin_nvme (s : State) (h : NvmeHdr) (op : Nat) : ∃ l : List (NvmeHdr × Nat × Nat),
    (s.begin h op).nvme = { s.nvme with outstanding := l, idleSince := s.time.now } ∧
    l.filter (fun o => !o.1.same h) = s.nvme.outstanding.filter (fun o => !o.1.same h) ∧ ∃ o ∈ l, o.1.same h = true := by
  unfold State.begin
  dsimp only
  split
  · next hany =>
    refine ⟨s.nvme.outstanding.map (fun o => if o.1.same h then (h, o.2) else o), ?_, filter_respelt h _, ?_⟩
    · show ({ s.wake.nvme with outstanding := s.wake.nvme.outstanding.map _ } : NvmeSt) = _
      rw [State.wake_nvme]
    · rw [State.wake_nvme] at hany
      obtain ⟨o, ho, hsame⟩ := List.any_eq_true.mp hany
      exact ⟨(h, o.2), List.mem_map.mpr ⟨o, ho, if_pos hsame⟩, same_self h⟩
  · refine ⟨s.nvme.outstanding ++ [(h, op, s.time.now)], ?_, ?_, _, List.mem_append_right _ (List.mem_singleton_self _), same_self h⟩
    · show ({ s.wake.nvme with outstanding := s.wake.nvme.outstanding ++ _ } : NvmeSt) = _
      rw [State.wake_nvme]
    · rw [List.filter_append, List.filter_cons_of_neg (by simp [same_self])]
      exact List.append_nil _

theorem State.begin_power (s : State) (h : NvmeHdr) (op : Nat) : (s.begin h op).power = s.wake.power := by
  unfold State.begin
  dsimp only
  split <;> rfl

theorem State.begin_begun (s : State) (h : NvmeHdr) (op : Nat) : begun s (s.begin h op) h := by
  obtain ⟨l, hnvme, hrest, hmem⟩ := s.begin_nvme h op
  refine ⟨State.begin_frame s h op, by rw [hnvme], by rw [hnvme]; exact hrest, by rw [hnvme]; exact hmem, ?_, ?_⟩
  · rw [State.begin_power]
    exact s.wake_rest.1
  · rw [State.begin_power]
    exact s.wake_rest.2

theorem begun.outstanding {s u : State} {h : NvmeHdr} (hb : begun s u h) {o : NvmeHdr × Nat × Nat} (ho : o ∈ u.nvme.outstanding) :
    o.1.same h = true ∨ o ∈ s.nvme.outstanding.filter (fun o => !o.1.same h) := by
  by_cases hs : o.1.same h = true
  · exact .inl hs
  · rw [← hb.rest]
    exact .inr (List.mem_filter.mpr ⟨ho, by rw [Bool.eq_false_iff.mpr hs]; rfl⟩)

theorem begun.ctl {s u : State} {h : NvmeHdr} (hb : begun s u h) (n : Nat) : u.ctl n = s.ctl n :=
  State.ctl_of_nvme (by rw [hb.nvme]) n

theorem begun.out {s u : State} {h : NvmeHdr} (hb : begun s u h) : u.nvme.out = s.nvme.out := by rw [hb.nvme]

/-! ### Commands that are completed -/

/-- The completion of a command with a status that is not logged. -/
theorem State.nvDone_quiet {st : NvmeSts} (hst : st.logged = false) (s : State) (h : NvmeHdr) (d0 lba : Nat) : (s.nvDone h st d0 lba).nvme = { s.nvme with
    outstanding := s.nvme.outstanding.filter (fun o => !o.1.same h), idleSince := s.time.now, out := s.nvme.out ++ [cplOf h st d0] } := by
  have hdone : s.nvDone h st d0 lba = s.nvEnd h st d0 := by
    unfold State.nvDone State.nvDoneAt
    exact if_neg (by rw [hst]; decide)
  rw [hdone]
  exact State.nvmeIrq_nvme _ _ _

theorem State.nvDone_ctl {st : NvmeSts} (hst : st.logged = false) (s : State) (h : NvmeHdr) (d0 lba n : Nat) : (s.nvDone h st d0 lba).ctl n = s.ctl n :=
  State.ctl_of_nvme (by rw [State.nvDone_quiet hst]) n

/-- From s to v nothing has been handed to the host, and beside one command the same are outstanding. -/
def pendingOnly (s v : State) (h : NvmeHdr) : Prop := v.nvme.out = s.nvme.out ∧
  v.nvme.outstanding.filter (fun o => !o.1.same h) = s.nvme.outstanding.filter (fun o => !o.1.same h)

theorem begun.pending {s u : State} {h : NvmeHdr} (hb : begun s u h) : pendingOnly s u h := ⟨hb.out, hb.rest⟩

/-- A command that ends with a status that is not logged is answered so. -/
theorem answered_of {c : Instr} {s v : State} {h : NvmeHdr} {st : NvmeSts} {d0 lba : Nat} {P : State → Prop} (hexec : exec c s = .next (v.nvDone h st d0 lba))
    (hst : st.logged = false) (hv : pendingOnly s v h) (hP : P (v.nvDone h st d0 lba)) : answered c s h st d0 P := by
  have hnvme := State.nvDone_quiet hst v h d0 lba
  refine ⟨_, hexec, ?_, ?_, hP⟩
  · rw [hnvme, ← hv.1]
  · rw [hnvme]
    exact hv.2

/-- A command that only ends leaves the controllers, the namespaces and the cache. -/
theorem begun.quiet {s u : State} {h : NvmeHdr} (hb : begun s u h) {st : NvmeSts} (hst : st.logged = false) (d0 lba : Nat) : quietNvme s h (u.nvDone h st d0 lba) := by
  unfold quietNvme
  rw [State.nvDone_ctl hst, hb.ctl, State.nvDone_quiet hst, hb.nvme]
  exact ⟨rfl, rfl, rfl, rfl⟩

/-- Commands that leave their queue leave the queues of the controllers. -/
theorem State.dropNvme_queues (s : State) (f : NvmeHdr → Bool) (n : Nat) :
    ((s.dropNvme f).ctl n).sqs = (s.ctl n).sqs ∧ ((s.dropNvme f).ctl n).cqs = (s.ctl n).cqs := by
  unfold State.dropNvme State.ctl tget
  dsimp only [State.modNvme]
  rw [tfind_tmap]
  cases tfind s.nvme.ctls n <;> exact ⟨rfl, rfl⟩

/-! ### Admin commands -/

theorem State.admin_of {s : State} {h : NvmeHdr} (ha : admits s h) (op : Nat) (f : State → State) {vf : Bool} (hvf : h.fn = 0 ∨ vf = true) :
    s.admin h op vf f = f (s.begin h op) := by
  unfold State.admin
  rw [if_neg (by rw [ha.1, ha.2]; simp), if_neg (by rcases hvf with hvf | hvf <;> simp [hvf])]

theorem State.admin_refused {s : State} {h : NvmeHdr} (ha : admits s h) (op : Nat) (f : State → State) (hfn : h.fn ≠ 0) :
    s.admin h op false f = (s.begin h op).nvDone h nvInvalidOpcode 0 0 := by
  unfold State.admin
  rw [if_neg (by rw [ha.1, ha.2]; simp), if_pos ⟨hfn, rfl⟩]

theorem State.setFeat_of {s : State} {h : NvmeHdr} (ha : admits s h) (fid : Nat) (f : State → State) (hfn : h.fn = 0 ∨ driveFeat fid = false) :
    s.setFeat h fid f = f (s.begin h 0x09) :=
  (State.admin_of ha _ _ (.inr rfl)).trans (if_neg (by rcases hfn with hfn | hfn <;> simp [hfn]))

theorem State.setFeat_refused {s : State} {h : NvmeHdr} (ha : admits s h) (fid : Nat) (f : State → State) (hfn : h.fn ≠ 0) (hfid : driveFeat fid = true) :
    s.setFeat h fid f = (s.begin h 0x09).nvDone h nvNotChangeable 0 0 :=
  (State.admin_of ha _ _ (.inr rfl)).trans (if_pos ⟨hfn, hfid⟩)

end Sys2Proof.Machine

namespace Sys2Proof.Proofs
-- One thread elaborates these proofs: in parallel they ask for more stacks than the check allows.
set_option Elab.async false
open Sys2Proof.Machine Sys2Proof.Claims

/-- One more command is fetched (R309). -/
theorem State.fetchNvme_spec {u : State} {fn sqid cid : Nat} (op : Nat) (hfresh : ∀ o ∈ u.nvme.outstanding, ¬ (o.1.fn = fn ∧ o.1.sqid = sqid ∧ o.1.cid = cid)) :
    let h : NvmeHdr := { fn := fn, sqid := sqid, cid := cid, nsid := 0 }
    let t := u.fetchNvme fn sqid (cid, op)
    (∀ n : Nat, t.ctl n = u.ctl n) ∧
    (supported fn sqid op = true → t.nvme.outstanding = u.nvme.outstanding ++ [(h, op, u.time.now)] ∧ t.nvme.out = u.nvme.out) ∧
    (supported fn sqid op = false → t.nvme.outstanding = u.nvme.outstanding ∧ t.nvme.out = u.nvme.out ++ [cplOf h nvInvalidOpcode 0]) := by
  intro h t
  let u1 := u.modNvme (fun n => { n with outstanding := n.outstanding ++ [(h, op, u.time.now)] })
  have ht : t = if supported fn sqid op then u1 else u1.nvDone h nvInvalidOpcode 0 0 := rfl
  have hquiet := State.nvDone_quiet (st := nvInvalidOpcode) (by decide) u1 h 0 0
  by_cases hs : supported fn sqid op = true
  · rw [if_pos hs] at ht
    rw [ht]
    exact ⟨fun _ => rfl, fun _ => ⟨rfl, rfl⟩, fun hc => absurd (hs.symm.trans hc) (by decide)⟩
  · rw [if_neg hs] at ht
    rw [ht]
    refine ⟨fun n => State.nvDone_ctl (by decide) u1 h 0 0 n, fun hc => absurd hc hs, fun _ => ?_⟩
    rw [hquiet]
    refine ⟨?_, rfl⟩
    show (u.nvme.outstanding ++ [_]).filter _ = _
    rw [List.filter_append, List.filter_cons_of_neg (by simp [same_self]), List.filter_nil, List.append_nil]
    refine List.filter_eq_self.mpr (fun o ho => ?_)
    rw [Bool.eq_false_iff.mpr (fun hc => hfresh o ho ((same_iff _ _).mp hc))]
    rfl

theorem doorbell_holds : doorbell := by
  intro fn sqid tail cid op q s hlinked hready hfn hctl hfresh hcount h known fetched refused
  have hfree : [(cid, op)].all (fun c => !s.nvme.outstanding.any (fun o => o.1.same { fn := fn, sqid := sqid, cid := c.1, nsid := 0 })) = true := by
    simp only [List.all_cons, List.all_nil, Bool.and_true, Bool.not_eq_true', List.any_eq_false]
    intro o ho hsame
    exact hfresh o ho ((same_iff _ _).mp hsame)
  have hroom : s.nvme.outstanding.countP (fun o => o.1.fn == fn) + [(cid, op)].length ≤ 4096 := by
    rw [List.countP_eq_length_filter]
    exact hcount
  have hexec := (if_pos ⟨hlinked, hready, hfn, hctl, hfree, hroom⟩ : exec (.nvmeSqDoorbell fn sqid tail [(cid, op)]) s = _)
  have hknown : supported fn sqid op = true ↔ op ∈ known := by
    show (if sqid ≠ 0 then nvmOps.contains op else if fn = 0 then adminOps.contains op else vfOps.contains op) = true ↔ _
    unfold known
    by_cases h0 : sqid = 0
    · rw [if_neg (not_not.mpr h0), if_pos h0]
      split <;> exact List.contains_iff_mem
    · rw [if_pos h0, if_neg h0]
      exact List.contains_iff_mem
  have hunknown : op ∉ known → supported fn sqid op = false := fun hn => Bool.eq_false_iff.mpr (fun hc => hn (hknown.mp hc))
  have hfetch (u : State) (hout : u.nvme.outstanding = s.nvme.outstanding) (ho : u.nvme.out = s.nvme.out) (htime : u.time.now = s.time.now) :
      (∀ n : Nat, (u.fetchNvme fn sqid (cid, op)).ctl n = u.ctl n) ∧ (op ∈ known → fetched (u.fetchNvme fn sqid (cid, op))) ∧
        (op ∉ known → refused (u.fetchNvme fn sqid (cid, op))) := by
    obtain ⟨hctls, hok, hbad⟩ := State.fetchNvme_spec (u := u) (fn := fn) (sqid := sqid) (cid := cid) op (by rw [hout]; exact hfresh)
    rw [hout, ho, htime] at hok
    rw [hout, ho] at hbad
    exact ⟨hctls, fun hk => hok (hknown.mpr hk), fun hk => hbad (hunknown hk)⟩
  have hwake : s.wake.time.now = s.time.now := congrArg TimeSt.now (State.wake_frame s).time_eq
  refine ⟨fun h0 => ?_, fun h0 hq htail hqt hnext hsize => ?_⟩
  · obtain ⟨hctls, hok, hbad⟩ := hfetch s.wake (by rw [State.wake_nvme]) (by rw [State.wake_nvme]) hwake
    subst h0
    exact ⟨_, hexec.trans (if_pos rfl), (hctls fn).trans (State.ctl_of_nvme (by rw [State.wake_nvme]) fn), hok, hbad⟩
  · let u := s.wake.modCtl fn (fun c => { c with sqs := tset c.sqs sqid { q with tail := tail } })
    have hlen : ¬ (q.size ≤ tail ∨ [(cid, op)].length ≠ (tail + q.size - q.tail) % q.size) := by
      rintro (hc | hc)
      · omega
      · refine hc ?_
        show 1 = _
        by_cases hwrap : q.tail + 1 < q.size
        · rw [hnext, Nat.mod_eq_of_lt hwrap, show q.tail + 1 + q.size - q.tail = 1 + q.size by omega, Nat.add_mod_right, Nat.mod_eq_of_lt hsize]
        · have hlast : q.tail + 1 = q.size := by omega
          rw [hnext, hlast, Nat.mod_self, show 0 + q.size - q.tail = 1 by omega, Nat.mod_eq_of_lt hsize]
    have hexec : exec (.nvmeSqDoorbell fn sqid tail [(cid, op)]) s = .next (u.fetchNvme fn sqid (cid, op)) := by
      refine hexec.trans ((if_neg h0).trans ?_)
      rw [hq]
      exact if_neg hlen
    obtain ⟨hctls, hok, hbad⟩ := hfetch u (by show s.wake.nvme.outstanding = _; rw [State.wake_nvme]) (by show s.wake.nvme.out = _; rw [State.wake_nvme]) hwake
    refine ⟨_, hexec, ?_, hok, hbad⟩
    rw [hctls, State.ctl_modCtl]
    exact tfind_tset_same _ _ _

theorem vfRefused_holds : vfRefused := by
  intro h s ha hfn
  have hadmin (c : Instr) (op : Nat) (f : State → State) (hexec : exec c s = .next (s.admin h op false f)) :
      answered c s h nvInvalidOpcode 0 (quietNvme s h) := by
    have hb := s.begin_begun h op
    exact answered_of (hexec.trans (congrArg Host.Outcome.next (State.admin_refused ha op f hfn))) (by decide) hb.pending (hb.quiet (by decide) 0 0)
  have hfeat (c : Instr) (fid : Nat) (f : State → State) (hexec : exec c s = .next (s.setFeat h fid f)) (hfid : driveFeat fid = true) :
      answered c s h nvNotChangeable 0 (fun t => quietNvme s h t ∧ t.nvme.wce = s.nvme.wce ∧ t.nvme.apst = s.nvme.apst ∧ t.store = s.store) := by
    have hb := s.begin_begun h 0x09
    refine answered_of (hexec.trans (congrArg Host.Outcome.next (State.setFeat_refused ha fid f hfn hfid))) (by decide) hb.pending
      ⟨hb.quiet (by decide) 0 0, ?_, ?_, (State.nvDone_frame _ _ _ _ _).store_eq.trans hb.frame.store_eq⟩
    all_goals rw [State.nvDone_quiet (by decide), hb.nvme]
  constructor
  · rintro c (⟨a, b, d, rfl⟩ | rfl | ⟨a, l, rfl⟩ | ⟨a, l, rfl⟩ | ⟨a, b, i, rfl⟩ | ⟨a, b, d, e, rfl⟩ | ⟨o, rfl⟩ | ⟨a, rfl⟩ | rfl | rfl)
    all_goals exact hadmin _ _ _ rfl
  · rintro c (⟨v, rfl | rfl⟩ | ⟨e, l, rfl⟩ | ⟨n, rfl⟩)
    all_goals exact hfeat _ _ _ rfl rfl

theorem ioQueues_holds : ioQueues := by
  intro h qid size x ien s ha c top
  have hmax (op : Nat) (sub : Bool) : (s.begin h op).maxQueues h.fn sub ≤ top ∧ (tfind c.feats 0x07 = none → (s.begin h op).maxQueues h.fn sub = top) := by
    unfold State.maxQueues
    rw [(s.begin_begun h op).ctl]
    dsimp only
    split
    · next v hv => exact ⟨Nat.min_le_left _ _, fun hn => absurd (hn.symm.trans hv) (by rintro ⟨⟩)⟩
    · exact ⟨Nat.le_refl _, fun _ => rfl⟩
  have hctl (op : Nat) : (s.begin h op).ctl h.fn = c := (s.begin_begun h op).ctl h.fn
  have hchanged (op : Nat) (f : Ctl → Ctl) : (((s.begin h op).modCtl h.fn f).nvDone h nvOk 0 0).ctl h.fn = f c := by
    rw [State.nvDone_ctl (by decide), State.ctl_modCtl, hctl]
  refine ⟨fun hfeat h1 htop hnew hcq hmin hbig => ?_, fun hfeat h1 htop hnew hmin hbig hx => ?_, fun hbad => ?_, fun q h0 hq hnone => ?_,
    fun q hq hfree => ?_, fun q y hq hy hlink => ?_⟩
  · refine answered_of (v := (s.begin h 0x01).modCtl h.fn (fun c => { c with sqs := tset c.sqs qid { size := size, tail := 0, link := x, irq := false } }))
      (congrArg Host.Outcome.next ((State.admin_of ha 0x01 _ (.inr rfl)).trans ?_)) (by decide) (s.begin_begun h 0x01).pending (hchanged _ _)
    dsimp only
    rw [hctl, if_neg, if_neg, if_neg]
    · omega
    · rw [Option.isNone_iff_eq_none]
      intro hc
      rw [hc] at hcq
      cases hcq
    · rw [(hmax 0x01 true).2 hfeat, hnew]
      rintro (hc | hc | hc)
      · omega
      · omega
      · cases hc
  · refine answered_of (v := (s.begin h 0x05).modCtl h.fn (fun c => { c with cqs := tset c.cqs qid { size := size, tail := 0, link := x, irq := ien } }))
      (congrArg Host.Outcome.next ((State.admin_of ha 0x05 _ (.inr rfl)).trans ?_)) (by decide) (s.begin_begun h 0x05).pending (hchanged _ _)
    dsimp only
    rw [hctl, if_neg, if_neg, if_neg]
    · rintro ⟨-, hc⟩
      omega
    · omega
    · rw [(hmax 0x05 false).2 hfeat, hnew]
      rintro (hc | hc | hc)
      · omega
      · omega
      · cases hc
  · have hb := s.begin_begun h 0x01
    refine answered_of (congrArg Host.Outcome.next ((State.admin_of ha 0x01 _ (.inr rfl)).trans (if_pos ?_))) (by decide) hb.pending (hb.quiet (by decide) 0 0)
    rw [hctl]
    exact hbad.imp_right (fun hc => hc.imp_left (fun hc => Nat.lt_of_le_of_lt (hmax 0x01 true).1 hc))
  · have hb := s.begin_begun h 0x00
    let f (y : NvmeHdr) : Bool := y.fn == h.fn && y.sqid == qid
    have hf : ∀ o ∈ (s.begin h 0x00).nvme.outstanding, f o.1 = false := by
      intro o ho
      refine Bool.eq_false_iff.mpr (fun hc => ?_)
      simp only [f, Bool.and_eq_true, beq_iff_eq] at hc
      rcases hb.outstanding ho with hs | hs
      · exact h0 (hc.2.symm.trans (((same_iff _ _).mp hs).2.1.trans ha.1))
      · exact hnone o (List.mem_filter.mp hs).1 hc
    have hend : (s.begin h 0x00).endNvme f nvSqDeleted = (s.begin h 0x00).dropNvme f := by
      unfold State.endNvme
      rw [List.filter_eq_nil_iff.mpr (fun o ho => by rw [hf o ho]; decide)]
      rfl
    have hpend : ((s.begin h 0x00).dropNvme f).nvme.outstanding = (s.begin h 0x00).nvme.outstanding :=
      List.filter_eq_self.mpr (fun o ho => by rw [hf o ho]; rfl)
    obtain ⟨hsqs, hcqs⟩ := (s.begin h 0x00).dropNvme_queues f h.fn
    rw [hctl] at hsqs hcqs
    refine answered_of (lba := 0) (v := ((s.begin h 0x00).dropNvme f).modCtl h.fn (fun c => { c with sqs := tdel c.sqs qid }))
      (congrArg Host.Outcome.next ((State.admin_of ha 0x00 _ (.inr rfl)).trans ?_)) (by decide) ⟨hb.out, ?_⟩ ?_
    · rw [hctl, hq, if_neg (by simp)]
      dsimp only
      rw [hend]
    · show ((s.begin h 0x00).dropNvme f).nvme.outstanding.filter _ = _
      rw [hpend]
      exact hb.rest
    · rw [State.nvDone_ctl (by decide), State.ctl_modCtl]
      exact ⟨congrArg (fun l => tdel l qid) hsqs, hcqs⟩
  · have hb := s.begin_begun h 0x04
    refine answered_of (v := (s.begin h 0x04).modCtl h.fn (fun c => { c with cqs := tdel c.cqs qid }))
      (congrArg Host.Outcome.next ((State.admin_of ha 0x04 _ (.inr rfl)).trans ?_)) (by decide) hb.pending (hchanged _ _)
    have hany : c.sqs.any (fun q => q.2.link == qid) = false :=
      List.any_eq_false.mpr (fun y hy hc => hfree y hy (beq_iff_eq.mp hc))
    dsimp only
    rw [hctl, hq, if_neg (by simp), if_neg (by rw [hany]; decide)]
  · have hb := s.begin_begun h 0x04
    refine answered_of (congrArg Host.Outcome.next ((State.admin_of ha 0x04 _ (.inr rfl)).trans ?_)) (by decide) hb.pending (hb.quiet (by decide) 0 0)
    have hany : c.sqs.any (fun q => q.2.link == qid) = true := List.any_eq_true.mpr ⟨(size, y), hy, beq_iff_eq.mpr hlink⟩
    dsimp only
    rw [hctl, hq, if_neg (by simp), if_pos hany]

theorem abortCommand_holds : abortCommand := by
  intro h e op at' s ha hfn hq hout
  have hb := s.begin_begun h 0x08
  let u := s.begin h 0x08
  let f (x : NvmeHdr) : Bool := x.fn == h.fn && x.sqid == e.h.sqid && x.cid == e.h.cid
  have hfe : f e.h = true := by simp [f, hfn]
  have hne : e.h.same h = false := Bool.eq_false_iff.mpr (fun hc => hq (((same_iff _ _).mp hc).2.1.trans ha.1))
  have hothers : s.nvme.outstanding.filter (fun o => !o.1.same h) = [(e.h, op, at')] := by
    rw [hout, List.filter_cons_of_pos (by rw [hne]; rfl), List.filter_nil]
  have hmine : ∀ o ∈ u.nvme.outstanding, f o.1 = true → o.1.same h = false := by
    intro o ho hf
    refine Bool.eq_false_iff.mpr (fun hc => hq ?_)
    simp only [f, Bool.and_eq_true, beq_iff_eq] at hf
    exact hf.1.2.symm.trans (((same_iff _ _).mp hc).2.1.trans ha.1)
  have hexec : exec (.nvmeAbort h e.h.sqid e.h.cid) s = .next (if u.nvme.outstanding.any (fun o => f o.1 && !o.1.same h) ∧
      u.nvme.cache.any (fun e => !e.completed && f e.h) = false then (u.endNvme f nvAborted).nvDone h nvOk 0 0 else u.nvDone h nvOk 1 0) :=
    congrArg Host.Outcome.next (State.admin_of ha 0x08 _ (.inr rfl))
  refine ⟨fun hwait hcache => ?_, fun hcache hopen => ?_⟩
  · have hgone : u.nvme.outstanding.filter (fun o => f o.1) = [(e.h, op, at')] := by
      have hsplit : u.nvme.outstanding.filter (fun o => f o.1) = (u.nvme.outstanding.filter (fun o => !o.1.same h)).filter (fun o => f o.1) := by
        rw [List.filter_filter]
        refine List.filter_congr (fun o ho => ?_)
        cases hf : f o.1 with
        | false => rfl
        | true => rw [hmine o ho hf]; rfl
      rw [hsplit, hb.rest, hothers]
      exact List.filter_cons_of_pos (p := fun o : NvmeHdr × Nat × Nat => f o.1) hfe
    have hmem : (e.h, op, at') ∈ u.nvme.outstanding := (List.mem_filter.mp (hgone ▸ List.mem_singleton_self (e.h, op, at'))).1
    have hany : u.nvme.outstanding.any (fun o => f o.1 && !o.1.same h) = true :=
      List.any_eq_true.mpr ⟨_, hmem, by rw [hfe, hne]; rfl⟩
    have hnone : u.nvme.cache.any (fun e => !e.completed && f e.h) = false := by
      rw [hb.nvme, hcache]
      rfl
    have hend : u.endNvme f nvAborted = (u.dropNvme f).nvDone e.h nvAborted 0 0 := by
      unfold State.endNvme
      rw [hgone]
      rfl
    rw [if_pos ⟨hany, hnone⟩, hend] at hexec
    refine ⟨_, hexec, ?_, ?_, ?_⟩
    all_goals rw [State.nvDone_quiet (st := nvOk) (by decide), State.nvDone_quiet (st := nvAborted) (by decide)]
    · show (u.nvme.out ++ _) ++ _ = _
      rw [hb.out, List.append_assoc]
      rfl
    · show u.nvme.waiting.filter (fun e => !f e.h) = []
      rw [hb.nvme, hwait, List.filter_cons_of_neg (by rw [hfe]; decide), List.filter_nil]
    · refine List.filter_eq_nil_iff.mpr (fun o ho => ?_)
      obtain ⟨ho, -⟩ := List.mem_filter.mp ho
      obtain ⟨ho, hnf⟩ := List.mem_filter.mp ho
      rcases hb.outstanding ho with hs | hs
      · rw [hs]
        decide
      · rw [hothers, List.mem_singleton] at hs
        rw [hs, hfe] at hnf
        cases hnf
  · have hany : u.nvme.cache.any (fun e => !e.completed && f e.h) = true := by
      rw [hb.nvme, hcache]
      simp [hopen, hfe]
    rw [if_neg (fun hc => absurd (hany.symm.trans hc.2) (by decide))] at hexec
    refine answered_of hexec (by decide) hb.pending ?_
    rw [State.nvDone_quiet (by decide), hb.nvme]
    exact hcache

theorem eventRequest_holds : eventRequest := by
  intro h s ha hroom
  have hb := s.begin_begun h 0x0C
  have hctl := hb.ctl h.fn
  have hexec : exec (.asyncEventRequest h) s = .next _ := congrArg Host.Outcome.next (State.admin_of ha 0x0C _ (.inr rfl))
  dsimp only at hexec
  rw [hctl, if_neg (Nat.not_le.mpr hroom)] at hexec
  refine ⟨fun dw l hheld => ?_, fun hheld => ?_⟩
  · rw [hheld] at hexec
    refine answered_of (v := (s.begin h 0x0C).modCtl h.fn (fun c => { c with held := l })) hexec (by decide) hb.pending ?_
    rw [State.nvDone_ctl (by decide), State.ctl_modCtl, hctl]
  · rw [hheld] at hexec
    refine ⟨_, hexec, hb.out, ?_⟩
    rw [State.ctl_modCtl, hctl]

/-- Settles O49. -/
theorem nvmeQueues : Obligations.NvmeQueues :=
  ⟨doorbell_holds, vfRefused_holds, ioQueues_holds, abortCommand_holds, eventRequest_holds⟩

end Sys2Proof.Proofs

/-! The features of the controllers: O50. -/

namespace Sys2Proof.Machine
-- One thread elaborates these proofs: in parallel they ask for more stacks than the check allows.
set_option Elab.async false
open Sys2Proof.Claims

/-! ### What an event leaves -/

/-- What the host was given before an event stays. -/
theorem State.asyncEvent_out {s : State} {c : NvmeCpl} (fn dw : Nat) (hc : c ∈ s.nvme.out) : c ∈ (s.asyncEvent fn dw).nvme.out := by
  unfold State.asyncEvent
  split
  · exact hc
  · rw [State.cpl_nvme]
    exact List.mem_append_left _ hc

theorem pendingOnly_of {s u v : State} {h : NvmeHdr} (hp : pendingOnly s u h) (hv : v.nvme = u.nvme) : pendingOnly s v h := by
  unfold pendingOnly
  rw [hv]
  exact hp

/-! ### Bytes of host memory -/

/-- What is read of a part of what was written. -/
theorem mread_mwrite_slice {m : Mem} (hm : Mem.wf m = true) (a : Nat) {bs : List Byte} {k n : Nat} (h : k + n ≤ bs.length) :
    mread (mwrite m a bs) (a + k) n = slice bs k n := by
  unfold mread slice
  refine List.ext_getElem ?_ (fun i h1 h2 => ?_)
  · rw [List.length_map, List.length_range, List.length_take, List.length_drop]
    omega
  · rw [List.length_map, List.length_range] at h1
    rw [List.getElem_map, List.getElem_range, List.getElem_take, List.getElem_drop, Nat.add_assoc, mget_mwrite_at _ _ hm (by omega),
      List.getD_eq_getElem _ _ (by omega)]

/-! ### The release of a lacuna record -/

/-- A lacuna record names an object that its KCI commands were to write. -/
def names (l : List LacunaRec) (o : ObjectSt) : Bool := l.any (fun x => x.kcis.any (fun k => k.oid != 0 && k.oid == o.oid && k.part == o.part))

/-- What LACUNA_RELEASE does of a record that is held (R342). -/
def State.released (s : State) (r : LacunaRec) : State :=
  let rest := s.store.lacuna.filter (fun x => x.seq != r.seq)
  let s1 := s.modStore (fun t => { t with lacuna := rest })
  let s2 := r.place.foldl (fun s k => (s.queueErase (s.store.sector (4 + 2 * k))).queueErase (s.store.sector (5 + 2 * k))) s1
  let s3 := s2.modObjs (fun l => tmap l (fun _ o => if names [r] o ∧ names (rest ++ s.store.hole) o = false then { o with mark := false } else o))
  if s.store.hole = [] then s3 else s3.modStore (fun t => { t with queue := t.queue ++ [{ kind := .lacunaCopy }] })

theorem execLacunaRelease_eq (h : NvmeHdr) (n : Nat) (s : State) : exec (.lacunaRelease h n) s = .next (s.setFeat h 0xC0 (fun s =>
    match s.store.lacuna.find? (fun r => r.seq % 2 ^ 32 == n % 2 ^ 32) with
    | none => s.nvDone h nvInvalidField 0 0
    | some r => (s.released r).nvDone h nvOk 0 0)) := rfl

/-- The only record is released: its slot is to be erased, and its marks go. -/
theorem State.released_only {s : State} {r : LacunaRec} {k : Nat} (hlac : s.store.lacuna = [r]) (hhole : s.store.hole = []) (hplace : r.place = [k]) :
    s.released r = { s with
      store := { s.store with lacuna := [], queue := s.store.queue ++
        [{ kind := .erase (s.store.sector (4 + 2 * k)) }, { kind := .erase (s.store.sector (5 + 2 * k)) }] }
      objs := tmap s.objs (fun _ o => if names [r] o then { o with mark := false } else o) } := by
  have hrest : s.store.lacuna.filter (fun x => x.seq != r.seq) = [] := by
    rw [hlac]
    exact List.filter_cons_of_neg (by simp)
  have hmark : (fun (_ : Nat) (o : ObjectSt) => if names [r] o ∧ names ([] ++ []) o = false then { o with mark := false } else o) =
      fun _ o => if names [r] o then { o with mark := false } else o := by
    funext _ o
    exact if_congr (and_iff_left rfl) rfl rfl
  unfold State.released
  rw [hrest, hhole, hplace]
  dsimp only
  rw [hmark, if_pos rfl, List.foldl_cons, List.foldl_nil]
  unfold State.modObjs State.queueErase State.modStore
  dsimp only
  rw [List.append_assoc]
  rfl

end Sys2Proof.Machine

namespace Sys2Proof.Proofs
-- One thread elaborates these proofs: in parallel they ask for more stacks than the check allows.
set_option Elab.async false
open Sys2Proof.Machine Sys2Proof.Claims

/-- A feature that is only kept. -/
theorem keeps_of {c : Instr} {h : NvmeHdr} {key : Nat} {v : BitVec 32} (fid : Nat) (hfid : driveFeat fid = false)
    (hexec : ∀ s : State, exec c s = .next (s.setFeat h fid (fun s => s.keepFeat h key v))) : keeps c h key v := by
  intro s ha
  have hb := s.begin_begun h 0x09
  refine answered_of (v := (s.begin h 0x09).modCtl h.fn (fun c => { c with feats := tset c.feats key v }))
    ((hexec s).trans (congrArg Host.Outcome.next (State.setFeat_of ha fid _ (.inr hfid)))) (by decide) hb.pending ?_
  rw [State.nvDone_ctl (by decide), State.ctl_modCtl, hb.ctl]

theorem keptFeatures_holds : keptFeatures := by
  intro h v
  refine ⟨keeps_of 0x01 rfl (fun _ => rfl), keeps_of 0x08 rfl (fun _ => rfl), keeps_of 0x09 rfl (fun _ => rfl), keeps_of 0x0A rfl (fun _ => rfl),
    keeps_of 0x0B rfl (fun _ => rfl), fun s ha => ?_⟩
  have hb := s.begin_begun h 0x09
  let key := 0x04 + 256 * bits v.toNat 21 16
  let w := ((s.begin h 0x09).modCtl h.fn (fun c => { c with feats := tset c.feats key (v &&& 0xFFFF) })).nvDone h nvOk 0 0
  have hexec : exec (.setTemperatureThreshold h v) s = .next (w.checkTemp h.fn) :=
    congrArg Host.Outcome.next (State.setFeat_of ha 0x04 _ (.inr rfl))
  have hout : cplOf h nvOk 0 ∈ w.nvme.out := by
    unfold w
    rw [State.nvDone_quiet (by decide)]
    exact List.mem_append_right _ (List.mem_singleton_self _)
  have hfeats : (w.ctl h.fn).feats = tset (s.ctl h.fn).feats key (v &&& 0xFFFF) := by
    unfold w
    rw [State.nvDone_ctl (by decide), State.ctl_modCtl, hb.ctl]
  refine ⟨_, hexec, ?_⟩
  unfold State.checkTemp
  dsimp only
  split
  · obtain ⟨_, _, hctl⟩ := w.asyncEvent_ctl h.fn (eventDw 1 1 0x02)
    exact ⟨State.asyncEvent_out _ _ hout, (congrArg Ctl.feats hctl).trans hfeats⟩
  · exact ⟨hout, hfeats⟩

theorem powerManagement_holds : powerManagement := by
  intro h v s ha hfn hps ps
  have hb := s.begin_begun h 0x09
  have hpow := hb.pstate hps
  have hnone : (s.begin h 0x09).power.lowPending = none := congrArg PowerSt.lowPending hb.power
  have hexec : exec (.setPowerManagement h v) s = .next (if 5 < ps then (s.begin h 0x09).nvDone h nvInvalidField 0 0
      else if ps ≤ 3 then ((s.begin h 0x09).setPstate ps).nvDone h nvOk 0 0
      else ((s.begin h 0x09).modPower (fun p => { p with lowPending := some ps })).nvDone h nvOk 0 0) :=
    congrArg Host.Outcome.next (State.setFeat_of ha 0x02 _ (.inl hfn))
  have hdone {st : NvmeSts} (u : State) : (u.nvDone h st 0 0).power = u.power := (State.nvDone_frame _ _ _ _ _).power_eq
  refine ⟨fun h3 => ?_, fun h45 => ?_, fun h5 => ?_⟩
  · rw [if_neg (by omega), if_pos h3] at hexec
    have hsame := (State.setPstate_frame (s.begin h 0x09) ps).nvme_eq
    refine answered_of hexec (by decide) (pendingOnly_of hb.pending hsame) ?_
    obtain ⟨rs, hset⟩ := State.setPstate_power (s.begin h 0x09) ps
    rw [hdone, hset]
    exact ⟨rfl, rfl⟩
  · rw [if_neg (by omega), if_neg (by omega)] at hexec
    refine answered_of hexec (by decide) hb.pending ?_
    rw [hdone]
    exact ⟨hpow, rfl⟩
  · rw [if_pos h5] at hexec
    refine answered_of hexec (by decide) hb.pending ?_
    rw [hdone]
    exact ⟨hpow, hnone⟩

theorem driveFeatures_holds : driveFeatures := by
  intro h v e l ms s ha
  have hb := s.begin_begun h 0x09
  have hctl := hb.ctl h.fn
  refine ⟨fun hfn => ?_, ?_, fun hfn hlen hall => ?_, fun hfn hbad => ?_, ?_⟩
  · refine answered_of (v := (s.begin h 0x09).modNvme (fun n => { n with wce := bit v.toNat 0 }))
      (congrArg Host.Outcome.next (State.setFeat_of ha 0x06 _ (.inl hfn))) (by decide) hb.pending ⟨by rw [State.nvDone_quiet (by decide)]; rfl, ?_⟩
    unfold quietNvme
    rw [State.nvDone_ctl (by decide), State.nvDone_quiet (by decide)]
    refine ⟨hctl, ?_⟩
    dsimp only [State.modNvme]
    rw [hb.nvme]
    exact ⟨rfl, rfl, rfl⟩
  · intro hsqs hcqs h1 h2 top g
    refine answered_of (lba := 0) (v := (s.begin h 0x09).modCtl h.fn (fun c => { c with feats := tset c.feats 0x07 (BitVec.ofNat 32 g) }))
      (congrArg Host.Outcome.next ((State.setFeat_of ha 0x07 _ (.inr rfl)).trans ?_)) (by decide) hb.pending ?_
    · dsimp only
      rw [hctl, hsqs, hcqs, if_neg (by simp [h1, h2]), if_neg (by simp)]
    · rw [State.nvDone_ctl (by decide), State.ctl_modCtl, hctl]
  · have hany : ¬ l.any (fun e => e.2 != 0 && e.1 != 4 && e.1 != 5) = true := by
      intro hc
      obtain ⟨x, hx, hc⟩ := List.any_eq_true.mp hc
      simp only [Bool.and_eq_true, bne_iff_ne] at hc
      obtain ⟨⟨h0, h4⟩, h5⟩ := hc
      rcases hall x hx with hx | hx | hx
      · exact h0 hx
      · exact h4 hx
      · exact h5 hx
    refine answered_of (v := (s.begin h 0x09).modNvme (fun n => { n with apst := e, apstTable := l.take 32 }))
      (congrArg Host.Outcome.next ((State.setFeat_of ha 0x0C _ (.inl hfn)).trans (if_neg hany))) (by decide) hb.pending ?_
    rw [State.nvDone_quiet (by decide)]
    exact ⟨rfl, List.take_of_length_le hlen⟩
  · obtain ⟨x, hx, h0, h4, h5⟩ := hbad
    have hany : l.any (fun e => e.2 != 0 && e.1 != 4 && e.1 != 5) = true := List.any_eq_true.mpr ⟨x, hx, by simp [h0, h4, h5]⟩
    refine answered_of (congrArg Host.Outcome.next ((State.setFeat_of ha 0x0C _ (.inl hfn)).trans (if_pos hany))) (by decide) hb.pending ?_
    rw [State.nvDone_quiet (by decide), hb.nvme]
    exact ⟨rfl, rfl⟩
  · intro was w
    have htime : (s.begin h 0x09).time = s.time := hb.frame.time_eq
    have hledger : (s.begin h 0x09).ledger = s.ledger := hb.frame.ledger_eq
    let s1 := (s.begin h 0x09).modCtl h.fn (fun c => { c with tsValue := w, tsAt := s.time.now, tsSet := true })
    let s2 := if w < was ∧ s.ledger.isOpen = true then s1.modLedger (fun l => { l with flags := 1, regressions := satAdd 32 l.regressions 1 }) else s1
    have hnvme : s2.nvme = s1.nvme := by
      unfold s2
      split <;> rfl
    have hexec : exec (.setTimestamp h ms) s = .next (s2.nvDone h nvOk 0 0) := by
      refine congrArg Host.Outcome.next ((State.setFeat_of ha 0x0E _ (.inr rfl)).trans ?_)
      dsimp only
      rw [hctl, htime, hledger]
      simp only [decide_eq_true_eq]
      rfl
    have hdone := State.nvDone_frame s2 h nvOk 0 0
    have hleft (t : LedgerSt) (ht : s2.ledger = t) : (s2.nvDone h nvOk 0 0).ledger = t := hdone.ledger_eq.trans ht
    refine answered_of hexec (by decide) (pendingOnly_of (u := s1) hb.pending hnvme) ⟨?_, fun hlt hopen => hleft _ ?_, fun hnot => hleft _ ?_, ?_⟩
    · rw [State.nvDone_ctl (by decide), State.ctl_of_nvme (s := s1) (by rw [hnvme]), State.ctl_modCtl, hctl]
    · unfold s2
      rw [if_pos ⟨hlt, hopen⟩]
      show ({ s1.ledger with flags := 1, regressions := satAdd 32 s1.ledger.regressions 1 } : LedgerSt) = _
      rw [show s1.ledger = s.ledger from hledger]
    · unfold s2
      rw [if_neg]
      · exact hledger
      · rintro ⟨hlt, hopen⟩
        rcases hnot with hn | hn
        · omega
        · rw [hopen] at hn
          cases hn
    · refine hdone.time_eq.trans ?_
      unfold s2
      split <;> exact htime

theorem featuresRead_holds : featuresRead := by
  intro h dst s ha hwf hps hpend c get
  have hb := s.begin_begun h 0x0A
  have hctl : (s.begin h 0x0A).ctl h.fn = c := hb.ctl h.fn
  have hpower : (s.begin h 0x0A).power.lowPending = none := congrArg PowerSt.lowPending hb.power
  have hget (fid d0 : Nat) (hexec : exec (.getFeatures h fid 0 dst) s = .next ((s.begin h 0x0A).nvDone h nvOk d0 0)) : get fid d0 :=
    answered_of hexec (by decide) hb.pending (hb.quiet (by decide) d0 0)
  have hexec (fid : Nat) : exec (.getFeatures h fid 0 dst) s = _ := congrArg Host.Outcome.next (State.admin_of ha 0x0A _ (.inr rfl))
  dsimp only at hexec
  simp only [hctl, hpower] at hexec
  have hpst : (s.begin h 0x0A).power.pstate = s.power.pstate := hb.pstate hps
  have hsame : (s.begin h 0x0A).nvme.wce = s.nvme.wce ∧ (s.begin h 0x0A).nvme.apst = s.nvme.apst ∧ (s.begin h 0x0A).nvme.apstTable = s.nvme.apstTable := by
    rw [hb.nvme]
    exact ⟨rfl, rfl, rfl⟩
  obtain ⟨hwce, hapst, htable⟩ := hsame
  have hhost : (s.begin h 0x0A).host = s.host := hb.frame.host_eq
  have htime : (s.begin h 0x0A).time = s.time := hb.frame.time_eq
  have hput (bs : List Byte) (d0 : Nat) : (((s.begin h 0x0A).hostWrite dst bs).nvDone h nvOk d0 0).host = mwrite s.host dst bs := by
    rw [(State.nvDone_frame _ _ _ _ _).host_eq, State.hostWrite_host, hhost]
  refine ⟨hget _ _ ?_, hget _ _ ?_, hget _ _ ?_, fun fid v hfid hv => hget _ _ ?_, fun hnone => hget _ _ ?_, ?_, ?_, fun fid hfid => ?_⟩
  · exact (hexec 0x02).trans (by simp [hpst])
  · exact (hexec 0x06).trans (by simp [hwce, b2n])
  · exact (hexec 0xC0).trans (by simp)
  · have hfeat : c.feat fid = v.toNat := by
      unfold Ctl.feat
      rw [hv]
    simp only [List.mem_cons, List.not_mem_nil, or_false] at hfid
    rcases hfid with rfl | rfl | rfl | rfl | rfl | rfl <;> exact (hexec _).trans (by simp [hfeat, bits])
  · refine (hexec 0x07).trans ?_
    rw [hnone]
    by_cases hfn : h.fn = 0 <;> simp [hfn]
  · have he := hexec 0x0E
    simp only [htime] at he
    refine answered_of (lba := 0) (v := (s.begin h 0x0A).hostWrite dst (le 6 (c.hostTime s.time.now) ++ le 1 (2 * b2n c.tsSet) ++ zeros 1)) he (by decide) hb.pending ?_
    rw [hput]
    refine ⟨mread_mwrite_slice hwf dst (k := 0) (by simp [length_le, zeros_length]),
      (mread_mwrite_slice hwf dst (k := 6) (by simp [length_le, zeros_length])).trans ?_⟩
    show le 1 (2 * b2n c.tsSet) = _
    cases c.tsSet <;> rfl
  · have he := hexec 0x0C
    have hlen : 0 + 8 ≤ (apstBytes s.nvme.apstTable).length := by
      unfold apstBytes
      rw [List.length_flatMap]
      simp [length_le]
    have he' : exec (.getFeatures h 0x0C 0 dst) s = .next (((s.begin h 0x0A).hostWrite dst (apstBytes s.nvme.apstTable)).nvDone h nvOk
        (if s.nvme.apst then 1 else 0) 0) := he.trans (by simp [hapst, htable, b2n])
    refine answered_of he' (by decide) (pendingOnly_of hb.pending (State.hostWrite_nvme _ _ _)) ?_
    rw [hput]
    have hread := mread_mwrite_slice hwf dst hlen
    rw [Nat.add_zero] at hread
    rw [hread]
    unfold apstBytes slice
    rw [List.range_succ_eq_map, List.flatMap_cons, List.drop_zero, List.take_left' (length_le 8 _)]
  · simp only [List.mem_cons, List.not_mem_nil, or_false, not_or] at hfid
    refine answered_of ((hexec fid).trans ?_) (by decide) hb.pending (hb.quiet (by decide) 0 0)
    simp [hfid]

theorem release_holds : release := by
  intro h n s ha hfn
  have hb := s.begin_begun h 0x09
  have hstore : (s.begin h 0x09).store = s.store := hb.frame.store_eq
  have hobjs : (s.begin h 0x09).objs = s.objs := hb.frame.objs_eq
  have hexec : exec (.lacunaRelease h n) s = _ := (execLacunaRelease_eq h n s).trans (congrArg Host.Outcome.next (State.setFeat_of ha 0xC0 _ (.inl hfn)))
  generalize s.begin h 0x09 = u at hb hstore hobjs hexec
  rw [hstore] at hexec
  refine ⟨fun r k hlac hhole hseq hplace => ?_, fun hnone => ?_⟩
  · have hfind : s.store.lacuna.find? (fun r => r.seq % 2 ^ 32 == n % 2 ^ 32) = some r := by
      rw [hlac]
      exact List.find?_cons_of_pos (by simp [← hseq])
    rw [hfind] at hexec
    have hrel := State.released_only (s := u) (by rw [hstore]; exact hlac) (by rw [hstore]; exact hhole) hplace
    have hdone := State.nvDone_frame (u.released r) h nvOk 0 0
    have hnvme : (u.released r).nvme = u.nvme := (congrArg State.nvme hrel).trans rfl
    have hst := hdone.store_eq.trans (congrArg State.store hrel)
    have hob := hdone.objs_eq.trans (congrArg State.objs hrel)
    dsimp only at hst hob
    rw [hstore] at hst
    rw [hobjs] at hob
    refine answered_of hexec (by decide) (pendingOnly_of hb.pending hnvme) ⟨by rw [hst], by rw [hst], fun o x hx => ?_⟩
    have hx' : tfind s.objs o = some x := hx
    have hy : ((u.released r).nvDone h nvOk 0 0).obj? o = some (if names [r] x then { x with mark := false } else x) := by
      unfold State.obj?
      rw [hob, tfind_tmap, hx']
      rfl
    refine ⟨_, hy, ?_, fun hnamed => ?_, fun hfree => ?_⟩
    · split <;> rfl
    · obtain ⟨q, hq, h0, hoid, hpart⟩ := hnamed
      have hn : names [r] x = true := by
        unfold names
        simp only [List.any_cons, List.any_nil, Bool.or_false, List.any_eq_true]
        exact ⟨q, hq, by simp only [Bool.and_eq_true, bne_iff_ne, beq_iff_eq]; exact ⟨⟨h0, hoid⟩, hpart⟩⟩
      rw [if_pos hn]
    · have hn : ¬ names [r] x = true := by
        unfold names
        simp only [List.any_cons, List.any_nil, Bool.or_false, List.any_eq_true, Bool.and_eq_true, bne_iff_ne, beq_iff_eq]
        rintro ⟨q, hq, ⟨h0, hoid⟩, hpart⟩
        rcases hfree q hq with hf | hf | hf
        · exact h0 hf
        · exact hf hoid
        · exact hf hpart
      rw [if_neg hn]
  · have hfind : s.store.lacuna.find? (fun r => r.seq % 2 ^ 32 == n % 2 ^ 32) = none :=
      List.find?_eq_none.mpr (fun r hr => by simpa using hnone r hr)
    rw [hfind] at hexec
    have hdone := State.nvDone_frame u h nvInvalidField 0 0
    exact answered_of hexec (by decide) hb.pending ⟨hdone.store_eq.trans hstore, hdone.objs_eq.trans hobjs⟩

/-- Settles O50. -/
theorem nvmeFeatures : Obligations.NvmeFeatures :=
  ⟨keptFeatures_holds, powerManagement_holds, driveFeatures_holds, featuresRead_holds, release_holds⟩

end Sys2Proof.Proofs

/-! Identify, the log pages and the management interface: O51 and O52. -/

namespace Sys2Proof.Machine
-- One thread elaborates these proofs: in parallel they ask for more stacks than the check allows.
set_option Elab.async false
open Sys2Proof.Claims

/-! ### What stands in a page -/

/-- A page holds bytes at a place. -/
def has (p : List Byte) (k : Nat) (bs : List Byte) : Prop := slice p k bs.length = bs

theorem has_append {p : List Byte} {k : Nat} {x y : List Byte} (hx : has p k x) (hy : has p (k + x.length) y) : has p k (x ++ y) := by
  unfold has slice at *
  rw [List.length_append, List.take_add, List.drop_drop, hx, hy]

theorem has_self (p : List Byte) : has p 0 p := List.take_length

theorem has_start (p q : List Byte) : has (p ++ q) 0 p := List.take_left

/-- A page of fields holds a field at its place when none before it stands there. -/
theorem has_pageOver (draw : Nat) {n k : Nat} {bs : List Byte} (pre post : List (Nat × List Byte)) (hn : k + bs.length ≤ n)
    (hpre : ∀ f ∈ pre, f.1 + f.2.length ≤ k ∨ k + bs.length ≤ f.1) : has (pageOver draw n (pre ++ (k, bs) :: post)) k bs := by
  unfold has slice pageOver
  refine List.ext_getElem ?_ (fun i h1 h2 => ?_)
  · rw [List.length_take, List.length_drop, List.length_map, List.length_range]
    omega
  · have hnone : pre.find? (fun f => decide (f.1 ≤ k + i) && decide (k + i < f.1 + f.2.length)) = none := by
      refine List.find?_eq_none.mpr (fun f hf => ?_)
      have hfar := hpre f hf
      simp only [Bool.and_eq_true, decide_eq_true_eq]
      omega
    have hhere : (decide (k ≤ k + i) && decide (k + i < k + bs.length)) = true := by
      simp only [Bool.and_eq_true, decide_eq_true_eq]
      omega
    rw [List.getElem_take, List.getElem_drop, List.getElem_map, List.getElem_range, List.find?_append, hnone, Option.none_or,
      List.find?_cons_of_pos (by exact hhere)]
    dsimp only
    rw [Nat.add_sub_cancel_left, List.getD_eq_getElem _ _ h2]

/-- The i-th field of a page, when none before it stands at its place. -/
theorem has_field (draw : Nat) {n k : Nat} {bs : List Byte} {fs : List (Nat × List Byte)} (i : Nat) (hi : fs[i]? = some (k, bs)) (hn : k + bs.length ≤ n)
    (hpre : (fs.take i).all (fun f => decide (f.1 + f.2.length ≤ k ∨ k + bs.length ≤ f.1)) = true) : has (pageOver draw n fs) k bs := by
  obtain ⟨hlt, hget⟩ := List.getElem?_eq_some_iff.mp hi
  have hsplit : fs = fs.take i ++ (k, bs) :: fs.drop (i + 1) := by
    rw [← hget, ← List.drop_eq_getElem_cons hlt, List.take_append_drop]
  rw [hsplit]
  exact has_pageOver draw _ _ hn (fun f hf => of_decide_eq_true (List.all_eq_true.mp hpre f hf))

theorem pageOver_length (draw n : Nat) (fs : List (Nat × List Byte)) : (pageOver draw n fs).length = n := by
  unfold pageOver
  rw [List.length_map, List.length_range]

theorem has_length {p : List Byte} {k : Nat} {bs : List Byte} (h : has p k bs) : bs = [] ∨ k + bs.length ≤ p.length := by
  have hlen := congrArg List.length h
  unfold slice at hlen
  rw [List.length_take, List.length_drop] at hlen
  by_cases h0 : bs.length = 0
  · exact .inl (List.length_eq_zero_iff.mp h0)
  · exact .inr (by omega)

theorem has_left {p : List Byte} {k : Nat} {bs : List Byte} (h : has p k bs) (q : List Byte) : has (p ++ q) k bs := by
  rcases has_length h with rfl | hp
  · rfl
  · unfold has slice at *
    rw [List.drop_append_of_le_length (by omega), List.take_append_of_le_length, h]
    rw [List.length_drop]
    omega

theorem has_right {q : List Byte} {k : Nat} {bs : List Byte} (h : has q k bs) (p : List Byte) : has (p ++ q) (p.length + k) bs := by
  unfold has slice at *
  rw [← List.drop_drop, List.drop_left]
  exact h

/-- A part of a page from its start holds what the page holds there. -/
theorem has_cutPage {p : List Byte} {k len : Nat} {bs : List Byte} (h : has p k bs) (hlen : k + bs.length ≤ len) : has (cutPage p 0 len) k bs := by
  rcases has_length h with rfl | hp
  · rfl
  · unfold has cutPage slice at *
    dsimp only
    rw [List.drop_zero, List.drop_append_of_le_length (by rw [List.length_take]; omega), List.take_append_of_le_length, List.drop_take, List.take_take,
      Nat.min_eq_left (by omega), h]
    rw [List.length_drop, List.length_take]
    omega

/-- The length of pieces of one width. -/
theorem flatMap_length {α : Type} {f : α → List Byte} {w : Nat} (hf : ∀ a : α, (f a).length = w) (l : List α) : (l.flatMap f).length = l.length * w := by
  rw [List.length_flatMap, List.map_congr_left (fun a _ => hf a), List.map_const', List.sum_replicate_nat]

/-- Pieces of one width stand one after the other. -/
theorem has_flatMap {α : Type} {f : α → List Byte} {w : Nat} (hf : ∀ a : α, (f a).length = w) (l : List α) (q : List Byte) {i : Nat} (hi : i < l.length) :
    has (l.flatMap f ++ q) (w * i) (f l[i]) := by
  induction l generalizing i with
  | nil => cases hi
  | cons a l ih =>
    cases i with
    | zero =>
      rw [List.flatMap_cons, List.append_assoc]
      exact has_start _ _
    | succ i =>
      have h := ih (Nat.lt_of_succ_lt_succ hi)
      unfold has slice at h ⊢
      have hdrop : (f a ++ l.flatMap f ++ q).drop (w * (i + 1)) = (l.flatMap f ++ q).drop (w * i) := by
        rw [List.append_assoc, Nat.mul_succ, Nat.add_comm, ← List.drop_drop, List.drop_left' (hf a)]
      rw [List.flatMap_cons, hdrop]
      exact h

/-! ### What host memory shows -/

theorem shows_of {t : State} {m : Mem} {dst : Nat} {p : List Byte} {k : Nat} {bs : List Byte} (hm : Mem.wf m = true) (ht : t.host = mwrite m dst p) (h : has p k bs) :
    shows t (dst + k) bs := by
  unfold shows
  rw [ht]
  rcases has_length h with rfl | hp
  · rfl
  · exact (mread_mwrite_slice hm dst hp).trans h

/-- The first byte of what is shown. -/
theorem shows_head {t : State} {a : Nat} {b : Byte} {bs : List Byte} (h : shows t a (b :: bs)) : mget t.host a = b := by
  unfold shows mread at h
  rw [List.length_cons, List.range_succ_eq_map, List.map_cons] at h
  exact (List.cons.inj h).1

end Sys2Proof.Machine

namespace Sys2Proof.Proofs
-- One thread elaborates these proofs: in parallel they ask for more stacks than the check allows.
set_option Elab.async false
open Sys2Proof.Machine Sys2Proof.Claims

/-- A command that sends a page to the host is answered, and the host holds what the page holds (R309). -/
theorem answered_page {c : Instr} {s u v : State} {h : NvmeHdr} {dst : Nat} {p : List Byte} {P : State → Prop} (hb : begun s u h) (hwf : Mem.wf s.host = true)
    (hnvme : pendingOnly s v h) (hhost : v.host = u.host) (hexec : exec c s = .next (((v.hostWrite dst p).drawn).nvDone h nvOk 0 0))
    (hP : ∀ t : State, (∀ (k : Nat) (bs : List Byte), has p k bs → shows t (dst + k) bs) → t.host = mwrite s.host dst p → (∀ n : Nat, t.ctl n = v.ctl n) → P t) :
    answered c s h nvOk 0 P := by
  have hdone : (((v.hostWrite dst p).drawn).nvDone h nvOk 0 0).host = mwrite s.host dst p := by
    rw [(State.nvDone_frame _ _ _ _ _).host_eq]
    show mwrite v.host dst p = _
    rw [hhost, hb.frame.host_eq]
  exact answered_of hexec (by decide) (pendingOnly_of hnvme (State.hostWrite_nvme v dst p))
    (hP _ (fun k bs hk => shows_of hwf hdone hk) hdone (fun n => State.nvDone_ctl (by decide) _ _ _ _ _))

/-- A log page of a length (R309). -/
theorem answered_log {c : Instr} {s u v : State} {h : NvmeHdr} {dst len : Nat} {p : List Byte} {P : State → Prop} (hb : begun s u h) (hwf : Mem.wf s.host = true)
    (hnvme : pendingOnly s v h) (hhost : v.host = u.host) (hexec : exec c s = .next (v.sendLog h dst 0 len p))
    (hP : ∀ t : State, (∀ (k : Nat) (bs : List Byte), has p k bs → k + bs.length ≤ len → shows t (dst + k) bs) → (∀ n : Nat, t.ctl n = v.ctl n) → P t) :
    answered c s h nvOk 0 P :=
  answered_page (p := cutPage p 0 len) hb hwf hnvme hhost hexec (fun t hs _ hctl => hP t (fun k bs hk hlen => hs k bs (has_cutPage hk hlen)) hctl)

end Sys2Proof.Proofs

namespace Sys2Proof.Machine
-- One thread elaborates these proofs: in parallel they ask for more stacks than the check allows.
set_option Elab.async false
open Sys2Proof.Claims

/-! ### The pages of a controller that has fetched a command -/

theorem begun.unvmcap {s u : State} {h : NvmeHdr} (hb : begun s u h) : u.unvmcap = s.unvmcap := by
  unfold State.unvmcap State.nvmGib State.part
  rw [hb.frame.variant_eq, hb.frame.parts_eq, hb.nvme]

theorem begun.critical {s u : State} {h : NvmeHdr} (hb : begun s u h) : u.critical = s.critical := by
  unfold State.critical State.sparesLow
  rw [hb.frame.nand_eq, hb.nvme, hb.power]

theorem begun.composite {s u : State} {h : NvmeHdr} (hb : begun s u h) : u.composite = s.composite := by
  unfold State.composite State.maxTn State.maxTj State.region
  rw [hb.frame.time_eq, hb.power]

/-- What a command is completed with stands among what the host was given. -/
theorem State.nvDone_out (s : State) (h : NvmeHdr) (st : NvmeSts) (d0 lba : Nat) : cplOf h st d0 ∈ (s.nvDone h st d0 lba).nvme.out := by
  have hend : cplOf h st d0 ∈ (s.nvEnd h st d0).nvme.out := by
    unfold State.nvEnd
    rw [State.cpl_nvme]
    exact List.mem_append_right _ (List.mem_singleton_self _)
  unfold State.nvDone State.nvDoneAt
  split
  · rw [(State.logNvme_frame _ _ _ _ _).nvme_eq]
    exact hend
  · exact hend

end Sys2Proof.Machine

namespace Sys2Proof.Proofs
-- One thread elaborates these proofs: in parallel they ask for more stacks than the check allows.
set_option Elab.async false
open Sys2Proof.Machine Sys2Proof.Claims

theorem identified_holds : identified := by
  intro h dst s ha hwf
  have hb := s.begin_begun h 0x06
  have hexec (cns : Nat) : exec (.identify h cns dst) s = .next (if cns = 0 ∧ (h.nsid = 0 ∨ 64 < h.nsid) then (s.begin h 0x06).nvDone h nvInvalidNs 0 0
      else match (s.begin h 0x06).identPage h.fn h.nsid cns with
        | some p => (s.begin h 0x06).sendPage h dst p
        | none => (s.begin h 0x06).nvDone h nvInvalidField 0 0) :=
    congrArg Host.Outcome.next ((State.admin_of ha 0x06 _ (.inr rfl)).trans rfl)
  have huser : (s.begin h 0x06).variant.user = s.variant.user := congrArg Variant.user hb.frame.variant_eq
  have hcap := hb.unvmcap
  have hnsq : (s.begin h 0x06).nvme.ns = s.nvme.ns := by rw [hb.nvme]
  generalize s.begin h 0x06 = u at hb hexec huser hcap hnsq
  refine ⟨?_, fun n h1 h64 hn hatt => ?_, fun hbad => ?_, fun cns hcns => ?_⟩
  · have hpage : u.identPage h.fn h.nsid 1 = some (pageOver u.freeCtr 4096 (u.identCtrl h.fn)) := if_pos rfl
    have hexec := hexec 1
    rw [if_neg (by simp), hpage] at hexec
    refine answered_page hb hwf hb.pending rfl hexec (fun t hs _ _ => ?_)
    have hfield (i k : Nat) (bs : List Byte) (hi : (u.identCtrl h.fn)[i]? = some (k, bs)) (hlen : k + bs.length ≤ 4096)
        (hpre : ((u.identCtrl h.fn).take i).all (fun f => decide (f.1 + f.2.length ≤ k ∨ k + bs.length ≤ f.1)) = true) : shows t (dst + k) bs :=
      hs k bs (has_field u.freeCtr i hi hlen hpre)
    rw [← huser, ← hcap]
    refine ⟨hfield 2 78 _ rfl ?_ ?_, hfield 3 84 _ rfl ?_ ?_, hfield 4 88 _ rfl ?_ ?_, hfield 10 280 _ rfl ?_ ?_, hfield 11 296 _ rfl ?_ ?_,
      hfield 14 526 _ rfl ?_ ?_, hfield 15 528 _ rfl ?_ ?_⟩
    all_goals simp [length_le, State.identCtrl, hexChars]
  · have hpage : u.identPage h.fn h.nsid 0 = some (pageOver u.freeCtr 4096 n.ident) := by
      unfold State.identPage
      rw [if_neg (by decide), if_pos rfl, hnsq, hn]
      exact if_pos (List.contains_iff_mem.mpr hatt)
    have hexec := hexec 0
    rw [if_neg (by omega), hpage] at hexec
    refine answered_page hb hwf hb.pending rfl hexec (fun t hs _ _ => ?_)
    have hfield (i k : Nat) (bs : List Byte) (hi : n.ident[i]? = some (k, bs)) (hlen : k + bs.length ≤ 4096)
        (hpre : (n.ident.take i).all (fun f => decide (f.1 + f.2.length ≤ k ∨ k + bs.length ≤ f.1)) = true) : shows t (dst + k) bs :=
      hs k bs (has_field u.freeCtr i hi hlen hpre)
    refine ⟨hfield 0 0 _ rfl ?_ ?_, hfield 8 33 _ rfl ?_ ?_, hfield 9 34 _ rfl ?_ ?_⟩
    all_goals simp [length_le, NsSt.ident]
  · refine ⟨_, (hexec 0).trans (congrArg Host.Outcome.next (if_pos ⟨rfl, hbad⟩)), State.nvDone_out _ _ _ _ _, ?_⟩
    exact (State.nvDone_frame _ _ _ _ _).host_eq.trans hb.frame.host_eq
  · have hpage : u.identPage h.fn h.nsid cns = none := by
      unfold State.identPage
      rw [if_neg (by omega), if_neg (by omega), if_neg (by omega)]
    have hexec := hexec cns
    rw [if_neg (by omega), hpage] at hexec
    exact answered_of hexec (by decide) hb.pending ((State.nvDone_frame _ _ _ _ _).host_eq.trans hb.frame.host_eq)

/-- A log page that only reads is answered, and the host holds what the page holds. -/
theorem answered_read {c : Instr} {s : State} {h : NvmeHdr} {dst len : Nat} {page : State → List Byte} {P : State → Prop} (ha : admits s h) (hwf : Mem.wf s.host = true)
    (hexec : exec c s = .next (s.admin h 0x02 true (fun s => s.sendLog h dst 0 len (page s))))
    (hP : ∀ t u : State, begun s u h → (∀ (k : Nat) (bs : List Byte), has (page u) k bs → k + bs.length ≤ len → shows t (dst + k) bs) →
      (∀ n : Nat, t.ctl n = s.ctl n) → P t) : answered c s h nvOk 0 P := by
  have hb := s.begin_begun h 0x02
  exact answered_log hb hwf hb.pending rfl (hexec.trans (congrArg Host.Outcome.next (State.admin_of ha 0x02 _ (.inr rfl))))
    (fun t hs hctl => hP t _ hb hs (fun n => (hctl n).trans (hb.ctl n)))

/-- The fields of an Error Information entry (assumption log 12). -/
theorem errInfo_has (e : ErrInfo) (draw : Nat) :
    has (e.bytes draw) 0 (le 8 e.count ++ le 2 e.sqid ++ le 2 e.cid ++ le 2 (2 * e.status)) ∧ has (e.bytes draw) 16 (le 8 e.lba ++ le 4 e.nsid) := by
  unfold ErrInfo.bytes
  refine ⟨has_append (has_append (has_append (has_field _ 0 rfl ?_ ?_) (has_field _ 1 rfl ?_ ?_)) (has_field _ 2 rfl ?_ ?_)) (has_field _ 3 rfl ?_ ?_),
    has_append (has_field _ 4 rfl ?_ ?_) (has_field _ 5 rfl ?_ ?_)⟩
  all_goals simp [length_le]

/-- The fields of the SMART / Health page (assumption log 12). -/
theorem smartPage_has (s : State) : has s.smartPage 0 (le 1 s.critical ++ le 2 s.composite) ∧ has s.smartPage 216 (le 4 s.power.tm1) := by
  unfold State.smartPage
  refine ⟨has_append (has_field _ 0 rfl ?_ ?_) (has_field _ 1 rfl ?_ ?_), has_field _ 2 rfl ?_ ?_⟩
  all_goals simp [length_le]

/-- The fields of the Sanitize Status page (assumption log 12). -/
theorem sanitizePage_has (s : State) : has s.sanitizePage 2 (le 2 (if s.sanitizing then 2 else if s.nvme.sanitizeDone = 0 then 0 else 1)) ∧
    has s.sanitizePage 12 (le 4 135) := by
  unfold State.sanitizePage
  cases s.sanitizing
  · refine ⟨has_field _ 1 rfl ?_ ?_, has_field _ 2 rfl ?_ ?_⟩
    all_goals simp [length_le]
  · refine ⟨has_field _ 0 rfl ?_ ?_, has_field _ 1 rfl ?_ ?_⟩
    all_goals simp [length_le]

/-- The word of an opcode in Commands Supported and Effects. -/
def effect (s : State) (base : Nat) (ok : Bool) (op : Nat) : Nat := if ok then 1 + 2 * Config.freeNat s.freeCtr (base + op) else 0

/-- Bit 0 of the word of an opcode says that it is supported. -/
theorem effect_odd (s : State) (base : Nat) (ok : Bool) (op : Nat) : (BitVec.ofNat 8 (effect s base ok op)).toNat % 2 = 1 ↔ ok = true := by
  rw [BitVec.toNat_ofNat, Nat.mod_mod_of_dvd _ (by decide)]
  unfold effect
  cases ok
  · simp
  · simp

theorem effectsPage_has (s : State) (fn : Nat) {op : Nat} (hop : op < 256) :
    has (s.effectsPage fn) (4 * op) (le 4 (effect s 0 (supported fn 0 op) op)) ∧
    has (s.effectsPage fn) (1024 + 4 * op) (le 4 (effect s 256 (supported fn 1 op) op)) := by
  have hpage : s.effectsPage fn = (List.range 256).flatMap (fun op => le 4 (effect s 0 (supported fn 0 op) op)) ++
      ((List.range 256).flatMap (fun op => le 4 (effect s 256 (supported fn 1 op) op)) ++ zeros 2048) := List.append_assoc _ _ _
  have hword (base k : Nat) (q : List Byte) := has_flatMap (f := fun op => le 4 (effect s base (supported fn k op) op)) (fun _ => length_le 4 _) (List.range 256) q
    (i := op) (by rw [List.length_range]; exact hop)
  have hwidth : ((List.range 256).flatMap (fun op => le 4 (effect s 0 (supported fn 0 op) op))).length = 1024 := by
    rw [flatMap_length (fun _ => length_le 4 _), List.length_range]
  simp only [List.getElem_range] at hword
  rw [hpage]
  refine ⟨hword 0 0 _, ?_⟩
  have hright := has_right (hword 256 1 (zeros 2048)) ((List.range 256).flatMap (fun op => le 4 (effect s 0 (supported fn 0 op) op)))
  rw [hwidth] at hright
  exact hright

theorem supported_admin (fn op : Nat) : supported fn 0 op = (if fn = 0 then adminOps else vfOps).contains op := by
  unfold supported
  rw [if_neg (by decide)]
  split <;> rfl

theorem supported_nvm (fn op : Nat) : supported fn 1 op = nvmOps.contains op := if_pos (by decide)

theorem nvmePages_holds : nvmePages := by
  intro h dst s ha hwf
  refine ⟨fun e l hlog => ?_, ?_, ?_, fun l hl hlen => ?_, ?_, ?_⟩
  · refine answered_read ha hwf rfl (fun t u hb hs hctl => ?_)
    rw [hb.ctl, hlog, List.flatMap_cons] at hs
    obtain ⟨hhead, hplace⟩ := errInfo_has e u.freeCtr
    refine ⟨hs 0 _ (has_left hhead _) ?_, hs 16 _ (has_left hplace _) ?_, hctl _⟩
    all_goals simp [length_le]
  · refine answered_read ha hwf rfl (fun t u hb hs hctl => ?_)
    obtain ⟨hhead, htm⟩ := smartPage_has u
    rw [hb.critical, hb.composite] at hhead
    rw [show u.power.tm1 = s.power.tm1 by rw [hb.power]] at htm
    refine ⟨hs 0 _ hhead ?_, hs 216 _ htm ?_⟩
    all_goals simp [length_le]
  · refine answered_read ha hwf rfl (fun t u hb hs hctl => ?_)
    rw [← hb.frame.store_eq]
    refine (hs 0 (le 1 _) (has_field u.freeCtr 0 rfl ?_ ?_) ?_)
    all_goals simp [length_le]
  · have hb := s.begin_begun h 0x02
    refine answered_log (v := (s.begin h 0x02).modCtl h.fn (fun c => { c with changed := [] })) hb hwf hb.pending rfl
      (congrArg Host.Outcome.next (State.admin_of ha 0x02 _ (.inr rfl))) (fun t hs hctl => ?_)
    rw [hb.ctl, hl] at hs
    refine ⟨hs 0 _ (has_self _) ?_, ?_⟩
    · rw [List.length_append, flatMap_length (length_le 4), zeros_length]
      omega
    · rw [hctl, State.ctl_modCtl]
  · refine answered_read ha hwf rfl (fun t u hb hs hctl => ?_)
    intro op hop
    obtain ⟨hadmin, hnvm⟩ := effectsPage_has u h.fn hop
    have h0 := hs (4 * op) (le 4 _) hadmin (by rw [length_le]; omega)
    have h1 := hs (1024 + 4 * op) (le 4 _) hnvm (by rw [length_le]; omega)
    rw [shows_head h0, Nat.add_assoc, shows_head h1, effect_odd, effect_odd, supported_admin, supported_nvm, List.contains_iff_mem, List.contains_iff_mem]
    exact ⟨Iff.rfl, Iff.rfl⟩
  · refine answered_read ha hwf rfl (fun t u hb hs hctl => ?_)
    obtain ⟨hstate, htime⟩ := sanitizePage_has u
    have hsan : u.sanitizing = s.sanitizing := by
      unfold State.sanitizing
      rw [hb.nvme]
    rw [hsan, show u.nvme.sanitizeDone = s.nvme.sanitizeDone by rw [hb.nvme]] at hstate
    have hval : (if s.sanitizing = true then 2 else if s.nvme.sanitizeDone = 0 then 0 else 1) = if s.nvme.sanitize ≠ 0 then 2 else if s.nvme.sanitizeDone = 0 then 0 else 1 :=
      if_congr decide_eq_true_iff rfl rfl
    rw [hval] at hstate
    refine ⟨hs 2 _ hstate ?_, hs 12 _ htime ?_⟩
    all_goals simp [length_le]

/-- The drive after a read of the abort list's 64 bytes: with bit 0 of the Log Specific Field the entry read is gone. -/
def readAborts (u : State) (fn lsf : Nat) : State := if bit lsf 0 then u.modCtl fn (fun c => { c with aborts := c.aborts.drop 1 }) else u

theorem readAborts_aborts (u : State) (fn lsf : Nat) : ((readAborts u fn lsf).ctl fn).aborts = if lsf % 2 = 1 then (u.ctl fn).aborts.drop 1 else (u.ctl fn).aborts := by
  have hbit : bit lsf 0 = true ↔ lsf % 2 = 1 := by simp [bit]
  unfold readAborts
  by_cases h : lsf % 2 = 1
  · rw [if_pos (hbit.mpr h), if_pos h, State.ctl_modCtl]
  · rw [if_neg (h ∘ hbit.mp), if_neg h]

theorem drivePages_holds : drivePages := by
  intro h dst s ha hwf
  have hread {c : Instr} {len : Nat} {page : State → List Byte} {bs : List Byte} (hexec : exec c s = .next (s.admin h 0x02 true (fun s => s.sendLog h dst 0 len (page s))))
      (hpage : ∀ u : State, begun s u h → page u = bs) (hlen : bs.length ≤ len) : answered c s h nvOk 0 (fun t => shows t dst bs) := by
    refine answered_read ha hwf hexec (fun t u hb hs _ => ?_)
    rw [hpage u hb] at hs
    exact hs 0 bs (has_self bs) (by rw [Nat.zero_add]; exact hlen)
  refine ⟨fun hnone lsf => hread rfl (fun u hb => ?_) ?_, fun r x hlac hexts hkcis hcounts hfn => hread rfl (fun u hb => ?_) ?_,
    fun hfn l hl hlen => hread rfl (fun u hb => ?_) ?_, fun e habort lsf => ?_⟩
  · unfold State.lacunaPage
    rw [hb.frame.store_eq, hnone]
    rfl
  · simp [length_le, zeros_length]
  · unfold State.lacunaPage State.lacunaEntries
    rw [hb.frame.store_eq, hlac, hfn]
    show _ ++ List.flatten _ = _
    rw [hexts, hkcis, hcounts]
    simp [b2n]
  · simp [length_le, zeros_length]
  · unfold State.statsPage
    dsimp only
    rw [hb.frame.ledger_eq, if_neg hfn, List.flatMap_singleton]
    unfold tget
    rw [hl]
    rfl
  · simp only [List.length_append, flatMap_length (length_le 8), length_le, zeros_length, hlen]
    decide
  · have hb := s.begin_begun h 0x02
    have hlist : ((s.begin h 0x02).ctl h.fn).aborts = [e] := by rw [hb.ctl, habort]
    have hexec : exec (.getLogAbortList h lsf dst 64) s = .next ((readAborts (s.begin h 0x02) h.fn lsf).sendLog h dst 0 64
        (le 2 1 ++ zeros 2 ++ le 4 ((s.begin h 0x02).ctl h.fn).aborts.length ++ zeros 24 ++ ((s.begin h 0x02).ctl h.fn).aborts.flatMap AbortEnt.bytes)) :=
      congrArg Host.Outcome.next ((State.admin_of ha 0x02 _ (.inr rfl)).trans rfl)
    rw [hlist, List.flatMap_singleton] at hexec
    generalize s.begin h 0x02 = u at hb hexec hlist
    refine answered_log hb hwf ?_ ?_ hexec (fun t hs hctl => ⟨?_, ?_⟩)
    · unfold readAborts
      split
      · exact hb.pending
      · exact hb.pending
    · unfold readAborts
      split <;> rfl
    · have := hs 0 _ (has_self _) (by simp [length_le, zeros_length, AbortEnt.bytes])
      simpa [AbortEnt.bytes] using this
    · rw [hctl, readAborts_aborts, hlist]
      split <;> rfl

end Sys2Proof.Proofs

namespace Sys2Proof.Proofs
-- One thread elaborates these proofs: in parallel they ask for more stacks than the check allows.
set_option Elab.async false
open Sys2Proof.Machine Sys2Proof.Claims

/-- Settles O51. -/
theorem logPages : Obligations.LogPages := ⟨identified_holds, nvmePages_holds, drivePages_holds⟩

end Sys2Proof.Proofs

namespace Sys2Proof.Proofs
-- One thread elaborates these proofs: in parallel they ask for more stacks than the check allows.
set_option Elab.async false
open Sys2Proof.Machine Sys2Proof.Claims

theorem miReply_frame (s : State) (bs : List Byte) : Frame [.mgmt, .freeCtr] s (s.miReply bs) :=
  ((State.modMgmt_frame s _).mono rfl).after (State.drawn_frame _) rfl

/-- A request that the management interface answers with bytes. -/
theorem miAnswered_of {c : Instr} {s : State} {f : State → List Byte} {P : List Byte → Prop} (ha : s.miAnswers = true) (hexec : exec c s = .next (s.mi f))
    (hP : P (f s)) : miAnswered c s P :=
  ⟨s.miReply (f s), hexec.trans (congrArg Host.Outcome.next (if_pos ha)), miReply_frame s _, rfl, hP⟩

/-- The field at a place, by its width. -/
theorem slice_field {p : List Byte} {k n : Nat} {bs : List Byte} (h : has p k bs) (hn : bs.length = n) : slice p k n = bs := by
  rw [← hn]
  exact h

/-- The fields of the controller's Identify data that a tunneled request reads (assumption log 12). -/
theorem identCtrl_has (s : State) (fn : Nat) : has (pageOver s.freeCtr 4096 (s.identCtrl fn)) 78 (le 2 (fn + 1)) ∧
    has (pageOver s.freeCtr 4096 (s.identCtrl fn)) 84 (le 4 30000000) := by
  refine ⟨has_field _ 2 rfl ?_ ?_, has_field _ 3 rfl ?_ ?_⟩
  all_goals simp [length_le, State.identCtrl, hexChars]

theorem has_of_append {p x y : List Byte} {k : Nat} (h : has p k (x ++ y)) : has p k x := by
  unfold has slice at *
  have hcut := congrArg (List.take x.length) h
  rwa [List.take_take, List.length_append, Nat.min_eq_left (Nat.le_add_right _ _), List.take_left] at hcut

theorem State.miDriveReady_iff (s : State) : s.miDriveReady = true ↔ s.live = true ∧ s.power.nvmeReady = true := Bool.and_eq_true_iff

theorem State.not_miDriveReady {s : State} (hl : s.live = false) : ¬ s.miDriveReady = true := by
  rw [State.miDriveReady_iff, hl]
  exact fun h => Bool.noConfusion h.1

/-- Settles O52. -/
theorem managementInterface : Obligations.ManagementInterface := by
  intro s
  refine ⟨fun ha => ⟨fun k => ?_, ?_, fun n h1 h256 => ?_, fun k v hk => ?_, fun k v => ?_, fun off n => ?_, fun hl hr => ?_, fun hl hr => ?_,
    fun hl k => ⟨?_, ?_⟩, fun n hn r hr => ?_⟩, fun hoff => ?_⟩
  · refine miAnswered_of ha rfl ⟨fun h0 => ?_, fun h2 => ?_⟩
    · subst h0
      refine slice_field (has_append (has_field _ 0 rfl ?_ ?_) (has_field _ 1 rfl ?_ ?_)) rfl
      all_goals simp [length_le]
    · subst h2
      refine ⟨slice_field (has_start _ _) (length_le 2 _), fun i hi => slice_field ?_ (length_le 2 _)⟩
      have hid := has_flatMap (f := fun i => le 2 (i + 1)) (fun _ => length_le 2 _) (List.range 256) [] (i := i) (by rw [List.length_range]; exact hi)
      rw [List.append_nil, List.getElem_range] at hid
      exact has_right hid (le 2 256)
  · refine miAnswered_of ha rfl ⟨pageOver_length _ _ _, slice_field ?_ rfl⟩
    have hready : b2n s.miDriveReady = if s.live = true ∧ s.power.nvmeReady = true then 1 else 0 := if_congr (State.miDriveReady_iff s) rfl rfl
    rw [← hready]
    refine has_append (has_field _ 0 rfl ?_ ?_) (has_field _ 1 rfl ?_ ?_)
    all_goals simp [length_le]
  · refine miAnswered_of ha rfl ?_
    rw [if_neg (by omega)]
    refine ⟨slice_field (has_append (has_field _ 0 rfl ?_ ?_) (has_field _ 1 rfl ?_ ?_)) rfl, slice_field (has_field _ 3 rfl ?_ ?_) rfl⟩
    all_goals simp [length_le]
  · refine miAnswered_of ha rfl ?_
    unfold tget
    rw [hk]
    rfl
  · refine ⟨_, congrArg Host.Outcome.next (if_pos ha), ?_, tfind_tset_same _ _ _, fun j hj => tfind_tset_other _ _ hj⟩
    exact ((State.modMgmt_frame s _).mono rfl).after (miReply_frame _ _) rfl
  · exact miAnswered_of ha rfl (pageOver_length _ _ _)
  · refine miAnswered_of ha rfl ?_
    have hpage : s.identPage 0 0 1 = some (pageOver s.freeCtr 4096 (s.identCtrl 0)) := if_pos rfl
    rw [if_pos ((State.miDriveReady_iff s).mpr ⟨hl, hr⟩), hpage, Option.getD_some]
    obtain ⟨hid, hrtd⟩ := identCtrl_has s 0
    exact ⟨slice_field hid (length_le 2 _), slice_field hrtd (length_le 4 _)⟩
  · refine miAnswered_of ha rfl ?_
    rw [if_pos ((State.miDriveReady_iff s).mpr ⟨hl, hr⟩)]
    exact slice_field (has_of_append (smartPage_has s).1) (length_le 1 _)
  · exact miAnswered_of (f := fun s => if s.miDriveReady then (s.identPage 0 0 k).getD [] else []) ha rfl (if_neg (State.not_miDriveReady hl))
  · exact miAnswered_of (f := fun s => if s.miDriveReady then (if k = 0x02 then s.smartPage else if k = 0xC1 then s.statsPage 0 else []) else []) ha rfl
      (if_neg (State.not_miDriveReady hl))
  · refine miAnswered_of ha rfl ?_
    have hcount : min n 16 = min (n - 1) 15 + 1 := by omega
    rw [hr, List.filter_cons_of_pos (by simp), hcount, List.filter_nil, List.take_succ_cons, List.take_nil]
    exact List.flatMap_singleton _ _
  · have hno : ¬ s.miAnswers = true := by
      unfold State.miAnswers
      rcases hoff with h | h
      · simp [h]
      · simp [h]
    exact ⟨congrArg Host.Outcome.next (if_neg hno), fun k v => congrArg Host.Outcome.next (if_neg hno), fun q n => congrArg Host.Outcome.next (if_neg hno)⟩

end Sys2Proof.Proofs

/-! Namespaces, firmware, security and sanitize: O53. -/

namespace Sys2Proof.Machine
-- One thread elaborates these proofs: in parallel they ask for more stacks than the check allows.
set_option Elab.async false
open Sys2Proof.Claims

/-! ### Data of namespaces -/

/-- Nothing is cached, waits for the cache or for a flush, and no shutdown is under way. -/
structure uncached (n : NvmeSt) : Prop where
  cache : n.cache = []
  waiting : n.waiting = []
  flushes : n.flushes = []
  shutdown : ∀ c ∈ n.ctls, c.2.shutdown = 0

theorem tmap_self {α : Type} {t : Table α} {f : Nat → α → α} (h : ∀ p ∈ t, f p.1 p.2 = p.2) : tmap t f = t := by
  unfold tmap
  conv => rhs; rw [← List.map_id t]
  exact List.map_congr_left (fun p hp => by rw [h p hp]; rfl)

/-- A record of a controller's work whose lists are empty stays as it is when they are emptied. -/
theorem NvmeSt.emptied {n : NvmeSt} {c w : List Extent} {f : List FlushSt} (hn : n.cache = [] ∧ n.waiting = [] ∧ n.flushes = []) (hc : c = [] ∧ w = [] ∧ f = []) :
    { n with cache := c, waiting := w, flushes := f } = n := by
  obtain ⟨rfl, rfl, rfl⟩ := hc
  cases n
  obtain ⟨h1, h2, h3⟩ := hn
  dsimp only at h1 h2 h3
  rw [h1, h2, h3]

theorem State.endFlushes_none {s : State} (h : s.nvme.flushes = []) : s.endFlushes.nvme = s.nvme := by
  have hfilter : ({ s.nvme with flushes := s.nvme.flushes.filter (fun f => !f.waits.isEmpty) } : NvmeSt) = s.nvme := by
    rw [show s.nvme.flushes.filter (fun f => !f.waits.isEmpty) = s.nvme.flushes by rw [h]; rfl]
  unfold State.endFlushes
  dsimp only
  rw [h, List.filter_nil]
  exact hfilter

theorem State.finishShutdown_none {s : State} (h : ∀ c ∈ s.nvme.ctls, c.2.shutdown = 0) : s.finishShutdown.nvme = s.nvme := by
  have hself : ({ s.nvme with ctls := tmap s.nvme.ctls (fun _ c => if c.shutdown = 1 then { c with shutdown := 2 } else c) } : NvmeSt) = s.nvme := by
    have hall : ∀ c ∈ s.nvme.ctls, (if c.2.shutdown = 1 then { c.2 with shutdown := 2 } else c.2) = c.2 := fun c hc => if_neg (by rw [h c hc]; decide)
    rw [tmap_self hall]
  unfold State.finishShutdown
  dsimp only
  split
  · split
    · exact hself
    · exact hself
  · rfl

/-- Of a write cache that holds nothing nothing is dropped. -/
theorem State.dropNsCache_nvme {s : State} (h : uncached s.nvme) (i : Nat) : (s.dropNsCache i).nvme = s.nvme := by
  have hgone : (((s.nvme.cache ++ s.nvme.waiting).filter (fun e => e.h.nsid == i && !e.completed)).map (·.h)).eraseDups = [] := by
    rw [h.cache, h.waiting]
    rfl
  unfold State.dropNsCache
  dsimp only
  rw [hgone]
  generalize hv : State.modNand (s.modNvme _) _ = v
  have hnvme : v.nvme = s.nvme := by
    rw [← hv]
    refine NvmeSt.emptied ⟨h.cache, h.waiting, h.flushes⟩ ⟨?_, ?_, ?_⟩
    · rw [h.cache]
      rfl
    · rw [h.waiting]
      rfl
    · rw [h.flushes]
      rfl
  rw [← hnvme] at h
  have hflush : v.endFlushes.nvme = v.nvme := State.endFlushes_none h.flushes
  show v.endFlushes.finishShutdown.nvme = _
  rw [State.finishShutdown_none (by rw [hflush]; exact h.shutdown), hflush, hnvme]

/-- The namespaces stay as a command ends. -/
theorem State.nvDone_ns (s : State) (h : NvmeHdr) (st : NvmeSts) (d0 lba : Nat) : (s.nvDone h st d0 lba).nvme.ns = s.nvme.ns := by
  have hend : (s.nvEnd h st d0).nvme.ns = s.nvme.ns := by
    unfold State.nvEnd
    rw [State.cpl_nvme]
    rfl
  unfold State.nvDone State.nvDoneAt
  split
  · rw [(State.logNvme_frame _ _ _ _ _).nvme_eq]
    exact hend
  · exact hend

theorem begun.uncached {s u : State} {h : NvmeHdr} (hb : begun s u h) (hs : uncached s.nvme) : uncached u.nvme := by
  rw [hb.nvme]
  exact ⟨hs.cache, hs.waiting, hs.flushes, hs.shutdown⟩

/-- The drive after a controller has heard that a namespace changed. -/
theorem State.nsChanged_one (s : State) (nsid fn : Nat) : (∀ c ∈ s.nvme.out, c ∈ (s.nsChanged nsid [fn]).nvme.out) ∧
    (s.nsChanged nsid [fn]).nvme.ns = s.nvme.ns ∧ nsid ∈ ((s.nsChanged nsid [fn]).ctl fn).changed := by
  have hctl : (s.modCtl fn (fun c => { c with changed := if c.changed.contains nsid then c.changed else c.changed ++ [nsid] })).ctl fn =
      { s.ctl fn with changed := if (s.ctl fn).changed.contains nsid then (s.ctl fn).changed else (s.ctl fn).changed ++ [nsid] } := State.ctl_modCtl _ _ _
  have hmem : nsid ∈ if (s.ctl fn).changed.contains nsid then (s.ctl fn).changed else (s.ctl fn).changed ++ [nsid] := by
    split
    · next h => exact List.contains_iff_mem.mp h
    · exact List.mem_append_right _ (List.mem_singleton_self _)
  unfold State.nsChanged
  rw [List.foldl_cons, List.foldl_nil]
  dsimp only
  generalize hv : s.modCtl fn _ = v at *
  have hvn : v.nvme.out = s.nvme.out ∧ v.nvme.ns = s.nvme.ns := by
    rw [← hv]
    exact ⟨rfl, rfl⟩
  obtain ⟨hout, hns⟩ := hvn
  split
  · obtain ⟨l, o, hev⟩ := v.asyncEvent_nvme fn (eventDw 2 0 0x04)
    obtain ⟨a, b, hec⟩ := v.asyncEvent_ctl fn (eventDw 2 0 0x04)
    refine ⟨fun c hc => State.asyncEvent_out _ _ (by rw [hout]; exact hc), by rw [hev]; exact hns, ?_⟩
    rw [hec, hctl]
    exact hmem
  · exact ⟨fun c hc => by rw [hout]; exact hc, hns, by rw [hctl]; exact hmem⟩

/-- A block of a namespace without data, nothing of it cached, reads as deallocated. -/
theorem State.blkAt_blank {s : State} (hcache : s.nvme.cache = []) {n : NsSt} (hmedia : n.media = []) (i lba : Nat) : s.blkAt i n lba = deallocBlk n.lbaf := by
  have hnone : s.cached i lba = none := by
    unfold State.cached
    rw [hcache]
    rfl
  unfold State.blkAt
  rw [hnone, hmedia]
  rfl

/-- A namespace after a format. -/
def NsSt.reformat (n : NsSt) (f pi : Nat) (ext : Bool) : NsSt := { n with lbaf := f, pi := pi, ext := ext, media := [], bad := [] }

/-- The drive after a namespace has taken a format. -/
def State.reformat (v : State) (nsid f pi : Nat) (ext : Bool) : State := v.modNvme (fun x => { x with
  ns := tmap x.ns (fun i n => if [nsid].contains i then n.reformat f pi ext else n) })

theorem State.reformat_ns (v : State) (nsid f pi : Nat) (ext : Bool) (j : Nat) : tfind (v.reformat nsid f pi ext).nvme.ns j = if j = nsid then
    (tfind v.nvme.ns j).map (·.reformat f pi ext) else tfind v.nvme.ns j := by
  refine (tfind_tmap v.nvme.ns (fun i n => if [nsid].contains i then n.reformat f pi ext else n) j).trans ?_
  by_cases hj : j = nsid
  · simp [hj]
  · simp [hj]

end Sys2Proof.Machine

namespace Sys2Proof.Proofs
-- One thread elaborates these proofs: in parallel they ask for more stacks than the check allows.
set_option Elab.async false
open Sys2Proof.Machine Sys2Proof.Claims

theorem lbaData_pos {f : Nat} (hf : f ≤ 4) : 0 < lbaData f := by
  interval_cases f <;> decide

/-- A format of Table 13-4 is not refused. -/
theorem format_allowed {f pi : Nat} (hf : f ≤ 4) (hpi : pi ≤ 3) (hmd : pi = 0 ∨ lbaMd f ≠ 0) : ¬ (4 < f ∨ 3 < pi ∨ (pi ≠ 0 ∧ lbaMd f = 0)) := by
  rintro (h | h | ⟨h0, hm⟩)
  · exact Nat.not_lt.mpr hf h
  · exact Nat.not_lt.mpr hpi h
  · exact hmd.elim h0 (fun hne => hne hm)

theorem namespaceCreated_holds : namespaceCreated := by
  intro h nsze flbas pi i s ha hfn f size hf hpi hmd hne hgib
  have hb := s.begin_begun h 0x0D
  have hexec : exec (.namespaceManagementCreate h nsze flbas pi) s = .next (if (s.begin h 0x0D).unvmcap < size then (s.begin h 0x0D).nvDone h nvCapacity 0 0
      else match ((List.range 64).map (· + 1)).find? (fun i => (tfind (s.begin h 0x0D).nvme.ns i).isNone) with
        | none => (s.begin h 0x0D).nvDone h nvNsIdUnavail 0 0
        | some i => ((s.begin h 0x0D).modNvme (fun x => { x with ns := tset x.ns i {
              gib := size / 2 ^ 30, lbaf := f, ext := bit flbas 4, pi := pi, attached := [], media := [], bad := [] } })).nvDone h nvOk i 0) := by
    refine congrArg Host.Outcome.next ((State.admin_of ha 0x0D _ (.inl hfn)).trans ?_)
    dsimp only
    rw [if_neg (show ¬ (nsze = 0 ∨ nsze * lbaData (flbas % 16) % 2 ^ 30 ≠ 0) from not_or.mpr ⟨hne, not_not.mpr hgib⟩),
      if_neg (format_allowed hf hpi hmd)] <;> rfl
  have hcap := hb.unvmcap
  have hnsq : (s.begin h 0x0D).nvme.ns = s.nvme.ns := by rw [hb.nvme]
  generalize s.begin h 0x0D = u at hb hexec hcap hnsq
  rw [hcap] at hexec
  refine ⟨fun hfit h1 h64 hfree hlow => ?_, fun hover => ?_⟩
  · have hfind : ((List.range 64).map (· + 1)).find? (fun i => (tfind u.nvme.ns i).isNone) = some i := by
      rw [hnsq, List.find?_map]
      have hrange : (List.range 64).find? ((fun i => (tfind s.nvme.ns i).isNone) ∘ (· + 1)) = some (i - 1) := by
        refine List.find?_range_eq_some.mpr ⟨?_, List.mem_range.mpr (by omega), fun j hj => ?_⟩
        · rw [Function.comp_apply, Nat.sub_add_cancel h1, hfree]
          rfl
        · rw [Function.comp_apply, Option.not_isNone]
          exact hlow (j + 1) (by omega) (by omega)
      rw [hrange, Option.map_some, Nat.sub_add_cancel h1]
    rw [if_neg (Nat.not_lt.mpr hfit), hfind] at hexec
    refine answered_of (v := _) hexec (by decide) hb.pending ?_
    rw [State.nvDone_ok]
    refine ⟨_, tfind_tset_same _ _ _, Nat.div_mul_cancel (Nat.dvd_of_mod_eq_zero hgib), rfl, rfl, rfl, rfl, rfl, ?_, fun j hj => ?_⟩
    · show size / 2 ^ 30 * 2 ^ 30 / lbaData f = nsze
      rw [Nat.div_mul_cancel (Nat.dvd_of_mod_eq_zero hgib)]
      exact Nat.mul_div_cancel _ (lbaData_pos hf)
    · rw [← hnsq]
      exact tfind_tset_other _ _ hj
  · rw [if_pos hover] at hexec
    exact answered_of hexec (by decide) hb.pending (hb.quiet (by decide) 0 0)

theorem namespaceDeleted_holds : namespaceDeleted := by
  intro h s ha hfn hall
  have hb := s.begin_begun h 0x0D
  have hexec : exec (.namespaceManagementDelete h) s = .next (if (tfind (s.begin h 0x0D).nvme.ns h.nsid).isNone then (s.begin h 0x0D).nvDone h nvInvalidNs 0 0
      else ((s.begin h 0x0D).deleteNs h.nsid).nvDone h nvOk 0 0) := by
    show execNamespaceManagementDelete h s = _
    unfold execNamespaceManagementDelete
    rw [State.admin_of ha 0x0D _ (.inl hfn), if_neg hall]
  have hnsq : (s.begin h 0x0D).nvme.ns = s.nvme.ns := by rw [hb.nvme]
  generalize s.begin h 0x0D = u at hb hexec hnsq
  rw [hnsq] at hexec
  refine ⟨fun n hn hatt hcache hwait hflush hshut => ?_, fun hnone => ?_⟩
  · rw [hn, Option.isNone_some, if_neg Bool.false_ne_true] at hexec
    have hdrop := State.dropNsCache_nvme (hb.uncached ⟨hcache, hwait, hflush, hshut⟩) h.nsid
    have hgone : (u.deleteNs h.nsid).nvme = { u.nvme with ns := tdel u.nvme.ns h.nsid, locks := u.nvme.locks.filter (fun l => l.1 == 0 || l.2.nsid != h.nsid) } := by
      unfold State.deleteNs
      dsimp only
      rw [hnsq, hn]
      dsimp only
      rw [hatt, ← hnsq]
      rw [show ∀ v : State, v.nsChanged h.nsid [] = v from fun _ => rfl, ← hdrop]
      rfl
    refine answered_of (v := u.deleteNs h.nsid) hexec (by decide) ?_ ?_
    · unfold pendingOnly
      rw [hgone]
      exact hb.pending
    · rw [State.nvDone_ok, hgone, ← hnsq]
      refine ⟨tfind_tdel_same _ _, fun j hj => tfind_tdel_other _ hj, fun l hl => ?_⟩
      obtain ⟨_, hkeep⟩ := List.mem_filter.mp hl
      simpa using hkeep
  · rw [hnone, Option.isNone_none, if_pos rfl] at hexec
    exact ⟨_, hexec, State.nvDone_out _ _ _ _ _, (State.nvDone_ns _ _ _ _ _).trans hnsq⟩

theorem namespaceAttached_holds : namespaceAttached := by
  intro h fn n s ha hfn hlt hn hfn0
  have hb := s.begin_begun h 0x15
  have hexec (a : Bool) : exec (.namespaceAttachment h a [fn + 1]) s = .next (
      if a = true ∧ fn ∈ n.attached then (s.begin h 0x15).nvDone h nvAttached 0 0
      else if a = false ∧ fn ∉ n.attached then (s.begin h 0x15).nvDone h nvNotAttached 0 0
      else (((s.begin h 0x15).modNvme (fun x => { x with ns := tset x.ns h.nsid { n with
        attached := if a then n.attached ++ [fn] else n.attached.filter (fun f => !decide (f = fn)) } })).nsChanged h.nsid [fn]).nvDone h nvOk 0 0) := by
    have hnsq : tfind (s.begin h 0x15).nvme.ns h.nsid = some n := by rw [hb.nvme]; exact hn
    have hids : ¬ ([fn + 1] = [] ∨ ([fn + 1].any (fun i => decide (i = 0 ∨ 256 < i))) = true) := by
      simp
      omega
    have hfns : ([fn + 1].map (· - 1)).eraseDups = [fn] := by simp [List.eraseDups_cons]
    show execNamespaceAttachment h a [fn + 1] s = _
    unfold execNamespaceAttachment
    rw [State.admin_of ha 0x15 _ (.inl hfn), hnsq]
    dsimp only
    rw [if_neg hids, hfns]
    simp
  generalize s.begin h 0x15 = u at hb hexec
  have hdone (att : List Nat) (v : State) (hv : v = u.modNvme (fun x => { x with ns := tset x.ns h.nsid { n with attached := att } })) :
      cplOf h nvOk 0 ∈ ((v.nsChanged h.nsid [fn]).nvDone h nvOk 0 0).nvme.out ∧
      tfind ((v.nsChanged h.nsid [fn]).nvDone h nvOk 0 0).nvme.ns h.nsid = some { n with attached := att } ∧
      h.nsid ∈ (((v.nsChanged h.nsid [fn]).nvDone h nvOk 0 0).ctl fn).changed := by
    obtain ⟨_, hns, hchanged⟩ := v.nsChanged_one h.nsid fn
    refine ⟨State.nvDone_out _ _ _ _ _, ?_, by rw [State.nvDone_ctl (by decide)]; exact hchanged⟩
    rw [State.nvDone_ns, hns, hv]
    exact tfind_tset_same _ _ _
  refine ⟨fun hno => ?_, fun hyes => ?_, fun hyes => ?_, fun hno => ?_⟩
  · refine ⟨_, (hexec true).trans (congrArg Host.Outcome.next ?_), hdone (n.attached ++ [fn]) _ rfl⟩
    rw [if_neg (fun h => hno h.2), if_neg (fun h => Bool.noConfusion h.1)]
    rfl
  · obtain ⟨hout, hns, _⟩ := hdone (n.attached.filter (fun f => !decide (f = fn))) _ rfl
    refine ⟨_, (hexec false).trans (congrArg Host.Outcome.next ?_), hout, _, hns, rfl, ?_, fun g hg => ?_⟩
    · rw [if_neg (fun h => Bool.noConfusion h.1), if_neg (fun h => h.2 hyes)]
      rfl
    · simp
    · simp [hg]
  · have hexec := hexec true
    rw [if_pos ⟨rfl, hyes⟩] at hexec
    exact answered_of hexec (by decide) hb.pending (hb.quiet (by decide) 0 0)
  · have hexec := hexec false
    rw [if_neg (fun h => Bool.noConfusion h.1), if_pos ⟨rfl, hno⟩] at hexec
    exact answered_of hexec (by decide) hb.pending (hb.quiet (by decide) 0 0)

theorem formatted_holds : formatted := by
  intro h f pi ses ext n s ha hfn hf hpi hmd hses hall hn hcache hwait hflush hshut
  have hb := s.begin_begun h 0x80
  have hexec : exec (.formatNvm h f pi ses ext) s = .next
      ((((s.begin h 0x80).dropNsCache h.nsid).reformat h.nsid f pi ext).nvDone h nvOk 0 0) := by
    have hnsq : tfind (s.begin h 0x80).nvme.ns h.nsid = some n := by rw [hb.nvme]; exact hn
    show execFormatNvm h f pi ses ext s = _
    unfold execFormatNvm
    rw [State.admin_of ha 0x80 _ (.inl hfn), if_neg (format_allowed hf hpi hmd), if_neg (Nat.not_lt.mpr hses), hnsq,
      if_neg (fun h => Bool.noConfusion h.2), if_neg hall]
    rfl
  generalize s.begin h 0x80 = u at hb hexec
  have hdrop := State.dropNsCache_nvme (hb.uncached ⟨hcache, hwait, hflush, hshut⟩) h.nsid
  generalize u.dropNsCache h.nsid = v at hexec hdrop
  have hns (j : Nat) := (v.reformat_ns h.nsid f pi ext j).trans (by rw [show v.nvme.ns = s.nvme.ns by rw [hdrop, hb.nvme]])
  refine answered_of hexec (by decide) ?_ ⟨⟨n.reformat f pi ext, ?_, rfl, rfl, rfl, rfl, rfl, fun lba => ?_⟩, fun j hj => ?_⟩
  · show v.nvme.out = _ ∧ v.nvme.outstanding.filter _ = _
    rw [hdrop]
    exact hb.pending
  · rw [State.nvDone_ns, hns, hn, if_pos rfl]
    rfl
  · refine State.blkAt_blank ?_ rfl _ _
    rw [State.nvDone_ok]
    show v.nvme.cache = []
    rw [hdrop, hb.nvme]
    exact hcache
  · rw [State.nvDone_ns, hns, if_neg hj]

end Sys2Proof.Proofs

namespace Sys2Proof.Proofs
-- One thread elaborates these proofs: in parallel they ask for more stacks than the check allows.
set_option Elab.async false
open Sys2Proof.Machine Sys2Proof.Claims

theorem fwSlot_free (b : Bool) : ¬ (2 < (if b then 2 else 1) ∨ ((if b then 2 else 1) ≠ 0 ∧ ((if b then 2 else 1) == 2) ≠ b)) := by
  cases b <;> decide

theorem fwSlot_running (b : Bool) : 2 < 3 - (if b then 2 else 1) ∨ (3 - (if b then 2 else 1) ≠ 0 ∧ ((3 - (if b then 2 else 1)) == 2) ≠ b) := by
  cases b <;> decide

/-- The drive while an image is written: the slot is EMPTY, its sectors are to be erased (R279). -/
def startCommit (u : State) (h : NvmeHdr) (b : Bool) (img : FwImage) : State :=
  (u.setSlot b 0).modStore (fun t => { t with
    commit := some (h, b, img)
    queue := t.queue ++ (List.range 15).map (fun i => ({ kind := .erase ((if b then 17 else 2) + i) } : StoreOp)) ++ [{ kind := .bootWrite }]
    imgA := if b then t.imgA else none
    imgB := if b then none else t.imgB })

theorem startCommit_store (u : State) (h : NvmeHdr) (b : Bool) (img : FwImage) : (startCommit u h b img).store.commit = some (h, b, img) ∧
    (if b then (startCommit u h b img).store.slotB else (startCommit u h b img).store.slotA) = 0 ∧ (startCommit u h b img).store.image b = none ∧
    (startCommit u h b img).store.image (!b) = u.store.image (!b) ∧ journals u (startCommit u h b img) jSlot (if b then 128 else 0) 0 ∧
    ∀ i : Nat, i < 15 → ({ kind := .erase ((if b then 17 else 2) + i) } : StoreOp) ∈ (startCommit u h b img).store.queue := by
  refine ⟨rfl, ?_, ?_, ?_, ?_, fun i hi => ?_⟩
  · cases b <;> rfl
  · cases b <;> rfl
  · cases b <;> rfl
  · cases b
    · exact ⟨_, rfl, rfl, rfl, rfl, rfl, rfl, rfl, rfl⟩
    · exact ⟨_, rfl, rfl, rfl, rfl, rfl, rfl, rfl, rfl⟩
  · exact List.mem_append_left _ (List.mem_append_right _ (List.mem_map.mpr ⟨i, List.mem_range.mpr hi, rfl⟩))

theorem setSlot_store (u : State) (b : Bool) (st : Nat) : (if b then (u.setSlot b st).store.slotB else (u.setSlot b st).store.slotA) = st ∧
    (u.setSlot b st).store.image b = u.store.image b := by
  cases b
  · exact ⟨rfl, rfl⟩
  · exact ⟨rfl, rfl⟩

theorem firmware_holds : firmware := by
  intro h off data img s ha hfn b mine st
  have hb1 := s.begin_begun h 0x11
  have hb := s.begin_begun h 0x10
  have hsame {st : NvmeSts} {d0 lba : Nat} : ((s.begin h 0x10).nvDone h st d0 lba).store = s.store :=
    (State.nvDone_frame _ _ _ _ _).store_eq.trans hb.frame.store_eq
  have hexec (action slot : Nat) : exec (.firmwareCommit h action slot img) s = .next (
      if 3 ≤ action then (s.begin h 0x10).nvDone h nvInvalidField 0 0
      else if 2 < slot ∨ (slot ≠ 0 ∧ (slot == 2) ≠ b) then (s.begin h 0x10).nvDone h nvFwSlot 0 0
      else if s.store.commit.isSome ∨ 2040 ≤ s.store.used then (s.begin h 0x10).nvDone h nvInternal 0 0
      else if action = 2 then
        (match s.store.image b with
          | none => (s.begin h 0x10).nvDone h nvFwImage 0 0
          | some i =>
            if i.sigOk = false ∨ (st ≠ 1 ∧ st ≠ 4) then (s.begin h 0x10).nvDone h nvFwImage 0 0
            else if i.svn < s.store.minSvn then (s.begin h 0x10).nvDone h nvFwProhibited 0 0
            else ((s.begin h 0x10).setSlot b 2).nvDone h nvFwReset 0 0)
      else startCommit (s.begin h 0x10) h b img) := by
    show execFirmwareCommit h action slot img s = _
    unfold execFirmwareCommit
    rw [State.admin_of ha 0x10 _ (.inl hfn)]
    dsimp only
    rw [hb.frame.store_eq]
    rfl
  have hstore := hb.frame.store_eq
  have htime := hb.frame.time_eq
  generalize s.begin h 0x10 = u at hb hexec hsame hstore htime
  have hidle (hc : s.store.commit = none) (hu : s.store.used < 2040) : ¬ (s.store.commit.isSome = true ∨ 2040 ≤ s.store.used) := by
    rw [hc]
    exact not_or.mpr ⟨Bool.false_ne_true, Nat.not_le.mpr hu⟩
  refine ⟨fun hfit hwf => ?_, ?_, ?_, fun hc hu => ?_, fun hc hu i hi hsig hst => ⟨fun hsvn => ?_, fun hsvn => ?_⟩⟩
  · have hexec : exec (.firmwareImageDownload h off data) s = .next
        (((s.begin h 0x11).modNvme (fun n => { n with fwBuf := mwrite n.fwBuf off data })).nvDone h nvOk 0 0) := by
      show execFirmwareImageDownload h off data s = _
      unfold execFirmwareImageDownload
      rw [State.admin_of ha 0x11 _ (.inl hfn), if_neg (Nat.not_lt.mpr hfit)]
    have hbuf : (s.begin h 0x11).nvme.fwBuf = s.nvme.fwBuf := by rw [hb1.nvme]
    refine answered_of hexec (by decide) hb1.pending ?_
    rw [State.nvDone_ok, (State.nvDone_frame _ _ _ _ _).store_eq]
    show mread (mwrite (s.begin h 0x11).nvme.fwBuf off data) off data.length = data ∧ (∀ a : Nat, _ → mget (mwrite (s.begin h 0x11).nvme.fwBuf off data) a = _) ∧ _
    rw [hbuf]
    exact ⟨mread_mwrite off data hwf, fun a hout => mget_mwrite_other _ _ _ hout, hb1.frame.store_eq⟩
  · have hexec := hexec 3 0
    rw [if_pos (Nat.le_refl 3)] at hexec
    exact answered_of hexec (by decide) hb.pending hsame
  · have hexec := hexec 0 (3 - mine)
    rw [if_neg (by decide), if_pos (fwSlot_running b)] at hexec
    exact answered_of hexec (by decide) hb.pending hsame
  · have hexec := hexec 0 mine
    rw [if_neg (by decide), if_neg (fwSlot_free b), if_neg (hidle hc hu), if_neg (by decide)] at hexec
    obtain ⟨hcommit, hslot, hnone, hother, hjournal, herase⟩ := startCommit_store u h b img
    rw [hstore] at hother
    unfold journals at hjournal
    rw [hstore, htime] at hjournal
    refine ⟨_, hexec, ?_, hcommit, hslot, hnone, hother, hjournal, herase⟩
    exact hb.out
  · have hexec := hexec 2 mine
    rw [if_neg (by decide), if_neg (fwSlot_free b), if_neg (hidle hc hu), if_pos rfl, hi] at hexec
    dsimp only at hexec
    rw [if_neg (by simp [hsig]; omega), if_neg (Nat.not_lt.mpr hsvn)] at hexec
    refine answered_of hexec (by decide) hb.pending ?_
    rw [(State.nvDone_frame _ _ _ _ _).store_eq, ← hi, ← hstore]
    exact setSlot_store u b 2
  · have hexec := hexec 2 mine
    rw [if_neg (by decide), if_neg (fwSlot_free b), if_neg (hidle hc hu), if_pos rfl, hi] at hexec
    dsimp only at hexec
    rw [if_neg (by simp [hsig]; omega), if_pos hsvn] at hexec
    exact answered_of hexec (by decide) hb.pending hsame

/-- What a new key of a range leaves of a block: the data of the range cannot be read as it was (R327). -/
def blur (s : State) (r nsid lba : Nat) (b : Blk) : Blk := if s.lockOf nsid lba = r then
  { b with data := (List.range b.data.length).map (fun i => Config.freeByte s.freeCtr ((nsid * 2 ^ 48 + lba) * 4096 + i)) } else b

/-- A namespace after a new key of a range. -/
def rekeyed (s : State) (r i : Nat) (x : NsSt) : NsSt := { x with media := tmap x.media (blur s r i) }

theorem opal_holds : opal := by
  intro h r nsid slba nlb off dst rl wl en data s ha hfn lock
  have hb := s.begin_begun h 0x81
  have hlock : tget LockSt.reset (s.begin h 0x81).nvme.locks r = lock := by rw [hb.nvme]
  have hns : (s.begin h 0x81).nvme.ns = s.nvme.ns := by rw [hb.nvme]
  have hlocks : (s.begin h 0x81).nvme.locks = s.nvme.locks := by rw [hb.nvme]
  have hmbr : (s.begin h 0x81).nvme.mbr = s.nvme.mbr ∧ (s.begin h 0x81).nvme.mbrOn = s.nvme.mbrOn := by
    rw [hb.nvme]
    exact ⟨rfl, rfl⟩
  have hexec (cmd : OpalCmd) : exec (.securitySend h cmd) s = _ := (congrArg Host.Outcome.next (State.admin_of ha 0x81 _ (.inl hfn)) : execSecuritySend h cmd s = _)
  generalize s.begin h 0x81 = u at hb hexec hlock hns hlocks hmbr
  refine ⟨fun h1 h63 n hn hfit hnolock => ?_, fun h63 => ?_, fun h63 => ?_, fun h63 => ?_, ?_, fun hfit hwf => ?_, ?_⟩
  · have hexec := hexec (.setRange r nsid slba nlb)
    dsimp only at hexec
    rw [hns, hlocks, hn, hnolock, if_neg (by simp; omega)] at hexec
    refine answered_of hexec (by decide) hb.pending ?_
    rw [State.nvDone_ok]
    exact ⟨(tfind_tset_same _ _ _).trans (by rw [hlock]), hns⟩
  · have hexec := hexec (.setLocks r rl wl)
    dsimp only at hexec
    rw [if_neg (Nat.not_lt.mpr h63)] at hexec
    refine answered_of hexec (by decide) hb.pending ?_
    rw [State.nvDone_ok]
    exact ⟨(tfind_tset_same _ _ _).trans (by rw [hlock]), hns, fun k hk => (tfind_tset_other _ _ hk).trans (by rw [hlocks])⟩
  · have hexec := hexec (.genKey r)
    dsimp only at hexec
    rw [if_neg (Nat.not_lt.mpr h63)] at hexec
    refine answered_of hexec (by decide) hb.pending ?_
    rw [State.nvDone_ok]
    refine ⟨(tfind_tset_same _ _ _).trans (by rw [hlock]), fun i lba n x hn hx hout => ?_⟩
    have hrange : u.lockOf i lba = s.lockOf i lba := by
      unfold State.lockOf
      rw [hlocks]
    refine ⟨rekeyed u r i n, (tfind_tmap u.nvme.ns (rekeyed u r) i).trans (by rw [hns, hn]; rfl),
      (tfind_tmap n.media (blur u r i) lba).trans ?_⟩
    rw [hx]
    exact congrArg some (if_neg (by rw [hrange]; exact hout))
  · have hexec := hexec (.setLocks r rl wl)
    dsimp only at hexec
    rw [if_pos h63] at hexec
    refine answered_of hexec (by decide) hb.pending ?_
    rw [State.nvDone_quiet (by decide)]
    exact hlocks
  · refine answered_of (hexec (.setMbr en)) (by decide) hb.pending ?_
    rw [State.nvDone_ok]
    exact ⟨rfl, hmbr.1⟩
  · have hexec := hexec (.writeMbr off data)
    dsimp only at hexec
    rw [if_neg (Nat.not_lt.mpr hfit)] at hexec
    refine answered_of hexec (by decide) hb.pending ?_
    rw [State.nvDone_ok]
    show mread (mwrite u.nvme.mbr off data) off data.length = data ∧ _
    rw [hmbr.1]
    exact ⟨mread_mwrite off data hwf, hmbr.2⟩
  · have hb2 := s.begin_begun h 0x82
    obtain ⟨p, hp, hexec2⟩ : ∃ p : List Byte, p.length = 512 ∧ exec (.securityReceive h dst) s = .next ((s.begin h 0x82).sendPage h dst p) := by
      refine ⟨_, pageOver_length (s.begin h 0x82).freeCtr 512 [], ?_⟩
      show execSecurityReceive h dst s = _
      unfold execSecurityReceive
      rw [State.admin_of ha 0x82 _ (.inl hfn)]
    refine answered_of hexec2 (by decide) (pendingOnly_of hb2.pending (State.hostWrite_nvme _ dst p)) (fun a hout => ?_)
    rw [(State.nvDone_frame _ _ _ _ _).host_eq]
    refine (mget_mwrite_other _ _ _ ?_).trans (by rw [hb2.frame.host_eq])
    rw [hp]
    exact hout

end Sys2Proof.Proofs

namespace Sys2Proof.Machine
-- One thread elaborates these proofs: in parallel they ask for more stacks than the check allows.
set_option Elab.async false
open Sys2Proof.Claims

/-! ### What a sanitize removes (R329) -/

theorem State.foldl_dropNsCache {s : State} (h : uncached s.nvme) (l : List Nat) : (l.foldl (fun s i => s.dropNsCache i) s).nvme = s.nvme ∧
    Frame [.ctxs, .nand, .store, .nvme, .errs, .mgmt] s (l.foldl (fun s i => s.dropNsCache i) s) := by
  induction l generalizing s with
  | nil => exact ⟨rfl, Frame.refl _ _⟩
  | cons i l ih =>
    have hdrop := State.dropNsCache_nvme h i
    obtain ⟨hnvme, hframe⟩ := ih (s := s.dropNsCache i) (by rw [hdrop]; exact h)
    exact ⟨hnvme.trans hdrop, (State.dropNsCache_frame s i).after hframe rfl⟩

theorem State.obj_destroyObj (s : State) (o p : Nat) : (s.destroyObj o).obj? p = if p = o then none else s.obj? p := by
  unfold State.destroyObj
  split
  · next h =>
    split
    · next hp => rw [hp, h]
    · rfl
  · show tfind (tdel s.objs o) p = _
    split
    · next hp =>
      rw [hp]
      exact tfind_tdel_same _ _
    · next hp => exact tfind_tdel_other _ hp

/-- Objects that are destroyed are gone; no other object comes. -/
theorem State.foldl_destroyObj (l : List Nat) (s : State) : (∀ o : Nat, o ∈ l ∨ s.obj? o = none → (l.foldl State.destroyObj s).obj? o = none) ∧
    Frame [.objs, .store] s (l.foldl State.destroyObj s) := by
  induction l generalizing s with
  | nil => exact ⟨fun o ho => ho.elim (fun h => absurd h (List.not_mem_nil)) id, Frame.refl _ _⟩
  | cons p l ih =>
    obtain ⟨hgone, hframe⟩ := ih (s.destroyObj p)
    refine ⟨fun o ho => hgone o ?_, (State.destroyObj_frame s p).after hframe rfl⟩
    rw [State.obj_destroyObj]
    rcases ho with ho | ho
    · rcases List.mem_cons.mp ho with rfl | ho
      · exact .inr (if_pos rfl)
      · exact .inl ho
    · right
      rw [ho]
      exact ite_self _

/-- A namespace without its data. -/
def NsSt.wiped (n : NsSt) : NsSt := { n with media := [], bad := [] }

/-- The drive without the data of its namespaces. -/
def State.noData (s : State) : State := s.modNvme (fun n => { n with ns := tmap n.ns (fun _ x => x.wiped) })

/-- The objects that a sanitize destroys. -/
def State.doomed (s : State) : List Nat :=
  (s.objs.filter (fun o => o.2.pageTab.any (fun p => p.2.tier == 2) || (o.2.persistent && o.2.kind != 3))).map (·.1)

/-- No context maps an object of a list any more. -/
def State.unmap (s : State) (l : List Nat) : State :=
  s.modCtxs (fun t => tmap t (fun _ c => { c with handles := c.handles.filter (fun x => !l.contains x.2.obj) }))

theorem State.wipe_eq (s : State) : s.wipe = ((s.nvme.ns.map (·.1)).foldl (fun s i => s.dropNsCache i) s).noData.doomed.foldl State.destroyObj
    (((s.nvme.ns.map (·.1)).foldl (fun s i => s.dropNsCache i) s).noData.unmap ((s.nvme.ns.map (·.1)).foldl (fun s i => s.dropNsCache i) s).noData.doomed) := rfl

theorem State.wipe_spec {s : State} (h : uncached s.nvme) : s.wipe.nvme = { s.nvme with ns := tmap s.nvme.ns (fun _ n => n.wiped) } ∧
    ∀ (o : Nat) (x : ObjectSt), s.obj? o = some x → (∃ p ∈ x.pageTab, p.2.tier = 2) → s.wipe.obj? o = none := by
  obtain ⟨hnvme, hframe⟩ := State.foldl_dropNsCache h (s.nvme.ns.map (·.1))
  rw [State.wipe_eq]
  generalize (s.nvme.ns.map (·.1)).foldl (fun s i => s.dropNsCache i) s = v at hnvme hframe
  obtain ⟨hgone, hdestroy⟩ := State.foldl_destroyObj v.noData.doomed (v.noData.unmap v.noData.doomed)
  refine ⟨hdestroy.nvme_eq.trans ?_, fun o x hx hp => hgone o (.inl ?_)⟩
  · rw [← hnvme]
    rfl
  · obtain ⟨p, hp, ht⟩ := hp
    have hobjs : v.objs = s.objs := hframe.objs_eq
    refine List.mem_map.mpr ⟨(o, x), List.mem_filter.mpr ⟨?_, ?_⟩, rfl⟩
    · show (o, x) ∈ v.objs
      rw [hobjs]
      exact mem_of_tfind hx
    · exact Bool.or_eq_true_iff.mpr (.inl (List.any_eq_true.mpr ⟨p, hp, beq_iff_eq.mpr ht⟩))

end Sys2Proof.Machine

namespace Sys2Proof.Proofs
-- One thread elaborates these proofs: in parallel they ask for more stacks than the check allows.
set_option Elab.async false
open Sys2Proof.Machine Sys2Proof.Claims

theorem sanitizeStart_refused {s u : State} {h : NvmeHdr} (hb : begun s u h) (hopen : ∃ c ∈ s.ctxs, c.2.queues ≠ []) (k : Nat) :
    u.sanitizeStart h k = u.nvDone h nvSequence 0 0 := by
  obtain ⟨c, hc, hq⟩ := hopen
  unfold State.sanitizeStart
  rw [hb.frame.ctxs_eq]
  exact if_pos (List.any_eq_true.mpr ⟨c, hc, by simpa using hq⟩)

theorem sanitizeStart_done {s u : State} {h : NvmeHdr} (hb : begun s u h) (hclosed : ∀ c ∈ s.ctxs, c.2.queues = []) (hidle : s.nvme.sanitize = 0) (k : Nat) :
    u.sanitizeStart h k = (u.wipe.modNvme (fun n => { n with
      sanitize := k
      locks := if k = 2 then (tmod LockSt.reset n.locks 0 id).map (fun l => (l.1, { l.2 with keyGen := l.2.keyGen + 1 })) else n.locks })).nvDone h nvOk 0 0 := by
  unfold State.sanitizeStart
  rw [hb.frame.ctxs_eq, if_neg, if_neg]
  · unfold State.sanitizing
    rw [hb.nvme]
    simp [hidle]
  · rw [List.any_eq_true]
    rintro ⟨c, hc, hq⟩
    rw [hclosed c hc] at hq
    exact Bool.noConfusion hq

theorem tget_of {α : Type} {d x : α} {t : Table α} {k : Nat} (h : tfind t k = some x) : tget d t k = x := by
  unfold tget
  rw [h]
  rfl

/-- An entry of a table that is touched at one key stays. -/
theorem tfind_tmod_id {α : Type} {d x : α} {t : Table α} {k j : Nat} (h : tfind t j = some x) : tfind (tmod d t k id) j = some x := by
  unfold tmod
  by_cases hj : j = k
  · subst hj
    rw [tfind_tset_same, id, tget_of h]
  · rw [tfind_tset_other _ _ hj, h]

/-- A block after a block erase of a sanitize. -/
def erased (b : BlockSt) : BlockSt := if b.retired then b else
  { b with erases := b.erases + 1, reads := 0, torn := false, committed := 0, laddered := 0, refresh := false }

theorem sanitized_holds : sanitized := by
  intro h s ha hfn hcache hwait hflush hshut
  have hb := s.begin_begun h 0x84
  have hexec (k : Nat) (c : Instr) (hc : (c = .sanitizeBlockErase h ∧ k = 1) ∨ (c = .sanitizeCryptoErase h ∧ k = 2)) :
      exec c s = .next ((s.begin h 0x84).sanitizeStart h k) := by
    rcases hc with ⟨rfl, rfl⟩ | ⟨rfl, rfl⟩
    · exact congrArg Host.Outcome.next (State.admin_of ha 0x84 _ (.inl hfn))
    · exact congrArg Host.Outcome.next (State.admin_of ha 0x84 _ (.inl hfn))
  generalize s.begin h 0x84 = u at hb hexec
  refine ⟨fun hclosed hidle c k hc => ?_, fun hopen => ⟨?_, ?_⟩⟩
  · obtain ⟨hnvme, hobj⟩ := State.wipe_spec (hb.uncached ⟨hcache, hwait, hflush, hshut⟩)
    rw [hb.nvme] at hnvme
    have hexec := (hexec k c hc).trans (congrArg Host.Outcome.next (sanitizeStart_done hb hclosed hidle k))
    refine answered_of hexec (by decide) ?_ ⟨?_, fun i m hm lba => ?_, fun o x hx hp _ => ?_, fun hk r l hl => ?_⟩
    · show u.wipe.nvme.out = _ ∧ u.wipe.nvme.outstanding.filter _ = _
      rw [hnvme]
      exact ⟨rfl, hb.rest⟩
    · rw [State.nvDone_ok]
      rfl
    · refine State.blkAt_blank ?_ ?_ _ _
      · rw [State.nvDone_ok]
        show u.wipe.nvme.cache = []
        rw [hnvme]
        exact hcache
      · rw [State.nvDone_ok] at hm
        change tfind u.wipe.nvme.ns i = some m at hm
        rw [hnvme] at hm
        change tfind (tmap s.nvme.ns (fun _ n => n.wiped)) i = some m at hm
        rw [tfind_tmap] at hm
        obtain ⟨n, _, rfl⟩ := Option.map_eq_some_iff.mp hm
        rfl
    · unfold State.obj?
      rw [(State.nvDone_frame _ _ _ _ _).objs_eq]
      refine hobj o x ?_ hp
      unfold State.obj?
      rw [hb.frame.objs_eq]
      exact hx
    · rw [State.nvDone_ok]
      show ∃ m, tfind (if k = 2 then _ else _) r = some m ∧ _
      rw [if_pos hk]
      have hlocks : u.wipe.nvme.locks = s.nvme.locks := by rw [hnvme]
      have hrekey := tfind_tmap (tmod LockSt.reset u.wipe.nvme.locks 0 id) (fun _ l => { l with keyGen := l.keyGen + 1 }) r
      rw [tfind_tmod_id (by rw [hlocks]; exact hl)] at hrekey
      exact ⟨_, hrekey, rfl⟩
  · have hexec := (hexec 1 _ (.inl ⟨rfl, rfl⟩)).trans (congrArg Host.Outcome.next (sanitizeStart_refused hb hopen 1))
    exact answered_of hexec (by decide) hb.pending (hb.quiet (by decide) 0 0)
  · have hexec := (hexec 2 _ (.inr ⟨rfl, rfl⟩)).trans (congrArg Host.Outcome.next (sanitizeStart_refused hb hopen 2))
    exact answered_of hexec (by decide) hb.pending (hb.quiet (by decide) 0 0)

/-- The drive after a sanitize has been counted. -/
def sanitizeCounted (s : State) : State :=
  s.modNvme (fun n => { n with sanitize := 0, sanitizeDone := satAdd 32 n.sanitizeDone 1, idleSince := s.time.now })

theorem sanitizeEnds_holds : sanitizeEnds := by
  intro s hlive
  refine ⟨fun h0 => if_neg ?_, fun hrun => ?_⟩
  · unfold State.sanitizing
    simp [h0]
  · have hsan : s.sanitizing = true := decide_eq_true hrun
    have hexec : exec .sanitizeDone s = .next (if s.nvme.sanitize = 1 then
        (sanitizeCounted s).modNand (fun n => { n with rows := [], blocks := tmap n.blocks (fun _ b => erased b) }) else sanitizeCounted s) := if_pos ⟨hlive, hsan⟩
    by_cases h1 : s.nvme.sanitize = 1
    · rw [if_pos h1] at hexec
      refine ⟨_, hexec, rfl, rfl, rfl, fun _ => ⟨rfl, fun d b hserves hhas => ?_⟩⟩
      obtain ⟨x, hx⟩ := Option.isSome_iff_exists.mp hhas
      have hnew : tfind (tmap s.nand.blocks (fun _ b => erased b)) (blockKey d b) = some (erased x) := by rw [tfind_tmap, hx]; rfl
      have hold : s.block d b = x := tget_of hx
      have hblock (t : State) (ht : t.nand.blocks = tmap s.nand.blocks (fun _ b => erased b)) : t.block d b = erased x := by
        unfold State.block
        rw [ht, tget_of hnew]
      rw [hblock _ rfl]
      rw [hold] at hserves ⊢
      unfold erased
      rw [if_neg (by rw [hserves]; decide)]
      exact ⟨rfl, rfl, rfl⟩
    · rw [if_neg h1] at hexec
      exact ⟨_, hexec, rfl, rfl, rfl, fun h => absurd h h1⟩

/-- Settles O53. -/
theorem nvmeManagement : Obligations.NvmeManagement :=
  ⟨namespaceCreated_holds, namespaceDeleted_holds, namespaceAttached_holds, formatted_holds, firmware_holds, opal_holds, sanitized_holds, sanitizeEnds_holds⟩

end Sys2Proof.Proofs

/-! The NVM commands: O54. -/

namespace Sys2Proof.Machine
-- One thread elaborates these proofs: in parallel they ask for more stacks than the check allows.
set_option Elab.async false
open Sys2Proof.Claims

/-! ### NVM commands that are taken, and the statuses that are logged -/

theorem State.nvm_sanitize {s : State} {h : NvmeHdr} (hio : h.sqid ≠ 0) (ht : s.takes h = true) (hsan : s.nvme.sanitize ≠ 0) (op lba : Nat) (f : State → NsSt → State) :
    s.nvm h op lba f = (s.begin h op).nvDone h nvSanitize 0 lba := by
  unfold State.nvm
  rw [if_neg (by rw [ht]; simp [hio])]
  exact if_pos (decide_eq_true hsan)

theorem State.not_sanitizing {s : State} (hsan : s.nvme.sanitize = 0) : ¬ s.sanitizing = true := by
  unfold State.sanitizing
  simp [hsan]

theorem State.nvm_noNs {s : State} {h : NvmeHdr} (hio : h.sqid ≠ 0) (ht : s.takes h = true) (hsan : s.nvme.sanitize = 0) (hn : tfind s.nvme.ns h.nsid = none)
    (op lba : Nat) (f : State → NsSt → State) : s.nvm h op lba f = (s.begin h op).nvDone h nvInvalidNs 0 lba := by
  unfold State.nvm
  rw [if_neg (by rw [ht]; simp [hio])]
  dsimp only
  rw [if_neg (State.not_sanitizing hsan), hn]

theorem State.nvm_of {s : State} {h : NvmeHdr} (hio : h.sqid ≠ 0) (ht : s.takes h = true) (hsan : s.nvme.sanitize = 0) {n : NsSt} (hn : tfind s.nvme.ns h.nsid = some n)
    (hatt : h.fn ∈ n.attached) (op lba : Nat) (f : State → NsSt → State) : s.nvm h op lba f = f (s.begin h op) n := by
  unfold State.nvm
  rw [if_neg (by rw [ht]; simp [hio])]
  dsimp only
  rw [if_neg (State.not_sanitizing hsan), hn]
  exact if_pos (List.contains_iff_mem.mpr hatt)

/-- The NVMe state after a command has ended, whatever its status; only the Error Information log of its controller is left open. -/
theorem State.nvDoneAt_nvme (s : State) (h : NvmeHdr) (st : NvmeSts) (d0 lba addr : Nat) : (s.nvDoneAt h st d0 lba addr).nvme = { s.nvme with
    outstanding := s.nvme.outstanding.filter (fun o => !o.1.same h), idleSince := s.time.now, out := s.nvme.out ++ [cplOf h st d0]
    ctls := (s.nvDoneAt h st d0 lba addr).nvme.ctls } := by
  have hend : (s.nvEnd h st d0).nvme = { s.nvme with
      outstanding := s.nvme.outstanding.filter (fun o => !o.1.same h), idleSince := s.time.now, out := s.nvme.out ++ [cplOf h st d0] } := State.nvmeIrq_nvme _ _ _
  unfold State.nvDoneAt
  split
  · rw [(State.logNvme_frame _ _ _ _ _).nvme_eq]
    have hinfo : ((s.nvEnd h st d0).errInfo h st lba).nvme = { (s.nvEnd h st d0).nvme with ctls := ((s.nvEnd h st d0).errInfo h st lba).nvme.ctls } := rfl
    rw [hend] at hinfo
    exact hinfo
  · rw [hend]

/-- A status of Table 13-6 stands in the Error Information log. -/
theorem State.nvDoneAt_logged {st : NvmeSts} (hst : st.logged = true) (s : State) (h : NvmeHdr) (d0 lba addr : Nat) :
    ∃ e ∈ ((s.nvDoneAt h st d0 lba addr).ctl h.fn).errLog, e.sqid = h.sqid ∧ e.cid = h.cid ∧ e.nsid = h.nsid := by
  have hctl : (s.nvDoneAt h st d0 lba addr).ctl h.fn = ((s.nvEnd h st d0).errInfo h st lba).ctl h.fn := by
    unfold State.nvDoneAt
    rw [if_pos hst]
    exact State.ctl_of_nvme (by rw [(State.logNvme_frame _ _ _ _ _).nvme_eq]) _
  rw [hctl]
  unfold State.errInfo
  rw [State.ctl_modCtl]
  exact ⟨_, List.mem_cons_self, rfl, rfl, rfl⟩

/-- Is a namespace attached to a function? -/
def State.attachedTo (s : State) (fn nsid : Nat) : Bool := match tfind s.nvme.ns nsid with | some n => n.attached.contains fn | none => false

/-- The cached pieces that a Flush waits for (R319). -/
def State.flushWaits (s : State) (u : State) (h : NvmeHdr) : List Nat :=
  (u.nvme.cache.filter (fun e => e.completed && (if h.nsid = 0xFFFFFFFF then s.attachedTo h.fn e.h.nsid else e.h.nsid == h.nsid))).map (·.id)

theorem execFlush_eq (h : NvmeHdr) (s : State) : exec (.flush h) s = if h.sqid = 0 ∨ s.takes h = false then .next s
    else if s.sanitizing then .next ((s.begin h 0x00).nvDone h nvSanitize 0 0)
    else if h.nsid ≠ 0xFFFFFFFF ∧ s.attachedTo h.fn h.nsid = false then .next ((s.begin h 0x00).nvDone h nvInvalidNs 0 0)
    else .next (if (s.flushWaits (s.begin h 0x00) h).isEmpty then (s.begin h 0x00).nvDone h nvOk 0 0
      else (s.begin h 0x00).modNvme (fun n => { n with flushes := n.flushes ++ [{ h := h, waits := s.flushWaits (s.begin h 0x00) h, since := s.time.now }] })) := rfl

end Sys2Proof.Machine

namespace Sys2Proof.Proofs
-- One thread elaborates these proofs: in parallel they ask for more stacks than the check allows.
set_option Elab.async false
open Sys2Proof.Machine Sys2Proof.Claims

/-! ### What turns a command away -/

/-- A command that is turned away with a status. -/
theorem turned_of {c : Instr} {s u : State} {h : NvmeHdr} {st : NvmeSts} {lba : Nat} (hb : begun s u h) (hexec : exec c s = .next (u.nvDone h st 0 lba)) :
    ∃ t : State, exec c s = .next t ∧ cplOf h st 0 ∈ t.nvme.out ∧ t.nvme.ns = s.nvme.ns ∧ t.nvme.cache = s.nvme.cache ∧ t.nvme.waiting = s.nvme.waiting ∧ t.host = s.host ∧
      (∀ o ∈ t.nvme.outstanding, o.1.same h = false) ∧
      (st.logged = true → ∃ e ∈ (t.ctl h.fn).errLog, e.sqid = h.sqid ∧ e.cid = h.cid ∧ e.nsid = h.nsid) := by
  refine ⟨_, hexec, State.nvDone_out _ _ _ _ _, ?_, ?_, ?_, (State.nvDone_frame _ _ _ _ _).host_eq.trans hb.frame.host_eq, fun o ho => ?_,
    fun hst => State.nvDoneAt_logged hst u h 0 lba 0⟩
  · rw [State.nvDone, State.nvDoneAt_nvme, hb.nvme]
  · rw [State.nvDone, State.nvDoneAt_nvme, hb.nvme]
  · rw [State.nvDone, State.nvDoneAt_nvme, hb.nvme]
  · rw [State.nvDone, State.nvDoneAt_nvme] at ho
    simpa using (List.mem_filter.mp ho).2

theorem rangeErr_over {n : NsSt} {slba nlb : Nat} (h0 : 0 < nlb) (hover : n.nlba < slba + nlb) (xfer : Bool) : n.rangeErr slba nlb xfer = some nvLbaRange := by
  unfold NsSt.rangeErr
  rw [if_neg (Nat.ne_of_gt h0), if_pos hover]

theorem rangeErr_none {n : NsSt} {slba nlb : Nat} {xfer : Bool} (h0 : 0 < nlb) (hin : slba + nlb ≤ n.nlba) (hx : xfer = true → nlb * lbaData n.lbaf ≤ 2097152) :
    n.rangeErr slba nlb xfer = none := by
  unfold NsSt.rangeErr
  rw [if_neg (Nat.ne_of_gt h0), if_neg (Nat.not_lt.mpr hin), if_neg (fun h => Nat.not_lt.mpr (hx h.1) h.2)]

/-- With the Global Range alone, a range is locked when that is. -/
theorem lockHit_global {s : State} {l : LockSt} (hl : s.nvme.locks = [(0, l)]) (f : LockSt → Bool) (nsid slba : Nat) {nlb : Nat} (h0 : 0 < nlb) :
    s.lockHit f nsid slba nlb = f l := by
  unfold State.lockHit
  rw [hl]
  show (false || (f l && decide (0 < nlb))) = f l
  rw [decide_eq_true h0, Bool.and_true, Bool.false_or]

theorem turnedAway_holds : turnedAway := by
  intro h slba nlb prchk dst mdst fua pract pi data s hio ht row w r
  have hb1 := s.begin_begun h 0x01
  have hb2 := s.begin_begun h 0x02
  have hb0 := s.begin_begun h 0x00
  refine ⟨fun hsan => ⟨?_, ?_, ?_⟩, fun hsan hn => ⟨?_, ?_, fun hall => ?_⟩, fun n hsan hn hatt => ⟨fun h0 hover => ⟨?_, ?_⟩, fun hin hro => ?_,
    fun hin hrw hok l hl => ⟨fun hwl => ?_, fun hrl => ?_⟩⟩⟩
  · exact turned_of hb1 (congrArg Host.Outcome.next (State.nvm_sanitize hio ht hsan _ _ _))
  · exact turned_of hb2 (congrArg Host.Outcome.next (State.nvm_sanitize hio ht hsan _ _ _))
  · refine turned_of (lba := 0) hb0 ?_
    rw [execFlush_eq, if_neg (by rw [ht]; simp [hio]), if_pos (show s.sanitizing = true from decide_eq_true hsan)]
  · exact turned_of hb1 (congrArg Host.Outcome.next (State.nvm_noNs hio ht hsan hn _ _ _))
  · exact turned_of hb2 (congrArg Host.Outcome.next (State.nvm_noNs hio ht hsan hn _ _ _))
  · refine turned_of (lba := 0) hb0 ?_
    have hmine : s.attachedTo h.fn h.nsid = false := by
      unfold State.attachedTo
      rw [hn]
    rw [execFlush_eq, if_neg (by rw [ht]; simp [hio]), if_neg (State.not_sanitizing hsan), if_pos ⟨hall, hmine⟩]
  · refine turned_of (lba := slba) hb1 ?_
    show execWrite _ _ _ _ _ _ _ _ s = _
    unfold execWrite
    rw [State.nvm_of hio ht hsan hn hatt, rangeErr_over h0 hover]
  · refine turned_of (lba := slba) hb2 ?_
    show execRead _ _ _ _ _ _ _ _ s = _
    unfold execRead State.readRange
    rw [State.nvm_of hio ht hsan hn hatt, rangeErr_over h0 hover]
  · refine turned_of (lba := slba) hb1 ?_
    show execWrite _ _ _ _ _ _ _ _ s = _
    unfold execWrite
    rw [State.nvm_of hio ht hsan hn hatt, rangeErr_none hin.1 hin.2.1 (fun _ => hin.2.2)]
    dsimp only
    unfold State.writeErr
    rw [if_pos (.inl (by rw [hb1.nvme]; exact hro))]
  · refine turned_of (lba := slba) hb1 ?_
    show execWrite _ _ _ _ _ _ _ _ s = _
    unfold execWrite
    rw [State.nvm_of hio ht hsan hn hatt, rangeErr_none hin.1 hin.2.1 (fun _ => hin.2.2)]
    dsimp only
    unfold State.writeErr
    rw [if_neg, lockHit_global (l := l) (by rw [hb1.nvme]; exact hl) _ _ _ hin.1, if_pos hwl]
    rw [hb1.nvme, hb1.power]
    simp [hrw, hok]
  · refine turned_of (lba := slba) hb2 ?_
    show execRead _ _ _ _ _ _ _ _ s = _
    unfold execRead State.readRange
    rw [State.nvm_of hio ht hsan hn hatt, rangeErr_none hin.1 hin.2.1 (fun _ => hin.2.2)]
    dsimp only
    rw [lockHit_global (l := l) (by rw [hb2.nvme]; exact hl) _ _ _ hin.1, if_pos hrl]

end Sys2Proof.Proofs

namespace Sys2Proof.Machine
-- One thread elaborates these proofs: in parallel they ask for more stacks than the check allows.
set_option Elab.async false
open Sys2Proof.Claims

/-! ### What the write cache reads as (R317) -/

/-- The block that the newest of some pieces holds. -/
def cachedBlk (c : List Extent) (nsid f lba : Nat) : Option Blk := (c.reverse.find? (fun e => e.covers nsid lba)).map (·.blk f lba)

theorem State.blkAt_eq (s : State) (nsid : Nat) (n : NsSt) (lba : Nat) :
    s.blkAt nsid n lba = (cachedBlk s.nvme.cache nsid n.lbaf lba).getD (tget (deallocBlk n.lbaf) n.media lba) := by
  unfold State.blkAt State.cached cachedBlk
  cases s.nvme.cache.reverse.find? (fun e => e.covers nsid lba) <;> rfl

theorem cachedBlk_append (a b : List Extent) (nsid f lba : Nat) : cachedBlk (a ++ b) nsid f lba = (cachedBlk b nsid f lba).or (cachedBlk a nsid f lba) := by
  unfold cachedBlk
  rw [List.reverse_append, List.find?_append]
  cases b.reverse.find? (fun e => e.covers nsid lba) <;> rfl

/-- Marks on pieces change nothing that is read. -/
theorem cachedBlk_map {m : Extent → Extent} (hcovers : ∀ (e : Extent) (i lba : Nat), (m e).covers i lba = e.covers i lba)
    (hblk : ∀ (e : Extent) (f lba : Nat), (m e).blk f lba = e.blk f lba) (c : List Extent) (nsid f lba : Nat) :
    cachedBlk (c.map m) nsid f lba = cachedBlk c nsid f lba := by
  unfold cachedBlk
  rw [← List.map_reverse, List.find?_map, Option.map_map]
  have hsame : ((fun e : Extent => e.covers nsid lba) ∘ m) = fun e => e.covers nsid lba := funext (fun e => hcovers e nsid lba)
  have hread : ((fun e : Extent => e.blk f lba) ∘ m) = fun e => e.blk f lba := funext (fun e => hblk e f lba)
  rw [hsame, hread]

theorem cachedBlk_none {c : List Extent} {nsid lba : Nat} (h : ∀ e ∈ c, e.covers nsid lba = false) (f : Nat) : cachedBlk c nsid f lba = none := by
  unfold cachedBlk
  rw [List.find?_eq_none.mpr (fun e he => by rw [h e (List.mem_reverse.mp he)]; decide)]
  rfl

/-- When the pieces that hold a block agree on it, that is what is read. -/
theorem cachedBlk_some {c : List Extent} {nsid f lba : Nat} {b : Blk} (hsome : ∃ e ∈ c, e.covers nsid lba = true)
    (hall : ∀ e ∈ c, e.covers nsid lba = true → e.blk f lba = b) : cachedBlk c nsid f lba = some b := by
  obtain ⟨e, he, hc⟩ := hsome
  unfold cachedBlk
  have hfound : (c.reverse.find? (fun e => e.covers nsid lba)).isSome = true := List.find?_isSome.mpr ⟨e, List.mem_reverse.mpr he, hc⟩
  obtain ⟨x, hx⟩ := Option.isSome_iff_exists.mp hfound
  have hcx := List.find?_some hx
  rw [hx]
  exact congrArg some (hall x (List.mem_reverse.mp (List.mem_of_find?_eq_some hx)) hcx)

/-! ### The pieces of a command -/

/-- A piece of a range lies in it. -/
theorem cutRange_within {per fuel a n : Nat} {r : Nat × Nat} (h : r ∈ cutRange per fuel a n) : a ≤ r.1 ∧ r.1 + r.2 ≤ a + n := by
  induction fuel generalizing a n with
  | zero => cases h
  | succ fuel ih =>
    unfold cutRange at h
    split at h
    · cases h
    · rcases List.mem_cons.mp h with rfl | h
      · exact ⟨Nat.le_refl _, Nat.add_le_add_left (Nat.min_le_left _ _) _⟩
      · have hin := ih h
        omega

/-- Every block of a range stands in a piece. -/
theorem cutRange_covers {per fuel a n i : Nat} (hfuel : n ≤ fuel * per) (hi : i < n) : ∃ r ∈ cutRange per fuel a n, r.1 ≤ a + i ∧ a + i < r.1 + r.2 := by
  induction fuel generalizing a n i with
  | zero => omega
  | succ fuel ih =>
    unfold cutRange
    rw [if_neg (by omega)]
    by_cases hfirst : i < min n per
    · exact ⟨_, List.mem_cons_self, Nat.le_add_right _ _, Nat.add_lt_add_left hfirst _⟩
    · have hrest : n - min n per ≤ fuel * per := by
        rw [Nat.succ_mul] at hfuel
        omega
      obtain ⟨r, hr, h1, h2⟩ := ih (a := a + min n per) (i := i - min n per) hrest (by omega)
      exact ⟨r, List.mem_cons_of_mem _ hr, by omega, by omega⟩

/-- What every piece of a write-type command has. -/
structure piece (e : Extent) (h : NvmeHdr) (fua : Bool) : Prop where
  h : e.h = h
  fua : e.fua = fua
  completed : e.completed = false
  dead : e.dead = []

theorem dataPieces_mem {h : NvmeHdr} {n : NsSt} {fua : Bool} {id slba : Nat} {bs : List Blk} {e : Extent} (he : e ∈ dataPieces h n fua id slba bs) :
    piece e h fua ∧ e.kind = 0 ∧ ∃ a k : Nat, e.slba = slba + a ∧ e.nlb = k ∧ e.blocks = (bs.drop a).take k ∧ a + k ≤ bs.length := by
  obtain ⟨p, hp, rfl⟩ := List.mem_map.mp he
  have hr := cutRange_within (List.of_mem_zip hp).2
  exact ⟨⟨rfl, rfl, rfl, rfl⟩, rfl, p.2.1, p.2.2, rfl, rfl, rfl, by omega⟩

theorem covers_iff {e : Extent} (hd : e.dead = []) (nsid lba : Nat) : e.covers nsid lba = true ↔ e.h.nsid = nsid ∧ e.slba ≤ lba ∧ lba < e.slba + e.nlb := by
  unfold Extent.covers
  rw [hd]
  simp

theorem dataPieces_covers (h : NvmeHdr) (n : NsSt) (fua : Bool) (id slba : Nat) {bs : List Blk} {i : Nat} (hi : i < bs.length) :
    ∃ e ∈ dataPieces h n fua id slba bs, e.covers h.nsid (slba + i) = true := by
  have hper : 0 < 262144 / lbaData n.lbaf := by
    unfold lbaData
    split <;> decide
  obtain ⟨r, hr, h1, h2⟩ := cutRange_covers (per := 262144 / lbaData n.lbaf) (a := 0) (Nat.mul_comm _ _ ▸ Nat.le_of_lt (Nat.lt_mul_div_succ _ hper)) hi
  obtain ⟨j, hj⟩ := List.mem_iff_getElem?.mp hr
  refine ⟨_, List.mem_map.mpr ⟨(j, r), mem_range_zip.mpr hj, rfl⟩, (covers_iff rfl _ _).mpr ⟨rfl, ?_, ?_⟩⟩
  · show slba + r.1 ≤ slba + i
    omega
  · show slba + i < slba + r.1 + r.2
    omega

/-- The pieces of a write read as its blocks, and nothing else reads them. -/
theorem dataPieces_reads (h : NvmeHdr) (n : NsSt) (fua : Bool) (id slba : Nat) (bs : List Blk) (f : Nat) :
    (∀ (i : Nat) (hi : i < bs.length), cachedBlk (dataPieces h n fua id slba bs) h.nsid f (slba + i) = some bs[i]) ∧
    ∀ m lba : Nat, m ≠ h.nsid ∨ lba < slba ∨ slba + bs.length ≤ lba → cachedBlk (dataPieces h n fua id slba bs) m f lba = none := by
  refine ⟨fun i hi => cachedBlk_some (dataPieces_covers h n fua id slba hi) (fun e he hc => ?_), fun m lba hout => cachedBlk_none (fun e he => ?_) f⟩
  · obtain ⟨hp, hkind, a, k, hslba, hnlb, hblocks, hak⟩ := dataPieces_mem he
    obtain ⟨_, h1, h2⟩ := (covers_iff hp.dead _ _).mp hc
    unfold Extent.blk
    rw [if_pos hkind, hblocks, hslba, List.getD_eq_getElem?_getD, List.getElem?_take_of_lt (by omega), List.getElem?_drop,
      show a + (slba + i - (slba + a)) = i by omega, List.getElem?_eq_getElem hi]
    rfl
  · obtain ⟨hp, hkind, a, k, hslba, hnlb, hblocks, hak⟩ := dataPieces_mem he
    refine Bool.eq_false_iff.mpr (fun hc => ?_)
    obtain ⟨hns, h1, h2⟩ := (covers_iff hp.dead _ _).mp hc
    rw [hp.h] at hns
    omega

/-! ### Pieces enter the cache (R317, R320 to R322) -/

/-- A piece as it enters the cache. -/
def State.admitOne (s : State) (e : Extent) : Extent := { e with fua := e.fua || (!s.nvme.wce || s.writeThrough), since := s.time.now }

/-- The pieces of a command are marked completed. -/
def completeOf (h : NvmeHdr) (e : Extent) : Extent := if e.h.same h then { e with completed := true } else e

theorem completeOf_covers (h : NvmeHdr) (e : Extent) (i lba : Nat) : (completeOf h e).covers i lba = e.covers i lba := by
  unfold completeOf
  split <;> rfl

theorem completeOf_blk (h : NvmeHdr) (e : Extent) (f lba : Nat) : (completeOf h e).blk f lba = e.blk f lba := by
  unfold completeOf
  split <;> rfl

/-- The drive with more pieces in its cache. -/
def State.cachePieces (s : State) (es : List Extent) : State := (s.bumpBy es.length).modNvme (fun n => { n with cache := n.cache ++ es.map s.admitOne })

/-- The drive with the pieces of a command marked completed. -/
def State.completePieces (s : State) (h : NvmeHdr) : State := s.modNvme (fun n => { n with cache := n.cache.map (completeOf h) })

theorem State.submit_room {s : State} {h : NvmeHdr} {es : List Extent} (hwait : s.nvme.waiting = []) (hroom : s.cacheRoom es = true) (hne : es ≠ [])
    (hh : ∀ e ∈ es, e.h = h) : s.submit es = (s.cachePieces es).admitted h := by
  unfold State.submit
  dsimp only
  rw [if_pos ⟨hwait, hroom⟩]
  cases es with
  | nil => exact absurd rfl hne
  | cons e es =>
    unfold State.admitPieces
    dsimp only
    rw [hh e List.mem_cons_self]
    rfl

/-- Without FUA a write that has entered the cache completes. -/
theorem State.admitted_now {s : State} {h : NvmeHdr} (hwait : s.nvme.waiting = []) (hc : ∀ e ∈ s.nvme.cache, e.h.same h = true → e.fua = false) :
    s.admitted h = (s.completePieces h).nvDone h nvOk 0 0 := by
  unfold State.admitted
  rw [if_neg]
  · rfl
  · rw [hwait]
    rintro (hw | hw)
    · exact Bool.noConfusion hw
    · obtain ⟨e, he, hs⟩ := List.any_eq_true.mp hw
      simp only [Bool.and_eq_true] at hs
      rw [hc e he hs.1.1] at hs
      exact Bool.noConfusion hs.2

/-- With FUA it waits for its pieces. -/
theorem State.admitted_later {s : State} {h : NvmeHdr} (hc : ∃ e ∈ s.nvme.cache, e.h = h ∧ e.completed = false ∧ e.fua = true) : s.admitted h = s := by
  obtain ⟨e, he, rfl, hcomp, hfua⟩ := hc
  exact if_pos (.inr (List.any_eq_true.mpr ⟨e, he, by rw [same_self, hcomp, hfua]; rfl⟩))

theorem State.submit_full {s : State} {es : List Extent} (hfull : ¬ (s.nvme.waiting = [] ∧ s.cacheRoom es = true)) :
    s.submit es = (s.bumpBy es.length).modNvme (fun n => { n with waiting := n.waiting ++ es }) := by
  unfold State.submit
  dsimp only
  rw [if_neg hfull]

theorem cachedBlk_pieces (s : State) (es : List Extent) (nsid f lba : Nat) :
    cachedBlk (s.cachePieces es).nvme.cache nsid f lba = (cachedBlk es nsid f lba).or (cachedBlk s.nvme.cache nsid f lba) := by
  show cachedBlk (s.nvme.cache ++ es.map s.admitOne) nsid f lba = _
  rw [cachedBlk_append, cachedBlk_map (m := s.admitOne) (fun _ _ _ => rfl) (fun _ _ _ => rfl)]

theorem begun.cacheRoom {s u : State} {h : NvmeHdr} (hb : begun s u h) (es : List Extent) : u.cacheRoom es = s.cacheRoom es := by
  unfold State.cacheRoom State.extents
  rw [hb.nvme]
  rfl

theorem begun.writeThrough {s u : State} {h : NvmeHdr} (hb : begun s u h) : u.writeThrough = s.writeThrough := by
  unfold State.writeThrough State.holeFree
  rw [hb.power, hb.frame.store_eq]

/-- From s to t the pieces of a command stand before what was cached. -/
def cachedOver (s t : State) (es : List Extent) : Prop := ∀ nsid f lba : Nat,
  cachedBlk t.nvme.cache nsid f lba = (cachedBlk es nsid f lba).or (cachedBlk s.nvme.cache nsid f lba)

theorem cachedOver.inside {s t : State} {es : List Extent} (h : cachedOver s t es) {nsid lba : Nat} {n : NsSt} {b : Blk} (hin : cachedBlk es nsid n.lbaf lba = some b) :
    t.blkAt nsid n lba = b := by
  rw [State.blkAt_eq, h, hin]
  rfl

theorem cachedOver.outside {s t : State} {es : List Extent} (h : cachedOver s t es) {nsid lba : Nat} {n : NsSt} (hout : cachedBlk es nsid n.lbaf lba = none) :
    t.blkAt nsid n lba = s.blkAt nsid n lba := by
  rw [State.blkAt_eq, State.blkAt_eq, h, hout]
  rfl

end Sys2Proof.Machine

namespace Sys2Proof.Proofs
-- One thread elaborates these proofs: in parallel they ask for more stacks than the check allows.
set_option Elab.async false
open Sys2Proof.Machine Sys2Proof.Claims

/-- A command whose pieces enter the cache completes at once without FUA (R317). -/
theorem submit_now {c : Instr} {s u : State} {h : NvmeHdr} {es : List Extent} {P : State → Prop} (hb : begun s u h) (hexec : exec c s = .next (u.submit es))
    (hwait : s.nvme.waiting = []) (hroom : s.cacheRoom es = true) (hne : es ≠ []) (hp : ∀ e ∈ es, piece e h false) (hwce : s.nvme.wce = true)
    (hthru : s.writeThrough = false) (hold : ∀ e ∈ s.nvme.cache, e.h.same h = false) (hP : ∀ t : State, t.nvme.ns = s.nvme.ns → cachedOver s t es → P t) :
    answered c s h nvOk 0 P := by
  have huwait : u.nvme.waiting = [] := by rw [hb.nvme]; exact hwait
  have hucache : u.nvme.cache = s.nvme.cache := by rw [hb.nvme]
  have hfua (e : Extent) (he : e ∈ (u.cachePieces es).nvme.cache) (hs : e.h.same h = true) : e.fua = false := by
    rcases List.mem_append.mp he with he | he
    · change e ∈ u.nvme.cache at he
      rw [hucache] at he
      rw [hold e he] at hs
      exact Bool.noConfusion hs
    · obtain ⟨x, hx, rfl⟩ := List.mem_map.mp he
      unfold State.admitOne
      rw [hb.writeThrough, hthru, hb.nvme, hwce, (hp x hx).fua]
      rfl
  rw [State.submit_room huwait (by rw [hb.cacheRoom]; exact hroom) hne (fun e he => (hp e he).h), State.admitted_now (s := u.cachePieces es) huwait hfua] at hexec
  refine answered_of hexec (by decide) hb.pending (hP _ ?_ (fun nsid f lba => ?_))
  · rw [State.nvDone_ok]
    show u.nvme.ns = _
    rw [hb.nvme]
  · rw [State.nvDone_ok]
    show cachedBlk ((u.cachePieces es).nvme.cache.map (completeOf h)) nsid f lba = _
    rw [cachedBlk_map (completeOf_covers h) (completeOf_blk h), cachedBlk_pieces, hucache]

/-- With FUA, or when every write must reach NAND, it waits for its pieces (R320, R321). -/
theorem submit_later {c : Instr} {s u : State} {h : NvmeHdr} {fua : Bool} {es : List Extent} (hb : begun s u h) (hexec : exec c s = .next (u.submit es))
    (hwait : s.nvme.waiting = []) (hroom : s.cacheRoom es = true) (hne : es ≠ []) (hp : ∀ e ∈ es, piece e h fua)
    (hthru : fua = true ∨ s.nvme.wce = false ∨ s.writeThrough = true) :
    ∃ t : State, exec c s = .next t ∧ t.nvme.out = s.nvme.out ∧ t.nvme.ns = s.nvme.ns ∧ cachedOver s t es ∧ ∃ o ∈ t.nvme.outstanding, o.1.same h = true := by
  have huwait : u.nvme.waiting = [] := by rw [hb.nvme]; exact hwait
  have hucache : u.nvme.cache = s.nvme.cache := by rw [hb.nvme]
  have hfua : ∃ e ∈ (u.cachePieces es).nvme.cache, e.h = h ∧ e.completed = false ∧ e.fua = true := by
    obtain ⟨e, he⟩ := List.exists_mem_of_ne_nil es hne
    refine ⟨u.admitOne e, List.mem_append_right _ (List.mem_map.mpr ⟨e, he, rfl⟩), (hp e he).h, (hp e he).completed, ?_⟩
    unfold State.admitOne
    rw [hb.writeThrough, hb.nvme, (hp e he).fua]
    rcases hthru with h | h | h
    · simp [h]
    · simp [h]
    · simp [h]
  rw [State.submit_room huwait (by rw [hb.cacheRoom]; exact hroom) hne (fun e he => (hp e he).h), State.admitted_later (s := u.cachePieces es) hfua] at hexec
  refine ⟨_, hexec, hb.out, ?_, fun nsid f lba => ?_, hb.mem⟩
  · show u.nvme.ns = _
    rw [hb.nvme]
  · rw [cachedBlk_pieces, hucache]

/-- Without locking ranges nothing is locked. -/
theorem lockHit_none {s : State} (hl : s.nvme.locks = []) (nsid slba nlb : Nat) :
    s.lockHit (fun l => l.readLocked) nsid slba nlb = false ∧ s.lockHit (fun l => l.writeLocked) nsid slba nlb = false := by
  unfold State.lockHit
  rw [hl]
  exact ⟨rfl, rfl⟩

theorem writeErr_none {s u : State} {h : NvmeHdr} {n : NsSt} (hb : begun s u h) (hr : Reaches s h n) (slba nlb : Nat) : u.writeErr h.nsid slba nlb = none := by
  obtain ⟨_, hhit⟩ := lockHit_none (s := u) (by rw [hb.nvme]; exact hr.unlocked) h.nsid slba nlb
  obtain ⟨hro, hfailed⟩ := hr.writable
  unfold State.writeErr
  rw [hhit, if_neg, if_neg Bool.false_ne_true]
  rw [hb.nvme, hb.power]
  simp [hro, hfailed]

/-- What a write does that passes its checks. -/
theorem write_exec {s : State} {h : NvmeHdr} {n : NsSt} {slba nlb prchk : Nat} {fua pract : Bool} {pi : PiArgs} {data : List Byte} (hr : Reaches s h n)
    (hin : inRange n slba nlb) (hlen : data.length = nlb * lbaData n.lbaf) {bs : List Blk}
    (hbs : bs = (List.range nlb).map (fun i => writeBlk n pract pi i (slice data (i * lbaData n.lbaf) (lbaData n.lbaf)))) :
    exec (.write h slba nlb fua pract prchk pi data) s = .next (match (if pract then none else firstMismatch n prchk pi bs) with
      | some st => (s.begin h 0x01).nvDone h st 0 slba
      | none => (s.begin h 0x01).submit (dataPieces h n fua s.nextId slba bs)) := by
  have hb := s.begin_begun h 0x01
  show execWrite _ _ _ _ _ _ _ _ s = _
  unfold execWrite
  rw [State.nvm_of hr.io hr.taken hr.noSanitize hr.ns hr.attached, rangeErr_none hin.1 hin.2.1 (fun _ => hin.2.2)]
  dsimp only
  rw [writeErr_none hb hr]
  dsimp only
  rw [if_neg (not_not.mpr hlen), ← hbs, hb.frame.nextId_eq] <;> rfl

theorem writeBlk_data (n : NsSt) (pract : Bool) (pi : PiArgs) (i : Nat) (d : List Byte) : (writeBlk n pract pi i d).data = d := by
  unfold writeBlk
  split
  · rfl
  · split <;> rfl

theorem writes_holds : writes := by
  intro h slba nlb prchk fua pi data n s hr hin hlen l bs room w holds
  have hb := s.begin_begun h 0x01
  have hexec : exec w s = .next ((s.begin h 0x01).submit (dataPieces h n fua s.nextId slba bs)) := write_exec hr hin hlen (bs := bs) rfl
  generalize s.begin h 0x01 = u at hb hexec
  have hnb : bs.length = nlb := by simp [bs]
  have hp (e : Extent) (he : e ∈ dataPieces h n fua s.nextId slba bs) : piece e h fua := (dataPieces_mem he).1
  have hne : dataPieces h n fua s.nextId slba bs ≠ [] := by
    obtain ⟨e, he, _⟩ := dataPieces_covers h n fua s.nextId slba (bs := bs) (i := 0) (by rw [hnb]; exact hin.1)
    exact List.ne_nil_of_mem he
  have hholds (t : State) (hns : t.nvme.ns = s.nvme.ns) (hover : cachedOver s t (dataPieces h n fua s.nextId slba bs)) : holds t := by
    obtain ⟨hread, hout⟩ := dataPieces_reads h n fua s.nextId slba bs n.lbaf
    refine ⟨fun i hi => ?_, fun m lba x hfar _ => ?_, hns⟩
    · rw [hover.inside (hread i (by rw [hnb]; exact hi)), List.getElem_map, List.getElem_range, writeBlk_data]
    · obtain ⟨_, hout⟩ := dataPieces_reads h n fua s.nextId slba bs x.lbaf
      exact hover.outside (hout m lba (by rw [hnb]; exact hfar))
  refine ⟨fun ⟨hwait, hroom⟩ hfua hwce hthru hold => ?_, fun ⟨hwait, hroom⟩ hlate => ?_, fun hfull => ?_⟩
  · subst hfua
    exact submit_now hb hexec hwait hroom hne hp hwce hthru hold hholds
  · obtain ⟨t, ht, hout, hns, hover, hpend⟩ := submit_later hb hexec hwait hroom hne hp hlate
    exact ⟨t, ht, hout, hholds t hns hover, hpend⟩
  · rw [State.submit_full] at hexec
    · refine ⟨_, hexec, hb.out, ?_, ?_, ?_, hb.mem⟩
      · show u.nvme.ns = _
        rw [hb.nvme]
      · show u.nvme.cache = _
        rw [hb.nvme]
      · show u.nvme.waiting ++ _ = _
        rw [hb.nvme]
    · rw [hb.cacheRoom, hb.nvme]
      exact hfull

theorem guardedWrites_holds : guardedWrites := by
  intro h slba fua pi data n s hr hin hlen hpi hmd happ hguard
  have hb := s.begin_begun h 0x01
  have hslice : slice data (0 * lbaData n.lbaf) (lbaData n.lbaf) = data := by
    unfold slice
    rw [Nat.zero_mul, List.drop_zero, ← hlen, List.take_length]
  have hexec := write_exec (prchk := 4) (fua := fua) (pract := false) (pi := pi) hr hin (by rw [hlen, Nat.one_mul])
    (bs := [writeBlk n false pi 0 data]) (by rw [show List.range 1 = [0] from rfl, List.map_singleton, hslice])
  have hmis : firstMismatch n 4 pi [writeBlk n false pi 0 data] = some nvGuard := by
    have hblk : writeBlk n false pi 0 data = { data := data, guard := pi.guards.getD 0 0, app := pi.appTags.getD 0 0, ref := pi.refTags.getD 0 0, place := 0 } := by
      unfold writeBlk
      rw [if_neg hmd, if_neg (fun h => Bool.noConfusion h.1)]
    have hpiece : piMismatch n 4 pi 0 (writeBlk n false pi 0 data) = some nvGuard := by
      rw [hblk]
      unfold piMismatch
      rw [if_neg hpi, if_neg (fun h => happ h.1), if_pos ⟨by decide, hguard⟩]
    unfold firstMismatch
    simp only [List.length_singleton, List.range_one, List.zip_cons_cons, List.zip_nil_right, List.findSome?_cons, hpiece]
  rw [hmis] at hexec
  obtain ⟨t, ht, hout, hns, hcache, hwait, _⟩ := turned_of hb hexec
  exact ⟨t, ht, hout, hcache, hwait, hns⟩

/-- A zeroed range of at most 8 MiB is one piece (R317). -/
theorem zeroPieces_one (h : NvmeHdr) (n : NsSt) (kind id slba : Nat) {nlb : Nat} (h0 : 0 < nlb) (hsize : nlb * lbaData n.lbaf ≤ 8388608) :
    zeroPieces h n kind false id slba nlb = [{ id := id, h := h, slba := slba, nlb := nlb, kind := kind, blocks := [], fua := false, completed := false, since := 0, dead := [] }] := by
  have hpos : 0 < lbaData n.lbaf := by
    unfold lbaData
    split <;> decide
  have hper : nlb ≤ 8388608 / lbaData n.lbaf := (Nat.le_div_iff_mul_le hpos).mpr hsize
  have hcut : cutRange (8388608 / lbaData n.lbaf) (nlb / (8388608 / lbaData n.lbaf) + 1) slba nlb = [(slba, nlb)] := by
    unfold cutRange
    rw [if_neg (Nat.ne_of_gt h0), Nat.min_eq_left hper, Nat.sub_self]
    generalize nlb / (8388608 / lbaData n.lbaf) = k
    cases k <;> rfl
  unfold zeroPieces
  dsimp only
  rw [hcut]
  rfl

/-- One piece of a zeroed range makes its blocks read as deallocated, and no other (R316, R317). -/
theorem zeroed_of {c : Instr} {s u : State} {h : NvmeHdr} {n : NsSt} {slba nlb : Nat} {e : Extent} (hb : begun s u h) (hexec : exec c s = .next (u.submit [e]))
    (hp : piece e h false) (hkind : e.kind ≠ 0) (hslba : e.slba = slba) (hnlb : e.nlb = nlb) (hbytes : e.bytes = 0) (hwait : s.nvme.waiting = []) (hwce : s.nvme.wce = true)
    (hthru : s.writeThrough = false) (hext : s.extents.length < 2048) (hcache : s.nvme.cacheBytes ≤ 1073741824) (hold : ∀ e ∈ s.nvme.cache, e.h.same h = false) :
    answered c s h nvOk 0 (fun t => (∀ i : Nat, i < nlb → t.blkAt h.nsid n (slba + i) = deallocBlk n.lbaf) ∧ elsewhere s t h.nsid n slba nlb) := by
  have hroom : s.cacheRoom [e] = true := by
    refine decide_eq_true ⟨hext, ?_⟩
    simp only [List.map_cons, List.map_nil, List.sum_cons, List.sum_nil, hbytes]
    exact hcache
  refine submit_now hb hexec hwait hroom (List.cons_ne_nil _ _) (fun x hx => ?_) hwce hthru hold (fun t hns hover => ⟨fun i hi => ?_, fun m lba x hfar _ => ?_⟩)
  · rw [List.mem_singleton.mp hx]
    exact hp
  · refine hover.inside (cachedBlk_some ⟨e, List.mem_singleton_self _, (covers_iff hp.dead _ _).mpr ⟨by rw [hp.h], by omega, by omega⟩⟩ (fun x hx _ => ?_))
    rw [List.mem_singleton.mp hx]
    exact if_neg hkind
  · refine hover.outside (cachedBlk_none (fun x hx => ?_) _)
    rw [List.mem_singleton.mp hx]
    refine Bool.eq_false_iff.mpr (fun hc => ?_)
    obtain ⟨hns, h1, h2⟩ := (covers_iff hp.dead _ _).mp hc
    rw [hp.h] at hns
    omega

theorem zeroes_holds : zeroes := by
  intro h slba nlb n s hr h0 hin hsize hwait hwce hthru hext hcache hold
  have hb8 := s.begin_begun h 0x08
  have hb9 := s.begin_begun h 0x09
  refine ⟨zeroed_of hb8 (e := { id := (s.begin h 0x08).nextId, h := h, slba := slba, nlb := nlb, kind := 1, blocks := [], fua := false, completed := false, since := 0, dead := [] }) ?_
    ⟨rfl, rfl, rfl, rfl⟩ Nat.one_ne_zero rfl rfl rfl hwait hwce hthru hext hcache hold,
    zeroed_of hb9 (e := { id := (s.begin h 0x09).nextId, h := h, slba := slba, nlb := nlb, kind := 2, blocks := [], fua := false, completed := false, since := 0, dead := [] }) ?_
      ⟨rfl, rfl, rfl, rfl⟩ (Nat.succ_ne_zero 1) rfl rfl rfl hwait hwce hthru hext hcache hold⟩
  · show execWriteZeroes _ _ _ _ s = _
    unfold execWriteZeroes
    rw [State.nvm_of hr.io hr.taken hr.noSanitize hr.ns hr.attached, rangeErr_none h0 hin (fun h => Bool.noConfusion h)]
    dsimp only
    rw [writeErr_none hb8 hr, zeroPieces_one h n 1 _ slba h0 hsize]
  · show execDatasetManagementDeallocate _ _ s = _
    unfold execDatasetManagementDeallocate
    rw [State.nvm_of hr.io hr.taken hr.noSanitize hr.ns hr.attached]
    dsimp only
    rw [if_neg (by simp), List.filter_cons_of_pos (by simpa using Nat.ne_of_gt h0), List.filter_nil, if_neg (by simpa using hin), List.findSome?_cons, writeErr_none hb9 hr,
      List.findSome?_nil]
    dsimp only
    unfold rangePieces rangePieces
    rw [List.isEmpty_cons, if_neg Bool.false_ne_true, zeroPieces_one h n 2 _ slba h0 hsize]
    rfl

end Sys2Proof.Proofs

namespace Sys2Proof.Machine
-- One thread elaborates these proofs: in parallel they ask for more stacks than the check allows.
set_option Elab.async false
open Sys2Proof.Claims

/-! ### Reads of a range (R315, R331, R332) -/

theorem begun.blkAt {s u : State} {h : NvmeHdr} (hb : begun s u h) (nsid : Nat) (n : NsSt) (lba : Nat) : u.blkAt nsid n lba = s.blkAt nsid n lba := by
  rw [State.blkAt_eq, State.blkAt_eq, hb.nvme]

/-- Without the shadow MBR a command sees the blocks. -/
theorem State.hostBlk_plain {s : State} (hoff : s.nvme.mbrOn = false) (nsid : Nat) (n : NsSt) (lba : Nat) : s.hostBlk nsid n lba = s.blkAt nsid n lba := by
  unfold State.hostBlk State.shadowed
  rw [hoff]
  rfl

/-- The drive after a function has been charged for what a read takes from NAND (Table 17-8). -/
def State.chargeRead (s : State) (h : NvmeHdr) (n : NsSt) (slba nlb : Nat) : State :=
  if s.codewords h.nsid n slba nlb = 0 then s else s.charge h.fn { Counts.zero with nread := 4096 * s.codewords h.nsid n slba nlb }

theorem State.chargeRead_frame (s : State) (h : NvmeHdr) (n : NsSt) (slba nlb : Nat) : Frame [.ledger, .freeCtr] s (s.chargeRead h n slba nlb) := by
  unfold State.chargeRead
  split
  · exact Frame.refl _ _
  · exact State.charge_frame _ _ _

/-- What the drive does with a range that is readable: it checks the blocks. -/
def State.checkBlocks (v : State) (h : NvmeHdr) (n : NsSt) (slba nlb prchk : Nat) (pi : PiArgs) (bs : List Blk) (f : State → List Blk → State) : State :=
  match ((List.range nlb).zip bs).find? (fun p => guardBad n p.2) with
  | some p => v.guardFault h p.2.place (slba + p.1)
  | none => match firstMismatch n prchk pi bs with
    | some st => v.nvDone h st 0 slba
    | none => f v bs

/-- The first block of a range that is lost on NAND (R332). -/
def State.lostBlock (s : State) (h : NvmeHdr) (n : NsSt) (slba nlb : Nat) : Option Nat :=
  ((List.range nlb).map (· + slba)).find? (fun l => s.onNand h.nsid n l && (tfind n.bad l).isSome)

theorem lostBlock_none {n : NsSt} (hbad : n.bad = []) (s : State) (h : NvmeHdr) (slba nlb : Nat) : s.lostBlock h n slba nlb = none := by
  unfold State.lostBlock
  rw [hbad]
  exact List.find?_eq_none.mpr (fun l _ => by rw [show (tfind ([] : Table Nat) l).isSome = false from rfl, Bool.and_false]; decide)

/-- Blocks without protection information pass every check. -/
theorem checkBlocks_plain {n : NsSt} (hpi : n.pi = 0) (v : State) (h : NvmeHdr) (slba nlb prchk : Nat) (pi : PiArgs) (bs : List Blk) (f : State → List Blk → State) :
    v.checkBlocks h n slba nlb prchk pi bs f = f v bs := by
  have hgood : ((List.range nlb).zip bs).find? (fun p => guardBad n p.2) = none := by
    refine List.find?_eq_none.mpr (fun p _ => ?_)
    unfold guardBad
    rw [hpi]
    exact Bool.false_ne_true
  have hmatch : firstMismatch n prchk pi bs = none := by
    refine List.findSome?_eq_none_iff.mpr (fun x _ => ?_)
    unfold piMismatch
    exact if_pos hpi
  unfold State.checkBlocks
  rw [hgood]
  dsimp only
  rw [hmatch]

/-- A block whose stored guard fails ends the command, and its NAND block is to be tested (R315). -/
theorem checkBlocks_guard {n : NsSt} {b : Blk} (hpi : n.pi ≠ 0) (hbad : b.guard ≠ guardOf n.lbaf b.data) (v : State) (h : NvmeHdr) (slba prchk : Nat) (pi : PiArgs)
    (f : State → List Blk → State) : v.checkBlocks h n slba 1 prchk pi [b] f = v.guardFault h b.place slba := by
  have hfound : ((List.range 1).zip [b]).find? (fun p => guardBad n p.2) = some (0, b) := by
    refine List.find?_cons_of_pos ?_
    unfold guardBad
    simp [hpi, hbad]
  unfold State.checkBlocks
  rw [hfound]
  rfl

theorem State.guardFault_out (s : State) (h : NvmeHdr) (place lba : Nat) : cplOf h nvGuard 0 ∈ (s.guardFault h place lba).nvme.out := by
  unfold State.guardFault
  rw [(State.logTest_frame _ _ _ _).nvme_eq]
  show _ ∈ (s.nvEnd h nvGuard 0).nvme.out
  unfold State.nvEnd
  rw [State.cpl_nvme]
  exact List.mem_append_right _ (List.mem_singleton_self _)

end Sys2Proof.Machine

namespace Sys2Proof.Proofs
-- One thread elaborates these proofs: in parallel they ask for more stacks than the check allows.
set_option Elab.async false
open Sys2Proof.Machine Sys2Proof.Claims

theorem readRange_open {s u : State} {h : NvmeHdr} {n : NsSt} (hb : begun s u h) (hr : Reaches s h n) (hrec : s.power.recovering = []) {slba nlb : Nat} {xfer : Bool}
    (hrange : n.rangeErr slba nlb xfer = none) (prchk : Nat) (pi : PiArgs) (f : State → List Blk → State) :
    (u.lostBlock h n slba nlb = none → u.readRange h n slba nlb prchk pi xfer f =
      (u.chargeRead h n slba nlb).checkBlocks h n slba nlb prchk pi ((List.range nlb).map (fun i => s.blkAt h.nsid n (slba + i))) f) ∧
    ∀ l : Nat, u.lostBlock h n slba nlb = some l → u.readRange h n slba nlb prchk pi xfer f = u.nvDoneAt h nvReadErr 0 l (tget 0 n.bad l) := by
  obtain ⟨hhit, _⟩ := lockHit_none (s := u) (by rw [hb.nvme]; exact hr.unlocked) h.nsid slba nlb
  have hrec3 : ¬ (u.power.recovering.contains 3 = true ∧ (((List.range nlb).map (· + slba)).any (fun l => u.onNand h.nsid n l)) = true) := by
    rw [hb.power]
    show ¬ (s.power.recovering.contains 3 = true ∧ _)
    rw [hrec]
    exact fun h => Bool.noConfusion h.1
  have hblks : (List.range nlb).map (fun i => u.hostBlk h.nsid n (slba + i)) = (List.range nlb).map (fun i => s.blkAt h.nsid n (slba + i)) :=
    List.map_congr_left (fun i _ => (State.hostBlk_plain (by rw [hb.nvme]; exact hr.noShadow) _ _ _).trans (hb.blkAt _ _ _))
  unfold State.readRange
  rw [hrange]
  dsimp only
  rw [hhit, if_neg Bool.false_ne_true, if_neg hrec3, ← hblks]
  refine ⟨fun hnone => ?_, fun l hl => ?_⟩
  · unfold State.lostBlock at hnone
    rw [hnone]
    rfl
  · unfold State.lostBlock at hl
    rw [hl]

theorem flushes_holds : flushes := by
  intro h n s hr hall waits
  have hb := s.begin_begun h 0x00
  have hmine : s.attachedTo h.fn h.nsid = true := by
    unfold State.attachedTo
    rw [hr.ns]
    exact List.contains_iff_mem.mpr hr.attached
  have hwaits : s.flushWaits (s.begin h 0x00) h = waits := by
    unfold State.flushWaits
    simp only [if_neg hall]
    rw [hb.nvme]
  have hexec := execFlush_eq h s
  rw [if_neg (by rw [hr.taken]; simp [hr.io]), if_neg (State.not_sanitizing hr.noSanitize), hmine, if_neg (fun h => Bool.noConfusion h.2), hwaits] at hexec
  generalize s.begin h 0x00 = u at hb hexec
  refine ⟨fun hnone => ?_, fun hsome => ?_⟩
  · rw [hnone, List.isEmpty_nil, if_pos rfl] at hexec
    exact answered_of hexec (by decide) hb.pending (hb.quiet (by decide) 0 0)
  · rw [if_neg (by simpa using hsome)] at hexec
    refine ⟨_, hexec, hb.out, ?_, ?_⟩
    · show u.nvme.cache = _
      rw [hb.nvme]
    · show u.nvme.flushes ++ _ = _
      rw [hb.nvme]

/-- A charge for a read leaves what is pending. -/
theorem pending_chargeRead {s u : State} {h : NvmeHdr} (hb : begun s u h) (n : NsSt) (slba nlb : Nat) : pendingOnly s (u.chargeRead h n slba nlb) h :=
  pendingOnly_of hb.pending (State.chargeRead_frame _ _ _ _ _).nvme_eq

/-- A command that ends where the controllers' state is as it began changes nothing else of it. -/
theorem quiet_after {s u v : State} {h : NvmeHdr} (hb : begun s u h) (hv : v.nvme = u.nvme) {st : NvmeSts} (hst : st.logged = false) (d0 lba : Nat) :
    quietNvme s h (v.nvDone h st d0 lba) := by
  unfold quietNvme
  rw [State.nvDone_ctl hst, State.nvDone_quiet hst, hv]
  exact ⟨(State.ctl_of_nvme (by rw [hv]) _).trans (hb.ctl _), by rw [hb.nvme], by rw [hb.nvme], by rw [hb.nvme]⟩

theorem compares_holds : compares := by
  intro h slba nlb pi d n s hr hin hrec hpi hbad data
  have hb5 := s.begin_begun h 0x05
  have hbC := s.begin_begun h 0x0C
  have hcompare : exec (.compare h slba nlb d) s = .next (((s.begin h 0x05).chargeRead h n slba nlb).nvDone h (if data = d then nvOk else nvCompare) 0 slba) := by
    show execCompare _ _ _ _ s = _
    unfold execCompare
    rw [State.nvm_of hr.io hr.taken hr.noSanitize hr.ns hr.attached,
      (readRange_open hb5 hr hrec (rangeErr_none hin.1 hin.2.1 (fun _ => hin.2.2)) 0 PiArgs.none _).1 (lostBlock_none hbad _ _ _ _), checkBlocks_plain hpi, List.flatMap_map]
  have hverify : exec (.verify h slba nlb 7 pi) s = .next (((s.begin h 0x0C).chargeRead h n slba nlb).nvDone h nvOk 0 slba) := by
    show execVerify _ _ _ _ _ s = _
    unfold execVerify
    rw [State.nvm_of hr.io hr.taken hr.noSanitize hr.ns hr.attached,
      (readRange_open hbC hr hrec (rangeErr_none hin.1 hin.2.1 (fun h => Bool.noConfusion h)) 7 pi _).1 (lostBlock_none hbad _ _ _ _), checkBlocks_plain hpi]
  refine ⟨fun hd => ?_, fun hd => ?_, ?_⟩
  · rw [if_pos hd.symm] at hcompare
    exact answered_of hcompare (by decide) (pending_chargeRead hb5 n slba nlb) (quiet_after hb5 (State.chargeRead_frame _ _ _ _ _).nvme_eq (by decide) 0 slba)
  · rw [if_neg (Ne.symm hd)] at hcompare
    obtain ⟨e, he, hsqid, hcid, hnsid⟩ := State.nvDoneAt_logged (st := nvCompare) (by decide) ((s.begin h 0x05).chargeRead h n slba nlb) h 0 slba 0
    refine ⟨_, hcompare, State.nvDone_out _ _ _ _ _, ?_, e, he, hcid, hsqid, hnsid⟩
    rw [State.nvDone_ns, (State.chargeRead_frame _ _ _ _ _).nvme_eq, hb5.nvme]
  · refine answered_of hverify (by decide) (pending_chargeRead hbC n slba nlb) ⟨quiet_after hbC (State.chargeRead_frame _ _ _ _ _).nvme_eq (by decide) 0 slba, ?_⟩
    exact ((State.nvDone_frame _ _ _ _ _).host_eq.trans (State.chargeRead_frame _ _ _ _ _).host_eq).trans hbC.frame.host_eq

/-- The drive after it has sent blocks and their metadata to the host. -/
def readBlocks (s : State) (n : NsSt) (dst mdst : Nat) (bs : List Blk) : State :=
  if n.ext then s.hostWrite dst (bs.flatMap (fun b => b.data ++ b.md n.lbaf))
  else (s.hostWrite dst (bs.flatMap (·.data))).hostWrite mdst (bs.flatMap (·.md n.lbaf))

theorem readBlocks_frame (s : State) (n : NsSt) (dst mdst : Nat) (bs : List Blk) : Frame [.host] s (readBlocks s n dst mdst bs) := by
  unfold readBlocks
  split
  · exact State.hostWrite_frame _ _ _
  · exact (State.hostWrite_frame _ _ _).after (State.hostWrite_frame _ _ _) rfl

/-- Of a format without metadata the data alone is sent. -/
theorem readBlocks_plain {n : NsSt} (hmd : lbaMd n.lbaf = 0) (s : State) (dst mdst : Nat) (bs : List Blk) :
    (readBlocks s n dst mdst bs).host = mwrite s.host dst (bs.flatMap (·.data)) := by
  have hnone (b : Blk) : b.md n.lbaf = [] := by
    unfold Blk.md
    rw [if_neg (fun h4 => by rw [h4] at hmd; exact absurd hmd (by decide)), if_neg (by rw [hmd]; decide)]
  unfold readBlocks
  simp only [hnone, List.append_nil]
  split
  · rfl
  · rw [show bs.flatMap (fun _ => ([] : List Byte)) = [] by simp]
    rfl

theorem reads_holds : reads := by
  intro h slba nlb dst mdst pi n s hr hin hrec blk data
  have hb := s.begin_begun h 0x02
  have hexec : exec (.read h slba nlb false 0 pi dst mdst) s = .next ((s.begin h 0x02).readRange h n slba nlb 0 pi true (fun s bs => (readBlocks s n dst mdst bs).nvDone h nvOk 0 slba)) :=
    congrArg Host.Outcome.next ((State.nvm_of hr.io hr.taken hr.noSanitize hr.ns hr.attached 0x02 slba _).trans rfl)
  obtain ⟨hopen, hlost⟩ := readRange_open hb hr hrec (rangeErr_none (xfer := true) hin.1 hin.2.1 (fun _ => hin.2.2)) 0 pi (fun s bs => (readBlocks s n dst mdst bs).nvDone h nvOk 0 slba)
  generalize s.begin h 0x02 = u at hb hexec hopen hlost
  have hcharge := State.chargeRead_frame u h n slba nlb
  refine ⟨fun hmd hpi hbad hwf => ?_, fun hpi hbad hone hguard => ?_, fun addr hone hcached hmedia hbad => ?_⟩
  · rw [hopen (lostBlock_none hbad _ _ _ _), checkBlocks_plain hpi] at hexec
    have hframe := (hcharge.mono (cs := [.ledger, .freeCtr, .host]) rfl).after (readBlocks_frame _ n dst mdst ((List.range nlb).map (fun i => s.blkAt h.nsid n (slba + i)))) rfl
    have hhost := readBlocks_plain hmd (u.chargeRead h n slba nlb) dst mdst ((List.range nlb).map (fun i => s.blkAt h.nsid n (slba + i)))
    rw [hcharge.host_eq, hb.frame.host_eq, List.flatMap_map] at hhost
    generalize readBlocks _ n dst mdst _ = v at hexec hframe hhost
    refine answered_of hexec (by decide) (pendingOnly_of hb.pending hframe.nvme_eq) ⟨?_, fun a hout => ?_, ?_⟩
    · rw [(State.nvDone_frame _ _ _ _ _).host_eq, hhost]
      exact mread_mwrite dst data hwf
    · rw [(State.nvDone_frame _ _ _ _ _).host_eq, hhost]
      exact mget_mwrite_other _ _ _ hout
    · exact quiet_after hb hframe.nvme_eq (by decide) 0 slba
  · subst hone
    rw [hopen (lostBlock_none hbad _ _ _ _), show List.range 1 = [0] from rfl, List.map_singleton, checkBlocks_guard hpi hguard] at hexec
    refine ⟨_, hexec, ?_, ?_, State.startTest_mem _ _ _ _ _⟩
    · exact State.guardFault_out _ _ _ _
    · exact ((State.guardFault_frame _ _ _ _).host_eq.trans hcharge.host_eq).trans hb.frame.host_eq
  · subst hone
    have hfound : u.lostBlock h n slba 1 = some slba := by
      have hucached : u.cached h.nsid slba = none := by
        unfold State.cached
        rw [hb.nvme]
        exact hcached
      unfold State.lostBlock State.onNand
      rw [show (List.range 1).map (· + slba) = [slba] by simp]
      exact List.find?_cons_of_pos (by rw [hucached, hmedia, hbad]; rfl)
    rw [hlost slba hfound] at hexec
    refine ⟨_, hexec, ?_, (State.nvDoneAt_frame _ _ _ _ _ _).host_eq.trans hb.frame.host_eq⟩
    rw [State.nvDoneAt_nvme]
    exact List.mem_append_right _ (List.mem_singleton_self _)

/-- Settles O54. -/
theorem nvmeReadsAndWrites : Obligations.NvmeReadsAndWrites :=
  ⟨turnedAway_holds, writes_holds, guardedWrites_holds, reads_holds, compares_holds, zeroes_holds, flushes_holds⟩

end Sys2Proof.Proofs

/-! Values on the grid of a format (R113, R114): O60. -/

namespace Sys2Proof.Machine
-- One thread elaborates these proofs: in parallel they ask for more stacks than the check allows.
set_option Elab.async false
open Sys2Proof.Claims

/-! ### A value on the grid is a multiple without rest -/

/-- The grid of a value k × 2^x with the full precision, or at the smallest step, is 2^x. -/
theorem gridExp_of {a b k prec : Nat} {x lsb : Int} (ha : 0 < a) (hb : 0 < b) (hval : (a : ℚ) / b = k * 2 ^ x) (hp : 1 ≤ prec) (hk : k < 2 ^ prec) (hx : lsb ≤ x)
    (hfull : x = lsb ∨ 2 ^ (prec - 1) ≤ k) : gridExp prec lsb a b = x := by
  have hpos : (0 : ℚ) < 2 ^ x := by positivity
  have hlow := zpow_floorLog2_le ha hb
  have hhigh := div_lt_zpow_floorLog2 (a := a) hb
  rw [hval] at hlow hhigh
  have hle : floorLog2 a b < (prec : Int) + x := by
    have hkq : (k : ℚ) < 2 ^ (prec : Int) := by rw [zpow_natCast]; exact_mod_cast hk
    refine (zpow_lt_zpow_iff_right₀ (one_lt_two (α := ℚ))).mp (hlow.trans_lt ?_)
    rw [zpow_add₀ two_ne_zero]
    exact mul_lt_mul_of_pos_right hkq hpos
  unfold gridExp
  rcases hfull with rfl | hfull
  · omega
  · have hge : ((prec - 1 : Nat) : Int) + x < floorLog2 a b + 1 := by
      have hkq : (2 : ℚ) ^ ((prec - 1 : Nat) : Int) ≤ k := by rw [zpow_natCast]; exact_mod_cast hfull
      refine (zpow_lt_zpow_iff_right₀ (one_lt_two (α := ℚ))).mp (lt_of_le_of_lt ?_ hhigh)
      rw [zpow_add₀ two_ne_zero]
      exact mul_le_mul_of_nonneg_right hkq hpos.le
    omega

/-- R113, R114: a value on the grid is not rounded, with or without a draw. -/
theorem roundMag_grid {a b k prec : Nat} {x lsb : Int} (draw : Option Nat) (ha : 0 < a) (hb : 0 < b) (hval : (a : ℚ) / b = k * 2 ^ x) (hp : 1 ≤ prec) (hk : k < 2 ^ prec)
    (hx : lsb ≤ x) (hfull : x = lsb ∨ 2 ^ (prec - 1) ≤ k) : roundMag prec lsb draw a b = (k, x) := by
  have hgrid := gridExp_of ha hb hval hp hk hx hfull
  have hd : 0 < unitDen b x := unitDen_pos hb x
  have hunits : unitNum a x = k * unitDen b x := by
    have hq := unitNum_div_unitDen a b x
    rw [hval, mul_div_assoc, div_self (by positivity), mul_one, div_eq_iff (by exact_mod_cast hd.ne')] at hq
    exact_mod_cast hq
  have hnum : (if 0 ≤ x then a else a * 2 ^ (-x).toNat) = unitNum a x := by
    unfold unitNum
    split
    · simp [Int.toNat_of_nonpos (show -x ≤ 0 by omega)]
    · rfl
  have hden : (if 0 ≤ x then b * 2 ^ x.toNat else b) = unitDen b x := by
    unfold unitDen
    split
    · rfl
    · simp [Int.toNat_of_nonpos (show x ≤ 0 by omega)]
  unfold gridExp at hgrid
  have hquot : unitNum a x / unitDen b x = k := by rw [hunits, Nat.mul_div_cancel _ hd]
  have hrest : unitNum a x % unitDen b x = 0 := by rw [hunits, Nat.mul_mod_left]
  simp only [roundMag, show ¬(a = 0 ∨ b = 0) by omega, if_false, hgrid, hnum, hden, hquot, hrest]
  cases draw with
  | none => simp [hd.ne']
  | some i => simp

end Sys2Proof.Machine

namespace Sys2Proof.Machine
-- One thread elaborates these proofs: in parallel they ask for more stacks than the check allows.
set_option Elab.async false
open Sys2Proof.Claims

/-- A dyadic number as a fraction: its magnitude and its sign. -/
theorem ofDyadic_spec {m : Int} (hm : m ≠ 0) (x : Int) : 0 < (Frac.ofDyadic m x).num.natAbs ∧ 0 < (Frac.ofDyadic m x).den ∧
    ((Frac.ofDyadic m x).num.natAbs : ℚ) / (Frac.ofDyadic m x).den = m.natAbs * 2 ^ x ∧ ((Frac.ofDyadic m x).num < 0 ↔ m < 0) := by
  have hpos : 0 < m.natAbs := Int.natAbs_pos.mpr hm
  unfold Frac.ofDyadic
  split
  · next hx =>
    have hpow : (0 : Int) < 2 ^ x.toNat := by positivity
    have habs : (m * 2 ^ x.toNat).natAbs = m.natAbs * 2 ^ x.toNat := by simp [Int.natAbs_mul, Int.natAbs_pow]
    refine ⟨?_, Nat.one_pos, ?_, ?_⟩
    · show 0 < (m * 2 ^ x.toNat).natAbs
      rw [habs]
      positivity
    · show ((m * 2 ^ x.toNat).natAbs : ℚ) / (1 : Nat) = _
      rw [habs, Nat.cast_one, div_one, Nat.cast_mul, Nat.cast_pow, Nat.cast_two, ← zpow_natCast, Int.toNat_of_nonneg hx]
    · exact ⟨fun h => neg_of_mul_neg_left h hpow.le, fun h => mul_neg_of_neg_of_pos h hpow⟩
  · next hx =>
    refine ⟨hpos, Nat.two_pow_pos _, ?_, Iff.rfl⟩
    show (m.natAbs : ℚ) / ((2 ^ (-x).toNat : Nat) : ℚ) = _
    rw [Nat.cast_pow, Nat.cast_two, ← zpow_natCast, Int.toNat_of_nonneg (by omega), zpow_neg, div_inv_eq_mul]

/-- A value on the grid of a format, and in its range, is written as it is. -/
theorem round_grid {fmt : Nat} {m x : Int} (draw : Option Nat) (hm : m ≠ 0) (hp : 1 ≤ (outParams fmt).1) (hk : m.natAbs < 2 ^ (outParams fmt).1)
    (hr : InRange fmt m.natAbs x) (hfull : x = (outParams fmt).2.1 ∨ 2 ^ ((outParams fmt).1 - 1) ≤ m.natAbs) :
    Frac.round fmt draw (Frac.ofDyadic m x) = { code := encodeElem fmt (decide (m < 0)) m.natAbs x, sat := false, flushed := false } := by
  obtain ⟨hnum, hden, hval, hsign⟩ := ofDyadic_spec hm x
  have hmag := roundMag_grid draw hnum hden hval hp hk hr.exp hfull
  unfold Frac.round
  rw [roundTo_pos _ _ _ _ hnum, hmag, if_neg (by rw [hr.small]; decide)]
  simp [hsign, hm]

/-! ### Integer formats -/

theorem ofSigned_toSigned {w n : Nat} (h : n < 2 ^ w) : ofSigned w (toSigned w n) = n := by
  have hn : ((n : Int) % 2 ^ w) = n := Int.emod_eq_of_lt (Int.natCast_nonneg n) (by exact_mod_cast h)
  unfold ofSigned
  rw [toSigned_of_lt h]
  split
  · rw [hn]
    rfl
  · rw [Int.sub_emod_right, hn]
    rfl

theorem natAbs_sign (m : Int) : (if decide (m < 0) = true then -(m.natAbs : Int) else m.natAbs) = m := by
  simp only [decide_eq_true_eq]
  split <;> omega

theorem int_grid {fmt code : Nat} (draw : Option Nat) (hint : fmt = 1 ∨ fmt = 2 ∨ fmt = 8) (hcode : code < 2 ^ elemBits fmt) (hm : toSigned (elemBits fmt) code ≠ 0)
    (hmin : code ≠ 2 ^ (elemBits fmt - 1)) :
    Frac.round fmt draw (Frac.ofDyadic (toSigned (elemBits fmt) code) 0) = { code := code, sat := false, flushed := false } := by
  have hparams : (outParams fmt).1 = 400 ∧ (outParams fmt).2.1 = 0 ∧ (outParams fmt).2.2.1 = 2 ^ (elemBits fmt - 1) - 1 ∧ (outParams fmt).2.2.2 = 0 ∧
      0 < elemBits fmt ∧ elemBits fmt ≤ 16 := by
    rcases hint with rfl | rfl | rfl <;> exact ⟨rfl, rfl, rfl, rfl, by decide, by decide⟩
  obtain ⟨hprec, hlsb, htop, hexp, hw0, hw16⟩ := hparams
  have hsmall : (toSigned (elemBits fmt) code).natAbs ≤ 2 ^ (elemBits fmt - 1) - 1 := by
    have hpow : 2 ^ elemBits fmt = 2 * 2 ^ (elemBits fmt - 1) := by rw [← pow_succ', Nat.sub_add_cancel hw0]
    rw [toSigned_of_lt hcode]
    have hcast : (2 : Int) ^ elemBits fmt = ((2 ^ elemBits fmt : Nat) : Int) := by push_cast; rfl
    rw [hcast]
    generalize 2 ^ (elemBits fmt - 1) = p at *
    generalize 2 ^ elemBits fmt = q at *
    split <;> omega
  have hlt : (toSigned (elemBits fmt) code).natAbs < 2 ^ (outParams fmt).1 := by
    have h1 : 2 ^ (elemBits fmt - 1) ≤ 2 ^ (outParams fmt).1 := Nat.pow_le_pow_right two_pos (by omega)
    have h2 := Nat.two_pow_pos (elemBits fmt - 1)
    omega
  rw [round_grid draw hm (by omega) hlt ⟨hlt.le, hlsb.le, ?_⟩ (.inl hlsb.symm)]
  · have hcoded : encodeElem fmt (decide (toSigned (elemBits fmt) code < 0)) (toSigned (elemBits fmt) code).natAbs 0 = code := by
      rw [encodeElem_int hint, Int.toNat_zero, pow_zero, mul_one, natAbs_sign, ofSigned_toSigned hcode]
    rw [hcoded]
  · unfold above
    rw [htop, hexp, if_pos le_rfl, Int.toNat_zero, pow_zero, mul_one, mul_one]
    exact decide_eq_false (Nat.not_lt.mpr hsmall)

/-! ### Floating-point formats -/

/-- The largest exponent of a format, as its field. -/
def topField (fmt : Nat) : Nat := ((topOf fmt).2 - (outParams fmt).2.1 + 1).toNat

theorem finite_of {α : Type} {c : Prop} [Decidable c] {x p : α} (h : (if c then none else some x) = some p) : ¬ c ∧ p = x := by
  split at h
  · cases h
  · next hc => exact ⟨hc, (Option.some.inj h).symm⟩

/-- The fields of a code that is finite: its exponent is at most the largest one, and at that its mantissa is at most the largest one. -/
theorem decodeElem_float {fmt code : Nat} {p : Int × Int} (h3 : 3 ≤ fmt) (h7 : fmt ≤ 7) (hp : decodeElem fmt code = some p) :
    p = decodeFloat (elemBits fmt) (manBits fmt) (outParams fmt).2.1 code ∧
    code / 2 ^ manBits fmt % 2 ^ (elemBits fmt - 1 - manBits fmt) ≤ topField fmt ∧
    (code / 2 ^ manBits fmt % 2 ^ (elemBits fmt - 1 - manBits fmt) = topField fmt → 2 ^ manBits fmt + code % 2 ^ manBits fmt ≤ (topOf fmt).1) := by
  interval_cases fmt
  · obtain ⟨hfin, hp⟩ := finite_of (show (if code % 128 = 127 then none else some (decodeFloat 8 3 (-9) code)) = some p from hp)
    refine ⟨hp, ?_, ?_⟩
    · show code / 8 % 16 ≤ 15
      omega
    · show code / 8 % 16 = 15 → 8 + code % 8 ≤ 14
      omega
  · obtain ⟨hfin, hp⟩ := finite_of (show (if code / 4 % 32 = 31 then none else some (decodeFloat 8 2 (-16) code)) = some p from hp)
    refine ⟨hp, ?_, ?_⟩
    · show code / 4 % 32 ≤ 30
      omega
    · show code / 4 % 32 = 30 → 4 + code % 4 ≤ 7
      omega
  · refine ⟨(Option.some.inj hp).symm, ?_, ?_⟩
    · show code / 2 % 4 ≤ 3
      omega
    · show code / 2 % 4 = 3 → 2 + code % 2 ≤ 3
      omega
  · obtain ⟨hfin, hp⟩ := finite_of (show (if code / 128 % 256 = 255 then none else some (decodeFloat 16 7 (-133) code)) = some p from hp)
    refine ⟨hp, ?_, ?_⟩
    · show code / 128 % 256 ≤ 254
      omega
    · show code / 128 % 256 = 254 → 128 + code % 128 ≤ 255
      omega
  · obtain ⟨hfin, hp⟩ := finite_of (show (if code / 2 ^ 23 % 256 = 255 then none else some (decodeFloat 32 23 (-149) code)) = some p from hp)
    refine ⟨hp, ?_, ?_⟩
    · show code / 8388608 % 256 ≤ 254
      omega
    · show code / 8388608 % 256 = 254 → 8388608 + code % 8388608 ≤ 16777215
      omega

/-- The bits of a code: its mantissa, its exponent and its sign. -/
theorem code_fields {w man code : Nat} (hw : man + 1 ≤ w) (hcode : code < 2 ^ w) :
    code = code % 2 ^ man + code / 2 ^ man % 2 ^ (w - 1 - man) * 2 ^ man + if bit code (w - 1) = true then 2 ^ (w - 1) else 0 := by
  have hmag : code % 2 ^ (w - 1) = code % 2 ^ man + code / 2 ^ man % 2 ^ (w - 1 - man) * 2 ^ man := by
    rw [show 2 ^ (w - 1) = 2 ^ man * 2 ^ (w - 1 - man) by rw [← pow_add, Nat.add_sub_cancel' (by omega)], Nat.mod_mul, Nat.mul_comm (2 ^ man)]
  have hsign : code / 2 ^ (w - 1) < 2 := by
    rw [Nat.div_lt_iff_lt_mul (Nat.two_pow_pos _), ← pow_succ', Nat.sub_add_cancel (by omega)]
    exact hcode
  have hsplit := Nat.mod_add_div code (2 ^ (w - 1))
  rw [hmag] at hsplit
  unfold bit
  rcases Nat.lt_succ_iff_lt_or_eq.mp hsign with h | h
  · rw [Nat.lt_one_iff.mp h] at hsplit ⊢
    simpa using hsplit.symm
  · rw [h] at hsplit ⊢
    simpa using hsplit.symm

/-- A magnitude with a sign. -/
theorem signed_magnitude (b : Bool) {k : Nat} (hk : 0 < k) : ((if b = true then -1 else 1) * (k : Int)).natAbs = k ∧ decide ((if b = true then -1 else 1) * (k : Int) < 0) = b := by
  cases b
  · simp
  · simpa using hk

/-- A value of at most the largest exponent, and at that of at most the largest mantissa, is in range. -/
theorem inRange_float {fmt k : Nat} {x : Int} (h3 : 3 ≤ fmt) (h7 : fmt ≤ 7) (hk : k < 2 ^ (manBits fmt + 1)) (hx : (outParams fmt).2.1 ≤ x) (hle : x ≤ (topOf fmt).2)
    (htop : x = (topOf fmt).2 → k ≤ (topOf fmt).1) : InRange fmt k x := by
  obtain ⟨hprec, -, hmax, hM, -, hE⟩ := topOf_float h3 h7
  have hpow : 2 ^ (manBits fmt + 1) = 2 ^ manBits fmt * 2 := pow_succ _ _
  refine ⟨by rw [hprec]; exact hk.le, hx, ?_⟩
  unfold above
  rw [hmax]
  split
  · next h0 =>
    refine decide_eq_false (Nat.not_lt.mpr ?_)
    by_cases heq : x = (topOf fmt).2
    · rw [heq, Int.toNat_natCast]
      exact Nat.mul_le_mul_right _ (htop heq)
    · calc k * 2 ^ x.toNat ≤ 2 ^ manBits fmt * 2 * 2 ^ x.toNat := Nat.mul_le_mul_right _ (by omega)
        _ = 2 ^ manBits fmt * 2 ^ (x.toNat + 1) := by rw [pow_succ]; ring
        _ ≤ (topOf fmt).1 * 2 ^ (topOf fmt).2 := Nat.mul_le_mul hM (Nat.pow_le_pow_right two_pos (by omega))
  · next h0 =>
    refine decide_eq_false (Nat.not_lt.mpr ?_)
    have hstep : 2 ≤ 2 ^ (topOf fmt).2 := Nat.le_self_pow hE.ne' 2
    calc k ≤ 2 ^ manBits fmt * 2 := by omega
      _ ≤ (topOf fmt).1 * 2 ^ (topOf fmt).2 := Nat.mul_le_mul hM hstep
      _ ≤ (topOf fmt).1 * 2 ^ (topOf fmt).2 * 2 ^ (-x).toNat := Nat.le_mul_of_pos_right _ (Nat.two_pow_pos _)

theorem floatMag_of_ne {fmt k : Nat} (hk : k ≠ 2 ^ (manBits fmt + 1)) (x : Int) : floatMag fmt k x =
    if k < 2 ^ manBits fmt then k else (x - (outParams fmt).2.1 + 1).toNat * 2 ^ manBits fmt + (k - 2 ^ manBits fmt) := by
  simp only [floatMag, hk, if_false]

theorem float_grid {fmt code : Nat} (draw : Option Nat) (h3 : 3 ≤ fmt) (h7 : fmt ≤ 7) (hcode : code < 2 ^ elemBits fmt) {m x : Int} (hp : decodeElem fmt code = some (m, x))
    (hm : m ≠ 0) : Frac.round fmt draw (Frac.ofDyadic m x) = { code := code, sat := false, flushed := false } := by
  obtain ⟨hfields, hfield, htopm⟩ := decodeElem_float h3 h7 hp
  obtain ⟨hprec, hlsb, hmax, hM, hM', hE⟩ := topOf_float h3 h7
  have hwidth : manBits fmt + 1 ≤ elemBits fmt := by interval_cases fmt <;> decide
  have hbits := code_fields hwidth hcode
  have hmant : code % 2 ^ manBits fmt < 2 ^ manBits fmt := Nat.mod_lt _ (Nat.two_pow_pos _)
  have hpow : 2 ^ (manBits fmt + 1) = 2 ^ manBits fmt * 2 := pow_succ _ _
  unfold decodeFloat at hfields
  dsimp only at hfields
  unfold topField at hfield htopm
  generalize code % 2 ^ manBits fmt = M at *
  generalize code / 2 ^ manBits fmt % 2 ^ (elemBits fmt - 1 - manBits fmt) = e at *
  have hwrite {k : Nat} (hk : 0 < k) (hkM : k < 2 ^ (manBits fmt + 1)) (hmk : m = (if bit code (elemBits fmt - 1) = true then -1 else 1) * (k : Int)) (hr : InRange fmt k x)
      (hfull : x = (outParams fmt).2.1 ∨ 2 ^ manBits fmt ≤ k) (hmag : floatMag fmt k x = M + e * 2 ^ manBits fmt) :
      Frac.round fmt draw (Frac.ofDyadic m x) = { code := code, sat := false, flushed := false } := by
    obtain ⟨habs, hneg⟩ := signed_magnitude (bit code (elemBits fmt - 1)) hk
    rw [← hmk] at habs hneg
    rw [round_grid draw hm (by omega) (by rw [habs, hprec]; exact hkM) (by rw [habs]; exact hr) (by rw [habs, hprec, Nat.add_sub_cancel]; exact hfull), habs, hneg,
      encodeElem_float h3 h7, hmag, ← hbits]
  split at hfields
  · next h0 =>
    obtain ⟨rfl, rfl⟩ := Prod.mk.inj hfields
    have hM0 : 0 < M := Nat.pos_of_ne_zero (fun h => hm (by rw [h]; simp))
    refine hwrite hM0 (by omega) rfl (inRange_float h3 h7 (by omega) le_rfl (by omega) (fun h => by omega)) (.inl rfl) ?_
    rw [floatMag_of_ne (by omega), if_pos hmant, h0, Nat.zero_mul, Nat.add_zero]
  · next h0 =>
    obtain ⟨rfl, rfl⟩ := Prod.mk.inj hfields
    refine hwrite (k := 2 ^ manBits fmt + M) (by omega) (by omega) rfl (inRange_float h3 h7 (by omega) (by omega) (by omega) (fun h => htopm (by omega))) (.inr (by omega)) ?_
    rw [floatMag_of_ne (by omega), if_neg (by omega), show ((outParams fmt).2.1 + (e : Int) - 1 - (outParams fmt).2.1 + 1).toNat = e by omega]
    omega

end Sys2Proof.Machine

namespace Sys2Proof.Proofs
-- One thread elaborates these proofs: in parallel they ask for more stacks than the check allows.
set_option Elab.async false
open Sys2Proof.Machine Sys2Proof.Claims

/-- Settles O60, by the formats: an integer is its own quotient, a finite floating-point value has at most as many bits as its mantissa. -/
theorem gridValues : Obligations.GridValues := by
  intro fmt code m x draw h1 h8 hcode hp hm hmin
  by_cases hint : fmt = 1 ∨ fmt = 2 ∨ fmt = 8
  · have hdec : decodeElem fmt code = some (toSigned (elemBits fmt) code, 0) := by
      rcases hint with rfl | rfl | rfl <;> rfl
    obtain ⟨rfl, rfl⟩ := Prod.mk.inj (Option.some.inj (hdec.symm.trans hp))
    exact int_grid draw hint hcode hm (hmin hint)
  · exact float_grid draw (by omega) (by omega) hcode hp hm

end Sys2Proof.Proofs
